-- ==== Sys2Proof/Word.lean ====
section
/-! DEFINITION. Sys2Proof/Word.lean: the word types of the machine. -/

namespace Sys2Proof

/-- A 64-bit register value or a virtual address (R15). -/
abbrev Word := BitVec 64

/-- A byte of memory. -/
abbrev Byte := BitVec 8

/-- One lane of a vector register (R15). -/
abbrev Lane := BitVec 32

/-- An instruction word (R55). -/
abbrev InstrWord := BitVec 32
/-- The three engine sequencers (R8). The number is the one that the words use (Table 01.3). -/
inductive Eng where
  | l
  | c
  | t
  deriving DecidableEq, Repr, Inhabited

/-- The sequencers with a program counter: S, L, C, T and the Husk context on S (Table 01.1). -/
inductive Seq where
  | s
  | l
  | c
  | t
  | husk
  deriving DecidableEq, Repr, Inhabited

/-- The sequencer of an engine. -/
def Eng.seq : Eng → Seq
  | .l => .l
  | .c => .c
  | .t => .t

end Sys2Proof
end

