-- ==== Sys2Proof/Syntax.lean ====
section
/-! DEFINITION. Sys2Proof/Syntax.lean: the instructions, one constructor for each row of the opcode table.
The words of spec/03 to 15 come first, those of the R and M spaces last among them; the steps that have no encoding (spec/95) carry the
operands that say which agent, operation or command the step is about. Operand names are the table's field names;
`pr` is a guard predicate and `pip` the four pip bits. -/

namespace Sys2Proof

/-- The instructions and steps of the opcode table. -/
inductive Instr where
  /-- ADD (R75): Writes gd with ga + gb modulo 2^64. -/
  | add (d : BitVec 5) (a : BitVec 5) (b : BitVec 5) (pr : BitVec 3)
  /-- SUB (R75): Writes gd with ga - gb modulo 2^64. -/
  | sub (d : BitVec 5) (a : BitVec 5) (b : BitVec 5) (pr : BitVec 3)
  /-- AND (R75): Writes gd with the bitwise AND of ga and gb. -/
  | and (d : BitVec 5) (a : BitVec 5) (b : BitVec 5) (pr : BitVec 3)
  /-- OR (R75): Writes gd with the bitwise OR of ga and gb. -/
  | or (d : BitVec 5) (a : BitVec 5) (b : BitVec 5) (pr : BitVec 3)
  /-- XOR (R75): Writes gd with the bitwise XOR of ga and gb. -/
  | xor (d : BitVec 5) (a : BitVec 5) (b : BitVec 5) (pr : BitVec 3)
  /-- SLL (R75): Shifts ga left by gb[5:0]. -/
  | sll (d : BitVec 5) (a : BitVec 5) (b : BitVec 5) (pr : BitVec 3)
  /-- SRL (R75): Shifts ga right by gb[5:0], with zeros shifted in. -/
  | srl (d : BitVec 5) (a : BitVec 5) (b : BitVec 5) (pr : BitVec 3)
  /-- SRA (R75): Shifts ga right by gb[5:0], with the sign bit shifted in. -/
  | sra (d : BitVec 5) (a : BitVec 5) (b : BitVec 5) (pr : BitVec 3)
  /-- MUL (R75): Writes gd with the low 64 bits of ga × gb. -/
  | mul (d : BitVec 5) (a : BitVec 5) (b : BitVec 5) (pr : BitVec 3)
  /-- MULH (R75): Writes gd with the high 64 bits of the signed 128-bit product. -/
  | mulh (d : BitVec 5) (a : BitVec 5) (b : BitVec 5) (pr : BitVec 3)
  /-- MULHZ (R75): Writes gd with the high 64 bits of the unsigned 128-bit product. -/
  | mulhz (d : BitVec 5) (a : BitVec 5) (b : BitVec 5) (pr : BitVec 3)
  /-- DIV (R76): Writes gd with the signed quotient rounded toward zero; the corner cases take stated values. -/
  | div (d : BitVec 5) (a : BitVec 5) (b : BitVec 5) (pr : BitVec 3)
  /-- DIVZ (R76): Writes gd with the unsigned quotient; a zero divisor gives 2^64 - 1. -/
  | divz (d : BitVec 5) (a : BitVec 5) (b : BitVec 5) (pr : BitVec 3)
  /-- REM (R76): Writes gd with the signed remainder, which takes the sign of ga. -/
  | rem (d : BitVec 5) (a : BitVec 5) (b : BitVec 5) (pr : BitVec 3)
  /-- REMZ (R76): Writes gd with the unsigned remainder. -/
  | remz (d : BitVec 5) (a : BitVec 5) (b : BitVec 5) (pr : BitVec 3)
  /-- MIN (R75): Writes gd with the signed minimum of ga and gb. -/
  | min (d : BitVec 5) (a : BitVec 5) (b : BitVec 5) (pr : BitVec 3)
  /-- MAX (R75): Writes gd with the signed maximum of ga and gb. -/
  | max (d : BitVec 5) (a : BitVec 5) (b : BitVec 5) (pr : BitVec 3)
  /-- MINZ (R75): Writes gd with the unsigned minimum of ga and gb. -/
  | minz (d : BitVec 5) (a : BitVec 5) (b : BitVec 5) (pr : BitVec 3)
  /-- MAXZ (R75): Writes gd with the unsigned maximum of ga and gb. -/
  | maxz (d : BitVec 5) (a : BitVec 5) (b : BitVec 5) (pr : BitVec 3)
  /-- SLT (R75): Writes gd with 1 if ga < gb (signed), otherwise 0. -/
  | slt (d : BitVec 5) (a : BitVec 5) (b : BitVec 5) (pr : BitVec 3)
  /-- SLTZ (R75): Writes gd with 1 if ga < gb (unsigned), otherwise 0. -/
  | sltz (d : BitVec 5) (a : BitVec 5) (b : BitVec 5) (pr : BitVec 3)
  /-- SEQ (R75): Writes gd with 1 if ga = gb, otherwise 0. -/
  | seq (d : BitVec 5) (a : BitVec 5) (b : BitVec 5) (pr : BitVec 3)
  /-- CLZ (R75): Writes gd with the count of leading zero bits of ga. -/
  | clz (d : BitVec 5) (a : BitVec 5) (pr : BitVec 3)
  /-- POPC (R75): Writes gd with the count of one bits in ga. -/
  | popc (d : BitVec 5) (a : BitVec 5) (pr : BitVec 3)
  /-- ADDSH (R75): Writes gd with ga + (gb << 3). -/
  | addsh (d : BitVec 5) (a : BitVec 5) (b : BitVec 5) (pr : BitVec 3)
  /-- ADDI (R77): Writes gd with ga plus the sign-extended immediate. -/
  | addi (d : BitVec 5) (a : BitVec 5) (i : BitVec 13)
  /-- ANDI (R77): Writes gd with ga AND the sign-extended immediate. -/
  | andi (d : BitVec 5) (a : BitVec 5) (i : BitVec 13)
  /-- ORI (R77): Writes gd with ga OR the sign-extended immediate. -/
  | ori (d : BitVec 5) (a : BitVec 5) (i : BitVec 13)
  /-- XORI (R77): Writes gd with ga XOR the sign-extended immediate. -/
  | xori (d : BitVec 5) (a : BitVec 5) (i : BitVec 13)
  /-- SLLI (R77): Shifts ga left by the immediate; an immediate outside 0-63 traps ILLEGAL. -/
  | slli (d : BitVec 5) (a : BitVec 5) (i : BitVec 13)
  /-- SRLI (R77): Shifts ga right by the immediate, with zeros shifted in. -/
  | srli (d : BitVec 5) (a : BitVec 5) (i : BitVec 13)
  /-- SRAI (R77): Shifts ga right by the immediate, with the sign bit shifted in. -/
  | srai (d : BitVec 5) (a : BitVec 5) (i : BitVec 13)
  /-- SLTI (R77): Writes gd with 1 if ga is below the immediate (signed), otherwise 0. -/
  | slti (d : BitVec 5) (a : BitVec 5) (i : BitVec 13)
  /-- MOVI (R77): Writes gd with the sign-extended immediate. -/
  | movi (d : BitVec 5) (i : BitVec 13)
  /-- PSET_EQ (R78): Sets pd to 1 if ga = gb, otherwise 0. -/
  | psetEq (d : BitVec 3) (a : BitVec 5) (b : BitVec 5) (pr : BitVec 3)
  /-- PSET_NE (R78): Sets pd to 1 if ga ≠ gb, otherwise 0. -/
  | psetNe (d : BitVec 3) (a : BitVec 5) (b : BitVec 5) (pr : BitVec 3)
  /-- PSET_LT (R78): Sets pd to 1 if ga < gb (signed), otherwise 0. -/
  | psetLt (d : BitVec 3) (a : BitVec 5) (b : BitVec 5) (pr : BitVec 3)
  /-- PSET_GE (R78): Sets pd to 1 if ga ≥ gb (signed), otherwise 0. -/
  | psetGe (d : BitVec 3) (a : BitVec 5) (b : BitVec 5) (pr : BitVec 3)
  /-- PSET_LTZ (R78): Sets pd to 1 if ga < gb (unsigned), otherwise 0. -/
  | psetLtz (d : BitVec 3) (a : BitVec 5) (b : BitVec 5) (pr : BitVec 3)
  /-- PSET_GEZ (R78): Sets pd to 1 if ga ≥ gb (unsigned), otherwise 0. -/
  | psetGez (d : BitVec 3) (a : BitVec 5) (b : BitVec 5) (pr : BitVec 3)
  /-- PSET_TSTAT (R78): Waits for C and its status updates, then sets pd to 1 if the six flag bits of TSTAT[tag] are all 0. -/
  | psetTstat (d : BitVec 3) (t : BitVec 4) (pr : BitVec 3)
  /-- PAND (R79): Sets pd to pa AND pb. -/
  | pand (d : BitVec 3) (a : BitVec 3) (b : BitVec 3) (pr : BitVec 3)
  /-- POR (R79): Sets pd to pa OR pb. -/
  | por (d : BitVec 3) (a : BitVec 3) (b : BitVec 3) (pr : BitVec 3)
  /-- PXOR (R79): Sets pd to pa XOR pb. -/
  | pxor (d : BitVec 3) (a : BitVec 3) (b : BitVec 3) (pr : BitVec 3)
  /-- PNOT (R79): Sets pd to NOT pa. -/
  | pnot (d : BitVec 3) (a : BitVec 3) (pr : BitVec 3)
  /-- BR (R80): Branches to the word's address + 4 × offset when its predicate condition holds. -/
  | br (pr : BitVec 3) (n : BitVec 1) (o : BitVec 19)
  /-- CALL (R80): When taken, writes g31 with the return address and branches relative to the word. -/
  | call (pr : BitVec 3) (n : BitVec 1) (o : BitVec 19)
  /-- JMPR (R81): Jumps to ga and links into gd; a target not a multiple of 4 traps ILLEGAL. -/
  | jmpr (d : BitVec 5) (a : BitVec 5) (pr : BitVec 3)
  /-- MOVA (R82): Queues a write of ga into address register a[n] of the named engine. -/
  | mova (i : BitVec 4) (a : BitVec 5) (e : BitVec 2) (pr : BitVec 3)
  /-- MOVAR (R82): Queues a write of RELOCk + ga into address register a[n] of the named engine. -/
  | movar (i : BitVec 4) (a : BitVec 5) (r : BitVec 3) (e : BitVec 2) (pr : BitVec 3)
  /-- MOVL (R82): Queues a write of ga mod 2^32 into loop counter lc0 or lc1 of the named engine. -/
  | movl (l : BitVec 1) (a : BitVec 5) (e : BitVec 2) (pr : BitVec 3)
  /-- MSEL (R82): Queues the selection of mask m[n] for C's later masked words. -/
  | msel (m : BitVec 3) (pr : BitVec 3)
  /-- PIPPUSH (R85): Waits for S's earlier accesses to perform, then pushes a pip on channel 0 or 7. -/
  | pippush (c : BitVec 5) (pr : BitVec 3)
  /-- PIPPOP (R85): Pops a pip from channel 1 or 6 and raises PTS to the pip's timestamp. -/
  | pippop (c : BitVec 5) (pr : BitVec 3)
  /-- TWAIT (R86): Waits until the token is not pending, then takes its timestamp or traps with its failure. -/
  | twait (k : BitVec 6) (pr : BitVec 3)
  /-- TTEST (R87): Sets pd to 1 if the token is not pending. -/
  | ttest (d : BitVec 3) (k : BitVec 6) (pr : BitVec 3)
  /-- TFREE (R88): Waits until the token is not pending, then sets it free. -/
  | tfree (k : BitVec 6) (pr : BitVec 3)
  /-- SRD (R89): Reads a system register into gd; C-side reads first wait for C, and reading NDRIFT clears it. -/
  | srd (d : BitVec 5) (x : BitVec 13)
  /-- SWR (R89): Writes ga to a system register, or queues the write for C-side registers, under the access rules of R18. -/
  | swr (a : BitVec 5) (x : BitVec 13)
  /-- LD8 (R97): Loads 1 byte from memory, zero-extended, into gd. -/
  | ld8 (d : BitVec 5) (a : BitVec 5) (h : BitVec 3) (i : BitVec 10)
  /-- LD16 (R97): Loads 2 bytes from memory, zero-extended, into gd. -/
  | ld16 (d : BitVec 5) (a : BitVec 5) (h : BitVec 3) (i : BitVec 10)
  /-- LD32 (R97): Loads 4 bytes from memory, zero-extended, into gd. -/
  | ld32 (d : BitVec 5) (a : BitVec 5) (h : BitVec 3) (i : BitVec 10)
  /-- LD64 (R97): Loads 8 bytes from memory into gd. -/
  | ld64 (d : BitVec 5) (a : BitVec 5) (h : BitVec 3) (i : BitVec 10)
  /-- LDS8 (R97): Loads 1 byte from memory, sign-extended, into gd. -/
  | lds8 (d : BitVec 5) (a : BitVec 5) (h : BitVec 3) (i : BitVec 10)
  /-- LDS16 (R97): Loads 2 bytes from memory, sign-extended, into gd. -/
  | lds16 (d : BitVec 5) (a : BitVec 5) (h : BitVec 3) (i : BitVec 10)
  /-- LDS32 (R97): Loads 4 bytes from memory, sign-extended, into gd. -/
  | lds32 (d : BitVec 5) (a : BitVec 5) (h : BitVec 3) (i : BitVec 10)
  /-- ST8 (R97): Posts a store of gs[7:0] to memory. -/
  | st8 (s : BitVec 5) (a : BitVec 5) (h : BitVec 3) (i : BitVec 10)
  /-- ST16 (R97): Posts a store of gs[15:0] to memory. -/
  | st16 (s : BitVec 5) (a : BitVec 5) (h : BitVec 3) (i : BitVec 10)
  /-- ST32 (R97): Posts a store of gs[31:0] to memory. -/
  | st32 (s : BitVec 5) (a : BitVec 5) (h : BitVec 3) (i : BitVec 10)
  /-- ST64 (R97): Posts a store of all 64 bits of gs to memory. -/
  | st64 (s : BitVec 5) (a : BitVec 5) (h : BitVec 3) (i : BitVec 10)
  /-- LDAQ (R101): Acquire load: loads into gd and sets SYNC_FLOOR; the .SYS form also orders later accesses of every scope after it. -/
  | ldaq (d : BitVec 5) (a : BitVec 5) (z : BitVec 2) (y : BitVec 1) (i : BitVec 10)
  /-- STRL (R102): Release store: waits for S's earlier accesses, raises PTS, then stores; the .SYS form also waits for host acknowledgements. -/
  | strl (s : BitVec 5) (a : BitVec 5) (z : BitVec 2) (y : BitVec 1) (i : BitVec 10)
  /-- AMO_SWAP (R116): Atomically writes v at the home slice and returns the old value. -/
  | amoSwap (d : BitVec 5) (a : BitVec 5) (b : BitVec 5) (z : BitVec 3)
  /-- AMO_ADD (R116): Atomically adds v with wrap at the home slice and returns the old value. -/
  | amoAdd (d : BitVec 5) (a : BitVec 5) (b : BitVec 5) (z : BitVec 3)
  /-- AMO_AND (R116): Atomically ANDs v into memory and returns the old value. -/
  | amoAnd (d : BitVec 5) (a : BitVec 5) (b : BitVec 5) (z : BitVec 3)
  /-- AMO_OR (R116): Atomically ORs v into memory and returns the old value. -/
  | amoOr (d : BitVec 5) (a : BitVec 5) (b : BitVec 5) (z : BitVec 3)
  /-- AMO_XOR (R116): Atomically XORs v into memory and returns the old value. -/
  | amoXor (d : BitVec 5) (a : BitVec 5) (b : BitVec 5) (z : BitVec 3)
  /-- AMO_MIN (R116): Atomically stores the signed minimum and returns the old value. -/
  | amoMin (d : BitVec 5) (a : BitVec 5) (b : BitVec 5) (z : BitVec 3)
  /-- AMO_MAX (R116): Atomically stores the signed maximum and returns the old value. -/
  | amoMax (d : BitVec 5) (a : BitVec 5) (b : BitVec 5) (z : BitVec 3)
  /-- AMO_MINZ (R116): Atomically stores the unsigned minimum and returns the old value. -/
  | amoMinz (d : BitVec 5) (a : BitVec 5) (b : BitVec 5) (z : BitVec 3)
  /-- AMO_MAXZ (R116): Atomically stores the unsigned maximum and returns the old value. -/
  | amoMaxz (d : BitVec 5) (a : BitVec 5) (b : BitVec 5) (z : BitVec 3)
  /-- AMO_FADD (R116): Atomically adds an FP32 value with rounding at arrival and returns the old value. -/
  | amoFadd (d : BitVec 5) (a : BitVec 5) (b : BitVec 5)
  /-- AMO_XADD (R116): Atomically adds an FP32 term to an exact slot and returns the slot's read-out before the add. -/
  | amoXadd (d : BitVec 5) (a : BitVec 5) (b : BitVec 5)
  /-- RED_ADD (R116): Non-returning atomic add. -/
  | redAdd (a : BitVec 5) (b : BitVec 5) (z : BitVec 3)
  /-- RED_AND (R116): Non-returning atomic AND. -/
  | redAnd (a : BitVec 5) (b : BitVec 5) (z : BitVec 3)
  /-- RED_OR (R116): Non-returning atomic OR. -/
  | redOr (a : BitVec 5) (b : BitVec 5) (z : BitVec 3)
  /-- RED_XOR (R116): Non-returning atomic XOR. -/
  | redXor (a : BitVec 5) (b : BitVec 5) (z : BitVec 3)
  /-- RED_MIN (R116): Non-returning atomic signed minimum. -/
  | redMin (a : BitVec 5) (b : BitVec 5) (z : BitVec 3)
  /-- RED_MAX (R116): Non-returning atomic signed maximum. -/
  | redMax (a : BitVec 5) (b : BitVec 5) (z : BitVec 3)
  /-- RED_MINZ (R116): Non-returning atomic unsigned minimum. -/
  | redMinz (a : BitVec 5) (b : BitVec 5) (z : BitVec 3)
  /-- RED_MAXZ (R116): Non-returning atomic unsigned maximum. -/
  | redMaxz (a : BitVec 5) (b : BitVec 5) (z : BitVec 3)
  /-- RED_FADD (R116): Non-returning atomic FP32 add, rounded in arrival order. -/
  | redFadd (a : BitVec 5) (b : BitVec 5)
  /-- RED_XADD (R116): Non-returning addition of an FP32 term to an exact slot. -/
  | redXadd (a : BitVec 5) (b : BitVec 5)
  /-- CAS (R117): Compares memory bitwise with gd, swaps in gb on a match, and returns the old value. -/
  | cas (d : BitVec 5) (a : BitVec 5) (b : BitVec 5) (z : BitVec 3)
  /-- AOSEQ_SWAP (R118): Ordered atomic swap on the data word, performed only when n equals the pair's N. -/
  | aoseqSwap (d : BitVec 5) (a : BitVec 5) (b : BitVec 5) (z : BitVec 3)
  /-- AOSEQ_ADD (R118): Ordered atomic add, applied in sequence-number order. -/
  | aoseqAdd (d : BitVec 5) (a : BitVec 5) (b : BitVec 5) (z : BitVec 3)
  /-- AOSEQ_AND (R118): Ordered atomic AND. -/
  | aoseqAnd (d : BitVec 5) (a : BitVec 5) (b : BitVec 5) (z : BitVec 3)
  /-- AOSEQ_OR (R118): Ordered atomic OR. -/
  | aoseqOr (d : BitVec 5) (a : BitVec 5) (b : BitVec 5) (z : BitVec 3)
  /-- AOSEQ_XOR (R118): Ordered atomic XOR. -/
  | aoseqXor (d : BitVec 5) (a : BitVec 5) (b : BitVec 5) (z : BitVec 3)
  /-- AOSEQ_MIN (R118): Ordered atomic signed minimum. -/
  | aoseqMin (d : BitVec 5) (a : BitVec 5) (b : BitVec 5) (z : BitVec 3)
  /-- AOSEQ_MAX (R118): Ordered atomic signed maximum. -/
  | aoseqMax (d : BitVec 5) (a : BitVec 5) (b : BitVec 5) (z : BitVec 3)
  /-- AOSEQ_MINZ (R118): Ordered atomic unsigned minimum. -/
  | aoseqMinz (d : BitVec 5) (a : BitVec 5) (b : BitVec 5) (z : BitVec 3)
  /-- AOSEQ_MAXZ (R118): Ordered atomic unsigned maximum. -/
  | aoseqMaxz (d : BitVec 5) (a : BitVec 5) (b : BitVec 5) (z : BitVec 3)
  /-- AOSEQ_FADD (R118): Ordered FP32 add that gives the same bits on every run. -/
  | aoseqFadd (d : BitVec 5) (a : BitVec 5) (b : BitVec 5)
  /-- FENCE_SYS (R121): Waits as STRL.SYS does, orders later accesses as LDAQ.SYS does, and sets SYNC_FLOOR. -/
  | fenceSys (pr : BitVec 3)
  /-- FENCE_FAB (R121): Sends flush markers on every fabric path that was used and waits until every destination has gathered them. -/
  | fenceFab (pr : BitVec 3)
  /-- CACHEOP_CLEAN (R122): Writes the dirty lines of the range back from their homes. -/
  | cacheopClean (a : BitVec 5) (b : BitVec 5) (pr : BitVec 3)
  /-- CACHEOP_DROP (R122): Removes the range's lines from the issuer's L1, its pod cache and the shared cache, writing them back first. -/
  | cacheopDrop (a : BitVec 5) (b : BitVec 5) (pr : BitVec 3)
  /-- CACHEOP_DEMOTE (R122): Gives the resident unpinned lines of the range the drop-first class. -/
  | cacheopDemote (a : BitVec 5) (b : BitVec 5) (pr : BitVec 3)
  /-- CACHEOP_SYSINV (R122): Discards the device copies of system-scope lines in the range. -/
  | cacheopSysinv (a : BitVec 5) (b : BitVec 5) (pr : BitVec 3)
  /-- GEND (R308): Ends the surrogate phase: waits for outstanding work, then arrives at the gang's guard decision; outside that phase it writes 2. -/
  | gend (d : BitVec 5) (pr : BitVec 3)
  /-- SHARE (R95): In Husk, sets the SHARE register to min(ga, 256); from the user context it traps PRIV. -/
  | share (a : BitVec 5) (pr : BitVec 3)
  /-- HYIELD (R95): Husk gives up its issue slots until its next event. -/
  | hyield (pr : BitVec 3)
  /-- TRAP (R91): Raises SWTRAP with TRAPINFO := ga + immediate. -/
  | trap (a : BitVec 5) (i : BitVec 13)
  /-- ERET (R92): Ends the user trap handler: clears HandlerState and resumes at ga. -/
  | eret (a : BitVec 5) (pr : BitVec 3)
  /-- HALT (R93): Waits for earlier S words to complete, retires S and places halt markers in the engine queues. -/
  | halt (pr : BitVec 3)
  /-- YIELD (R94): Lets the scheduler preempt the gang when waiting work of equal or higher priority needs its cores. -/
  | yield (pr : BitVec 3)
  /-- BRK (R91): Raises the BRK trap with the word itself in TRAPINFO. -/
  | brk (c : BitVec 10) (pr : BitVec 3)
  /-- UDF (R91): Always traps ILLEGAL, whatever its operand bits hold. -/
  | udf (x : BitVec 23)
  /-- COPY (R190): Issues a tile copy between two layout records to the pod copy engine, with an optional completion record. -/
  | copy (k : BitVec 6) (a : BitVec 5) (b : BitVec 5) (c : BitVec 5) (n : BitVec 2)
  /-- COPYL (R190): Issues a linear byte copy of gc bytes from ga to gb. -/
  | copyl (k : BitVec 6) (a : BitVec 5) (b : BitVec 5) (c : BitVec 5) (n : BitVec 2)
  /-- TPREF (R195): Starts a prefetch of the genuine lines of a layout record's tile to their home slices. -/
  | tpref (k : BitVec 6) (a : BitVec 5) (b : BitVec 5) (n : BitVec 2)
  /-- BAR (R202): Release arrival on a barrier; S blocks until the phase completes. -/
  | bar (k : BitVec 6) (a : BitVec 5) (n : BitVec 2)
  /-- BARA (R202): Release arrival on a barrier that does not block; kout is done when the phase completes. -/
  | bara (k : BitVec 6) (a : BitVec 5) (n : BitVec 2)
  /-- BARAX (R202): Relaxed arrival that is counted but carries no timestamp. -/
  | barax (k : BitVec 6) (a : BitVec 5) (n : BitVec 2)
  /-- BARW (R202): Blocks S until the phase of this core's latest arrival completes. -/
  | barw (k : BitVec 6) (a : BitVec 5) (n : BitVec 2)
  /-- COLLX (R207): Exact all-reduce: a release arrival whose completed phase merges every member's source slot into every destination slot. -/
  | collx (k : BitVec 6) (a : BitVec 5) (b : BitVec 5) (c : BitVec 5) (n : BitVec 2)
  /-- LNCH (R230): Reads a launch record and submits it to the launch scheduler. -/
  | lnch (k : BitVec 6) (a : BitVec 5) (n : BitVec 2)
  /-- GLNCH (R303): Submits a guarded launch record, as LNCH does. -/
  | glnch (k : BitVec 6) (a : BitVec 5) (n : BitVec 2)
  /-- SIGS (R205): Release that sets signal[ga] := gb. -/
  | sigs (k : BitVec 6) (a : BitVec 5) (b : BitVec 5) (n : BitVec 2)
  /-- SIGW (R205): Blocks S until signal[ga] ≥ gb, then takes the satisfying write's timestamp. -/
  | sigw (k : BitVec 6) (a : BitVec 5) (b : BitVec 5) (n : BitVec 2)
  /-- RCALL (R318): Sends a method call to a replayed object's home to be logged. -/
  | rcall (k : BitVec 6) (a : BitVec 5) (b : BitVec 5) (c : BitVec 5) (n : BitVec 2)
  /-- RQRY (R323): Sends a read-only query, which runs on the caller's die after every logged call. -/
  | rqry (k : BitVec 6) (a : BitVec 5) (b : BitVec 5) (c : BitVec 5) (n : BitVec 2)
  /-- RTRIM (R324): Requests a trim check on an object's log. -/
  | rtrim (k : BitVec 6) (a : BitVec 5) (n : BitVec 2)
  /-- WPIN (R280): Pins every line of a window within PINLIM and reports a status. -/
  | wpin (k : BitVec 6) (a : BitVec 5) (b : BitVec 5) (n : BitVec 2)
  /-- WUNPIN (R280): Clears the pins this launch made on a window and reports a status. -/
  | wunpin (k : BitVec 6) (a : BitVec 5) (b : BitVec 5) (n : BitVec 2)
  /-- WOWN (R280): Changes a window's owner for one phase in every context of the launch. -/
  | wown (k : BitVec 6) (a : BitVec 5) (b : BitVec 5) (n : BitVec 2)
  /-- PHASE (R274): Collective arrival that changes the gang's memory-plan phase. -/
  | phase (k : BitVec 6) (a : BitVec 5) (b : BitVec 5) (n : BitVec 2)
  /-- TOKN (R199): Joins up to three tokens into kout. -/
  | tokn (k : BitVec 6) (a : BitVec 5) (b : BitVec 5) (c : BitVec 5) (n : BitVec 2)
  /-- FSEND (R208): Writes local memory to a peer device in checksummed messages. -/
  | fsend (k : BitVec 6) (a : BitVec 5) (b : BitVec 5) (c : BitVec 5) (n : BitVec 2)
  /-- FGET (R208): Reads peer-device memory into local memory. -/
  | fget (k : BitVec 6) (a : BitVec 5) (b : BitVec 5) (c : BitVec 5) (n : BitVec 2)
  /-- X_EXT (R59): Prefix that supplies the high bits of the following word's immediate. -/
  | xExt (p : BitVec 27)
  /-- X_TWS (R59): Suffix that carries the token ids the preceding A word waits on. -/
  | xTws (k : BitVec 6) (l : BitVec 6) (m : BitVec 6)
  /-- X_FMTX (R59): Prefix that supplies explicit format fields to an R word in place of a format-table entry. -/
  | xFmtx (i : BitVec 4) (o : BitVec 4) (s : BitVec 1) (n : BitVec 1) (b : BitVec 8)
  /-- LDL (R105): Loads 64n bytes from memory into LS. -/
  | ldl (a : BitVec 4) (b : BitVec 4) (h : BitVec 3) (l : BitVec 7) (pip : BitVec 4)
  /-- LDS (R105): Loads 64n bytes from pod scratch into LS. -/
  | lds (a : BitVec 4) (b : BitVec 4) (h : BitVec 3) (l : BitVec 7) (pip : BitVec 4)
  /-- LDG (R106): Loads the tile of a layout record into LS, with mirrored positions filled. -/
  | ldg (a : BitVec 4) (b : BitVec 4) (h : BitVec 3) (l : BitVec 7) (pip : BitVec 4)
  /-- LDQ (R107): Appends 2n E8M0 scales to the scale queue, waiting for room. -/
  | ldq (a : BitVec 4) (h : BitVec 3) (l : BitVec 7) (pip : BitVec 4)
  /-- LDF (R107): Checks and decodes stream slots into the decoder FIFO, one slot at a time as room allows. -/
  | ldf (a : BitVec 4) (b : BitVec 4) (h : BitVec 3) (l : BitVec 7) (pip : BitVec 4)
  /-- LPF (R108): Requests a prefetch of lines without writing LS. -/
  | lpf (a : BitVec 4) (h : BitVec 3) (l : BitVec 7) (pip : BitVec 4)
  /-- SSL (R105): Stores 64n bytes from LS to memory, suppressed under G when the tile-clean flag is 0. -/
  | ssl (a : BitVec 4) (b : BitVec 4) (h : BitVec 3) (l : BitVec 7) (g : BitVec 1) (pip : BitVec 4)
  /-- SSS (R105): Stores 64n bytes from LS to pod scratch. -/
  | sss (a : BitVec 4) (b : BitVec 4) (h : BitVec 3) (l : BitVec 7) (g : BitVec 1) (pip : BitVec 4)
  /-- SSC (R106): Stores an LS tile to the genuine elements of a layout record's tile. -/
  | ssc (a : BitVec 4) (b : BitVec 4) (h : BitVec 3) (l : BitVec 7) (g : BitVec 1) (pip : BitVec 4)
  /-- SFLG_SET (R111): Sets the tile-clean flag to 1. -/
  | sflgSet (pip : BitVec 4)
  /-- SFLG_ST (R111): T's release: waits for T's earlier granules, then stores a[a] at a[d]. -/
  | sflgSt (d : BitVec 4) (a : BitVec 4) (pip : BitVec 4)
  /-- SFLG_STF (R111): Release store of the tile-clean flag, which is then set to 1. -/
  | sflgStf (d : BitVec 4) (pip : BitVec 4)
  /-- AINC_L (R112): On L, a[d] := a[a] + 64 × immediate. -/
  | aincL (d : BitVec 4) (a : BitVec 4) (i : BitVec 10) (pip : BitVec 4)
  /-- AINC_T (R112): On T, a[d] := a[a] + 64 × immediate. -/
  | aincT (d : BitVec 4) (a : BitVec 4) (i : BitVec 10) (pip : BitVec 4)
  /-- AINC_C (R112): On C, a[d] := a[a] + 64 × immediate. -/
  | aincC (d : BitVec 4) (a : BitVec 4) (i : BitVec 10) (pip : BitVec 4)
  /-- AADD_L (R112): On L, a[d] := a[a] + a[b]. -/
  | aaddL (d : BitVec 4) (a : BitVec 4) (b : BitVec 4) (pip : BitVec 4)
  /-- AADD_T (R112): On T, a[d] := a[a] + a[b]. -/
  | aaddT (d : BitVec 4) (a : BitVec 4) (b : BitVec 4) (pip : BitVec 4)
  /-- AADD_C (R112): On C, a[d] := a[a] + a[b]. -/
  | aaddC (d : BitVec 4) (a : BitVec 4) (b : BitVec 4) (pip : BitVec 4)
  /-- AMOV_L (R112): On L, a[d] := a[a]. -/
  | amovL (d : BitVec 4) (a : BitVec 4) (pip : BitVec 4)
  /-- AMOV_T (R112): On T, a[d] := a[a]. -/
  | amovT (d : BitVec 4) (a : BitVec 4) (pip : BitVec 4)
  /-- AMOV_C (R112): On C, a[d] := a[a]. -/
  | amovC (d : BitVec 4) (a : BitVec 4) (pip : BitVec 4)
  /-- SYNC_L (R112): On L, performs only its pip bits. -/
  | syncL (pip : BitVec 4)
  /-- SYNC_T (R112): On T, performs only its pip bits. -/
  | syncT (pip : BitVec 4)
  /-- SYNC_C (R112): On C, performs only its pip bits. -/
  | syncC (pip : BitVec 4)
  /-- VADD (R126): Lane-wise 32-bit integer add. -/
  | vadd (d : BitVec 4) (a : BitVec 4) (b : BitVec 4) (m : BitVec 1) (pip : BitVec 4)
  /-- VSUB (R126): Lane-wise 32-bit integer subtract. -/
  | vsub (d : BitVec 4) (a : BitVec 4) (b : BitVec 4) (m : BitVec 1) (pip : BitVec 4)
  /-- VMUL (R126): Lane-wise low 32 bits of the integer product. -/
  | vmul (d : BitVec 4) (a : BitVec 4) (b : BitVec 4) (m : BitVec 1) (pip : BitVec 4)
  /-- VMIN (R126): Lane-wise signed minimum. -/
  | vmin (d : BitVec 4) (a : BitVec 4) (b : BitVec 4) (m : BitVec 1) (pip : BitVec 4)
  /-- VMAX (R126): Lane-wise signed maximum. -/
  | vmax (d : BitVec 4) (a : BitVec 4) (b : BitVec 4) (m : BitVec 1) (pip : BitVec 4)
  /-- VAND (R126): Lane-wise bitwise AND. -/
  | vand (d : BitVec 4) (a : BitVec 4) (b : BitVec 4) (m : BitVec 1) (pip : BitVec 4)
  /-- VOR (R126): Lane-wise bitwise OR. -/
  | vor (d : BitVec 4) (a : BitVec 4) (b : BitVec 4) (m : BitVec 1) (pip : BitVec 4)
  /-- VXOR (R126): Lane-wise bitwise XOR. -/
  | vxor (d : BitVec 4) (a : BitVec 4) (b : BitVec 4) (m : BitVec 1) (pip : BitVec 4)
  /-- VSLL (R126): Lane-wise left shift by vb[4:0]. -/
  | vsll (d : BitVec 4) (a : BitVec 4) (b : BitVec 4) (m : BitVec 1) (pip : BitVec 4)
  /-- VSRL (R126): Lane-wise logical right shift. -/
  | vsrl (d : BitVec 4) (a : BitVec 4) (b : BitVec 4) (m : BitVec 1) (pip : BitVec 4)
  /-- VSRA (R126): Lane-wise arithmetic right shift. -/
  | vsra (d : BitVec 4) (a : BitVec 4) (b : BitVec 4) (m : BitVec 1) (pip : BitVec 4)
  /-- VABS (R126): Lane-wise signed absolute value. -/
  | vabs (d : BitVec 4) (a : BitVec 4) (m : BitVec 1) (pip : BitVec 4)
  /-- VMINZ (R126): Lane-wise unsigned minimum. -/
  | vminz (d : BitVec 4) (a : BitVec 4) (b : BitVec 4) (m : BitVec 1) (pip : BitVec 4)
  /-- VMAXZ (R126): Lane-wise unsigned maximum. -/
  | vmaxz (d : BitVec 4) (a : BitVec 4) (b : BitVec 4) (m : BitVec 1) (pip : BitVec 4)
  /-- VFADD (R127): Lane-wise float add, rounded once. -/
  | vfadd (d : BitVec 4) (a : BitVec 4) (b : BitVec 4) (t : BitVec 2) (m : BitVec 1) (pip : BitVec 4)
  /-- VFSUB (R127): Lane-wise float subtract. -/
  | vfsub (d : BitVec 4) (a : BitVec 4) (b : BitVec 4) (t : BitVec 2) (m : BitVec 1) (pip : BitVec 4)
  /-- VFMUL (R127): Lane-wise float multiply. -/
  | vfmul (d : BitVec 4) (a : BitVec 4) (b : BitVec 4) (t : BitVec 2) (m : BitVec 1) (pip : BitVec 4)
  /-- VFMA (R127): Lane-wise fused vd + va × vb, rounded once. -/
  | vfma (d : BitVec 4) (a : BitVec 4) (b : BitVec 4) (t : BitVec 2) (m : BitVec 1) (pip : BitVec 4)
  /-- VFMIN (R127): Lane-wise float minimum. -/
  | vfmin (d : BitVec 4) (a : BitVec 4) (b : BitVec 4) (t : BitVec 2) (m : BitVec 1) (pip : BitVec 4)
  /-- VFMAX (R127): Lane-wise float maximum. -/
  | vfmax (d : BitVec 4) (a : BitVec 4) (b : BitVec 4) (t : BitVec 2) (m : BitVec 1) (pip : BitVec 4)
  /-- VFABS (R127): Lane-wise clear of the sign bit. -/
  | vfabs (d : BitVec 4) (a : BitVec 4) (t : BitVec 2) (m : BitVec 1) (pip : BitVec 4)
  /-- VFNEG (R127): Lane-wise flip of the sign bit. -/
  | vfneg (d : BitVec 4) (a : BitVec 4) (t : BitVec 2) (m : BitVec 1) (pip : BitVec 4)
  /-- VFDIV (R127): Lane-wise float divide. -/
  | vfdiv (d : BitVec 4) (a : BitVec 4) (b : BitVec 4) (t : BitVec 2) (m : BitVec 1) (pip : BitVec 4)
  /-- VFSQRT (R127): Lane-wise square root. -/
  | vfsqrt (d : BitVec 4) (a : BitVec 4) (t : BitVec 2) (m : BitVec 1) (pip : BitVec 4)
  /-- VFRSQ (R127): Lane-wise reciprocal square root. -/
  | vfrsq (d : BitVec 4) (a : BitVec 4) (t : BitVec 2) (m : BitVec 1) (pip : BitVec 4)
  /-- VCMP_EQ (R128): Writes mask md with the lane-wise equality comparison. -/
  | vcmpEq (d : BitVec 3) (a : BitVec 4) (b : BitVec 4) (t : BitVec 2) (m : BitVec 1) (pip : BitVec 4)
  /-- VCMP_NE (R128): Writes mask md with the lane-wise not-equal comparison. -/
  | vcmpNe (d : BitVec 3) (a : BitVec 4) (b : BitVec 4) (t : BitVec 2) (m : BitVec 1) (pip : BitVec 4)
  /-- VCMP_LT (R128): Writes mask md with the lane-wise less-than comparison. -/
  | vcmpLt (d : BitVec 3) (a : BitVec 4) (b : BitVec 4) (t : BitVec 2) (m : BitVec 1) (pip : BitVec 4)
  /-- VCMP_LE (R128): Writes mask md with the lane-wise less-or-equal comparison. -/
  | vcmpLe (d : BitVec 3) (a : BitVec 4) (b : BitVec 4) (t : BitVec 2) (m : BitVec 1) (pip : BitVec 4)
  /-- VCMP_UN (R128): Writes mask md with 1 in each lane where either operand is NaN. -/
  | vcmpUn (d : BitVec 3) (a : BitVec 4) (b : BitVec 4) (t : BitVec 2) (m : BitVec 1) (pip : BitVec 4)
  /-- VCVT (R129): Converts each lane between format codes 0-7 with Sat = 0. -/
  | vcvt (d : BitVec 4) (a : BitVec 4) (x : BitVec 3) (y : BitVec 3) (m : BitVec 1) (pip : BitVec 4)
  /-- LMUL (R130): Lane-wise LNS6 multiply. -/
  | lmul (d : BitVec 4) (a : BitVec 4) (b : BitVec 4) (m : BitVec 1) (pip : BitVec 4)
  /-- LDIV (R130): Lane-wise LNS6 divide. -/
  | ldiv (d : BitVec 4) (a : BitVec 4) (b : BitVec 4) (m : BitVec 1) (pip : BitVec 4)
  /-- LADD (R130): Lane-wise LNS6 add using the correction tables. -/
  | ladd (d : BitVec 4) (a : BitVec 4) (b : BitVec 4) (m : BitVec 1) (pip : BitVec 4)
  /-- LSUB (R130): Lane-wise LNS6 subtract. -/
  | lsub (d : BitVec 4) (a : BitVec 4) (b : BitVec 4) (m : BitVec 1) (pip : BitVec 4)
  /-- LNEG (R130): Lane-wise LNS6 negation. -/
  | lneg (d : BitVec 4) (a : BitVec 4) (m : BitVec 1) (pip : BitVec 4)
  /-- VMOV (R131): Copies the active lanes of va bit for bit. -/
  | vmov (d : BitVec 4) (a : BitVec 4) (m : BitVec 1) (pip : BitVec 4)
  /-- VSEL (R131): Selects each lane from va or vb by the selected mask. -/
  | vsel (d : BitVec 4) (a : BitVec 4) (b : BitVec 4) (pip : BitVec 4)
  /-- VPERM (R131): Permutes the lanes of va by the indices in vb. -/
  | vperm (d : BitVec 4) (a : BitVec 4) (b : BitVec 4) (m : BitVec 1) (pip : BitVec 4)
  /-- VBCST (R131): Broadcasts bits [31:0] of C's a register into the lanes. -/
  | vbcst (d : BitVec 4) (a : BitVec 4) (m : BitVec 1) (pip : BitVec 4)
  /-- VIOTA (R131): Writes each active lane with its own index. -/
  | viota (d : BitVec 4) (m : BitVec 1) (pip : BitVec 4)
  /-- VRSUM (R134): Sums the lanes by the fixed pairwise tree into lane 0. -/
  | vrsum (d : BitVec 4) (a : BitVec 4) (t : BitVec 2) (m : BitVec 1) (pip : BitVec 4)
  /-- VRMAX (R134): Reduces the lanes to their maximum in lane 0. -/
  | vrmax (d : BitVec 4) (a : BitVec 4) (t : BitVec 2) (m : BitVec 1) (pip : BitVec 4)
  /-- VRMIN (R134): Reduces the lanes to their minimum in lane 0. -/
  | vrmin (d : BitVec 4) (a : BitVec 4) (t : BitVec 2) (m : BitVec 1) (pip : BitVec 4)
  /-- VRIADD (R134): Sums the lanes as integers modulo 2^32 into lane 0. -/
  | vriadd (d : BitVec 4) (a : BitVec 4) (m : BitVec 1) (pip : BitVec 4)
  /-- XCLR (R144): Clears an exact accumulator and its flags. -/
  | xclr (q : BitVec 4) (pip : BitVec 4)
  /-- XMAC (R144): Adds the exact lane products to an accumulator. -/
  | xmac (q : BitVec 4) (a : BitVec 4) (b : BitVec 4) (m : BitVec 1) (pip : BitVec 4)
  /-- XSUM (R144): Adds the lanes as exact terms to an accumulator. -/
  | xsum (q : BitVec 4) (a : BitVec 4) (m : BitVec 1) (pip : BitVec 4)
  /-- XRND (R144): Writes the accumulator's FP32 read-out to lane 0. -/
  | xrnd (d : BitVec 4) (q : BitVec 4) (pip : BitVec 4)
  /-- XPUT (R146): Merges an accumulator into a memory slot at its home, without returning a value. -/
  | xput (q : BitVec 4) (b : BitVec 4) (pip : BitVec 4)
  /-- XGET (R147): Reads a memory slot into an accumulator as one access. -/
  | xget (q : BitVec 4) (a : BitVec 4) (pip : BitVec 4)
  /-- XSAVE (R145): Writes an accumulator to a 128-byte LS slot. -/
  | xsave (q : BitVec 4) (b : BitVec 4) (pip : BitVec 4)
  /-- XLOAD (R145): Reads an accumulator from a 128-byte LS slot. -/
  | xload (q : BitVec 4) (a : BitVec 4) (pip : BitVec 4)
  /-- DEFER (R141): Appends one entry per active lane to the deferral queue, or traps DEFERQ when the queue would overflow. -/
  | defer (a : BitVec 4) (w : BitVec 4) (m : BitVec 1) (pip : BitVec 4)
  /-- DRAIN (R142): Removes up to 64 deferral entries into vd..vd+w-1 and their lane indices into vb. -/
  | drain (d : BitVec 4) (w : BitVec 4) (b : BitVec 4) (pip : BitVec 4)
  /-- DQCNT (R142): Writes the deferral queue's entry count to lane 0. -/
  | dqcnt (d : BitVec 4) (pip : BitVec 4)
  /-- VSCAT (R143): Scatters lanes of va to the lanes of vd that vb names. -/
  | vscat (d : BitVec 4) (a : BitVec 4) (b : BitVec 4) (m : BitVec 1) (pip : BitVec 4)
  /-- VLD (R135): Loads 64 lanes from LS, or pops 128 bytes from the decoder FIFO when bit 63 of the address is set. -/
  | vld (d : BitVec 4) (a : BitVec 4) (m : BitVec 1) (pip : BitVec 4)
  /-- VST (R135): Stores the active lanes to LS. -/
  | vst (d : BitVec 4) (a : BitVec 4) (m : BitVec 1) (pip : BitVec 4)
  /-- VLDX (R135): Gathers lanes from LS at per-lane offsets. -/
  | vldx (d : BitVec 4) (a : BitVec 4) (b : BitVec 4) (m : BitVec 1) (pip : BitVec 4)
  /-- VSTX (R135): Scatters lanes to LS at per-lane offsets. -/
  | vstx (d : BitVec 4) (a : BitVec 4) (b : BitVec 4) (m : BitVec 1) (pip : BitVec 4)
  /-- TWROW (R139): Writes a vector into one row of a tile register. -/
  | twrow (t : BitVec 2) (i : BitVec 6) (v : BitVec 4) (f : BitVec 3) (m : BitVec 1) (pip : BitVec 4)
  /-- TRCOL (R139): Reads one column of a tile register into a vector. -/
  | trcol (t : BitVec 2) (i : BitVec 6) (v : BitVec 4) (f : BitVec 3) (m : BitVec 1) (pip : BitVec 4)
  /-- TRROW (R139): Reads one row of a tile register into a vector. -/
  | trrow (t : BitVec 2) (i : BitVec 6) (v : BitVec 4) (f : BitVec 3) (m : BitVec 1) (pip : BitVec 4)
  /-- TCLR (R139): Clears every element of a tile register. -/
  | tclr (t : BitVec 2) (pip : BitVec 4)
  /-- TLD (R140): Copies 8,192 bytes from LS into a tile register. -/
  | tld (t : BitVec 2) (v : BitVec 4) (pip : BitVec 4)
  /-- TST (R140): Copies a tile register into 8,192 bytes of LS. -/
  | tst (t : BitVec 2) (v : BitVec 4) (pip : BitVec 4)
  /-- VRAND (R149): Writes output word w of Philox4x32-10 into each active lane. -/
  | vrand (d : BitVec 4) (a : BitVec 4) (b : BitVec 4) (w : BitVec 6) (m : BitVec 1) (pip : BitVec 4)
  /-- MAND (R133): md := ma AND mb. -/
  | mand (d : BitVec 3) (a : BitVec 3) (b : BitVec 3) (pip : BitVec 4)
  /-- MOR (R133): md := ma OR mb. -/
  | mor (d : BitVec 3) (a : BitVec 3) (b : BitVec 3) (pip : BitVec 4)
  /-- MXOR (R133): md := ma XOR mb. -/
  | mxor (d : BitVec 3) (a : BitVec 3) (b : BitVec 3) (pip : BitVec 4)
  /-- MNOT (R133): md := NOT ma. -/
  | mnot (d : BitVec 3) (a : BitVec 3) (pip : BitVec 4)
  /-- MPOP (R133): Writes the count of set bits of ma to lane 0. -/
  | mpop (d : BitVec 4) (a : BitVec 3) (pip : BitVec 4)
  /-- MFIRST (R133): Writes the index of the lowest set bit of ma to lane 0, or 64 if none is set. -/
  | mfirst (d : BitVec 4) (a : BitVec 3) (pip : BitVec 4)
  /-- GCHK (R150): Folds the largest active-lane magnitude of va into GRES. -/
  | gchk (a : BitVec 4) (m : BitVec 1) (pip : BitVec 4)
  /-- VSPLAT (R132): Writes the sign-extended immediate into each active lane. -/
  | vsplat (d : BitVec 4) (i : BitVec 10) (m : BitVec 1) (pip : BitVec 4)
  /-- ANGL (R160): Loads angle codes, and optionally scales, into a plane under the wave rule. -/
  | angl (l : BitVec 1) (a : BitVec 4) (x : BitVec 1) (y : BitVec 1) (z : BitVec 1) (pip : BitVec 4)
  /-- ABMP (R161): Sets a plane's identity bitmap. -/
  | abmp (l : BitVec 1) (a : BitVec 4) (pip : BitVec 4)
  /-- RSCL (R162): Loads a plane's scale codes from LS. -/
  | rscl (l : BitVec 1) (a : BitVec 4) (pip : BitVec 4)
  /-- RSCL_V (R162): Loads a plane's scale codes from a vector register. -/
  | rsclV (l : BitVec 1) (v : BitVec 4) (pip : BitVec 4)
  /-- RLANE (R163): Sets the lane-map table base. -/
  | rlane (a : BitVec 4) (pip : BitVec 4)
  /-- RPUSH (R165): Pushes a group of n vectors from LS into the rotation array. -/
  | rpush (n : BitVec 4) (a : BitVec 4) (f : BitVec 6) (pip : BitVec 4)
  /-- RPUSHV (R165): Pushes n vectors from vector registers into the rotation array. -/
  | rpushv (n : BitVec 4) (v : BitVec 4) (f : BitVec 6) (m : BitVec 1) (pip : BitVec 4)
  /-- RPOP (R167): Drains the rest of the oldest group of results into LS, updating TSTAT and the tile-clean flag. -/
  | rpop (t : BitVec 4) (a : BitVec 4) (b : BitVec 4) (f : BitVec 6) (pip : BitVec 4)
  /-- RPOPV (R167): Drains one result vector into vd. -/
  | rpopv (d : BitVec 4) (t : BitVec 4) (v : BitVec 4) (f : BitVec 6) (m : BitVec 1) (pip : BitVec 4)
  /-- REOS (R171): Waits until no vector is in flight. -/
  | reos (pip : BitVec 4)
  /-- RSTREAM (R176): Runs the streaming matrix-vector mode over a resident batch, with passes read from the decoder FIFO. -/
  | rstream (n : BitVec 4) (a : BitVec 4) (b : BitVec 4) (f : BitVec 6) (pip : BitVec 4)
  /-- RSWEEP (R179): Triangularises an LS tile by Givens eliminations and emits their angle codes. -/
  | rsweep (a : BitVec 4) (b : BitVec 4) (pip : BitVec 4)
  /-- RPLANE (R164): Selects plane A or B as the active plane. -/
  | rplane (l : BitVec 1) (pip : BitVec 4)
  /-- RPLANE_T (R164): Toggles the active plane. -/
  | rplaneT (pip : BitVec 4)
  /-- RSAVE (R184): Writes the array save area to LS. -/
  | rsave (a : BitVec 4) (pip : BitVec 4)
  /-- RLOAD (R184): Restores the array state from an LS save area. -/
  | rload (a : BitVec 4) (pip : BitVec 4)
  /-- RMON_OFF (R172): Turns the norm monitor off. -/
  | rmonOff (pip : BitVec 4)
  /-- RMON_ON (R172): Turns the norm monitor on for the drains that follow. -/
  | rmonOn (pip : BitVec 4)
  /-- RMON_CLR (R172): Clears NDRIFT and NDCNT. -/
  | rmonClr (pip : BitVec 4)
  /-- LOOPE (R9): Captures the next length words for an engine and runs them count times from loop memory. -/
  | loope (e : BitVec 2) (l : BitVec 8) (c : BitVec 13)
  /-- ROLE (R250): Run header: counts a beat, applies the drift stall, then executes or skips the run. -/
  | role (m : BitVec 16) (l : BitVec 7)
  /-- CHBEG (R252): Opens a team stream after checking it against the binding table. -/
  | chbeg (i : BitVec 12) (n : BitVec 5)
  /-- CHEND (R253): Closing team barrier that checks every hand-over pair is empty. -/
  | chend
  /-- CHLOOP (R256): Repeats a span of runs count times. -/
  | chloop (s : BitVec 7) (c : BitVec 16)
  /-- XFER_G (R258): Hands a scalar register from one role to another. -/
  | xferG (f : BitVec 4) (t : BitVec 4) (s : BitVec 5) (r : BitVec 5)
  /-- XFER_V (R258): Hands a vector register from one role to another through C. -/
  | xferV (f : BitVec 4) (t : BitVec 4) (s : BitVec 4) (r : BitVec 4)
  /-- XFER_B (R259): Hands a block over a channel, moved by a copy engine. -/
  | xferB (f : BitVec 4) (t : BitVec 4) (c : BitVec 5) (z : BitVec 8)
  /-- DRIFT (R254): Sets DRIFT_BOUND for later headers. -/
  | drift (n : BitVec 8)
  /-- TSYNC (R257): Barrier of every member of the team. -/
  | tsync
  /-- BRANCH_RESOLVE (R65), a step without an encoding: A conditional branch resolves; the winning half of the split buffer feeds issue and the losing half is discarded. -/
  | branchResolve (core : Nat)
  /-- PIPDEAD_DETECT (R14), a step without an encoding: The core raises PIPDEAD when all four sequencers have been stuck with nothing outstanding. -/
  | pipdeadDetect (core : Nat)
  /-- ENGINE_RETIRE (R23), a step without an encoding: An engine sequencer reaches its halt marker and retires. -/
  | engineRetire (core : Nat) (e : Eng)
  /-- ITERATION_START (R229), a step without an encoding: The walker hands the next iteration to a gang, with its registers preloaded. -/
  | iterationStart (gang : Nat)
  /-- PTS_IDLE_ADVANCE (R285), a step without an encoding: A sequencer's PTS advances by 1 after 4,096 cycles without an increase. -/
  | ptsIdleAdvance (core : Nat) (q : Seq)
  /-- HOME_LOAD (R283), a step without an encoding: The home slice serves a load request and grants or renews the line's lease. -/
  | homeLoad (req : Nat)
  /-- HOME_WRITE_PERFORM (R284), a step without an encoding: A store or granule write performs at its home with wts above the line's lease. -/
  | homeWritePerform (req : Nat)
  /-- HOME_ATOMIC_PERFORM (R115), a step without an encoding: An atomic, reduction or slot merge performs indivisibly at its home slice. -/
  | homeAtomicPerform (req : Nat)
  /-- AOSEQ_ARRIVAL (R119), a step without an encoding: An ordered atomic arrives at its home and performs, is buffered, is removed or is refused. -/
  | aoseqArrival (core : Nat)
  /-- AOSEQ_RESEND (R119), a step without an encoding: A refused ordered atomic is sent again after a backoff. -/
  | aoseqResend (core : Nat)
  /-- COMBINING_BUFFER_TIMEOUT (R100), a step without an encoding: A write-combining buffer is sent 256 cycles after its first byte. -/
  | combiningBufferTimeout (core : Nat) (line : Nat)
  /-- COPY_ENGINE_START (R192), a step without an encoding: The pod copy engine starts a queued copy in its round-robin and reads its records. -/
  | copyEngineStart (pod : Nat)
  /-- COPY_COMPLETE (R194), a step without an encoding: A copy finishes its granules, writes its completion record and makes its token done. -/
  | copyComplete (op : Nat)
  /-- TPREF_COMPLETE (R195), a step without an encoding: The last prefetched line is resident and the token is done. -/
  | tprefComplete (op : Nat)
  /-- BARRIER_PHASE_COMPLETE (R201), a step without an encoding: A barrier's count is reached; the phase completes, waiters are released and the next phase opens. -/
  | barrierPhaseComplete (gang : Nat) (b : Nat)
  /-- FABRIC_BARRIER_PACKET (R204), a step without an encoding: The counting device receives a remote barrier arrival packet and counts it, or refuses it. -/
  | fabricBarrierPacket (part : Nat) (entry : Nat) (round : Nat) (ts : BitVec 64)
  /-- FABRIC_BARRIER_COMPLETION (R204), a step without an encoding: A completion packet arrives and completes the local waiters of the fabric barrier. -/
  | fabricBarrierCompletion (part : Nat) (entry : Nat) (round : Nat) (ts : BitVec 64)
  /-- FABRIC_MESSAGE_ARRIVAL (R208), a step without an encoding: A fabric message arrives, its CRC is checked, and it is written or rejected. -/
  | fabricMessageArrival (op : Nat) (msg : Nat) (ok : Bool)
  /-- FABRIC_MESSAGE_RESEND (R209), a step without an encoding: A message that failed its check is resent; at the ninth failure the operation fails with FABRIC. -/
  | fabricMessageResend (op : Nat) (msg : Nat)
  /-- FABRIC_OP_COMPLETE (R208), a step without an encoding: Every message has been acknowledged and the FSEND or FGET token is done. -/
  | fabricOpComplete (op : Nat)
  /-- FLUSH_MARKER_GATHER (R295), a step without an encoding: A destination has gathered the flush markers of all paths and reports it. -/
  | flushMarkerGather (op : Nat)
  /-- PLANE_LOAD_COMPLETE (R157), a step without an encoding: A plane loader writes stage 32 and is performed. -/
  | planeLoadComplete (core : Nat)
  /-- VECTOR_EXIT (R158), a step without an encoding: A vector leaves the array and is appended to the output buffer. -/
  | vectorExit (core : Nat)
  /-- TSTAT_UPDATE (R169), a step without an encoding: A drain's tile-status update lands 24 cycles after the draining word. -/
  | tstatUpdate (core : Nat)
  /-- GUARD_DECISION (R308), a step without an encoding: With every member arrived at GEND, the gang commits or discards the guard buffers. -/
  | guardDecision (gang : Nat)
  /-- FALLBACK (R307), a step without an encoding: A forbidden operation in the surrogate phase discards every buffer and queues the iteration for redo. -/
  | fallback (core : Nat) (cause : BitVec 8)
  /-- LAUNCH_ADMIT (R226), a step without an encoding: The scheduler checks a submitted launch record and enters it in its queue with a number. -/
  | launchAdmit (die : Nat)
  /-- LAUNCH_READY (R233), a step without an encoding: A waiting launch's signal waits all hold and it takes a launch slot. -/
  | launchReady (launch : Nat)
  /-- SCHEDULER_TICK (R239), a step without an encoding: 10 µs pass since the scheduler's last decision. -/
  | schedulerTick (die : Nat)
  /-- LAUNCH_AGING (R239), a step without an encoding: A launch ready for 1 ms without binding gains one effective priority level. -/
  | launchAging (launch : Nat)
  /-- GANG_PREEMPTIBLE (R241), a step without an encoding: A core blocked past the yield threshold makes its gang preemptible. -/
  | gangPreemptible (core : Nat)
  /-- WAIT_TIMEOUT (R242), a step without an encoding: A wait's timeout passes and the waiting word traps WAITTO. -/
  | waitTimeout (core : Nat) (q : Seq)
  /-- LAUNCH_COMPLETE (R235), a step without an encoding: A draining launch resolves its last work and completes with a completion ts and a status. -/
  | launchComplete (launch : Nat)
  /-- BANK_DRAIN_COMPLETE (R272), a step without an encoding: Pod banks finish their role conversion and the PHASE token is done. -/
  | bankDrainComplete (gang : Nat)
  /-- WINDOW_WORD_PERFORM (R280), a step without an encoding: The home die performs a queued window word and stores its status. -/
  | windowWordPerform (op : Nat)
  /-- OBJECT_CALL_LOG (R318), a step without an encoding: A call or query reaches the object's home, is checked, and is logged, held or refused. -/
  | objectCallLog (op : Nat)
  /-- HELD_CALL_TIMEOUT (R319), a step without an encoding: A held call outlives its wait timeout and fails with WAITTO without being logged. -/
  | heldCallTimeout (op : Nat)
  /-- REPLAY_APPLY_ENTRY (R320), a step without an encoding: A die's replay engine runs a log entry's method on its replica and writes the result. -/
  | replayApplyEntry (die : Nat) (obj : Nat)
  /-- REPLAY_QUERY_RUN (R323), a step without an encoding: A query runs between entries on the caller's die and writes its result block. -/
  | replayQueryRun (op : Nat)
  /-- REPLICA_CRC_COMPARE (R325), a step without an encoding: With all four CRCs posted, the home compares them and fails the object on a mismatch. -/
  | replicaCrcCompare (obj : Nat)
  /-- HEADER_DIVERGENCE (R251), a step without an encoding: The router finds different header addresses for one beat, and every member traps CHOR. -/
  | headerDivergence (team : Nat) (beat : BitVec 32)
  /-- DRIFT_STALL_RELEASE (R255), a step without an encoding: A member stalled at a header is released when every member has reached beat b - n. -/
  | driftStallRelease (core : Nat)
  /-- HANDOVER_MESSAGE_ARRIVAL (R258), a step without an encoding: A hand-over message lands in its pair and a waiting receiver takes it. -/
  | handoverMessageArrival (team : Nat) (msg : Nat)
  /-- HANDOVER_BLOCK_MOVE (R259), a step without an encoding: A copy engine finishes moving a hand-over block and the channel cursors advance. -/
  | handoverBlockMove (team : Nat) (msg : Nat)
  /-- TEAM_BARRIER_COMPLETE (R257), a step without an encoding: Every member has arrived at TSYNC or CHEND; PTS values rise and the members continue. -/
  | teamBarrierComplete (team : Nat)
  /-- ENGINE_TRAP_ENTRY (R355), a step without an encoding: After an L, C or T trap, S enters the trap at its next word boundary or wait. -/
  | engineTrapEntry (core : Nat)
  /-- HUSK_RESUME (R357), a step without an encoding: Husk repairs a trap or replayable fault and resumes the core. -/
  | huskResume (core : Nat) (pc : BitVec 64)
  /-- HUSK_END_LAUNCH (R357), a step without an encoding: Husk ends the launch, which enters draining with the trap's cause. -/
  | huskEndLaunch (core : Nat)
  /-- CONTEXT_SAVE_COMPLETE (R364), a step without an encoding: A core's context save finishes and the gang becomes resumable. -/
  | contextSaveComplete (core : Nat)
  /-- QUEUE_RESET_COMPLETE (R365), a step without an encoding: Every operation of the reset queue has resolved, and the reset is final. -/
  | queueResetComplete (part : Nat) (queue : Nat)
  /-- PATROL_SCRUB (R394), a step without an encoding: The patrol scrubber reads words on its schedule and corrects errors or records faults. -/
  | patrolScrub (addr : Nat) (uncorrectable : Bool)
  /-- HUSK_TIMER_EXPIRY (R383), a step without an encoding: The Husk timer expires and Husk is entered. -/
  | huskTimerExpiry (core : Nat)
  /-- HUSK_FAILURE (R383), a step without an encoding: A failure inside Husk ends every launch of the partition and stops its queues. -/
  | huskFailure (core : Nat)
  /-- QWIDX_WRITE (R372), a step without an encoding: A doorbell write takes effect after earlier aperture writes and lets Hilum take commands. -/
  | qwidxWrite (vf : Nat) (q : Nat) (v : BitVec 32)
  /-- QCFG_WRITE (R370), a step without an encoding: Enables or disables an invocation queue, resetting its indices on enable. -/
  | qcfgWrite (vf : Nat) (q : Nat) (v : BitVec 64)
  /-- COMPLETION_WRITE (R369), a step without an encoding: A completion lands in the completion ring once there is room, with an optional interrupt. -/
  | completionWrite (vf : Nat) (q : Nat)
  /-- INVOKE (R376), a step without an encoding: Host command that checks residency, sets RELOC values and enters the slot's launches. -/
  | invoke (part : Nat)
  /-- LOAD_SLOT (R379), a step without an encoding: Host command that verifies, checks and installs a slot image and pins its windows. -/
  | loadSlot (part : Nat)
  /-- UNLOAD_SLOT (R379), a step without an encoding: Host command that releases a slot's pins and objects unless its launches are still running. -/
  | unloadSlot (part : Nat)
  /-- SIGNAL_SET (R377), a step without an encoding: Host command that sets a signal as a release. -/
  | signalSet (part : Nat)
  /-- SIGNAL_ADD (R377), a step without an encoding: Host command that adds to a signal as a release. -/
  | signalAdd (part : Nat)
  /-- RESET_QUEUE (R365), a step without an encoding: Host command that ends every launch of one queue. -/
  | resetQueue (part : Nat)
  /-- PREEMPT (R377), a step without an encoding: Host command that preempts every running gang of a launch queue. -/
  | preempt (part : Nat)
  /-- INVALID_COMMAND (R374), a step without an encoding: A command with an invalid opcode or reserved field completes with status 0x80. -/
  | invalidCommand (part : Nat)
  /-- APERTURE_READ (R371), a step without an encoding: A host read through BAR2 is translated, checked and served at the Hilum agent's timestamp. -/
  | apertureRead (vf : Nat) (off : Nat) (n : Nat)
  /-- APERTURE_WRITE (R371), a step without an encoding: A host write through BAR2 is translated, checked and performed. -/
  | apertureWrite (vf : Nat) (off : Nat) (n : Nat) (v : Nat)
  /-- HILUM_TS_ADVANCE (R371), a step without an encoding: The Hilum agent's timestamp rises by 1 after 4,096 idle cycles of die 0. -/
  | hilumTsAdvance (vf : Nat)
  /-- VF_FLR (R370), a step without an encoding: A function-level reset clears the VF's queue registers and APBASE. -/
  | vfFlr (vf : Nat)
  /-- PARTITION_CREATE (R382), a step without an encoding: Creates a partition from its control block after zeroising its resources. -/
  | partitionCreate (part : Nat) (cb : BitVec 64)
  /-- PARTITION_DESTROY (R382), a step without an encoding: Resets every queue, unloads every slot and frees the partition. -/
  | partitionDestroy (part : Nat)
  /-- PARTITION_UPDATE (R382), a step without an encoding: Changes share, lease, yield threshold and pin budget, and rereads the fabric-barrier table. -/
  | partitionUpdate (part : Nat)
  /-- INVALIDATE_TLBS (R382), a step without an encoding: Invalidates every TLB entry of the partition. -/
  | invalidateTlbs (part : Nat)
  /-- REVOKE_PINS (R382), a step without an encoding: Releases a slot's pins and marks them revoked. -/
  | revokePins (part : Nat) (slot : Nat)
  /-- COLD_START (R386), a step without an encoding: Power-on or a cold reset runs the start sequence with HBM training. -/
  | coldStart
  /-- WARM_START (R386), a step without an encoding: A warm or hot reset runs the start sequence with the saved training results. -/
  | warmStart
  /-- START_TIMEOUT (R386), a step without an encoding: A start that does not reach ready within 30 s fails. -/
  | startTimeout
  /-- RECOVERY_IMAGE (R386), a step without an encoding: In recovery, a signed image received on the recovery port is verified. -/
  | recoveryImage (image : Nat)
  /-- GET_VERSION (R387), a step without an encoding: SPDM request answered by PF 0. -/
  | getVersion
  /-- GET_CAPABILITIES (R387), a step without an encoding: SPDM capabilities request. -/
  | getCapabilities
  /-- NEGOTIATE_ALGORITHMS (R387), a step without an encoding: SPDM algorithm negotiation. -/
  | negotiateAlgorithms
  /-- GET_DIGESTS (R387), a step without an encoding: SPDM certificate digest request. -/
  | getDigests
  /-- GET_CERTIFICATE (R387), a step without an encoding: SPDM certificate chain request. -/
  | getCertificate
  /-- CHALLENGE (R387), a step without an encoding: SPDM challenge authentication. -/
  | challenge
  /-- GET_MEASUREMENTS (R387), a step without an encoding: SPDM request that reports the measurement registers. -/
  | getMeasurements
  /-- KEY_EXCHANGE (R387), a step without an encoding: SPDM secured-session key exchange. -/
  | keyExchange
  /-- FINISH (R387), a step without an encoding: SPDM session finish. -/
  | finish
  /-- IDE_KM_KEY_PROGRAM (R388), a step without an encoding: Programs IDE stream keys inside an SPDM session. -/
  | ideKmKeyProgram (stream : Nat) (key : BitVec 256)
  /-- POWER_WINDOW (R391), a step without an encoding: At each 10 µs window end, the power controller sets the swallow fraction. -/
  | powerWindow (die : Nat) (power : BitVec 64) (temp : BitVec 64)
  /-- DVFS_REQUEST (R392), a step without an encoding: A write of DVFSREQ checks an operating point and starts the change. -/
  | dvfsRequest (die : Nat) (v : BitVec 64)
  /-- DVFS_STEP_COMPLETE (R392), a step without an encoding: The voltage and frequency steps settle, and busy clears with the result. -/
  | dvfsStepComplete (die : Nat)
  /-- RECCTL_WRITE (R396), a step without an encoding: Sets the record or replay mode of a partition, or is refused while its launches run. -/
  | recctlWrite (part : Nat) (v : BitVec 64)
  /-- REGISTER_WRITE (R368), a step without an encoding: A write to a device register that has no behaviour row of its own stores the value. -/
  | registerWrite (off : Nat) (v : BitVec 64)
  /-- SPLITTER_STEER (R7), a step without an encoding: The splitter steers the next fetched word into its destination queue, capturing LOOPE bodies and raising the ILLEGAL trap for a bad engine word. -/
  | splitterSteer (core : Nat)
  /-- ROOT_COMPLEX_ACK (R102), a step without an encoding: The root complex acknowledges a system-scope write, which releases waiting STRL.SYS or FENCE.SYS words and copy tokens. -/
  | rootComplexAck (op : Nat)
  /-- HOST_READ_COMPLETION (R293), a step without an encoding: A system-scope read of host memory returns its data over Hilum after about 1,800 cycles. -/
  | hostReadCompletion (op : Nat)
  /-- CONTEXT_RESTORE_COMPLETE (R364), a step without an encoding: A core's context restore finishes, and its sequencers resume from their saved state. -/
  | contextRestoreComplete (core : Nat)
  /-- REPLAY_ARRIVAL_TIMEOUT (R397), a step without an encoding: In replay mode, a recorded FADD arrival that does not come within the launch's wait timeout ends its launch with WAITTO and a fault record. -/
  | replayArrivalTimeout (launch : Nat)
  deriving DecidableEq, Repr

end Sys2Proof
end

