-- ==== Sys2Proof/WellFormed.lean ====
section
/-! DEFINITION. Sys2Proof/WellFormed.lean: the field values that the encoding tables admit and that the text calls
`ILLEGAL` before a word executes (R63, R64). Values that a word meets only when it executes (a shift amount of `SLLI`, a
record, a register) are checked in its meaning. -/

namespace Sys2Proof

/-- fn of the words that name a format-table entry: 0 to 17 (R159). -/
def fnLegal (f : BitVec 6) : Bool := decide (f.toNat ≤ 17)

/-- RPUSHV: the last vector register is at most v15 (R166). -/
def rpushvLegal (n v : BitVec 4) (f : BitVec 6) : Bool := fnLegal f && decide (v.toNat + n.toNat ≤ 15)

/-- LOOPE: engine 3 and length 0 are illegal (Table 01.3). -/
def loopeLegal (e : BitVec 2) (l : BitVec 8) : Bool := e != 3 && l != 0

/-- ROLE: an empty mask and run length 0 are illegal (Table 03.10). -/
def roleLegal (m : BitVec 16) (l : BitVec 7) : Bool := m != 0 && l != 0

/-- CHBEG: 1 to 16 roles (Table 03.10). -/
def chbegLegal (n : BitVec 5) : Bool := decide (1 ≤ n.toNat ∧ n.toNat ≤ 16)

/-- CHLOOP: span 0 and count 0 are illegal (Table 03.10). -/
def chloopLegal (s : BitVec 7) (c : BitVec 16) : Bool := s != 0 && c != 0

/-- A width of DEFER and DRAIN: 1 to 4 lanes from a register on, the last at most v15 (R141, R142). -/
def widthLegal (v w : BitVec 4) : Bool := decide (1 ≤ w.toNat ∧ w.toNat ≤ 4 ∧ v.toNat + w.toNat ≤ 16)

/-- Access size codes 0 and 1 (Table 03.1). -/
def sizeLegal (z : BitVec 3) : Bool := decide (z.toNat ≤ 1)

/-- Whether the static field values of an instruction are all legal. -/
def Instr.legal : Instr → Bool
  | .br pr n _ => !(pr == 0 && n == 1)
  | .call pr n _ => !(pr == 0 && n == 1)
  | .mova _ _ e _ => e != 3
  | .movar _ _ _ e _ => e != 3
  | .movl _ _ e _ => e != 3
  | .pippush c _ => c == 0 || c == 7
  | .pippop c _ => c == 1 || c == 6
  | .amoSwap _ _ _ z => sizeLegal z
  | .amoAdd _ _ _ z => sizeLegal z
  | .amoAnd _ _ _ z => sizeLegal z
  | .amoOr _ _ _ z => sizeLegal z
  | .amoXor _ _ _ z => sizeLegal z
  | .amoMin _ _ _ z => sizeLegal z
  | .amoMax _ _ _ z => sizeLegal z
  | .amoMinz _ _ _ z => sizeLegal z
  | .amoMaxz _ _ _ z => sizeLegal z
  | .redAdd _ _ z => sizeLegal z
  | .redAnd _ _ z => sizeLegal z
  | .redOr _ _ z => sizeLegal z
  | .redXor _ _ z => sizeLegal z
  | .redMin _ _ z => sizeLegal z
  | .redMax _ _ z => sizeLegal z
  | .redMinz _ _ z => sizeLegal z
  | .redMaxz _ _ z => sizeLegal z
  | .cas _ _ _ z => sizeLegal z
  | .aoseqSwap _ _ _ z => sizeLegal z
  | .aoseqAdd _ _ _ z => sizeLegal z
  | .aoseqAnd _ _ _ z => sizeLegal z
  | .aoseqOr _ _ _ z => sizeLegal z
  | .aoseqXor _ _ _ z => sizeLegal z
  | .aoseqMin _ _ _ z => sizeLegal z
  | .aoseqMax _ _ _ z => sizeLegal z
  | .aoseqMinz _ _ _ z => sizeLegal z
  | .aoseqMaxz _ _ _ z => sizeLegal z
  | .udf _ => true
  | .ldq _ _ l _ => decide (1 ≤ l.toNat ∧ l.toNat ≤ 32)
  | .vfadd _ _ _ t _ _ => t != 3
  | .vfsub _ _ _ t _ _ => t != 3
  | .vfmul _ _ _ t _ _ => t != 3
  | .vfma _ _ _ t _ _ => t != 3
  | .vfmin _ _ _ t _ _ => t != 3
  | .vfmax _ _ _ t _ _ => t != 3
  | .vfabs _ _ t _ _ => t != 3
  | .vfneg _ _ t _ _ => t != 3
  | .vfdiv _ _ _ t _ _ => t != 3
  | .vfsqrt _ _ t _ _ => t != 3
  | .vfrsq _ _ t _ _ => t != 3
  | .vcmpUn _ _ _ t _ _ => t != 0
  | .vrsum _ _ t _ _ => t != 3
  | .vrmax _ _ t _ _ => t != 3
  | .vrmin _ _ t _ _ => t != 3
  | .xclr q _ => decide (q.toNat < 4)
  | .xmac q _ _ _ _ => decide (q.toNat < 4)
  | .xsum q _ _ _ => decide (q.toNat < 4)
  | .xrnd _ q _ => decide (q.toNat < 4)
  | .xput q _ _ => decide (q.toNat < 4)
  | .xget q _ _ => decide (q.toNat < 4)
  | .xsave q _ _ => decide (q.toNat < 4)
  | .xload q _ _ => decide (q.toNat < 4)
  | .defer a w _ _ => widthLegal a w
  | .drain d w b _ => widthLegal d w && !(decide (d.toNat ≤ b.toNat ∧ b.toNat < d.toNat + w.toNat))
  | .vrand _ _ _ w _ _ => decide (w.toNat ≤ 3)
  | .rpush _ _ f _ => fnLegal f
  | .rpushv n v f _ _ => rpushvLegal n v f
  | .rpop _ _ _ f _ => fnLegal f
  | .rpopv _ _ _ f _ _ => fnLegal f
  | .rstream _ _ _ f _ => fnLegal f
  | .loope e l _ => loopeLegal e l
  | .role m l => roleLegal m l
  | .chbeg _ n => chbegLegal n
  | .chloop s c => chloopLegal s c
  | _ => true

end Sys2Proof
end

