-- ==== Sys2Proof/Decode.lean ====
section
/-! DEFINITION. Sys2Proof/Decode.lean: the decoder and, after it, the encoder.
A word is read in two steps. `unpack` splits it into the fields of its format (R55 to R59, R70), which E and OP select
(Tables 03.7 to 03.10); `ofFmt` finds the row by its fn, kind or sub value and checks the fields that the row leaves
reserved (R63). `toFmt` and `pack` go the other way. Values of a field that a row admits and that the text calls
`ILLEGAL` are no matter of decoding: Instr.legal (WellFormed.lean) has them. -/

namespace Sys2Proof

/-- Why a word is no instruction (Table 03.5). -/
inductive DecodeError where
  /-- The OP is unassigned in its space. -/
  | unassignedOp (e : BitVec 3) (op : BitVec 6)
  /-- The fn, kind or sub value is unassigned. -/
  | unassignedFn (e : BitVec 3) (op : BitVec 6) (fn : Nat)
  /-- A reserved or unused field of the named row is not zero. -/
  | reservedField (mnemonic : String)
  deriving DecidableEq, Repr

/-- The formats of R56 to R59 and the field layouts of Table 03.10. -/
inductive FmtKind where
  | sr | si | sm | sa | ss | sb | a | ev | ei | em | et
  | xExt | xTws | xFmtx
  | mLoop | mRole | mBeg | mSpan | mXfer | mBound
  deriving DecidableEq, Repr

/-- The words of the R and M spaces, as the decoder reads them before they become instructions: the compiler cannot
build the constructors of Instr above the 245th, so what runs works on these (`RMInstr.toInstr` gives the instruction). -/
inductive RMInstr where
  | angl (l : BitVec 1) (a : BitVec 4) (x : BitVec 1) (y : BitVec 1) (z : BitVec 1) (pip : BitVec 4)
  | abmp (l : BitVec 1) (a : BitVec 4) (pip : BitVec 4)
  | rscl (l : BitVec 1) (a : BitVec 4) (pip : BitVec 4)
  | rsclV (l : BitVec 1) (v : BitVec 4) (pip : BitVec 4)
  | rlane (a : BitVec 4) (pip : BitVec 4)
  | rpush (n : BitVec 4) (a : BitVec 4) (f : BitVec 6) (pip : BitVec 4)
  | rpushv (n : BitVec 4) (v : BitVec 4) (f : BitVec 6) (m : BitVec 1) (pip : BitVec 4)
  | rpop (t : BitVec 4) (a : BitVec 4) (b : BitVec 4) (f : BitVec 6) (pip : BitVec 4)
  | rpopv (d : BitVec 4) (t : BitVec 4) (v : BitVec 4) (f : BitVec 6) (m : BitVec 1) (pip : BitVec 4)
  | reos (pip : BitVec 4)
  | rstream (n : BitVec 4) (a : BitVec 4) (b : BitVec 4) (f : BitVec 6) (pip : BitVec 4)
  | rsweep (a : BitVec 4) (b : BitVec 4) (pip : BitVec 4)
  | rplane (l : BitVec 1) (pip : BitVec 4)
  | rplaneT (pip : BitVec 4)
  | rsave (a : BitVec 4) (pip : BitVec 4)
  | rload (a : BitVec 4) (pip : BitVec 4)
  | rmonOff (pip : BitVec 4)
  | rmonOn (pip : BitVec 4)
  | rmonClr (pip : BitVec 4)
  | loope (e : BitVec 2) (l : BitVec 8) (c : BitVec 13)
  | role (m : BitVec 16) (l : BitVec 7)
  | chbeg (i : BitVec 12) (n : BitVec 5)
  | chend
  | chloop (s : BitVec 7) (c : BitVec 16)
  | xferG (f : BitVec 4) (t : BitVec 4) (s : BitVec 5) (r : BitVec 5)
  | xferV (f : BitVec 4) (t : BitVec 4) (s : BitVec 4) (r : BitVec 4)
  | xferB (f : BitVec 4) (t : BitVec 4) (c : BitVec 5) (z : BitVec 8)
  | drift (n : BitVec 8)
  | tsync
  deriving DecidableEq, Repr

/-- A decoded word. -/
inductive Decoded where
  | word (i : Instr)
  | rm (i : RMInstr)
  deriving DecidableEq, Repr

/-- The instruction of a word of the R or M space. -/
noncomputable def RMInstr.toInstr : RMInstr → Instr
  | .angl l a x y z pip => .angl l a x y z pip
  | .abmp l a pip => .abmp l a pip
  | .rscl l a pip => .rscl l a pip
  | .rsclV l v pip => .rsclV l v pip
  | .rlane a pip => .rlane a pip
  | .rpush n a f pip => .rpush n a f pip
  | .rpushv n v f m pip => .rpushv n v f m pip
  | .rpop t a b f pip => .rpop t a b f pip
  | .rpopv d t v f m pip => .rpopv d t v f m pip
  | .reos pip => .reos pip
  | .rstream n a b f pip => .rstream n a b f pip
  | .rsweep a b pip => .rsweep a b pip
  | .rplane l pip => .rplane l pip
  | .rplaneT pip => .rplaneT pip
  | .rsave a pip => .rsave a pip
  | .rload a pip => .rload a pip
  | .rmonOff pip => .rmonOff pip
  | .rmonOn pip => .rmonOn pip
  | .rmonClr pip => .rmonClr pip
  | .loope e l c => .loope e l c
  | .role m l => .role m l
  | .chbeg i n => .chbeg i n
  | .chend => .chend
  | .chloop s c => .chloop s c
  | .xferG f t s r => .xferG f t s r
  | .xferV f t s r => .xferV f t s r
  | .xferB f t c z => .xferB f t c z
  | .drift n => .drift n
  | .tsync => .tsync

/-- The instruction of a decoded word. -/
noncomputable def Decoded.toInstr : Decoded → Instr
  | .word i => i
  | .rm i => i.toInstr

/-- Whether the static field values of an R or M word are legal; `RMInstr.legal_eq` says that it is `Instr.legal`. -/
def RMInstr.legal : RMInstr → Bool
  | .rpush _ _ f _ => fnLegal f
  | .rpushv n v f _ _ => rpushvLegal n v f
  | .rpop _ _ _ f _ => fnLegal f
  | .rpopv _ _ _ f _ _ => fnLegal f
  | .rstream _ _ _ f _ => fnLegal f
  | .loope e l _ => loopeLegal e l
  | .role m l => roleLegal m l
  | .chbeg _ n => chbegLegal n
  | .chloop s c => chloopLegal s c
  | _ => true

theorem RMInstr.legal_eq (r : RMInstr) : r.toInstr.legal = r.legal := by cases r <;> rfl

/-- Whether the static field values of a decoded word are legal. -/
def Decoded.legal : Decoded → Bool
  | .word i => i.legal
  | .rm i => i.legal

theorem Decoded.legal_eq (d : Decoded) : d.toInstr.legal = d.legal := by
  cases d with
  | word i => rfl
  | rm r => exact r.legal_eq

/-- A word split into the fields of its format. -/
inductive Fmt where
  | sr (op : BitVec 6) (gd : BitVec 5) (ga : BitVec 5) (gb : BitVec 5) (fn : BitVec 5) (pr : BitVec 3)
  | si (op : BitVec 6) (gd : BitVec 5) (ga : BitVec 5) (imm : BitVec 13)
  | sm (op : BitVec 6) (gd : BitVec 5) (ga : BitVec 5) (hint : BitVec 3) (imm : BitVec 10)
  | sa (op : BitVec 6) (gd : BitVec 5) (ga : BitVec 5) (size : BitVec 2) (sys : BitVec 1) (imm : BitVec 10)
  | ss (op : BitVec 6) (gd : BitVec 5) (ga : BitVec 5) (idx : BitVec 13)
  | sb (op : BitVec 6) (pr : BitVec 3) (neg : BitVec 1) (off : BitVec 19)
  | a (op : BitVec 6) (kout : BitVec 6) (ga : BitVec 5) (gb : BitVec 5) (gc : BitVec 5) (nw : BitVec 2)
  | ev (e : BitVec 3) (op : BitVec 6) (d : BitVec 4) (a : BitVec 4) (b : BitVec 4) (fn : BitVec 6) (m : BitVec 1) (pip : BitVec 4)
  | ei (e : BitVec 3) (op : BitVec 6) (d : BitVec 4) (a : BitVec 4) (imm : BitVec 10) (m : BitVec 1) (pip : BitVec 4)
  | em (e : BitVec 3) (op : BitVec 6) (a : BitVec 4) (b : BitVec 4) (hint : BitVec 3) (len : BitVec 7) (g : BitVec 1) (pip : BitVec 4)
  | et (e : BitVec 3) (op : BitVec 6) (tile : BitVec 2) (index : BitVec 6) (v : BitVec 4) (kind : BitVec 3) (fmt : BitVec 3) (m : BitVec 1) (pip : BitVec 4)
  | xExt (payload : BitVec 27)
  | xTws (k1 : BitVec 6) (k2 : BitVec 6) (k3 : BitVec 6) (rsv : BitVec 9)
  | xFmtx (inp : BitVec 4) (out : BitVec 4) (s : BitVec 1) (n : BitVec 1) (bias : BitVec 8) (rsv : BitVec 9)
  | mLoop (eng : BitVec 2) (len : BitVec 8) (count : BitVec 13)
  | mRole (mask : BitVec 16) (len : BitVec 7)
  | mBeg (team : BitVec 12) (count : BitVec 5) (rsv : BitVec 6)
  | mSpan (span : BitVec 7) (count : BitVec 16)
  | mXfer (src : BitVec 4) (dst : BitVec 4) (kind : BitVec 2) (snd : BitVec 5) (rcv : BitVec 8)
  | mBound (op : BitVec 6) (rsv : BitVec 15) (n : BitVec 8)
  deriving DecidableEq, Repr

/-- The format that E and OP select (Tables 03.7 to 03.10, Table 03.4). -/
def kindOf (e : BitVec 3) (op : BitVec 6) : Option FmtKind :=
  match e.toNat with
  | 0 =>
    match op.toNat with
    | 0x00 | 0x0a | 0x0b | 0x12 | 0x14 | 0x15 | 0x16 | 0x17 | 0x18 | 0x19 | 0x1a | 0x1b | 0x1c | 0x30 | 0x31 | 0x32 | 0x33 | 0x34 | 0x35 | 0x36 | 0x38 | 0x39 | 0x3b | 0x3c | 0x3d | 0x3e | 0x3f => some .sr
    | 0x01 | 0x02 | 0x03 | 0x04 | 0x05 | 0x06 | 0x07 | 0x08 | 0x09 | 0x3a => some .si
    | 0x10 | 0x11 => some .sb
    | 0x1d | 0x1e => some .ss
    | 0x20 | 0x21 | 0x22 | 0x23 | 0x24 | 0x25 | 0x26 | 0x27 | 0x28 | 0x29 | 0x2a => some .sm
    | 0x2b | 0x2c => some .sa
    | _ => none
  | 1 =>
    match op.toNat with
    | 0x00 | 0x01 | 0x02 | 0x03 | 0x04 | 0x05 | 0x06 | 0x07 | 0x08 | 0x09 | 0x0b | 0x0c | 0x0d | 0x11 | 0x12 | 0x1f => some .ev
    | 0x0a => some .et
    | 0x0e | 0x10 => some .ei
    | _ => none
  | 2 =>
    match op.toNat with
    | 0x00 | 0x01 | 0x02 | 0x03 | 0x04 | 0x05 => some .em
    | 0x10 => some .ei
    | 0x11 | 0x12 | 0x1f => some .ev
    | _ => none
  | 3 =>
    match op.toNat with
    | 0x00 | 0x01 | 0x02 | 0x03 | 0x04 | 0x05 | 0x06 | 0x07 | 0x08 | 0x09 | 0x0a | 0x0b | 0x0c | 0x0d | 0x0e => some .ev
    | _ => none
  | 4 =>
    match op.toNat with
    | 0x00 | 0x01 | 0x02 => some .em
    | 0x03 | 0x11 | 0x12 | 0x1f => some .ev
    | 0x10 => some .ei
    | _ => none
  | 5 =>
    match op.toNat with
    | 0x00 | 0x01 | 0x02 | 0x04 | 0x05 | 0x06 | 0x07 | 0x08 | 0x0a | 0x0b | 0x0c | 0x0d | 0x10 | 0x11 | 0x12 | 0x14 | 0x15 | 0x16 | 0x17 | 0x18 | 0x1a | 0x1b => some .a
    | _ => none
  | 6 =>
    match (op.extractLsb' 4 2).toNat with
    | 0 => some .xExt
    | 1 => some .xTws
    | 2 => some .xFmtx
    | _ => none
  | _ =>
    match op.toNat with
    | 0x00 => some .mLoop
    | 0x01 => some .mRole
    | 0x02 => some .mBeg
    | 0x03 | 0x06 | 0x07 => some .mBound
    | 0x04 => some .mSpan
    | 0x05 => some .mXfer
    | _ => none

/-- The fields of a word, at the bit positions of R56 to R59 and Table 03.10. -/
def unpack (w : InstrWord) : Except DecodeError Fmt :=
  let e := w.extractLsb' 29 3
  let op := w.extractLsb' 23 6
  match kindOf e op with
  | none => .error (.unassignedOp e op)
  | some .sr => .ok (.sr op (w.extractLsb' 18 5) (w.extractLsb' 13 5) (w.extractLsb' 8 5) (w.extractLsb' 3 5) (w.extractLsb' 0 3))
  | some .si => .ok (.si op (w.extractLsb' 18 5) (w.extractLsb' 13 5) (w.extractLsb' 0 13))
  | some .sm => .ok (.sm op (w.extractLsb' 18 5) (w.extractLsb' 13 5) (w.extractLsb' 10 3) (w.extractLsb' 0 10))
  | some .sa => .ok (.sa op (w.extractLsb' 18 5) (w.extractLsb' 13 5) (w.extractLsb' 11 2) (w.extractLsb' 10 1) (w.extractLsb' 0 10))
  | some .ss => .ok (.ss op (w.extractLsb' 18 5) (w.extractLsb' 13 5) (w.extractLsb' 0 13))
  | some .sb => .ok (.sb op (w.extractLsb' 20 3) (w.extractLsb' 19 1) (w.extractLsb' 0 19))
  | some .a => .ok (.a op (w.extractLsb' 17 6) (w.extractLsb' 12 5) (w.extractLsb' 7 5) (w.extractLsb' 2 5) (w.extractLsb' 0 2))
  | some .ev => .ok (.ev e op (w.extractLsb' 19 4) (w.extractLsb' 15 4) (w.extractLsb' 11 4) (w.extractLsb' 5 6) (w.extractLsb' 4 1) (w.extractLsb' 0 4))
  | some .ei => .ok (.ei e op (w.extractLsb' 19 4) (w.extractLsb' 15 4) (w.extractLsb' 5 10) (w.extractLsb' 4 1) (w.extractLsb' 0 4))
  | some .em => .ok (.em e op (w.extractLsb' 19 4) (w.extractLsb' 15 4) (w.extractLsb' 12 3) (w.extractLsb' 5 7) (w.extractLsb' 4 1) (w.extractLsb' 0 4))
  | some .et => .ok (.et e op (w.extractLsb' 21 2) (w.extractLsb' 15 6) (w.extractLsb' 11 4) (w.extractLsb' 8 3) (w.extractLsb' 5 3) (w.extractLsb' 4 1) (w.extractLsb' 0 4))
  | some .xExt => .ok (.xExt (w.extractLsb' 0 27))
  | some .xTws => .ok (.xTws (w.extractLsb' 21 6) (w.extractLsb' 15 6) (w.extractLsb' 9 6) (w.extractLsb' 0 9))
  | some .xFmtx => .ok (.xFmtx (w.extractLsb' 23 4) (w.extractLsb' 19 4) (w.extractLsb' 18 1) (w.extractLsb' 17 1) (w.extractLsb' 9 8) (w.extractLsb' 0 9))
  | some .mLoop => .ok (.mLoop (w.extractLsb' 21 2) (w.extractLsb' 13 8) (w.extractLsb' 0 13))
  | some .mRole => .ok (.mRole (w.extractLsb' 7 16) (w.extractLsb' 0 7))
  | some .mBeg => .ok (.mBeg (w.extractLsb' 11 12) (w.extractLsb' 6 5) (w.extractLsb' 0 6))
  | some .mSpan => .ok (.mSpan (w.extractLsb' 16 7) (w.extractLsb' 0 16))
  | some .mXfer => .ok (.mXfer (w.extractLsb' 19 4) (w.extractLsb' 15 4) (w.extractLsb' 13 2) (w.extractLsb' 8 5) (w.extractLsb' 0 8))
  | some .mBound => .ok (.mBound op (w.extractLsb' 8 15) (w.extractLsb' 0 8))

/-- The instruction when the reserved fields of its row are zero, and the row's name when they are not (R63). -/
def need (mnemonic : String) (zero : Bool) (i : Decoded) : Except DecodeError Decoded :=
  if zero then .ok i else .error (.reservedField mnemonic)

/-- The rows of the format: scalar register words (Tables 03.7 and 04.2). -/
def decodeSr (op : BitVec 6) (gd : BitVec 5) (ga : BitVec 5) (gb : BitVec 5) (fn : BitVec 5) (pr : BitVec 3) : Except DecodeError Decoded :=
  match op.toNat with
  | 0x00 =>
    match fn.toNat with
    | 0 => .ok (.word (.add gd ga gb pr))
    | 1 => .ok (.word (.sub gd ga gb pr))
    | 2 => .ok (.word (.and gd ga gb pr))
    | 3 => .ok (.word (.or gd ga gb pr))
    | 4 => .ok (.word (.xor gd ga gb pr))
    | 5 => .ok (.word (.sll gd ga gb pr))
    | 6 => .ok (.word (.srl gd ga gb pr))
    | 7 => .ok (.word (.sra gd ga gb pr))
    | 8 => .ok (.word (.mul gd ga gb pr))
    | 9 => .ok (.word (.mulh gd ga gb pr))
    | 10 => .ok (.word (.mulhz gd ga gb pr))
    | 11 => .ok (.word (.div gd ga gb pr))
    | 12 => .ok (.word (.divz gd ga gb pr))
    | 13 => .ok (.word (.rem gd ga gb pr))
    | 14 => .ok (.word (.remz gd ga gb pr))
    | 15 => .ok (.word (.min gd ga gb pr))
    | 16 => .ok (.word (.max gd ga gb pr))
    | 17 => .ok (.word (.minz gd ga gb pr))
    | 18 => .ok (.word (.maxz gd ga gb pr))
    | 19 => .ok (.word (.slt gd ga gb pr))
    | 20 => .ok (.word (.sltz gd ga gb pr))
    | 21 => .ok (.word (.seq gd ga gb pr))
    | 22 => need "CLZ" (gb == 0x0#5) (.word (.clz gd ga pr))
    | 23 => need "POPC" (gb == 0x0#5) (.word (.popc gd ga pr))
    | 24 => .ok (.word (.addsh gd ga gb pr))
    | v => .error (.unassignedFn 0x0#3 op v)
  | 0x0a =>
    match fn.toNat with
    | 0 => need "PSET_EQ" ((gd.extractLsb' 3 2) == 0x0#2) (.word (.psetEq (gd.extractLsb' 0 3) ga gb pr))
    | 1 => need "PSET_NE" ((gd.extractLsb' 3 2) == 0x0#2) (.word (.psetNe (gd.extractLsb' 0 3) ga gb pr))
    | 2 => need "PSET_LT" ((gd.extractLsb' 3 2) == 0x0#2) (.word (.psetLt (gd.extractLsb' 0 3) ga gb pr))
    | 3 => need "PSET_GE" ((gd.extractLsb' 3 2) == 0x0#2) (.word (.psetGe (gd.extractLsb' 0 3) ga gb pr))
    | 4 => need "PSET_LTZ" ((gd.extractLsb' 3 2) == 0x0#2) (.word (.psetLtz (gd.extractLsb' 0 3) ga gb pr))
    | 5 => need "PSET_GEZ" ((gd.extractLsb' 3 2) == 0x0#2) (.word (.psetGez (gd.extractLsb' 0 3) ga gb pr))
    | 6 => need "PSET_TSTAT" ((gd.extractLsb' 3 2) == 0x0#2 && (ga.extractLsb' 4 1) == 0x0#1 && gb == 0x0#5) (.word (.psetTstat (gd.extractLsb' 0 3) (ga.extractLsb' 0 4) pr))
    | v => .error (.unassignedFn 0x0#3 op v)
  | 0x0b =>
    match fn.toNat with
    | 0 => need "PAND" ((gd.extractLsb' 3 2) == 0x0#2 && (ga.extractLsb' 3 2) == 0x0#2 && (gb.extractLsb' 3 2) == 0x0#2) (.word (.pand (gd.extractLsb' 0 3) (ga.extractLsb' 0 3) (gb.extractLsb' 0 3) pr))
    | 1 => need "POR" ((gd.extractLsb' 3 2) == 0x0#2 && (ga.extractLsb' 3 2) == 0x0#2 && (gb.extractLsb' 3 2) == 0x0#2) (.word (.por (gd.extractLsb' 0 3) (ga.extractLsb' 0 3) (gb.extractLsb' 0 3) pr))
    | 2 => need "PXOR" ((gd.extractLsb' 3 2) == 0x0#2 && (ga.extractLsb' 3 2) == 0x0#2 && (gb.extractLsb' 3 2) == 0x0#2) (.word (.pxor (gd.extractLsb' 0 3) (ga.extractLsb' 0 3) (gb.extractLsb' 0 3) pr))
    | 3 => need "PNOT" ((gd.extractLsb' 3 2) == 0x0#2 && (ga.extractLsb' 3 2) == 0x0#2 && gb == 0x0#5) (.word (.pnot (gd.extractLsb' 0 3) (ga.extractLsb' 0 3) pr))
    | v => .error (.unassignedFn 0x0#3 op v)
  | 0x12 => need "JMPR" (gb == 0x0#5 && fn == 0x0#5) (.word (.jmpr gd ga pr))
  | 0x14 => need "MOVA" ((gd.extractLsb' 4 1) == 0x0#1 && gb == 0x0#5 && (fn.extractLsb' 2 3) == 0x0#3) (.word (.mova (gd.extractLsb' 0 4) ga (fn.extractLsb' 0 2) pr))
  | 0x15 => need "MOVAR" ((gd.extractLsb' 4 1) == 0x0#1 && gb == 0x0#5) (.word (.movar (gd.extractLsb' 0 4) ga (fn.extractLsb' 2 3) (fn.extractLsb' 0 2) pr))
  | 0x16 => need "MOVL" ((gd.extractLsb' 1 4) == 0x0#4 && gb == 0x0#5 && (fn.extractLsb' 2 3) == 0x0#3) (.word (.movl (gd.extractLsb' 0 1) ga (fn.extractLsb' 0 2) pr))
  | 0x17 => need "MSEL" ((gd.extractLsb' 3 2) == 0x0#2 && ga == 0x0#5 && gb == 0x0#5 && fn == 0x0#5) (.word (.msel (gd.extractLsb' 0 3) pr))
  | 0x18 => need "PIPPUSH" (gd == 0x0#5 && ga == 0x0#5 && gb == 0x0#5) (.word (.pippush fn pr))
  | 0x19 => need "PIPPOP" (gd == 0x0#5 && ga == 0x0#5 && gb == 0x0#5) (.word (.pippop fn pr))
  | 0x1a => need "TWAIT" (gd == 0x0#5 && ga == 0x0#5 && (gb.extractLsb' 1 4) == 0x0#4) (.word (.twait ((gb.extractLsb' 0 1) ++ fn) pr))
  | 0x1b => need "TTEST" ((gd.extractLsb' 3 2) == 0x0#2 && ga == 0x0#5 && (gb.extractLsb' 1 4) == 0x0#4) (.word (.ttest (gd.extractLsb' 0 3) ((gb.extractLsb' 0 1) ++ fn) pr))
  | 0x1c => need "TFREE" (gd == 0x0#5 && ga == 0x0#5 && (gb.extractLsb' 1 4) == 0x0#4) (.word (.tfree ((gb.extractLsb' 0 1) ++ fn) pr))
  | 0x30 =>
    match fn.toNat with
    | 0 => .ok (.word (.amoSwap gd ga gb pr))
    | 1 => .ok (.word (.amoAdd gd ga gb pr))
    | 2 => .ok (.word (.amoAnd gd ga gb pr))
    | 3 => .ok (.word (.amoOr gd ga gb pr))
    | 4 => .ok (.word (.amoXor gd ga gb pr))
    | 5 => .ok (.word (.amoMin gd ga gb pr))
    | 6 => .ok (.word (.amoMax gd ga gb pr))
    | 7 => .ok (.word (.amoMinz gd ga gb pr))
    | 8 => .ok (.word (.amoMaxz gd ga gb pr))
    | 9 => need "AMO_FADD" (pr == 0x0#3) (.word (.amoFadd gd ga gb))
    | 10 => need "AMO_XADD" (pr == 0x0#3) (.word (.amoXadd gd ga gb))
    | v => .error (.unassignedFn 0x0#3 op v)
  | 0x31 =>
    match fn.toNat with
    | 1 => need "RED_ADD" (gd == 0x0#5) (.word (.redAdd ga gb pr))
    | 2 => need "RED_AND" (gd == 0x0#5) (.word (.redAnd ga gb pr))
    | 3 => need "RED_OR" (gd == 0x0#5) (.word (.redOr ga gb pr))
    | 4 => need "RED_XOR" (gd == 0x0#5) (.word (.redXor ga gb pr))
    | 5 => need "RED_MIN" (gd == 0x0#5) (.word (.redMin ga gb pr))
    | 6 => need "RED_MAX" (gd == 0x0#5) (.word (.redMax ga gb pr))
    | 7 => need "RED_MINZ" (gd == 0x0#5) (.word (.redMinz ga gb pr))
    | 8 => need "RED_MAXZ" (gd == 0x0#5) (.word (.redMaxz ga gb pr))
    | 9 => need "RED_FADD" (gd == 0x0#5 && pr == 0x0#3) (.word (.redFadd ga gb))
    | 10 => need "RED_XADD" (gd == 0x0#5 && pr == 0x0#3) (.word (.redXadd ga gb))
    | v => .error (.unassignedFn 0x0#3 op v)
  | 0x32 => need "CAS" (fn == 0x0#5) (.word (.cas gd ga gb pr))
  | 0x33 =>
    match fn.toNat with
    | 0 => .ok (.word (.aoseqSwap gd ga gb pr))
    | 1 => .ok (.word (.aoseqAdd gd ga gb pr))
    | 2 => .ok (.word (.aoseqAnd gd ga gb pr))
    | 3 => .ok (.word (.aoseqOr gd ga gb pr))
    | 4 => .ok (.word (.aoseqXor gd ga gb pr))
    | 5 => .ok (.word (.aoseqMin gd ga gb pr))
    | 6 => .ok (.word (.aoseqMax gd ga gb pr))
    | 7 => .ok (.word (.aoseqMinz gd ga gb pr))
    | 8 => .ok (.word (.aoseqMaxz gd ga gb pr))
    | 9 => need "AOSEQ_FADD" (pr == 0x0#3) (.word (.aoseqFadd gd ga gb))
    | v => .error (.unassignedFn 0x0#3 op v)
  | 0x34 =>
    match fn.toNat with
    | 0 => need "FENCE_SYS" (gd == 0x0#5 && ga == 0x0#5 && gb == 0x0#5) (.word (.fenceSys pr))
    | 1 => need "FENCE_FAB" (gd == 0x0#5 && ga == 0x0#5 && gb == 0x0#5) (.word (.fenceFab pr))
    | v => .error (.unassignedFn 0x0#3 op v)
  | 0x35 =>
    match fn.toNat with
    | 0 => need "CACHEOP_CLEAN" (gd == 0x0#5) (.word (.cacheopClean ga gb pr))
    | 1 => need "CACHEOP_DROP" (gd == 0x0#5) (.word (.cacheopDrop ga gb pr))
    | 2 => need "CACHEOP_DEMOTE" (gd == 0x0#5) (.word (.cacheopDemote ga gb pr))
    | 3 => need "CACHEOP_SYSINV" (gd == 0x0#5) (.word (.cacheopSysinv ga gb pr))
    | v => .error (.unassignedFn 0x0#3 op v)
  | 0x36 => need "GEND" (ga == 0x0#5 && gb == 0x0#5 && fn == 0x0#5) (.word (.gend gd pr))
  | 0x38 => need "SHARE" (gd == 0x0#5 && gb == 0x0#5 && fn == 0x0#5) (.word (.share ga pr))
  | 0x39 => need "HYIELD" (gd == 0x0#5 && ga == 0x0#5 && gb == 0x0#5 && fn == 0x0#5) (.word (.hyield pr))
  | 0x3b => need "ERET" (gd == 0x0#5 && gb == 0x0#5 && fn == 0x0#5) (.word (.eret ga pr))
  | 0x3c => need "HALT" (gd == 0x0#5 && ga == 0x0#5 && gb == 0x0#5 && fn == 0x0#5) (.word (.halt pr))
  | 0x3d => need "YIELD" (gd == 0x0#5 && ga == 0x0#5 && gb == 0x0#5 && fn == 0x0#5) (.word (.yield pr))
  | 0x3e => need "BRK" (gd == 0x0#5 && ga == 0x0#5) (.word (.brk (gb ++ fn) pr))
  | 0x3f => .ok (.word (.udf (gd ++ ga ++ gb ++ fn ++ pr)))
  | _ => .error (.unassignedOp 0x0#3 op)

/-- The rows of the format: immediate words. -/
def decodeSi (op : BitVec 6) (gd : BitVec 5) (ga : BitVec 5) (imm : BitVec 13) : Except DecodeError Decoded :=
  match op.toNat with
  | 0x01 => .ok (.word (.addi gd ga imm))
  | 0x02 => .ok (.word (.andi gd ga imm))
  | 0x03 => .ok (.word (.ori gd ga imm))
  | 0x04 => .ok (.word (.xori gd ga imm))
  | 0x05 => .ok (.word (.slli gd ga imm))
  | 0x06 => .ok (.word (.srli gd ga imm))
  | 0x07 => .ok (.word (.srai gd ga imm))
  | 0x08 => .ok (.word (.slti gd ga imm))
  | 0x09 => need "MOVI" (ga == 0x0#5) (.word (.movi gd imm))
  | 0x3a => need "TRAP" (gd == 0x0#5) (.word (.trap ga imm))
  | _ => .error (.unassignedOp 0x0#3 op)

/-- The rows of the format: loads and stores. -/
def decodeSm (op : BitVec 6) (gd : BitVec 5) (ga : BitVec 5) (hint : BitVec 3) (imm : BitVec 10) : Except DecodeError Decoded :=
  match op.toNat with
  | 0x20 => .ok (.word (.ld8 gd ga hint imm))
  | 0x21 => .ok (.word (.ld16 gd ga hint imm))
  | 0x22 => .ok (.word (.ld32 gd ga hint imm))
  | 0x23 => .ok (.word (.ld64 gd ga hint imm))
  | 0x24 => .ok (.word (.lds8 gd ga hint imm))
  | 0x25 => .ok (.word (.lds16 gd ga hint imm))
  | 0x26 => .ok (.word (.lds32 gd ga hint imm))
  | 0x27 => .ok (.word (.st8 gd ga hint imm))
  | 0x28 => .ok (.word (.st16 gd ga hint imm))
  | 0x29 => .ok (.word (.st32 gd ga hint imm))
  | 0x2a => .ok (.word (.st64 gd ga hint imm))
  | _ => .error (.unassignedOp 0x0#3 op)

/-- The rows of the format: scoped loads and stores. -/
def decodeSa (op : BitVec 6) (gd : BitVec 5) (ga : BitVec 5) (size : BitVec 2) (sys : BitVec 1) (imm : BitVec 10) : Except DecodeError Decoded :=
  match op.toNat with
  | 0x2b => .ok (.word (.ldaq gd ga size sys imm))
  | 0x2c => .ok (.word (.strl gd ga size sys imm))
  | _ => .error (.unassignedOp 0x0#3 op)

/-- The rows of the format: system-register words. -/
def decodeSs (op : BitVec 6) (gd : BitVec 5) (ga : BitVec 5) (idx : BitVec 13) : Except DecodeError Decoded :=
  match op.toNat with
  | 0x1d => need "SRD" (ga == 0x0#5) (.word (.srd gd idx))
  | 0x1e => need "SWR" (gd == 0x0#5) (.word (.swr ga idx))
  | _ => .error (.unassignedOp 0x0#3 op)

/-- The rows of the format: relative branches. -/
def decodeSb (op : BitVec 6) (pr : BitVec 3) (neg : BitVec 1) (off : BitVec 19) : Except DecodeError Decoded :=
  match op.toNat with
  | 0x10 => .ok (.word (.br pr neg off))
  | 0x11 => .ok (.word (.call pr neg off))
  | _ => .error (.unassignedOp 0x0#3 op)

/-- The rows of the format: A words (Table 03.8). -/
def decodeA (op : BitVec 6) (kout : BitVec 6) (ga : BitVec 5) (gb : BitVec 5) (gc : BitVec 5) (nw : BitVec 2) : Except DecodeError Decoded :=
  match op.toNat with
  | 0x00 => .ok (.word (.copy kout ga gb gc nw))
  | 0x01 => .ok (.word (.copyl kout ga gb gc nw))
  | 0x02 => need "TPREF" (gc == 0x0#5) (.word (.tpref kout ga gb nw))
  | 0x04 => need "BAR" (gb == 0x0#5 && gc == 0x0#5) (.word (.bar kout ga nw))
  | 0x05 => need "BARA" (gb == 0x0#5 && gc == 0x0#5) (.word (.bara kout ga nw))
  | 0x06 => need "BARAX" (gb == 0x0#5 && gc == 0x0#5) (.word (.barax kout ga nw))
  | 0x07 => need "BARW" (gb == 0x0#5 && gc == 0x0#5) (.word (.barw kout ga nw))
  | 0x08 => .ok (.word (.collx kout ga gb gc nw))
  | 0x0a => need "LNCH" (gb == 0x0#5 && gc == 0x0#5) (.word (.lnch kout ga nw))
  | 0x0b => need "GLNCH" (gb == 0x0#5 && gc == 0x0#5) (.word (.glnch kout ga nw))
  | 0x0c => need "SIGS" (gc == 0x0#5) (.word (.sigs kout ga gb nw))
  | 0x0d => need "SIGW" (gc == 0x0#5) (.word (.sigw kout ga gb nw))
  | 0x10 => .ok (.word (.rcall kout ga gb gc nw))
  | 0x11 => .ok (.word (.rqry kout ga gb gc nw))
  | 0x12 => need "RTRIM" (gb == 0x0#5 && gc == 0x0#5) (.word (.rtrim kout ga nw))
  | 0x14 => need "WPIN" (gc == 0x0#5) (.word (.wpin kout ga gb nw))
  | 0x15 => need "WUNPIN" (gc == 0x0#5) (.word (.wunpin kout ga gb nw))
  | 0x16 => need "WOWN" (gc == 0x0#5) (.word (.wown kout ga gb nw))
  | 0x17 => need "PHASE" (gc == 0x0#5) (.word (.phase kout ga gb nw))
  | 0x18 => .ok (.word (.tokn kout ga gb gc nw))
  | 0x1a => .ok (.word (.fsend kout ga gb gc nw))
  | 0x1b => .ok (.word (.fget kout ga gb gc nw))
  | _ => .error (.unassignedOp 0x5#3 op)

/-- The rows of the format: engine words of the EV format (Table 03.9). -/
def decodeEv (e : BitVec 3) (op : BitVec 6) (d : BitVec 4) (a : BitVec 4) (b : BitVec 4) (fn : BitVec 6) (m : BitVec 1) (pip : BitVec 4) : Except DecodeError Decoded :=
  match e.toNat with
  | 1 =>
    match op.toNat with
    | 0x00 =>
      match fn.toNat with
      | 0 => .ok (.word (.vadd d a b m pip))
      | 1 => .ok (.word (.vsub d a b m pip))
      | 2 => .ok (.word (.vmul d a b m pip))
      | 3 => .ok (.word (.vmin d a b m pip))
      | 4 => .ok (.word (.vmax d a b m pip))
      | 5 => .ok (.word (.vand d a b m pip))
      | 6 => .ok (.word (.vor d a b m pip))
      | 7 => .ok (.word (.vxor d a b m pip))
      | 8 => .ok (.word (.vsll d a b m pip))
      | 9 => .ok (.word (.vsrl d a b m pip))
      | 10 => .ok (.word (.vsra d a b m pip))
      | 11 => need "VABS" (b == 0x0#4) (.word (.vabs d a m pip))
      | 12 => .ok (.word (.vminz d a b m pip))
      | 13 => .ok (.word (.vmaxz d a b m pip))
      | v => .error (.unassignedFn e op v)
    | 0x01 =>
      match (fn.extractLsb' 0 4).toNat with
      | 0 => need "VFADD" ((fn.extractLsb' 0 4) == 0x0#4) (.word (.vfadd d a b (fn.extractLsb' 4 2) m pip))
      | 1 => need "VFSUB" ((fn.extractLsb' 0 4) == 0x1#4) (.word (.vfsub d a b (fn.extractLsb' 4 2) m pip))
      | 2 => need "VFMUL" ((fn.extractLsb' 0 4) == 0x2#4) (.word (.vfmul d a b (fn.extractLsb' 4 2) m pip))
      | 3 => need "VFMA" ((fn.extractLsb' 0 4) == 0x3#4) (.word (.vfma d a b (fn.extractLsb' 4 2) m pip))
      | 4 => need "VFMIN" ((fn.extractLsb' 0 4) == 0x4#4) (.word (.vfmin d a b (fn.extractLsb' 4 2) m pip))
      | 5 => need "VFMAX" ((fn.extractLsb' 0 4) == 0x5#4) (.word (.vfmax d a b (fn.extractLsb' 4 2) m pip))
      | 6 => need "VFABS" (b == 0x0#4 && (fn.extractLsb' 0 4) == 0x6#4) (.word (.vfabs d a (fn.extractLsb' 4 2) m pip))
      | 7 => need "VFNEG" (b == 0x0#4 && (fn.extractLsb' 0 4) == 0x7#4) (.word (.vfneg d a (fn.extractLsb' 4 2) m pip))
      | 8 => need "VFDIV" ((fn.extractLsb' 0 4) == 0x8#4) (.word (.vfdiv d a b (fn.extractLsb' 4 2) m pip))
      | 9 => need "VFSQRT" (b == 0x0#4 && (fn.extractLsb' 0 4) == 0x9#4) (.word (.vfsqrt d a (fn.extractLsb' 4 2) m pip))
      | 10 => need "VFRSQ" (b == 0x0#4 && (fn.extractLsb' 0 4) == 0xa#4) (.word (.vfrsq d a (fn.extractLsb' 4 2) m pip))
      | v => .error (.unassignedFn e op v)
    | 0x02 =>
      match (fn.extractLsb' 0 4).toNat with
      | 0 => need "VCMP_EQ" ((d.extractLsb' 3 1) == 0x0#1 && (fn.extractLsb' 0 4) == 0x0#4) (.word (.vcmpEq (d.extractLsb' 0 3) a b (fn.extractLsb' 4 2) m pip))
      | 1 => need "VCMP_NE" ((d.extractLsb' 3 1) == 0x0#1 && (fn.extractLsb' 0 4) == 0x1#4) (.word (.vcmpNe (d.extractLsb' 0 3) a b (fn.extractLsb' 4 2) m pip))
      | 2 => need "VCMP_LT" ((d.extractLsb' 3 1) == 0x0#1 && (fn.extractLsb' 0 4) == 0x2#4) (.word (.vcmpLt (d.extractLsb' 0 3) a b (fn.extractLsb' 4 2) m pip))
      | 3 => need "VCMP_LE" ((d.extractLsb' 3 1) == 0x0#1 && (fn.extractLsb' 0 4) == 0x3#4) (.word (.vcmpLe (d.extractLsb' 0 3) a b (fn.extractLsb' 4 2) m pip))
      | 4 => need "VCMP_UN" ((d.extractLsb' 3 1) == 0x0#1 && (fn.extractLsb' 0 4) == 0x4#4) (.word (.vcmpUn (d.extractLsb' 0 3) a b (fn.extractLsb' 4 2) m pip))
      | v => .error (.unassignedFn e op v)
    | 0x03 => need "VCVT" (b == 0x0#4) (.word (.vcvt d a (fn.extractLsb' 3 3) (fn.extractLsb' 0 3) m pip))
    | 0x04 =>
      match fn.toNat with
      | 0 => .ok (.word (.lmul d a b m pip))
      | 1 => .ok (.word (.ldiv d a b m pip))
      | 2 => .ok (.word (.ladd d a b m pip))
      | 3 => .ok (.word (.lsub d a b m pip))
      | 4 => need "LNEG" (b == 0x0#4) (.word (.lneg d a m pip))
      | v => .error (.unassignedFn e op v)
    | 0x05 =>
      match fn.toNat with
      | 0 => need "VMOV" (b == 0x0#4) (.word (.vmov d a m pip))
      | 1 => need "VSEL" (m == 0x0#1) (.word (.vsel d a b pip))
      | 2 => .ok (.word (.vperm d a b m pip))
      | 3 => need "VBCST" (b == 0x0#4) (.word (.vbcst d a m pip))
      | 4 => need "VIOTA" (a == 0x0#4 && b == 0x0#4) (.word (.viota d m pip))
      | v => .error (.unassignedFn e op v)
    | 0x06 =>
      match (fn.extractLsb' 0 4).toNat with
      | 0 => need "VRSUM" (b == 0x0#4 && (fn.extractLsb' 0 4) == 0x0#4) (.word (.vrsum d a (fn.extractLsb' 4 2) m pip))
      | 1 => need "VRMAX" (b == 0x0#4 && (fn.extractLsb' 0 4) == 0x1#4) (.word (.vrmax d a (fn.extractLsb' 4 2) m pip))
      | 2 => need "VRMIN" (b == 0x0#4 && (fn.extractLsb' 0 4) == 0x2#4) (.word (.vrmin d a (fn.extractLsb' 4 2) m pip))
      | 3 => need "VRIADD" (b == 0x0#4 && fn == 0x3#6) (.word (.vriadd d a m pip))
      | v => .error (.unassignedFn e op v)
    | 0x07 =>
      match fn.toNat with
      | 0 => need "XCLR" (a == 0x0#4 && b == 0x0#4 && m == 0x0#1) (.word (.xclr d pip))
      | 1 => .ok (.word (.xmac d a b m pip))
      | 2 => need "XSUM" (b == 0x0#4) (.word (.xsum d a m pip))
      | 3 => need "XRND" (b == 0x0#4 && m == 0x0#1) (.word (.xrnd d a pip))
      | 4 => need "XPUT" (d == 0x0#4 && m == 0x0#1) (.word (.xput a b pip))
      | 5 => need "XGET" (b == 0x0#4 && m == 0x0#1) (.word (.xget d a pip))
      | 6 => need "XSAVE" (d == 0x0#4 && m == 0x0#1) (.word (.xsave a b pip))
      | 7 => need "XLOAD" (b == 0x0#4 && m == 0x0#1) (.word (.xload d a pip))
      | v => .error (.unassignedFn e op v)
    | 0x08 =>
      match fn.toNat with
      | 0 => need "DEFER" (d == 0x0#4) (.word (.defer a b m pip))
      | 1 => need "DRAIN" (m == 0x0#1) (.word (.drain d a b pip))
      | 2 => need "DQCNT" (a == 0x0#4 && b == 0x0#4 && m == 0x0#1) (.word (.dqcnt d pip))
      | 3 => .ok (.word (.vscat d a b m pip))
      | v => .error (.unassignedFn e op v)
    | 0x09 =>
      match fn.toNat with
      | 0 => need "VLD" (b == 0x0#4) (.word (.vld d a m pip))
      | 1 => need "VST" (b == 0x0#4) (.word (.vst d a m pip))
      | 2 => .ok (.word (.vldx d a b m pip))
      | 3 => .ok (.word (.vstx d a b m pip))
      | v => .error (.unassignedFn e op v)
    | 0x0b => .ok (.word (.vrand d a b fn m pip))
    | 0x0c =>
      match fn.toNat with
      | 0 => need "MAND" ((d.extractLsb' 3 1) == 0x0#1 && (a.extractLsb' 3 1) == 0x0#1 && (b.extractLsb' 3 1) == 0x0#1 && m == 0x0#1) (.word (.mand (d.extractLsb' 0 3) (a.extractLsb' 0 3) (b.extractLsb' 0 3) pip))
      | 1 => need "MOR" ((d.extractLsb' 3 1) == 0x0#1 && (a.extractLsb' 3 1) == 0x0#1 && (b.extractLsb' 3 1) == 0x0#1 && m == 0x0#1) (.word (.mor (d.extractLsb' 0 3) (a.extractLsb' 0 3) (b.extractLsb' 0 3) pip))
      | 2 => need "MXOR" ((d.extractLsb' 3 1) == 0x0#1 && (a.extractLsb' 3 1) == 0x0#1 && (b.extractLsb' 3 1) == 0x0#1 && m == 0x0#1) (.word (.mxor (d.extractLsb' 0 3) (a.extractLsb' 0 3) (b.extractLsb' 0 3) pip))
      | 3 => need "MNOT" ((d.extractLsb' 3 1) == 0x0#1 && (a.extractLsb' 3 1) == 0x0#1 && b == 0x0#4 && m == 0x0#1) (.word (.mnot (d.extractLsb' 0 3) (a.extractLsb' 0 3) pip))
      | 4 => need "MPOP" ((a.extractLsb' 3 1) == 0x0#1 && b == 0x0#4 && m == 0x0#1) (.word (.mpop d (a.extractLsb' 0 3) pip))
      | 5 => need "MFIRST" ((a.extractLsb' 3 1) == 0x0#1 && b == 0x0#4 && m == 0x0#1) (.word (.mfirst d (a.extractLsb' 0 3) pip))
      | v => .error (.unassignedFn e op v)
    | 0x0d => need "GCHK" (d == 0x0#4 && b == 0x0#4 && fn == 0x0#6) (.word (.gchk a m pip))
    | 0x11 => need "AADD_C" (fn == 0x0#6 && m == 0x0#1) (.word (.aaddC d a b pip))
    | 0x12 => need "AMOV_C" (b == 0x0#4 && fn == 0x0#6 && m == 0x0#1) (.word (.amovC d a pip))
    | 0x1f => need "SYNC_C" (d == 0x0#4 && a == 0x0#4 && b == 0x0#4 && fn == 0x0#6 && m == 0x0#1) (.word (.syncC pip))
    | _ => .error (.unassignedOp e op)
  | 2 =>
    match op.toNat with
    | 0x11 => need "AADD_L" (fn == 0x0#6 && m == 0x0#1) (.word (.aaddL d a b pip))
    | 0x12 => need "AMOV_L" (b == 0x0#4 && fn == 0x0#6 && m == 0x0#1) (.word (.amovL d a pip))
    | 0x1f => need "SYNC_L" (d == 0x0#4 && a == 0x0#4 && b == 0x0#4 && fn == 0x0#6 && m == 0x0#1) (.word (.syncL pip))
    | _ => .error (.unassignedOp e op)
  | 3 =>
    match op.toNat with
    | 0x00 => need "ANGL" ((d.extractLsb' 1 3) == 0x0#3 && b == 0x0#4 && (fn.extractLsb' 3 3) == 0x0#3 && m == 0x0#1) (.rm (.angl (d.extractLsb' 0 1) a (fn.extractLsb' 2 1) (fn.extractLsb' 1 1) (fn.extractLsb' 0 1) pip))
    | 0x01 => need "ABMP" ((d.extractLsb' 1 3) == 0x0#3 && b == 0x0#4 && fn == 0x0#6 && m == 0x0#1) (.rm (.abmp (d.extractLsb' 0 1) a pip))
    | 0x02 =>
      match fn.toNat with
      | 0 => need "RSCL" ((d.extractLsb' 1 3) == 0x0#3 && b == 0x0#4 && m == 0x0#1) (.rm (.rscl (d.extractLsb' 0 1) a pip))
      | 1 => need "RSCL_V" ((d.extractLsb' 1 3) == 0x0#3 && b == 0x0#4 && m == 0x0#1) (.rm (.rsclV (d.extractLsb' 0 1) a pip))
      | v => .error (.unassignedFn e op v)
    | 0x03 => need "RLANE" (d == 0x0#4 && b == 0x0#4 && fn == 0x0#6 && m == 0x0#1) (.rm (.rlane a pip))
    | 0x04 => need "RPUSH" (b == 0x0#4 && m == 0x0#1) (.rm (.rpush d a fn pip))
    | 0x05 => need "RPUSHV" (b == 0x0#4) (.rm (.rpushv d a fn m pip))
    | 0x06 => need "RPOP" (m == 0x0#1) (.rm (.rpop d a b fn pip))
    | 0x07 => .ok (.rm (.rpopv d a b fn m pip))
    | 0x08 => need "REOS" (d == 0x0#4 && a == 0x0#4 && b == 0x0#4 && fn == 0x0#6 && m == 0x0#1) (.rm (.reos pip))
    | 0x09 => need "RSTREAM" (m == 0x0#1) (.rm (.rstream d a b fn pip))
    | 0x0a => need "RSWEEP" (d == 0x0#4 && fn == 0x0#6 && m == 0x0#1) (.rm (.rsweep a b pip))
    | 0x0b =>
      match fn.toNat with
      | 0 => need "RPLANE" ((d.extractLsb' 1 3) == 0x0#3 && a == 0x0#4 && b == 0x0#4 && m == 0x0#1) (.rm (.rplane (d.extractLsb' 0 1) pip))
      | 1 => need "RPLANE_T" (d == 0x0#4 && a == 0x0#4 && b == 0x0#4 && m == 0x0#1) (.rm (.rplaneT pip))
      | v => .error (.unassignedFn e op v)
    | 0x0c => need "RSAVE" (d == 0x0#4 && b == 0x0#4 && fn == 0x0#6 && m == 0x0#1) (.rm (.rsave a pip))
    | 0x0d => need "RLOAD" (d == 0x0#4 && b == 0x0#4 && fn == 0x0#6 && m == 0x0#1) (.rm (.rload a pip))
    | 0x0e =>
      match fn.toNat with
      | 0 => need "RMON_OFF" (d == 0x0#4 && a == 0x0#4 && b == 0x0#4 && m == 0x0#1) (.rm (.rmonOff pip))
      | 1 => need "RMON_ON" (d == 0x0#4 && a == 0x0#4 && b == 0x0#4 && m == 0x0#1) (.rm (.rmonOn pip))
      | 2 => need "RMON_CLR" (d == 0x0#4 && a == 0x0#4 && b == 0x0#4 && m == 0x0#1) (.rm (.rmonClr pip))
      | v => .error (.unassignedFn e op v)
    | _ => .error (.unassignedOp e op)
  | 4 =>
    match op.toNat with
    | 0x03 =>
      match fn.toNat with
      | 0 => need "SFLG_SET" (d == 0x0#4 && a == 0x0#4 && b == 0x0#4 && m == 0x0#1) (.word (.sflgSet pip))
      | 1 => need "SFLG_ST" (b == 0x0#4 && m == 0x0#1) (.word (.sflgSt d a pip))
      | 2 => need "SFLG_STF" (a == 0x0#4 && b == 0x0#4 && m == 0x0#1) (.word (.sflgStf d pip))
      | v => .error (.unassignedFn e op v)
    | 0x11 => need "AADD_T" (fn == 0x0#6 && m == 0x0#1) (.word (.aaddT d a b pip))
    | 0x12 => need "AMOV_T" (b == 0x0#4 && fn == 0x0#6 && m == 0x0#1) (.word (.amovT d a pip))
    | 0x1f => need "SYNC_T" (d == 0x0#4 && a == 0x0#4 && b == 0x0#4 && fn == 0x0#6 && m == 0x0#1) (.word (.syncT pip))
    | _ => .error (.unassignedOp e op)
  | _ => .error (.unassignedOp e op)

/-- The rows of the format: engine words with an immediate. -/
def decodeEi (e : BitVec 3) (op : BitVec 6) (d : BitVec 4) (a : BitVec 4) (imm : BitVec 10) (m : BitVec 1) (pip : BitVec 4) : Except DecodeError Decoded :=
  match e.toNat with
  | 1 =>
    match op.toNat with
    | 0x0e => need "VSPLAT" (a == 0x0#4) (.word (.vsplat d imm m pip))
    | 0x10 => need "AINC_C" (m == 0x0#1) (.word (.aincC d a imm pip))
    | _ => .error (.unassignedOp e op)
  | 2 =>
    match op.toNat with
    | 0x10 => need "AINC_L" (m == 0x0#1) (.word (.aincL d a imm pip))
    | _ => .error (.unassignedOp e op)
  | 4 =>
    match op.toNat with
    | 0x10 => need "AINC_T" (m == 0x0#1) (.word (.aincT d a imm pip))
    | _ => .error (.unassignedOp e op)
  | _ => .error (.unassignedOp e op)

/-- The rows of the format: engine memory words. -/
def decodeEm (e : BitVec 3) (op : BitVec 6) (a : BitVec 4) (b : BitVec 4) (hint : BitVec 3) (len : BitVec 7) (g : BitVec 1) (pip : BitVec 4) : Except DecodeError Decoded :=
  match e.toNat with
  | 2 =>
    match op.toNat with
    | 0x00 => need "LDL" (g == 0x0#1) (.word (.ldl a b hint len pip))
    | 0x01 => need "LDS" (g == 0x0#1) (.word (.lds a b hint len pip))
    | 0x02 => need "LDG" (g == 0x0#1) (.word (.ldg a b hint len pip))
    | 0x03 => need "LDQ" (b == 0x0#4 && g == 0x0#1) (.word (.ldq a hint len pip))
    | 0x04 => need "LDF" (g == 0x0#1) (.word (.ldf a b hint len pip))
    | 0x05 => need "LPF" (b == 0x0#4 && g == 0x0#1) (.word (.lpf a hint len pip))
    | _ => .error (.unassignedOp e op)
  | 4 =>
    match op.toNat with
    | 0x00 => .ok (.word (.ssl a b hint len g pip))
    | 0x01 => .ok (.word (.sss a b hint len g pip))
    | 0x02 => .ok (.word (.ssc a b hint len g pip))
    | _ => .error (.unassignedOp e op)
  | _ => .error (.unassignedOp e op)

/-- The rows of the format: tile words. -/
def decodeEt (e : BitVec 3) (op : BitVec 6) (tile : BitVec 2) (index : BitVec 6) (v : BitVec 4) (kind : BitVec 3) (fmt : BitVec 3) (m : BitVec 1) (pip : BitVec 4) : Except DecodeError Decoded :=
  match e.toNat with
  | 1 =>
    match op.toNat with
    | 0x0a =>
      match kind.toNat with
      | 0 => .ok (.word (.twrow tile index v fmt m pip))
      | 1 => .ok (.word (.trcol tile index v fmt m pip))
      | 2 => .ok (.word (.trrow tile index v fmt m pip))
      | 3 => need "TCLR" (index == 0x0#6 && v == 0x0#4 && fmt == 0x0#3 && m == 0x0#1) (.word (.tclr tile pip))
      | 4 => need "TLD" (index == 0x0#6 && fmt == 0x0#3 && m == 0x0#1) (.word (.tld tile v pip))
      | 5 => need "TST" (index == 0x0#6 && fmt == 0x0#3 && m == 0x0#1) (.word (.tst tile v pip))
      | v => .error (.unassignedFn e op v)
    | _ => .error (.unassignedOp e op)
  | _ => .error (.unassignedOp e op)

/-- The rows of the format: X.EXT. -/
def decodeXExt (payload : BitVec 27) : Except DecodeError Decoded :=
  .ok (.word (.xExt payload))

/-- The rows of the format: X.TWS. -/
def decodeXTws (k1 : BitVec 6) (k2 : BitVec 6) (k3 : BitVec 6) (rsv : BitVec 9) : Except DecodeError Decoded :=
  need "X_TWS" (rsv == 0x0#9) (.word (.xTws k1 k2 k3))

/-- The rows of the format: X.FMTX. -/
def decodeXFmtx (inp : BitVec 4) (out : BitVec 4) (s : BitVec 1) (n : BitVec 1) (bias : BitVec 8) (rsv : BitVec 9) : Except DecodeError Decoded :=
  need "X_FMTX" (rsv == 0x0#9) (.word (.xFmtx inp out s n bias))

/-- The rows of the format: LOOPE. -/
def decodeMLoop (eng : BitVec 2) (len : BitVec 8) (count : BitVec 13) : Except DecodeError Decoded :=
  .ok (.rm (.loope eng len count))

/-- The rows of the format: ROLE. -/
def decodeMRole (mask : BitVec 16) (len : BitVec 7) : Except DecodeError Decoded :=
  .ok (.rm (.role mask len))

/-- The rows of the format: CHBEG. -/
def decodeMBeg (team : BitVec 12) (count : BitVec 5) (rsv : BitVec 6) : Except DecodeError Decoded :=
  need "CHBEG" (rsv == 0x0#6) (.rm (.chbeg team count))

/-- The rows of the format: CHLOOP. -/
def decodeMSpan (span : BitVec 7) (count : BitVec 16) : Except DecodeError Decoded :=
  .ok (.rm (.chloop span count))

/-- The rows of the format: XFER. -/
def decodeMXfer (src : BitVec 4) (dst : BitVec 4) (kind : BitVec 2) (snd : BitVec 5) (rcv : BitVec 8) : Except DecodeError Decoded :=
  match kind.toNat with
  | 0 => need "XFER_G" ((rcv.extractLsb' 5 3) == 0x0#3) (.rm (.xferG src dst snd (rcv.extractLsb' 0 5)))
  | 1 => need "XFER_V" ((snd.extractLsb' 4 1) == 0x0#1 && (rcv.extractLsb' 4 4) == 0x0#4) (.rm (.xferV src dst (snd.extractLsb' 0 4) (rcv.extractLsb' 0 4)))
  | 2 => .ok (.rm (.xferB src dst snd rcv))
  | v => .error (.unassignedFn 0x7#3 0x5#6 v)

/-- The rows of the format: DRIFT, CHEND and TSYNC. -/
def decodeMBound (op : BitVec 6) (rsv : BitVec 15) (n : BitVec 8) : Except DecodeError Decoded :=
  match op.toNat with
  | 0x03 => need "CHEND" (rsv == 0x0#15 && n == 0x0#8) (.rm .chend)
  | 0x06 => need "DRIFT" (rsv == 0x0#15) (.rm (.drift n))
  | 0x07 => need "TSYNC" (rsv == 0x0#15 && n == 0x0#8) (.rm .tsync)
  | _ => .error (.unassignedOp 0x7#3 op)

/-- The row that a split word stands for. -/
def ofFmt : Fmt → Except DecodeError Decoded
  | .sr op gd ga gb fn pr => decodeSr op gd ga gb fn pr
  | .si op gd ga imm => decodeSi op gd ga imm
  | .sm op gd ga hint imm => decodeSm op gd ga hint imm
  | .sa op gd ga size sys imm => decodeSa op gd ga size sys imm
  | .ss op gd ga idx => decodeSs op gd ga idx
  | .sb op pr neg off => decodeSb op pr neg off
  | .a op kout ga gb gc nw => decodeA op kout ga gb gc nw
  | .ev e op d a b fn m pip => decodeEv e op d a b fn m pip
  | .ei e op d a imm m pip => decodeEi e op d a imm m pip
  | .em e op a b hint len g pip => decodeEm e op a b hint len g pip
  | .et e op tile index v kind fmt m pip => decodeEt e op tile index v kind fmt m pip
  | .xExt payload => decodeXExt payload
  | .xTws k1 k2 k3 rsv => decodeXTws k1 k2 k3 rsv
  | .xFmtx inp out s n bias rsv => decodeXFmtx inp out s n bias rsv
  | .mLoop eng len count => decodeMLoop eng len count
  | .mRole mask len => decodeMRole mask len
  | .mBeg team count rsv => decodeMBeg team count rsv
  | .mSpan span count => decodeMSpan span count
  | .mXfer src dst kind snd rcv => decodeMXfer src dst kind snd rcv
  | .mBound op rsv n => decodeMBound op rsv n

/-- The decoder's reading of a word (R63 to R70). -/
def decodeWord (w : InstrWord) : Except DecodeError Decoded :=
  match unpack w with
  | .ok f => ofFmt f
  | .error e => .error e

/-- The instruction that a word stands for (R63 to R70). -/
noncomputable def decode (w : InstrWord) : Except DecodeError Instr :=
  match decodeWord w with
  | .ok d => .ok d.toInstr
  | .error e => .error e

/-- The word at four bytes, little-endian (R55). -/
def wordOfBytes (b0 b1 b2 b3 : Byte) : InstrWord := b3 ++ b2 ++ b1 ++ b0

/-- The instruction at the head of a list of bytes. -/
noncomputable def decodeBytes : List Byte → Option Instr
  | b0 :: b1 :: b2 :: b3 :: _ =>
    match decode (wordOfBytes b0 b1 b2 b3) with
    | .ok i => some i
    | .error _ => none
  | _ => none

/-- The bytes of a word as memory holds them, the least significant first (R55). -/
def bytesOfWord (w : InstrWord) : List Byte :=
  [w.extractLsb' 0 8, w.extractLsb' 8 8, w.extractLsb' 16 8, w.extractLsb' 24 8]

/-- The decoder's answer for the word that the opcode table numbers `w`; the rows without bits have no word. -/
noncomputable def decodeTableWord (nbits w : Nat) : Option Instr :=
  if nbits = 0 ∨ 32 < nbits then none else decodeBytes (bytesOfWord (BitVec.ofNat 32 w))

/-- The fields that the encoding tables give an instruction; the steps without an encoding have none. -/
def toFmt : Instr → Option Fmt
  | .add d a b pr => some (.sr 0x0#6 d a b 0x0#5 pr)
  | .sub d a b pr => some (.sr 0x0#6 d a b 0x1#5 pr)
  | .and d a b pr => some (.sr 0x0#6 d a b 0x2#5 pr)
  | .or d a b pr => some (.sr 0x0#6 d a b 0x3#5 pr)
  | .xor d a b pr => some (.sr 0x0#6 d a b 0x4#5 pr)
  | .sll d a b pr => some (.sr 0x0#6 d a b 0x5#5 pr)
  | .srl d a b pr => some (.sr 0x0#6 d a b 0x6#5 pr)
  | .sra d a b pr => some (.sr 0x0#6 d a b 0x7#5 pr)
  | .mul d a b pr => some (.sr 0x0#6 d a b 0x8#5 pr)
  | .mulh d a b pr => some (.sr 0x0#6 d a b 0x9#5 pr)
  | .mulhz d a b pr => some (.sr 0x0#6 d a b 0xa#5 pr)
  | .div d a b pr => some (.sr 0x0#6 d a b 0xb#5 pr)
  | .divz d a b pr => some (.sr 0x0#6 d a b 0xc#5 pr)
  | .rem d a b pr => some (.sr 0x0#6 d a b 0xd#5 pr)
  | .remz d a b pr => some (.sr 0x0#6 d a b 0xe#5 pr)
  | .min d a b pr => some (.sr 0x0#6 d a b 0xf#5 pr)
  | .max d a b pr => some (.sr 0x0#6 d a b 0x10#5 pr)
  | .minz d a b pr => some (.sr 0x0#6 d a b 0x11#5 pr)
  | .maxz d a b pr => some (.sr 0x0#6 d a b 0x12#5 pr)
  | .slt d a b pr => some (.sr 0x0#6 d a b 0x13#5 pr)
  | .sltz d a b pr => some (.sr 0x0#6 d a b 0x14#5 pr)
  | .seq d a b pr => some (.sr 0x0#6 d a b 0x15#5 pr)
  | .clz d a pr => some (.sr 0x0#6 d a 0x0#5 0x16#5 pr)
  | .popc d a pr => some (.sr 0x0#6 d a 0x0#5 0x17#5 pr)
  | .addsh d a b pr => some (.sr 0x0#6 d a b 0x18#5 pr)
  | .addi d a i => some (.si 0x1#6 d a i)
  | .andi d a i => some (.si 0x2#6 d a i)
  | .ori d a i => some (.si 0x3#6 d a i)
  | .xori d a i => some (.si 0x4#6 d a i)
  | .slli d a i => some (.si 0x5#6 d a i)
  | .srli d a i => some (.si 0x6#6 d a i)
  | .srai d a i => some (.si 0x7#6 d a i)
  | .slti d a i => some (.si 0x8#6 d a i)
  | .movi d i => some (.si 0x9#6 d 0x0#5 i)
  | .psetEq d a b pr => some (.sr 0xa#6 (0x0#2 ++ d) a b 0x0#5 pr)
  | .psetNe d a b pr => some (.sr 0xa#6 (0x0#2 ++ d) a b 0x1#5 pr)
  | .psetLt d a b pr => some (.sr 0xa#6 (0x0#2 ++ d) a b 0x2#5 pr)
  | .psetGe d a b pr => some (.sr 0xa#6 (0x0#2 ++ d) a b 0x3#5 pr)
  | .psetLtz d a b pr => some (.sr 0xa#6 (0x0#2 ++ d) a b 0x4#5 pr)
  | .psetGez d a b pr => some (.sr 0xa#6 (0x0#2 ++ d) a b 0x5#5 pr)
  | .psetTstat d t pr => some (.sr 0xa#6 (0x0#2 ++ d) (0x0#1 ++ t) 0x0#5 0x6#5 pr)
  | .pand d a b pr => some (.sr 0xb#6 (0x0#2 ++ d) (0x0#2 ++ a) (0x0#2 ++ b) 0x0#5 pr)
  | .por d a b pr => some (.sr 0xb#6 (0x0#2 ++ d) (0x0#2 ++ a) (0x0#2 ++ b) 0x1#5 pr)
  | .pxor d a b pr => some (.sr 0xb#6 (0x0#2 ++ d) (0x0#2 ++ a) (0x0#2 ++ b) 0x2#5 pr)
  | .pnot d a pr => some (.sr 0xb#6 (0x0#2 ++ d) (0x0#2 ++ a) 0x0#5 0x3#5 pr)
  | .br pr n o => some (.sb 0x10#6 pr n o)
  | .call pr n o => some (.sb 0x11#6 pr n o)
  | .jmpr d a pr => some (.sr 0x12#6 d a 0x0#5 0x0#5 pr)
  | .mova i a e pr => some (.sr 0x14#6 (0x0#1 ++ i) a 0x0#5 (0x0#3 ++ e) pr)
  | .movar i a r e pr => some (.sr 0x15#6 (0x0#1 ++ i) a 0x0#5 (r ++ e) pr)
  | .movl l a e pr => some (.sr 0x16#6 (0x0#4 ++ l) a 0x0#5 (0x0#3 ++ e) pr)
  | .msel m pr => some (.sr 0x17#6 (0x0#2 ++ m) 0x0#5 0x0#5 0x0#5 pr)
  | .pippush c pr => some (.sr 0x18#6 0x0#5 0x0#5 0x0#5 c pr)
  | .pippop c pr => some (.sr 0x19#6 0x0#5 0x0#5 0x0#5 c pr)
  | .twait k pr => some (.sr 0x1a#6 0x0#5 0x0#5 (0x0#4 ++ (k.extractLsb' 5 1)) (k.extractLsb' 0 5) pr)
  | .ttest d k pr => some (.sr 0x1b#6 (0x0#2 ++ d) 0x0#5 (0x0#4 ++ (k.extractLsb' 5 1)) (k.extractLsb' 0 5) pr)
  | .tfree k pr => some (.sr 0x1c#6 0x0#5 0x0#5 (0x0#4 ++ (k.extractLsb' 5 1)) (k.extractLsb' 0 5) pr)
  | .srd d x => some (.ss 0x1d#6 d 0x0#5 x)
  | .swr a x => some (.ss 0x1e#6 0x0#5 a x)
  | .ld8 d a h i => some (.sm 0x20#6 d a h i)
  | .ld16 d a h i => some (.sm 0x21#6 d a h i)
  | .ld32 d a h i => some (.sm 0x22#6 d a h i)
  | .ld64 d a h i => some (.sm 0x23#6 d a h i)
  | .lds8 d a h i => some (.sm 0x24#6 d a h i)
  | .lds16 d a h i => some (.sm 0x25#6 d a h i)
  | .lds32 d a h i => some (.sm 0x26#6 d a h i)
  | .st8 s a h i => some (.sm 0x27#6 s a h i)
  | .st16 s a h i => some (.sm 0x28#6 s a h i)
  | .st32 s a h i => some (.sm 0x29#6 s a h i)
  | .st64 s a h i => some (.sm 0x2a#6 s a h i)
  | .ldaq d a z y i => some (.sa 0x2b#6 d a z y i)
  | .strl s a z y i => some (.sa 0x2c#6 s a z y i)
  | .amoSwap d a b z => some (.sr 0x30#6 d a b 0x0#5 z)
  | .amoAdd d a b z => some (.sr 0x30#6 d a b 0x1#5 z)
  | .amoAnd d a b z => some (.sr 0x30#6 d a b 0x2#5 z)
  | .amoOr d a b z => some (.sr 0x30#6 d a b 0x3#5 z)
  | .amoXor d a b z => some (.sr 0x30#6 d a b 0x4#5 z)
  | .amoMin d a b z => some (.sr 0x30#6 d a b 0x5#5 z)
  | .amoMax d a b z => some (.sr 0x30#6 d a b 0x6#5 z)
  | .amoMinz d a b z => some (.sr 0x30#6 d a b 0x7#5 z)
  | .amoMaxz d a b z => some (.sr 0x30#6 d a b 0x8#5 z)
  | .amoFadd d a b => some (.sr 0x30#6 d a b 0x9#5 0x0#3)
  | .amoXadd d a b => some (.sr 0x30#6 d a b 0xa#5 0x0#3)
  | .redAdd a b z => some (.sr 0x31#6 0x0#5 a b 0x1#5 z)
  | .redAnd a b z => some (.sr 0x31#6 0x0#5 a b 0x2#5 z)
  | .redOr a b z => some (.sr 0x31#6 0x0#5 a b 0x3#5 z)
  | .redXor a b z => some (.sr 0x31#6 0x0#5 a b 0x4#5 z)
  | .redMin a b z => some (.sr 0x31#6 0x0#5 a b 0x5#5 z)
  | .redMax a b z => some (.sr 0x31#6 0x0#5 a b 0x6#5 z)
  | .redMinz a b z => some (.sr 0x31#6 0x0#5 a b 0x7#5 z)
  | .redMaxz a b z => some (.sr 0x31#6 0x0#5 a b 0x8#5 z)
  | .redFadd a b => some (.sr 0x31#6 0x0#5 a b 0x9#5 0x0#3)
  | .redXadd a b => some (.sr 0x31#6 0x0#5 a b 0xa#5 0x0#3)
  | .cas d a b z => some (.sr 0x32#6 d a b 0x0#5 z)
  | .aoseqSwap d a b z => some (.sr 0x33#6 d a b 0x0#5 z)
  | .aoseqAdd d a b z => some (.sr 0x33#6 d a b 0x1#5 z)
  | .aoseqAnd d a b z => some (.sr 0x33#6 d a b 0x2#5 z)
  | .aoseqOr d a b z => some (.sr 0x33#6 d a b 0x3#5 z)
  | .aoseqXor d a b z => some (.sr 0x33#6 d a b 0x4#5 z)
  | .aoseqMin d a b z => some (.sr 0x33#6 d a b 0x5#5 z)
  | .aoseqMax d a b z => some (.sr 0x33#6 d a b 0x6#5 z)
  | .aoseqMinz d a b z => some (.sr 0x33#6 d a b 0x7#5 z)
  | .aoseqMaxz d a b z => some (.sr 0x33#6 d a b 0x8#5 z)
  | .aoseqFadd d a b => some (.sr 0x33#6 d a b 0x9#5 0x0#3)
  | .fenceSys pr => some (.sr 0x34#6 0x0#5 0x0#5 0x0#5 0x0#5 pr)
  | .fenceFab pr => some (.sr 0x34#6 0x0#5 0x0#5 0x0#5 0x1#5 pr)
  | .cacheopClean a b pr => some (.sr 0x35#6 0x0#5 a b 0x0#5 pr)
  | .cacheopDrop a b pr => some (.sr 0x35#6 0x0#5 a b 0x1#5 pr)
  | .cacheopDemote a b pr => some (.sr 0x35#6 0x0#5 a b 0x2#5 pr)
  | .cacheopSysinv a b pr => some (.sr 0x35#6 0x0#5 a b 0x3#5 pr)
  | .gend d pr => some (.sr 0x36#6 d 0x0#5 0x0#5 0x0#5 pr)
  | .share a pr => some (.sr 0x38#6 0x0#5 a 0x0#5 0x0#5 pr)
  | .hyield pr => some (.sr 0x39#6 0x0#5 0x0#5 0x0#5 0x0#5 pr)
  | .trap a i => some (.si 0x3a#6 0x0#5 a i)
  | .eret a pr => some (.sr 0x3b#6 0x0#5 a 0x0#5 0x0#5 pr)
  | .halt pr => some (.sr 0x3c#6 0x0#5 0x0#5 0x0#5 0x0#5 pr)
  | .yield pr => some (.sr 0x3d#6 0x0#5 0x0#5 0x0#5 0x0#5 pr)
  | .brk c pr => some (.sr 0x3e#6 0x0#5 0x0#5 (c.extractLsb' 5 5) (c.extractLsb' 0 5) pr)
  | .udf x => some (.sr 0x3f#6 (x.extractLsb' 18 5) (x.extractLsb' 13 5) (x.extractLsb' 8 5) (x.extractLsb' 3 5) (x.extractLsb' 0 3))
  | .copy k a b c n => some (.a 0x0#6 k a b c n)
  | .copyl k a b c n => some (.a 0x1#6 k a b c n)
  | .tpref k a b n => some (.a 0x2#6 k a b 0x0#5 n)
  | .bar k a n => some (.a 0x4#6 k a 0x0#5 0x0#5 n)
  | .bara k a n => some (.a 0x5#6 k a 0x0#5 0x0#5 n)
  | .barax k a n => some (.a 0x6#6 k a 0x0#5 0x0#5 n)
  | .barw k a n => some (.a 0x7#6 k a 0x0#5 0x0#5 n)
  | .collx k a b c n => some (.a 0x8#6 k a b c n)
  | .lnch k a n => some (.a 0xa#6 k a 0x0#5 0x0#5 n)
  | .glnch k a n => some (.a 0xb#6 k a 0x0#5 0x0#5 n)
  | .sigs k a b n => some (.a 0xc#6 k a b 0x0#5 n)
  | .sigw k a b n => some (.a 0xd#6 k a b 0x0#5 n)
  | .rcall k a b c n => some (.a 0x10#6 k a b c n)
  | .rqry k a b c n => some (.a 0x11#6 k a b c n)
  | .rtrim k a n => some (.a 0x12#6 k a 0x0#5 0x0#5 n)
  | .wpin k a b n => some (.a 0x14#6 k a b 0x0#5 n)
  | .wunpin k a b n => some (.a 0x15#6 k a b 0x0#5 n)
  | .wown k a b n => some (.a 0x16#6 k a b 0x0#5 n)
  | .phase k a b n => some (.a 0x17#6 k a b 0x0#5 n)
  | .tokn k a b c n => some (.a 0x18#6 k a b c n)
  | .fsend k a b c n => some (.a 0x1a#6 k a b c n)
  | .fget k a b c n => some (.a 0x1b#6 k a b c n)
  | .xExt p => some (.xExt p)
  | .xTws k l m => some (.xTws k l m 0x0#9)
  | .xFmtx i o s n b => some (.xFmtx i o s n b 0x0#9)
  | .ldl a b h l pip => some (.em 0x2#3 0x0#6 a b h l 0x0#1 pip)
  | .lds a b h l pip => some (.em 0x2#3 0x1#6 a b h l 0x0#1 pip)
  | .ldg a b h l pip => some (.em 0x2#3 0x2#6 a b h l 0x0#1 pip)
  | .ldq a h l pip => some (.em 0x2#3 0x3#6 a 0x0#4 h l 0x0#1 pip)
  | .ldf a b h l pip => some (.em 0x2#3 0x4#6 a b h l 0x0#1 pip)
  | .lpf a h l pip => some (.em 0x2#3 0x5#6 a 0x0#4 h l 0x0#1 pip)
  | .ssl a b h l g pip => some (.em 0x4#3 0x0#6 a b h l g pip)
  | .sss a b h l g pip => some (.em 0x4#3 0x1#6 a b h l g pip)
  | .ssc a b h l g pip => some (.em 0x4#3 0x2#6 a b h l g pip)
  | .sflgSet pip => some (.ev 0x4#3 0x3#6 0x0#4 0x0#4 0x0#4 0x0#6 0x0#1 pip)
  | .sflgSt d a pip => some (.ev 0x4#3 0x3#6 d a 0x0#4 0x1#6 0x0#1 pip)
  | .sflgStf d pip => some (.ev 0x4#3 0x3#6 d 0x0#4 0x0#4 0x2#6 0x0#1 pip)
  | .aincL d a i pip => some (.ei 0x2#3 0x10#6 d a i 0x0#1 pip)
  | .aincT d a i pip => some (.ei 0x4#3 0x10#6 d a i 0x0#1 pip)
  | .aincC d a i pip => some (.ei 0x1#3 0x10#6 d a i 0x0#1 pip)
  | .aaddL d a b pip => some (.ev 0x2#3 0x11#6 d a b 0x0#6 0x0#1 pip)
  | .aaddT d a b pip => some (.ev 0x4#3 0x11#6 d a b 0x0#6 0x0#1 pip)
  | .aaddC d a b pip => some (.ev 0x1#3 0x11#6 d a b 0x0#6 0x0#1 pip)
  | .amovL d a pip => some (.ev 0x2#3 0x12#6 d a 0x0#4 0x0#6 0x0#1 pip)
  | .amovT d a pip => some (.ev 0x4#3 0x12#6 d a 0x0#4 0x0#6 0x0#1 pip)
  | .amovC d a pip => some (.ev 0x1#3 0x12#6 d a 0x0#4 0x0#6 0x0#1 pip)
  | .syncL pip => some (.ev 0x2#3 0x1f#6 0x0#4 0x0#4 0x0#4 0x0#6 0x0#1 pip)
  | .syncT pip => some (.ev 0x4#3 0x1f#6 0x0#4 0x0#4 0x0#4 0x0#6 0x0#1 pip)
  | .syncC pip => some (.ev 0x1#3 0x1f#6 0x0#4 0x0#4 0x0#4 0x0#6 0x0#1 pip)
  | .vadd d a b m pip => some (.ev 0x1#3 0x0#6 d a b 0x0#6 m pip)
  | .vsub d a b m pip => some (.ev 0x1#3 0x0#6 d a b 0x1#6 m pip)
  | .vmul d a b m pip => some (.ev 0x1#3 0x0#6 d a b 0x2#6 m pip)
  | .vmin d a b m pip => some (.ev 0x1#3 0x0#6 d a b 0x3#6 m pip)
  | .vmax d a b m pip => some (.ev 0x1#3 0x0#6 d a b 0x4#6 m pip)
  | .vand d a b m pip => some (.ev 0x1#3 0x0#6 d a b 0x5#6 m pip)
  | .vor d a b m pip => some (.ev 0x1#3 0x0#6 d a b 0x6#6 m pip)
  | .vxor d a b m pip => some (.ev 0x1#3 0x0#6 d a b 0x7#6 m pip)
  | .vsll d a b m pip => some (.ev 0x1#3 0x0#6 d a b 0x8#6 m pip)
  | .vsrl d a b m pip => some (.ev 0x1#3 0x0#6 d a b 0x9#6 m pip)
  | .vsra d a b m pip => some (.ev 0x1#3 0x0#6 d a b 0xa#6 m pip)
  | .vabs d a m pip => some (.ev 0x1#3 0x0#6 d a 0x0#4 0xb#6 m pip)
  | .vminz d a b m pip => some (.ev 0x1#3 0x0#6 d a b 0xc#6 m pip)
  | .vmaxz d a b m pip => some (.ev 0x1#3 0x0#6 d a b 0xd#6 m pip)
  | .vfadd d a b t m pip => some (.ev 0x1#3 0x1#6 d a b (t ++ 0x0#4) m pip)
  | .vfsub d a b t m pip => some (.ev 0x1#3 0x1#6 d a b (t ++ 0x1#4) m pip)
  | .vfmul d a b t m pip => some (.ev 0x1#3 0x1#6 d a b (t ++ 0x2#4) m pip)
  | .vfma d a b t m pip => some (.ev 0x1#3 0x1#6 d a b (t ++ 0x3#4) m pip)
  | .vfmin d a b t m pip => some (.ev 0x1#3 0x1#6 d a b (t ++ 0x4#4) m pip)
  | .vfmax d a b t m pip => some (.ev 0x1#3 0x1#6 d a b (t ++ 0x5#4) m pip)
  | .vfabs d a t m pip => some (.ev 0x1#3 0x1#6 d a 0x0#4 (t ++ 0x6#4) m pip)
  | .vfneg d a t m pip => some (.ev 0x1#3 0x1#6 d a 0x0#4 (t ++ 0x7#4) m pip)
  | .vfdiv d a b t m pip => some (.ev 0x1#3 0x1#6 d a b (t ++ 0x8#4) m pip)
  | .vfsqrt d a t m pip => some (.ev 0x1#3 0x1#6 d a 0x0#4 (t ++ 0x9#4) m pip)
  | .vfrsq d a t m pip => some (.ev 0x1#3 0x1#6 d a 0x0#4 (t ++ 0xa#4) m pip)
  | .vcmpEq d a b t m pip => some (.ev 0x1#3 0x2#6 (0x0#1 ++ d) a b (t ++ 0x0#4) m pip)
  | .vcmpNe d a b t m pip => some (.ev 0x1#3 0x2#6 (0x0#1 ++ d) a b (t ++ 0x1#4) m pip)
  | .vcmpLt d a b t m pip => some (.ev 0x1#3 0x2#6 (0x0#1 ++ d) a b (t ++ 0x2#4) m pip)
  | .vcmpLe d a b t m pip => some (.ev 0x1#3 0x2#6 (0x0#1 ++ d) a b (t ++ 0x3#4) m pip)
  | .vcmpUn d a b t m pip => some (.ev 0x1#3 0x2#6 (0x0#1 ++ d) a b (t ++ 0x4#4) m pip)
  | .vcvt d a x y m pip => some (.ev 0x1#3 0x3#6 d a 0x0#4 (x ++ y) m pip)
  | .lmul d a b m pip => some (.ev 0x1#3 0x4#6 d a b 0x0#6 m pip)
  | .ldiv d a b m pip => some (.ev 0x1#3 0x4#6 d a b 0x1#6 m pip)
  | .ladd d a b m pip => some (.ev 0x1#3 0x4#6 d a b 0x2#6 m pip)
  | .lsub d a b m pip => some (.ev 0x1#3 0x4#6 d a b 0x3#6 m pip)
  | .lneg d a m pip => some (.ev 0x1#3 0x4#6 d a 0x0#4 0x4#6 m pip)
  | .vmov d a m pip => some (.ev 0x1#3 0x5#6 d a 0x0#4 0x0#6 m pip)
  | .vsel d a b pip => some (.ev 0x1#3 0x5#6 d a b 0x1#6 0x0#1 pip)
  | .vperm d a b m pip => some (.ev 0x1#3 0x5#6 d a b 0x2#6 m pip)
  | .vbcst d a m pip => some (.ev 0x1#3 0x5#6 d a 0x0#4 0x3#6 m pip)
  | .viota d m pip => some (.ev 0x1#3 0x5#6 d 0x0#4 0x0#4 0x4#6 m pip)
  | .vrsum d a t m pip => some (.ev 0x1#3 0x6#6 d a 0x0#4 (t ++ 0x0#4) m pip)
  | .vrmax d a t m pip => some (.ev 0x1#3 0x6#6 d a 0x0#4 (t ++ 0x1#4) m pip)
  | .vrmin d a t m pip => some (.ev 0x1#3 0x6#6 d a 0x0#4 (t ++ 0x2#4) m pip)
  | .vriadd d a m pip => some (.ev 0x1#3 0x6#6 d a 0x0#4 0x3#6 m pip)
  | .xclr q pip => some (.ev 0x1#3 0x7#6 q 0x0#4 0x0#4 0x0#6 0x0#1 pip)
  | .xmac q a b m pip => some (.ev 0x1#3 0x7#6 q a b 0x1#6 m pip)
  | .xsum q a m pip => some (.ev 0x1#3 0x7#6 q a 0x0#4 0x2#6 m pip)
  | .xrnd d q pip => some (.ev 0x1#3 0x7#6 d q 0x0#4 0x3#6 0x0#1 pip)
  | .xput q b pip => some (.ev 0x1#3 0x7#6 0x0#4 q b 0x4#6 0x0#1 pip)
  | .xget q a pip => some (.ev 0x1#3 0x7#6 q a 0x0#4 0x5#6 0x0#1 pip)
  | .xsave q b pip => some (.ev 0x1#3 0x7#6 0x0#4 q b 0x6#6 0x0#1 pip)
  | .xload q a pip => some (.ev 0x1#3 0x7#6 q a 0x0#4 0x7#6 0x0#1 pip)
  | .defer a w m pip => some (.ev 0x1#3 0x8#6 0x0#4 a w 0x0#6 m pip)
  | .drain d w b pip => some (.ev 0x1#3 0x8#6 d w b 0x1#6 0x0#1 pip)
  | .dqcnt d pip => some (.ev 0x1#3 0x8#6 d 0x0#4 0x0#4 0x2#6 0x0#1 pip)
  | .vscat d a b m pip => some (.ev 0x1#3 0x8#6 d a b 0x3#6 m pip)
  | .vld d a m pip => some (.ev 0x1#3 0x9#6 d a 0x0#4 0x0#6 m pip)
  | .vst d a m pip => some (.ev 0x1#3 0x9#6 d a 0x0#4 0x1#6 m pip)
  | .vldx d a b m pip => some (.ev 0x1#3 0x9#6 d a b 0x2#6 m pip)
  | .vstx d a b m pip => some (.ev 0x1#3 0x9#6 d a b 0x3#6 m pip)
  | .twrow t i v f m pip => some (.et 0x1#3 0xa#6 t i v 0x0#3 f m pip)
  | .trcol t i v f m pip => some (.et 0x1#3 0xa#6 t i v 0x1#3 f m pip)
  | .trrow t i v f m pip => some (.et 0x1#3 0xa#6 t i v 0x2#3 f m pip)
  | .tclr t pip => some (.et 0x1#3 0xa#6 t 0x0#6 0x0#4 0x3#3 0x0#3 0x0#1 pip)
  | .tld t v pip => some (.et 0x1#3 0xa#6 t 0x0#6 v 0x4#3 0x0#3 0x0#1 pip)
  | .tst t v pip => some (.et 0x1#3 0xa#6 t 0x0#6 v 0x5#3 0x0#3 0x0#1 pip)
  | .vrand d a b w m pip => some (.ev 0x1#3 0xb#6 d a b w m pip)
  | .mand d a b pip => some (.ev 0x1#3 0xc#6 (0x0#1 ++ d) (0x0#1 ++ a) (0x0#1 ++ b) 0x0#6 0x0#1 pip)
  | .mor d a b pip => some (.ev 0x1#3 0xc#6 (0x0#1 ++ d) (0x0#1 ++ a) (0x0#1 ++ b) 0x1#6 0x0#1 pip)
  | .mxor d a b pip => some (.ev 0x1#3 0xc#6 (0x0#1 ++ d) (0x0#1 ++ a) (0x0#1 ++ b) 0x2#6 0x0#1 pip)
  | .mnot d a pip => some (.ev 0x1#3 0xc#6 (0x0#1 ++ d) (0x0#1 ++ a) 0x0#4 0x3#6 0x0#1 pip)
  | .mpop d a pip => some (.ev 0x1#3 0xc#6 d (0x0#1 ++ a) 0x0#4 0x4#6 0x0#1 pip)
  | .mfirst d a pip => some (.ev 0x1#3 0xc#6 d (0x0#1 ++ a) 0x0#4 0x5#6 0x0#1 pip)
  | .gchk a m pip => some (.ev 0x1#3 0xd#6 0x0#4 a 0x0#4 0x0#6 m pip)
  | .vsplat d i m pip => some (.ei 0x1#3 0xe#6 d 0x0#4 i m pip)
  | .angl l a x y z pip => some (.ev 0x3#3 0x0#6 (0x0#3 ++ l) a 0x0#4 (0x0#3 ++ x ++ y ++ z) 0x0#1 pip)
  | .abmp l a pip => some (.ev 0x3#3 0x1#6 (0x0#3 ++ l) a 0x0#4 0x0#6 0x0#1 pip)
  | .rscl l a pip => some (.ev 0x3#3 0x2#6 (0x0#3 ++ l) a 0x0#4 0x0#6 0x0#1 pip)
  | .rsclV l v pip => some (.ev 0x3#3 0x2#6 (0x0#3 ++ l) v 0x0#4 0x1#6 0x0#1 pip)
  | .rlane a pip => some (.ev 0x3#3 0x3#6 0x0#4 a 0x0#4 0x0#6 0x0#1 pip)
  | .rpush n a f pip => some (.ev 0x3#3 0x4#6 n a 0x0#4 f 0x0#1 pip)
  | .rpushv n v f m pip => some (.ev 0x3#3 0x5#6 n v 0x0#4 f m pip)
  | .rpop t a b f pip => some (.ev 0x3#3 0x6#6 t a b f 0x0#1 pip)
  | .rpopv d t v f m pip => some (.ev 0x3#3 0x7#6 d t v f m pip)
  | .reos pip => some (.ev 0x3#3 0x8#6 0x0#4 0x0#4 0x0#4 0x0#6 0x0#1 pip)
  | .rstream n a b f pip => some (.ev 0x3#3 0x9#6 n a b f 0x0#1 pip)
  | .rsweep a b pip => some (.ev 0x3#3 0xa#6 0x0#4 a b 0x0#6 0x0#1 pip)
  | .rplane l pip => some (.ev 0x3#3 0xb#6 (0x0#3 ++ l) 0x0#4 0x0#4 0x0#6 0x0#1 pip)
  | .rplaneT pip => some (.ev 0x3#3 0xb#6 0x0#4 0x0#4 0x0#4 0x1#6 0x0#1 pip)
  | .rsave a pip => some (.ev 0x3#3 0xc#6 0x0#4 a 0x0#4 0x0#6 0x0#1 pip)
  | .rload a pip => some (.ev 0x3#3 0xd#6 0x0#4 a 0x0#4 0x0#6 0x0#1 pip)
  | .rmonOff pip => some (.ev 0x3#3 0xe#6 0x0#4 0x0#4 0x0#4 0x0#6 0x0#1 pip)
  | .rmonOn pip => some (.ev 0x3#3 0xe#6 0x0#4 0x0#4 0x0#4 0x1#6 0x0#1 pip)
  | .rmonClr pip => some (.ev 0x3#3 0xe#6 0x0#4 0x0#4 0x0#4 0x2#6 0x0#1 pip)
  | .loope e l c => some (.mLoop e l c)
  | .role m l => some (.mRole m l)
  | .chbeg i n => some (.mBeg i n 0x0#6)
  | .chend => some (.mBound 0x3#6 0x0#15 0x0#8)
  | .chloop s c => some (.mSpan s c)
  | .xferG f t s r => some (.mXfer f t 0x0#2 s (0x0#3 ++ r))
  | .xferV f t s r => some (.mXfer f t 0x1#2 (0x0#1 ++ s) (0x0#4 ++ r))
  | .xferB f t c z => some (.mXfer f t 0x2#2 c z)
  | .drift n => some (.mBound 0x6#6 0x0#15 n)
  | .tsync => some (.mBound 0x7#6 0x0#15 0x0#8)
  | .branchResolve _ => none
  | .pipdeadDetect _ => none
  | .engineRetire _ _ => none
  | .iterationStart _ => none
  | .ptsIdleAdvance _ _ => none
  | .homeLoad _ => none
  | .homeWritePerform _ => none
  | .homeAtomicPerform _ => none
  | .aoseqArrival _ => none
  | .aoseqResend _ => none
  | .combiningBufferTimeout _ _ => none
  | .copyEngineStart _ => none
  | .copyComplete _ => none
  | .tprefComplete _ => none
  | .barrierPhaseComplete _ _ => none
  | .fabricBarrierPacket _ _ _ _ => none
  | .fabricBarrierCompletion _ _ _ _ => none
  | .fabricMessageArrival _ _ _ => none
  | .fabricMessageResend _ _ => none
  | .fabricOpComplete _ => none
  | .flushMarkerGather _ => none
  | .planeLoadComplete _ => none
  | .vectorExit _ => none
  | .tstatUpdate _ => none
  | .guardDecision _ => none
  | .fallback _ _ => none
  | .launchAdmit _ => none
  | .launchReady _ => none
  | .schedulerTick _ => none
  | .launchAging _ => none
  | .gangPreemptible _ => none
  | .waitTimeout _ _ => none
  | .launchComplete _ => none
  | .bankDrainComplete _ => none
  | .windowWordPerform _ => none
  | .objectCallLog _ => none
  | .heldCallTimeout _ => none
  | .replayApplyEntry _ _ => none
  | .replayQueryRun _ => none
  | .replicaCrcCompare _ => none
  | .headerDivergence _ _ => none
  | .driftStallRelease _ => none
  | .handoverMessageArrival _ _ => none
  | .handoverBlockMove _ _ => none
  | .teamBarrierComplete _ => none
  | .engineTrapEntry _ => none
  | .huskResume _ _ => none
  | .huskEndLaunch _ => none
  | .contextSaveComplete _ => none
  | .queueResetComplete _ _ => none
  | .patrolScrub _ _ => none
  | .huskTimerExpiry _ => none
  | .huskFailure _ => none
  | .qwidxWrite _ _ _ => none
  | .qcfgWrite _ _ _ => none
  | .completionWrite _ _ => none
  | .invoke _ => none
  | .loadSlot _ => none
  | .unloadSlot _ => none
  | .signalSet _ => none
  | .signalAdd _ => none
  | .resetQueue _ => none
  | .preempt _ => none
  | .invalidCommand _ => none
  | .apertureRead _ _ _ => none
  | .apertureWrite _ _ _ _ => none
  | .hilumTsAdvance _ => none
  | .vfFlr _ => none
  | .partitionCreate _ _ => none
  | .partitionDestroy _ => none
  | .partitionUpdate _ => none
  | .invalidateTlbs _ => none
  | .revokePins _ _ => none
  | .coldStart => none
  | .warmStart => none
  | .startTimeout => none
  | .recoveryImage _ => none
  | .getVersion => none
  | .getCapabilities => none
  | .negotiateAlgorithms => none
  | .getDigests => none
  | .getCertificate => none
  | .challenge => none
  | .getMeasurements => none
  | .keyExchange => none
  | .finish => none
  | .ideKmKeyProgram _ _ => none
  | .powerWindow _ _ _ => none
  | .dvfsRequest _ _ => none
  | .dvfsStepComplete _ => none
  | .recctlWrite _ _ => none
  | .registerWrite _ _ => none
  | .splitterSteer _ => none
  | .rootComplexAck _ => none
  | .hostReadCompletion _ => none
  | .contextRestoreComplete _ => none
  | .replayArrivalTimeout _ => none

/-- The word of a split instruction, at the bit positions of R56 to R59 and Table 03.10. -/
def pack : Fmt → InstrWord
  | .sr op gd ga gb fn pr => 0x0#3 ++ (op ++ (gd ++ (ga ++ (gb ++ (fn ++ pr)))))
  | .si op gd ga imm => 0x0#3 ++ (op ++ (gd ++ (ga ++ imm)))
  | .sm op gd ga hint imm => 0x0#3 ++ (op ++ (gd ++ (ga ++ (hint ++ imm))))
  | .sa op gd ga size sys imm => 0x0#3 ++ (op ++ (gd ++ (ga ++ (size ++ (sys ++ imm)))))
  | .ss op gd ga idx => 0x0#3 ++ (op ++ (gd ++ (ga ++ idx)))
  | .sb op pr neg off => 0x0#3 ++ (op ++ (pr ++ (neg ++ off)))
  | .a op kout ga gb gc nw => 0x5#3 ++ (op ++ (kout ++ (ga ++ (gb ++ (gc ++ nw)))))
  | .ev e op d a b fn m pip => e ++ (op ++ (d ++ (a ++ (b ++ (fn ++ (m ++ pip))))))
  | .ei e op d a imm m pip => e ++ (op ++ (d ++ (a ++ (imm ++ (m ++ pip)))))
  | .em e op a b hint len g pip => e ++ (op ++ (a ++ (b ++ (hint ++ (len ++ (g ++ pip))))))
  | .et e op tile index v kind fmt m pip => e ++ (op ++ (tile ++ (index ++ (v ++ (kind ++ (fmt ++ (m ++ pip)))))))
  | .xExt payload => 0x6#3 ++ (0x0#2 ++ payload)
  | .xTws k1 k2 k3 rsv => 0x6#3 ++ (0x1#2 ++ (k1 ++ (k2 ++ (k3 ++ rsv))))
  | .xFmtx inp out s n bias rsv => 0x6#3 ++ (0x2#2 ++ (inp ++ (out ++ (s ++ (n ++ (bias ++ rsv))))))
  | .mLoop eng len count => 0x7#3 ++ (0x0#6 ++ (eng ++ (len ++ count)))
  | .mRole mask len => 0x7#3 ++ (0x1#6 ++ (mask ++ len))
  | .mBeg team count rsv => 0x7#3 ++ (0x2#6 ++ (team ++ (count ++ rsv)))
  | .mSpan span count => 0x7#3 ++ (0x4#6 ++ (span ++ count))
  | .mXfer src dst kind snd rcv => 0x7#3 ++ (0x5#6 ++ (src ++ (dst ++ (kind ++ (snd ++ rcv)))))
  | .mBound op rsv n => 0x7#3 ++ (op ++ (rsv ++ n))

/-- The word of an instruction (Tables 03.7 to 03.10). -/
def encode (i : Instr) : Option InstrWord := (toFmt i).map pack

/-! ### A word of every row, written from its encoding in Tables 03.7 to 03.10 -/

theorem scalar_words_0 :
    decodeWord 0x002FE504 = .ok (.word (.add 11 31 5 4)) ∧
    decodeWord 0x0054430F = .ok (.word (.sub 21 2 3 7)) ∧
    decodeWord 0x00488C15 = .ok (.word (.and 18 4 12 5)) ∧
    decodeWord 0x000BD11A = .ok (.word (.or 2 30 17 2)) ∧
    decodeWord 0x00086E24 = .ok (.word (.xor 2 3 14 4)) ∧
    decodeWord 0x000D032D = .ok (.word (.sll 3 8 3 5)) ∧
    decodeWord 0x00385B35 = .ok (.word (.srl 14 2 27 5)) ∧
    decodeWord 0x0013E83E = .ok (.word (.sra 4 31 8 6)) ∧
    decodeWord 0x00567F41 = .ok (.word (.mul 21 19 31 1)) ∧
    decodeWord 0x004E6D49 = .ok (.word (.mulh 19 19 13 1)) ∧
    decodeWord 0x00205257 = .ok (.word (.mulhz 8 2 18 7)) ∧
    decodeWord 0x00154E5A = .ok (.word (.div 5 10 14 2)) ∧
    decodeWord 0x00489363 = .ok (.word (.divz 18 4 19 3)) ∧
    decodeWord 0x004B766A = .ok (.word (.rem 18 27 22 2)) ∧
    decodeWord 0x00127376 = .ok (.word (.remz 4 19 19 6)) ∧
    decodeWord 0x001D847D = .ok (.word (.min 7 12 4 5)) ∧
    decodeWord 0x005C7381 = .ok (.word (.max 23 3 19 1)) ∧
    decodeWord 0x0050F08E = .ok (.word (.minz 20 7 16 6)) ∧
    decodeWord 0x0049D993 = .ok (.word (.maxz 18 14 25 3)) ∧
    decodeWord 0x003E7E9C = .ok (.word (.slt 15 19 30 4)) ∧
    decodeWord 0x003148A7 = .ok (.word (.sltz 12 10 8 7)) ∧
    decodeWord 0x001AF9AA = .ok (.word (.seq 6 23 25 2)) ∧
    decodeWord 0x000E60B3 = .ok (.word (.clz 3 19 3)) ∧
    decodeWord 0x004600BB = .ok (.word (.popc 17 16 3)) ∧
    decodeWord 0x0061EAC5 = .ok (.word (.addsh 24 15 10 5)) :=
  ⟨rfl, rfl, rfl, rfl, rfl, rfl, rfl, rfl, rfl, rfl, rfl, rfl, rfl, rfl, rfl, rfl, rfl, rfl, rfl, rfl, rfl, rfl, rfl, rfl, rfl⟩

theorem scalar_words_1 :
    decodeWord 0x008C9062 = .ok (.word (.addi 3 4 4194)) ∧
    decodeWord 0x0138D83B = .ok (.word (.andi 14 6 6203)) ∧
    decodeWord 0x01ACBDDE = .ok (.word (.ori 11 5 7646)) ∧
    decodeWord 0x0241C142 = .ok (.word (.xori 16 14 322)) ∧
    decodeWord 0x02FEC27C = .ok (.word (.slli 31 22 636)) ∧
    decodeWord 0x03665257 = .ok (.word (.srli 25 18 4695)) ∧
    decodeWord 0x03EBBA30 = .ok (.word (.srai 26 29 6704)) ∧
    decodeWord 0x042D7640 = .ok (.word (.slti 11 11 5696)) ∧
    decodeWord 0x04B01306 = .ok (.word (.movi 12 4870)) ∧
    decodeWord 0x05127A04 = .ok (.word (.psetEq 4 19 26 4)) ∧
    decodeWord 0x0507630B = .ok (.word (.psetNe 1 27 3 3)) ∧
    decodeWord 0x0512F611 = .ok (.word (.psetLt 4 23 22 1)) ∧
    decodeWord 0x0507171B = .ok (.word (.psetGe 1 24 23 3)) ∧
    decodeWord 0x051A7627 = .ok (.word (.psetLtz 6 19 22 7)) ∧
    decodeWord 0x0511572C = .ok (.word (.psetGez 4 10 23 4)) ∧
    decodeWord 0x0518C031 = .ok (.word (.psetTstat 6 6 1)) ∧
    decodeWord 0x05906205 = .ok (.word (.pand 4 3 2 5)) ∧
    decodeWord 0x0584810A = .ok (.word (.por 1 4 1 2)) ∧
    decodeWord 0x059C6216 = .ok (.word (.pxor 7 3 2 6)) ∧
    decodeWord 0x0588801C = .ok (.word (.pnot 2 4 4)) ∧
    decodeWord 0x087BF8D9 = .ok (.word (.br 7 1 260313)) ∧
    decodeWord 0x089954B8 = .ok (.word (.call 1 1 87224)) ∧
    decodeWord 0x093DA005 = .ok (.word (.jmpr 15 13 5)) ∧
    decodeWord 0x0A17A00F = .ok (.word (.mova 5 29 1 7)) ∧
    decodeWord 0x0A9F80B6 = .ok (.word (.movar 7 28 5 2 6)) :=
  ⟨rfl, rfl, rfl, rfl, rfl, rfl, rfl, rfl, rfl, rfl, rfl, rfl, rfl, rfl, rfl, rfl, rfl, rfl, rfl, rfl, rfl, rfl, rfl, rfl, rfl⟩

theorem scalar_words_2 :
    decodeWord 0x0B05C016 = .ok (.word (.movl 1 14 2 6)) ∧
    decodeWord 0x0B900002 = .ok (.word (.msel 4 2)) ∧
    decodeWord 0x0C000029 = .ok (.word (.pippush 5 1)) ∧
    decodeWord 0x0C800032 = .ok (.word (.pippop 6 2)) ∧
    decodeWord 0x0D00007E = .ok (.word (.twait 15 6)) ∧
    decodeWord 0x0D88000C = .ok (.word (.ttest 2 1 4)) ∧
    decodeWord 0x0E0001B5 = .ok (.word (.tfree 54 5)) ∧
    decodeWord 0x0E980869 = .ok (.word (.srd 6 2153)) ∧
    decodeWord 0x0F014022 = .ok (.word (.swr 10 34)) ∧
    decodeWord 0x1015D57B = .ok (.word (.ld8 5 14 5 379)) ∧
    decodeWord 0x10D26FD0 = .ok (.word (.ld16 20 19 3 976)) ∧
    decodeWord 0x1116FE10 = .ok (.word (.ld32 5 23 7 528)) ∧
    decodeWord 0x11FE9AB5 = .ok (.word (.ld64 31 20 6 693)) ∧
    decodeWord 0x1260539A = .ok (.word (.lds8 24 2 4 922)) ∧
    decodeWord 0x12F33EB9 = .ok (.word (.lds16 28 25 7 697)) ∧
    decodeWord 0x136A5198 = .ok (.word (.lds32 26 18 4 408)) ∧
    decodeWord 0x13B5A5EE = .ok (.word (.st8 13 13 1 494)) ∧
    decodeWord 0x1455A4C4 = .ok (.word (.st16 21 13 1 196)) ∧
    decodeWord 0x148CF0A7 = .ok (.word (.st32 3 7 4 167)) ∧
    decodeWord 0x15117436 = .ok (.word (.st64 4 11 5 54)) ∧
    decodeWord 0x15903C9B = .ok (.word (.ldaq 4 1 3 1 155)) ∧
    decodeWord 0x16489675 = .ok (.word (.strl 18 4 2 1 629)) ∧
    decodeWord 0x18047C02 = .ok (.word (.amoSwap 1 3 28 2)) ∧
    decodeWord 0x1851A50E = .ok (.word (.amoAdd 20 13 5 6)) ∧
    decodeWord 0x1827EC15 = .ok (.word (.amoAnd 9 31 12 5)) :=
  ⟨rfl, rfl, rfl, rfl, rfl, rfl, rfl, rfl, rfl, rfl, rfl, rfl, rfl, rfl, rfl, rfl, rfl, rfl, rfl, rfl, rfl, rfl, rfl, rfl, rfl⟩

theorem scalar_words_3 :
    decodeWord 0x18320419 = .ok (.word (.amoOr 12 16 4 1)) ∧
    decodeWord 0x18720F24 = .ok (.word (.amoXor 28 16 15 4)) ∧
    decodeWord 0x1841432A = .ok (.word (.amoMin 16 10 3 2)) ∧
    decodeWord 0x18130B36 = .ok (.word (.amoMax 4 24 11 6)) ∧
    decodeWord 0x18261B3E = .ok (.word (.amoMinz 9 16 27 6)) ∧
    decodeWord 0x181A2142 = .ok (.word (.amoMaxz 6 17 1 2)) ∧
    decodeWord 0x187FF148 = .ok (.word (.amoFadd 31 31 17)) ∧
    decodeWord 0x1830B750 = .ok (.word (.amoXadd 12 5 23)) ∧
    decodeWord 0x18825E09 = .ok (.word (.redAdd 18 30 1)) ∧
    decodeWord 0x18833113 = .ok (.word (.redAnd 25 17 3)) ∧
    decodeWord 0x1882BC19 = .ok (.word (.redOr 21 28 1)) ∧
    decodeWord 0x1882FC23 = .ok (.word (.redXor 23 28 3)) ∧
    decodeWord 0x18822C2A = .ok (.word (.redMin 17 12 2)) ∧
    decodeWord 0x18819932 = .ok (.word (.redMax 12 25 2)) ∧
    decodeWord 0x1882523F = .ok (.word (.redMinz 18 18 7)) ∧
    decodeWord 0x18822B46 = .ok (.word (.redMaxz 17 11 6)) ∧
    decodeWord 0x18811448 = .ok (.word (.redFadd 8 20)) ∧
    decodeWord 0x18835A50 = .ok (.word (.redXadd 26 26)) ∧
    decodeWord 0x19678707 = .ok (.word (.cas 25 28 7 7)) ∧
    decodeWord 0x19A36D06 = .ok (.word (.aoseqSwap 8 27 13 6)) ∧
    decodeWord 0x19E9070D = .ok (.word (.aoseqAdd 26 8 7 5)) ∧
    decodeWord 0x19C19811 = .ok (.word (.aoseqAnd 16 12 24 1)) ∧
    decodeWord 0x1987491C = .ok (.word (.aoseqOr 1 26 9 4)) ∧
    decodeWord 0x19A4F725 = .ok (.word (.aoseqXor 9 7 23 5)) ∧
    decodeWord 0x19FD8F2F = .ok (.word (.aoseqMin 31 12 15 7)) :=
  ⟨rfl, rfl, rfl, rfl, rfl, rfl, rfl, rfl, rfl, rfl, rfl, rfl, rfl, rfl, rfl, rfl, rfl, rfl, rfl, rfl, rfl, rfl, rfl, rfl, rfl⟩

theorem scalar_words_4 :
    decodeWord 0x19FB0C33 = .ok (.word (.aoseqMax 30 24 12 3)) ∧
    decodeWord 0x198D043A = .ok (.word (.aoseqMinz 3 8 4 2)) ∧
    decodeWord 0x19C0EB42 = .ok (.word (.aoseqMaxz 16 7 11 2)) ∧
    decodeWord 0x19C29D48 = .ok (.word (.aoseqFadd 16 20 29)) ∧
    decodeWord 0x1A000005 = .ok (.word (.fenceSys 5)) ∧
    decodeWord 0x1A00000F = .ok (.word (.fenceFab 7)) ∧
    decodeWord 0x1A803006 = .ok (.word (.cacheopClean 1 16 6)) ∧
    decodeWord 0x1A819A0E = .ok (.word (.cacheopDrop 12 26 6)) ∧
    decodeWord 0x1A807B16 = .ok (.word (.cacheopDemote 3 27 6)) ∧
    decodeWord 0x1A809E1C = .ok (.word (.cacheopSysinv 4 30 4)) ∧
    decodeWord 0x1B680006 = .ok (.word (.gend 26 6)) ∧
    decodeWord 0x1C032002 = .ok (.word (.share 25 2)) ∧
    decodeWord 0x1C800004 = .ok (.word (.hyield 4)) ∧
    decodeWord 0x1D03A5B7 = .ok (.word (.trap 29 1463)) ∧
    decodeWord 0x1D81C007 = .ok (.word (.eret 14 7)) ∧
    decodeWord 0x1E000006 = .ok (.word (.halt 6)) ∧
    decodeWord 0x1E800003 = .ok (.word (.yield 3)) ∧
    decodeWord 0x1F0002CF = .ok (.word (.brk 89 7)) ∧
    decodeWord 0x1FF91BF3 = .ok (.word (.udf 7937011)) :=
  ⟨rfl, rfl, rfl, rfl, rfl, rfl, rfl, rfl, rfl, rfl, rfl, rfl, rfl, rfl, rfl, rfl, rfl, rfl, rfl⟩

theorem vector_words_0 :
    decodeWord 0x2813B8A6 = .ok (.word (.aincC 2 7 453 6)) ∧
    decodeWord 0x28E9780D = .ok (.word (.aaddC 13 2 15 13)) ∧
    decodeWord 0x292F8003 = .ok (.word (.amovC 5 15 3)) ∧
    decodeWord 0x2F80000C = .ok (.word (.syncC 12)) ∧
    decodeWord 0x2013F818 = .ok (.word (.vadd 2 7 15 1 8)) ∧
    decodeWord 0x201DF034 = .ok (.word (.vsub 3 11 14 1 4)) ∧
    decodeWord 0x201E3859 = .ok (.word (.vmul 3 12 7 1 9)) ∧
    decodeWord 0x203B3874 = .ok (.word (.vmin 7 6 7 1 4)) ∧
    decodeWord 0x2033109C = .ok (.word (.vmax 6 6 2 1 12)) ∧
    decodeWord 0x2030B0B9 = .ok (.word (.vand 6 1 6 1 9)) ∧
    decodeWord 0x204460D1 = .ok (.word (.vor 8 8 12 1 1)) ∧
    decodeWord 0x203B48FA = .ok (.word (.vxor 7 6 9 1 10)) ∧
    decodeWord 0x202C9112 = .ok (.word (.vsll 5 9 2 1 2)) ∧
    decodeWord 0x207EA13F = .ok (.word (.vsrl 15 13 4 1 15)) ∧
    decodeWord 0x20112955 = .ok (.word (.vsra 2 2 5 1 5)) ∧
    decodeWord 0x200F817D = .ok (.word (.vabs 1 15 1 13)) ∧
    decodeWord 0x201AE993 = .ok (.word (.vminz 3 5 13 1 3)) ∧
    decodeWord 0x2073F1BF = .ok (.word (.vmaxz 14 7 14 1 15)) ∧
    decodeWord 0x20DF2C13 = .ok (.word (.vfadd 11 14 5 2 1 3)) ∧
    decodeWord 0x20CFCE38 = .ok (.word (.vfsub 9 15 9 3 1 8)) ∧
    decodeWord 0x20E31451 = .ok (.word (.vfmul 12 6 2 2 1 1)) ∧
    decodeWord 0x20EE1C7F = .ok (.word (.vfma 13 12 3 2 1 15)) ∧
    decodeWord 0x20928E92 = .ok (.word (.vfmin 2 5 1 3 1 2)) ∧
    decodeWord 0x20EA96BE = .ok (.word (.vfmax 13 5 2 3 1 14)) ∧
    decodeWord 0x20A104DE = .ok (.word (.vfabs 4 2 2 1 14)) :=
  ⟨rfl, rfl, rfl, rfl, rfl, rfl, rfl, rfl, rfl, rfl, rfl, rfl, rfl, rfl, rfl, rfl, rfl, rfl, rfl, rfl, rfl, rfl, rfl, rfl, rfl⟩

theorem vector_words_1 :
    decodeWord 0x209402F6 = .ok (.word (.vfneg 2 8 1 1 6)) ∧
    decodeWord 0x20CBFD1A = .ok (.word (.vfdiv 9 7 15 2 1 10)) ∧
    decodeWord 0x2098873C = .ok (.word (.vfsqrt 3 1 3 1 12)) ∧
    decodeWord 0x20A10355 = .ok (.word (.vfrsq 4 2 1 1 5)) ∧
    decodeWord 0x2109A41B = .ok (.word (.vcmpEq 1 3 4 2 1 11)) ∧
    decodeWord 0x211CEA35 = .ok (.word (.vcmpNe 3 9 13 1 1 5)) ∧
    decodeWord 0x2124DA55 = .ok (.word (.vcmpLt 4 9 11 1 1 5)) ∧
    decodeWord 0x211E8C71 = .ok (.word (.vcmpLe 3 13 1 2 1 1)) ∧
    decodeWord 0x2108E699 = .ok (.word (.vcmpUn 1 1 12 3 1 9)) ∧
    decodeWord 0x21A4845F = .ok (.word (.vcvt 4 9 4 2 1 15)) ∧
    decodeWord 0x2241581E = .ok (.word (.lmul 8 2 11 1 14)) ∧
    decodeWord 0x225BD838 = .ok (.word (.ldiv 11 7 11 1 8)) ∧
    decodeWord 0x224F7857 = .ok (.word (.ladd 9 14 15 1 7)) ∧
    decodeWord 0x224AE074 = .ok (.word (.lsub 9 5 12 1 4)) ∧
    decodeWord 0x22230094 = .ok (.word (.lneg 4 6 1 4)) ∧
    decodeWord 0x22F7801C = .ok (.word (.vmov 14 15 1 12)) ∧
    decodeWord 0x22E59827 = .ok (.word (.vsel 12 11 3 7)) ∧
    decodeWord 0x22B0F053 = .ok (.word (.vperm 6 1 14 1 3)) ∧
    decodeWord 0x2289007B = .ok (.word (.vbcst 1 2 1 11)) ∧
    decodeWord 0x22E0009F = .ok (.word (.viota 12 1 15)) ∧
    decodeWord 0x232B8211 = .ok (.word (.vrsum 5 7 1 1 1)) ∧
    decodeWord 0x2315843E = .ok (.word (.vrmax 2 11 2 1 14)) ∧
    decodeWord 0x234D845A = .ok (.word (.vrmin 9 11 2 1 10)) ∧
    decodeWord 0x23260075 = .ok (.word (.vriadd 4 12 1 5)) ∧
    decodeWord 0x23880008 = .ok (.word (.xclr 1 8)) :=
  ⟨rfl, rfl, rfl, rfl, rfl, rfl, rfl, rfl, rfl, rfl, rfl, rfl, rfl, rfl, rfl, rfl, rfl, rfl, rfl, rfl, rfl, rfl, rfl, rfl, rfl⟩

theorem vector_words_2 :
    decodeWord 0x2399A838 = .ok (.word (.xmac 3 3 5 1 8)) ∧
    decodeWord 0x238A8056 = .ok (.word (.xsum 1 5 1 6)) ∧
    decodeWord 0x23B48066 = .ok (.word (.xrnd 6 9 6)) ∧
    decodeWord 0x2382088F = .ok (.word (.xput 4 1 15)) ∧
    decodeWord 0x23AA00A6 = .ok (.word (.xget 5 4 6)) ∧
    decodeWord 0x238188C6 = .ok (.word (.xsave 3 1 6)) ∧
    decodeWord 0x23B900E8 = .ok (.word (.xload 7 2 8)) ∧
    decodeWord 0x2402981B = .ok (.word (.defer 5 3 1 11)) ∧
    decodeWord 0x2429C82D = .ok (.word (.drain 5 3 9 13)) ∧
    decodeWord 0x24080042 = .ok (.word (.dqcnt 1 2)) ∧
    decodeWord 0x242F1073 = .ok (.word (.vscat 5 14 2 1 3)) ∧
    decodeWord 0x24BD0011 = .ok (.word (.vld 7 10 1 1)) ∧
    decodeWord 0x24B88035 = .ok (.word (.vst 7 1 1 5)) ∧
    decodeWord 0x24ADA052 = .ok (.word (.vldx 5 11 4 1 2)) ∧
    decodeWord 0x24D4F07D = .ok (.word (.vstx 10 9 14 1 13)) ∧
    decodeWord 0x2535F8DD = .ok (.word (.twrow 1 43 15 6 1 13)) ∧
    decodeWord 0x256CE97C = .ok (.word (.trcol 3 25 13 3 1 12)) ∧
    decodeWord 0x25452ADA = .ok (.word (.trrow 2 10 5 6 1 10)) ∧
    decodeWord 0x25600303 = .ok (.word (.tclr 3 3)) ∧
    decodeWord 0x2520740E = .ok (.word (.tld 1 14 14)) ∧
    decodeWord 0x25607D09 = .ok (.word (.tst 3 15 9)) ∧
    decodeWord 0x25DBE5BD = .ok (.word (.vrand 11 7 12 45 1 13)) ∧
    decodeWord 0x2629280D = .ok (.word (.mand 5 2 5 13)) ∧
    decodeWord 0x262AB82E = .ok (.word (.mor 5 5 7 14)) ∧
    decodeWord 0x2638B84B = .ok (.word (.mxor 7 1 7 11)) :=
  ⟨rfl, rfl, rfl, rfl, rfl, rfl, rfl, rfl, rfl, rfl, rfl, rfl, rfl, rfl, rfl, rfl, rfl, rfl, rfl, rfl, rfl, rfl, rfl, rfl, rfl⟩

theorem vector_words_3 :
    decodeWord 0x262B806F = .ok (.word (.mnot 5 7 15)) ∧
    decodeWord 0x2663008C = .ok (.word (.mpop 12 6 12)) ∧
    decodeWord 0x265900A2 = .ok (.word (.mfirst 11 2 2)) ∧
    decodeWord 0x26808011 = .ok (.word (.gchk 1 1 1)) ∧
    decodeWord 0x271851B6 = .ok (.word (.vsplat 3 653 1 6)) :=
  ⟨rfl, rfl, rfl, rfl, rfl⟩

theorem load_words_0 :
    decodeWord 0x400B6869 = .ok (.word (.ldl 1 6 6 67 9)) ∧
    decodeWord 0x40CC7C82 = .ok (.word (.lds 9 8 7 100 2)) ∧
    decodeWord 0x417C9404 = .ok (.word (.ldg 15 9 1 32 4)) ∧
    decodeWord 0x41A81C62 = .ok (.word (.ldq 5 1 99 2)) ∧
    decodeWord 0x424C508D = .ok (.word (.ldf 9 8 5 4 13)) ∧
    decodeWord 0x42F81726 = .ok (.word (.lpf 15 1 57 6)) ∧
    decodeWord 0x487CF264 = .ok (.word (.aincL 15 9 915 4)) ∧
    decodeWord 0x4895A007 = .ok (.word (.aaddL 2 11 4 7)) ∧
    decodeWord 0x491E000B = .ok (.word (.amovL 3 12 11)) ∧
    decodeWord 0x4F800008 = .ok (.word (.syncL 8)) :=
  ⟨rfl, rfl, rfl, rfl, rfl, rfl, rfl, rfl, rfl, rfl⟩

theorem array_words_0 :
    decodeWord 0x600900E7 = .ok (.rm (.angl 1 2 1 1 1 7)) ∧
    decodeWord 0x608F0008 = .ok (.rm (.abmp 1 14 8)) ∧
    decodeWord 0x610C8001 = .ok (.rm (.rscl 1 9 1)) ∧
    decodeWord 0x610D8021 = .ok (.rm (.rsclV 1 11 1)) ∧
    decodeWord 0x61858009 = .ok (.rm (.rlane 11 9)) ∧
    decodeWord 0x625A0121 = .ok (.rm (.rpush 11 4 9 1)) ∧
    decodeWord 0x6294823F = .ok (.rm (.rpushv 2 9 17 1 15)) ∧
    decodeWord 0x6349586C = .ok (.rm (.rpop 9 2 11 3 12)) ∧
    decodeWord 0x63E4287E = .ok (.rm (.rpopv 12 8 5 3 1 14)) ∧
    decodeWord 0x64000005 = .ok (.rm (.reos 5)) ∧
    decodeWord 0x64A6690C = .ok (.rm (.rstream 4 12 13 8 12)) ∧
    decodeWord 0x6505C008 = .ok (.rm (.rsweep 11 8 8)) ∧
    decodeWord 0x6588000E = .ok (.rm (.rplane 1 14)) ∧
    decodeWord 0x65800027 = .ok (.rm (.rplaneT 7)) ∧
    decodeWord 0x66010008 = .ok (.rm (.rsave 2 8)) ∧
    decodeWord 0x6687800B = .ok (.rm (.rload 15 11)) ∧
    decodeWord 0x67000005 = .ok (.rm (.rmonOff 5)) ∧
    decodeWord 0x6700002D = .ok (.rm (.rmonOn 13)) ∧
    decodeWord 0x67000041 = .ok (.rm (.rmonClr 1)) :=
  ⟨rfl, rfl, rfl, rfl, rfl, rfl, rfl, rfl, rfl, rfl, rfl, rfl, rfl, rfl, rfl, rfl, rfl, rfl, rfl⟩

theorem store_words_0 :
    decodeWord 0x8054D854 = .ok (.word (.ssl 10 9 5 66 1 4)) ∧
    decodeWord 0x80E2C859 = .ok (.word (.sss 12 5 4 66 1 9)) ∧
    decodeWord 0x816C5F34 = .ok (.word (.ssc 13 8 5 121 1 4)) ∧
    decodeWord 0x8180000C = .ok (.word (.sflgSet 12)) ∧
    decodeWord 0x81CF802F = .ok (.word (.sflgSt 9 15 15)) ∧
    decodeWord 0x81F80045 = .ok (.word (.sflgStf 15 5)) ∧
    decodeWord 0x887411A7 = .ok (.word (.aincT 14 8 141 7)) ∧
    decodeWord 0x88925805 = .ok (.word (.aaddT 2 4 11 5)) ∧
    decodeWord 0x895B0003 = .ok (.word (.amovT 11 6 3)) ∧
    decodeWord 0x8F800004 = .ok (.word (.syncT 4)) :=
  ⟨rfl, rfl, rfl, rfl, rfl, rfl, rfl, rfl, rfl, rfl⟩

theorem async_words_0 :
    decodeWord 0xA07F86BE = .ok (.word (.copy 63 24 13 15 2)) ∧
    decodeWord 0xA0E1F1E1 = .ok (.word (.copyl 48 31 3 24 1)) ∧
    decodeWord 0xA1165081 = .ok (.word (.tpref 11 5 1 1)) ∧
    decodeWord 0xA24DD002 = .ok (.word (.bar 38 29 2)) ∧
    decodeWord 0xA2E95001 = .ok (.word (.bara 52 21 1)) ∧
    decodeWord 0xA351B003 = .ok (.word (.barax 40 27 3)) ∧
    decodeWord 0xA3FF0003 = .ok (.word (.barw 63 16 3)) ∧
    decodeWord 0xA478C2CB = .ok (.word (.collx 60 12 5 18 3)) ∧
    decodeWord 0xA5121001 = .ok (.word (.lnch 9 1 1)) ∧
    decodeWord 0xA5E98003 = .ok (.word (.glnch 52 24 3)) ∧
    decodeWord 0xA60F1C01 = .ok (.word (.sigs 7 17 24 1)) ∧
    decodeWord 0xA6B9C381 = .ok (.word (.sigw 28 28 7 1)) ∧
    decodeWord 0xA80493AB = .ok (.word (.rcall 2 9 7 10 3)) ∧
    decodeWord 0xA8A199AE = .ok (.word (.rqry 16 25 19 11 2)) ∧
    decodeWord 0xA946E001 = .ok (.word (.rtrim 35 14 1)) ∧
    decodeWord 0xAA09EC02 = .ok (.word (.wpin 4 30 24 2)) ∧
    decodeWord 0xAAF4FB03 = .ok (.word (.wunpin 58 15 22 3)) ∧
    decodeWord 0xAB6BD882 = .ok (.word (.wown 53 29 17 2)) ∧
    decodeWord 0xABEBEE83 = .ok (.word (.phase 53 30 29 3)) ∧
    decodeWord 0xAC1322C7 = .ok (.word (.tokn 9 18 5 17 3)) ∧
    decodeWord 0xAD05C7E5 = .ok (.word (.fsend 2 28 15 25 1)) ∧
    decodeWord 0xADCE1CE9 = .ok (.word (.fget 39 1 25 26 1)) :=
  ⟨rfl, rfl, rfl, rfl, rfl, rfl, rfl, rfl, rfl, rfl, rfl, rfl, rfl, rfl, rfl, rfl, rfl, rfl, rfl, rfl, rfl, rfl⟩

theorem prefix_words_0 :
    decodeWord 0xC160F751 = .ok (.word (.xExt 23131985)) ∧
    decodeWord 0xC94FD000 = .ok (.word (.xTws 10 31 40)) ∧
    decodeWord 0xD6171E00 = .ok (.word (.xFmtx 12 2 1 1 143)) :=
  ⟨rfl, rfl, rfl⟩

theorem stream_words_0 :
    decodeWord 0xE0745492 = .ok (.rm (.loope 3 162 5266)) ∧
    decodeWord 0xE099620A = .ok (.rm (.role 12996 10)) ∧
    decodeWord 0xE14CC940 = .ok (.rm (.chbeg 2457 5)) ∧
    decodeWord 0xE1800000 = .ok (.rm .chend) ∧
    decodeWord 0xE22B4103 = .ok (.rm (.chloop 43 16643)) ∧
    decodeWord 0xE2DE170A = .ok (.rm (.xferG 11 12 23 10)) ∧
    decodeWord 0xE2D52301 = .ok (.rm (.xferV 10 10 3 1)) ∧
    decodeWord 0xE2C0D045 = .ok (.rm (.xferB 8 1 16 69)) ∧
    decodeWord 0xE30000F9 = .ok (.rm (.drift 249)) ∧
    decodeWord 0xE3800000 = .ok (.rm .tsync) :=
  ⟨rfl, rfl, rfl, rfl, rfl, rfl, rfl, rfl, rfl, rfl⟩

end Sys2Proof
end

