-- ==== Sys2Proof/Machine/Float.lean ====
section
/-! DEFINITION. Sys2Proof/Machine/Float.lean: numbers before rounding, the float formats and their rounding
(spec/02, R28 to R38, R48 to R51). A number is exact until `FFmt.round` rounds it once. -/

namespace Sys2Proof.Machine

/-- A number before rounding: NaN, an infinity, or `m * 2^e` with a sign (`m = 0` is a zero of that sign). -/
inductive Num where
  | nan
  | inf (neg : Bool)
  | fin (neg : Bool) (m : Nat) (e : Int)
  deriving DecidableEq, Repr

/-- What the all-ones exponent of a format means (R32, R33). -/
inductive Specials where
  /-- Infinities and NaNs as in IEEE 754. -/
  | ieee
  /-- Only the all-ones code is a NaN, and there is no infinity (FP8 E4M3). -/
  | nanOnly
  /-- Neither (the elements of MXFP6 and MXFP4). -/
  | none
  deriving DecidableEq, Repr

/-- A binary float format (R30, R32, R33): exponent bits, fraction bits, bias. -/
structure FFmt where
  expBits : Nat
  fracBits : Nat
  bias : Nat
  specials : Specials
  deriving DecidableEq, Repr

def fp32 : FFmt := ⟨8, 23, 127, .ieee⟩
def fp16 : FFmt := ⟨5, 10, 15, .ieee⟩
def bf16 : FFmt := ⟨8, 7, 127, .ieee⟩
def fp8e4m3 : FFmt := ⟨4, 3, 7, .nanOnly⟩
def fp8e5m2 : FFmt := ⟨5, 2, 15, .ieee⟩
def fp6e2m3 : FFmt := ⟨2, 3, 1, .none⟩
def fp6e3m2 : FFmt := ⟨3, 2, 3, .none⟩
def fp4e2m1 : FFmt := ⟨2, 1, 1, .none⟩

/-- The sign bit's position, which is also the number of magnitude bits. -/
def FFmt.mag (f : FFmt) : Nat := f.expBits + f.fracBits

/-- The magnitude code of the largest finite number (Table 02.2). -/
def FFmt.maxFinite (f : FFmt) : Nat :=
  match f.specials with
  | .ieee => 2 ^ f.mag - 2 ^ f.fracBits - 1
  | .nanOnly => 2 ^ f.mag - 2
  | .none => 2 ^ f.mag - 1

/-- The canonical NaN (R31, Table 02.2); 0 in a format without NaNs. -/
def FFmt.canonicalNaN (f : FFmt) : Nat :=
  match f.specials with
  | .ieee => 2 ^ f.mag - 2 ^ (f.fracBits - 1)
  | .nanOnly => 2 ^ f.mag - 1
  | .none => 0

/-- The number that a code of the format stands for. -/
def FFmt.decode (f : FFmt) (bits : Nat) : Num :=
  let neg := bits / 2 ^ f.mag % 2 == 1
  let mag := bits % 2 ^ f.mag
  let ex := mag / 2 ^ f.fracBits
  let fr := mag % 2 ^ f.fracBits
  if mag > f.maxFinite then
    if f.specials = .ieee ∧ fr = 0 then .inf neg else .nan
  else if ex = 0 then .fin neg fr (1 - (f.bias : Int) - f.fracBits)
  else .fin neg (fr + 2 ^ f.fracBits) ((ex : Int) - f.bias - f.fracBits)

/-- `m * 2^e` in units of `2^q`, to nearest with ties to even. -/
def roundUnits (m : Nat) (e q : Int) : Nat :=
  if q ≤ e then m <<< (e - q).toNat
  else
    let s := (q - e).toNat
    let quo := m >>> s
    let rem := m % 2 ^ s
    let half := 2 ^ s / 2
    if rem > half ∨ (rem = half ∧ quo % 2 = 1) then quo + 1 else quo

/-- The magnitude code of `m * 2^e` rounded to the format with an unbounded exponent: codes above `maxFinite` are
overflows. -/
def FFmt.roundMag (f : FFmt) (m : Nat) (e : Int) : Nat :=
  if m = 0 then 0 else
  let emin : Int := 1 - f.bias
  let ex := max ((Nat.log2 m : Int) + e) emin
  (ex - emin).toNat * 2 ^ f.fracBits + roundUnits m e (ex - f.fracBits)

/-- The code with a sign. -/
def FFmt.signed (f : FFmt) (neg : Bool) (mag : Nat) : Nat := if neg then mag + 2 ^ f.mag else mag

/-- What an overflow or an infinity gives (R4, R33). -/
def FFmt.overflow (f : FFmt) (sat neg : Bool) : Nat :=
  if sat then f.signed neg f.maxFinite
  else match f.specials with
    | .ieee => f.signed neg (f.maxFinite + 1)
    | .nanOnly => f.canonicalNaN
    | .none => f.signed neg f.maxFinite

/-- Round(x, F), and RoundSat(x, F) when `sat` (R4, R30, R33). -/
def FFmt.round (f : FFmt) (sat : Bool) : Num → Nat
  | .nan => f.canonicalNaN
  | .inf neg => f.overflow sat neg
  | .fin neg m e =>
    let mag := f.roundMag m e
    if mag > f.maxFinite then f.overflow sat neg else f.signed neg mag

/-- The sign-flipped number. -/
def Num.negate : Num → Num
  | .nan => .nan
  | .inf n => .inf (!n)
  | .fin n m e => .fin (!n) m e

/-- The exact magnitude. -/
def Num.abs : Num → Num
  | .nan => .nan
  | .inf _ => .inf false
  | .fin _ m e => .fin false m e

/-- Exact product (R30). -/
def Num.mul : Num → Num → Num
  | .nan, _ => .nan
  | _, .nan => .nan
  | .inf a, .inf b => .inf (a != b)
  | .inf a, .fin b m _ => if m = 0 then .nan else .inf (a != b)
  | .fin a m _, .inf b => if m = 0 then .nan else .inf (a != b)
  | .fin a m e, .fin b n k => .fin (a != b) (m * n) (e + k)

/-- The integer `±m * 2^(e - q)` for `q ≤ e`. -/
def scaledInt (neg : Bool) (m : Nat) (e q : Int) : Int :=
  let v : Int := ((m <<< (e - q).toNat : Nat) : Int)
  if neg then -v else v

/-- Exact sum with the IEEE sign of a zero sum (R30). -/
def Num.add : Num → Num → Num
  | .nan, _ => .nan
  | _, .nan => .nan
  | .inf a, .inf b => if a = b then .inf a else .nan
  | .inf a, .fin _ _ _ => .inf a
  | .fin _ _ _, .inf b => .inf b
  | .fin a m e, .fin b n k =>
    if m = 0 ∧ n = 0 then .fin (a && b) 0 0
    else if m = 0 then .fin b n k
    else if n = 0 then .fin a m e
    else
      let q := min e k
      let s := scaledInt a m e q + scaledInt b n k q
      .fin (s < 0) s.natAbs q

def Num.sub (x y : Num) : Num := x.add y.negate

/-- The quotient of two positive numbers with at least 64 bits and a sticky last bit, which rounds as the exact one. -/
def quotSticky (m n : Nat) : Nat × Int :=
  let s := 66 + Nat.log2 n
  let q := (m <<< s) / n
  let r := (m <<< s) % n
  (2 * q + (if r = 0 then 0 else 1), -(s : Int) - 1)

/-- Quotient (R127). -/
def Num.div : Num → Num → Num
  | .nan, _ => .nan
  | _, .nan => .nan
  | .inf _, .inf _ => .nan
  | .inf a, .fin b _ _ => .inf (a != b)
  | .fin a _ _, .inf b => .fin (a != b) 0 0
  | .fin a m e, .fin b n k =>
    if n = 0 then (if m = 0 then .nan else .inf (a != b))
    else
      let (q, x) := quotSticky m n
      .fin (a != b) q (x + e - k)

/-- The integer square root by digits: the largest `r < 2^(fuel)` bits with `r * r ≤ n`. -/
def isqrtAux (n : Nat) : Nat → Nat → Nat
  | 0, r => r
  | k + 1, r =>
    let t := r + 2 ^ k
    isqrtAux n k (if t * t ≤ n then t else r)

/-- The integer square root. -/
def isqrt (n : Nat) : Nat := isqrtAux n (Nat.log2 n / 2 + 1) 0

/-- Square root of a positive `m * 2^e` with a sticky last bit. -/
def sqrtSticky (m : Nat) (e : Int) : Nat × Int :=
  let e' := e - 130
  let e'' := if e' % 2 = 0 then e' else e' - 1
  let n := m <<< (e - e'').toNat
  let r := isqrt n
  (2 * r + (if r * r = n then 0 else 1), e'' / 2 - 1)

/-- Square root: of −0 it is −0, of a negative number NaN. -/
def Num.sqrt : Num → Num
  | .nan => .nan
  | .inf neg => if neg then .nan else .inf false
  | .fin neg m e =>
    if m = 0 then .fin neg 0 0
    else if neg then .nan
    else let (r, x) := sqrtSticky m e; .fin false r x

/-- Comparison of two numbers that are no NaN: `x < y`; the zeros are equal. -/
def Num.lt (x y : Num) : Bool :=
  match x.add y.negate with
  | .fin neg m _ => neg && m != 0
  | .inf neg => neg
  | .nan =>
    match x, y with
    | .inf a, .inf b => a && !b
    | _, _ => false

def Num.isNaN : Num → Bool
  | .nan => true
  | _ => false

def Num.isZero : Num → Bool
  | .fin _ 0 _ => true
  | _ => false

/-- Equality of two numbers that are no NaN; the zeros are equal. -/
def Num.eq (x y : Num) : Bool := !x.isNaN && !y.isNaN && !x.lt y && !y.lt x

/-- The sign that a number carries. -/
def Num.neg : Num → Bool
  | .nan => false
  | .inf n => n
  | .fin n _ _ => n

/-- The order of VRMAX and the minimum and maximum words: +0 is greater than −0 (R53). -/
def Num.below (x y : Num) : Bool := x.lt y || (x.eq y && x.neg && !y.neg)

def Num.minimum (x y : Num) : Num :=
  if x.isNaN || y.isNaN then .nan else if y.below x then y else x

def Num.maximum (x y : Num) : Num :=
  if x.isNaN || y.isNaN then .nan else if x.below y then y else x

/-- An integer as a number; zero is +0. -/
def Num.ofInt (i : Int) : Num := .fin (i < 0) i.natAbs 0

/-- To the nearest integer, ties to even, held to `[lo, hi]`; NaN gives 0 (Table 02.3). -/
def Num.toIntSat (lo hi : Int) : Num → Int
  | .nan => 0
  | .inf neg => if neg then lo else hi
  | .fin neg m e =>
    let r : Int := (roundUnits m e 0 : Nat)
    max lo (min hi (if neg then -r else r))

/-- Floor of the binary logarithm of a positive finite number. -/
def floorLog2 (m : Nat) (e : Int) : Int := (Nat.log2 m : Int) + e

/-- The nearest integer to `4 * log2 (m * 2^e)` for positive `m` (R42): `x^8` lies between odd powers of two. -/
def fourLog2 (m : Nat) (e : Int) : Int := ((Nat.log2 (m ^ 8) : Int) + 8 * e + 1) / 2

end Sys2Proof.Machine
end

