-- ==== Sys2Proof/Machine/Lns.lean ====
section
/-! DEFINITION. Sys2Proof/Machine/Lns.lean: the LNS6 format, the conversions of Table 02.3, the MX blocks and the exact
accumulator (spec/02, R34 to R43, R49 to R52). -/

namespace Sys2Proof.Machine

/-- An LNS6 code as sign and log (Table 02.4). -/
structure Lns where
  neg : Bool
  log : Int
  deriving DecidableEq, Repr

/-- The fields of a code: S in bit 5, L in bits 4:0 in two's complement. -/
def Lns.ofCode (c : Nat) : Lns := ⟨c / 32 % 2 == 1, if c % 32 < 16 then c % 32 else (c % 32 : Int) - 32⟩

/-- The code of the fields. -/
def Lns.code (x : Lns) : Nat := (x.log % 32).toNat + (if x.neg then 32 else 0)

/-- The only zero, `0x30` (R39). -/
def Lns.zero : Lns := ⟨true, -16⟩

def Lns.isZero (x : Lns) : Bool := x == Lns.zero

/-- The normalisation of every result (R39). -/
def Lns.normalise (neg : Bool) (log : Int) : Lns :=
  if log > 15 then ⟨neg, 15⟩
  else if log < -16 then Lns.zero
  else if neg ∧ log = -16 then Lns.zero
  else ⟨neg, log⟩

/-- R40. -/
def Lns.mul (a b : Lns) : Lns :=
  if a.isZero || b.isZero then Lns.zero else Lns.normalise (a.neg != b.neg) (a.log + b.log)

/-- R40: a zero dividend gives zero, a zero divisor the largest magnitude with the dividend's sign. -/
def Lns.div (a b : Lns) : Lns :=
  if a.isZero then Lns.zero
  else if b.isZero then ⟨a.neg, 15⟩
  else Lns.normalise (a.neg != b.neg) (a.log - b.log)

/-- R40: flips S; the zero code stays zero, and −2^−4 is normalised to zero. -/
def Lns.negate (a : Lns) : Lns := if a.isZero then Lns.zero else Lns.normalise (!a.neg) a.log

/-- Table 02.5. -/
def phiPlus (d : Nat) : Int := ([4, 4, 3, 3, 2, 2, 2, 2, 1, 1, 1, 1, 1, 1] : List Int).getD d 0

/-- Table 02.6, from d = 1. -/
def phiMinus (d : Nat) : Int := ([0, -11, -7, -5, -4, -3, -3, -2, -2, -1, -1, -1, -1, -1, -1] : List Int).getD d 0

/-- The steps of R41 on two pairs that are not both checked for zero yet. -/
def Lns.sum (a b : Lns) (bZero : Bool) : Lns :=
  if a.isZero then (if bZero then Lns.zero else Lns.normalise b.neg b.log)
  else if bZero then a
  else
    let d := (a.log - b.log).natAbs
    let big := if a.log ≥ b.log then a else b
    if a.neg = b.neg then Lns.normalise a.neg (big.log + phiPlus d)
    else if d = 0 then Lns.zero
    else Lns.normalise big.neg (big.log + phiMinus d)

/-- Addition (R41). -/
def Lns.add (a b : Lns) : Lns := Lns.sum a b b.isZero

/-- Subtraction: the addition with b's sign flipped and not normalised (R41). -/
def Lns.sub (a b : Lns) : Lns := Lns.sum a ⟨!b.neg, b.log⟩ b.isZero

/-- Table 02.7: the constants K as significands in units of 2^−23. -/
def scaleConst (r : Nat) : Nat :=
  ([0x800000, 0x9837F0, 0xB504F3, 0xD744FD] : List Nat).getD r 0x800000

/-- The exact value of a code (R42). -/
def Lns.value (x : Lns) : Num :=
  if x.isZero then .fin false 0 0 else .fin x.neg (scaleConst (x.log % 4).toNat) (x.log / 4 - 23)

/-- A number to LNS6 (R42); an integer takes the same rule (Table 02.3). -/
def Lns.ofNum : Num → Lns
  | .nan => Lns.zero
  | .inf neg => ⟨neg, 15⟩
  | .fin neg m e => if m = 0 then Lns.zero else Lns.normalise neg (fourLog2 m e)

/-- A value scaled by a code, exactly (R43). -/
def Lns.scale (x : Num) (c : Lns) : Num :=
  if c.isZero then
    match x with
    | .fin neg _ _ => .fin neg 0 0
    | _ => .nan
  else x.mul c.value

/-! ### Format codes 0 to 15 (Table 02.1) -/

/-- The float format of a code, where the code is one. -/
def floatOf : Nat → Option FFmt
  | 0 => some fp32
  | 1 => some fp16
  | 2 => some bf16
  | 3 => some fp8e4m3
  | 4 => some fp8e5m2
  | _ => none

/-- The element format of an MX code that is a float. -/
def mxFloatOf : Nat → Option FFmt
  | 8 => some fp8e4m3
  | 9 => some fp8e5m2
  | 10 => some fp6e2m3
  | 11 => some fp6e3m2
  | 12 => some fp4e2m1
  | _ => none

/-- Bits of an element (Table 02.1). -/
def elemBits : Nat → Nat
  | 0 => 32
  | 1 => 16
  | 2 => 16
  | 3 => 8
  | 4 => 8
  | 5 => 6
  | 6 => 32
  | 7 => 8
  | 8 => 8
  | 9 => 8
  | 10 => 6
  | 11 => 6
  | 12 => 4
  | 13 => 8
  | 14 => 16
  | _ => 12

/-- Two's complement reading of the low `w` bits. -/
def signedOf (w bits : Nat) : Int :=
  let b := bits % 2 ^ w
  if 2 * b < 2 ^ w then b else (b : Int) - 2 ^ w

/-- The low `w` bits of an integer. -/
def unsignedOf (w : Nat) (i : Int) : Nat := (i % (2 ^ w : Nat)).toNat

/-- The value of an element of codes 0 to 7 (R28, R29). -/
def elemValue (code bits : Nat) : Num :=
  match floatOf code with
  | some f => f.decode bits
  | none =>
    if code = 5 then (Lns.ofCode (bits % 64)).value
    else if code = 6 then .ofInt (signedOf 32 bits)
    else .ofInt (signedOf 8 bits)

/-- A number rounded to a format of codes 0 to 7 (R4, R38, R42). -/
def elemRound (code : Nat) (sat : Bool) (x : Num) : Nat :=
  match floatOf code with
  | some f => f.round sat x
  | none =>
    if code = 5 then (Lns.ofNum x).code
    else if code = 6 then unsignedOf 32 (x.toIntSat (-2 ^ 31) (2 ^ 31 - 1))
    else unsignedOf 8 (x.toIntSat (-128) 127)

/-- The conversion from one of codes 0 to 7 to another (Table 02.3). -/
def convertElem (src dst : Nat) (sat : Bool) (bits : Nat) : Nat := elemRound dst sat (elemValue src bits)

/-! ### MX blocks -/

/-- The exact value of an MX element with its block's scale (R34). -/
def mxValue (code scale bits : Nat) : Num :=
  if scale = 255 then .nan
  else
    let s : Num := .fin false 1 ((scale : Int) - 127)
    match mxFloatOf code with
    | some f => (f.decode bits).mul s
    | none => (Num.fin (signedOf 8 bits < 0) (signedOf 8 bits).natAbs (-6)).mul s

/-- emax of the element (R35). -/
def mxEmax : Nat → Int
  | 8 => 8
  | 9 => 15
  | 10 => 2
  | 11 => 4
  | 12 => 2
  | _ => 0

/-- The greatest magnitude of a block; an infinity counts as the greatest. -/
def maxMagnitude : List Num → Num
  | [] => .fin false 0 0
  | x :: xs => let m := maxMagnitude xs; if m.lt x.abs then x.abs else m

/-- The scale exponent X of a block without NaNs (R35). -/
def mxExponent (code : Nat) (bias : Int) (m : Num) : Int :=
  let x : Int :=
    match m with
    | .fin _ k e => if k = 0 then -127 else floorLog2 k e - mxEmax code + bias
    | _ => 127
  min (max x (-127)) 127

/-- RoundSat of one element divided by 2^X (R35). -/
def mxElem (code : Nat) (x : Num) (exp : Int) : Nat :=
  let y := x.mul (.fin false 1 (-exp))
  match mxFloatOf code with
  | some f => f.round true y
  | none => unsignedOf 8 ((y.mul (.fin false 64 0)).toIntSat (-127) 127)

/-- An MX block: its scale code and its elements (R35). -/
def mxBlock (code : Nat) (bias : Int) (xs : List Num) : Nat × List Nat :=
  if xs.any Num.isNaN then (255, xs.map fun _ => 0)
  else
    let e := mxExponent code bias (maxMagnitude xs)
    ((e + 127).toNat, xs.map fun x => mxElem code x e)

/-! ### The exact accumulator -/

/-- A 640-bit value and its three sticky flags (R49). -/
structure Accum where
  val : BitVec 640
  pinf : Bool
  ninf : Bool
  nan : Bool
  deriving DecidableEq, Repr

def Accum.zero : Accum := ⟨0, false, false, false⟩

/-- The addition of one term, an FP32 value or the product of two (R50). -/
def Accum.addTerm (q : Accum) : Num → Accum
  | .nan => { q with nan := true }
  | .inf neg => if neg then { q with ninf := true } else { q with pinf := true }
  | .fin neg m e => { q with val := q.val + BitVec.ofInt 640 (scaledInt neg m e (-298)) }

/-- The merge of two accumulators (R50). -/
def Accum.merge (a b : Accum) : Accum := ⟨a.val + b.val, a.pinf || b.pinf, a.ninf || b.ninf, a.nan || b.nan⟩

/-- The read-out to FP32 (R51). -/
def Accum.read (q : Accum) : Nat :=
  if q.nan || (q.pinf && q.ninf) then fp32.canonicalNaN
  else if q.pinf then fp32.overflow false false
  else if q.ninf then fp32.overflow false true
  else fp32.round false (.fin (q.val.toInt < 0) q.val.toInt.natAbs (-298))

/-- The flags byte of a slot (Table 02.9). -/
def Accum.flags (q : Accum) : Nat :=
  (if q.pinf then 1 else 0) + (if q.ninf then 2 else 0) + (if q.nan then 4 else 0)

/-- The accumulator of a slot's value and flags byte; reserved bits are ignored (R52). -/
def Accum.ofParts (val flags : Nat) : Accum :=
  ⟨BitVec.ofNat 640 val, flags % 2 == 1, flags / 2 % 2 == 1, flags / 4 % 2 == 1⟩

end Sys2Proof.Machine
end

