-- ==== Sys2Proof/Config.lean ====
section
/-! DEFINITION. Sys2Proof/Config.lean: what the spec leaves to the device and what it leaves open. The constants without
a body are free: nothing can be proved of their values, so what is proved holds for every value. -/

namespace Sys2Proof.Machine

/-- Who moves next (DESIGN CHOICE: the spec leaves the interleaving open): a sequencer of an agent, or a step of the
device or the host. Agents 0 to 255 are cores, 256 + p is the copy engine of pod p, 288 + d the replay engine of die d. -/
inductive Turn where
  | seq (agent : Nat) (q : Seq)
  | event (i : Instr)
  /-- Some bytes of the command in progress of an engine reach LS before the rest of it (R113). -/
  | landing (agent : Nat) (q : Seq)
  deriving DecidableEq, Repr, Inhabited

end Sys2Proof.Machine

namespace Sys2Proof.Config

/-- Whose turn comes next, by the model's counter: the spec leaves the interleaving of the agents and the device open. -/
opaque schedule : Nat → Machine.Turn

/-- The yes-or-no choices that the spec leaves open (which copy is still held, which event comes first), by the model's
counter, the kind of choice and what it is about. -/
opaque choice : Nat → Nat → Nat → Bool

/-- The numbers that the spec leaves open, by the model's counter and the kind of value. -/
opaque freeNat : Nat → Nat → Nat

/-- The 64-bit values that the spec leaves open, by the model's counter and the kind of value. -/
opaque freeWord : Nat → Nat → BitVec 64

/-- Cycles of each die that pass with a step (R6, R73 and the other timing tables are left out). -/
opaque elapsed : Nat → Nat → Nat

/-- SM3 of a list of bytes, a named standard whose definition the spec does not give (R384, R385). -/
opaque sm3 : List (BitVec 8) → BitVec 256

/-- Whether an SM2 signature (r then s) of a digest verifies under a public key, a named standard (R378, R384). -/
opaque sm2Verifies : List (BitVec 8) → BitVec 256 → List (BitVec 8) → Bool

/-- The bytes of the images that a start finds, by a number that the start draws: header, body, signature (R384). -/
opaque image : Nat → List (BitVec 8)

/-- The fused vendor-key hash, and the fused minimum of the security version of each kind of image (R384). -/
opaque vendorKeyHash : BitVec 256
opaque minVersion : Nat → Nat

/-- The key with which slot images of a partition are signed, by the slot-key hash of its control block (R379). -/
opaque slotKey : BitVec 256 → List (BitVec 8)

/-- The device key that fused secrets give with the measurements, and the certificate chain that ends in it (R387). -/
opaque deviceKey : List (BitVec 256) → BitVec 256
opaque certificate : BitVec 256 → List (BitVec 8)

/-- The fused voltage floors VFLOOR0 to VFLOOR3: fmax in MHz and floor in mV (Table 21.1). -/
opaque vfloor : Nat → Nat × Nat

/-- Digests that the spec does not give (R385): 0 Testa and its fuses, 8 the training results of the start before reset. -/
opaque digest : Nat → BitVec 256

end Sys2Proof.Config
end

