-- ==== Sys2Proof/Machine/Cells.lean ====
section
/-! DEFINITION. Sys2Proof/Machine/Cells.lean: sparse storage as lists in one canonical form: keys strictly rising, no
entry equal to what an unlisted key reads as. Memory is such a list of bytes (`Host.Cell`). -/

namespace Sys2Proof.Machine

/-- Sparse storage by key. -/
abbrev Cells (α : Type) := List (Nat × α)

/-- The value at a key; `d` is what an unlisted key reads as. -/
def Cells.get {α : Type} (d : α) : Cells α → Nat → α
  | [], _ => d
  | (j, v) :: r, k => if j = k then v else Cells.get d r k

/-- The entry at a key. -/
def Cells.find? {α : Type} : Cells α → Nat → Option α
  | [], _ => none
  | (j, v) :: r, k => if j = k then some v else Cells.find? r k

/-- The list with the entry `(k, v)`. -/
def Cells.put {α : Type} : Cells α → Nat → α → Cells α
  | [], k, v => [(k, v)]
  | (j, w) :: r, k, v =>
    if k < j then (k, v) :: (j, w) :: r
    else if j = k then (k, v) :: r
    else (j, w) :: Cells.put r k v

/-- The list without any entry at `k`. -/
def Cells.del {α : Type} : Cells α → Nat → Cells α
  | [], _ => []
  | (j, w) :: r, k => if j = k then Cells.del r k else (j, w) :: Cells.del r k

/-- The list that reads `v` at `k`; writing what an unlisted key reads as removes the entry. -/
def Cells.set {α : Type} [DecidableEq α] (d : α) (l : Cells α) (k : Nat) (v : α) : Cells α :=
  if v = d then Cells.del l k else Cells.put l k v

/-- The list that reads `f i` at `base + i` for `i < n`. -/
def Cells.setRange {α : Type} [DecidableEq α] (d : α) (l : Cells α) (base : Nat) (f : Nat → α) : Nat → Cells α
  | 0 => l
  | n + 1 => Cells.set d (Cells.setRange d l base f n) (base + n) (f n)

/-- Keys strictly rising from above `lo`. -/
def Cells.rising {α : Type} : Option Nat → Cells α → Bool
  | _, [] => true
  | lo, (j, _) :: r =>
    (match lo with
     | none => true
     | some b => decide (b < j)) && Cells.rising (some j) r

/-- The canonical form: keys strictly rising and no entry equal to the default. -/
def Cells.wf {α : Type} [DecidableEq α] (d : α) (l : Cells α) : Bool :=
  Cells.rising none l && l.all fun x => decide (x.2 ≠ d)

/-- Byte memory. -/
abbrev Memory := List Host.Cell

/-- What a byte that nothing has written reads as: 0 (DESIGN CHOICE, log entry 1; partition creation zeroises, R382). -/
def Memory.unwritten : Byte := 0

/-- The canonical form of a memory. -/
def Memory.wf (m : Memory) : Bool := Cells.wf Memory.unwritten m

/-- One byte. -/
def Memory.read (m : Memory) (a : Nat) : Byte := Cells.get Memory.unwritten m a

/-- One byte written. -/
def Memory.write (m : Memory) (a : Nat) (v : Byte) : Memory := Cells.set Memory.unwritten m a v

/-- `n` bytes from address `a` on, least significant first, as a number (R1). -/
def Memory.readNat (m : Memory) (a : Nat) : Nat → Nat
  | 0 => 0
  | n + 1 => (Memory.read m a).toNat + 256 * Memory.readNat m (a + 1) n

/-- `n` bytes from address `a` on written with the low bytes of `v`. -/
def Memory.writeNat (m : Memory) (a : Nat) : Nat → Nat → Memory
  | 0, _ => m
  | n + 1, v => Memory.writeNat (Memory.write m a (BitVec.ofNat 8 v)) (a + 1) n (v / 256)

/-- The bytes of a value, least significant first. -/
def bytesOf : Nat → Nat → List Byte
  | 0, _ => []
  | n + 1, v => BitVec.ofNat 8 v :: bytesOf n (v / 256)

/-- The value of bytes, least significant first. -/
def natOf : List Byte → Nat
  | [] => 0
  | b :: r => b.toNat + 256 * natOf r

end Sys2Proof.Machine
end

