-- ==== Sys2Proof/Machine/CoreState.lean ====
section
/-! DEFINITION. Sys2Proof/Machine/CoreState.lean: the state of one core context (R15, Table 01.5, Table 01.7, Table 19.8):
the scalar sequencer and its Husk context, the engines, the vector unit, the rotation array, the tokens and pips. -/

namespace Sys2Proof.Machine

/-- A place in storage (R96, R268, R292): package memory, the scratch of a pod, host memory, a peer device. -/
inductive Loc where
  | pkg (a : Nat)
  | scratch (pod o : Nat)
  | host (a : Nat)
  | peer (dev a : Nat)
  deriving DecidableEq, Repr

/-- A trap cause with its address and detail (Table 19.2). -/
structure Flt where
  cause : BitVec 8
  addr : Word
  info : Word
  deriving DecidableEq, Repr

/-- An X prefix that stands before a word and waits for it (R59), with its own address. -/
inductive Prefix where
  | none
  | ext (payload : BitVec 27) (at_ : Word)
  | fmtx (inp out : BitVec 4) (sat norm : BitVec 1) (bias : BitVec 8) (at_ : Word)
  deriving DecidableEq, Repr

/-- What S waits for. The waiting word executes again when its turn comes (R355, R362). -/
inductive Wait where
  /-- A token: TWAIT, TFREE, X.TWS or the kout of an A word. -/
  | token (k : BitVec 6)
  /-- SIGW on a signal: index, threshold, and the wts of the write that first satisfied it (R205). -/
  | signal (index threshold : Word) (met : Option Word)
  /-- BAR or BARW: the descriptor's bits [22:0] and the phase whose completion ends the wait. -/
  | barrier (desc : BitVec 23) (phase : Nat)
  /-- The drift stall at a run header. -/
  | drift (header : Word) (beat : BitVec 32)
  /-- TSYNC or CHEND before its arrival, and after it. -/
  | teamArrive
  | teamBarrier
  /-- An XFER receive. -/
  | recv (word : InstrWord)
  /-- An XFER send that waits for its channel, and an XFER.B send whose block has not been read. -/
  | channel
  | blockSend
  /-- AOSEQ: address and sequence number. -/
  | aoseq (addr n : Word)
  /-- LNCH or GLNCH at a full queue: record address, queue number, and the record that has been read. -/
  | launchQueue (record : Word) (queue : Nat) (bytes : Nat)
  | pipPop (ch : Nat)
  | pipPush (ch : Nat)
  /-- A C-side read (R89). -/
  | cside
  /-- Earlier accesses, acknowledgements or returning data (R102, R121, R293). -/
  | memory
  /-- The gathering of flush markers, which have been sent (R121, R203). -/
  | fence
  /-- A full command queue (R7). -/
  | queue (e : Eng)
  /-- GEND after its arrival (R308). -/
  | guardEnd
  /-- An AMO.FADD that a recording holds: its line and its key (R396, R397). -/
  | held (line : Nat) (key : List Nat)
  deriving DecidableEq, Repr

/-- The status of S in a context. -/
inductive SStat where
  | unbound
  | running
  | waiting (w : Wait)
  /-- Retired at its HALT (R23, Table 04.5). -/
  | retired (at_ : Word)
  /-- The core has been handed to Husk (R90); the wait in which an engine trap met S, if it was in one (R355). -/
  | trapped (w : Option Wait)
  /-- Stopped for preemption, in its wait if it was in one (R362). -/
  | stopped (w : Option Wait)
  deriving DecidableEq, Repr

/-- An A word with token waits whose X.TWS comes next (R59). -/
structure PendA where
  word : InstrWord
  at_ : Word
  deriving DecidableEq, Repr

/-- A branch that the fetch unit has resolved ahead of its issue (R65). -/
structure Split where
  at_ : Word
  taken : Bool
  deriving DecidableEq, Repr

/-- A wait that has trapped `WAITTO` (R242): the address of its word, and where the context stood in it. -/
structure Expired where
  word : Word
  pc : Word
  pend : Option PendA
  wait : Wait
  deriving DecidableEq, Repr

/-- A scalar context: the user context of S or Husk (R72). -/
structure Ctx where
  g : Cells Word
  p : Cells Bool
  pc : Word
  pfx : Prefix
  pend : Option PendA
  stat : SStat
  split : Option Split
  /-- The step in which the wait began in which S stands (R241). -/
  since : Nat
  /-- The wait whose `WAITTO` the user handler has been entered for: a return to its word goes on in it. -/
  expired : Option Expired
  deriving DecidableEq, Repr

/-- What an entry of a command queue is (R8, R82, R23). -/
inductive QKind where
  | word
  | regA (i : BitVec 4)
  | regLc (i : BitVec 1)
  | msel (i : BitVec 3)
  | sysreg (i : BitVec 13)
  | halt
  deriving DecidableEq, Repr

/-- An entry of a command queue: the word, its address and its offset in its run (R258), or a register write and its value;
SYNC_FLOOR when S steered it (R300); the number of words steered before it (Table 19.3); the run of a team stream that
holds it. -/
structure QEntry where
  kind : QKind
  word : InstrWord
  at_ : Word
  val : Word
  floor : Word
  pos : Nat
  beat : BitVec 32
  deriving DecidableEq, Repr

/-- An engine loop in progress: latched count, current iteration, first loop-memory index of the body, body length. -/
structure LoopSt where
  n : Nat
  i : Nat
  start : Nat
  len : Nat
  deriving DecidableEq, Repr

/-- What an engine sequencer waits for inside a word. -/
inductive EWait where
  | pipPop (ch : Nat)
  | pipPush (ch : Nat)
  | fifo
  | scaleQueue
  | other
  deriving DecidableEq, Repr

inductive EStat where
  | ready
  | waiting (w : EWait)
  | retired
  deriving DecidableEq, Repr

/-- An engine sequencer L, C or T (R8 to R13). -/
structure Engine where
  a : Cells Word
  lc0 : BitVec 32
  lc1 : BitVec 32
  queue : List QEntry
  loopMem : List QEntry
  lp : Nat
  outer : Option LoopSt
  inner : Option LoopSt
  /-- The counts latched with the inner LOOPE words, by loop-memory index (R9). -/
  latched : Cells Nat
  /-- Body words that remain to be discarded or only stored, because the count is 0 (R9). -/
  skip : Nat
  pts : Word
  pfx : Prefix
  stat : EStat
  /-- The pips of the word in progress have been popped (R358, R362). -/
  popped : Bool
  /-- Of its two pips the left one has been popped, and it waits for the right one (R13). -/
  half : Bool
  /-- Channels that the performed word still has to push into (R362). -/
  pushes : List Nat
  /-- What the word in progress has already done: granules in bytes, slots or vectors (R358). -/
  offset : Nat
  /-- The largest timestamp of those granules, and the base of the command while it is in progress (R289). -/
  offsetTs : Word
  base : Option Word
  /-- LS bytes that the word in progress has written ahead of the rest: address, old and new value (R113). -/
  landed : List (Nat × Byte × Byte)
  /-- Words steered to the engine in this iteration. -/
  steered : Nat
  deriving DecidableEq, Repr

/-- A body capture that the splitter has open (R9, R10): words to come of the outer and of the inner body. -/
structure Capture where
  outer : Nat
  inner : Nat
  deriving DecidableEq, Repr

/-- A vector of the rotation array: working format code, lanes in it, the norms at entry and exit, its group, and whether
it uses plane B. -/
structure AVec where
  w : Nat
  lanes : List Lane
  nin : Lane
  nout : Lane
  group : Nat
  planeB : Bool
  deriving DecidableEq, Repr

/-- An angle plane (R154). Codes and scales are by cell index and lane. -/
structure Plane where
  codes : Cells (BitVec 16)
  scales : Cells (BitVec 6)
  bitmap : BitVec 16
  deriving DecidableEq, Repr

/-- A stream word in progress between its vectors (R176, R182). -/
structure StreamSt where
  pass : Nat
  vec : Nat
  last : Bool
  scales : Bool
  map : Nat
  /-- The next pass, if the inactive plane holds it: its L, S and lane-map number. -/
  next : Option (Bool × Bool × Nat)
  deriving DecidableEq, Repr

/-- A plane load in progress (R157): the pip channels that its completion pushes, and how many of the vectors in flight
have to leave the array before it. -/
structure Loader where
  pushes : List Nat
  ahead : Nat
  deriving DecidableEq, Repr

/-- The rotation array (R152 to R184). -/
structure Arr where
  planeA : Plane
  planeB : Plane
  /-- Plane B is active. -/
  activeB : Bool
  laneMap : BitVec 20
  inflight : List AVec
  outbuf : List AVec
  groups : Nat
  loader : Option Loader
  stream : Option StreamSt
  monitor : Bool
  ndrift : Lane
  ndcnt : BitVec 32
  sws0 : Word
  sws1 : Word
  deriving DecidableEq, Repr

/-- An entry of the deferral queue (R141). -/
structure DEntry where
  lane : Nat
  words : List Lane
  deriving DecidableEq, Repr

/-- A tile-status update that has not landed yet (R169). -/
structure TUpd where
  tag : Nat
  flags : BitVec 6
  count : Nat
  deriving DecidableEq, Repr

/-- The vector unit and its registers (Table 01.5). -/
structure Vec where
  /-- Lane i of v register r is at key 64 r + i. -/
  v : Cells Lane
  m : Cells (BitVec 64)
  msel : BitVec 3
  /-- Element (r, c) of tile register t is at key 4,096 t + 64 r + c. -/
  t : Cells (BitVec 16)
  q : Cells Accum
  scaleQ : List Byte
  fifo : List Byte
  /-- The address and the index of the slot that each 128 bytes of the FIFO come from (R175, Table 19.2). -/
  slots : List (Word × Nat)
  deferQ : List DEntry
  ft : Cells Word
  tstat : Cells Word
  tupd : List TUpd
  gres : Word
  key0 : Word
  key1 : Word
  deriving DecidableEq, Repr

/-- The state of a token (R86, R187). -/
inductive Tok where
  | free
  | pending
  | done (ts : Word)
  | failed (f : Flt)
  deriving DecidableEq, Repr

/-- An engine trap that keeps the engines of the core stopped (R355). -/
structure EngTrap where
  e : Eng
  flt : Flt
  at_ : Word
  pos : Nat
  offset : Nat
  iter : Nat
  replayable : Bool
  pts : Word
  /-- S has entered it, and Husk has the core. -/
  entered : Bool
  deriving DecidableEq, Repr

/-- A write-combining buffer (R100): its 64 bytes of system space, and the bytes written by offset. -/
structure Comb where
  loc : Loc
  bytes : Cells Byte
  deriving DecidableEq, Repr

/-- What the guard buffer holds (R306): bytes by location key. -/
abbrev GuardBuf := Cells Byte

/-- The trap registers (Table 01.7). -/
structure TrapRegs where
  vec : Word
  cause : Word
  pc : Word
  addr : Word
  info : Word
  deriving DecidableEq, Repr

/-- What binds a core: its launch, gang and rank (R236, R237). -/
structure Binding where
  launch : Nat
  gang : Nat
  rank : Nat
  deriving DecidableEq, Repr

/-- What `SHARE` or `HYIELD` does at the next fetch-pair boundary (R95). -/
inductive HuskAct where
  | share (v : Word)
  | yield
  deriving DecidableEq, Repr

/-- A CHLOOP in progress: start of its span, its end where it is known, its runs, and iterations left, this one among them
(R256). -/
structure ChLoop where
  first : Word
  stop : Option Word
  span : Nat
  left : Nat
  deriving DecidableEq, Repr

/-- The team state of a member (R247 to R260, Table 19.8). -/
structure Team where
  /-- The team whose stream the member is in. -/
  team : Option Nat
  /-- Words of the body of the latest run that the member executes, and the mask and header of that run. -/
  left : Nat
  mask : BitVec 16
  header : Word
  /-- A branch has just left its run (R260). -/
  jumped : Bool
  /-- Active loops, the innermost first. -/
  loops : List ChLoop
  /-- Source cursor of channel c at 2 c, destination cursor at 2 c + 1 (R259). -/
  cursors : Cells Word
  /-- CHBEG has run in this iteration. -/
  begun : Bool
  /-- The address of that CHBEG. -/
  beg : Word
  beat : BitVec 32
  bound : BitVec 8
  deriving DecidableEq, Repr

/-- A translation that a TLB holds: of its partition, of Husk's tables or of the user's, and whether it stands for its group
of sixteen pages (R350, R351, R383). -/
structure TlbEntry where
  part : Nat
  husk : Bool
  asid : BitVec 16
  page : Nat
  level : Nat
  pte : Word
  group : Bool
  deriving DecidableEq, Repr

/-- One core context, and the record of an engine that is a team member. -/
structure Core where
  user : Ctx
  husk : Ctx
  handler : Bool
  trap : TrapRegs
  /-- The trap registers of the user context while Husk has the core for a preemption (R361). -/
  kept : Option TrapRegs
  pts : Word
  huskPts : Word
  floor : Word
  /-- The lines of the previous load of the user context, and of Husk (R285). -/
  lastLine : List Nat
  huskLine : List Nat
  /-- What Husk's last word does at the boundary of its fetch pair, and the address of the pair's second word (R95). -/
  pairAct : Option (HuskAct × Word)
  /-- The cycles in which Husk issued its latest words, latest first (R244). -/
  issued : List Word
  /-- The core's TLB (R351). -/
  tlb : List TlbEntry
  /-- Uncorrectable errors in the core's LS, L1, registers and queues: structure of R356 and address. -/
  errs : List (BitVec 8 × Word)
  l : Engine
  c : Engine
  t : Engine
  /-- Open body captures of L, C and T (R11). -/
  capL : Capture
  capC : Capture
  capT : Capture
  /-- Timestamps of the pips in channels 0 to 7, oldest first. -/
  pips : Cells (List Word)
  ls : Memory
  vec : Vec
  arr : Arr
  tileClean : Bool
  tokens : Cells Tok
  /-- How many iterations have retired: a token belongs to the iteration that named it (R25). -/
  gen : Nat
  engTrap : Option EngTrap
  comb : List Comb
  gtol : Word
  gangSize : Word
  gangRank : Word
  roleSet : Word
  iter : Word
  launchId : Word
  share : Word
  reloc : Cells Word
  raceMode : Word
  binding : Option Binding
  /-- The step in which the core was bound, or retired last (R237). -/
  readyAt : Nat
  guard : GuardBuf
  /-- The addresses of the lines that the guard buffer has bytes of. -/
  guardVas : List Word
  surrogate : Bool
  team : Team
  /-- LNCH and GLNCH words, and FADD words, issued in the iteration (R396). -/
  lnches : Nat
  fadds : Nat
  deriving DecidableEq, Repr

/-! ### Reset values -/

def Ctx.reset (st : SStat) : Ctx := ⟨[], [], 0, .none, none, st, none, 0, none⟩

def Engine.reset : Engine :=
  { a := [], lc0 := 0, lc1 := 0, queue := [], loopMem := [], lp := 0, outer := none, inner := none, latched := [], skip := 0,
    pts := 0, pfx := .none, stat := .ready, popped := false, half := false, pushes := [], offset := 0, offsetTs := 0,
    base := none, landed := [], steered := 0 }

/-- Both planes hold identity cells and unit scales (R154). -/
def Plane.reset : Plane := ⟨[], [], 0xFFFF⟩

def Arr.reset : Arr :=
  { planeA := Plane.reset, planeB := Plane.reset, activeB := false, laneMap := 0, inflight := [], outbuf := [], groups := 0,
    loader := none, stream := none, monitor := false, ndrift := 0, ndcnt := 0, sws0 := 0, sws1 := 0 }

def Vec.reset : Vec :=
  { v := [], m := [], msel := 0, t := [], q := [], scaleQ := [], fifo := [], slots := [], deferQ := [], ft := [], tstat := [], tupd := [],
    gres := 0, key0 := 0, key1 := 0 }

/-- The drift bound is 4 (R17). -/
def Team.reset : Team :=
  { team := none, left := 0, mask := 0, header := 0, jumped := false, loops := [], cursors := [], begun := false, beg := 0, beat := 0,
    bound := 4 }

/-- A core after reset: unbound, every register at the value of R17, SHARE 16 (R244). -/
def Core.reset : Core :=
  { user := Ctx.reset .unbound, husk := Ctx.reset (.stopped none), handler := false, trap := ⟨0, 0, 0, 0, 0⟩, kept := none, pts := 0, huskPts := 0,
    floor := 0, lastLine := [], huskLine := [], pairAct := none, issued := [], tlb := [], errs := [], l := Engine.reset, c := Engine.reset, t := Engine.reset, capL := ⟨0, 0⟩, capC := ⟨0, 0⟩,
    capT := ⟨0, 0⟩, pips := [], ls := [], vec := Vec.reset, arr := Arr.reset, tileClean := true, tokens := [], gen := 0,
    engTrap := none, comb := [], gtol := 0, gangSize := 0, gangRank := 0, roleSet := 0, iter := 0, launchId := 0, share := 16,
    reloc := [], raceMode := 0, binding := none, readyAt := 0, guard := [], guardVas := [], surrogate := false, team := Team.reset,
    lnches := 0, fadds := 0 }

end Sys2Proof.Machine
end

