-- ==== Sys2Proof/Machine/DevState.lean ====
section
/-! DEFINITION. Sys2Proof/Machine/DevState.lean: the state of the device outside the cores: homes and caches, asynchronous
operations, barriers and signals, launches, gangs and teams, replayed objects, partitions, the host interface and the
device registers (spec/08, 11 to 15, 19 to 21). -/

namespace Sys2Proof.Machine

/-- The timestamps of a line at its home (R282). -/
structure LineTs where
  wts : Word
  rts : Word
  deriving DecidableEq, Repr

/-- A leased copy of a line in an L1 or a pod cache (R283); in a pod cache its set and the bank that is its way (R269). -/
structure Copy where
  data : BitVec 1024
  wts : Word
  lease : Word
  set : Nat
  way : Nat
  deriving DecidableEq, Repr

/-- Who holds a pin of a line: a loaded slot by its key, or a launch and its window through
`WPIN` (R279, R408). -/
inductive PinBy where
  | slot (k : Nat)
  | launch (l window : Nat)
  deriving DecidableEq, Repr

/-- A line that is resident in the shared cache: class (R61), pins, dirty, its home slice and set, the step of its latest
use, and where the shadow records of its sectors stand when it leaves (R276, R278, R279, R122, R299). -/
structure LineAttr where
  cls : BitVec 2
  pins : List PinBy
  dirty : Bool
  home : Nat
  set : Nat
  used : Nat
  shadowAt : Option Nat
  deriving DecidableEq, Repr

/-- A token of a core, as an operation names it: resolving it has an effect only while the iteration that named it has
not retired (R25). Number 63 names none. The launch number and the iteration are those that a fault record names. -/
structure TokRef where
  core : Nat
  gen : Nat
  k : BitVec 6
  launch : Word
  iter : Word
  deriving DecidableEq, Repr

/-- The layout record of R188. -/
structure Layout where
  base : Word
  esz : Nat
  rank : Nat
  mirror : Nat
  format : Nat
  extent : List Nat
  stride : List Int
  origin : List Int
  shape : List Nat
  deriving DecidableEq, Repr

/-- What an asynchronous operation does (Tables 08.3, 13.5, spec/08 fabric operations, spec/15 calls). -/
inductive OpKind where
  | copy (src dst : Word) (rec_ : Option Word)
  | copyl (src dst len : Word)
  | tpref (rec_ ctl : Word)
  | fsend (src dst len : Word)
  | fget (src dst len : Word)
  /-- A join (R199): its inputs, each with the state that it had at issue or resolved to since. -/
  | tokn (inputs : List (BitVec 6 × Tok))
  /-- A window word: 0 WPIN, 1 WUNPIN, 2 WOWN; index; status address, if one is given, or phase and new owner. -/
  | window (which : Nat) (index : Word) (arg : Option Word)
  /-- The packet of an arrival on a barrier that another device counts: whether its word waits for the phase itself. -/
  | barrier (gang b : Nat) (waits : Bool) (phase : Nat) (release : Bool) (ts : Word) (sent : Bool)
  /-- RCALL or RQRY: object record, method, argument block and its six arguments. -/
  | call (obj method args : Word) (query : Bool) (vals : List Word)
  | trim (obj : Word)
  deriving DecidableEq, Repr

/-- How far an operation is. -/
inductive OpStat where
  | queued
  | running
  /-- Stopped at a replayable fault (R358). -/
  | stalled (f : Flt)
  /-- A copy that has failed: its completion record comes once its writes are acknowledged (R193, R194). -/
  | failing (f : Flt)
  deriving DecidableEq, Repr

/-- An asynchronous operation that an A word started (R186, R187). -/
structure AOp where
  kind : OpKind
  tok : TokRef
  /-- PTS and SYNC_FLOOR of S at issue, the launch, and the gang rank. -/
  base : Word
  floor : Word
  launch : Nat
  rank : Nat
  stat : OpStat
  /-- The records that the operation read when it started. -/
  src : Option Layout
  dst : Option Layout
  /-- Granules, lines or messages that have been performed. -/
  done : List Nat
  /-- Failed checks of each message (R209). -/
  fails : Cells Nat
  /-- The first race that a granule met in mode 1 (R301). -/
  race : Option Flt
  /-- A surrogate iteration issued it: its writes go to the guard buffer (R306, R308). -/
  buffered : Bool
  maxTs : Word
  at_ : Word
  deriving DecidableEq, Repr

/-- What waits at a home to be performed (R116, R146, R108). -/
inductive ReqKind where
  /-- A reduction: fn of Table 05.4, size in bytes, operand. -/
  | red (fn size : Nat) (v : Word)
  /-- A slot merge of XPUT (R146). -/
  | slot (q : Accum)
  /-- A load of XGET that waits behind an earlier operation of its C on the slot, for an accumulator (R147, R148). -/
  | get (q : Nat)
  /-- A line request of a prefetch (R108). -/
  | line (cls : BitVec 2) (fill : Bool)
  /-- A slot operation that has performed: its pips wait for room in their channels; they carry the wts of a merge, or C's PTS when
  they are pushed (R13, R146). -/
  | pips (ts : Option Word)
  deriving DecidableEq, Repr

structure Req where
  kind : ReqKind
  loc : Loc
  va : Word
  core : Nat
  e : Seq
  pts : Word
  floor : Word
  launch : Nat
  /-- What its core was when it was issued: PTS, `LAUNCH_ID`, `ITER`, and the number of its iteration (R25, R359). -/
  issued : Word
  number : Word
  iter : Word
  gen : Nat
  /-- Words steered to its sequencer before its word (Table 19.3). -/
  pos : Nat
  /-- The engine pips that follow the performance (R146). -/
  pushes : List Nat
  /-- The replay key of a FADD (R396), and the address of the word. -/
  key : List Nat
  at_ : Word
  /-- Cores that the home has served while this request waited at the head of its core's (R26). -/
  passed : List Nat
  deriving DecidableEq, Repr

/-- Who made a system-scope write: a sequencer of the core, or an operation by its number. -/
inductive SysSrc where
  | seq (q : Seq)
  | op (o : Nat)
  deriving DecidableEq, Repr

/-- A system-scope access on its way to the root complex or a peer (R102, R292). -/
inductive SysReq where
  /-- A write that lies within one aligned 8 bytes. -/
  | store (core : Nat) (src : SysSrc) (loc : Loc) (bytes : List Byte)
  /-- A load of S that its data has not reached: its parts (place, address, length), the bytes that its parts in package
  memory and earlier stores of S give it, its size and destination, and whether it may leave a device copy. -/
  | load (core : Nat) (husk : Bool) (parts : List (Loc × Nat × Nat)) (ownData : Cells Byte) (gd : BitVec 5) (signed keep acq : Bool)
  /-- A fence, or an arrival on a fabric barrier, whose flush markers are not gathered (R121, R203). -/
  | fence (core : Nat)
  deriving DecidableEq, Repr

/-- An ordered atomic that has been sent and not performed (R118, R119). -/
structure Aoseq where
  core : Nat
  va : Word
  fn : Nat
  size : Nat
  n : Word
  v : Word
  gd : BitVec 5
  /-- It has reached its home and takes a buffer entry there. -/
  buffered : Bool
  /-- It has been removed, and its issuer waits for its timeout. -/
  dead : Bool
  /-- Its home refused it, and it waits for its backoff. -/
  refused : Bool
  /-- The Husk context issued it; the address of its word, and the context before it (R119). -/
  husk : Bool
  at_ : Word
  snap : Ctx
  deriving DecidableEq, Repr

/-- A member's part in an exact all-reduce (R207). -/
structure Collx where
  core : Nat
  src : Word
  dst : Word
  read : Bool
  tok : TokRef
  base : Word
  launch : Nat
  floor : Word
  rank : Nat
  at_ : Word
  deriving DecidableEq, Repr

/-- A barrier of a gang or of a partition (R201, R204). -/
structure Barrier where
  phase : Nat
  count : Nat
  n : Nat
  ts : Word
  /-- Timestamps of the completed phases. -/
  times : Cells Word
  /-- Tokens that the completion of the phase makes done. -/
  toks : List TokRef
  /-- The phase is one of COLLX words, and their members. -/
  collx : List Collx
  /-- Whether the phase is one of COLLX words, once an arrival of this device has fixed it (R207). -/
  isCollx : Option Bool
  deriving DecidableEq, Repr

def Barrier.reset : Barrier := ⟨0, 0, 0, 0, [], [], [], none⟩

/-- A signal (R205). -/
structure Signal where
  val : Word
  wts : Word
  rts : Word
  deriving DecidableEq, Repr

def Signal.reset : Signal := ⟨0, 0, 0⟩

/-- A window-table entry (Table 13.4) and who holds its pin: 0 nobody, 1 the slot or another launch, 2 this launch. -/
structure Win where
  base : Word
  limit : Word
  slices : BitVec 32
  dies : BitVec 4
  flags : BitVec 8
  owner : List (BitVec 16)
  pinnedBy : Nat
  /-- Base of the window's part of the shadow region (R299, R381). -/
  shadow : Nat
  deriving DecidableEq, Repr

/-- An entry that matches no address (V = 0). -/
def Win.empty : Win := ⟨0, 0, 0, 0, 0, List.replicate 16 0, 0, 0⟩

/-- A nest record (R227). -/
structure Nest where
  rank : Nat
  order : Nat
  extent : List Nat
  step : List Int
  redo : Word
  deriving DecidableEq, Repr

/-- A launch record as the scheduler keeps it (Table 11.1). -/
structure LRec where
  entry : Word
  kind : Nat
  prio : Nat
  inOrder : Bool
  queue : Nat
  gangSize : Nat
  timeout : Nat
  placement : Nat
  ext : Word
  waits : List (Nat × Nat)
  dones : List Nat
  args : List Word
  deriving DecidableEq, Repr

/-- A role binding: kind 1 core, 2 copy engine, 3 replay engine; gang rank (R246). -/
structure Role where
  kind : Nat
  rank : Nat
  deriving DecidableEq, Repr

/-- A block channel of a team (Table 12.1). -/
structure Chan where
  src : Word
  dst : Word
  srcStep : Int
  dstStep : Int
  deriving DecidableEq, Repr

/-- The role-binding table of a team launch (R246). -/
structure Binder where
  team : Nat
  roles : List Role
  chans : List Chan
  deriving DecidableEq, Repr

/-- The states of Table 11.4. -/
inductive LState where
  | queued
  | waiting
  | ready
  | running
  | draining
  | complete
  deriving DecidableEq, Repr

/-- A launch (R226 to R235). -/
structure Launch where
  part : Nat
  number : Word
  rec_ : LRec
  nest : Nest
  binder : Option Binder
  /-- Exact entry, tolerance and buffer size of a guarded launch (Table 15.1). -/
  exact : Word
  tolerance : Lane
  buffer : Nat
  state : LState
  status : Nat
  startTs : Word
  doneTs : Word
  /-- Iterations: how many exist and how many have been handed out. -/
  total : Nat
  handed : Nat
  /-- Entries of the redo area, and how many have been handed out (R310). -/
  redo : List Nat
  redoHanded : Nat
  aged : Bool
  slot : Option Nat
  windows : List Win
  pinLim : Word
  pinUse : Word
  gstat : Word
  reloc : Cells Word
  tok : TokRef
  /-- The command that entered it, if a host command did (R376). -/
  invoke : Option Nat
  /-- The replay key (R396). -/
  key : List Nat
  /-- The launch whose LNCH or GLNCH made it, while the token of that word counts for that launch (R25). -/
  parent : Option Nat
  deriving DecidableEq, Repr

/-- How far a gang is. -/
inductive GState where
  | bound
  /-- Stopping for preemption: its cores are being saved (R362). -/
  | saving
  /-- Saved: it resumes when its cores are free again (R242). -/
  | saved
  /-- Being restored (R364). -/
  | restoring
  | released
  deriving DecidableEq, Repr

/-- A PHASE round of a gang (R274). -/
structure Round where
  plan : Word
  phase : Nat
  arrived : List Nat
  ts : Word
  toks : List TokRef
  /-- Every member has arrived and the banks are converting. -/
  converting : Bool
  deriving DecidableEq, Repr

/-- A gang (R20, R236). Members are cores by rank. -/
structure Gang where
  launch : Nat
  members : List Nat
  state : GState
  /-- The iteration in progress and whether it is a redo. -/
  iter : Option Nat
  redoing : Bool
  barriers : Cells Barrier
  /-- The phase of each member's latest arrival: key 64 rank + number. -/
  arrivals : Cells Nat
  phaseNo : Nat
  round : Option Round
  /-- Ranks that have arrived at the guard decision, and the decision: 0 commit, 1 discard (R308). -/
  guardAt : List Nat
  decision : Option Nat
  preemptible : Bool
  /-- Preempted so that the launch that its partition's scheduler has claimed cores for can bind (R241, R243). -/
  gaveWay : Bool
  /-- It stops because its launch has ended: its contexts are not kept (R357, R365). -/
  discard : Bool
  /-- The team of a team launch. -/
  team : Option Nat
  /-- Members whose save, or whose restore, is complete, and the saved contexts by agent (R362 to R364). -/
  saved : List Nat
  ctxs : Cells Core
  deriving DecidableEq, Repr

/-- A hand-over message (R258, R259): roles, kind (0 G, 1 V, 2 B), beat, address of its word and its offset in its run, what
it carries (a register, the lanes, the bytes of a block). -/
structure Msg where
  src : Nat
  dst : Nat
  kind : Nat
  beat : BitVec 32
  at_ : Word
  pos : Word
  payload : List Nat
  /-- Sending member; for a block its source address, length and channel, whether it has been read, whether it has been
  written. -/
  sender : Nat
  addr : Word
  bytes : Nat
  chan : Nat
  moved : Bool
  placed : Bool
  /-- Bytes of a block that have been written (R358). -/
  written : Nat
  /-- It has reached the receiver's end of its channel. -/
  arrived : Bool
  /-- A replayable fault keeps its block from moving. -/
  stalled : Bool
  ts : Word
  deriving DecidableEq, Repr

/-- A team (R246 to R262). Members are agents: cores, copy engines 256 + pod, replay engines 288 + die. -/
structure TeamSt where
  gang : Nat
  launch : Nat
  members : List Nat
  /-- The beat that each member has reached, and the header that it published: at 1,024 beat + member. -/
  reached : Cells Nat
  headers : Cells Word
  /-- Members that have arrived at TSYNC or CHEND, those of them at CHEND, and the largest timestamp. -/
  arrived : List Nat
  enders : List Nat
  ts : Word
  /-- Messages of all pairs, in the order in which they were sent. -/
  msgs : List Msg
  deriving DecidableEq, Repr

/-- An object that a loaded slot created (R315). The fields that the device writes stand in its record in memory. -/
structure Obj where
  part : Nat
  slot : Nat
  record : Word
  /-- Operations: calls that a full log holds, oldest first; queries with the entry count that they wait for; calls that are
  logged and not answered, by sequence number (R319, R323). -/
  held : List Nat
  queries : List (Nat × Nat)
  logged : Cells Nat
  /-- wts of the log entries. -/
  entryTs : Cells Word
  /-- What each die's engine has fed to its CRC since the last post, and the posted CRCs with their entry numbers (R325). -/
  fed : Cells (List Byte)
  posted : Cells (List (Nat × BitVec 32))
  /-- `REPLICA` has stopped it (R325). -/
  dead : Bool
  deriving DecidableEq, Repr

/-- A fabric-barrier entry of a partition (R204). -/
structure FBar where
  entry : Word
  bar : Barrier
  /-- Devices that have contributed to the phase. -/
  remote : List Nat
  deriving DecidableEq, Repr

/-- A command that Hilum has handed over (R372, R375): VF, queue, its 64 bytes, its ts; the invocation that it started, and
the launches or gangs that its completion waits for. -/
structure Command where
  vf : Nat
  q : Nat
  bytes : Nat
  ts : Word
  inv : Option Nat
  waits : List Nat
  deriving DecidableEq, Repr

/-- A partition (Table 20.7). -/
structure Part where
  link : Nat
  lease : Nat
  yieldUs : Nat
  share : Nat
  flags : BitVec 8
  pods : BitVec 32
  ports : BitVec 16
  vfs : BitVec 128
  slices : BitVec 128
  ranges : List (Nat × Nat)
  root : Word
  /-- Physical frame of the level-4 table of Husk's translation (R383). -/
  huskRoot : Word
  asid : BitVec 16
  sigHome : BitVec 7
  pinBudget : Nat
  pinsInUse : Nat
  ringBase : Nat
  ringLog : Nat
  ringNext : Nat
  raceBase : Nat
  raceLog : Nat
  raceNext : Nat
  raceDrops : Nat
  shadowBase : Nat
  shadowSize : Nat
  keyHash : BitVec 256
  fbars : Cells FBar
  signals : Cells Signal
  nextNumber : Word
  /-- The command that Husk has not accepted yet, or the last one it accepted (R375). -/
  busy : Option Command
  stopped : Bool
  /-- The scheduler's: the queue last served at each level, and the launch that preempted gangs make room for (R239,
  R241). -/
  rr : Cells Nat
  claim : Option Nat
  /-- Launch slots that the partition has got in the present round (R238). -/
  granted : Nat
  deriving DecidableEq, Repr

/-- A loaded slot (R379). -/
structure Slot where
  windows : List Win
  launches : List Nat
  revoked : Bool
  pinned : Nat
  deriving DecidableEq, Repr

/-- A launch record on its way to the scheduler (R230, R376): the kinds that its maker allows, and what the launch takes
from its parent or its slot (R408). -/
structure Submission where
  part : Nat
  bytes : Nat
  ts : Word
  tok : TokRef
  kinds : List Nat
  parent : Option Nat
  key : List Nat
  slot : Option Nat
  invoke : Option Nat
  queue : Nat
  windows : List Win
  pinLim : Word
  reloc : Cells Word
  deriving DecidableEq, Repr

/-- An invocation in progress (R376): the command, and its launches in list order, `none` for one that never entered. -/
structure Invocation where
  part : Nat
  vf : Nat
  q : Nat
  cmd : Nat
  ts : Word
  expected : Nat
  launches : List (Option Nat)
  deriving DecidableEq, Repr

/-- The registers of an invocation queue (Table 20.2). -/
structure VQueue where
  qbase : Word
  qcfg : Word
  qwidx : BitVec 32
  qridx : BitVec 32
  cbase : Word
  ccfg : Word
  cwidx : BitVec 32
  cridx : BitVec 32
  deriving DecidableEq, Repr

/-- The registers at start (R370). -/
def VQueue.reset : VQueue := ⟨0, 0, 0, 0, 0, 0, 0, 0⟩

/-- A virtual function (R367, R371). Completions that wait for room: queue, record, interrupt. -/
structure Vf where
  /-- The status register at BAR0 `0x0000`: the spec gives it no bits (log entry 116). -/
  status : Word
  queues : Cells VQueue
  apbase : Word
  ts : Word
  waiting : List (Nat × List Byte × Bool)
  /-- MSI-X vectors that the host has masked, and those of them that are pending (R370). -/
  masked : List Nat
  pending : List Nat
  deriving DecidableEq, Repr

def Vf.reset : Vf := ⟨0, [], 0, 0, [], [], []⟩

/-- A pod: bank roles of the phase in force and the banks in transition (R270 to R273), held TLB entries (R351). -/
structure Pod where
  banks : BitVec 64
  /-- The roles before a conversion that has not finished (R272, R273). -/
  changing : Option (BitVec 64)
  /-- The gang that has moved the pod off the default map (R270). -/
  movedBy : Option Nat
  tlb : List TlbEntry
  /-- Copies of the pod in the order of issue, and whose copy or block started last: a core of the pod, or 8 for a team (R192,
  R259). -/
  queue : List Nat
  served : Nat
  deriving DecidableEq, Repr

/-- The default bank map: banks 0–23 cache, 24–27 scratch, 28–31 FIFO (R270). -/
def Pod.defaultBanks : BitVec 64 := 0xAA55000000000000

def Pod.reset : Pod := ⟨Pod.defaultBanks, none, none, [], [], 8⟩

/-- A die: clock, swallowed pulses, swallow fraction and whether the temperature holds it, bound and C stall cycles of its
cores in the present window, operating point, timestamp of its replay engine (R245, R390 to R392, R409). -/
structure Die where
  cycles : Word
  swallowed : Word
  level : Nat
  hot : Bool
  bound : Nat
  stall : Nat
  freq : Nat
  volt : Nat
  replayTs : Word
  /-- The object that the replay engine served last (R320). -/
  served : Nat
  deriving DecidableEq, Repr

/-- The floor of a frequency: that of the first VFLOOR entry whose fmax reaches it (R392). -/
def voltFloor (f : Nat) : Nat :=
  if f ≤ (Config.vfloor 0).1 then (Config.vfloor 0).2
  else if f ≤ (Config.vfloor 1).1 then (Config.vfloor 1).2
  else if f ≤ (Config.vfloor 2).1 then (Config.vfloor 2).2
  else (Config.vfloor 3).2

def Die.reset : Die := ⟨0, 0, 0, false, 0, 0, 2250, voltFloor 2250, 0, 0⟩

/-- A measurement register extended with some bytes (R385). -/
def extendMeas (m : BitVec 256) (d : List (BitVec 8)) : BitVec 256 :=
  Config.sm3 (((List.range 32).map fun i => m.extractLsb' (8 * i) 8) ++ d)

/-- The 32 bytes of a digest. -/
def digestBytes (d : BitVec 256) : List (BitVec 8) := (List.range 32).map fun i => d.extractLsb' (8 * i) 8

/-- M0 to M7 at step 2 of a start that has measured some images, in their order: Testa and its fuses, then the images (Table 20.8). -/
def measured (images : List (List (BitVec 8))) : List (BitVec 256) :=
  (List.range 8).map fun i =>
    match i with
    | 0 => extendMeas 0 (digestBytes (Config.digest 0))
    | k + 1 => (match images[k]? with | some b => if k < 3 then extendMeas 0 (digestBytes (Config.sm3 b)) else 0 | none => 0)

/-- Step 4: M4 with the digest of the training results, M5 with its byte (Table 20.8, Table 20.9). -/
def withResults (m : List (BitVec 256)) (slotB warm : Bool) (training : BitVec 256) : List (BitVec 256) :=
  (m.set 4 (extendMeas (m.getD 4 0) (digestBytes training))).set 5
    (extendMeas (m.getD 5 0) [BitVec.ofNat 8 ((if slotB then 1 else 0) + (if warm then 2 else 0))])

/-- How far a start is (R386). -/
inductive Boot where
  | ready
  | starting
  | recovery
  | failed
  deriving DecidableEq, Repr

/-- The algorithms that the SPDM responder supports (R387). -/
inductive Algorithm where
  | sm2P256
  | sm3_256
  | sm4Gcm
  deriving DecidableEq, Repr

/-- The SPDM responder of PF 0 (R387): what the requester has established, the algorithms negotiated, and the digest-level
content of the last answer. -/
structure Spdm where
  version : Bool
  capabilities : Bool
  algorithms : List Algorithm
  keyExchange : Bool
  session : Bool
  answer : List (BitVec 256)
  deriving DecidableEq, Repr

def Spdm.reset : Spdm := ⟨false, false, [], false, false, []⟩

/-- An entry of a recording (R396): half of a command, the key of an admitted launch, an FADD arrival at a line. -/
inductive RecEntry where
  | command (bytes : List Byte)
  | launch (key : List Nat)
  | fadd (line : Nat) (key : List Nat) (index : Nat)
  deriving DecidableEq, Repr

/-- The recording of `RECCTL` (R396, R397): its entries in order; in a replay, the launches admitted and the FADD arrivals
performed by line. -/
structure RecState where
  entries : List RecEntry
  admitted : Nat
  performed : Cells Nat
  deriving DecidableEq, Repr

end Sys2Proof.Machine
end

