-- ==== Sys2Proof/Machine/State.lean ====
section
/-! DEFINITION. Sys2Proof/Machine/State.lean: the state of the machine, its state after reset, and the reasons a step can
stop. -/

namespace Sys2Proof.Machine

/-- The state of the machine. -/
structure State where
  /-- Package memory by physical address, pod scratch at 2^23 pod + offset, host memory, peer memory at 2^57 device + a. -/
  mem : Memory
  scratch : Memory
  host : Memory
  peer : Memory
  /-- Timestamps of package lines and of scratch lines at 65,536 pod + line (R282). -/
  lines : Cells LineTs
  scrLines : Cells LineTs
  /-- Leased copies at 512 line + holder: an L1 by core, the cache of pod p as 256 + p (R283). -/
  copies : Cells Copy
  /-- Device copies of host lines (R293). -/
  devCopies : Cells (BitVec 1024)
  attrs : Cells LineAttr
  /-- Lines with an uncorrectable error and the structure that holds it (R356). -/
  poison : Cells (BitVec 8)
  /-- Shadow records by 32-byte sector (R299). -/
  shadows : Cells (BitVec 64)
  /-- Cores and engine members by agent. -/
  cores : Cells Core
  ops : Cells AOp
  reqs : Cells Req
  sys : Cells SysReq
  aoseqs : Cells Aoseq
  /-- The next free number of the tables above and of launches, gangs, teams, objects and invocations. -/
  nextId : Nat
  parts : Cells Part
  /-- Loaded slots at 64 partition + slot. -/
  slots : Cells Slot
  launches : Cells Launch
  gangs : Cells Gang
  teams : Cells TeamSt
  objs : Cells Obj
  subs : List Submission
  invs : Cells Invocation
  vfs : Cells Vf
  pods : Cells Pod
  dies : Cells Die
  /-- MSI-X vectors raised, latest first: VF and vector. -/
  msix : List (Nat × Nat)
  /-- The value that the last host read of the device returned. -/
  hostData : Nat
  /-- The registers of PF 0 BAR0 by offset (Tables 20.1, 21.1, 21.2), and the status of the PF of link 1 (R367). -/
  pf : Cells Word
  pf1Status : Word
  reftime : Word
  boot : Boot
  /-- Image slot B is in use, and the failed-start count and saved training digest of the board (R386, R389). -/
  slotB : Bool
  failedStarts : Nat
  training : Option (BitVec 256)
  /-- The measurement registers M0 to M7 (R385). -/
  meas : List (BitVec 256)
  /-- The device key, derived at start from fused secrets and M0 to M3 (R387). -/
  deviceKey : BitVec 256
  spdm : Spdm
  /-- Keys of the established IDE streams: 9 streams of each link, from 9 link on (R388). -/
  ide : Cells (BitVec 256)
  recs : RecState
  /-- The save areas of the cores: core k's from `0x24_0000` k on (R363). -/
  save : Memory
  /-- The model's own: whose turn it is, and the counter that free values are applied to. -/
  turn : Turn
  fresh : Nat
  deriving DecidableEq, Repr

/-- Why a step stops. -/
inductive Fault where
  /-- Raised by `step` at the turn of a sequencer while the device is not ready: during a start, after a failed one and in
  recovery no sequencer executes (R386). Safe: only a start goes on from there. -/
  | notReady
  deriving DecidableEq, Repr

/-- Why an instruction has no meaning. -/
inductive Refusal where
  /-- Raised by an arm of `exec` whose instruction the model does not cover yet. Safe. -/
  | notModelled (mnemonic : String)
  deriving DecidableEq, Repr

/-- The measurements of the start before reset: the images 1 to 3 (Table 20.8). -/
def State.resetMeas : List (BitVec 256) :=
  withResults (measured [Config.image 1, Config.image 2, Config.image 3]) false false (Config.digest 8)

/-- The machine right after a cold start that reached ready (R386): storage zero, no partition, every core unbound. -/
def State.reset : State :=
  { mem := [], scratch := [], host := [], peer := [], lines := [], scrLines := [], copies := [], devCopies := [], attrs := [],
    poison := [], shadows := [], cores := [], ops := [], reqs := [], sys := [], aoseqs := [], nextId := 0, parts := [],
    slots := [], launches := [], gangs := [], teams := [], objs := [], subs := [], invs := [], vfs := [], pods := [],
    dies := [], msix := [], hostData := 0, pf1Status := 0, pf := [(0x40C0, 600000), (0x60C0, 600000), (0x80C0, 600000), (0xA0C0, 600000)],
    reftime := 0, boot := .ready, slotB := false, failedStarts := 0, training := some (Config.digest 8),
    meas := State.resetMeas, deviceKey := Config.deviceKey (State.resetMeas.take 4), spdm := Spdm.reset, ide := [], recs := ⟨[], 0, []⟩,
    save := [], turn := .seq 0 .s, fresh := 0 }

end Sys2Proof.Machine
end

