-- ==== Sys2Proof/Machine/Regs.lean ====
section
/-! DEFINITION. Sys2Proof/Machine/Regs.lean: the accessors of cores, contexts, registers, engines, tokens and pips. Special
registers (g0, p0, token 63) behave here and nowhere else. -/

namespace Sys2Proof.Machine

/-- The larger of two unsigned words. -/
def wmax (a b : Word) : Word := if a.toNat ≤ b.toNat then b else a

/-- The agent and the sequencer whose turn it is; an event has none, and stands for S of agent 0. -/
def State.agent (s : State) : Nat :=
  match s.turn with
  | .seq a _ => a
  | .event _ => 0
  | .landing a _ => a

def State.who (s : State) : Seq :=
  match s.turn with
  | .seq _ q => q
  | .event _ => .s
  | .landing _ q => q

/-- The turn belongs to the Husk context. -/
def State.inHusk (s : State) : Bool := s.who == .husk

/-- The core of an agent. -/
def State.core (s : State) (n : Nat) : Core := Cells.get Core.reset s.cores n

def State.setCore (s : State) (n : Nat) (c : Core) : State := { s with cores := Cells.put s.cores n c }

def State.updCore (s : State) (n : Nat) (f : Core → Core) : State := s.setCore n (f (s.core n))

/-- The core whose turn it is. -/
def State.cur (s : State) : Core := s.core s.agent

def State.onCore (s : State) (f : Core → Core) : State := s.updCore s.agent f

/-! ### Scalar contexts -/

def Core.ctx (c : Core) (husk : Bool) : Ctx := if husk then c.husk else c.user

def Core.setCtx (c : Core) (husk : Bool) (x : Ctx) : Core := if husk then { c with husk := x } else { c with user := x }

/-- The context whose turn it is. -/
def State.ctx (s : State) : Ctx := s.cur.ctx s.inHusk

def State.onCtx (s : State) (f : Ctx → Ctx) : State := s.onCore fun c => c.setCtx s.inHusk (f (c.ctx s.inHusk))

/-- g0 reads 0 (R15). -/
def Ctx.getG (x : Ctx) (r : BitVec 5) : Word := if r = 0 then 0 else Cells.get 0 x.g r.toNat

/-- A write to g0 is ignored (R15, R72). -/
def Ctx.setG (x : Ctx) (r : BitVec 5) (v : Word) : Ctx := if r = 0 then x else { x with g := Cells.set 0 x.g r.toNat v }

/-- p0 reads 1 (R15). -/
def Ctx.getP (x : Ctx) (r : BitVec 3) : Bool := if r = 0 then true else Cells.get false x.p r.toNat

/-- A write to p0 is discarded (R15, R78). -/
def Ctx.setP (x : Ctx) (r : BitVec 3) (v : Bool) : Ctx := if r = 0 then x else { x with p := Cells.set false x.p r.toNat v }

/-- A scalar register of the context whose turn it is. -/
def State.g (s : State) (r : BitVec 5) : Word := s.ctx.getG r

def State.setG (s : State) (r : BitVec 5) (v : Word) : State := s.onCtx fun x => x.setG r v

def State.p (s : State) (r : BitVec 3) : Bool := s.ctx.getP r

def State.setP (s : State) (r : BitVec 3) (v : Bool) : State := s.onCtx fun x => x.setP r v

/-- Address of the word of the context whose turn it is. -/
def State.pc (s : State) : Word := s.ctx.pc

/-- The context goes on at an address: no prefix, no pending A word, no resolved branch, not waiting. -/
def Ctx.goto (x : Ctx) (a : Word) : Ctx := { x with pc := a, pfx := .none, pend := none, split := none, stat := .running }

/-- The word is done, and the next one stands 4 bytes on. -/
def State.advance (s : State) : State := s.onCtx fun x => x.goto (x.pc + 4)

def State.jump (s : State) (a : Word) : State := s.onCtx fun x => x.goto a

/-- S waits from a step on; a wait that goes on keeps its beginning (R241). -/
def Ctx.await (x : Ctx) (w : Wait) (now : Nat) : Ctx :=
  { x with stat := .waiting w, since := match x.stat with | .waiting _ => x.since | _ => now }

/-- The word waits and executes again at its next turn. -/
def State.await (s : State) (w : Wait) : State := s.onCtx fun x => x.await w s.fresh

/-! ### Timestamps -/

/-- PTS of a sequencer (R281). -/
def Core.ptsOf (c : Core) : Seq → Word
  | .s => c.pts
  | .l => c.l.pts
  | .c => c.c.pts
  | .t => c.t.pts
  | .husk => c.huskPts

def Core.setPts (c : Core) (q : Seq) (v : Word) : Core :=
  match q with
  | .s => { c with pts := v }
  | .l => { c with l := { c.l with pts := v } }
  | .c => { c with c := { c.c with pts := v } }
  | .t => { c with t := { c.t with pts := v } }
  | .husk => { c with huskPts := v }

/-- PTS of the sequencer whose turn it is. -/
def State.pts (s : State) : Word := s.cur.ptsOf s.who

/-- PTS := max(PTS, v). -/
def State.raisePts (s : State) (v : Word) : State := s.onCore fun c => c.setPts s.who (wmax (c.ptsOf s.who) v)

/-- SYNC_FLOOR := PTS; Husk has no floor of its own (Table 14.13). -/
def State.setFloor (s : State) : State := if s.inHusk then s else s.onCore fun c => { c with floor := c.pts }

/-! ### Engines -/

def Core.eng (c : Core) : Eng → Engine
  | .l => c.l
  | .c => c.c
  | .t => c.t

def Core.setEng (c : Core) (e : Eng) (x : Engine) : Core :=
  match e with
  | .l => { c with l := x }
  | .c => { c with c := x }
  | .t => { c with t := x }

def Core.updEng (c : Core) (e : Eng) (f : Engine → Engine) : Core := c.setEng e (f (c.eng e))

def Core.cap (c : Core) : Eng → Capture
  | .l => c.capL
  | .c => c.capC
  | .t => c.capT

def Core.setCap (c : Core) (e : Eng) (x : Capture) : Core :=
  match e with
  | .l => { c with capL := x }
  | .c => { c with capC := x }
  | .t => { c with capT := x }

/-- Whether a body capture is open (R11). -/
def Core.capturing (c : Core) : Bool := c.capL.outer != 0 || c.capC.outer != 0 || c.capT.outer != 0

/-- The engine of a sequencer. -/
def engOf : Seq → Eng
  | .l => .l
  | .t => .t
  | _ => .c

/-- An address register of an engine (R15). -/
def Engine.getA (x : Engine) (r : BitVec 4) : Word := Cells.get 0 x.a r.toNat

def Engine.setA (x : Engine) (r : BitVec 4) (v : Word) : Engine := { x with a := Cells.set 0 x.a r.toNat v }

/-- The entry that the engine executes: from loop memory in a loop whose body is there, else the head of its queue
(R9). -/
def Engine.entry (x : Engine) : Option QEntry :=
  match x.outer with
  | some _ => (match x.loopMem[x.lp]? with | some q => some q | none => x.queue.head?)
  | none => x.queue.head?

/-- The engine a word's number names: 0 L, 1 C, 2 T (Table 01.3). -/
def engOfNum (e : BitVec 2) : Eng := if e = 0 then .l else if e = 1 then .c else .t

/-! ### Vector state -/

def Vec.lane (x : Vec) (r : BitVec 4) (i : Nat) : Lane := Cells.get 0 x.v (64 * r.toNat + i)

/-- Vector register `r` with lane i set to `f i`, for every lane. -/
def Vec.setLanes (x : Vec) (r : BitVec 4) (f : Nat → Lane) : Vec := { x with v := Cells.setRange 0 x.v (64 * r.toNat) f 64 }

def Vec.mask (x : Vec) (r : Nat) : BitVec 64 := Cells.get (BitVec.allOnes 64) x.m r

def Vec.setMask (x : Vec) (r : Nat) (v : BitVec 64) : Vec := { x with m := Cells.set (BitVec.allOnes 64) x.m r v }

def Vec.tile (x : Vec) (t r c : Nat) : BitVec 16 := Cells.get 0 x.t (4096 * t + 64 * r + c)

def Vec.setTile (x : Vec) (t r c : Nat) (v : BitVec 16) : Vec := { x with t := Cells.set 0 x.t (4096 * t + 64 * r + c) v }

def Vec.accum (x : Vec) (q : Nat) : Accum := Cells.get Accum.zero x.q q

def Vec.setAccum (x : Vec) (q : Nat) (v : Accum) : Vec := { x with q := Cells.set Accum.zero x.q q v }

def State.onVec (s : State) (f : Vec → Vec) : State := s.onCore fun c => { c with vec := f c.vec }

def State.onArr (s : State) (f : Arr → Arr) : State := s.onCore fun c => { c with arr := f c.arr }

/-- A byte of LS; addresses wrap at 1 MiB (R104, R135). -/
def Core.lsRead (c : Core) (a : Nat) : Byte := Memory.read c.ls (a % 1048576)

/-- The LS bytes that the word in progress of an engine has written ahead are as before it; a byte that another engine has
written since stays (R113). -/
def Core.unland (c : Core) (e : Eng) : Core :=
  let x := c.eng e
  let ls := x.landed.foldl (fun m b => if Memory.read m b.1 = b.2.2 then Memory.write m b.1 b.2.1 else m) c.ls
  { c with ls := ls }.setEng e { x with landed := [] }

/-- `n` bytes of LS from `a` on, as a number. -/
def Core.lsNat (c : Core) (a : Nat) : Nat → Nat
  | 0 => 0
  | n + 1 => (c.lsRead a).toNat + 256 * c.lsNat (a + 1) n

/-- LS with `n` bytes from `a` on set to the low bytes of `v`. -/
def lsWriteNat (m : Memory) (a : Nat) : Nat → Nat → Memory
  | 0, _ => m
  | n + 1, v => lsWriteNat (Memory.write m (a % 1048576) (BitVec.ofNat 8 v)) (a + 1) n (v / 256)

def Core.lsPut (c : Core) (a n v : Nat) : Core := { c with ls := lsWriteNat c.ls a n v }

/-! ### Pips and tokens -/

def Core.pip (c : Core) (ch : Nat) : List Word := Cells.get [] c.pips ch

def Core.setPip (c : Core) (ch : Nat) (l : List Word) : Core := { c with pips := Cells.set [] c.pips ch l }

/-- A channel holds up to 16 pips (R12). -/
def Core.pipRoom (c : Core) (ch : Nat) : Bool := decide ((c.pip ch).length < 16)

def Core.pushPip (c : Core) (ch : Nat) (ts : Word) : Core := c.setPip ch (c.pip ch ++ [ts])

def Core.popPip (c : Core) (ch : Nat) : Core := c.setPip ch (c.pip ch).tail

/-- k63 names no token and is never pending (R86 to R88). -/
def Core.tok (c : Core) (k : BitVec 6) : Tok := if k = 63 then .free else Cells.get .free c.tokens k.toNat

def Core.setTok (c : Core) (k : BitVec 6) (t : Tok) : Core := if k = 63 then c else { c with tokens := Cells.set .free c.tokens k.toNat t }

/-- The token that an operation of the current core names. -/
def State.tokRef (s : State) (k : BitVec 6) : TokRef := ⟨s.agent, s.cur.gen, k, s.cur.launchId, s.cur.iter⟩

/-- No token. -/
def TokRef.none : TokRef := ⟨0, 0, 63, 0, 0⟩

/-- A saved context takes the state of a token (R362). -/
def Gang.putTok (g : Gang) (t : TokRef) (v : Tok) : Gang :=
  { g with ctxs := g.ctxs.map fun (y : Nat × Core) => (y.1, if y.1 = t.core ∧ y.2.gen = t.gen then y.2.setTok t.k v else y.2) }

/-- A token takes a state, in the core or in its saved context, unless its iteration has retired (R25, R362). -/
def State.putTok (s : State) (t : TokRef) (v : Tok) : State :=
  if t.k = 63 then s
  else if (s.core t.core).gen = t.gen then s.updCore t.core fun c => c.setTok t.k v
  else { s with gangs := s.gangs.map fun (x : Nat × Gang) => (x.1, x.2.putTok t v) }

/-- The context that holds a token: the core, or a saved one. -/
def State.tokCore (s : State) (t : TokRef) : Core :=
  if (s.core t.core).gen = t.gen then s.core t.core
  else
    match List.find? (fun (y : Nat × Core) => y.1 == t.core && y.2.gen == t.gen) (s.gangs.flatMap fun (x : Nat × Gang) => x.2.ctxs) with
    | some y => y.2
    | none => s.core t.core

/-- What the inputs of a join come to: done with the largest timestamp, or the first failure (R199). -/
def joinOf : List Tok → Tok
  | [] => .done 0
  | .failed f :: _ => .failed f
  | .done ts :: r =>
    (match joinOf r with
     | .done t => .done (wmax ts t)
     | x => x)
  | _ :: r => joinOf r

/-- The state that a join gives its token, once no input is pending (R199). -/
def joinResult (ins : List (BitVec 6 × Tok)) : Option Tok :=
  if ins.any fun i => i.2 == .pending then none else some (joinOf (ins.map fun i => i.2))

/-! ### Tables of the device -/

def State.pod (s : State) (p : Nat) : Pod := Cells.get Pod.reset s.pods p

def State.updPod (s : State) (p : Nat) (f : Pod → Pod) : State := { s with pods := Cells.put s.pods p (f (s.pod p)) }

def State.die (s : State) (d : Nat) : Die := Cells.get Die.reset s.dies d

def State.updDie (s : State) (d : Nat) (f : Die → Die) : State := { s with dies := Cells.put s.dies d (f (s.die d)) }

/-- The pod and the die of an agent (R6). -/
def podOf (agent : Nat) : Nat := if agent < 256 then agent / 8 else if agent < 288 then agent - 256 else (agent - 288) * 8

def dieOf (agent : Nat) : Nat := podOf agent / 8

def State.updLaunch (s : State) (l : Nat) (f : Launch → Launch) : State :=
  match Cells.find? s.launches l with
  | some x => { s with launches := Cells.put s.launches l (f x) }
  | none => s

def State.updGang (s : State) (g : Nat) (f : Gang → Gang) : State :=
  match Cells.find? s.gangs g with
  | some x => { s with gangs := Cells.put s.gangs g (f x) }
  | none => s

def State.updPart (s : State) (p : Nat) (f : Part → Part) : State :=
  match Cells.find? s.parts p with
  | some x => { s with parts := Cells.put s.parts p (f x) }
  | none => s

def State.updTeam (s : State) (t : Nat) (f : TeamSt → TeamSt) : State :=
  match Cells.find? s.teams t with
  | some x => { s with teams := Cells.put s.teams t (f x) }
  | none => s

def State.updOp (s : State) (o : Nat) (f : AOp → AOp) : State :=
  match Cells.find? s.ops o with
  | some x => { s with ops := Cells.put s.ops o (f x) }
  | none => s

def State.updObj (s : State) (o : Nat) (f : Obj → Obj) : State :=
  match Cells.find? s.objs o with
  | some x => { s with objs := Cells.put s.objs o (f x) }
  | none => s

def State.vf (s : State) (v : Nat) : Vf := Cells.get Vf.reset s.vfs v

def State.updVf (s : State) (v : Nat) (f : Vf → Vf) : State :=
  { s with vfs := Cells.put s.vfs v (f (s.vf v)) }

/-- A stream of a link is established (R388). -/
def State.ideOn (s : State) (link : Nat) : Bool := s.ide.any fun x => x.1 / 9 == link

/-- The partition requires IDE and no stream of its link is established: its traffic with the host is held (R388). -/
def State.ideHeld (s : State) (part : Nat) : Bool :=
  match Cells.find? s.parts part with
  | some p => p.flags.getLsbD 0 && !s.ideOn p.link
  | none => false

/-- A TLP from a VF of a link arrives on an established stream: on the link stream where it stands, else on a selective one if
the host sends it on one, which is open (R388, log entry 118). -/
def State.ideArrives (s : State) (link : Nat) : Bool :=
  (Cells.find? s.ide (9 * link)).isSome || (s.ideOn link && Config.choice s.fresh 643 link)

/-- The launch that an agent works for. -/
def State.launchOf (s : State) (agent : Nat) : Option Launch :=
  match (s.core agent).binding with
  | some b => Cells.find? s.launches b.launch
  | none => none

def State.gangOf (s : State) (agent : Nat) : Option Gang :=
  match (s.core agent).binding with
  | some b => Cells.find? s.gangs b.gang
  | none => none

/-- The first partition of a table that holds the pod. -/
def partOfPod : Cells Part → Nat → Option Nat
  | [], _ => none
  | (i, p) :: r, pod => if p.pods.getLsbD pod then some i else partOfPod r pod

/-- The partition whose work an agent does: that of its launch, else that of its pod. -/
def State.partOf (s : State) (agent : Nat) : Option Nat :=
  match s.launchOf agent with
  | some l => some l.part
  | none => partOfPod s.parts (podOf agent)

end Sys2Proof.Machine
end

