-- ==== Sys2Proof/Machine/Flags.lean ====
section
/-! DEFINITION. Sys2Proof/Machine/Flags.lean: the conditions that set predicates, masks and flags, and the arithmetic of the
scalar words whose corners the spec states: comparisons (R75, R78), division (R76), counts of bits, atomic operations
(Table 05.4), tile-status flags (R169), the guard compare (R308). -/

namespace Sys2Proof.Machine

/-- A CRC-32C register after one more bit of a byte; bit-reversed polynomial of Castagnoli. -/
def crcBit (c : BitVec 32) : BitVec 32 := if c.getLsbD 0 then (c >>> 1) ^^^ 0x82F63B78 else c >>> 1

def crcByte (c : BitVec 32) (b : BitVec 8) : BitVec 32 := (List.range 8).foldl (fun a _ => crcBit a) (c ^^^ b.setWidth 32)

/-- CRC-32C of bytes, with initial value 0xFFFF_FFFF (R325). PRESUMED: the polynomial, the order of the bits and the final
inversion are those of the standard that the name refers to (log entry 112). -/
def crc32c (l : List (BitVec 8)) : BitVec 32 := ~~~(l.foldl crcByte 0xFFFFFFFF)

/-- 1 or 0. -/
def ofBool (b : Bool) : Word := if b then 1 else 0

/-- Signed quotient, rounded toward zero; −1 for a zero divisor, −2^63 for the overflow (R76). -/
def divS (a b : Word) : Word := if b = 0 then BitVec.allOnes 64 else BitVec.ofInt 64 (a.toInt.tdiv b.toInt)

/-- Signed remainder with the sign of the dividend; the dividend for a zero divisor (R76). -/
def remS (a b : Word) : Word := if b = 0 then a else BitVec.ofInt 64 (a.toInt.tmod b.toInt)

/-- Unsigned quotient; 2^64 − 1 for a zero divisor (R76). -/
def divU (a b : Word) : Word := if b = 0 then BitVec.allOnes 64 else BitVec.ofNat 64 (a.toNat / b.toNat)

/-- Unsigned remainder; the dividend for a zero divisor (R76). -/
def remU (a b : Word) : Word := if b = 0 then a else BitVec.ofNat 64 (a.toNat % b.toNat)

/-- Bits [127:64] of the signed product (R75). -/
def mulHighS (a b : Word) : Word := BitVec.ofInt 64 (a.toInt * b.toInt / (2 ^ 64 : Nat))

/-- Bits [127:64] of the unsigned product (R75). -/
def mulHighU (a b : Word) : Word := BitVec.ofNat 64 (a.toNat * b.toNat / 2 ^ 64)

def minS {n : Nat} (a b : BitVec n) : BitVec n := if a.toInt ≤ b.toInt then a else b
def maxS {n : Nat} (a b : BitVec n) : BitVec n := if a.toInt ≤ b.toInt then b else a
def minU {n : Nat} (a b : BitVec n) : BitVec n := if a.toNat ≤ b.toNat then a else b
def maxU {n : Nat} (a b : BitVec n) : BitVec n := if a.toNat ≤ b.toNat then b else a

/-- Leading zero bits: the first `n` bits have no one from the top on (R75). -/
def leadingZeros (v : Nat) : Nat → Nat
  | 0 => 0
  | n + 1 => if v / 2 ^ n % 2 = 1 then 0 else 1 + leadingZeros v n

/-- One bits among the low `n` (R75). -/
def oneBits (v : Nat) : Nat → Nat
  | 0 => 0
  | n + 1 => v / 2 ^ n % 2 + oneBits v n

/-! ### Atomic operations -/

/-- FP32 addition of two codes (R30, R31). -/
def fadd32 (a b : Nat) : Nat := fp32.round false (Num.add (fp32.decode a) (fp32.decode b))

/-- The new memory value of fn 0 to 9 of Table 05.4, on values of `8 size` bits. -/
def atomicValue (fn size : Nat) (m v : Word) : Word :=
  let w := 8 * size
  let sm : Int := signedOf w m.toNat
  let sv : Int := signedOf w v.toNat
  let um := m.toNat % 2 ^ w
  let uv := v.toNat % 2 ^ w
  match fn with
  | 0 => BitVec.ofNat 64 uv
  | 1 => BitVec.ofNat 64 ((um + uv) % 2 ^ w)
  | 2 => BitVec.ofNat 64 um &&& BitVec.ofNat 64 uv
  | 3 => BitVec.ofNat 64 um ||| BitVec.ofNat 64 uv
  | 4 => BitVec.ofNat 64 um ^^^ BitVec.ofNat 64 uv
  | 5 => BitVec.ofNat 64 (if sm ≤ sv then um else uv)
  | 6 => BitVec.ofNat 64 (if sm ≤ sv then uv else um)
  | 7 => BitVec.ofNat 64 (if um ≤ uv then um else uv)
  | 8 => BitVec.ofNat 64 (if um ≤ uv then uv else um)
  | _ => BitVec.ofNat 64 (fadd32 um uv)

/-- What an atomic leaves in gd: a 32-bit result sign-extended, except that MINZ, MAXZ, FADD and XADD zero-extend it
(R115). -/
def atomicResult (fn size : Nat) (m : Nat) : Word :=
  if size = 4 ∧ ¬(fn = 7 ∨ fn = 8 ∨ fn = 9 ∨ fn = 10) then sextTo32 m else BitVec.ofNat 64 (m % 2 ^ (8 * size))
where
  /-- Sign extension of 32 bits. -/
  sextTo32 (m : Nat) : Word := (BitVec.ofNat 32 m).signExtend 64

/-! ### The guard compare -/

/-- Whether one member passes: neither value is a NaN and residual ≤ tolerance, as FP32 (R308). -/
def guardOk (gres gtol : Word) : Bool :=
  let a := fp32.decode (gres.toNat % 2 ^ 32)
  let b := fp32.decode (gtol.toNat % 2 ^ 32)
  a != .nan && b != .nan && (Num.lt a b || Num.eq a b)

end Sys2Proof.Machine
end

