-- ==== Sys2Proof/Machine/Mem.lean ====
section
/-! DEFINITION. Sys2Proof/Machine/Mem.lean: where an address leads (R347 to R351, R268), what may be done there (R98,
R275 to R277), and the accesses at a home with their timestamps (R282 to R289, R299 to R301). -/

namespace Sys2Proof.Machine

/-! ### Translation -/

/-- What an access does, for the permission check (R349). -/
inductive Acc where
  | read
  | write
  | atomic
  | fetch
  deriving DecidableEq, Repr

/-- The agent of an access: core (or engine member), sequencer, whether an engine works for it, its class and ranks for
the owner check (R277, R407; `none` passes every rank), user context or Husk, its floor, whether it synchronises, the
launch that it works for if that need not be the core's. -/
structure Who where
  core : Nat
  q : Seq
  engine : Bool
  cls : Nat
  ranks : Option (List Nat)
  user : Bool
  floor : Word
  sync : Bool
  launch : Option Nat
  /-- Its writes go to the core's guard buffer, and its reads see them (R306). -/
  buf : Bool
  /-- It does not return: an uncorrectable error of the line is found at its home (R356, R359). -/
  late : Bool := false
  deriving DecidableEq, Repr

/-- XLATE at a level; the level 7 marks an address out of range (R347, R349). -/
def xlateFlt (va : Word) (level : Nat) (acc : Acc) : Flt :=
  ⟨0x04, va, BitVec.ofNat 64 (level + (if acc = .fetch then 8 else 0))⟩

/-- PERM with the bits read, write, fetch and user of the refused access (R349). -/
def permFlt (va : Word) (acc : Acc) (user : Bool) : Flt :=
  let b := match acc with
    | .read => 1
    | .write => 2
    | .atomic => 3
    | .fetch => 4
  ⟨0x05, va, BitVec.ofNat 64 (b + (if user then 8 else 0))⟩

/-- A field of a page-table entry (Table 19.1). -/
def pteBits (e : Nat) (hi lo : Nat) : Nat := e / 2 ^ lo % 2 ^ (hi - lo + 1)

/-- A valid entry that is a leaf its level allows (R348, R349). -/
def leafOk (e level : Nat) : Bool :=
  pteBits e 0 0 == 1 && pteBits e 11 10 == 0 && pteBits e 7 7 == 0 && pteBits e 1 1 == 1 && decide (level ≤ 2)
    && pteBits e 9 8 != 3 && pteBits e (12 + 9 * level) 12 % 2 ^ (9 * level) == 0

/-- A valid entry that names the next table (R348, R349). -/
def tableOk (e level : Nat) : Bool :=
  pteBits e 0 0 == 1 && pteBits e 11 10 == 0 && pteBits e 1 1 == 0 && decide (0 < level) && pteBits e 9 2 == 0
    && pteBits e 63 56 == 0

/-- The walk from the table at a level; `.error level` is the level at which it fails (R348, R349). -/
def walkTables (m : Memory) (va : Nat) : Nat → Nat → Except Nat (Nat × Nat)
  | 0, table =>
    let e := Memory.readNat m (table + 8 * (va / 2 ^ 12 % 512)) 8
    if leafOk e 0 then .ok (0, e) else .error 0
  | k + 1, table =>
    let e := Memory.readNat m (table + 8 * (va / 2 ^ (12 + 9 * (k + 1)) % 512)) 8
    if leafOk e (k + 1) then .ok (k + 1, e)
    else if tableOk e (k + 1) then walkTables m va k (pteBits e 55 12 * 4096)
    else .error (k + 1)

/-- A held entry covers an address: its own page, or, where it stands for its group, any page of the 64 KiB (R350, R351). -/
def TlbEntry.covers (e : TlbEntry) (va : Nat) : Bool :=
  e.page == va / 2 ^ (12 + 9 * e.level) || (e.group && e.page / 16 == va / 65536)

/-- The entries of a TLB list that cover an address (R351): those of Husk's tables for Husk alone (R383). -/
def tlbMatches (l : List TlbEntry) (part : Nat) (husk : Bool) (asid : BitVec 16) (va : Nat) : List TlbEntry :=
  l.filter fun e => e.part == part && e.husk == husk && e.asid == asid && e.covers va

/-- Addresses of the entries that a walk from the table at a level reads (R348). -/
def walkReads (m : Memory) (va : Nat) : Nat → Nat → List Nat
  | 0, table => [table + 8 * (va / 2 ^ 12 % 512)]
  | k + 1, table =>
    let a := table + 8 * (va / 2 ^ (12 + 9 * (k + 1)) % 512)
    let e := Memory.readNat m a 8
    a :: (if !leafOk e (k + 1) && tableOk e (k + 1) then walkReads m va k (pteBits e 55 12 * 4096) else [])

/-- The level-0 leaf of a page of the group, if it is one that carries C (R350). -/
def groupLeaf (m : Memory) (root va i : Nat) : Option Nat :=
  match walkTables m (va / 65536 * 65536 + 4096 * i) 4 root with
  | .ok (0, e) => if pteBits e 6 6 = 1 then some e else none
  | _ => none

/-- The sixteen pages of the address's 64 KiB all have level-0 leaves that carry C (R350). -/
def inGroup (m : Memory) (root va : Nat) : Bool := (List.range 16).all fun i => (groupLeaf m root va i).isSome

/-- The entry of page j of a group as it translates page i: its fields, and its frame moved by the distance (R350). -/
def moveFrame (e j i : Nat) : Nat :=
  let f := (pteBits e 55 12 + i + 2 ^ 44 - j) % 2 ^ 44
  e % 2 ^ 12 + 2 ^ 12 * f + 2 ^ 56 * (e / 2 ^ 56)

/-- The leaf of a walk. In a group of sixteen contiguous entries it may be that of any page of the group (R350). -/
def State.walkLeaf (s : State) (root va : Nat) : Except Nat (Nat × Nat) :=
  match walkTables s.mem va 4 root with
  | .ok (0, e) =>
    if pteBits e 6 6 = 1 && inGroup s.mem root va then
      let j := Config.freeNat s.fresh (va / 65536) % 16
      .ok (0, moveFrame ((groupLeaf s.mem root va j).getD e) j (va / 4096 % 16))
    else .ok (0, e)
  | r => r

/-- The entries that the TLB of the core and that of its pod hold (R351). -/
def State.tlbOf (s : State) (agent : Nat) : List TlbEntry := (s.core agent).tlb ++ (s.pod (podOf agent)).tlb

/-- The first line with an uncorrectable error among those that a walk reads: `ECC` with its structure (R356). -/
def State.walkEcc (s : State) (root : Nat) (va : Word) : Option Flt :=
  ((walkReads s.mem va.toNat 4 root).filterMap fun a => Cells.find? s.poison (a / 128)).head?.map fun c => ⟨0x0D, va, c.setWidth 64⟩

/-- Base of the level-4 table of a partition's translation, or of Husk's own (R348, R383). -/
def Part.tables (p : Part) (husk : Bool) : Nat := (if husk then p.huskRoot else p.root).toNat * 4096

/-- The leaf that translates an address: one that a TLB still holds or the one of a walk (R351), or the fault of the walk. -/
def State.leafFor (s : State) (agent part : Nat) (p : Part) (husk : Bool) (acc : Acc) (va : Word) : Except Flt (Nat × Nat) :=
  let walk : Except Flt (Nat × Nat) :=
    match s.walkEcc (p.tables husk) va, s.walkLeaf (p.tables husk) va.toNat with
    | some f, _ => .error f
    | none, .ok r => .ok r
    | none, .error level => .error (xlateFlt va level acc)
  match tlbMatches (s.tlbOf agent) part husk p.asid va.toNat with
  | [] => walk
  | e :: es =>
    match (e :: es)[Config.freeNat s.fresh (va.toNat / 4096) % (es.length + 2)]? with
    | some x => .ok (x.level, if x.group then moveFrame x.pte.toNat (x.page % 16) (va.toNat / 4096 % 16) else x.pte.toNat)
    | none => walk

/-- An address translated in the tables of a partition, or in those of its Husk, and checked against the page (R347 to R350,
R383). -/
def State.translateIn (s : State) (agent : Nat) (husk user : Bool) (acc : Acc) (va : Word) : Except Flt Loc :=
  match s.partOf agent with
  | none => .error (xlateFlt va 4 acc)
  | some part =>
    match Cells.find? s.parts part with
    | none => .error (xlateFlt va 4 acc)
    | some p =>
      let a := va.toNat
      if a ≥ 2 ^ 57 then .error (xlateFlt va 7 acc)
      else
        match s.leafFor agent part p husk acc va with
        | .error f => .error f
        | .ok (level, e) =>
          let phys := pteBits e 55 12 * 4096 + a % 2 ^ (12 + 9 * level)
          let bit (i : Nat) : Bool := pteBits e i i == 1
          let granted := match acc with
            | .read => bit 2
            | .write => bit 3
            | .atomic => bit 2 && bit 3
            | .fetch => bit 4
          let owned := pteBits e 9 8 != 0 || p.ranges.any fun r => decide (r.1 ≤ phys ∧ phys < r.2)
          if granted && (!user || bit 5) && owned then
            match pteBits e 9 8 with
            | 0 => .ok (.pkg phys)
            | 1 => .ok (.host phys)
            | _ => .ok (.peer (pteBits e 63 56) phys)
          else .error (permFlt va acc user)

/-- The translation of an access of the user's, or of Husk's. -/
def State.translate (s : State) (agent : Nat) (user : Bool) (acc : Acc) (va : Word) : Except Flt Loc :=
  s.translateIn agent (!user) user acc va

/-- A TLB of `n` entries takes one more; a full one loses one of its own (R351). Which one is open (log
entry 14). -/
def tlbPut (n seed : Nat) (l : List TlbEntry) (x : TlbEntry) : List TlbEntry :=
  if l.contains x then l
  else if l.length < n then x :: l
  else x :: l.eraseIdx (Config.freeNat seed 620 % n)

/-- What a walk leaves in a TLB: its leaf, or nothing where it fails (R351). -/
def State.walkEntry (s : State) (agent : Nat) (husk : Bool) (va : Word) : Option TlbEntry :=
  match s.partOf agent with
  | none => none
  | some part =>
    match Cells.find? s.parts part with
    | none => none
    | some p =>
      match walkTables s.mem va.toNat 4 (p.tables husk) with
      | .error _ => none
      | .ok (level, e) =>
        some ⟨part, husk, p.asid, va.toNat / 2 ^ (12 + 9 * level), level, BitVec.ofNat 64 e,
          level == 0 && pteBits e 6 6 == 1 && inGroup s.mem (p.tables husk) va.toNat⟩

/-- A walk leaves its leaf in the TLB of 64 entries of the core and in that of 2,048 entries of its pod (R351). -/
def State.noteTlb (s : State) (agent : Nat) (husk : Bool) (va : Word) : State :=
  match s.walkEntry agent husk va with
  | none => s
  | some x =>
    if (s.core agent).tlb.contains x && (s.pod (podOf agent)).tlb.contains x then s
    else (s.updCore agent fun c => { c with tlb := tlbPut 64 s.fresh c.tlb x }).updPod (podOf agent) fun pd =>
      { pd with tlb := tlbPut 2048 s.fresh pd.tlb x }

/-! ### The pod scratch window -/

/-- Base of the pod scratch window (R268). -/
def scratchBase : Nat := 0x00FFFFFFFF800000

/-- The role of a bank: 0 cache, 1 scratch, 2 FIFO (R271). -/
def Pod.role (p : Pod) (b : Nat) : Nat := p.banks.toNat / 4 ^ b % 4

/-- The banks of a role, in increasing number. -/
def Pod.banksOf (p : Pod) (role : Nat) : List Nat := (List.range 32).filter fun b => p.role b == role

/-- The bank that holds a place of scratch is in transition to its role (R273). -/
def State.converting (s : State) : Loc → Bool
  | .scratch pod o =>
    (match (s.pod pod).changing with
     | some old => old.toNat / 4 ^ (o / 262144) % 4 != 1
     | none => false)
  | _ => false

/-- The place of an offset in the scratch window, if a scratch bank holds it (R268). -/
def State.scratchLoc (s : State) (pod o : Nat) : Option Loc :=
  match ((s.pod pod).banksOf 1)[o / 262144]? with
  | some b => some (.scratch pod (b * 262144 + o % 262144))
  | none => none

/-! ### Windows -/

/-- The governing entry of an address: the lowest-numbered match (R275). -/
def windowIn (va : Nat) : Nat → List Win → Option (Nat × Win)
  | _, [] => none
  | i, w :: ws =>
    if w.flags.getLsbD 0 && decide (w.base.toNat ≤ va ∧ va < w.limit.toNat) then some (i, w) else windowIn va (i + 1) ws

def State.windowAt (s : State) (agent : Nat) (va : Word) : Option (Nat × Win) :=
  match s.launchOf agent with
  | some l => windowIn va.toNat 0 l.windows
  | none => none

/-- The governing entry of an access of an agent. -/
def State.windowOf (s : State) (w : Who) (va : Word) : Option (Nat × Win) :=
  match w.launch with
  | none => s.windowAt w.core va
  | some l => (Cells.find? s.launches l).bind fun x => windowIn va.toNat 0 x.windows

/-- The memory-plan phase of an agent's gang (R274). -/
def State.phaseOf (s : State) (agent : Nat) : Nat :=
  match s.gangOf agent with
  | some g => g.phaseNo
  | none => 0

/-- WINDOW with the window's index, or 64 if none matched (Table 19.2). -/
def windowFlt (va : Word) (i : Nat) : Flt := ⟨0x06, va, BitVec.ofNat 64 i⟩

/-- Whether the owner field of the phase lets the agent write (R277, R407). -/
def ownerOk (owner : BitVec 16) (w : Who) : Bool :=
  let cls := owner.toNat / 4096
  cls == 0 || (cls == w.cls && (match w.ranks with
    | none => true
    | some l => l.contains (owner.toNat % 256)))

/-- The window check of an access (R98, R277). -/
def State.windowCheck (s : State) (w : Who) (acc : Acc) (va : Word) : Option Flt :=
  match s.windowOf w va with
  | none => none
  | some (i, x) =>
    let writes := acc == .write || acc == .atomic
    if x.flags.getLsbD 3 && w.cls != 6 then some (windowFlt va i)
    else if writes && x.flags.getLsbD 2 then some (windowFlt va i)
    else if writes && !ownerOk (x.owner.getD (s.phaseOf w.core) 0) w then some (windowFlt va i)
    else none

/-- A replica window refuses a fetch and a cache operation too, but for a replay engine (R277). -/
def State.repFault (s : State) (va : Word) : Option Flt :=
  match s.windowAt s.agent va with
  | some (i, x) => if x.flags.getLsbD 3 && decide (s.agent < 288) then some (windowFlt va i) else none
  | none => none

/-! ### Places -/

def Loc.plus : Loc → Nat → Loc
  | .pkg a, i => .pkg (a + i)
  | .scratch p o, i => .scratch p (o + i)
  | .host a, i => .host (a + i)
  | .peer d a, i => .peer d (a + i)

/-- The place is in system space (R96). -/
def Loc.isSystem : Loc → Bool
  | .host _ => true
  | .peer _ _ => true
  | _ => false

/-- The key of a place in a guard buffer or among the shadow records. -/
def Loc.key : Loc → Nat
  | .pkg a => a
  | .scratch p o => 2 ^ 60 + 2 ^ 23 * p + o
  | .host a => 2 ^ 61 + a
  | .peer d a => 2 ^ 62 + 2 ^ 57 * d + a

/-- The start of the place's 128-byte line, and the offset in it. -/
def Loc.line : Loc → Loc
  | .pkg a => .pkg (a / 128 * 128)
  | .scratch p o => .scratch p (o / 128 * 128)
  | .host a => .host (a / 128 * 128)
  | .peer d a => .peer d (a / 128 * 128)

def Loc.off : Loc → Nat
  | .pkg a => a % 128
  | .scratch _ o => o % 128
  | .host a => a % 128
  | .peer _ a => a % 128

def State.byteAt (s : State) : Loc → Byte
  | .pkg a => Memory.read s.mem a
  | .scratch p o => Memory.read s.scratch (2 ^ 23 * p + o)
  | .host a => Memory.read s.host a
  | .peer d a => Memory.read s.peer (2 ^ 57 * d + a)

def State.putByte (s : State) (l : Loc) (b : Byte) : State :=
  match l with
  | .pkg a => { s with mem := Memory.write s.mem a b }
  | .scratch p o => { s with scratch := Memory.write s.scratch (2 ^ 23 * p + o) b }
  | .host a => { s with host := Memory.write s.host a b }
  | .peer d a => { s with peer := Memory.write s.peer (2 ^ 57 * d + a) b }

/-- `n` bytes from a place on, as a number. -/
def State.natAt (s : State) (l : Loc) : Nat → Nat
  | 0 => 0
  | n + 1 => (s.byteAt l).toNat + 256 * s.natAt (l.plus 1) n

def State.putNat (s : State) (l : Loc) : Nat → Nat → State
  | 0, _ => s
  | n + 1, v => (s.putByte l (BitVec.ofNat 8 v)).putNat (l.plus 1) n (v / 256)

/-! ### Timestamps and copies -/

/-- The timestamps of a place's line; system space has none (R282, R292). -/
def State.tsAt (s : State) : Loc → LineTs
  | .pkg a => Cells.get ⟨0, 0⟩ s.lines (a / 128)
  | .scratch p o => Cells.get ⟨0, 0⟩ s.scrLines (65536 * p + o / 128)
  | _ => ⟨0, 0⟩

def State.setTs (s : State) (l : Loc) (t : LineTs) : State :=
  match l with
  | .pkg a => { s with lines := Cells.set ⟨0, 0⟩ s.lines (a / 128) t }
  | .scratch p o => { s with scrLines := Cells.set ⟨0, 0⟩ s.scrLines (65536 * p + o / 128) t }
  | _ => s

/-- The lease length of an agent's partition (R282). -/
def State.leaseOf (s : State) (agent : Nat) : Word :=
  match s.partOf agent with
  | some p => (match Cells.find? s.parts p with | some x => BitVec.ofNat 64 x.lease | none => 64)
  | none => 64

/-- The key of a held copy. -/
def copyKey (line holder : Nat) : Nat := 512 * line + holder

/-- A cache that may hold a copy of a line, by its number in `copyKey`, and the line's set in it (R269). -/
structure Holder where
  id : Nat
  set : Nat
  deriving DecidableEq, Repr

/-- The copy of a package line that a holder has. -/
def State.copyOf (s : State) (l : Loc) (holder : Nat) : Option Copy :=
  match l with
  | .pkg a => Cells.find? s.copies (copyKey (a / 128) holder)
  | _ => none

/-- The banks of a pod that are ways of its cache: those with the cache role that have finished converting (R269, R273). -/
def State.podWays (s : State) (pod : Nat) : List Nat :=
  let p := s.pod pod
  (p.banksOf 0).filter fun b => match p.changing with | some old => old.toNat / 4 ^ b % 4 == 0 | none => true

/-- One of some held copies leaves. Which one is open: nothing states what L1 and the pod cache replace (log
entry 12). -/
def State.replaceCopy (s : State) (l : List (Nat × Copy)) : State × Nat :=
  match l[Config.freeNat s.fresh 604 % l.length]? with
  | some x => ({ s with copies := Cells.del s.copies x.1 }, x.2.way)
  | none => (s, 0)

/-- Room for a copy: L1 holds 4,096 lines, and a set of the pod cache one line in each way (R267, R269). The way is
answered. -/
def State.copyRoom (s : State) (h : Holder) : State × Nat :=
  if h.id < 256 then
    let mine := s.copies.filter fun (x : Nat × Copy) => x.1 % 512 == h.id
    if mine.length < 4096 then (s, 0) else s.replaceCopy mine
  else
    let mine := s.copies.filter fun (x : Nat × Copy) => x.1 % 512 == h.id && x.2.set == h.set
    let free := (s.podWays (h.id - 256)).filter fun w => !(mine.any fun x => x.2.way == w)
    match free[Config.freeNat s.fresh 605 % free.length]? with
    | some w => (s, w)
    | none => s.replaceCopy mine

/-- A holder has a copy of a package line with these bytes, wts and lease end. -/
def State.putCopy (s : State) (l : Loc) (h : Holder) (data : BitVec 1024) (wts lease : Word) : State :=
  match l with
  | .pkg a =>
    let k := copyKey (a / 128) h.id
    (match Cells.find? s.copies k with
     | some c => { s with copies := Cells.put s.copies k { c with data := data, wts := wts, lease := lease } }
     | none =>
       let (s1, w) := s.copyRoom h
       { s1 with copies := Cells.put s1.copies k ⟨data, wts, lease, h.set, w⟩ })
  | _ => s

/-- The copies in a pod's cache that stand in banks which are no ways of it are dropped: a bank that leaves cache loses its lines
(R269, R272). -/
def State.dropWays (s : State) (pod : Nat) : State :=
  { s with copies := s.copies.filter fun (x : Nat × Copy) => x.1 % 512 != 256 + pod || (s.pod pod).role x.2.way == 0 }

def State.dropCopy (s : State) (l : Loc) (holder : Nat) : State :=
  match l with
  | .pkg a => { s with copies := Cells.del s.copies (copyKey (a / 128) holder) }
  | _ => s

/-- The whole line as a copy carries it. -/
def State.lineData (s : State) (l : Loc) : BitVec 1024 := BitVec.ofNat 1024 (s.natAt l.line 128)

/-- `n` bytes of a copy. -/
def Copy.bytes (c : Copy) (off n : Nat) : Nat := c.data.toNat / 256 ^ off % 256 ^ n

/-- H(a) of R269: five fields of an address. -/
def hashLine (a : Nat) : Nat :=
  (a / 2 ^ 7 % 2048) ^^^ (a / 2 ^ 18 % 2048) ^^^ (a / 2 ^ 29 % 2048) ^^^ (a / 2 ^ 40 % 2048) ^^^ (a / 2 ^ 51 % 64)

/-- The holders whose copies of the line of an address serve an agent: its L1 and its pod's cache, if the pod has a cache
bank (R269, R283). -/
def State.holders (s : State) (agent : Nat) (va : Nat) : List Holder :=
  (if agent < 256 then [⟨agent, 0⟩] else []) ++
    (if (s.podWays (podOf agent)).isEmpty then [] else [⟨256 + podOf agent, hashLine va⟩])

/-- The first holder whose copy answers at timestamp `p`. Whether a copy is still held is open: nothing states when one is
replaced (log entry 12). -/
def State.hit (s : State) (l : Loc) (p : Word) : List Holder → Option Copy
  | [] => none
  | h :: hs =>
    match s.copyOf l h.id with
    | some c => if c.lease.toNat ≥ p.toNat && Config.choice s.fresh h.id l.key then some c else s.hit l p hs
    | none => s.hit l p hs

/-- A read of `n` bytes of one line by an agent with timestamp `p`: the value, the timestamp at which it takes place and
the state with the lease granted (R283). -/
def State.readAt (s : State) (hs : List Holder) (lam p : Word) (l : Loc) (n : Nat) : State × Nat × Word :=
  match s.hit l p hs with
  | some c => (s, c.bytes l.off n, wmax p c.wts)
  | none =>
    let t := s.tsAt l
    let t' : LineTs := ⟨t.wts, wmax t.rts (wmax (t.wts + lam) (p + lam))⟩
    let s1 := s.setTs l t'
    (hs.foldl (fun a h => a.putCopy l h (s.lineData l) t'.wts t'.rts) s1, s.natAt l n, wmax p t.wts)

/-- A write of `n` bytes of one line with timestamp `p`: the state and the write's wts (R284). The writer's copies become
the new line, or leave with NA (R100). -/
def State.writeAt (s : State) (hs : List Holder) (na : Bool) (p : Word) (l : Loc) (n v : Nat) : State × Word :=
  let w := wmax p ((s.tsAt l).rts + 1)
  let s1 := (s.setTs l ⟨w, w⟩).putNat l n v
  (hs.foldl (fun a h => if na then a.dropCopy l h.id else a.putCopy l h (s1.lineData l) w w) s1, w)

/-! ### The shared cache -/

/-- The members of a home set: slices ordered by die, then by slice (R276). -/
def homeSet (slices : BitVec 32) (dies : BitVec 4) : List Nat :=
  (List.range 4).flatMap fun d =>
    if dies.getLsbD d then ((List.range 32).filter fun i => slices.getLsbD i).map fun i => 32 * d + i else []

/-- The home slice of the line of an address whose governing window is known: 32 die + slice (R276). -/
def homeIn (w : Option Win) (va : Nat) : Nat :=
  let plain := 32 * (hashLine va / 32 % 4) + hashLine va % 32
  match w with
  | some w =>
    (match homeSet w.slices w.dies with
     | [] => plain
     | m :: ms => (m :: ms).getD (hashLine va % (ms.length + 1)) plain)
  | none => plain

/-- The home slice of an address of an access (R276). -/
def State.homeOf (s : State) (w : Who) (va : Word) : Nat := homeIn ((s.windowOf w va).map fun x => x.2) va.toNat

/-- The class an access gives a line: the hint's if it is not 0, else the window's default (R278). -/
def State.classOf (s : State) (w : Who) (va : Word) (hint : BitVec 3) : BitVec 2 :=
  if hint.extractLsb' 0 2 ≠ 0 then hint.extractLsb' 0 2
  else match s.windowOf w va with
    | some (_, x) => x.flags.extractLsb' 4 2
    | none => 0

/-- The race mode in force at an address: 0 off, 1 trap, 2 log (R277, R299). -/
def State.raceModeAt (s : State) (w : Who) (va : Word) : Nat :=
  match s.windowOf w va with
  | some (_, x) => if (s.core w.core).raceMode.getLsbD 0 && !x.flags.getLsbD 3 then (x.flags.extractLsb' 6 2).toNat else 0
  | none => 0

/-- Where the shadow record of the first sector of an address's line stands in the region of its checked window (R299). -/
def State.shadowHome (s : State) (w : Who) (va : Word) : Option Nat :=
  if s.raceModeAt w va = 0 then none
  else (s.windowOf w va).map fun x => x.2.shadow + 8 * ((va.toNat / 128 * 128 - x.2.base.toNat) / 32)

/-- The shadow records of four sectors from a key on, as they stand in memory. -/
def State.recordsAt (s : State) (sector : Nat) : Nat :=
  (List.range 4).foldl (fun a i => a + 2 ^ (64 * i) * (Cells.get 0 s.shadows (sector + i)).toNat) 0

/-- A line leaves the shared cache: its shadow records go to the shadow region (R278, R299). -/
def State.evict (s : State) (k : Nat) : State :=
  match Cells.find? s.attrs k with
  | none => s
  | some x =>
    let s1 := match x.shadowAt with
      | none => s
      | some p => { s with mem := Memory.writeNat s.mem p 32 (s.recordsAt (4 * k)),
                           shadows := (List.range 4).foldl (fun a i => Cells.set 0 a (4 * k + i) 0) s.shadows }
    { s1 with attrs := Cells.del s1.attrs k }

/-- The order of the classes when a victim is chosen: stream, drop-first, normal, keep (R278). -/
def classRank (c : BitVec 2) : Nat := if c = 3 then 0 else if c = 2 then 1 else if c = 0 then 2 else 3

/-- The victim among the lines of a set: unpinned, of the lowest class, least recently used within it (R278). -/
def victimOf : List (Nat × LineAttr) → Option (Nat × LineAttr)
  | [] => none
  | x :: r =>
    match x.2.pins, victimOf r with
    | [], some y =>
      if classRank x.2.cls < classRank y.2.cls ∨ (classRank x.2.cls = classRank y.2.cls ∧ x.2.used ≤ y.2.used) then some x else some y
    | [], none => some x
    | _, o => o

/-- The resident lines of a set of a slice. -/
def State.setLines (s : State) (home set : Nat) : List (Nat × LineAttr) :=
  s.attrs.filter fun (x : Nat × LineAttr) => x.2.home == home && x.2.set == set

/-- Room for one more line in a set of 16 ways (R278). -/
def State.lineRoom (s : State) (home set : Nat) : State :=
  let l := s.setLines home set
  if l.length < 16 then s else match victimOf l with | some x => s.evict x.1 | none => s

/-- The shadow records of a line come from the shadow region to its home (R299). -/
def State.fetchRecords (s : State) (k p : Nat) : State :=
  { s with shadows := (List.range 4).foldl (fun b i => Cells.set 0 b (4 * k + i) (BitVec.ofNat 64 (Memory.readNat s.mem (p + 8 * i) 8))) s.shadows }

/-- A line of package memory is resident in its slice with a class (R278): it is brought in if it is not there, and a line
that becomes a stream line evicts the other stream lines of its set. Pins stay. `sh` is where its shadow records stand.
DESIGN CHOICE: a pinned stream line of the set is not evicted (R279), so the set then holds two; a line that is resident under
another window table's home stays at it (log entry 119). -/
def State.touch (s : State) (l : Loc) (home set : Nat) (sh : Option Nat) (cls : BitVec 2) (dirty : Bool) : State :=
  match l with
  | .pkg a =>
    let k := a / 128
    let s1 := if cls = 3 then
        ((s.setLines home set).filter fun x => x.1 != k && x.2.cls == 3 && x.2.pins.isEmpty).foldl (fun a x => a.evict x.1) s
      else s
    (match Cells.find? s1.attrs k with
     | some x =>
       let s2 := match x.shadowAt, sh with | none, some p => s1.fetchRecords k p | _, _ => s1
       let y := { x with cls := cls, dirty := x.dirty || dirty, used := s.fresh, shadowAt := if x.shadowAt.isSome then x.shadowAt else sh }
       { s2 with attrs := Cells.put s2.attrs k y }
     | none =>
       let s2 := s1.lineRoom home set
       let s3 := match sh with | none => s2 | some p => s2.fetchRecords k p
       { s3 with attrs := Cells.put s3.attrs k ⟨cls, [], dirty, home, set, s.fresh, sh⟩ })
  | _ => s

/-- A resident line goes to another home, with its pins and its class: it leaves its set for the one that a window gives it (R276,
R280). -/
def State.rehome (s : State) (l : Loc) (home set : Nat) : State :=
  match l with
  | .pkg a =>
    (match Cells.find? s.attrs (a / 128) with
     | some x =>
       if x.home = home ∧ x.set = set then s
       else let s1 := s.lineRoom home set
            { s1 with attrs := Cells.put s1.attrs (a / 128) { x with home := home, set := set } }
     | none => s)
  | _ => s

/-- An access that the device makes with a window table touches the line of an address: with the window's class, at the home that
the window gives it (R276, R278). -/
def State.touchIn (s : State) (ws : List Win) (l : Loc) (va : Word) (dirty : Bool) : State :=
  let w := (windowIn va.toNat 0 ws).map fun x => x.2
  s.touch l (homeIn w va.toNat) (hashLine va.toNat) none ((w.map fun (x : Win) => x.flags.extractLsb' 4 2).getD 0) dirty

/-- An access touches the line of an address in the shared cache, with its class and its home (R276, R278, R299). -/
def State.touchFor (s : State) (w : Who) (cls : BitVec 2) (dirty : Bool) (l : Loc) (va : Word) : State :=
  s.touch l (s.homeOf w va) (hashLine va.toNat) (s.shadowHome w va) cls dirty

/-! ### Checks of one part -/

/-- What a check answers: the place, a fault, or that the access stalls (R273, R388). -/
inductive Chk where
  | ok (l : Loc)
  | fault (f : Flt)
  | stall
  deriving DecidableEq, Repr

/-- ECC on a line with an uncorrectable error (R356). -/
def State.eccAt (s : State) (l : Loc) (va : Word) : Option Flt :=
  match Cells.find? s.poison (l.line.key / 128) with
  | some c => some ⟨0x0D, va, c.setWidth 64⟩
  | none => none

/-- A read or an atomic of host memory that waits for an IDE stream; a write waits on its way (R388). -/
def State.ideStall (s : State) (w : Who) (acc : Acc) : Loc → Bool
  | .host _ => acc != .write && ((s.partOf w.core).map s.ideHeld).getD false
  | _ => false

/-- Translation, permission and window check of an access that lies within one aligned 32 bytes (R98, R104). -/
def State.check (s : State) (w : Who) (acc : Acc) (va : Word) : Chk :=
  if scratchBase ≤ va.toNat ∧ va.toNat < 2 ^ 56 then
    match s.scratchLoc (podOf w.core) (va.toNat - scratchBase) with
    | none => .fault (windowFlt va (match s.windowOf w va with | some (i, _) => i | none => 64))
    | some l =>
      if s.converting l then .stall
      else
        (match s.windowCheck w acc va with
         | some f => .fault f
         | none => if w.late then .ok l else (match s.eccAt l va with | some f => .fault f | none => .ok l))
  else match s.translate w.core w.user acc va with
    | .error f => .fault f
    | .ok l =>
      match s.windowCheck w acc va with
      | some f => .fault f
      | none =>
        if s.ideStall w acc l then .stall
        else if w.late then .ok l
        else (match s.eccAt l va with | some f => .fault f | none => .ok l)

/-- The parts of an access of `n` bytes from `va` on, cut at multiples of `unit`: address and length (R98, R104). -/
def partsOf (unit : Nat) : Nat → Nat → Nat → List (Nat × Nat)
  | 0, _, _ => []
  | fuel + 1, va, n =>
    if n = 0 then []
    else
      let k := min n (unit - va % unit)
      (va, k) :: partsOf unit fuel (va + k) (n - k)

/-- Every part of an access checked in address order: the places, the first fault, or a stall. -/
def State.checkAll (s : State) (w : Who) (acc : Acc) : List (Nat × Nat) → Except (Option Flt) (List (Loc × Nat × Nat))
  | [] => .ok []
  | (va, n) :: r =>
    match s.check w acc (BitVec.ofNat 64 va) with
    | .fault f => .error (some f)
    | .stall => .error none
    | .ok l =>
      match s.checkAll w acc r with
      | .ok ls => .ok ((l, va, n) :: ls)
      | .error e => .error e

/-! ### Races -/

/-- The core that a record names: an engine member of a die is named by the die's lowest core (R407). -/
def nameOf (agent : Nat) : Nat := if agent < 256 then agent else if agent < 288 then (agent - 256) * 8 else (agent - 288) * 64

/-- The number of a sequencer in a shadow record (Table 14.12). -/
def seqNum : Seq → Nat
  | .s => 0
  | .l => 1
  | .c => 2
  | .t => 3
  | .husk => 0

/-- The shadow record of a write (Table 14.12). -/
def shadowOf (w : Who) (wts : Word) : BitVec 64 :=
  BitVec.ofNat 64 (2 ^ 44 + (if w.sync then 2 ^ 43 else 0) + (if w.engine then 2 ^ 42 else 0) + 2 ^ 40 * seqNum w.q
    + 2 ^ 32 * nameOf w.core + wts.toNat % 2 ^ 32)

/-- Whether the access races with the recorded write (R300). -/
def isRace (r : BitVec 64) (w : Who) : Bool :=
  let d := (r.toNat % 2 ^ 32 + 2 ^ 32 - w.floor.toNat % 2 ^ 32) % 2 ^ 32
  r.getLsbD 44 && !(r.toNat / 2 ^ 32 % 256 == nameOf w.core && r.getLsbD 42 == w.engine)
    && !(r.getLsbD 43 && w.sync) && decide (1 ≤ d ∧ d ≤ 2 ^ 31 - 1)

/-- The parts of an access cut at sectors of 32 bytes, each sector once, with the lowest place that the access touches
(R300). -/
def sectorsOf (ps : List (Loc × Nat × Nat)) : List (Loc × Nat) :=
  let cuts := ps.flatMap fun p => (partsOf 32 (p.2.2 / 32 + 2) p.2.1 p.2.2).map fun x => (p.1.plus (x.1 - p.2.1), x.1)
  cuts.foldl (fun a x => if a.any fun y => y.1.key / 32 == x.1.key / 32 then a else a ++ [x]) []

/-- The shadow record of a sector: at its home while the line is in the shared cache, else in the shadow region (R299). -/
def State.recordOf (s : State) (w : Who) (l : Loc) (va : Nat) : BitVec 64 :=
  match l, s.shadowHome w (BitVec.ofNat 64 va) with
  | .pkg a, some p =>
    if (Cells.find? s.attrs (a / 128)).isSome then Cells.get 0 s.shadows (a / 32)
    else BitVec.ofNat 64 (Memory.readNat s.mem (p + 8 * (a / 32 % 4)) 8)
  | _, _ => Cells.get 0 s.shadows (l.key / 32)

/-- The sectors of a checked access that race: addresses and records (R300). -/
def State.racesOf (s : State) (w : Who) (ps : List (Loc × Nat × Nat)) : List (Nat × Word) :=
  (sectorsOf ps).filterMap fun x =>
    let r := s.recordOf w x.1 x.2
    if s.raceModeAt w (BitVec.ofNat 64 x.2) != 0 && isRace r w then some (x.2, r) else none

/-- The shadow record of a sector is written where it stands (R299, R300). -/
def State.putRecord (s : State) (w : Who) (l : Loc) (va : Nat) (r : BitVec 64) : State :=
  match l, s.shadowHome w (BitVec.ofNat 64 va) with
  | .pkg a, some p =>
    if (Cells.find? s.attrs (a / 128)).isSome then { s with shadows := Cells.set 0 s.shadows (a / 32) r }
    else { s with mem := Memory.writeNat s.mem (p + 8 * (a / 32 % 4)) 8 r.toNat }
  | _, _ => { s with shadows := Cells.set 0 s.shadows (l.key / 32) r }

/-- The shadow records of the sectors of `n` written bytes (R300). -/
def State.noteWrite (s : State) (w : Who) (va : Word) (l : Loc) (n : Nat) (wts : Word) : State :=
  (sectorsOf [(l, va.toNat, n)]).foldl
    (fun a x => if s.raceModeAt w (BitVec.ofNat 64 x.2) = 0 then a else a.putRecord w x.1 x.2 (shadowOf w wts)) s

/-- The record that race mode 2 appends to the partition's race log (Table 14.14). -/
def State.logRace (s : State) (w : Who) (va : Nat) (writes : Bool) (rec_ : Word) : State :=
  match s.partOf w.core with
  | none => s
  | some pi =>
    match Cells.find? s.parts pi with
    | none => s
    | some p =>
      if p.raceNext ≥ 2 ^ p.raceLog then s.updPart pi fun x => { x with raceDrops := x.raceDrops + 1 }
      else
        let acc := nameOf w.core + 256 * seqNum w.q + (if w.engine then 1024 else 0) + (if writes then 2048 else 0)
        let v := va + 2 ^ 64 * acc + 2 ^ 128 * rec_.toNat + 2 ^ 192 * (w.floor.toNat % 2 ^ 32)
        { (s.updPart pi fun x => { x with raceNext := x.raceNext + 1 }) with
          mem := Memory.writeNat s.mem (p.raceBase + 32 * p.raceNext) 32 v }

/-! ### Guard buffers -/

/-- Sectors that a guard buffer holds (R306). -/
def guardSectors : GuardBuf → List Nat
  | [] => []
  | (k, _) :: r => if (guardSectors r).contains (k / 32) then guardSectors r else (k / 32) :: guardSectors r

/-- A buffer with `n` bytes from a place on. -/
def guardPut (b : GuardBuf) (l : Loc) : Nat → Nat → GuardBuf
  | 0, _ => b
  | n + 1, v => guardPut (Cells.put b l.key (BitVec.ofNat 8 v)) (l.plus 1) n (v / 256)

/-- A value read from memory with the bytes that the buffer holds in place (R306). -/
def guardMerge (b : GuardBuf) (l : Loc) : Nat → Nat → Nat
  | 0, _ => 0
  | n + 1, v =>
    let x := match Cells.find? b l.key with
      | some y => y.toNat
      | none => v % 256
    x + 256 * guardMerge b (l.plus 1) n (v / 256)

/-- The size of a core's guard buffer in entries (R304, R306). -/
def State.guardEntries (s : State) (agent : Nat) : Nat :=
  match s.launchOf agent with
  | some l => l.buffer / 64
  | none => 0

end Sys2Proof.Machine
end

