-- ==== Sys2Proof/Machine/Ops.lean ====
section
/-! DEFINITION. Sys2Proof/Machine/Ops.lean: the operations that the meanings share: fault records, ending and discarding
work, taking a trap and returning from one, the wrappers of S words, A words and engine words, pips, and steering. -/

namespace Sys2Proof.Machine

/-! ### Fault records -/

/-- The fields of a fault record (Table 19.3). -/
structure FaultRec where
  flt : Flt
  source : Nat
  flags : Nat
  pos : Nat
  at_ : Word
  offset : Nat
  iter : Nat
  core : Nat
  token : Nat
  launch : Word
  iterNo : Word
  pts : Word
  deriving DecidableEq, Repr

/-- The 64 bytes of a record, least significant first. -/
def FaultRec.bytes (r : FaultRec) : Nat :=
  r.flt.cause.toNat + 2 ^ 8 * r.source + 2 ^ 16 * r.flags + 2 ^ 32 * (r.pos % 2 ^ 32) + 2 ^ 64 * r.at_.toNat
    + 2 ^ 128 * r.flt.addr.toNat + 2 ^ 192 * r.flt.info.toNat + 2 ^ 256 * (r.offset % 2 ^ 32) + 2 ^ 288 * (r.iter % 2 ^ 32)
    + 2 ^ 320 * r.core + 2 ^ 336 * r.token + 2 ^ 352 * (r.launch.toNat % 2 ^ 32) + 2 ^ 384 * r.iterNo.toNat
    + 2 ^ 448 * r.pts.toNat

/-- A record with what the agent's registers say; no token, outside a loop. -/
def State.faultRec (s : State) (agent source flags pos : Nat) (at_ : Word) (f : Flt) (pts : Word) : FaultRec :=
  { flt := f, source := source, flags := flags, pos := pos, at_ := at_, offset := 0, iter := 0, core := nameOf agent,
    token := 0xFFFF, launch := (s.core agent).launchId, iterNo := (s.core agent).iter, pts := pts }

/-- A record of a fault that no word of a core has made: what the spec does not state for it is free (log
entry 16). -/
def State.deviceRec (s : State) (source : Nat) (f : Flt) (pts : Word) : FaultRec :=
  { flt := f, source := source, flags := 0, pos := Config.freeNat s.fresh 710, at_ := Config.freeWord s.fresh 711, offset := Config.freeNat s.fresh 712,
    iter := 0, core := Config.freeNat s.fresh 713 % 65536, token := 0xFFFF, launch := Config.freeWord s.fresh 714,
    iterNo := Config.freeWord s.fresh 715, pts := pts }

/-- The record is written to the partition's fault ring as one 64-byte access (R354). -/
def State.recordFault (s : State) (part : Nat) (r : FaultRec) : State :=
  match Cells.find? s.parts part with
  | none => s
  | some p =>
    let l : Loc := .pkg (p.ringBase + 64 * (p.ringNext % 2 ^ p.ringLog))
    (s.updPart part fun x => { x with ringNext := x.ringNext + 1 }).writeAt [] true r.pts l 64 r.bytes |>.1

/-- The record of an agent's partition. -/
def State.recordFor (s : State) (agent : Nat) (r : FaultRec) : State :=
  match s.partOf agent with
  | some p => s.recordFault p r
  | none => s

/-! ### Ending work -/

/-- The largest timestamp of the sequencers of a core, with those of the granules that a word in progress has performed. -/
def Core.maxPts (c : Core) : Word :=
  let of (x : Engine) : Word := wmax x.pts x.offsetTs
  wmax (wmax c.pts (of c.l)) (wmax (of c.c) (of c.t))

/-- An engine with nothing to do; its timestamp stays. -/
def Engine.clear (x : Engine) : Engine := { Engine.reset with pts := x.pts }

/-- An engine of a core that leaves its gang: its registers stand until the next binding, and it stays retired. -/
def Engine.release (x : Engine) : Engine :=
  { x.clear with a := x.a, lc0 := x.lc0, lc1 := x.lc1, stat := if x.stat = .retired then .retired else .ready }

/-- S of a core that leaves its gang: its registers stand until the next binding, and it stays retired. -/
def Ctx.release (x : Ctx) : Ctx :=
  { x.goto x.pc with stat := match x.stat with | .retired a => .retired a | _ => .unbound }

/-- A request is a slot operation of C. -/
def ReqKind.onSlot : ReqKind → Bool
  | .slot _ => true
  | .get _ => true
  | _ => false

/-- Loads of XGET of some cores are dropped: the words that asked for them are gone. -/
def State.dropGets (s : State) (cores : List Nat) : State :=
  { s with reqs := s.reqs.filter fun (x : Nat × Req) => match x.2.kind with | .get _ => !cores.contains x.2.core | _ => true }

/-- A core that leaves its gang: no work and no token of it is left, and its registers stand until the next binding (R20, R357).
Tokens named before belong to an older number. -/
def Core.unbind (g : Nat) (c : Core) : Core :=
  { c with
    user := c.user.release, handler := false, trap := c.kept.getD c.trap, kept := none, lastLine := [], l := c.l.release, c := c.c.release, t := c.t.release,
    capL := ⟨0, 0⟩, capC := ⟨0, 0⟩, capT := ⟨0, 0⟩, pips := [], tokens := [], gen := g, engTrap := none,
    binding := none, guard := [], guardVas := [], surrogate := false, team := { Team.reset with beat := c.team.beat, bound := c.team.bound } }

/-- A pod that a gang has moved off the default map returns to it when that gang is released, and the banks that leave its cache
lose their lines (R269, R270, R272). -/
def State.homePod (s : State) (gang pod : Nat) : State :=
  if (s.pod pod).movedBy = some gang then
    (s.updPod pod fun p => { p with banks := Pod.defaultBanks, changing := none, movedBy := none }).dropWays pod
  else s

/-- A phase of a barrier has something to resolve: it is full, or a token or a slot of COLLX waits for it (R24, R25). -/
def Barrier.open_ (b : Barrier) : Bool :=
  (b.n != 0 && decide (b.n ≤ b.count)) || !b.collx.isEmpty || b.toks.any fun t => t.k != 63

/-- The members of a gang with the engine members of its team. -/
def State.membersOf (s : State) (g : Gang) : List Nat :=
  match g.team with
  | some t => ((Cells.find? s.teams t).map fun (x : TeamSt) => x.members).getD g.members
  | none => g.members

/-- A gang is released: its members, engine members and pods are free (R20, R270). While tokens or slots wait for a phase of its
barriers, the gang stands as released, and its launch drains (R24, R25, log entry 101). -/
def State.releaseGang (s : State) (g : Nat) : State :=
  match Cells.find? s.gangs g with
  | none => s
  | some x =>
    let mine (m : Nat) : Bool := ((s.core m).binding.map fun (b : Binding) => b.gang) == some g
    let s1 := ((s.membersOf x).filter mine).foldl (fun a m => a.updCore m (Core.unbind s.nextId))
      { s.dropGets (x.members.filter mine) with nextId := s.nextId + 1 }
    let s2 := x.members.foldl (fun a m => a.homePod g (podOf m)) s1
    { s2 with
        gangs := if x.barriers.any fun b => b.2.open_ then
            Cells.put s2.gangs g { x with state := .released, members := [], team := none, round := none, ctxs := [] }
          else Cells.del s2.gangs g,
        teams := (match x.team with | some t => Cells.del s2.teams t | none => s2.teams) }

/-- A gang of a launch that has ended leaves: nothing of it is kept (R357, R365). -/
def State.dropGang (s : State) (g : Nat) : State :=
  let s1 := s.releaseGang g
  { s1 with gangs := Cells.del s1.gangs g }

/-- S stops at its word boundary, or in its wait (Table 19.7). -/
def Ctx.stop (x : Ctx) : Ctx :=
  { x with stat := (match x.stat with
    | .running => .stopped none
    | .waiting w => .stopped (some w)
    | st => st) }

/-- A gang of a launch that has ended is stopped as for preemption, and leaves once its units have stopped; one that is saved, or
is being restored, has nothing in progress and leaves at once (R357, R362, R365). -/
def State.stopGang (s : State) (g : Nat) : State :=
  match Cells.find? s.gangs g with
  | none => s
  | some x =>
    match x.state with
    | .bound =>
      ((s.membersOf x).foldl (fun (a : State) m => a.updCore m fun c => { c with user := c.user.stop }) s).updGang g fun y =>
        { y with state := .saving, saved := [], discard := true, round := none }
    | .saving => s.updGang g fun y => { y with discard := true }
    | _ => s.dropGang g

/-- An operation that ends with its launch: an arrival or a join of a core that is gone, or a stalled fault. -/
def AOp.dies (o : AOp) : Bool :=
  match o.kind, o.stat with
  | .barrier .., _ => true
  | .tokn .., _ => true
  | _, .stalled _ => true
  | _, _ => false

/-- A launch ends: its gangs stop, what cannot go on any more is dropped, its children no longer count for it, and it drains with
its status, unless one is set already (R357, R360); the timestamps of its members and of the granules that dropped operations
have performed count for it (R235). -/
def State.endLaunch (s : State) (l status : Nat) : State :=
  let mine := s.gangs.filter fun x => x.2.launch == l
  let dead (x : Nat × AOp) : Bool := x.2.launch == l && x.2.dies
  let ts := mine.foldl (fun a x => x.2.ctxs.foldl (fun b y => wmax b y.2.maxPts)
    (x.2.members.foldl (fun b m => wmax b (s.core m).maxPts) a)) ((s.ops.filter dead).foldl (fun a x => wmax a x.2.maxTs) (0 : Word))
  let s1 := mine.foldl (fun a x => a.stopGang x.1) s
  let s2 := { s1 with ops := s1.ops.filter fun x => !dead x,
                      aoseqs := s1.aoseqs.filter fun x => !((s.core x.2.core).binding.map (fun (b : Binding) => b.launch) == some l) }
  let s3 := { s2 with subs := s2.subs.map fun (x : Submission) => if x.parent = some l then { x with parent := none } else x,
                      launches := s2.launches.map fun (x : Nat × Launch) =>
                        (x.1, if x.2.parent = some l then { x.2 with parent := none } else x.2) }
  let num := ((Cells.find? s.launches l).map fun x => x.number).getD 0
  let part := ((Cells.find? s.launches l).map fun x => x.part).getD 0
  let s4 := s3.updPart part fun p => { p with fbars := p.fbars.map fun (b : Nat × FBar) =>
    (b.1, { b.2 with bar := { b.2.bar with toks := b.2.bar.toks.filter fun t => t.launch != num } }) }
  s4.updLaunch l fun x =>
    { x with doneTs := wmax x.doneTs ts, state := .draining, status := if x.status = 0 then status else x.status, handed := x.total, redoHanded := x.redo.length }

/-- The 64 queues of a VF stop with their error bits set (R383). -/
def Vf.stop (v : Vf) : Vf :=
  let put (a : Cells VQueue) (q : Nat) : Cells VQueue :=
    let x := Cells.get VQueue.reset v.queues q
    Cells.put a q { x with qcfg := (x.qcfg ||| 0x80) &&& ~~~(0x20 : Word) }
  { v with queues := (List.range 64).foldl put v.queues }

/-- A failure inside Husk: every launch of the partition ends with status `ECC`, a record with source 0 and flags 0 is
written, and the partition's queues stop (R383). -/
def State.huskFailure (s : State) (agent : Nat) : State :=
  match s.partOf agent with
  | none => s
  | some p =>
    let s1 := s.recordFault p (s.faultRec agent 0 0 0 (s.core agent).husk.pc ⟨0x0D, 0, 0⟩ (s.core agent).huskPts)
    let s2 := (s1.launches.filter fun x => x.2.part == p && x.2.state != .complete).foldl (fun a x => a.endLaunch x.1 0x0D) s1
    let vfs := ((Cells.find? s2.parts p).map fun x => x.vfs).getD 0
    ((List.range 128).filter fun v => vfs.getLsbD v).foldl (fun a v => a.updVf v Vf.stop) (s2.updPart p fun x => { x with stopped := true })

/-! ### The surrogate phase -/

/-- A counter of GSTAT that saturates at 65,535 (Table 15.3). -/
def bumpField (g : Word) (lo : Nat) : Word :=
  if (g.toNat / 2 ^ lo) % 65536 = 65535 then g else g + BitVec.ofNat 64 (2 ^ lo)

/-- The check of an access that the device makes for a launch: in its translation, with its windows, but no owner (R277,
R310). An agent of the partition stands for it. The scratch window is no pod's here. -/
def State.devCheck (s : State) (agent : Nat) (ws : List Win) (acc : Acc) (va : Word) : Except Flt Loc :=
  if scratchBase ≤ va.toNat ∧ va.toNat < 2 ^ 56 then .error (windowFlt va 64)
  else
    match s.translate agent true acc va with
    | .error f => .error f
    | .ok l =>
      match windowIn va.toNat 0 ws with
      | some (i, x) =>
        if x.flags.getLsbD 3 || (acc != .read && x.flags.getLsbD 2) then .error (windowFlt va i)
        else (match s.eccAt l va with | some f => .error f | none => .ok l)
      | none => (match s.eccAt l va with | some f => .error f | none => .ok l)

/-- A write of a few bytes that the device makes for a launch, with timestamp base `p`: the state and the write's wts, or
the fault. One to system space is posted (R102, R388). -/
def State.devWrite (s : State) (agent : Nat) (ws : List Win) (p : Word) (va : Word) (n v : Nat) : Except Flt (State × Word) :=
  match s.devCheck agent ws .write va with
  | .error f => .error f
  | .ok l =>
    if l.isSystem then
      .ok ({ s with sys := Cells.put s.sys s.nextId (.store agent (.op s.nextId) l (bytesOf n v)), nextId := s.nextId + 1 }, p)
    else .ok ((s.touchIn ws l va true).writeAt [] false p l n v)

/-- A read of `n` bytes, 32 at a time, that the device makes for a launch. -/
def State.devRead (s : State) (agent : Nat) (ws : List Win) (p : Word) (va : Word) : Nat → Except Flt (State × Nat × Word)
  | 0 => .ok (s, 0, p)
  | n + 1 =>
    match s.devCheck agent ws .read va with
    | .error f => .error f
    | .ok l =>
      let (s1, v, t) := (s.touchIn ws l va false).readAt [] (s.leaseOf agent) p l 32
      match s1.devRead agent ws p (va + 32) n with
      | .error f => .error f
      | .ok (s2, u, t') => .ok (s2, v + 2 ^ 256 * u, wmax t t')

/-- The iteration is appended to the redo area: first the entry, then the count. A failure ends the launch (R310). -/
def State.appendRedo (s : State) (agent l iter : Nat) : State :=
  match Cells.find? s.launches l with
  | none => s
  | some x =>
    let j := x.redo.length
    match s.devWrite agent x.windows x.startTs (x.nest.redo + BitVec.ofNat 64 (8 + 4 * j)) 4 iter with
    | .error f => s.endLaunch l f.cause.toNat
    | .ok (s1, t1) =>
      match s1.devWrite agent x.windows x.startTs x.nest.redo 8 (j + 1) with
      | .error f => s1.endLaunch l f.cause.toNat
      | .ok (s2, t2) => s2.updLaunch l fun y => { y with redo := y.redo ++ [iter], doneTs := wmax y.doneTs (wmax t1 t2) }

/-- A member stops at once: no buffer, no surrogate phase, empty queues, S and the engines retired (R307). -/
def Core.fallBack (g now : Nat) (c : Core) : Core :=
  { c with
    guard := [], guardVas := [], surrogate := false, user := { c.user.goto c.user.pc with stat := .retired c.user.pc },
    l := { c.l.clear with stat := .retired }, c := { c.c.clear with stat := .retired }, t := { c.t.clear with stat := .retired },
    capL := ⟨0, 0⟩, capC := ⟨0, 0⟩, capT := ⟨0, 0⟩, tokens := [], gen := g, engTrap := none, readyAt := now }

/-- A fallback of the agent's gang with a reason of Table 15.2 (R307, R311). -/
def State.fallback (s : State) (agent reason : Nat) : State :=
  match (s.core agent).binding with
  | none => s
  | some b =>
    match Cells.find? s.gangs b.gang with
    | none => s
    | some g =>
      let s1 := g.members.foldl (fun a m => a.updCore m (Core.fallBack s.nextId s.fresh)) { s.dropGets g.members with nextId := s.nextId + 1 }
      let dead (x : Nat × AOp) : Bool := g.members.contains x.2.tok.core && x.2.launch == b.launch &&
        (match x.2.kind with | .copy .. => true | .copyl .. => true | .tokn .. => true | _ => false)
      let s2 := { s1 with ops := s1.ops.filter fun x => !dead x,
                          sys := s1.sys.filter fun x => match x.2 with | .load c h .. => h || !g.members.contains c | _ => true }
      let s3 := s2.updGang b.gang fun y => { y with guardAt := [], decision := none }
      let ts := g.members.foldl (fun a m => wmax a (s.core m).maxPts) ((s.ops.filter dead).foldl (fun a x => wmax a x.2.maxTs) (0 : Word))
      let s4 := s3.updLaunch b.launch fun l =>
        { l with doneTs := wmax l.doneTs ts, gstat := bumpField ((l.gstat &&& ~~~(0x00FF000000000000 : Word)) ||| BitVec.ofNat 64 (reason % 256 * 2 ^ 48)) 32 }
      s4.appendRedo agent b.launch (g.iter.getD 0)

/-- A trap that is a fallback: the record with the surrogate flag, then the fallback (R307, R354). -/
def State.fallbackTrap (s : State) (agent : Nat) (r : FaultRec) : State :=
  (s.recordFor agent { r with flags := if r.source = 0 then 9 else 8 }).fallback agent r.flt.cause.toNat

/-! ### Traps on S -/

/-- The causes that go to the user handler when S raises them precisely (Table 19.2). -/
def causeToUser (c : BitVec 8) : Bool :=
  c == 0x01 || c == 0x02 || c == 0x03 || c == 0x05 || c == 0x06 || c == 0x07 || c == 0x0C || c == 0x0E || c == 0x0F
    || c == 0x12 || c == 0x13 || c == 0x40 || c == 0x41

/-- The trap goes to the user handler (R90, R11). -/
def Core.toUser (c : Core) (cause : BitVec 8) : Bool :=
  !c.handler && c.trap.vec != 0 && causeToUser cause && !c.capturing

/-- The trap registers of a trap (R90). -/
def TrapRegs.set (t : TrapRegs) (f : Flt) (at_ : Word) : TrapRegs :=
  { t with cause := f.cause.setWidth 64, pc := at_, addr := f.addr, info := f.info }

/-- The wait in which a context stands. -/
def Ctx.wait (x : Ctx) : Option Wait :=
  match x.stat with
  | .waiting w => some w
  | _ => none

/-- S enters the user handler (R90). -/
def Core.enterHandler (c : Core) : Core := { c with handler := true, user := { c.user.goto c.trap.vec with expired := none } }

/-- What `SHARE` or `HYIELD` does when its fetch pair is over: the register is set, or Husk issues nothing until its next
event (R95). -/
def Core.act (c : Core) : HuskAct → Core
  | .share v => { c with share := v }
  | .yield => { c with husk := { c.husk with stat := .stopped none } }

/-- What the fetch pair of Husk has left to do is done (R95). -/
def Core.endPair (c : Core) : Core :=
  match c.pairAct with
  | some (a, _) => { c.act a with pairAct := none }
  | none => c

/-- An event of Husk on a core (R95, R383): it is entered, which ends its fetch pair. Where its code stands the spec does not
say (log entry 17). -/
def State.enterHusk (s : State) (agent : Nat) : State :=
  s.updCore agent fun c =>
    let d := c.endPair
    { d with husk := d.husk.goto (Config.freeWord s.fresh 50 &&& ~~~(3 : Word)) }

/-- The source that a record names for S of an agent (Table 19.3). -/
def srcOf (agent : Nat) : Nat := if agent < 256 then 0 else if agent < 288 then 4 else 5

/-- A trap of the word at `at_`: to Husk in the Husk context, a fallback in the surrogate phase, else the entry of R90:
to the user handler, or to Husk with a fault record. -/
def State.takeTrap (s : State) (f : Flt) (at_ : Word) : State :=
  let c := s.cur
  if s.inHusk then s.huskFailure s.agent
  else if c.surrogate && !(c.toUser f.cause && (f.cause == 0x12 || f.cause == 0x13)) then s.fallbackTrap s.agent (s.faultRec s.agent 0 0 0 at_ f c.pts)
  else
    let s1 := s.onCore fun x => { x with trap := x.trap.set f at_ }
    if c.toUser f.cause then s1.onCore Core.enterHandler
    else
      let flags := if f.cause == 0x04 && f.info.getLsbD 3 then 3 else 1
      ((s1.recordFor s.agent (s.faultRec s.agent (srcOf s.agent) flags 0 at_ f c.pts)).enterHusk s.agent).onCore fun x =>
        { x with user := { x.user with stat := .trapped none } }

/-- A member stops with `CHOR` and detail 13, because another one has trapped (R262). -/
def State.chorOther (s : State) (m : Nat) : State :=
  let c := s.core m
  let role := if c.roleSet = 0 then 0xFF else ((List.range 16).find? fun r => c.roleSet.getLsbD r).getD 0xFF
  let f : Flt := ⟨0x0B, 0, BitVec.ofNat 64 (13 + 256 * role + 65536 * c.team.beat.toNat)⟩
  match c.user.stat with
  | .trapped _ => s
  | _ =>
    ((s.recordFor m (s.faultRec m (srcOf m) 1 0 c.user.pc f c.pts)).enterHusk m).updCore m fun x =>
      { x with trap := x.trap.set f c.user.pc, user := { x.user with stat := .trapped none } }

/-- The members of an agent's team, or of its gang before a team is open; an engine that has left is none any more (R253). DESIGN
CHOICE: where the launch is no team launch the other cores of the gang stop too (log entry 120). -/
def State.fellows (s : State) (agent : Nat) : List Nat :=
  match s.gangOf agent with
  | none => [agent]
  | some g =>
    let all := match g.team with
      | some t => ((Cells.find? s.teams t).map fun (x : TeamSt) => x.members).getD g.members
      | none => g.members
    all.filter fun m => ((s.core m).binding.map fun (b : Binding) => b.gang) == (s.core agent).binding.map fun (b : Binding) => b.gang

/-- `CHOR` with a detail code on the agent whose turn it is, and detail 13 on the others (R262). -/
def State.chor (s : State) (detail : Nat) (at_ : Word) : State :=
  let c := s.cur
  let role := if c.roleSet = 0 then 0xFF else ((List.range 16).find? fun r => c.roleSet.getLsbD r).getD 0xFF
  let s1 := s.takeTrap ⟨0x0B, 0, BitVec.ofNat 64 (detail + 256 * role + 65536 * c.team.beat.toNat)⟩ at_
  ((s.fellows s.agent).filter fun m => m != s.agent).foldl State.chorOther s1

/-- A context goes on at an address; at the word of a wait that has trapped `WAITTO` it stands in that wait again, whose arrival,
beat or message counts once (R242). DEDUCED (log entry 138). -/
def Ctx.reenter (x : Ctx) (dest : Word) : Ctx :=
  let y := { x.goto dest with expired := none }
  match x.expired with
  | some e => if e.word = dest then { y with pc := e.pc, pend := e.pend, stat := .waiting e.wait } else y
  | none => y

/-- The return from a user trap handler (R92). -/
def State.returnFrom (s : State) (dest : Word) : State :=
  (s.onCore fun c => { c with handler := false }).onCtx fun x => x.reenter dest

/-- `ILLEGAL` of a word's own check: TRAPINFO holds the word (Table 19.2). -/
def State.illegalWord (s : State) (w : InstrWord) (at_ : Word) : State := s.takeTrap ⟨0x01, 0, w.setWidth 64⟩ at_

/-- A word that may find a line in L1: a load or an atomic of S, a command that reads memory, `XGET`. -/
def readsL1 (w : InstrWord) : Bool :=
  let op := (w.extractLsb' 23 6).toNat
  match (w.extractLsb' 29 3).toNat with
  | 0 => decide (0x20 ≤ op ∧ op ≤ 0x36)
  | 1 => (match decodeWord w with | .ok (.word (.xget ..)) => true | _ => false)
  | 2 => decide (op ≤ 5)
  | 4 => decide (op = 2)
  | _ => false

/-- A word of a sequencer of the core may read a register, a queue entry or an L1 line with an uncorrectable error: `ECC` with its
structure (R123, R356). Whether it does, and which, is open: the model does not say which of them stand in a bad word. What a word
reads in LS has its own check (log entry 24). -/
def State.eccWord (s : State) (w : InstrWord) : Option Flt :=
  let l := s.cur.errs.filter fun x => x.1 == 6 || (x.1 == 2 && readsL1 w)
  match l[Config.freeNat s.fresh 625 % (l.length + 1)]? with
  | some x => some ⟨0x0D, x.2, x.1.setWidth 64⟩
  | none => none

/-- The word of an instruction. -/
def wordOf (i : Instr) : InstrWord := (encode i).getD 0

/-! ### Words of S -/

/-- The words of a prefix. -/
def Prefix.word : Prefix → Option (InstrWord × Word)
  | .none => Option.none
  | .ext p a => some (pack (.xExt p), a)
  | .fmtx i o t n b a => some (pack (.xFmtx i o t n b 0), a)

/-- The checks that every word of S makes before its effect: no A word waits for its X.TWS, a prefix is one that the word
accepts, the fields are legal (R59, R63, R64). -/
def sWord (ext : Bool) (i : Instr) (body : State → State) (s : State) : State :=
  match s.ctx.pend with
  | some p => s.illegalWord p.word p.at_
  | none =>
    match s.ctx.pfx.word with
    | some (w, a) =>
      if ext && w.extractLsb' 27 2 == 0 then (if i.legal then body s else s.illegalWord (wordOf i) s.pc)
      else s.illegalWord w a
    | none => if i.legal then body s else s.illegalWord (wordOf i) s.pc

/-- A word with a guard (R60): with the guard false it changes nothing. -/
def guarded (pr : BitVec 3) (i : Instr) (body : State → State) (s : State) : State :=
  sWord false i (fun s => if s.p pr then body s else s.advance) s

/-- `ILLEGAL` of the instruction at the pc. -/
def State.illegal (s : State) (i : Instr) : State := s.illegalWord (wordOf i) s.pc

/-- `PRIV` with the failing word (R353). -/
def State.priv (s : State) (i : Instr) : State := s.takeTrap ⟨0x02, 0, (wordOf i).setWidth 64⟩ s.pc

/-- An access of an earlier word of the context that has not performed: a reduction, an ordered atomic, or a load whose
data is on its way (R85, R102, R116). -/
def State.memPending (s : State) : Bool :=
  (s.reqs.any fun x => x.2.core == s.agent && x.2.e == s.who)
    || (s.aoseqs.any fun x => x.2.core == s.agent)
    || (s.sys.any fun x => match x.2 with | .load c h .. => c == s.agent && h == s.inHusk | _ => false)

/-- A system-scope write of S that has not been acknowledged (R102). -/
def State.sysPending (s : State) : Bool :=
  s.sys.any fun x => match x.2 with | .store c (.seq q) .. => c == s.agent && q == s.who | _ => false

/-! ### Tokens and A words -/

/-- The address and the next-word address of the A word that S performs (R59). -/
def State.aAddr (s : State) : Word :=
  match s.ctx.pend with
  | some p => p.at_
  | none => s.pc

/-- What the sequencer of another agent does. -/
def State.onBehalf (s : State) (agent : Nat) (q : Seq) (f : State → State) : State :=
  { f { s with turn := .seq agent q } with turn := s.turn }

/-- A trap of the word at which S of an agent stands, taken by S (R90). -/
def State.trapOn (s : State) (agent : Nat) (f : Flt) : State := s.onBehalf agent .s fun a => a.takeTrap f a.aAddr

/-- The consumption of token ids in order, with the effect of TWAIT on each (R86, R59). `.error` is the state in which S
waits or has trapped. -/
def State.consume (s : State) : List (BitVec 6) → Except State State
  | [] => .ok s
  | k :: ks =>
    match s.cur.tok k with
    | .pending => .error (s.await (.token k))
    | .failed f => .error (s.takeTrap f s.aAddr)
    | .done ts => ((s.raisePts ts).setFloor).consume ks
    | .free => s.consume ks

/-- The common steps of an A word before its operation (R186): the check of the register values, the token ids, the wait
until kout is not pending. -/
def State.aSteps (s : State) (k : BitVec 6) (ids : List (BitVec 6)) (chk : Option Flt) : Except State State :=
  match chk with
  | some f => .error (s.takeTrap f s.aAddr)
  | none =>
    match s.consume ids with
    | .error s1 => .error s1
    | .ok s1 =>
      match s1.cur.tok k with
      | .pending => .error (s1.await (.token k))
      | _ => .ok s1

/-- An A word: with nw = 0 it is performed; else it waits for its X.TWS (R58, R59). The number is the word's own. -/
def aWord (i : Instr) (nw : BitVec 2) (op : List (BitVec 6) → State → State) (s : State) : State :=
  sWord false i (fun s =>
    if nw = 0 then op [] s
    else s.onCtx fun x => { x with pc := x.pc + 4, pend := some ⟨wordOf i, x.pc⟩, stat := .running }) s

/-- The common steps, then the operation. -/
def State.aOp (s : State) (k : BitVec 6) (ids : List (BitVec 6)) (chk : Option Flt) (run : State → State) : State :=
  match s.aSteps k ids chk with
  | .error s1 => s1
  | .ok s1 => run s1

/-- `ILLEGAL` of an A word for a register value (Table 19.2). -/
def illegalIf (w : InstrWord) (bad : Bool) : Option Flt := if bad then some ⟨0x01, 0, w.setWidth 64⟩ else none

/-- A token is made. -/
def State.setTok (s : State) (k : BitVec 6) (t : Tok) : State := s.onCore fun c => c.setTok k t

/-- A new asynchronous operation of S; S goes on (R186). -/
def State.startOp (s : State) (kind : OpKind) (k : BitVec 6) : State :=
  let o : AOp := { kind := kind, tok := s.tokRef k, base := s.pts, floor := s.cur.floor,
                   launch := (s.cur.binding.map fun b => b.launch).getD 0, rank := s.cur.gangRank.toNat, stat := .queued, src := none, dst := none,
                   done := [], fails := [], maxTs := 0, at_ := s.aAddr, race := none, buffered := s.cur.surrogate && !s.inHusk }
  ({ s with ops := Cells.put s.ops s.nextId o, nextId := s.nextId + 1 }.setTok k .pending).advance

/-- The source that a record names for an operation (Table 19.3). -/
def OpKind.source : OpKind → Nat
  | .fsend .. => 7
  | .fget .. => 7
  | .call .. => 5
  | .trim .. => 5
  | _ => 4

/-- A join takes the state of an input of its iteration that resolves (R199). -/
def AOp.latch (t : TokRef) (v : Tok) (o : AOp) : AOp :=
  match o.kind with
  | .tokn ins =>
    if o.tok.core = t.core ∧ o.tok.gen = t.gen then
      { o with kind := .tokn (ins.map fun i => if i.1 = t.k ∧ i.2 = .pending then (i.1, v) else i) }
    else o
  | _ => o

/-- One token resolves: the joins take its state, and a failure that no token of the core takes is recorded (R25, R199,
R354). DESIGN CHOICE: which source the record names for a word whose work no unit of Table 19.3 does (log entry 100). -/
def State.resolveOne (s : State) (t : TokRef) (v : Tok) (source : Nat) (at_ pts : Word) : State :=
  let s1 := match v with
    | .failed f =>
      if t.k = 63 ∨ (s.tokCore t).gen ≠ t.gen then
        s.recordFor t.core
          { s.faultRec t.core source 0 0 at_ f pts with token := t.k.toNat, launch := t.launch, iterNo := t.iter }
      else s
    | _ => s
  { s1.putTok t v with ops := s1.ops.map fun (x : Nat × AOp) => (x.1, x.2.latch t v) }

/-- The joins that have become ready resolve, one after the other (R199). -/
def State.settle : Nat → State → State
  | 0, s => s
  | fuel + 1, s =>
    let out (x : Nat × AOp) : Option Tok :=
      match x.2.kind with
      | .tokn ins => joinResult ins
      | _ => none
    match List.find? (fun (x : Nat × AOp) => (out x).isSome) s.ops with
    | some x => State.settle fuel ({ s with ops := Cells.del s.ops x.1 }.resolveOne x.2.tok ((out x).getD .free) 0 x.2.at_ x.2.base)
    | none => s

/-- A token resolves, and the joins that waited for it (R25, R199). -/
def State.resolveFrom (s : State) (t : TokRef) (v : Tok) (source : Nat) (at_ pts : Word) : State :=
  (s.resolveOne t v source at_ pts).settle s.ops.length

/-- An operation is over: it leaves the table and its token resolves. -/
def State.endOp (s : State) (o : Nat) (x : AOp) (t : Tok) : State :=
  let s1 := { s with ops := Cells.del s.ops o, pods := s.pods.map fun (p : Nat × Pod) => (p.1, { p.2 with queue := p.2.queue.filter fun i => i != o }) }
  let ts := match t with
    | .done ts => ts
    | _ => x.maxTs
  (s1.updLaunch x.launch fun l => { l with doneTs := wmax l.doneTs ts }).resolveFrom x.tok t x.kind.source x.at_ x.base

/-! ### Engine words -/

def State.onEng (s : State) (e : Eng) (f : Engine → Engine) : State := s.onCore fun c => c.updEng e f

/-- The channels of an engine: left-in, right-in, left-out, right-out (Table 01.4). -/
def engChannels : Eng → Nat × Nat × Nat × Nat
  | .l => (0, 3, 1, 2)
  | .c => (2, 5, 3, 4)
  | .t => (4, 7, 5, 6)

/-- The channels that the pip bits pop and push, in order (R13). -/
def popsOf (e : Eng) (pip : BitVec 4) : List Nat :=
  (if pip.getLsbD 3 then [(engChannels e).1] else []) ++ (if pip.getLsbD 2 then [(engChannels e).2.1] else [])

def pushesOf (e : Eng) (pip : BitVec 4) : List Nat :=
  (if pip.getLsbD 1 then [(engChannels e).2.2.1] else []) ++ (if pip.getLsbD 0 then [(engChannels e).2.2.2] else [])

/-- The engine has executed its word: the next one is the next of the loop memory or of the queue, and a word that came
from the queue in a loop is written into the loop memory (R9). -/
def Engine.take (x : Engine) : Engine :=
  match x.outer with
  | none => { x with queue := x.queue.tail }
  | some _ =>
    if x.lp < x.loopMem.length then { x with lp := x.lp + 1 }
    else { x with loopMem := x.loopMem ++ x.queue.take 1, queue := x.queue.tail, lp := x.lp + 1 }

/-- The end of an inner body: the next iteration, or the loop is over and its counter 0 (R9). -/
def Engine.closeInner (x : Engine) : Engine :=
  match x.inner with
  | none => x
  | some l =>
    if x.lp < l.start + l.len then x
    else if l.i + 1 < l.n then
      { x with inner := some { l with i := l.i + 1 }, lp := l.start, lc1 := BitVec.ofNat 32 (l.n - (l.i + 1)) }
    else { x with inner := none, lc1 := 0 }

/-- The end of the outer body (R9). -/
def Engine.closeOuter (x : Engine) : Engine :=
  match x.outer, x.inner with
  | some l, none =>
    if x.lp < l.len then x
    else if l.i + 1 < l.n then { x with outer := some { l with i := l.i + 1 }, lp := 0, lc0 := BitVec.ofNat 32 (l.n - (l.i + 1)) }
    else { x with outer := none, loopMem := [], latched := [], lp := 0, lc0 := 0 }
  | _, _ => x

/-- The prefix of an X word. -/
def prefixOf (w : InstrWord) (a : Word) : Prefix :=
  if w.extractLsb' 27 2 = 0 then .ext (w.extractLsb' 0 27) a
  else .fmtx (w.extractLsb' 23 4) (w.extractLsb' 19 4) (w.extractLsb' 18 1) (w.extractLsb' 17 1) (w.extractLsb' 9 8) a

/-- An X prefix at the head of an engine's queue stands before the next word of the stream (R59). As the last word of a body
it ends an iteration as any body word does; it then stands before the word after the body, so the iteration that follows
does not have it (R9). DEDUCED (log entry 91). -/
def Engine.latch (x : Engine) (p : Prefix) : Engine :=
  let y := x.take
  let z := y.closeInner.closeOuter
  { (if z.outer.isNone || z.lp == y.lp then { z with pfx := p } else z) with stat := .ready }

/-- The word in progress is over. -/
def Engine.finish (x : Engine) : Engine :=
  { x.take.closeInner.closeOuter with
    pfx := .none, stat := .ready, popped := false, half := false, pushes := [], offset := 0, offsetTs := 0, base := none, landed := [] }

/-- The base timestamp of the command in progress (R289). -/
def Engine.baseTs (x : Engine) : Word := x.base.getD x.pts

/-- The word has begun and goes on later, with the base that it has (R289). -/
def Engine.begun (x : Engine) : Engine := { x with popped := true, stat := .ready, base := some x.baseTs }

/-- What a word of an engine comes to. -/
inductive Eff where
  /-- The effect is performed; the pips are pushed, or are left to the step that completes it. -/
  | done (s : State) (later : Bool)
  /-- Nothing has happened; the word waits. -/
  | wait (w : EWait)
  /-- A part has been performed, and the word goes on at its next turn. -/
  | more (s : State)
  /-- The word has ended the surrogate phase, and nothing of the engine's work is left. -/
  | stop (s : State)
  /-- A trap; the state is that of what the rules let stand. -/
  | trap (f : Flt) (s : State)
  /-- A replayable fault at an element offset, with what lies below it performed (R358). -/
  | replay (f : Flt) (offset : Nat) (s : State)

/-- The pips that the word still owes are pushed while there is room; then the word is over (R13, R362). -/
def pushPips (e : Eng) : List Nat → State → State
  | [], s => s.onEng e Engine.finish
  | ch :: r, s =>
    if s.cur.pipRoom ch then pushPips e r (s.onCore fun c => c.pushPip ch (c.eng e).pts)
    else s.onEng e fun x => { x with pushes := ch :: r, stat := .waiting (.pipPush ch) }

/-- The pips of a list of channels are popped: PTS rises to each (R13). -/
def popPips (e : Eng) : List Nat → State → State
  | [], s => s
  | ch :: r, s =>
    popPips e r (s.onCore fun c => (c.popPip ch).updEng e fun x => { x with pts := wmax x.pts ((c.pip ch).headD 0) })

/-- The loop iteration that a fault record names. -/
def Engine.iterNo (x : Engine) : Nat :=
  match x.inner, x.outer with
  | some l, _ => l.i
  | none, some l => l.i
  | none, none => 0

/-- A trap of an engine word (R355): in the surrogate phase a fallback, else the engines of the core stop until S enters
the trap. While a trap of the core is pending, a word that fails meanwhile stays in its queue and fails again later (log
entry 73). -/
def engineTrap (e : Eng) (f : Flt) (replayable : Bool) (offset : Nat) (s : State) : State :=
  let x := s.cur.eng e
  let q := x.entry.getD ⟨.halt, 0, 0, 0, 0, 0, 0⟩
  if s.cur.surrogate then
    s.fallbackTrap s.agent { s.faultRec s.agent (match e with | .l => 1 | .c => 2 | .t => 3) 0 q.pos q.at_ f x.pts with iter := x.iterNo, offset := offset }
  else s.onCore fun c =>
    { c with engTrap := some (c.engTrap.getD ⟨e, f, q.at_, q.pos, offset, x.iterNo, replayable, x.pts, false⟩) }

/-- The channels from which the word in progress still has to pop, in order (R13). -/
def Engine.owed (x : Engine) (e : Eng) (pip : BitVec 4) : List Nat :=
  if x.popped then [] else if x.half then (popsOf e pip).drop 1 else popsOf e pip

/-- The pips of a word are popped in order. At an empty channel the engine waits, and a pip popped before stays popped
(R13). -/
def takePips (e : Eng) : List Nat → Bool → State → Except State State
  | [], _, s => .ok s
  | ch :: r, began, s =>
    if (s.cur.pip ch).isEmpty then .error (s.onEng e fun x => { x with half := began, stat := .waiting (.pipPop ch) })
    else takePips e r true (popPips e [ch] s)

/-- The engine trap that a race of the performed word has left, as a fallback (R301, R307). -/
def State.raceFallback (s : State) (t : EngTrap) : State :=
  s.fallbackTrap s.agent { s.faultRec s.agent (match t.e with | .l => 1 | .c => 2 | .t => 3) 0 t.pos t.at_ t.flt t.pts with iter := t.iter }

/-- A word of an engine with its pips (R13): it pops its pips, performs, and pushes. A word that waits inside its effect has
popped them. -/
def engWord (e : Eng) (pip : BitVec 4) (body : State → Eff) (s : State) : State :=
  let x := s.cur.eng e
  if !x.pushes.isEmpty then pushPips e x.pushes s
  else
    match takePips e (x.owed e pip) x.half s with
    | .error s1 => s1
    | .ok s0 =>
      match body s0 with
      | .done s1 later =>
        (match s1.cur.surrogate, s1.cur.engTrap with
         | true, some t => s1.raceFallback t
         | _, _ => pushPips e (if later then [] else pushesOf e pip) s1)
      | .wait w => s0.onEng e fun x => { x with popped := true, stat := .waiting w }
      | .more s1 => s1.onEng e Engine.begun
      | .stop s1 => s1
      | .trap f s1 => engineTrap e f false 0 (s1.onEng e fun x => { x with popped := true, base := none })
      | .replay f n s1 => engineTrap e f true n (s1.onEng e fun x => { x with popped := true, offset := n, base := none })

/-! ### Steering -/

/-- The engine whose queue a word goes to (Table 01.2, Table 12.2). -/
def destOf (w : InstrWord) : Option Eng :=
  match (w.extractLsb' 29 3).toNat with
  | 1 => some .c
  | 2 => some .l
  | 3 => some .c
  | 4 => some .t
  | 7 =>
    if w.extractLsb' 23 6 = 0 then some (engOfNum (w.extractLsb' 21 2))
    else if w.extractLsb' 23 6 = 5 ∧ w.extractLsb' 13 2 = 1 then some .c
    else none
  | _ => none

/-- The engine words that accept an EXT: AINC and VSPLAT (R59, R57). -/
def takesExt (w : InstrWord) : Bool :=
  let op := (w.extractLsb' 23 6).toNat
  match (w.extractLsb' 29 3).toNat with
  | 1 => op == 0x10 || op == 0x0E
  | 2 => op == 0x10
  | 4 => op == 0x10
  | _ => false

/-- The words that accept an FMTX; their fn is then 0 (Table 03.4). DESIGN CHOICE: whether `TRAPPC` names the prefix or the
word when fn is not 0 the spec does not say; here the word does not accept the prefix, and the prefix is the failing word
(log entry 94). -/
def takesFmtx (w : InstrWord) : Bool :=
  let op := (w.extractLsb' 23 6).toNat
  (w.extractLsb' 29 3).toNat == 3 && (op == 4 || op == 5 || op == 6 || op == 7 || op == 9) && w.extractLsb' 5 6 == 0

/-- The prefix before a word of an engine, if the word does not accept it: then it is the failing word (R63, R64). -/
def Prefix.unaccepted (x : Prefix) (w : InstrWord) : Option (InstrWord × Word) :=
  match x with
  | .none => Option.none
  | .ext .. => if takesExt w then Option.none else x.word
  | .fmtx .. => if takesFmtx w then Option.none else x.word

/-- The body capture after `n` entries of one word (R9 to R11); a LOOPE gives its length. None: the word is illegal. -/
def Capture.next (c : Capture) (n : Nat) (loope : Option Nat) : Option Capture :=
  if c.outer = 0 then
    match loope with
    | some len => some ⟨len, 0⟩
    | none => some c
  else
    match loope with
    | some len => if c.inner = 0 ∧ len ≤ c.outer - 1 then some ⟨c.outer - 1, len⟩ else none
    | none => some ⟨c.outer - n, c.inner - n⟩

/-- The splitter steers a legal word to the queue of its engine, with the prefix before it (R7, R59). -/
def State.steerTo (s : State) (e : Eng) (w : InstrWord) : State :=
  let c := s.cur
  let x := s.ctx
  let isM := w.extractLsb' 29 3 == 7
  let loope := if isM && w.extractLsb' 23 6 == 0 then some (w.extractLsb' 13 8).toNat else none
  match x.pend with
  | some p => s.illegalWord p.word p.at_
  | none =>
    match x.pfx.unaccepted w with
    | some (pw, a) => s.illegalWord pw a
    | none =>
      if isM && loope.isNone && (c.cap e).outer != 0 then s.illegalWord w x.pc
      else
        let y := c.eng e
        let ent (k : InstrWord) (a : Word) (i : Nat) : QEntry := ⟨.word, k, a, (a - c.team.header - 4) >>> 2, c.floor, y.steered + i, c.team.beat⟩
        let es := (match x.pfx.word with | some (pw, a) => [ent pw a 0] | none => []) ++
          [ent w x.pc (if x.pfx == .none then 0 else 1)]
        if y.queue.length + es.length > 64 then s.await (.queue e)
        else
          match (c.cap e).next es.length loope with
          | none => s.illegalWord w x.pc
          | some cap =>
            (s.onCore fun c => (c.setCap e cap).updEng e fun y =>
              { y with queue := y.queue ++ es, steered := y.steered + es.length }).advance

/-- A register write of S that goes through a queue (R82, R83, R89); inside an open body capture it is illegal. -/
def State.queueWrite (s : State) (e : Eng) (kind : QKind) (v : Word) (i : Instr) : State :=
  let c := s.cur
  if (c.cap e).outer != 0 then s.illegal i
  else if (c.eng e).queue.length ≥ 64 then s.await (.queue e)
  else (s.onCore fun c => c.updEng e fun y =>
    { y with queue := y.queue ++ [⟨kind, 0, s.pc, v, c.floor, y.steered, c.team.beat⟩] }).advance

/-! ### Retirement -/

/-- S retires: it stays at its HALT, and each queue gets its halt marker (R23). DESIGN CHOICE: the spec does not say whether
the marker takes one of the 64 entries of R8; here it does not: S retires at once also when a queue is full (log entry 93). -/
def State.retire (s : State) : State :=
  (s.onCtx fun x => { x.goto x.pc with stat := .retired x.pc }).onCore fun c =>
    let mark (y : Engine) : Engine := { y with queue := y.queue ++ [⟨.halt, 0, c.user.pc, 0, 0, y.steered, c.team.beat⟩] }
    { c with l := mark c.l, c := mark c.c, t := mark c.t }

/-- The engine retires when its halt marker is its next word (R23). -/
def Engine.retire (x : Engine) : Engine :=
  match x.outer, x.queue with
  | none, q :: r => if q.kind = .halt then { x with queue := r, stat := .retired } else x
  | _, _ => x

/-- The core has retired for its iteration (R23). -/
def Core.retired (c : Core) : Bool :=
  (match c.user.stat with | .retired _ => true | _ => false) && c.l.stat == .retired && c.c.stat == .retired
    && c.t.stat == .retired && c.l.queue.isEmpty && c.c.queue.isEmpty && c.t.queue.isEmpty

/-! ### Branches of a team stream (R260) -/

/-- The address lies in the body of the run that the member executes. -/
def Team.inBody (t : Team) (a : Word) : Bool :=
  decide (t.header.toNat < a.toNat ∧ a.toNat ≤ t.header.toNat + 4 * t.left)

/-- The current word stands in a run. -/
def State.inRun (s : State) : Bool := s.cur.team.inBody s.pc

/-- A branch is taken. One that leaves the run of a team stream in which it stands is marked: its target is checked when it
is fetched (R80, R260). -/
def State.branch (s : State) (a : Word) : State :=
  let t := s.cur.team
  let s1 := s.jump a
  if t.team.isSome && !s.inHusk && !s.cur.handler && s.inRun && !t.inBody a then
    s1.onCore fun c => { c with team := { c.team with left := 0, jumped := true } }
  else s1

end Sys2Proof.Machine
end

