-- ==== Sys2Proof/Machine/Operands.lean ====
section
/-! DEFINITION. Sys2Proof/Machine/Operands.lean: immediates with their prefix (R59), effective addresses (R96), the operand
forms of engine words (R104), and the format fields of the rotation words (R54, R69). -/

namespace Sys2Proof.Machine

/-- An immediate of S with the high bits of an EXT (R59). -/
def Ctx.imm {n : Nat} (x : Ctx) (f : BitVec n) : Word :=
  match x.pfx with
  | .ext p _ => (p ++ f).signExtend 64
  | _ => f.signExtend 64

/-- An immediate of an engine word with the high bits of an EXT (R59). -/
def Engine.imm {n : Nat} (x : Engine) (f : BitVec n) : Word :=
  match x.pfx with
  | .ext p _ => (p ++ f).signExtend 64
  | _ => f.signExtend 64

/-- EA of an SM or SA word (R96). -/
def State.ea (s : State) (a : BitVec 5) (imm : BitVec 10) (size : Nat) : Word :=
  s.g a + s.ctx.imm imm * BitVec.ofNat 64 size

/-- Sign extension of the low `n` bits. -/
def sextTo (n : Nat) (v : Word) : Word := (BitVec.ofNat n v.toNat).signExtend 64

/-- Zero extension of the low `n` bits. -/
def zextTo (n : Nat) (v : Word) : Word := BitVec.ofNat 64 (v.toNat % 2 ^ n)

/-- The LS address in a `b` register: bits [5:0] and [63:20] taken as 0 (R104). -/
def lsAddr (v : Word) : Nat := v.toNat % 1048576 / 64 * 64

/-- The length of an EM word in 64-byte units; 0 means 128 (Table 03.2). -/
def units (len : BitVec 7) : Nat := if len = 0 then 128 else len.toNat

/-- NA of a hint (R61). -/
def hintNa (h : BitVec 3) : Bool := h.getLsbD 2

/-- The access size of an SA word in bytes. -/
def saSize (z : BitVec 2) : Nat := 2 ^ z.toNat

/-- The access size of an atomic in bytes (Table 03.1). -/
def amoSize (z : BitVec 3) : Nat := if z = 1 then 8 else 4

/-- A format-table entry or an FMTX payload: input and output code, S, N, MX bias (R54, R59). -/
structure FmtSel where
  inp : Nat
  out : Nat
  sat : Bool
  norm : Bool
  bias : Int
  deriving DecidableEq, Repr

/-- The format-table entry that the fn of a rotation word selects: an entry by number, by `lc0` mod 16 or by `lc1` mod 16
(R69), or the FMTX before the word (R59). -/
def State.fmtSel (s : State) (f : BitVec 6) : FmtSel :=
  let x := s.cur.c
  match x.pfx with
  | .fmtx i o t n b _ => ⟨i.toNat, o.toNat, t == 1, n == 1, b.toInt⟩
  | _ =>
    let k := if f.toNat < 16 then f.toNat else if f.toNat = 16 then x.lc0.toNat % 16 else x.lc1.toNat % 16
    let e := Cells.get 0 s.cur.vec.ft k
    ⟨(e.extractLsb' 0 4).toNat, (e.extractLsb' 4 4).toNat, e.getLsbD 8, e.getLsbD 9, (e.extractLsb' 16 8).toInt⟩

end Sys2Proof.Machine
end

