-- ==== Sys2Proof/Machine/Access.lean ====
section
/-! DEFINITION. Sys2Proof/Machine/Access.lean: the accesses of S and of the engines: checks, races, the guard buffer, package
memory with its timestamps, system space with its pending requests (R96 to R104, R115, R283 to R289, R292 to R294, R306). -/

namespace Sys2Proof.Machine

/-! ### Agents of accesses -/

/-- The class of an owner entry and the ranks that a sequencer of an agent matches (R277, R407). -/
def State.whoAt (s : State) (agent : Nat) (q : Seq) (floor : Word) (sync : Bool) : Who :=
  let c := s.core agent
  let user := q != .husk
  let who (engine : Bool) (cls : Nat) (ranks : List Nat) (user : Bool) : Who :=
    { core := agent, q := q, engine := engine, cls := cls, ranks := some ranks, user := user, floor := floor, sync := sync, launch := none,
      buf := c.surrogate && q != .husk }
  if agent < 256 then
    who false (match q with | .s => 1 | .husk => 1 | .l => 2 | .c => 3 | .t => 4) [c.gangRank.toNat] user
  else if agent < 288 then who true 5 [c.gangRank.toNat] true
  else
    let ranks := match s.gangOf agent with
      | some g => (List.range g.members.length).filter fun r => dieOf (g.members.getD r 0) == agent - 288
      | none => []
    who true 6 ranks true

/-- S as it accesses memory. -/
def State.whoS (s : State) (sync : Bool) : Who := s.whoAt s.agent s.who s.cur.floor sync

/-- An engine as it accesses memory: its floor is the one that S had when it steered the word (R300). -/
def State.whoE (s : State) (e : Eng) (sync : Bool) : Who :=
  let floor := ((s.cur.eng e).entry.map fun q => q.floor).getD s.cur.floor
  s.whoAt s.agent e.seq floor sync

/-- An asynchronous operation that the copy engine or the fabric performs for a core (R277). -/
def AOp.who (o : AOp) : Who :=
  { core := o.tok.core, q := .s, engine := true, cls := 5, ranks := some [o.rank], user := true, floor := o.floor, sync := false,
    launch := some o.launch, buf := o.buffered }

/-! ### System space -/

/-- A new system-scope request. -/
def State.sendSys (s : State) (r : SysReq) : State := { s with sys := Cells.put s.sys s.nextId r, nextId := s.nextId + 1 }

/-- The runs of consecutive offsets of a combining buffer, cut at aligned 8 bytes. -/
def combRuns : Cells Byte → List (Nat × List Byte)
  | [] => []
  | (k, b) :: r =>
    match combRuns r with
    | (j, bs) :: rest => if j = k + 1 ∧ j % 8 ≠ 0 then (k, b :: bs) :: rest else (k, [b]) :: (j, bs) :: rest
    | [] => [(k, [b])]

/-- A system-scope write is sent, split at aligned 8 bytes (R292). -/
def State.sendStore (s : State) (core : Nat) (src : SysSrc) (l : Loc) (bs : List Byte) : State :=
  (partsOf 8 (bs.length / 8 + 2) l.key bs.length).foldl
    (fun a x => a.sendSys (.store core src (l.plus (x.1 - l.key)) ((bs.drop (x.1 - l.key)).take x.2))) s

/-- A combining buffer is sent (R100). -/
def State.sendComb (s : State) (core : Nat) (b : Comb) : State :=
  (combRuns b.bytes).foldl (fun a r => a.sendSys (.store core (.seq .s) (b.loc.plus r.1) r.2)) s

/-- Every combining buffer of a core is sent, the oldest first (R102). -/
def State.sendAllCombs (s : State) (core : Nat) : State :=
  let bs := (s.core core).comb
  (bs.foldl (fun a b => a.sendComb core b) s).updCore core fun c => { c with comb := [] }

/-- The buffers of a core that hold a part of the 64 bytes are sent, so that later writes stay behind (R294). -/
def State.sendCombAt (s : State) (core : Nat) (l : Loc) : State :=
  let mine := (s.core core).comb.filter fun b => b.loc.key / 64 == l.key / 64
  (mine.foldl (fun a b => a.sendComb core b) s).updCore core fun c =>
    { c with comb := c.comb.filter fun (b : Comb) => b.loc.key / 64 != l.key / 64 }

/-- The place of the 64 bytes around a place. -/
def Loc.line64 : Loc → Loc
  | .pkg a => .pkg (a / 64 * 64)
  | .scratch p o => .scratch p (o / 64 * 64)
  | .host a => .host (a / 64 * 64)
  | .peer d a => .peer d (a / 64 * 64)

/-- A system-scope store with NA set goes into a combining buffer; a full one is sent, and with all eight busy the oldest
goes first (R100). -/
def State.combine (s : State) (core : Nat) (l : Loc) (bs : List Byte) : State :=
  let base := l.line64
  let off := l.key % 64
  let fill (b : Comb) : Comb :=
    { b with bytes := ((List.range bs.length).zip bs).foldl (fun a x => Cells.put a (off + x.1) x.2) b.bytes }
  let c := s.core core
  let s1 := match c.comb.find? fun b => b.loc == base with
    | some _ => s.updCore core fun c => { c with comb := c.comb.map fun (b : Comb) => if b.loc == base then fill b else b }
    | none =>
      let s0 := if c.comb.length < 8 then s else
        match c.comb with
        | [] => s
        | b :: r => (s.sendComb core b).updCore core fun c => { c with comb := r }
      s0.updCore core fun c => { c with comb := c.comb ++ [fill ⟨base, []⟩] }
  match (s1.core core).comb.find? fun b => b.loc == base with
  | some b => if b.bytes.length = 64 then s1.sendCombAt core base else s1
  | none => s1

/-- The bytes that earlier stores of S, not yet acknowledged, give to a part of a load (R99), by place. -/
def State.ownBytes (s : State) (core : Nat) (q : Seq) (l : Loc) (n : Nat) : Cells Byte :=
  let put (a : Cells Byte) (l' : Loc) (bs : List Byte) : Cells Byte :=
    ((List.range bs.length).zip bs).foldl (fun a x =>
      let k := (l'.plus x.1).key
      if l.key ≤ k ∧ k < l.key + n then Cells.put a k x.2 else a) a
  let a1 := s.sys.foldl (fun a x => match x.2 with | .store c (.seq q') l' bs => if c = core ∧ q' = q then put a l' bs else a | _ => a) []
  (s.core core).comb.foldl (fun a b => b.bytes.foldl (fun a x => put a (b.loc.plus x.1) [x.2]) a) a1

/-- A read of a part of system space. A plain one takes the device copy where one is held, and may leave one where none is;
any other reads the place itself (R293). Whether a copy is still
held, and whether one is made, is open (log entry 13). -/
def State.readSys (s : State) (l : Loc) (n : Nat) (plain : Bool) : State × Nat :=
  let k := l.line.key / 128
  if !plain then (s, s.natAt l n)
  else
    let held := (Cells.find? s.devCopies k).bind fun d => if Config.choice s.fresh 600 k then some d else none
    match held with
    | some d => (s, d.toNat / 256 ^ l.off % 256 ^ n)
    | none =>
      ({ s with devCopies := if Config.choice s.fresh 601 k then Cells.put s.devCopies k (s.lineData l) else Cells.del s.devCopies k },
        s.natAt l n)

/-- A line's bytes with some of them replaced, from an offset on. -/
def patchLine (d : BitVec 1024) (off : Nat) (bs : List Byte) : BitVec 1024 :=
  BitVec.ofNat 1024 (natOf (((bytesOf 128 d.toNat).take off ++ bs ++ (bytesOf 128 d.toNat).drop (off + bs.length))))

/-- A write of system space that the root complex or the peer performs; a device copy takes its bytes (R293). -/
def State.writeSys (s : State) (l : Loc) (bs : List Byte) : State :=
  let s1 := s.putNat l bs.length (natOf bs)
  let k := l.line.key / 128
  match Cells.find? s1.devCopies k with
  | some d => { s1 with devCopies := Cells.put s1.devCopies k (patchLine d l.off bs) }
  | none => s1

/-! ### Races and the guard buffer -/

/-- Race mode 2: every racing sector of an access is logged once (R301). -/
def State.logRaces (s : State) (w : Who) (writes : Bool) (ps : List (Loc × Nat × Nat)) : State :=
  ((s.racesOf w ps).filter fun x => s.raceModeAt w (BitVec.ofNat 64 x.1) == 2).foldl (fun a x => a.logRace w x.1 writes x.2) s

/-- Race mode 1: the first racing sector of an access (R301). -/
def State.trapRace (s : State) (w : Who) (ps : List (Loc × Nat × Nat)) : Option Flt :=
  ((s.racesOf w ps).find? fun x => s.raceModeAt w (BitVec.ofNat 64 x.1) == 1).map fun x => ⟨0x07, BitVec.ofNat 64 x.1, x.2⟩

/-- The access is served at its home and allocates nowhere: NA, or a checked window (R100, R299). -/
def State.homeOnly (s : State) (w : Who) (na : Bool) (va : Nat) : Bool :=
  na || s.raceModeAt w (BitVec.ofNat 64 va) != 0

/-- A guard buffer has room for the sectors of some places (R306). -/
def State.guardRoom (s : State) (agent : Nat) (ps : List (Loc × Nat × Nat)) : Bool :=
  let old := guardSectors (s.core agent).guard
  let new := (ps.map fun p => p.1.key / 32).foldl (fun a k => if old.contains k || a.contains k then a else k :: a) []
  decide (old.length + new.length ≤ s.guardEntries agent)

/-- A buffered write (R306). -/
def State.guardWrite (s : State) (agent : Nat) (l : Loc) (va n v : Nat) : State :=
  let a := BitVec.ofNat 64 (va / 128 * 128)
  s.updCore agent fun c =>
    { c with guard := guardPut c.guard l n v, guardVas := if c.guardVas.contains a then c.guardVas else c.guardVas ++ [a] }

/-- A value that a read takes from the guard buffer where the buffer holds bytes (R306). -/
def State.forward (s : State) (w : Who) (l : Loc) (n v : Nat) : Nat :=
  if w.buf then guardMerge (s.core w.core).guard l n v else v

/-! ### Loads and stores of S -/

/-- The lines of the previous load of the context whose turn it is (R285). -/
def State.lastLine (s : State) : List Nat := if s.inHusk then s.cur.huskLine else s.cur.lastLine

/-- The context whose turn it is loads from the lines of some parts. -/
def State.noteLines (s : State) (ps : List (Loc × Nat × Nat)) : State :=
  let ls := (ps.map fun p => p.1.line.key).eraseDups
  s.onCore fun c => if s.inHusk then { c with huskLine := ls } else { c with lastLine := ls }

/-- PTS before an S load that hits in L1 rises by 1 if the previous S load read the same line (R285): one line of the load for
which both hold is enough. The load's lines are noted. -/
def State.spin (s : State) (w : Who) (na : Bool) (ps : List (Loc × Nat × Nat)) : State :=
  let again := ps.any fun p =>
    !s.homeOnly w na p.2.1 && s.lastLine.contains p.1.line.key && (s.hit p.1 s.pts [⟨s.agent, 0⟩]).isSome
  (if again then s.raisePts (s.pts + 1) else s).noteLines ps

/-- One part of a load of S in package memory or scratch (R283, R288). -/
def State.loadPart (s : State) (w : Who) (na : Bool) (x : Loc × Nat × Nat) : State × Nat :=
  let (l, va, n) := x
  let hs := if s.homeOnly w na va then [] else s.holders s.agent va
  let (s1, v, r) := s.readAt hs (s.leaseOf s.agent) s.pts l n
  (s1.raisePts r, s.forward w l n v)

/-- The parts of a load in increasing address order. -/
def State.loadParts (s : State) (w : Who) (na : Bool) : List (Loc × Nat × Nat) → State × Nat
  | [] => (s, 0)
  | x :: r =>
    let (s1, v) := s.loadPart w na x
    let (s2, u) := s1.loadParts w na r
    (s2, v + 256 ^ x.2.2 * u)

/-- What a checked load of S comes to. -/
inductive LoadOut where
  /-- The value, and the state after the access. -/
  | value (s : State) (v : Nat)
  /-- The data is on its way from system space, and gd gets it when it arrives. -/
  | sent (s : State)

/-- The walks of an access leave their leaves in the TLBs, also of one that is refused (R351). -/
def State.noteWalks (s : State) (w : Who) (vas : List Nat) : State :=
  vas.foldl (fun a va => a.noteTlb w.core (!w.user) (BitVec.ofNat 64 va)) s

/-- The lines that an access touches in the shared cache get its class, and its walks leave their leaves in the TLBs (R278,
R351). -/
def State.touchAll (s : State) (w : Who) (hint : BitVec 3) (dirty : Bool) (ps : List (Loc × Nat × Nat)) : State :=
  ps.foldl (fun a p =>
    let va := BitVec.ofNat 64 p.2.1
    (a.noteTlb w.core (!w.user) va).touchFor w (a.classOf w va hint) dirty p.1 va) s

/-- The parts of a load that spans spaces: those in package memory or scratch perform now, and their bytes join those that
earlier stores of S give to the others (R97, R99, R283). -/
def State.sendParts (s : State) (w : Who) (na : Bool) : List (Loc × Nat × Nat) → State × Cells Byte
  | [] => (s, [])
  | x :: r =>
    let put (a : Cells Byte) (l : Loc) (bs : List Byte) : Cells Byte :=
      ((List.range bs.length).zip bs).foldl (fun b y => Cells.put b (l.plus y.1).key y.2) a
    if x.1.isSystem then
      let (s1, m) := s.sendParts w na r
      (s1, (s.ownBytes s.agent s.who x.1 x.2.2).foldl (fun b y => Cells.put b y.1 y.2) m)
    else
      let (s1, v) := s.loadPart w na x
      let (s2, m) := s1.sendParts w na r
      (s2, put m x.1 (bytesOf x.2.2 v))

/-- A load of S whose checks have passed (R97, R98, R293, R299). -/
def State.doLoad (s : State) (w : Who) (hint : BitVec 3) (ps : List (Loc × Nat × Nat)) (gd : BitVec 5) (signed plain : Bool) :
    LoadOut :=
  let s1 := (s.logRaces w false ps).touchAll w hint false ps
  if ps.any fun p => p.1.isSystem then
    let (s2, data) := (s1.spin w (hintNa hint) ps).sendParts w (hintNa hint) ps
    .sent (s2.sendSys (.load s.agent s.inHusk ps data gd signed (plain && !hintNa hint) w.sync))
  else
    let (s2, v) := (s1.spin w (hintNa hint) ps).loadParts w (hintNa hint) ps
    .value s2 v

/-- The requests that a core has outstanding: system-scope accesses of its sequencers, requests at homes, ordered atomics. -/
def State.outstanding (s : State) (core : Nat) : Nat :=
  (s.sys.filter fun x => match x.2 with
    | .store c (.seq _) .. => c == core
    | .load c .. => c == core
    | _ => false).length + (s.reqs.filter fun x => x.2.core == core).length + (s.aoseqs.filter fun x => x.2.core == core).length

/-- The core has 512 requests outstanding: S issues no load, store or reduction (R99). -/
def State.coreFull (s : State) : Bool := decide (s.outstanding s.agent ≥ 512)

/-- S may send no more loads: it has 64 outstanding (R99). -/
def State.loadsFull (s : State) : Bool :=
  decide ((s.sys.filter fun x => match x.2 with | .load c h .. => c == s.agent && h == s.inHusk | _ => false).length ≥ 64)

/-- A load of S: its checks, then the access, then `k` with the value (R98). -/
def sLoad (va : Word) (n : Nat) (hint : BitVec 3) (gd : BitVec 5) (signed plain sync : Bool) (k : State → Nat → State)
    (s : State) : State :=
  let w := s.whoS sync
  let cut := partsOf 8 n va.toNat n
  match s.checkAll w .read cut with
  | .error none => s.await .memory
  | .error (some f) => (s.noteWalks w (cut.map fun p => p.1)).takeTrap f s.aAddr
  | .ok ps =>
    match s.trapRace w ps with
    | some f => s.takeTrap f s.aAddr
    | none =>
      if s.coreFull || ((ps.any fun p => p.1.isSystem) && s.loadsFull) then s.await .memory
      else
        match s.doLoad w hint ps gd signed plain with
        | .value s1 v => k s1 v
        | .sent s1 => s1.advance

/-- One part of a store of S (R284): the writer's L1 and pod-cache copies become the new line. -/
def State.storePart (s : State) (w : Who) (na posted : Bool) (x : Loc × Nat × Nat) (v : Nat) : State :=
  let (l, va, n) := x
  if l.isSystem then
    if na && posted then s.combine s.agent l (bytesOf n v)
    else (s.sendCombAt s.agent l).sendStore s.agent (.seq s.who) l (bytesOf n v)
  else
    let (s1, t) := s.writeAt (s.holders s.agent va) (s.homeOnly w na va) s.pts l n v
    (s1.raisePts t).noteWrite w (BitVec.ofNat 64 va) l n t

def State.storeParts (s : State) (w : Who) (na posted : Bool) : List (Loc × Nat × Nat) → Nat → State
  | [], _ => s
  | x :: r, v => (s.storePart w na posted x v).storeParts w na posted r (v / 256 ^ x.2.2)

/-- A write of S to its guard buffer, part by part (R306). -/
def State.guardParts (s : State) : List (Loc × Nat × Nat) → Nat → State
  | [], _ => s
  | x :: r, v => (s.guardWrite s.agent x.1 x.2.1 x.2.2 v).guardParts r (v / 256 ^ x.2.2)

/-- S may post no more stores: it has 64 outstanding (R99). -/
def State.storesFull (s : State) : Bool :=
  decide ((s.sys.filter fun x => match x.2 with | .store c (.seq q) .. => c == s.agent && q == s.who | _ => false).length ≥ 64)

/-- A store of S: its checks, then the access (R98, R100, R306). `posted` marks an ordinary store. -/
def sStore (va : Word) (n : Nat) (hint : BitVec 3) (v : Nat) (posted sync : Bool) (k : State → State) (s : State) : State :=
  let w := s.whoS sync
  let cut := partsOf 8 n va.toNat n
  match s.checkAll w .write cut with
  | .error none => s.await .memory
  | .error (some f) => (s.noteWalks w (cut.map fun p => p.1)).takeTrap f s.aAddr
  | .ok ps =>
    match s.trapRace w ps with
    | some f => s.takeTrap f s.aAddr
    | none =>
      let system := ps.any fun p => p.1.isSystem
      if s.cur.surrogate && !s.inHusk then
        if system then s.fallback s.agent 0x85
        else if s.guardRoom s.agent ps then k (((s.noteWalks w (cut.map fun p => p.1)).logRaces w true ps).guardParts ps v)
        else s.fallback s.agent 0x80
      else if s.coreFull || (system && s.storesFull) then s.await .memory
      else k (((s.logRaces w true ps).touchAll w hint true ps).storeParts w (hintNa hint) posted ps v)

/-! ### Atomics -/

/-- The accumulator in the 128 bytes of a slot (R52). -/
def slotOf (v : Nat) : Accum := Accum.ofParts (v % 2 ^ 640) (v / 2 ^ 640 % 256)

/-- The 128 bytes of a slot (R52). -/
def slotBytes (q : Accum) : Nat := q.val.toNat + 2 ^ 640 * q.flags

/-- The result that an operation returns and the new memory value, by fn of Table 05.4; fn 10 acts on a slot (R116). -/
def atomicStep (fn size m : Nat) (v : Word) : Nat × Nat :=
  if fn = 10 then ((slotOf m).read, slotBytes ((slotOf m).addTerm (fp32.decode (v.toNat % 2 ^ 32))))
  else (m, (atomicValue fn size (BitVec.ofNat 64 m) v).toNat)

/-- Bytes that an operation reads and writes: a slot for XADD (R115). -/
def atomicBytes (fn size : Nat) : Nat := if fn = 10 then 128 else size

/-- An atomic at its home (R115): one read and one write at one timestamp. Answers the state, the value read, the new
timestamp. System space has no timestamps (R292). -/
def State.atomicAt (s : State) (hs : List Holder) (na : Bool) (p : Word) (l : Loc) (n : Nat) (f : Nat → Nat) : State × Nat × Word :=
  let m := s.natAt l n
  if l.isSystem then (s.writeSys l (bytesOf n (f m)), m, p)
  else
    let (s1, t) := s.writeAt hs na p l n (f m)
    (s1, m, t)

/-- An atomic that an agent performs on the line of an address, with its shadow records. In a checked window it leaves no
copy (R115, R284, R299, R300). -/
def State.atomicFor (s : State) (w : Who) (p : Word) (l : Loc) (va : Word) (n : Nat) (f : Nat → Nat) : State × Nat × Word :=
  let (s1, m, t) := s.atomicAt (s.holders w.core va.toNat) (s.homeOnly w false va.toNat) p l n f
  (s1.noteWrite w va l n t, m, t)

/-- The checks of an atomic of S: alignment, translation and permission, window, race (R115, R98); `late` for one that does not
return (R116). -/
def atomicCheck (late : Bool) (va : Word) (align n : Nat) (k : Loc → State → State) (s : State) : State :=
  let w : Who := { s.whoS true with late := late }
  if va.toNat % align ≠ 0 then s.takeTrap ⟨0x03, va, 0⟩ s.pc
  else
    let cut := partsOf 128 2 va.toNat n
    match s.checkAll w .atomic cut with
    | .error none => s.await .memory
    | .error (some f) => (s.noteWalks w (cut.map fun p => p.1)).takeTrap f s.pc
    | .ok ps =>
      match s.trapRace w ps with
      | some f => s.takeTrap f s.pc
      | none =>
        if s.coreFull then s.await .memory
        else match ps with
        | (l, _, _) :: _ => k l ((s.logRaces w true ps).touchAll w 0 true ps)
        | [] => s

/-! ### Granules of the engines -/

/-- The granules of a range that pass their checks, up to the first that does not. -/
def State.plan (s : State) (w : Who) (acc : Acc) : List (Nat × Nat) → List (Loc × Nat × Nat) × Option Chk
  | [] => ([], none)
  | (va, n) :: r =>
    match s.check w acc (BitVec.ofNat 64 va) with
    | .ok l =>
      let (ps, e) := s.plan w acc r
      ((l, va, n) :: ps, e)
    | e => ([], some e)

/-- The granules of `n` bytes from an address on (R104). -/
def granules (va : Word) (n : Nat) : List (Nat × Nat) := partsOf 32 (n / 32 + 2) va.toNat n

/-- A race of a granule in mode 1: the granule performs, and the engine stops at the next command boundary (R301); in the
surrogate phase nothing buffered races. -/
def State.engRace (s : State) (e : Eng) (w : Who) (x : Loc × Nat × Nat) (writes : Bool) : State :=
  let s1 := s.logRaces w writes [x]
  match s.trapRace w [x], s1.cur.engTrap with
  | some f, none =>
    let y := s1.cur.eng e
    let q := y.entry.getD ⟨.halt, 0, 0, 0, 0, 0, 0⟩
    s1.onCore fun c => { c with engTrap := some ⟨e, f, q.at_, q.pos, 0, y.iterNo, false, y.pts, false⟩ }
  | _, _ => s1

/-- The walks of some granules that a command has planned, and of the one that failed (R351). -/
def State.noteGranules (s : State) (w : Who) (cut : List (Nat × Nat)) (oks : Nat) : State :=
  s.noteWalks w ((cut.take (oks + 1)).map fun p => p.1)

/-- A granule read by an engine with a base timestamp: the value and the granule's timestamp (R289). -/
def State.granRead (s : State) (w : Who) (na : Bool) (base : Word) (x : Loc × Nat × Nat) : State × Nat × Word :=
  let (l, va, n) := x
  if l.isSystem then
    let (s1, v) := s.readSys l n (!na)
    (s1, s.forward w l n v, base)
  else
    let hs := if s.homeOnly w na va then [] else s.holders w.core va
    let (s1, v, t) := s.readAt hs (s.leaseOf w.core) base l n
    (s1, s.forward w l n v, t)

/-- A granule written by an engine with a base timestamp (R289); a system-scope granule is sent. -/
def State.granWrite (s : State) (w : Who) (src : SysSrc) (na : Bool) (base : Word) (x : Loc × Nat × Nat) (v : Nat) :
    State × Word :=
  let (l, va, n) := x
  if w.buf then (s.guardWrite w.core l va n v, base)
  else if l.isSystem then (s.sendStore w.core src l (bytesOf n v), base)
  else
    let (s1, t) := s.writeAt (s.holders w.core va) (s.homeOnly w na va) base l n v
    (s1.noteWrite w (BitVec.ofNat 64 va) l n t, t)

end Sys2Proof.Machine
end

