-- ==== Sys2Proof/Machine/Layouts.lean ====
section
/-! DEFINITION. Sys2Proof/Machine/Layouts.lean: layout records and mirrored tiles (R188, R189), stream descriptors and slots
(R196 to R198). -/

namespace Sys2Proof.Machine

/-- `n` bytes at an offset of a record read as one number. -/
def fieldAt (v off n : Nat) : Nat := v / 256 ^ off % 256 ^ n

/-- The fields of the dimensions 0 to 4 in a record: offset of the first, bytes of each. -/
def dims (v off n : Nat) : List Nat := (List.range 5).map fun d => fieldAt v (off + n * d) n

/-- A layout record (Table 08.1); none: it is invalid (R188). -/
def parseLayout (v : Nat) : Option Layout :=
  let rank := fieldAt v 9 1
  let mirror := fieldAt v 10 1
  let format := fieldAt v 11 1
  let ext := dims v 16 4
  let str := (dims v 40 8).map (signedOf 64)
  let org := (dims v 80 4).map (signedOf 32)
  let shp := dims v 100 4
  let reserved := fieldAt v 12 4 == 0 && fieldAt v 36 4 == 0 && fieldAt v 120 8 == 0 && decide (mirror < 32) && decide (format < 16)
  let below := (List.range rank).all fun d => ext.getD d 0 != 0 && shp.getD d 0 != 0
  let above := (List.range 5).all fun d => decide (d < rank) ||
    (ext.getD d 0 == 0 && str.getD d 0 == 0 && org.getD d 0 == 0 && shp.getD d 0 == 0 && mirror / 2 ^ d % 2 == 0)
  if reserved && decide (fieldAt v 8 1 ≤ 3) && decide (1 ≤ rank ∧ rank ≤ 5) && below && above then
    some { base := BitVec.ofNat 64 (fieldAt v 0 8), esz := fieldAt v 8 1, rank := rank, mirror := mirror, format := format,
           extent := ext.take rank, stride := str.take rank, origin := org.take rank, shape := shp.take rank }
  else none

/-- Elements of the tile. -/
def Layout.count (l : Layout) : Nat := l.shape.foldl (fun a n => a * n) 1

/-- The position of the t-th element, dimension 0 fastest. -/
def tilePos : List Nat → Nat → List Nat
  | [], _ => []
  | n :: r, t => t % n :: tilePos r (t / n)

/-- The coordinates of the t-th element (R189). -/
def Layout.coords (l : Layout) (t : Nat) : List Int :=
  List.zipWith (fun o p => o + (p : Nat)) l.origin (tilePos l.shape t)

/-- M of R189: the coordinate that a position outside the extent is read from. -/
def mirrorIndex (i : Int) (n : Nat) (rep : Bool) : Nat :=
  if n = 1 then 0
  else if rep then
    let j := (i % (2 * n : Nat)).toNat
    if j ≥ n then 2 * n - 1 - j else j
  else
    let j := (i % (2 * n - 2 : Nat)).toNat
    if j ≥ n then 2 * n - 2 - j else j

/-- The element lies within the extents (R189). -/
def Layout.genuine (l : Layout) (t : Nat) : Bool :=
  (List.zipWith (fun (c : Int) (n : Nat) => decide (0 ≤ c ∧ c < n)) (l.coords t) l.extent).all id

/-- The address of an element, mirrored (R189). -/
def Layout.addr (l : Layout) (t : Nat) : Word :=
  let m := List.zipWith (fun d x => mirrorIndex x.1 x.2 (l.mirror / 2 ^ d % 2 == 1)) (List.range 5) (List.zip (l.coords t) l.extent)
  l.base + BitVec.ofInt 64 ((List.zipWith (fun s i => s * ((i : Nat) : Int)) l.stride m).foldl (fun a b => a + b) 0)

/-! ### Streams -/

/-- A stream descriptor (Table 08.5). -/
structure Stream where
  slots : Nat
  side : Nat
  size : Nat
  count : Nat
  deriving DecidableEq, Repr

/-- The slot sizes by code (Table 08.5). -/
def slotSize (c : Nat) : Nat := ([32, 48, 64, 96] : List Nat).getD c 32

/-- A descriptor; none: invalid, or a reserved byte is nonzero (R198). -/
def parseStream (v : Nat) : Option Stream :=
  let code := fieldAt v 16 1
  let t := slotSize code
  if code ≤ 3 ∧ fieldAt v 17 3 = 0 ∧ fieldAt v 24 8 = 0 ∧ fieldAt v 0 8 % t = 0 ∧ fieldAt v 8 8 % 128 = 0 then
    some ⟨fieldAt v 0 8, fieldAt v 8 8, t, fieldAt v 20 4⟩
  else none

/-- What a slot holds (Table 08.6). -/
inductive SlotOut where
  | codes (l : List Nat)
  | escape (offset : Nat)
  deriving DecidableEq, Repr

/-- The running sums of mode 1, modulo 65,536. -/
def runningSum (c : Int) : List Int → List Nat
  | [] => []
  | d :: r => ((c + d) % 65536).toNat :: runningSum (c + d) r

/-- A slot of T bytes decoded (Table 08.6); none: it fails its check (R198). -/
def decodeSlot (t v : Nat) : Option SlotOut :=
  let padded (n : Nat) : Bool := decide (n ≤ t) && v / 256 ^ n == 0
  match v % 256 with
  | 0x00 => if padded 1 then some (.codes (List.replicate 64 0)) else none
  | 0x01 =>
    if padded 35 then
      some (.codes (runningSum (fieldAt v 1 2) ((List.range 64).map fun i => signedOf 4 (v / 2 ^ (24 + 4 * i) % 16))))
    else none
  | 0x02 =>
    let sh := fieldAt v 1 1
    if padded 50 && decide (sh ≤ 10) then
      some (.codes ((List.range 64).map fun i => ((signedOf 6 (v / 2 ^ (16 + 6 * i) % 64) * (2 ^ sh : Nat)) % 65536).toNat))
    else none
  | 0xFF =>
    let o := fieldAt v 1 5
    if padded 6 && o % 128 == 0 then some (.escape o) else none
  | _ => none

/-- The 128 bytes of 64 codes of 16 bits. -/
def codeBytes (l : List Nat) : List Byte := l.flatMap fun c => bytesOf 2 c

end Sys2Proof.Machine
end

