-- ==== Sys2Proof/Machine/Record.lean ====
section
/-! DEFINITION. Sys2Proof/Machine/Record.lean: recording and replay (R396, R397): what a FADD arrival and the admission of a
launch do to the record, and when they are held. -/

namespace Sys2Proof.Machine

/-- The mode of recording that `RECCTL` gives a partition: 0 off, 1 record, 2 replay; it names one partition (R396). -/
def State.recMode (s : State) (part : Nat) : Nat :=
  let r := (Cells.get 0 s.pf 0x0300).toNat
  if r % 32 = part then r / 256 % 4 else 0

/-- Entries that the ring holds: 2 to the power at offset `0x0310` (R396). -/
def State.recSize (s : State) : Nat := 2 ^ ((Cells.get 0 s.pf 0x0310).toNat % 32)

/-- The ring has room. UNVERIFIED: the spec names no register by which a reader frees entries of a full ring; whether it has
is open (log entry 117). -/
def State.recRoom (s : State) (n : Nat) : Bool := decide (s.recs.entries.length + n ≤ s.recSize) || Config.choice s.fresh 641 n

/-- The 32 bytes of an entry: those of the command, or bytes whose layout the spec does not give (log entry 117). -/
def RecEntry.bytes (seed : Nat) : RecEntry → Nat
  | .command b => natOf b
  | _ => Config.freeNat seed 642

/-- An entry is appended, and written to the ring as one 32-byte access at the base of offset `0x0308`. DESIGN CHOICE: the base is
a physical address of package memory, and the ring is filled modulo its size (log entry 117). -/
def State.recPut (s : State) (e : RecEntry) : State :=
  let a := (Cells.get 0 s.pf 0x0308).toNat + 32 * (s.recs.entries.length % s.recSize)
  { (s.writeAt [] true 0 (.pkg a) 32 (e.bytes s.fresh)).1 with recs := { s.recs with entries := s.recs.entries ++ [e] } }

/-- Entries are appended in order. -/
def State.recAppend (s : State) (es : List RecEntry) : State := es.foldl State.recPut s

/-- The replay key of the next FADD of an agent (R396). -/
def State.faddKey (s : State) (agent : Nat) : List Nat :=
  ((s.launchOf agent).map fun l => l.key).getD [] ++
    [(s.core agent).iter.toNat, (s.core agent).gangRank.toNat, (s.core agent).fadds]

/-- The line of an address, as an entry names it: the address of the line, so that a replay may place it elsewhere. -/
def faddLine (va : Word) : Nat := va.toNat / 128

/-- How many FADD arrivals of a line the record holds, or the replay has performed. -/
def State.faddIndex (s : State) (part line : Nat) : Nat :=
  if s.recMode part = 2 then Cells.get 0 s.recs.performed line
  else (s.recs.entries.filter fun e => match e with | .fadd l _ _ => l == line | _ => false).length

/-- Whether a FADD arrival performs now: in record mode while the ring has room, in replay mode when it is the next one of
its line (R396, R397). -/
def State.faddGo (s : State) (part line : Nat) (key : List Nat) : Bool :=
  match s.recMode part with
  | 1 => s.recRoom 1
  | 2 => s.recs.entries.contains (.fadd line key (s.faddIndex part line))
  | _ => true

/-- A FADD arrival has performed. -/
def State.faddDone (s : State) (part line : Nat) (key : List Nat) : State :=
  let i := s.faddIndex part line
  match s.recMode part with
  | 1 => s.recPut (.fadd line key i)
  | 2 => { s with recs := { s.recs with performed := Cells.put s.recs.performed line (i + 1) } }
  | _ => s

/-- The keys of the launches in the record, in the order of their admission. -/
def launchKeys : List RecEntry → List (List Nat)
  | [] => []
  | .launch k :: r => k :: launchKeys r
  | _ :: r => launchKeys r

/-- Whether a launch may be admitted now: in replay mode only as the next one of the record (R397). -/
def State.admitGo (s : State) (part : Nat) (key : List Nat) : Bool :=
  match s.recMode part with
  | 1 => s.recRoom 1
  | 2 => (launchKeys s.recs.entries)[s.recs.admitted]? == some key
  | _ => true

/-- A launch has been admitted. -/
def State.admitDone (s : State) (part : Nat) (key : List Nat) : State :=
  match s.recMode part with
  | 1 => s.recPut (.launch key)
  | 2 => { s with recs := { s.recs with admitted := s.recs.admitted + 1 } }
  | _ => s

/-- The FADD arrivals of a launch that the record holds: line, key and index. A key is that of the launch with `ITER`,
`GANG_RANK` and a count behind it (R396). -/
def State.recordedOf (s : State) (key : List Nat) : List (Nat × List Nat × Nat) :=
  s.recs.entries.filterMap fun e =>
    match e with
    | .fadd line k i => if k.take key.length = key ∧ k.length = key.length + 3 then some (line, k, i) else none
    | _ => none

end Sys2Proof.Machine
end

