-- ==== Sys2Proof/Machine/Memory.lean ====
section
/-! DEFINITION. Sys2Proof/Machine/Memory.lean: the meanings of the scalar loads and stores, the ordering accesses, the atomics,
the fences and the cache operations (spec/05). -/

namespace Sys2Proof.Machine

/-! ### Loads and stores (R97) -/

/-- A zero-extending load of `n` bytes. -/
def loadZ (n : Nat) (d a : BitVec 5) (h : BitVec 3) (i : BitVec 10) (s : State) : State :=
  sLoad (s.ea a i n) n h d false true false (fun s v => (s.setG d (BitVec.ofNat 64 v)).advance) s

/-- A sign-extending load of `n` bytes. -/
def loadS (n : Nat) (d a : BitVec 5) (h : BitVec 3) (i : BitVec 10) (s : State) : State :=
  sLoad (s.ea a i n) n h d true true false (fun s v => (s.setG d (sextTo (8 * n) (BitVec.ofNat 64 v))).advance) s

/-- A store of the low `n` bytes of gs. -/
def storeN (n : Nat) (g a : BitVec 5) (h : BitVec 3) (i : BitVec 10) (s : State) : State :=
  sStore (s.ea a i n) n h (s.g g).toNat true false State.advance s

/-- LD8. -/
def execLd8 (d a : BitVec 5) (h : BitVec 3) (i : BitVec 10) (s : State) : Host.Outcome State Fault Refusal :=
  .next (sWord true (.ld8 d a h i) (loadZ 1 d a h i) s)

/-- LD16. -/
def execLd16 (d a : BitVec 5) (h : BitVec 3) (i : BitVec 10) (s : State) : Host.Outcome State Fault Refusal :=
  .next (sWord true (.ld16 d a h i) (loadZ 2 d a h i) s)

/-- LD32. -/
def execLd32 (d a : BitVec 5) (h : BitVec 3) (i : BitVec 10) (s : State) : Host.Outcome State Fault Refusal :=
  .next (sWord true (.ld32 d a h i) (loadZ 4 d a h i) s)

/-- LD64. -/
def execLd64 (d a : BitVec 5) (h : BitVec 3) (i : BitVec 10) (s : State) : Host.Outcome State Fault Refusal :=
  .next (sWord true (.ld64 d a h i) (loadZ 8 d a h i) s)

/-- LDS8. -/
def execLds8 (d a : BitVec 5) (h : BitVec 3) (i : BitVec 10) (s : State) : Host.Outcome State Fault Refusal :=
  .next (sWord true (.lds8 d a h i) (loadS 1 d a h i) s)

/-- LDS16. -/
def execLds16 (d a : BitVec 5) (h : BitVec 3) (i : BitVec 10) (s : State) : Host.Outcome State Fault Refusal :=
  .next (sWord true (.lds16 d a h i) (loadS 2 d a h i) s)

/-- LDS32. -/
def execLds32 (d a : BitVec 5) (h : BitVec 3) (i : BitVec 10) (s : State) : Host.Outcome State Fault Refusal :=
  .next (sWord true (.lds32 d a h i) (loadS 4 d a h i) s)

/-- ST8. -/
def execSt8 (g a : BitVec 5) (h : BitVec 3) (i : BitVec 10) (s : State) : Host.Outcome State Fault Refusal :=
  .next (sWord true (.st8 g a h i) (storeN 1 g a h i) s)

/-- ST16. -/
def execSt16 (g a : BitVec 5) (h : BitVec 3) (i : BitVec 10) (s : State) : Host.Outcome State Fault Refusal :=
  .next (sWord true (.st16 g a h i) (storeN 2 g a h i) s)

/-- ST32. -/
def execSt32 (g a : BitVec 5) (h : BitVec 3) (i : BitVec 10) (s : State) : Host.Outcome State Fault Refusal :=
  .next (sWord true (.st32 g a h i) (storeN 4 g a h i) s)

/-- ST64. -/
def execSt64 (g a : BitVec 5) (h : BitVec 3) (i : BitVec 10) (s : State) : Host.Outcome State Fault Refusal :=
  .next (sWord true (.st64 g a h i) (storeN 8 g a h i) s)

/-! ### Ordering accesses (R101 to R103) -/

/-- LDAQ: an aligned load that sets SYNC_FLOOR; with .SYS it reads host memory itself. -/
def execLdaq (d a : BitVec 5) (z : BitVec 2) (y : BitVec 1) (i : BitVec 10) (s : State) : Host.Outcome State Fault Refusal :=
  .next (sWord true (.ldaq d a z y i) (fun s =>
    let n := saSize z
    let va := s.ea a i n
    if va.toNat % n ≠ 0 then s.takeTrap ⟨0x03, va, 0⟩ s.pc
    else sLoad va n 0 d false (y == 0) true (fun s v => ((s.setG d (BitVec.ofNat 64 v)).setFloor).advance) s) s)

/-- STRL: an aligned store that waits for the earlier accesses of S; with .SYS it sends the combining buffers and waits for
the acknowledgements too. -/
def execStrl (g a : BitVec 5) (z : BitVec 2) (y : BitVec 1) (i : BitVec 10) (s : State) : Host.Outcome State Fault Refusal :=
  .next (sWord true (.strl g a z y i) (fun s =>
    let n := saSize z
    let va := s.ea a i n
    if va.toNat % n ≠ 0 then s.takeTrap ⟨0x03, va, 0⟩ s.pc
    else
      let s1 := if y = 1 then s.sendAllCombs s.agent else s
      if s1.memPending || (y == 1 && s1.sysPending) then s1.await .memory
      else sStore va n 0 (s1.g g).toNat false true State.advance s1) s)

/-! ### Atomics (R115 to R119) -/

/-- In the surrogate phase an atomic is a fallback (R115). -/
def State.surrogateNow (s : State) : Bool := s.cur.surrogate && !s.inHusk

/-- The system-scope writes that an atomic of the same core must not pass (R294). -/
def State.behindSys (s : State) (l : Loc) : Bool := l.isSystem && (s.sysPending || !s.cur.comb.isEmpty)

/-- AMO with fn of Table 05.4: the old value, or for XADD the slot's read-out, goes to gd. -/
def amo (fn size : Nat) (d a b : BitVec 5) (s : State) : State :=
  if s.surrogateNow then s.fallback s.agent 0x81
  else
    let n := atomicBytes fn size
    atomicCheck false (s.g a) n n (fun l s1 =>
      if s1.behindSys l then (s.sendAllCombs s.agent).await .memory
      else
        let part := (s1.partOf s1.agent).getD 0
        let key := s1.faddKey s1.agent
        let line := faddLine (s1.g a)
        if fn == 9 && !s1.faddGo part line key then s.await (.held line key)
        else
          let v := s1.g b
          let (s2, m, t) := s1.atomicFor (s1.whoS true) s1.pts l (s1.g a) n fun m => (atomicStep fn size m v).2
          let s3 := s2.raisePts t
          let s4 := if fn = 9 then (s3.faddDone part line key).onCore fun c => { c with fadds := c.fadds + 1 } else s3
          (s4.setG d (atomicResult fn size (atomicStep fn size m v).1)).advance) s

/-- RED: checked at issue and sent to its home; S goes on (R116). One to system space stays behind the bytes of its place that
wait in a combining buffer (R294). -/
def red (fn size : Nat) (a b : BitVec 5) (s : State) : State :=
  if s.surrogateNow then s.fallback s.agent 0x81
  else
    let n := atomicBytes fn size
    atomicCheck true (s.g a) n n (fun l s0 =>
      let s1 := if l.isSystem then s0.sendCombAt s0.agent l else s0
      let r : Req := { kind := .red fn size (s1.g b), loc := l, va := s1.g a, core := s1.agent, e := s1.who, pts := s1.pts,
                       floor := s1.cur.floor, launch := (s1.cur.binding.map fun x => x.launch).getD 0, issued := s1.pts,
                       number := s1.cur.launchId, iter := s1.cur.iter, gen := s1.cur.gen, pos := 0, pushes := [],
                       key := if fn = 9 then s1.faddKey s1.agent else [], at_ := s1.pc, passed := [] }
      ({ s1 with reqs := Cells.put s1.reqs s1.nextId r, nextId := s1.nextId + 1 }.onCore fun c =>
        { c with fadds := if fn = 9 then c.fadds + 1 else c.fadds }).advance) s

/-- AMO.SWAP. -/
def execAmoSwap (d a b : BitVec 5) (z : BitVec 3) (s : State) : Host.Outcome State Fault Refusal :=
  .next (sWord false (.amoSwap d a b z) (amo 0 (amoSize z) d a b) s)

/-- AMO.ADD. -/
def execAmoAdd (d a b : BitVec 5) (z : BitVec 3) (s : State) : Host.Outcome State Fault Refusal :=
  .next (sWord false (.amoAdd d a b z) (amo 1 (amoSize z) d a b) s)

/-- AMO.AND. -/
def execAmoAnd (d a b : BitVec 5) (z : BitVec 3) (s : State) : Host.Outcome State Fault Refusal :=
  .next (sWord false (.amoAnd d a b z) (amo 2 (amoSize z) d a b) s)

/-- AMO.OR. -/
def execAmoOr (d a b : BitVec 5) (z : BitVec 3) (s : State) : Host.Outcome State Fault Refusal :=
  .next (sWord false (.amoOr d a b z) (amo 3 (amoSize z) d a b) s)

/-- AMO.XOR. -/
def execAmoXor (d a b : BitVec 5) (z : BitVec 3) (s : State) : Host.Outcome State Fault Refusal :=
  .next (sWord false (.amoXor d a b z) (amo 4 (amoSize z) d a b) s)

/-- AMO.MIN. -/
def execAmoMin (d a b : BitVec 5) (z : BitVec 3) (s : State) : Host.Outcome State Fault Refusal :=
  .next (sWord false (.amoMin d a b z) (amo 5 (amoSize z) d a b) s)

/-- AMO.MAX. -/
def execAmoMax (d a b : BitVec 5) (z : BitVec 3) (s : State) : Host.Outcome State Fault Refusal :=
  .next (sWord false (.amoMax d a b z) (amo 6 (amoSize z) d a b) s)

/-- AMO.MINZ. -/
def execAmoMinz (d a b : BitVec 5) (z : BitVec 3) (s : State) : Host.Outcome State Fault Refusal :=
  .next (sWord false (.amoMinz d a b z) (amo 7 (amoSize z) d a b) s)

/-- AMO.MAXZ. -/
def execAmoMaxz (d a b : BitVec 5) (z : BitVec 3) (s : State) : Host.Outcome State Fault Refusal :=
  .next (sWord false (.amoMaxz d a b z) (amo 8 (amoSize z) d a b) s)

/-- AMO.FADD, 32-bit only. -/
def execAmoFadd (d a b : BitVec 5) (s : State) : Host.Outcome State Fault Refusal :=
  .next (sWord false (.amoFadd d a b) (amo 9 4 d a b) s)

/-- AMO.XADD, 32-bit only. -/
def execAmoXadd (d a b : BitVec 5) (s : State) : Host.Outcome State Fault Refusal :=
  .next (sWord false (.amoXadd d a b) (amo 10 4 d a b) s)

/-- RED.ADD. -/
def execRedAdd (a b : BitVec 5) (z : BitVec 3) (s : State) : Host.Outcome State Fault Refusal :=
  .next (sWord false (.redAdd a b z) (red 1 (amoSize z) a b) s)

/-- RED.AND. -/
def execRedAnd (a b : BitVec 5) (z : BitVec 3) (s : State) : Host.Outcome State Fault Refusal :=
  .next (sWord false (.redAnd a b z) (red 2 (amoSize z) a b) s)

/-- RED.OR. -/
def execRedOr (a b : BitVec 5) (z : BitVec 3) (s : State) : Host.Outcome State Fault Refusal :=
  .next (sWord false (.redOr a b z) (red 3 (amoSize z) a b) s)

/-- RED.XOR. -/
def execRedXor (a b : BitVec 5) (z : BitVec 3) (s : State) : Host.Outcome State Fault Refusal :=
  .next (sWord false (.redXor a b z) (red 4 (amoSize z) a b) s)

/-- RED.MIN. -/
def execRedMin (a b : BitVec 5) (z : BitVec 3) (s : State) : Host.Outcome State Fault Refusal :=
  .next (sWord false (.redMin a b z) (red 5 (amoSize z) a b) s)

/-- RED.MAX. -/
def execRedMax (a b : BitVec 5) (z : BitVec 3) (s : State) : Host.Outcome State Fault Refusal :=
  .next (sWord false (.redMax a b z) (red 6 (amoSize z) a b) s)

/-- RED.MINZ. -/
def execRedMinz (a b : BitVec 5) (z : BitVec 3) (s : State) : Host.Outcome State Fault Refusal :=
  .next (sWord false (.redMinz a b z) (red 7 (amoSize z) a b) s)

/-- RED.MAXZ. -/
def execRedMaxz (a b : BitVec 5) (z : BitVec 3) (s : State) : Host.Outcome State Fault Refusal :=
  .next (sWord false (.redMaxz a b z) (red 8 (amoSize z) a b) s)

/-- RED.FADD, 32-bit only. -/
def execRedFadd (a b : BitVec 5) (s : State) : Host.Outcome State Fault Refusal :=
  .next (sWord false (.redFadd a b) (red 9 4 a b) s)

/-- RED.XADD, 32-bit only. -/
def execRedXadd (a b : BitVec 5) (s : State) : Host.Outcome State Fault Refusal :=
  .next (sWord false (.redXadd a b) (red 10 4 a b) s)

/-- CAS: a bitwise comparison with gd decides the write; the old value goes to gd. -/
def execCas (d a b : BitVec 5) (z : BitVec 3) (s : State) : Host.Outcome State Fault Refusal :=
  .next (sWord false (.cas d a b z) (fun s =>
    if s.surrogateNow then s.fallback s.agent 0x81
    else
      let n := amoSize z
      atomicCheck false (s.g a) n n (fun l s1 =>
        if s1.behindSys l then (s.sendAllCombs s.agent).await .memory
        else
          let want := (s1.g d).toNat % 256 ^ n
          let new := (s1.g b).toNat % 256 ^ n
          let (s2, m, t) := s1.atomicFor (s1.whoS true) s1.pts l (s1.g a) n fun m => if m = want then new else m
          ((s2.raisePts t).setG d (atomicResult 0 n m)).advance) s) s)

/-! ### Ordered atomics -/

/-- The sequencer that issued an ordered atomic. -/
def Aoseq.seq (q : Aoseq) : Seq := if q.husk then .husk else .s

/-- The agent of an ordered atomic. -/
def State.aoseqWho (s : State) (q : Aoseq) : Who := s.whoAt q.core q.seq (s.core q.core).floor true

/-- An ordered atomic is checked and mapped when it performs (R98, R273, R356). -/
def State.aoseqPlace (s : State) (q : Aoseq) : Chk := s.check (s.aoseqWho q) .atomic q.va

/-- A fault of an ordered atomic is precise: the registers of S are again as they were before its word (R115, R119). DESIGN CHOICE:
what other words have done since, which continue meanwhile (R115), stands (log entry 23). -/
def State.aoseqTrap (s : State) (i : Nat) (q : Aoseq) (f : Flt) : State :=
  { s with aoseqs := Cells.del s.aoseqs i }.onBehalf q.core q.seq fun a =>
    (a.onCtx fun _ => { q.snap with stat := .running }).takeTrap f q.at_

/-- The home performs an ordered atomic whose number is the expected one, at its place: data word, N and the caller's gd (R118). -/
def State.aoseqPerform (s : State) (q : Aoseq) (l : Loc) : State :=
  let n := s.natAt l 8
  let d := s.natAt (l.plus 8) q.size
  let new := (atomicValue q.fn q.size (BitVec.ofNat 64 d) q.v).toNat
  let (s1, _, t) := s.atomicFor (s.aoseqWho q) ((s.core q.core).ptsOf q.seq) l q.va (8 + q.size) fun _ => (n + 1) % 2 ^ 64 + 2 ^ 64 * new
  s1.updCore q.core fun c =>
    let c1 := c.setPts q.seq (wmax (c.ptsOf q.seq) t)
    c1.setCtx q.husk ((c1.ctx q.husk).setG q.gd (atomicResult q.fn q.size d))

/-- A buffered arrival whose number is the expected one of the pair at a place. -/
def State.aoseqDue (s : State) (l : Loc) (q : Aoseq) : Bool :=
  q.buffered && !q.dead && s.aoseqPlace q == .ok l && q.n.toNat == s.natAt l 8

/-- The buffered arrivals of the pair whose number is the expected one perform, in sequence order (R119). -/
def State.aoseqChain : Nat → Loc → State → State
  | 0, _, s => s
  | fuel + 1, l, s =>
    match List.find? (fun (x : Nat × Aoseq) => s.aoseqDue l x.2) s.aoseqs with
    | some (i, q) => State.aoseqChain fuel l ({ s with aoseqs := Cells.del s.aoseqs i }.aoseqPerform q l)
    | none => s

/-- Arrivals below the N of their pair leave the buffer and never perform: N has passed them, whoever wrote it (R119). -/
def State.aoseqSweep (s : State) : State :=
  { s with aoseqs := s.aoseqs.map fun (x : Nat × Aoseq) =>
      (x.1, match s.aoseqPlace x.2 with
        | .ok l => if x.2.buffered && decide (x.2.n.toNat < s.natAt l 8) then { x.2 with dead := true, buffered := false } else x.2
        | _ => x.2) }

/-- Entries in use at the slice of a place: 15 may be taken by arrivals out of order (R119). -/
def State.aoseqUsed (s : State) (q : Aoseq) : Nat :=
  let home (x : Aoseq) : Nat := s.homeOf (s.aoseqWho x) x.va
  (s.aoseqs.filter fun x => x.2.buffered && home x.2 == home q).length

/-- An ordered atomic arrives at its home: it performs, is buffered, is removed, is refused (R119), stalls at a bank in transition, or
fails its checks (R273). -/
def State.aoseqArrive (s : State) (i : Nat) (q : Aoseq) : State :=
  match s.aoseqPlace q with
  | .stall => s
  | .fault f => s.aoseqTrap i q f
  | .ok l =>
    let n := s.natAt l 8
    if q.n.toNat = n then
      let s1 := { s with aoseqs := Cells.del s.aoseqs i }.aoseqPerform q l
      (State.aoseqChain s1.aoseqs.length l s1).aoseqSweep
    else if q.n.toNat < n then { s with aoseqs := Cells.put s.aoseqs i { q with dead := true, buffered := false } }
    else if s.aoseqUsed q < 15 then
      { s with aoseqs := Cells.put (Cells.del s.aoseqs i) s.nextId { q with buffered := true }, nextId := s.nextId + 1 }
    else { s with aoseqs := Cells.put s.aoseqs i { q with refused := true } }

/-- AOSEQ_ARRIVAL: an ordered atomic of the core that is on its way reaches its home. -/
def execAoseqArrival (core : Nat) (s : State) : Host.Outcome State Fault Refusal :=
  .next (match List.find? (fun (x : Nat × Aoseq) => x.2.core == core && !x.2.buffered && !x.2.dead && !x.2.refused) s.aoseqs with
    | some (i, q) => s.aoseqArrive i q
    | none => s)

/-- AOSEQ_RESEND: a refused one is sent again after its backoff. -/
def execAoseqResend (core : Nat) (s : State) : Host.Outcome State Fault Refusal :=
  .next { s with aoseqs := s.aoseqs.map fun (x : Nat × Aoseq) =>
    (x.1, if x.2.core == core then { x.2 with refused := false } else x.2) }

/-- AOSEQ: checked at issue and sent with the caller's number; S goes on, but to no load, store or atomic (R115, R118). -/
def aoseq (fn size : Nat) (d a b : BitVec 5) (s : State) : State :=
  if s.surrogateNow then s.fallback s.agent 0x82
  else
    atomicCheck false (s.g a) 16 (8 + size) (fun l s1 =>
      if s1.behindSys l then (s.sendAllCombs s.agent).await .memory
      else
        let q : Aoseq := { core := s1.agent, va := s1.g a, fn := fn, size := size, n := s1.g d, v := s1.g b, gd := d,
                           buffered := false, dead := false, refused := false, husk := s1.inHusk, at_ := s1.pc, snap := s1.ctx }
        ({ s1 with aoseqs := Cells.put s1.aoseqs s1.nextId q, nextId := s1.nextId + 1 } : State).advance) s

/-- AOSEQ.SWAP. -/
def execAoseqSwap (d a b : BitVec 5) (z : BitVec 3) (s : State) : Host.Outcome State Fault Refusal :=
  .next (sWord false (.aoseqSwap d a b z) (aoseq 0 (amoSize z) d a b) s)

/-- AOSEQ.ADD. -/
def execAoseqAdd (d a b : BitVec 5) (z : BitVec 3) (s : State) : Host.Outcome State Fault Refusal :=
  .next (sWord false (.aoseqAdd d a b z) (aoseq 1 (amoSize z) d a b) s)

/-- AOSEQ.AND. -/
def execAoseqAnd (d a b : BitVec 5) (z : BitVec 3) (s : State) : Host.Outcome State Fault Refusal :=
  .next (sWord false (.aoseqAnd d a b z) (aoseq 2 (amoSize z) d a b) s)

/-- AOSEQ.OR. -/
def execAoseqOr (d a b : BitVec 5) (z : BitVec 3) (s : State) : Host.Outcome State Fault Refusal :=
  .next (sWord false (.aoseqOr d a b z) (aoseq 3 (amoSize z) d a b) s)

/-- AOSEQ.XOR. -/
def execAoseqXor (d a b : BitVec 5) (z : BitVec 3) (s : State) : Host.Outcome State Fault Refusal :=
  .next (sWord false (.aoseqXor d a b z) (aoseq 4 (amoSize z) d a b) s)

/-- AOSEQ.MIN. -/
def execAoseqMin (d a b : BitVec 5) (z : BitVec 3) (s : State) : Host.Outcome State Fault Refusal :=
  .next (sWord false (.aoseqMin d a b z) (aoseq 5 (amoSize z) d a b) s)

/-- AOSEQ.MAX. -/
def execAoseqMax (d a b : BitVec 5) (z : BitVec 3) (s : State) : Host.Outcome State Fault Refusal :=
  .next (sWord false (.aoseqMax d a b z) (aoseq 6 (amoSize z) d a b) s)

/-- AOSEQ.MINZ. -/
def execAoseqMinz (d a b : BitVec 5) (z : BitVec 3) (s : State) : Host.Outcome State Fault Refusal :=
  .next (sWord false (.aoseqMinz d a b z) (aoseq 7 (amoSize z) d a b) s)

/-- AOSEQ.MAXZ. -/
def execAoseqMaxz (d a b : BitVec 5) (z : BitVec 3) (s : State) : Host.Outcome State Fault Refusal :=
  .next (sWord false (.aoseqMaxz d a b z) (aoseq 8 (amoSize z) d a b) s)

/-- AOSEQ.FADD, 32-bit only. -/
def execAoseqFadd (d a b : BitVec 5) (s : State) : Host.Outcome State Fault Refusal :=
  .next (sWord false (.aoseqFadd d a b) (aoseq 9 4 d a b) s)

/-! ### Fences and cache operations (R121, R122) -/

/-- FENCE.SYS. -/
def execFenceSys (pr : BitVec 3) (s : State) : Host.Outcome State Fault Refusal :=
  .next (guarded pr (.fenceSys pr) (fun s =>
    let s1 := s.sendAllCombs s.agent
    if s1.memPending || s1.sysPending then s1.await .memory else (s1.setFloor).advance) s)

/-- The flush markers of S that are not gathered yet. -/
def State.fencePending (s : State) : Bool :=
  s.sys.any fun x => match x.2 with | .fence c => c == s.agent | _ => false

/-- FENCE.FAB: sends the flush markers once and waits until they are gathered. -/
def execFenceFab (pr : BitVec 3) (s : State) : Host.Outcome State Fault Refusal :=
  .next (guarded pr (.fenceFab pr) (fun s =>
    if s.surrogateNow then s.fallback s.agent 0x84
    else if s.ctx.wait == some .fence then (if s.fencePending then s else s.advance)
    else if s.memPending then s.await .memory
    else ((s.sendAllCombs s.agent).sendSys (.fence s.agent)).await .fence) s)

/-- The effect of a cache operation on one line (Table 05.8). -/
def State.cacheLine (s : State) (fn : Nat) (l : Loc) : State :=
  let k := l.key / 128
  let attr := Cells.find? s.attrs k
  match fn with
  | 0 =>
    match attr with
    | some x => { s with attrs := Cells.put s.attrs k { x with dirty := false } }
    | none => s
  | 1 =>
    let s1 := (s.dropCopy l s.agent).dropCopy l (256 + podOf s.agent)
    match attr with
    | some x => if x.pins.isEmpty then s1.evict k else s1
    | none => s1
  | 2 =>
    match attr with
    | some x => if x.pins.isEmpty then { s with attrs := Cells.put s.attrs k { x with cls := 2 } } else s
    | none => s
  | _ => if l.isSystem then { s with devCopies := Cells.del s.devCopies k } else s

/-- The lines of a cache operation in address order; the first that fails translation or permission traps after the earlier
ones are done; a replica window refuses the operation as any access (R277). DESIGN CHOICE: which permission a line needs the spec does
not say, nor what becomes of lines of the pod scratch window; here a line needs read permission, and lines of that window are
passed over (log entry 96). -/
def cacheLines (fn : Nat) : Nat → Nat → State → State
  | 0, _, s => s.advance
  | n + 1, line, s =>
    let va := BitVec.ofNat 64 (128 * line)
    if scratchBase ≤ 128 * line ∧ 128 * line < 2 ^ 56 then cacheLines fn n (line + 1) s
    else
      let s1 := s.noteTlb s.agent s.inHusk va
      match s.translate s.agent (!s.inHusk) .read va with
      | .error f => s1.takeTrap f s.pc
      | .ok l =>
        match s.repFault va with
        | some f => s1.takeTrap f s.pc
        | none => cacheLines fn n (line + 1) (s1.cacheLine fn l)

/-- CACHEOP on every line that overlaps [ga, ga + gb); gb = 0 names none. -/
def cacheop (fn : Nat) (a b : BitVec 5) (s : State) : State :=
  if s.surrogateNow then s.fallback s.agent 0x86
  else
    let va := (s.g a).toNat
    let n := (s.g b).toNat
    if n = 0 then s.advance else cacheLines fn ((va + n - 1) / 128 - va / 128 + 1) (va / 128) s

/-- CACHEOP.CLEAN. -/
def execCacheopClean (a b : BitVec 5) (pr : BitVec 3) (s : State) : Host.Outcome State Fault Refusal :=
  .next (guarded pr (.cacheopClean a b pr) (cacheop 0 a b) s)

/-- CACHEOP.DROP. -/
def execCacheopDrop (a b : BitVec 5) (pr : BitVec 3) (s : State) : Host.Outcome State Fault Refusal :=
  .next (guarded pr (.cacheopDrop a b pr) (cacheop 1 a b) s)

/-- CACHEOP.DEMOTE. -/
def execCacheopDemote (a b : BitVec 5) (pr : BitVec 3) (s : State) : Host.Outcome State Fault Refusal :=
  .next (guarded pr (.cacheopDemote a b pr) (cacheop 2 a b) s)

/-- CACHEOP.SYSINV. -/
def execCacheopSysinv (a b : BitVec 5) (pr : BitVec 3) (s : State) : Host.Outcome State Fault Refusal :=
  .next (guarded pr (.cacheopSysinv a b pr) (cacheop 3 a b) s)

end Sys2Proof.Machine
end

