-- ==== Sys2Proof/Machine/Async.lean ====
section
/-! DEFINITION. Sys2Proof/Machine/Async.lean: the A words of spec/08 (copies, prefetches, joins, barriers, signals, fabric
operations) and the steps by which their operations go on. A word's operation takes the word, the token, the register
numbers and the ids of its X.TWS. -/

namespace Sys2Proof.Machine

/-! ### What is outstanding (R186) -/

/-- A copy, prefetch or fabric operation. -/
def OpKind.counted : OpKind → Bool
  | .copy .. => true
  | .copyl .. => true
  | .tpref .. => true
  | .fsend .. => true
  | .fget .. => true
  | _ => false

/-- The core has 32 counted operations outstanding. -/
def State.opsFull (s : State) : Bool :=
  decide ((s.ops.filter fun x => x.2.tok.core == s.agent && x.2.kind.counted).length ≥ 32)

/-- An operation whose token is done at issue with the issuer's PTS (R187, R190, R208). -/
def State.doneNow (s : State) (k : BitVec 6) : State := (s.setTok k (.done s.pts)).advance

/-- The new operation takes its place in the queue of the pod's copy engine (R192). -/
def State.queueCopy (s : State) : State :=
  s.updPod (podOf s.agent) fun p => { p with queue := p.queue ++ [s.nextId - 1] }

/-! ### COPY, COPYL, TPREF (R190 to R195) -/

/-- COPY: its completion record must lie at a multiple of 16. -/
def copyOp (w : InstrWord) (k : BitVec 6) (a b c : BitVec 5) (ids : List (BitVec 6)) (s : State) : State :=
  s.aOp k ids (illegalIf w (c != 0 && (s.g c).toNat % 16 != 0)) fun s1 =>
    if s1.opsFull then s1.await .memory
    else (s1.startOp (.copy (s1.g a) (s1.g b) (if c = 0 then none else some (s1.g c))) k).queueCopy

def execCopy (k : BitVec 6) (a b c : BitVec 5) (n : BitVec 2) (s : State) : Host.Outcome State Fault Refusal :=
  .next (aWord (.copy k a b c n) n (copyOp (wordOf (.copy k a b c n)) k a b c) s)

/-- COPYL: a length of 2^40 or more is illegal; a length of 0 is done at issue. -/
def copylOp (w : InstrWord) (k : BitVec 6) (a b c : BitVec 5) (ids : List (BitVec 6)) (s : State) : State :=
  s.aOp k ids (illegalIf w (decide ((s.g c).toNat ≥ 2 ^ 40))) fun s1 =>
    if s1.g c = 0 then s1.doneNow k
    else if s1.opsFull then s1.await .memory
    else (s1.startOp (.copyl (s1.g a) (s1.g b) (s1.g c)) k).queueCopy

def execCopyl (k : BitVec 6) (a b c : BitVec 5) (n : BitVec 2) (s : State) : Host.Outcome State Fault Refusal :=
  .next (aWord (.copyl k a b c n) n (copylOp (wordOf (.copyl k a b c n)) k a b c) s)

/-- TPREF: bits [63:3] of the control are reserved. -/
def tprefOp (w : InstrWord) (k : BitVec 6) (a b : BitVec 5) (ids : List (BitVec 6)) (s : State) : State :=
  s.aOp k ids (illegalIf w (decide ((s.g b).toNat ≥ 8))) fun s1 =>
    if s1.opsFull then s1.await .memory else s1.startOp (.tpref (s1.g a) (s1.g b)) k

def execTpref (k : BitVec 6) (a b : BitVec 5) (n : BitVec 2) (s : State) : Host.Outcome State Fault Refusal :=
  .next (aWord (.tpref k a b n) n (tprefOp (wordOf (.tpref k a b n)) k a b) s)

/-! ### TOKN (R199) -/

/-- TOKN: ids from the low bits of the named registers; register field 0 names no input. -/
def toknOp (w : InstrWord) (k : BitVec 6) (a b c : BitVec 5) (ids : List (BitVec 6)) (s : State) : State :=
  let rs := [a, b, c].filter fun r => r != 0
  s.aOp k ids (illegalIf w (rs.any fun r => decide ((s.g r).toNat ≥ 64))) fun s1 =>
    let ins := rs.map fun r => ((s1.g r).setWidth 6, s1.cur.tok ((s1.g r).setWidth 6))
    if ins.isEmpty then s1.doneNow k
    else
      match joinResult ins with
      | some t => (s1.setTok k t).advance
      | none => s1.startOp (.tokn ins) k

def execTokn (k : BitVec 6) (a b c : BitVec 5) (n : BitVec 2) (s : State) : Host.Outcome State Fault Refusal :=
  .next (aWord (.tokn k a b c n) n (toknOp (wordOf (.tokn k a b c n)) k a b c) s)

/-! ### Barriers (R200 to R204) -/

/-- Barriers are named by gang and number below 64, or by partition and 64 + entry. -/
structure BarRef where
  owner : Nat
  number : Nat
  deriving DecidableEq, Repr

/-- A fabric-barrier entry's fields (R204). -/
def fbValid (e : Word) : Bool := e.getLsbD 16
def fbCount (e : Word) : Nat := e.toNat % 65536
def fbMaster (e : Word) : Bool := e.getLsbD 32

/-- The barrier that a descriptor names for an agent. -/
def State.barOf (s : State) (agent : Nat) (d : Word) : Option BarRef :=
  let b := d.toNat / 65536 % 64
  if d.getLsbD 22 then (s.partOf agent).map fun p => ⟨p, 64 + b⟩
  else (s.core agent).binding.map fun x => ⟨x.gang, b⟩

/-- The fabric-barrier entry of a partition. -/
def State.fbar (s : State) (part b : Nat) : FBar :=
  match Cells.find? s.parts part with
  | some p => Cells.get ⟨0, Barrier.reset, []⟩ p.fbars b
  | none => ⟨0, Barrier.reset, []⟩

def State.barrier (s : State) (r : BarRef) : Barrier :=
  if r.number < 64 then
    match Cells.find? s.gangs r.owner with
    | some g => Cells.get Barrier.reset g.barriers r.number
    | none => Barrier.reset
  else (s.fbar r.owner (r.number - 64)).bar

def State.updBarrier (s : State) (r : BarRef) (f : Barrier → Barrier) : State :=
  if r.number < 64 then
    s.updGang r.owner fun g => { g with barriers := Cells.put g.barriers r.number (f (Cells.get Barrier.reset g.barriers r.number)) }
  else
    s.updPart r.owner fun p =>
      let e := Cells.get ⟨0, Barrier.reset, []⟩ p.fbars (r.number - 64)
      { p with fbars := Cells.put p.fbars (r.number - 64) { e with bar := f e.bar } }

/-- The key of a member's latest arrival on a barrier. -/
def arrivalKey (rank : Nat) (d : Word) : Nat := 64 * rank + d.toNat / 65536 % 64 + (if d.getLsbD 22 then 2 ^ 20 else 0)

/-- The phase of the agent's latest arrival on the barrier since the iteration began. -/
def State.lastArrival (s : State) (d : Word) : Option Nat :=
  match s.gangOf s.agent with
  | some g => Cells.find? g.arrivals (arrivalKey s.cur.gangRank.toNat d)
  | none => none

/-- Arrivals that the barrier counts before it completes: the count of the entry, or what the first arrival fixes. -/
def State.barCount (s : State) (r : BarRef) (d : Word) : Nat :=
  if r.number < 64 then (if d.toNat % 65536 = 0 then s.cur.gangSize.toNat else d.toNat % 65536)
  else fbCount (s.fbar r.owner (r.number - 64)).entry

/-! The exact all-reduce -/

/-- A member as it accesses its slots: whether its core is still bound does not count. -/
def State.collxWho (s : State) (m : Collx) : Who :=
  { s.whoAt m.core .s m.floor true with launch := some m.launch, ranks := some [m.rank], buf := false }

/-- The source slot of a member, read at the completion; one that fails there is a deferred fault and adds nothing (R207,
R359). -/
def collxRead (ts : Word) (r : State × Accum × Word) (m : Collx) : State × Accum × Word :=
  let (s, q, t) := r
  let w := s.collxWho m
  match s.check w .read m.src with
  | .ok l =>
    let x := (l, m.src.toNat, 128)
    let (s1, v, u) := ((s.logRaces w false [x]).touchAll w 0 false [x]).granRead w true (wmax ts m.base) x
    (s1, q.merge (slotOf v), wmax t u)
  | .fault f =>
    let s1 := s.recordFor m.core { s.faultRec m.core 8 4 0 m.at_ f m.base with token := m.tok.k.toNat, launch := m.tok.launch, iterNo := m.tok.iter }
    (s1.updLaunch m.launch fun x => { x with status := if x.status = 0 then 0x40 else x.status }, q, t)
  | .stall => r

/-- A write of a completion for a member: checked, noted, and performed at a timestamp. -/
def State.collxPut (s : State) (m : Collx) (ts va : Word) (n v : Nat) : Except Flt (State × Word) :=
  let w := s.collxWho m
  match s.check w .write va with
  | .ok l =>
    let x := (l, va.toNat, n)
    .ok (((s.logRaces w true [x]).touchAll w 0 true [x]).granWrite w (.seq .s) true ts x v)
  | .fault f => .error f
  | .stall => .ok (s, ts)

/-- The destination slot of a member, and the read-out behind it when it asks for it (R207). A race in mode 1 at one of its three
accesses fails its token after they have performed (R301). -/
def collxWrite (q : Accum) (ts : Word) (s : State) (m : Collx) : State :=
  let w := s.collxWho m
  let part (acc : Acc) (va : Word) (n : Nat) : Option Flt :=
    match s.check w acc va with
    | .ok l => s.trapRace w [(l, va.toNat, n)]
    | _ => none
  let race := ((part .read m.src 128).orElse fun _ => part .write m.dst 128).orElse fun _ =>
    if m.read then part .write (m.dst + 128) 4 else none
  let fail (s : State) (f : Flt) : State := s.resolveFrom m.tok (.failed f) 8 m.at_ m.base
  let done (s : State) (t : Word) : State :=
    let s1 := s.updLaunch m.launch fun l => { l with doneTs := wmax l.doneTs t }
    match race with
    | some f => fail s1 f
    | none => s1.resolveFrom m.tok (.done t) 8 m.at_ m.base
  match s.collxPut m ts m.dst 128 (slotBytes q) with
  | .error f => fail s f
  | .ok (s1, t) =>
    if m.read then
      match s1.collxPut m ts (m.dst + 128) 4 q.read with
      | .error f => fail s1 f
      | .ok (s2, u) => done (s2.updLaunch m.launch fun l => { l with doneTs := wmax l.doneTs u }) t
    else done s1 t

/-- A slot of a member of the phase lies in a bank in transition, or its access waits for an IDE stream: the completion waits
(R273, R388). -/
def State.collxHeld (s : State) (b : Barrier) : Bool :=
  b.collx.any fun m =>
    let w := s.collxWho m
    s.check w .read m.src == .stall || s.check w .write m.dst == .stall || (m.read && s.check w .write (m.dst + 128) == .stall)

/-- The phase of a barrier completes at a timestamp, and the next one opens (R201, R207). -/
def State.completePhase (s : State) (r : BarRef) (ts : Word) : State :=
  let b := s.barrier r
  let s1 := s.updBarrier r fun x =>
    { Barrier.reset with phase := x.phase + 1, times := Cells.put x.times x.phase ts }
  let s2 := b.toks.foldl (fun a t => a.resolveFrom t (.done ts) 0 0 ts) s1
  let (s3, q, t) := b.collx.foldl (collxRead ts) (s2, Accum.zero, ts)
  b.collx.foldl (collxWrite q t) s3

/-- The barrier counts its phase: a gang's barrier, or a fabric barrier on the counting device (R204). -/
def State.counts (s : State) (r : BarRef) : Bool := r.number < 64 || fbMaster (s.fbar r.owner (r.number - 64)).entry

/-- The count of a barrier's phase is reached. -/
def State.phaseFull (s : State) (r : BarRef) : Bool :=
  let b := s.barrier r
  s.counts r && b.n != 0 && decide (b.count ≥ b.n)

/-- A phase whose count is reached completes. A fabric phase tells the other devices. -/
def State.tryPhase (s : State) (r : BarRef) : State :=
  let b := s.barrier r
  if s.phaseFull r && !s.collxHeld b then
    let s1 := s.completePhase r b.ts
    if r.number < 64 then s1
    else
      s1.updPart r.owner fun p =>
        let e := Cells.get ⟨0, Barrier.reset, []⟩ p.fbars (r.number - 64)
        { p with fbars := Cells.put p.fbars (r.number - 64) { e with remote := [] } }
  else s

/-- An arrival of the current agent, with its timestamp if it is a release, and whether it is one of COLLX. -/
def State.arriveAt (s : State) (r : BarRef) (d : Word) (n : Nat) (ts : Option Word) (collx : Bool) : State :=
  let ph := (s.barrier r).phase
  let s1 := s.updBarrier r fun b =>
    { b with count := b.count + 1, n := n, isCollx := some collx, ts := (match ts with | some t => wmax b.ts t | none => b.ts) }
  match s.cur.binding with
  | some x => s1.updGang x.gang fun g => { g with arrivals := Cells.put g.arrivals (arrivalKey s.cur.gangRank.toNat d) ph }
  | none => s1

/-- The packet of an arrival on a barrier that another device counts: with flush markers before it if it is a release
(R203). -/
def State.sendArrival (s : State) (r : BarRef) (phase : Nat) (release waits : Bool) (k : BitVec 6) : State :=
  if s.counts r then s
  else
    let o : AOp := { kind := .barrier r.owner r.number waits phase release s.pts (!release), tok := s.tokRef k, base := s.pts,
                     floor := s.cur.floor, launch := (s.cur.binding.map fun b => b.launch).getD 0, rank := s.cur.gangRank.toNat, stat := .running, src := none,
                     dst := none, done := [], fails := [], maxTs := 0, at_ := s.aAddr, race := none, buffered := false }
    { s with ops := Cells.put s.ops s.nextId o, nextId := s.nextId + 1 }

/-- The descriptor of a barrier word is illegal (R200, R204). -/
def badDesc (d : Word) : Bool := decide (d.toNat ≥ 2 ^ 23) || (d.getLsbD 22 && d.toNat % 65536 != 0)

/-- The end of a wait for a phase: PTS and the floor rise, kout is done (R202). -/
def State.phaseWaited (s : State) (k : BitVec 6) (ts : Word) : State :=
  (((s.raisePts ts).setFloor).resolveFrom (s.tokRef k) (.done ts) 0 s.aAddr s.pts).advance

/-- A wait for a phase of a barrier (R202). -/
def State.waitPhase (s : State) (r : BarRef) (d : Word) (ph : Nat) (k : BitVec 6) : State :=
  let b := s.barrier r
  if b.phase > ph then s.phaseWaited k (Cells.get 0 b.times ph) else s.await (.barrier (d.setWidth 23) ph)

/-- An arrival is illegal: an invalid fabric entry, a count that differs from the phase's, a phase of another kind, once an arrival
of this device has fixed its kind (R201, R204, R207). -/
def State.badArrival (s : State) (r : BarRef) (n : Nat) (collx : Bool) : Bool :=
  let b := s.barrier r
  (r.number ≥ 64 && !fbValid (s.fbar r.owner (r.number - 64)).entry)
    || (b.count != 0 && b.n != n) || b.isCollx == some (!collx)

/-- On a device that does not count the phase: as many arrivals of it as a phase takes are on their way, so that the next one
belongs to the next phase. DESIGN CHOICE: the counting device counts every arrival of this device in the phase in which it was
made (log entry 136). -/
def State.phaseSpent (s : State) (r : BarRef) (n : Nat) : Bool := !s.counts r && decide ((s.barrier r).count ≥ n)

/-- A release arrival on a fabric barrier that this device counts: the markers of the core's flows are not gathered while a write
of it to a peer has not performed (R203, R295). -/
def State.flowsOpen (s : State) (r : BarRef) : Bool :=
  decide (r.number ≥ 64) && s.counts r &&
    ((s.sys.any fun x => match x.2 with | .store c _ (.peer ..) _ => c == s.agent | _ => false)
      || s.cur.comb.any fun b => match b.loc with | .peer .. => true | _ => false)

/-- The current agent has made its arrival and waits at this word (R362). -/
def State.barWaiting (s : State) : Option Nat :=
  match s.ctx.stat with
  | .waiting (.barrier _ ph) => some ph
  | _ => none

/-- An arrival word: `release` as a release, `wait` with the wait of BAR. -/
def barArrive (w : InstrWord) (k : BitVec 6) (a : BitVec 5) (release wait : Bool) (ids : List (BitVec 6)) (s : State) : State :=
  let d := s.g a
  match s.barOf s.agent d, s.barWaiting with
  | some r, some ph => s.waitPhase r d ph k
  | none, _ => s.aOp k ids (illegalIf w (badDesc d)) fun s1 => s1.await (.barrier (d.setWidth 23) 0)
  | some r, none =>
    if s.surrogateNow && d.getLsbD 22 then s.fallback s.agent 0x84
    else
      s.aOp k ids (illegalIf w (badDesc d)) fun s1 =>
        if release && s1.memPending then s1.await .memory
        else if release && s1.flowsOpen r then (s1.sendAllCombs s1.agent).await .memory
        else
          let s2 := s1.tryPhase r
          let n := s2.barCount r d
          if s2.phaseFull r then s2.await .memory
          else if s2.badArrival r n false then s2.illegalWord w s2.aAddr
          else if s2.phaseSpent r n then s2.await .memory
          else
            let ph := (s2.barrier r).phase
            let s0 := if release && !s2.counts r then s2.sendAllCombs s2.agent else s2
            let s3 := ((s0.arriveAt r d n (if release then some s2.pts else none) false).setTok k .pending).sendArrival r ph release wait k
            if wait then s3.waitPhase r d ph k
            else (s3.updBarrier r fun b => { b with toks := b.toks ++ [s2.tokRef k] }).advance

/-- BAR: a release arrival; S blocks until the phase completes. -/
def barOp (w : InstrWord) (k : BitVec 6) (a : BitVec 5) (ids : List (BitVec 6)) (s : State) : State := barArrive w k a true true ids s

def execBar (k : BitVec 6) (a : BitVec 5) (n : BitVec 2) (s : State) : Host.Outcome State Fault Refusal :=
  .next (aWord (.bar k a n) n (barOp (wordOf (.bar k a n)) k a) s)

/-- BARA: a release arrival without a wait. -/
def baraOp (w : InstrWord) (k : BitVec 6) (a : BitVec 5) (ids : List (BitVec 6)) (s : State) : State := barArrive w k a true false ids s

def execBara (k : BitVec 6) (a : BitVec 5) (n : BitVec 2) (s : State) : Host.Outcome State Fault Refusal :=
  .next (aWord (.bara k a n) n (baraOp (wordOf (.bara k a n)) k a) s)

/-- BARAX: a relaxed arrival, which carries no timestamp. -/
def baraxOp (w : InstrWord) (k : BitVec 6) (a : BitVec 5) (ids : List (BitVec 6)) (s : State) : State := barArrive w k a false false ids s

def execBarax (k : BitVec 6) (a : BitVec 5) (n : BitVec 2) (s : State) : Host.Outcome State Fault Refusal :=
  .next (aWord (.barax k a n) n (baraxOp (wordOf (.barax k a n)) k a) s)

/-- BARW: waits for the phase of this core's latest arrival. -/
def barwOp (w : InstrWord) (k : BitVec 6) (a : BitVec 5) (ids : List (BitVec 6)) (s : State) : State :=
  let d := s.g a
  match s.barOf s.agent d, s.barWaiting with
  | some r, some ph => s.waitPhase r d ph k
  | none, _ => s.aOp k ids (illegalIf w true) fun s1 => s1
  | some r, none =>
    let last := s.lastArrival d
    let b := s.barrier r
    s.aOp k ids (illegalIf w (badDesc d || last.isNone || (b.isCollx == some true && last == some b.phase))) fun s1 =>
      (s1.setTok k .pending).waitPhase r d (last.getD 0) k

def execBarw (k : BitVec 6) (a : BitVec 5) (n : BitVec 2) (s : State) : Host.Outcome State Fault Refusal :=
  .next (aWord (.barw k a n) n (barwOp (wordOf (.barw k a n)) k a) s)

/-- COLLX: slots must be aligned; a release arrival whose completion merges the members' slots (R207). -/
def collxOp (w : InstrWord) (k : BitVec 6) (a b c : BitVec 5) (ids : List (BitVec 6)) (s : State) : State :=
  let src := s.g a
  let dst := s.g b
  let v := s.g c
  let d : Word := BitVec.ofNat 64 (v.toNat % 2 ^ 23)
  let who := s.whoS true
  let bad := decide (v.toNat ≥ 2 ^ 25) || v.getLsbD 23 || badDesc d
  let chk : Option Flt :=
    if bad then illegalIf w true
    else if src.toNat % 128 != 0 then some ⟨0x03, src, 0⟩
    else if dst.toNat % 128 != 0 then some ⟨0x03, dst, 0⟩
    else match s.check { who with late := true } .read src, s.check who .write dst with
      | .fault f, _ => some f
      | _, .fault f => some f
      | _, _ => none
  if s.surrogateNow then s.fallback s.agent 0x86
  else
    s.aOp k ids chk fun s1 =>
      match s1.barOf s1.agent d with
      | none => s1.await .memory
      | some r =>
        if s1.memPending then s1.await .memory
        else if s1.flowsOpen r then (s1.sendAllCombs s1.agent).await .memory
        else
          let s2 := s1.tryPhase r
          let n := s2.barCount r d
          if s2.phaseFull r then s2.await .memory
          else if s2.badArrival r n true then s2.illegalWord w s2.aAddr
          else if s2.phaseSpent r n then s2.await .memory
          else
            let m : Collx := { core := s2.agent, src := src, dst := dst, read := v.getLsbD 24, tok := s2.tokRef k, base := s2.pts,
                               launch := (s2.cur.binding.map fun x => x.launch).getD 0, floor := s2.cur.floor,
                               rank := s2.cur.gangRank.toNat, at_ := s2.aAddr }
            let ph := (s2.barrier r).phase
            let s0 := if s2.counts r then s2 else s2.sendAllCombs s2.agent
            (((s0.arriveAt r d n (some s2.pts) true).setTok k .pending).updBarrier r fun b =>
              { b with collx := b.collx ++ [m] }).sendArrival r ph true false k |>.advance

def execCollx (k : BitVec 6) (a b c : BitVec 5) (n : BitVec 2) (s : State) : Host.Outcome State Fault Refusal :=
  .next (aWord (.collx k a b c n) n (collxOp (wordOf (.collx k a b c n)) k a b c) s)

/-- A released gang leaves once nothing waits for a phase of its barriers (R24, R25). -/
def State.dropReleased (s : State) (gang : Nat) : State :=
  match Cells.find? s.gangs gang with
  | some g =>
    if g.state = .released ∧ !(g.barriers.any fun b => b.2.open_) then { s with gangs := Cells.del s.gangs gang } else s
  | none => s

/-- BARRIER_PHASE_COMPLETE: the count is reached (R201). For a fabric barrier, `gang` names the partition and `b` is
64 + the entry. -/
def execBarrierPhaseComplete (gang b : Nat) (s : State) : Host.Outcome State Fault Refusal :=
  .next ((s.tryPhase ⟨gang, b⟩).dropReleased gang)

/-! ### Signals (R205, R206) -/

def State.signal (s : State) (part i : Nat) : Signal :=
  match Cells.find? s.parts part with
  | some p => Cells.get Signal.reset p.signals i
  | none => Signal.reset

/-- A waiting SIGW that a signal's new value satisfies keeps the write's timestamp. -/
def meetSignal (i : Nat) (v wts : Word) (x : Ctx) : Ctx :=
  match x.stat with
  | .waiting (.signal j th none) => if j.toNat = i ∧ th.toNat ≤ v.toNat then { x with stat := .waiting (.signal j th (some wts)) } else x
  | .stopped (some (.signal j th none)) =>
    if j.toNat = i ∧ th.toNat ≤ v.toNat then { x with stat := .stopped (some (.signal j th (some wts))) } else x
  | .trapped (some (.signal j th none)) =>
    if j.toNat = i ∧ th.toNat ≤ v.toNat then { x with stat := .trapped (some (.signal j th (some wts))) } else x
  | _ => x

/-- A signal set to a value by a release with timestamp `p`; the answer is the write's wts (R205, R235, R377). -/
def State.setSignal (s : State) (part i : Nat) (v p : Word) : State × Word :=
  let w := wmax p ((s.signal part i).rts + 1)
  let s1 := s.updPart part fun x => { x with signals := Cells.set Signal.reset x.signals i ⟨v, w, w⟩ }
  let cores := s1.cores.map fun (x : Nat × Core) =>
    (x.1, if s1.partOf x.1 == some part then { x.2 with user := meetSignal i v w x.2.user } else x.2)
  let gangs := s1.gangs.map fun (x : Nat × Gang) =>
    (x.1, if ((Cells.find? s1.launches x.2.launch).map fun l => l.part) == some part then
      { x.2 with ctxs := x.2.ctxs.map fun (y : Nat × Core) => (y.1, { y.2 with user := meetSignal i v w y.2.user }) } else x.2)
  ({ s1 with cores := cores, gangs := gangs }, w)

/-- SIGS: a release. -/
def sigsOp (w : InstrWord) (k : BitVec 6) (a b : BitVec 5) (ids : List (BitVec 6)) (s : State) : State :=
  if s.surrogateNow then s.fallback s.agent 0x86
  else
    s.aOp k ids (illegalIf w (decide ((s.g a).toNat ≥ 4096))) fun s1 =>
      if s1.memPending then s1.await .memory
      else
        let (s2, t) := s1.setSignal ((s1.partOf s1.agent).getD 0) (s1.g a).toNat (s1.g b) s1.pts
        ((s2.raisePts t).setTok k (.done t)).advance

def execSigs (k : BitVec 6) (a b : BitVec 5) (n : BitVec 2) (s : State) : Host.Outcome State Fault Refusal :=
  .next (aWord (.sigs k a b n) n (sigsOp (wordOf (.sigs k a b n)) k a b) s)

/-- A wait on a signal ends with the wts of the write that satisfied it; the read leaves its timestamp at the signal. -/
def State.signalWaited (s : State) (part i : Nat) (k : BitVec 6) (t : Word) : State :=
  let s1 := (s.raisePts t).setFloor
  let s2 := s1.updPart part fun x =>
    let g := Cells.get Signal.reset x.signals i
    { x with signals := Cells.set Signal.reset x.signals i { g with rts := wmax g.rts s1.pts } }
  (s2.resolveFrom (s.tokRef k) (.done t) 0 s.aAddr s.pts).advance

/-- SIGW: blocks S until the signal reaches the threshold. -/
def sigwOp (w : InstrWord) (k : BitVec 6) (a b : BitVec 5) (ids : List (BitVec 6)) (s : State) : State :=
  let part := (s.partOf s.agent).getD 0
  let go (s1 : State) : State :=
    let i := (s1.g a).toNat
    let x := s1.signal part i
    if (s1.g b).toNat ≤ x.val.toNat then s1.signalWaited part i k x.wts else s1.await (.signal (s1.g a) (s1.g b) none)
  match s.ctx.stat with
  | .waiting (.signal _ _ (some t)) => s.signalWaited part (s.g a).toNat k t
  | .waiting (.signal _ _ none) => go s
  | _ => s.aOp k ids (illegalIf w (decide ((s.g a).toNat ≥ 4096))) fun s1 => go (s1.setTok k .pending)

def execSigw (k : BitVec 6) (a b : BitVec 5) (n : BitVec 2) (s : State) : Host.Outcome State Fault Refusal :=
  .next (aWord (.sigw k a b n) n (sigwOp (wordOf (.sigw k a b n)) k a b) s)

/-! ### FSEND, FGET (R208, R209) -/

/-- A fabric operation: a length of 2^32 or more is illegal; a length of 0 is done at issue. -/
def fabricOp (w : InstrWord) (kind : OpKind) (len : Word) (k : BitVec 6) (ids : List (BitVec 6)) (s : State) : State :=
  if s.surrogateNow then s.fallback s.agent 0x84
  else
    s.aOp k ids (illegalIf w (decide (len.toNat ≥ 2 ^ 32))) fun s1 =>
      if len = 0 then s1.doneNow k
      else if s1.opsFull then s1.await .memory
      else
        let s2 := s1.startOp kind k
        s2.updOp (s2.nextId - 1) fun o => { o with stat := .running }

/-- FSEND. -/
def fsendOp (w : InstrWord) (k : BitVec 6) (a b c : BitVec 5) (ids : List (BitVec 6)) (s : State) : State :=
  fabricOp w (.fsend (s.g a) (s.g b) (s.g c)) (s.g c) k ids s

def execFsend (k : BitVec 6) (a b c : BitVec 5) (n : BitVec 2) (s : State) : Host.Outcome State Fault Refusal :=
  .next (aWord (.fsend k a b c n) n (fsendOp (wordOf (.fsend k a b c n)) k a b c) s)

/-- FGET. -/
def fgetOp (w : InstrWord) (k : BitVec 6) (a b c : BitVec 5) (ids : List (BitVec 6)) (s : State) : State :=
  fabricOp w (.fget (s.g a) (s.g b) (s.g c)) (s.g c) k ids s

def execFget (k : BitVec 6) (a b c : BitVec 5) (n : BitVec 2) (s : State) : Host.Outcome State Fault Refusal :=
  .next (aWord (.fget k a b c n) n (fgetOp (wordOf (.fget k a b c n)) k a b c) s)

/-! ### Granules of an operation -/

/-- A fault record of an operation (R354): source, flags, element offset. -/
def State.opFault (s : State) (o : AOp) (source flags offset : Nat) (f : Flt) : State :=
  let r := s.faultRec o.tok.core source flags 0 o.at_ f o.base
  s.recordFor o.tok.core { r with token := o.tok.k.toNat, offset := offset, launch := o.tok.launch, iterNo := o.tok.iter }

/-- The byte moves of a copy: destination and source address. -/
def AOp.moves (o : AOp) : List (Nat × Nat) :=
  match o.kind, o.src, o.dst with
  | .copy .., some a, some b =>
    ((List.range b.count).filter b.genuine).flatMap fun t =>
      (List.range (2 ^ b.esz)).map fun i => ((b.addr t + BitVec.ofNat 64 i).toNat, (a.addr t + BitVec.ofNat 64 i).toNat)
  | .copyl a b n, _, _ =>
    (List.range n.toNat).map fun i => ((b + BitVec.ofNat 64 i).toNat, (a + BitVec.ofNat 64 i).toNat)
  | .fget a b n, _, _ =>
    (List.range n.toNat).map fun i => ((b + BitVec.ofNat 64 i).toNat, (a + BitVec.ofNat 64 i).toNat)
  | _, _, _ => []

/-- The source bytes of the elements that are not genuine in the destination: they are read and written nowhere (R190). -/
def AOp.readOnly (o : AOp) : List Nat :=
  match o.kind, o.src, o.dst with
  | .copy .., some a, some b =>
    ((List.range b.count).filter fun t => !b.genuine t).flatMap fun t =>
      (List.range (2 ^ b.esz)).map fun i => (a.addr t + BitVec.ofNat 64 i).toNat
  | _, _, _ => []

/-- A rising list with a number put in, if it is not there. -/
def insertNew (x : Nat) : List Nat → List Nat
  | [] => [x]
  | y :: r => if x < y then x :: y :: r else if x = y then y :: r else y :: insertNew x r

/-- Granules from this number on are source granules that are only read. -/
def readKey : Nat := 2 ^ 60

/-- The granules of an operation: those of the destination by rising address, then those that are only read. -/
def AOp.granules (o : AOp) : List Nat :=
  o.readOnly.foldl (fun l a => insertNew (readKey + a / 32) l) (o.moves.foldl (fun l m => insertNew (m.1 / 32) l) [])

/-- Moves of neighbouring bytes as runs: destination, source, length. -/
def runsOf : List (Nat × Nat) → List (Nat × Nat × Nat)
  | [] => []
  | (d, a) :: r =>
    match runsOf r with
    | (d', a', n) :: rest => if d' = d + 1 ∧ a' = a + 1 ∧ a / 32 = a' / 32 then (d, a, n + 1) :: rest else (d, a, 1) :: (d', a', n) :: rest
    | [] => [(d, a, 1)]

/-- A granule written as one access: the bytes by address. -/
def State.granPut (s : State) (w : Who) (op : Nat) (base : Word) (l : Loc) (va : Nat) (bytes : List (Nat × Nat × Nat)) : State × Word :=
  if w.buf then (bytes.foldl (fun a b => a.guardWrite w.core (l.plus (b.1 - va)) b.1 b.2.1 b.2.2) s, base)
  else if l.isSystem then (bytes.foldl (fun a b => a.sendStore w.core (.op op) (l.plus (b.1 - va)) (bytesOf b.2.1 b.2.2)) s, base)
  else
    let s1 := bytes.foldl (fun a b => a.putNat (l.plus (b.1 - va)) b.2.1 b.2.2) s
    let (s2, t) := s1.writeAt (s1.holders (256 + podOf w.core) va) (s1.homeOnly w false va) base l 0 0
    (s2.noteWrite w (BitVec.ofNat 64 va) l 1 t, t)

/-- What the performance of a granule comes to. -/
inductive GranOut where
  | ok (s : State) (ts : Word)
  | fault (f : Flt)
  | stall
  /-- The write causes a fallback with a reason of Table 15.2 (R306, R307). -/
  | fall (reason : Nat)

/-- The first race that an operation meets in mode 1: its granule performs, and the operation fails at its end (R301). -/
def State.noteRace (s : State) (i : Nat) (w : Who) (x : Loc × Nat × Nat) : State :=
  match s.trapRace w [x] with
  | some f => s.updOp i fun o => { o with race := match o.race with | some g => some g | none => some f }
  | none => s

/-- What every read and write of an operation leaves besides its bytes: races, the line's class, the TLB entries. -/
def State.noteOp (s : State) (i : Nat) (w : Who) (writes : Bool) (x : Loc × Nat × Nat) : State :=
  (((s.noteRace i w x).logRaces w writes [x])).touchAll w 0 writes [x]

/-- The source runs of a granule read one after the other: destination, length and value of each, and the largest
timestamp. -/
def readRuns (i : Nat) (w : Who) (base : Word) : List (Nat × Nat × Nat) → State × Word → Except (Option Flt) (State × Word × List (Nat × Nat × Nat))
  | [], (s, t) => .ok (s, t, [])
  | (d, a, n) :: r, (s, t) =>
    match s.check w .read (BitVec.ofNat 64 a) with
    | .fault f => .error (some f)
    | .stall => .error none
    | .ok l =>
      let (s1, v, u) := (s.noteOp i w false (l, a, n)).granRead w false base (l, a, n)
      match readRuns i w base r (s1, wmax t u) with
      | .ok (s2, t2, out) => .ok (s2, t2, (d, n, v) :: out)
      | .error e => .error e

/-- A write of an operation as one access, if the guard buffer takes it (R306). -/
def State.opWrite (s : State) (i : Nat) (o : AOp) (l : Loc) (va : Nat) (bytes : List (Nat × Nat × Nat)) (t : Word) : GranOut :=
  let w := o.who
  if o.buffered && l.isSystem then .fall 0x85
  else if o.buffered && !s.guardRoom w.core [(l, va, 1)] then .fall 0x80
  else
    let (s1, u) := (s.noteOp i w true (l, va, 1)).granPut w i o.base l va bytes
    .ok s1 (wmax t u)

/-- A granule of a copy performs (R190, R191): its source bytes are read, and if it is one of the destination it is written as
one access. -/
def State.granule (s : State) (i : Nat) (o : AOp) (g : Nat) : GranOut :=
  let w := o.who
  if g ≥ readKey then
    match readRuns i w o.base (runsOf ((o.readOnly.filter fun a => a / 32 == g - readKey).map fun a => (a, a))) (s, 0) with
    | .error none => .stall
    | .error (some f) => .fault f
    | .ok (s1, t, _) => .ok s1 t
  else
    let ms := o.moves.filter fun m => m.1 / 32 == g
    let va := (ms.foldl (fun a m => min a m.1) (32 * g + 31))
    match s.check w .write (BitVec.ofNat 64 va) with
    | .fault f => .fault f
    | .stall => .stall
    | .ok l =>
      match readRuns i w o.base (runsOf ms) (s, 0) with
      | .error none => .stall
      | .error (some f) => .fault f
      | .ok (s1, t, bytes) => s1.opWrite i o l va bytes t

/-- The destination bytes of the operation's moves that lie in performed granules, in elements. -/
def AOp.written (o : AOp) : Nat :=
  match o.dst with
  | some b => ((o.moves.filter fun m => o.done.contains (m.1 / 32)).length) / 2 ^ b.esz
  | none => 0

/-- Genuine elements of the source tile. -/
def AOp.genuineSrc (o : AOp) : Nat :=
  match o.src with
  | some a => ((List.range a.count).filter a.genuine).length
  | none => 0

/-- The completion record of a COPY, as one access (R194). -/
def State.copyRecord (s : State) (i : Nat) (o : AOp) (status : Nat) : GranOut :=
  match o.kind with
  | .copy _ _ (some va) =>
    (match s.check o.who .write va with
     | .fault f => .fault f
     | .stall => .stall
     | .ok l => s.opWrite i o l va.toNat [(va.toNat, 16, o.genuineSrc + 2 ^ 32 * o.written + 2 ^ 64 * status)] 0)
  | _ => .ok s 0

/-- A fault of a copy (R193, R307, R358): in the surrogate phase a fallback, a translation fault stalls it, another one ends
it: its record comes next. -/
def State.copyFault (s : State) (i : Nat) (o : AOp) (f : Flt) : State :=
  if o.buffered then
    s.fallbackTrap o.tok.core { s.faultRec o.tok.core 4 0 0 o.at_ f o.base with token := o.tok.k.toNat, offset := 32 * o.done.length }
  else
    let s1 := s.noteTlb o.tok.core false f.addr
    if f.cause = 0x04 then (s1.opFault o 4 2 (32 * o.done.length) f).updOp i fun x => { x with stat := .stalled f }
    else s1.updOp i fun x => { x with stat := .failing f }

/-- The granules that are left, and which of them comes next: any one while none of them faults, else the first (R191,
R358). -/
def State.nextGranule (s : State) (o : AOp) : Option Nat :=
  let w := o.who
  let left := o.granules.filter fun g => !o.done.contains g
  let ok (va : Nat) (acc : Acc) : Bool := match s.check w acc (BitVec.ofNat 64 va) with | .ok _ => true | _ => false
  let clean := (o.moves.all fun m => o.done.contains (m.1 / 32) || (ok m.1 .write && ok m.2 .read)) &&
    o.readOnly.all fun a => o.done.contains (readKey + a / 32) || ok a .read
  if clean then left[Config.freeNat s.fresh 20 % max left.length 1]? else left.head?

/-- A granule of a running copy or FGET performs, or fails. -/
def State.opGranule (s : State) (i : Nat) (o : AOp) : State :=
  match s.nextGranule o with
  | none => s
  | some g =>
    match s.granule i o g with
    | .stall => s
    | .fault f => s.copyFault i o f
    | .fall r => s.fallback o.tok.core r
    | .ok s1 t => s1.updOp i fun x => { x with done := x.done ++ [g], maxTs := wmax x.maxTs t }

/-! ### Records of operations -/

/-- A 128-byte record that an operation reads when it starts. -/
def State.opRecord (s : State) (i : Nat) (o : AOp) (va : Word) : Except (Option Flt) (State × Nat × Word) :=
  let w := o.who
  match s.plan w .read (Sys2Proof.Machine.granules va 128) with
  | (oks, none) =>
    let step (r : State × Nat × Nat × Word) (x : Loc × Nat × Nat) : State × Nat × Nat × Word :=
      let (s1, v, t) := (r.1.noteOp i w false x).granRead w false o.base x
      (s1, r.2.1 + 256 ^ r.2.2.1 * v, r.2.2.1 + x.2.2, wmax r.2.2.2 t)
    let (s1, v, _, t) := oks.foldl step (s, 0, 0, 0)
    .ok (s1, v, t)
  | (_, some (.fault f)) => .error (some f)
  | (_, some _) => .error none

/-- `ILLEGAL` as a token carries it (Table 19.2). -/
def illegalTok : Flt := ⟨0x01, 0, 0⟩

/-- COPY reads its records (R190); the ranks, shapes and element sizes must be equal. `none`: a record cannot be read yet. -/
def State.startCopy (s : State) (i : Nat) (o : AOp) : Option State :=
  match o.kind with
  | .copy a b _ =>
    match s.opRecord i o a with
    | .error none => none
    | .error (some f) => some (s.copyFault i o f)
    | .ok (s1, va, ta) =>
      match s1.opRecord i o b with
      | .error none => none
      | .error (some f) => some (s.copyFault i o f)
      | .ok (s2, vb, tb) =>
        match parseLayout va, parseLayout vb with
        | some x, some y =>
          if x.rank = y.rank ∧ x.shape = y.shape ∧ x.esz = y.esz then
            some (s2.updOp i fun z => { z with stat := .running, src := some x, dst := some y, maxTs := wmax z.maxTs (wmax ta tb) })
          else some (s2.endOp i o (.failed illegalTok))
        | _, _ => some (s2.endOp i o (.failed illegalTok))
  | _ => some (s.updOp i fun z => { z with stat := .running })

/-- The first copy of each core in the queue of a pod's copy engine, in the order of issue. -/
def firstOfCores (s : State) : List Nat → List Nat → List Nat
  | _, [] => []
  | seen, i :: r =>
    match Cells.find? s.ops i with
    | some o => if seen.contains o.tok.core then firstOfCores s seen r else i :: firstOfCores s (o.tok.core :: seen) r
    | none => firstOfCores s seen r

/-- A place in the round of the eight cores of a pod and its teams, seen from the one served last (R26, R192, R259). -/
def copyRank (served place : Nat) : Nat := (place + 8 - served) % 9

/-- Among first copies the one of the core that comes next in the round of the pod (R26, R192). -/
def roundRobin (s : State) (served : Nat) : List Nat → Option Nat
  | [] => none
  | i :: r =>
    let rank (j : Nat) : Nat := match Cells.find? s.ops j with | some o => copyRank served (o.tok.core % 8) | none => 9
    match roundRobin s served r with
    | none => some i
    | some j => some (if rank i ≤ rank j then i else j)

/-- A block of a team waits for the copy engine of its sender's pod (R259). -/
def State.blockWaits (s : State) (pod : Nat) : Bool :=
  s.teams.any fun x => ((Cells.find? s.gangs x.2.gang).map fun (g : Gang) => g.state == .bound || g.state == .saving).getD false &&
    x.2.msgs.any fun m => m.kind == 2 && !m.moved && !m.stalled && m.payload.isEmpty && podOf m.sender == pod

/-- The round of a pod's copy engine has come to a team's block (R192, R259). -/
def State.blockTurn (s : State) (pod : Nat) : Bool :=
  let p := s.pod pod
  s.blockWaits pod && (match (roundRobin s p.served (firstOfCores s [] p.queue)).bind (Cells.find? s.ops) with
    | some (o : AOp) => decide (copyRank p.served 8 < copyRank p.served (o.tok.core % 8))
    | none => true)

/-- COPY_ENGINE_START: the first queued copy of the core whose turn it is starts (R192). -/
def execCopyEngineStart (pod : Nat) (s : State) : Host.Outcome State Fault Refusal :=
  if s.blockTurn pod then .next s
  else
  match roundRobin s (s.pod pod).served (firstOfCores s [] (s.pod pod).queue) with
  | none => .next s
  | some i =>
    match Cells.find? s.ops i with
    | none => .next s
    | some o =>
      match (s.updPod pod fun p => { p with queue := p.queue.filter fun j => j != i, served := o.tok.core % 8 }).startCopy i o with
      | some t => .next t
      | none => .next s

/-- A store of an operation in system space is not acknowledged. -/
def State.opSysPending (s : State) (i : Nat) : Bool :=
  s.sys.any fun x => match x.2 with | .store _ (.op j) .. => j == i | _ => false

/-- COPY_COMPLETE: every granule has performed, or the copy has failed, and every system write is acknowledged: the
completion record, then the token (R187, R191, R193, R194, R301). -/
def execCopyComplete (op : Nat) (s : State) : Host.Outcome State Fault Refusal :=
  match Cells.find? s.ops op with
  | none => .next s
  | some o =>
    let copy := match o.kind with | .copy .. => true | .copyl .. => true | _ => false
    let ended : Option (Option Flt) := match o.stat with
      | .running => if o.granules.all fun g => o.done.contains g then some o.race else none
      | .failing f => some (some f)
      | _ => none
    match ended with
    | none => .next s
    | some bad =>
      if !copy || s.opSysPending op then .next s
      else
        match s.copyRecord op o (match bad with | some f => f.cause.toNat | none => 0) with
        | .stall => .next s
        | .fall r => .next (s.fallback o.tok.core r)
        | .fault f => .next (match bad with | some g => s.endOp op o (.failed g) | none => s.copyFault op o f)
        | .ok s1 t =>
          let bad := bad.orElse fun _ => (Cells.find? s1.ops op).bind fun x => x.race
          if s1.opSysPending op then
            .next (s1.updOp op fun x => { x with kind := (match x.kind with | .copy a b _ => .copy a b none | k => k) })
          else
            .next (match bad with
              | some f => s1.endOp op { o with maxTs := wmax o.maxTs t } (.failed f)
              | none => s1.endOp op o (.done (wmax o.maxTs t)))

/-- The lines of a prefetch: those that hold a genuine element of the tile. -/
def Layout.lines (l : Layout) : List Nat :=
  ((List.range l.count).filter l.genuine).foldl (fun a t => insertNew ((l.addr t).toNat / 128) (insertNew
    (((l.addr t).toNat + 2 ^ l.esz - 1) / 128) a)) []

/-- TPREF_COMPLETE: the walk has brought its lines to their homes, and to the pod cache if it was asked to (R195). -/
def execTprefComplete (op : Nat) (s : State) : Host.Outcome State Fault Refusal :=
  match Cells.find? s.ops op with
  | none => .next s
  | some o =>
    match o.kind with
    | .tpref a ctl =>
      (match s.opRecord op o a with
       | .error none => .next s
       | .error (some f) => .next (s.endOp op o (.failed f))
       | .ok (s1, v, _) =>
         match parseLayout v with
         | none => .next (s1.endOp op o (.failed illegalTok))
         | some l =>
           let w := o.who
           let bring (b : State) (i : Nat) : State :=
             match b.check w .read (BitVec.ofNat 64 (128 * i)) with
             | .ok loc =>
               let va : Word := BitVec.ofNat 64 (128 * i)
               let c := (b.noteTlb w.core false va).touchFor w (b.classOf w va (ctl.extractLsb' 0 2 |>.setWidth 3)) false loc va
               let pod := c.holders (256 + podOf o.tok.core) (128 * i)
               if ctl.getLsbD 2 && !c.homeOnly w false (128 * i) then (c.readAt pod (c.leaseOf o.tok.core) o.base loc 0).1 else c
             | _ => b
           .next ((l.lines.foldl bring s1).endOp op o (.done o.base)))
    | _ => .next s

/-! ### Fabric operations in progress -/

/-- A peer device can be reached over a port of the operation's partition (R381); whether one leads there is open (log entry 54). -/
def State.reachable (s : State) (o : AOp) (dev : Nat) : Bool :=
  Config.choice 0 30 dev && ((Cells.find? s.launches o.launch).bind fun l => Cells.find? s.parts l.part).any fun p => p.ports != 0

/-- Source, destination and length of a fabric operation, and whether it is an FGET. -/
def OpKind.fabric : OpKind → Option (Word × Word × Nat × Bool)
  | .fsend a b n => some (a, b, n.toNat, false)
  | .fget a b n => some (a, b, n.toNat, true)
  | _ => none

/-- `FABRIC` with the index of the failed message (Table 19.2). -/
def fabricFlt (va : Word) (msg : Nat) : Flt := ⟨0x0F, va, BitVec.ofNat 64 msg⟩

/-- The parts of a message at the peer: every one must lead to a peer device that can be reached, with the permission that
the operation needs (R208, R349). -/
def State.peerParts (s : State) (o : AOp) (acc : Acc) (va : Word) (n msg : Nat) : Except (Option Flt) (List (Loc × Nat × Nat)) :=
  match s.plan o.who acc (Sys2Proof.Machine.granules va n) with
  | (ps, e) =>
    match ps.find? fun p => (match p.1 with | .peer d _ => !s.reachable o d | _ => true), e with
    | some p, _ => .error (some (fabricFlt (BitVec.ofNat 64 p.2.1) msg))
    | none, some (.fault f) => .error (some f)
    | none, some _ => .error none
    | none, none => .ok ps

/-- The bytes of a message put into parts, one after the other. -/
def slices (bs : List Byte) : List (Loc × Nat × Nat) → List ((Loc × Nat × Nat) × List Byte)
  | [] => []
  | p :: r => (p, bs.take p.2.2) :: slices (bs.drop p.2.2) r

/-- A message of an FSEND is written at the peer: its local source is read, each granule as an engine access. -/
def State.sendMessage (s : State) (i : Nat) (o : AOp) (a b : Word) (off n msg : Nat) : State :=
  let w := o.who
  match s.peerParts o .write (b + BitVec.ofNat 64 off) n msg with
  | .error none => s
  | .error (some f) => s.endOp i o (.failed f)
  | .ok ls =>
    match s.plan w .read (Sys2Proof.Machine.granules (a + BitVec.ofNat 64 off) n) with
    | (oks, none) =>
      let step (r : State × List Byte × Word) (x : Loc × Nat × Nat) : State × List Byte × Word :=
        let (s1, v, t) := (r.1.noteOp i w false x).granRead w false o.base x
        (s1, r.2.1 ++ bytesOf x.2.2 v, wmax r.2.2 t)
      let (s1, bs, t) := oks.foldl step (s, [], o.maxTs)
      let s2 := (slices bs ls).foldl (fun (c : State) y => c.writeSys y.1.1 y.2) s1
      s2.updOp i fun x => { x with done := x.done ++ [msg], maxTs := t }
    | (_, some (.fault f)) => s.endOp i o (.failed f)
    | _ => s

/-- A message of an FGET arrives: its granules are written here, class 5 (R277); a local translation fault is
replayable. -/
def State.getMessage (s : State) (i : Nat) (o : AOp) (a b : Word) (off n msg : Nat) : State :=
  let w := o.who
  match s.peerParts o .read (a + BitVec.ofNat 64 off) n msg with
  | .error none => s
  | .error (some f) => s.endOp i o (.failed f)
  | .ok ls =>
    match s.plan w .write (Sys2Proof.Machine.granules (b + BitVec.ofNat 64 off) n) with
    | (oks, none) =>
      let bs := ls.flatMap fun p => bytesOf p.2.2 (s.natAt p.1 p.2.2)
      let step (r : State × Word) (y : (Loc × Nat × Nat) × List Byte) : State × Word :=
        let (s1, t) := (r.1.noteOp i w true y.1).granWrite w (.op i) false o.base y.1 (natOf y.2)
        (s1, wmax r.2 t)
      let (s1, t) := (slices bs oks).foldl step (s, o.maxTs)
      s1.updOp i fun x => { x with done := x.done ++ [msg], maxTs := t }
    | (_, some (.fault f)) =>
      if f.cause = 0x04 then (s.opFault o 4 2 (4096 * o.done.length) f).updOp i fun x => { x with stat := .stalled f }
      else s.endOp i o (.failed f)
    | _ => s

/-- FABRIC_MESSAGE_ARRIVAL: a message passes its CRC and is written, or fails it and waits to be sent again. -/
def execFabricMessageArrival (op msg : Nat) (ok : Bool) (s : State) : Host.Outcome State Fault Refusal :=
  match Cells.find? s.ops op with
  | none => .next s
  | some o =>
    match o.kind.fabric with
    | none => .next s
    | some (a, b, n, get) =>
      let off := 4096 * msg
      let fails := Cells.get 0 o.fails msg
      if o.stat != .running || decide (off ≥ n) || o.done.contains msg || fails % 2 == 1 then .next s
      else if !ok then .next (s.updOp op fun x => { x with fails := Cells.put x.fails msg (fails + 1) })
      else if get then .next (s.getMessage op o a b off (min 4096 (n - off)) msg)
      else .next (s.sendMessage op o a b off (min 4096 (n - off)) msg)

/-- FABRIC_MESSAGE_RESEND: a message that failed is sent again; at its ninth failure the operation fails, with one
fault record at this end (R209, R25). -/
def execFabricMessageResend (op msg : Nat) (s : State) : Host.Outcome State Fault Refusal :=
  match Cells.find? s.ops op with
  | none => .next s
  | some o =>
    match o.kind.fabric with
    | none => .next s
    | some (a, b, _, get) =>
      let fails := Cells.get 0 o.fails msg
      if fails % 2 = 0 then .next s
      else if fails ≥ 17 then
        let f := fabricFlt ((if get then a else b) + BitVec.ofNat 64 (4096 * msg)) msg
        .next ((if o.tok.k = 63 ∨ (s.tokCore o.tok).gen ≠ o.tok.gen then s else s.opFault o 7 0 0 f).endOp op o (.failed f))
      else .next (s.updOp op fun x => { x with fails := Cells.put x.fails msg (fails + 1) })

/-- FABRIC_OP_COMPLETE: every message is written and acknowledged; an operation without a reachable peer fails (R208), and so
does one that met a race in mode 1 (R301). -/
def execFabricOpComplete (op : Nat) (s : State) : Host.Outcome State Fault Refusal :=
  match Cells.find? s.ops op with
  | none => .next s
  | some o =>
    match o.kind.fabric with
    | none => .next s
    | some (a, b, n, get) =>
      match s.peerParts o (if get then .read else .write) (if get then a else b) 1 0 with
      | .error (some f) => if o.done.isEmpty then .next (s.endOp op o (.failed f)) else .next s
      | .error none => .next s
      | .ok _ =>
        if o.stat == .running && ((List.range ((n + 4095) / 4096)).all fun m => o.done.contains m) && !s.opSysPending op then
          .next (s.endOp op o (match o.race with | some f => .failed f | none => .done o.maxTs))
        else .next s

/-! ### Fabric barriers -/

/-- An arrival of this device on a barrier that another one counts has not left yet. -/
def State.unsent (s : State) (r : BarRef) : Bool :=
  s.ops.any fun x => match x.2.kind with | .barrier g b _ _ _ _ sent => g == r.owner && b == r.number && !sent | _ => false

/-- An earlier write of the core to a peer has not performed (R295): its flow's markers cannot be gathered. -/
def State.peerPending (s : State) (core i : Nat) : Bool :=
  s.sys.any fun x => decide (x.1 < i) && (match x.2 with | .store c _ (.peer ..) _ => c == core | _ => false)

/-- FLUSH_MARKER_GATHER: every destination has gathered the markers, so that every earlier write of the core to a peer has
performed: the fence, or the release arrival's packet, goes on (R121, R203, R295). -/
def execFlushMarkerGather (op : Nat) (s : State) : Host.Outcome State Fault Refusal :=
  match Cells.find? s.sys op, Cells.find? s.ops op with
  | some (.fence c), _ => .next (if s.peerPending c op then s else { s with sys := Cells.del s.sys op })
  | _, some o =>
    (match o.kind with
     | .barrier g b w ph rel ts _ =>
       .next (if s.peerPending o.tok.core op then s else s.updOp op fun x => { x with kind := .barrier g b w ph rel ts true })
     | _ => .next s)
  | _, _ => .next s

/-- The counting device refuses the oldest arrival of this device: its word fails with FABRIC, a `BAR` precisely and the
others through their tokens (R204). While a `BAR` is stopped in its wait, the refusal waits. -/
def State.refuseArrival (s : State) (r : BarRef) : State :=
  match List.find? (fun (x : Nat × AOp) =>
      match x.2.kind with | .barrier g b _ _ _ _ sent => g == r.owner && b == r.number && sent | _ => false) s.ops with
  | none => s
  | some (i, o) =>
    let f : Flt := ⟨0x0F, 0, 0⟩
    let s1 := { s with ops := Cells.del s.ops i }.updBarrier r fun b => { b with toks := b.toks.filter fun t => t != o.tok }
    match o.kind with
    | .barrier _ _ true _ _ _ _ =>
      if (s1.core o.tok.core).gen ≠ o.tok.gen then s
      else
        (match (s1.core o.tok.core).user.stat with
         | .waiting (.barrier ..) => s1.trapOn o.tok.core f
         | .stopped (some (.barrier ..)) => s
         | .trapped (some (.barrier ..)) => s
         | _ => s1)
    | _ => s1.resolveFrom o.tok (.failed f) 7 o.at_ o.base

/-- FABRIC_BARRIER_PACKET: on the counting device a remote arrival is counted, or refused if the entry is not valid; on
another device the packet is this device's own, and whether the counting device takes it is open (R204, log entry 54). While a
full phase waits for a slot (R273), the packet waits. `round` names the device that the packet comes from. -/
def execFabricBarrierPacket (part entry round : Nat) (ts : BitVec 64) (s : State) : Host.Outcome State Fault Refusal :=
  let r : BarRef := ⟨part, 64 + entry⟩
  let e := s.fbar part entry
  if fbValid e.entry && fbMaster e.entry then
    let s1 := s.tryPhase r
    if s1.phaseFull r then .next s1
    else
      .next ((s1.updBarrier r fun b => { b with count := b.count + 1, n := fbCount e.entry, ts := wmax b.ts ts }).updPart part fun p =>
        let x := Cells.get ⟨0, Barrier.reset, []⟩ p.fbars entry
        { p with fbars := Cells.put p.fbars entry { x with remote := insertNew round x.remote } })
  else if fbValid e.entry && Config.choice s.fresh 31 entry then .next (s.refuseArrival r)
  else .next s

/-- FABRIC_BARRIER_COMPLETION: the packet with the phase number `round` completes the waiters of this device (R204), once no slot
of the phase lies in a bank in transition (R273). -/
def execFabricBarrierCompletion (part entry round : Nat) (ts : BitVec 64) (s : State) : Host.Outcome State Fault Refusal :=
  let r : BarRef := ⟨part, 64 + entry⟩
  let b := s.barrier r
  if s.counts r || !fbValid (s.fbar part entry).entry || b.phase != round || s.unsent r || s.collxHeld b then .next s
  else
    let s1 := { s with ops := s.ops.filter fun x =>
      match x.2.kind with | .barrier g n _ ph _ _ _ => !(g == part && n == 64 + entry && ph == round) | _ => true }
    .next (s1.completePhase r (wmax b.ts ts))

end Sys2Proof.Machine
end

