-- ==== Sys2Proof/Machine/Engines.lean ====
section
/-! DEFINITION. Sys2Proof/Machine/Engines.lean: the meanings of the L and T words, of the shared address-register words and
SYNC, and of LOOPE (spec/01, spec/05). -/

namespace Sys2Proof.Machine

/-- A piece of a transfer: address, bytes, offset in LS. -/
structure Piece where
  va : Nat
  n : Nat
  ls : Nat
  deriving DecidableEq, Repr

/-- The granules of a block of `n` bytes whose LS image starts at `ls` (R104). -/
def blockPieces (va : Word) (n ls : Nat) : List Piece :=
  (granules va n).map fun g => ⟨g.1, g.2, ls + (g.1 - va.toNat)⟩

/-- C looks again at what it waits for: L has filled the scale queue or the decoder FIFO. -/
def State.wakeC (s : State) : State :=
  s.onEng .c fun x => { x with stat := (match x.stat with | .waiting .fifo => .ready | .waiting .scaleQueue => .ready | st => st) }

/-- The engine's PTS rises to the timestamps of the command's granules (R289). -/
def State.raiseEng (s : State) (e : Eng) (t : Word) : State :=
  s.onEng e fun x => { x with pts := wmax x.pts (wmax x.offsetTs t) }

/-- The pieces read into LS with the base timestamp: the state and the largest timestamp (R289). -/
def fillPieces (e : Eng) (w : Who) (na : Bool) (base : Word) : List (Piece × Loc) → State × Word → State × Word
  | [], r => r
  | (p, l) :: ps, (s, t) =>
    let (s1, v, u) := (s.engRace e w (l, p.va, p.n) false).granRead w na base (l, p.va, p.n)
    fillPieces e w na base ps (s1.onCore fun c => c.lsPut p.ls p.n v, wmax t u)

/-- A memory-to-LS transfer that goes on at the recorded offset (R104, R358). `tail` is the fault of what lies behind the
pieces, if anything does. -/
def engFill (e : Eng) (hint : BitVec 3) (ps : List Piece) (tail : Option Flt) (s : State) : Eff :=
  let x := s.cur.eng e
  let skip := x.offset / 32
  let rest := ps.drop skip
  let w := s.whoE e false
  let (oks, bad) := s.plan w .read (rest.map fun p => (p.va, p.n))
  let seen := s.noteGranules w (rest.map fun p => (p.va, p.n)) oks.length
  let go (s : State) : State × Word :=
    fillPieces e w (hintNa hint) x.baseTs (rest.zip (oks.map fun o => o.1)) (s.touchAll w hint false oks, x.offsetTs)
  match bad, tail with
  | none, none => let (s1, t) := go s; .done (s1.raiseEng e t) false
  | none, some f => .trap f s
  | some (.fault f), _ =>
    if f.cause = 0x04 then
      let (s1, t) := go seen
      .replay f (32 * (skip + oks.length)) (s1.onEng e fun y => { y with offsetTs := t })
    else .trap f seen
  | some _, _ => .wait .other

/-- The pieces written from values with the base timestamp. -/
def drainPieces (e : Eng) (w : Who) (na : Bool) (base : Word) : List ((Loc × Nat × Nat) × Nat) → State × Word → State × Word
  | [], r => r
  | (o, v) :: ps, (s, t) =>
    let (s1, u) := (s.engRace e w o true).granWrite w (.seq e.seq) na base o v
    drainPieces e w na base ps (s1, wmax t u)

/-- A transfer to memory of pieces with their values (R104, R306, R358). `tail` is the fault of what lies behind the pieces, if
anything does. DESIGN CHOICE: a granule of system space enters no total order (R292), and the word's pips follow as soon as it is
sent (R13, log entry 121). -/
def engDrain (e : Eng) (sync : Bool) (hint : BitVec 3) (ps : List (Piece × Nat)) (tail : Option Flt) (s : State) : Eff :=
  let x := s.cur.eng e
  let skip := x.offset / 32
  let rest := ps.drop skip
  let w := s.whoE e sync
  let (oks, bad) := s.plan w .write (rest.map fun p => (p.1.va, p.1.n))
  let seen := s.noteGranules w (rest.map fun p => (p.1.va, p.1.n)) oks.length
  let go (s : State) : State × Word :=
    drainPieces e w (hintNa hint) x.baseTs (oks.zip (rest.map fun p => p.2)) (s.touchAll w hint true oks, x.offsetTs)
  match bad, tail with
  | some (.fault f), _ =>
    if s.cur.surrogate || f.cause != 0x04 then .trap f seen
    else
      let (s1, t) := go seen
      .replay f (32 * (skip + oks.length)) (s1.onEng e fun y => { y with offsetTs := t })
  | some _, _ => .wait .other
  | none, some f => .trap f s
  | none, none =>
    if s.cur.surrogate && oks.any fun o => o.1.isSystem then .stop (s.fallback s.agent 0x85)
    else if s.cur.surrogate && !s.guardRoom s.agent oks then .stop (s.fallback s.agent 0x80)
    else let (s1, t) := go s; .done (s1.raiseEng e t) false

/-- A record of `n` bytes that a command reads when it starts, as the hint says (R61): its granules have the command's base,
and their timestamps count when it is performed (R289). Or the fault of its first granule that fails. -/
def engRecord (e : Eng) (hint : BitVec 3) (va : Word) (n : Nat) (s : State) : Except Eff (State × Nat) :=
  let w := s.whoE e false
  let x := s.cur.eng e
  match s.plan w .read (granules va n) with
  | (oks, none) =>
    let step (r : State × Nat × Nat × Word) (o : Loc × Nat × Nat) : State × Nat × Nat × Word :=
      let (s1, v, t) := (r.1.engRace e w o false).granRead w (hintNa hint) x.baseTs o
      (s1, r.2.1 + 256 ^ r.2.2.1 * v, r.2.2.1 + o.2.2, wmax r.2.2.2 t)
    let (s1, v, _, t) := oks.foldl step (s.touchAll w hint false oks, 0, 0, x.offsetTs)
    .ok (s1.onEng e fun y => { y with offsetTs := t }, v)
  | (oks, some (.fault f)) =>
    let seen := s.noteGranules w (granules va n) oks.length
    .error (if f.cause = 0x04 then .replay f x.offset seen else .trap f seen)
  | (_, some _) => .error (.wait .other)

/-- `ILLEGAL` of an engine word at execution: TRAPINFO holds the word (Table 19.2). -/
def engIllegal (e : Eng) (s : State) : Eff :=
  .trap ⟨0x01, 0, (((s.cur.eng e).entry.map fun (q : QEntry) => q.word).getD 0).setWidth 64⟩ s

/-- The layout record of LDG and SSC and its tile (R106): an invalid record or a tile above the bound is illegal. DESIGN
CHOICE: whether a command that resumes after a replayable fault reads its record again the spec does not say; here it
does (log entry 102). -/
def engTile (e : Eng) (hint : BitVec 3) (a : BitVec 4) (len : BitVec 7) (s : State) : Except Eff (State × Layout) :=
  match engRecord e hint ((s.cur.eng e).getA a) 128 s with
  | .error x => .error x
  | .ok (s1, v) =>
    match parseLayout v with
    | none => .error (engIllegal e s1)
    | some l => if l.count * 2 ^ l.esz > 64 * units len then .error (engIllegal e s1) else .ok (s1, l)

/-- The pieces of an element. -/
def elemPieces (l : Layout) (ls t : Nat) : List Piece := blockPieces (l.addr t) (2 ^ l.esz) (ls + t * 2 ^ l.esz)

/-- Pieces that follow one another in memory and in LS within an aligned 32 bytes are one granule (R104). -/
def joinPieces : List Piece → List Piece
  | [] => []
  | p :: r =>
    match joinPieces r with
    | q :: rest =>
      if q.va = p.va + p.n ∧ q.ls = p.ls + p.n ∧ p.va / 32 = q.va / 32 then ⟨p.va, p.n + q.n, p.ls⟩ :: rest else p :: q :: rest
    | [] => [p]

/-- The granules of the elements of a tile. The element offset of a fault counts 32 for each (R104, R358). DEDUCED (log entry 137). -/
def tilePieces (l : Layout) (ls : Nat) (ts : List Nat) : List Piece := joinPieces (ts.flatMap (elemPieces l ls))

/-! ### L words -/

/-- LDL: a block of memory into LS (R104, R105). -/
def execLdl (a b : BitVec 4) (h : BitVec 3) (l : BitVec 7) (pip : BitVec 4) (s : State) : Host.Outcome State Fault Refusal :=
  .next (engWord .l pip (fun s =>
    let x := s.cur.l
    engFill .l h (blockPieces (x.getA a) (64 * units l) (lsAddr (x.getA b))) none s) s)

/-- Bytes of a block at an offset of the pod scratch window that lie in the window (R268). -/
def scratchFit (o : Word) (n : Nat) : Nat := if o.toNat < 2 ^ 23 then min n (2 ^ 23 - o.toNat) else 0

/-- The pieces of a block of pod scratch (R104, R268). -/
def scratchPieces (o : Word) (n ls : Nat) : List Piece := blockPieces (BitVec.ofNat 64 scratchBase + o) (scratchFit o n) ls

/-- `WINDOW` of a block of pod scratch that runs past the window (R105). DESIGN CHOICE: there is no window address there;
`TRAPADDR` is the base of the window and the offset of the first such byte (log entry 103). -/
def scratchTail (o : Word) (n : Nat) : Option Flt :=
  if scratchFit o n < n then some (windowFlt (BitVec.ofNat 64 scratchBase + o + BitVec.ofNat 64 (scratchFit o n)) 64) else none

/-- LDS: a block of pod scratch into LS. -/
def execLds (a b : BitVec 4) (h : BitVec 3) (l : BitVec 7) (pip : BitVec 4) (s : State) : Host.Outcome State Fault Refusal :=
  .next (engWord .l pip (fun s =>
    let x := s.cur.l
    let n := 64 * units l
    engFill .l h (scratchPieces (x.getA a) n (lsAddr (x.getA b))) (scratchTail (x.getA a) n) s) s)

/-- LDG: the tile of a layout record into LS, mirrored (R106). -/
def execLdg (a b : BitVec 4) (h : BitVec 3) (l : BitVec 7) (pip : BitVec 4) (s : State) : Host.Outcome State Fault Refusal :=
  .next (engWord .l pip (fun s =>
    match engTile .l h a l s with
    | .error e => e
    | .ok (s1, y) =>
      engFill .l h (tilePieces y (lsAddr (s.cur.l.getA b)) (List.range y.count)) none s1) s)

/-- LDQ: scales appended to the scale queue when it has room for all of them (R107). -/
def execLdq (a : BitVec 4) (h : BitVec 3) (l : BitVec 7) (pip : BitVec 4) (s : State) : Host.Outcome State Fault Refusal :=
  .next (engWord .l pip (fun s =>
    let n := 2 * l.toNat
    if s.cur.vec.scaleQ.length + n > 64 then .wait .scaleQueue
    else
      match engRecord .l h (s.cur.l.getA a) n s with
      | .error e => e
      | .ok (s1, v) =>
        .done ((s1.raiseEng .l 0).wakeC.onVec fun y => { y with scaleQ := y.scaleQ ++ bytesOf n v }) false) s)

/-- Every place of a stream lies in a stream-read-only window (R277): the first address that does not. -/
def State.sroMiss (s : State) (va n : Nat) : Option Flt :=
  ((granules (BitVec.ofNat 64 va) n).find? fun g =>
    match s.windowAt s.agent (BitVec.ofNat 64 g.1) with
    | some (_, x) => !x.flags.getLsbD 2
    | none => true).map fun g =>
      windowFlt (BitVec.ofNat 64 g.1) (match s.windowAt s.agent (BitVec.ofNat 64 g.1) with | some (i, _) => i | none => 64)

/-- A piece of a stream read for the decoder. -/
def streamRead (hint : BitVec 3) (va n : Nat) (s : State) : Except Eff (State × Nat) :=
  match s.sroMiss va n with
  | some f => .error (.trap f s)
  | none => engRecord .l hint (BitVec.ofNat 64 va) n s

/-- `DECODE` of a slot (R198). -/
def decodeTrap (va k : Nat) (s : State) : Eff := .trap ⟨0x09, BitVec.ofNat 64 va, BitVec.ofNat 64 k⟩ s

/-- The k-th slot of a stream into the FIFO (R197, R198). DESIGN CHOICE: where the descriptor's code names no slot size, TRAPADDR is the
address that the slot has with the smallest size, 32 (log entry 125). -/
def ldfSlot (hint : BitVec 3) (d k : Nat) (s : State) : Except Eff State :=
  match streamRead hint d 32 s with
  | .error e => .error e
  | .ok (s1, v) =>
    match parseStream v with
    | none => .error (decodeTrap (fieldAt v 0 8 + k * slotSize (fieldAt v 16 1)) k s1)
    | some st =>
      let va := st.slots + k * st.size
      if k ≥ st.count then .error (decodeTrap va k s1)
      else
        match streamRead hint va st.size s1 with
        | .error e => .error e
        | .ok (s2, b) =>
          let put (s : State) (bs : List Byte) : State :=
            s.wakeC.onVec fun y => { y with fifo := y.fifo ++ bs, slots := y.slots ++ [(BitVec.ofNat 64 va, k)] }
          match decodeSlot st.size b with
          | none => .error (decodeTrap va k s2)
          | some (.codes l) => .ok (put s2 (codeBytes l))
          | some (.escape o) =>
            match streamRead hint (st.side + o) 128 s2 with
            | .error e => .error e
            | .ok (s3, x) => .ok (put s3 (bytesOf 128 x))

/-- LDF: slots decoded in order into the decoder FIFO, one at each turn, each when the FIFO has room (R107). -/
def execLdf (a b : BitVec 4) (h : BitVec 3) (l : BitVec 7) (pip : BitVec 4) (s : State) : Host.Outcome State Fault Refusal :=
  .next (engWord .l pip (fun s =>
    let x := s.cur.l
    let i := x.offset
    if s.cur.vec.fifo.length + 128 > 65536 then .wait .fifo
    else
      match ldfSlot h (x.getA a).toNat ((x.getA b).toNat + i) s with
      | .error (.replay f _ s1) => .replay f i s1
      | .error e => e
      | .ok s1 =>
        if i + 1 < units l then .more (s1.onEng .l fun y => { y with offset := i + 1 }) else .done (s1.raiseEng .l 0) false) s)

/-- The lines of a range: their first addresses. -/
def linesOf (va : Word) (n : Nat) : List Nat :=
  (List.range ((va.toNat + n - 1) / 128 - va.toNat / 128 + 1)).map fun i => 128 * (va.toNat / 128 + i)

/-- LPF: requests the lines; one that fails its checks is dropped (R108). -/
def execLpf (a : BitVec 4) (h : BitVec 3) (l : BitVec 7) (pip : BitVec 4) (s : State) : Host.Outcome State Fault Refusal :=
  .next (engWord .l pip (fun s =>
    let w := s.whoE .l false
    let add (s1 : State) (va : Nat) : State :=
      match s1.check w .read (BitVec.ofNat 64 va) with
      | .ok loc =>
        let r : Req := { kind := .line (s1.classOf w (BitVec.ofNat 64 va) h) (!hintNa h), loc := loc, va := BitVec.ofNat 64 va,
                         core := s.agent, e := .l, pts := s.cur.l.pts, floor := s.cur.floor,
                         launch := (s.cur.binding.map fun x => x.launch).getD 0, issued := s.cur.l.pts, number := s.cur.launchId,
                         iter := s.cur.iter, gen := s.cur.gen, pos := (s.cur.l.entry.map fun q => q.pos).getD 0,
                         pushes := [], key := [],
                         at_ := (s.cur.l.entry.map fun q => q.at_).getD 0, passed := [] }
        { s1.noteTlb s.agent false (BitVec.ofNat 64 va) with reqs := Cells.put s1.reqs s1.nextId r, nextId := s1.nextId + 1 }
      | _ => s1
    .done ((linesOf (s.cur.l.getA a) (64 * units l)).foldl add s) false) s)

/-! ### T words -/

/-- With G set and the tile-clean flag 0, nothing is written (R109). -/
def gated (g : BitVec 1) (body : State → Eff) (s : State) : Eff :=
  if g = 1 ∧ !s.cur.tileClean then .done s false else body s

/-- The values of the LS bytes of pieces. -/
def lsValues (s : State) (ps : List Piece) : List (Piece × Nat) := ps.map fun p => (p, s.cur.lsNat p.ls p.n)

/-- SSL: a block of LS to memory. -/
def execSsl (a b : BitVec 4) (h : BitVec 3) (l : BitVec 7) (g : BitVec 1) (pip : BitVec 4) (s : State) :
    Host.Outcome State Fault Refusal :=
  .next (engWord .t pip (gated g fun s =>
    let x := s.cur.t
    engDrain .t false h (lsValues s (blockPieces (x.getA a) (64 * units l) (lsAddr (x.getA b)))) none s) s)

/-- SSS: a block of LS to pod scratch. -/
def execSss (a b : BitVec 4) (h : BitVec 3) (l : BitVec 7) (g : BitVec 1) (pip : BitVec 4) (s : State) :
    Host.Outcome State Fault Refusal :=
  .next (engWord .t pip (gated g fun s =>
    let x := s.cur.t
    let n := 64 * units l
    engDrain .t false h (lsValues s (scratchPieces (x.getA a) n (lsAddr (x.getA b)))) (scratchTail (x.getA a) n) s) s)

/-- SSC: the LS tile to the genuine elements of the record's tile (R106). -/
def execSsc (a b : BitVec 4) (h : BitVec 3) (l : BitVec 7) (g : BitVec 1) (pip : BitVec 4) (s : State) :
    Host.Outcome State Fault Refusal :=
  .next (engWord .t pip (gated g fun s =>
    match engTile .t h a l s with
    | .error e => e
    | .ok (s1, y) =>
      let ts := (List.range y.count).filter y.genuine
      engDrain .t false h (lsValues s1 (tilePieces y (lsAddr (s.cur.t.getA b)) ts)) none s1) s)

/-- SFLG.SET. -/
def execSflgSet (pip : BitVec 4) (s : State) : Host.Outcome State Fault Refusal :=
  .next (engWord .t pip (fun s => .done (s.onCore fun c => { c with tileClean := true }) false) s)

/-- A system-scope granule of an earlier T word has not performed (R111). -/
def State.tPending (s : State) : Bool :=
  s.sys.any fun x => match x.2 with | .store c (.seq q) .. => c == s.agent && q == .t | _ => false

/-- The aligned 8-byte store of T's release, behind every earlier granule of T (R111). -/
def flagStore (va v : Word) (s : State) : Eff :=
  if va.toNat % 8 ≠ 0 then .trap ⟨0x03, va, 0⟩ s
  else if s.tPending then .wait .other
  else engDrain .t true 0 [(⟨va.toNat, 8, 0⟩, v.toNat)] none s

/-- SFLG.ST. -/
def execSflgSt (d a pip : BitVec 4) (s : State) : Host.Outcome State Fault Refusal :=
  .next (engWord .t pip (fun s => flagStore (s.cur.t.getA d) (s.cur.t.getA a) s) s)

/-- SFLG.STF: stores the tile-clean flag and sets it. -/
def execSflgStf (d pip : BitVec 4) (s : State) : Host.Outcome State Fault Refusal :=
  .next (engWord .t pip (fun s =>
    match flagStore (s.cur.t.getA d) (ofBool s.cur.tileClean) s with
    | .done s1 later => .done (s1.onCore fun c => { c with tileClean := true }) later
    | e => e) s)

/-! ### Address registers and bare pips (R112) -/

/-- AINC on L: adds 64-byte units. -/
def execAincL (d a : BitVec 4) (i : BitVec 10) (pip : BitVec 4) (s : State) : Host.Outcome State Fault Refusal :=
  .next (engWord .l pip (fun s =>
    .done (s.onEng .l fun x => x.setA d (x.getA a + 64 * x.imm i)) false) s)

/-- AADD on L. -/
def execAaddL (d a b pip : BitVec 4) (s : State) : Host.Outcome State Fault Refusal :=
  .next (engWord .l pip (fun s => .done (s.onEng .l fun x => x.setA d (x.getA a + x.getA b)) false) s)

/-- AMOV on L. -/
def execAmovL (d a pip : BitVec 4) (s : State) : Host.Outcome State Fault Refusal :=
  .next (engWord .l pip (fun s => .done (s.onEng .l fun x => x.setA d (x.getA a)) false) s)

/-- SYNC on L: its pips only. -/
def execSyncL (pip : BitVec 4) (s : State) : Host.Outcome State Fault Refusal :=
  .next (engWord .l pip (fun s => .done s false) s)

/-- AINC on T: adds 64-byte units. -/
def execAincT (d a : BitVec 4) (i : BitVec 10) (pip : BitVec 4) (s : State) : Host.Outcome State Fault Refusal :=
  .next (engWord .t pip (fun s =>
    .done (s.onEng .t fun x => x.setA d (x.getA a + 64 * x.imm i)) false) s)

/-- AADD on T. -/
def execAaddT (d a b pip : BitVec 4) (s : State) : Host.Outcome State Fault Refusal :=
  .next (engWord .t pip (fun s => .done (s.onEng .t fun x => x.setA d (x.getA a + x.getA b)) false) s)

/-- AMOV on T. -/
def execAmovT (d a pip : BitVec 4) (s : State) : Host.Outcome State Fault Refusal :=
  .next (engWord .t pip (fun s => .done (s.onEng .t fun x => x.setA d (x.getA a)) false) s)

/-- SYNC on T: its pips only. -/
def execSyncT (pip : BitVec 4) (s : State) : Host.Outcome State Fault Refusal :=
  .next (engWord .t pip (fun s => .done s false) s)

/-- AINC on C: adds 64-byte units. -/
def execAincC (d a : BitVec 4) (i : BitVec 10) (pip : BitVec 4) (s : State) : Host.Outcome State Fault Refusal :=
  .next (engWord .c pip (fun s =>
    .done (s.onEng .c fun x => x.setA d (x.getA a + 64 * x.imm i)) false) s)

/-- AADD on C. -/
def execAaddC (d a b pip : BitVec 4) (s : State) : Host.Outcome State Fault Refusal :=
  .next (engWord .c pip (fun s => .done (s.onEng .c fun x => x.setA d (x.getA a + x.getA b)) false) s)

/-- AMOV on C. -/
def execAmovC (d a pip : BitVec 4) (s : State) : Host.Outcome State Fault Refusal :=
  .next (engWord .c pip (fun s => .done (s.onEng .c fun x => x.setA d (x.getA a)) false) s)

/-- SYNC on C: its pips only. -/
def execSyncC (pip : BitVec 4) (s : State) : Host.Outcome State Fault Refusal :=
  .next (engWord .c pip (fun s => .done s false) s)

/-! ### Engine loops (R9, R10) -/

/-- The outer LOOPE: its word leaves the queue, and the body starts or is discarded. -/
def Engine.openOuter (x : Engine) (len cnt : Nat) : Engine :=
  let n := if cnt = 0 then x.lc0.toNat else cnt
  let y := { x with queue := x.queue.tail, lc0 := BitVec.ofNat 32 n }
  if n = 0 then { y with skip := len } else { y with outer := some ⟨n, 0, 0, len⟩, loopMem := [], latched := [], lp := 0 }

/-- The inner LOOPE: its count is latched at its first execution in the capture. -/
def Engine.openInner (x : Engine) (len cnt : Nat) : Engine :=
  let n := (Cells.find? x.latched x.lp).getD (if cnt = 0 then x.lc1.toNat else cnt)
  let y := x.take
  let z := { y with latched := Cells.put x.latched x.lp n, lc1 := BitVec.ofNat 32 n }
  if n = 0 then { z with skip := len } else { z with inner := some ⟨n, 0, z.lp, len⟩ }

/-- LOOPE on the engine it names. -/
def execLoope (e : BitVec 2) (l : BitVec 8) (c : BitVec 13) (s : State) : Host.Outcome State Fault Refusal :=
  .next (s.onEng (engOfNum e) fun x =>
    let y := match x.outer with
      | none => x.openOuter l.toNat c.toNat
      | some _ => x.openInner l.toNat c.toNat
    { y.closeOuter with stat := .ready })

/-- A body word of a loop that runs zero times: it is discarded, or only written into loop memory (R9). A prefix that ends
the body stands before the word after the body and stays with it (R59; log entry 91). -/
def Engine.skipWord (x : Engine) : Engine :=
  match x.entry with
  | none => x
  | some q =>
    let y := { x.take with skip := x.skip - 1 }
    let z := y.closeOuter
    if q.word.extractLsb' 29 3 == 6 && x.skip == 1 && (z.outer.isNone || z.lp == y.lp) then { z with pfx := prefixOf q.word q.at_ }
    else z

end Sys2Proof.Machine
end

