-- ==== Sys2Proof/Machine/Angle.lean ====
section
/-! DEFINITION. Sys2Proof/Machine/Angle.lean: angle codes, the coefficients of a cell, the cell and the derived angle
(spec/02, R44 to R48; spec/07, R156, R179). Sines and cosines are computed in fixed point with 256 fraction bits, far
beyond the 17 bits that the correctly rounded coefficients keep. -/

namespace Sys2Proof.Machine

/-- π with 256 fraction bits. -/
def piFix : Int := 0x3243f6a8885a308d313198a2e03707344a4093822299f31d0082efa98ec4e6c89

/-- Terms of the Taylor series of the sine (odd `n`) or cosine (even `n`): `fuel` terms from the term `t = x^n / n!`. -/
def taylor (x2 : Int) : Nat → Int → Nat → Int → Int
  | 0, _, _, acc => acc
  | fuel + 1, t, n, acc =>
    let t' := -(t * x2 / 2 ^ 256) / (((n + 1) * (n + 2) : Nat) : Int)
    taylor x2 fuel t' (n + 2) (acc + t')

/-- cos and sin of `num / den` turns with 256 fraction bits. -/
def cosSin (num den : Nat) : Int × Int :=
  let x := 2 * piFix * num / den
  let x2 := x * x / 2 ^ 256
  (taylor x2 36 (2 ^ 256) 0 (2 ^ 256), taylor x2 36 x 1 x)

/-- To the nearest multiple of 2^−16; the exact values of R46 lie on no tie but at the exact turns. -/
def coefOf (v : Int) : Int := (v + 2 ^ 239) / 2 ^ 240

/-- The Q1.16 coefficients c and s of an ANG16 code, in units of 2^−16 (R46). -/
def coeffs (code : Nat) : Int × Int :=
  let r := code % 16384
  let (c, s) := if r = 0 then (65536, 0) else let (a, b) := cosSin r 65536; (coefOf a, coefOf b)
  match code / 16384 % 4 with
  | 0 => (c, s)
  | 1 => (-s, c)
  | 2 => (-c, -s)
  | _ => (s, -c)

/-- A coefficient as a number. -/
def coefNum (c : Int) : Num := .fin (c < 0) c.natAbs (-16)

/-- The cell of R47 and R48 on the values of a pair; results rounded to `f`. -/
def cell (f : FFmt) (code : Nat) (x y : Num) : Num × Num :=
  let out (n : Num) : Num := f.decode (f.round false n)
  match code with
  | 0x0000 => (out x, out y)
  | 0x4000 => (out y.negate, out x)
  | 0x8000 => (out x.negate, out y.negate)
  | 0xC000 => (out y, out x.negate)
  | _ =>
    let (c, s) := coeffs code
    let cn := coefNum c
    let sn := coefNum s
    (out ((cn.mul x).sub (sn.mul y)), out ((sn.mul x).add (cn.mul y)))

/-- Whether the direction `(u, v)`, both not negative and not both zero, lies at or beyond `(2k + 1) / 131072` turns. -/
def beyond (u v : Nat) (k : Nat) : Bool :=
  let (c, s) := cosSin (2 * k + 1) 131072
  decide ((v : Int) * c - (u : Int) * s ≥ 0)

/-- The number of half-odd multiples of a code unit in `[lo, hi)` that the direction has passed, by bisection. -/
def angleSearch (u v : Nat) : Nat → Nat → Nat → Nat
  | 0, lo, _ => lo
  | fuel + 1, lo, hi =>
    if lo ≥ hi then lo
    else
      let mid := (lo + hi) / 2
      if beyond u v mid then angleSearch u v fuel (mid + 1) hi else angleSearch u v fuel lo mid

/-- The nearest code to the angle of the direction `(u, v)` in the first quadrant, `u > 0`. -/
def firstQuadrant (u v : Nat) : Nat := angleSearch u v 16 0 16384

/-- The direction of two numbers that are no NaN, as integers: with an infinity, finite terms count as zero (the IEEE 754
conventions of atan2). -/
def direction (x y : Num) : Int × Int :=
  match x, y with
  | .fin a m e, .fin b n k =>
    let q := min e k
    (scaledInt a m e q, scaledInt b n k q)
  | .inf a, .inf b => (if a then -1 else 1, if b then -1 else 1)
  | .inf a, _ => (if a then -1 else 1, 0)
  | _, .inf b => (0, if b then -1 else 1)
  | _, _ => (0, 0)

/-- RNE(atan2(v, u) * 65,536 / (2 pi)) mod 65,536 for a direction that is not zero (R179). -/
def angleCode (u v : Int) : Nat :=
  let q : Nat × Int × Int :=
    if u > 0 ∧ v ≥ 0 then (0, u, v)
    else if u ≤ 0 ∧ v > 0 then (1, v, -u)
    else if u < 0 ∧ v ≤ 0 then (2, -u, -v)
    else (3, -v, u)
  (q.1 * 16384 + firstQuadrant q.2.1.toNat q.2.2.toNat) % 65536

/-- The code and the pivot of one elimination (R179), for x above y. -/
def deriveAngle (x y : Num) : Nat × Num :=
  if x.isNaN || y.isNaN then (0, .nan)
  else if x.isZero && y.isZero then (0, .fin false 0 0)
  else
    let (u, v) := direction x y.negate
    let sq := (x.mul x).add (y.mul y)
    (angleCode u v, fp32.decode (fp32.round false sq.sqrt))

/-- The numbered ANG12 code of a packed list of bytes, expanded to ANG16 (R45). -/
def ang12At (byte : Nat → Nat) (i : Nat) : Nat :=
  let o := 3 * (i / 2)
  let w := byte o + 256 * byte (o + 1) + 65536 * byte (o + 2)
  (if i % 2 = 0 then w % 4096 else w / 4096) * 16

end Sys2Proof.Machine
end

