-- ==== Sys2Proof/Machine/SysRegs.lean ====
section
/-! DEFINITION. Sys2Proof/Machine/SysRegs.lean: the system registers (Table 01.7): what a read returns, what a write keeps,
which of them are C's (R89). -/

namespace Sys2Proof.Machine

/-- The C-side registers (R89). -/
def isCSide (x : Nat) : Bool :=
  decide (0x020 ≤ x ∧ x ≤ 0x043) || x == 0x051 || x == 0x088 || x == 0x089

/-- A C-side register. -/
def Core.readC (c : Core) (x : Nat) : Word :=
  if x < 0x030 then Cells.get 0 c.vec.ft (x - 0x020)
  else if x < 0x040 then Cells.get 0 c.vec.tstat (x - 0x030)
  else match x with
    | 0x040 => c.arr.ndrift.setWidth 64
    | 0x041 => c.arr.ndcnt.setWidth 64
    | 0x042 => c.arr.sws0
    | 0x043 => c.arr.sws1
    | 0x051 => c.vec.gres
    | 0x088 => c.vec.key0
    | 0x089 => c.vec.key1
    | _ => 0

/-- A write of a C-side register, when its entry reaches the head of C's queue; reserved bits are ignored (R54, R150, R169,
R172, R182). NDRIFT is read-only. -/
def Core.writeC (c : Core) (x : Nat) (v : Word) : Core :=
  if x < 0x030 then { c with vec := { c.vec with ft := Cells.set 0 c.vec.ft (x - 0x020) (v &&& 0x00FF03FF) } }
  else if x < 0x040 then { c with vec := { c.vec with tstat := Cells.set 0 c.vec.tstat (x - 0x030) (v &&& 0xFFFF003F) } }
  else match x with
    | 0x041 => { c with arr := { c.arr with ndcnt := v.setWidth 32 } }
    | 0x042 => { c with arr := { c.arr with sws0 := v &&& 0xC000003FFFFFFFFF } }
    | 0x043 => { c with arr := { c.arr with sws1 := v &&& 0x000000FFFFFFFFFF } }
    | 0x051 => { c with vec := { c.vec with gres := v &&& 0xFFFFFFFF } }
    | 0x088 => { c with vec := { c.vec with key0 := v } }
    | 0x089 => { c with vec := { c.vec with key1 := v } }
    | _ => c

/-- C has executed every word steered to it, and every status update has landed (R89). -/
def Core.cIdle (c : Core) : Bool :=
  c.c.queue.isEmpty && c.c.outer.isNone && c.c.pushes.isEmpty && c.vec.tupd.isEmpty

/-- A register that is read at issue (Table 01.7); an unassigned index reads 0 (R18). -/
def State.readS (s : State) (x : Nat) : Word :=
  let c := s.cur
  let l := s.launchOf s.agent
  match x with
  | 0x000 => BitVec.ofNat 64 (nameOf s.agent)
  | 0x001 => BitVec.ofNat 64 (dieOf s.agent)
  | 0x002 => c.gangSize
  | 0x003 => c.gangRank
  | 0x004 => c.roleSet
  | 0x005 => c.iter
  | 0x006 => c.launchId
  | 0x010 => s.pts
  | 0x011 => c.floor
  | 0x050 => c.gtol
  | 0x052 => (l.map fun x => x.gstat).getD 0
  | 0x060 => c.team.bound.setWidth 64
  | 0x061 => c.team.beat.setWidth 64
  | 0x070 => (l.map fun x => x.pinLim).getD 0
  | 0x071 => (l.map fun x => x.pinUse).getD 0
  | 0x072 => c.raceMode
  | 0x080 => (s.die (dieOf s.agent)).cycles
  | 0x081 => (s.die (dieOf s.agent)).swallowed
  | 0x090 => c.trap.vec
  | 0x091 => c.trap.cause
  | 0x092 => c.trap.pc
  | 0x093 => c.trap.addr
  | 0x094 => c.trap.info
  | 0x0A0 => c.share
  | _ => if 0x100 ≤ x ∧ x ≤ 0x107 then Cells.get 0 c.reloc (x - 0x100) else 0

/-- Who may write a register (Table 01.7). -/
inductive Access where
  | any
  | huskOnly
  | readOnly
  | unassigned
  deriving DecidableEq, Repr

def accessOf (x : Nat) : Access :=
  if (0x020 ≤ x ∧ x ≤ 0x03F) ∨ (0x041 ≤ x ∧ x ≤ 0x043) ∨ x = 0x050 ∨ x = 0x051 ∨ x = 0x088 ∨ x = 0x089 ∨ x = 0x090 then .any
  else if x = 0x070 ∨ x = 0x072 ∨ x = 0x0A0 ∨ (0x100 ≤ x ∧ x ≤ 0x107) then .huskOnly
  else if x ≤ 0x006 ∨ x = 0x010 ∨ x = 0x011 ∨ x = 0x040 ∨ x = 0x052 ∨ x = 0x060 ∨ x = 0x061 ∨ x = 0x071 ∨ x = 0x080
      ∨ x = 0x081 ∨ (0x091 ≤ x ∧ x ≤ 0x094) then .readOnly
  else .unassigned

/-- A write at issue of a register that is not C's. DESIGN CHOICE: `PINLIM` is counted in multiples of 4,096 bytes (R279), and the low
bits of a value written to it are ignored (log entry 141). -/
def State.writeS (s : State) (x : Nat) (v : Word) : State :=
  match x with
  | 0x050 => s.onCore fun c => { c with gtol := v &&& 0xFFFFFFFF }
  | 0x070 =>
    match s.cur.binding with
    | some b => s.updLaunch b.launch fun l => { l with pinLim := v &&& ~~~(4095 : Word) }
    | none => s
  | 0x072 => s.onCore fun c => { c with raceMode := v &&& 1 }
  | 0x090 => s.onCore fun c => { c with trap := { c.trap with vec := v &&& ~~~(3 : Word) } }
  | 0x0A0 => s.onCore fun c => { c with share := v }
  | _ => if 0x100 ≤ x ∧ x ≤ 0x107 then s.onCore fun c => { c with reloc := Cells.set 0 c.reloc (x - 0x100) v } else s

end Sys2Proof.Machine
end

