-- ==== Sys2Proof/Machine/Vector.lean ====
section
/-! DEFINITION. Sys2Proof/Machine/Vector.lean: the meanings of the V words (spec/06). -/

namespace Sys2Proof.Machine

/-! ### Lanes and masks (R124) -/

/-- The lanes that a word acts on. -/
def Vec.active (x : Vec) (m : BitVec 1) : BitVec 64 := if m = 1 then x.mask x.msel.toNat else BitVec.allOnes 64

/-- Register `d` with the active lanes set. -/
def Vec.putLanes (x : Vec) (d : BitVec 4) (act : BitVec 64) (f : Nat → Lane) : Vec :=
  x.setLanes d fun i => if act.getLsbD i then f i else x.lane d i

/-- Register `d` with a value in lane 0 and 0 in the others. -/
def Vec.putFirst (x : Vec) (d : BitVec 4) (v : Lane) : Vec := x.setLanes d fun i => if i = 0 then v else 0

/-- A word that maps lanes: all operands are read before any result is written (R123). -/
def laneWord (d : BitVec 4) (m : BitVec 1) (pip : BitVec 4) (f : Vec → Nat → Lane) (s : State) : State :=
  engWord .c pip (fun s => .done (s.onVec fun x => x.putLanes d (x.active m) (f x)) false) s

/-- A word that changes the vector state. -/
def vecWord (pip : BitVec 4) (f : Vec → Vec) (s : State) : State := engWord .c pip (fun s => .done (s.onVec f) false) s

/-- A mask from its bits. -/
def maskOf (f : Nat → Bool) : BitVec 64 :=
  BitVec.ofNat 64 ((List.range 64).foldl (fun a i => a + if f i then 2 ^ i else 0) 0)

/-- The float format of a 2-bit field: `.S`, `.H`, `.B` (R127). -/
def fmtOf (t : BitVec 2) : FFmt := if t = 0 then fp32 else if t = 1 then fp16 else bf16

/-- The value of the lane's low bits (R29). -/
def laneNum (f : FFmt) (x : Lane) : Num := f.decode (x.toNat % 2 ^ (f.mag + 1))

/-- A number rounded into a lane (R30, R31). -/
def roundLane (f : FFmt) (x : Num) : Lane := BitVec.ofNat 32 (f.round false x)

/-! ### Integer words (R126) -/

/-- VADD. -/
def execVadd (d a b : BitVec 4) (m : BitVec 1) (pip : BitVec 4) (s : State) : Host.Outcome State Fault Refusal :=
  .next (laneWord d m pip (fun x i => x.lane a i + x.lane b i) s)

/-- VSUB. -/
def execVsub (d a b : BitVec 4) (m : BitVec 1) (pip : BitVec 4) (s : State) : Host.Outcome State Fault Refusal :=
  .next (laneWord d m pip (fun x i => x.lane a i - x.lane b i) s)

/-- VMUL. -/
def execVmul (d a b : BitVec 4) (m : BitVec 1) (pip : BitVec 4) (s : State) : Host.Outcome State Fault Refusal :=
  .next (laneWord d m pip (fun x i => x.lane a i * x.lane b i) s)

/-- VMIN. -/
def execVmin (d a b : BitVec 4) (m : BitVec 1) (pip : BitVec 4) (s : State) : Host.Outcome State Fault Refusal :=
  .next (laneWord d m pip (fun x i => minS (x.lane a i) (x.lane b i)) s)

/-- VMAX. -/
def execVmax (d a b : BitVec 4) (m : BitVec 1) (pip : BitVec 4) (s : State) : Host.Outcome State Fault Refusal :=
  .next (laneWord d m pip (fun x i => maxS (x.lane a i) (x.lane b i)) s)

/-- VAND. -/
def execVand (d a b : BitVec 4) (m : BitVec 1) (pip : BitVec 4) (s : State) : Host.Outcome State Fault Refusal :=
  .next (laneWord d m pip (fun x i => x.lane a i &&& x.lane b i) s)

/-- VOR. -/
def execVor (d a b : BitVec 4) (m : BitVec 1) (pip : BitVec 4) (s : State) : Host.Outcome State Fault Refusal :=
  .next (laneWord d m pip (fun x i => x.lane a i ||| x.lane b i) s)

/-- VXOR. -/
def execVxor (d a b : BitVec 4) (m : BitVec 1) (pip : BitVec 4) (s : State) : Host.Outcome State Fault Refusal :=
  .next (laneWord d m pip (fun x i => x.lane a i ^^^ x.lane b i) s)

/-- VSLL. -/
def execVsll (d a b : BitVec 4) (m : BitVec 1) (pip : BitVec 4) (s : State) : Host.Outcome State Fault Refusal :=
  .next (laneWord d m pip (fun x i => x.lane a i <<< ((x.lane b i).toNat % 32)) s)

/-- VSRL. -/
def execVsrl (d a b : BitVec 4) (m : BitVec 1) (pip : BitVec 4) (s : State) : Host.Outcome State Fault Refusal :=
  .next (laneWord d m pip (fun x i => x.lane a i >>> ((x.lane b i).toNat % 32)) s)

/-- VSRA. -/
def execVsra (d a b : BitVec 4) (m : BitVec 1) (pip : BitVec 4) (s : State) : Host.Outcome State Fault Refusal :=
  .next (laneWord d m pip (fun x i => (x.lane a i).sshiftRight ((x.lane b i).toNat % 32)) s)

/-- VMINZ. -/
def execVminz (d a b : BitVec 4) (m : BitVec 1) (pip : BitVec 4) (s : State) : Host.Outcome State Fault Refusal :=
  .next (laneWord d m pip (fun x i => minU (x.lane a i) (x.lane b i)) s)

/-- VMAXZ. -/
def execVmaxz (d a b : BitVec 4) (m : BitVec 1) (pip : BitVec 4) (s : State) : Host.Outcome State Fault Refusal :=
  .next (laneWord d m pip (fun x i => maxU (x.lane a i) (x.lane b i)) s)

/-- VABS: −2^31 stays. -/
def execVabs (d a : BitVec 4) (m : BitVec 1) (pip : BitVec 4) (s : State) : Host.Outcome State Fault Refusal :=
  .next (laneWord d m pip (fun x i => if (x.lane a i).toInt < 0 then 0 - x.lane a i else x.lane a i) s)

/-! ### Floating words (R127) -/

/-- One lane of a two-operand floating word. -/
def float2 (f : Num → Num → Num) (t : BitVec 2) (x y : Lane) : Lane :=
  roundLane (fmtOf t) (f (laneNum (fmtOf t) x) (laneNum (fmtOf t) y))

/-- One lane of a one-operand floating word. -/
def float1 (f : Num → Num) (t : BitVec 2) (x : Lane) : Lane := roundLane (fmtOf t) (f (laneNum (fmtOf t) x))

/-- 1/√m 2^e with a sticky bit, for an even exponent. -/
def rsqrtSticky (m : Nat) (e : Int) : Nat × Int :=
  let k := 64 + Nat.log2 m
  let q := isqrt (2 ^ (2 * k) / m)
  (2 * q + (if q * q * m = 2 ^ (2 * k) then 0 else 1), -e / 2 - k - 1)

/-- 1/√x (R127). -/
def Num.rsqrt : Num → Num
  | .nan => .nan
  | .inf neg => if neg then .nan else .fin false 0 0
  | .fin neg m e =>
    if m = 0 then .inf neg
    else if neg then .nan
    else
      let r := if e % 2 = 0 then rsqrtSticky m e else rsqrtSticky (2 * m) (e - 1)
      .fin false r.1 r.2

/-- VFADD. -/
def execVfadd (d a b : BitVec 4) (t : BitVec 2) (m : BitVec 1) (pip : BitVec 4) (s : State) : Host.Outcome State Fault Refusal :=
  .next (laneWord d m pip (fun x i => float2 Num.add t (x.lane a i) (x.lane b i)) s)

/-- VFSUB. -/
def execVfsub (d a b : BitVec 4) (t : BitVec 2) (m : BitVec 1) (pip : BitVec 4) (s : State) : Host.Outcome State Fault Refusal :=
  .next (laneWord d m pip (fun x i => float2 Num.sub t (x.lane a i) (x.lane b i)) s)

/-- VFMUL. -/
def execVfmul (d a b : BitVec 4) (t : BitVec 2) (m : BitVec 1) (pip : BitVec 4) (s : State) : Host.Outcome State Fault Refusal :=
  .next (laneWord d m pip (fun x i => float2 Num.mul t (x.lane a i) (x.lane b i)) s)

/-- VFMIN. -/
def execVfmin (d a b : BitVec 4) (t : BitVec 2) (m : BitVec 1) (pip : BitVec 4) (s : State) : Host.Outcome State Fault Refusal :=
  .next (laneWord d m pip (fun x i => float2 Num.minimum t (x.lane a i) (x.lane b i)) s)

/-- VFMAX. -/
def execVfmax (d a b : BitVec 4) (t : BitVec 2) (m : BitVec 1) (pip : BitVec 4) (s : State) : Host.Outcome State Fault Refusal :=
  .next (laneWord d m pip (fun x i => float2 Num.maximum t (x.lane a i) (x.lane b i)) s)

/-- VFDIV. -/
def execVfdiv (d a b : BitVec 4) (t : BitVec 2) (m : BitVec 1) (pip : BitVec 4) (s : State) : Host.Outcome State Fault Refusal :=
  .next (laneWord d m pip (fun x i => float2 Num.div t (x.lane a i) (x.lane b i)) s)

/-- VFMA: vd + va × vb, rounded once. -/
def execVfma (d a b : BitVec 4) (t : BitVec 2) (m : BitVec 1) (pip : BitVec 4) (s : State) : Host.Outcome State Fault Refusal :=
  .next (laneWord d m pip (fun x i =>
    let f := fmtOf t
    roundLane f (Num.add (laneNum f (x.lane d i)) (Num.mul (laneNum f (x.lane a i)) (laneNum f (x.lane b i))))) s)

/-- VFABS. -/
def execVfabs (d a : BitVec 4) (t : BitVec 2) (m : BitVec 1) (pip : BitVec 4) (s : State) : Host.Outcome State Fault Refusal :=
  .next (laneWord d m pip (fun x i => float1 Num.abs t (x.lane a i)) s)

/-- VFNEG. -/
def execVfneg (d a : BitVec 4) (t : BitVec 2) (m : BitVec 1) (pip : BitVec 4) (s : State) : Host.Outcome State Fault Refusal :=
  .next (laneWord d m pip (fun x i => float1 Num.negate t (x.lane a i)) s)

/-- VFSQRT. -/
def execVfsqrt (d a : BitVec 4) (t : BitVec 2) (m : BitVec 1) (pip : BitVec 4) (s : State) : Host.Outcome State Fault Refusal :=
  .next (laneWord d m pip (fun x i => float1 Num.sqrt t (x.lane a i)) s)

/-- VFRSQ. -/
def execVfrsq (d a : BitVec 4) (t : BitVec 2) (m : BitVec 1) (pip : BitVec 4) (s : State) : Host.Outcome State Fault Refusal :=
  .next (laneWord d m pip (fun x i => float1 Num.rsqrt t (x.lane a i)) s)

/-! ### Comparisons and conversions (R128 to R130) -/

/-- A comparison in a domain: integers, or a float format. -/
def compare (fi : Int → Int → Bool) (ff : Num → Num → Bool) (t : BitVec 2) (x y : Lane) : Bool :=
  if t = 0 then fi x.toInt y.toInt
  else
    let f := if t = 1 then fp32 else if t = 2 then fp16 else bf16
    ff (laneNum f x) (laneNum f y)

/-- A comparison word: bit i of the mask is the comparison of lane i, 0 where lane i is masked off. -/
def cmpWord (d : BitVec 3) (a b : BitVec 4) (m : BitVec 1) (pip : BitVec 4) (f : Lane → Lane → Bool) (s : State) : State :=
  vecWord pip (fun x => x.setMask d.toNat (maskOf fun i => (x.active m).getLsbD i && f (x.lane a i) (x.lane b i))) s

/-- VCMP.EQ. -/
def execVcmpEq (d : BitVec 3) (a b : BitVec 4) (t : BitVec 2) (m : BitVec 1) (pip : BitVec 4) (s : State) : Host.Outcome State Fault Refusal :=
  .next (cmpWord d a b m pip (compare (fun x y => x == y) Num.eq t) s)

/-- VCMP.NE. -/
def execVcmpNe (d : BitVec 3) (a b : BitVec 4) (t : BitVec 2) (m : BitVec 1) (pip : BitVec 4) (s : State) : Host.Outcome State Fault Refusal :=
  .next (cmpWord d a b m pip (compare (fun x y => x != y) (fun x y => !x.eq y) t) s)

/-- VCMP.LT. -/
def execVcmpLt (d : BitVec 3) (a b : BitVec 4) (t : BitVec 2) (m : BitVec 1) (pip : BitVec 4) (s : State) : Host.Outcome State Fault Refusal :=
  .next (cmpWord d a b m pip (compare (fun x y => decide (x < y)) Num.lt t) s)

/-- VCMP.LE. -/
def execVcmpLe (d : BitVec 3) (a b : BitVec 4) (t : BitVec 2) (m : BitVec 1) (pip : BitVec 4) (s : State) : Host.Outcome State Fault Refusal :=
  .next (cmpWord d a b m pip (compare (fun x y => decide (x ≤ y)) (fun x y => x.lt y || x.eq y) t) s)

/-- VCMP.UN. -/
def execVcmpUn (d : BitVec 3) (a b : BitVec 4) (t : BitVec 2) (m : BitVec 1) (pip : BitVec 4) (s : State) : Host.Outcome State Fault Refusal :=
  .next (cmpWord d a b m pip (compare (fun _ _ => false) (fun x y => x.isNaN || y.isNaN) t) s)

/-- VCVT from code x to code y of Table 02.1. DESIGN CHOICE: from LNS6 to LNS6 the spec gives no row; here the value passes, and the
result is the same code (log entry 113). -/
def execVcvt (d a : BitVec 4) (x y : BitVec 3) (m : BitVec 1) (pip : BitVec 4) (s : State) : Host.Outcome State Fault Refusal :=
  .next (laneWord d m pip (fun v i =>
    BitVec.ofNat 32 (convertElem x.toNat y.toNat false ((v.lane a i).toNat % 2 ^ elemBits x.toNat))) s)

/-- One lane of a two-operand LNS6 word (R130). -/
def lns2 (f : Lns → Lns → Lns) (x y : Lane) : Lane :=
  BitVec.ofNat 32 (f (Lns.ofCode (x.toNat % 64)) (Lns.ofCode (y.toNat % 64))).code

/-- LMUL. -/
def execLmul (d a b : BitVec 4) (m : BitVec 1) (pip : BitVec 4) (s : State) : Host.Outcome State Fault Refusal :=
  .next (laneWord d m pip (fun x i => lns2 Lns.mul (x.lane a i) (x.lane b i)) s)

/-- LDIV. -/
def execLdiv (d a b : BitVec 4) (m : BitVec 1) (pip : BitVec 4) (s : State) : Host.Outcome State Fault Refusal :=
  .next (laneWord d m pip (fun x i => lns2 Lns.div (x.lane a i) (x.lane b i)) s)

/-- LADD. -/
def execLadd (d a b : BitVec 4) (m : BitVec 1) (pip : BitVec 4) (s : State) : Host.Outcome State Fault Refusal :=
  .next (laneWord d m pip (fun x i => lns2 Lns.add (x.lane a i) (x.lane b i)) s)

/-- LSUB. -/
def execLsub (d a b : BitVec 4) (m : BitVec 1) (pip : BitVec 4) (s : State) : Host.Outcome State Fault Refusal :=
  .next (laneWord d m pip (fun x i => lns2 Lns.sub (x.lane a i) (x.lane b i)) s)

/-- LNEG. -/
def execLneg (d a : BitVec 4) (m : BitVec 1) (pip : BitVec 4) (s : State) : Host.Outcome State Fault Refusal :=
  .next (laneWord d m pip (fun x i => BitVec.ofNat 32 (Lns.ofCode ((x.lane a i).toNat % 64)).negate.code) s)

/-! ### Moves, constants and masks (R131 to R133) -/

/-- VMOV. -/
def execVmov (d a : BitVec 4) (m : BitVec 1) (pip : BitVec 4) (s : State) : Host.Outcome State Fault Refusal :=
  .next (laneWord d m pip (fun x i => x.lane a i) s)

/-- VSEL: all 64 lanes are written. -/
def execVsel (d a b pip : BitVec 4) (s : State) : Host.Outcome State Fault Refusal :=
  .next (laneWord d 0 pip (fun x i => if (x.mask x.msel.toNat).getLsbD i then x.lane a i else x.lane b i) s)

/-- VPERM. -/
def execVperm (d a b : BitVec 4) (m : BitVec 1) (pip : BitVec 4) (s : State) : Host.Outcome State Fault Refusal :=
  .next (laneWord d m pip (fun x i => x.lane a ((x.lane b i).toNat % 64)) s)

/-- VBCST: bits [31:0] of C's register. -/
def execVbcst (d a : BitVec 4) (m : BitVec 1) (pip : BitVec 4) (s : State) : Host.Outcome State Fault Refusal :=
  .next (laneWord d m pip (fun _ _ => (s.cur.c.getA a).setWidth 32) s)

/-- VIOTA. -/
def execViota (d : BitVec 4) (m : BitVec 1) (pip : BitVec 4) (s : State) : Host.Outcome State Fault Refusal :=
  .next (laneWord d m pip (fun _ i => BitVec.ofNat 32 i) s)

/-- VSPLAT. -/
def execVsplat (d : BitVec 4) (i : BitVec 10) (m : BitVec 1) (pip : BitVec 4) (s : State) : Host.Outcome State Fault Refusal :=
  .next (laneWord d m pip (fun _ _ => (s.cur.c.imm i).setWidth 32) s)

/-- MAND. -/
def execMand (d a b : BitVec 3) (pip : BitVec 4) (s : State) : Host.Outcome State Fault Refusal :=
  .next (vecWord pip (fun x => x.setMask d.toNat (x.mask a.toNat &&& x.mask b.toNat)) s)

/-- MOR. -/
def execMor (d a b : BitVec 3) (pip : BitVec 4) (s : State) : Host.Outcome State Fault Refusal :=
  .next (vecWord pip (fun x => x.setMask d.toNat (x.mask a.toNat ||| x.mask b.toNat)) s)

/-- MXOR. -/
def execMxor (d a b : BitVec 3) (pip : BitVec 4) (s : State) : Host.Outcome State Fault Refusal :=
  .next (vecWord pip (fun x => x.setMask d.toNat (x.mask a.toNat ^^^ x.mask b.toNat)) s)

/-- MNOT. -/
def execMnot (d a : BitVec 3) (pip : BitVec 4) (s : State) : Host.Outcome State Fault Refusal :=
  .next (vecWord pip (fun x => x.setMask d.toNat (~~~(x.mask a.toNat))) s)

/-- MPOP. -/
def execMpop (d : BitVec 4) (a : BitVec 3) (pip : BitVec 4) (s : State) : Host.Outcome State Fault Refusal :=
  .next (vecWord pip (fun x => x.putFirst d (BitVec.ofNat 32 (oneBits (x.mask a.toNat).toNat 64))) s)

/-- MFIRST. -/
def execMfirst (d : BitVec 4) (a : BitVec 3) (pip : BitVec 4) (s : State) : Host.Outcome State Fault Refusal :=
  .next (vecWord pip (fun x =>
    x.putFirst d (BitVec.ofNat 32 (((List.range 64).find? fun i => (x.mask a.toNat).getLsbD i).getD 64))) s)

/-! ### Reductions (R134) -/

/-- The lanes of a reduction: a masked-off lane contributes a constant. -/
def reduceLanes (x : Vec) (a : BitVec 4) (m : BitVec 1) (f : FFmt) (off : Num) : List Num :=
  (List.range 64).map fun i => if (x.active m).getLsbD i then laneNum f (x.lane a i) else off

/-- The pairwise tree of R53, rounded at every level. -/
def treeSum (f : FFmt) : Nat → List Num → Num
  | _, [x] => x
  | 0, _ => .fin false 0 0
  | k + 1, l => treeSum f k (pairs l)
where
  /-- One level of the tree. -/
  pairs : List Num → List Num
    | x :: y :: r => f.decode (f.round false (Num.add x y)) :: pairs r
    | l => l

/-- A reduction to lane 0. -/
def reduceWord (d a : BitVec 4) (t : BitVec 2) (m : BitVec 1) (pip : BitVec 4) (off : Num) (f : FFmt → List Num → Num)
    (s : State) : State :=
  vecWord pip (fun x => x.putFirst d (roundLane (fmtOf t) (f (fmtOf t) (reduceLanes x a m (fmtOf t) off)))) s

/-- VRSUM. -/
def execVrsum (d a : BitVec 4) (t : BitVec 2) (m : BitVec 1) (pip : BitVec 4) (s : State) : Host.Outcome State Fault Refusal :=
  .next (reduceWord d a t m pip (.fin true 0 0) (fun f l => treeSum f 6 l) s)

/-- VRMAX. -/
def execVrmax (d a : BitVec 4) (t : BitVec 2) (m : BitVec 1) (pip : BitVec 4) (s : State) : Host.Outcome State Fault Refusal :=
  .next (reduceWord d a t m pip (.inf true) (fun _ l => l.foldl Num.maximum (.inf true)) s)

/-- VRMIN. -/
def execVrmin (d a : BitVec 4) (t : BitVec 2) (m : BitVec 1) (pip : BitVec 4) (s : State) : Host.Outcome State Fault Refusal :=
  .next (reduceWord d a t m pip (.inf false) (fun _ l => l.foldl Num.minimum (.inf false)) s)

/-- VRIADD: the sum modulo 2^32. -/
def execVriadd (d a : BitVec 4) (m : BitVec 1) (pip : BitVec 4) (s : State) : Host.Outcome State Fault Refusal :=
  .next (vecWord pip (fun x =>
    x.putFirst d ((List.range 64).foldl (fun n i => if (x.active m).getLsbD i then n + x.lane a i else n) 0)) s)

/-! ### Local store and decoder FIFO (R135, R136) -/

/-- An LS address of V words: bits [1:0] and [63:20] taken as 0. -/
def lsWordAddr (v : Nat) : Nat := v % 1048576 / 4 * 4

/-- VLD: from LS, or with bit 63 of the address register the next 128 bytes of the decoder FIFO. -/
def execVld (d a : BitVec 4) (m : BitVec 1) (pip : BitVec 4) (s : State) : Host.Outcome State Fault Refusal :=
  .next (engWord .c pip (fun s =>
    let v := s.cur.c.getA a
    let x := s.cur.vec
    if v.getLsbD 63 then
      if x.fifo.length < 128 then .wait .fifo
      else
        .done (s.onVec fun y =>
          let z : Vec := { y with fifo := y.fifo.drop 128, slots := y.slots.drop 1 }
          z.putLanes d (y.active m) fun i => BitVec.ofNat 32 (natOf [y.fifo.getD (2 * i) 0, y.fifo.getD (2 * i + 1) 0])) false
    else
      let c := s.cur
      .done (s.onVec fun y => y.putLanes d (y.active m) fun i =>
        BitVec.ofNat 32 (c.lsNat (lsWordAddr (v.toNat + 4 * i)) 4)) false) s)

/-- LS with the active lanes of `d` stored, the highest-numbered lane last. -/
def Core.storeLanes (c : Core) (d : BitVec 4) (m : BitVec 1) (addr : Nat → Nat) : Core :=
  (List.range 64).foldl (fun k i =>
    if (c.vec.active m).getLsbD i then k.lsPut (lsWordAddr (addr i)) 4 (c.vec.lane d i).toNat else k) c

/-- VST. -/
def execVst (d a : BitVec 4) (m : BitVec 1) (pip : BitVec 4) (s : State) : Host.Outcome State Fault Refusal :=
  .next (engWord .c pip (fun s =>
    .done (s.onCore fun c => c.storeLanes d m fun i => (c.c.getA a).toNat + 4 * i) false) s)

/-- VLDX. -/
def execVldx (d a b : BitVec 4) (m : BitVec 1) (pip : BitVec 4) (s : State) : Host.Outcome State Fault Refusal :=
  .next (engWord .c pip (fun s =>
    let c := s.cur
    .done (s.onVec fun y => y.putLanes d (y.active m) fun i =>
      BitVec.ofNat 32 (c.lsNat (lsWordAddr ((c.c.getA a).toNat + (y.lane b i).toNat)) 4)) false) s)

/-- VSTX. -/
def execVstx (d a b : BitVec 4) (m : BitVec 1) (pip : BitVec 4) (s : State) : Host.Outcome State Fault Refusal :=
  .next (engWord .c pip (fun s =>
    .done (s.onCore fun c => c.storeLanes d m fun i => (c.c.getA a).toNat + (c.vec.lane b i).toNat) false) s)

/-! ### Tile registers (R137 to R140) -/

/-- A lane as a tile element (Table 06.4). -/
def toTile (f : Nat) (x : Lane) : BitVec 16 :=
  match f with
  | 0 => BitVec.ofNat 16 (convertElem 0 2 false x.toNat)
  | 3 => BitVec.ofNat 16 (x.toNat % 256)
  | 4 => BitVec.ofNat 16 (x.toNat % 256)
  | 5 => BitVec.ofNat 16 (x.toNat % 64)
  | 6 => BitVec.ofNat 16 (unsignedOf 8 (max (-128) (min 127 x.toInt)))
  | 7 => BitVec.ofNat 16 (x.toNat % 256)
  | _ => x.setWidth 16

/-- A tile element as a lane (Table 06.4). -/
def fromTile (f : Nat) (x : BitVec 16) : Lane :=
  match f with
  | 0 => BitVec.ofNat 32 (convertElem 2 0 false x.toNat)
  | 3 => BitVec.ofNat 32 (x.toNat % 256)
  | 4 => BitVec.ofNat 32 (x.toNat % 256)
  | 5 => BitVec.ofNat 32 (x.toNat % 64)
  | 6 => (BitVec.ofNat 8 x.toNat).signExtend 32
  | 7 => BitVec.ofNat 32 (x.toNat % 256)
  | _ => x.setWidth 32

/-- TWROW. -/
def execTwrow (t : BitVec 2) (i : BitVec 6) (v : BitVec 4) (f : BitVec 3) (m : BitVec 1) (pip : BitVec 4) (s : State) :
    Host.Outcome State Fault Refusal :=
  .next (vecWord pip (fun x =>
    { x with
      t := Cells.setRange 0 x.t (4096 * t.toNat + 64 * i.toNat)
        (fun c => if (x.active m).getLsbD c then toTile f.toNat (x.lane v c) else x.tile t.toNat i.toNat c) 64 }) s)

/-- TRCOL. -/
def execTrcol (t : BitVec 2) (i : BitVec 6) (v : BitVec 4) (f : BitVec 3) (m : BitVec 1) (pip : BitVec 4) (s : State) :
    Host.Outcome State Fault Refusal :=
  .next (laneWord v m pip (fun x r => fromTile f.toNat (x.tile t.toNat r i.toNat)) s)

/-- TRROW. -/
def execTrrow (t : BitVec 2) (i : BitVec 6) (v : BitVec 4) (f : BitVec 3) (m : BitVec 1) (pip : BitVec 4) (s : State) :
    Host.Outcome State Fault Refusal :=
  .next (laneWord v m pip (fun x c => fromTile f.toNat (x.tile t.toNat i.toNat c)) s)

/-- TCLR. -/
def execTclr (t : BitVec 2) (pip : BitVec 4) (s : State) : Host.Outcome State Fault Refusal :=
  .next (vecWord pip (fun x => { x with t := x.t.filter fun y => y.1 / 4096 != t.toNat }) s)

/-- TLD: element (r, c) lies at byte 128 r + 2 c. -/
def execTld (t : BitVec 2) (v pip : BitVec 4) (s : State) : Host.Outcome State Fault Refusal :=
  .next (engWord .c pip (fun s =>
    let c := s.cur
    let base := lsWordAddr (c.c.getA v).toNat
    .done (s.onVec fun x =>
      { x with t := Cells.setRange 0 x.t (4096 * t.toNat) (fun j => BitVec.ofNat 16 (c.lsNat (base + 2 * j) 2)) 4096 }) false) s)

/-- TST. -/
def execTst (t : BitVec 2) (v pip : BitVec 4) (s : State) : Host.Outcome State Fault Refusal :=
  .next (engWord .c pip (fun s =>
    .done (s.onCore fun c =>
      let base := lsWordAddr (c.c.getA v).toNat
      (List.range 4096).foldl (fun k j => k.lsPut (base + 2 * j) 2 (Cells.get 0 c.vec.t (4096 * t.toNat + j)).toNat) c) false) s)

/-! ### The deferral queue (R141 to R143) -/

/-- DEFER: past 1,024 entries it traps and appends none. -/
def execDefer (a w : BitVec 4) (m : BitVec 1) (pip : BitVec 4) (s : State) : Host.Outcome State Fault Refusal :=
  .next (engWord .c pip (fun s =>
    let x := s.cur.vec
    let new := ((List.range 64).filter fun i => (x.active m).getLsbD i).map fun i =>
      (⟨i, (List.range w.toNat).map fun j => x.lane (a + BitVec.ofNat 4 j) i⟩ : DEntry)
    if x.deferQ.length + new.length > 1024 then .trap ⟨0x10, 0, BitVec.ofNat 64 x.deferQ.length⟩ s
    else .done (s.onVec fun y => { y with deferQ := y.deferQ ++ new }) false) s)

/-- DRAIN. -/
def execDrain (d w b pip : BitVec 4) (s : State) : Host.Outcome State Fault Refusal :=
  .next (vecWord pip (fun x =>
    let es := x.deferQ.take 64
    let y := (List.range w.toNat).foldl (fun (z : Vec) k =>
      z.setLanes (d + BitVec.ofNat 4 k) fun j => (es[j]?.map fun e => e.words.getD k 0).getD 0) { x with deferQ := x.deferQ.drop 64 }
    y.setLanes b fun j => (es[j]?.map fun e => BitVec.ofNat 32 e.lane).getD 0xFFFFFFFF) s)

/-- DQCNT. -/
def execDqcnt (d pip : BitVec 4) (s : State) : Host.Outcome State Fault Refusal :=
  .next (vecWord pip (fun x => x.putFirst d (BitVec.ofNat 32 x.deferQ.length)) s)

/-- VSCAT: with equal indices the higher lane wins. -/
def execVscat (d a b : BitVec 4) (m : BitVec 1) (pip : BitVec 4) (s : State) : Host.Outcome State Fault Refusal :=
  .next (vecWord pip (fun x =>
    (List.range 64).foldl (fun (y : Vec) j =>
      let k := (x.lane b j).toNat
      if (x.active m).getLsbD j && decide (k < 64) then
        { y with v := Cells.set 0 y.v (64 * d.toNat + k) (x.lane a j) }
      else y) x) s)

/-! ### Exact accumulators (R144 to R148) -/

/-- A load for an accumulator is on its way (R147). -/
def State.accumBusy (s : State) (q : BitVec 4) : Bool :=
  s.reqs.any fun x => x.2.core == s.agent && x.2.e == .c && x.2.kind == .get q.toNat

/-- A word that names an accumulator waits for a load that is on its way to it (R147). -/
def accumEff (q : BitVec 4) (body : State → Eff) (s : State) : Eff := if s.accumBusy q then .wait .other else body s

/-- A vector word that names an accumulator. -/
def accumWord (q pip : BitVec 4) (f : Vec → Vec) (s : State) : State :=
  engWord .c pip (accumEff q fun s => .done (s.onVec f) false) s

/-- XCLR. -/
def execXclr (q pip : BitVec 4) (s : State) : Host.Outcome State Fault Refusal :=
  .next (accumWord q pip (fun x => x.setAccum q.toNat Accum.zero) s)

/-- XMAC: adds the exact product of each active lane pair. -/
def execXmac (q a b : BitVec 4) (m : BitVec 1) (pip : BitVec 4) (s : State) : Host.Outcome State Fault Refusal :=
  .next (accumWord q pip (fun x =>
    x.setAccum q.toNat ((List.range 64).foldl (fun (r : Accum) i =>
      if (x.active m).getLsbD i then r.addTerm (Num.mul (laneNum fp32 (x.lane a i)) (laneNum fp32 (x.lane b i))) else r)
      (x.accum q.toNat))) s)

/-- XSUM. -/
def execXsum (q a : BitVec 4) (m : BitVec 1) (pip : BitVec 4) (s : State) : Host.Outcome State Fault Refusal :=
  .next (accumWord q pip (fun x =>
    x.setAccum q.toNat ((List.range 64).foldl (fun (r : Accum) i =>
      if (x.active m).getLsbD i then r.addTerm (laneNum fp32 (x.lane a i)) else r) (x.accum q.toNat))) s)

/-- XRND. -/
def execXrnd (d q pip : BitVec 4) (s : State) : Host.Outcome State Fault Refusal :=
  .next (accumWord q pip (fun x => x.putFirst d (BitVec.ofNat 32 (x.accum q.toNat).read)) s)

/-- The LS address of a slot: bits [6:0] and [63:20] taken as 0. -/
def lsSlot (v : Word) : Nat := v.toNat % 1048576 / 128 * 128

/-- XSAVE. -/
def execXsave (q b pip : BitVec 4) (s : State) : Host.Outcome State Fault Refusal :=
  .next (engWord .c pip (accumEff q fun s =>
    .done (s.onCore fun c => c.lsPut (lsSlot (c.c.getA b)) 128 (slotBytes (c.vec.accum q.toNat))) false) s)

/-- XLOAD. -/
def execXload (q a pip : BitVec 4) (s : State) : Host.Outcome State Fault Refusal :=
  .next (engWord .c pip (accumEff q fun s =>
    let v := s.cur.lsNat (lsSlot (s.cur.c.getA a)) 128
    .done (s.onVec fun x => x.setAccum q.toNat (slotOf v)) false) s)

/-- A slot operation of the core on a place that has not performed yet (R148). -/
def State.slotBusy (s : State) (l : Loc) : Bool :=
  s.reqs.any fun x => x.2.core == s.agent && x.2.e == .c && x.2.loc == l && x.2.kind.onSlot

/-- A slot operation that C sends to the home of its slot; its pips follow the performance (R146, R147). -/
def State.sendSlot (s : State) (kind : ReqKind) (l : Loc) (va floor : Word) (pip : BitVec 4) : State :=
  let r : Req := { kind := kind, loc := l, va := va, core := s.agent, e := .c, pts := s.cur.c.pts, floor := floor,
                   launch := (s.cur.binding.map fun x => x.launch).getD 0, issued := s.cur.c.pts, number := s.cur.launchId,
                   iter := s.cur.iter, gen := s.cur.gen, pos := (s.cur.c.entry.map fun q => q.pos).getD 0,
                   pushes := pushesOf .c pip, key := [], at_ := (s.cur.c.entry.map fun q => q.at_).getD 0, passed := [] }
  { s with reqs := Cells.put s.reqs s.nextId r, nextId := s.nextId + 1 }

/-- The checks of a slot operation at C: alignment, translation, permission, window, race (R146, R147). -/
def slotCheck (w : Who) (acc : Acc) (va : Word) (k : Loc → State → Eff) (s : State) : Eff :=
  if va.toNat % 128 ≠ 0 then .trap ⟨0x03, va, 0⟩ s
  else
    match s.check w acc va with
    | .stall => .wait .other
    | .fault f => if f.cause = 0x04 then .replay f 0 s else .trap f (s.noteWalks w [va.toNat])
    | .ok l =>
      match s.trapRace w [(l, va.toNat, 128)] with
      | some f => .trap f s
      | none => k l ((s.logRaces w (acc == .atomic) [(l, va.toNat, 128)]).touchAll w 0 (acc == .atomic) [(l, va.toNat, 128)])

/-- XPUT: checked when C executes it, then a merge on its way to the slot's home; the pips follow the merge (R146). DESIGN
CHOICE: in the surrogate phase the fallback comes before these checks (log entry 110). -/
def execXput (q b pip : BitVec 4) (s : State) : Host.Outcome State Fault Refusal :=
  .next (engWord .c pip (accumEff q fun s =>
    if s.cur.surrogate then .stop (s.fallback s.agent 0x86)
    else
      let w : Who := { s.whoE .c true with late := true }
      slotCheck w .atomic (s.cur.c.getA b) (fun l s1 =>
        .done (s1.sendSlot (.slot (s.cur.vec.accum q.toNat)) l (s.cur.c.getA b) w.floor pip) true) s) s)

/-- XGET: one load of the 128 bytes of the slot, from a copy under lease as any load of an engine (R283); behind an earlier operation of C on the slot it waits at the home while C goes
on (R147, R148). -/
def execXget (q a pip : BitVec 4) (s : State) : Host.Outcome State Fault Refusal :=
  .next (engWord .c pip (accumEff q fun s =>
    let va := s.cur.c.getA a
    let w := s.whoE .c true
    slotCheck w .read va (fun l s1 =>
      if s1.slotBusy l then .done (s1.sendSlot (.get q.toNat) l va w.floor pip) true
      else
        let (s2, v, t) := s1.granRead w false s.cur.c.pts (l, va.toNat, 128)
        .done ((s2.onVec fun x => x.setAccum q.toNat (slotOf v)).raiseEng .c t) false) s) s)

/-! ### The generator and the guard check (R149, R150) -/

/-- One round of Philox4x32 with its key. -/
def philoxRound (k : Nat × Nat) (c : Nat × Nat × Nat × Nat) : Nat × Nat × Nat × Nat :=
  let p0 := 0xD2511F53 * c.1
  let p1 := 0xCD9E8D57 * c.2.2.1
  (p1 / 2 ^ 32 ^^^ c.2.1 ^^^ k.1, p1 % 2 ^ 32, p0 / 2 ^ 32 ^^^ c.2.2.2 ^^^ k.2, p0 % 2 ^ 32)

/-- The rounds that are left; the key moves on after each. -/
def philoxRounds : Nat → Nat × Nat → Nat × Nat × Nat × Nat → Nat × Nat × Nat × Nat
  | 0, _, c => c
  | n + 1, k, c =>
    philoxRounds n ((k.1 + 0x9E3779B9) % 2 ^ 32, (k.2 + 0xBB67AE85) % 2 ^ 32) (philoxRound k c)

/-- Output word `w` of Philox4x32-10 (R149). -/
def philox (k0 k1 x y : Nat) (w : Nat) : Lane :=
  let c := philoxRounds 10 (k0, k1) (x, y, 0, 0)
  BitVec.ofNat 32 (([c.1, c.2.1, c.2.2.1, c.2.2.2] : List Nat).getD w 0)

/-- VRAND. -/
def execVrand (d a b : BitVec 4) (w : BitVec 6) (m : BitVec 1) (pip : BitVec 4) (s : State) : Host.Outcome State Fault Refusal :=
  .next (laneWord d m pip (fun x i =>
    philox (x.key0.toNat % 2 ^ 32) (x.key1.toNat % 2 ^ 32) (x.lane a i).toNat (x.lane b i).toNat w.toNat) s)

/-- One lane folded into the guard residual (R150). -/
def foldGuard (g : Lane) (x : Lane) : Lane :=
  let v := laneNum fp32 x
  if v.isNaN then 0x7FC00000
  else if (laneNum fp32 g).isNaN then g
  else if (laneNum fp32 g).lt v.abs then BitVec.ofNat 32 (fp32.round false v.abs) else g

/-- GCHK. -/
def execGchk (a : BitVec 4) (m : BitVec 1) (pip : BitVec 4) (s : State) : Host.Outcome State Fault Refusal :=
  .next (vecWord pip (fun x =>
    { x with
      gres := ((List.range 64).foldl (fun g i => if (x.active m).getLsbD i then foldGuard g (x.lane a i) else g)
        (x.gres.setWidth 32)).setWidth 64 }) s)

end Sys2Proof.Machine
end

