-- ==== Sys2Proof/Machine/Rotation.lean ====
section
/-! DEFINITION. Sys2Proof/Machine/Rotation.lean: the meanings of the R words (spec/07). A vector's way through the array is
computed when it is pushed, which is what the wave rule of R157 makes of every load. -/

namespace Sys2Proof.Machine

/-! ### Cells and planes (R152, R153) -/

/-- Stage and slot of a cell index. -/
def cellPlace (i : Nat) : Nat × Nat :=
  if i % 63 < 32 then (2 * (i / 63), i % 63) else (2 * (i / 63) + 1, i % 63 - 32)

/-- The index of the cell at a stage and slot. -/
def cellIndex (s j : Nat) : Nat := 63 * (s / 2) + 32 * (s % 2) + j

/-- The block of a stage and slot. -/
def blockOf (s j : Nat) : Nat := 4 * (s / 8) + j / 8

/-- The block of a cell index. -/
def cellBlock (i : Nat) : Nat := blockOf (cellPlace i).1 (cellPlace i).2

def Plane.code (p : Plane) (i : Nat) : Nat := (Cells.get 0 p.codes i).toNat

def Plane.scale (p : Plane) (i : Nat) : Nat := (Cells.get 0 p.scales i).toNat

/-- A plane whose cell i holds `f i`. -/
def Plane.setCodes (p : Plane) (f : Nat → Nat) : Plane := { p with codes := Cells.setRange 0 [] 0 (fun i => BitVec.ofNat 16 (f i)) 1008 }

def Plane.setScales (p : Plane) (f : Nat → Nat) : Plane := { p with scales := Cells.setRange 0 [] 0 (fun i => BitVec.ofNat 6 (f i)) 64 }

/-- The cells of the blocks that a bitmap leaves clear, in pass order. -/
def openCells (bitmap : BitVec 16) : List Nat := (List.range 1008).filter fun i => !bitmap.getLsbD (cellBlock i)

def Arr.plane (x : Arr) (b : Bool) : Plane := if b then x.planeB else x.planeA

def Arr.setPlane (x : Arr) (b : Bool) (p : Plane) : Arr := if b then { x with planeB := p } else { x with planeA := p }

/-- Scale code i of 48 packed bytes (R36, R153). -/
def scaleAt (v i : Nat) : Nat := v / 2 ^ (6 * i) % 64

/-! ### A vector's way (R155, R156) -/

/-- The working-format code of an input code; none: refused (Table 07.2). -/
def workFmt (c : Nat) : Option Nat :=
  if c = 0 then some 0
  else if c = 1 then some 1
  else if c = 2 ∨ c = 3 ∨ c = 4 ∨ c = 7 ∨ (8 ≤ c ∧ c ≤ 13) then some 2
  else none

/-- The format of a working-format code. -/
def wFmt (w : Nat) : FFmt := if w = 0 then fp32 else if w = 1 then fp16 else bf16

/-- A code accepted by a drain (R155). -/
def outOk (c : Nat) : Bool := c ≤ 5 || c == 7 || (8 ≤ c && c ≤ 13)

def isMx (c : Nat) : Bool := 8 ≤ c && c ≤ 13

/-- One stage: every cell of it on its pair of lanes. -/
def stageOf (f : FFmt) (p : Plane) (s : Nat) (x : List Num) : List Num :=
  (List.range 64).map fun i =>
    if s % 2 = 1 ∧ (i = 0 ∨ i = 63) then x.getD i .nan
    else
      let j := (i - s % 2) / 2
      let lo := 2 * j + s % 2
      let code := if p.bitmap.getLsbD (blockOf s j) then 0 else p.code (cellIndex s j)
      let r := cell f code (x.getD lo .nan) (x.getD (lo + 1) .nan)
      if i = lo then r.1 else r.2

/-- The stages in order; a group of eight with all its blocks identity is bypassed. -/
def stagesOf (f : FFmt) (p : Plane) (x : List Num) : List Num :=
  (List.range 32).foldl (fun y s =>
    if (List.range 4).all fun q => p.bitmap.getLsbD (4 * (s / 8) + q) then y else stageOf f p s y) x

/-- Round(Exact(sum of squares), FP32). -/
def normOf (x : List Num) : Lane :=
  BitVec.ofNat 32 (fp32.round false (x.foldl (fun a y => a.add (y.mul y)) (.fin false 0 0)))

/-- A vector of values in the working format taken through a plane. -/
def throughPlane (w : Nat) (p : Plane) (planeB : Bool) (group : Nat) (x : List Num) : AVec :=
  let f := wFmt w
  let y := stagesOf f p x
  { w := w, nin := normOf x, nout := normOf y, group := group, planeB := planeB,
    lanes := (List.range 64).map fun i => BitVec.ofNat 32 (f.round false (Lns.scale (y.getD i .nan) (Lns.ofCode (p.scale i)))) }

/-- EntryConvert of an element, with the scale code of its block if it is MX. With S an infinity becomes W's largest finite
value (R38, R155). -/
def entryConvert (e : FmtSel) (w scale bits : Nat) : Num :=
  let into (x : Num) : Num := (wFmt w).decode ((wFmt w).round e.sat x)
  if isMx e.inp then into (mxValue e.inp scale bits)
  else if (floatOf e.inp).isSome then into (elemValue e.inp bits)
  else elemValue e.inp bits

/-- Vectors that were pushed and not yet drained. -/
def Arr.undrained (x : Arr) : Nat := x.inflight.length + x.outbuf.length

/-- The group of the oldest undrained vector. -/
def Arr.oldest (x : Arr) : Option Nat := ((x.outbuf ++ x.inflight).head?).map fun v => v.group

/-! ### Drains (R167 to R170) -/

/-- A drained element saturates (R169). -/
def saturates (c : Nat) (sat : Bool) (x : Num) : Bool :=
  match floatOf c with
  | some f => sat && f.round true x != f.round false x
  | none =>
    match x with
    | .nan => false
    | .inf _ => true
    | .fin _ m e =>
      if c = 5 then m != 0 && decide (fourLog2 m e > 15)
      else x.toIntSat (-128) 127 != x.toIntSat (-2 ^ 400) (2 ^ 400)

/-- An MX element saturates (R169). -/
def mxSaturates (c : Nat) (x : Num) (exp : Int) : Bool :=
  match x with
  | .nan => false
  | .inf _ => true
  | .fin _ m e =>
    match mxFloatOf c with
    | some f => decide (f.roundMag m (e - exp) > f.maxFinite)
    | none =>
      let y := (x.mul (.fin false 1 (-exp))).mul (.fin false 64 0)
      y.toIntSat (-127) 127 != y.toIntSat (-2 ^ 400) (2 ^ 400)

/-- The flags of a drained element of a non-MX output. -/
def elemFlags (w : Nat) (e : FmtSel) (bits : Nat) : Nat :=
  let x := (wFmt w).decode bits
  let o := convertElem w e.out e.sat bits
  let y := elemValue e.out o
  let float := (floatOf e.out).isSome
  (if x.isNaN || (float && y.isNaN) then 1 else 0)
    + (match y with | .inf neg => if neg then 4 else 2 | _ => 0)
    + (if saturates e.out e.sat x then 8 else 0)
    + (match x with | .fin _ m _ => if m != 0 && y.isZero then 16 else 0 | _ => 0)

/-- A drained vector: the output elements, the two scales of an MX output, and the flags of Table 07.6. -/
structure Drained where
  elems : List Nat
  scales : Nat × Nat
  flags : Nat
  deriving DecidableEq, Repr

/-- The flags of an MX block. -/
def blockFlags (e : FmtSel) (xs : List Num) : Nat :=
  if xs.any Num.isNaN then 33
  else if xs.any fun x => mxSaturates e.out x (mxExponent e.out e.bias (maxMagnitude xs)) then 8 else 0

/-- The conversion of a result to the output format of an entry (R167, R168). DEDUCED: the MX bias that R167 has a drain ignore is
that of an entry whose output is no MX format; an MX drain uses it, as R168 says (log entry 107). -/
def drainVec (e : FmtSel) (v : AVec) : Drained :=
  if isMx e.out then
    let xs := v.lanes.map fun b => (wFmt v.w).decode b.toNat
    let a := mxBlock e.out e.bias (xs.take 32)
    let b := mxBlock e.out e.bias (xs.drop 32)
    ⟨a.2 ++ b.2, (a.1, b.1), blockFlags e (xs.take 32) ||| blockFlags e (xs.drop 32)⟩
  else
    ⟨v.lanes.map fun b => convertElem v.w e.out e.sat b.toNat, (0, 0),
     v.lanes.foldl (fun n b => n ||| elemFlags v.w e b.toNat) 0⟩

/-- Elements packed least significant first (R29, R36). -/
def packElems (bits : Nat) : List Nat → Nat
  | [] => 0
  | x :: r => x % 2 ^ bits + 2 ^ bits * packElems bits r

/-- The norm monitor on a drained vector (R172). -/
def Arr.monitorVec (x : Arr) (n : Bool) (v : AVec) : Arr :=
  let i := fp32.decode v.nin.toNat
  let o := fp32.decode v.nout.toNat
  if !x.monitor || !n || i.isZero then x
  else
    let y := { x with ndcnt := if x.ndcnt = BitVec.allOnes 32 then x.ndcnt else x.ndcnt + 1 }
    let finite (a : Num) : Bool := match a with | .fin .. => true | _ => false
    let old := fp32.decode y.ndrift.toNat
    if !finite i || !finite o then { y with ndrift := 0x7FC00000 }
    else if old.isNaN then y
    else
      let dr := BitVec.ofNat 32 (fp32.round false ((o.sub i).div i))
      if old.abs.lt (fp32.decode dr.toNat).abs then { y with ndrift := dr } else y

/-- What every drained vector does beside its output: the status update on its way, the tile-clean flag, the monitor. -/
def Core.afterDrain (c : Core) (tag : Nat) (e : FmtSel) (v : AVec) (d : Drained) : Core :=
  { c with
    vec := { c.vec with tupd := c.vec.tupd ++ [⟨tag, BitVec.ofNat 6 d.flags, 1⟩] },
    tileClean := c.tileClean && d.flags % 2 == 0,
    arr := c.arr.monitorVec e.norm v }

/-! ### Loaders (R157, R160 to R164) -/

/-- A plane loader: it waits for an earlier one; its pips follow its completion. -/
def loadWord (pip : BitVec 4) (which : Arr → List Bool) (f : Core → Arr → Arr) (s : State) : State :=
  engWord .c pip (fun s =>
    match s.cur.arr.loader with
    | some _ => .wait .other
    | none =>
      let x := s.cur.arr
      let uses := which x
      let ahead := (List.range x.inflight.length).foldl (fun n i =>
        if (x.inflight[i]?.map fun v => uses.contains v.planeB).getD false then i + 1 else n) 0
      .done (s.onCore fun c => { c with arr := { f c c.arr with loader := some ⟨pushesOf .c pip, ahead⟩ } }) true) s

/-- The angle codes of a list of cells read from LS: ANG16, or ANG12 (R45). -/
def readCode (c : Core) (base : Nat) (ang12 : Bool) (i : Nat) : Nat :=
  if ang12 then ang12At (fun o => (c.lsRead (base + o)).toNat) i else c.lsNat (base + 2 * i) 2

/-- Bytes that `n` codes take. -/
def codesSize (ang12 : Bool) (n : Nat) : Nat := if ang12 then 3 * ((n + 1) / 2) else 2 * n

/-- A plane with codes read in pass order: all of them, or those of the blocks that its bitmap leaves clear. -/
def Plane.loadCodes (p : Plane) (compact : Bool) (code : Nat → Nat) : Plane :=
  if compact then
    let cs := openCells p.bitmap
    { p with codes := ((List.range cs.length).zip cs).foldl (fun a x => Cells.set 0 a x.2 (BitVec.ofNat 16 (code x.1))) [] }
  else
    let q := p.setCodes code
    let busy := (List.range 1008).foldl (fun b i => if code i % 65536 = 0 then b else b ||| 2 ^ cellBlock i) 0
    { q with bitmap := ~~~(BitVec.ofNat 16 busy) }

/-- ANGL. -/
def execAngl (l : BitVec 1) (a : BitVec 4) (x y z : BitVec 1) (pip : BitVec 4) (s : State) : Host.Outcome State Fault Refusal :=
  .next (loadWord pip (fun _ => [l == 1]) (fun c r =>
    let ang12 := z == 1
    let v := (c.c.getA a).toNat % 1048576
    let base := if ang12 then v else v / 2 * 2
    let p := r.plane (l == 1)
    let n := if y = 1 then (openCells p.bitmap).length else 1008
    let q := p.loadCodes (y == 1) (readCode c base ang12)
    r.setPlane (l == 1) (if x = 1 then q.setScales (scaleAt (c.lsNat (base + codesSize ang12 n) 48)) else q)) s)

/-- ABMP: the codes stay. -/
def execAbmp (l : BitVec 1) (a pip : BitVec 4) (s : State) : Host.Outcome State Fault Refusal :=
  .next (loadWord pip (fun _ => [l == 1]) (fun c r =>
    r.setPlane (l == 1) { r.plane (l == 1) with bitmap := (c.c.getA a).setWidth 16 }) s)

/-- RSCL from LS. -/
def execRscl (l : BitVec 1) (a pip : BitVec 4) (s : State) : Host.Outcome State Fault Refusal :=
  .next (loadWord pip (fun _ => [l == 1]) (fun c r =>
    r.setPlane (l == 1) ((r.plane (l == 1)).setScales (scaleAt (c.lsNat (c.c.getA a).toNat 48)))) s)

/-- RSCL.V from a vector register. -/
def execRsclV (l : BitVec 1) (v pip : BitVec 4) (s : State) : Host.Outcome State Fault Refusal :=
  .next (loadWord pip (fun _ => [l == 1]) (fun c r =>
    r.setPlane (l == 1) ((r.plane (l == 1)).setScales fun i => (c.vec.lane v i).toNat % 64)) s)

/-- A word of the array that is performed at once. -/
def arrWord (pip : BitVec 4) (f : Core → Arr → Arr) (s : State) : State :=
  engWord .c pip (fun s => .done (s.onCore fun c => { c with arr := f c c.arr }) false) s

/-- RLANE: bits [6:0] and [63:20] taken as 0. -/
def execRlane (a pip : BitVec 4) (s : State) : Host.Outcome State Fault Refusal :=
  .next (arrWord pip (fun c r => { r with laneMap := BitVec.ofNat 20 ((c.c.getA a).toNat % 1048576 / 128 * 128) }) s)

/-- RPLANE. -/
def execRplane (l : BitVec 1) (pip : BitVec 4) (s : State) : Host.Outcome State Fault Refusal :=
  .next (arrWord pip (fun _ r => { r with activeB := l == 1 }) s)

/-- RPLANE.T. -/
def execRplaneT (pip : BitVec 4) (s : State) : Host.Outcome State Fault Refusal :=
  .next (arrWord pip (fun _ r => { r with activeB := !r.activeB }) s)

/-- RMON.OFF. -/
def execRmonOff (pip : BitVec 4) (s : State) : Host.Outcome State Fault Refusal :=
  .next (arrWord pip (fun _ r => { r with monitor := false }) s)

/-- RMON.ON. -/
def execRmonOn (pip : BitVec 4) (s : State) : Host.Outcome State Fault Refusal :=
  .next (arrWord pip (fun _ r => { r with monitor := true }) s)

/-- RMON.CLR. -/
def execRmonClr (pip : BitVec 4) (s : State) : Host.Outcome State Fault Refusal :=
  .next (arrWord pip (fun _ r => { r with ndrift := 0, ndcnt := 0 }) s)

/-- REOS: waits until no vector is in flight (R171). -/
def execReos (pip : BitVec 4) (s : State) : Host.Outcome State Fault Refusal :=
  .next (engWord .c pip (fun s => if s.cur.arr.inflight.isEmpty then .done s false else .wait .other) s)

/-! ### Pushes (R165, R166) -/

/-- An LDQ waits in L's queue, is L's word, or stands in the loop memory where an iteration to come or the rest of this one
executes it (R166). -/
def Engine.hasLdq (x : Engine) : Bool :=
  let isLdq (q : QEntry) : Bool := q.kind == .word && q.word.extractLsb' 23 9 == 0x083
  let ahead (o : LoopSt) : List QEntry :=
    if o.i + 1 < o.n then x.loopMem
    else
      match x.inner with
      | some l => if l.i + 1 < l.n then x.loopMem.drop (min x.lp l.start) else x.loopMem.drop x.lp
      | none => x.loopMem.drop x.lp
  x.queue.any isLdq || (match x.outer with | some o => (ahead o).any isLdq | none => false)

/-- A push of n vectors, one at each turn: `elem c k i` gives the bits of element i of vector k. -/
def pushWord (n : BitVec 4) (f : BitVec 6) (pip : BitVec 4) (elem : State → FmtSel → Nat → Nat → Option Nat) (s : State) : State :=
  engWord .c pip (fun s =>
    let e := s.fmtSel f
    let k := s.cur.c.offset
    match workFmt e.inp with
    | none => engIllegal .c s
    | some w =>
      if k = 0 ∧ s.cur.arr.undrained + (n.toNat + 1) > 64 then engIllegal .c s
      else
        let q := s.cur.vec.scaleQ
        if isMx e.inp && q.length < 2 then
          if s.cur.l.hasLdq then .wait .scaleQueue else .trap ⟨0x08, 0, 0⟩ s
        else
          let xs := (List.range 64).map fun i =>
            match elem s e k i with
            | some b => entryConvert e w ((if i < 32 then q.getD 0 0 else q.getD 1 0)).toNat b
            | none => Num.fin false 0 0
          let s1 := s.onCore fun c =>
            let r := c.arr
            let g := if k = 0 then r.groups + 1 else r.groups
            { c with
              arr := { r with groups := g, inflight := r.inflight ++ [throughPlane w (r.plane r.activeB) r.activeB g xs] },
              vec := { c.vec with scaleQ := if isMx e.inp then q.drop 2 else q } }
          if k < n.toNat then .more (s1.onEng .c fun x => { x with offset := k + 1 }) else .done s1 false) s

/-- An LS address of a vector or a batch: bits [3:0] and [63:20] taken as 0 (R159). -/
def lsVecAddr (v : Word) : Nat := v.toNat % 1048576 / 16 * 16

/-- RPUSH: vectors of packed elements in LS. -/
def execRpush (n a : BitVec 4) (f : BitVec 6) (pip : BitVec 4) (s : State) : Host.Outcome State Fault Refusal :=
  .next (pushWord n f pip (fun s e k i =>
    let b := elemBits e.inp
    let base := lsVecAddr (s.cur.c.getA a) + k * (8 * b) + i * b / 8
    some (s.cur.lsNat base ((i * b % 8 + b + 7) / 8) / 2 ^ (i * b % 8) % 2 ^ b)) s)

/-- RPUSHV: vector registers; masked-off lanes enter as +0, whatever the scale of their block. -/
def execRpushv (n v : BitVec 4) (f : BitVec 6) (m : BitVec 1) (pip : BitVec 4) (s : State) : Host.Outcome State Fault Refusal :=
  .next (pushWord n f pip (fun s e k i =>
    let x := s.cur.vec
    if (x.active m).getLsbD i then some ((x.lane (v + BitVec.ofNat 4 k) i).toNat % 2 ^ elemBits e.inp) else none) s)

/-! ### Drain words -/

/-- The checks of a drain, then the oldest result once it has left the array. -/
def drainStart (f : BitVec 6) (k : FmtSel → AVec → Drained → State → Eff) (s : State) : Eff :=
  let e := s.fmtSel f
  if !outOk e.out || s.cur.arr.undrained = 0 then engIllegal .c s
  else
    match s.cur.arr.outbuf with
    | [] => .wait .other
    | v :: r => k e v (drainVec e v) (s.onArr fun x => { x with outbuf := r })

/-- RPOP: the rest of the oldest group into LS, one vector at each turn. -/
def execRpop (t a b : BitVec 4) (f : BitVec 6) (pip : BitVec 4) (s : State) : Host.Outcome State Fault Refusal :=
  .next (engWord .c pip (drainStart f fun e v d s1 =>
    let k := s1.cur.c.offset
    let n := elemBits e.out
    let s2 := s1.onCore fun c =>
      let c1 := c.lsPut (lsVecAddr (c.c.getA a) + k * (8 * n)) (8 * n) (packElems n d.elems)
      let c2 := if isMx e.out then c1.lsPut ((c.c.getA b).toNat + 2 * k) 2 (d.scales.1 + 256 * d.scales.2) else c1
      c2.afterDrain t.toNat e v d
    if s2.cur.arr.oldest == some v.group then .more (s2.onEng .c fun x => { x with offset := k + 1 }) else .done s2 false) s)

/-- RPOPV: one vector into `d`. -/
def execRpopv (d t v : BitVec 4) (f : BitVec 6) (m : BitVec 1) (pip : BitVec 4) (s : State) : Host.Outcome State Fault Refusal :=
  .next (engWord .c pip (drainStart f fun e x r s1 =>
    let s2 := s1.onVec fun y =>
      let z := y.putLanes d (y.active m) fun i => BitVec.ofNat 32 (r.elems.getD i 0)
      if isMx e.out then
        z.setLanes v fun i => if i = 0 then BitVec.ofNat 32 r.scales.1 else if i = 1 then BitVec.ofNat 32 r.scales.2 else 0
      else z
    .done (s2.onCore fun c => c.afterDrain t.toNat e x r) false) s)

/-! ### Sweep and stream state (R182) -/

/-- Mode of SWS: 0 idle, 1 sweep, 2 stream. -/
def Arr.swsMode (x : Arr) : Nat := x.sws0.toNat / 2 ^ 62

/-- Word 0 of a sweep. -/
def sweepWord (mode c r done i j : Nat) : Word :=
  BitVec.ofNat 64 (2 ^ 62 * mode + 2 ^ 31 * (c % 128) + 2 ^ 24 * (r % 128) + 2 ^ 12 * (done % 4096) + 2 ^ 6 * (i % 64) + j % 64)

/-- A field of SWS word 0. -/
def Arr.sws (x : Arr) (hi lo : Nat) : Nat := x.sws0.toNat / 2 ^ lo % 2 ^ (hi - lo + 1)

/-- What a stream leaves in SWS when it is stopped. -/
def StreamSt.word (x : StreamSt) : Word :=
  let b (f : Bool) : Nat := if f then 1 else 0
  let nx := match x.next with
    | some (l, sc, m) => 2 ^ 37 * b l + 2 ^ 36 * b sc + 2 ^ 28 * (m % 256) + 2 ^ 27
    | none => 0
  BitVec.ofNat 64 (2 ^ 63 + nx + 2 ^ 26 * b x.last + 2 ^ 25 * b x.scales + 2 ^ 16 * (x.map % 256) + 2 ^ 12 * (x.vec % 16) + x.pass % 4096)

/-- The stream that SWS records. -/
def Arr.swsStream (x : Arr) : StreamSt :=
  { pass := x.sws 11 0, vec := x.sws 15 12, last := x.sws 26 26 == 1, scales := x.sws 25 25 == 1, map := x.sws 23 16,
    next := if x.sws 27 27 = 1 then some (x.sws 37 37 == 1, x.sws 36 36 == 1, x.sws 35 28) else none }

/-! ### RSTREAM (R174 to R177) -/

/-- A pass record at the head of the FIFO. -/
structure PassRec where
  bitmap : BitVec 16
  map : Nat
  last : Bool
  scales : Bool
  units : Nat
  bad : Bool
  deriving DecidableEq, Repr

/-- The header of the record, from its first unit. -/
def passHeader (fifo : List Byte) : PassRec :=
  let bm : BitVec 16 := (fifo.getD 1 0 ++ fifo.getD 0 0)
  let fl := (fifo.getD 3 0).toNat
  let sc := fl / 2 % 2 == 1
  let n := (openCells bm).length
  { bitmap := bm, map := (fifo.getD 2 0).toNat, last := fl % 2 == 1, scales := sc,
    units := (4 + (if sc then 48 else 0) + 2 * n + 127) / 128, bad := fl / 4 != 0 }

/-- The plane that a record gives, and whether its padding is zero. -/
def passPlane (h : PassRec) (fifo : List Byte) : Plane × Bool :=
  let o := 4 + (if h.scales then 48 else 0)
  let p : Plane := ⟨[], [], h.bitmap⟩
  let q := p.loadCodes true fun i => (fifo.getD (o + 2 * i) 0).toNat + 256 * (fifo.getD (o + 2 * i + 1) 0).toNat
  let sc := natOf ((fifo.drop 4).take 48)
  let e := o + 2 * (openCells h.bitmap).length
  (if h.scales then q.setScales (scaleAt sc) else q, ((fifo.take (128 * h.units)).drop e).all fun b => b == 0)

/-- The lane-map entry of a lane (Table 07.5): unused, element index. -/
def Core.mapEntry (c : Core) (map lane : Nat) : Bool × Nat :=
  let v := c.lsNat (c.arr.laneMap.toNat + 128 * map + 2 * lane) 2
  (v / 32768 % 2 == 1, v % 32768)

/-- `DECODE` of a pass record: the slot from which its first bytes come (R175, Table 19.2). DESIGN CHOICE: the table does not say
which slot that is where a record comes from several (log entry 108). -/
def streamTrap (s : State) : Eff :=
  let x := s.cur.vec.slots.headD (0, 0)
  .trap ⟨0x09, x.1, BitVec.ofNat 64 x.2⟩ s

/-- One vector of a pass: gathered, taken through the active plane, scattered. -/
def streamVec (c : Core) (e : FmtSel) (tag base d map k : Nat) : Core :=
  let w := e.inp
  let size := if w = 0 then 4 else 2
  let at_ (i : Nat) : Nat := base + k * d * size + i * size
  let xs := (List.range 64).map fun i =>
    let m := c.mapEntry map i
    if m.1 then Num.fin false 0 0 else entryConvert e w 0 (c.lsNat (at_ m.2) size)
  let v := throughPlane w (c.arr.plane c.arr.activeB) c.arr.activeB 0 xs
  let c1 := (List.range 64).foldl (fun (y : Core) i =>
    let m := c.mapEntry map i
    if m.1 then y else y.lsPut (at_ m.2) size (v.lanes.getD i 0).toNat) c
  let e1 : FmtSel := { e with out := w }
  c1.afterDrain tag e v ⟨[], (0, 0), v.lanes.foldl (fun n b => n ||| elemFlags w e1 b.toNat) 0⟩

/-- Every vector of a pass is done: the stream ends with the last pass; a next pass that is loaded becomes active, and is
skipped if its plane is all identity and scales nothing (R176, R177); else it is loaded next. -/
def streamNext (s : State) (x : StreamSt) (n : Nat) : Eff :=
  if x.last then .done (s.onArr fun r => { r with stream := none }) false
  else
    match x.next with
    | some (l, sc, m) =>
      let skip := (s.cur.arr.plane (!s.cur.arr.activeB)).bitmap == 0xFFFF && !sc
      .more (s.onArr fun r => { r with activeB := !r.activeB, stream := some ⟨x.pass + 1, if skip then n + 1 else 0, l, sc, m, none⟩ })
    | none => .more (s.onArr fun r => { r with stream := some { x with vec := n + 1 } })

/-- What the record at the head of the FIFO comes to. -/
inductive PassIn where
  | wait (w : EWait)
  | bad
  /-- Its header, its plane, and whether the pass is skipped. -/
  | ok (h : PassRec) (p : Plane) (skip : Bool)

/-- The checks of a pass record (R175, R177). -/
def Core.passIn (c : Core) (d : Nat) : PassIn :=
  let f := c.vec.fifo
  if f.length < 128 then .wait .fifo
  else
    let h := passHeader f
    if h.bad then .bad
    else if c.arr.loader.isSome then .wait .other
    else if f.length < 128 * h.units then .wait .fifo
    else
      let (p, clean) := passPlane h f
      let skip := h.bitmap == 0xFFFF && !h.scales
      let badMap := !skip && (List.range 64).any fun i => let m := c.mapEntry h.map i; !m.1 && decide (m.2 ≥ d)
      if !clean || badMap then .bad else .ok h p skip

/-- A pass record leaves the FIFO, and its plane is the inactive one. -/
def Core.takePass (c : Core) (h : PassRec) (p : Plane) : Core :=
  { c with vec := { c.vec with fifo := c.vec.fifo.drop (128 * h.units), slots := c.vec.slots.drop h.units },
           arr := c.arr.setPlane (!c.arr.activeB) p }

/-- The load of a pass into the inactive plane, which becomes active (R176). -/
def streamLoad (s : State) (pass d n : Nat) : Eff :=
  match s.cur.passIn d with
  | .wait w => .wait w
  | .bad => streamTrap s
  | .ok h p skip =>
    let s1 := (s.onCore fun c => c.takePass h p).onArr fun r => { r with activeB := !r.activeB }
    let st : StreamSt := ⟨pass, 0, h.last, h.scales, h.map, none⟩
    if skip then streamNext s1 st n else .more (s1.onArr fun r => { r with stream := some st })

/-- While a pass runs, the next one may already be read into the inactive plane (R176). Whether it has been is open (log
entry 77); a bad record traps only after the pass (R175). -/
def Core.preload (c : Core) (seed d : Nat) : Core :=
  match c.arr.stream with
  | some x =>
    if x.last || x.next.isSome || !Config.choice seed 610 x.pass then c
    else
      (match c.passIn d with
       | .ok h p _ =>
         let c1 := c.takePass h p
         { c1 with arr := { c1.arr with stream := some { x with next := some (h.last, h.scales, h.map) } } }
       | _ => c)
  | none => c

/-- RSTREAM: one pass load or one vector at each turn. An interrupted one continues at the pass and vector recorded (R182,
R183). -/
def execRstream (n a b : BitVec 4) (f : BitVec 6) (pip : BitVec 4) (s : State) : Host.Outcome State Fault Refusal :=
  .next (engWord .c pip (fun s =>
    let e := s.fmtSel f
    let ds := s.cur.c.getA b
    let d := ds.toNat % 32768 + 1
    let mode := s.cur.arr.swsMode
    match s.cur.arr.stream with
    | none =>
      if ds.toNat / 2 ^ 20 != 0 || ds.getLsbD 15 || e.inp != e.out || e.inp > 2 || mode == 1 || mode == 3 then engIllegal .c s
      else if mode = 2 then .more (s.onArr fun r => { r with stream := some r.swsStream, sws0 := 0, sws1 := 0 })
      else streamLoad s 0 d n.toNat
    | some x =>
      let s0 := if mode = 2 then s.onArr fun r => { r with sws0 := 0, sws1 := 0 } else s
      if x.vec > n.toNat then
        if !x.last && x.next.isNone then streamLoad s0 (x.pass + 1) d n.toNat else streamNext s0 x n.toNat
      else
        let s1 := s0.onCore fun c =>
          let c0 := c.preload s.fresh d
          let y := c0.arr.stream.getD x
          let c1 := streamVec c0 e (ds.toNat / 65536 % 16) (lsVecAddr (c0.c.getA a)) d y.map y.vec
          { c1 with arr := { c1.arr with stream := some { y with vec := y.vec + 1 } } }
        if x.vec < n.toNat then .more s1 else streamNext s1 (s1.cur.arr.stream.getD x) n.toNat) s)

/-- What a stream leaves when it is stopped for preemption: its pass and its next vector in SWS (R183). DESIGN CHOICE: the field
of the next vector has no value for "none" in a batch of 16; the position then stays beside it (log entry 109). -/
def Arr.stopStream (x : Arr) : Arr :=
  match x.stream with
  | some y => { x with sws0 := y.word, sws1 := 0, stream := if y.vec < 16 then none else some y }
  | none => x

/-! ### RSWEEP (R178 to R180) -/

/-- The LS address of element (i, l) of a tile with C columns; rows below 0 wrap with LS. -/
def sweepAddr (tile c : Nat) (i : Int) (l : Nat) : Nat := (((tile : Int) + 4 * ((c : Int) * i + l)) % 1048576).toNat

/-- One elimination: the pair of rows i − 1 and i in column j, and the code into the output list. -/
def eliminate (k : Core) (tile out cols : Nat) (i : Int) (j : Nat) : Core :=
  let val (k : Core) (r : Int) (l : Nat) : Num := fp32.decode (k.lsNat (sweepAddr tile cols r l) 4)
  let put (k : Core) (r : Int) (l : Nat) (v : Num) : Core := k.lsPut (sweepAddr tile cols r l) 4 (fp32.round false v)
  let (code, piv) := deriveAngle (val k (i - 1) j) (val k i j)
  let k1 := put (put k (i - 1) j piv) i j (.fin false 0 0)
  let k2 := ((List.range cols).filter fun l => decide (j < l)).foldl (fun (y : Core) l =>
    let r := cell fp32 code (val y (i - 1) l) (val y i l)
    put (put y (i - 1) l r.1) i l r.2) k1
  k2.lsPut out 2 code

/-- RSWEEP: one elimination at each turn. One that has begun reads its registers no more (R221). -/
def execRsweep (a b pip : BitVec 4) (s : State) : Host.Outcome State Fault Refusal :=
  .next (engWord .c pip (fun s =>
    let ds := (s.cur.c.getA a).toNat
    let mode := s.cur.arr.swsMode
    if (ds / 2 ^ 32 != 0 && !s.cur.c.popped) || mode == 2 || mode == 3 then engIllegal .c s
    else if !s.cur.arr.inflight.isEmpty then .wait .other
    else
      let s1 := if mode = 1 then s else s.onCore fun c =>
        let rows := ds / 2 ^ 20 % 64 + 1
        let cols := ds / 2 ^ 26 % 64 + 1
        { c with arr := { c.arr with
            sws0 := sweepWord 1 cols rows 0 (rows - 1) 0,
            sws1 := BitVec.ofNat 64 (2 ^ 20 * ((c.c.getA b).toNat % 1048576 / 2 * 2) + ds % 1048576 / 4 * 4) } }
      let r := s1.cur.arr
      let cols := r.sws 37 31
      let rows := r.sws 30 24
      let done := r.sws 23 12
      let i := r.sws 11 6
      let j := r.sws 5 0
      if j ≥ min cols (rows - 1) then .done (s1.onArr fun r => { r with sws0 := sweepWord 0 cols rows done i j }) false
      else
        let tile := r.sws1.toNat % 1048576
        let out := r.sws1.toNat / 1048576 % 1048576
        let (i', j') := if i > j + 1 then (i - 1, j) else (rows - 1, j + 1)
        let more := decide (j' < min cols (rows - 1))
        let s2 := s1.onCore fun c =>
          let c1 := eliminate c tile out cols i j
          { c1 with arr := { c1.arr with
              sws0 := sweepWord (if more then 1 else 0) cols rows (done + 1) i' j',
              sws1 := BitVec.ofNat 64 (2 ^ 20 * ((out + 2) % 1048576) + tile) } }
        if more then .more s2 else .done s2 false) s)

/-! ### RSAVE and RLOAD (R184) -/

/-- The LS address of a save area: bits [5:0] and [63:20] taken as 0. -/
def saveAddr (v : Word) : Nat := v.toNat % 1048576 / 64 * 64

/-- The 48 packed bytes of a plane's scale codes. -/
def Plane.scaleBytes (p : Plane) : Nat := packElems 6 ((List.range 64).map p.scale)

/-- The 2,016 bytes of a plane's codes. -/
def Plane.codeBytes (p : Plane) : Nat := packElems 16 ((List.range 1008).map p.code)

/-- The fields of the array's save area: offset, bytes, value (Table 07.13). -/
def Arr.areaFields (r : Arr) : List (Nat × Nat × Nat) :=
  let ctl := (if r.activeB then 1 else 0) + (if r.monitor then 2 else 0) + 2 ^ 16 * (r.laneMap.toNat / 128)
  [(0, 2016, r.planeA.codeBytes), (2016, 2016, r.planeB.codeBytes), (4032, 48, r.planeA.scaleBytes),
   (4080, 48, r.planeB.scaleBytes), (4128, 2, r.planeA.bitmap.toNat), (4130, 2, r.planeB.bitmap.toNat), (4132, 4, ctl),
   (4136, 4, r.ndrift.toNat), (4140, 4, r.ndcnt.toNat), (4144, 8, r.sws0.toNat), (4152, 8, r.sws1.toNat)]

/-- RSAVE. DESIGN CHOICE: the area takes SWS as it stands, also with mode 3: the word copies the register and acts on no mode of it
(log entry 124). -/
def execRsave (a pip : BitVec 4) (s : State) : Host.Outcome State Fault Refusal :=
  .next (engWord .c pip (fun s =>
    let r := s.cur.arr
    if !r.inflight.isEmpty || r.loader.isSome then .wait .other
    else
      .done (s.onCore fun c =>
        r.areaFields.foldl (fun (k : Core) (x : Nat × Nat × Nat) => k.lsPut (saveAddr (c.c.getA a) + x.1) x.2.1 x.2.2) c) false) s)

/-- A plane of a save area. -/
def Core.savedPlane (c : Core) (codes scales bitmap : Nat) : Plane :=
  (((⟨[], [], BitVec.ofNat 16 (c.lsNat bitmap 2)⟩ : Plane).setCodes fun i => c.lsNat (codes + 2 * i) 2).setScales
    (scaleAt (c.lsNat scales 48)))

/-- RLOAD: a loader of both planes; the output buffer and the scale queue stay. -/
def execRload (a pip : BitVec 4) (s : State) : Host.Outcome State Fault Refusal :=
  .next (loadWord pip (fun _ => [false, true]) (fun c r =>
    let b := saveAddr (c.c.getA a)
    let ctl := c.lsNat (b + 4132) 4
    let base : Core := { c with arr := { r with
        planeA := c.savedPlane b (b + 4032) (b + 4128), planeB := c.savedPlane (b + 2016) (b + 4080) (b + 4130),
        activeB := ctl % 2 == 1, monitor := ctl / 2 % 2 == 1, laneMap := BitVec.ofNat 20 (ctl / 2 ^ 16 % 8192 * 128),
        ndrift := BitVec.ofNat 32 (c.lsNat (b + 4136) 4) } }
    (((base.writeC 0x041 (BitVec.ofNat 64 (c.lsNat (b + 4140) 4))).writeC 0x042 (BitVec.ofNat 64 (c.lsNat (b + 4144) 8))).writeC 0x043
      (BitVec.ofNat 64 (c.lsNat (b + 4152) 8))).arr) s)

end Sys2Proof.Machine
end

