-- ==== Sys2Proof/Machine/Teams.lean ====
section
/-! DEFINITION. Sys2Proof/Machine/Teams.lean: the words of a team stream and the steps of a team (spec/12). A member is an
agent; it runs the stream with its S, and a core's C runs `XFER.V`. -/

namespace Sys2Proof.Machine

/-! ### Members -/

/-- The team whose stream the current agent is in; its user handler and Husk stand outside (R90, R248). -/
def State.openTeam (s : State) : Option (Nat × TeamSt) :=
  if s.inHusk || s.cur.handler then none
  else
    match s.cur.team.team with
    | some t => (Cells.find? s.teams t).map fun x => (t, x)
    | none => none

/-- The role-binding table of the agent's launch. -/
def State.binderOf (s : State) (agent : Nat) : Option Binder :=
  match s.launchOf agent with
  | some l => l.binder
  | none => none

def State.roleCount (s : State) : Nat := ((s.binderOf s.agent).map fun b => b.roles.length).getD 0

/-- The member that holds a role (R246). -/
def holderOf (g : Gang) (r : Role) : Nat :=
  let core := g.members.getD r.rank 0
  if r.kind = 1 then core else if r.kind = 2 then 256 + podOf core else 288 + dieOf core

/-- The current agent holds the role. -/
def State.holds (s : State) (r : BitVec 4) : Bool := s.cur.roleSet.getLsbD r.toNat

def State.onTeam (s : State) (f : Team → Team) : State := s.onCore fun c => { c with team := f c.team }

/-- `CHOR` with one detail on some members, at their next word (R258, R262). -/
def State.chorHit (s : State) (detail : Nat) (who : List Nat) : State :=
  who.foldl (fun (a : State) n => a.onBehalf n .s fun b =>
    let c := b.cur
    let role := if c.roleSet = 0 then 0xFF else ((List.range 16).find? fun r => c.roleSet.getLsbD r).getD 0xFF
    match c.user.stat with
    | .trapped _ => b
    | _ => b.takeTrap ⟨0x0B, 0, BitVec.ofNat 64 (detail + 256 * role + 65536 * c.team.beat.toNat)⟩ b.pc) s

/-- `CHOR` with one detail on some members and detail 13 on the others (R262). -/
def State.chorOn (s : State) (detail : Nat) (who : List Nat) : State :=
  ((s.fellows (who.headD 0)).filter fun m => !who.contains m).foldl State.chorOther (s.chorHit detail who)

/-- The common checks of a word of the M space that S executes (R59, R63). -/
def mWord (w : InstrWord) (legal : Bool) (body : State → State) (s : State) : State :=
  match s.ctx.pend with
  | some p => s.illegalWord p.word p.at_
  | none =>
    match s.ctx.pfx.word with
    | some (x, a) => s.illegalWord x a
    | none => if legal then body s else s.illegalWord w s.pc

/-- A word that may stand only between runs (R249): outside a stream it is illegal. -/
def betweenRuns (w : InstrWord) (legal : Bool) (body : Nat → TeamSt → State → State) (s : State) : State :=
  mWord w legal (fun s =>
    match s.openTeam with
    | none => s.illegalWord w s.pc
    | some (t, x) => if s.inRun then s.chor 4 s.pc else body t x s) s

/-! ### CHBEG -/

/-- The cursors of a member at the start (R252, R259). -/
def startCursors : Nat → List Chan → Cells Word
  | _, [] => []
  | c, x :: r => (2 * c, x.src) :: (2 * c + 1, x.dst) :: startCursors (c + 1) r

/-- CHBEG (R252). -/
def execChbeg (i : BitVec 12) (n : BitVec 5) (s : State) : Host.Outcome State Fault Refusal :=
  .next (mWord (pack (.mBeg i n 0)) (chbegLegal n) (fun s =>
    match s.openTeam with
    | some _ => s.chor (if s.inRun then 4 else 2) s.pc
    | none =>
      match s.binderOf s.agent, s.gangOf s.agent with
      | some b, some g =>
        (match g.team with
         | some t =>
           if b.team != i.toNat || b.roles.length != n.toNat || s.cur.team.begun then s.chor 1 s.pc
           else
             ((s.onTeam fun _ =>
               { Team.reset with team := some t, begun := true, beg := s.pc, cursors := startCursors 0 b.chans }).updTeam t fun x =>
                 { x with reached := Cells.put x.reached s.agent 0 }).advance
         | none => s.chor 1 s.pc)
      | _, _ => s.chor 1 s.pc) s)

/-! ### ROLE: beats, drift, skip-ahead (R250, R251, R255) -/

/-- Every member has reached the beat that the bound asks for. -/
def TeamSt.within (x : TeamSt) (beat bound : Nat) : Bool :=
  decide (beat ≤ bound) || x.members.all fun m => decide (beat - bound ≤ Cells.get 0 x.reached m)

/-- The member passes its header: into the run, or past it (R250). -/
def State.passHeader (s : State) : State :=
  let t := s.cur.team
  if s.cur.roleSet.setWidth 16 &&& t.mask != 0 then s.jump (t.header + 4)
  else (s.onTeam fun t => { t with left := 0 }).jump (t.header + 4 * BitVec.ofNat 64 (1 + t.left))

/-- ROLE (R250). A reached beat becomes visible to the others only after a while, so that a member may stall although
every other one is near enough; the release follows (R255). -/
def execRole (m : BitVec 16) (l : BitVec 7) (s : State) : Host.Outcome State Fault Refusal :=
  .next (match s.ctx.stat with
    | .waiting (.drift ..) => s
    | _ => betweenRuns (pack (.mRole m l)) (roleLegal m l) (fun t x s =>
        if m.toNat / 2 ^ s.roleCount ≠ 0 then s.chor 3 s.pc
        else
          let beat := Cells.get 0 x.reached s.agent + 1
          let s1 := (s.onTeam fun y =>
            { y with beat := BitVec.ofNat 32 beat, header := s.pc, mask := m, left := l.toNat, jumped := false }).updTeam t fun y =>
              { y with reached := Cells.put y.reached s.agent beat, headers := Cells.put y.headers (1024 * beat + s.agent) s.pc }
          let bound := s.cur.team.bound.toNat
          let seen := match Cells.find? s1.teams t with | some y => y.within beat bound | none => true
          if decide (beat ≤ bound) || (seen && Config.choice s.fresh 40 s.agent) then s1.passHeader
          else s1.await (.drift s.pc (BitVec.ofNat 32 beat))) s)

/-- DRIFT_STALL_RELEASE (R255). -/
def execDriftStallRelease (core : Nat) (s : State) : Host.Outcome State Fault Refusal :=
  .next (s.onBehalf core .s fun a =>
    match a.ctx.stat, a.openTeam with
    | .waiting (.drift ..), some (_, x) =>
      if x.within (Cells.get 0 x.reached core) a.cur.team.bound.toNat then a.passHeader else a
    | _, _ => a)

/-- HEADER_DIVERGENCE: two members of a running team have published different headers for one beat: every member that is in the
stream traps (R251). -/
def execHeaderDivergence (team : Nat) (beat : BitVec 32) (s : State) : Host.Outcome State Fault Refusal :=
  .next (match Cells.find? s.teams team with
    | none => s
    | some x =>
      let hs := x.headers.filter fun h => h.1 / 1024 % 2 ^ 32 == beat.toNat
      let runs := ((Cells.find? s.gangs x.gang).map fun g => g.state == .bound).getD false
      if runs && hs.any fun h => hs.any fun k => k.1 / 1024 == h.1 / 1024 && k.2 != h.2 then
        (match x.members.filter fun m => (s.core m).team.team == some team with
         | [] => s
         | l => s.chorOn 8 l)
      else s)

/-! ### CHLOOP (R256) -/

/-- The word that S fetches at an address: its translation, the replica windows, and an error of its line (R277, R349, R356). -/
def State.fetchAt (s : State) (a : Word) : Except Flt InstrWord :=
  match s.translate s.agent (!s.inHusk) .fetch a with
  | .error f => .error f
  | .ok l =>
    match s.repFault a, s.eccAt l a with
    | some f, _ => .error f
    | none, some f => .error f
    | none, none => .ok (BitVec.ofNat 32 (s.natAt l 4))

/-- What the search for the end of a span comes to. `unknown` marks a word that cannot be fetched yet. -/
inductive SpanEnd where
  | at_ (a : Word)
  | pastEnd
  | unknown
  deriving DecidableEq, Repr

/-- The end of the span-th run from an address on. -/
def State.findSpan (s : State) : Nat → Word → Nat → SpanEnd
  | 0, _, _ => .unknown
  | fuel + 1, a, n =>
    if n = 0 then .at_ a
    else
      match s.fetchAt a with
      | .error _ => .unknown
      | .ok w =>
        if w.extractLsb' 29 3 != 7 then .unknown
        else
          match (w.extractLsb' 23 6).toNat with
          | 1 => s.findSpan fuel (a + 4 * BitVec.ofNat 64 (1 + w.toNat % 128)) (n - 1)
          | 3 => .pastEnd
          | 4 => s.findSpan fuel (a + 4) n
          | 6 => s.findSpan fuel (a + 4) n
          | 7 => s.findSpan fuel (a + 4) n
          | _ => .unknown

/-- The end of a loop's span, as far as the words up to it can be fetched (R256). -/
def State.spanEnd (s : State) (l : ChLoop) : Option Word :=
  match l.stop with
  | some a => some a
  | none => (match s.findSpan 1048576 l.first l.span with | .at_ a => some a | _ => none)

/-- The CHLOOP span of the stream that holds a header (its first address), whether or not the loop is active: none where
the scan from the word after CHBEG does not come to that address as a word between runs (R260); `.error` where it meets a
word that cannot be fetched. -/
def State.spanOf (s : State) (target : Nat) : Nat → Word → Option Word → Except Unit (Option (Option Word))
  | 0, _, _ => .ok none
  | fuel + 1, a, best =>
    if a.toNat = target then .ok (some best)
    else if target < a.toNat then .ok none
    else
      match s.fetchAt a with
      | .error _ => .error ()
      | .ok w =>
        if w.extractLsb' 29 3 != 7 then s.spanOf target fuel (a + 4) best
        else
          match (w.extractLsb' 23 6).toNat with
          | 1 => s.spanOf target fuel (a + 4 * BitVec.ofNat 64 (1 + w.toNat % 128)) best
          | 3 => .ok none
          | 4 =>
            (match s.findSpan 1048576 (a + 4) (w.toNat / 65536 % 128) with
             | .at_ stop => s.spanOf target fuel (a + 4) (if target < stop.toNat then some (a + 4) else best)
             | _ => s.spanOf target fuel (a + 4) best)
          | _ => s.spanOf target fuel (a + 4) best

/-- CHLOOP. Where the words up to the end of the span cannot all be fetched yet, the end is found when the member comes to
it. -/
def execChloop (sp : BitVec 7) (c : BitVec 16) (s : State) : Host.Outcome State Fault Refusal :=
  .next (betweenRuns (pack (.mSpan sp c)) (chloopLegal sp c) (fun _ _ s =>
    let loops := s.cur.team.loops
    let push (stop : Option Word) : State := (s.onTeam fun t => { t with loops := ⟨s.pc + 4, stop, sp.toNat, c.toNat⟩ :: t.loops }).advance
    if loops.length ≥ 2 then s.chor 10 s.pc
    else
      match s.findSpan 1048576 (s.pc + 4) sp.toNat with
      | .pastEnd => s.chor 10 s.pc
      | .unknown => push none
      | .at_ stop =>
        if loops.any fun l => (match s.spanEnd l with | some a => decide (a.toNat < stop.toNat) | none => false) then s.chor 10 s.pc
        else push (some stop)) s)

/-- The end of the innermost span has been reached: the member jumps back, or the loop is over (R256). -/
def State.closeSpan (s : State) : State :=
  match s.cur.team.loops with
  | l :: r =>
    if l.left > 1 then (s.onTeam fun t => { t with loops := { l with left := l.left - 1 } :: r }).jump l.first
    else s.onTeam fun t => { t with loops := r }
  | [] => s

/-! ### DRIFT, TSYNC, CHEND -/

/-- DRIFT (R254). -/
def execDrift (n : BitVec 8) (s : State) : Host.Outcome State Fault Refusal :=
  .next (betweenRuns (pack (.mBound 6 0 n)) true (fun _ _ s => (s.onTeam fun t => { t with bound := n }).advance) s)

/-- The arrival of a member on a team barrier (R253, R257): behind its earlier accesses, and behind its hand-overs until they
have come to their pairs; an engine's blocks have been written too. DEDUCED: a message that stays in its pair is the one that R253 reports, so that "received" means
there (log entry 104). -/
def State.arriveTeam (s : State) (t : Nat) (x : TeamSt) (ends : Bool) : State :=
  let open_ := x.msgs.any fun m => m.sender == s.agent && m.kind != 1 && (!m.arrived || (decide (s.agent ≥ 256) && !m.placed))
  if s.memPending || s.sysPending || !s.cur.comb.isEmpty || open_ then (s.sendAllCombs s.agent).await .teamArrive
  else
    (s.updTeam t fun y =>
      { y with arrived := y.arrived ++ [s.agent], enders := (if ends then y.enders ++ [s.agent] else y.enders),
               ts := wmax y.ts s.pts }).await .teamBarrier

/-- TSYNC (R257). -/
def execTsync (s : State) : Host.Outcome State Fault Refusal :=
  .next (match s.ctx.stat with
    | .waiting .teamBarrier => s
    | _ => betweenRuns (pack (.mBound 7 0 0)) true (fun t x s => s.arriveTeam t x false) s)

/-- CHEND (R253): a span that it would cut is detail 10. -/
def execChend (s : State) : Host.Outcome State Fault Refusal :=
  .next (match s.ctx.stat with
    | .waiting .teamBarrier => s
    | _ => betweenRuns (pack (.mBound 3 0 0)) true (fun t x s =>
        if s.cur.team.loops.isEmpty then s.arriveTeam t x true else s.chor 10 s.pc) s)

/-- A member leaves a team barrier: PTS and the floor rise; after CHEND a core goes on with ordinary code, and an engine
returns to its ordinary service, its beat, its bound and its cursors as they stand (R253, R257). -/
def State.leaveBarrier (s : State) (m : Nat) (ts : Word) (ends : Bool) : State :=
  s.onBehalf m .s fun a =>
    let b := ((a.raisePts ts).setFloor).advance
    if !ends then b
    else if m < 256 then b.onTeam fun t => { t with team := none }
    else b.onCore fun c =>
      { c with team := { Team.reset with beat := c.team.beat, bound := c.team.bound, cursors := c.team.cursors }, binding := none,
               user := c.user.release }

/-- TEAM_BARRIER_COMPLETE: every member has arrived. At CHEND every pair must be empty (R253). DESIGN CHOICE: arrivals at TSYNC and
at CHEND complete one barrier; each member goes on as its own word says (log entry 127). -/
def execTeamBarrierComplete (team : Nat) (s : State) : Host.Outcome State Fault Refusal :=
  .next (match Cells.find? s.teams team with
    | none => s
    | some x =>
      if !(x.members.all fun m => x.arrived.contains m && (s.core m).user.stat == .waiting .teamBarrier) then s
      else if !x.enders.isEmpty && !x.msgs.isEmpty then
        let ends (m : Msg) : List Nat := match Cells.find? s.gangs x.gang, Cells.find? s.launches x.launch with
          | some g, some l =>
            (match l.binder with
             | some b => [m.sender, (b.roles[m.dst]?.map fun r => holderOf g r).getD m.sender]
             | none => [m.sender])
          | _, _ => [m.sender]
        s.chorOn 11 (x.msgs.flatMap ends)
      else
        x.members.foldl (fun a m => a.leaveBarrier m x.ts (x.enders.contains m))
          (s.updTeam team fun y => { y with arrived := [], enders := [], ts := 0 }))

/-! ### XFER (R258, R259) -/

/-- The messages of an ordered pair of roles, the oldest first. -/
def TeamSt.pair (x : TeamSt) (f t : BitVec 4) : List Msg := x.msgs.filter fun m => m.src == f.toNat && m.dst == t.toNat

/-- The oldest message of a pair leaves. -/
def dropFirst (f t : Nat) : List Msg → List Msg
  | [] => []
  | m :: r => if m.src = f ∧ m.dst = t then r else m :: dropFirst f t r

/-- The offset of the current word in its run: the first word of the body is at 0 (R258, R344). -/
def State.runPos (s : State) : Word := (s.pc - s.cur.team.header - 4) >>> 2

/-- A message is sent. -/
def State.sendMsg (s : State) (t : Nat) (f dest : BitVec 4) (kind : Nat) (beat : BitVec 32) (at_ pos : Word) (payload : List Nat)
    (addr : Word) (bytes chan : Nat) (ts : Word) : State :=
  let m : Msg := { src := f.toNat, dst := dest.toNat, kind := kind, beat := beat, at_ := at_, pos := pos, payload := payload, sender := s.agent,
                   addr := addr, bytes := bytes, chan := chan, moved := kind != 2, placed := kind != 2, written := 0, arrived := false,
                   stalled := false, ts := ts }
  s.updTeam t fun x => { x with msgs := x.msgs ++ [m] }

/-- The kind that an engine member can carry (R261). -/
def canCarry (agent kind : Nat) : Bool := agent < 256 || (if agent < 288 then kind == 2 else kind == 0)

/-- The placement and role checks of an XFER that stands at an address (R249, R258, R261): its detail code. -/
def State.xferFault (s : State) (f t : BitVec 4) (kind chan : Nat) : Option Nat :=
  let n := s.roleCount
  let mine := s.holds f || s.holds t
  if !s.inRun || f.toNat ≥ n || t.toNat ≥ n || !s.cur.team.mask.getLsbD f.toNat || !s.cur.team.mask.getLsbD t.toNat then some 5
  else if mine && !canCarry s.agent kind then some 6
  else if mine && kind == 2 && decide (chan ≥ ((s.binderOf s.agent).map fun b => b.chans.length).getD 0) then some 5
  else none

/-- An XFER that S executes: checks, then `body` with the team. -/
def xferWord (w : InstrWord) (f t : BitVec 4) (kind chan : Nat) (body : Nat → TeamSt → State → State) (s : State) : State :=
  mWord w true (fun s =>
    match s.openTeam with
    | none => s.illegalWord w s.pc
    | some (i, x) =>
      match s.xferFault f t kind chan with
      | some d => s.chor d s.pc
      | none => if s.holds f || s.holds t then body i x s else s.advance) s

/-- S has sent and waits for its receive, or for the block to be read. -/
def State.hasSent (s : State) : Bool :=
  match s.ctx.stat with
  | .waiting (.recv _) => true
  | .waiting .blockSend => true
  | _ => false

/-- The oldest message of a pair does not belong to the receiving word: `CHOR` 7 here and at the sender (R258). -/
def State.mismatch (s : State) (m : Msg) : State := s.chorOn 7 (if m.sender = s.agent then [s.agent] else [s.agent, m.sender])

/-- The receive of S: the oldest message, when it has arrived; `take` delivers it. -/
def State.receive (s : State) (w : InstrWord) (t : Nat) (f dest : BitVec 4) (kind : Nat) (take : Msg → State → State) : State :=
  match (Cells.find? s.teams t).map fun x => x.pair f dest with
  | some (m :: _) =>
    if !m.arrived then s.await (.recv w)
    else if m.kind ≠ kind ∨ m.beat ≠ s.cur.team.beat ∨ m.pos ≠ s.runPos then s.mismatch m
    else if !m.placed then s.await (.recv w)
    else take m (((s.raisePts m.ts).setFloor).updTeam t fun x => { x with msgs := dropFirst f.toNat dest.toNat x.msgs })
  | _ => s.await (.recv w)

/-- An access of S before a send has not performed (R202, R258). -/
def State.sendWaits (s : State) : Bool := s.memPending || s.sysPending || !s.cur.comb.isEmpty

/-- XFER.G (R258). -/
def execXferG (f t : BitVec 4) (sx r : BitVec 5) (s : State) : Host.Outcome State Fault Refusal :=
  let w := pack (.mXfer f t 0 sx (r.setWidth 8))
  .next (xferWord w f t 0 0 (fun i x s =>
    let recv (s : State) : State :=
      if s.holds t then s.receive w i f t 0 fun m a => (a.setG r (BitVec.ofNat 64 (m.payload.headD 0))).advance else s.advance
    if s.hasSent || !s.holds f then recv s
    else if s.sendWaits then (s.sendAllCombs s.agent).await .memory
    else if (x.pair f t).length ≥ 16 then s.await .channel
    else recv (s.sendMsg i f t 0 s.cur.team.beat s.pc s.runPos [(s.g sx).toNat] 0 0 0 s.pts)) s)

/-- Bytes of an XFER.B (Table 12.2). -/
def blockBytes (z : BitVec 8) : Nat := if z = 0 then 65536 else 256 * z.toNat

/-- The member's cursors of a channel move by their steps, once for the word (R259). -/
def State.stepCursors (s : State) (c : Nat) : State :=
  match ((s.binderOf s.agent).map fun b => b.chans).getD [] |>.drop c |>.head? with
  | some x =>
    s.onTeam fun t =>
      let add (m : Cells Word) (k : Nat) (d : Int) : Cells Word := Cells.put m k (Cells.get 0 m k + BitVec.ofInt 64 d)
      { t with cursors := add (add t.cursors (2 * c) x.srcStep) (2 * c + 1) x.dstStep }
  | none => s

/-- XFER.B (R258, R259): a sender waits until its block has been read, a receiver until it has been written. -/
def execXferB (f t : BitVec 4) (c : BitVec 5) (z : BitVec 8) (s : State) : Host.Outcome State Fault Refusal :=
  let w := pack (.mXfer f t 2 c z)
  .next (xferWord w f t 2 c.toNat (fun i x s =>
    let past (s : State) : State := (s.stepCursors c.toNat).advance
    let recv (s : State) : State := if s.holds t then s.receive w i f t 2 fun _ a => past a else past s
    if s.hasSent then
      if s.holds f && (x.msgs.any fun m => m.sender == s.agent && m.kind == 2 && !m.moved) then s else recv s
    else if !s.holds f then recv s
    else if s.sendWaits then (s.sendAllCombs s.agent).await .memory
    else if (x.pair f t).length ≥ 16 then s.await .channel
    else
      (s.sendMsg i f t 2 s.cur.team.beat s.pc s.runPos [] (Cells.get 0 s.cur.team.cursors (2 * c.toNat)) (blockBytes z) c.toNat s.pts).await
        .blockSend) s)

/-- XFER.V, as C executes it (R258): the splitter has made the checks of its place and roles. DESIGN CHOICE: the BEAT that a
mismatch reports is that of the run that holds the word, which the member's own may have passed (log entry 128). -/
def execXferV (f t : BitVec 4) (sx r : BitVec 4) (s : State) : Host.Outcome State Fault Refusal :=
  .next (engWord .c 0 (fun s =>
    let c := s.cur
    let q := c.c.entry.getD ⟨.halt, 0, 0, 0, 0, 0, 0⟩
    let i := ((s.gangOf s.agent).bind fun g => g.team).getD 0
    let x := Cells.find? s.teams i
    let pair := ((x.map fun x => x.pair f t).getD [])
    let recv (sent : Bool) (s : State) : Eff :=
      let later : Eff := if sent then .more s else .wait .other
      if !s.holds t then .done s false
      else
        match (((Cells.find? s.teams i).map fun x => x.pair f t).getD []) with
        | m :: _ =>
          if !m.arrived then later
          else if m.kind ≠ 1 ∨ m.beat ≠ q.beat ∨ m.pos ≠ q.val then
            let role := if c.roleSet = 0 then 0xFF else ((List.range 16).find? fun r => c.roleSet.getLsbD r).getD 0xFF
            .trap ⟨0x0B, 0, BitVec.ofNat 64 (7 + 256 * role + 65536 * q.beat.toNat)⟩ (s.chorHit 7 (if m.sender = s.agent then [] else [m.sender]))
          else
            .done ((((s.onVec fun v => v.setLanes r fun n => BitVec.ofNat 32 (m.payload.getD n 0)).onCore fun c =>
              c.setPts .c (wmax (c.ptsOf .c) m.ts))).updTeam i fun x => { x with msgs := dropFirst f.toNat t.toNat x.msgs }) false
        | [] => later
    if !s.holds f || c.c.offset = 1 then recv false s
    else if s.reqs.any fun y => y.2.core == s.agent && y.2.e == .c then .wait .other
    else if pair.length ≥ 16 then .wait .other
    else
      recv true ((s.sendMsg i f t 1 q.beat q.at_ q.val ((List.range 64).map fun n => (c.vec.lane sx n).toNat) 0 0 0 c.c.pts).onEng .c fun y =>
        { y with offset := 1 })) s)

/-- HANDOVER_MESSAGE_ARRIVAL: messages of one pair arrive in the order in which they were sent (R258); a block arrives when
it has been read. -/
def execHandoverMessageArrival (team msg : Nat) (s : State) : Host.Outcome State Fault Refusal :=
  .next (s.updTeam team fun x =>
    match x.msgs[msg]? with
    | none => x
    | some m =>
      if m.moved && ((x.msgs.take msg).all fun o => o.arrived || o.src != m.src || o.dst != m.dst) then
        { x with msgs := x.msgs.set msg { m with arrived := true } }
      else x)

/-- The bytes of LS from an address on. -/
def Core.lsBytes (c : Core) (a n : Nat) : List Nat := (List.range n).map fun i => (c.lsRead (a + i)).toNat

/-- A replayable or final fault of a block (R259, R358): the first leaves a record with the bytes below it and stops the block,
another one traps at the member. -/
def State.blockFault (s : State) (team msg agent : Nat) (m : Msg) (offset : Nat) (f : Flt) : State :=
  if f.cause = 0x04 then
    (s.recordFor agent { s.faultRec agent 4 2 0 m.at_ f m.ts with offset := offset }).updTeam team fun x =>
      { x with msgs := x.msgs.set msg { m with stalled := true } }
  else s.trapOn agent f

/-- A race of a block in mode 1: the block has performed, and the engine member traps (R301). -/
def State.blockRace (s : State) (w : Who) (agent : Nat) (f : Option Flt) : State :=
  match f with
  | some x => if w.engine then s.trapOn agent x else s
  | none => s

/-- The granules of a block from an offset on, cut at its 256-byte units (R358). -/
def unitGranules (va : Word) (off n : Nat) : List (Nat × Nat) :=
  (List.range ((n - off) / 256)).flatMap fun u => granules (va + BitVec.ofNat 64 (off + 256 * u)) 256

/-- Memory that a block is read from: what is left of it, up to the unit that faults. The units below it are kept (R358). -/
def State.blockRead (s : State) (team msg : Nat) (m : Msg) : State :=
  let w := s.whoAt m.sender .s (s.core m.sender).floor false
  let off := m.payload.length
  let (ps, bad) := s.plan w .read (unitGranules m.addr off m.bytes)
  let got := ps.foldl (fun a p => a + p.2.2) 0
  let upTo := if bad.isNone then m.bytes else (off + got) / 256 * 256
  let qs := if bad.isNone then ps else ps.filter fun p => decide (p.2.1 + p.2.2 ≤ m.addr.toNat + upTo)
  let (s1, d, t) := qs.foldl (fun (r : State × List Nat × Word) p =>
    let (a, v, t) := r.1.granRead w false m.ts p
    (a, r.2.1 ++ (bytesOf p.2.2 v).map fun b => b.toNat, wmax r.2.2 t)) ((s.logRaces w false qs).touchAll w 0 false qs, m.payload, m.ts)
  let m1 := { m with payload := d, ts := t }
  match bad with
  | none => (s1.updTeam team fun y => { y with msgs := y.msgs.set msg { m1 with moved := true } }).blockRace w m.sender (s.trapRace w qs)
  | some (.fault f) => if f.cause = 0x04 then s1.blockFault team msg m.sender m1 d.length f else s.blockFault team msg m.sender m 0 f
  | some _ => s

/-- Memory that a block is written to, up to the unit that faults (R358). -/
def State.blockWrite (s : State) (team msg r : Nat) (m : Msg) : State :=
  let c := s.core r
  let w := s.whoAt r .s c.floor false
  let dst := Cells.get 0 c.team.cursors (2 * m.chan + 1)
  let off := m.written
  let (ps, bad) := s.plan w .write (unitGranules dst off m.bytes)
  let got := ps.foldl (fun a p => a + p.2.2) 0
  let upTo := if bad.isNone then m.bytes else (off + got) / 256 * 256
  let qs := if bad.isNone then ps else ps.filter fun p => decide (p.2.1 + p.2.2 ≤ dst.toNat + upTo)
  let v := natOf ((m.payload.drop off).map fun b => BitVec.ofNat 8 b)
  let (s1, _, t) := qs.foldl (fun (q : State × Nat × Word) p =>
    let (a, t) := q.1.granWrite w (.seq .s) false m.ts p (q.2.1 % 256 ^ p.2.2)
    (a, q.2.1 / 256 ^ p.2.2, wmax q.2.2 t)) ((s.logRaces w true qs).touchAll w 0 true qs, v, m.ts)
  let m1 := { m with ts := t, written := upTo }
  match bad with
  | none => (s1.updTeam team fun y => { y with msgs := y.msgs.set msg { m1 with placed := true } }).blockRace w r (s.trapRace w qs)
  | some (.fault f) => if f.cause = 0x04 then s1.blockFault team msg r m1 upTo f else s.blockFault team msg r m 0 f
  | some _ => s

/-- A block that its sender's engine has written counts for the barrier at which the sender arrives (R257). -/
def State.blockTs (s : State) (team msg : Nat) : State :=
  s.updTeam team fun x =>
    match x.msgs[msg]? with
    | some m => if m.placed && decide (m.sender ≥ 256) then { x with ts := wmax x.ts m.ts } else x
    | none => x

/-- HANDOVER_BLOCK_MOVE (R259): the block is read from the sender's side, in its turn at the copy engine of the sender's pod; then,
while its receiver waits for it, written at the receiver's cursor. DEDUCED: a block is read before any of it is written (log
entry 139). -/
def execHandoverBlockMove (team msg : Nat) (s : State) : Host.Outcome State Fault Refusal :=
  .next (match Cells.find? s.teams team with
    | none => s
    | some x =>
      match x.msgs[msg]?, Cells.find? s.gangs x.gang, Cells.find? s.launches x.launch with
      | some m, some g, some l =>
        if m.kind ≠ 2 ∨ m.stalled ∨ m.placed ∨ (g.state ≠ .bound ∧ (m.moved ∨ g.state ≠ .saving)) then s
        else if !m.moved then
          let pod := podOf m.sender
          if m.payload.isEmpty && !s.blockTurn pod then s
          else
            let s0 := s.updPod pod fun p => { p with served := 8 }
            if m.sender < 256 then
              let d := (s0.core m.sender).lsBytes (m.addr.toNat % 2 ^ 20) m.bytes
              s0.updTeam team fun y => { y with msgs := y.msgs.set msg { m with payload := d, moved := true } }
            else s0.blockRead team msg m
        else
          let r := ((l.binder.bind fun b => b.roles[m.dst]?).map fun r => holderOf g r).getD 0
          let c := s.core r
          let first := (x.pair (BitVec.ofNat 4 m.src) (BitVec.ofNat 4 m.dst)).head?
          let waits := match c.user.stat with | .waiting (.recv _) => c.user.pc == m.at_ && c.team.beat == m.beat | _ => false
          if !m.arrived || first != some m || !waits then s
          else if r < 256 then
            let dst := Cells.get 0 c.team.cursors (2 * m.chan + 1)
            let v := natOf (m.payload.map fun b => BitVec.ofNat 8 b)
            ((s.updCore r fun c => c.lsPut (dst.toNat % 2 ^ 20) m.bytes v).updTeam team fun y =>
              { y with msgs := y.msgs.set msg { m with placed := true } }).blockTs team msg
          else (s.blockWrite team msg r m).blockTs team msg
      | _, _, _ => s)

end Sys2Proof.Machine
end

