-- ==== Sys2Proof/Machine/Traps.lean ====
section
/-! DEFINITION. Sys2Proof/Machine/Traps.lean: what stops a core and lets it go on (spec/19, R14): engine traps, what Husk does
with a trap, timeouts, `PIPDEAD`, and preemption with its saves and restores. -/

namespace Sys2Proof.Machine

/-! ### Engine traps (R355) -/

/-- The source number of an engine in a record (Table 19.3). -/
def sourceOf : Eng → Nat
  | .l => 1
  | .c => 2
  | .t => 3

/-- S of a core enters the engine trap that is pending: at a word boundary, in its wait, or retired (R355, R354). While the gang is
stopped for preemption the trap waits with it. -/
def State.enterEngineTrap (s : State) (core : Nat) : State :=
  match (s.core core).engTrap with
  | none => s
  | some t =>
    if t.entered || (match (s.core core).user.stat with | .stopped _ => true | _ => false) then s
    else
      let r := { s.faultRec core (sourceOf t.e) (if t.replayable then 2 else 0) t.pos t.at_ t.flt t.pts with
                 offset := t.offset, iter := t.iter }
      let s1 := ((s.recordFor core r).enterHusk core).updCore core fun c =>
        { c with
          trap := c.trap.set t.flt t.at_, engTrap := some { t with entered := true },
          user := { c.user with stat := (match c.user.stat with
            | .running => .trapped none
            | .waiting w => .trapped (some w)
            | st => st) } }
      if t.flt.cause = 0x0B then ((s1.fellows core).filter fun m => m != core).foldl State.chorOther s1 else s1

/-- ENGINE_TRAP_ENTRY. -/
def execEngineTrapEntry (core : Nat) (s : State) : Host.Outcome State Fault Refusal := .next (s.enterEngineTrap core)

/-! ### Husk (R357) -/

/-- S goes on where it stopped. -/
def Ctx.resume (x : Ctx) : Ctx :=
  { x with stat := (match x.stat with
    | .trapped (some w) => .waiting w
    | .trapped none => .running
    | .stopped (some w) => .waiting w
    | .stopped none => .running
    | st => st) }

/-- The stalled operations of a core go on, and the stalled blocks of its team (R358): one that had not read its records
starts over. -/
def State.resumeOps (s : State) (core : Nat) : State :=
  let go (a : State) (x : Nat × AOp) : State :=
    match x.2.stat with
    | .stalled _ =>
      if x.2.tok.core != core then a
      else
        (match x.2.kind, x.2.src with
         | .copy .., none =>
           (a.updOp x.1 fun o => { o with stat := .queued }).updPod (podOf core) fun p => { p with queue := p.queue ++ [x.1] }
         | .tpref .., _ => a.updOp x.1 fun o => { o with stat := .queued }
         | _, _ => a.updOp x.1 fun o => { o with stat := .running })
    | _ => a
  let s1 := s.ops.foldl go s
  match (s1.gangOf core).bind fun g => g.team with
  | some t => s1.updTeam t fun y => { y with msgs := y.msgs.map fun m => { m with stalled := false } }
  | none => s1

/-- HUSK_RESUME: after the repair of an `XLATE` or of a replayable fault the core goes on where it stopped; a cause that the
driver passes on goes to the user handler at `pc`, unless a body capture is open or it is `CHOR` (R11, R262); on a core that is not stopped, its stalled operations go on (R357,
R358). -/
def execHuskResume (core : Nat) (pc : BitVec 64) (s : State) : Host.Outcome State Fault Refusal :=
  let c := s.core core
  .next (match c.engTrap with
    | some t =>
      if t.entered && (t.replayable || t.flt.cause == 0x04) then
        s.updCore core fun c => { c with engTrap := none, user := (match c.user.stat with | .trapped _ => c.user.resume | _ => c.user) }
      else s
    | none =>
      match c.user.stat with
      | .trapped _ =>
        if c.trap.vec != 0 && pc == c.trap.vec && !c.handler && !c.capturing && c.trap.cause != 0x0B then s.updCore core Core.enterHandler
        else if c.trap.cause = 0x04 then s.updCore core fun c => { c with user := c.user.resume }
        else s
      | _ => s.resumeOps core)

/-- A block of the team of an agent is stopped at a replayable fault (R358). -/
def State.blockStalled (s : State) (core : Nat) : Bool :=
  match ((s.gangOf core).bind fun g => g.team).bind fun t => Cells.find? s.teams t with
  | some (x : TeamSt) => x.msgs.any fun m => m.stalled
  | none => false

/-- The launch of a core that Husk would end, and the cause: that of the core's trap, or of a stalled operation, whose core may have
retired, or of a stalled block (R358). -/
def State.endCause (s : State) (core : Nat) : Option (Nat × Nat) :=
  let c := s.core core
  let stalled : Option (Nat × Nat) :=
    (List.find? (fun (x : Nat × AOp) => x.2.tok.core == core && (match x.2.stat with | .stalled _ => true | _ => false)) s.ops).map
      fun x => (x.2.launch, 0x04)
  match c.binding with
  | none => stalled
  | some b =>
    match c.engTrap, c.user.stat with
    | some t, _ => if t.entered then some (b.launch, t.flt.cause.toNat) else none
    | none, .trapped _ => some (b.launch, c.trap.cause.toNat % 256)
    | none, _ => if s.blockStalled core then some (b.launch, 0x04) else stalled

/-- HUSK_END_LAUNCH: the launch is ended with the cause as its status (R357). -/
def execHuskEndLaunch (core : Nat) (s : State) : Host.Outcome State Fault Refusal :=
  .next (match s.endCause core with
    | some (l, cause) => s.endLaunch l cause
    | none => s)

/-- HUSK_FAILURE (R383). -/
def execHuskFailure (core : Nat) (s : State) : Host.Outcome State Fault Refusal := .next (s.huskFailure core)

/-! ### Timeouts (R242, R410) -/

/-- Launches of a queue that have not started (R231). -/
def State.unstartedIn (s : State) (part queue : Nat) : Nat :=
  (s.subs.filter fun x => x.part == part && x.queue == queue).length +
    (s.launches.filter fun x => x.2.part == part && x.2.rec_.queue == queue &&
      (x.2.state == .queued || x.2.state == .waiting || x.2.state == .ready)).length

/-- A receive can go on: the oldest message of its pair has arrived, and its block has been written (R258). -/
def State.received (s : State) (w : InstrWord) : Bool :=
  match s.openTeam with
  | some (_, x) =>
    (match x.pair (w.extractLsb' 19 4) (w.extractLsb' 15 4) with
     | m :: _ => m.arrived && m.placed
     | [] => false)
  | none => false

/-- What `WAITTO` reports of the wait in which S of the current agent stands, if its condition does not hold (R242, R410). -/
def State.waitFault (s : State) : Option Flt :=
  let word (v : Nat) : Option Flt := some ⟨0x0C, 0, BitVec.ofNat 64 v⟩
  let barrier : Option Flt :=
    match s.openTeam with
    | some (_, x) => if x.members.all x.arrived.contains then none else word s.cur.team.beat.toNat
    | none => none
  match s.ctx.stat with
  | .waiting (.token k) => if s.cur.tok k = .pending then word k.toNat else none
  | .waiting (.signal i th none) =>
    if ((s.signal ((s.partOf s.agent).getD 0) i.toNat).val.toNat < th.toNat) then word i.toNat else none
  | .waiting (.barrier d ph) =>
    (match s.barOf s.agent (d.setWidth 64) with
     | some r => if (s.barrier r).phase > ph then none else word d.toNat
     | none => word d.toNat)
  | .waiting (.drift h b) =>
    (match s.openTeam with
     | some (_, x) => if x.within (Cells.get 0 x.reached s.agent) s.cur.team.bound.toNat then none else some ⟨0x0C, h, b.setWidth 64⟩
     | none => none)
  | .waiting .teamArrive => barrier
  | .waiting .teamBarrier => barrier
  | .waiting (.recv w) => if s.received w then none else word w.toNat
  | .waiting (.launchQueue r q _) =>
    if s.unstartedIn (((s.launchOf s.agent).map fun l => l.part).getD 0) q ≥ 256 then some ⟨0x0C, r, BitVec.ofNat 64 q⟩ else none
  | _ => none

/-- What `WAITTO` reports of the receive in which C of the current agent stands, if its message has not come (R258, R410). -/
def State.recvFault (s : State) : Option Flt :=
  match s.cur.c.stat, s.cur.c.entry with
  | .waiting .other, some q =>
    let w := q.word
    if q.kind == .word && w.extractLsb' 23 9 == 0x1C5 && !s.received w then some ⟨0x0C, 0, w.setWidth 64⟩ else none
  | _, _ => none

/-- S traps `WAITTO` in its wait. A user handler that returns to the word goes on in the same wait (R242, log entry 138). -/
def State.waitTrap (s : State) (f : Flt) : State :=
  let t := s.takeTrap f s.aAddr
  match s.ctx.wait, t.cur.handler && !s.cur.handler with
  | some w, true => t.onCtx fun x => { x with expired := some ⟨s.aAddr, s.pc, s.ctx.pend, w⟩ }
  | _, _ => t

/-- WAIT_TIMEOUT: the wait of S, a receive of C, or an ordered atomic that has not performed, reaches the timeout of the launch.
When that is, the model does not say (log entry 11). At the timeout of an ordered atomic the registers are again as they were before
it: the trap is precise (R119). -/
def execWaitTimeout (core : Nat) (q : Seq) (s : State) : Host.Outcome State Fault Refusal :=
  .next (s.onBehalf core q fun a =>
    if q = .c then (match a.recvFault with | some f => engineTrap .c f false 0 a | none => a)
    else
      match a.waitFault with
      | some f => if q = .s then a.waitTrap f else a
      | none =>
        match List.find? (fun (x : Nat × Aoseq) => x.2.core == core && x.2.husk == (q == .husk)) a.aoseqs with
        | some (i, x) => a.aoseqTrap i x ⟨0x0C, x.va, x.n⟩
        | none => a)

/-! ### PIPDEAD (R14) -/

/-- S is blocked in a word that only another sequencer of the core can free: its wait still holds (R14). -/
def Core.sBlocked (c : Core) : Bool :=
  match c.user.stat with
  | .waiting (.pipPop ch) => (c.pip ch).isEmpty
  | .waiting (.pipPush ch) => !c.pipRoom ch
  | .waiting .cside => !c.cIdle
  | _ => false

/-- A finished plane load waits for room in a channel. -/
def Core.loaderStuck (c : Core) : Bool :=
  match c.arr.loader with
  | some ld => decide (ld.ahead = 0) && (match ld.pushes with | ch :: _ => !c.pipRoom ch | [] => false)
  | none => false

/-- A slot operation of a core that has performed waits for room in a channel. -/
def State.pipStuck (s : State) (core : Nat) (r : Req) : Bool :=
  r.core == core && (match r.kind, r.pushes with | .pips _, ch :: _ => !(s.core core).pipRoom ch | _, _ => false)

/-- C cannot push a pip of a word that it has performed: a plane load or a slot operation (R13, R14). -/
def State.latePush (s : State) (core : Nat) : Bool := (s.core core).loaderStuck || s.reqs.any fun x => s.pipStuck core x.2

/-- An engine is blocked in a word: on a pip, or C on the decoder FIFO, the scale queue, or a pip of an earlier word that it waits for
(R14); `late` says that such a pip finds no room. The wait of L for room in the FIFO or the scale queue is not among the stuck states
of R14. -/
def Core.eBlocked (c : Core) (late : Bool) (e : Eng) : Bool :=
  match (c.eng e).stat with
  | .waiting (.pipPop ch) => (c.pip ch).isEmpty
  | .waiting (.pipPush ch) => !c.pipRoom ch
  | .waiting .fifo => e == .c
  | .waiting .scaleQueue => e == .c
  | .waiting .other => e == .c && late
  | _ => e == .c && late && (match c.c.entry with | some q => q.kind == .halt | none => false)

/-- An engine is stuck: blocked, idle on an empty queue, or retired. -/
def Core.eStuck (c : Core) (late : Bool) (e : Eng) : Bool :=
  c.eBlocked late e || (c.eng e).entry.isNone || (c.eng e).stat == .retired

/-- A request, command or array operation of the core that could free one of its sequencers. -/
def State.coreBusy (s : State) (core : Nat) : Bool :=
  let c := s.core core
  (s.reqs.any fun x => x.2.core == core && !s.pipStuck core x.2) || (s.aoseqs.any fun x => x.2.core == core)
    || (s.ops.any fun x => x.2.tok.core == core && x.2.kind.counted)
    || (s.sys.any fun x => match x.2 with | .store k .. => k == core | .load k .. => k == core | .fence k => k == core)
    || !c.arr.inflight.isEmpty || (c.arr.loader.isSome && !c.loaderStuck) || !c.vec.tupd.isEmpty

/-- The bits of the blocked sequencers S, L, C, T and of the full channels (Table 19.2). DESIGN CHOICE: the table lists the
four without numbers; here S is bit 0, L bit 1, C bit 2 and T bit 3, and a bit is set only for a sequencer that is blocked in
a word, not for one that is idle or retired (log entry 92). -/
def Core.deadInfo (c : Core) (late : Bool) : Nat :=
  let bit (b : Bool) (i : Nat) : Nat := if b then 2 ^ i else 0
  bit c.sBlocked 0 + bit (c.eBlocked late .l) 1 + bit (c.eBlocked late .c) 2 + bit (c.eBlocked late .t) 3
    + (List.range 8).foldl (fun a ch => a + bit (!c.pipRoom ch) (8 + ch)) 0

/-- PIPDEAD_DETECT: all four sequencers are stuck and nothing is outstanding: the trap is reported against the first engine
that is blocked in a word, else against S. -/
def execPipdeadDetect (core : Nat) (s : State) : Host.Outcome State Fault Refusal :=
  let c := s.core core
  let retired := match c.user.stat with | .retired _ => true | _ => false
  let late := s.latePush core
  let stuck := (c.sBlocked || retired) && c.eStuck late .l && c.eStuck late .c && c.eStuck late .t && !c.retired
  let f : Flt := ⟨0x0A, 0, BitVec.ofNat 64 (c.deadInfo late)⟩
  .next (if !stuck || s.coreBusy core || c.engTrap.isSome then s
    else
      match [Eng.c, Eng.l, Eng.t].find? fun e => c.eBlocked late e with
      | some e => s.onBehalf core e.seq (engineTrap e f false 0)
      | none => s.trapOn core f)

/-! ### Preemption (R361 to R364) -/

/-- A member is stopped for preemption: Husk sees the cause `PREEMPT`, and the registers of the user context stay aside (R361).
DESIGN CHOICE: the cause has no address and no detail, and TRAPPC is where S stops (log entry 111). -/
def Core.preempt (c : Core) : Core :=
  { c with user := c.user.stop, kept := some (c.kept.getD c.trap), trap := c.trap.set ⟨0x14, 0, 0⟩ c.user.pc }

/-- The request enters Husk on a member: first the record of the trap that goes to Husk (R354, R361). -/
def State.preemptMember (s : State) (m : Nat) : State :=
  let c := s.core m
  ((s.recordFor m (s.faultRec m (srcOf m) 1 0 c.user.pc ⟨0x14, 0, 0⟩ c.pts)).enterHusk m).updCore m Core.preempt

/-- A gang is preempted: in the surrogate phase it falls back with reason `0x87`, else its members stop (R361). -/
def State.preemptGang (s : State) (g : Nat) : State :=
  match Cells.find? s.gangs g with
  | none => s
  | some x =>
    if x.state ≠ .bound then s
    else
      match x.members.find? fun m => (s.core m).surrogate with
      | some m => s.fallback m 0x87
      | none =>
        ((s.membersOf x).foldl State.preemptMember s).updGang g fun y => { y with state := .saving, saved := [] }

/-- HUSK_TIMER_EXPIRY: Husk is entered, and may itself ask that the gang of its core be preempted (R361, R383). Whether it does is
open (log entry 133). -/
def execHuskTimerExpiry (core : Nat) (s : State) : Host.Outcome State Fault Refusal :=
  .next (match (s.core core).binding with
    | some b => if Config.choice s.fresh 644 core then s.preemptGang b.gang else s.enterHusk core
    | none => s.enterHusk core)

/-- An engine is inside a word that it has begun: it completes it before the save (R355, R362). -/
def Engine.midWord (x : Engine) : Bool :=
  match x.stat with
  | .ready => (x.popped || x.offset != 0) && x.pushes.isEmpty
  | _ => false

/-- The word in which C stands is one that preemption stops inside: `RPUSH` and `RPOP` after a whole vector, `RSTREAM` between
vectors, `RSWEEP` between eliminations (R183, R220). -/
def Engine.atStop (x : Engine) : Bool :=
  match x.entry with
  | some q =>
    let op := (q.word.extractLsb' 23 6).toNat
    q.kind == .word && q.word.extractLsb' 29 3 == 3 && (op == 4 || op == 6 || op == 9 || op == 10)
  | none => false

/-- Messages of a team that are on their way: they land in their pairs before the save (R264). -/
def State.inFlight (s : State) (g : Gang) : Bool :=
  match g.team.bind fun t => Cells.find? s.teams t with
  | some (x : TeamSt) => x.msgs.any fun m => !m.arrived
  | none => false

/-- Units or operations of a member that have not stopped, or have not resolved (R183, R264, R362); pips that wait for room are saved,
and the messages of a launch that has ended do not count. -/
def State.saveBusy (s : State) (g : Gang) (core : Nat) : Bool :=
  let c := s.core core
  let mid (e : Eng) : Bool := (c.eng e).midWord && (c.engTrap.map fun (t : EngTrap) => t.e) != some e && !(e == .c && c.c.atStop)
  mid .l || mid .c || mid .t || (s.reqs.any fun x => x.2.core == core && (match x.2.kind with | .pips _ => false | _ => true))
    || (s.aoseqs.any fun x => x.2.core == core) || (s.ops.any fun x => x.2.tok.core == core && x.2.kind.counted)
    || (s.sys.any fun x => match x.2 with | .store k .. => k == core | .load k .. => k == core | .fence k => k == core)
    || !c.arr.inflight.isEmpty || (c.arr.loader.isSome && !c.loaderStuck) || !c.vec.tupd.isEmpty || (!g.discard && s.inFlight g)

/-- The context of a member as it is saved: a stream leaves its place in SWS, no command has written ahead, and the trap registers are
those of the user context (R113, R183, R361, R363). -/
def Core.saved (c : Core) : Core :=
  let d := ((c.unland .l).unland .c).unland .t
  { d with arr := d.arr.stopStream, trap := d.kept.getD d.trap, kept := none }

/-- A context as the save area holds it (Table 19.8). Where the table gives no layout within an entry, the bytes are free; an array
whose pips wait stands as it is (log entry 131). -/
def Core.saveImage (seed : Nat) (c : Core) (messages : Nat) : Memory :=
  let words (m : Memory) (base n : Nat) (l : List (Nat × Nat)) : Memory := l.foldl (fun a x => Memory.writeNat a (base + n * x.1) n x.2) m
  let listed (l : List Nat) : List (Nat × Nat) := (List.range l.length).zip l
  let m1 := Memory.writeNat c.ls 0x100000 c.vec.fifo.length (natOf c.vec.fifo)
  let m2 := words m1 0x110000 2 (c.vec.t.map fun x => (x.1, x.2.toNat))
  let m3 := words m2 0x118000 32 (listed (c.vec.deferQ.map fun d =>
    d.lane + 2 ^ 32 * d.words.length + 2 ^ 64 * natOf (d.words.flatMap fun w => bytesOf 4 w.toNat)))
  let m4 := words m3 0x120000 256 (listed ((c.arr.outbuf ++ c.arr.inflight).map fun v => natOf (v.lanes.flatMap fun w => bytesOf 4 w.toNat)))
  let m5 := c.arr.areaFields.foldl (fun a x => Memory.writeNat a (0x124000 + x.1) x.2.1 x.2.2) m4
  let m6 := words m5 0x126000 4 (c.vec.v.map fun x => (x.1, x.2.toNat))
  let m7 := [Eng.l, Eng.c, Eng.t].foldl (fun a e =>
    let i := match e with | .l => 0 | .c => 1 | .t => 2
    let x := c.eng e
    words (words a (0x127000 + 1024 * i) 4 (listed (x.loopMem.map fun q => q.word.toNat))) (0x128000 + 1024 * i) 16
      (listed ((x.queue.take 64).map fun q => q.word.toNat + 2 ^ 64 * q.at_.toNat))) m6
  let free (a : Memory) (base n : Nat) : Memory := Memory.writeNat a base n (Config.freeNat seed (645 + base))
  free (free (free (free (free m7 0x127C00 1024) 0x129000 4096) 0x12A000 1024) 0x12B000 4096) 0x130000 (272 * messages)

/-- The context of a core stands in its save area; every other byte of the area is 0 (R363). -/
def State.saveArea (s : State) (core : Nat) : State :=
  let base := 0x240000 * core
  let c := (s.core core).saved
  let held := match ((s.gangOf core).bind fun g => g.team).bind fun t => Cells.find? s.teams t with
    | some (x : TeamSt) => (x.msgs.filter fun m => c.roleSet.getLsbD m.dst).length
    | none => 0
  let rest := s.save.filter fun (x : Nat × Byte) => decide (x.1 < base ∨ base + 0x240000 ≤ x.1)
  { s with save := (c.saveImage s.fresh held).foldl (fun m x => Memory.write m (base + x.1) x.2) rest }

/-- A gang whose launch has ended has stopped: its contexts are discarded, and the timestamps of its members count for the launch
(R235, R357, R365). -/
def State.discardGang (s : State) (i : Nat) (g : Gang) : State :=
  let ts := (s.membersOf g).foldl (fun a m => wmax a (s.core m).maxPts) (0 : Word)
  (s.updLaunch g.launch fun l => { l with doneTs := wmax l.doneTs ts }).dropGang i

/-- CONTEXT_SAVE_COMPLETE: the units of a member have stopped and its operations have resolved; when every member is
saved, the gang has left its cores (R362, R363). The saved context stands in the save area and, for the restore, in the gang. -/
def execContextSaveComplete (core : Nat) (s : State) : Host.Outcome State Fault Refusal :=
  .next (match (s.core core).binding with
    | none => s
    | some b =>
      match Cells.find? s.gangs b.gang with
      | none => s
      | some g =>
        if g.state ≠ .saving ∨ g.saved.contains core ∨ s.saveBusy g core then s
        else
          let s0 := if g.discard then s else s.saveArea core
          let s1 := s0.updGang b.gang fun y => { y with saved := y.saved ++ [core] }
          let all := (s.membersOf g).all fun m => m == core || g.saved.contains m
          if !all then s1
          else if g.discard then s1.discardGang b.gang g
          else
            ((s.membersOf g).foldl (fun (a : State) m => a.updCore m (Core.unbind s.nextId)) { s1 with nextId := s1.nextId + 1 }).updGang b.gang fun y =>
              { y with state := .saved, saved := [], preemptible := false, ctxs := (s.membersOf g).map fun m => (m, (s.core m).saved) })

/-- A saved gang takes its cores again: their contexts are being restored (R242, R364). -/
def State.resumeGang (s : State) (g : Nat) : State :=
  match Cells.find? s.gangs g with
  | none => s
  | some x =>
    let back (a : State) (y : Nat × Core) : State := a.updCore y.1 fun c => { c with binding := y.2.binding }
    (x.ctxs.foldl back s).updGang g fun y => { y with state := .restoring, gaveWay := false, saved := [] }

/-- CONTEXT_RESTORE_COMPLETE: a member's context is restored; when all are, the gang goes on (R364). What the core itself holds stays:
Husk's context, its TLB, its combining buffers. -/
def execContextRestoreComplete (core : Nat) (s : State) : Host.Outcome State Fault Refusal :=
  .next (match (s.core core).binding with
    | none => s
    | some b =>
      match Cells.find? s.gangs b.gang with
      | none => s
      | some g =>
        match Cells.find? g.ctxs core with
        | none => s
        | some y =>
          if g.state ≠ .restoring ∨ g.saved.contains core then s
          else
            let s1 := (s.updCore core fun c =>
              { y with husk := c.husk, huskPts := c.huskPts, huskLine := c.huskLine, pairAct := c.pairAct, issued := c.issued, tlb := c.tlb,
                       errs := c.errs, comb := c.comb }).updGang b.gang fun z =>
              { z with saved := z.saved ++ [core], ctxs := Cells.del z.ctxs core }
            if (s.membersOf g).all fun m => m == core || g.saved.contains m then
              ((s.membersOf g).foldl (fun (a : State) m => a.updCore m fun c =>
                { c with user := (match c.user.stat with | .stopped _ => c.user.resume | _ => c.user) }) s1).updGang b.gang fun z =>
                  { z with state := .bound, saved := [] }
            else s1)

end Sys2Proof.Machine
end

