-- ==== Sys2Proof/Machine/Homes.lean ====
section
/-! DEFINITION. Sys2Proof/Machine/Homes.lean: the steps by which homes, the array and the path to system space complete what
the cores have sent (R100, R102, R108, R116, R146, R157, R165, R169, R292 to R294, R359), and the idle advance of R26. -/

namespace Sys2Proof.Machine

/-! ### Non-returning operations -/

/-- An earlier access of S that a reduction must not pass: another reduction or a system-scope access (R116). -/
def State.redBehind (s : State) (i : Nat) (r : Req) : Bool :=
  (s.reqs.any fun x => decide (x.1 < i) && x.2.core == r.core && x.2.e == r.e)
    || (s.sys.any fun x => decide (x.1 < i) && (match x.2 with
        | .store c (.seq q) .. => c == r.core && q == r.e
        | .load c h .. => c == r.core && h == (r.e == .husk)
        | _ => false))

/-- An earlier slot operation of the same C on the same slot (R148). -/
def State.slotBehind (s : State) (i : Nat) (r : Req) : Bool :=
  s.reqs.any fun x => decide (x.1 < i) && x.2.core == r.core && x.2.loc == r.loc && x.2.kind.onSlot

/-- A request leaves. -/
def State.dropReq (s : State) (i : Nat) : State := { s with reqs := Cells.del s.reqs i }

/-- The pips of a slot operation are pushed where there is room; the others wait (R13, R146). -/
def State.pushReq (s : State) (i : Nat) (r : Req) (ts : Option Word) : State :=
  let (s1, left) := r.pushes.foldl (fun (a : State × List Nat) ch =>
    if a.2.isEmpty && (a.1.core r.core).pipRoom ch then (a.1.updCore r.core fun c => c.pushPip ch (ts.getD c.c.pts), [])
    else (a.1, a.2 ++ [ch])) (s, [])
  if left.isEmpty then s1.dropReq i else { s1 with reqs := Cells.put s1.reqs i { r with kind := .pips ts, pushes := left } }

/-- The pips that wait: they are pushed in the iteration of their word. While its context is saved they stay; after it they are
gone (R23, R362). -/
def State.pushPending (s : State) (i : Nat) (r : Req) (ts : Option Word) : State :=
  if (s.core r.core).gen = r.gen then s.pushReq i r ts
  else if s.gangs.any fun (g : Nat × Gang) => g.2.ctxs.any fun y => y.1 == r.core && y.2.gen == r.gen then s
  else s.dropReq i

/-- The partition of a request: that of its launch. -/
def State.reqPart (s : State) (r : Req) : Nat :=
  match Cells.find? s.launches r.launch with
  | some l => l.part
  | none => (s.partOf r.core).getD 0

/-- A deferred fault: the operation is dropped, recorded with the launch and the iteration that issued it, and the status of the
launch becomes 0x40; a pip carries PTS at issue (R359). -/
def State.deferred (s : State) (i : Nat) (r : Req) (f : Flt) : State :=
  let s1 := s.recordFault (s.reqPart r)
    { s.faultRec r.core 8 4 r.pos r.at_ f r.issued with launch := r.number, iterNo := r.iter }
  let s2 := s1.updLaunch r.launch fun l => { l with status := if l.status = 0 then 0x40 else l.status }
  s2.pushPending i r (some r.issued)

/-- What the home refuses: an uncorrectable error, or a host or peer that refuses a reduction (R359). Whether one does is
open (log entry 54). -/
def State.homeRefuses (s : State) (r : Req) : Option Flt :=
  match s.eccAt r.loc r.va with
  | some f => some f
  | none => if r.loc.isSystem && Config.choice s.fresh 32 r.core then some ⟨0x0F, r.va, 0⟩ else none

/-- The agent of a request. -/
def State.reqWho (s : State) (r : Req) : Who := s.whoAt r.core r.e r.floor true

/-- The request may perform: nothing of its own core stands before it (R116, R148), and a replay lets it (R397). -/
def State.reqReady (s : State) (i : Nat) (r : Req) : Bool :=
  match r.kind with
  | .red fn _ _ => !s.redBehind i r && !(fn == 9 && !s.faddGo (s.reqPart r) (faddLine r.va) r.key)
  | .slot _ => !s.slotBehind i r
  | .get _ => !s.slotBehind i r
  | .line .. => true
  | .pips _ => false

/-- Another core's request at the same home that waits, although the home has already served this core once while it waited:
the round-robin serves it first (R26). -/
def State.reqTurn (s : State) (r : Req) : Bool :=
  !(s.reqs.any fun x => x.2.core != r.core && x.2.passed.contains r.core && s.reqReady x.1 x.2
    && s.homeOf (s.reqWho x.2) x.2.va == s.homeOf (s.reqWho r) r.va)

/-- A home has served a request (R26). -/
def State.noteServed (s : State) (r : Req) : State :=
  { s with reqs := s.reqs.map fun (x : Nat × Req) =>
      if s.homeOf (s.reqWho x.2) x.2.va == s.homeOf (s.reqWho r) r.va then
        (x.1, { x.2 with passed := if x.2.core = r.core then [] else r.core :: x.2.passed.filter fun c => c != r.core })
      else x }

/-- The place of a request under the phase in force when it performs (R273): in the scratch window it is looked up again.
`.fault` is the deferred fault of a place that is gone, `.stall` a bank in transition. -/
def State.reqPlace (s : State) (r : Req) : Chk :=
  match r.loc with
  | .scratch .. =>
    (match s.scratchLoc (podOf r.core) (r.va.toNat - scratchBase) with
     | none => .fault (windowFlt r.va 64)
     | some l => if s.converting l then .stall else .ok l)
  | l => .ok l

/-- A write of the core at timestamp `t` performs at its home: what the core sends later takes place after it (R116). -/
def State.orderLater (s : State) (i : Nat) (r : Req) (t : Word) : State :=
  { s with reqs := s.reqs.map fun (x : Nat × Req) =>
      if x.2.core == r.core && x.2.e == r.e && decide (i < x.1) then (x.1, { x.2 with pts := wmax x.2.pts t }) else x }

/-- A reduction or a merge at its home: the write, its place in the order, and what the launch completes after (R116, R146,
R284). -/
def State.reqPerform (s : State) (i : Nat) (r : Req) (l : Loc) (n : Nat) (f : Nat → Nat) : State × Word :=
  let (s1, _, t) := s.atomicFor (s.reqWho r) r.pts l r.va n f
  (((s1.noteServed r).orderLater i r t).updLaunch r.launch fun x => { x with doneTs := wmax x.doneTs t }, t)

/-- HOME_ATOMIC_PERFORM: a reduction or a slot merge performs at its home, or is dropped; a merge that has performed pushes
its pips (R116, R146, R359). -/
def execHomeAtomicPerform (req : Nat) (s : State) : Host.Outcome State Fault Refusal :=
  .next (match Cells.find? s.reqs req with
    | none => s
    | some r =>
      match r.kind with
      | .line .. => s
      | .get _ => s
      | .pips ts => s.pushPending req r ts
      | k =>
        if !s.reqReady req r || !s.reqTurn r then s
        else
          match s.reqPlace r with
          | .stall => s
          | .fault f => s.deferred req r f
          | .ok l =>
            match s.homeRefuses { r with loc := l } with
            | some f => s.deferred req r f
            | none =>
              match k with
              | .red fn size v =>
                let (s1, t) := s.reqPerform req r l (atomicBytes fn size) fun m => (atomicStep fn size m v).2
                let s2 := s1.updCore r.core fun c => c.setPts r.e (wmax (c.ptsOf r.e) t)
                (if fn = 9 then s2.faddDone (s.reqPart r) (faddLine r.va) r.key else s2).dropReq req
              | .slot q =>
                let (s1, t) := s.reqPerform req r l 128 fun m => slotBytes ((slotOf m).merge q)
                (match Cells.find? s1.reqs req with | some r' => s1.pushPending req r' (some t) | none => s1)
              | _ => s)

/-- A load of XGET that waited: the accumulator takes the slot, C's PTS rises, the pips follow (R147, R283). -/
def State.getPerform (s : State) (i : Nat) (r : Req) (q : Nat) (l : Loc) : State :=
  let (s1, v, t) := (s.noteServed r).granRead (s.reqWho r) false (s.core r.core).c.pts (l, r.va.toNat, 128)
  let s2 := s1.updCore r.core fun c =>
    { c.setPts .c (wmax (c.ptsOf .c) t) with vec := c.vec.setAccum q (slotOf v) }
  match Cells.find? s2.reqs i with
  | some r' => s2.pushPending i r' none
  | none => s2

/-- A load of XGET whose place is gone, or has an uncorrectable error: an engine trap of C with the position of its word; the
accumulator stays (R147, R273, R356). -/
def State.getFault (s : State) (i : Nat) (r : Req) (f : Flt) : State :=
  (s.dropReq i).updCore r.core fun c =>
    { c with engTrap := some (c.engTrap.getD ⟨.c, f, r.at_, r.pos, 0, 0, false, c.c.pts, false⟩) }

/-- HOME_LOAD: a requested line comes to its home with its class, and, without NA, to L1 and the pod cache under a lease
(R108, R283). -/
def execHomeLoad (req : Nat) (s : State) : Host.Outcome State Fault Refusal :=
  .next (match Cells.find? s.reqs req with
    | none => s
    | some r =>
      match r.kind with
      | .line cls fill =>
        if !s.reqTurn r then s
        else
          let s1 := (s.noteServed r).touchFor (s.reqWho r) cls false r.loc r.va
          let hs := if fill && !s1.homeOnly (s1.reqWho r) false r.va.toNat then s1.holders r.core r.va.toNat else []
          let s2 := if hs.isEmpty then s1 else (s1.readAt hs (s1.leaseOf r.core) r.pts r.loc 0).1
          s2.dropReq req
      | .get q =>
        if !s.reqReady req r || !s.reqTurn r then s
        else
          (match s.reqPlace r with
           | .ok l => (match s.eccAt l r.va with | some f => s.getFault req r f | none => s.getPerform req r q l)
           | .fault f => s.getFault req r f
           | .stall => s)
      | _ => s)

/-- HOME_WRITE_PERFORM: a destination granule of a running copy performs (R191). -/
def execHomeWritePerform (req : Nat) (s : State) : Host.Outcome State Fault Refusal :=
  .next (match Cells.find? s.ops req with
    | none => s
    | some o =>
      match o.kind, o.stat with
      | .copy .., .running => s.opGranule req o
      | .copyl .., .running => s.opGranule req o
      | _, _ => s)

/-! ### System space (R99, R100, R292 to R294) -/

/-- COMBINING_BUFFER_TIMEOUT: the buffer of the 64 bytes `line` is sent (R100). -/
def execCombiningBufferTimeout (core line : Nat) (s : State) : Host.Outcome State Fault Refusal :=
  .next (match (s.core core).comb.find? fun b => b.loc.key / 64 == line with
    | some b => s.sendCombAt core b.loc
    | none => s)

/-- Two places have an aligned 8 bytes in common. -/
def sameEight (l l' : Loc) (n n' : Nat) : Bool := decide (l'.key / 8 ≤ (l.key + n - 1) / 8 ∧ l.key / 8 ≤ (l'.key + n' - 1) / 8)

/-- An earlier write or reduction of the same core to the same aligned 8 bytes is still on its way (R294). -/
def State.sysBehind (s : State) (i core : Nat) (l : Loc) (n : Nat) : Bool :=
  (s.sys.any fun x => decide (x.1 < i) && (match x.2 with
    | .store c _ l' bs => c == core && sameEight l l' n bs.length
    | _ => false)) ||
  s.reqs.any fun x => decide (x.1 < i) && x.2.core == core && (match x.2.kind with
    | .red fn size _ => sameEight l x.2.loc n (atomicBytes fn size)
    | _ => false)

/-- An access of a core to host memory that waits for an IDE stream (R388). -/
def State.hostHeld (s : State) (core : Nat) : Loc → Bool
  | .host _ => ((s.partOf core).map s.ideHeld).getD false
  | _ => false

/-- ROOT_COMPLEX_ACK: a system-scope write is performed and acknowledged. -/
def execRootComplexAck (op : Nat) (s : State) : Host.Outcome State Fault Refusal :=
  .next (match Cells.find? s.sys op with
    | some (.store c _ l bs) =>
      if s.sysBehind op c l bs.length || s.hostHeld c l then s else ({ s with sys := Cells.del s.sys op } : State).writeSys l bs
    | _ => s)

/-- The parts of a load read one after the other, with the bytes that the core's own earlier stores and its parts outside
system space give (R97, R99). -/
def State.readParts (s : State) (keep : Bool) (data : Cells Byte) : List (Loc × Nat × Nat) → State × Nat
  | [] => (s, 0)
  | (l, _, n) :: r =>
    let (s1, v) := if l.isSystem then s.readSys l n keep else (s, 0)
    let (s2, u) := s1.readParts keep data r
    (s2, guardMerge data l n v + 256 ^ n * u)

/-- HOST_READ_COMPLETION: the data of a load of system space returns to its register (R293). -/
def execHostReadCompletion (op : Nat) (s : State) : Host.Outcome State Fault Refusal :=
  .next (match Cells.find? s.sys op with
    | some (.load core husk ps ownData gd signed keep acq) =>
      if ps.any (fun p => s.hostHeld core p.1) then s else
      let (s1, v) := s.readParts keep ownData ps
      let n := ps.foldl (fun a p => a + p.2.2) 0
      let x : Word := if signed then sextTo (8 * n) (BitVec.ofNat 64 v) else BitVec.ofNat 64 v
      let s2 := { s1 with sys := Cells.del s1.sys op, aoseqs := s1.aoseqs.map fun (y : Nat × Aoseq) =>
        (y.1, if y.2.core == core && y.2.husk == husk then { y.2 with snap := y.2.snap.setG gd x } else y.2) }
      s2.onBehalf core (if husk then .husk else .s) fun a =>
        let b := a.onCtx fun c => c.setG gd x
        if acq then b.setFloor else b
    | _ => s)

/-! ### The array and the vector unit -/

/-- The pips of a finished plane load are pushed in order while there is room (R13, R157). -/
def Core.pushLoader : List Nat → Core → Core
  | [], c => { c with arr := { c.arr with loader := none } }
  | ch :: r, c =>
    if c.pipRoom ch then Core.pushLoader r (c.pushPip ch c.c.pts) else { c with arr := { c.arr with loader := some ⟨ch :: r, 0⟩ } }

/-- PLANE_LOAD_COMPLETE: a plane load whose earlier vectors have left the array pushes its pips (R157). -/
def execPlaneLoadComplete (core : Nat) (s : State) : Host.Outcome State Fault Refusal :=
  .next (match (s.core core).arr.loader with
    | some ld => if ld.ahead = 0 then s.updCore core (Core.pushLoader ld.pushes) else s
    | none => s)

/-- VECTOR_EXIT: the oldest vector in flight leaves the array for the output buffer (R165). -/
def execVectorExit (core : Nat) (s : State) : Host.Outcome State Fault Refusal :=
  .next (match (s.core core).arr.inflight with
    | v :: r => s.updCore core fun c =>
        { c with arr := { c.arr with
            inflight := r, outbuf := c.arr.outbuf ++ [v],
            loader := c.arr.loader.map fun ld => { ld with ahead := ld.ahead - 1 } } }
    | [] => s)

/-- A tile-status register after an update: flags are collected, the count saturates (R169). -/
def tstatNext (x : Word) (u : TUpd) : Word :=
  BitVec.ofNat 64 ((x.toNat % 64 ||| u.flags.toNat) + 65536 * min 65535 (x.toNat / 65536 % 65536 + u.count))

/-- TSTAT_UPDATE: the oldest update of a drain lands (R169). -/
def execTstatUpdate (core : Nat) (s : State) : Host.Outcome State Fault Refusal :=
  .next (match (s.core core).vec.tupd with
    | u :: r => s.updCore core fun c =>
        { c with vec := { c.vec with tupd := r, tstat := Cells.set 0 c.vec.tstat u.tag (tstatNext (Cells.get 0 c.vec.tstat u.tag) u) } }
    | [] => s)

/-! ### Cores -/

/-- PTS_IDLE_ADVANCE: the timestamp of a sequencer advances by 1 (R26). -/
def execPtsIdleAdvance (core : Nat) (q : Seq) (s : State) : Host.Outcome State Fault Refusal :=
  .next (s.updCore core fun c => c.setPts q (c.ptsOf q + 1))

/-- The core has retired for its iteration: its pips and undrained results are discarded, its tokens are detached, and its
timestamps count for the launch (R23, R25, R154, R235). -/
def State.coreRetired (s : State) (core : Nat) : State :=
  let c := s.core core
  let s1 := { s with nextId := s.nextId + 1 }
  let s2 := s1.updCore core fun c =>
    { c with pips := [], tokens := [], gen := s.nextId, readyAt := s.fresh, arr := { c.arr with inflight := [], outbuf := [] } }
  match c.binding with
  | some b => s2.updLaunch b.launch fun l =>
      { l with doneTs := wmax l.doneTs c.maxPts }
  | none => s2

/-- ENGINE_RETIRE: the engine has reached its halt marker (R23); C retires after the plane load in progress and its slot
merges. -/
def State.retireEngine (s : State) (core : Nat) (e : Eng) : State :=
  let c := s.core core
  let waits := e == .c && (c.arr.loader.isSome || (s.reqs.any fun x => x.2.core == core && x.2.e == .c && (!x.2.pushes.isEmpty || (match x.2.kind with | .get _ => true | _ => false))))
  if waits then s
  else
    let s1 := s.updCore core fun c => c.updEng e Engine.retire
    if (s1.core core).retired && !c.retired then s1.coreRetired core else s1

def execEngineRetire (core : Nat) (e : Eng) (s : State) : Host.Outcome State Fault Refusal := .next (s.retireEngine core e)

end Sys2Proof.Machine
end

