-- ==== Sys2Proof/Machine/Launches.lean ====
section
/-! DEFINITION. Sys2Proof/Machine/Launches.lean: launch records and what a launch reads with them, `LNCH` and `GLNCH`, admission,
queue-level waits, completion (spec/11, R302, R303, R312, R376, R408). -/

namespace Sys2Proof.Machine

/-! ### Records -/

/-- The values of a list, if every element has one. -/
def allSome {α : Type} : List (Option α) → Option (List α)
  | [] => some []
  | x :: r =>
    match x, allSome r with
    | some a, some l => some (a :: l)
    | _, _ => none

/-- A wait entry of a launch record: index and threshold, or an unused entry; `none` if it is invalid (Table 11.1, R225). -/
def waitEntry (v i : Nat) : Option (Option (Nat × Nat)) :=
  let h := fieldAt v (32 + 6 * i) 2
  let t := fieldAt v (34 + 6 * i) 4
  if h / 4096 % 8 ≠ 0 then none
  else if h / 32768 = 1 then some (some (h % 4096, t))
  else if h = 0 ∧ t = 0 then some none else none

/-- A done entry of a launch record. -/
def doneEntry (v i : Nat) : Option (Option Nat) :=
  let h := fieldAt v (56 + 2 * i) 2
  if h / 4096 % 8 ≠ 0 then none
  else if h / 32768 = 1 then some (some (h % 4096)) else if h = 0 then some none else none

/-- A launch record and its nest address, if its own fields are valid (Table 11.1, R225). -/
def parseLaunch (v : Nat) : Option (LRec × Word) :=
  let ctl := fieldAt v 16 1
  let kind := ctl % 4
  let ext := fieldAt v 24 8
  let size := fieldAt v 18 2
  let extOk := if kind = 0 then ext == 0 else ext % 64 == 0
  if fieldAt v 0 8 % 4 ≠ 0 ∨ fieldAt v 8 8 % 64 ≠ 0 ∨ ctl / 32 ≠ 0 ∨ kind = 3 ∨ fieldAt v 17 1 / 64 ≠ 0 ∨ size = 0 ∨ size > 256
      ∨ fieldAt v 22 1 > 2 ∨ fieldAt v 23 1 ≠ 0 ∨ fieldAt v 60 4 ≠ 0 ∨ extOk = false then none
  else
    match allSome ((List.range 4).map (waitEntry v)), allSome ((List.range 2).map (doneEntry v)) with
    | some ws, some ds =>
      let ms := fieldAt v 20 2
      some ({ entry := BitVec.ofNat 64 (fieldAt v 0 8), kind := kind, prio := ctl / 4 % 4, inOrder := ctl / 16 % 2 == 1,
              queue := fieldAt v 17 1, gangSize := size, timeout := if ms = 0 then 1000 else ms, placement := fieldAt v 22 1,
              ext := BitVec.ofNat 64 ext, waits := ws.filterMap id, dones := ds.filterMap id,
              args := (List.range 8).map fun i => BitVec.ofNat 64 (fieldAt v (64 + 8 * i) 8) }, BitVec.ofNat 64 (fieldAt v 8 8))
    | _, _ => none

/-- A signed number of 32 bits. -/
def signed32 (n : Nat) : Int := (BitVec.ofNat 32 n).toInt

/-- A nest record (Table 11.2, R227). -/
def parseNest (v kind : Nat) : Option Nest :=
  let rank := fieldAt v 0 1
  let ext (d : Nat) : Nat := fieldAt v (8 + 4 * d) 4
  let step (d : Nat) : Nat := fieldAt v (24 + 4 * d) 4
  let redo := fieldAt v 40 8
  let inside := List.range rank
  if rank = 0 ∨ rank > 4 ∨ fieldAt v 1 1 > 3 ∨ fieldAt v 2 6 ≠ 0 ∨ fieldAt v 48 16 ≠ 0
      ∨ (List.range 4).any (fun d => if d < rank then ext d == 0 else ext d != 0 || step d != 0)
      ∨ inside.foldl (fun a d => a * ext d) 1 ≥ 2 ^ 32 ∨ (if kind = 1 then redo % 8 ≠ 0 else redo ≠ 0) then none
  else some { rank := rank, order := fieldAt v 1 1, extent := inside.map ext, step := inside.map fun d => signed32 (step d),
              redo := BitVec.ofNat 64 redo }

/-- The number of iterations of a nest. -/
def Nest.total (n : Nest) : Nat := n.extent.foldl (fun a e => a * e) 1

/-- Exact entry, tolerance and buffer size of a guarded-launch record (Table 15.1, R302). -/
def parseGuard (v : Nat) : Option (Word × Lane × Nat) :=
  let b := fieldAt v 12 4
  if fieldAt v 0 8 % 4 ≠ 0 ∨ b % 4096 ≠ 0 ∨ b = 0 ∨ b > 2097152 ∨ fieldAt v 16 8 ≠ 0 ∨ fieldAt v 32 32 ≠ 0 then none
  else some (BitVec.ofNat 64 (fieldAt v 0 8), BitVec.ofNat 32 (fieldAt v 8 4), b)

/-- The role-binding table of a team launch (Table 12.1, R246), of which `v` holds the channels that its count names. -/
def parseBinder (v size : Nat) : Option Binder :=
  let n := fieldAt v 2 1
  let c := fieldAt v 4 1
  let role (r : Nat) : Nat := fieldAt v (8 + 2 * r) 2
  let bad (r : Nat) : Bool :=
    role r / 256 % 64 != 0 || (if r < n then role r / 16384 == 0 || decide (role r % 256 ≥ size) else role r / 16384 != 0)
  if fieldAt v 0 2 ≥ 4096 ∨ n = 0 ∨ n > 16 ∨ fieldAt v 3 1 ≠ 0 ∨ c > 32 ∨ fieldAt v 5 3 ≠ 0 ∨ fieldAt v 40 24 ≠ 0
      ∨ (List.range 16).any bad ∨ (List.range c).any (fun i => fieldAt v (88 + 32 * i) 8 != 0) then none
  else some { team := fieldAt v 0 2, roles := (List.range n).map fun r => ⟨role r / 16384, role r % 256⟩,
              chans := (List.range c).map fun i =>
                { src := BitVec.ofNat 64 (fieldAt v (64 + 32 * i) 8), dst := BitVec.ofNat 64 (fieldAt v (72 + 32 * i) 8),
                  srcStep := signed32 (fieldAt v (80 + 32 * i) 4), dstStep := signed32 (fieldAt v (84 + 32 * i) 4) } }

/-! ### Partitions and placement -/

def Part.podList (p : Part) : List Nat := (List.range 32).filter fun i => p.pods.getLsbD i

/-- The home die holds the lowest-numbered pod (R238). -/
def Part.homeDie (p : Part) : Nat := p.podList.headD 0 / 8

/-- The agent that stands for the device's own accesses for a partition. -/
def Part.agent (p : Part) : Nat := 8 * p.podList.headD 0

/-- The core is in service (R395). -/
def State.inService (s : State) (core : Nat) : Bool := !(Cells.get 0 s.pf (0x400 + 8 * (core / 64))).getLsbD (core % 64)

/-- A list from one of its elements on, and round. -/
def rotated {α : Type} (n : Nat) (l : List α) : List α := l.drop (n % l.length) ++ l.take (n % l.length)

/-- The longest lists first. -/
def insertByLength (x : List Nat) : List (List Nat) → List (List Nat)
  | [] => [x]
  | y :: r => if y.length < x.length then x :: y :: r else y :: insertByLength x r

/-- Cores for a gang among the pods of a partition, those of `free` being free (R236, R395). Which of several possible sets
it is, is open (log entry 15). -/
def placeGang (seed size placement : Nat) (pods : List Nat) (free : Nat → Bool) : Option (List Nat) :=
  let ofPod (p : Nat) : List Nat := ((List.range 8).map fun i => 8 * p + i).filter free
  let some_ := rotated seed (pods.filter fun p => !(ofPod p).isEmpty)
  let one (p : Nat) : Nat := (rotated seed (ofPod p)).headD 0
  let pick : Option (List Nat) :=
    match placement with
    | 0 =>
      if size ≤ 8 then
        (rotated seed (pods.filter fun p => decide (size ≤ (ofPod p).length))).head?.map fun p => (rotated seed (ofPod p)).take size
      else
        let whole := rotated seed (pods.filter fun p => (ofPod p).length == 8)
        let k := (size + 7) / 8
        let dies := (rotated seed (List.range 4)).foldl (fun a d => insertByLength (whole.filter fun p => p / 8 == d) a) []
        let chosen := (dies.foldl (fun a l => a ++ l) []).take k
        if chosen.length < k then none
        else some (((List.range 32).filter fun p => chosen.contains p).flatMap ofPod |>.take size)
    | 1 => if some_.length < size then none else some ((some_.take size).map one)
    | _ =>
      let dies := (rotated seed (List.range 4)).filterMap fun d => (some_.filter fun p => p / 8 == d).head?
      if dies.length < size then none else some ((dies.take size).map one)
  pick.map fun l => l.foldl (fun a x => insertNew x a) []

/-- Members of a gang in one pod, at most (R304). -/
def podShare (size placement : Nat) : Nat := if placement = 0 then min size 8 else 1

/-! ### LNCH and GLNCH (R230, R303) -/

/-- The hand-over to the scheduler (R230, R408): S stalls while the queue is full. -/
def State.handOver (s : State) (k : BitVec 6) (kinds : List Nat) (record : Word) (v : Nat) : State :=
  let q := fieldAt v 17 1 % 64
  match s.cur.binding.bind (fun b => (Cells.find? s.launches b.launch).map fun l => (b, l)) with
  | none => s
  | some (b, l) =>
    if s.unstartedIn l.part q ≥ 256 then s.await (.launchQueue record q v)
    else
      let x : Submission :=
        { part := l.part, bytes := v, ts := s.pts, tok := s.tokRef k, kinds := kinds, parent := if k = 63 then none else some b.launch,
          key := l.key ++ [s.cur.iter.toNat, s.cur.gangRank.toNat, s.cur.lnches], slot := l.slot, invoke := none, queue := q,
          windows := l.windows.map fun w => if w.flags.getLsbD 1 then { w with pinnedBy := 1 } else w, pinLim := l.pinLim,
          reloc := s.cur.reloc }
      (({ s with subs := s.subs ++ [x] }.onCore fun c => { c with lnches := c.lnches + 1 }).setTok k .pending).advance

/-- LNCH or GLNCH with the kinds of record that it takes. -/
def launchOp (w : InstrWord) (k : BitVec 6) (a : BitVec 5) (kinds : List Nat) (ids : List (BitVec 6)) (s : State) : State :=
  if s.surrogateNow then s.fallback s.agent 0x86
  else
    match s.ctx.stat with
    | .waiting (.launchQueue r _ v) => s.handOver k kinds r v
    | _ =>
      let va := s.g a
      s.aOp k ids ((illegalIf w (va.toNat % 128 != 0)).map fun f => { f with addr := va }) fun s1 =>
        if s1.memPending || s1.sysPending || !s1.cur.comb.isEmpty then (s1.sendAllCombs s1.agent).await .memory
        else
          let who := s1.whoS false
          match s1.checkAll who .read ((List.range 4).map fun i => (va.toNat + 32 * i, 32)) with
          | .error none => s1.await .memory
          | .error (some f) => (s1.noteWalks who ((List.range 4).map fun i => va.toNat + 32 * i)).takeTrap f s1.aAddr
          | .ok ps =>
            match s1.trapRace who ps with
            | some f => s1.takeTrap f s1.aAddr
            | none =>
              let (s2, v) := ((s1.logRaces who false ps).touchAll who 0 false ps).loadParts who false ps
              s2.handOver k kinds va v

def lnchOp (w : InstrWord) (k : BitVec 6) (a : BitVec 5) (ids : List (BitVec 6)) (s : State) : State := launchOp w k a [0, 2] ids s

/-- LNCH: a record of kind 1 fails. -/
def execLnch (k : BitVec 6) (a : BitVec 5) (n : BitVec 2) (s : State) : Host.Outcome State Fault Refusal :=
  .next (aWord (.lnch k a n) n (lnchOp (wordOf (.lnch k a n)) k a) s)

def glnchOp (w : InstrWord) (k : BitVec 6) (a : BitVec 5) (ids : List (BitVec 6)) (s : State) : State := launchOp w k a [1] ids s

/-- GLNCH: only a record of kind 1. -/
def execGlnch (k : BitVec 6) (a : BitVec 5) (n : BitVec 2) (s : State) : Host.Outcome State Fault Refusal :=
  .next (aWord (.glnch k a n) n (glnchOp (wordOf (.glnch k a n)) k a) s)

/-! ### Admission (R225, R226) -/

/-- What the scheduler reads for a launch: the nest, the role-binding table, the guarded-launch record. `none`: the launch
is invalid. -/
structure Parsed where
  rec_ : LRec
  nest : Nest
  binder : Option Binder
  exact : Word
  tolerance : Lane
  buffer : Nat

/-- The role-binding table, read with its channels; the entry word must be CHBEG (R246). -/
def State.readBinder (s : State) (agent : Nat) (x : Submission) (r : LRec) : Option (State × Binder) :=
  match s.devRead agent x.windows x.ts r.ext 2 with
  | .error _ => none
  | .ok (s1, h, _) =>
    match s1.devRead agent x.windows x.ts r.ext (2 + min 32 (fieldAt h 4 1)), s1.translate agent true .fetch r.entry with
    | .ok (s2, v, _), .ok l =>
      if (s2.eccAt l r.entry).isSome ∨ s2.natAt l 4 / 2 ^ 23 ≠ 7 * 64 + 2 then none else (parseBinder v r.gangSize).map fun b => (s2, b)
    | _, _ => none

/-- The checks of R225. -/
def State.readLaunch (s : State) (p : Part) (x : Submission) : Option (State × Parsed) :=
  match parseLaunch x.bytes with
  | none => none
  | some (r, nestAt) =>
    if !x.kinds.contains r.kind || (placeGang 0 r.gangSize r.placement p.podList s.inService).isNone then none
    else
      match s.devRead p.agent x.windows x.ts nestAt 2 with
      | .error _ => none
      | .ok (s1, v, _) =>
        match parseNest v r.kind with
        | none => none
        | some n =>
          match r.kind with
          | 0 => some (s1, ⟨r, n, none, 0, 0, 0⟩)
          | 1 =>
            (match s1.devRead p.agent x.windows x.ts r.ext 2 with
             | .error _ => none
             | .ok (s2, g, _) =>
               match parseGuard g with
               | none => none
               | some (e, t, b) =>
                 if podShare r.gangSize r.placement * b > 6291456 then none else some (s2, ⟨r, n, none, e, t, b⟩))
          | _ => (s1.readBinder p.agent x r).map fun y => (y.1, ⟨r, n, some y.2, 0, 0, 0⟩)

/-- The record of a submission that failed its checks, or of the redo area that could not be written (R225, R231, R376). -/
def State.refuseLaunch (s : State) (x : Submission) (f : Flt) : State :=
  match x.invoke with
  | some i =>
    (match Cells.find? s.invs i with
     | some y => { s with invs := Cells.put s.invs i { y with launches := y.launches ++ [none] } }
     | none => s)
  | none => s.resolveFrom x.tok (.failed f) 0 0 x.ts

/-- A launch enters its queue with the next number (R226). -/
def State.enterQueue (s : State) (part : Nat) (p : Part) (x : Submission) (y : Parsed) : State :=
  let id := s.nextId
  let l : Launch :=
    { part := part, number := p.nextNumber, rec_ := { y.rec_ with queue := x.queue }, nest := y.nest, binder := y.binder,
      exact := y.exact, tolerance := y.tolerance, buffer := y.buffer, state := .queued, status := 0, startTs := x.ts, doneTs := x.ts,
      total := y.nest.total, handed := 0, redo := [], redoHanded := 0, aged := false, slot := x.slot, windows := x.windows,
      pinLim := x.pinLim, pinUse := 0, gstat := 0, reloc := x.reloc, tok := x.tok, invoke := x.invoke, key := x.key,
      parent := x.parent }
  let s1 := { s with launches := Cells.put s.launches id l, nextId := id + 1 }
  let s2 := (s1.updPart part fun q => { q with nextNumber := q.nextNumber + 1 }).admitDone part x.key
  let s3 := match x.invoke with
    | some i =>
      (match Cells.find? s2.invs i with
       | some v => { s2 with invs := Cells.put s2.invs i { v with launches := v.launches ++ [some id] } }
       | none => s2)
    | none => s2
  if y.rec_.kind = 1 then
    match s3.devWrite p.agent x.windows x.ts y.nest.redo 8 0 with
    | .error f => s3.endLaunch id f.cause.toNat
    | .ok (s4, t) => s4.updLaunch id fun z => { z with doneTs := wmax z.doneTs t }
  else s3

/-! ### Completion records (R374, R376) -/

/-- A command of a VF completes: the agent's timestamp rises, and the record waits for room in the ring (R369, R371, R374). -/
def State.completeCommand (s : State) (vf q cmd status : Nat) (data ts : Word) : State :=
  let rec_ := fieldAt cmd 4 4 + 2 ^ 32 * (cmd % 256) + 2 ^ 40 * status + 2 ^ 64 * data.toNat
  s.updVf vf fun v => { v with ts := wmax v.ts ts, waiting := v.waiting ++ [(q, bytesOf 16 rec_, cmd / 256 % 2 == 1)] }

/-- An invocation whose launches have all completed completes (R376). -/
def State.finishInvocation (s : State) (i : Nat) : State :=
  match Cells.find? s.invs i with
  | none => s
  | some v =>
    let ls := v.launches.map fun x => x.bind fun l => Cells.find? s.launches l
    let isOver (x : Option Nat) : Bool :=
      match x.bind fun l => Cells.find? s.launches l with
      | some l => l.state == .complete
      | none => true
    if v.launches.length < v.expected ∨ !(v.launches.all isOver) then s
    else
      let status := ((ls.map fun x => match x with | some l => l.status | none => 1).find? fun c => c != 0).getD 0
      let ts := ls.foldl (fun a x => match x with | some l => wmax a l.doneTs | none => wmax a v.ts) (0 : Word)
      let first := match ls with | some l :: _ => l.number | _ => 0
      { s with invs := Cells.del s.invs i }.completeCommand v.vf v.q v.cmd status (if v.cmd / 512 % 2 = 1 then first else ts) ts

/-- A read that the device makes for a launch at an address waits for an IDE stream: it goes to host memory (R388). -/
def State.devHeld (s : State) (agent : Nat) (va : Word) : Bool :=
  match s.translate agent true .read va with
  | .ok (.host _) => ((s.partOf agent).map s.ideHeld).getD false
  | _ => false

/-- A read of what a launch record names waits: of its nest, its guarded-launch record or its role-binding table. -/
def State.readsHeld (s : State) (p : Part) (x : Submission) : Bool :=
  let held (va : Word) (n : Nat) : Bool := (List.range n).any fun i => s.devHeld p.agent (va + BitVec.ofNat 64 (32 * i))
  match parseLaunch x.bytes with
  | some (r, nestAt) => held nestAt 2 || (r.kind != 0 && held r.ext (if r.kind = 1 then 2 else 66))
  | none => false

/-- LAUNCH_ADMIT: the scheduler of a die admits the next submission of its partitions; in a replay, the next of the record. A
launch that is invalid is never entered, so that no record holds it back (R225, R226, R397). -/
def execLaunchAdmit (die : Nat) (s : State) : Host.Outcome State Fault Refusal :=
  let ok (x : Submission) : Bool := match Cells.find? s.parts x.part with
    | some p => p.homeDie == die && !s.readsHeld p x && (s.admitGo x.part x.key || (s.readLaunch p x).isNone)
    | none => false
  let before := s.subs.takeWhile fun x => !ok x
  .next (match s.subs.drop before.length with
    | [] => s
    | x :: r =>
      match Cells.find? s.parts x.part with
      | none => s
      | some p =>
        let s1 := { s with subs := before ++ r }
        let s2 := match s1.readLaunch p x with
          | some (s2, y) => s2.enterQueue x.part p x y
          | none => s1.refuseLaunch x illegalTok
        match x.invoke with
        | some i => s2.finishInvocation i
        | none => s2)

/-! ### Queue-level waits (R233, R234, R238) -/

/-- The earlier launches of a launch's queue. -/
def State.earlier (s : State) (l : Nat) (x : Launch) : List Launch :=
  (s.launches.filter fun y => decide (y.1 < l) && y.2.part == x.part && y.2.rec_.queue == x.rec_.queue).map fun y => y.2

/-- Launches that hold a slot of a die's scheduler (R238). -/
def State.slotsUsed (s : State) (die : Nat) : Nat :=
  (s.launches.filter fun y => (y.2.state == .ready || y.2.state == .running || y.2.state == .draining) &&
    ((Cells.find? s.parts y.2.part).map fun p => p.homeDie) == some die).length

/-- The launch heads its queue's unstarted launches, as Table 11.4 asks of one that leaves the queued state. -/
def State.heads (s : State) (l : Nat) (x : Launch) : Bool :=
  (s.earlier l x).all fun y => (y.state == .running || y.state == .draining || y.state == .complete) && (!x.rec_.inOrder || y.state == .complete)

/-- The launch may leave the waiting state, but for a slot: it heads its queue, and every wait entry holds (R233). -/
def State.slotWanted (s : State) (l : Nat) (x : Launch) : Bool :=
  (x.state == .queued || x.state == .waiting) && s.heads l x &&
    x.rec_.waits.all fun w => decide (w.2 ≤ (s.signal x.part w.1).val.toNat)

/-- The launches of the partitions of a die that want a slot. -/
def State.slotWaiters (s : State) (die : Nat) : List (Nat × Launch) :=
  s.launches.filter fun y => s.slotWanted y.1 y.2 && ((Cells.find? s.parts y.2.part).map fun p => p.homeDie) == some die

/-- A partition may take a slot of its die. Where more launches wait than slots are free, the partitions take them in rounds, each
as many as its share says, and a new round begins when none that waits has any left (R238). DESIGN CHOICE: the order within
a round is open (log entry 114). -/
def State.slotGrant (s : State) (die part : Nat) : Option State :=
  let free := 64 - s.slotsUsed die
  let ws := s.slotWaiters die
  let left (i : Nat) : Bool := match Cells.find? s.parts i with | some p => decide (p.granted < p.share) | none => false
  if free = 0 then none
  else if ws.length ≤ free then some s
  else if left part then some (s.updPart part fun p => { p with granted := p.granted + 1 })
  else if ws.any fun y => left y.2.part then none
  else some { s with parts := s.parts.map fun (y : Nat × Part) =>
    (y.1, if y.2.homeDie = die then { y.2 with granted := if y.1 = part then 1 else 0 } else y.2) }

/-- LAUNCH_READY: the launch heads its queue and waits; when every wait holds and it gets a slot, it is ready, and its
start_ts is known. -/
def execLaunchReady (launch : Nat) (s : State) : Host.Outcome State Fault Refusal :=
  .next (match Cells.find? s.launches launch with
    | none => s
    | some x =>
      let die := ((Cells.find? s.parts x.part).map fun p => p.homeDie).getD 0
      let wait (a : State) : State := a.updLaunch launch fun y => { y with state := .waiting }
      if (x.state != .queued && x.state != .waiting) || !s.heads launch x then s
      else if !s.slotWanted launch x then wait s
      else
        match s.slotGrant die x.part with
        | none => wait s
        | some s1 =>
          let t1 := x.rec_.waits.foldl (fun a w => wmax a (s.signal x.part w.1).wts) x.startTs
          let t2 := if x.rec_.inOrder then (s.earlier launch x).foldl (fun a y => wmax a y.doneTs) t1 else t1
          s1.updLaunch launch fun y => { y with state := .ready, startTs := t2, doneTs := wmax y.doneTs t2 })

/-- LAUNCH_AGING: the launch has been ready or resumable for 1 ms without binding (R239). -/
def execLaunchAging (launch : Nat) (s : State) : Host.Outcome State Fault Refusal :=
  .next (s.updLaunch launch fun y =>
    if y.state == .ready || s.gangs.any (fun g => g.2.launch == launch && g.2.state == .saved) then { y with aged := true } else y)

/-! ### Completion (R235) -/

/-- The lines of a window: their places, where they are mapped in package memory. -/
def State.windowLines (s : State) (agent : Nat) (w : Win) : List (Nat × Loc) :=
  (List.range ((w.limit.toNat - w.base.toNat) / 128)).filterMap fun i =>
    match s.translateIn agent false false .read (w.base + BitVec.ofNat 64 (128 * i)) with
    | .ok l => some (w.base.toNat + 128 * i, l)
    | .error _ => none

/-- The lines of a window of a table are brought to the homes that the table gives them, and a holder pins them (R279, R280). `sh` gives the place of a
line's shadow records. -/
def State.pinLines (s : State) (agent : Nat) (ws : List Win) (w : Win) (by_ : PinBy) (sh : Word → Option Nat) : State :=
  (s.windowLines agent w).foldl (fun a x =>
    let ruling := (windowIn x.1 0 ws).map fun y => y.2
    let cls := match ruling with | some y => y.flags.extractLsb' 4 2 | none => 0
    match x.2 with
    | .pkg p =>
      let b := (a.rehome x.2 (homeIn ruling x.1) (hashLine x.1)).touch x.2 (homeIn ruling x.1) (hashLine x.1) (sh (BitVec.ofNat 64 x.1)) cls false
      { b with attrs := b.attrs.map fun (y : Nat × LineAttr) =>
          (y.1, if y.1 = p / 128 ∧ y.2.pins.contains by_ = false then { y.2 with pins := by_ :: y.2.pins } else y.2) }
    | _ => a) s

/-- The pins of a holder end; where `cls` is given, the lines that it held take that class (R279, R280). -/
def State.unpinBy (s : State) (by_ : PinBy) (cls : Option (BitVec 2)) : State :=
  { s with attrs := s.attrs.map fun (y : Nat × LineAttr) =>
      (y.1, if y.2.pins.contains by_ then { y.2 with pins := y.2.pins.filter fun p => p != by_, cls := cls.getD y.2.cls } else y.2) }

/-- Asynchronous work of a launch that has not resolved (R24, R25, R359), its system-scope writes among it (R376). -/
def State.launchBusy (s : State) (l : Nat) (x : Launch) : Bool :=
  let mine (core : Nat) : Bool := ((Cells.find? s.parts x.part).map fun p => p.pods.getLsbD (podOf core)).getD false
  s.gangs.any (fun g => g.2.launch == l) || s.ops.any (fun o => o.2.launch == l) || s.reqs.any (fun r => r.2.launch == l)
    || s.sys.any (fun y => match y.2 with | .store c .. => mine c | .load .. => false | .fence _ => false)
    || s.cores.any (fun c => mine c.1 && !c.2.comb.isEmpty)
    || ((Cells.find? s.parts x.part).map fun p => p.fbars.any fun b =>
         b.2.bar.toks.any (fun t => t.launch == x.number) || b.2.bar.collx.any (fun c => c.launch == l)).getD false
    || s.subs.any (fun y => y.parent == some l) || s.launches.any (fun y => y.2.parent == some l && y.2.state != .complete)

/-- LAUNCH_COMPLETE: the last work of a draining launch has resolved: the final GSTAT, the done entries, the token, the
completion record (R235, R312). -/
def execLaunchComplete (launch : Nat) (s : State) : Host.Outcome State Fault Refusal :=
  .next (match Cells.find? s.launches launch with
    | none => s
    | some x =>
      if x.state ≠ .draining ∨ s.launchBusy launch x then s
      else
        let agent := ((Cells.find? s.parts x.part).map fun p => p.agent).getD 0
        let s1 := if x.rec_.kind = 1 then
            match s.devWrite agent x.windows x.startTs (x.rec_.ext + 24) 8 x.gstat.toNat with
            | .error f => s.updLaunch launch fun y => { y with status := if y.status = 0 then f.cause.toNat else y.status }
            | .ok (s1, t) => s1.updLaunch launch fun y => { y with doneTs := wmax y.doneTs t }
          else s
        let y := (Cells.find? s1.launches launch).getD x
        let ts := wmax y.doneTs y.startTs
        let s2 := y.rec_.dones.foldl (fun a i => (a.setSignal x.part i ((a.signal x.part i).val + 1) ts).1) s1
        let s3 := (List.range y.windows.length).foldl (fun (a : State) i => a.unpinBy (.launch launch i) none) s2
        let s4 := s3.updLaunch launch fun z => { z with state := .complete, doneTs := ts }
        match y.invoke with
        | some i => s4.finishInvocation i
        | none =>
          s4.resolveFrom y.tok (if y.status = 0 then .done ts else .failed ⟨BitVec.ofNat 8 y.status, 0, y.number⟩) 0 0 ts)

end Sys2Proof.Machine
end

