-- ==== Sys2Proof/Machine/Scheduler.lean ====
section
/-! DEFINITION. Sys2Proof/Machine/Scheduler.lean: the decisions of the launch scheduler and the nest walker: placement, binding,
preemption of waiters, iterations (R228, R229, R234, R236 to R243, R270, R304, R305, R310). -/

namespace Sys2Proof.Machine

/-! ### Free cores -/

/-- The gang holds its cores. -/
def Gang.holds (g : Gang) : Bool := g.state == .bound || g.state == .saving || g.state == .restoring

/-- A packed gang of more than 8 cores keeps its pods whole (R236). -/
def State.wholePods (s : State) (g : Gang) : Bool :=
  match Cells.find? s.launches g.launch with
  | some l => l.rec_.placement == 0 && decide (l.rec_.gangSize > 8)
  | none => false

/-- The core is one that a packed gang does not use in a pod that it keeps whole: it stays unbound until that gang is released, also
while the gang is saved (R236). -/
def State.spare (s : State) (core : Nat) : Bool :=
  s.gangs.any fun g => s.wholePods g.2 && !g.2.members.contains core && g.2.members.any fun m => podOf m == podOf core

/-- The agent is bound to no gang but those of a list, as if they were gone; a core is in service, and no spare core of a gang (R236,
R395). -/
def State.bindable (s : State) (gone : List Nat) (agent : Nat) : Bool :=
  (decide (256 ≤ agent) || (s.inService agent && !s.spare agent)) && (match (s.core agent).binding with
    | some b => gone.contains b.gang
    | none => true)

/-- A new gang can be bound to the core, if the gangs of a list were gone: no gang has moved its pod off the default map (R270). -/
def State.freeWithout (s : State) (gone : List Nat) (core : Nat) : Bool :=
  s.bindable gone core && (s.pod (podOf core)).movedBy.isNone

/-- Only gangs of a list are bound to the pod. -/
def State.emptyPod (s : State) (gone : List Nat) (pod : Nat) : Bool :=
  (List.range 8).all fun i => match (s.core (8 * pod + i)).binding with
    | some b => gone.contains b.gang
    | none => true

/-- FIFO banks of a pod with `m` members of a guarded gang (R304). -/
def fifoBanks (m buffer : Nat) : Nat := max 4 ((m * buffer + 262143) / 262144)

/-- The pods from which a launch may take cores: a guarded gang that needs more FIFO banks than the default map has takes pods in
which nothing is bound (R270, R304). -/
def State.podsFor (s : State) (p : Part) (l : Launch) (gone : List Nat) : List Nat :=
  if l.rec_.kind = 1 ∧ 4 < fifoBanks (podShare l.rec_.gangSize l.rec_.placement) l.buffer then p.podList.filter (s.emptyPod gone)
  else p.podList

/-- The cores on which a new gang of a launch would be bound, if the gangs of a list were gone. -/
def State.placeWithout (s : State) (p : Part) (l : Launch) (gone : List Nat) : Option (List Nat) :=
  placeGang (Config.freeNat s.fresh 200) l.rec_.gangSize l.rec_.placement (s.podsFor p l gone) (s.freeWithout gone)

/-- Another gang has moved the core's pod off the default map (R270). -/
def State.podKept (s : State) (gang agent : Nat) : Bool :=
  match (s.pod (podOf agent)).movedBy with
  | some g => decide (agent < 256) && g != gang
  | none => false

/-- A saved gang can be resumed: its own cores are free and in service. One that has made room for a launch lets it bind first
(R236, R241, R242, R395). -/
def State.canResume (s : State) (gone : List Nat) (id : Nat) (g : Gang) : Bool :=
  g.state == .saved && !g.gaveWay && (s.membersOf g).all fun m => s.bindable gone m && !s.podKept id m

/-! ### Binding (R17, R154, R237, R270, R304) -/

/-- Banks of a guarded gang's pod (R304): the k highest are FIFO, 24 to 27 scratch except where they are FIFO. -/
def guardBanks (k : Nat) : BitVec 64 :=
  (List.range 32).foldl (fun a b =>
    a ||| (BitVec.ofNat 64 (if 32 - k ≤ b then 2 else if 24 ≤ b ∧ b ≤ 27 then 1 else 0)) <<< (2 * b)) 0

/-- The pod's scratch banks read as zeros (R270). -/
def State.zeroScratch (s : State) (pod : Nat) : State :=
  { s with scratch := s.scratch.filter fun x => x.1 / 2 ^ 23 != pod }

/-- The map that a pod takes at a binding of a gang; a bank that leaves cache for it loses its lines (R270, R272, R304). -/
def State.bindPod (s : State) (g : Nat) (l : Launch) (members : List Nat) (pod : Nat) : State :=
  let m := (members.filter fun c => podOf c == pod).length
  let banks := if l.rec_.kind = 1 then guardBanks (fifoBanks m l.buffer) else Pod.defaultBanks
  ((s.zeroScratch pod).updPod pod fun p =>
    { p with banks := banks, changing := none, movedBy := if banks = Pod.defaultBanks then none else some g }).dropWays pod

/-- A core as it is bound: LS zero, both planes identity. What belongs to the core and not to its user context stays: the
timestamps, Husk, SHARE and RACEMODE, the TLB, the bytes that it has still to send. -/
def Core.bind (c : Core) (l : Launch) (b : Binding) (gen now : Nat) : Core :=
  { Core.reset with
    husk := c.husk, huskPts := c.huskPts, huskLine := c.huskLine, pairAct := c.pairAct, issued := c.issued, share := c.share, tlb := c.tlb,
    errs := c.errs, pts := c.pts, l := { Engine.reset with pts := c.l.pts }, c := { Engine.reset with pts := c.c.pts },
    t := { Engine.reset with pts := c.t.pts }, comb := c.comb, gen := gen,
    gangSize := BitVec.ofNat 64 l.rec_.gangSize, gangRank := BitVec.ofNat 64 b.rank, launchId := l.number,
    raceMode := c.raceMode, reloc := l.reloc, binding := some b, readyAt := now }

/-- A new gang of a launch is bound to cores (R237). -/
def State.bindGang (s : State) (id : Nat) (l : Launch) (members : List Nat) : State :=
  let g := s.nextId
  let gang : Gang :=
    { launch := id, members := members, state := .bound, iter := none, redoing := false, barriers := [], arrivals := [], phaseNo := 0,
      round := none, guardAt := [], decision := none, preemptible := false, gaveWay := false, discard := false, team := none, saved := [], ctxs := [] }
  let s1 := { s with gangs := Cells.put s.gangs g gang, nextId := g + 2 }
  let s2 := ((members.map podOf).eraseDups).foldl (fun a pod => a.bindPod g l members pod) s1
  let s3 := ((List.range members.length).zip members).foldl (fun a m =>
    a.updCore m.2 fun c => c.bind l ⟨id, g, m.1⟩ (g + 1) s.fresh) s2
  s3.updLaunch id fun x => { x with state := .running, aged := false }

/-! ### The decision (R239) -/

/-- Iterations that wait to be handed out. -/
def Launch.unstarted (l : Launch) : Nat := (l.total - l.handed) + (l.redo.length - l.redoHanded)

/-- Bound gangs of a launch, and those of them that wait for their first iteration. -/
def State.boundGangs (s : State) (id : Nat) : List Gang :=
  (s.gangs.filter fun g => g.2.launch == id && g.2.holds).map fun g => g.2

/-- The launch has iterations for one more gang (R236). -/
def State.wantsGang (s : State) (id : Nat) (l : Launch) : Bool :=
  decide (((s.boundGangs id).filter fun g => g.iter.isNone).length < l.unstarted)

/-- The launch binds one gang, if it can: a saved one first. -/
def State.bindOne (s : State) (part id : Nat) : Option State :=
  match Cells.find? s.launches id, Cells.find? s.parts part with
  | some l, some p =>
    (match List.find? (fun (g : Nat × Gang) => g.2.launch == id && s.canResume [] g.1 g.2) s.gangs with
     | some g => some ((s.resumeGang g.1).updLaunch id fun x => { x with aged := false })
     | none =>
       if s.wantsGang id l then (s.placeWithout p l []).map fun m => s.bindGang id l m else none)
  | _, _ => none

/-- The launch binds gangs while it can. -/
def State.bindAll (part id : Nat) : Nat → State → State
  | 0, s => s
  | fuel + 1, s =>
    match s.bindOne part id with
    | some s1 => State.bindAll part id fuel s1
    | none => s

/-- Effective priority (R239). -/
def Launch.level (l : Launch) : Nat := min 3 (l.rec_.prio + (if l.aged then 1 else 0))

def State.hasSaved (s : State) (id : Nat) : Bool := s.gangs.any fun g => g.2.launch == id && g.2.state == .saved

/-- The launches at a level: the one for which gangs have made room, resumable ones, in an order that is open (log entry 15), then the
ready ones round-robin by queue (R239, R241). DESIGN CHOICE: before a queue of the level has been served the round begins with
queue 0 (log entry 126). -/
def State.atLevel (s : State) (part level : Nat) : List (Nat × Launch) :=
  let p := Cells.find? s.parts part
  let claim := p.bind fun p => p.claim
  let mine := s.launches.filter fun x => x.2.part == part && x.2.level == level
  let others := mine.filter fun x => some x.1 != claim
  let last := (p.map fun p => Cells.get 63 p.rr level).getD 63
  let ready := others.filter fun x => x.2.state == .ready && !s.hasSaved x.1
  let after := ready.filter fun x => decide (last < x.2.rec_.queue)
  (mine.filter fun x => some x.1 == claim) ++ rotated (Config.freeNat s.fresh 201) (others.filter fun x => s.hasSaved x.1) ++
    (List.range 64).flatMap (fun q => after.filter fun x => x.2.rec_.queue == q) ++
    (List.range 64).flatMap (fun q => ready.filter fun x => !decide (last < x.2.rec_.queue) && x.2.rec_.queue == q)

/-- Gangs that made room may resume again: the launch that they made it for has bound, or will not. -/
def State.dropClaim (s : State) (part : Nat) : State :=
  let mine (g : Gang) : Bool := ((Cells.find? s.launches g.launch).map fun x => x.part) == some part
  { s.updPart part fun p => { p with claim := none } with
    gangs := s.gangs.map fun (g : Nat × Gang) => (g.1, if mine g.2 then { g.2 with gaveWay := false } else g.2) }

/-- The launches of a level bind their gangs; the answer names the first that holds back the lower levels. DESIGN CHOICE: the pointer
of the level moves past the queue of every launch that binds, a resumed one too (log entry 126). -/
def State.decideLevel (part level : Nat) : List Nat → State × Option Nat → State × Option Nat
  | [], r => r
  | id :: ids, (s, held) =>
    let s1 := State.bindAll part id 256 s
    match Cells.find? s1.launches id with
    | none => State.decideLevel part level ids (s1, held)
    | some l =>
      let more := decide ((s.boundGangs id).length < (s1.boundGangs id).length)
      let a := if more && ((Cells.find? s1.parts part).bind fun p => p.claim) == some id then s1.dropClaim part else s1
      let s2 := if more then a.updPart part fun p => { p with rr := Cells.put p.rr level l.rec_.queue } else a
      let waits := (s2.hasSaved id || decide (0 < l.unstarted)) && (s2.boundGangs id).isEmpty
      State.decideLevel part level ids (s2, match held with | some h => some h | none => if waits then some id else none)

/-- The levels from the highest on, until one holds back those below it. -/
def State.decideLevels (part : Nat) : Nat → State → State × Option Nat
  | 0, s => (s, none)
  | n + 1, s =>
    match State.decideLevel part n ((s.atLevel part n).map fun x => x.1) (s, none) with
    | (s1, none) => State.decideLevels part n s1
    | r => r

/-! ### Waiters (R241) -/

/-- S is a blocked waiter (R241, R255, R308 and the receive of spec/12). -/
def Core.blockedWaiter (c : Core) : Bool :=
  match c.user.stat with
  | .waiting (.signal ..) => true
  | .waiting (.barrier ..) => true
  | .waiting (.token k) => c.tok k == .pending
  | .waiting (.drift ..) => true
  | .waiting (.recv _) => true
  | .waiting .guardEnd => true
  | _ => false

/-- GANG_PREEMPTIBLE: a core of the gang has been a blocked waiter for the yield threshold. -/
def execGangPreemptible (core : Nat) (s : State) : Host.Outcome State Fault Refusal :=
  .next (match (s.core core).binding with
    | some b => if (s.core core).blockedWaiter then s.updGang b.gang fun g => { g with preemptible := true } else s
    | none => s)

/-- Whether a launch could bind a gang if some gangs were gone. -/
def State.couldBind (s : State) (p : Part) (id : Nat) (l : Launch) (gone : List Nat) : Bool :=
  s.gangs.any (fun g => g.2.launch == id && s.canResume gone g.1 g.2) || (s.wantsGang id l && (s.placeWithout p l gone).isSome)

/-- The shortest beginning of a list with which a condition holds. -/
def shortest (ok : List Nat → Bool) : List Nat → List Nat → Option (List Nat)
  | acc, [] => if ok acc then some acc else none
  | acc, g :: r => if ok acc then some acc else shortest ok (acc ++ [g]) r

/-- A list without the members that the condition does not need, the first of them left out first. -/
def needed (ok : List Nat → Bool) : List Nat → List Nat → List Nat
  | keep, [] => keep
  | keep, g :: r => if ok (keep ++ r) then needed ok keep r else needed ok (keep ++ [g]) r

/-- The step since which a gang has had a blocked waiter (R241). -/
def State.waitsSince (s : State) (g : Gang) : Nat :=
  ((g.members.map s.core).filter Core.blockedWaiter).foldl (fun a c => min a c.user.since) s.fresh

/-- The gangs in the order of their waits, the longest first. -/
def insertWaiter (x : Nat × Nat) : List (Nat × Nat) → List (Nat × Nat)
  | [] => [x]
  | y :: r => if x.2 < y.2 then x :: y :: r else y :: insertWaiter x r

/-- Preemptible gangs of the partition make room for the launch that would bind next, the longest-waiting first; of those that are
not needed the shortest-waiting is spared first (R241). -/
def State.preemptFor (s : State) (part id : Nat) : State :=
  match Cells.find? s.launches id, Cells.find? s.parts part with
  | some l, some p =>
    let mine (g : Nat × Gang) : Bool := ((Cells.find? s.launches g.2.launch).map fun x => x.part) == some part
    let leaving := (s.gangs.filter fun g => mine g && g.2.state == .saving).map fun g => g.1
    let cands := (((s.gangs.filter fun g =>
      mine g && g.2.state == .bound && g.2.preemptible && g.2.members.any fun m => (s.core m).blockedWaiter).map fun g =>
        (g.1, s.waitsSince g.2)).foldl (fun a x => insertWaiter x a) []).map fun x => x.1
    let ok (gone : List Nat) : Bool := s.couldBind p id l (leaving ++ gone)
    (match shortest ok [] cands with
     | none => s
     | some [] => s
     | some gs => (needed ok [] gs.reverse).reverse.foldl (fun (a : State) g => (a.preemptGang g).updGang g fun y => { y with gaveWay := y.state == .saving })
         (s.updPart part fun q => { q with claim := some id }))
  | _, _ => s

/-- One decision of a partition's scheduler (R239, R241). Cores that a preemption frees go to the launch that it was made for,
unless a launch of a higher level takes them; once every such gang is saved and that launch still cannot bind, they resume.
DEDUCED (log entry 36). -/
def State.schedule (s : State) (part : Nat) : State :=
  let go (s : State) : State :=
    match State.decideLevels part 4 s with
    | (s1, some id) => s1.preemptFor part id
    | (s1, none) => s1
  let leaving := s.gangs.any fun g => g.2.state == .saving && ((Cells.find? s.launches g.2.launch).map fun x => x.part) == some part
  let s1 := go s
  match (Cells.find? s.parts part).bind fun p => p.claim with
  | none => s1
  | some id => if leaving ∨ ((Cells.find? s1.parts part).bind fun p => p.claim) ≠ some id then s1 else go (s1.dropClaim part)

/-- SCHEDULER_TICK: the schedulers of a die's partitions decide. -/
def execSchedulerTick (die : Nat) (s : State) : Host.Outcome State Fault Refusal :=
  .next ((s.parts.filter fun p => p.2.homeDie == die).foldl (fun (a : State) p => a.schedule p.1) s)

/-! ### The walker (R228, R229) -/

/-- Tuple of position `n` with the last dimension fastest; extents from dimension 0 on. -/
def rowMajor : List Nat → Nat → List Nat
  | [], _ => []
  | e :: es, n => let below := es.foldl (fun a x => a * x) 1; (n / below % e) :: rowMajor es (n % below)

/-- Serpentine: a dimension runs downward when the sum of the coordinates before it is odd. -/
def serpentine : Nat → List Nat → Nat → List Nat
  | _, [], _ => []
  | sum, e :: es, n =>
    let below := es.foldl (fun a x => a * x) 1
    let q := n / below % e
    let t := if sum % 2 = 1 then e - 1 - q else q
    t :: serpentine (sum + t) es (n % below)

/-- How many values below an extent begin with a prefix of which `bits` low bits are open. -/
def openCount (extent pre bits : Nat) : Nat := min (extent - pre * 2 ^ bits) (2 ^ bits)

/-- The tuple of position `n` in Morton order: the bits of the code from the highest on (bit `b` of dimension `d` stands at
`rank · b + d`). `st` holds extent, prefix and open bits of each dimension. -/
def mortonDown : List Nat → List (Nat × Nat × Nat) → Nat → List Nat
  | [], st, _ => st.map fun x => x.2.1
  | d :: ds, st, n =>
    let with_ (b : Nat) : List (Nat × Nat × Nat) :=
      ((List.range st.length).zip st).map fun x => if x.1 = d then (x.2.1, 2 * x.2.2.1 + b, x.2.2.2 - 1) else x.2
    let zeros := (with_ 0).foldl (fun a x => a * openCount x.1 x.2.1 x.2.2) 1
    if n < zeros then mortonDown ds (with_ 0) n else mortonDown ds (with_ 1) (n - zeros)

/-- The coordinates of iteration `n` (R228). -/
def Nest.tuple (x : Nest) (n : Nat) : List Nat :=
  match x.order with
  | 0 => rowMajor x.extent n
  | 1 => (rowMajor x.extent.reverse n).reverse
  | 2 => mortonDown ((List.range 32).flatMap fun _ => (List.range x.rank).reverse) (x.extent.map fun e => (e, 0, 32)) n
  | _ => serpentine 0 x.extent n

/-- The preloads of g1 to g13 (R16, R229). -/
def preloads (l : Launch) (n : Nat) : Cells Word :=
  let args := ((List.range 8).zip l.rec_.args).foldl (fun (a : Cells Word) x => Cells.set 0 a (1 + x.1) x.2) []
  let idx := ((List.range 4).zip ((l.nest.tuple n).zip l.nest.step)).foldl (fun (a : Cells Word) x =>
    Cells.set 0 a (9 + x.1) (BitVec.ofInt 64 ((x.2.1 : Int) * x.2.2))) args
  Cells.set 0 idx 13 (BitVec.ofNat 64 n)

/-- A member at the start of an iteration (R16, R17, R154, R229, R234, R305). -/
def Core.startIteration (c : Core) (l : Launch) (n : Nat) (redo : Bool) (gen : Nat) (roles : Word) : Core :=
  let sur := l.rec_.kind == 1 && !redo
  let eng (x : Engine) : Engine := { Engine.reset with pts := wmax x.pts l.startTs }
  { c with
    user := { Ctx.reset .running with g := preloads l n, pc := if redo then l.exact else l.rec_.entry },
    handler := false, trap := ⟨0, 0, 0, 0, 0⟩, pts := wmax c.pts l.startTs, floor := l.startTs, lastLine := [],
    l := eng c.l, c := eng c.c, t := eng c.t, capL := ⟨0, 0⟩, capC := ⟨0, 0⟩, capT := ⟨0, 0⟩, pips := [], vec := Vec.reset,
    arr := { c.arr with inflight := [], outbuf := [], loader := none, stream := none, monitor := false, ndrift := 0, ndcnt := 0,
                        sws0 := 0, sws1 := 0 },
    tileClean := true, tokens := [], gen := gen, engTrap := none, kept := none, gtol := if sur then l.tolerance.setWidth 64 else 0,
    roleSet := roles, iter := BitVec.ofNat 64 n, guard := [], guardVas := [], surrogate := sur, team := Team.reset, lnches := 0, fadds := 0 }

/-! ### Teams (R247, R248) -/

/-- The engine members that the roles of a team name, each once. -/
def engineMembers (b : Binder) (g : Gang) : List Nat :=
  ((b.roles.map (holderOf g)).filter fun m => decide (256 ≤ m)).eraseDups

/-- The roles that a member holds. -/
def rolesOf (b : Binder) (g : Gang) (m : Nat) : Word :=
  ((List.range b.roles.length).zip b.roles).foldl (fun a r => if holderOf g r.2 = m then a ||| (1 : Word) <<< r.1 else a) 0

/-- The record of an engine member at the start (R247, R248, R409): registers zero, its rank that of the first role it
holds. -/
def engineStart (l : Launch) (id gid : Nat) (g : Gang) (b : Binder) (n gen m : Nat) : Core :=
  let rank := ((b.roles.filter fun r => holderOf g r == m).map fun r => r.rank).headD 0
  { Core.reset with
    user := { Ctx.reset .running with pc := l.rec_.entry }, pts := l.startTs, floor := l.startTs, gen := gen,
    gangSize := BitVec.ofNat 64 l.rec_.gangSize, gangRank := BitVec.ofNat 64 rank, launchId := l.number, roleSet := rolesOf b g m,
    iter := BitVec.ofNat 64 n, reloc := l.reloc, binding := some ⟨id, gid, rank⟩ }

/-- The team of a gang for a new iteration; its engine members join. -/
def State.startTeam (s : State) (gid : Nat) (g : Gang) (l : Launch) (n gen : Nat) : State :=
  match l.binder with
  | none => s
  | some b =>
    let es := engineMembers b g
    let t := g.team.getD s.nextId
    let x : TeamSt := { gang := gid, launch := g.launch, members := g.members ++ es, reached := [], headers := [], arrived := [],
                        enders := [], ts := 0, msgs := [] }
    let s1 := { s with teams := Cells.put s.teams t x, nextId := s.nextId + 1 }
    let s2 := s1.updGang gid fun y => { y with team := some t }
    es.foldl (fun (a : State) m => a.setCore m (engineStart l g.launch gid g b n gen m)) s2

/-- The engine members are in their ordinary service. -/
def State.enginesFree (s : State) (gid : Nat) (g : Gang) (l : Launch) : Bool :=
  match l.binder with
  | none => true
  | some b => (engineMembers b g).all fun m => match (s.core m).binding with
    | some x => x.gang == gid
    | none => true

/-! ### Iterations (R23, R237, R310) -/

/-- The next iteration of a launch: the oldest redo entry first. -/
def Launch.next (l : Launch) : Option (Nat × Bool) :=
  match l.redo[l.redoHanded]? with
  | some n => some (n, true)
  | none => if l.handed < l.total then some (l.handed, false) else none

/-- A gang starts an iteration. -/
def State.startIteration (s : State) (gid : Nat) (g : Gang) (l : Launch) (n : Nat) (redo : Bool) : State :=
  let gen := s.nextId
  let s1 := { s with nextId := gen + 1 }
  let roles (m : Nat) : Word := match l.binder with | some b => rolesOf b g m | none => 0
  let s2 := g.members.foldl (fun (a : State) m => a.updCore m fun c => c.startIteration l n redo gen (roles m)) s1
  let s3 := s2.updGang gid fun y => { y with iter := some n, redoing := redo, arrivals := [], guardAt := [], decision := none, preemptible := false }
  let s4 := s3.updLaunch g.launch fun x =>
    if redo then { x with redoHanded := x.redoHanded + 1 } else { x with handed := x.handed + 1 }
  s4.startTeam gid g l n gen

/-- The gang waits for an iteration: its members are bound, or have all retired, and its engine members are free. -/
def State.waitsForWork (s : State) (gang : Nat) (g : Gang) (l : Launch) : Bool :=
  g.state == .bound && (match g.iter with
    | none => true
    | some _ => g.members.all fun m => (s.core m).retired) && s.enginesFree gang g l

/-- Another gang of the launch was ready before this one, or at the same time and with a lower core of rank 0 (R237). -/
def State.notFirst (s : State) (gang : Nat) (g : Gang) (l : Launch) : Bool :=
  let since (x : Gang) : Nat := x.members.foldl (fun a m => max a (s.core m).readyAt) 0
  s.gangs.any fun x => x.1 != gang && x.2.launch == g.launch && s.waitsForWork x.1 x.2 l &&
    (decide (since x.2 < since g) || (since x.2 == since g && decide (x.2.members.headD 0 < g.members.headD 0)))

/-- ITERATION_START: a gang whose members are bound, or have all retired, takes the next iteration of its launch, the gang that was
ready first before the others; if none is left, it is released, and with the launch's last gang the launch drains (R23, R233,
R237). -/
def execIterationStart (gang : Nat) (s : State) : Host.Outcome State Fault Refusal :=
  .next (match Cells.find? s.gangs gang with
    | none => s
    | some g =>
      match Cells.find? s.launches g.launch with
      | none => s
      | some l =>
        if l.state ≠ .running ∨ s.waitsForWork gang g l = false ∨ s.notFirst gang g l then s
        else
          match l.next with
          | some (n, redo) => s.startIteration gang g l n redo
          | none =>
            let s1 := s.releaseGang gang
            if s1.gangs.any fun x => x.2.launch == g.launch && x.2.state != .released then s1
            else s1.updLaunch g.launch fun x => { x with state := .draining })

end Sys2Proof.Machine
end

