-- ==== Sys2Proof/Machine/Guard.lean ====
section
/-! DEFINITION. Sys2Proof/Machine/Guard.lean: the end of an iteration and of the surrogate phase: `GEND`, `HALT`, `YIELD`, the
gang's decision and the fallback (R93, R94, R243, R297, R307 to R311). -/

namespace Sys2Proof.Machine

/-! ### GEND (R308, R309) -/

/-- The engine has executed every word steered to it. -/
def Engine.idle (x : Engine) : Bool := x.queue.isEmpty && x.outer.isNone && x.pushes.isEmpty

/-- What `GEND` waits for before it arrives (R308). -/
def State.guardBusy (s : State) : Bool :=
  let c := s.cur
  s.memPending || !(c.l.idle && c.c.idle && c.t.idle && c.vec.tupd.isEmpty)
    || s.ops.any fun x => x.2.tok.core == s.agent && x.2.tok.gen == c.gen &&
        (match x.2.kind with | .copy .. => true | .copyl .. => true | _ => false)

/-- The arrival at the gang's decision and the wait for it; then `k` with the decision (R308). -/
def State.guardEnd (s : State) (k : Nat → State → State) : State :=
  match s.gangOf s.agent, s.cur.binding with
  | some g, some b =>
    if s.ctx.stat = .waiting .guardEnd then (match g.decision with | some d => k d s | none => s)
    else if s.guardBusy then s.await .memory
    else (s.updGang b.gang fun y => { y with guardAt := if y.guardAt.contains b.rank then y.guardAt else y.guardAt ++ [b.rank] }).await .guardEnd
  | _, _ => k 0 s

/-- The member is in the surrogate phase or waits for its end. -/
def State.inGuard (s : State) : Bool := s.surrogateNow || (!s.inHusk && s.ctx.stat == .waiting .guardEnd)

/-- GEND: gd is 0 after a commit, 1 after a discard, 2 outside the surrogate phase (R309). -/
def execGend (d : BitVec 5) (pr : BitVec 3) (s : State) : Host.Outcome State Fault Refusal :=
  .next (guarded pr (.gend d pr) (fun s =>
    if s.inGuard then s.guardEnd fun r a => (a.setG d (BitVec.ofNat 64 r)).advance else (s.setG d 2).advance) s)

/-! ### HALT and YIELD -/

/-- HALT: illegal in an open body capture (R11); in the surrogate phase `GEND g0` comes first (R309); the earlier words
complete, and S retires (R93). DESIGN CHOICE: whether that includes posted system-scope stores and bytes in combining buffers
the rule does not say; here it does not (log entry 97). In the Husk context it ends Husk's activity. -/
def execHalt (pr : BitVec 3) (s : State) : Host.Outcome State Fault Refusal :=
  .next (guarded pr (.halt pr) (fun s =>
    let stop (a : State) : State := if a.memPending then a.await .memory else a.retire
    if s.inHusk then s.onCtx fun x => { x with stat := .stopped none }
    else if s.cur.capturing then s.illegal (.halt pr)
    else if s.inGuard then s.guardEnd fun _ a => stop a
    else stop s) s)

/-- A ready launch at the level of the gang's own or above it that only the gang's cores let in (R243). -/
def State.yieldsTo (s : State) (gang : Nat) (g : Gang) : Option Nat :=
  match Cells.find? s.launches g.launch with
  | none => none
  | some l =>
    match Cells.find? s.parts l.part with
    | none => none
    | some p =>
      (List.find? (fun (x : Nat × Launch) => x.2.state == .ready && (s.placeWithout p x.2 []).isNone && (s.placeWithout p x.2 [gang]).isSome)
        ((List.range 4).reverse.flatMap fun v => if l.level ≤ v then s.atLevel l.part v else [])).map fun x => x.1

/-- YIELD: the gang is preempted if ready work waits for its cores, and resumes at the next word (R94, R243). DESIGN CHOICE:
what it does in the Husk context the spec does not say; here it acts on the gang that is bound to the core (log entry 99). -/
def execYield (pr : BitVec 3) (s : State) : Host.Outcome State Fault Refusal :=
  .next (guarded pr (.yield pr) (fun s =>
    match s.gangOf s.agent, s.cur.binding with
    | some g, some b =>
      (match s.yieldsTo b.gang g with
       | some id =>
         let part := (s.partOf s.agent).getD 0
         let s1 := s.advance.preemptGang b.gang
         if s.cur.surrogate then s1
         else (s1.updGang b.gang fun y => { y with gaveWay := true }).updPart part fun p => { p with claim := some id }
       | none => s.advance)
    | _, _ => s.advance) s)

/-! ### The decision (R297, R308) -/

/-- The residual of a member is within its tolerance. -/
def Core.guardOk (c : Core) : Bool :=
  let r := fp32.decode (c.vec.gres.toNat % 2 ^ 32)
  let t := fp32.decode (c.gtol.toNat % 2 ^ 32)
  !r.isNaN && !t.isNaN && !t.lt r

/-- The place that a key of a guard buffer names. -/
def locOfKey (k : Nat) : Loc :=
  if k < 2 ^ 60 then .pkg k
  else if k < 2 ^ 61 then .scratch ((k - 2 ^ 60) / 2 ^ 23) ((k - 2 ^ 60) % 2 ^ 23)
  else if k < 2 ^ 62 then .host (k - 2 ^ 61)
  else .peer ((k - 2 ^ 62) / 2 ^ 57) ((k - 2 ^ 62) % 2 ^ 57)

/-- The shadow records of a member's buffered writes, line by line of the race windows that hold them: those of writes of S (R299,
R300). -/
def State.noteBuffer (s : State) (m : Nat) (t : Word) : State :=
  let w := s.whoAt m .s (s.core m).floor false
  let ks := guardSectors (s.core m).guard
  let ws := ((s.launchOf m).map fun l => l.windows).getD []
  if !(s.core m).raceMode.getLsbD 0 then s
  else
    ((ws.filter fun x => x.flags.extractLsb' 6 2 != 0).flatMap fun x => s.windowLines m x).foldl (fun a x =>
      (List.range 4).foldl (fun (b : State) i =>
        if ks.contains ((x.2.plus (32 * i)).key / 32) then b.noteWrite w (BitVec.ofNat 64 (x.1 + 32 * i)) (x.2.plus (32 * i)) 32 t else b) a) s

/-- The lines that a member's buffer is written to are touched in the shared cache (R278). -/
def State.touchBuffer (s : State) (m : Nat) : State :=
  let w := { s.whoAt m .s (s.core m).floor false with buf := false }
  (s.core m).guardVas.foldl (fun a va =>
    match a.translate m true .write va with
    | .ok l => a.touchFor w (a.classOf w va 0) true l va
    | .error _ => a) s

/-- The commit of the members' buffers at one timestamp (R297). -/
def State.commit (s : State) (members : List Nat) : State :=
  let bytes := members.flatMap fun m => (s.core m).guard
  let t0 := members.foldl (fun a m => wmax a (s.core m).maxPts) 0
  let t := bytes.foldl (fun a x => wmax a ((s.tsAt (locOfKey x.1)).rts + 1)) t0
  let put (a : State) (x : Nat × Byte) : State := (a.putByte (locOfKey x.1) x.2).setTs (locOfKey x.1) ⟨t, t⟩
  let s0 := members.foldl State.touchBuffer s
  let s1 := members.foldl (fun (a : State) m => a.noteBuffer m t) (bytes.foldl put s0)
  members.foldl (fun (a : State) m => a.updCore m fun c => (((c.setPts .s t).setPts .l t).setPts .c t).setPts .t t) s1

/-- GUARD_DECISION: every member has arrived: the buffers are committed or discarded, and the surrogate phase is over; a
failed iteration is queued for redo, after GSTAT is updated (R308, R310, R311). -/
def execGuardDecision (gang : Nat) (s : State) : Host.Outcome State Fault Refusal :=
  .next (match Cells.find? s.gangs gang with
    | none => s
    | some g =>
      if g.decision.isSome ∨ g.guardAt.length < g.members.length then s
      else
        let ok := g.members.all fun m => (s.core m).guardOk
        let s1 := if ok then s.commit g.members else s
        let s2 := g.members.foldl (fun (a : State) m => a.updCore m fun c => { c with guard := [], guardVas := [], surrogate := false }) s1
        let s3 := s2.updGang gang fun y => { y with decision := some (if ok then 0 else 1), guardAt := [] }
        let s4 := s3.updLaunch g.launch fun l => { l with gstat := bumpField l.gstat (if ok then 0 else 16) }
        if ok then s4 else s4.appendRedo (g.members.headD 0) g.launch (g.iter.getD 0))

/-- FALLBACK: the surrogate phase of a core's gang ends for a reason that no word of it gives (R307): a preemption by Husk's own
request, or an uncorrectable error in the core's storage, which is recorded. The other reasons of Table 15.2 act in the turn of
the word that causes them. -/
def execFallback (core : Nat) (cause : BitVec 8) (s : State) : Host.Outcome State Fault Refusal :=
  .next (if !(s.core core).surrogate then s
    else if cause = 0x87 then s.fallback core 0x87
    else
      match (s.core core).errs with
      | x :: _ =>
        if cause = 0x0D then
          s.fallbackTrap core (s.faultRec core 0 0 0 (s.core core).user.pc ⟨0x0D, x.2, x.1.setWidth 64⟩ (s.core core).pts)
        else s
      | [] => s)

end Sys2Proof.Machine
end

