-- ==== Sys2Proof/Machine/Plan.lean ====
section
/-! DEFINITION. Sys2Proof/Machine/Plan.lean: the memory plan and the window table: `PHASE`, `WPIN`, `WUNPIN`, `WOWN` and the steps
that complete them (R270 to R274, R275 to R280). -/

namespace Sys2Proof.Machine

/-! ### PHASE (R274) -/

/-- Another gang is bound to a pod of the gang. -/
def State.sharesPod (s : State) (gang : Nat) (g : Gang) : Bool :=
  s.gangs.any fun x => x.1 != gang && x.2.holds && x.2.members.any fun m => g.members.any fun n => podOf n == podOf m

/-- Every token of a round takes a state. -/
def State.resolveAll (s : State) (ts : List TokRef) (v : Tok) (p : Word) : State :=
  ts.foldl (fun (a : State) t => a.resolveFrom t v 0 0 p) s

/-- A copy of a pod's cache stands in a bank that leaves the role cache. -/
def leavesCache (pod : Nat) (new : Pod) (x : Nat × Copy) : Bool := x.1 % 512 == 256 + pod && new.role x.2.way != 0

/-- The map of a pod after a conversion for a gang. -/
def Pod.converted (p : Pod) (gang : Nat) (banks : BitVec 64) : Pod :=
  { p with banks := banks, changing := some p.banks, movedBy := if banks = Pod.defaultBanks then p.movedBy else some gang }

/-- A pod begins its conversion for a gang: banks that become or leave scratch lose their bytes, and banks that leave cache their lines
(R269, R272). -/
def State.convertPod (s : State) (gang pod : Nat) (banks : BitVec 64) : State :=
  let old := s.pod pod
  let new := old.converted gang banks
  let kept (b : Nat) : Bool := old.role b == 1 && new.role b == 1
  { s.updPod pod fun _ => new with
    copies := s.copies.filter fun x => !leavesCache pod new x,
    scratch := s.scratch.filter fun x => x.1 / 2 ^ 23 != pod || kept (x.1 % 2 ^ 23 / 262144) }

/-- The timestamp of the dirty lines that the banks leaving a pod's cache write back (R272, R274): which of their lines are dirty
is open (log entry 43). -/
def State.writeBackTs (s : State) (banks : BitVec 64) (pod : Nat) : Word :=
  s.copies.foldl (fun a x =>
    if leavesCache pod ((s.pod pod).converted 0 banks) x && Config.choice s.fresh 210 x.1 then wmax a x.2.wts else a) 0

/-- Every member has arrived: the entry is read for the member that arrived last, and the pods convert, or every token fails. An
entry in a bank in transition is read later (R273). DESIGN CHOICE: the read is an access of S of that member, and a race of it in
mode 1 fails the tokens without it (R300, R301, log entry 140). -/
def State.startRound (s : State) (gang : Nat) (g : Gang) (r : Round) : State :=
  let agent := g.members.getD (r.arrived.getLastD 0) 0
  let w := s.whoAt agent .s (s.core agent).floor false
  let va := r.plan + BitVec.ofNat 64 (8 * r.phase)
  let fails (f : Flt) (a : State) : State := (a.updGang gang fun y => { y with round := none }).resolveAll r.toks (.failed f) r.ts
  match s.check w .read va with
  | .stall => s
  | .fault f => fails f (s.noteTlb agent false va)
  | .ok l =>
    let ps := [(l, va.toNat, 8)]
    match s.trapRace w ps with
    | some f => fails f s
    | none =>
    let (s1, v, _) := ((s.logRaces w false ps).touchAll w 0 false ps).readAt [] (s.leaseOf agent) r.ts l 8
    if (List.range 32).any fun b => v / 4 ^ b % 4 == 3 then fails illegalTok s1
    else
      let pods := (g.members.map podOf).eraseDups
      let ts := pods.foldl (fun a p => wmax a (s1.writeBackTs (BitVec.ofNat 64 v) p)) r.ts
      let s2 := pods.foldl (fun a p => a.convertPod gang p (BitVec.ofNat 64 v)) s1
      s2.updGang gang fun y => { y with phaseNo := r.phase, round := some { r with converting := true, ts := ts } }

/-- PHASE: a member arrives once a round; while the gang's banks convert, or the member has arrived already, it waits. -/
def phaseOp (w : InstrWord) (k : BitVec 6) (a b : BitVec 5) (ids : List (BitVec 6)) (s : State) : State :=
  if s.surrogateNow then s.fallback s.agent 0x86
  else
    s.aOp k ids (illegalIf w ((s.g a).toNat % 128 != 0 || decide ((s.g b).toNat > 15))) fun s1 =>
      match s1.gangOf s1.agent, s1.cur.binding with
      | some g, some x =>
        let bad := s1.illegalWord w s1.aAddr
        if s1.sharesPod x.gang g then bad
        else if s1.memPending || s1.sysPending || !s1.cur.comb.isEmpty then (s1.sendAllCombs s1.agent).await .memory
        else
          let r := g.round.getD { plan := s1.g a, phase := (s1.g b).toNat, arrived := [], ts := 0, toks := [], converting := false }
          if r.converting || r.arrived.contains x.rank then s1.await .memory
          else if r.plan ≠ s1.g a ∨ r.phase ≠ (s1.g b).toNat then bad
          else
            let r1 := { r with arrived := r.arrived ++ [x.rank], ts := wmax r.ts s1.pts, toks := r.toks ++ [s1.tokRef k] }
            let s2 := ((s1.updGang x.gang fun y => { y with round := some r1 }).setTok k .pending).advance
            if r1.arrived.length = g.members.length then s2.startRound x.gang g r1 else s2
      | _, _ => s1

def execPhase (k : BitVec 6) (a b : BitVec 5) (n : BitVec 2) (s : State) : Host.Outcome State Fault Refusal :=
  .next (aWord (.phase k a b n) n (phaseOp (wordOf (.phase k a b n)) k a b) s)

/-- A pod has a FIFO bank that leaves its role. -/
def Pod.leavesFifo (p : Pod) : Bool :=
  match p.changing with
  | some old => (List.range 32).any fun b => old.toNat / 4 ^ b % 4 == 2 && p.role b != 2
  | none => false

/-- BANK_DRAIN_COMPLETE: the pods of a gang finish their conversion; a bank leaves FIFO only when it holds no hand-over message
and no guard buffer (R272, R274). Where the round's entry has not been read, it is read first. -/
def execBankDrainComplete (gang : Nat) (s : State) : Host.Outcome State Fault Refusal :=
  .next (match Cells.find? s.gangs gang with
    | none => s
    | some g =>
      match g.round with
      | none => s
      | some r =>
        let pods := (g.members.map podOf).eraseDups
        let msgs := match g.team.bind fun t => Cells.find? s.teams t with
          | some t => !t.msgs.isEmpty
          | none => false
        let buffers := g.members.any fun m => (s.core m).surrogate
        if !r.converting then (if r.arrived.length = g.members.length then s.startRound gang g r else s)
        else if (msgs || buffers) && pods.any fun p => (s.pod p).leavesFifo then s
        else
          let s1 := pods.foldl (fun (a : State) p => a.updPod p fun x => { x with changing := none }) s
          (s1.updGang gang fun y => { y with round := none }).resolveAll r.toks (.done r.ts) r.ts)

/-! ### WPIN, WUNPIN, WOWN (R280) -/

/-- A window word: the index, the second operand's check, the operation. -/
def windowOp (w : InstrWord) (which : Nat) (k : BitVec 6) (a b : BitVec 5) (ids : List (BitVec 6)) (s : State) : State :=
  let v := (s.g b).toNat
  let bad := if which = 2 then decide (v ≥ 2 ^ 20) || v / 256 % 16 != 0 || decide (v / 4096 % 16 > 6) else b != 0 && v % 8 != 0
  if s.surrogateNow then s.fallback s.agent 0x86
  else
    s.aOp k ids (illegalIf w (decide ((s.g a).toNat > 63) || bad)) fun s1 =>
      s1.startOp (.window which (s1.g a) (if which = 2 ∨ b ≠ 0 then some (s1.g b) else none)) k

def wpinOp (w : InstrWord) (k : BitVec 6) (a b : BitVec 5) (ids : List (BitVec 6)) (s : State) : State := windowOp w 0 k a b ids s

def execWpin (k : BitVec 6) (a b : BitVec 5) (n : BitVec 2) (s : State) : Host.Outcome State Fault Refusal :=
  .next (aWord (.wpin k a b n) n (wpinOp (wordOf (.wpin k a b n)) k a b) s)

def wunpinOp (w : InstrWord) (k : BitVec 6) (a b : BitVec 5) (ids : List (BitVec 6)) (s : State) : State := windowOp w 1 k a b ids s

def execWunpin (k : BitVec 6) (a b : BitVec 5) (n : BitVec 2) (s : State) : Host.Outcome State Fault Refusal :=
  .next (aWord (.wunpin k a b n) n (wunpinOp (wordOf (.wunpin k a b n)) k a b) s)

def wownOp (w : InstrWord) (k : BitVec 6) (a b : BitVec 5) (ids : List (BitVec 6)) (s : State) : State := windowOp w 2 k a b ids s

def execWown (k : BitVec 6) (a b : BitVec 5) (n : BitVec 2) (s : State) : Host.Outcome State Fault Refusal :=
  .next (aWord (.wown k a b n) n (wownOp (wordOf (.wown k a b n)) k a b) s)

/-- The slices and sets in which lines of package memory are pinned, but for some lines. -/
def State.pinnedSets (s : State) (except : List Nat) : List Nat :=
  (s.attrs.filter fun x => !x.2.pins.isEmpty && !except.contains x.1).map fun x => 2048 * x.2.home + x.2.set

/-- The lines of a window of a table in package memory, with the homes that the table gives them and their sets (R276). -/
def State.windowHomes (s : State) (agent : Nat) (ws : List Win) (w : Win) : List (Nat × Nat × Nat) :=
  ((s.windowLines agent w).filterMap fun x =>
    match x.2 with
    | .pkg a => some (a / 128, homeIn ((windowIn x.1 0 ws).map fun y => y.2) x.1, hashLine x.1)
    | _ => none).eraseDups

/-- The agent's partition owns a slice (R381). -/
def State.ownsSlice (s : State) (agent home : Nat) : Bool :=
  match (s.partOf agent).bind fun i => Cells.find? s.parts i with
  | some p => p.slices.getLsbD home
  | none => false

/-- Pinning some more lines keeps every set at 12 pinned lines or fewer (R279). -/
def setsOk : List Nat → List Nat → Bool
  | _, [] => true
  | have_, x :: r => decide ((have_.filter fun y => y == x).length < 12) && setsOk (x :: have_) r

/-- Every line of a window of a table is pinned in its home; `none` if a set would hold too many (R276, R279), or the partition does
not own the slice of a home (R381). DESIGN CHOICE: what becomes of such a pin in a window without a home set (log entry 130). -/
def State.pinWindow (s : State) (agent : Nat) (ws : List Win) (w : Win) (by_ : PinBy) (sh : Word → Option Nat) : Option State :=
  let new := s.windowHomes agent ws w
  if (new.all fun x => s.ownsSlice agent x.2.1) && setsOk (s.pinnedSets (new.map fun x => x.1)) (new.map fun x => 2048 * x.2.1 + x.2.2) then
    some (s.pinLines agent ws w by_ sh)
  else none

/-- The launch's window `i` becomes `w`. -/
def State.setWindow (s : State) (launch i : Nat) (w : Win) : State :=
  s.updLaunch launch fun l => { l with windows := l.windows.set i w }

/-- The effect of WPIN for an operation: the status and the state (R280). -/
def State.pinWord (s : State) (o : AOp) (i : Nat) (l : Launch) (w : Win) : State × Nat :=
  let size := w.limit - w.base
  if !w.flags.getLsbD 0 then (s, 4)
  else if w.flags.getLsbD 1 then (s, 3)
  else if l.pinLim.toNat < l.pinUse.toNat + size.toNat then (s, 1)
  else
    match s.pinWindow o.tok.core l.windows w (.launch o.launch i) (s.shadowHome o.who) with
    | none => (s, 2)
    | some s1 =>
      ((s1.setWindow o.launch i { w with flags := w.flags ||| 2, pinnedBy := 2 }).updLaunch o.launch fun x =>
        { x with pinUse := x.pinUse + size }, 0)

/-- The effect of WUNPIN. -/
def State.unpinWord (s : State) (o : AOp) (i : Nat) (w : Win) : State × Nat :=
  if !w.flags.getLsbD 0 then (s, 4)
  else if !w.flags.getLsbD 1 || w.pinnedBy != 2 then (s, 3)
  else
    (((s.unpinBy (.launch o.launch i) (some (w.flags.extractLsb' 4 2))).setWindow o.launch i
        { w with flags := w.flags &&& ~~~(2 : BitVec 8), pinnedBy := 0 }).updLaunch o.launch fun x =>
      { x with pinUse := x.pinUse - (w.limit - w.base) }, 0)

/-- What the status store of a window word comes to. -/
inductive StatusOut where
  | stored (s : State) (ts : Word)
  | failed (f : Flt)
  /-- It meets a bank in transition (R273). -/
  | later

/-- The status store of WPIN or WUNPIN: a synchronising write of S's class, checked when it performs (R277, R280). DESIGN CHOICE: a race
of it in mode 1 fails the token like its other checks, without the store (R301, log entry 140). -/
def State.storeStatus (s : State) (o : AOp) (va : Word) (st : Nat) : StatusOut :=
  let w : Who := { o.who with engine := false, cls := 1, sync := true, buf := false }
  match s.check w .write va with
  | .fault f => .failed f
  | .stall => .later
  | .ok l =>
    match s.trapRace w [(l, va.toNat, 8)] with
    | some f => .failed f
    | none =>
    if l.isSystem then .stored (s.writeSys l (bytesOf 8 st)) o.base
    else
      let s1 := (s.logRaces w true [(l, va.toNat, 8)]).touchAll w 0 true [(l, va.toNat, 8)]
      let (s2, t) := s1.writeAt [] false o.base l 8 st
      .stored (s2.noteWrite w va l 8 t) t

/-- Another window word of the launch comes first: one of the same core that was issued before, or one that waits with its status
store (R280). -/
def State.windowBehind (s : State) (op : Nat) (o : AOp) : Bool :=
  s.ops.any fun x => x.1 != op && x.2.launch == o.launch && (match x.2.kind with | .window .. => true | _ => false) &&
    (!x.2.done.isEmpty || (decide (x.1 < op) && x.2.tok.core == o.tok.core))

/-- The status of a performed WPIN or WUNPIN is stored, if an address is given, and its token resolves; where the store has to
wait, the word keeps its status. -/
def State.endWindow (s : State) (op : Nat) (o : AOp) (arg : Option Word) (st : Nat) : State :=
  match arg with
  | none => s.endOp op o (.done o.base)
  | some va =>
    match s.storeStatus o va st with
    | .failed f => s.endOp op o (.failed f)
    | .stored s1 t => s1.endOp op o (.done (wmax o.base t))
    | .later => s.updOp op fun y => { y with done := [st] }

/-- WINDOW_WORD_PERFORM: a window word of a launch is performed. -/
def execWindowWordPerform (op : Nat) (s : State) : Host.Outcome State Fault Refusal :=
  .next (match Cells.find? s.ops op with
    | none => s
    | some o =>
      match o.kind, Cells.find? s.launches o.launch with
      | .window which ix arg, some l =>
        let w := l.windows.getD ix.toNat Win.empty
        (if s.windowBehind op o then s
         else if which = 2 then
           let v := (arg.getD 0).toNat
           let old := (w.owner.getD (v / 65536) 0).toNat
           if !w.flags.getLsbD 0 || (old / 4096 != 0 && old % 256 != o.rank) then s.endOp op o (.failed (windowFlt w.base ix.toNat))
           else
             (s.setWindow o.launch ix.toNat { w with owner := w.owner.set (v / 65536) (BitVec.ofNat 16 v) }).endOp op o (.done o.base)
         else
           match o.done with
           | st :: _ => s.endWindow op o arg st
           | [] =>
             let (s1, st) := if which = 0 then s.pinWord o ix.toNat l w else s.unpinWord o ix.toNat w
             s1.endWindow op o arg st)
      | _, _ => s)

end Sys2Proof.Machine
end

