-- ==== Sys2Proof/Machine/Scalar.lean ====
section
/-! DEFINITION. Sys2Proof/Machine/Scalar.lean: the meanings of the S words that compute, test, branch, set up the engines,
move pips and tokens, reach system registers and trap (spec/04), and of the X prefixes (R59). -/

namespace Sys2Proof.Machine

/-- A result in gd, and the next word (R72). -/
def State.result (s : State) (d : BitVec 5) (v : Word) : State := (s.setG d v).advance

/-- A result in a predicate, and the next word (R78). -/
def State.resultP (s : State) (d : BitVec 3) (v : Bool) : State := (s.setP d v).advance

/-! ### Integer arithmetic (R75, R76) -/

/-- ADD. -/
def execAdd (d a b : BitVec 5) (pr : BitVec 3) (s : State) : Host.Outcome State Fault Refusal :=
  .next (guarded pr (.add d a b pr) (fun s => s.result d (s.g a + s.g b)) s)

/-- SUB. -/
def execSub (d a b : BitVec 5) (pr : BitVec 3) (s : State) : Host.Outcome State Fault Refusal :=
  .next (guarded pr (.sub d a b pr) (fun s => s.result d (s.g a - s.g b)) s)

/-- AND. -/
def execAnd (d a b : BitVec 5) (pr : BitVec 3) (s : State) : Host.Outcome State Fault Refusal :=
  .next (guarded pr (.and d a b pr) (fun s => s.result d (s.g a &&& s.g b)) s)

/-- OR. -/
def execOr (d a b : BitVec 5) (pr : BitVec 3) (s : State) : Host.Outcome State Fault Refusal :=
  .next (guarded pr (.or d a b pr) (fun s => s.result d (s.g a ||| s.g b)) s)

/-- XOR. -/
def execXor (d a b : BitVec 5) (pr : BitVec 3) (s : State) : Host.Outcome State Fault Refusal :=
  .next (guarded pr (.xor d a b pr) (fun s => s.result d (s.g a ^^^ s.g b)) s)

/-- SLL. -/
def execSll (d a b : BitVec 5) (pr : BitVec 3) (s : State) : Host.Outcome State Fault Refusal :=
  .next (guarded pr (.sll d a b pr) (fun s => s.result d (s.g a <<< ((s.g b).toNat % 64))) s)

/-- SRL. -/
def execSrl (d a b : BitVec 5) (pr : BitVec 3) (s : State) : Host.Outcome State Fault Refusal :=
  .next (guarded pr (.srl d a b pr) (fun s => s.result d (s.g a >>> ((s.g b).toNat % 64))) s)

/-- SRA. -/
def execSra (d a b : BitVec 5) (pr : BitVec 3) (s : State) : Host.Outcome State Fault Refusal :=
  .next (guarded pr (.sra d a b pr) (fun s => s.result d ((s.g a).sshiftRight ((s.g b).toNat % 64))) s)

/-- MUL. -/
def execMul (d a b : BitVec 5) (pr : BitVec 3) (s : State) : Host.Outcome State Fault Refusal :=
  .next (guarded pr (.mul d a b pr) (fun s => s.result d (s.g a * s.g b)) s)

/-- MULH. -/
def execMulh (d a b : BitVec 5) (pr : BitVec 3) (s : State) : Host.Outcome State Fault Refusal :=
  .next (guarded pr (.mulh d a b pr) (fun s => s.result d (mulHighS (s.g a) (s.g b))) s)

/-- MULHZ. -/
def execMulhz (d a b : BitVec 5) (pr : BitVec 3) (s : State) : Host.Outcome State Fault Refusal :=
  .next (guarded pr (.mulhz d a b pr) (fun s => s.result d (mulHighU (s.g a) (s.g b))) s)

/-- DIV. -/
def execDiv (d a b : BitVec 5) (pr : BitVec 3) (s : State) : Host.Outcome State Fault Refusal :=
  .next (guarded pr (.div d a b pr) (fun s => s.result d (divS (s.g a) (s.g b))) s)

/-- DIVZ. -/
def execDivz (d a b : BitVec 5) (pr : BitVec 3) (s : State) : Host.Outcome State Fault Refusal :=
  .next (guarded pr (.divz d a b pr) (fun s => s.result d (divU (s.g a) (s.g b))) s)

/-- REM. -/
def execRem (d a b : BitVec 5) (pr : BitVec 3) (s : State) : Host.Outcome State Fault Refusal :=
  .next (guarded pr (.rem d a b pr) (fun s => s.result d (remS (s.g a) (s.g b))) s)

/-- REMZ. -/
def execRemz (d a b : BitVec 5) (pr : BitVec 3) (s : State) : Host.Outcome State Fault Refusal :=
  .next (guarded pr (.remz d a b pr) (fun s => s.result d (remU (s.g a) (s.g b))) s)

/-- MIN. -/
def execMin (d a b : BitVec 5) (pr : BitVec 3) (s : State) : Host.Outcome State Fault Refusal :=
  .next (guarded pr (.min d a b pr) (fun s => s.result d (minS (s.g a) (s.g b))) s)

/-- MAX. -/
def execMax (d a b : BitVec 5) (pr : BitVec 3) (s : State) : Host.Outcome State Fault Refusal :=
  .next (guarded pr (.max d a b pr) (fun s => s.result d (maxS (s.g a) (s.g b))) s)

/-- MINZ. -/
def execMinz (d a b : BitVec 5) (pr : BitVec 3) (s : State) : Host.Outcome State Fault Refusal :=
  .next (guarded pr (.minz d a b pr) (fun s => s.result d (minU (s.g a) (s.g b))) s)

/-- MAXZ. -/
def execMaxz (d a b : BitVec 5) (pr : BitVec 3) (s : State) : Host.Outcome State Fault Refusal :=
  .next (guarded pr (.maxz d a b pr) (fun s => s.result d (maxU (s.g a) (s.g b))) s)

/-- SLT. -/
def execSlt (d a b : BitVec 5) (pr : BitVec 3) (s : State) : Host.Outcome State Fault Refusal :=
  .next (guarded pr (.slt d a b pr) (fun s => s.result d (ofBool ((s.g a).slt (s.g b)))) s)

/-- SLTZ. -/
def execSltz (d a b : BitVec 5) (pr : BitVec 3) (s : State) : Host.Outcome State Fault Refusal :=
  .next (guarded pr (.sltz d a b pr) (fun s => s.result d (ofBool ((s.g a).ult (s.g b)))) s)

/-- SEQ. -/
def execSeq (d a b : BitVec 5) (pr : BitVec 3) (s : State) : Host.Outcome State Fault Refusal :=
  .next (guarded pr (.seq d a b pr) (fun s => s.result d (ofBool (s.g a == s.g b))) s)

/-- ADDSH. -/
def execAddsh (d a b : BitVec 5) (pr : BitVec 3) (s : State) : Host.Outcome State Fault Refusal :=
  .next (guarded pr (.addsh d a b pr) (fun s => s.result d (s.g a + s.g b <<< 3)) s)

/-- CLZ. -/
def execClz (d a : BitVec 5) (pr : BitVec 3) (s : State) : Host.Outcome State Fault Refusal :=
  .next (guarded pr (.clz d a pr) (fun s => s.result d (BitVec.ofNat 64 (leadingZeros (s.g a).toNat 64))) s)

/-- POPC. -/
def execPopc (d a : BitVec 5) (pr : BitVec 3) (s : State) : Host.Outcome State Fault Refusal :=
  .next (guarded pr (.popc d a pr) (fun s => s.result d (BitVec.ofNat 64 (oneBits (s.g a).toNat 64))) s)

/-! ### Immediate forms (R77) -/

/-- ADDI. -/
def execAddi (d a : BitVec 5) (i : BitVec 13) (s : State) : Host.Outcome State Fault Refusal :=
  .next (sWord true (.addi d a i) (fun s => s.result d (s.g a + s.ctx.imm i)) s)

/-- ANDI. -/
def execAndi (d a : BitVec 5) (i : BitVec 13) (s : State) : Host.Outcome State Fault Refusal :=
  .next (sWord true (.andi d a i) (fun s => s.result d (s.g a &&& s.ctx.imm i)) s)

/-- ORI. -/
def execOri (d a : BitVec 5) (i : BitVec 13) (s : State) : Host.Outcome State Fault Refusal :=
  .next (sWord true (.ori d a i) (fun s => s.result d (s.g a ||| s.ctx.imm i)) s)

/-- XORI. -/
def execXori (d a : BitVec 5) (i : BitVec 13) (s : State) : Host.Outcome State Fault Refusal :=
  .next (sWord true (.xori d a i) (fun s => s.result d (s.g a ^^^ s.ctx.imm i)) s)

/-- SLTI. -/
def execSlti (d a : BitVec 5) (i : BitVec 13) (s : State) : Host.Outcome State Fault Refusal :=
  .next (sWord true (.slti d a i) (fun s => s.result d (ofBool ((s.g a).slt (s.ctx.imm i)))) s)

/-- SLLI: an amount outside 0 to 63 is illegal. -/
def execSlli (d a : BitVec 5) (i : BitVec 13) (s : State) : Host.Outcome State Fault Refusal :=
  .next (sWord true (.slli d a i) (fun s =>
    let n := (s.ctx.imm i).toNat
    if n < 64 then s.result d (s.g a <<< n) else s.illegal (.slli d a i)) s)

/-- SRLI: an amount outside 0 to 63 is illegal. -/
def execSrli (d a : BitVec 5) (i : BitVec 13) (s : State) : Host.Outcome State Fault Refusal :=
  .next (sWord true (.srli d a i) (fun s =>
    let n := (s.ctx.imm i).toNat
    if n < 64 then s.result d (s.g a >>> n) else s.illegal (.srli d a i)) s)

/-- SRAI: an amount outside 0 to 63 is illegal. -/
def execSrai (d a : BitVec 5) (i : BitVec 13) (s : State) : Host.Outcome State Fault Refusal :=
  .next (sWord true (.srai d a i) (fun s =>
    let n := (s.ctx.imm i).toNat
    if n < 64 then s.result d ((s.g a).sshiftRight n) else s.illegal (.srai d a i)) s)

/-- MOVI. -/
def execMovi (d : BitVec 5) (i : BitVec 13) (s : State) : Host.Outcome State Fault Refusal :=
  .next (sWord true (.movi d i) (fun s => s.result d (s.ctx.imm i)) s)

/-! ### Predicates (R78, R79) -/

/-- PSET.EQ. -/
def execPsetEq (d : BitVec 3) (a b : BitVec 5) (pr : BitVec 3) (s : State) : Host.Outcome State Fault Refusal :=
  .next (guarded pr (.psetEq d a b pr) (fun s => s.resultP d (s.g a == s.g b)) s)

/-- PSET.NE. -/
def execPsetNe (d : BitVec 3) (a b : BitVec 5) (pr : BitVec 3) (s : State) : Host.Outcome State Fault Refusal :=
  .next (guarded pr (.psetNe d a b pr) (fun s => s.resultP d (s.g a != s.g b)) s)

/-- PSET.LT. -/
def execPsetLt (d : BitVec 3) (a b : BitVec 5) (pr : BitVec 3) (s : State) : Host.Outcome State Fault Refusal :=
  .next (guarded pr (.psetLt d a b pr) (fun s => s.resultP d ((s.g a).slt (s.g b))) s)

/-- PSET.GE. -/
def execPsetGe (d : BitVec 3) (a b : BitVec 5) (pr : BitVec 3) (s : State) : Host.Outcome State Fault Refusal :=
  .next (guarded pr (.psetGe d a b pr) (fun s => s.resultP d (!(s.g a).slt (s.g b))) s)

/-- PSET.LTZ. -/
def execPsetLtz (d : BitVec 3) (a b : BitVec 5) (pr : BitVec 3) (s : State) : Host.Outcome State Fault Refusal :=
  .next (guarded pr (.psetLtz d a b pr) (fun s => s.resultP d ((s.g a).ult (s.g b))) s)

/-- PSET.GEZ. -/
def execPsetGez (d : BitVec 3) (a b : BitVec 5) (pr : BitVec 3) (s : State) : Host.Outcome State Fault Refusal :=
  .next (guarded pr (.psetGez d a b pr) (fun s => s.resultP d (!(s.g a).ult (s.g b))) s)

/-- PSET.TSTAT: the six flags of the entry are 0; the read waits for C (R89). -/
def execPsetTstat (d : BitVec 3) (t : BitVec 4) (pr : BitVec 3) (s : State) : Host.Outcome State Fault Refusal :=
  .next (guarded pr (.psetTstat d t pr) (fun s =>
    if s.cur.cIdle then s.resultP d ((s.cur.readC (0x030 + t.toNat)).toNat % 64 == 0) else s.await .cside) s)

/-- PAND. -/
def execPand (d a b pr : BitVec 3) (s : State) : Host.Outcome State Fault Refusal :=
  .next (guarded pr (.pand d a b pr) (fun s => s.resultP d (s.p a && s.p b)) s)

/-- POR. -/
def execPor (d a b pr : BitVec 3) (s : State) : Host.Outcome State Fault Refusal :=
  .next (guarded pr (.por d a b pr) (fun s => s.resultP d (s.p a || s.p b)) s)

/-- PXOR. -/
def execPxor (d a b pr : BitVec 3) (s : State) : Host.Outcome State Fault Refusal :=
  .next (guarded pr (.pxor d a b pr) (fun s => s.resultP d (s.p a != s.p b)) s)

/-- PNOT. -/
def execPnot (d a pr : BitVec 3) (s : State) : Host.Outcome State Fault Refusal :=
  .next (guarded pr (.pnot d a pr) (fun s => s.resultP d (!s.p a)) s)

/-! ### Branches (R80, R81) -/

/-- The branch is taken: without a predicate always, else when the predicate differs from neg (R80). -/
def State.taken (s : State) (pr : BitVec 3) (n : BitVec 1) : Bool := pr == 0 || (s.p pr != (n == 1))

/-- The target: the word's own address plus four times the offset, which an EXT extends (R80). -/
def State.target (s : State) (o : BitVec 19) : Word := s.pc + 4 * s.ctx.imm o

/-- BR. -/
def execBr (pr : BitVec 3) (n : BitVec 1) (o : BitVec 19) (s : State) : Host.Outcome State Fault Refusal :=
  .next (sWord true (.br pr n o) (fun s => if s.taken pr n then s.branch (s.target o) else s.advance) s)

/-- CALL: links g31. -/
def execCall (pr : BitVec 3) (n : BitVec 1) (o : BitVec 19) (s : State) : Host.Outcome State Fault Refusal :=
  .next (sWord true (.call pr n o) (fun s =>
    if s.taken pr n then (s.setG 31 (s.pc + 4)).branch (s.target o) else s.advance) s)

/-- JMPR: the target is read before the link is written. -/
def execJmpr (d a : BitVec 5) (pr : BitVec 3) (s : State) : Host.Outcome State Fault Refusal :=
  .next (guarded pr (.jmpr d a pr) (fun s =>
    if (s.g a).toNat % 4 = 0 then (s.setG d (s.pc + 4)).branch (s.g a) else s.illegal (.jmpr d a pr)) s)

/-! ### Setting up the engines (R82, R83) -/

/-- MOVA. -/
def execMova (i : BitVec 4) (a : BitVec 5) (e : BitVec 2) (pr : BitVec 3) (s : State) : Host.Outcome State Fault Refusal :=
  .next (guarded pr (.mova i a e pr) (fun s => s.queueWrite (engOfNum e) (.regA i) (s.g a) (.mova i a e pr)) s)

/-- MOVAR: the value is relocated. -/
def execMovar (i : BitVec 4) (a : BitVec 5) (r : BitVec 3) (e : BitVec 2) (pr : BitVec 3) (s : State) :
    Host.Outcome State Fault Refusal :=
  .next (guarded pr (.movar i a r e pr) (fun s =>
    s.queueWrite (engOfNum e) (.regA i) (Cells.get 0 s.cur.reloc r.toNat + s.g a) (.movar i a r e pr)) s)

/-- MOVL. -/
def execMovl (l : BitVec 1) (a : BitVec 5) (e : BitVec 2) (pr : BitVec 3) (s : State) : Host.Outcome State Fault Refusal :=
  .next (guarded pr (.movl l a e pr) (fun s => s.queueWrite (engOfNum e) (.regLc l) (s.g a) (.movl l a e pr)) s)

/-- MSEL. -/
def execMsel (m pr : BitVec 3) (s : State) : Host.Outcome State Fault Refusal :=
  .next (guarded pr (.msel m pr) (fun s => s.queueWrite .c (.msel m) 0 (.msel m pr)) s)

/-! ### Pips (R84, R85) -/

/-- PIPPUSH: waits until every earlier access of S has performed, a posted or combined system-scope store too, and for room. -/
def execPippush (c : BitVec 5) (pr : BitVec 3) (s : State) : Host.Outcome State Fault Refusal :=
  .next (guarded pr (.pippush c pr) (fun s =>
    if s.memPending || s.sysPending || !s.cur.comb.isEmpty then (s.sendAllCombs s.agent).await .memory
    else if s.cur.pipRoom c.toNat then (s.onCore fun x => x.pushPip c.toNat s.pts).advance
    else s.await (.pipPush c.toNat)) s)

/-- PIPPOP: PTS rises to the pip's timestamp. -/
def execPippop (c : BitVec 5) (pr : BitVec 3) (s : State) : Host.Outcome State Fault Refusal :=
  .next (guarded pr (.pippop c pr) (fun s =>
    match s.cur.pip c.toNat with
    | [] => s.await (.pipPop c.toNat)
    | ts :: _ => ((s.onCore fun x => x.popPip c.toNat).raisePts ts).advance) s)

/-! ### Tokens (R86 to R88) -/

/-- TWAIT. -/
def execTwait (k : BitVec 6) (pr : BitVec 3) (s : State) : Host.Outcome State Fault Refusal :=
  .next (guarded pr (.twait k pr) (fun s =>
    match s.consume [k] with
    | .ok s1 => s1.advance
    | .error s1 => s1) s)

/-- TTEST. -/
def execTtest (d : BitVec 3) (k : BitVec 6) (pr : BitVec 3) (s : State) : Host.Outcome State Fault Refusal :=
  .next (guarded pr (.ttest d k pr) (fun s => s.resultP d (s.cur.tok k != .pending)) s)

/-- TFREE. -/
def execTfree (k : BitVec 6) (pr : BitVec 3) (s : State) : Host.Outcome State Fault Refusal :=
  .next (guarded pr (.tfree k pr) (fun s =>
    match s.cur.tok k with
    | .pending => s.await (.token k)
    | _ => (s.setTok k .free).advance) s)

/-! ### System registers (R18, R89) -/

/-- SRD: a C-side register is read when C is idle, and reading NDRIFT clears it. -/
def execSrd (d : BitVec 5) (x : BitVec 13) (s : State) : Host.Outcome State Fault Refusal :=
  .next (sWord false (.srd d x) (fun s =>
    if x = 0x0A0 ∧ !s.inHusk then s.priv (.srd d x)
    else if isCSide x.toNat then
      if s.cur.cIdle then
        let v := s.cur.readC x.toNat
        (if x = 0x040 then s.onArr fun r => { r with ndrift := 0 } else s).result d v
      else s.await .cside
    else s.result d (s.readS x.toNat)) s)

/-- SWR: a C-side register is written through C's queue. -/
def execSwr (a : BitVec 5) (x : BitVec 13) (s : State) : Host.Outcome State Fault Refusal :=
  .next (sWord false (.swr a x) (fun s =>
    match accessOf x.toNat with
    | .unassigned => s.illegal (.swr a x)
    | .readOnly => s.illegal (.swr a x)
    | .huskOnly => if s.inHusk then (s.writeS x.toNat (s.g a)).advance else s.priv (.swr a x)
    | .any =>
      if isCSide x.toNat then s.queueWrite .c (.sysreg x) (s.g a) (.swr a x) else (s.writeS x.toNat (s.g a)).advance) s)

/-! ### Husk issue control (R95) -/

/-- A word of Husk takes effect at the next fetch-pair boundary: at once after the second word of a pair, after that word when
it is the first one (R95). -/
def State.atPairEnd (s : State) (x : HuskAct) : State :=
  if s.pc.getLsbD 2 then s.advance.onCore fun c => c.endPair.act x
  else (s.onCore fun c => { c with pairAct := some (x, s.pc + 4) }).advance

/-- SHARE: the register becomes min(ga, 256). -/
def execShare (a : BitVec 5) (pr : BitVec 3) (s : State) : Host.Outcome State Fault Refusal :=
  .next (guarded pr (.share a pr) (fun s =>
    if s.inHusk then s.atPairEnd (.share (minU (s.g a) 256)) else s.priv (.share a pr)) s)

/-- HYIELD: Husk issues nothing until its next event. -/
def execHyield (pr : BitVec 3) (s : State) : Host.Outcome State Fault Refusal :=
  .next (guarded pr (.hyield pr) (fun s =>
    if s.inHusk then s.atPairEnd .yield else s.priv (.hyield pr)) s)

/-! ### Traps and control (R90 to R94) -/

/-- TRAP: `SWTRAP` with ga + I as its detail. -/
def execTrap (a : BitVec 5) (i : BitVec 13) (s : State) : Host.Outcome State Fault Refusal :=
  .next (sWord true (.trap a i) (fun s => s.takeTrap ⟨0x12, 0, s.g a + s.ctx.imm i⟩ s.pc) s)

/-- BRK: `BRK` with the word as its detail. -/
def execBrk (c : BitVec 10) (pr : BitVec 3) (s : State) : Host.Outcome State Fault Refusal :=
  .next (guarded pr (.brk c pr) (fun s => s.takeTrap ⟨0x13, 0, (wordOf (.brk c pr)).setWidth 64⟩ s.pc) s)

/-- UDF: `ILLEGAL`, whatever its guard field holds. -/
def execUdf (x : BitVec 23) (s : State) : Host.Outcome State Fault Refusal :=
  .next (sWord false (.udf x) (fun s => s.illegal (.udf x)) s)

/-- ERET. DESIGN CHOICE: the spec does not say what it does in the Husk context; here it acts there as in the user context, on the
HandlerState of the core (log entry 98). -/
def execEret (a : BitVec 5) (pr : BitVec 3) (s : State) : Host.Outcome State Fault Refusal :=
  .next (guarded pr (.eret a pr) (fun s =>
    if !s.cur.handler then s.illegal (.eret a pr)
    else if (s.g a).toNat % 4 ≠ 0 then s.illegal (.eret a pr)
    else s.returnFrom (s.g a)) s)

/-! ### Prefixes (R59) -/

/-- A prefix is latched with its address, for S or for the engine whose queue holds it; a second one is illegal. DESIGN
CHOICE: of two prefixes before one word the spec does not say which fails; here it is the first one, with its address and
word (log entry 95). -/
def latch (mk : Word → Prefix) (s : State) : State :=
  match s.who with
  | .s | .husk =>
    match s.ctx.pend with
    | some p => s.illegalWord p.word p.at_
    | none =>
      match s.ctx.pfx.word with
      | some (w', a) => s.illegalWord w' a
      | none => s.onCtx fun x => { x with pc := x.pc + 4, pfx := mk x.pc, stat := .running }
  | q =>
    let e := engOf q
    s.onEng e fun x => x.latch (mk ((x.entry.map fun y => y.at_).getD 0))

/-- X.EXT. -/
def execXExt (p : BitVec 27) (s : State) : Host.Outcome State Fault Refusal :=
  .next (latch (fun a => .ext p a) s)

/-- X.FMTX. -/
def execXFmtx (i o : BitVec 4) (t n : BitVec 1) (b : BitVec 8) (s : State) : Host.Outcome State Fault Refusal :=
  .next (latch (fun a => .fmtx i o t n b a) s)

end Sys2Proof.Machine
end

