-- ==== Sys2Proof/Machine/Objects.lean ====
section
/-! DEFINITION. Sys2Proof/Machine/Objects.lean: replayed objects: the words `RCALL`, `RQRY`, `RTRIM`, the object's home and the
replay engines (R315 to R326, R409). -/

namespace Sys2Proof.Machine

/-! ### Records -/

/-- An object record (Table 15.6). -/
structure ObjRec where
  replica : List Nat
  methods : Nat
  log : Nat
  capacity : Nat
  count : Nat
  size : Nat
  tail : Nat
  applied : List Nat
  trimmed : Nat
  failed : Bool

def parseObject (v : Nat) : Option ObjRec :=
  let reps := (List.range 4).map fun d => fieldAt v (8 * d) 8
  let size := fieldAt v 52 4
  let cap := fieldAt v 48 1
  if reps.any (fun r => r % 4096 != 0) ∨ fieldAt v 32 8 % 64 ≠ 0 ∨ fieldAt v 40 8 % 4096 ≠ 0 ∨ cap < 6 ∨ cap > 16 ∨ fieldAt v 49 1 = 0
      ∨ fieldAt v 49 1 > 32 ∨ fieldAt v 50 2 ≥ 4096 ∨ size = 0 ∨ size % 128 ≠ 0 ∨ size > 65536 ∨ fieldAt v 56 8 ≠ 0
      ∨ fieldAt v 112 1 > 1 ∨ fieldAt v 113 15 ≠ 0 then none
  else some { replica := reps, methods := fieldAt v 32 8, log := fieldAt v 40 8, capacity := 2 ^ cap, count := fieldAt v 49 1, size := size,
              tail := fieldAt v 64 8, applied := (List.range 4).map fun d => fieldAt v (72 + 8 * d) 8, trimmed := fieldAt v 104 8,
              failed := fieldAt v 112 1 == 1 }

/-- A method (R316): entry, read-only, arguments, results. -/
structure Method where
  entry : Word
  ro : Bool
  args : Nat
  results : Nat

def parseMethod (v : Nat) : Option Method :=
  if fieldAt v 0 8 % 4 ≠ 0 ∨ fieldAt v 8 1 > 1 ∨ fieldAt v 9 1 > 6 ∨ fieldAt v 10 1 > 2 ∨ fieldAt v 11 5 ≠ 0 then none
  else some ⟨BitVec.ofNat 64 (fieldAt v 0 8), fieldAt v 8 1 == 1, fieldAt v 9 1, fieldAt v 10 1⟩

/-- The agent whose translation an object's home and engines use: one of its partition. -/
def State.objAgent (s : State) (x : Obj) : Nat := ((Cells.find? s.parts x.part).map Part.agent).getD 0

/-- The value of `n` bytes at an address of an object's partition, as the home or an engine reads it. -/
def State.objRead (s : State) (x : Obj) (va : Nat) (n : Nat) : Except Flt Nat :=
  match s.translate (s.objAgent x) true .read (BitVec.ofNat 64 va) with
  | .error f => .error f
  | .ok l => (match s.eccAt l (BitVec.ofNat 64 va) with | some f => .error f | none => .ok (s.natAt l n))

/-- The window table of the slot that holds an object. -/
def State.objWindows (s : State) (x : Obj) : List Win :=
  ((Cells.find? s.slots (64 * x.part + x.slot)).map fun y => y.windows).getD []

/-- The home set of the replica window in which `n` bytes lie, if they lie in one (R276, R315). -/
def replicaSet (ws : List Win) (va n : Nat) : List Nat :=
  match windowIn va 0 ws with
  | some (_, w) => if w.flags.getLsbD 3 && decide (va + n ≤ w.limit.toNat) then homeSet w.slices w.dies else []
  | none => []

/-- The record and the log lie in replica windows of one home slice, and replica d in one homed on die d (R315). -/
def ObjRec.placed (r : ObjRec) (record : Nat) (ws : List Win) : Bool :=
  (replicaSet ws record 128).length == 1 && replicaSet ws r.log (64 * r.capacity) == replicaSet ws record 128
    && ((List.range 4).zip r.replica).all fun y =>
      let h := replicaSet ws y.2 r.size
      !h.isEmpty && h.all fun i => i / 32 == y.1

/-- The device's write of an object's record or log is refused: a window is stream-read-only (R277). -/
def State.objRefused (s : State) (x : Obj) (va : Nat) : Option Flt :=
  match windowIn va 0 (s.objWindows x) with
  | some (i, w) => if w.flags.getLsbD 2 then some (windowFlt (BitVec.ofNat 64 va) i) else none
  | none => none

/-- The lines of `n` bytes that the home or an engine accesses are touched in the shared cache (R276, R278). -/
def State.objTouch (s : State) (x : Obj) (va n : Nat) (dirty : Bool) : State :=
  (partsOf 128 (n / 128 + 2) va n).foldl (fun a y =>
    match s.translate (s.objAgent x) true .read (BitVec.ofNat 64 y.1) with
    | .ok l => a.touchIn (s.objWindows x) l (BitVec.ofNat 64 y.1) dirty
    | .error _ => a) s

/-- A write of Husk, the home or an engine with a base timestamp: the state and its wts (R284). -/
def State.objWrite (s : State) (x : Obj) (base : Word) (va n v : Nat) : State × Word :=
  match s.translate (s.objAgent x) true .write (BitVec.ofNat 64 va) with
  | .error _ => (s, base)
  | .ok l => (s.objTouch x va n true).writeAt [] false base l n v

/-- The record of an object, if its fields and its place are valid (R315). -/
def State.objRecord (s : State) (x : Obj) : Option ObjRec :=
  match s.objRead x x.record.toNat 128 with
  | .ok v => (parseObject v).bind fun r => if r.placed x.record.toNat (s.objWindows x) then some r else none
  | .error _ => none

def State.objMethod (s : State) (x : Obj) (r : ObjRec) (m : Nat) : Option Method :=
  if m ≥ r.count then none
  else match s.objRead x (r.methods + 16 * m) 16 with
    | .ok v => parseMethod v
    | .error _ => none

/-- The bytes have an uncorrectable error (R326). -/
def State.objBroken (s : State) (x : Obj) (va n : Nat) : Bool :=
  match s.objRead x va n with
  | .error f => f.cause == 0x0D
  | .ok _ => false

/-- The record has an uncorrectable error, or the entry of a method in the method table (R326). -/
def State.recordBroken (s : State) (x : Obj) : Bool := s.objBroken x x.record.toNat 128

def State.methodBroken (s : State) (x : Obj) (r : ObjRec) (m : Nat) : Bool := decide (m < r.count) && s.objBroken x (r.methods + 16 * m) 16

/-! ### RCALL, RQRY, RTRIM (R318, R323, R324) -/

/-- RCALL or RQRY: the arguments are read at issue. -/
def callOp (w : InstrWord) (query : Bool) (k : BitVec 6) (a b c : BitVec 5) (ids : List (BitVec 6)) (s : State) : State :=
  if s.surrogateNow then s.fallback s.agent 0x83
  else
    s.aOp k ids (illegalIf w ((s.g a).toNat % 128 != 0 || (s.g b).toNat % 64 != 0 || decide ((s.g c).toNat > 31))) fun s1 =>
      if s1.memPending || s1.sysPending || !s1.cur.comb.isEmpty then (s1.sendAllCombs s1.agent).await .memory
      else
        let va := (s1.g b).toNat
        let who := s1.whoS false
        match s1.checkAll who .read [(va, 32), (va + 32, 16)] with
        | .error none => s1.await .memory
        | .error (some f) => (s1.noteWalks who [va, va + 32]).takeTrap f s1.aAddr
        | .ok ps =>
          match s1.trapRace who ps with
          | some f => s1.takeTrap f s1.aAddr
          | none =>
            let (s2, v) := ((s1.logRaces who false ps).touchAll who 0 false ps).loadParts who false ps
            s2.startOp (.call (s1.g a) (s1.g c) (s1.g b) query ((List.range 6).map fun i => BitVec.ofNat 64 (fieldAt v (8 * i) 8))) k

def rcallOp (w : InstrWord) (k : BitVec 6) (a b c : BitVec 5) (ids : List (BitVec 6)) (s : State) : State := callOp w false k a b c ids s

def execRcall (k : BitVec 6) (a b c : BitVec 5) (n : BitVec 2) (s : State) : Host.Outcome State Fault Refusal :=
  .next (aWord (.rcall k a b c n) n (rcallOp (wordOf (.rcall k a b c n)) k a b c) s)

def rqryOp (w : InstrWord) (k : BitVec 6) (a b c : BitVec 5) (ids : List (BitVec 6)) (s : State) : State := callOp w true k a b c ids s

def execRqry (k : BitVec 6) (a b c : BitVec 5) (n : BitVec 2) (s : State) : Host.Outcome State Fault Refusal :=
  .next (aWord (.rqry k a b c n) n (rqryOp (wordOf (.rqry k a b c n)) k a b c) s)

/-- RTRIM. -/
def rtrimOp (w : InstrWord) (k : BitVec 6) (a : BitVec 5) (ids : List (BitVec 6)) (s : State) : State :=
  if s.surrogateNow then s.fallback s.agent 0x83
  else s.aOp k ids (illegalIf w ((s.g a).toNat % 128 != 0)) fun s1 => s1.startOp (.trim (s1.g a)) k

def execRtrim (k : BitVec 6) (a : BitVec 5) (n : BitVec 2) (s : State) : Host.Outcome State Fault Refusal :=
  .next (aWord (.rtrim k a n) n (rtrimOp (wordOf (.rtrim k a n)) k a) s)

/-! ### The home (R318, R319, R324) -/

/-- An operation fails. -/
def State.failCall (s : State) (op : Nat) (f : Flt) : State :=
  match Cells.find? s.ops op with
  | some o => s.endOp op o (.failed f)
  | none => s

/-- The calls and queries of an object that have been answered and whose result blocks have not performed. -/
def State.answering (s : State) (x : Obj) : List Nat :=
  (s.ops.filter fun y => !y.2.done.isEmpty && (match y.2.kind with | .call a .. => a == x.record | _ => false)
    && ((Cells.find? s.launches y.2.launch).map fun l => l.part) == some x.part).map fun y => y.1

/-- `REPLICA` on an object (R325): its calls and queries fail, also those whose results are still to be stored, its engines stop, Husk
gets a record. One of a replay engine names the core 64 d (R407). -/
def State.failObject (s : State) (id : Nat) (x : Obj) (source agent entry : Nat) : State :=
  let f (i : Nat) : Flt := ⟨0x0E, x.record, BitVec.ofNat 64 i⟩
  let tail := ((s.objRecord x).map fun r => r.tail).getD entry
  let s1 := if (s.objRefused x (x.record.toNat + 112)).isSome then s
    else (s.objWrite x (s.die (dieOf agent)).replayTs (x.record.toNat + 112) 1 1).1
  let s2 := x.held.foldl (fun (a : State) o => a.failCall o (f tail)) s1
  let s3 := x.queries.foldl (fun (a : State) q => a.failCall q.1 (f q.2)) s2
  let s4 := (s.answering x).foldl (fun (a : State) o => a.failCall o (f tail))
    (x.logged.foldl (fun (a : State) c => a.failCall c.2 (f c.1)) s3)
  let s5 := s4.updObj id fun y => { y with held := [], queries := [], logged := [], dead := true }
  let r := s5.deviceRec source (f entry) (s.die (dieOf agent)).replayTs
  s5.recordFault x.part (if source = 5 then { r with core := nameOf agent } else r)

/-- The home logs a call as entry `tail` (R317, R318). DESIGN CHOICE: where a window refuses its writes the call fails with
`WINDOW` (log entry 115). An entry with an uncorrectable error stops the object (R326). -/
def State.logCall (s : State) (id : Nat) (x : Obj) (r : ObjRec) (op : Nat) (o : AOp) (m : Nat) (args : List Word) (n : Nat) : State :=
  let arg (i : Nat) : Nat := if i < n then (args.getD i 0).toNat else 0
  let entry := r.tail + 2 ^ 64 * m + 2 ^ 72 + 2 ^ 80 * nameOf o.tok.core
    + (List.range 6).foldl (fun a i => a + arg i * 2 ^ (128 + 64 * i)) 0
  let at_ := r.log + 64 * (r.tail % r.capacity)
  match s.objRefused x (x.record.toNat + 64), s.objRefused x at_ with
  | some f, _ => s.failCall op f
  | none, some f => s.failCall op f
  | none, none =>
    if s.objBroken x at_ 64 then (s.failObject id x 8 (s.objAgent x) r.tail).failCall op ⟨0x0E, x.record, BitVec.ofNat 64 r.tail⟩
    else
    let (s1, t1) := s.objWrite x o.base (x.record.toNat + 64) 8 (r.tail + 1)
    let (s2, t2) := s1.objWrite x o.base at_ 64 entry
    (s2.updObj id fun y =>
      { y with logged := Cells.put y.logged r.tail op, entryTs := Cells.put y.entryTs r.tail t2 }).updOp op fun z =>
        { z with stat := .running, maxTs := wmax t1 t2 }

/-- A trim check: trimmed := the smallest applied count (R324); the answer has the wts of the write. -/
def State.trimCheck (s : State) (x : Obj) (base : Word) : State × Word :=
  match s.objRecord x, s.objRefused x (x.record.toNat + 104) with
  | some r, none => s.objWrite x base (x.record.toNat + 104) 8 (r.applied.foldl min (r.applied.headD 0))
  | _, _ => (s, base)

/-- Held calls take free entries in the order in which they came (R319). -/
def State.admitHeld (id : Nat) : Nat → State → State
  | 0, s => s
  | fuel + 1, s =>
    match Cells.find? s.objs id with
    | none => s
    | some x =>
      match x.held, s.objRecord x with
      | op :: rest, some r =>
        if r.tail - r.trimmed ≥ r.capacity then s
        else
          let s1 := s.updObj id fun y => { y with held := rest }
          State.admitHeld id fuel (match Cells.find? s.ops op with
            | some o =>
              (match o.kind with
               | .call _ m _ _ vals =>
                 if s.methodBroken x r m.toNat then s.failObject id x 8 (s.objAgent x) r.tail
                 else
                 (match s.objMethod x r m.toNat with
                  | some md => s1.logCall id { x with held := rest } r op o m.toNat vals md.args
                  | none => s1.failCall op illegalTok)
               | _ => s1)
            | none => s1)
      | _, _ => s

/-- The object that a call of a partition names (R318). -/
def State.objectAt (s : State) (part : Nat) (va : Word) : Option (Nat × Obj) :=
  List.find? (fun (y : Nat × Obj) => y.2.part == part && y.2.record == va) s.objs

/-- An operation meets an uncorrectable error of the record or of its method's entry: `REPLICA`, for the object too if it has not
stopped yet (R325, R326). -/
def State.brokenCall (s : State) (op id : Nat) (x : Obj) (entry : Nat) : State :=
  (if x.dead then s else s.failObject id x 8 (s.objAgent x) entry).failCall op ⟨0x0E, x.record, BitVec.ofNat 64 entry⟩

/-- A call, query or trim at the home of its object. DEDUCED: RTRIM checks the record, of which the status is no part, so that it trims
also on an object that has failed (log entry 142). -/
def State.takeCall (s : State) (op : Nat) (o : AOp) (id : Nat) (x : Obj) (r : ObjRec) : State :=
  match o.kind with
  | .trim _ =>
    (match s.objRefused x (x.record.toNat + 104) with
     | some f => s.endOp op o (.failed f)
     | none =>
       let (s1, t) := s.trimCheck x o.base
       (s1.endOp op o (.done t)).admitHeld id x.held.length)
  | .call _ m _ query vals =>
    (match s.objMethod x r m.toNat with
     | none =>
       if s.methodBroken x r m.toNat then s.brokenCall op id x r.tail
       else s.endOp op o (.failed illegalTok)
     | some md =>
       if query && !md.ro then s.endOp op o (.failed illegalTok)
       else if r.failed || x.dead then s.endOp op o (.failed ⟨0x0E, x.record, BitVec.ofNat 64 r.tail⟩)
       else if query then
         (s.updObj id fun y => { y with queries := y.queries ++ [(op, r.tail)] }).updOp op fun z => { z with stat := .running }
       else if r.tail - r.trimmed < r.capacity ∧ x.held = [] then s.logCall id x r op o m.toNat vals md.args
       else
         let s1 := ((s.trimCheck x o.base).1.updObj id fun y => { y with held := y.held ++ [op] }).updOp op fun z => { z with stat := .running }
         s1.admitHeld id (x.held.length + 1))
  | _ => s

/-- The result block of an answered call is stored, and its token is done (R318, R409); where a bank in transition keeps the store
waiting, the operation keeps the answer in `done`: die, status and results (R273). A block in system space is sent, and `done`
names the die alone until it has performed. DESIGN CHOICE: a race of it in mode 1 fails the token like its other checks (R301, log
entry 140). -/
def State.storeAnswer (s : State) (op : Nat) (o : AOp) (die status : Nat) (r0 r1 : Word) : State :=
  let va : Word := match o.kind with | .call _ _ b _ _ => b | _ => 0
  let w : Who := { o.who with engine := false, cls := 1, sync := true, buf := false }
  let v := status + 2 ^ 64 * r0.toNat + 2 ^ 128 * r1.toNat
  let base := (s.die die).replayTs
  match s.check w .write va with
  | .fault f => s.endOp op o (.failed f)
  | .stall => s.updOp op fun y => { y with done := [die, status, r0.toNat, r1.toNat] }
  | .ok l =>
    match s.trapRace w [(l, va.toNat, 24)] with
    | some f => s.endOp op o (.failed f)
    | none =>
    if l.isSystem then (s.sendStore o.tok.core (.op op) l (bytesOf 24 v)).updOp op fun y => { y with done := [die], maxTs := base }
    else
      let s1 := (s.logRaces w true [(l, va.toNat, 24)]).touchAll w 0 true [(l, va.toNat, 24)]
      let (s2, t) := s1.writeAt [] false base l 24 v
      (s2.noteWrite w va l 24 t).endOp op o (.done t)

/-- An answered call goes on: its store, or, once a block that was sent has performed, its token. -/
def State.goAnswer (s : State) (op : Nat) (o : AOp) : State :=
  match o.done with
  | [_] => if s.sys.any fun y => match y.2 with | .store _ (.op i) .. => i == op | _ => false then s else s.endOp op o (.done o.maxTs)
  | [die, status, r0, r1] => s.storeAnswer op o die status (BitVec.ofNat 64 r0) (BitVec.ofNat 64 r1)
  | _ => s

/-- OBJECT_CALL_LOG: a call, query or trim reaches the object's home; those of one core arrive in the order of issue. For a call
that has been answered, its result block is stored. -/
def execObjectCallLog (op : Nat) (s : State) : Host.Outcome State Fault Refusal :=
  .next (match Cells.find? s.ops op with
    | none => s
    | some o =>
      let target (y : AOp) : Option Word := match y.kind with
        | .call a _ _ _ _ => some a
        | .trim a => some a
        | _ => none
      let before := s.ops.any fun y => decide (y.1 < op) && y.2.tok.core == o.tok.core && y.2.stat == .queued && target y.2 == target o
      match target o, (Cells.find? s.launches o.launch).map fun l => l.part with
      | some va, some part =>
        if o.stat ≠ .queued then s.goAnswer op o
        else if before then s
        else
          (match s.objectAt part va with
           | none => s.endOp op o (.failed illegalTok)
           | some (id, x) =>
             if s.recordBroken x then s.brokenCall op id x 0
             else
               match s.objRecord x with
               | none => s.endOp op o (.failed illegalTok)
               | some r => (s.objTouch x x.record.toNat 128 false).takeCall op o id x r)
      | _, _ => s)

/-- HELD_CALL_TIMEOUT: a held call has outlived the wait timeout of its launch (R319, R410). -/
def execHeldCallTimeout (op : Nat) (s : State) : Host.Outcome State Fault Refusal :=
  .next (match List.find? (fun (y : Nat × Obj) => y.2.held.contains op) s.objs, Cells.find? s.ops op with
    | some (id, x), some o =>
      let m := match o.kind with | .call _ m _ _ _ => m | _ => 0
      (s.updObj id fun y => { y with held := y.held.filter fun i => i != op }).endOp op o (.failed ⟨0x0C, x.record, m⟩)
    | _, _ => s)

/-! ### Methods (R320 to R322) -/

/-- The agent as which a method runs: none of the machine's, so that its traps go nowhere. Its context, the buffer of its
writes, its base timestamp and the largest one of its loads (in `huskPts`) stand in the record of that agent. -/
def methodAgent : Nat := 1024

/-- What a method runs on: the object, its slot's window table, its partition's agent, the replica and its size, read-only. -/
structure Replica where
  obj : Obj
  windows : List Win
  agent : Nat
  base : Nat
  size : Nat
  ro : Bool

def Replica.inside (m : Replica) (va n : Nat) : Bool := decide (m.base ≤ va ∧ va + n ≤ m.base + m.size)

/-- A load of a method: inside the replica; bytes of the buffer come first. -/
def methodLoad (m : Replica) (n : Nat) (signed align acq : Bool) (d a : BitVec 5) (i : BitVec 10) (s : State) : State :=
  let va := s.ea a i n
  if align && va.toNat % n != 0 then s.takeTrap ⟨0x03, va, 0⟩ s.pc
  else if !m.inside va.toNat n then s.takeTrap (windowFlt va 64) s.pc
  else
    let part (r : Except Flt (State × Nat × Nat)) (x : Nat × Nat) : Except Flt (State × Nat × Nat) :=
      match r with
      | .error f => .error f
      | .ok (b, v, w) =>
        match b.translate m.agent true .read (BitVec.ofNat 64 x.1) with
        | .error f => .error f
        | .ok l =>
          match b.eccAt l (BitVec.ofNat 64 x.1) with
          | some f => .error f
          | none =>
            let (b1, u, t) := (b.touchIn m.windows l (BitVec.ofNat 64 x.1) false).readAt [] (b.leaseOf m.agent) b.pts l x.2
            .ok (b1.onCore fun c => { c with huskPts := wmax c.huskPts t }, v + 256 ^ w * guardMerge s.cur.guard l x.2 u, w + x.2)
    match (partsOf 8 n va.toNat n).foldl part (.ok (s, 0, 0)) with
    | .error f => s.takeTrap f s.pc
    | .ok (s1, v, _) =>
      let s2 := s1.setG d (if signed then sextTo (8 * n) (BitVec.ofNat 64 v) else BitVec.ofNat 64 v)
      (if acq then s2.setFloor else s2).advance

/-- A window refuses a store of a method: it is stream-read-only, or another class than the replay engine's owns it (R277, R407). An
engine that applies entries acts for no gang; the phase is that of a launch's start. -/
def Replica.refused (m : Replica) (va : Nat) : Option Flt :=
  match windowIn va 0 m.windows with
  | some (i, w) =>
    let c := (w.owner.getD 0 0).toNat / 4096
    if w.flags.getLsbD 2 || !(c == 0 || c == 6) then some (windowFlt (BitVec.ofNat 64 va) i) else none
  | none => none

/-- A store of a method goes to its buffer; a line with an uncorrectable error stops the object (R326). -/
def methodStore (m : Replica) (n : Nat) (align : Bool) (g a : BitVec 5) (i : BitVec 10) (s : State) : State :=
  let va := s.ea a i n
  if align && va.toNat % n != 0 then s.takeTrap ⟨0x03, va, 0⟩ s.pc
  else if m.ro || !m.inside va.toNat n then s.takeTrap (windowFlt va 64) s.pc
  else
    let part (r : Except Flt (State × Nat)) (x : Nat × Nat) : Except Flt (State × Nat) :=
      match r with
      | .error f => .error f
      | .ok (b, v) =>
        match b.translate m.agent true .write (BitVec.ofNat 64 x.1), m.refused x.1 with
        | .error f, _ => .error f
        | .ok _, some f => .error f
        | .ok l, none =>
          match b.eccAt l (BitVec.ofNat 64 x.1) with
          | some f => .error f
          | none => .ok (b.onCore fun c => { c with guard := guardPut c.guard l x.2 v }, v / 256 ^ x.2)
    match (partsOf 8 n va.toNat n).foldl part (.ok (s, (s.g g).toNat)) with
    | .error f => s.takeTrap f s.pc
    | .ok (s1, _) => s1.advance

/-- The next state of a word that always has one. -/
def nextOf (o : Host.Outcome State Fault Refusal) (s : State) : State :=
  match o with
  | .next t => t
  | _ => s

/-- A word of a method (R321): the permitted words, and `ILLEGAL` for every other one. -/
def methodWord (m : Replica) (i : Instr) (s : State) : State :=
  match i with
  | .ld8 d a _ x => sWord true i (methodLoad m 1 false false false d a x) s
  | .ld16 d a _ x => sWord true i (methodLoad m 2 false false false d a x) s
  | .ld32 d a _ x => sWord true i (methodLoad m 4 false false false d a x) s
  | .ld64 d a _ x => sWord true i (methodLoad m 8 false false false d a x) s
  | .lds8 d a _ x => sWord true i (methodLoad m 1 true false false d a x) s
  | .lds16 d a _ x => sWord true i (methodLoad m 2 true false false d a x) s
  | .lds32 d a _ x => sWord true i (methodLoad m 4 true false false d a x) s
  | .st8 g a _ x => sWord true i (methodStore m 1 false g a x) s
  | .st16 g a _ x => sWord true i (methodStore m 2 false g a x) s
  | .st32 g a _ x => sWord true i (methodStore m 4 false g a x) s
  | .st64 g a _ x => sWord true i (methodStore m 8 false g a x) s
  | .ldaq d a z y x => if y = 1 then s.illegal i else sWord true i (methodLoad m (saSize z) false true true d a x) s
  | .strl g a z y x => if y = 1 then s.illegal i else sWord true i (methodStore m (saSize z) true g a x) s
  | .halt pr => guarded pr i (fun b => b.onCtx fun x => { x with stat := .retired x.pc }) s
  | .add d a b pr => nextOf (execAdd d a b pr s) s
  | .sub d a b pr => nextOf (execSub d a b pr s) s
  | .and d a b pr => nextOf (execAnd d a b pr s) s
  | .or d a b pr => nextOf (execOr d a b pr s) s
  | .xor d a b pr => nextOf (execXor d a b pr s) s
  | .sll d a b pr => nextOf (execSll d a b pr s) s
  | .srl d a b pr => nextOf (execSrl d a b pr s) s
  | .sra d a b pr => nextOf (execSra d a b pr s) s
  | .mul d a b pr => nextOf (execMul d a b pr s) s
  | .mulh d a b pr => nextOf (execMulh d a b pr s) s
  | .mulhz d a b pr => nextOf (execMulhz d a b pr s) s
  | .div d a b pr => nextOf (execDiv d a b pr s) s
  | .divz d a b pr => nextOf (execDivz d a b pr s) s
  | .rem d a b pr => nextOf (execRem d a b pr s) s
  | .remz d a b pr => nextOf (execRemz d a b pr s) s
  | .min d a b pr => nextOf (execMin d a b pr s) s
  | .max d a b pr => nextOf (execMax d a b pr s) s
  | .minz d a b pr => nextOf (execMinz d a b pr s) s
  | .maxz d a b pr => nextOf (execMaxz d a b pr s) s
  | .slt d a b pr => nextOf (execSlt d a b pr s) s
  | .sltz d a b pr => nextOf (execSltz d a b pr s) s
  | .seq d a b pr => nextOf (execSeq d a b pr s) s
  | .addsh d a b pr => nextOf (execAddsh d a b pr s) s
  | .clz d a pr => nextOf (execClz d a pr s) s
  | .popc d a pr => nextOf (execPopc d a pr s) s
  | .addi d a i => nextOf (execAddi d a i s) s
  | .andi d a i => nextOf (execAndi d a i s) s
  | .ori d a i => nextOf (execOri d a i s) s
  | .xori d a i => nextOf (execXori d a i s) s
  | .slti d a i => nextOf (execSlti d a i s) s
  | .slli d a i => nextOf (execSlli d a i s) s
  | .srli d a i => nextOf (execSrli d a i s) s
  | .srai d a i => nextOf (execSrai d a i s) s
  | .movi d i => nextOf (execMovi d i s) s
  | .psetEq d a b pr => nextOf (execPsetEq d a b pr s) s
  | .psetNe d a b pr => nextOf (execPsetNe d a b pr s) s
  | .psetLt d a b pr => nextOf (execPsetLt d a b pr s) s
  | .psetGe d a b pr => nextOf (execPsetGe d a b pr s) s
  | .psetLtz d a b pr => nextOf (execPsetLtz d a b pr s) s
  | .psetGez d a b pr => nextOf (execPsetGez d a b pr s) s
  | .psetTstat d t pr => nextOf (execPsetTstat d t pr s) s
  | .pand d a b pr => nextOf (execPand d a b pr s) s
  | .por d a b pr => nextOf (execPor d a b pr s) s
  | .pxor d a b pr => nextOf (execPxor d a b pr s) s
  | .pnot d a pr => nextOf (execPnot d a pr s) s
  | .br pr n o => nextOf (execBr pr n o s) s
  | .call pr n o => nextOf (execCall pr n o s) s
  | .jmpr d a pr => nextOf (execJmpr d a pr s) s
  | .trap a i => nextOf (execTrap a i s) s
  | .brk c pr => nextOf (execBrk c pr s) s
  | .udf x => nextOf (execUdf x s) s
  | .eret a pr => nextOf (execEret a pr s) s
  | .xExt p => nextOf (execXExt p s) s
  | _ => s.illegal i

/-- One word of a method. -/
def methodStep (m : Replica) (s : State) : State :=
  match s.translate m.agent true .fetch s.pc with
  | .error f => s.takeTrap f s.pc
  | .ok l =>
    match s.eccAt l s.pc with
    | some f => s.takeTrap f s.pc
    | none =>
      let w := BitVec.ofNat 32 (s.natAt l 4)
      match decodeWord w with
      | .ok (.word i) => methodWord m i s
      | _ => s.illegalWord w s.pc

/-- Words of a method until it halts or traps; none left is `WAITTO` (R321). The answer is the cause, 0 after `HALT`. -/
def runWords (m : Replica) : Nat → State → State × Nat
  | 0, s => (s, 0x0C)
  | n + 1, s =>
    let s1 := methodStep m s
    match s1.ctx.stat with
    | .retired _ => (s1, 0)
    | .trapped _ => (s1, s1.cur.trap.cause.toNat % 256)
    | _ => runWords m n s1

/-- What a method comes to: status, two results, the written sectors of the replica in increasing offset order. -/
structure Ran where
  state : State
  status : Nat
  r0 : Word
  r1 : Word
  sectors : List (Nat × Nat)

/-- A method run on the replica of a die (R320, R322, R409): at `HALT` its writes perform; after a trap nothing is left. -/
def State.runMethod (s : State) (x : Obj) (r : ObjRec) (md : Method) (die : Nat) (ro : Bool) (args : List Word) : Ran :=
  let m : Replica := ⟨x, s.objWindows x, s.objAgent x, r.replica.getD die 0, r.size, ro⟩
  let base := (s.die die).replayTs
  let g := ((List.range 6).zip args).foldl (fun (a : Cells Word) y => if y.1 < md.args then Cells.set 0 a (2 + y.1) y.2 else a)
    (Cells.set 0 [] 1 (BitVec.ofNat 64 m.base))
  let c : Core := { Core.reset with user := { Ctx.reset .running with g := g, pc := md.entry }, pts := base, huskPts := base }
  let (t, cause) := runWords m 1048576 { s with cores := Cells.put s.cores methodAgent c, turn := .seq methodAgent .s }
  let e := t.core methodAgent
  let t1 : State := { t with cores := s.cores, turn := s.turn }
  let up (a : State) (ts : Word) : State := a.updDie die fun d => { d with replayTs := wmax d.replayTs ts }
  if cause ≠ 0 then ⟨up t1 e.huskPts, cause, 0, 0, []⟩
  else
    let secs := guardSectors e.guard
    let offs := (List.range (r.size / 32)).filterMap fun i =>
      match t1.translate m.agent true .write (BitVec.ofNat 64 (m.base + 32 * i)) with
      | .ok l => if secs.contains (l.key / 32) then some (32 * i, l) else none
      | .error _ => none
    let put (a : State × Word × List (Nat × Nat)) (y : Nat × Loc) : State × Word × List (Nat × Nat) :=
      let v := guardMerge e.guard y.2 32 (a.1.natAt y.2 32)
      let (b, w) := (a.1.touchIn m.windows y.2 (BitVec.ofNat 64 (m.base + y.1)) true).writeAt [] false base y.2 32 v
      (b, wmax a.2.1 w, a.2.2 ++ [(y.1, v)])
    let (t2, ts, ws) := offs.foldl put (t1, e.huskPts, [])
    ⟨up t2 ts, 0, if md.results ≥ 1 then e.user.getG 8 else 0, if md.results ≥ 2 then e.user.getG 9 else 0, ws⟩

/-- A call is answered with what its method came to (R318). -/
def State.answer (s : State) (op die : Nat) (y : Ran) : State :=
  match Cells.find? s.ops op with
  | none => s
  | some o => s.storeAnswer op o die y.status y.r0 y.r1

/-- The replay engine of a die executes a run of a team (R247). -/
def State.engineInRun (s : State) (die : Nat) : Bool :=
  let c := s.core (288 + die)
  c.binding.isSome && c.team.inBody c.user.pc

/-- The bytes that an engine feeds to its CRC for an entry (R325). -/
def crcBytes (s : Nat) (y : Ran) : List Byte :=
  bytesOf 8 s ++ bytesOf 8 y.status ++ bytesOf 8 y.r0.toNat ++ bytesOf 8 y.r1.toNat
    ++ y.sectors.flatMap fun z => bytesOf 4 z.1 ++ bytesOf 32 z.2

/-- An entry has been applied on a die (R320, R324, R325). -/
def State.applied (s : State) (die id : Nat) (x : Obj) (n : Nat) (y : Ran) : State :=
  let base := (s.die die).replayTs
  let (s1, _) := s.objWrite x base (x.record.toNat + 72 + 8 * die) 8 (n + 1)
  let fed := Cells.get [] x.fed die ++ crcBytes n y
  let last := n % 64 == 63
  let s2 := s1.updObj id fun z =>
    { z with
      fed := Cells.set [] z.fed die (if last then [] else fed),
      posted := if last then Cells.set [] z.posted die (Cells.get [] z.posted die ++ [(n, crc32c fed)]) else z.posted }
  let s3 := match Cells.find? x.logged n with
    | some op =>
      if ((Cells.find? s2.ops op).map fun (o : AOp) => dieOf o.tok.core) == some die then
        (s2.answer op die y).updObj id fun z => { z with logged := Cells.del z.logged n }
      else s2
    | none => s2
  match s3.objRecord x with
  | some r =>
    if last && r.applied.all fun a => decide (n < a) then State.admitHeld id x.held.length (s3.trimCheck x base).1 else s3
  | none => s3

/-- The engine of a die has an entry of the object to apply (R320). -/
def State.canApply (s : State) (die : Nat) (x : Obj) : Bool :=
  !x.dead && (s.recordBroken x || (match s.objRecord x with
    | some r => !r.failed && decide (r.applied.getD die 0 < r.tail) && (s.objRefused x (x.record.toNat + 72 + 8 * die)).isNone
    | none => false))

/-- The object whose turn it is at a die's engine: the next after the one served last (R320). -/
def State.nextObject (s : State) (die : Nat) : Option Nat :=
  let l := (s.objs.filter fun (x : Nat × Obj) => s.canApply die x.2).map fun x => x.1
  match l.find? fun i => decide ((s.die die).served < i) with
  | some i => some i
  | none => l.head?

/-- REPLAY_APPLY_ENTRY: the engine of a die applies the next entry of the object whose turn it is (R320). -/
def execReplayApplyEntry (die obj : Nat) (s : State) : Host.Outcome State Fault Refusal :=
  .next (match Cells.find? s.objs obj with
    | none => s
    | some x =>
      if die ≥ 4 ∨ s.engineInRun die ∨ s.nextObject die ≠ some obj then s
      else
        match s.objRecord x with
        | none => s.failObject obj x 5 (288 + die) 0
        | some r =>
          let n := r.applied.getD die 0
          match s.objRead x (r.log + 64 * (n % r.capacity)) 64 with
          | .error _ => s.failObject obj x 5 (288 + die) n
          | .ok e =>
            let s1 := ((s.objTouch x x.record.toNat 128 false).objTouch x (r.log + 64 * (n % r.capacity)) 64 false).updDie die fun d => { d with replayTs := wmax d.replayTs (Cells.get 0 x.entryTs n), served := obj }
            match s1.objMethod x r (fieldAt e 8 1) with
            | none => s1.failObject obj x 5 (288 + die) n
            | some md =>
              let y := s1.runMethod x r md die md.ro ((List.range 6).map fun i => BitVec.ofNat 64 (fieldAt e (16 + 8 * i) 8))
              if y.status = 0x0D then y.state.failObject obj x 5 (288 + die) n else y.state.applied die obj x n y)

/-- REPLAY_QUERY_RUN: a query whose entries have been applied runs on its caller's die (R323). -/
def execReplayQueryRun (op : Nat) (s : State) : Host.Outcome State Fault Refusal :=
  .next (match List.find? (fun (y : Nat × Obj) => y.2.queries.any fun q => q.1 == op) s.objs, Cells.find? s.ops op with
    | some (id, x), some o =>
      (match s.objRecord x, List.find? (fun (q : Nat × Nat) => q.1 == op) x.queries with
       | some r, some q =>
         let die := dieOf o.tok.core
         if r.applied.getD die 0 < q.2 ∨ s.engineInRun die then s
         else
           (match o.kind with
            | .call _ m _ _ vals =>
              let s1 := (s.updDie die fun d => { d with replayTs := wmax d.replayTs o.base }).updObj id fun z =>
                { z with queries := z.queries.filter fun i => i.1 != op }
              (match s1.objMethod x r m.toNat with
               | none =>
                 if s1.methodBroken x r m.toNat then
                   (s1.failObject id x 5 (288 + die) q.2).failCall op ⟨0x0E, x.record, BitVec.ofNat 64 q.2⟩
                 else s1.endOp op o (.failed illegalTok)
               | some md =>
                 let y := s1.runMethod x r md die true vals
                 if y.status = 0x0D then (y.state.failObject id x 5 (288 + die) q.2).failCall op ⟨0x0E, x.record, BitVec.ofNat 64 q.2⟩
                 else y.state.answer op die y)
            | _ => s)
       | _, _ => s)
    | _, _ => s)

/-- REPLICA_CRC_COMPARE: with the four CRCs of a block of entries posted, the home compares them (R325). -/
def execReplicaCrcCompare (obj : Nat) (s : State) : Host.Outcome State Fault Refusal :=
  .next (match Cells.find? s.objs obj with
    | none => s
    | some x =>
      let heads := (List.range 4).map fun d => (Cells.get [] x.posted d).head?
      match allSome heads with
      | none => s
      | some hs =>
        let s1 := s.updObj obj fun z => { z with posted := (List.range 4).foldl (fun a d => Cells.set [] a d (Cells.get [] a d).tail) z.posted }
        let first := hs.headD (0, 0)
        if hs.all fun h => h.2 == first.2 then s1 else s1.failObject obj x 8 (s.objAgent x) first.1)

end Sys2Proof.Machine
end

