-- ==== Sys2Proof/Machine/HostCommands.lean ====
section
/-! DEFINITION. Sys2Proof/Machine/HostCommands.lean: the invocation queues, the host commands, resident-model slots and the
aperture (R368 to R379). -/

namespace Sys2Proof.Machine

/-! ### Queues (R368 to R370, R372) -/

def Vf.queue (v : Vf) (q : Nat) : VQueue := Cells.get VQueue.reset v.queues q

def State.updQueue (s : State) (vf q : Nat) (f : VQueue → VQueue) : State :=
  s.updVf vf fun v => { v with queues := Cells.put v.queues q (f (v.queue q)) }

/-- The queue is enabled. -/
def VQueue.on (x : VQueue) : Bool := x.qcfg.getLsbD 5

/-- Entries of the command ring and of the completion ring. -/
def VQueue.entries (x : VQueue) : Nat := 2 ^ (x.qcfg.toNat % 32)
def VQueue.centries (x : VQueue) : Nat := 2 ^ (x.ccfg.toNat % 32)

/-- A size field lies in 4 to 16. -/
def sizeOk (w : Word) : Bool := decide (4 ≤ w.toNat % 32 ∧ w.toNat % 32 ≤ 16)

/-- The queue's MSI-X vector. -/
def VQueue.vector (x : VQueue) : Nat := (x.qcfg.extractLsb' 8 11).toNat

/-- A vector is raised; a masked one is held pending (R370). -/
def State.raiseMsix (s : State) (vf : Nat) (v : Nat) : State :=
  let x := s.vf vf
  if x.masked.contains v then
    s.updVf vf fun y => { y with pending := if y.pending.contains v then y.pending else v :: y.pending }
  else { s with msix := (vf, v) :: s.msix }

/-- The partition of a VF. -/
def State.partOfVf (s : State) (vf : Nat) : Option Nat := (List.find? (fun (x : Nat × Part) => x.2.vfs.getLsbD vf) s.parts).map fun x => x.1

/-- The partition of the VF requires IDE (R388). -/
def State.vfNeedsIde (s : State) (vf : Nat) : Bool :=
  ((s.partOfVf vf).bind fun i => Cells.find? s.parts i).any fun p => p.flags.getLsbD 0

/-- The VF refuses a TLP of its host, because it does not arrive on an established IDE stream of the VF's link (R388). -/
def State.vfRefuses (s : State) (vf : Nat) : Bool := s.vfNeedsIde vf && !s.ideArrives (vf / 64)

/-- What the VF sends is held, because no IDE stream of its link is established (R388). -/
def State.vfHeld (s : State) (vf : Nat) : Bool := s.vfNeedsIde vf && !s.ideOn (vf / 64)

/-- A doorbell: the index, and the error when the ring cannot hold that many commands (R369, R370). -/
def VQueue.doorbell (x : VQueue) (v : BitVec 32) : VQueue :=
  let y := { x with qwidx := v }
  if y.on && decide ((v - y.qridx).toNat > y.entries) then { y with qcfg := (y.qcfg ||| 0x80) &&& ~~~(0x20 : Word) } else y

/-- QWIDX_WRITE. -/
def execQwidxWrite (vf q : Nat) (v : BitVec 32) (s : State) : Host.Outcome State Fault Refusal :=
  .next (if vf ≥ 128 ∨ q ≥ 64 ∨ s.boot ≠ .ready ∨ s.vfRefuses vf then s
    else
      let x := (s.vf vf).queue q
      let y := x.doorbell v
      let s1 := s.updQueue vf q fun _ => y
      if x.on && !y.on && y.qcfg.getLsbD 6 then s1.raiseMsix vf y.vector else s1)

/-- The effect of a write of QCFG (R368, R370). -/
def VQueue.configure (x : VQueue) (v : Word) : VQueue :=
  let keep : Word := v &&& 0x7FF40
  if x.on then { x with qcfg := keep ||| (v &&& 0x20) ||| (x.qcfg &&& 0x9F) }
  else
    let base := keep ||| (v &&& 0x1F)
    if v.getLsbD 5 then
      if sizeOk v && sizeOk x.ccfg then { x with qcfg := base ||| 0x20, qwidx := 0, qridx := 0, cwidx := 0, cridx := 0 }
      else { x with qcfg := base ||| 0x80 }
    else { x with qcfg := base ||| (x.qcfg &&& 0x80) }

/-- QCFG_WRITE. -/
def execQcfgWrite (vf q : Nat) (v : BitVec 64) (s : State) : Host.Outcome State Fault Refusal :=
  .next (if vf ≥ 128 ∨ q ≥ 64 ∨ s.boot ≠ .ready ∨ s.vfRefuses vf then s else s.updQueue vf q fun x => x.configure v)

/-- The completion ring has room. -/
def VQueue.room (x : VQueue) : Bool := sizeOk x.ccfg && decide ((x.cwidx - x.cridx).toNat < x.centries)

/-- A list without its first element that satisfies a test. -/
def dropFirstOf {α : Type} (f : α → Bool) : List α → List α
  | [] => []
  | x :: r => if f x then r else x :: dropFirstOf f r

/-- COMPLETION_WRITE: the oldest completion of the queue lands in the ring (R369, R370). -/
def execCompletionWrite (vf q : Nat) (s : State) : Host.Outcome State Fault Refusal :=
  let x := (s.vf vf).queue q
  .next (match (s.vf vf).waiting.find? fun c => c.1 == q with
    | none => s
    | some (_, bytes, irq) =>
      if !x.room || s.vfHeld vf then s
      else
        let at_ := x.cbase.toNat / 4096 * 4096 + 16 * (x.cwidx.toNat % x.centries)
        let s1 := ((s.writeSys (.host at_) bytes).updVf vf fun v => { v with waiting := dropFirstOf (fun c => c.1 == q) v.waiting }).updQueue vf q
          fun y => { y with cwidx := y.cwidx + 1 }
        if irq && x.qcfg.getLsbD 6 then s1.raiseMsix vf x.vector else s1)

/-- VF_FLR (R370, R371): the agent's timestamp stays. -/
def execVfFlr (vf : Nat) (s : State) : Host.Outcome State Fault Refusal :=
  .next (if vf ≥ 128 then s else s.updVf vf fun v => { Vf.reset with ts := v.ts })

/-- HILUM_TS_ADVANCE (R371). When that is, the model does not say (log entry 90). -/
def execHilumTsAdvance (vf : Nat) (s : State) : Host.Outcome State Fault Refusal :=
  .next (if vf ≥ 128 then s else s.updVf vf fun v => { v with ts := v.ts + 1 })

/-! ### Commands (R373 to R375) -/

/-- The opcode of a command whose fields are valid (Table 20.3, R374). The buffer count of INVOKE is checked later (R376). -/
def commandKind (c : Nat) : Option Nat :=
  let byte (i : Nat) : Nat := fieldAt c i 1
  let zero (lo hi : Nat) : Bool := fieldAt c lo (hi - lo) == 0
  let ok := match byte 0 with
    | 1 => decide (byte 2 < 64) && (List.range 8).all fun k => fieldAt c (8 + 7 * k) 7 / 2 ^ 51 == 0
    | 2 => decide (byte 2 < 64) && byte 3 == 0 && fieldAt c 8 8 % 4096 == 0 && zero 20 64
    | 3 => decide (byte 2 < 64) && byte 3 == 0 && zero 8 64
    | 4 => byte 2 == 0 && decide (byte 3 < 2) && decide (fieldAt c 8 2 < 4096) && zero 10 16 && zero 24 64
    | 5 => decide (byte 2 < 64) && byte 3 == 0 && zero 8 64
    | 6 => decide (byte 2 < 64) && byte 3 == 0 && zero 8 64
    | _ => false
  if ok && byte 1 / 4 == 0 && (byte 1 / 2 % 2 == 0 || byte 0 == 1) then some (byte 0) else none

/-- The next command of a queue, as Hilum reads it (R369). -/
def State.queueHead (s : State) (x : VQueue) : Option Nat :=
  if x.on && x.qwidx != x.qridx then some (s.natAt (.host (x.qbase.toNat / 4096 * 4096 + 64 * (x.qridx.toNat % x.entries))) 64) else none

/-- The queues of a partition's VFs whose next command can be read and passes a test: VF, queue, command. -/
def State.offered (s : State) (p : Part) (ok : Nat → Bool) : List (Nat × Nat × Nat) :=
  (s.vfs.filter fun (v : Nat × Vf) => p.vfs.getLsbD v.1 && !s.vfHeld v.1).flatMap fun (v : Nat × Vf) => v.2.queues.filterMap fun q =>
    match s.queueHead q.2 with
    | some c => if ok c then some (v.1, q.1, c) else none
    | none => none

/-- Husk has not accepted the partition's last command: an INVOKE while a launch of it has not entered its queue (R375). -/
def State.partBusy (s : State) (p : Part) : Bool :=
  match p.busy with
  | none => false
  | some c =>
    match c.inv with
    | none => true
    | some i => s.subs.any fun x => x.invoke == some i

/-- The two halves of a command, as a recording holds them (R396). -/
def commandHalves (c : Nat) : List RecEntry := [.command (bytesOf 32 c), .command (bytesOf 32 (c / 2 ^ 256))]

/-- Hilum takes the next command of a queue of the partition that passes a test, which of several is open (log entry 15),
and hands it to Husk with its ts (R369, R372, R375, R383, R396). -/
def State.takeCommand (s : State) (part : Nat) (ok : Nat → Bool) : Option (State × Part × Command) :=
  match Cells.find? s.parts part with
  | none => none
  | some p =>
    let l := s.offered p ok
    match l[Config.freeNat s.fresh 700 % l.length]? with
    | none => none
    | some (vf, q, c) =>
      let rec_ := s.recMode part == 1
      if p.stopped || s.partBusy p || (rec_ && !s.recRoom 2) then none
      else
        let s1 := s.updQueue vf q fun x => { x with qridx := x.qridx + 1 }
        let s2 := if rec_ then s1.recAppend (commandHalves c) else s1
        some (s2.enterHusk p.agent, p, ⟨vf, q, c, (s.vf vf).ts, none, []⟩)

/-- A command other than an accepted INVOKE completes with a status (R374). -/
def State.finishCommand (s : State) (c : Command) (status : Nat) : State := s.completeCommand c.vf c.q c.bytes status c.ts c.ts

/-- A host command of one kind. -/
def hostCommand (part kind : Nat) (run : State → Part → Command → State) (s : State) : State :=
  match s.takeCommand part fun c => commandKind c == some kind with
  | some (s1, p, c) => run s1 p c
  | none => s

/-- An INVOKE that enters no launch. -/
def State.finishInvoke (s : State) (c : Command) (status : Nat) : State :=
  s.completeCommand c.vf c.q c.bytes status (if c.bytes / 512 % 2 = 1 then 0 else c.ts) c.ts

/-- INVALID_COMMAND: status 0x80 and no other effect; an INVOKE with a bad field enters no launch (R374). -/
def execInvalidCommand (part : Nat) (s : State) : Host.Outcome State Fault Refusal :=
  .next (match s.takeCommand part fun c => (commandKind c).isNone with
    | some (s1, _, c) => if c.bytes % 256 = 1 then s1.finishInvoke c 0x80 else s1.finishCommand c 0x80
    | none => s)

/-! ### INVOKE (R376) -/

/-- RELOC0 to RELOC7 of an INVOKE. -/
def relocOf (c : Nat) : Cells Word :=
  (List.range 8).foldl (fun a k => Cells.set 0 a k (if k < fieldAt c 3 1 then BitVec.ofNat 64 (fieldAt c (8 + 7 * k) 7 * 64) else 0)) []

/-- The slot's launches, on their way into the command's queue. What `PINLIM` they have, the spec does not say: a multiple
of 4,096 (R279, log entry 59). -/
def submissions (s : State) (part id : Nat) (c : Command) (x : Slot) : List Submission :=
  ((List.range x.launches.length).zip x.launches).map fun r =>
    { part := part, bytes := r.2, ts := c.ts, tok := TokRef.none, kinds := [0, 1, 2], parent := none, key := [fieldAt c.bytes 4 4, r.1],
      slot := some (fieldAt c.bytes 2 1), invoke := some id, queue := c.q, windows := x.windows,
      pinLim := Config.freeWord s.fresh 701 &&& ~~~(0xFFF : Word), reloc := relocOf c.bytes }

/-- INVOKE. -/
def execInvoke (part : Nat) (s : State) : Host.Outcome State Fault Refusal :=
  .next (match s.takeCommand part fun c => commandKind c == some 1 with
    | none => s
    | some (s1, _, c) =>
      match Cells.find? s1.slots (64 * part + fieldAt c.bytes 2 1) with
      | none => s1.finishInvoke c 0x81
      | some x =>
        if x.revoked then s1.finishInvoke c 0x82
        else if fieldAt c.bytes 3 1 > 8 then s1.finishInvoke c 0x80
        else if s1.unstartedIn part c.q + x.launches.length > 256 then s
        else
          let id := s1.nextId
          let inv : Invocation := ⟨part, c.vf, c.q, c.bytes, c.ts, x.launches.length, []⟩
          let s2 : State := { s1 with nextId := id + 1, invs := Cells.put s1.invs id inv, subs := s1.subs ++ submissions s1 part id c x }
          s2.updPart part fun p => { p with busy := some { c with inv := some id } })

/-! ### SIGNAL, RESET_QUEUE, PREEMPT (R377, R365) -/

/-- The write of a SIGNAL command, with the value that it gives the signal. -/
def signalRun (part : Nat) (value : Word → Word → Word) (s : State) (c : Command) : State :=
  let i := fieldAt c.bytes 8 2
  let (s1, t) := s.setSignal part i (value (s.signal part i).val (BitVec.ofNat 64 (fieldAt c.bytes 16 8))) c.ts
  (s1.updVf c.vf fun v => { v with ts := wmax v.ts t }).finishCommand c 0

/-- SIGNAL_SET. -/
def execSignalSet (part : Nat) (s : State) : Host.Outcome State Fault Refusal :=
  .next (match s.takeCommand part fun c => commandKind c == some 4 && fieldAt c 3 1 == 0 with
    | some (s1, _, c) => signalRun part (fun _ v => v) s1 c
    | none => s)

/-- SIGNAL_ADD. -/
def execSignalAdd (part : Nat) (s : State) : Host.Outcome State Fault Refusal :=
  .next (match s.takeCommand part fun c => commandKind c == some 4 && fieldAt c 3 1 == 1 with
    | some (s1, _, c) => signalRun part (fun old v => old + v) s1 c
    | none => s)

/-- The launches of a queue that have not completed. -/
def State.openLaunches (s : State) (part queue : Nat) : List Nat :=
  (s.launches.filter fun x => x.2.part == part && x.2.rec_.queue == queue && x.2.state != .complete).map fun x => x.1

/-- A launch is removed by a reset: no done entry is applied, and its calls that a full log holds are discarded (R365). -/
def State.removeLaunch (s : State) (l : Nat) : State :=
  let s1 := (s.endLaunch l 0x41).updLaunch l fun x => { x with rec_ := { x.rec_ with dones := [] } }
  let mine (o : Nat) : Bool := ((Cells.find? s1.ops o).map fun x => x.launch) == some l
  let held := s1.objs.flatMap fun (x : Nat × Obj) => x.2.held.filter mine
  { s1 with ops := held.foldl Cells.del s1.ops,
            objs := s1.objs.map fun (x : Nat × Obj) => (x.1, { x.2 with held := x.2.held.filter fun o => !mine o }) }

/-- The launches of a queue end with status 0x41; the answer is those that end. -/
def State.resetQueue (s : State) (part queue : Nat) : State × List Nat :=
  let ls := s.openLaunches part queue
  (ls.foldl State.removeLaunch s, ls)

/-- RESET_QUEUE: once no launch is on its way into the queue, its launches end. -/
def execResetQueue (part : Nat) (s : State) : Host.Outcome State Fault Refusal :=
  .next (match s.takeCommand part fun c => commandKind c == some 5 with
    | none => s
    | some (s1, _, c) =>
      let q := fieldAt c.bytes 2 1
      if s.subs.any fun x => x.part == part && x.queue == q then s
      else
        let (s2, ls) := s1.resetQueue part q
        s2.updPart part fun p => { p with busy := some { c with waits := ls } })

/-- Every entry of the partition's logs has been applied on all four dies (R365). -/
def State.logsApplied (s : State) (part : Nat) : Bool :=
  s.objs.all fun (x : Nat × Obj) => x.2.part != part ||
    (match s.objRecord x.2 with
     | some r => r.failed || r.applied.all fun n => n == r.tail
     | none => true)

/-- The launches that a reset ended are over. -/
def State.resetDone (s : State) (part : Nat) (ls : List Nat) : Bool :=
  ls.all (fun l => ((Cells.find? s.launches l).map fun x => x.state == .complete).getD true) && s.logsApplied part

/-- QUEUE_RESET_COMPLETE: nothing of the removed launches can write any more, and the command completes. -/
def execQueueResetComplete (part queue : Nat) (s : State) : Host.Outcome State Fault Refusal :=
  .next (match (Cells.find? s.parts part).bind fun p => p.busy with
    | none => s
    | some c =>
      if c.bytes % 256 = 5 ∧ c.inv = none ∧ fieldAt c.bytes 2 1 = queue ∧ s.resetDone part c.waits then
        (s.updPart part fun p => { p with busy := none }).finishCommand c 0
      else s)

/-- A PREEMPT is taken: the running gangs of its queue stop. -/
def State.takePreempt (s : State) (part : Nat) : State :=
  hostCommand part 6 (fun s1 _ c =>
    let ls := s1.openLaunches part (fieldAt c.bytes 2 1)
    let gs := (s1.gangs.filter fun g => ls.contains g.2.launch && g.2.state == .bound).map fun g => g.1
    (gs.foldl State.preemptGang s1).updPart part fun p => { p with busy := some { c with waits := gs } }) s

/-- PREEMPT: the running gangs of the queue stop; when they are saved the command completes. -/
def execPreempt (part : Nat) (s : State) : Host.Outcome State Fault Refusal :=
  .next (match (Cells.find? s.parts part).bind fun p => p.busy with
    | some c =>
      if c.bytes % 256 ≠ 6 then s.takePreempt part
      else if c.waits.all fun g => ((Cells.find? s.gangs g).map fun x => x.state != .saving).getD true then
        (s.updPart part fun p => { p with busy := none }).finishCommand c 0
      else s
    | none => s.takePreempt part)

/-! ### Slots (R378, R379) -/

/-- A window-table entry in its 64 bytes (Table 13.4), if it is within its ranges. -/
def parseWin (v : Nat) : Option Win :=
  let base := fieldAt v 0 8
  let limit := fieldAt v 8 8
  let flags := fieldAt v 21 1
  let owner (i : Nat) : Nat := fieldAt v (32 + 2 * i) 2
  if fieldAt v 22 10 ≠ 0 then none
  else if flags % 2 = 1 ∧ (base % 4096 ≠ 0 ∨ limit % 4096 ≠ 0 ∨ limit ≤ base ∨ fieldAt v 20 1 ≥ 16 ∨ flags / 64 = 3
      ∨ (List.range 16).any (fun i => decide (owner i / 4096 > 6) || owner i / 256 % 16 != 0)) then none
  else some { base := BitVec.ofNat 64 base, limit := BitVec.ofNat 64 limit, slices := BitVec.ofNat 32 (fieldAt v 16 4),
              dies := BitVec.ofNat 4 (fieldAt v 20 1), flags := BitVec.ofNat 8 flags,
              owner := (List.range 16).map fun i => BitVec.ofNat 16 (owner i), pinnedBy := if flags / 2 % 2 = 1 then 1 else 0, shadow := 0 }

def Win.bytes (w : Win) : Nat := w.limit.toNat - w.base.toNat

/-- The window is valid and detects races (R299). -/
def Win.races (w : Win) : Bool := w.flags.getLsbD 0 && (w.flags.extractLsb' 6 2 != 0)

/-- The window is valid and the slot pins it. -/
def Win.slotPin (w : Win) : Bool := w.flags.getLsbD 0 && w.flags.getLsbD 1

/-- The race windows of a table take their parts of the shadow region from an offset on, in increasing index (R381). -/
def placeShadows : Nat → List Win → List Win × Nat
  | o, [] => ([], o)
  | o, w :: r =>
    let n := if w.races then w.bytes / 4 else 0
    let (r', o') := placeShadows (o + n) r
    ({ w with shadow := o } :: r', o')

/-- The end of the shadow parts that the loaded slots of a partition hold. -/
def State.shadowEnd (s : State) (part : Nat) : Nat :=
  (s.slots.filter fun (x : Nat × Slot) => x.1 / 64 == part).foldl
    (fun a x => (x.2.windows.filter Win.races).foldl (fun b w => max b (w.shadow + w.bytes / 4)) a) 0

/-- A section of an image (Table 20.6): where its data stands in the body, its length, its destination, zero-fill. -/
structure Section where
  off : Nat
  len : Nat
  dst : Word
  zero : Bool

def parseSection (v : Nat) : Option Section :=
  if fieldAt v 24 1 > 1 ∨ fieldAt v 25 7 ≠ 0 then none
  else some ⟨fieldAt v 0 8, fieldAt v 8 8, BitVec.ofNat 64 (fieldAt v 16 8), fieldAt v 24 1 == 1⟩

/-- The body of an image. -/
structure Image where
  windows : List Win
  launches : List Nat
  sections : List Section
  objects : List Nat

/-- The fields of a body (Table 20.6), of which every reserved byte is zero, in unused entries too (R378); its length and its bytes. -/
def parseImage (len v : Nat) : Option Image :=
  let nl := fieldAt v 6 1
  let ns := fieldAt v 7 1
  let no := fieldAt v 8 1
  let launch (i : Nat) : Nat := fieldAt v (4160 + 128 * i) 128
  let object (i : Nat) : Nat := fieldAt v (7232 + 128 * i) 128
  if fieldAt v 0 4 ≠ 0x4C535843 ∨ fieldAt v 4 2 ≠ 1 ∨ nl = 0 ∨ nl > 16 ∨ ns = 0 ∨ ns > 32 ∨ no > 8 ∨ fieldAt v 9 55 ≠ 0
      ∨ (List.range 16).any (fun i => decide (i ≥ nl) && launch i != 0) ∨ (List.range 8).any (fun i => decide (i ≥ no) && object i != 0) then none
  else
    match allSome ((List.range 64).map fun i => parseWin (fieldAt v (64 + 64 * i) 64)),
        allSome ((List.range 32).map fun i => parseSection (fieldAt v (6208 + 32 * i) 32)) with
    | some ws, some all =>
      let ss := all.take ns
      if ss.any fun x => !x.zero && decide (x.off + x.len > len) then none
      else some ⟨ws, (List.range nl).map launch, ss, (List.range no).map object⟩
    | _, _ => none

/-- A window names only slices that the partition owns (R381). -/
def Part.ownsSlices (p : Part) (w : Win) : Bool := !w.flags.getLsbD 0 || (homeSet w.slices w.dies).all fun i => p.slices.getLsbD i

/-- The slot's pins of a window stand in slices that the partition owns (R381, log entry 130). -/
def State.pinsOwned (s : State) (agent : Nat) (ws : List Win) (w : Win) : Bool :=
  !w.slotPin || (s.windowHomes agent ws w).all fun x => s.ownsSlice agent x.2.1

/-- Every page of a section's destination is mapped writable in the partition's HBM ranges. -/
def State.sectionOk (s : State) (agent : Nat) (x : Section) : Bool :=
  (partsOf 4096 (x.len / 4096 + 2) x.dst.toNat x.len).all fun y =>
    match s.translateIn agent false false .write (BitVec.ofNat 64 y.1) with
    | .ok (.pkg _) => true
    | _ => false

/-- The data of a section is written, line by line. -/
def State.putSection (s : State) (agent : Nat) (ts : Word) (ws : List Win) (body : Nat) (x : Section) : State :=
  (partsOf 128 (x.len / 128 + 2) x.dst.toNat x.len).foldl (fun (a : State) y =>
    match a.translateIn agent false false .write (BitVec.ofNat 64 y.1) with
    | .ok l => ((a.touchIn ws l (BitVec.ofNat 64 y.1) true).writeAt [] false ts l y.2 (if x.zero then 0 else fieldAt body (x.off + (y.1 - x.dst.toNat)) y.2)).1
    | .error _ => a) s

/-- The submission as which a launch record of a slot is checked. -/
def checkOf (part : Nat) (ts : Word) (ws : List Win) (r : Nat) : Submission :=
  { part := part, bytes := r, ts := ts, tok := TokRef.none, kinds := [0, 1, 2], parent := none, key := [], slot := none, invoke := none,
    queue := 0, windows := ws, pinLim := 0, reloc := [] }

/-- An object is created with tail, applied and trimmed 0. Where its record stands, the spec does not say: in a replica window with
one home slice, if the slot has one (R315, log entry 47). -/
def State.createObject (s : State) (part slot : Nat) (ts : Word) (ws : List Win) (v : Nat) : State :=
  let seed := s.fresh + s.nextId
  let homes := ws.filter fun w => w.flags.getLsbD 0 && w.flags.getLsbD 3 && (homeSet w.slices w.dies).length == 1
  let rec_ : Word := match homes[Config.freeNat seed 702 % homes.length]? with
    | some w => w.base + BitVec.ofNat 64 (128 * (Config.freeNat seed 704 % (w.bytes / 128)))
    | none => Config.freeWord seed 702 &&& ~~~(0x7F : Word)
  let o : Obj := { part := part, slot := slot, record := rec_, held := [], queries := [], logged := [], entryTs := [], fed := [], posted := [],
                   dead := false }
  let w := v % 2 ^ 512 + 2 ^ 896 * (v / 2 ^ 896)
  let s1 : State := { s with objs := Cells.put s.objs s.nextId o, nextId := s.nextId + 1 }
  (s1.objWrite o ts rec_.toNat 128 w).1

/-- The shadow regions of the slot's race windows are zeroed, and the homes keep no record of their lines (R299). -/
def State.zeroShadows (s : State) (agent : Nat) (ws : List Win) : State :=
  (ws.filter Win.races).foldl (fun (a : State) w =>
    let ls := (a.windowLines agent w).map fun x => x.2.key / 128
    { a with mem := a.mem.filter fun (x : Host.Cell) => !decide (w.shadow ≤ x.1 ∧ x.1 < w.shadow + w.bytes / 4),
             shadows := a.shadows.filter fun (x : Nat × BitVec 64) => !ls.contains (x.1 / 4) }) s

/-- The windows of a slot's table that are marked pinned are pinned by the slot; `none` if a set would hold too many pinned lines
(R279). -/
def State.pinWindows (agent slot : Nat) (ws : List Win) : List Win → State → Option State
  | [], s => some s
  | w :: r, s =>
    if w.slotPin then
      match s.pinWindow agent ws w (.slot slot) (fun _ => none) with
      | some s1 => State.pinWindows agent slot ws r s1
      | none => none
    else State.pinWindows agent slot ws r s

/-- What a LOAD_SLOT comes to: a status, or the state with the slot loaded (R379). -/
def State.loadSlot (s : State) (part : Nat) (p : Part) (c : Command) : Except Nat State :=
  let slot := fieldAt c.bytes 2 1
  let len := fieldAt c.bytes 16 4
  let v := s.natAt (.host (fieldAt c.bytes 8 8)) len
  let n := len - 96
  let body := v % 2 ^ (8 * n)
  let digest := Config.sm3 (bytesOf n body)
  if (Cells.find? s.slots (64 * part + slot)).isSome then .error 0x83
  else if Config.choice s.fresh 703 0 then .error 0x86
  else if len < 8352 ∨ digest.toNat ≠ fieldAt v n 32 then .error 0x85
  else if p.keyHash ≠ 0 ∧ Config.sm2Verifies (Config.slotKey p.keyHash) digest (bytesOf 64 (fieldAt v (n + 32) 64)) = false then .error 0x85
  else
    match parseImage n body with
    | none => .error 0x86
    | some im =>
      let (ws, shadowEnd) := placeShadows (max p.shadowBase (s.shadowEnd part)) im.windows
      if !(ws.all p.ownsSlices) || !(ws.all (s.pinsOwned p.agent ws)) || decide (shadowEnd > p.shadowBase + p.shadowSize) || !(im.sections.all (s.sectionOk p.agent)) then .error 0x86
      else
        let s1 (_ : Unit) : State := im.sections.foldl (fun (a : State) x => a.putSection p.agent c.ts ws body x) s
        let pinned := (ws.filter Win.slotPin).foldl (fun a w => a + w.bytes) 0
        if im.launches.any fun r => (s.readLaunch p (checkOf part c.ts ws r)).isNone then .error 0x87
        else if p.pinsInUse + pinned > p.pinBudget then .error 0x84
        else
          let s2 := im.objects.foldl (fun (a : State) o => a.createObject part slot c.ts ws o) ((s1 ()).zeroShadows p.agent ws)
          match State.pinWindows p.agent (64 * part + slot) ws ws s2 with
          | none => .error 0x84
          | some s3 =>
            .ok ({ s3 with slots := Cells.put s3.slots (64 * part + slot) ⟨ws, im.launches, false, pinned⟩ }.updPart part fun q =>
              { q with pinsInUse := q.pinsInUse + pinned })

/-- LOAD_SLOT: while the partition's accesses to the host are held, its image cannot be read (R388). -/
def execLoadSlot (part : Nat) (s : State) : Host.Outcome State Fault Refusal :=
  .next (if s.ideHeld part then s else hostCommand part 2 (fun s1 p c =>
    match s1.loadSlot part p c with
    | .error status => s1.finishCommand c status
    | .ok s2 => s2.finishCommand c 0) s)

/-- A slot's pins end. -/
def State.releasePins (s : State) (part slot : Nat) (x : Slot) : State :=
  let s1 := s.unpinBy (.slot (64 * part + slot)) none
  ({ s1 with slots := Cells.put s1.slots (64 * part + slot) { x with revoked := true, pinned := 0 } }.updPart part fun q =>
    { q with pinsInUse := q.pinsInUse - x.pinned })

/-- A slot is unloaded: its pins end, its objects stop, and what called them fails (R379, R325). -/
def State.freeSlot (s : State) (part slot : Nat) (x : Slot) : State :=
  let mine := s.objs.filter fun (o : Nat × Obj) => o.2.part == part && o.2.slot == slot
  let stop (a : State) (o : Nat × Obj) : State :=
    let ids := a.answering o.2 ++ o.2.held ++ o.2.queries.map (fun q => q.1) ++ o.2.logged.map (fun q => q.2)
    ids.foldl (fun (b : State) i => b.failCall i ⟨0x0E, o.2.record, 0⟩) a
  let s1 := mine.foldl stop (s.releasePins part slot x)
  { s1 with slots := Cells.del s1.slots (64 * part + slot), objs := s1.objs.filter fun (o : Nat × Obj) => !(o.2.part == part && o.2.slot == slot) }

/-- A launch of the slot has not completed (R379, R408). -/
def State.slotInUse (s : State) (part slot : Nat) : Bool :=
  s.launches.any (fun x => x.2.part == part && x.2.slot == some slot && x.2.state != .complete) ||
    s.subs.any fun x => x.part == part && x.slot == some slot

/-- UNLOAD_SLOT. -/
def execUnloadSlot (part : Nat) (s : State) : Host.Outcome State Fault Refusal :=
  .next (hostCommand part 3 (fun s1 _ c =>
    let slot := fieldAt c.bytes 2 1
    match Cells.find? s1.slots (64 * part + slot) with
    | none => s1.finishCommand c 0x81
    | some x => if s1.slotInUse part slot then s1.finishCommand c 0x83 else (s1.freeSlot part slot x).finishCommand c 0) s)

/-! ### The aperture (R371) -/

/-- The check of one part of an aperture access: translation, permission, and the windows that refuse such an access. -/
def State.apertureCheck (s : State) (part : Nat) (p : Part) (acc : Acc) (va : Nat) : Except Flt Loc :=
  let a : Word := BitVec.ofNat 64 va
  match s.translate p.agent true acc a with
  | .error f => .error f
  | .ok l =>
    let refuses (x : Nat × Slot) : Option Flt :=
      if x.1 / 64 != part then none
      else match windowIn va 0 x.2.windows with
        | some (i, w) => if w.flags.getLsbD 3 || (acc == .write && w.flags.getLsbD 2) then some (windowFlt a i) else none
        | none => none
    match s.slots.findSome? refuses with
    | some f => .error f
    | none => (match s.eccAt l a with | some f => .error f | none => .ok l)

/-- Every part of an aperture access checked: the places, or the first refusal. -/
def State.aperturePlaces (s : State) (part : Nat) (p : Part) (acc : Acc) : List (Nat × Nat) → Except Flt (List (Loc × Nat × Nat))
  | [] => .ok []
  | (va, n) :: r =>
    match s.apertureCheck part p acc va with
    | .error f => .error f
    | .ok l =>
      match s.aperturePlaces part p acc r with
      | .error f => .error f
      | .ok ls => .ok ((l, va, n) :: ls)

/-- The record of a refused access: source 6 (R371). -/
def State.refuseAperture (s : State) (vf part : Nat) (f : Flt) : State :=
  s.recordFault part (s.deviceRec 6 f (s.vf vf).ts)

/-- A value of `n` bytes of ones. -/
def allOnes (n : Nat) : Nat := 256 ^ n - 1

/-- The parts of an access at a BAR2 offset: none that crosses an aligned 8 bytes. -/
def apertureParts (x : Vf) (off n : Nat) : List (Nat × Nat) := partsOf 8 (n / 8 + 2) (x.apbase + BitVec.ofNat 64 off).toNat n

/-- The windows of the loaded slots of a partition, slot by slot. DESIGN CHOICE: an access of Hilum is made in no slot; the first window
in this order that governs its address gives the line its class and its home (log entry 143). -/
def State.partWindows (s : State) (part : Nat) : List Win :=
  (s.slots.filter fun (x : Nat × Slot) => x.1 / 64 == part).flatMap fun x => x.2.windows

/-- The parts written. -/
def apertureStore (vf : Nat) (ws : List Win) : List (Loc × Nat × Nat) → Nat → State → State
  | [], _, s => s
  | (l, va, n) :: r, v, s =>
    let s1 := if l.isSystem then s.writeSys l (bytesOf n v)
      else
        let (s1, t) := (s.touchIn ws l (BitVec.ofNat 64 va) true).writeAt [] false (s.vf vf).ts l n v
        s1.updVf vf fun x => { x with ts := wmax x.ts t }
    apertureStore vf ws r (v / 256 ^ n) s1

/-- The parts read. -/
def apertureLoad (vf agent : Nat) (ws : List Win) : List (Loc × Nat × Nat) → State → State × Nat
  | [], s => (s, 0)
  | (l, va, n) :: r, s =>
    let (s1, v) :=
      if l.isSystem then (s, s.natAt l n)
      else
        let (s1, v, t) := (s.touchIn ws l (BitVec.ofNat 64 va) false).readAt [] (s.leaseOf agent) (s.vf vf).ts l n
        (s1.updVf vf fun x => { x with ts := wmax x.ts t }, v)
    let (s2, u) := apertureLoad vf agent ws r s1
    (s2, v + 256 ^ n * u)

/-- APERTURE_READ: what the host gets stands in `hostData`. -/
def execApertureRead (vf off n : Nat) (s : State) : Host.Outcome State Fault Refusal :=
  let ones := allOnes n
  .next (if off + n > 2 ^ 34 ∨ vf ≥ 128 ∨ s.boot ≠ .ready then s
    else
      match (s.partOfVf vf).bind fun i => (Cells.find? s.parts i).map fun p => (i, p) with
      | none => { s with hostData := ones }
      | some (i, p) =>
        if s.vfRefuses vf then { s with hostData := ones }
        else
          match s.aperturePlaces i p .read (apertureParts (s.vf vf) off n) with
          | .error f => { s.refuseAperture vf i f with hostData := ones }
          | .ok ls =>
            let (s1, v) := apertureLoad vf p.agent (s.partWindows i) ls s
            { s1 with hostData := v })

/-- APERTURE_WRITE. -/
def execApertureWrite (vf off n v : Nat) (s : State) : Host.Outcome State Fault Refusal :=
  .next (if off + n > 2 ^ 34 ∨ vf ≥ 128 ∨ s.boot ≠ .ready then s
    else
      match (s.partOfVf vf).bind fun i => (Cells.find? s.parts i).map fun p => (i, p) with
      | none => s
      | some (i, p) =>
        if s.vfRefuses vf then s
        else
          match s.aperturePlaces i p .write (apertureParts (s.vf vf) off n) with
          | .error f => s.refuseAperture vf i f
          | .ok ls => apertureStore vf (s.partWindows i) ls v s)

end Sys2Proof.Machine
end

