-- ==== Sys2Proof/Machine/Partitions.lean ====
section
/-! DEFINITION. Sys2Proof/Machine/Partitions.lean: partitions and the operations of PCTL (R380 to R382, R204). -/

namespace Sys2Proof.Machine

/-! ### Control blocks (Table 20.7) -/

/-- The entries of a fabric-barrier table; `none` if a valid one has count 0 or a reserved bit (R204). -/
def parseFbars (v : Nat) : Option (List Word) :=
  let es := (List.range 64).map fun b => BitVec.ofNat 64 (fieldAt v (8 * b) 8)
  if es.any fun e => fbValid e && (fbCount e == 0 || e.extractLsb' 17 7 != 0 || e.extractLsb' 33 31 != 0) then none else some es

/-- The HBM ranges of a block in use. -/
def rangesOf (v : Nat) : List (Nat × Nat) :=
  ((List.range 4).map fun i => (fieldAt v (48 + 16 * i) 8, fieldAt v (56 + 16 * i) 8)).filter fun r => r.2 != 0

/-- Bytes of HBM (Table 13.1). DESIGN CHOICE: HBM has the addresses from 0 on, and its 576 GB are 576 GiB (log entry 129). -/
def hbmSize : Nat := 576 * 2 ^ 30

/-- The partition that a control block describes, if the fields are valid; `fb` holds its fabric-barrier entries. -/
def parsePart (part v : Nat) (fb : List Word) : Option Part :=
  let home := fieldAt v 122 2
  let slices := fieldAt v 32 16
  let bad (r : Nat × Nat) : Bool := r.1 % 2 ^ 30 != 0 || r.2 % 2 ^ 30 != 0 || decide (r.2 ≤ r.1) || decide (r.2 > hbmSize)
  let logOk (n : Nat) : Bool := decide (6 ≤ n ∧ n ≤ 20)
  if fieldAt v 0 1 ≠ part ∨ part > 31 ∨ fieldAt v 1 1 > 1 ∨ fieldAt v 2 2 < 16 ∨ fieldAt v 2 2 > 1024 ∨ fieldAt v 4 2 = 0 ∨ fieldAt v 6 1 = 0
      ∨ fieldAt v 7 1 > 1 ∨ fieldAt v 8 4 = 0 ∨ fieldAt v 14 2 ≠ 0 ∨ (rangesOf v).any bad ∨ home ≥ 128 ∨ slices / 2 ^ (home % 128) % 2 = 0
      ∨ fieldAt v 124 4 ≠ 0 ∨ fieldAt v 128 8 % 4096 ≠ 0 ∨ fieldAt v 136 8 % 64 ≠ 0 ∨ logOk (fieldAt v 144 4) = false ∨ fieldAt v 148 4 ≠ 0
      ∨ fieldAt v 152 8 % 32 ≠ 0 ∨ logOk (fieldAt v 160 4) = false ∨ fieldAt v 164 4 ≠ 0 ∨ fieldAt v 224 288 ≠ 0 then none
  else some
    { link := fieldAt v 1 1, lease := fieldAt v 2 2, yieldUs := fieldAt v 4 2, share := fieldAt v 6 1, flags := BitVec.ofNat 8 (fieldAt v 7 1),
      pods := BitVec.ofNat 32 (fieldAt v 8 4), ports := BitVec.ofNat 16 (fieldAt v 12 2), vfs := BitVec.ofNat 128 (fieldAt v 16 16),
      slices := BitVec.ofNat 128 slices, ranges := rangesOf v, root := BitVec.ofNat 64 (fieldAt v 112 8), huskRoot := 0, asid := BitVec.ofNat 16 (fieldAt v 120 2),
      sigHome := BitVec.ofNat 7 home, pinBudget := fieldAt v 128 8, pinsInUse := 0, ringBase := fieldAt v 136 8, ringLog := fieldAt v 144 4,
      ringNext := 0, raceBase := fieldAt v 152 8, raceLog := fieldAt v 160 4, raceNext := 0, raceDrops := 0, shadowBase := fieldAt v 168 8,
      shadowSize := fieldAt v 176 8, keyHash := BitVec.ofNat 256 (fieldAt v 192 32),
      fbars := ((List.range 64).zip fb).foldl (fun a x => Cells.put a x.1 ⟨x.2, Barrier.reset, []⟩) [],
      signals := [], nextNumber := 1, busy := none, stopped := false, rr := [], claim := none, granted := 0 }

/-- The partition that the control block at a bus address describes. Where Husk's own tables stand, the spec does not say (R383, log
entry 134). -/
def State.readPart (s : State) (part : Nat) (cb : Word) : Option Part :=
  let v := s.natAt (.host cb.toNat) 512
  (parseFbars (s.natAt (.host (fieldAt v 184 8)) 512)).bind fun fb =>
    (parsePart part v fb).map fun p => { p with huskRoot := Config.freeWord s.fresh 648 &&& 0xFFFFFFFFFFF }

/-- Two partitions claim one pod, slice, port, VF or part of an HBM range. -/
def Part.conflicts (p q : Part) : Bool :=
  (p.pods &&& q.pods) != 0 || (p.slices &&& q.slices) != 0 || (p.ports &&& q.ports) != 0 || (p.vfs &&& q.vfs) != 0
    || p.ranges.any fun r => q.ranges.any fun t => decide (r.1 < t.2 ∧ t.1 < r.2)

/-! ### PCTL (R382) -/

/-- An operation is running. -/
def State.pctlBusy (s : State) : Bool := (Cells.get 0 s.pf 0x100).getLsbD 15

/-- PCTL with an operation and its result, or with bit 15 while it runs. -/
def State.setPctl (s : State) (part op result : Nat) (running : Bool) : State :=
  { s with pf := Cells.set 0 s.pf 0x100 (BitVec.ofNat 64 (part % 32 + 256 * op + (if running then 2 ^ 15 else 0) + 65536 * result)) }

/-- An operation while another one runs: result 3, and nothing else. -/
def State.pctlRefused (s : State) : State :=
  { s with pf := Cells.set 0 s.pf 0x100 ((Cells.get 0 s.pf 0x100 &&& ~~~(0xFF0000 : Word)) ||| 0x30000) }

/-- The queue registers of a partition's VFs are reset, at its creation APBASE too; their timestamps stay (R370, R371). -/
def State.resetVfs (s : State) (vfs : BitVec 128) (created : Bool) : State :=
  (List.range 128).foldl (fun (a : State) v => if vfs.getLsbD v then
    a.updVf v fun x => { Vf.reset with ts := x.ts, apbase := if created then Vf.reset.apbase else x.apbase } else a) s

/-- A physical address in a list of ranges. -/
def inRanges (rs : List (Nat × Nat)) (a : Nat) : Bool := rs.any fun r => decide (r.1 ≤ a ∧ a < r.2)

/-- HBM ranges zeroised: what the caches and the shadow records held of them goes too. -/
def State.zeroise (s : State) (rs : List (Nat × Nat)) : State :=
  { s with mem := s.mem.filter fun (x : Host.Cell) => !inRanges rs x.1,
           copies := s.copies.filter fun (x : Nat × Copy) => !inRanges rs (x.1 / 512 * 128),
           attrs := s.attrs.filter fun (x : Nat × LineAttr) => !inRanges rs (x.1 * 128),
           shadows := s.shadows.filter fun (x : Nat × BitVec 64) => !inRanges rs (x.1 * 32) }

/-- No TLB holds an entry of the partition (R351). -/
def State.clearTlbs (s : State) (part : Nat) : State :=
  { s with pods := s.pods.map fun (x : Nat × Pod) => (x.1, { x.2 with tlb := x.2.tlb.filter fun e => e.part != part }),
           cores := s.cores.map fun (x : Nat × Core) => (x.1, { x.2 with tlb := x.2.tlb.filter fun e => e.part != part }) }

/-- PARTITION_CREATE: the driver has written the block's address to PCBADDR and the operation to PCTL. -/
def execPartitionCreate (part : Nat) (cb : BitVec 64) (s : State) : Host.Outcome State Fault Refusal :=
  .next (if s.boot ≠ .ready then s
    else if s.pctlBusy then s.pctlRefused
    else
      let s0 : State := { s with pf := Cells.set 0 s.pf 0x108 cb }
      match s.readPart part cb with
      | none => s0.setPctl part 1 2 false
      | some p =>
        if (Cells.find? s.parts part).isSome || s.parts.any fun q => p.conflicts q.2 then s0.setPctl part 1 1 false
        else
          let s1 := ((s0.zeroise p.ranges).resetVfs p.vfs true).clearTlbs part
          { s1 with parts := Cells.put s1.parts part p }.setPctl part 1 0 false)

/-- Every slot of a partition is unloaded. -/
def State.freeSlots (s : State) (part : Nat) : State :=
  (s.slots.filter fun (x : Nat × Slot) => x.1 / 64 == part).foldl (fun (a : State) x => a.freeSlot part (x.1 % 64) x.2) s

/-- The partition goes: nothing of it is left. -/
def State.freePart (s : State) (part : Nat) (p : Part) : State :=
  let s1 := ((s.freeSlots part).resetVfs p.vfs false).clearTlbs part
  { s1 with parts := Cells.del s1.parts part,
            launches := s1.launches.filter fun (x : Nat × Launch) => x.2.part != part,
            invs := s1.invs.filter fun (x : Nat × Invocation) => x.2.part != part }

/-- PARTITION_DESTROY: every queue is reset; when nothing of it can write any more, a second step frees the resources. -/
def execPartitionDestroy (part : Nat) (s : State) : Host.Outcome State Fault Refusal :=
  let mine := (s.launches.filter fun (x : Nat × Launch) => x.2.part == part && x.2.state != .complete).map fun x => x.1
  .next (match Cells.find? s.parts part with
    | none => if s.pctlBusy then s.pctlRefused else s.setPctl part 2 2 false
    | some p =>
      if s.pctlBusy then
        if (Cells.get 0 s.pf 0x100 &&& 0xFFFF) = BitVec.ofNat 64 (part % 32 + 2 * 256 + 2 ^ 15) then
          if s.resetDone part mine then (s.freePart part p).setPctl part 2 0 false else s
        else s.pctlRefused
      else if s.subs.any fun x => x.part == part then s
      else ((mine.foldl State.removeLaunch s).updPart part fun q => { q with stopped := true, busy := none }).setPctl part 2 0 true)

/-- The fabric-barrier entries after a table has been read again: one that changed starts at phase 0 (R204). -/
def rereadFbars (old new : Cells FBar) : Cells FBar :=
  new.map fun (x : Nat × FBar) =>
    let y := Cells.get ⟨0, Barrier.reset, []⟩ old x.1
    (x.1, if y.entry = x.2.entry then y else x.2)

/-- PARTITION_UPDATE, from the block at PCBADDR. -/
def execPartitionUpdate (part : Nat) (s : State) : Host.Outcome State Fault Refusal :=
  .next (if s.pctlBusy then s.pctlRefused
    else
      match Cells.find? s.parts part, s.readPart part (Cells.get 0 s.pf 0x108) with
      | some p, some q =>
        if q.pinBudget < p.pinsInUse then s.setPctl part 3 1 false
        else
          (s.updPart part fun x =>
            { x with share := q.share, lease := q.lease, yieldUs := q.yieldUs, pinBudget := q.pinBudget,
                     fbars := rereadFbars x.fbars q.fbars }).setPctl part 3 0 false
      | _, _ => s.setPctl part 3 2 false)

/-- INVALIDATE_TLBS (R351). -/
def execInvalidateTlbs (part : Nat) (s : State) : Host.Outcome State Fault Refusal :=
  .next (if s.pctlBusy then s.pctlRefused
    else if (Cells.find? s.parts part).isNone then s.setPctl part 4 2 false
    else (s.clearTlbs part).setPctl part 4 0 false)

/-- REVOKE_PINS: byte 2 of PCBADDR names the slot, one of 64. -/
def execRevokePins (part slot : Nat) (s : State) : Host.Outcome State Fault Refusal :=
  let s0 : State := { s with pf := Cells.set 0 s.pf 0x108 (BitVec.ofNat 64 (65536 * (slot % 256))) }
  .next (if s.pctlBusy then s.pctlRefused
    else
      match Cells.find? s.parts part, Cells.find? s.slots (64 * part + slot) with
      | some _, some x => if slot < 64 then (s0.releasePins part slot x).setPctl part 5 0 false else s0.setPctl part 5 2 false
      | _, _ => s0.setPctl part 5 2 false)

end Sys2Proof.Machine
end

