-- ==== Sys2Proof/Machine/Fleet.lean ====
section
/-! DEFINITION. Sys2Proof/Machine/Fleet.lean: starts, attestation, IDE, device registers, power and operating points, scrubbing,
recording and replay (R367, R368, R384 to R398). -/

namespace Sys2Proof.Machine

/-! ### Starts (R384 to R386, R389) -/

/-- What a start leaves with its measurements: everything zeroised but what the board, the host and other devices hold; the device key
is derived (R387). -/
def State.started (s : State) (boot : Boot) (count : Nat) (slotB : Bool) (meas : List (BitVec 256)) (saved : Option (BitVec 256)) : State :=
  { State.reset with
    host := s.host, peer := s.peer, hostData := s.hostData, boot := boot, slotB := slotB, failedStarts := count, training := saved,
    meas := meas, deviceKey := Config.deviceKey (meas.take 4),
    pf := (List.range 4).foldl (fun a i => Cells.set 0 a (0x400 + 8 * i) (Config.freeWord s.fresh (720 + i))) State.reset.pf,
    turn := s.turn, fresh := s.fresh }

/-- A field of an image, little-endian. -/
def imageField (b : List (BitVec 8)) (lo n : Nat) : Nat := natOf ((b.drop lo).take n)

/-- An image of a kind passes: its header of 256 bytes, its length, its key, its security version and its signature (R384). -/
def imageOk (kind : Nat) (b : List (BitVec 8)) : Bool :=
  let key := (b.drop 16).take 64
  let signed := 256 + imageField b 12 4
  imageField b 0 4 == 0x47485843 && imageField b 4 1 == kind && imageField b 5 3 == 0 && imageField b 80 176 == 0 && b.length == signed + 64
    && Config.sm3 key == Config.vendorKeyHash && Config.sm2Verifies key (Config.sm3 (b.take signed)) (b.drop signed)
    && decide (Config.minVersion kind ≤ imageField b 8 4)

/-- The images of the chain that a start finds, in their order: Hilum, Husk, HBM training. -/
def State.images (s : State) : List (List (BitVec 8)) := (List.range 3).map fun i => Config.image (Config.freeNat s.fresh (730 + i))

/-- The first image of the chain that fails, by its number from 0 (R384). -/
def State.imageFails (s : State) : Option Nat := (List.range 3).find? fun i => !imageOk (i + 1) (s.images.getD i [])

/-- Steps 3 to 6 with the training results used; whether ready is reached, is open (log entry 68). -/
def State.finishStart (s : State) (count : Nat) (slotB warm : Bool) (meas : List (BitVec 256)) (saved : Option (BitVec 256)) : State :=
  let reuse := warm && saved.isSome && Config.choice s.fresh 734 0
  let d : BitVec 256 := if reuse then saved.getD 0 else BitVec.ofNat 256 (Config.freeNat s.fresh 735)
  let m := withResults meas slotB warm d
  if Config.choice s.fresh 736 0 then s.started .ready 0 slotB m (some d) else s.started .starting count slotB m (some d)

/-- A start (Table 20.9). A board that returns no record gives a count of 0 and no saved results (R389). An image that fails has been
measured (R385). -/
def State.start (s : State) (warm : Bool) : State :=
  let record := Config.choice s.fresh 737 0
  let c := if record then s.failedStarts else 0
  let saved := if record then s.training else none
  if c ≥ 6 then s.started .recovery (c + 1) false (measured []) saved
  else
    let slotB := decide (3 ≤ c)
    match s.imageFails with
    | some n => s.started .failed (c + 1) slotB (measured (s.images.take (n + 1))) saved
    | none => s.finishStart (c + 1) slotB warm (measured s.images) saved

/-- COLD_START. -/
def execColdStart (s : State) : Host.Outcome State Fault Refusal := .next (s.start false)

/-- WARM_START. -/
def execWarmStart (s : State) : Host.Outcome State Fault Refusal := .next (s.start true)

/-- START_TIMEOUT: the start fails, and the count stays. -/
def execStartTimeout (s : State) : Host.Outcome State Fault Refusal :=
  .next (if s.boot = .starting then { s with boot := .failed } else s)

/-- The measurements with an image given in recovery. DESIGN CHOICE: it extends the register of the kind that its header names, M1 to
M3, and no register if it names none (R385, log entry 132). -/
def State.measureGiven (s : State) (b : List (BitVec 8)) : List (BitVec 256) :=
  let k := imageField b 4 1
  if 1 ≤ k ∧ k ≤ 3 then s.meas.set k (extendMeas (s.meas.getD k 0) (digestBytes (Config.sm3 b))) else s.meas

/-- RECOVERY_IMAGE: a signed image of the chain is measured, then verified; one that passes is accepted, and the start goes on with it
(R384 to R386). -/
def execRecoveryImage (image : Nat) (s : State) : Host.Outcome State Fault Refusal :=
  let b := Config.image image
  let k := imageField b 4 1
  .next (if s.boot ≠ .recovery then s
    else if 1 ≤ k ∧ k ≤ 3 ∧ imageOk k b = true then s.finishStart s.failedStarts false false (s.measureGiven b) s.training
    else { s with meas := s.measureGiven b })

/-! ### SPDM and IDE (R387, R388) -/

/-- A request that PF 0 answers when the device is ready and what must come before has come. -/
def State.spdmStep (s : State) (ok : Bool) (f : Spdm → Spdm) : State :=
  if s.boot = .ready ∧ ok = true then { s with spdm := f s.spdm } else s

/-- GET_VERSION begins a new negotiation. -/
def execGetVersion (s : State) : Host.Outcome State Fault Refusal :=
  .next (s.spdmStep true fun _ => { Spdm.reset with version := true })

/-- GET_CAPABILITIES. -/
def execGetCapabilities (s : State) : Host.Outcome State Fault Refusal :=
  .next (s.spdmStep s.spdm.version fun x => { x with capabilities := true, answer := [] })

/-- NEGOTIATE_ALGORITHMS: the base algorithms of the responder. -/
def execNegotiateAlgorithms (s : State) : Host.Outcome State Fault Refusal :=
  .next (s.spdmStep s.spdm.capabilities fun x => { x with algorithms := [.sm2P256, .sm3_256, .sm4Gcm], answer := [] })

/-- The algorithms are negotiated. -/
def State.negotiated (s : State) : Bool := !s.spdm.algorithms.isEmpty

/-- The certificate chain, which ends in the device key (R387). -/
def State.certificate (s : State) : List (BitVec 8) := Config.certificate s.deviceKey

/-- Bytes in blocks of 32. -/
def blocks32 (b : List (BitVec 8)) : List (BitVec 256) :=
  (List.range ((b.length + 31) / 32)).map fun i => BitVec.ofNat 256 (imageField b (32 * i) 32)

/-- A digest in an answer whose content the spec does not give (log entry 70). -/
def State.freeDigest (s : State) (k : Nat) : BitVec 256 := BitVec.ofNat 256 (Config.freeNat s.fresh k)

/-- GET_DIGESTS: the digest of the certificate chain. -/
def execGetDigests (s : State) : Host.Outcome State Fault Refusal :=
  .next (s.spdmStep s.negotiated fun x => { x with answer := [Config.sm3 s.certificate] })

/-- GET_CERTIFICATE: the chain. -/
def execGetCertificate (s : State) : Host.Outcome State Fault Refusal :=
  .next (s.spdmStep s.negotiated fun x => { x with answer := blocks32 s.certificate })

/-- CHALLENGE. -/
def execChallenge (s : State) : Host.Outcome State Fault Refusal :=
  .next (s.spdmStep s.negotiated fun x => { x with answer := [s.freeDigest 742] })

/-- GET_MEASUREMENTS: the registers as raw digests, indices 1 to 8 in order. -/
def execGetMeasurements (s : State) : Host.Outcome State Fault Refusal :=
  .next (s.spdmStep s.negotiated fun x => { x with answer := s.meas })

/-- KEY_EXCHANGE. -/
def execKeyExchange (s : State) : Host.Outcome State Fault Refusal :=
  .next (s.spdmStep s.negotiated fun x => { x with keyExchange := true, answer := [s.freeDigest 743] })

/-- FINISH: the secured session is established. -/
def execFinish (s : State) : Host.Outcome State Fault Refusal :=
  .next (s.spdmStep s.spdm.keyExchange fun x => { x with keyExchange := false, session := true, answer := [] })

/-- IDE_KM_KEY_PROGRAM: streams 9 l to 9 l + 8 belong to link l. -/
def execIdeKmKeyProgram (stream : Nat) (key : BitVec 256) (s : State) : Host.Outcome State Fault Refusal :=
  .next (if s.boot = .ready ∧ s.spdm.session = true ∧ stream < 18 then { s with ide := Cells.put s.ide stream key } else s)

/-! ### Registers (R367, R368, R371, R390, R396) -/

/-- The telemetry block of a die (R390). -/
def dieBlock (d : Nat) : Nat := 0x4000 + 0x2000 * d

/-- A counter of PF 0 BAR0 rises. -/
def State.count (s : State) (off n : Nat) : State := { s with pf := Cells.set 0 s.pf off (Cells.get 0 s.pf off + BitVec.ofNat 64 n) }

/-- What a read of PF 0 BAR0 returns (Tables 20.1, 21.1, 21.2). -/
def State.pfReg (s : State) (off : Nat) : Word :=
  let d := (off - 0x4000) / 0x2000
  let x := s.die d
  if off = 0 then (if (List.range 4).any (fun i => (s.die i).hot) then 0x100 else 0)
  else if off = 0x10 then s.reftime
  else if off < 0x4000 ∨ d ≥ 4 then Cells.get 0 s.pf off
  else
    match off - dieBlock d with
    | 0x000 => x.cycles
    | 0x008 => x.swallowed
    | 0x020 => BitVec.ofNat 64 x.volt
    | 0x028 => BitVec.ofNat 64 x.freq
    | 0x038 => BitVec.ofNat 64 x.level
    | 0x0E0 => BitVec.ofNat 64 ((Config.vfloor 0).1 % 65536 + 65536 * ((Config.vfloor 0).2 % 65536))
    | 0x0E8 => BitVec.ofNat 64 ((Config.vfloor 1).1 % 65536 + 65536 * ((Config.vfloor 1).2 % 65536))
    | 0x0F0 => BitVec.ofNat 64 ((Config.vfloor 2).1 % 65536 + 65536 * ((Config.vfloor 2).2 % 65536))
    | 0x0F8 => BitVec.ofNat 64 ((Config.vfloor 3).1 % 65536 + 65536 * ((Config.vfloor 3).2 % 65536))
    | _ => Cells.get 0 s.pf off

/-- The bits that a write of a PF 0 register without a row of its own stores; `none`: it stores nothing. -/
def pfMask (off : Nat) : Option Word :=
  if off = 0x108 ∨ off = 0x200 then some (BitVec.allOnes 64)
  else if off = 0x308 then some (~~~(0x3F : Word))
  else if off = 0x310 then some 0x1F
  else if off = 0x400 ∨ off = 0x408 ∨ off = 0x410 ∨ off = 0x418 then some (BitVec.allOnes 64)
  else if off = 0x40C0 ∨ off = 0x60C0 ∨ off = 0x80C0 ∨ off = 0xA0C0 then some (BitVec.allOnes 64)
  else none

/-- A write of a register of an invocation queue (Table 20.2). -/
def VQueue.store (x : VQueue) (off : Nat) (v : Word) : VQueue :=
  match off with
  | 0x00 => if x.on then x else { x with qbase := v &&& ~~~(0xFFF : Word) }
  | 0x20 => if x.on then x else { x with cbase := v &&& ~~~(0xFFF : Word) }
  | 0x28 => if x.on then x else { x with ccfg := v &&& 0x1F }
  | 0x38 => { x with cridx := v.setWidth 32 }
  | _ => x

/-- REGISTER_WRITE: offsets below 2^16 are those of PF 0 BAR0, 2^16 (1 + v) + o is offset o of BAR0 of VF v. -/
def execRegisterWrite (off : Nat) (v : BitVec 64) (s : State) : Host.Outcome State Fault Refusal :=
  let o := off % 65536
  .next (if off < 65536 then
      match pfMask off with
      | some m => { s with pf := Cells.set 0 s.pf off (v &&& m) }
      | none => s
    else
      let vf := off / 65536 - 1
      if vf ≥ 128 ∨ s.boot ≠ .ready ∨ s.vfRefuses vf then s
      else if o = 8 then s.updVf vf fun x => { x with apbase := v &&& ~~~(0x3FFFFFFFF : Word) }
      else if 0x1000 ≤ o ∧ o < 0x2000 then s.updQueue vf ((o - 0x1000) / 64) fun x => x.store ((o - 0x1000) % 64) v
      else s)

/-! ### Power and operating points (R391 to R393) -/

/-- The stall ratio of a window. -/
def Die.ratio (d : Die) : Nat := if d.bound = 0 then 0 else 65536 * d.stall / d.bound

/-- The swallow fraction after a window (R391). -/
def swallowNext (level power limit stall : Nat) (temp : Int) : Nat :=
  if temp ≥ 840 then 48
  else if limit ≠ 0 ∧ power > limit then min 48 (level + (if stall ≥ 32768 then 2 else 1))
  else if limit = 0 ∨ 16 * power < limit * 15 then level - 1
  else level

/-- POWER_WINDOW: the window ends with a mean power and a temperature. -/
def execPowerWindow (die : Nat) (power temp : BitVec 64) (s : State) : Host.Outcome State Fault Refusal :=
  .next (if die ≥ 4 then s
    else
      let d := s.die die
      let b := dieBlock die
      let limit := (Cells.get 0 s.pf (b + 0xC0)).toNat
      let pf := Cells.set 0 (Cells.set 0 (Cells.set 0 s.pf (b + 0x10) power) (b + 0x18) temp) (b + 0x30) (BitVec.ofNat 64 (d.ratio % 65536))
      { s with pf := pf }.updDie die fun x =>
        { x with level := swallowNext d.level power.toNat limit d.ratio temp.toInt, hot := decide (temp.toInt ≥ 840), bound := 0, stall := 0 })

/-- DVFSSTAT of a die. -/
def State.setDvfs (s : State) (die : Nat) (busy : Bool) (result : Nat) : State :=
  { s with pf := Cells.set 0 s.pf (dieBlock die + 0xD0) (BitVec.ofNat 64 ((if busy then 1 else 0) + 16 * result)) }

def State.dvfsBusy (s : State) (die : Nat) : Bool := (Cells.get 0 s.pf (dieBlock die + 0xD0)).getLsbD 0

/-- DVFS_REQUEST: a write of DVFSREQ of a die. -/
def execDvfsRequest (die : Nat) (v : BitVec 64) (s : State) : Host.Outcome State Fault Refusal :=
  let f := (v.extractLsb' 0 16).toNat
  let volt := (v.extractLsb' 16 16).toNat
  .next (if die ≥ 4 then s
    else if s.dvfsBusy die then s.setDvfs die true 3
    else
      let s1 : State := { s with pf := Cells.set 0 s.pf (dieBlock die + 0xC8) (v &&& 0xFFFFFFFF) }
      if f < 500 ∨ f > 2250 ∨ f > (Config.vfloor 3).1 ∨ volt > 950 then s1.setDvfs die false 2
      else if volt < voltFloor f then s1.setDvfs die false 1
      else s1.setDvfs die true ((Cells.get 0 s.pf (dieBlock die + 0xD0)).toNat / 16))

/-- DVFS_STEP_COMPLETE: the step in progress settles: a rise of the voltage comes before the frequency, a fall after it. -/
def execDvfsStepComplete (die : Nat) (s : State) : Host.Outcome State Fault Refusal :=
  let req := Cells.get 0 s.pf (dieBlock die + 0xC8)
  let f := (req.extractLsb' 0 16).toNat
  let v := (req.extractLsb' 16 16).toNat
  let d := s.die die
  .next (if !s.dvfsBusy die || decide (die ≥ 4) then s
    else
      let d1 := if v > d.volt then { d with volt := v } else if d.freq ≠ f then { d with freq := f } else { d with volt := v }
      let s1 := s.updDie die fun _ => d1
      if d1.volt = v ∧ d1.freq = f then s1.setDvfs die false 0 else s1)

/-! ### Errors (R394) -/

/-- The partitions that own an address; every partition if none does. -/
def State.owners (s : State) (a : Nat) : List Nat :=
  match s.parts.filter fun (x : Nat × Part) => inRanges x.2.ranges a with
  | [] => s.parts.map fun x => x.1
  | l => l.map fun x => x.1

/-- A word that the scrubber reads, from the operand of the event: the structure of R356 in bits 60 and up (0 is HBM), and below
it an HBM address, a place of scratch at 2^23 pod + offset, or the core at bit 32 with an address of its LS or L1. -/
structure ScrubWord where
  code : Nat
  at_ : Nat
  deriving DecidableEq, Repr

def scrubWord (addr : Nat) : ScrubWord := ⟨if addr / 2 ^ 60 % 8 = 0 then 5 else addr / 2 ^ 60 % 8, addr % 2 ^ 60⟩

/-- The word lies in a core's own SRAM. -/
def ScrubWord.inCore (x : ScrubWord) : Bool := x.code == 1 || x.code == 2 || x.code == 6

def ScrubWord.core (x : ScrubWord) : Nat := x.at_ / 2 ^ 32 % 256

def ScrubWord.die (x : ScrubWord) : Nat :=
  if x.inCore then x.core / 64 else if x.code = 3 then x.at_ / 2 ^ 26 % 4 else hashLine x.at_ / 32 % 4

/-- Partitions that own the word: by the pod of a core or of scratch, by the ranges of an HBM address; all of them if none
does. -/
def State.scrubOwners (s : State) (x : ScrubWord) : List Nat :=
  let ofPod (pod : Nat) : List Nat := match partOfPod s.parts pod with | some p => [p] | none => s.parts.map fun y => y.1
  if x.inCore then ofPod (x.core / 8) else if x.code = 3 then ofPod (x.at_ / 2 ^ 23 % 32) else s.owners x.at_

/-- The error stays where it is: a later access finds it (R356). -/
def State.breakWord (s : State) (x : ScrubWord) : State :=
  let code := BitVec.ofNat 8 x.code
  if x.inCore then s.updCore x.core fun c => { c with errs := (code, BitVec.ofNat 64 (x.at_ % 2 ^ 32)) :: c.errs }
  else
    let l : Loc := if x.code = 3 then .scratch (x.at_ / 2 ^ 23 % 32) (x.at_ % 2 ^ 23) else .pkg x.at_
    { s with poison := Cells.put s.poison (l.line.key / 128) code }

/-- PATROL_SCRUB of a word: a corrected error is counted; an uncorrectable one is counted and recorded, and stays (R394). -/
def execPatrolScrub (addr : Nat) (uncorrectable : Bool) (s : State) : Host.Outcome State Fault Refusal :=
  let x := scrubWord addr
  let count (bad : Bool) (s : State) : State :=
    let s1 := s.count (dieBlock x.die + (if bad then 0x68 else 0x38) + 8 * x.code) 1
    if x.inCore then s1.count (dieBlock x.die + 0x100 + 64 * (x.core % 64) + (if bad then 56 else 48)) 1 else s1
  .next (if x.code = 7 then s
    else if uncorrectable then
      (s.scrubOwners x).foldl (fun (a : State) p =>
        a.recordFault p (a.deviceRec 8 ⟨0x0D, BitVec.ofNat 64 (if x.inCore then x.at_ % 2 ^ 32 else x.at_), BitVec.ofNat 64 x.code⟩
          (Config.freeWord a.fresh 750))) ((count true s).breakWord x)
    else if Config.choice s.fresh 751 addr then count false s else s)

/-! ### Recording and replay (R396 to R398) -/

/-- RECCTL_WRITE: the partition and its mode; refused while a launch of it has not completed. The register is one: naming another
partition ends the recording of the first. -/
def execRecctlWrite (part : Nat) (v : BitVec 64) (s : State) : Host.Outcome State Fault Refusal :=
  let mode := (v.extractLsb' 8 2).toNat
  let running := s.launches.any (fun (x : Nat × Launch) => x.2.part == part && x.2.state != .complete) || s.subs.any fun x => x.part == part
  let m := if running ∨ mode = 3 ∨ (Cells.find? s.parts part).isNone then 0 else mode
  .next { s with
    pf := Cells.set 0 s.pf 0x300 (BitVec.ofNat 64 (part % 32 + 256 * m)),
    recs := (match m with
      | 1 => ⟨[], 0, []⟩
      | 2 => { s.recs with admitted := 0, performed := [] }
      | _ => s.recs) }

/-- The FADD arrivals of a launch that a replay holds: line and key. -/
def State.heldFadds (s : State) (l : Nat) : List (Nat × List Nat) :=
  (s.cores.filterMap fun x =>
    if (x.2.binding.map fun b => b.launch) = some l then
      match x.2.user.stat with
      | .waiting (.held line key) => some (line, key)
      | _ => none
    else none) ++
  s.reqs.filterMap fun x =>
    match x.2.kind with
    | .red 9 _ _ => if x.2.launch = l then some (faddLine x.2.va, x.2.key) else none
    | _ => none

/-- The launch has an arrival that is not in the record, or a recorded one that has not come (R397). -/
def State.strayFadd (s : State) (l : Nat) (key : List Nat) : Bool :=
  let due := (s.recordedOf key).filter fun e => decide (Cells.get 0 s.recs.performed e.1 ≤ e.2.2)
  let held := s.heldFadds l
  (due.any fun e => !held.contains (e.1, e.2.1)) || held.any fun a => !due.any fun e => e.1 == a.1 && e.2.1 == a.2

/-- REPLAY_ARRIVAL_TIMEOUT: a recorded arrival of the launch has not come, or one that is not in the record has been held, within its
wait timeout: it ends, and its held arrivals never perform (R397, R410). When that is, the model does not say (log entry 11). -/
def execReplayArrivalTimeout (launch : Nat) (s : State) : Host.Outcome State Fault Refusal :=
  .next (match Cells.find? s.launches launch with
    | none => s
    | some x =>
      if s.recMode x.part ≠ 2 ∨ (x.state ≠ .running ∧ x.state ≠ .draining) ∨ s.strayFadd launch x.key = false then s
      else
        let s1 := (s.endLaunch launch 0x0C).recordFault x.part
          { s.deviceRec 8 ⟨0x0C, 0, 0⟩ (Config.freeWord s.fresh 754) with launch := x.number }
        { s1 with reqs := s1.reqs.filter fun y => match y.2.kind with | .red 9 _ _ => y.2.launch != launch | _ => true })

end Sys2Proof.Machine
end

