-- ==== Sys2Proof/Machine/Splitter.lean ====
section
/-! DEFINITION. Sys2Proof/Machine/Splitter.lean: what a turn of S comes to before a word executes: the fetch, the placement
checks of a team stream, the splitter, the resolution of branches, and the words that wait for data on its way (R7,
R63 to R66, R249, R260, R261). -/

namespace Sys2Proof.Machine

/-! ### Registers and data on their way -/

/-- The g registers that the fields of a word name, by E and OP (Tables 03.7, 03.9, 03.10). -/
def gregs (w : InstrWord) : List (BitVec 5) :=
  let d := w.extractLsb' 18 5
  let a := w.extractLsb' 13 5
  let b := w.extractLsb' 8 5
  let op := (w.extractLsb' 23 6).toNat
  match (w.extractLsb' 29 3).toNat with
  | 0 =>
    if op = 0 ∨ op = 0x30 ∨ op = 0x32 ∨ op = 0x33 then [d, a, b]
    else if op ≤ 8 ∨ op = 0x12 ∨ (0x20 ≤ op ∧ op ≤ 0x2C) then [d, a]
    else if op = 9 ∨ op = 0x1D ∨ op = 0x36 then [d]
    else if op = 0x0A ∨ op = 0x31 ∨ op = 0x35 then [a, b]
    else if op = 0x11 then [31]
    else if op = 0x14 ∨ op = 0x15 ∨ op = 0x16 ∨ op = 0x1E ∨ op = 0x38 ∨ op = 0x3A ∨ op = 0x3B then [a]
    else []
  | 5 => [w.extractLsb' 12 5, w.extractLsb' 7 5, w.extractLsb' 2 5]
  | 7 => if op = 5 ∧ w.extractLsb' 13 2 = 0 then [b, w.extractLsb' 0 5] else []
  | _ => []

/-- An S word that accesses memory. -/
def memWord (w : InstrWord) : Bool :=
  let op := (w.extractLsb' 23 6).toNat
  w.extractLsb' 29 3 == 0 && decide (0x20 ≤ op ∧ op ≤ 0x36)

/-- The registers of the current context whose data is on its way from system space or from a home (R102, R119). -/
def State.onWay (s : State) : List (BitVec 5) :=
  (s.sys.filterMap fun (x : Nat × SysReq) => match x.2 with
    | .load c h _ _ gd _ _ _ => if c = s.agent ∧ h = s.inHusk then some gd else none
    | _ => none) ++
  (s.aoseqs.filterMap fun (x : Nat × Aoseq) => if x.2.core = s.agent ∧ x.2.husk = s.inHusk then some x.2.gd else none)

/-- An acquire load or an ordered atomic of the current context that has not performed: later accesses stay behind it (R101,
R115). DESIGN CHOICE: a system-scope access stays also behind an `LDAQ` without .SYS of system space, which the rule does not ask for
(log entry 123). -/
def State.ordered (s : State) : Bool :=
  (s.sys.any fun x => match x.2 with | .load c h _ _ _ _ _ acq => c == s.agent && h == s.inHusk && acq | _ => false) ||
    s.aoseqs.any fun x => x.2.core == s.agent && x.2.husk == s.inHusk

/-- The predicate of a word keeps it from having an effect: then it waits for nothing (R60, R74, R80). -/
def State.guardedOff (s : State) (w : InstrWord) : Bool :=
  let op := (w.extractLsb' 23 6).toNat
  let p := w.extractLsb' 0 3
  let sr := op == 0 || op == 0x0A || op == 0x0B || op == 0x12 || decide (0x14 ≤ op ∧ op ≤ 0x1C) || decide (0x34 ≤ op ∧ op ≤ 0x36)
    || op == 0x38 || op == 0x39 || decide (0x3B ≤ op ∧ op ≤ 0x3E)
  let sb := op == 0x10 || op == 0x11
  w.extractLsb' 29 3 == 0 &&
    ((sr && p != 0 && !s.p p) || (sb && w.extractLsb' 20 3 != 0 && s.p (w.extractLsb' 20 3) == (w.extractLsb' 19 1 == 1)))

/-- A word that cannot issue yet (R85). -/
def State.hazard (s : State) (w : InstrWord) : Bool :=
  !s.guardedOff w && (((gregs w).any fun r => r != 0 && s.onWay.contains r) || (memWord w && s.ordered))

/-! ### Placement in a team stream (R249, R260, R261) -/

/-- The word is a run header or the end of the stream. -/
def isHeader (w : InstrWord) : Bool := w.extractLsb' 29 3 == 7 && (w.extractLsb' 23 6 == 1 || w.extractLsb' 23 6 == 3)

/-- A word that may stand between runs, or that has a check of its own there: the M words but LOOPE and XFER. -/
def mayStandBetween (w : InstrWord) : Bool :=
  let op := (w.extractLsb' 23 6).toNat
  w.extractLsb' 29 3 == 7 && (decide (1 ≤ op ∧ op ≤ 4) || decide (6 ≤ op ∧ op ≤ 7))

/-- A word that an engine member cannot execute in a run (R261). XFER words and the words between runs have their own
checks. -/
def engineCannot (agent : Nat) (w : InstrWord) : Bool :=
  let op := (w.extractLsb' 23 6).toNat
  let e := (w.extractLsb' 29 3).toNat
  if agent < 256 then false
  else if e = 7 then op == 0 || decide (8 ≤ op)
  else if agent < 288 then true
  else
    e != 0 || decide (0x14 ≤ op ∧ op ≤ 0x19) || op == 0x38 || op == 0x39 ||
      (decide (0x1D ≤ op ∧ op ≤ 0x1E) && isCSide (w.extractLsb' 0 13).toNat)

/-- The word, reached by a branch that left its run, is a header of the stream in the innermost active span, or outside
every span if none is active (R260). DEDUCED: where the stream up to it cannot all be fetched yet, the known bounds of the
innermost active span decide (log entry 106). -/
def State.mayLand (s : State) (w : InstrWord) : Bool :=
  isHeader w && (match s.spanOf s.pc.toNat 1048576 (s.cur.team.beg + 4) none with
    | .ok (some sp) => sp == (s.cur.team.loops.head?.map fun l => l.first)
    | .ok none => false
    | .error _ =>
      match s.cur.team.loops with
      | [] => true
      | l :: _ => decide (l.first.toNat ≤ s.pc.toNat) && (match s.spanEnd l with | some a => decide (s.pc.toNat < a.toNat) | none => true))

/-- The detail code of the placement fault that a member meets when it fetches a word, if it meets one. -/
def State.placement (s : State) (w : InstrWord) : Option Nat :=
  match s.openTeam with
  | none => none
  | some _ =>
    let t := s.cur.team
    if t.jumped && !s.mayLand w then some 9
    else if s.inRun then (if engineCannot s.agent w then some 6 else none)
    else if s.cur.capturing then some 4
    else if mayStandBetween w then none
    else if w.extractLsb' 29 3 == 7 && w.extractLsb' 23 6 == 5 then some 5
    else some 3

/-! ### The splitter (R7, R63, R64) -/

/-- The checks of an XFER.V at the splitter: C executes it if the member holds a role of it. -/
def State.steerXferV (s : State) (w : InstrWord) : State :=
  let f := w.extractLsb' 19 4
  let t := w.extractLsb' 15 4
  match s.openTeam with
  | none => s.illegalWord w s.pc
  | some _ =>
    match s.xferFault f t 1 0 with
    | some d => s.chor d s.pc
    | none => if s.holds f || s.holds t then s.steerTo .c w else s.advance

/-- An engine word at the pc: the decoding checks, those of its prefix first, then its queue (R63, R64). -/
def State.engineWord (s : State) (e : Eng) (w : InstrWord) : State :=
  match s.ctx.pend with
  | some p => s.illegalWord p.word p.at_
  | none =>
    match s.ctx.pfx.unaccepted w with
    | some (p, a) => s.illegalWord p a
    | none =>
      match decodeWord w with
      | .error _ => s.illegalWord w s.pc
      | .ok d =>
        if !d.legal then s.illegalWord w s.pc
        else if w.extractLsb' 29 3 == 7 && w.extractLsb' 23 6 == 5 then s.steerXferV w
        else s.steerTo e w

/-! ### The turn of S -/

/-- What a turn of S comes to. -/
inductive STurn where
  /-- S does not move, or something other than a word happens. -/
  | other (s : State)
  /-- The splitter takes the word. -/
  | steered (s : State)
  /-- S executes a decoded word. -/
  | word (d : Decoded) (s : State)

/-- A conditional SB word (R65). -/
def isCondSb (w : InstrWord) : Bool :=
  w.extractLsb' 29 3 == 0 && (w.extractLsb' 23 6 == 0x10 || w.extractLsb' 23 6 == 0x11) && w.extractLsb' 20 3 != 0

/-- A conditional SB word waits until its branch is resolved. -/
def State.unresolved (s : State) (w : InstrWord) : Bool :=
  isCondSb w && (match s.ctx.split with | some x => x.at_ != s.pc | none => true)

/-- S stands between runs of a team stream, and has not come there by a branch out of a run. -/
def State.betweenSpans (s : State) : Bool := s.openTeam.isSome && !s.inRun && !s.cur.team.jumped

/-- S is at the end of its innermost span (R256). -/
def State.atSpanEnd (s : State) : Bool :=
  match s.cur.team.loops with
  | l :: _ => s.betweenSpans && s.spanEnd l == some s.pc
  | [] => false

/-- S is at the end of the outer span and still in the inner one, which runs past it (R256). -/
def State.pastOuter (s : State) : Bool :=
  match s.cur.team.loops with
  | l :: o :: _ => s.betweenSpans && s.spanEnd o == some s.pc && s.spanEnd l != some s.pc
  | _ => false

/-- The end of a span: a prefix or an A word that waits for its X.TWS has no neighbour there (R63). -/
def State.endSpan (s : State) : State :=
  match s.ctx.pend, s.ctx.pfx.word with
  | some p, _ => s.illegalWord p.word p.at_
  | none, some (p, a) => s.illegalWord p a
  | none, none => s.closeSpan

/-- The S words that accept an EXT: those of the formats SI, SM, SA and SB (R59, Table 03.7). -/
def takesExtS (w : InstrWord) : Bool :=
  let op := (w.extractLsb' 23 6).toNat
  w.extractLsb' 29 3 == 0 && (decide (1 ≤ op ∧ op ≤ 9) || op == 0x10 || op == 0x11 || decide (0x20 ≤ op ∧ op ≤ 0x2C) || op == 0x3A)

/-- The word that fails the decoding checks where `w` is no instruction: an A word that `w` does not follow as its X.TWS, a prefix that
`w` does not accept, or `w` itself (R63, R64). -/
def State.failing (s : State) (w : InstrWord) : InstrWord × Word :=
  match s.ctx.pend, s.ctx.pfx.word with
  | some p, _ => if w.extractLsb' 27 5 = 0x19 then (w, s.pc) else (p.word, p.at_)
  | none, some (p, a) => if p.extractLsb' 27 2 = 0 ∧ takesExtS w = true then (w, s.pc) else (p, a)
  | none, none => (w, s.pc)

/-- The word that S has fetched. DESIGN CHOICE: of two traps at one fetch, a placement fault of a team stream and `ILLEGAL`, the first
is taken (log entry 122). -/
def State.fetched (s : State) (w : InstrWord) : STurn :=
  match s.placement w with
  | some d => .other (s.chor d s.pc)
  | none =>
    let s1 := if s.cur.team.jumped && !s.inHusk && !s.cur.handler then s.onTeam fun t => { t with jumped := false } else s
    match destOf w with
    | some e => .steered (s1.engineWord e w)
    | none =>
      match decodeWord w with
      | .error _ => .other (s1.illegalWord (s.failing w).1 (s.failing w).2)
      | .ok d => if s.unresolved w || s.hazard w then .other s else .word d s1

/-- The fetch waits: the word stands in host memory, and no IDE stream of the partition is established (R388). -/
def State.fetchHeld (s : State) : Bool :=
  match s.translate s.agent (!s.inHusk) .fetch s.pc with
  | .ok (.host _) => ((s.partOf s.agent).map s.ideHeld).getD false
  | _ => false

/-- The turn of the context whose turn it is. -/
def State.sTurn (s : State) : STurn :=
  let go (_ : Unit) : STurn :=
    if s.atSpanEnd then .other s.endSpan
    else if s.pastOuter then .other (s.chor 10 s.pc)
    else if s.fetchHeld then .other s
    else
      match s.fetchAt s.pc with
      | .error f => .other ((s.noteTlb s.agent s.inHusk s.pc).takeTrap f s.pc)
      | .ok w =>
        match s.eccWord w with
        | some f => .other (s.takeTrap f s.pc)
        | none => (s.noteTlb s.agent s.inHusk s.pc).fetched w
  match s.ctx.stat with
  | .running => if !s.inHusk && (s.cur.engTrap.map fun t => !t.entered).getD false then .other (s.enterEngineTrap s.agent) else go ()
  | .waiting _ => if !s.inHusk && (s.cur.engTrap.map fun t => !t.entered).getD false then .other (s.enterEngineTrap s.agent) else go ()
  | _ => .other s

/-- SPLITTER_STEER: the splitter of a core steers the word at which S stands. -/
def execSplitterSteer (core : Nat) (s : State) : Host.Outcome State Fault Refusal :=
  .next (s.onBehalf core .s fun a =>
    match a.sTurn with
    | .steered b => b
    | _ => a)

/-- A context of a core resolves the conditional SB word at which it stands (R65). -/
def State.resolveAt (s : State) (core : Nat) (q : Seq) : Option State :=
  let a := { s with turn := .seq core q }
  match a.ctx.stat, a.fetchAt a.pc with
  | .running, .ok w =>
    if a.unresolved w then
      some (s.onBehalf core q fun a => a.onCtx fun x => { x with split := some ⟨x.pc, a.p (w.extractLsb' 20 3) != (w.extractLsb' 19 1 == 1)⟩ })
    else none
  | _, _ => none

/-- BRANCH_RESOLVE: the winning half of the split buffer feeds issue. When that is, the model does not say (log entry 10). -/
def execBranchResolve (core : Nat) (s : State) : Host.Outcome State Fault Refusal :=
  .next (match s.resolveAt core .s with
    | some s1 => s1
    | none => (s.resolveAt core .husk).getD s)

end Sys2Proof.Machine
end

