-- ==== Sys2Proof/Machine/Suffix.lean ====
section
/-! DEFINITION. Sys2Proof/Machine/Suffix.lean: `X.TWS`, which gives the A word before it its token ids and performs it (R59). -/

namespace Sys2Proof.Machine

/-- The token ids that an A word with nw consumes; `none` if one beyond nw is not 63. -/
def twsIds (n : BitVec 2) (k l m : BitVec 6) : Option (List (BitVec 6)) :=
  let ids := [k, l, m]
  if (ids.drop n.toNat).all fun i => i == 63 then some (ids.take n.toNat) else none

/-- The operation of an A word: the word has the field nw and, for its ids, a change of the state. -/
def aOpOf (w : InstrWord) : Option (BitVec 2 × (List (BitVec 6) → State → State)) :=
  match decodeWord w with
  | .ok (.word (.copy k a b c n)) => some (n, copyOp w k a b c)
  | .ok (.word (.copyl k a b c n)) => some (n, copylOp w k a b c)
  | .ok (.word (.tpref k a b n)) => some (n, tprefOp w k a b)
  | .ok (.word (.bar k a n)) => some (n, barOp w k a)
  | .ok (.word (.bara k a n)) => some (n, baraOp w k a)
  | .ok (.word (.barax k a n)) => some (n, baraxOp w k a)
  | .ok (.word (.barw k a n)) => some (n, barwOp w k a)
  | .ok (.word (.collx k a b c n)) => some (n, collxOp w k a b c)
  | .ok (.word (.lnch k a n)) => some (n, lnchOp w k a)
  | .ok (.word (.glnch k a n)) => some (n, glnchOp w k a)
  | .ok (.word (.sigs k a b n)) => some (n, sigsOp w k a b)
  | .ok (.word (.sigw k a b n)) => some (n, sigwOp w k a b)
  | .ok (.word (.rcall k a b c n)) => some (n, rcallOp w k a b c)
  | .ok (.word (.rqry k a b c n)) => some (n, rqryOp w k a b c)
  | .ok (.word (.rtrim k a n)) => some (n, rtrimOp w k a)
  | .ok (.word (.wpin k a b n)) => some (n, wpinOp w k a b)
  | .ok (.word (.wunpin k a b n)) => some (n, wunpinOp w k a b)
  | .ok (.word (.wown k a b n)) => some (n, wownOp w k a b)
  | .ok (.word (.phase k a b n)) => some (n, phaseOp w k a b)
  | .ok (.word (.tokn k a b c n)) => some (n, toknOp w k a b c)
  | .ok (.word (.fsend k a b c n)) => some (n, fsendOp w k a b c)
  | .ok (.word (.fget k a b c n)) => some (n, fgetOp w k a b c)
  | _ => none

/-- X.TWS: without an A word that waits for it, or with an id beyond nw that is not 63, it is illegal. -/
def execXTws (k l m : BitVec 6) (s : State) : Host.Outcome State Fault Refusal :=
  let w := wordOf (.xTws k l m)
  .next (match s.ctx.pfx.word, s.ctx.pend with
    | some (p, a), _ => s.illegalWord p a
    | none, none => s.illegalWord w s.pc
    | none, some p =>
      match aOpOf p.word with
      | none => s.illegalWord w s.pc
      | some (n, op) =>
        match twsIds n k l m with
        | none => s.illegalWord w s.pc
        | some ids => op ids s)

end Sys2Proof.Machine
end

