-- ==== Sys2Proof/Machine/Dispatch.lean ====
section
/-! DEFINITION. Sys2Proof/Machine/Dispatch.lean: the meaning of every instruction, one arm for each constructor. -/

namespace Sys2Proof.Machine

def exec (i : Instr) (s : State) : Host.Outcome State Fault Refusal :=
  match i with
  | .add d a b pr => Sys2Proof.Machine.execAdd d a b pr s
  | .sub d a b pr => Sys2Proof.Machine.execSub d a b pr s
  | .and d a b pr => Sys2Proof.Machine.execAnd d a b pr s
  | .or d a b pr => Sys2Proof.Machine.execOr d a b pr s
  | .xor d a b pr => Sys2Proof.Machine.execXor d a b pr s
  | .sll d a b pr => Sys2Proof.Machine.execSll d a b pr s
  | .srl d a b pr => Sys2Proof.Machine.execSrl d a b pr s
  | .sra d a b pr => Sys2Proof.Machine.execSra d a b pr s
  | .mul d a b pr => Sys2Proof.Machine.execMul d a b pr s
  | .mulh d a b pr => Sys2Proof.Machine.execMulh d a b pr s
  | .mulhz d a b pr => Sys2Proof.Machine.execMulhz d a b pr s
  | .div d a b pr => Sys2Proof.Machine.execDiv d a b pr s
  | .divz d a b pr => Sys2Proof.Machine.execDivz d a b pr s
  | .rem d a b pr => Sys2Proof.Machine.execRem d a b pr s
  | .remz d a b pr => Sys2Proof.Machine.execRemz d a b pr s
  | .min d a b pr => Sys2Proof.Machine.execMin d a b pr s
  | .max d a b pr => Sys2Proof.Machine.execMax d a b pr s
  | .minz d a b pr => Sys2Proof.Machine.execMinz d a b pr s
  | .maxz d a b pr => Sys2Proof.Machine.execMaxz d a b pr s
  | .slt d a b pr => Sys2Proof.Machine.execSlt d a b pr s
  | .sltz d a b pr => Sys2Proof.Machine.execSltz d a b pr s
  | .seq d a b pr => Sys2Proof.Machine.execSeq d a b pr s
  | .clz d a pr => Sys2Proof.Machine.execClz d a pr s
  | .popc d a pr => Sys2Proof.Machine.execPopc d a pr s
  | .addsh d a b pr => Sys2Proof.Machine.execAddsh d a b pr s
  | .addi d a im => Sys2Proof.Machine.execAddi d a im s
  | .andi d a im => Sys2Proof.Machine.execAndi d a im s
  | .ori d a im => Sys2Proof.Machine.execOri d a im s
  | .xori d a im => Sys2Proof.Machine.execXori d a im s
  | .slli d a im => Sys2Proof.Machine.execSlli d a im s
  | .srli d a im => Sys2Proof.Machine.execSrli d a im s
  | .srai d a im => Sys2Proof.Machine.execSrai d a im s
  | .slti d a im => Sys2Proof.Machine.execSlti d a im s
  | .movi d im => Sys2Proof.Machine.execMovi d im s
  | .psetEq d a b pr => Sys2Proof.Machine.execPsetEq d a b pr s
  | .psetNe d a b pr => Sys2Proof.Machine.execPsetNe d a b pr s
  | .psetLt d a b pr => Sys2Proof.Machine.execPsetLt d a b pr s
  | .psetGe d a b pr => Sys2Proof.Machine.execPsetGe d a b pr s
  | .psetLtz d a b pr => Sys2Proof.Machine.execPsetLtz d a b pr s
  | .psetGez d a b pr => Sys2Proof.Machine.execPsetGez d a b pr s
  | .psetTstat d t pr => Sys2Proof.Machine.execPsetTstat d t pr s
  | .pand d a b pr => Sys2Proof.Machine.execPand d a b pr s
  | .por d a b pr => Sys2Proof.Machine.execPor d a b pr s
  | .pxor d a b pr => Sys2Proof.Machine.execPxor d a b pr s
  | .pnot d a pr => Sys2Proof.Machine.execPnot d a pr s
  | .br pr n o => Sys2Proof.Machine.execBr pr n o s
  | .call pr n o => Sys2Proof.Machine.execCall pr n o s
  | .jmpr d a pr => Sys2Proof.Machine.execJmpr d a pr s
  | .mova im a e pr => Sys2Proof.Machine.execMova im a e pr s
  | .movar im a r e pr => Sys2Proof.Machine.execMovar im a r e pr s
  | .movl l a e pr => Sys2Proof.Machine.execMovl l a e pr s
  | .msel m pr => Sys2Proof.Machine.execMsel m pr s
  | .pippush c pr => Sys2Proof.Machine.execPippush c pr s
  | .pippop c pr => Sys2Proof.Machine.execPippop c pr s
  | .twait k pr => Sys2Proof.Machine.execTwait k pr s
  | .ttest d k pr => Sys2Proof.Machine.execTtest d k pr s
  | .tfree k pr => Sys2Proof.Machine.execTfree k pr s
  | .srd d x => Sys2Proof.Machine.execSrd d x s
  | .swr a x => Sys2Proof.Machine.execSwr a x s
  | .ld8 d a h im => Sys2Proof.Machine.execLd8 d a h im s
  | .ld16 d a h im => Sys2Proof.Machine.execLd16 d a h im s
  | .ld32 d a h im => Sys2Proof.Machine.execLd32 d a h im s
  | .ld64 d a h im => Sys2Proof.Machine.execLd64 d a h im s
  | .lds8 d a h im => Sys2Proof.Machine.execLds8 d a h im s
  | .lds16 d a h im => Sys2Proof.Machine.execLds16 d a h im s
  | .lds32 d a h im => Sys2Proof.Machine.execLds32 d a h im s
  | .st8 sx a h im => Sys2Proof.Machine.execSt8 sx a h im s
  | .st16 sx a h im => Sys2Proof.Machine.execSt16 sx a h im s
  | .st32 sx a h im => Sys2Proof.Machine.execSt32 sx a h im s
  | .st64 sx a h im => Sys2Proof.Machine.execSt64 sx a h im s
  | .ldaq d a z y im => Sys2Proof.Machine.execLdaq d a z y im s
  | .strl sx a z y im => Sys2Proof.Machine.execStrl sx a z y im s
  | .amoSwap d a b z => Sys2Proof.Machine.execAmoSwap d a b z s
  | .amoAdd d a b z => Sys2Proof.Machine.execAmoAdd d a b z s
  | .amoAnd d a b z => Sys2Proof.Machine.execAmoAnd d a b z s
  | .amoOr d a b z => Sys2Proof.Machine.execAmoOr d a b z s
  | .amoXor d a b z => Sys2Proof.Machine.execAmoXor d a b z s
  | .amoMin d a b z => Sys2Proof.Machine.execAmoMin d a b z s
  | .amoMax d a b z => Sys2Proof.Machine.execAmoMax d a b z s
  | .amoMinz d a b z => Sys2Proof.Machine.execAmoMinz d a b z s
  | .amoMaxz d a b z => Sys2Proof.Machine.execAmoMaxz d a b z s
  | .amoFadd d a b => Sys2Proof.Machine.execAmoFadd d a b s
  | .amoXadd d a b => Sys2Proof.Machine.execAmoXadd d a b s
  | .redAdd a b z => Sys2Proof.Machine.execRedAdd a b z s
  | .redAnd a b z => Sys2Proof.Machine.execRedAnd a b z s
  | .redOr a b z => Sys2Proof.Machine.execRedOr a b z s
  | .redXor a b z => Sys2Proof.Machine.execRedXor a b z s
  | .redMin a b z => Sys2Proof.Machine.execRedMin a b z s
  | .redMax a b z => Sys2Proof.Machine.execRedMax a b z s
  | .redMinz a b z => Sys2Proof.Machine.execRedMinz a b z s
  | .redMaxz a b z => Sys2Proof.Machine.execRedMaxz a b z s
  | .redFadd a b => Sys2Proof.Machine.execRedFadd a b s
  | .redXadd a b => Sys2Proof.Machine.execRedXadd a b s
  | .cas d a b z => Sys2Proof.Machine.execCas d a b z s
  | .aoseqSwap d a b z => Sys2Proof.Machine.execAoseqSwap d a b z s
  | .aoseqAdd d a b z => Sys2Proof.Machine.execAoseqAdd d a b z s
  | .aoseqAnd d a b z => Sys2Proof.Machine.execAoseqAnd d a b z s
  | .aoseqOr d a b z => Sys2Proof.Machine.execAoseqOr d a b z s
  | .aoseqXor d a b z => Sys2Proof.Machine.execAoseqXor d a b z s
  | .aoseqMin d a b z => Sys2Proof.Machine.execAoseqMin d a b z s
  | .aoseqMax d a b z => Sys2Proof.Machine.execAoseqMax d a b z s
  | .aoseqMinz d a b z => Sys2Proof.Machine.execAoseqMinz d a b z s
  | .aoseqMaxz d a b z => Sys2Proof.Machine.execAoseqMaxz d a b z s
  | .aoseqFadd d a b => Sys2Proof.Machine.execAoseqFadd d a b s
  | .fenceSys pr => Sys2Proof.Machine.execFenceSys pr s
  | .fenceFab pr => Sys2Proof.Machine.execFenceFab pr s
  | .cacheopClean a b pr => Sys2Proof.Machine.execCacheopClean a b pr s
  | .cacheopDrop a b pr => Sys2Proof.Machine.execCacheopDrop a b pr s
  | .cacheopDemote a b pr => Sys2Proof.Machine.execCacheopDemote a b pr s
  | .cacheopSysinv a b pr => Sys2Proof.Machine.execCacheopSysinv a b pr s
  | .gend d pr => Sys2Proof.Machine.execGend d pr s
  | .share a pr => Sys2Proof.Machine.execShare a pr s
  | .hyield pr => Sys2Proof.Machine.execHyield pr s
  | .trap a im => Sys2Proof.Machine.execTrap a im s
  | .eret a pr => Sys2Proof.Machine.execEret a pr s
  | .halt pr => Sys2Proof.Machine.execHalt pr s
  | .yield pr => Sys2Proof.Machine.execYield pr s
  | .brk c pr => Sys2Proof.Machine.execBrk c pr s
  | .udf x => Sys2Proof.Machine.execUdf x s
  | .copy k a b c n => Sys2Proof.Machine.execCopy k a b c n s
  | .copyl k a b c n => Sys2Proof.Machine.execCopyl k a b c n s
  | .tpref k a b n => Sys2Proof.Machine.execTpref k a b n s
  | .bar k a n => Sys2Proof.Machine.execBar k a n s
  | .bara k a n => Sys2Proof.Machine.execBara k a n s
  | .barax k a n => Sys2Proof.Machine.execBarax k a n s
  | .barw k a n => Sys2Proof.Machine.execBarw k a n s
  | .collx k a b c n => Sys2Proof.Machine.execCollx k a b c n s
  | .lnch k a n => Sys2Proof.Machine.execLnch k a n s
  | .glnch k a n => Sys2Proof.Machine.execGlnch k a n s
  | .sigs k a b n => Sys2Proof.Machine.execSigs k a b n s
  | .sigw k a b n => Sys2Proof.Machine.execSigw k a b n s
  | .rcall k a b c n => Sys2Proof.Machine.execRcall k a b c n s
  | .rqry k a b c n => Sys2Proof.Machine.execRqry k a b c n s
  | .rtrim k a n => Sys2Proof.Machine.execRtrim k a n s
  | .wpin k a b n => Sys2Proof.Machine.execWpin k a b n s
  | .wunpin k a b n => Sys2Proof.Machine.execWunpin k a b n s
  | .wown k a b n => Sys2Proof.Machine.execWown k a b n s
  | .phase k a b n => Sys2Proof.Machine.execPhase k a b n s
  | .tokn k a b c n => Sys2Proof.Machine.execTokn k a b c n s
  | .fsend k a b c n => Sys2Proof.Machine.execFsend k a b c n s
  | .fget k a b c n => Sys2Proof.Machine.execFget k a b c n s
  | .xExt p => Sys2Proof.Machine.execXExt p s
  | .xTws k l m => Sys2Proof.Machine.execXTws k l m s
  | .xFmtx im o sx n b => Sys2Proof.Machine.execXFmtx im o sx n b s
  | .ldl a b h l pip => Sys2Proof.Machine.execLdl a b h l pip s
  | .lds a b h l pip => Sys2Proof.Machine.execLds a b h l pip s
  | .ldg a b h l pip => Sys2Proof.Machine.execLdg a b h l pip s
  | .ldq a h l pip => Sys2Proof.Machine.execLdq a h l pip s
  | .ldf a b h l pip => Sys2Proof.Machine.execLdf a b h l pip s
  | .lpf a h l pip => Sys2Proof.Machine.execLpf a h l pip s
  | .ssl a b h l g pip => Sys2Proof.Machine.execSsl a b h l g pip s
  | .sss a b h l g pip => Sys2Proof.Machine.execSss a b h l g pip s
  | .ssc a b h l g pip => Sys2Proof.Machine.execSsc a b h l g pip s
  | .sflgSet pip => Sys2Proof.Machine.execSflgSet pip s
  | .sflgSt d a pip => Sys2Proof.Machine.execSflgSt d a pip s
  | .sflgStf d pip => Sys2Proof.Machine.execSflgStf d pip s
  | .aincL d a im pip => Sys2Proof.Machine.execAincL d a im pip s
  | .aincT d a im pip => Sys2Proof.Machine.execAincT d a im pip s
  | .aincC d a im pip => Sys2Proof.Machine.execAincC d a im pip s
  | .aaddL d a b pip => Sys2Proof.Machine.execAaddL d a b pip s
  | .aaddT d a b pip => Sys2Proof.Machine.execAaddT d a b pip s
  | .aaddC d a b pip => Sys2Proof.Machine.execAaddC d a b pip s
  | .amovL d a pip => Sys2Proof.Machine.execAmovL d a pip s
  | .amovT d a pip => Sys2Proof.Machine.execAmovT d a pip s
  | .amovC d a pip => Sys2Proof.Machine.execAmovC d a pip s
  | .syncL pip => Sys2Proof.Machine.execSyncL pip s
  | .syncT pip => Sys2Proof.Machine.execSyncT pip s
  | .syncC pip => Sys2Proof.Machine.execSyncC pip s
  | .vadd d a b m pip => Sys2Proof.Machine.execVadd d a b m pip s
  | .vsub d a b m pip => Sys2Proof.Machine.execVsub d a b m pip s
  | .vmul d a b m pip => Sys2Proof.Machine.execVmul d a b m pip s
  | .vmin d a b m pip => Sys2Proof.Machine.execVmin d a b m pip s
  | .vmax d a b m pip => Sys2Proof.Machine.execVmax d a b m pip s
  | .vand d a b m pip => Sys2Proof.Machine.execVand d a b m pip s
  | .vor d a b m pip => Sys2Proof.Machine.execVor d a b m pip s
  | .vxor d a b m pip => Sys2Proof.Machine.execVxor d a b m pip s
  | .vsll d a b m pip => Sys2Proof.Machine.execVsll d a b m pip s
  | .vsrl d a b m pip => Sys2Proof.Machine.execVsrl d a b m pip s
  | .vsra d a b m pip => Sys2Proof.Machine.execVsra d a b m pip s
  | .vabs d a m pip => Sys2Proof.Machine.execVabs d a m pip s
  | .vminz d a b m pip => Sys2Proof.Machine.execVminz d a b m pip s
  | .vmaxz d a b m pip => Sys2Proof.Machine.execVmaxz d a b m pip s
  | .vfadd d a b t m pip => Sys2Proof.Machine.execVfadd d a b t m pip s
  | .vfsub d a b t m pip => Sys2Proof.Machine.execVfsub d a b t m pip s
  | .vfmul d a b t m pip => Sys2Proof.Machine.execVfmul d a b t m pip s
  | .vfma d a b t m pip => Sys2Proof.Machine.execVfma d a b t m pip s
  | .vfmin d a b t m pip => Sys2Proof.Machine.execVfmin d a b t m pip s
  | .vfmax d a b t m pip => Sys2Proof.Machine.execVfmax d a b t m pip s
  | .vfabs d a t m pip => Sys2Proof.Machine.execVfabs d a t m pip s
  | .vfneg d a t m pip => Sys2Proof.Machine.execVfneg d a t m pip s
  | .vfdiv d a b t m pip => Sys2Proof.Machine.execVfdiv d a b t m pip s
  | .vfsqrt d a t m pip => Sys2Proof.Machine.execVfsqrt d a t m pip s
  | .vfrsq d a t m pip => Sys2Proof.Machine.execVfrsq d a t m pip s
  | .vcmpEq d a b t m pip => Sys2Proof.Machine.execVcmpEq d a b t m pip s
  | .vcmpNe d a b t m pip => Sys2Proof.Machine.execVcmpNe d a b t m pip s
  | .vcmpLt d a b t m pip => Sys2Proof.Machine.execVcmpLt d a b t m pip s
  | .vcmpLe d a b t m pip => Sys2Proof.Machine.execVcmpLe d a b t m pip s
  | .vcmpUn d a b t m pip => Sys2Proof.Machine.execVcmpUn d a b t m pip s
  | .vcvt d a x y m pip => Sys2Proof.Machine.execVcvt d a x y m pip s
  | .lmul d a b m pip => Sys2Proof.Machine.execLmul d a b m pip s
  | .ldiv d a b m pip => Sys2Proof.Machine.execLdiv d a b m pip s
  | .ladd d a b m pip => Sys2Proof.Machine.execLadd d a b m pip s
  | .lsub d a b m pip => Sys2Proof.Machine.execLsub d a b m pip s
  | .lneg d a m pip => Sys2Proof.Machine.execLneg d a m pip s
  | .vmov d a m pip => Sys2Proof.Machine.execVmov d a m pip s
  | .vsel d a b pip => Sys2Proof.Machine.execVsel d a b pip s
  | .vperm d a b m pip => Sys2Proof.Machine.execVperm d a b m pip s
  | .vbcst d a m pip => Sys2Proof.Machine.execVbcst d a m pip s
  | .viota d m pip => Sys2Proof.Machine.execViota d m pip s
  | .vrsum d a t m pip => Sys2Proof.Machine.execVrsum d a t m pip s
  | .vrmax d a t m pip => Sys2Proof.Machine.execVrmax d a t m pip s
  | .vrmin d a t m pip => Sys2Proof.Machine.execVrmin d a t m pip s
  | .vriadd d a m pip => Sys2Proof.Machine.execVriadd d a m pip s
  | .xclr q pip => Sys2Proof.Machine.execXclr q pip s
  | .xmac q a b m pip => Sys2Proof.Machine.execXmac q a b m pip s
  | .xsum q a m pip => Sys2Proof.Machine.execXsum q a m pip s
  | .xrnd d q pip => Sys2Proof.Machine.execXrnd d q pip s
  | .xput q b pip => Sys2Proof.Machine.execXput q b pip s
  | .xget q a pip => Sys2Proof.Machine.execXget q a pip s
  | .xsave q b pip => Sys2Proof.Machine.execXsave q b pip s
  | .xload q a pip => Sys2Proof.Machine.execXload q a pip s
  | .defer a w m pip => Sys2Proof.Machine.execDefer a w m pip s
  | .drain d w b pip => Sys2Proof.Machine.execDrain d w b pip s
  | .dqcnt d pip => Sys2Proof.Machine.execDqcnt d pip s
  | .vscat d a b m pip => Sys2Proof.Machine.execVscat d a b m pip s
  | .vld d a m pip => Sys2Proof.Machine.execVld d a m pip s
  | .vst d a m pip => Sys2Proof.Machine.execVst d a m pip s
  | .vldx d a b m pip => Sys2Proof.Machine.execVldx d a b m pip s
  | .vstx d a b m pip => Sys2Proof.Machine.execVstx d a b m pip s
  | .twrow t im v f m pip => Sys2Proof.Machine.execTwrow t im v f m pip s
  | .trcol t im v f m pip => Sys2Proof.Machine.execTrcol t im v f m pip s
  | .trrow t im v f m pip => Sys2Proof.Machine.execTrrow t im v f m pip s
  | .tclr t pip => Sys2Proof.Machine.execTclr t pip s
  | .tld t v pip => Sys2Proof.Machine.execTld t v pip s
  | .tst t v pip => Sys2Proof.Machine.execTst t v pip s
  | .vrand d a b w m pip => Sys2Proof.Machine.execVrand d a b w m pip s
  | .mand d a b pip => Sys2Proof.Machine.execMand d a b pip s
  | .mor d a b pip => Sys2Proof.Machine.execMor d a b pip s
  | .mxor d a b pip => Sys2Proof.Machine.execMxor d a b pip s
  | .mnot d a pip => Sys2Proof.Machine.execMnot d a pip s
  | .mpop d a pip => Sys2Proof.Machine.execMpop d a pip s
  | .mfirst d a pip => Sys2Proof.Machine.execMfirst d a pip s
  | .gchk a m pip => Sys2Proof.Machine.execGchk a m pip s
  | .vsplat d im m pip => Sys2Proof.Machine.execVsplat d im m pip s
  | .angl l a x y z pip => Sys2Proof.Machine.execAngl l a x y z pip s
  | .abmp l a pip => Sys2Proof.Machine.execAbmp l a pip s
  | .rscl l a pip => Sys2Proof.Machine.execRscl l a pip s
  | .rsclV l v pip => Sys2Proof.Machine.execRsclV l v pip s
  | .rlane a pip => Sys2Proof.Machine.execRlane a pip s
  | .rpush n a f pip => Sys2Proof.Machine.execRpush n a f pip s
  | .rpushv n v f m pip => Sys2Proof.Machine.execRpushv n v f m pip s
  | .rpop t a b f pip => Sys2Proof.Machine.execRpop t a b f pip s
  | .rpopv d t v f m pip => Sys2Proof.Machine.execRpopv d t v f m pip s
  | .reos pip => Sys2Proof.Machine.execReos pip s
  | .rstream n a b f pip => Sys2Proof.Machine.execRstream n a b f pip s
  | .rsweep a b pip => Sys2Proof.Machine.execRsweep a b pip s
  | .rplane l pip => Sys2Proof.Machine.execRplane l pip s
  | .rplaneT pip => Sys2Proof.Machine.execRplaneT pip s
  | .rsave a pip => Sys2Proof.Machine.execRsave a pip s
  | .rload a pip => Sys2Proof.Machine.execRload a pip s
  | .rmonOff pip => Sys2Proof.Machine.execRmonOff pip s
  | .rmonOn pip => Sys2Proof.Machine.execRmonOn pip s
  | .rmonClr pip => Sys2Proof.Machine.execRmonClr pip s
  | .loope e l c => Sys2Proof.Machine.execLoope e l c s
  | .role m l => Sys2Proof.Machine.execRole m l s
  | .chbeg im n => Sys2Proof.Machine.execChbeg im n s
  | .chend => Sys2Proof.Machine.execChend s
  | .chloop sx c => Sys2Proof.Machine.execChloop sx c s
  | .xferG f t sx r => Sys2Proof.Machine.execXferG f t sx r s
  | .xferV f t sx r => Sys2Proof.Machine.execXferV f t sx r s
  | .xferB f t c z => Sys2Proof.Machine.execXferB f t c z s
  | .drift n => Sys2Proof.Machine.execDrift n s
  | .tsync => Sys2Proof.Machine.execTsync s
  | .branchResolve core => Sys2Proof.Machine.execBranchResolve core s
  | .pipdeadDetect core => Sys2Proof.Machine.execPipdeadDetect core s
  | .engineRetire core e => Sys2Proof.Machine.execEngineRetire core e s
  | .iterationStart gang => Sys2Proof.Machine.execIterationStart gang s
  | .ptsIdleAdvance core q => Sys2Proof.Machine.execPtsIdleAdvance core q s
  | .homeLoad req => Sys2Proof.Machine.execHomeLoad req s
  | .homeWritePerform req => Sys2Proof.Machine.execHomeWritePerform req s
  | .homeAtomicPerform req => Sys2Proof.Machine.execHomeAtomicPerform req s
  | .aoseqArrival core => Sys2Proof.Machine.execAoseqArrival core s
  | .aoseqResend core => Sys2Proof.Machine.execAoseqResend core s
  | .combiningBufferTimeout core line => Sys2Proof.Machine.execCombiningBufferTimeout core line s
  | .copyEngineStart pod => Sys2Proof.Machine.execCopyEngineStart pod s
  | .copyComplete op => Sys2Proof.Machine.execCopyComplete op s
  | .tprefComplete op => Sys2Proof.Machine.execTprefComplete op s
  | .barrierPhaseComplete gang b => Sys2Proof.Machine.execBarrierPhaseComplete gang b s
  | .fabricBarrierPacket part entry round ts => Sys2Proof.Machine.execFabricBarrierPacket part entry round ts s
  | .fabricBarrierCompletion part entry round ts => Sys2Proof.Machine.execFabricBarrierCompletion part entry round ts s
  | .fabricMessageArrival op msg ok => Sys2Proof.Machine.execFabricMessageArrival op msg ok s
  | .fabricMessageResend op msg => Sys2Proof.Machine.execFabricMessageResend op msg s
  | .fabricOpComplete op => Sys2Proof.Machine.execFabricOpComplete op s
  | .flushMarkerGather op => Sys2Proof.Machine.execFlushMarkerGather op s
  | .planeLoadComplete core => Sys2Proof.Machine.execPlaneLoadComplete core s
  | .vectorExit core => Sys2Proof.Machine.execVectorExit core s
  | .tstatUpdate core => Sys2Proof.Machine.execTstatUpdate core s
  | .guardDecision gang => Sys2Proof.Machine.execGuardDecision gang s
  | .fallback core cause => Sys2Proof.Machine.execFallback core cause s
  | .launchAdmit die => Sys2Proof.Machine.execLaunchAdmit die s
  | .launchReady launch => Sys2Proof.Machine.execLaunchReady launch s
  | .schedulerTick die => Sys2Proof.Machine.execSchedulerTick die s
  | .launchAging launch => Sys2Proof.Machine.execLaunchAging launch s
  | .gangPreemptible core => Sys2Proof.Machine.execGangPreemptible core s
  | .waitTimeout core q => Sys2Proof.Machine.execWaitTimeout core q s
  | .launchComplete launch => Sys2Proof.Machine.execLaunchComplete launch s
  | .bankDrainComplete gang => Sys2Proof.Machine.execBankDrainComplete gang s
  | .windowWordPerform op => Sys2Proof.Machine.execWindowWordPerform op s
  | .objectCallLog op => Sys2Proof.Machine.execObjectCallLog op s
  | .heldCallTimeout op => Sys2Proof.Machine.execHeldCallTimeout op s
  | .replayApplyEntry die obj => Sys2Proof.Machine.execReplayApplyEntry die obj s
  | .replayQueryRun op => Sys2Proof.Machine.execReplayQueryRun op s
  | .replicaCrcCompare obj => Sys2Proof.Machine.execReplicaCrcCompare obj s
  | .headerDivergence team beat => Sys2Proof.Machine.execHeaderDivergence team beat s
  | .driftStallRelease core => Sys2Proof.Machine.execDriftStallRelease core s
  | .handoverMessageArrival team msg => Sys2Proof.Machine.execHandoverMessageArrival team msg s
  | .handoverBlockMove team msg => Sys2Proof.Machine.execHandoverBlockMove team msg s
  | .teamBarrierComplete team => Sys2Proof.Machine.execTeamBarrierComplete team s
  | .engineTrapEntry core => Sys2Proof.Machine.execEngineTrapEntry core s
  | .huskResume core pc => Sys2Proof.Machine.execHuskResume core pc s
  | .huskEndLaunch core => Sys2Proof.Machine.execHuskEndLaunch core s
  | .contextSaveComplete core => Sys2Proof.Machine.execContextSaveComplete core s
  | .queueResetComplete part queue => Sys2Proof.Machine.execQueueResetComplete part queue s
  | .patrolScrub addr uncorrectable => Sys2Proof.Machine.execPatrolScrub addr uncorrectable s
  | .huskTimerExpiry core => Sys2Proof.Machine.execHuskTimerExpiry core s
  | .huskFailure core => Sys2Proof.Machine.execHuskFailure core s
  | .qwidxWrite vf q v => Sys2Proof.Machine.execQwidxWrite vf q v s
  | .qcfgWrite vf q v => Sys2Proof.Machine.execQcfgWrite vf q v s
  | .completionWrite vf q => Sys2Proof.Machine.execCompletionWrite vf q s
  | .invoke part => Sys2Proof.Machine.execInvoke part s
  | .loadSlot part => Sys2Proof.Machine.execLoadSlot part s
  | .unloadSlot part => Sys2Proof.Machine.execUnloadSlot part s
  | .signalSet part => Sys2Proof.Machine.execSignalSet part s
  | .signalAdd part => Sys2Proof.Machine.execSignalAdd part s
  | .resetQueue part => Sys2Proof.Machine.execResetQueue part s
  | .preempt part => Sys2Proof.Machine.execPreempt part s
  | .invalidCommand part => Sys2Proof.Machine.execInvalidCommand part s
  | .apertureRead vf off n => Sys2Proof.Machine.execApertureRead vf off n s
  | .apertureWrite vf off n v => Sys2Proof.Machine.execApertureWrite vf off n v s
  | .hilumTsAdvance vf => Sys2Proof.Machine.execHilumTsAdvance vf s
  | .vfFlr vf => Sys2Proof.Machine.execVfFlr vf s
  | .partitionCreate part cb => Sys2Proof.Machine.execPartitionCreate part cb s
  | .partitionDestroy part => Sys2Proof.Machine.execPartitionDestroy part s
  | .partitionUpdate part => Sys2Proof.Machine.execPartitionUpdate part s
  | .invalidateTlbs part => Sys2Proof.Machine.execInvalidateTlbs part s
  | .revokePins part slot => Sys2Proof.Machine.execRevokePins part slot s
  | .coldStart => Sys2Proof.Machine.execColdStart s
  | .warmStart => Sys2Proof.Machine.execWarmStart s
  | .startTimeout => Sys2Proof.Machine.execStartTimeout s
  | .recoveryImage image => Sys2Proof.Machine.execRecoveryImage image s
  | .getVersion => Sys2Proof.Machine.execGetVersion s
  | .getCapabilities => Sys2Proof.Machine.execGetCapabilities s
  | .negotiateAlgorithms => Sys2Proof.Machine.execNegotiateAlgorithms s
  | .getDigests => Sys2Proof.Machine.execGetDigests s
  | .getCertificate => Sys2Proof.Machine.execGetCertificate s
  | .challenge => Sys2Proof.Machine.execChallenge s
  | .getMeasurements => Sys2Proof.Machine.execGetMeasurements s
  | .keyExchange => Sys2Proof.Machine.execKeyExchange s
  | .finish => Sys2Proof.Machine.execFinish s
  | .ideKmKeyProgram stream key => Sys2Proof.Machine.execIdeKmKeyProgram stream key s
  | .powerWindow die power temp => Sys2Proof.Machine.execPowerWindow die power temp s
  | .dvfsRequest die v => Sys2Proof.Machine.execDvfsRequest die v s
  | .dvfsStepComplete die => Sys2Proof.Machine.execDvfsStepComplete die s
  | .recctlWrite part v => Sys2Proof.Machine.execRecctlWrite part v s
  | .registerWrite off v => Sys2Proof.Machine.execRegisterWrite off v s
  | .splitterSteer core => Sys2Proof.Machine.execSplitterSteer core s
  | .rootComplexAck op => Sys2Proof.Machine.execRootComplexAck op s
  | .hostReadCompletion op => Sys2Proof.Machine.execHostReadCompletion op s
  | .contextRestoreComplete core => Sys2Proof.Machine.execContextRestoreComplete core s
  | .replayArrivalTimeout launch => Sys2Proof.Machine.execReplayArrivalTimeout launch s

end Sys2Proof.Machine
end

