-- ==== Sys2Proof/Machine/Fetch.lean ====
section
/-! DEFINITION. Sys2Proof/Machine/Fetch.lean: what a turn does around the meaning of a word: the turn of S, the turn of an
engine at its queue (R8, R9, R23, R82, R355, R362), a turn of the device or the host, the clocks and counters that pass
with a step (R26, R245, R390), and how a word is laid where the next step runs it. -/

namespace Sys2Proof.Machine

/-! ### Decoded words -/

/-- The meaning of a word of the R or M space. -/
def execRM : RMInstr → State → Host.Outcome State Fault Refusal
  | .angl l a x y z pip, s => execAngl l a x y z pip s
  | .abmp l a pip, s => execAbmp l a pip s
  | .rscl l a pip, s => execRscl l a pip s
  | .rsclV l v pip, s => execRsclV l v pip s
  | .rlane a pip, s => execRlane a pip s
  | .rpush n a f pip, s => execRpush n a f pip s
  | .rpushv n v f m pip, s => execRpushv n v f m pip s
  | .rpop t a b f pip, s => execRpop t a b f pip s
  | .rpopv d t v f m pip, s => execRpopv d t v f m pip s
  | .reos pip, s => execReos pip s
  | .rstream n a b f pip, s => execRstream n a b f pip s
  | .rsweep a b pip, s => execRsweep a b pip s
  | .rplane l pip, s => execRplane l pip s
  | .rplaneT pip, s => execRplaneT pip s
  | .rsave a pip, s => execRsave a pip s
  | .rload a pip, s => execRload a pip s
  | .rmonOff pip, s => execRmonOff pip s
  | .rmonOn pip, s => execRmonOn pip s
  | .rmonClr pip, s => execRmonClr pip s
  | .loope e l c, s => execLoope e l c s
  | .role m l, s => execRole m l s
  | .chbeg i n, s => execChbeg i n s
  | .chend, s => execChend s
  | .chloop sp c, s => execChloop sp c s
  | .xferG f t sx r, s => execXferG f t sx r s
  | .xferV f t sx r, s => execXferV f t sx r s
  | .xferB f t c z, s => execXferB f t c z s
  | .drift n, s => execDrift n s
  | .tsync, s => execTsync s

/-- The meaning of a decoded word. -/
def execDecoded : Decoded → State → Host.Outcome State Fault Refusal
  | .word i, s => exec i s
  | .rm r, s => execRM r s

theorem execDecoded_eq (d : Decoded) (s : State) : execDecoded d s = exec d.toInstr s := by
  cases d with
  | word i => rfl
  | rm r => cases r <;> rfl

/-! ### Clocks and counters -/

/-- Offset of the counters of a core (R390). -/
def coreBlock (core : Nat) : Nat := dieBlock (core / 64) + 0x100 + 64 * (core % 64)

/-- C holds a word in its queue and does not issue it: it waits, a trap of an engine holds it, or its gang does not run (Table
21.2). -/
def State.cStalls (s : State) (n : Nat) (c : Core) : Bool :=
  c.c.entry.isSome && c.c.stat != .retired &&
    ((match c.c.stat with | .waiting _ => true | _ => false) || c.engTrap.isSome || ((s.gangOf n).map fun g => g.state) != some .bound)

/-- The cycles of a step count for a bound core: its bound cycles, and C's stall cycles (Table 21.2). -/
def State.coreCycles (s : State) (seed : Nat) (x : Nat × Core) : State :=
  let d := x.1 / 64
  let n := Config.elapsed seed d
  if x.2.binding.isNone || decide (x.1 ≥ 256) then s
  else
    let waits := s.cStalls x.1 x.2
    let s1 := (s.count (coreBlock x.1) n).updDie d fun y => { y with bound := y.bound + n, stall := y.stall + (if waits then n else 0) }
    if waits then s1.count (coreBlock x.1 + 24) n else s1

/-- The cycles, swallowed pulses and reference time that pass with a step. How many, the model does not say (log entry 10). -/
def State.pass (s : State) (seed : Nat) : State :=
  let dies := (List.range 4).foldl (fun (a : State) d =>
    a.updDie d fun y =>
      { y with cycles := y.cycles + BitVec.ofNat 64 (Config.elapsed seed d),
               swallowed := y.swallowed + (if y.level = 0 then 0 else BitVec.ofNat 64 (Config.elapsed seed (8 + d))) }) s
  let s1 := s.cores.foldl (fun (a : State) x => a.coreCycles seed x) dies
  { s1 with reftime := s1.reftime + BitVec.ofNat 64 (Config.elapsed seed 4) }

/-- The host may mask an MSI-X vector of a VF or end its mask; a pending one is then raised (R370). UNVERIFIED: the spec names no
step for it, and whether one happens, and to which vector, is open (log entry 135). -/
def State.maskTurn (s : State) (seed : Nat) : Cells Vf × List (Nat × Nat) :=
  let v := Config.freeNat seed 645 % 128
  let k := Config.freeNat seed 646 % 2048
  let x := s.vf v
  if !Config.choice seed 647 v then (s.vfs, s.msix)
  else if x.masked.contains k then
    (Cells.put s.vfs v { x with masked := x.masked.erase k, pending := x.pending.erase k }, if x.pending.contains k then (v, k) :: s.msix else s.msix)
  else (Cells.put s.vfs v { x with masked := k :: x.masked }, s.msix)

/-- The end of a step: time passes, what waits for no one else happens, and the next turn is drawn. -/
def State.tick (s : State) (seed : Nat) : State :=
  let a := s.pass seed
  { a with
      aoseqs := a.aoseqSweep.aoseqs, vfs := (a.maskTurn seed).1, msix := (a.maskTurn seed).2, turn := Config.schedule seed,
      fresh := seed + 1 }

/-- The outcome of a turn, with what the end of the step adds. -/
def finish (seed : Nat) (f : State → State) : Host.Outcome State Fault Refusal → Host.Outcome State Fault Refusal
  | .next s => .next ((f s).tick seed)
  | .fault f => .fault f
  | .refused r => .refused r

/-- C has issued the word at which it stood: its pips are popped, and it has begun. -/
def issuedC (before after : Engine) : Bool :=
  before.base.isNone && before.pushes.isEmpty &&
    (match after.stat with
     | .waiting (.pipPush _) => true
     | .waiting _ => after.base.isSome
     | _ => true)

/-- The words and vectors that a turn of a core counts (Table 21.2): an S word of the user context at its first issue, a C
word when it begins, vectors that have entered the array, and memory requests, of which the spec does not say what
counts as one (log entry 75). -/
def State.counted (s before : State) (agent : Nat) (q : Seq) : State :=
  let b := before.core agent
  if agent ≥ 256 then s
  else
    let first : Bool := match q with
      | .s => b.user.stat == .running
      | .c => issuedC b.c (s.core agent).c
      | _ => false
    let s1 := if first then (match q with
        | .s => s.count (coreBlock agent + 8) 1
        | .c => s.count (coreBlock agent + 16) 1
        | _ => s) else s
    let entered := (s.core agent).arr.inflight.length - b.arr.inflight.length
    (s1.count (coreBlock agent + 32) entered).count (coreBlock agent + 40) (Config.freeNat before.fresh 760)

/-! ### The turn of an engine -/

/-- What a turn of an engine comes to. -/
inductive ETurn where
  | other (s : State)
  | word (d : Decoded)

/-- The engine may not begin a word: its core has an engine trap, or its gang is not running (R355, R362). -/
def State.engineHeld (s : State) : Bool :=
  s.cur.engTrap.isSome || !(match s.gangOf s.agent with | some g => g.state == .bound | none => false)

/-- A register write of S that reaches the head of an engine's queue (R82, R83, R89). A write of TSTAT replaces an update of its
tag that has not landed (R169). -/
def Core.queuedWrite (c : Core) (e : Eng) (q : QEntry) : Core :=
  match q.kind with
  | .regA i => c.updEng e fun x => x.setA i q.val
  | .regLc i => c.updEng e fun x => if i = 0 then { x with lc0 := q.val.setWidth 32 } else { x with lc1 := q.val.setWidth 32 }
  | .msel i => { c with vec := { c.vec with msel := i } }
  | .sysreg i =>
    let c1 := c.writeC i.toNat q.val
    if 0x030 ≤ i.toNat ∧ i.toNat < 0x040 then
      { c1 with vec := { c1.vec with tupd := c1.vec.tupd.filter fun u => u.tag != i.toNat - 0x030 } }
    else c1
  | .word => c
  | .halt => c

/-- LS with the aligned 8 bytes around an address inverted. -/
def flipLs (m : Memory) (a : Nat) : Memory :=
  (List.range 8).foldl (fun x i => Memory.write x (a / 8 * 8 + i) (~~~(Memory.read m (a / 8 * 8 + i)))) m

/-- The meaning of a word of an engine depends on the aligned 8 bytes of LS around an address: with them inverted the state that
follows differs in more than those of them that the word does not write. -/
def State.readsLs (s : State) (d : Decoded) (a : Nat) : Bool :=
  let ls := s.cur.ls
  let flip := flipLs ls a
  match execDecoded d s, execDecoded d (s.onCore fun c => { c with ls := flip }) with
  | .next t, .next u =>
    let byte (m : Memory) (i : Nat) : Byte := Memory.read m (a / 8 * 8 + i)
    let kept (i : Nat) : Bool :=
      byte u.cur.ls i == byte t.cur.ls i || (byte t.cur.ls i == byte ls i && byte u.cur.ls i == byte flip i)
    let put (i : Nat) (m : Memory) : Memory := Memory.write m (a / 8 * 8 + i) (byte t.cur.ls i)
    !((List.range 8).all kept) ||
      (u.onCore fun c => { c with ls := (List.range 8).foldl (fun m i => put i m) c.ls }) != t
  | _, _ => false

/-- A word of an engine reads an LS word with an uncorrectable error: `ECC` (R123, R356). DEDUCED: it reads it if its effect depends
on the aligned 8 bytes around the address of the error (log entry 24). -/
def State.eccLs (s : State) (d : Decoded) : Option Flt :=
  ((s.cur.errs.filter fun x => x.1 == 1).find? fun x => s.readsLs d (x.2.toNat % 1048576)).map fun x => ⟨0x0D, x.2, 1⟩

/-- The gang of the core stops for preemption. -/
def State.saving (s : State) : Bool := match s.gangOf s.agent with | some g => g.state == .saving | none => false

/-- The turn of an engine of the core whose turn it is. An engine that has trapped does not move, but for a race, which stops it at
the end of its word; under another engine's trap, or for preemption, it completes the word that it has begun, or comes to the
boundary inside it (R183, R301, R355, R362). -/
def State.eTurn (s : State) (e : Eng) : ETurn :=
  let x := s.cur.eng e
  match x.entry with
  | none => .other s
  | some q =>
    let trapped := match s.cur.engTrap with | some t => t.e == e && t.flt.cause != 0x07 | none => false
    let stops := s.saving && e == .c && x.atStop
    let begun := ((x.midWord && !stops) || !x.pushes.isEmpty) && !trapped
    if x.stat = .retired ∨ (s.engineHeld = true ∧ begun = false) then .other s
    else
      match q.kind with
      | .word =>
        if x.skip > 0 then .other (s.onEng e Engine.skipWord)
        else if q.word.extractLsb' 29 3 = 6 then .other (s.onEng e fun y => y.latch (prefixOf q.word q.at_))
        else
          (match (if s.cur.engTrap.isSome then none else s.eccWord q.word), decodeWord q.word with
           | some f, _ => .other (engineTrap e f false 0 s)
           | none, .ok d =>
             (match (if s.cur.engTrap.isSome then none else s.eccLs d) with
              | some f => .other (engineTrap e f false 0 s)
              | none => .word d)
           | none, .error _ => .other s)
      | .halt => .other (s.retireEngine s.agent e)
      | _ => .other (s.onCore fun c => (c.queuedWrite e q).updEng e Engine.take)

/-! ### LS bytes of a command in progress (R113) -/

/-- Some of the LS bytes that a command will have written, with their old and new values; which, is open (log entry 21). -/
def someBytes (seed : Nat) (old new : Memory) : List (Nat × Byte × Byte) :=
  ((old ++ new).filter fun x => Memory.read old x.1 != Memory.read new x.1 && Config.choice seed 612 x.1).map fun x =>
    (x.1, Memory.read old x.1, Memory.read new x.1)

/-- LS is as before the word of the engine at which it stands (R113). -/
def State.unland (s : State) (e : Eng) : State :=
  if (s.cur.eng e).landed.isEmpty then s else s.onCore fun c => c.unland e

/-- An engine whose word has written these bytes ahead of the rest. -/
def Core.putLanded (c : Core) (e : Eng) (l : List (Nat × Byte × Byte)) : Core :=
  { c with ls := l.foldl (fun m (x : Nat × Byte × Byte) => Memory.write m x.1 x.2.2) c.ls }.updEng e fun (x : Engine) => { x with landed := l }

/-- The word that an engine stands at writes some of its LS bytes ahead of the rest (R113): each byte is old or new for a read
that no pip orders. The engine's own turn undoes it, so that the word reads what stood there before it. -/
def State.land (s : State) : State :=
  let e := engOf s.who
  let s0 := s.unland e
  match s0.eTurn e with
  | .word d =>
    (match execDecoded d s0 with
     | .next t => s0.onCore fun c => c.putLanded e (someBytes s.fresh c.ls t.cur.ls)
     | _ => s0)
  | .other _ => s0

/-! ### Turns -/

/-- The rows of the opcode table without an encoding: steps of the device or the host. -/
def isEvent (i : Instr) : Bool := (toFmt i).isNone

/-- The sequencers of the device: cores 0 to 255, copy engines 256 to 287, replay engines 288 to 291 (R5, R247). -/
def exists_ (agent : Nat) : Bool := decide (agent < 292)

/-- The cycle in which Husk issues a word (R244). -/
def State.now (s : State) : Word := (s.die (dieOf s.agent)).cycles

/-- Husk may issue in this cycle: the user context is not about to issue the second word of a fetch pair, and Husk has issued
fewer than SHARE words in the last 256 cycles, unless the user context does not run (R244). A word that already waits needs no
slot. -/
def State.huskIssues (s : State) : Bool :=
  let c := s.cur
  let u : State := { s with turn := .seq s.agent .s }
  let stalled := match u.fetchAt u.pc with | .ok w => u.unresolved w || u.hazard w | .error _ => true
  let off := (match c.user.stat with | .trapped _ => true | .stopped _ => true | .unbound => true | _ => false) || c.binding.isNone
    || c.kept.isSome || (c.engTrap.map fun t => t.entered) == some true
  let pair := c.user.stat != .running || !c.user.pc.getLsbD 2 || stalled
  c.husk.stat != .running || (pair && (off || decide ((c.issued.filter fun x => (s.now - x).toNat < 256).length < c.share.toNat)))

/-- What the issue of a word of Husk leaves: the cycle, and, after the second word of a pair, what the pair had left to do (R95,
R244). -/
def State.huskIssued (s before : State) : State :=
  s.updCore before.agent fun c =>
    let b := before.cur
    let d := if b.husk.stat = .running then { c with issued := before.now :: (c.issued.filter fun x => (before.now - x).toNat < 256) } else c
    match d.pairAct, d.husk.stat with
    | some _, .waiting _ => d
    | some (_, a), _ => if b.husk.pc = a then d.endPair else d
    | none, _ => d

/-- A turn of a sequencer. -/
def seqTurn (agent : Nat) (q : Seq) (s : State) : Host.Outcome State Fault Refusal :=
  let seed := s.fresh
  if s.boot ≠ .ready then .fault .notReady
  else if !exists_ agent then .next (s.tick seed)
  else
    let engine (e : Eng) : Host.Outcome State Fault Refusal :=
      let s0 := s.unland e
      match s0.eTurn e with
      | .other s1 => .next (s1.tick seed)
      | .word d => finish seed (fun t => t.counted s agent q) (execDecoded d s0)
    let scalar (_ : Unit) : Host.Outcome State Fault Refusal :=
      match s.sTurn with
      | .other s1 => .next (s1.tick seed)
      | .steered s1 => .next (s1.tick seed)
      | .word d s1 => finish seed (fun t => t.counted s agent q) (execDecoded d s1)
    let husk (_ : Unit) : Host.Outcome State Fault Refusal :=
      if !s.huskIssues then .next (s.tick seed)
      else
        match s.sTurn with
        | .other s1 => .next (s1.tick seed)
        | .steered s1 => .next ((s1.huskIssued s).tick seed)
        | .word d s1 => finish seed (fun t => (t.counted s agent q).huskIssued s) (execDecoded d s1)
    match q with
    | .s => scalar ()
    | .husk => husk ()
    | .l => engine .l
    | .c => engine .c
    | .t => engine .t

/-- A turn: of a sequencer, of the device or the host, or of the LS bytes of a command. -/
def runTurn (s : State) : Host.Outcome State Fault Refusal :=
  match s.turn with
  | .seq a q => seqTurn a q s
  | .event i => if isEvent i then finish s.fresh (fun t => t) (exec i s) else .next (s.tick s.fresh)
  | .landing a _ => .next ((if s.boot = .ready ∧ exists_ a = true then s.land else s).tick s.fresh)

/-! ### A word laid where the next step runs it -/

/-- A partition whose tables map the first GiB of package memory onto itself, for core 0 to fetch in. -/
def fetchPart : Part :=
  { link := 0, lease := 64, yieldUs := 100, share := 1, flags := 0, pods := BitVec.allOnes 32, ports := 0, vfs := 0,
    slices := BitVec.allOnes 128, ranges := [(0, 2 ^ 30)], root := 1, huskRoot := 1, asid := 0, sigHome := 0, pinBudget := 0, pinsInUse := 0,
    ringBase := 0x100000, ringLog := 6, ringNext := 0, raceBase := 0x110000, raceLog := 6, raceNext := 0, raceDrops := 0,
    shadowBase := 0, shadowSize := 0, keyHash := 0, fbars := [], signals := [], nextNumber := 2, busy := none, stopped := false,
    rr := [], claim := none, granted := 0 }

/-- A launch of one core at an address. -/
def fetchLaunch (entry : Word) : Launch :=
  { part := 0, number := 1,
    rec_ := { entry := entry, kind := 0, prio := 0, inOrder := false, queue := 0, gangSize := 1, timeout := 1000, placement := 0,
              ext := 0, waits := [], dones := [], args := List.replicate 8 0 },
    nest := ⟨1, 0, [1], [0], 0⟩, binder := none, exact := 0, tolerance := 0, buffer := 0, state := .running, status := 0, startTs := 0,
    doneTs := 0, total := 1, handed := 1, redo := [], redoHanded := 0, aged := false, slot := none,
    windows := List.replicate 64 Win.empty, pinLim := 0, pinUse := 0, gstat := 0, reloc := [], tok := TokRef.none, invoke := none,
    key := [], parent := none }

/-- The gang of that launch: core 0. -/
def fetchGang : Gang :=
  { launch := 0, members := [0], state := .bound, iter := some 0, redoing := false, barriers := [], arrivals := [], phaseNo := 0,
    round := none, guardAt := [], decision := none, preemptible := false, gaveWay := false, discard := false, team := none, saved := [], ctxs := [] }

/-- Where the word stands. -/
def fetchAddr : Word := 0x8000

/-- The core ready for the word: S at its address, or the word at the head of an engine's queue. -/
def Core.forWord (c : Core) (w : InstrWord) (dest : Option Eng) : Core :=
  let c1 := { c with binding := some ⟨0, 0, 0⟩, handler := false, engTrap := none, errs := [], team := Team.reset }
  match dest with
  | none => { c1 with user := { (c1.user.goto fetchAddr) with split := some ⟨fetchAddr, c1.user.getP (w.extractLsb' 20 3) != (w.extractLsb' 19 1 == 1)⟩ } }
  | some e => c1.updEng e fun x =>
      { Engine.clear x with a := x.a, lc0 := x.lc0, lc1 := x.lc1, queue := [⟨.word, w, fetchAddr, 0, c.floor, 0, 0⟩] }

/-- The state in which the next step runs the word. -/
def State.layWord (s : State) (w : InstrWord) : State :=
  let dest := destOf w
  let mem := Memory.writeNat (Memory.writeNat (Memory.writeNat (Memory.writeNat s.mem 4096 8 0x2001) 8192 8 0x3001) 12288 8 0x3F)
    fetchAddr.toNat 4 w.toNat
  { s with
    mem := mem, boot := .ready, poison := [], sys := [], aoseqs := [], parts := [(0, fetchPart)], launches := [(0, fetchLaunch fetchAddr)],
    gangs := [(0, fetchGang)], pods := Cells.put s.pods 0 Pod.reset, cores := Cells.put s.cores 0 ((s.core 0).forWord w dest),
    turn := .seq 0 (match dest with | none => .s | some e => e.seq) }

end Sys2Proof.Machine
end

