-- ==== Sys2Proof/Machine/Step.lean ====
section
/-! DEFINITION. Sys2Proof/Machine/Step.lean: one step of the machine, and the state whose next step runs a given word. -/

namespace Sys2Proof.Machine

/-- One step: the turn that the state names. -/
def step (s : State) : Host.Outcome State Fault Refusal := runTurn s

/-- The state with the table word `w` where the next step runs it: at the pc of S of core 0, or, for a word that the splitter
steers to an engine, at the head of that engine's queue. -/
def State.withFetchWord (s : State) (nbits w : Nat) : State := s.layWord (BitVec.ofNat 32 (w % 2 ^ nbits))

end Sys2Proof.Machine
end

