-- ==== Sys2Proof/Safety.lean ====
section
/-! DEFINITION. Sys2Proof/Safety.lean: the terms in which claims are made: canonical memories, a sequencer that is ready to
execute a word, what an instruction answers, and what it leaves as it was. -/

namespace Sys2Proof.Machine

/-! ### Invariants and runs -/

/-- The memories are in canonical form, the save areas too. -/
def State.MemOk (s : State) : Prop :=
  Memory.wf s.mem = true ∧ Memory.wf s.scratch = true ∧ Memory.wf s.host = true ∧ Memory.wf s.peer = true ∧ Memory.wf s.save = true

/-- Every line has its write timestamp at or below its lease end (R282). -/
def State.LeasesOk (s : State) : Prop := ∀ l, (s.tsAt l).wts ≤ (s.tsAt l).rts

/-- The invariant of the machine's storage. -/
def State.Inv (s : State) : Prop := s.MemOk ∧ s.LeasesOk

/-- No step from the state, for `k` steps, stops at a fault or a refusal. -/
def State.Safe : Nat → State → Prop
  | 0, _ => True
  | k + 1, s => ∃ t, step s = .next t ∧ State.Safe k t

/-! ### Readiness and completion -/

/-- The context whose turn it is stands at a word without a prefix, and no A word waits for its X.TWS. -/
def State.Plain (s : State) : Prop := s.ctx.pfx = .none ∧ s.ctx.pend = none

/-- The same, with or without an X.EXT before the word. -/
def State.PlainOrExt (s : State) : Prop := (s.ctx.pfx = .none ∨ ∃ p a, s.ctx.pfx = .ext p a) ∧ s.ctx.pend = none

/-- The instruction answers a next state of which `P` holds. -/
def Completes (i : Instr) (s : State) (P : State → Prop) : Prop := ∃ t, exec i s = .next t ∧ P t

/-- A context of S stands at the word `w` of its fetch address and executes it in this turn: it goes on, Husk has an issue slot,
no trap of an engine waits for it, no end of a span stands here, its fetch does not wait for an IDE stream and answers without an
uncorrectable error, no placement
check stops it, no queue takes it, its branch is resolved and the data of its registers has arrived. -/
def State.ExecutesNow (s : State) (w : InstrWord) : Prop :=
  (s.ctx.stat = .running ∨ ∃ x, s.ctx.stat = .waiting x) ∧
  (s.inHusk = true ∨ ∀ t, s.cur.engTrap = some t → t.entered = true) ∧
  (s.inHusk = true → s.huskIssues = true) ∧
  s.atSpanEnd = false ∧ s.pastOuter = false ∧ s.fetchHeld = false ∧ s.fetchAt s.pc = .ok w ∧ s.eccWord w = none ∧
  (s.noteTlb s.agent s.inHusk s.pc).placement w = none ∧ destOf w = none ∧
  (s.noteTlb s.agent s.inHusk s.pc).unresolved w = false ∧ (s.noteTlb s.agent s.inHusk s.pc).hazard w = false

/-- What the fetch leaves: the leaf in the TLBs, and a jump that has landed. -/
def State.asFetched (s : State) : State :=
  let a := s.noteTlb s.agent s.inHusk s.pc
  if a.cur.team.jumped && !a.inHusk && !a.cur.handler then a.onTeam fun t => { t with jumped := false } else a

/-- The head of an engine's queue is the word `w`, and the engine executes it in this turn: it has not retired, it skips
nothing, the word is no prefix and meets no uncorrectable error in what it reads, and nothing holds the engine, or the word has begun: then it
goes on under another engine's trap or its own race, and, while the gang stops for preemption, if it does not stop inside the
word (R301, R355, R362). -/
def State.EngineExecutesNow (s : State) (e : Eng) (w : InstrWord) : Prop :=
  ∃ q, (s.cur.eng e).entry = some q ∧ q.kind = .word ∧ q.word = w ∧ (s.cur.eng e).stat ≠ .retired ∧
    (s.cur.eng e).skip = 0 ∧ w.extractLsb' 29 3 ≠ 6 ∧ (s.cur.engTrap = none → s.eccWord w = none ∧ ∀ d, decodeWord w = .ok d → s.eccLs d = none) ∧
    (s.engineHeld = false ∨
      (((s.cur.eng e).midWord = true ∧ ¬ (s.saving = true ∧ e = .c ∧ (s.cur.eng e).atStop = true)) ∨ (s.cur.eng e).pushes ≠ []) ∧
        ∀ t, s.cur.engTrap = some t → t.e = e → t.flt.cause = 0x07)

/-! ### Frames -/

/-- Nothing outside the current core has changed: no other core, no byte of any memory, no table of the device. -/
def State.OnlyCore (s t : State) : Prop :=
  t = { s with cores := t.cores } ∧ (∀ n, n ≠ s.agent → t.core n = s.core n) ∧ ∀ l, t.byteAt l = s.byteAt l

/-- Nothing outside the running context has changed: no other register of the core, no engine, vector, tile, token or pip. -/
def State.OnlyCtx (s t : State) : Prop := s.OnlyCore t ∧ t.cur = s.cur.setCtx s.inHusk t.ctx

/-- The byte belongs to the shadow records that a line of the shared cache carries: they go to memory when the line leaves, to
make room for another one (R278, R299). -/
def State.InRecords (s : State) (l : Loc) : Prop :=
  ∃ x ∈ s.attrs, ∃ p a, x.2.shadowAt = some p ∧ l = .pkg a ∧ p ≤ a ∧ a < p + 32

/-- Every byte reads as before, but for the shadow records that leave the shared cache with their lines. -/
def State.SameBytes (s t : State) : Prop := ∀ l, ¬ s.InRecords l → t.byteAt l = s.byteAt l

/-- No shadow record that the shared cache holds belongs to these `n` bytes. -/
def State.NoRecord (s : State) (l : Loc) (n : Nat) : Prop := ∀ j, j < n → ¬ s.InRecords (l.plus j)

/-- No join waits for its inputs: a join that resolves may write a fault record (R25, R199). -/
def State.NoJoins (s : State) : Prop := ∀ x ∈ s.ops, ∀ ins, x.2.kind ≠ .tokn ins

/-- Nothing that an access of S has sent to system space is outstanding: no store, no byte in a combining buffer. -/
def State.SysQuiet (s : State) : Prop := s.sysPending = false ∧ s.cur.comb = []

/-- The context stands at an address, ready for the word there. -/
def State.StandsAt (t : State) (a : Word) : Prop :=
  t.pc = a ∧ t.ctx.pfx = .none ∧ t.ctx.pend = none ∧ t.ctx.split = none ∧ t.ctx.stat = .running

/-- Every scalar register reads as before. -/
def State.SameG (s t : State) : Prop := ∀ r, t.g r = s.g r

/-- Every predicate reads as before. -/
def State.SameP (s t : State) : Prop := ∀ q, t.p q = s.p q

/-- A result went into `gd` and nowhere else; g0 still reads 0. -/
def State.PutG (s : State) (d : BitVec 5) (v : Word) (t : State) : Prop :=
  (t.g d = if d = 0 then 0 else v) ∧ (∀ r, r ≠ d → t.g r = s.g r) ∧ s.SameP t

/-- A word of S whose one result is `gd := v`: the frame, and the next word. -/
def State.Result (s : State) (d : BitVec 5) (v : Word) (t : State) : Prop :=
  s.OnlyCtx t ∧ s.PutG d v t ∧ t.StandsAt (s.pc + 4)

/-- A word of S whose one result is `pd := v`: p0 still reads 1. -/
def State.ResultP (s : State) (d : BitVec 3) (v : Bool) (t : State) : Prop :=
  s.OnlyCtx t ∧ (t.p d = if d = 0 then true else v) ∧ (∀ q, q ≠ d → t.p q = s.p q) ∧ s.SameG t ∧ t.StandsAt (s.pc + 4)

/-- A word of S that changes nothing but its place. -/
def State.Skips (s t : State) : Prop := s.OnlyCtx t ∧ s.SameG t ∧ s.SameP t ∧ t.StandsAt (s.pc + 4)

/-! ### Engines (R8, R13) -/

/-- The engine stands at the start of a word: nothing popped, nothing owed, no engine of the core in a trap, a pip in each
channel that the word pops and room in each that it pushes. -/
def State.EngReady (s : State) (e : Eng) (pip : BitVec 4) : Prop :=
  (s.cur.eng e).pushes = [] ∧ (s.cur.eng e).popped = false ∧ (s.cur.eng e).half = false ∧ s.cur.engTrap = none ∧ (∀ ch ∈ popsOf e pip, s.cur.pip ch ≠ []) ∧
  ∀ ch ∈ pushesOf e pip, (s.cur.pip ch).length < 16

/-- One pip taken from each of some channels; the PTS of the engine rises to each. -/
def Core.popAll (c : Core) (e : Eng) : List Nat → Core
  | [] => c
  | ch :: r => ((c.popPip ch).updEng e fun x => { x with pts := wmax x.pts ((c.pip ch).headD 0) }).popAll e r

/-- One pip with the PTS of the engine put into each of some channels. -/
def Core.pushAll (c : Core) (e : Eng) : List Nat → Core
  | [] => c
  | ch :: r => (c.pushPip ch (c.eng e).pts).pushAll e r

/-- The core after a word of an engine whose effect on the core is `f`: pips popped, the effect, pips pushed, the next word. -/
def Core.after (c : Core) (e : Eng) (pip : BitVec 4) (f : Core → Core) : Core :=
  ((f (c.popAll e (popsOf e pip))).pushAll e (pushesOf e pip)).updEng e Engine.finish

/-- A word of an engine has popped its pips and waits inside its effect (R13). -/
def State.EngineWaits (s : State) (e : Eng) (pip : BitVec 4) (w : EWait) (t : State) : Prop :=
  s.OnlyCore t ∧ t.cur = (s.cur.popAll e (popsOf e pip)).updEng e fun x => { x with popped := true, stat := .waiting w }

/-- A word of an engine has met a trap that stops the engines of the core; S has not entered it yet. -/
def State.EngineTraps (s : State) (e : Eng) (f : Flt) (t : State) : Prop :=
  s.OnlyCore t ∧ t.cur.user = s.cur.user ∧ t.cur.vec = s.cur.vec ∧ t.cur.ls = s.cur.ls ∧
  ∃ x, t.cur.engTrap = some x ∧ x.e = e ∧ x.flt = f ∧ x.entered = false

/-- A word of an engine that changes its core alone. -/
def State.EngineDone (s : State) (e : Eng) (pip : BitVec 4) (f : Core → Core) (t : State) : Prop :=
  s.OnlyCore t ∧ t.cur = s.cur.after e pip f

/-- A word of C that writes one vector register: lane i of `d` gets `f i` where the lane is active. -/
def State.LaneResult (s : State) (pip : BitVec 4) (d : BitVec 4) (act : BitVec 64) (f : Nat → Lane) (t : State) : Prop :=
  s.EngineDone .c pip (fun c => { c with vec := { c.vec with v := t.cur.vec.v } }) t ∧
  ∀ r i, i < 64 → t.cur.vec.lane r i = if r = d ∧ act.getLsbD i = true then f i else s.cur.vec.lane r i

/-- The lanes that a word acts on: all, or those of the selected mask register (R124). -/
def State.lanes (s : State) (m : BitVec 1) : BitVec 64 :=
  if m = 1 then s.cur.vec.mask s.cur.vec.msel.toNat else BitVec.allOnes 64

/-- A word of C that writes one mask register: bit i gets `f i`. -/
def State.MaskResult (s : State) (pip : BitVec 4) (d : BitVec 3) (f : Nat → Bool) (t : State) : Prop :=
  s.EngineDone .c pip (fun c => { c with vec := { c.vec with m := t.cur.vec.m } }) t ∧
  ∀ r i, r < 8 → i < 64 → (t.cur.vec.mask r).getLsbD i = if r = d.toNat then f i else (s.cur.vec.mask r).getLsbD i

/-! ### Traps of S (R90) -/

/-- S stands in the user context and its gang is not in the surrogate phase. -/
def State.InUser (s : State) : Prop := s.who = .s ∧ s.cur.surrogate = false

/-- The trap registers hold a trap; the vector is as before. -/
def TrapRegs.Holds (r : TrapRegs) (before : TrapRegs) (cause : BitVec 8) (at_ addr info : Word) : Prop :=
  r.cause = cause.setWidth 64 ∧ r.pc = at_ ∧ r.addr = addr ∧ r.info = info ∧ r.vec = before.vec

/-- S has entered the user handler: HandlerState 1, the pc at TRAPVEC, nothing else but the trap registers written. -/
def State.EntersHandler (s : State) (cause : BitVec 8) (at_ addr info : Word) (t : State) : Prop :=
  s.OnlyCore t ∧ t.cur = { s.cur with trap := t.cur.trap, handler := true, user := t.cur.user } ∧
  t.cur.trap.Holds s.cur.trap cause at_ addr info ∧ s.SameG t ∧ s.SameP t ∧ t.StandsAt s.cur.trap.vec

/-- The place in package memory of the next record of a partition's fault ring. -/
def Part.ringSlot (p : Part) : Nat := p.ringBase + 64 * (p.ringNext % 2 ^ p.ringLog)

/-- The byte lies in the slot of the fault ring that the agent's partition fills next. -/
def State.InRingSlot (s : State) (l : Loc) : Prop :=
  ∃ i p a, s.partOf s.agent = some i ∧ Cells.find? s.parts i = some p ∧ l = .pkg a ∧ p.ringSlot ≤ a ∧ a < p.ringSlot + 64

/-- S has been handed to Husk: the trap registers written, S stopped at its word, Husk awake at the end of
its fetch pair, no other core touched, and no
byte of memory but those of the fault record. -/
def State.HandedToHusk (s : State) (cause : BitVec 8) (at_ addr info : Word) (t : State) : Prop :=
  (∀ n, n ≠ s.agent → t.core n = s.core n) ∧
  t.cur = { s.cur.endPair with trap := t.cur.trap, husk := t.cur.husk, user := { s.cur.user with stat := .trapped none } } ∧
  t.cur.trap.Holds s.cur.trap cause at_ addr info ∧ t.cur.husk.stat = .running ∧
  ∀ l, ¬ s.InRingSlot l → t.byteAt l = s.byteAt l

/-- Table 19.2: the causes that go to the user handler when S raises them. -/
def goesToUser (cause : BitVec 8) : Prop :=
  cause ∈ [(0x01 : BitVec 8), 0x02, 0x03, 0x05, 0x06, 0x07, 0x0C, 0x0E, 0x0F, 0x12, 0x13, 0x40, 0x41]

/-- The user handler may take a trap: HandlerState 0, a vector, a cause of its own, no body capture open (R90). -/
def State.HandlerTakes (s : State) (cause : BitVec 8) : Prop :=
  s.cur.handler = false ∧ s.cur.trap.vec ≠ 0 ∧ goesToUser cause ∧
    s.cur.capL.outer = 0 ∧ s.cur.capC.outer = 0 ∧ s.cur.capT.outer = 0

/-- S has taken a trap as R90 states it. -/
def State.Trapped (s : State) (cause : BitVec 8) (at_ addr info : Word) (t : State) : Prop :=
  (s.HandlerTakes cause → s.EntersHandler cause at_ addr info t) ∧
  (¬ s.HandlerTakes cause → s.HandedToHusk cause at_ addr info t)

/-- `ILLEGAL` of the word at the pc, with the word as its detail (R64). -/
def State.TrappedIllegal (s : State) (w : InstrWord) (t : State) : Prop := s.Trapped 0x01 s.pc 0 (w.setWidth 64) t

end Sys2Proof.Machine
end

