-- ==== Sys2Proof/Certificates/Slice0/Obligations.lean ====
section
/-! DEFINITION. Sys2Proof/Certificates/Slice0/Obligations.lean: the statements. -/

open Sys2Proof Sys2Proof.Machine

/-- The 25 ALU words (R75, R76): the result, the frame and the next word. -/
def Obligations.AluResults : Prop :=
  ∀ (s : State) (d a b : BitVec 5) (pr : BitVec 3), s.Plain → s.p pr = true →
    Completes (.add d a b pr) s (s.Result d (s.g a + s.g b)) ∧
    Completes (.sub d a b pr) s (s.Result d (s.g a - s.g b)) ∧
    Completes (.and d a b pr) s (s.Result d (s.g a &&& s.g b)) ∧
    Completes (.or d a b pr) s (s.Result d (s.g a ||| s.g b)) ∧
    Completes (.xor d a b pr) s (s.Result d (s.g a ^^^ s.g b)) ∧
    Completes (.sll d a b pr) s (s.Result d (s.g a <<< ((s.g b).toNat % 64))) ∧
    Completes (.srl d a b pr) s (s.Result d (s.g a >>> ((s.g b).toNat % 64))) ∧
    Completes (.sra d a b pr) s (s.Result d ((s.g a).sshiftRight ((s.g b).toNat % 64))) ∧
    Completes (.mul d a b pr) s (s.Result d (BitVec.ofNat 64 ((s.g a).toNat * (s.g b).toNat))) ∧
    Completes (.mulh d a b pr) s (s.Result d (BitVec.ofInt 64 ((s.g a).toInt * (s.g b).toInt / 2 ^ 64))) ∧
    Completes (.mulhz d a b pr) s (s.Result d (BitVec.ofNat 64 ((s.g a).toNat * (s.g b).toNat / 2 ^ 64))) ∧
    Completes (.div d a b pr) s (s.Result d
      (if s.g b = 0 then BitVec.allOnes 64 else BitVec.ofInt 64 ((s.g a).toInt.tdiv (s.g b).toInt))) ∧
    Completes (.divz d a b pr) s (s.Result d
      (if s.g b = 0 then BitVec.allOnes 64 else BitVec.ofNat 64 ((s.g a).toNat / (s.g b).toNat))) ∧
    Completes (.rem d a b pr) s (s.Result d
      (if s.g b = 0 then s.g a else BitVec.ofInt 64 ((s.g a).toInt.tmod (s.g b).toInt))) ∧
    Completes (.remz d a b pr) s (s.Result d
      (if s.g b = 0 then s.g a else BitVec.ofNat 64 ((s.g a).toNat % (s.g b).toNat))) ∧
    Completes (.min d a b pr) s (s.Result d (if (s.g b).toInt < (s.g a).toInt then s.g b else s.g a)) ∧
    Completes (.max d a b pr) s (s.Result d (if (s.g a).toInt < (s.g b).toInt then s.g b else s.g a)) ∧
    Completes (.minz d a b pr) s (s.Result d (if (s.g b).toNat < (s.g a).toNat then s.g b else s.g a)) ∧
    Completes (.maxz d a b pr) s (s.Result d (if (s.g a).toNat < (s.g b).toNat then s.g b else s.g a)) ∧
    Completes (.slt d a b pr) s (s.Result d (if (s.g a).toInt < (s.g b).toInt then 1 else 0)) ∧
    Completes (.sltz d a b pr) s (s.Result d (if (s.g a).toNat < (s.g b).toNat then 1 else 0)) ∧
    Completes (.seq d a b pr) s (s.Result d (if s.g a = s.g b then 1 else 0)) ∧
    Completes (.clz d a pr) s (fun t => ∃ n, n ≤ 64 ∧ (s.g a).toNat < 2 ^ (64 - n) ∧ (n = 64 ∨ 2 ^ (63 - n) ≤ (s.g a).toNat) ∧
      s.Result d (BitVec.ofNat 64 n) t) ∧
    Completes (.popc d a pr) s (s.Result d (BitVec.ofNat 64 ((List.range 64).filter fun i => (s.g a).getLsbD i).length)) ∧
    Completes (.addsh d a b pr) s (s.Result d (s.g a + s.g b * 8))

namespace Sys2Proof.Machine

/-- I of an immediate form: the field sign-extended, after an X.EXT the payload and the field (R59, R77). -/
def State.HasImmediate (s : State) (i : BitVec 13) (v : Word) : Prop :=
  s.ctx.pend = none ∧ ((s.ctx.pfx = .none ∧ v = i.signExtend 64) ∨ ∃ p a, s.ctx.pfx = .ext p a ∧ v = (p ++ i).signExtend 64)

/-- The nine immediate forms (R77). -/
def ImmediateResultsHold : Prop :=
  ∀ (s : State) (d a : BitVec 5) (i : BitVec 13) (v : Word), s.HasImmediate i v →
    Completes (.addi d a i) s (s.Result d (s.g a + v)) ∧
    Completes (.andi d a i) s (s.Result d (s.g a &&& v)) ∧
    Completes (.ori d a i) s (s.Result d (s.g a ||| v)) ∧
    Completes (.xori d a i) s (s.Result d (s.g a ^^^ v)) ∧
    Completes (.slti d a i) s (s.Result d (if (s.g a).toInt < v.toInt then 1 else 0)) ∧
    Completes (.movi d i) s (s.Result d v) ∧
    (v.toNat < 64 →
      Completes (.slli d a i) s (s.Result d (s.g a <<< v.toNat)) ∧
      Completes (.srli d a i) s (s.Result d (s.g a >>> v.toNat)) ∧
      Completes (.srai d a i) s (s.Result d ((s.g a).sshiftRight v.toNat)))

/-- SLLI, SRLI and SRAI trap outside 0 to 63 (R77). -/
def ShiftAmountTrapsHold : Prop :=
  ∀ (s : State) (d a : BitVec 5) (i : BitVec 13) (v : Word), s.InUser → s.HasImmediate i v → 64 ≤ v.toNat →
    Completes (.slli d a i) s (s.TrappedIllegal (wordOf (.slli d a i))) ∧
    Completes (.srli d a i) s (s.TrappedIllegal (wordOf (.srli d a i))) ∧
    Completes (.srai d a i) s (s.TrappedIllegal (wordOf (.srai d a i)))

end Sys2Proof.Machine

/-- The immediate forms write gd from the immediate, with and without X.EXT; a shift amount outside 0 to 63 traps ILLEGAL (R77, R59, R72, R90, R64). -/
def Obligations.ImmediatesAndShiftAmounts : Prop := ImmediateResultsHold ∧ ShiftAmountTrapsHold

namespace Sys2Proof.Machine

/-- C has executed every word steered to it and every status update has landed (R89). -/
def State.CDrained (s : State) : Prop :=
  s.cur.c.queue = [] ∧ s.cur.c.outer = none ∧ s.cur.c.pushes = [] ∧ s.cur.vec.tupd = []

end Sys2Proof.Machine

/-- The predicate words (R78, R79). -/
def Obligations.PredicateResults : Prop :=
  ∀ (s : State) (d : BitVec 3) (a b : BitVec 5) (x y : BitVec 3) (tag : BitVec 4) (pr : BitVec 3), s.Plain → s.p pr = true →
    Completes (.psetEq d a b pr) s (s.ResultP d (decide (s.g a = s.g b))) ∧
    Completes (.psetNe d a b pr) s (s.ResultP d (decide (s.g a ≠ s.g b))) ∧
    Completes (.psetLt d a b pr) s (s.ResultP d (decide ((s.g a).toInt < (s.g b).toInt))) ∧
    Completes (.psetGe d a b pr) s (s.ResultP d (decide ((s.g b).toInt ≤ (s.g a).toInt))) ∧
    Completes (.psetLtz d a b pr) s (s.ResultP d (decide ((s.g a).toNat < (s.g b).toNat))) ∧
    Completes (.psetGez d a b pr) s (s.ResultP d (decide ((s.g b).toNat ≤ (s.g a).toNat))) ∧
    Completes (.pand d x y pr) s (s.ResultP d (s.p x && s.p y)) ∧
    Completes (.por d x y pr) s (s.ResultP d (s.p x || s.p y)) ∧
    Completes (.pxor d x y pr) s (s.ResultP d (s.p x != s.p y)) ∧
    Completes (.pnot d x pr) s (s.ResultP d (!s.p x)) ∧
    (s.CDrained →
      Completes (.psetTstat d tag pr) s (s.ResultP d (decide ((Cells.get 0 s.cur.vec.tstat tag.toNat).toNat % 64 = 0)))) ∧
    (¬ s.CDrained → Completes (.psetTstat d tag pr) s (fun t => t.ctx.stat = .waiting .cside ∧ t.pc = s.pc ∧ s.SameP t ∧ s.SameG t))

namespace Sys2Proof.Machine

/-- The guard field of a word of S (Table 04.2, R60). -/
def guardOf : Instr → Option (BitVec 3)
  | .add _ _ _ pr | .sub _ _ _ pr | .and _ _ _ pr | .or _ _ _ pr | .xor _ _ _ pr | .sll _ _ _ pr | .srl _ _ _ pr
  | .sra _ _ _ pr | .mul _ _ _ pr | .mulh _ _ _ pr | .mulhz _ _ _ pr | .div _ _ _ pr | .divz _ _ _ pr | .rem _ _ _ pr
  | .remz _ _ _ pr | .min _ _ _ pr | .max _ _ _ pr | .minz _ _ _ pr | .maxz _ _ _ pr | .slt _ _ _ pr | .sltz _ _ _ pr
  | .seq _ _ _ pr | .addsh _ _ _ pr | .clz _ _ pr | .popc _ _ pr | .psetEq _ _ _ pr | .psetNe _ _ _ pr | .psetLt _ _ _ pr
  | .psetGe _ _ _ pr | .psetLtz _ _ _ pr | .psetGez _ _ _ pr | .psetTstat _ _ pr | .pand _ _ _ pr | .por _ _ _ pr
  | .pxor _ _ _ pr | .pnot _ _ pr | .jmpr _ _ pr | .mova _ _ _ pr | .movar _ _ _ _ pr | .movl _ _ _ pr | .msel _ pr
  | .pippush _ pr | .pippop _ pr | .twait _ pr | .ttest _ _ pr | .tfree _ pr | .share _ pr | .hyield pr | .eret _ pr
  | .halt pr | .yield pr | .brk _ pr | .fenceSys pr | .fenceFab pr | .cacheopClean _ _ pr | .cacheopDrop _ _ pr
  | .cacheopDemote _ _ pr | .cacheopSysinv _ _ pr | .gend _ pr => some pr
  | _ => none

end Sys2Proof.Machine

/-- R60, for every word of S with a guard. -/
def Obligations.FalseGuardSkips : Prop :=
  ∀ (i : Instr) (pr : BitVec 3) (s : State), guardOf i = some pr → i.legal = true → s.Plain → s.p pr = false →
    Completes i s s.Skips

namespace Sys2Proof.Machine

/-- The offset of an SB word: the field sign-extended, after an X.EXT the payload and the field (R59, R80). -/
def State.HasOffset (s : State) (o : BitVec 19) (v : Word) : Prop :=
  s.ctx.pend = none ∧ ((s.ctx.pfx = .none ∧ v = o.signExtend 64) ∨ ∃ p a, s.ctx.pfx = .ext p a ∧ v = (p ++ o).signExtend 64)

/-- What a branch leaves but its place and its mark in a team stream: all of the core but the running context and the team
state. -/
def State.Branches (s : State) (a : Word) (t : State) : Prop :=
  s.OnlyCore t ∧ t.cur = { s.cur.setCtx s.inHusk t.ctx with team := t.cur.team } ∧
  (s.cur.team.team = none → t.cur.team = s.cur.team) ∧ t.StandsAt a

end Sys2Proof.Machine

/-- BR and CALL (R80). -/
def Obligations.BranchTargets : Prop :=
  ∀ (s : State) (pr : BitVec 3) (n : BitVec 1) (o : BitVec 19) (v : Word), s.HasOffset o v → ¬ (pr = 0 ∧ n = 1) →
    ((pr = 0 ∨ (s.p pr = true ∧ n = 0) ∨ (s.p pr = false ∧ n = 1)) →
      Completes (.br pr n o) s (fun t => s.Branches (s.pc + 4 * v) t ∧ s.SameG t ∧ s.SameP t) ∧
      Completes (.call pr n o) s (fun t => s.Branches (s.pc + 4 * v) t ∧ s.PutG 31 (s.pc + 4) t)) ∧
    (¬ (pr = 0 ∨ (s.p pr = true ∧ n = 0) ∨ (s.p pr = false ∧ n = 1)) →
      Completes (.br pr n o) s s.Skips ∧ Completes (.call pr n o) s s.Skips)

/-- JMPR (R81). -/
def Obligations.RegisterJumps : Prop :=
  ∀ (s : State) (d a : BitVec 5) (pr : BitVec 3), s.Plain → s.p pr = true →
    ((s.g a).toNat % 4 = 0 → Completes (.jmpr d a pr) s (fun t => s.Branches (s.g a) t ∧ s.PutG d (s.pc + 4) t)) ∧
    ((s.g a).toNat % 4 ≠ 0 → s.InUser → Completes (.jmpr d a pr) s (s.TrappedIllegal (wordOf (.jmpr d a pr))))

namespace Sys2Proof.Machine

/-- The engine has room for an entry and captures no body. -/
def State.QueueOpen (s : State) (e : Eng) : Prop := (s.cur.eng e).queue.length < 64 ∧ (s.cur.cap e).outer = 0

/-- One entry has gone into an engine's queue; of the core only that queue and the place of S differ. -/
def State.Queued (s : State) (e : Eng) (kind : QKind) (v : Word) (t : State) : Prop :=
  s.OnlyCore t ∧ s.SameG t ∧ s.SameP t ∧ t.StandsAt (s.pc + 4) ∧
  t.cur = (s.cur.setCtx s.inHusk t.ctx).setEng e { s.cur.eng e with queue := (t.cur.eng e).queue } ∧
  ∃ q, (t.cur.eng e).queue = (s.cur.eng e).queue ++ [q] ∧ q.kind = kind ∧ q.val = v ∧ q.at_ = s.pc

/-- The engine executes a register write that stands at the head of its queue, outside a loop. -/
def State.Performs (s : State) (e : Eng) (kind : QKind) (v : Word) (f : Core → Core) : Prop :=
  ∀ q r, (s.cur.eng e).queue = q :: r → q.kind = kind → q.val = v → (s.cur.eng e).outer = none →
    (s.cur.eng e).stat = .ready → s.engineHeld = false →
    ∃ t, s.eTurn e = .other t ∧ s.OnlyCore t ∧ t.cur = (f s.cur).setEng e { (f s.cur).eng e with queue := r }

/-- R82 and R83, at issue and at the engine. -/
def EngineRegisterWritesHold : Prop :=
  ∀ (s : State) (i : BitVec 4) (a : BitVec 5) (k : BitVec 3) (l : BitVec 1) (m : BitVec 3) (x : BitVec 13) (pr : BitVec 3)
    (v : Word) (tag : Fin 16),
    (∀ e : BitVec 2, e ≠ 3 → s.Plain → s.p pr = true → s.QueueOpen (engOfNum e) →
      Completes (.mova i a e pr) s (s.Queued (engOfNum e) (.regA i) (s.g a)) ∧
      Completes (.movar i a k e pr) s (s.Queued (engOfNum e) (.regA i) (Cells.get 0 s.cur.reloc k.toNat + s.g a)) ∧
      Completes (.movl l a e pr) s (s.Queued (engOfNum e) (.regLc l) (s.g a))) ∧
    (s.Plain → s.QueueOpen .c →
      (s.p pr = true → Completes (.msel m pr) s (s.Queued .c (.msel m) 0)) ∧
      ((0x020 ≤ x.toNat ∧ x.toNat ≤ 0x03F) ∨ x.toNat ∈ [0x041, 0x042, 0x043, 0x051, 0x088, 0x089] →
        Completes (.swr a x) s (s.Queued .c (.sysreg x) (s.g a)))) ∧
    (∀ e, s.Performs e (.regA i) v (fun c => c.updEng e fun y => y.setA i v) ∧
      s.Performs e (.regLc 0) v (fun c => c.updEng e fun y => { y with lc0 := v.setWidth 32 }) ∧
      s.Performs e (.regLc 1) v (fun c => c.updEng e fun y => { y with lc1 := v.setWidth 32 })) ∧
    s.Performs .c (.msel m) v (fun c => { c with vec := { c.vec with msel := m } }) ∧
    s.Performs .c (.sysreg (BitVec.ofNat 13 (0x020 + tag.val))) v (fun c =>
      { c with vec := { c.vec with ft := Cells.set 0 c.vec.ft tag.val (v &&& 0x00FF03FF) } }) ∧
    s.Performs .c (.sysreg 0x088) v (fun c => { c with vec := { c.vec with key0 := v } }) ∧
    s.Performs .c (.sysreg 0x089) v (fun c => { c with vec := { c.vec with key1 := v } })

/-- PIPPUSH and PIPPOP (R85), on the user context. -/
def PipWordsHold : Prop :=
  ∀ (s : State) (pr : BitVec 3), s.InUser → s.Plain → s.p pr = true →
    (∀ ch : BitVec 5, ch = 0 ∨ ch = 7 → ¬ (s.memPending = false ∧ s.SysQuiet) → Completes (.pippush ch pr) s (fun t =>
      t.pc = s.pc ∧ t.ctx.stat = .waiting .memory ∧ t.cur.comb = [] ∧ s.SameG t ∧ (∀ j, t.cur.pip j = s.cur.pip j) ∧
      ∀ l, t.byteAt l = s.byteAt l)) ∧
    (∀ ch : BitVec 5, ch = 0 ∨ ch = 7 → s.memPending = false → s.SysQuiet →
      ((s.cur.pip ch.toNat).length < 16 → Completes (.pippush ch pr) s (fun t =>
        s.OnlyCore t ∧ s.SameG t ∧ s.SameP t ∧ t.StandsAt (s.pc + 4) ∧
        t.cur = { s.cur with user := t.cur.user, pips := t.cur.pips } ∧
        ∀ j, t.cur.pip j = if j = ch.toNat then s.cur.pip j ++ [s.cur.pts] else s.cur.pip j)) ∧
      (16 ≤ (s.cur.pip ch.toNat).length → Completes (.pippush ch pr) s (fun t =>
        s.OnlyCtx t ∧ t.pc = s.pc ∧ t.ctx.stat = .waiting (.pipPush ch.toNat)))) ∧
    (∀ ch : BitVec 5, ch = 1 ∨ ch = 6 →
      (∀ ts r, s.cur.pip ch.toNat = ts :: r → Completes (.pippop ch pr) s (fun t =>
        s.OnlyCore t ∧ s.SameG t ∧ s.SameP t ∧ t.StandsAt (s.pc + 4) ∧
        t.cur = { s.cur with user := t.cur.user, pips := t.cur.pips, pts := wmax s.cur.pts ts } ∧
        ∀ j, t.cur.pip j = if j = ch.toNat then r else s.cur.pip j)) ∧
      (s.cur.pip ch.toNat = [] → Completes (.pippop ch pr) s (fun t =>
        s.OnlyCtx t ∧ t.pc = s.pc ∧ t.ctx.stat = .waiting (.pipPop ch.toNat))))

end Sys2Proof.Machine

/-- MOVA, MOVAR, MOVL, MSEL and a C-side SWR queue one register write for their engine; PIPPUSH and PIPPOP move one pip of S (R82, R83, R89, R54, R85, R12, R84). -/
def Obligations.PipsAndRegisterWrites : Prop := EngineRegisterWritesHold ∧ PipWordsHold

/-- The three token words (R86 to R88), on the user context. -/
def Obligations.TokenWords : Prop :=
  ∀ (s : State) (d : BitVec 3) (k : BitVec 6) (pr : BitVec 3), s.InUser → s.Plain → s.p pr = true →
    Completes (.ttest d k pr) s (s.ResultP d (decide (s.cur.tok k ≠ .pending))) ∧
    (s.cur.tok k = .free → Completes (.twait k pr) s s.Skips) ∧
    (∀ ts, s.cur.tok k = .done ts → Completes (.twait k pr) s (fun t =>
      s.OnlyCore t ∧ s.SameG t ∧ s.SameP t ∧ t.StandsAt (s.pc + 4) ∧
      t.cur = { s.cur with user := t.cur.user, pts := wmax s.cur.pts ts, floor := wmax s.cur.pts ts })) ∧
    (∀ f, s.cur.tok k = .failed f → Completes (.twait k pr) s (s.Trapped f.cause s.pc f.addr f.info)) ∧
    (s.cur.tok k = .pending →
      Completes (.twait k pr) s (fun t => s.OnlyCtx t ∧ t.pc = s.pc ∧ t.ctx.stat = .waiting (.token k)) ∧
      Completes (.tfree k pr) s (fun t => s.OnlyCtx t ∧ t.pc = s.pc ∧ t.ctx.stat = .waiting (.token k))) ∧
    (s.cur.tok k ≠ .pending → Completes (.tfree k pr) s (fun t =>
      s.OnlyCore t ∧ s.SameG t ∧ s.SameP t ∧ t.StandsAt (s.pc + 4) ∧
      t.cur = { s.cur with user := t.cur.user, tokens := t.cur.tokens } ∧
      ∀ j, t.cur.tok j = if j = k then .free else s.cur.tok j))

namespace Sys2Proof.Machine

/-- The registers of Table 01.7 that S reads at issue, by index. -/
def State.issueReads (s : State) : List (BitVec 13 × Word) :=
  [(0x000, BitVec.ofNat 64 (nameOf s.agent)), (0x001, BitVec.ofNat 64 (dieOf s.agent)), (0x002, s.cur.gangSize),
   (0x003, s.cur.gangRank), (0x004, s.cur.roleSet), (0x005, s.cur.iter), (0x006, s.cur.launchId), (0x010, s.pts),
   (0x011, s.cur.floor), (0x050, s.cur.gtol), (0x060, s.cur.team.bound.setWidth 64), (0x061, s.cur.team.beat.setWidth 64),
   (0x072, s.cur.raceMode), (0x080, (s.die (dieOf s.agent)).cycles), (0x081, (s.die (dieOf s.agent)).swallowed),
   (0x090, s.cur.trap.vec), (0x091, s.cur.trap.cause), (0x092, s.cur.trap.pc), (0x093, s.cur.trap.addr),
   (0x094, s.cur.trap.info), (0x100, Cells.get 0 s.cur.reloc 0), (0x101, Cells.get 0 s.cur.reloc 1),
   (0x102, Cells.get 0 s.cur.reloc 2), (0x103, Cells.get 0 s.cur.reloc 3), (0x104, Cells.get 0 s.cur.reloc 4),
   (0x105, Cells.get 0 s.cur.reloc 5), (0x106, Cells.get 0 s.cur.reloc 6), (0x107, Cells.get 0 s.cur.reloc 7)]

/-- The C-side registers but NDRIFT and the two tables, by index (R89). -/
def State.cSideReads (s : State) : List (BitVec 13 × Word) :=
  [(0x041, s.cur.arr.ndcnt.setWidth 64), (0x042, s.cur.arr.sws0), (0x043, s.cur.arr.sws1), (0x051, s.cur.vec.gres),
   (0x088, s.cur.vec.key0), (0x089, s.cur.vec.key1)]

/-- The indices to which Table 01.7 assigns no register. -/
def Unassigned (x : Nat) : Prop :=
  (0x007 ≤ x ∧ x ≤ 0x00F) ∨ (0x012 ≤ x ∧ x ≤ 0x01F) ∨ (0x044 ≤ x ∧ x ≤ 0x04F) ∨ (0x053 ≤ x ∧ x ≤ 0x05F) ∨
  (0x062 ≤ x ∧ x ≤ 0x06F) ∨ (0x073 ≤ x ∧ x ≤ 0x07F) ∨ (0x082 ≤ x ∧ x ≤ 0x087) ∨ (0x08A ≤ x ∧ x ≤ 0x08F) ∨
  (0x095 ≤ x ∧ x ≤ 0x09F) ∨ (0x0A1 ≤ x ∧ x ≤ 0x0FF) ∨ 0x108 ≤ x

/-- SRD (R18, R89). -/
def SystemRegisterReadsHold : Prop :=
  ∀ (s : State) (d : BitVec 5) (k : Fin 16), s.Plain →
    (∀ x ∈ s.issueReads, Completes (.srd d x.1) s (s.Result d x.2)) ∧
    (∀ l, s.launchOf s.agent = some l →
      Completes (.srd d 0x052) s (s.Result d l.gstat) ∧ Completes (.srd d 0x070) s (s.Result d l.pinLim) ∧
      Completes (.srd d 0x071) s (s.Result d l.pinUse)) ∧
    (∀ x : BitVec 13, Unassigned x.toNat → Completes (.srd d x) s (s.Result d 0)) ∧
    (s.inHusk = true → Completes (.srd d 0x0A0) s (s.Result d s.cur.share)) ∧
    (s.InUser → Completes (.srd d 0x0A0) s (s.Trapped 0x02 s.pc 0 ((wordOf (.srd d 0x0A0)).setWidth 64))) ∧
    (s.CDrained →
      (∀ x ∈ s.cSideReads, Completes (.srd d x.1) s (s.Result d x.2)) ∧
      Completes (.srd d (BitVec.ofNat 13 (0x020 + k.val))) s (s.Result d (Cells.get 0 s.cur.vec.ft k.val)) ∧
      Completes (.srd d (BitVec.ofNat 13 (0x030 + k.val))) s (s.Result d (Cells.get 0 s.cur.vec.tstat k.val)) ∧
      Completes (.srd d 0x040) s (fun t =>
        s.OnlyCore t ∧ s.PutG d (s.cur.arr.ndrift.setWidth 64) t ∧ t.StandsAt (s.pc + 4) ∧
        t.cur = { s.cur.setCtx s.inHusk t.ctx with arr := { s.cur.arr with ndrift := 0 } })) ∧
    (¬ s.CDrained → ∀ x : BitVec 13, (0x020 ≤ x.toNat ∧ x.toNat ≤ 0x043) ∨ x.toNat ∈ [0x051, 0x088, 0x089] →
      Completes (.srd d x) s (fun t => s.OnlyCtx t ∧ s.SameG t ∧ s.SameP t ∧ t.pc = s.pc ∧ t.ctx.stat = .waiting .cside))

/-- One SWR has written the core; the context stands at the next word, its registers as before. -/
def State.Writes (s : State) (f : Core → Core) (t : State) : Prop :=
  s.OnlyCore t ∧ s.SameG t ∧ s.SameP t ∧ t.StandsAt (s.pc + 4) ∧ t.cur = f (s.cur.setCtx s.inHusk t.ctx)

/-- SWR of the registers that S writes at issue (R18, R89). DESIGN CHOICE: PINLIM drops the low bits (log entry 141). -/
def SystemRegisterWritesHold : Prop :=
  ∀ (s : State) (a : BitVec 5) (k : Fin 8), s.Plain →
    Completes (.swr a 0x090) s (s.Writes fun c => { c with trap := { c.trap with vec := s.g a &&& ~~~(3 : Word) } }) ∧
    Completes (.swr a 0x050) s (s.Writes fun c => { c with gtol := s.g a &&& 0xFFFFFFFF }) ∧
    (s.inHusk = true →
      Completes (.swr a 0x072) s (s.Writes fun c => { c with raceMode := s.g a &&& 1 }) ∧
      Completes (.swr a 0x0A0) s (s.Writes fun c => { c with share := s.g a }) ∧
      Completes (.swr a (BitVec.ofNat 13 (0x100 + k.val))) s
        (s.Writes fun c => { c with reloc := Cells.set 0 c.reloc k.val (s.g a) }) ∧
      (∀ b l, s.cur.binding = some b → Cells.find? s.launches b.launch = some l → Completes (.swr a 0x070) s (fun t =>
        s.SameG t ∧ s.SameP t ∧ t.StandsAt (s.pc + 4) ∧ t.cur = s.cur.setCtx s.inHusk t.ctx ∧
        (∀ n, n ≠ s.agent → t.core n = s.core n) ∧ (∀ p, t.byteAt p = s.byteAt p) ∧
        t = { s with cores := t.cores, launches := t.launches } ∧
        ∀ j, Cells.find? t.launches j = if j = b.launch then some { l with pinLim := s.g a &&& ~~~(4095 : Word) } else Cells.find? s.launches j))) ∧
    (s.InUser →
      (∀ x : BitVec 13, x.toNat ∈ [0x070, 0x072, 0x0A0] ∨ (0x100 ≤ x.toNat ∧ x.toNat ≤ 0x107) →
        Completes (.swr a x) s (s.Trapped 0x02 s.pc 0 ((wordOf (.swr a x)).setWidth 64))) ∧
      (∀ x : BitVec 13, x.toNat ≤ 0x006 ∨ x.toNat ∈ [0x010, 0x011, 0x040, 0x052, 0x060, 0x061, 0x071, 0x080, 0x081] ∨
          (0x091 ≤ x.toNat ∧ x.toNat ≤ 0x094) ∨ Unassigned x.toNat →
        Completes (.swr a x) s (s.TrappedIllegal (wordOf (.swr a x)))))

end Sys2Proof.Machine

/-- SRD returns the register of Table 01.7, SWR writes the one register, and both trap where R18 says so (R18, R89). -/
def Obligations.SystemRegisterAccess : Prop := SystemRegisterReadsHold ∧ SystemRegisterWritesHold

namespace Sys2Proof.Machine

/-- Husk goes on at the next word, with what it does at the end of its fetch pair kept. -/
def State.KeepsForPair (s : State) (x : HuskAct) (t : State) : Prop :=
  s.Writes (fun c => { c with pairAct := some (x, s.pc + 4) }) t

end Sys2Proof.Machine

/-- SHARE and HYIELD (R95). -/
def Obligations.HuskIssueControl : Prop :=
  ∀ (s : State) (a : BitVec 5) (pr : BitVec 3), s.Plain → s.p pr = true →
    (s.inHusk = true →
      (s.pc.getLsbD 2 = true →
        Completes (.share a pr) s (fun t => s.OnlyCore t ∧ s.SameG t ∧ s.SameP t ∧ t.pc = s.pc + 4 ∧
          t.cur = { s.cur.endPair.setCtx true t.ctx with share := if (s.g a).toNat ≤ 256 then s.g a else 256 }) ∧
        Completes (.hyield pr) s (fun t => s.OnlyCore t ∧ s.SameG t ∧ s.SameP t ∧ t.pc = s.pc + 4 ∧ t.ctx.stat = .stopped none ∧
          t.cur = s.cur.endPair.setCtx true t.ctx)) ∧
      (s.pc.getLsbD 2 = false →
        Completes (.share a pr) s (s.KeepsForPair (.share (if (s.g a).toNat ≤ 256 then s.g a else 256))) ∧
        Completes (.hyield pr) s (s.KeepsForPair .yield))) ∧
    (∀ (c : Core) (v x : Word), c.pairAct = some (.share v, x) → c.endPair = { c with share := v, pairAct := none }) ∧
    (∀ (c : Core) (x : Word), c.pairAct = some (.yield, x) →
      c.endPair = { c with husk := { c.husk with stat := .stopped none }, pairAct := none }) ∧
    (s.InUser →
      Completes (.share a pr) s (s.Trapped 0x02 s.pc 0 ((wordOf (.share a pr)).setWidth 64)) ∧
      Completes (.hyield pr) s (s.Trapped 0x02 s.pc 0 ((wordOf (.hyield pr)).setWidth 64)))

/-- TRAP, BRK and UDF (R91, R90). -/
def Obligations.SoftwareTraps : Prop :=
  ∀ (s : State) (a : BitVec 5) (i : BitVec 13) (v : Word) (code : BitVec 10) (pr : BitVec 3) (x : BitVec 23), s.InUser →
    (s.HasImmediate i v → Completes (.trap a i) s (s.Trapped 0x12 s.pc 0 (s.g a + v))) ∧
    (s.Plain → s.p pr = true → Completes (.brk code pr) s (s.Trapped 0x13 s.pc 0 ((wordOf (.brk code pr)).setWidth 64))) ∧
    (s.Plain → Completes (.udf x) s (s.TrappedIllegal (wordOf (.udf x))))

/-- ERET (R92). -/
def Obligations.HandlerReturn : Prop :=
  ∀ (s : State) (a : BitVec 5) (pr : BitVec 3), s.InUser → s.Plain → s.p pr = true →
    (s.cur.handler = true → (s.g a).toNat % 4 = 0 → (∀ e, s.ctx.expired = some e → e.word ≠ s.g a) → Completes (.eret a pr) s (fun t =>
      s.OnlyCore t ∧ s.SameG t ∧ s.SameP t ∧ t.StandsAt (s.g a) ∧ t.cur = { s.cur with user := t.cur.user, handler := false })) ∧
    ((s.cur.handler = false ∨ (s.g a).toNat % 4 ≠ 0) → Completes (.eret a pr) s (s.TrappedIllegal (wordOf (.eret a pr))))

namespace Sys2Proof.Machine

/-- The 64 bytes of a fault record of S as one number, least significant byte first (Table 19.3). -/
def State.recordOfS (s : State) (cause : BitVec 8) (addr info : Word) : Nat :=
  cause.toNat + 2 ^ 16 * 1 + 2 ^ 64 * s.pc.toNat + 2 ^ 128 * addr.toNat + 2 ^ 192 * info.toNat + 2 ^ 320 * s.agent +
    2 ^ 336 * 0xFFFF + 2 ^ 352 * (s.cur.launchId.toNat % 2 ^ 32) + 2 ^ 384 * s.cur.iter.toNat + 2 ^ 448 * s.cur.pts.toNat

end Sys2Proof.Machine

/-- The record of a precise trap of S (R354), on the trap of UDF. DESIGN CHOICE: queue position 0 for S (log entry 28); the ring base
is physical and the index goes modulo the ring's size (log entry 30). -/
def Obligations.TrapToHuskIsRecorded : Prop :=
  ∀ (s : State) (x : BitVec 23) (n : Nat) (p : Part), s.InUser → s.Plain → s.agent < 256 → ¬ s.HandlerTakes 0x01 →
    s.partOf s.agent = some n → Cells.find? s.parts n = some p →
    Completes (.udf x) s (fun t =>
      t.natAt (.pkg p.ringSlot) 64 = s.recordOfS 0x01 0 ((wordOf (.udf x)).setWidth 64) ∧
      Cells.find? t.parts n = some { p with ringNext := p.ringNext + 1 })

namespace Sys2Proof.Machine

/-- The byte lies in the fault ring of a partition. -/
def State.InRings (s : State) (l : Loc) : Prop :=
  ∃ i p a, Cells.find? s.parts i = some p ∧ l = .pkg a ∧ p.ringBase ≤ a ∧ a < p.ringBase + 64 * 2 ^ p.ringLog

/-- One halt marker has gone to the end of an engine's queue. -/
def State.Marked (s t : State) (e : Eng) : Prop :=
  ∃ q, q.kind = .halt ∧ t.cur.eng e = { s.cur.eng e with queue := (s.cur.eng e).queue ++ [q] }

/-- HALT, YIELD and GEND (R93, R94, R309). DESIGN CHOICE: log entries 19, 97, 99 and 111. -/
def RetireAndYieldHold : Prop :=
  ∀ (s : State) (d : BitVec 5) (pr : BitVec 3), s.Plain → s.p pr = true →
    (s.InUser → s.ctx.stat ≠ .waiting .guardEnd →
      (s.cur.capturing = false → s.memPending = false → Completes (.halt pr) s (fun t =>
        s.OnlyCore t ∧ s.SameG t ∧ s.SameP t ∧ t.pc = s.pc ∧ t.ctx.stat = .retired s.pc ∧
        t.cur = { s.cur with user := t.cur.user, l := t.cur.l, c := t.cur.c, t := t.cur.t } ∧ ∀ e, s.Marked t e)) ∧
      (s.cur.capturing = false → s.memPending = true → Completes (.halt pr) s (fun t =>
        s.OnlyCtx t ∧ s.SameG t ∧ s.SameP t ∧ t.pc = s.pc ∧ t.ctx.stat = .waiting .memory)) ∧
      (s.cur.capturing = true → Completes (.halt pr) s (s.TrappedIllegal (wordOf (.halt pr)))) ∧
      Completes (.gend d pr) s (s.Result d 2)) ∧
    (s.inHusk = true → Completes (.halt pr) s (fun t =>
      s.OnlyCtx t ∧ s.SameG t ∧ s.SameP t ∧ t.pc = s.pc ∧ t.ctx.stat = .stopped none)) ∧
    ((∀ g b, s.gangOf s.agent = some g → s.cur.binding = some b → s.yieldsTo b.gang g = none) →
      Completes (.yield pr) s s.Skips) ∧
    (∀ g b id, s.InUser → s.gangOf s.agent = some g → s.cur.binding = some b → s.yieldsTo b.gang g = some id → g.state = .bound →
      (g.members.all fun m => !(s.core m).surrogate) = true → Completes (.yield pr) s (fun t =>
        t.pc = s.pc + 4 ∧ (∀ l, ¬ s.InRings l → t.byteAt l = s.byteAt l) ∧
        (s.agent ∈ s.membersOf g → t.cur.user.stat = .stopped none ∧ t.cur.trap.cause = 0x14) ∧
        ∃ y, Cells.find? t.gangs b.gang = some y ∧ y.state = .saving ∧ y.members = g.members))

/-- The prefix words (R59). DESIGN CHOICE: of two prefixes the first one is named (log entry 95). -/
def PrefixWordsHold : Prop :=
  ∀ (s : State) (x : BitVec 27) (i o : BitVec 4) (n m : BitVec 1) (b : BitVec 8),
    (s.who = .s ∨ s.who = .husk → s.Plain →
      Completes (.xExt x) s (fun t => s.OnlyCtx t ∧ s.SameG t ∧ s.SameP t ∧ t.pc = s.pc + 4 ∧ t.ctx.pfx = .ext x s.pc ∧
        t.ctx.pend = none ∧ t.ctx.stat = .running) ∧
      Completes (.xFmtx i o n m b) s (fun t => s.OnlyCtx t ∧ s.SameG t ∧ s.SameP t ∧ t.pc = s.pc + 4 ∧
        t.ctx.pfx = .fmtx i o n m b s.pc ∧ t.ctx.pend = none ∧ t.ctx.stat = .running)) ∧
    (∀ y a, s.InUser → s.ctx.pend = none → s.ctx.pfx = .ext y a →
      Completes (.xExt x) s (s.Trapped 0x01 a 0 ((wordOf (.xExt y)).setWidth 64)) ∧
      Completes (.xFmtx i o n m b) s (s.Trapped 0x01 a 0 ((wordOf (.xExt y)).setWidth 64))) ∧
    (∀ e q r, s.who = e.seq → (s.cur.eng e).queue = q :: r → (s.cur.eng e).outer = none → (s.cur.eng e).inner = none →
      Completes (.xExt x) s (fun t => s.OnlyCore t ∧
        t.cur = s.cur.setEng e { s.cur.eng e with queue := r, pfx := .ext x q.at_, stat := .ready }) ∧
      Completes (.xFmtx i o n m b) s (fun t => s.OnlyCore t ∧
        t.cur = s.cur.setEng e { s.cur.eng e with queue := r, pfx := .fmtx i o n m b q.at_, stat := .ready })) ∧
    (∀ e q l, s.who = e.seq → (s.cur.eng e).loopMem[(s.cur.eng e).lp]? = some q → (s.cur.eng e).outer = some l →
      (s.cur.eng e).inner = none → (s.cur.eng e).lp + 1 < l.len →
      Completes (.xExt x) s (fun t => s.OnlyCore t ∧
        t.cur = s.cur.setEng e { s.cur.eng e with lp := (s.cur.eng e).lp + 1, pfx := .ext x q.at_, stat := .ready }))

end Sys2Proof.Machine

/-- HALT retires S, YIELD and GEND outside their conditions go on, and X.EXT and X.FMTX stand before the next word (R93, R23, R11, R94, R243, R309, R59, R64). -/
def Obligations.RetireYieldAndPrefixes : Prop := RetireAndYieldHold ∧ PrefixWordsHold

namespace Sys2Proof.Machine

/-- The displacement of an SM or SA word: the field sign-extended, after an X.EXT the payload and the field (R59, R96). -/
def State.HasDisp (s : State) (i : BitVec 10) (v : Word) : Prop :=
  s.ctx.pend = none ∧ ((s.ctx.pfx = .none ∧ v = i.signExtend 64) ∨ ∃ p a, s.ctx.pfx = .ext p a ∧ v = (p ++ i).signExtend 64)

/-- The value of the parts of a load, lowest address first: in the surrogate phase the user context reads the bytes that its guard
buffer holds from there (R306). -/
def State.valueOf (s : State) : List (Loc × Nat × Nat) → Nat
  | [] => 0
  | x :: r => (if s.surrogateNow then guardMerge s.cur.guard x.1 x.2.2 (s.natAt x.1 x.2.2) else s.natAt x.1 x.2.2) +
      256 ^ x.2.2 * s.valueOf r

/-- Only TLBs of cores and pods differ (R351). -/
def State.OnlyTlbs (s t : State) : Prop :=
  t = { s with cores := t.cores, pods := t.pods } ∧ (∀ n, { t.core n with tlb := [] } = { s.core n with tlb := [] }) ∧
  ∀ n, { t.pod n with tlb := [] } = { s.pod n with tlb := [] }

/-- The state after the walks of an access of S (R351). -/
def State.walked (s : State) (sync : Bool) (unit : Nat) (va : Word) (n : Nat) : State :=
  s.noteWalks (s.whoS sync) ((partsOf unit n va.toNat n).map fun p => p.1)

/-- A word of S that reads memory: only the running context, the PTS, the last line and the TLB of the core have changed, no
other core and no byte of memory; the context stands at the next word. -/
def State.Read (s t : State) : Prop :=
  (∀ n, n ≠ s.agent → t.core n = s.core n) ∧ s.SameBytes t ∧ t.StandsAt (s.pc + 4) ∧
  ∃ p l h x, t.cur = { (s.cur.setCtx s.inHusk t.ctx).setPts s.who p with lastLine := l, huskLine := h, tlb := x }

/-- The seven loads with their sizes and extensions (R97). -/
def loadForms (d a : BitVec 5) (h : BitVec 3) (i : BitVec 10) : List (Nat × Bool × Instr) :=
  [(1, false, .ld8 d a h i), (2, false, .ld16 d a h i), (4, false, .ld32 d a h i), (8, false, .ld64 d a h i),
   (1, true, .lds8 d a h i), (2, true, .lds16 d a h i), (4, true, .lds32 d a h i)]

/-- `n` bytes as a register gets them. -/
def extended (n : Nat) (signed : Bool) (m : Nat) : Word :=
  if signed then (BitVec.ofNat (8 * n) m).signExtend 64 else BitVec.ofNat 64 m

end Sys2Proof.Machine

/-- The loads (R96 to R98, R283). -/
def Obligations.LoadResults : Prop :=
  (∀ (s : State) (w : Who) (vas : List Nat), s.OnlyTlbs (s.noteWalks w vas)) ∧
  ∀ (s : State) (d a : BitVec 5) (h : BitVec 3) (i : BitVec 10) (v : Word), s.HasDisp i v →
    s.cur.raceMode = 0 → ∀ x ∈ loadForms d a h i,
    (∀ ps, s.checkAll (s.whoS false) .read (partsOf 8 x.1 (s.g a + v * BitVec.ofNat 64 x.1).toNat x.1) = .ok ps →
      (ps.all fun p => !p.1.isSystem) = true → s.coreFull = false →
        ((h.getLsbD 2 = true ∨ (∃ l b n, ps = [(l, b, n)] ∧ ∀ k, s.copyOf l k = none)) → (∀ y ∈ ps, s.NoRecord y.1 y.2.2) →
          Completes x.2.2 s (fun t => s.Read t ∧ s.PutG d (extended x.1 x.2.1 (s.valueOf ps)) t ∧
            t.pts = ps.foldl (fun p y => wmax p (s.tsAt y.1).wts) s.pts)) ∧
        Completes x.2.2 s (fun t => s.Read t ∧ ∃ w, s.PutG d w t)) ∧
    (∀ ps, s.checkAll (s.whoS false) .read (partsOf 8 x.1 (s.g a + v * BitVec.ofNat 64 x.1).toNat x.1) = .ok ps →
      (ps.any fun p => p.1.isSystem) = true →
        (s.coreFull = false → s.loadsFull = false → Completes x.2.2 s (fun t => s.Read t ∧ s.SameG t ∧ s.SameP t ∧
          ∃ own keep, Cells.find? t.sys s.nextId = some (.load s.agent s.inHusk ps own d x.2.1 keep false))) ∧
        (s.loadsFull = true → Completes x.2.2 s (fun t => s.OnlyCtx t ∧ s.SameG t ∧ t.pc = s.pc ∧ t.ctx.stat = .waiting .memory))) ∧
    (∀ ps, s.checkAll (s.whoS false) .read (partsOf 8 x.1 (s.g a + v * BitVec.ofNat 64 x.1).toNat x.1) = .ok ps → s.coreFull = true →
      Completes x.2.2 s (fun t => s.OnlyCtx t ∧ s.SameG t ∧ t.pc = s.pc ∧ t.ctx.stat = .waiting .memory)) ∧
    (∀ f, s.InUser → s.checkAll (s.whoS false) .read (partsOf 8 x.1 (s.g a + v * BitVec.ofNat 64 x.1).toNat x.1) = .error (some f) →
      Completes x.2.2 s ((s.walked false 8 (s.g a + v * BitVec.ofNat 64 x.1) x.1).Trapped f.cause s.pc f.addr f.info))

namespace Sys2Proof.Machine

/-- The parts of a store written in turn. -/
def State.withParts (s : State) : List (Loc × Nat × Nat) → Nat → State
  | [], _ => s
  | x :: r, v => (s.putNat x.1 x.2.2 v).withParts r (v / 256 ^ x.2.2)

/-- A word of S that stores: only the running context, the PTS, the combining buffers, the guard buffer and the TLB of the core
have changed, no register and no other core; the context stands at the next word. -/
def State.Stored (s t : State) : Prop :=
  (∀ n, n ≠ s.agent → t.core n = s.core n) ∧ s.SameG t ∧ s.SameP t ∧ t.StandsAt (s.pc + 4) ∧
  ∃ p b g x y, t.cur = { (s.cur.setCtx s.inHusk t.ctx).setPts s.who p with comb := b, guard := g, guardVas := y, tlb := x }

/-- The four stores with their sizes (R97). -/
def storeForms (g a : BitVec 5) (h : BitVec 3) (i : BitVec 10) : List (Nat × Instr) :=
  [(1, .st8 g a h i), (2, .st16 g a h i), (4, .st32 g a h i), (8, .st64 g a h i)]

end Sys2Proof.Machine

/-- The stores (R96 to R98, R284, R306). -/
def Obligations.StoreResults : Prop :=
  ∀ (s : State) (g a : BitVec 5) (h : BitVec 3) (i : BitVec 10) (v : Word), s.HasDisp i v → s.cur.raceMode = 0 →
    ∀ x ∈ storeForms g a h i,
    (∀ ps, s.checkAll (s.whoS false) .write (partsOf 8 x.1 (s.g a + v * BitVec.ofNat 64 x.1).toNat x.1) = .ok ps →
      (s.cur.surrogate = false → (ps.all fun p => !p.1.isSystem) = true → s.coreFull = false →
        Completes x.2 s (fun t => s.Stored t ∧ (∀ l, ¬ s.InRecords l → t.byteAt l = (s.withParts ps (s.g g).toNat).byteAt l) ∧
          (∀ l, ¬ s.InRecords l → (∀ p ∈ ps, ∀ j, j < p.2.2 → l.key ≠ (p.1.plus j).key) → t.byteAt l = s.byteAt l) ∧
          (∀ l b n, ps = [(l, b, n)] → t.natAt l n = (s.g g).toNat % 256 ^ n ∧
            t.tsAt l = ⟨wmax s.pts ((s.tsAt l).rts + 1), wmax s.pts ((s.tsAt l).rts + 1)⟩ ∧
            t.pts = wmax s.pts ((s.tsAt l).rts + 1)))) ∧
      (s.cur.surrogate = false → (ps.all fun p => p.1.isSystem) = true → s.storesFull = false → s.coreFull = false →
        Completes x.2 s (fun t => s.Stored t ∧ s.SameBytes t)) ∧
      (s.cur.surrogate = true → s.who = .s → (ps.all fun p => !p.1.isSystem) = true → s.guardRoom s.agent ps = true →
        Completes x.2 s (fun t => s.Stored t ∧ (∀ l, t.byteAt l = s.byteAt l) ∧
          ∀ l b n, ps = [(l, b, n)] → guardMerge t.cur.guard l n 0 = (s.g g).toNat % 256 ^ n))) ∧
    (∀ f, s.InUser → s.checkAll (s.whoS false) .write (partsOf 8 x.1 (s.g a + v * BitVec.ofNat 64 x.1).toNat x.1) = .error (some f) →
      Completes x.2 s ((s.walked false 8 (s.g a + v * BitVec.ofNat 64 x.1) x.1).Trapped f.cause s.pc f.addr f.info))

/-- LDAQ and STRL (R101 to R103). -/
def Obligations.OrderingAccesses : Prop :=
  ∀ (s : State) (d a : BitVec 5) (z : BitVec 2) (y : BitVec 1) (i : BitVec 10) (v va : Word), s.HasDisp i v →
    va = s.g a + v * BitVec.ofNat 64 (2 ^ z.toNat) →
    (s.cur.surrogate = false → s.cur.raceMode = 0 → va.toNat % 2 ^ z.toNat = 0 → s.coreFull = false →
      (∀ l, s.check (s.whoS true) .read va = .ok l → l.isSystem = false → (∀ k, s.copyOf l k = none) →
          s.NoRecord l (2 ^ z.toNat) →
        Completes (.ldaq d a z y i) s (fun t =>
          (∀ n, n ≠ s.agent → t.core n = s.core n) ∧ s.SameBytes t ∧ t.StandsAt (s.pc + 4) ∧
          s.PutG d (BitVec.ofNat 64 (s.natAt l (2 ^ z.toNat))) t ∧ t.pts = wmax s.pts (s.tsAt l).wts ∧
          t.cur.floor = if s.inHusk then s.cur.floor else t.cur.pts)) ∧
      (∀ l, s.check (s.whoS true) .write va = .ok l → l.isSystem = false → s.memPending = false →
        (y = 1 → s.cur.comb = [] ∧ s.sysPending = false) →
        Completes (.strl d a z y i) s (fun t => s.Stored t ∧ t.natAt l (2 ^ z.toNat) = (s.g d).toNat % 256 ^ 2 ^ z.toNat ∧
          (∀ p, ¬ s.InRecords p → (∀ j, j < 2 ^ z.toNat → p.key ≠ (l.plus j).key) → t.byteAt p = s.byteAt p) ∧
          t.tsAt l = ⟨wmax s.pts ((s.tsAt l).rts + 1), wmax s.pts ((s.tsAt l).rts + 1)⟩ ∧
          t.pts = wmax s.pts ((s.tsAt l).rts + 1))) ∧
      (s.memPending = true → y = 0 →
        Completes (.strl d a z y i) s (fun t => s.OnlyCtx t ∧ t.pc = s.pc ∧ t.ctx.stat = .waiting .memory))) ∧
    (s.InUser → va.toNat % 2 ^ z.toNat ≠ 0 →
      Completes (.ldaq d a z y i) s (s.Trapped 0x03 s.pc va 0) ∧ Completes (.strl d a z y i) s (s.Trapped 0x03 s.pc va 0))

namespace Sys2Proof.Machine

/-- The bytes of a size code of an atomic (Table 03.1). -/
def sizeBytes (z : BitVec 3) : Nat := if z = 1 then 8 else 4

/-- The new value of memory, as Table 05.4 states it, on `w` bits. -/
def amoForms (d a b : BitVec 5) (z : BitVec 3) (w : Nat) : List (Instr × Bool × (BitVec w → BitVec w → BitVec w)) :=
  [(.amoSwap d a b z, true, fun _ v => v), (.amoAdd d a b z, true, fun m v => m + v), (.amoAnd d a b z, true, fun m v => m &&& v),
   (.amoOr d a b z, true, fun m v => m ||| v), (.amoXor d a b z, true, fun m v => m ^^^ v),
   (.amoMin d a b z, true, fun m v => if m.toInt ≤ v.toInt then m else v),
   (.amoMax d a b z, true, fun m v => if m.toInt ≤ v.toInt then v else m),
   (.amoMinz d a b z, false, fun m v => if m.toNat ≤ v.toNat then m else v),
   (.amoMaxz d a b z, false, fun m v => if m.toNat ≤ v.toNat then v else m)]

/-- What an atomic leaves: `n` bytes written at a place at one timestamp, gd written, nothing else. -/
def State.Atomic (s : State) (d : BitVec 5) (l : Loc) (n new : Nat) (result : Word) (t : State) : Prop :=
  (∀ k, k ≠ s.agent → t.core k = s.core k) ∧ s.PutG d result t ∧ t.StandsAt (s.pc + 4) ∧
  t.natAt l n = new % 256 ^ n ∧ (∀ p, ¬ s.InRecords p → (∀ j, j < n → p.key ≠ (l.plus j).key) → t.byteAt p = s.byteAt p) ∧
  t.tsAt l = ⟨wmax s.pts ((s.tsAt l).rts + 1), wmax s.pts ((s.tsAt l).rts + 1)⟩ ∧ t.pts = wmax s.pts ((s.tsAt l).rts + 1) ∧
  ∃ p f x, t.cur = { (s.cur.setCtx s.inHusk t.ctx).setPts s.who p with fadds := f, tlb := x }

/-- S may perform an atomic at once on a place of package memory or scratch. -/
def State.AtomicReady (s : State) (va : Word) (align : Nat) (l : Loc) : Prop :=
  s.Plain ∧ s.surrogateNow = false ∧ s.cur.raceMode = 0 ∧ va.toNat % align = 0 ∧ s.check (s.whoS true) .atomic va = .ok l ∧
  l.isSystem = false ∧ s.NoRecord l 128 ∧ s.coreFull = false

end Sys2Proof.Machine

/-- AMO and CAS (R115, R117). -/
def Obligations.AtomicResults : Prop :=
  ∀ (s : State) (d a b : BitVec 5) (z : BitVec 3) (l : Loc), z.toNat ≤ 1 →
    (s.AtomicReady (s.g a) (sizeBytes z) l →
      (∀ x ∈ amoForms d a b z (8 * sizeBytes z), Completes x.1 s (s.Atomic d l (sizeBytes z)
        (x.2.2 (BitVec.ofNat _ (s.natAt l (sizeBytes z))) (BitVec.ofNat _ (s.g b).toNat)).toNat
        (extended (sizeBytes z) (x.2.1 && sizeBytes z == 4) (s.natAt l (sizeBytes z))))) ∧
      Completes (.cas d a b z) s (s.Atomic d l (sizeBytes z)
        (if s.natAt l (sizeBytes z) = (s.g d).toNat % 256 ^ sizeBytes z then (s.g b).toNat else s.natAt l (sizeBytes z))
        (extended (sizeBytes z) (sizeBytes z == 4) (s.natAt l (sizeBytes z))))) ∧
    (s.recMode ((s.partOf s.agent).getD 0) = 0 → s.AtomicReady (s.g a) 4 l →
      Completes (.amoFadd d a b) s (s.Atomic d l 4 (fadd32 (s.natAt l 4) ((s.g b).toNat % 2 ^ 32)) (BitVec.ofNat 64 (s.natAt l 4)))) ∧
    (s.AtomicReady (s.g a) 128 l →
      Completes (.amoXadd d a b) s (s.Atomic d l 128
        (slotBytes ((slotOf (s.natAt l 128)).addTerm (fp32.decode ((s.g b).toNat % 2 ^ 32))))
        (BitVec.ofNat 64 ((slotOf (s.natAt l 128)).read % 2 ^ 32)))) ∧
    (s.InUser → s.Plain → (s.g a).toNat % sizeBytes z ≠ 0 →
      (∀ x ∈ amoForms d a b z 64, Completes x.1 s (s.Trapped 0x03 s.pc (s.g a) 0)) ∧
      Completes (.cas d a b z) s (s.Trapped 0x03 s.pc (s.g a) 0))

namespace Sys2Proof.Machine

/-- The reductions with fn and size (R116). -/
def redForms (a b : BitVec 5) (z : BitVec 3) : List (Instr × Nat × Nat) :=
  [(.redAdd a b z, 1, sizeBytes z), (.redAnd a b z, 2, sizeBytes z), (.redOr a b z, 3, sizeBytes z), (.redXor a b z, 4, sizeBytes z),
   (.redMin a b z, 5, sizeBytes z), (.redMax a b z, 6, sizeBytes z), (.redMinz a b z, 7, sizeBytes z),
   (.redMaxz a b z, 8, sizeBytes z), (.redFadd a b, 9, 4), (.redXadd a b, 10, 4)]

/-- RED and its performance (R116). -/
def ReductionsAreSentHold : Prop :=
  (∀ (s : State) (a b : BitVec 5) (z : BitVec 3) (l : Loc), z.toNat ≤ 1 → ∀ x ∈ redForms a b z,
    s.AtomicReady (s.g a) (if x.2.1 = 10 then 128 else x.2.2) l →
    Completes x.1 s (fun t => s.SameG t ∧ s.SameP t ∧ t.StandsAt (s.pc + 4) ∧ s.SameBytes t ∧
      (∀ k, k ≠ s.agent → t.core k = s.core k) ∧
      ∃ r, t.reqs = Cells.put s.reqs s.nextId r ∧ r.kind = .red x.2.1 x.2.2 (s.g b) ∧ r.loc = l ∧ r.va = s.g a ∧
        r.core = s.agent ∧ r.e = s.who ∧ r.pts = s.pts ∧ r.issued = s.pts ∧ r.number = s.cur.launchId ∧ r.iter = s.cur.iter ∧
        r.gen = s.cur.gen ∧ r.at_ = s.pc ∧ r.pushes = [])) ∧
  (∀ (s : State) (a b : BitVec 5) (z : BitVec 3) (l : Loc), z.toNat ≤ 1 → ∀ x ∈ redForms a b z, s.Plain → s.surrogateNow = false →
    s.cur.raceMode = 0 → (s.g a).toNat % (if x.2.1 = 10 then 128 else x.2.2) = 0 → s.check (s.whoS true) .atomic (s.g a) = .ok l →
    s.coreFull = true → Completes x.1 s (fun t => s.OnlyCtx t ∧ s.SameG t ∧ t.pc = s.pc ∧ t.ctx.stat = .waiting .memory)) ∧
  ∀ (s : State) (i : Nat) (r : Req) (fn size : Nat) (v : Word), Cells.find? s.reqs i = some r → r.kind = .red fn size v →
    s.redBehind i r = false → s.reqTurn r = true → s.reqPlace r = .ok r.loc → r.loc.isSystem = false →
    s.eccAt r.loc r.va = none → (s.core r.core).raceMode = 0 →
    (fn = 9 → s.recMode (s.reqPart r) = 2 → s.faddGo (s.reqPart r) (faddLine r.va) r.key = false →
      Completes (.homeAtomicPerform i) s (fun t => t = s)) ∧
    (fn = 9 → s.recMode (s.reqPart r) = 1 → s.recRoom 1 = true → Completes (.homeAtomicPerform i) s (fun t =>
      Cells.find? t.reqs i = none ∧
      t.recs.entries = s.recs.entries ++ [.fadd (faddLine r.va) r.key (s.faddIndex (s.reqPart r) (faddLine r.va))])) ∧
    (fn = 9 → s.recMode (s.reqPart r) = 2 → s.faddGo (s.reqPart r) (faddLine r.va) r.key = true →
      Completes (.homeAtomicPerform i) s (fun t =>
        Cells.get 0 t.recs.performed (faddLine r.va) = Cells.get 0 s.recs.performed (faddLine r.va) + 1)) ∧
    ((fn = 9 → s.recMode (s.reqPart r) ≠ 1 ∧ s.faddGo (s.reqPart r) (faddLine r.va) r.key = true) →
      Completes (.homeAtomicPerform i) s (fun t =>
      t.natAt r.loc (atomicBytes fn size) = (atomicStep fn size (s.natAt r.loc (atomicBytes fn size)) v).2 % 256 ^ atomicBytes fn size ∧
      (∀ p, (∀ j, j < atomicBytes fn size → p.key ≠ (r.loc.plus j).key) → t.byteAt p = s.byteAt p) ∧
      Cells.find? t.reqs i = none ∧ (t.core r.core).ptsOf r.e = wmax ((s.core r.core).ptsOf r.e) (t.tsAt r.loc).wts ∧ t.tsAt r.loc = ⟨wmax r.pts ((s.tsAt r.loc).rts + 1), wmax r.pts ((s.tsAt r.loc).rts + 1)⟩))

/-- The ordered atomics with fn and size (R118). -/
def aoseqForms (d a b : BitVec 5) (z : BitVec 3) : List (Instr × Nat × Nat) :=
  [(.aoseqSwap d a b z, 0, sizeBytes z), (.aoseqAdd d a b z, 1, sizeBytes z), (.aoseqAnd d a b z, 2, sizeBytes z),
   (.aoseqOr d a b z, 3, sizeBytes z), (.aoseqXor d a b z, 4, sizeBytes z), (.aoseqMin d a b z, 5, sizeBytes z),
   (.aoseqMax d a b z, 6, sizeBytes z), (.aoseqMinz d a b z, 7, sizeBytes z), (.aoseqMaxz d a b z, 8, sizeBytes z),
   (.aoseqFadd d a b, 9, 4)]

/-- AOSEQ, its arrival and its sending again (R118, R119). -/
def OrderedAtomicsHold : Prop :=
  (∀ (s : State) (d a b : BitVec 5) (z : BitVec 3) (l : Loc), z.toNat ≤ 1 → ∀ x ∈ aoseqForms d a b z,
    s.Plain → s.surrogateNow = false → s.cur.raceMode = 0 → (s.g a).toNat % 16 = 0 →
    s.check (s.whoS true) .atomic (s.g a) = .ok l → l.isSystem = false → s.coreFull = false →
    Completes x.1 s (fun t => s.SameG t ∧ s.SameP t ∧ t.StandsAt (s.pc + 4) ∧ s.SameBytes t ∧
      (∀ k, k ≠ s.agent → t.core k = s.core k) ∧
      ∃ q, t.aoseqs = Cells.put s.aoseqs s.nextId q ∧ q.core = s.agent ∧ q.va = s.g a ∧ q.fn = x.2.1 ∧ q.size = x.2.2 ∧
        q.n = s.g d ∧ q.v = s.g b ∧ q.gd = d ∧ q.buffered = false ∧ q.dead = false ∧ q.refused = false ∧ q.husk = s.inHusk)) ∧
  ∀ (s : State) (i : Nat) (q : Aoseq) (l : Loc), s.aoseqs = [(i, q)] → q.buffered = false → q.dead = false → q.refused = false →
    s.aoseqPlace q = .ok l → l.isSystem = false → (s.core q.core).raceMode = 0 → (q.size = 4 ∨ q.size = 8) →
    (q.n.toNat = s.natAt l 8 → Completes (.aoseqArrival q.core) s (fun t =>
      t.natAt l 8 = (q.n.toNat + 1) % 2 ^ 64 ∧
      t.natAt (l.plus 8) q.size =
        (atomicValue q.fn q.size (BitVec.ofNat 64 (s.natAt (l.plus 8) q.size)) q.v).toNat % 256 ^ q.size ∧
      (∀ p, (∀ j, j < 8 + q.size → p.key ≠ (l.plus j).key) → t.byteAt p = s.byteAt p) ∧ t.aoseqs = [] ∧
      t.tsAt l = ⟨wmax ((s.core q.core).ptsOf q.seq) ((s.tsAt l).rts + 1), wmax ((s.core q.core).ptsOf q.seq) ((s.tsAt l).rts + 1)⟩ ∧
      (t.core q.core).ptsOf q.seq = (t.tsAt l).wts ∧ (∀ k, k ≠ q.core → t.core k = s.core k) ∧
      (t.core q.core).ctx q.husk =
        ((s.core q.core).ctx q.husk).setG q.gd (atomicResult q.fn q.size (s.natAt (l.plus 8) q.size)))) ∧
    (q.n.toNat < s.natAt l 8 → Completes (.aoseqArrival q.core) s (fun t =>
      t = { s with aoseqs := [(i, { q with dead := true, buffered := false })] })) ∧
    (s.natAt l 8 < q.n.toNat → Completes (.aoseqArrival q.core) s (fun t =>
      t = { s with aoseqs := [(s.nextId, { q with buffered := true })], nextId := s.nextId + 1 })) ∧
    Completes (.aoseqResend q.core) { s with aoseqs := [(i, { q with refused := true })] } (fun t => t = s)

end Sys2Proof.Machine

/-- RED and AOSEQ are checked at issue, sent to their home and performed there (R116, R115, R359, R99, R396, R397, R118, R119). -/
def Obligations.ReductionsAndOrderedAtomics : Prop := ReductionsAreSentHold ∧ OrderedAtomicsHold

namespace Sys2Proof.Machine

/-- Only TLBs and what the caches hold differ, and a TLB holds nothing but what it held and the leaves of walks of the lines from
`lo` to `hi` (R351). -/
def State.UpToCaches (s : State) (lo hi : Nat) (u : State) : Prop :=
  u = { s with cores := u.cores, pods := u.pods, attrs := u.attrs, copies := u.copies, devCopies := u.devCopies } ∧
  (∀ n, { u.core n with tlb := [] } = { s.core n with tlb := [] }) ∧ (∀ n, { u.pod n with tlb := [] } = { s.pod n with tlb := [] }) ∧
  ∀ k, ∀ x ∈ u.tlbOf k, x ∈ s.tlbOf k ∨
    ∃ n, lo ≤ n ∧ n ≤ hi ∧ s.walkEntry s.agent s.inHusk (BitVec.ofNat 64 (128 * n)) = some x

end Sys2Proof.Machine

/-- FENCE.SYS, FENCE.FAB and CACHEOP (R121, R122). DESIGN CHOICE: read permission is enough for CACHEOP, and lines of the scratch window
are passed over (log entry 96). -/
def Obligations.FencesAndCacheOperations : Prop :=
  ∀ (s : State) (a b : BitVec 5) (pr : BitVec 3), s.Plain → s.p pr = true → s.surrogateNow = false →
    (s.memPending = false → s.cur.comb = [] → s.sysPending = false → Completes (.fenceSys pr) s (fun t =>
      s.OnlyCore t ∧ s.SameG t ∧ s.SameP t ∧ t.StandsAt (s.pc + 4) ∧
      t.cur = { s.cur.setCtx s.inHusk t.ctx with floor := if s.inHusk then s.cur.floor else s.cur.pts })) ∧
    (s.memPending = true → s.cur.comb = [] → Completes (.fenceSys pr) s (fun t =>
      s.OnlyCtx t ∧ s.SameG t ∧ t.pc = s.pc ∧ t.ctx.stat = .waiting .memory)) ∧
    (s.ctx.wait ≠ some .fence → s.memPending = false → Completes (.fenceFab pr) s (fun t =>
      s.SameG t ∧ t.pc = s.pc ∧ t.ctx.stat = .waiting .fence ∧ (∀ l, t.byteAt l = s.byteAt l) ∧
      t.sys = Cells.put s.sys s.nextId (.fence s.agent))) ∧
    (s.ctx.wait = some .fence → s.fencePending = false → Completes (.fenceFab pr) s s.Skips) ∧
    ((s.g b = 0 → ∀ i ∈ [Instr.cacheopClean a b pr, .cacheopDrop a b pr, .cacheopDemote a b pr, .cacheopSysinv a b pr],
      Completes i s s.Skips)) ∧
    (s.g b ≠ 0 → (∀ n, (s.g a).toNat / 128 ≤ n → n ≤ ((s.g a).toNat + (s.g b).toNat - 1) / 128 →
        (scratchBase ≤ 128 * n ∧ 128 * n < 2 ^ 56) ∨ (s.repFault (BitVec.ofNat 64 (128 * n)) = none ∧
          ∀ u, s.UpToCaches ((s.g a).toNat / 128) (((s.g a).toNat + (s.g b).toNat - 1) / 128) u → ∃ l, u.translate s.agent (!s.inHusk) .read (BitVec.ofNat 64 (128 * n)) = .ok l)) →
      (∀ x ∈ s.attrs, x.2.shadowAt = none) →
      ∀ i ∈ [Instr.cacheopClean a b pr, .cacheopDrop a b pr, .cacheopDemote a b pr, .cacheopSysinv a b pr],
        Completes i s (fun t => s.SameG t ∧ s.SameP t ∧ t.StandsAt (s.pc + 4) ∧ (∀ k, k ≠ s.agent → t.core k = s.core k) ∧
          { t.cur with tlb := [] } = { (s.advance).cur with tlb := [] } ∧ ∀ p, t.byteAt p = s.byteAt p)) ∧
    (∀ l, s.g b ≠ 0 → (s.g a).toNat / 128 = ((s.g a).toNat + (s.g b).toNat - 1) / 128 → (s.g a).toNat < 2 ^ 55 →
        s.translate s.agent (!s.inHusk) .read (BitVec.ofNat 64 (128 * ((s.g a).toNat / 128))) = .ok l →
        s.repFault (BitVec.ofNat 64 (128 * ((s.g a).toNat / 128))) = none →
      (∀ x, Cells.find? s.attrs (l.key / 128) = some x →
        Completes (.cacheopClean a b pr) s (fun t => Cells.find? t.attrs (l.key / 128) = some { x with dirty := false }) ∧
        (x.pins = [] →
          Completes (.cacheopDrop a b pr) s (fun t => Cells.find? t.attrs (l.key / 128) = none) ∧
          Completes (.cacheopDemote a b pr) s (fun t => Cells.find? t.attrs (l.key / 128) = some { x with cls := 2 }))) ∧
      Completes (.cacheopDrop a b pr) s (fun t => t.copyOf l s.agent = none ∧ t.copyOf l (256 + podOf s.agent) = none) ∧
      (l.isSystem = true → Completes (.cacheopSysinv a b pr) s (fun t => Cells.find? t.devCopies (l.key / 128) = none)))

namespace Sys2Proof.Machine

/-- S may perform an A word: no prefix, no other A word, not in the surrogate phase, kout not pending (R186). -/
def State.AReady (s : State) (k : BitVec 6) : Prop := s.Plain ∧ s.surrogateNow = false ∧ s.cur.tok k ≠ .pending

/-- kout has a new state, the other tokens theirs; k63 names none. -/
def State.TokenSet (s : State) (k : BitVec 6) (v : Tok) (t : State) : Prop :=
  ∀ j, t.cur.tok j = if j = k ∧ k ≠ 63 then v else s.cur.tok j

/-- What an A word leaves but its operation: only tokens and the running context have changed. -/
def State.AFrame (s : State) (k : BitVec 6) (v : Tok) (t : State) : Prop :=
  (∀ n, n ≠ s.agent → t.core n = s.core n) ∧ s.SameG t ∧ s.SameP t ∧ t.StandsAt (s.pc + 4) ∧ (∀ l, t.byteAt l = s.byteAt l) ∧
  s.TokenSet k v t ∧ t.cur = { s.cur.setCtx s.inHusk t.ctx with tokens := t.cur.tokens }

/-- One operation has been started. -/
def State.Starts (s : State) (kind : OpKind) (k : BitVec 6) (t : State) : Prop :=
  s.AFrame k .pending t ∧ t.nextId = s.nextId + 1 ∧ (∀ j, j ≠ s.nextId → Cells.find? t.ops j = Cells.find? s.ops j) ∧
  ∃ o, Cells.find? t.ops s.nextId = some o ∧ o.kind = kind ∧ o.tok = s.tokRef k ∧ o.base = s.pts

/-- The operation is the last in the queue of the copy engine. -/
def State.StartsCopy (s : State) (kind : OpKind) (k : BitVec 6) (t : State) : Prop :=
  s.Starts kind k t ∧ (t.pod (podOf s.agent)).queue = (s.pod (podOf s.agent)).queue ++ [s.nextId]

end Sys2Proof.Machine

/-- The A words that start an operation (R190 to R195, R208, R209, R280, R324). -/
def Obligations.AsynchronousOperations : Prop :=
  ∀ (s : State) (k : BitVec 6) (a b c : BitVec 5), s.AReady k →
    (s.opsFull = false →
      ((c = 0 ∨ (s.g c).toNat % 16 = 0) →
        Completes (.copy k a b c 0) s (s.StartsCopy (.copy (s.g a) (s.g b) (if c = 0 then none else some (s.g c))) k)) ∧
      (s.g c ≠ 0 → (s.g c).toNat < 2 ^ 40 →
        Completes (.copyl k a b c 0) s (s.StartsCopy (.copyl (s.g a) (s.g b) (s.g c)) k)) ∧
      ((s.g b).toNat < 8 → Completes (.tpref k a b 0) s (s.Starts (.tpref (s.g a) (s.g b)) k)) ∧
      (s.g c ≠ 0 → (s.g c).toNat < 2 ^ 32 →
        Completes (.fsend k a b c 0) s (s.Starts (.fsend (s.g a) (s.g b) (s.g c)) k) ∧
        Completes (.fget k a b c 0) s (s.Starts (.fget (s.g a) (s.g b) (s.g c)) k))) ∧
    (s.g c = 0 →
      Completes (.copyl k a b c 0) s (s.AFrame k (.done s.pts)) ∧ Completes (.fsend k a b c 0) s (s.AFrame k (.done s.pts)) ∧
      Completes (.fget k a b c 0) s (s.AFrame k (.done s.pts))) ∧
    ((s.g a).toNat ≤ 63 →
      ((b = 0 ∨ (s.g b).toNat % 8 = 0) →
        Completes (.wpin k a b 0) s (s.Starts (.window 0 (s.g a) (if b = 0 then none else some (s.g b))) k) ∧
        Completes (.wunpin k a b 0) s (s.Starts (.window 1 (s.g a) (if b = 0 then none else some (s.g b))) k)) ∧
      ((s.g b).toNat < 2 ^ 20 → (s.g b).toNat / 256 % 16 = 0 → (s.g b).toNat / 4096 % 16 ≤ 6 →
        Completes (.wown k a b 0) s (s.Starts (.window 2 (s.g a) (some (s.g b))) k))) ∧
    ((s.g a).toNat % 128 = 0 → Completes (.rtrim k a 0) s (s.Starts (.trim (s.g a)) k))

/-- Illegal register values of the A words (R186). -/
def Obligations.IllegalOperands : Prop :=
  ∀ (s : State) (k : BitVec 6) (a b c : BitVec 5), s.InUser → s.Plain →
    (c ≠ 0 → (s.g c).toNat % 16 ≠ 0 → Completes (.copy k a b c 0) s (s.TrappedIllegal (wordOf (.copy k a b c 0)))) ∧
    (2 ^ 40 ≤ (s.g c).toNat → Completes (.copyl k a b c 0) s (s.TrappedIllegal (wordOf (.copyl k a b c 0)))) ∧
    (8 ≤ (s.g b).toNat → Completes (.tpref k a b 0) s (s.TrappedIllegal (wordOf (.tpref k a b 0)))) ∧
    (2 ^ 32 ≤ (s.g c).toNat →
      Completes (.fsend k a b c 0) s (s.TrappedIllegal (wordOf (.fsend k a b c 0))) ∧
      Completes (.fget k a b c 0) s (s.TrappedIllegal (wordOf (.fget k a b c 0)))) ∧
    (63 < (s.g a).toNat →
      Completes (.wpin k a b 0) s (s.TrappedIllegal (wordOf (.wpin k a b 0))) ∧
      Completes (.wunpin k a b 0) s (s.TrappedIllegal (wordOf (.wunpin k a b 0))) ∧
      Completes (.wown k a b 0) s (s.TrappedIllegal (wordOf (.wown k a b 0)))) ∧
    ((s.g a).toNat % 128 ≠ 0 → Completes (.rtrim k a 0) s (s.TrappedIllegal (wordOf (.rtrim k a 0)))) ∧
    (4096 ≤ (s.g a).toNat →
      Completes (.sigs k a b 0) s (s.TrappedIllegal (wordOf (.sigs k a b 0))) ∧
      ((∀ i th m, s.ctx.stat ≠ .waiting (.signal i th m)) →
        Completes (.sigw k a b 0) s (s.TrappedIllegal (wordOf (.sigw k a b 0))))) ∧
    (a ≠ 0 → 64 ≤ (s.g a).toNat → Completes (.tokn k a b c 0) s (s.TrappedIllegal (wordOf (.tokn k a b c 0))))

namespace Sys2Proof.Machine

/-- The A words with an nw field (Table 03.1). -/
def aWords (k : BitVec 6) (a b c : BitVec 5) (n : BitVec 2) : List Instr :=
  [.copy k a b c n, .copyl k a b c n, .tpref k a b n, .bar k a n, .bara k a n, .barax k a n, .barw k a n, .collx k a b c n,
   .lnch k a n, .glnch k a n, .sigs k a b n, .sigw k a b n, .rcall k a b c n, .rqry k a b c n, .rtrim k a n, .wpin k a b n,
   .wunpin k a b n, .wown k a b n, .phase k a b n, .tokn k a b c n, .fsend k a b c n, .fget k a b c n]

/-- X.TWS (R59, R86). -/
def TokenWaitsOfAWordsHold : Prop :=
  ∀ (s : State) (k x y z : BitVec 6) (a b c : BitVec 5) (n : BitVec 2),
    (s.Plain → n ≠ 0 → ∀ i ∈ aWords k a b c n, Completes i s (fun t => s.OnlyCtx t ∧ s.SameG t ∧ s.SameP t ∧ t.pc = s.pc + 4 ∧
      t.ctx.pfx = .none ∧ t.ctx.pend = some ⟨wordOf i, s.pc⟩ ∧ t.ctx.stat = .running)) ∧
    (∀ at_, s.InUser → s.ctx.pfx = .none → s.ctx.pend = some ⟨wordOf (.tpref k a b 1), at_⟩ → (s.g b).toNat < 8 →
      (∀ ts, s.cur.tok x = .done ts → s.cur.tok k ≠ .pending → s.opsFull = false →
        Completes (.xTws x 63 63) s (fun t => t.StandsAt (s.pc + 4) ∧ s.SameG t ∧ s.SameP t ∧ s.TokenSet k .pending t ∧
          t.cur.pts = wmax s.cur.pts ts ∧ t.cur.floor = t.cur.pts ∧ (∀ l, t.byteAt l = s.byteAt l) ∧
          ∃ o, Cells.find? t.ops s.nextId = some o ∧ o.kind = .tpref (s.g a) (s.g b) ∧ o.base = t.cur.pts ∧ o.at_ = at_)) ∧
      (s.cur.tok x = .pending → Completes (.xTws x 63 63) s (fun t => s.OnlyCtx t ∧ t.pc = s.pc ∧ t.ctx.stat = .waiting (.token x))) ∧
      (∀ f, s.cur.tok x = .failed f → Completes (.xTws x 63 63) s (s.Trapped f.cause at_ f.addr f.info)) ∧
      ((y ≠ 63 ∨ z ≠ 63) → Completes (.xTws x y z) s (s.TrappedIllegal (wordOf (.xTws x y z))))) ∧
    (s.InUser → s.Plain → Completes (.xTws x y z) s (s.TrappedIllegal (wordOf (.xTws x y z))))

/-- TOKN (R199). -/
def TokenJoinsHold : Prop :=
  ∀ (s : State) (k : BitVec 6) (a : BitVec 5), s.AReady k →
    Completes (.tokn k 0 0 0 0) s (s.AFrame k (.done s.pts)) ∧
    (a ≠ 0 → (s.g a).toNat < 64 →
      (∀ ts, s.cur.tok ((s.g a).setWidth 6) = .done ts → Completes (.tokn k a 0 0 0) s (s.AFrame k (.done ts))) ∧
      (∀ f, s.cur.tok ((s.g a).setWidth 6) = .failed f → Completes (.tokn k a 0 0 0) s (s.AFrame k (.failed f))) ∧
      (s.cur.tok ((s.g a).setWidth 6) = .pending →
        Completes (.tokn k a 0 0 0) s (s.Starts (.tokn [((s.g a).setWidth 6, .pending)]) k)))

end Sys2Proof.Machine

/-- An A word with token waits waits for its X.TWS; TOKN resolves at once when none of its inputs is pending (R58, R59, R86, R186, R199). -/
def Obligations.TokenWaitsAndJoins : Prop := TokenWaitsOfAWordsHold ∧ TokenJoinsHold

namespace Sys2Proof.Machine

/-- The current agent may arrive at barrier `n` of its gang with descriptor `d`: nothing outstanding, the phase open, the count
and the kind those of its earlier arrivals (R200, R201). -/
def State.Arrives (s : State) (k : BitVec 6) (d : Word) (x : Binding) (g : Gang) (collx : Bool) : Prop :=
  s.AReady k ∧ s.memPending = false ∧ s.cur.binding = some x ∧ Cells.find? s.gangs x.gang = some g ∧ d.toNat < 2 ^ 22 ∧
  (∀ e ph, s.ctx.stat ≠ .waiting (.barrier e ph)) ∧
  (Cells.get Barrier.reset g.barriers (d.toNat / 65536)).isCollx ≠ some (!collx) ∧
  ((Cells.get Barrier.reset g.barriers (d.toNat / 65536)).count = 0 ∨
    ((Cells.get Barrier.reset g.barriers (d.toNat / 65536)).count < (Cells.get Barrier.reset g.barriers (d.toNat / 65536)).n ∧
     (Cells.get Barrier.reset g.barriers (d.toNat / 65536)).n =
       (if d.toNat % 65536 = 0 then s.cur.gangSize.toNat else d.toNat % 65536)))

/-- The barrier after one more arrival. -/
def arrived (b : Barrier) (n : Nat) (ts : Word) (collx : Bool) : Barrier :=
  { b with count := b.count + 1, n := n, ts := ts, isCollx := some collx }

/-- The entry of a fabric barrier. -/
def Part.fabricBar (p : Part) (d : Word) : FBar := Cells.get ⟨0, Barrier.reset, []⟩ p.fbars (d.toNat / 65536 % 64)

/-- The current agent may arrive at a fabric barrier of its partition: nothing outstanding, no combining buffer in use, the entry
valid, the phase open, its kind that of the earlier arrivals, no peer write of the core on its way where this device counts (R203,
R204, R295). -/
def State.ArrivesFabric (s : State) (k : BitVec 6) (d : Word) (x : Binding) (g : Gang) (n : Nat) (p : Part) (collx : Bool) : Prop :=
  s.AReady k ∧ s.memPending = false ∧ s.cur.binding = some x ∧ Cells.find? s.gangs x.gang = some g ∧
  s.partOf s.agent = some n ∧ Cells.find? s.parts n = some p ∧ 2 ^ 22 ≤ d.toNat ∧ d.toNat < 2 ^ 23 ∧ d.toNat % 65536 = 0 ∧
  (∀ e ph, s.ctx.stat ≠ .waiting (.barrier e ph)) ∧ s.cur.comb = [] ∧ s.flowsOpen ⟨n, 64 + d.toNat / 65536 % 64⟩ = false ∧
  fbValid (p.fabricBar d).entry = true ∧ (p.fabricBar d).bar.isCollx ≠ some (!collx) ∧
  (p.fabricBar d).bar.count < fbCount (p.fabricBar d).entry ∧
  ((p.fabricBar d).bar.count = 0 ∨ (p.fabricBar d).bar.n = fbCount (p.fabricBar d).entry)

/-- What an arrival at a fabric barrier leaves: the barrier, the latest arrival of the member, and a packet where another device
counts. -/
def State.ArrivedFabric (s : State) (k : BitVec 6) (d : Word) (x : Binding) (n : Nat) (p : Part) (b : Barrier) (waits release : Bool)
    (t : State) : Prop :=
  (∀ j, j ≠ s.agent → t.core j = s.core j) ∧ s.SameG t ∧ s.SameP t ∧ (∀ l, t.byteAt l = s.byteAt l) ∧ s.TokenSet k .pending t ∧
  (∃ h, Cells.find? t.gangs x.gang = some h ∧
    Cells.find? h.arrivals (arrivalKey s.cur.gangRank.toNat d) = some (p.fabricBar d).bar.phase) ∧
  (∃ q, Cells.find? t.parts n = some q ∧ (q.fabricBar d).bar = b ∧ (q.fabricBar d).entry = (p.fabricBar d).entry) ∧
  (fbMaster (p.fabricBar d).entry = true → t.ops = s.ops) ∧
  (fbMaster (p.fabricBar d).entry = false → ∃ o, Cells.find? t.ops s.nextId = some o ∧ o.tok = s.tokRef k ∧
    o.kind = .barrier n (64 + d.toNat / 65536 % 64) waits (p.fabricBar d).bar.phase release s.pts (!release))

/-- What an arrival leaves: the barrier and the latest arrival of the member; registers, memory and other cores as before. -/
def State.ArrivedAt (s : State) (k : BitVec 6) (d : Word) (x : Binding) (g : Gang) (b : Barrier) (t : State) : Prop :=
  (∀ n, n ≠ s.agent → t.core n = s.core n) ∧ s.SameG t ∧ s.SameP t ∧ (∀ l, t.byteAt l = s.byteAt l) ∧ s.TokenSet k .pending t ∧
  ∃ h, Cells.find? t.gangs x.gang = some h ∧ Cells.get Barrier.reset h.barriers (d.toNat / 65536) = b ∧
    Cells.find? h.arrivals (arrivalKey s.cur.gangRank.toNat d) = some (Cells.get Barrier.reset g.barriers (d.toNat / 65536)).phase

/-- The arrival words on a barrier of the gang (R200 to R202, R207). -/
def BarrierArrivalsHold : Prop :=
  ∀ (s : State) (k : BitVec 6) (a : BitVec 5) (x : Binding) (g : Gang) (b : Barrier) (n : Nat),
    b = Cells.get Barrier.reset g.barriers ((s.g a).toNat / 65536) →
    n = (if (s.g a).toNat % 65536 = 0 then s.cur.gangSize.toNat else (s.g a).toNat % 65536) →
    (s.Arrives k (s.g a) x g false →
      Completes (.bara k a 0) s (fun t => t.StandsAt (s.pc + 4) ∧
        s.ArrivedAt k (s.g a) x g { arrived b n (wmax b.ts s.pts) false with toks := b.toks ++ [s.tokRef k] } t) ∧
      Completes (.barax k a 0) s (fun t => t.StandsAt (s.pc + 4) ∧
        s.ArrivedAt k (s.g a) x g { arrived b n b.ts false with toks := b.toks ++ [s.tokRef k] } t) ∧
      Completes (.bar k a 0) s (fun t => t.pc = s.pc ∧ t.ctx.stat = .waiting (.barrier ((s.g a).setWidth 23) b.phase) ∧
        s.ArrivedAt k (s.g a) x g (arrived b n (wmax b.ts s.pts) false) t)) ∧
    (∀ c e f l m rd, s.Arrives k (s.g a) x g true → (s.g f).toNat = (s.g a).toNat + (if rd then 2 ^ 24 else 0) →
      (s.g c).toNat % 128 = 0 → (s.g e).toNat % 128 = 0 →
      s.check (s.whoS true) .read (s.g c) = .ok l → s.check (s.whoS true) .write (s.g e) = .ok m →
      Completes (.collx k c e f 0) s (fun t => t.StandsAt (s.pc + 4) ∧ s.ArrivedAt k (s.g a) x g
        { arrived b n (wmax b.ts s.pts) true with
          collx := b.collx ++ [⟨s.agent, s.g c, s.g e, rd, s.tokRef k, s.pts, x.launch, s.cur.floor, s.cur.gangRank.toNat, s.pc⟩] } t)) ∧
    (∀ j p y, y = (p.fabricBar (s.g a)).bar → s.ArrivesFabric k (s.g a) x g j p false →
      Completes (.bara k a 0) s (fun t => t.StandsAt (s.pc + 4) ∧ s.ArrivedFabric k (s.g a) x j p
        { arrived y (fbCount (p.fabricBar (s.g a)).entry) (wmax y.ts s.pts) false with toks := y.toks ++ [s.tokRef k] } false true t) ∧
      Completes (.barax k a 0) s (fun t => t.StandsAt (s.pc + 4) ∧ s.ArrivedFabric k (s.g a) x j p
        { arrived y (fbCount (p.fabricBar (s.g a)).entry) y.ts false with toks := y.toks ++ [s.tokRef k] } false false t) ∧
      Completes (.bar k a 0) s (fun t => t.pc = s.pc ∧ t.ctx.stat = .waiting (.barrier ((s.g a).setWidth 23) y.phase) ∧
        s.ArrivedFabric k (s.g a) x j p (arrived y (fbCount (p.fabricBar (s.g a)).entry) (wmax y.ts s.pts) false) true true t)) ∧
    (∀ j p y c e f l m rd, y = (p.fabricBar (s.g a)).bar → s.ArrivesFabric k (s.g a) x g j p true →
      (s.g f).toNat = (s.g a).toNat + (if rd then 2 ^ 24 else 0) → (s.g c).toNat % 128 = 0 → (s.g e).toNat % 128 = 0 →
      s.check (s.whoS true) .read (s.g c) = .ok l → s.check (s.whoS true) .write (s.g e) = .ok m →
      Completes (.collx k c e f 0) s (fun t => t.StandsAt (s.pc + 4) ∧ s.ArrivedFabric k (s.g a) x j p
        { arrived y (fbCount (p.fabricBar (s.g a)).entry) (wmax y.ts s.pts) true with
          collx := y.collx ++ [⟨s.agent, s.g c, s.g e, rd, s.tokRef k, s.pts, x.launch, s.cur.floor, s.cur.gangRank.toNat, s.pc⟩] }
        false true t))

/-- PHASE (R274). -/
def PhaseArrivalHold : Prop :=
  ∀ (s : State) (k : BitVec 6) (a b : BitVec 5) (x : Binding) (g : Gang), s.AReady k → s.memPending = false → s.SysQuiet →
    (s.g a).toNat % 128 = 0 → (s.g b).toNat ≤ 15 → s.cur.binding = some x → Cells.find? s.gangs x.gang = some g →
    s.sharesPod x.gang g = false → g.round = none → g.members.length ≠ 1 →
    Completes (.phase k a b 0) s (fun t => s.AFrame k .pending t ∧
      Cells.find? t.gangs x.gang = some { g with round := some (Round.mk (s.g a) (s.g b).toNat [x.rank] (wmax 0 s.pts) [s.tokRef k] false) })

end Sys2Proof.Machine

/-- BAR, BARA, BARAX, COLLX and PHASE arrive once (R200, R201, R202, R207, R203, R204, R295, R274). -/
def Obligations.BarrierAndPhaseArrivals : Prop := BarrierArrivalsHold ∧ PhaseArrivalHold

namespace Sys2Proof.Machine

/-- S goes on after a wait with a timestamp: PTS, SYNC_FLOOR, kout. -/
def State.WaitOver (s : State) (k : BitVec 6) (ts : Word) (t : State) : Prop :=
  (∀ n, n ≠ s.agent → t.core n = s.core n) ∧ s.SameG t ∧ s.SameP t ∧ (∀ l, t.byteAt l = s.byteAt l) ∧ t.StandsAt (s.pc + 4) ∧
  s.TokenSet k (.done ts) t ∧ t.cur.pts = wmax s.cur.pts ts ∧ t.cur.floor = t.cur.pts

/-- The places of the two slots of a member of COLLX, in the scratch window, with no error and no checked window there (R207). -/
def State.CollxPlaces (s : State) (m : Collx) (src dst : Loc) : Prop :=
  scratchBase ≤ m.src.toNat ∧ m.src.toNat < 2 ^ 56 ∧ scratchBase ≤ m.dst.toNat ∧ m.dst.toNat < 2 ^ 56 - 128 ∧
  (s.core m.core).raceMode = 0 ∧ s.check (s.collxWho m) .read m.src = .ok src ∧ s.check (s.collxWho m) .write m.dst = .ok dst ∧
  (m.read = true → s.check (s.collxWho m) .write (m.dst + 128) = .ok (dst.plus 128))

/-- The sum of the source slots of the members of a phase (R207). -/
def State.slotSum (s : State) (ms : List (Collx × Loc × Loc)) : Accum :=
  ms.foldl (fun q m => q.merge (slotOf (s.natAt m.2.1 128))) Accum.zero

/-- The byte belongs to what the completion writes for a member. -/
def InDst (m : Collx × Loc × Loc) (p : Loc) : Prop := ∃ j, j < (if m.1.read then 132 else 128) ∧ p.key = (m.2.2.plus j).key

end Sys2Proof.Machine

/-- The completion of a phase and the waits for it (R201, R202, R207). DESIGN CHOICE: an event whose conditions do not hold leaves the
state (log entry 5). -/
def Obligations.BarrierCompletion : Prop :=
  (∀ (s : State) (i n : Nat) (g : Gang) (b : Barrier), n < 64 → Cells.find? s.gangs i = some g → g.state ≠ .released → s.NoJoins →
    b = Cells.get Barrier.reset g.barriers n →
    (b.n ≠ 0 → b.n ≤ b.count → b.collx = [] → Completes (.barrierPhaseComplete i n) s (fun t =>
      (t.barrier ⟨i, n⟩).phase = b.phase + 1 ∧ (t.barrier ⟨i, n⟩).count = 0 ∧ (t.barrier ⟨i, n⟩).toks = [] ∧
      Cells.find? (t.barrier ⟨i, n⟩).times b.phase = some b.ts ∧ (∀ l, t.byteAt l = s.byteAt l) ∧
      ∀ y ∈ b.toks, y.k ≠ 63 → (s.core y.core).gen = y.gen → (t.core y.core).tok y.k = .done b.ts)) ∧
    (∀ ms, b.n ≠ 0 → b.n ≤ b.count → b.toks = [] → b.collx = ms.map (fun m => m.1) → (∀ m ∈ ms, s.CollxPlaces m.1 m.2.1 m.2.2) →
      ms.Pairwise (fun m o => ∀ p, InDst m p → ¬ InDst o p) → Completes (.barrierPhaseComplete i n) s (fun t =>
        (t.barrier ⟨i, n⟩).phase = b.phase + 1 ∧ (t.barrier ⟨i, n⟩).count = 0 ∧ (t.barrier ⟨i, n⟩).collx = [] ∧
        (∀ m ∈ ms, t.natAt m.2.2 128 = slotBytes (s.slotSum ms) ∧
          (m.1.read = true → t.natAt (m.2.2.plus 128) 4 = (s.slotSum ms).read % 2 ^ 32) ∧
          (m.1.tok.k ≠ 63 → (s.core m.1.tok.core).gen = m.1.tok.gen → ∃ u, (t.core m.1.tok.core).tok m.1.tok.k = .done u)) ∧
        ∀ p, (∀ m ∈ ms, ¬ InDst m p) → t.byteAt p = s.byteAt p)) ∧
    ((b.n = 0 ∨ b.count < b.n) → Completes (.barrierPhaseComplete i n) s (fun t => t = s))) ∧
  ∀ (s : State) (k : BitVec 6) (a : BitVec 5) (x : Binding) (g : Gang) (b : Barrier) (ph : Nat), s.InUser → s.Plain → s.NoJoins →
    s.cur.binding = some x → Cells.find? s.gangs x.gang = some g → (s.g a).toNat < 2 ^ 22 →
    b = Cells.get Barrier.reset g.barriers ((s.g a).toNat / 65536) →
    (∀ d, s.ctx.stat = .waiting (.barrier d ph) →
      (ph < b.phase → Completes (.bar k a 0) s (s.WaitOver k (Cells.get 0 b.times ph)) ∧
        Completes (.barw k a 0) s (s.WaitOver k (Cells.get 0 b.times ph))) ∧
      (b.phase ≤ ph → Completes (.bar k a 0) s (fun t =>
        s.OnlyCtx t ∧ t.pc = s.pc ∧ t.ctx.stat = .waiting (.barrier ((s.g a).setWidth 23) ph)))) ∧
    ((∀ d p, s.ctx.stat ≠ .waiting (.barrier d p)) → s.cur.tok k ≠ .pending →
      (Cells.find? g.arrivals (arrivalKey s.cur.gangRank.toNat (s.g a)) = some ph →
        (ph < b.phase → Completes (.barw k a 0) s (s.WaitOver k (Cells.get 0 b.times ph))) ∧
        (b.phase ≤ ph → b.isCollx ≠ some true → Completes (.barw k a 0) s (fun t =>
          t.pc = s.pc ∧ s.SameG t ∧ s.TokenSet k .pending t ∧ t.ctx.stat = .waiting (.barrier ((s.g a).setWidth 23) ph)))) ∧
      (Cells.find? g.arrivals (arrivalKey s.cur.gangRank.toNat (s.g a)) = none →
        Completes (.barw k a 0) s (s.TrappedIllegal (wordOf (.barw k a 0)))))

namespace Sys2Proof.Machine

/-- SIGS and SIGW (R205). DEDUCED: SIGW raises the rts of the signal (log entry 86). -/
def SignalWordsHold : Prop :=
  ∀ (s : State) (k : BitVec 6) (a b : BitVec 5) (n : Nat) (p : Part) (v : Signal), s.InUser → s.Plain → s.NoJoins → (s.g a).toNat < 4096 →
    s.partOf s.agent = some n → Cells.find? s.parts n = some p → v = Cells.get Signal.reset p.signals (s.g a).toNat →
    (s.cur.tok k ≠ .pending → s.memPending = false → Completes (.sigs k a b 0) s (fun t =>
      s.SameG t ∧ s.SameP t ∧ t.StandsAt (s.pc + 4) ∧ (∀ l, t.byteAt l = s.byteAt l) ∧
      t.signal n (s.g a).toNat = ⟨s.g b, wmax s.pts (v.rts + 1), wmax s.pts (v.rts + 1)⟩ ∧
      t.cur.pts = wmax s.cur.pts (v.rts + 1) ∧ s.TokenSet k (.done (wmax s.pts (v.rts + 1))) t)) ∧
    ((∀ i th m, s.ctx.stat ≠ .waiting (.signal i th m)) → s.cur.tok k ≠ .pending →
      ((s.g b).toNat ≤ v.val.toNat → Completes (.sigw k a b 0) s (fun t => s.WaitOver k v.wts t ∧
        t.signal n (s.g a).toNat = { v with rts := wmax v.rts t.cur.pts })) ∧
      (v.val.toNat < (s.g b).toNat → Completes (.sigw k a b 0) s (fun t =>
        s.SameG t ∧ t.pc = s.pc ∧ t.ctx.stat = .waiting (.signal (s.g a) (s.g b) none) ∧ s.TokenSet k .pending t))) ∧
    (∀ i th w, s.ctx.stat = .waiting (.signal i th (some w)) → Completes (.sigw k a b 0) s (s.WaitOver k w))

/-- What a word that reads a record and hands it over leaves. -/
def State.HandsOver (s : State) (k : BitVec 6) (t : State) : Prop :=
  (∀ n, n ≠ s.agent → t.core n = s.core n) ∧ s.SameG t ∧ s.SameP t ∧ t.StandsAt (s.pc + 4) ∧ s.SameBytes t ∧
  s.TokenSet k .pending t

/-- The six words of 8 bytes at the places of an argument record, where no copy of its line is held (R318). -/
def State.ArgumentWords (s : State) (ps : List (Loc × Nat × Nat)) (vals : List Word) : Prop :=
  vals.length = 6 ∧ ((∀ y ∈ ps, s.NoRecord y.1 y.2.2 ∧ ∀ k, s.copyOf y.1 k = none) →
    vals = (List.range 6).map fun i => BitVec.ofNat 64 (s.valueOf ps / 256 ^ (8 * i)))

/-- RCALL, RQRY, LNCH and GLNCH (R318, R323, R230, R303). -/
def CallsAndLaunchesHold : Prop :=
  ∀ (s : State) (k : BitVec 6) (a b c : BitVec 5), s.AReady k → s.cur.raceMode = 0 → s.cur.surrogate = false → s.memPending = false → s.SysQuiet →
    (∀ ps, (s.g a).toNat % 128 = 0 → (s.g b).toNat % 64 = 0 → (s.g c).toNat ≤ 31 →
      s.checkAll (s.whoS false) .read [((s.g b).toNat, 32), ((s.g b).toNat + 32, 16)] = .ok ps →
      Completes (.rcall k a b c 0) s (fun t => s.HandsOver k t ∧ ∃ o vals, Cells.find? t.ops s.nextId = some o ∧
        o.kind = .call (s.g a) (s.g c) (s.g b) false vals ∧ s.ArgumentWords ps vals ∧ o.tok = s.tokRef k) ∧
      Completes (.rqry k a b c 0) s (fun t => s.HandsOver k t ∧ ∃ o vals, Cells.find? t.ops s.nextId = some o ∧
        o.kind = .call (s.g a) (s.g c) (s.g b) true vals ∧ s.ArgumentWords ps vals ∧ o.tok = s.tokRef k)) ∧
    (∀ x l ps, (s.g a).toNat % 128 = 0 → s.cur.binding = some x → Cells.find? s.launches x.launch = some l →
      (∀ q, s.unstartedIn l.part q < 256) → (∀ r q v, s.ctx.stat ≠ .waiting (.launchQueue r q v)) →
      s.checkAll (s.whoS false) .read ((List.range 4).map fun i => ((s.g a).toNat + 32 * i, 32)) = .ok ps →
      Completes (.lnch k a 0) s (fun t => s.HandsOver k t ∧ ∃ y, t.subs = s.subs ++ [y] ∧ y.part = l.part ∧ y.tok = s.tokRef k ∧
        y.kinds = [0, 2] ∧ y.ts = t.pts ∧ y.parent = if k = 63 then none else some x.launch) ∧
      Completes (.glnch k a 0) s (fun t => s.HandsOver k t ∧ ∃ y, t.subs = s.subs ++ [y] ∧ y.part = l.part ∧ y.tok = s.tokRef k ∧
        y.kinds = [1] ∧ y.ts = t.pts ∧ y.parent = if k = 63 then none else some x.launch))

end Sys2Proof.Machine

/-- SIGS, SIGW, RCALL, RQRY, LNCH and GLNCH (R205, R206, R318, R323, R230, R303, R408). -/
def Obligations.SignalsCallsAndLaunches : Prop := SignalWordsHold ∧ CallsAndLaunchesHold

namespace Sys2Proof.Machine

/-- The SYNC word of an engine. -/
def syncOf (e : Eng) (pip : BitVec 4) : Instr :=
  match e with
  | .l => .syncL pip
  | .c => .syncC pip
  | .t => .syncT pip

/-- Left-in, right-in, left-out and right-out of an engine (Table 01.4). -/
def pipChannels (e : Eng) : Nat × Nat × Nat × Nat :=
  match e with
  | .l => (0, 3, 1, 2)
  | .c => (2, 5, 3, 4)
  | .t => (4, 7, 5, 6)

/-- The pips of an engine word (R13), on SYNC. -/
def EnginePipsHold : Prop :=
  ∀ (s : State) (e : Eng) (pip : BitVec 4) (li ri lo ro : Nat), pipChannels e = (li, ri, lo, ro) →
    (s.EngReady e pip → Completes (syncOf e pip) s (fun t => s.OnlyCore t ∧
      t.cur = { s.cur.setEng e (t.cur.eng e) with pips := t.cur.pips } ∧
      t.cur.eng e = Engine.finish { s.cur.eng e with pts := (t.cur.eng e).pts } ∧
      (t.cur.eng e).pts =
        wmax (wmax (s.cur.eng e).pts (if pip.getLsbD 3 then (s.cur.pip li).headD 0 else 0))
          (if pip.getLsbD 2 then (s.cur.pip ri).headD 0 else 0) ∧
      ∀ j, t.cur.pip j =
        if (j = li ∧ pip.getLsbD 3 = true) ∨ (j = ri ∧ pip.getLsbD 2 = true) then (s.cur.pip j).tail
        else if (j = lo ∧ pip.getLsbD 1 = true) ∨ (j = ro ∧ pip.getLsbD 0 = true) then s.cur.pip j ++ [(t.cur.eng e).pts]
        else s.cur.pip j)) ∧
    ((s.cur.eng e).pushes = [] → (s.cur.eng e).popped = false → (s.cur.eng e).half = false → pip.getLsbD 3 = true →
      (s.cur.pip li = [] → Completes (syncOf e pip) s (fun t => s.OnlyCore t ∧
        t.cur = s.cur.setEng e { s.cur.eng e with stat := .waiting (.pipPop li) })) ∧
      (s.cur.pip li ≠ [] → pip.getLsbD 2 = true → s.cur.pip ri = [] → Completes (syncOf e pip) s (fun t => s.OnlyCore t ∧
        t.cur = (s.cur.popPip li).updEng e fun x =>
          { x with pts := wmax x.pts ((s.cur.pip li).headD 0), half := true, stat := .waiting (.pipPop ri) })))

/-- AINC, AADD and AMOV of an engine. -/
def addressWords (e : Eng) (d a b : BitVec 4) (i : BitVec 10) (pip : BitVec 4) : Instr × Instr × Instr :=
  match e with
  | .l => (.aincL d a i pip, .aaddL d a b pip, .amovL d a pip)
  | .c => (.aincC d a i pip, .aaddC d a b pip, .amovC d a pip)
  | .t => (.aincT d a i pip, .aaddT d a b pip, .amovT d a pip)

/-- AINC, AADD and AMOV (R112). -/
def AddressRegisterWordsHold : Prop :=
  ∀ (s : State) (e : Eng) (d a b : BitVec 4) (i : BitVec 10) (pip : BitVec 4) (v : Word), s.EngReady e pip →
    ((∀ p at_, (s.cur.eng e).pfx ≠ .ext p at_) ∧ v = i.signExtend 64 ∨
      ∃ p at_, (s.cur.eng e).pfx = .ext p at_ ∧ v = (p ++ i).signExtend 64) →
    Completes (addressWords e d a b i pip).1 s
      (s.EngineDone e pip fun c => c.updEng e fun x => x.setA d ((s.cur.eng e).getA a + 64 * v)) ∧
    Completes (addressWords e d a b i pip).2.1 s
      (s.EngineDone e pip fun c => c.updEng e fun x => x.setA d ((s.cur.eng e).getA a + (s.cur.eng e).getA b)) ∧
    Completes (addressWords e d a b i pip).2.2 s
      (s.EngineDone e pip fun c => c.updEng e fun x => x.setA d ((s.cur.eng e).getA a))

end Sys2Proof.Machine

/-- SYNC moves the pips of its engine; AINC, AADD and AMOV write one address register (R12, R13, R112, R59). -/
def Obligations.EnginePipsAndAddresses : Prop := EnginePipsHold ∧ AddressRegisterWordsHold

/-- LOOPE and the end of a body (R9, R10). -/
def Obligations.EngineLoops : Prop :=
  ∀ (s : State) (k : BitVec 2) (e : Eng) (len : BitVec 8) (cnt : BitVec 13) (n : Nat), k ≠ 3 → e = engOfNum k → len ≠ 0 →
    ((s.cur.eng e).outer = none → (s.cur.eng e).inner = none →
      n = (if cnt = 0 then (s.cur.eng e).lc0.toNat else cnt.toNat) →
      (n ≠ 0 → Completes (.loope k len cnt) s (fun t => s.OnlyCore t ∧ t.cur = s.cur.setEng e
        { s.cur.eng e with queue := (s.cur.eng e).queue.tail, lc0 := BitVec.ofNat 32 n, outer := some ⟨n, 0, 0, len.toNat⟩,
                           loopMem := [], latched := [], lp := 0, stat := .ready })) ∧
      (n = 0 → Completes (.loope k len cnt) s (fun t => s.OnlyCore t ∧ t.cur = s.cur.setEng e
        { s.cur.eng e with queue := (s.cur.eng e).queue.tail, lc0 := 0, skip := len.toNat, stat := .ready }))) ∧
    (∀ o, (s.cur.eng e).outer = some o → (s.cur.eng e).inner = none →
      n = ((Cells.find? (s.cur.eng e).latched (s.cur.eng e).lp).getD (if cnt = 0 then (s.cur.eng e).lc1.toNat else cnt.toNat)) →
      n ≠ 0 → Completes (.loope k len cnt) s (fun t => s.OnlyCore t ∧ t.cur = s.cur.setEng e
        { (s.cur.eng e).take with
          latched := Cells.put (s.cur.eng e).latched (s.cur.eng e).lp n, lc1 := BitVec.ofNat 32 n,
          inner := some ⟨n, 0, (s.cur.eng e).lp + 1, len.toNat⟩, stat := .ready })) ∧
    (∀ m i l, (s.cur.eng e).outer = some ⟨m, i, 0, l⟩ → (s.cur.eng e).inner = none → (s.cur.eng e).loopMem.length = l →
      (s.cur.eng e).lp + 1 = l → s.EngReady e 0 →
      (i + 1 < m → Completes (syncOf e 0) s (fun t => (t.cur.eng e).outer = some ⟨m, i + 1, 0, l⟩ ∧ (t.cur.eng e).lp = 0 ∧
        (t.cur.eng e).lc0 = BitVec.ofNat 32 (m - (i + 1)) ∧ (t.cur.eng e).loopMem = (s.cur.eng e).loopMem ∧
        (t.cur.eng e).queue = (s.cur.eng e).queue)) ∧
      (m ≤ i + 1 → Completes (syncOf e 0) s (fun t => (t.cur.eng e).outer = none ∧ (t.cur.eng e).lc0 = 0 ∧
        (t.cur.eng e).loopMem = [] ∧ (t.cur.eng e).queue = (s.cur.eng e).queue)))

namespace Sys2Proof.Machine

/-- LS with pieces of memory written in turn. -/
def State.lsAfter (s : State) : List (Piece × Loc) → Memory → Memory
  | [], m => m
  | (p, l) :: r, m => s.lsAfter r (lsWriteNat m p.ls p.n (s.natAt l p.n))

/-- L has filled LS with `m`: no byte of memory and no other core has changed. -/
def State.Filled (s : State) (pip : BitVec 4) (m : Memory) (t : State) : Prop :=
  (∀ n, n ≠ s.agent → t.core n = s.core n) ∧ s.SameBytes t ∧
  ∃ p x, t.cur = s.cur.after .l pip fun c => { c.updEng .l fun x => { x with pts := p } with ls := m, tlb := x }

/-- The bytes of granules are of none of the shadow records that the shared cache holds. -/
def State.NoRecords (s : State) (oks : List (Loc × Nat × Nat)) : Prop := ∀ o ∈ oks, s.NoRecord o.1 o.2.2

/-- LDL, LDS and LDG (R105, R106). DESIGN CHOICE: TRAPADDR past the scratch window (log entry 103). DEDUCED: the granules of a tile (log
entry 137). -/
def EngineLoadsHold : Prop :=
  ∀ (s s0 : State) (a b : BitVec 4) (h : BitVec 3) (l : BitVec 7) (pip : BitVec 4) (oks : List (Loc × Nat × Nat)), s.EngReady .l pip →
    s0 = popPips .l (popsOf .l pip) s → s.cur.surrogate = false → s.cur.raceMode = 0 → s.cur.l.offset = 0 →
    (∀ ps, ps = blockPieces (s.cur.l.getA a) (64 * units l) (lsAddr (s.cur.l.getA b)) →
      s0.plan (s0.whoE .l false) .read (ps.map fun p => (p.va, p.n)) = (oks, none) →
      Completes (.ldl a b h l pip) s (fun t => ∃ m, s.Filled pip m t ∧
        (h.getLsbD 2 = true → s.NoRecords oks → m = s.lsAfter (ps.zip (oks.map fun o => o.1)) s.cur.ls))) ∧
    (∀ ps, ps = scratchPieces (s.cur.l.getA a) (64 * units l) (lsAddr (s.cur.l.getA b)) →
      s0.plan (s0.whoE .l false) .read (ps.map fun p => (p.va, p.n)) = (oks, none) →
      (scratchTail (s.cur.l.getA a) (64 * units l) = none → Completes (.lds a b h l pip) s (fun t => ∃ m, s.Filled pip m t ∧
        (h.getLsbD 2 = true → s.NoRecords oks → m = s.lsAfter (ps.zip (oks.map fun o => o.1)) s.cur.ls))) ∧
      (∀ f, scratchTail (s.cur.l.getA a) (64 * units l) = some f → Completes (.lds a b h l pip) s (s.EngineTraps .l f))) ∧
    (∀ s1 y ps, engTile .l h a l s0 = .ok (s1, y) → ps = tilePieces y (lsAddr (s.cur.l.getA b)) (List.range y.count) →
      s1.plan (s1.whoE .l false) .read (ps.map fun p => (p.va, p.n)) = (oks, none) →
      Completes (.ldg a b h l pip) s (fun t => ∃ m, s.Filled pip m t ∧
        (h.getLsbD 2 = true → s.NoRecords oks → m = s.lsAfter (ps.zip (oks.map fun o => o.1)) s.cur.ls)))

/-- LDQ, LDF and LPF (R107, R108). -/
def QueueFillsHold : Prop :=
  ∀ (s s0 : State) (a b : BitVec 4) (h : BitVec 3) (l : BitVec 7) (pip : BitVec 4), s.EngReady .l pip →
    s0 = popPips .l (popsOf .l pip) s → s.cur.raceMode = 0 →
    (s.cur.vec.scaleQ.length + 2 * l.toNat ≤ 64 → ∀ s1 v, engRecord .l h (s.cur.l.getA a) (2 * l.toNat) s0 = .ok (s1, v) →
      Completes (.ldq a h l pip) s (fun t => t.cur.vec.scaleQ = s.cur.vec.scaleQ ++ bytesOf (2 * l.toNat) v ∧
        t.cur.vec = { s.cur.vec with scaleQ := t.cur.vec.scaleQ } ∧ s.SameBytes t ∧
        ∀ n, n ≠ s.agent → t.core n = s.core n)) ∧
    (64 < s.cur.vec.scaleQ.length + 2 * l.toNat → Completes (.ldq a h l pip) s (s.EngineWaits .l pip .scaleQueue)) ∧
    (s.cur.vec.fifo.length + 128 ≤ 65536 → s.cur.l.offset = 0 →
      ∀ s1, ldfSlot h (s.cur.l.getA a).toNat (s.cur.l.getA b).toNat s0 = .ok s1 →
        Completes (.ldf a b h l pip) s (fun t => (∃ bs va, t.cur.vec.fifo = s.cur.vec.fifo ++ bs ∧
            t.cur.vec.slots = s.cur.vec.slots ++ [(va, (s.cur.l.getA b).toNat)]) ∧
          t.cur.vec.fifo = s1.cur.vec.fifo ∧ s.SameBytes t ∧ ∀ n, n ≠ s.agent → t.core n = s.core n)) ∧
    (65536 < s.cur.vec.fifo.length + 128 → Completes (.ldf a b h l pip) s (s.EngineWaits .l pip .fifo)) ∧
    Completes (.lpf a h l pip) s (fun t => t.cur = s.cur.after .l pip (fun c => { c with tlb := t.cur.tlb }) ∧ (∀ p, t.byteAt p = s.byteAt p) ∧
      (∀ n, n ≠ s.agent → t.core n = s.core n) ∧ s.nextId ≤ t.nextId ∧
      ∀ j r, Cells.find? t.reqs j = some r → Cells.find? s.reqs j = some r ∨
        (r.core = s.agent ∧ r.e = .l ∧ ∃ cls fill, r.kind = .line cls fill))

end Sys2Proof.Machine

/-- LDL, LDS, LDG, LDQ, LDF and LPF fill what they name and change no byte of memory (R104, R105, R106, R289, R107, R108, R197). -/
def Obligations.EngineLoadsAndFills : Prop := EngineLoadsHold ∧ QueueFillsHold

namespace Sys2Proof.Machine

/-- Pieces written to memory in turn. -/
def State.withPieces (s : State) : List (Loc × Nat × Nat) → List Nat → State
  | x :: r, v :: vs => (s.putNat x.1 x.2.2 v).withPieces r vs
  | _, _ => s

/-- T has written pieces of memory; of the core only what `f` does, the PTS of T, its queue and its pips have changed. -/
def State.Drained (s : State) (pip : BitVec 4) (oks : List (Loc × Nat × Nat)) (vs : List Nat) (f : Core → Core) (t : State) : Prop :=
  (∀ n, n ≠ s.agent → t.core n = s.core n) ∧ (∀ l, ¬ s.InRecords l → t.byteAt l = (s.withPieces oks vs).byteAt l) ∧
  (∀ l, ¬ s.InRecords l → (∀ p ∈ oks, ∀ j, j < p.2.2 → l.key ≠ (p.1.plus j).key) → t.byteAt l = s.byteAt l) ∧
  ∃ p x, t.cur = s.cur.after .t pip fun c => f { c.updEng .t fun x => { x with pts := p } with tlb := x }

end Sys2Proof.Machine

/-- SSL, SSS, SSC and SFLG (R105, R109 to R111). DESIGN CHOICE: TRAPADDR past the scratch window (log entry 103). DEDUCED: the granules
of a tile (log entry 137). -/
def Obligations.EngineStores : Prop :=
  ∀ (s s0 : State) (a b d : BitVec 4) (h : BitVec 3) (l : BitVec 7) (g : BitVec 1) (pip : BitVec 4) (oks : List (Loc × Nat × Nat)),
    s.EngReady .t pip → s0 = popPips .t (popsOf .t pip) s → s.cur.surrogate = false → s.cur.raceMode = 0 → s.cur.t.offset = 0 →
    (oks.all fun o => !o.1.isSystem) = true →
    ((g = 0 ∨ s.cur.tileClean = true) →
      (∀ ps, ps = blockPieces (s.cur.t.getA a) (64 * units l) (lsAddr (s.cur.t.getA b)) →
        s0.plan (s0.whoE .t false) .write (ps.map fun p => (p.va, p.n)) = (oks, none) →
        Completes (.ssl a b h l g pip) s (s.Drained pip oks (ps.map fun p => s.cur.lsNat p.ls p.n) id)) ∧
      (∀ ps, ps = scratchPieces (s.cur.t.getA a) (64 * units l) (lsAddr (s.cur.t.getA b)) →
        s0.plan (s0.whoE .t false) .write (ps.map fun p => (p.va, p.n)) = (oks, none) →
        (scratchTail (s.cur.t.getA a) (64 * units l) = none →
          Completes (.sss a b h l g pip) s (s.Drained pip oks (ps.map fun p => s.cur.lsNat p.ls p.n) id)) ∧
        (∀ f, scratchTail (s.cur.t.getA a) (64 * units l) = some f → Completes (.sss a b h l g pip) s (s.EngineTraps .t f))) ∧
      (∀ s1 y ps, engTile .t h a l s0 = .ok (s1, y) →
        ps = tilePieces y (lsAddr (s.cur.t.getA b)) ((List.range y.count).filter y.genuine) →
        s1.plan (s1.whoE .t false) .write (ps.map fun p => (p.va, p.n)) = (oks, none) →
        Completes (.ssc a b h l g pip) s (s.Drained pip oks (ps.map fun p => s.cur.lsNat p.ls p.n) id))) ∧
    (g = 1 → s.cur.tileClean = false → ∀ i ∈ [Instr.ssl a b h l g pip, .sss a b h l g pip, .ssc a b h l g pip],
      Completes i s (s.EngineDone .t pip id)) ∧
    Completes (.sflgSet pip) s (s.EngineDone .t pip fun c => { c with tileClean := true }) ∧
    ((s.cur.t.getA d).toNat % 8 = 0 → s.tPending = true →
      Completes (.sflgSt d a pip) s (s.EngineWaits .t pip .other) ∧ Completes (.sflgStf d pip) s (s.EngineWaits .t pip .other)) ∧
    ((s.cur.t.getA d).toNat % 8 ≠ 0 →
      Completes (.sflgSt d a pip) s (s.EngineTraps .t ⟨0x03, s.cur.t.getA d, 0⟩) ∧
      Completes (.sflgStf d pip) s (s.EngineTraps .t ⟨0x03, s.cur.t.getA d, 0⟩)) ∧
    ((s.cur.t.getA d).toNat % 8 = 0 → s.tPending = false →
      s0.plan (s0.whoE .t true) .write [((s.cur.t.getA d).toNat, 8)] = (oks, none) →
      Completes (.sflgSt d a pip) s (s.Drained pip oks [(s.cur.t.getA a).toNat] id) ∧
      Completes (.sflgStf d pip) s (s.Drained pip oks [if s.cur.tileClean then 1 else 0] fun c => { c with tileClean := true }))

namespace Sys2Proof.Machine

/-- The integer words of two sources (R126). -/
def integerWords (d a b : BitVec 4) (m : BitVec 1) (pip : BitVec 4) : List (Instr × (Lane → Lane → Lane)) :=
  [(.vadd d a b m pip, fun x y => x + y), (.vsub d a b m pip, fun x y => x - y), (.vmul d a b m pip, fun x y => x * y),
   (.vmin d a b m pip, fun x y => if y.toInt < x.toInt then y else x), (.vmax d a b m pip, fun x y => if x.toInt < y.toInt then y else x),
   (.vand d a b m pip, fun x y => x &&& y), (.vor d a b m pip, fun x y => x ||| y), (.vxor d a b m pip, fun x y => x ^^^ y),
   (.vsll d a b m pip, fun x y => x <<< (y.toNat % 32)), (.vsrl d a b m pip, fun x y => x >>> (y.toNat % 32)),
   (.vsra d a b m pip, fun x y => x.sshiftRight (y.toNat % 32)),
   (.vminz d a b m pip, fun x y => if y.toNat < x.toNat then y else x), (.vmaxz d a b m pip, fun x y => if x.toNat < y.toNat then y else x),
   (.vabs d a m pip, fun x _ => if x.toInt < 0 then 0 - x else x)]

/-- The integer lane words (R126). -/
def VectorIntegerWordsHold : Prop :=
  ∀ (s : State) (d a b : BitVec 4) (m : BitVec 1) (pip : BitVec 4), s.EngReady .c pip → ∀ x ∈ integerWords d a b m pip,
    Completes x.1 s (s.LaneResult pip d (s.lanes m) fun i => x.2 (s.cur.vec.lane a i) (s.cur.vec.lane b i))

/-- The floating words of two sources (R127). -/
def floatWords (d a b : BitVec 4) (t : BitVec 2) (m : BitVec 1) (pip : BitVec 4) : List (Instr × (Num → Num → Num)) :=
  [(.vfadd d a b t m pip, Sys2Proof.Machine.Num.add), (.vfsub d a b t m pip, Sys2Proof.Machine.Num.sub), (.vfmul d a b t m pip, Sys2Proof.Machine.Num.mul),
   (.vfmin d a b t m pip, Sys2Proof.Machine.Num.minimum), (.vfmax d a b t m pip, Sys2Proof.Machine.Num.maximum), (.vfdiv d a b t m pip, Sys2Proof.Machine.Num.div),
   (.vfabs d a t m pip, fun x _ => x.abs), (.vfneg d a t m pip, fun x _ => x.negate), (.vfsqrt d a t m pip, fun x _ => x.sqrt),
   (.vfrsq d a t m pip, fun x _ => x.rsqrt)]

/-- The format of a 2-bit field: S, H, B (R127). -/
def formatOf (t : BitVec 2) : FFmt := if t = 0 then fp32 else if t = 1 then fp16 else bf16

/-- The value of a lane in a format: its low bits (R29). -/
def valueIn (f : FFmt) (x : Lane) : Num := f.decode (x.toNat % 2 ^ (f.expBits + f.fracBits + 1))

/-- The floating lane words (R127). -/
def VectorFloatWordsHold : Prop :=
  ∀ (s : State) (d a b : BitVec 4) (t : BitVec 2) (m : BitVec 1) (pip : BitVec 4), s.EngReady .c pip →
    (∀ x ∈ floatWords d a b t m pip, Completes x.1 s (s.LaneResult pip d (s.lanes m) fun i =>
      BitVec.ofNat 32 ((formatOf t).round false
        (x.2 (valueIn (formatOf t) (s.cur.vec.lane a i)) (valueIn (formatOf t) (s.cur.vec.lane b i)))))) ∧
    Completes (.vfma d a b t m pip) s (s.LaneResult pip d (s.lanes m) fun i =>
      BitVec.ofNat 32 ((formatOf t).round false (Sys2Proof.Machine.Num.add (valueIn (formatOf t) (s.cur.vec.lane d i))
        (Sys2Proof.Machine.Num.mul (valueIn (formatOf t) (s.cur.vec.lane a i)) (valueIn (formatOf t) (s.cur.vec.lane b i))))))

end Sys2Proof.Machine

/-- The integer and floating lane words write the active lanes of vd and nothing else (R123, R124, R126, R127, R29, R30, R31). -/
def Obligations.VectorArithmetic : Prop := VectorIntegerWordsHold ∧ VectorFloatWordsHold

namespace Sys2Proof.Machine

/-- The comparisons with their functions on integers and on numbers (R128). -/
def compareWords (d : BitVec 3) (a b : BitVec 4) (t : BitVec 2) (m : BitVec 1) (pip : BitVec 4) :
    List (Instr × (Int → Int → Bool) × (Num → Num → Bool)) :=
  [(.vcmpEq d a b t m pip, fun x y => decide (x = y), Sys2Proof.Machine.Num.eq), (.vcmpNe d a b t m pip, fun x y => decide (x ≠ y), fun x y => !x.eq y),
   (.vcmpLt d a b t m pip, fun x y => decide (x < y), Sys2Proof.Machine.Num.lt), (.vcmpLe d a b t m pip, fun x y => decide (x ≤ y), fun x y => x.lt y || x.eq y),
   (.vcmpUn d a b t m pip, fun _ _ => false, fun x y => x.isNaN || y.isNaN)]

/-- VCMP and the mask words (R128, R133). -/
def MaskWordsHold : Prop :=
  ∀ (s : State) (d x y : BitVec 3) (v a b : BitVec 4) (t : BitVec 2) (m : BitVec 1) (pip : BitVec 4) (n : Nat), s.EngReady .c pip →
    (∀ w ∈ compareWords d a b t m pip, Completes w.1 s (s.MaskResult pip d fun i => (s.lanes m).getLsbD i &&
      (if t = 0 then w.2.1 (s.cur.vec.lane a i).toInt (s.cur.vec.lane b i).toInt
       else w.2.2 (valueIn (formatOf (t - 1)) (s.cur.vec.lane a i)) (valueIn (formatOf (t - 1)) (s.cur.vec.lane b i))))) ∧
    Completes (.mand d x y pip) s (s.MaskResult pip d fun i => (s.cur.vec.mask x.toNat).getLsbD i && (s.cur.vec.mask y.toNat).getLsbD i) ∧
    Completes (.mor d x y pip) s (s.MaskResult pip d fun i => (s.cur.vec.mask x.toNat).getLsbD i || (s.cur.vec.mask y.toNat).getLsbD i) ∧
    Completes (.mxor d x y pip) s (s.MaskResult pip d fun i => (s.cur.vec.mask x.toNat).getLsbD i != (s.cur.vec.mask y.toNat).getLsbD i) ∧
    Completes (.mnot d x pip) s (s.MaskResult pip d fun i => !(s.cur.vec.mask x.toNat).getLsbD i) ∧
    Completes (.mpop v x pip) s (s.LaneResult pip v (BitVec.allOnes 64) fun i =>
      if i = 0 then BitVec.ofNat 32 ((List.range 64).filter fun j => (s.cur.vec.mask x.toNat).getLsbD j).length else 0) ∧
    ((∀ j, j < n → (s.cur.vec.mask x.toNat).getLsbD j = false) → ((n < 64 ∧ (s.cur.vec.mask x.toNat).getLsbD n = true) ∨ n = 64) →
      Completes (.mfirst v x pip) s (s.LaneResult pip v (BitVec.allOnes 64) fun i => if i = 0 then BitVec.ofNat 32 n else 0))

/-- The values of a reduction, with a constant for a lane that is masked off. -/
def State.reduced (s : State) (a : BitVec 4) (m : BitVec 1) (f : FFmt) (off : Num) : List Num :=
  (List.range 64).map fun i => if (s.lanes m).getLsbD i then valueIn f (s.cur.vec.lane a i) else off

/-- The reductions and GCHK (R134, R150). -/
def ReductionsHold : Prop :=
  ∀ (s : State) (d a : BitVec 4) (t : BitVec 2) (m : BitVec 1) (pip : BitVec 4), s.EngReady .c pip →
    Completes (.vriadd d a m pip) s (s.LaneResult pip d (BitVec.allOnes 64) fun i => if i = 0 then
      BitVec.ofNat 32 (((List.range 64).map fun j => if (s.lanes m).getLsbD j then (s.cur.vec.lane a j).toNat else 0).sum) else 0) ∧
    Completes (.vrsum d a t m pip) s (s.LaneResult pip d (BitVec.allOnes 64) fun i => if i = 0 then
      BitVec.ofNat 32 ((formatOf t).round false (treeSum (formatOf t) 6 (s.reduced a m (formatOf t) (.fin true 0 0)))) else 0) ∧
    Completes (.vrmax d a t m pip) s (s.LaneResult pip d (BitVec.allOnes 64) fun i => if i = 0 then
      BitVec.ofNat 32 ((formatOf t).round false ((s.reduced a m (formatOf t) (.inf true)).foldl Sys2Proof.Machine.Num.maximum (.inf true))) else 0) ∧
    Completes (.vrmin d a t m pip) s (s.LaneResult pip d (BitVec.allOnes 64) fun i => if i = 0 then
      BitVec.ofNat 32 ((formatOf t).round false ((s.reduced a m (formatOf t) (.inf false)).foldl Sys2Proof.Machine.Num.minimum (.inf false))) else 0) ∧
    Completes (.gchk a m pip) s (s.EngineDone .c pip fun c => { c with vec := { c.vec with
      gres := (((List.range 64).filter fun i => (s.lanes m).getLsbD i).foldl (fun g i => foldGuard g (s.cur.vec.lane a i))
        (s.cur.vec.gres.setWidth 32)).setWidth 64 } })

end Sys2Proof.Machine

/-- The words that make and combine mask registers, and the reductions, write their one destination (R128, R133, R53, R134, R150). -/
def Obligations.MaskAndReductionWords : Prop := MaskWordsHold ∧ ReductionsHold

namespace Sys2Proof.Machine

/-- LNS6 words of two sources (R130). -/
def lnsWords (d a b : BitVec 4) (m : BitVec 1) (pip : BitVec 4) : List (Instr × (Lns → Lns → Lns)) :=
  [(.lmul d a b m pip, Lns.mul), (.ldiv d a b m pip, Lns.div), (.ladd d a b m pip, Lns.add), (.lsub d a b m pip, Lns.sub),
   (.lneg d a m pip, fun x _ => x.negate)]

end Sys2Proof.Machine

/-- Moves, constants, conversions, LNS6 and VRAND (R129 to R132, R149). DESIGN CHOICE: VCVT from LNS6 to LNS6 (log entry 113). -/
def Obligations.MovesAndConversions : Prop :=
  ∀ (s : State) (d a b : BitVec 4) (x y : BitVec 3) (w : BitVec 6) (i10 : BitVec 10) (v : Word) (m : BitVec 1) (pip : BitVec 4),
    s.EngReady .c pip →
    Completes (.vmov d a m pip) s (s.LaneResult pip d (s.lanes m) fun i => s.cur.vec.lane a i) ∧
    Completes (.vsel d a b pip) s (s.LaneResult pip d (BitVec.allOnes 64) fun i =>
      if (s.cur.vec.mask s.cur.vec.msel.toNat).getLsbD i then s.cur.vec.lane a i else s.cur.vec.lane b i) ∧
    Completes (.vperm d a b m pip) s (s.LaneResult pip d (s.lanes m) fun i => s.cur.vec.lane a ((s.cur.vec.lane b i).toNat % 64)) ∧
    Completes (.vbcst d a m pip) s (s.LaneResult pip d (s.lanes m) fun _ => (s.cur.c.getA a).setWidth 32) ∧
    Completes (.viota d m pip) s (s.LaneResult pip d (s.lanes m) fun i => BitVec.ofNat 32 i) ∧
    (((∀ p at_, s.cur.c.pfx ≠ .ext p at_) ∧ v = i10.signExtend 64 ∨ ∃ p at_, s.cur.c.pfx = .ext p at_ ∧ v = (p ++ i10).signExtend 64) →
      Completes (.vsplat d i10 m pip) s (s.LaneResult pip d (s.lanes m) fun _ => v.setWidth 32)) ∧
    Completes (.vcvt d a x y m pip) s (s.LaneResult pip d (s.lanes m) fun i =>
      BitVec.ofNat 32 (convertElem x.toNat y.toNat false ((s.cur.vec.lane a i).toNat % 2 ^ elemBits x.toNat))) ∧
    (∀ z ∈ lnsWords d a b m pip, Completes z.1 s (s.LaneResult pip d (s.lanes m) fun i =>
      BitVec.ofNat 32 (z.2 (Lns.ofCode ((s.cur.vec.lane a i).toNat % 64)) (Lns.ofCode ((s.cur.vec.lane b i).toNat % 64))).code)) ∧
    Completes (.vrand d a b w m pip) s (s.LaneResult pip d (s.lanes m) fun i =>
      philox (s.cur.vec.key0.toNat % 2 ^ 32) (s.cur.vec.key1.toNat % 2 ^ 32) (s.cur.vec.lane a i).toNat (s.cur.vec.lane b i).toNat w.toNat)

namespace Sys2Proof.Machine

/-- The aligned LS address of a lane: bits [1:0] and [63:20] taken as 0 (R135). -/
def laneAddr (v : Nat) : Nat := v % 2 ^ 20 / 4 * 4

/-- C has stored the active lanes of `d` to LS at the addresses `f`. -/
def State.LanesStored (s : State) (pip d : BitVec 4) (m : BitVec 1) (f : Nat → Nat) (t : State) : Prop :=
  s.EngineDone .c pip (fun c => { c with ls := t.cur.ls }) t ∧
  (∀ i, i < 64 → (s.lanes m).getLsbD i = true → (∀ j, i < j → j < 64 → (s.lanes m).getLsbD j = true → f j ≠ f i) →
    t.cur.lsNat (f i) 4 = (s.cur.vec.lane d i).toNat) ∧
  ∀ o, o < 2 ^ 20 → (∀ i, i < 64 → (s.lanes m).getLsbD i = true → ¬ (f i ≤ o ∧ o < f i + 4)) → t.cur.lsRead o = s.cur.lsRead o

end Sys2Proof.Machine

/-- VLD, VLDX, VST and VSTX (R135, R136). -/
def Obligations.LocalStoreWords : Prop :=
  ∀ (s : State) (d a b : BitVec 4) (m : BitVec 1) (pip : BitVec 4), s.EngReady .c pip →
    ((s.cur.c.getA a).getLsbD 63 = false → Completes (.vld d a m pip) s (s.LaneResult pip d (s.lanes m) fun i =>
      BitVec.ofNat 32 (s.cur.lsNat (laneAddr ((s.cur.c.getA a).toNat + 4 * i)) 4))) ∧
    ((s.cur.c.getA a).getLsbD 63 = true → 128 ≤ s.cur.vec.fifo.length → Completes (.vld d a m pip) s (fun t =>
      s.EngineDone .c pip (fun c => { c with vec := { c.vec with v := t.cur.vec.v, fifo := c.vec.fifo.drop 128, slots := c.vec.slots.drop 1 } }) t ∧
      ∀ r i, i < 64 → t.cur.vec.lane r i = if r = d ∧ (s.lanes m).getLsbD i = true then
        BitVec.ofNat 32 ((s.cur.vec.fifo.getD (2 * i) 0).toNat + 256 * (s.cur.vec.fifo.getD (2 * i + 1) 0).toNat)
        else s.cur.vec.lane r i)) ∧
    ((s.cur.c.getA a).getLsbD 63 = true → s.cur.vec.fifo.length < 128 → Completes (.vld d a m pip) s (s.EngineWaits .c pip .fifo)) ∧
    Completes (.vldx d a b m pip) s (s.LaneResult pip d (s.lanes m) fun i =>
      BitVec.ofNat 32 (s.cur.lsNat (laneAddr ((s.cur.c.getA a).toNat + (s.cur.vec.lane b i).toNat)) 4)) ∧
    Completes (.vst d a m pip) s (s.LanesStored pip d m fun i => laneAddr ((s.cur.c.getA a).toNat + 4 * i)) ∧
    Completes (.vstx d a b m pip) s (s.LanesStored pip d m fun i => laneAddr ((s.cur.c.getA a).toNat + (s.cur.vec.lane b i).toNat))

namespace Sys2Proof.Machine

/-- C has written tile register `n` alone: element (r, c) is `f r c`. -/
def State.TileResult (s : State) (pip : BitVec 4) (n : BitVec 2) (f : Nat → Nat → BitVec 16) (t : State) : Prop :=
  s.EngineDone .c pip (fun c => { c with vec := { c.vec with t := t.cur.vec.t } }) t ∧
  ∀ (k : BitVec 2) r c, r < 64 → c < 64 → t.cur.vec.tile k.toNat r c = if k = n then f r c else s.cur.vec.tile k.toNat r c

end Sys2Proof.Machine

/-- The tile words (R137 to R140). -/
def Obligations.TileWords : Prop :=
  ∀ (s : State) (n : BitVec 2) (i : BitVec 6) (v : BitVec 4) (f : BitVec 3) (m : BitVec 1) (pip : BitVec 4), s.EngReady .c pip →
    Completes (.twrow n i v f m pip) s (s.TileResult pip n fun r c =>
      if r = i.toNat ∧ (s.lanes m).getLsbD c = true then toTile f.toNat (s.cur.vec.lane v c) else s.cur.vec.tile n.toNat r c) ∧
    Completes (.trcol n i v f m pip) s (s.LaneResult pip v (s.lanes m) fun r => fromTile f.toNat (s.cur.vec.tile n.toNat r i.toNat)) ∧
    Completes (.trrow n i v f m pip) s (s.LaneResult pip v (s.lanes m) fun c => fromTile f.toNat (s.cur.vec.tile n.toNat i.toNat c)) ∧
    Completes (.tclr n pip) s (s.TileResult pip n fun _ _ => 0) ∧
    Completes (.tld n v pip) s (s.TileResult pip n fun r c =>
      BitVec.ofNat 16 (s.cur.lsNat (laneAddr (s.cur.c.getA v).toNat + 128 * r + 2 * c) 2)) ∧
    Completes (.tst n v pip) s (fun t => s.EngineDone .c pip (fun c => { c with ls := t.cur.ls }) t ∧
      (∀ r c, r < 64 → c < 64 →
        t.cur.lsNat (laneAddr (s.cur.c.getA v).toNat + 128 * r + 2 * c) 2 = (s.cur.vec.tile n.toNat r c).toNat) ∧
      ∀ o, o < 2 ^ 20 → (∀ j, j < 8192 → (laneAddr (s.cur.c.getA v).toNat + j) % 2 ^ 20 ≠ o) → t.cur.lsRead o = s.cur.lsRead o)

/-- The deferral queue and VSCAT (R141 to R143). -/
def Obligations.DeferralWords : Prop :=
  ∀ (s : State) (a b d w : BitVec 4) (m : BitVec 1) (pip : BitVec 4) (new : List DEntry), s.EngReady .c pip →
    (new = ((List.range 64).filter fun i => (s.lanes m).getLsbD i).map (fun i =>
        (⟨i, (List.range w.toNat).map fun j => s.cur.vec.lane (a + BitVec.ofNat 4 j) i⟩ : DEntry)) →
      (s.cur.vec.deferQ.length + new.length ≤ 1024 → Completes (.defer a w m pip) s
        (s.EngineDone .c pip fun c => { c with vec := { c.vec with deferQ := s.cur.vec.deferQ ++ new } })) ∧
      (1024 < s.cur.vec.deferQ.length + new.length → s.cur.surrogate = false → Completes (.defer a w m pip) s
        (s.EngineTraps .c ⟨0x10, 0, BitVec.ofNat 64 s.cur.vec.deferQ.length⟩))) ∧
    (1 ≤ w.toNat → w.toNat ≤ 4 → d.toNat + w.toNat ≤ 16 → ¬ (d.toNat ≤ b.toNat ∧ b.toNat < d.toNat + w.toNat) →
      Completes (.drain d w b pip) s (fun t =>
        s.EngineDone .c pip (fun c => { c with vec := { c.vec with v := t.cur.vec.v, deferQ := c.vec.deferQ.drop 64 } }) t ∧
        ∀ (r : BitVec 4) j, j < 64 → t.cur.vec.lane r j =
          if r = b then (match s.cur.vec.deferQ[j]? with | some e => BitVec.ofNat 32 e.lane | none => 0xFFFFFFFF)
          else if d.toNat ≤ r.toNat ∧ r.toNat < d.toNat + w.toNat then
            (match s.cur.vec.deferQ[j]? with | some e => e.words.getD (r.toNat - d.toNat) 0 | none => 0)
          else s.cur.vec.lane r j)) ∧
    Completes (.dqcnt d pip) s (s.LaneResult pip d (BitVec.allOnes 64) fun i =>
      if i = 0 then BitVec.ofNat 32 s.cur.vec.deferQ.length else 0) ∧
    Completes (.vscat d a b m pip) s (fun t =>
      s.EngineDone .c pip (fun c => { c with vec := { c.vec with v := t.cur.vec.v } }) t ∧
      (∀ r k, k < 64 → (r ≠ d ∨ ∀ j, j < 64 → (s.lanes m).getLsbD j = true → (s.cur.vec.lane b j).toNat ≠ k) →
        t.cur.vec.lane r k = s.cur.vec.lane r k) ∧
      ∀ j, j < 64 → (s.lanes m).getLsbD j = true → (s.cur.vec.lane b j).toNat < 64 →
        (∀ i, j < i → i < 64 → (s.lanes m).getLsbD i = true → s.cur.vec.lane b i ≠ s.cur.vec.lane b j) →
        t.cur.vec.lane d (s.cur.vec.lane b j).toNat = s.cur.vec.lane a j)

namespace Sys2Proof.Machine

/-- C has written accumulator `q` alone. -/
def State.AccumResult (s : State) (pip q : BitVec 4) (v : Accum) (t : State) : Prop :=
  s.EngineDone .c pip (fun c => { c with vec := { c.vec with q := t.cur.vec.q } }) t ∧
  ∀ k, t.cur.vec.accum k = if k = q.toNat then v else s.cur.vec.accum k

/-- The slot of LS that an address register names: bits [6:0] and [63:20] taken as 0 (R147). -/
def slotAddr (v : Word) : Nat := v.toNat % 2 ^ 20 / 128 * 128

/-- A slot operation on its way may perform now at a place of package memory or scratch: no earlier one of its C on the slot, its turn
at the home, no error there, no checked window, its iteration still open, and room for its pips (R146 to R148, R26). -/
def State.ReqServed (s : State) (i : Nat) (r : Req) (l : Loc) : Prop :=
  s.slotBehind i r = false ∧ s.reqTurn r = true ∧ s.reqPlace r = .ok l ∧ l.isSystem = false ∧ s.eccAt l r.va = none ∧
  (s.core r.core).raceMode = 0 ∧ (s.core r.core).gen = r.gen ∧ r.pushes.Nodup ∧
  ∀ ch ∈ r.pushes, ((s.core r.core).pip ch).length < 16

end Sys2Proof.Machine

/-- The accumulator words and the operations that they send (R144 to R148). -/
def Obligations.AccumulatorWords : Prop :=
  ∀ (s s0 : State) (q a b d : BitVec 4) (m : BitVec 1) (pip : BitVec 4), s0 = popPips .c (popsOf .c pip) s →
    (s.EngReady .c pip → s.accumBusy q = true →
      ∀ i ∈ [Instr.xclr q pip, .xmac q a b m pip, .xsum q a m pip, .xrnd d q pip, .xsave q a pip, .xload q a pip, .xget q a pip,
        .xput q b pip], Completes i s (s.EngineWaits .c pip .other)) ∧
    (s.EngReady .c pip → s.accumBusy q = false →
      Completes (.xclr q pip) s (s.AccumResult pip q Accum.zero) ∧
      Completes (.xmac q a b m pip) s (s.AccumResult pip q (((List.range 64).filter fun i => (s.lanes m).getLsbD i).foldl
        (fun r i => r.addTerm (Sys2Proof.Machine.Num.mul (valueIn fp32 (s.cur.vec.lane a i)) (valueIn fp32 (s.cur.vec.lane b i)))) (s.cur.vec.accum q.toNat))) ∧
      Completes (.xsum q a m pip) s (s.AccumResult pip q (((List.range 64).filter fun i => (s.lanes m).getLsbD i).foldl
        (fun r i => r.addTerm (valueIn fp32 (s.cur.vec.lane a i))) (s.cur.vec.accum q.toNat))) ∧
      Completes (.xrnd d q pip) s (s.LaneResult pip d (BitVec.allOnes 64) fun i =>
        if i = 0 then BitVec.ofNat 32 (s.cur.vec.accum q.toNat).read else 0) ∧
      Completes (.xsave q a pip) s (fun t => s.EngineDone .c pip (fun c => { c with ls := t.cur.ls }) t ∧
        t.cur.lsNat (slotAddr (s.cur.c.getA a)) 128 = slotBytes (s.cur.vec.accum q.toNat) % 256 ^ 128 ∧
        ∀ o, o < 2 ^ 20 → ¬ (slotAddr (s.cur.c.getA a) ≤ o ∧ o < slotAddr (s.cur.c.getA a) + 128) → t.cur.lsRead o = s.cur.lsRead o) ∧
      Completes (.xload q a pip) s (s.AccumResult pip q (slotOf (s.cur.lsNat (slotAddr (s.cur.c.getA a)) 128))) ∧
      (∀ l, (s.cur.c.getA a).toNat % 128 = 0 → s0.check (s0.whoE .c true) .read (s.cur.c.getA a) = .ok l → s0.slotBusy l = false →
        s.cur.raceMode = 0 → s.cur.surrogate = false → l.isSystem = false → Completes (.xget q a pip) s (fun t =>
          s.SameBytes t ∧ (∀ n, n ≠ s.agent → t.core n = s.core n) ∧
          (∃ p x, t.cur = s.cur.after .c pip fun c =>
            { c.updEng .c fun x => { x with pts := p } with vec := { c.vec with q := t.cur.vec.q }, tlb := x }) ∧
          (∀ k, k ≠ q.toNat → t.cur.vec.accum k = s.cur.vec.accum k) ∧
          ((∀ k, s.copyOf l k = none) → s.NoRecord l 128 → t.cur.vec.accum q.toNat = slotOf (s.natAt l 128))))) ∧
    (s.EngReady .c (pip &&& 12) → s.accumBusy q = false → s.cur.raceMode = 0 → (s.cur.c.getA a).toNat % 128 = 0 →
      ∀ l, s0.check (s0.whoE .c true) .read (s.cur.c.getA a) = .ok l → s0.slotBusy l = true → Completes (.xget q a pip) s (fun t =>
        s.SameBytes t ∧ (∀ n, n ≠ s.agent → t.core n = s.core n) ∧
        t.cur = s.cur.after .c (pip &&& 12) (fun c => { c with tlb := t.cur.tlb }) ∧
        ∃ r, t.reqs = Cells.put s.reqs s.nextId r ∧ r.kind = .get q.toNat ∧ r.loc = l ∧ r.va = s.cur.c.getA a ∧
          r.core = s.agent ∧ r.e = .c ∧ r.gen = s.cur.gen ∧ r.pushes = pushesOf .c pip)) ∧
    (s.EngReady .c (pip &&& 12) → s.accumBusy q = false → s.cur.raceMode = 0 → s.cur.surrogate = false →
      (s.cur.c.getA b).toNat % 128 = 0 →
      ∀ l, s0.check (s0.whoE .c true) .atomic (s.cur.c.getA b) = .ok l → Completes (.xput q b pip) s (fun t =>
        s.SameBytes t ∧ (∀ n, n ≠ s.agent → t.core n = s.core n) ∧
        t.cur = s.cur.after .c (pip &&& 12) (fun c => { c with tlb := t.cur.tlb }) ∧
        ∃ r, t.reqs = Cells.put s.reqs s.nextId r ∧ r.kind = .slot (s.cur.vec.accum q.toNat) ∧ r.loc = l ∧ r.va = s.cur.c.getA b ∧
          r.core = s.agent ∧ r.e = .c ∧ r.gen = s.cur.gen ∧ r.pushes = pushesOf .c pip)) ∧
    (∀ i r l, Cells.find? s.reqs i = some r → s.ReqServed i r l →
      (∀ v, r.kind = .slot v → Completes (.homeAtomicPerform i) s (fun t =>
        t.natAt l 128 = slotBytes ((slotOf (s.natAt l 128)).merge v) % 256 ^ 128 ∧
        (∀ p, (∀ j, j < 128 → p.key ≠ (l.plus j).key) → t.byteAt p = s.byteAt p) ∧ Cells.find? t.reqs i = none ∧
        t.tsAt l = ⟨wmax r.pts ((s.tsAt l).rts + 1), wmax r.pts ((s.tsAt l).rts + 1)⟩ ∧
        (∀ n, n ≠ r.core → t.core n = s.core n) ∧ t.core r.core = { s.core r.core with pips := (t.core r.core).pips } ∧
        ∀ ch, (t.core r.core).pip ch = (s.core r.core).pip ch ++ if ch ∈ r.pushes then [(t.tsAt l).wts] else [])) ∧
      (∀ k, r.kind = .get k → (s.core r.core).surrogate = false → (∀ h, s.copyOf l h = none) → Completes (.homeLoad i) s (fun t =>
        (∀ p, t.byteAt p = s.byteAt p) ∧ Cells.find? t.reqs i = none ∧ (∀ n, n ≠ r.core → t.core n = s.core n) ∧
        (∀ j, (t.core r.core).vec.accum j = if j = k then slotOf (s.natAt l 128) else (s.core r.core).vec.accum j) ∧
        (t.core r.core).c.pts = wmax (s.core r.core).c.pts (s.tsAt l).wts ∧
        ∀ ch, (t.core r.core).pip ch = (s.core r.core).pip ch ++ if ch ∈ r.pushes then [(t.core r.core).c.pts] else [])))

namespace Sys2Proof.Machine

/-- A loader has put plane `p` into the array, and its pips wait for the vectors in flight that use the plane (R157). -/
def State.PlaneLoaded (s : State) (pip : BitVec 4) (l : Bool) (p : Plane) (t : State) : Prop :=
  s.OnlyCore t ∧ ∃ ahead,
    t.cur = s.cur.after .c (pip &&& 12) (fun c => { c with arr := { c.arr.setPlane l p with loader := some ⟨pushesOf .c pip, ahead⟩ } }) ∧
    ahead ≤ s.cur.arr.inflight.length ∧ ∀ i v, s.cur.arr.inflight[i]? = some v → v.planeB = l → i < ahead

end Sys2Proof.Machine

/-- The loaders (R160 to R162, R184). DEDUCED: the plane is there at once (log entry 76). -/
def Obligations.PlaneLoads : Prop :=
  ∀ (s : State) (l x y z : BitVec 1) (a v pip : BitVec 4) (old : Plane) (base save n : Nat), s.EngReady .c (pip &&& 12) →
    old = s.cur.arr.plane (l == 1) → base = (if z = 1 then (s.cur.c.getA a).toNat % 2 ^ 20 else (s.cur.c.getA a).toNat % 2 ^ 20 / 2 * 2) →
    n = (if y = 1 then (openCells old.bitmap).length else 1008) → save = (s.cur.c.getA a).toNat % 2 ^ 20 / 64 * 64 →
    (s.cur.arr.loader = none →
      Completes (.angl l a x y z pip) s (fun t => ∃ p, s.PlaneLoaded pip (l == 1) p t ∧
        (∀ i, i < 64 → p.scale i = if x = 1 then scaleAt (s.cur.lsNat (base + codesSize (z == 1) n) 48) i else old.scale i) ∧
        (y = 0 → (∀ i, i < 1008 → p.code i = readCode s.cur base (z == 1) i % 65536) ∧
          ∀ b, b < 16 → (p.bitmap.getLsbD b = true ↔ ∀ i, i < 1008 → cellBlock i = b → p.code i = 0)) ∧
        (y = 1 → p.bitmap = old.bitmap ∧ (∀ i, i < 1008 → old.bitmap.getLsbD (cellBlock i) = true → p.code i = 0) ∧
          ∀ k i, (openCells old.bitmap)[k]? = some i → p.code i = readCode s.cur base (z == 1) k % 65536)) ∧
      Completes (.abmp l a pip) s (s.PlaneLoaded pip (l == 1) { old with bitmap := (s.cur.c.getA a).setWidth 16 }) ∧
      Completes (.rscl l a pip) s (fun t => ∃ p, s.PlaneLoaded pip (l == 1) p t ∧ p.codes = old.codes ∧ p.bitmap = old.bitmap ∧
        ∀ i, i < 64 → p.scale i = scaleAt (s.cur.lsNat (s.cur.c.getA a).toNat 48) i) ∧
      Completes (.rsclV l v pip) s (fun t => ∃ p, s.PlaneLoaded pip (l == 1) p t ∧ p.codes = old.codes ∧ p.bitmap = old.bitmap ∧
        ∀ i, i < 64 → p.scale i = (s.cur.vec.lane v i).toNat % 64) ∧
      Completes (.rload a pip) s (fun t => s.OnlyCore t ∧
        (∃ ahead, t.cur = s.cur.after .c (pip &&& 12) fun c => { c with arr := { c.arr with
          planeA := t.cur.arr.planeA, planeB := t.cur.arr.planeB, activeB := s.cur.lsNat (save + 4132) 4 % 2 == 1,
          monitor := s.cur.lsNat (save + 4132) 4 / 2 % 2 == 1, laneMap := BitVec.ofNat 20 (s.cur.lsNat (save + 4134) 2 % 8192 * 128),
          ndrift := BitVec.ofNat 32 (s.cur.lsNat (save + 4136) 4), ndcnt := BitVec.ofNat 32 (s.cur.lsNat (save + 4140) 4),
          sws0 := BitVec.ofNat 64 (s.cur.lsNat (save + 4144) 8) &&& 0xC000003FFFFFFFFF,
          sws1 := BitVec.ofNat 64 (s.cur.lsNat (save + 4152) 8 % 2 ^ 40), loader := some ⟨pushesOf .c pip, ahead⟩ } }) ∧
        (∀ i, i < 1008 → t.cur.arr.planeA.code i = s.cur.lsNat (save + 2 * i) 2 ∧
          t.cur.arr.planeB.code i = s.cur.lsNat (save + 2016 + 2 * i) 2) ∧
        (∀ i, i < 64 → t.cur.arr.planeA.scale i = scaleAt (s.cur.lsNat (save + 4032) 48) i ∧
          t.cur.arr.planeB.scale i = scaleAt (s.cur.lsNat (save + 4080) 48) i) ∧
        t.cur.arr.planeA.bitmap.toNat = s.cur.lsNat (save + 4128) 2 ∧ t.cur.arr.planeB.bitmap.toNat = s.cur.lsNat (save + 4130) 2)) ∧
    (s.cur.arr.loader.isSome = true →
      ∀ i ∈ [(.angl l a x y z pip : Instr), .abmp l a pip, .rscl l a pip, .rsclV l v pip, .rload a pip],
        Completes i s (s.EngineWaits .c pip .other))

namespace Sys2Proof.Machine

/-- A word that changes fields of the array alone. -/
def State.ArrResult (s : State) (pip : BitVec 4) (f : Arr → Arr) (t : State) : Prop :=
  s.EngineDone .c pip (fun c => { c with arr := f c.arr }) t

end Sys2Proof.Machine

/-- The words that control the array (R163, R164, R171, R172, R184). DESIGN CHOICE: RSAVE with mode 3 in SWS (log entry 124). -/
def Obligations.ArrayControl : Prop :=
  ∀ (s : State) (l : BitVec 1) (a pip : BitVec 4) (save : Nat), s.EngReady .c pip → save = (s.cur.c.getA a).toNat % 2 ^ 20 / 64 * 64 →
    Completes (.rlane a pip) s (s.ArrResult pip fun r => { r with
      laneMap := BitVec.ofNat 20 ((s.cur.c.getA a).toNat % 2 ^ 20 / 128 * 128) }) ∧
    Completes (.rplane l pip) s (s.ArrResult pip fun r => { r with activeB := l == 1 }) ∧
    Completes (.rplaneT pip) s (s.ArrResult pip fun r => { r with activeB := !s.cur.arr.activeB }) ∧
    Completes (.rmonOff pip) s (s.ArrResult pip fun r => { r with monitor := false }) ∧
    Completes (.rmonOn pip) s (s.ArrResult pip fun r => { r with monitor := true }) ∧
    Completes (.rmonClr pip) s (s.ArrResult pip fun r => { r with ndrift := 0, ndcnt := 0 }) ∧
    (s.cur.arr.inflight = [] → Completes (.reos pip) s (s.ArrResult pip id)) ∧
    (s.cur.arr.inflight ≠ [] → Completes (.reos pip) s (s.EngineWaits .c pip .other)) ∧
    (s.cur.arr.inflight ≠ [] ∨ s.cur.arr.loader.isSome = true → Completes (.rsave a pip) s (s.EngineWaits .c pip .other)) ∧
    (s.cur.arr.inflight = [] → s.cur.arr.loader = none → Completes (.rsave a pip) s (fun t =>
      s.EngineDone .c pip (fun c => { c with ls := t.cur.ls }) t ∧
      (∀ i, i < 1008 → t.cur.lsNat (save + 2 * i) 2 = s.cur.arr.planeA.code i ∧
        t.cur.lsNat (save + 2016 + 2 * i) 2 = s.cur.arr.planeB.code i) ∧
      (∀ i, i < 64 → scaleAt (t.cur.lsNat (save + 4032) 48) i = s.cur.arr.planeA.scale i ∧
        scaleAt (t.cur.lsNat (save + 4080) 48) i = s.cur.arr.planeB.scale i) ∧
      t.cur.lsNat (save + 4128) 2 = s.cur.arr.planeA.bitmap.toNat ∧ t.cur.lsNat (save + 4130) 2 = s.cur.arr.planeB.bitmap.toNat ∧
      t.cur.lsNat (save + 4132) 4 = (if s.cur.arr.activeB then 1 else 0) + (if s.cur.arr.monitor then 2 else 0)
        + 2 ^ 16 * (s.cur.arr.laneMap.toNat / 128) ∧
      t.cur.lsNat (save + 4136) 4 = s.cur.arr.ndrift.toNat ∧ t.cur.lsNat (save + 4140) 4 = s.cur.arr.ndcnt.toNat ∧
      t.cur.lsNat (save + 4144) 8 = s.cur.arr.sws0.toNat ∧ t.cur.lsNat (save + 4152) 8 = s.cur.arr.sws1.toNat ∧
      ∀ o, o < 2 ^ 20 → (∀ j, j < 4160 → (save + j) % 2 ^ 20 ≠ o) → t.cur.lsRead o = s.cur.lsRead o))

namespace Sys2Proof.Machine

/-- C may take a turn at its word: nothing owed, no engine in a trap, its pips popped or there, room for those it pushes. -/
def State.CTurn (s : State) (pip : BitVec 4) : Prop :=
  s.cur.c.pushes = [] ∧ s.cur.c.half = false ∧ s.cur.engTrap = none ∧ (s.cur.c.popped = true ∨ ∀ ch ∈ popsOf .c pip, s.cur.pip ch ≠ []) ∧
  ∀ ch ∈ pushesOf .c pip, (s.cur.pip ch).length < 16

/-- The core with the pips of the word of C popped. -/
def Core.taken (c : Core) (pip : BitVec 4) : Core := if c.c.popped then c else c.popAll .c (popsOf .c pip)

/-- The turn has done `f`, and the word is over, or it goes on at its next turn. -/
def State.CTurned (s : State) (pip : BitVec 4) (ended : Bool) (f : Core → Core) (t : State) : Prop :=
  s.OnlyCore t ∧ t.cur =
    if ended then ((f (s.cur.taken pip)).pushAll .c (pushesOf .c pip)).updEng .c Engine.finish
    else (f (s.cur.taken pip)).updEng .c fun x =>
      { x with offset := s.cur.c.offset + 1, popped := true, stat := .ready, base := some x.baseTs }

/-- The word of C waits in its turn, with its pips popped. -/
def State.CWaits (s : State) (pip : BitVec 4) (w : EWait) (t : State) : Prop :=
  s.OnlyCore t ∧ t.cur = (s.cur.taken pip).updEng .c fun x => { x with popped := true, stat := .waiting w }

/-- The turn has done `f`, and the word is over. -/
def State.CEnds (s : State) (pip : BitVec 4) (f : Core → Core) (t : State) : Prop :=
  s.OnlyCore t ∧ t.cur = ((f (s.cur.taken pip)).pushAll .c (pushesOf .c pip)).updEng .c Engine.finish

/-- The turn has done `f`, and the word goes on at its next turn. -/
def State.CGoesOn (s : State) (pip : BitVec 4) (f : Core → Core) (t : State) : Prop :=
  s.OnlyCore t ∧ t.cur = (f (s.cur.taken pip)).updEng .c fun x =>
    { x with popped := true, stat := .ready, base := some x.baseTs }

/-- The word of C traps ILLEGAL: the trap stands, and the array and the vector unit are as before. -/
def State.CIllegal (s t : State) : Prop :=
  s.OnlyCore t ∧ t.cur.arr = s.cur.arr ∧ t.cur.vec = s.cur.vec ∧ t.cur.ls = s.cur.ls ∧
  ∃ x, t.cur.engTrap = some x ∧ x.e = .c ∧ x.flt.cause = 0x01 ∧ x.entered = false

/-- The element bits of a push from LS: element i of the vector at `base`. -/
def State.packedAt (s : State) (bits base i : Nat) : Nat := s.cur.lsNat base (8 * bits) / 2 ^ (bits * i) % 2 ^ bits

/-- The core after one vector has entered the array; a lane without an element enters as +0 (R165). -/
def Core.entered (c : Core) (e : FmtSel) (w k : Nat) (elem : Nat → Option Nat) : Core :=
  let g := if k = 0 then c.arr.groups + 1 else c.arr.groups
  let xs := (List.range 64).map fun i =>
    match elem i with
    | some b => entryConvert e w (if i < 32 then c.vec.scaleQ.getD 0 0 else c.vec.scaleQ.getD 1 0).toNat b
    | none => Sys2Proof.Machine.Num.fin false 0 0
  { c with arr := { c.arr with groups := g, inflight := c.arr.inflight ++ [throughPlane w (c.arr.plane c.arr.activeB) c.arr.activeB g xs] },
           vec := { c.vec with scaleQ := if isMx e.inp then c.vec.scaleQ.drop 2 else c.vec.scaleQ } }

end Sys2Proof.Machine

/-- The pushes and the drains (R165 to R168). DEDUCED: one vector at a turn (log entry 77), the array passed at once (76), the bias
of a drained MX block (107). -/
def Obligations.PushesAndDrains : Prop :=
  ∀ (s : State) (n a b d tag v : BitVec 4) (f : BitVec 6) (m : BitVec 1) (pip : BitVec 4) (e : FmtSel) (k : Nat), s.CTurn pip →
    e = s.fmtSel f → k = s.cur.c.offset →
    (∀ w, workFmt e.inp = some w → k ≤ n.toNat → (k = 0 → s.cur.arr.undrained + (n.toNat + 1) ≤ 64) →
        (isMx e.inp = true → 2 ≤ s.cur.vec.scaleQ.length) →
      Completes (.rpush n a f pip) s (s.CTurned pip (k == n.toNat) fun c => c.entered e w k fun i =>
        some (s.packedAt (elemBits e.inp) ((s.cur.c.getA a).toNat % 2 ^ 20 / 16 * 16 + k * (8 * elemBits e.inp)) i)) ∧
      Completes (.rpushv n v f m pip) s (s.CTurned pip (k == n.toNat) fun c => c.entered e w k fun i =>
        if (s.lanes m).getLsbD i then some ((s.cur.vec.lane (v + BitVec.ofNat 4 k) i).toNat % 2 ^ elemBits e.inp) else none)) ∧
    (∀ w, workFmt e.inp = some w → (k = 0 → s.cur.arr.undrained + (n.toNat + 1) ≤ 64) → isMx e.inp = true → s.cur.vec.scaleQ.length < 2 →
      (s.cur.l.hasLdq = true →
        Completes (.rpush n a f pip) s (s.CWaits pip .scaleQueue) ∧ Completes (.rpushv n v f m pip) s (s.CWaits pip .scaleQueue)) ∧
      (s.cur.l.hasLdq = false → s.cur.surrogate = false →
        Completes (.rpush n a f pip) s (s.EngineTraps .c ⟨0x08, 0, 0⟩) ∧
        Completes (.rpushv n v f m pip) s (s.EngineTraps .c ⟨0x08, 0, 0⟩))) ∧
    (workFmt e.inp = none ∨ (k = 0 ∧ 64 < s.cur.arr.undrained + (n.toNat + 1)) → s.cur.surrogate = false →
      Completes (.rpush n a f pip) s s.CIllegal ∧ Completes (.rpushv n v f m pip) s s.CIllegal) ∧
    (∀ x r, outOk e.out = true → s.cur.arr.outbuf = x :: r →
      Completes (.rpop tag a b f pip) s (fun t =>
        s.CTurned pip (((r ++ s.cur.arr.inflight).head?.map fun y => y.group) != some x.group) (fun c =>
          { { c with arr := { c.arr with outbuf := r }, ls := t.cur.ls }.afterDrain tag.toNat e x (drainVec e x) with ls := t.cur.ls }) t ∧
        (isMx e.out = false → (∀ i, i < 64 →
            t.packedAt (elemBits e.out) ((s.cur.c.getA a).toNat % 2 ^ 20 / 16 * 16 + k * (8 * elemBits e.out)) i =
              (drainVec e x).elems.getD i 0 % 2 ^ elemBits e.out) ∧
          ∀ o, o < 2 ^ 20 → (∀ j, j < 8 * elemBits e.out →
            ((s.cur.c.getA a).toNat % 2 ^ 20 / 16 * 16 + k * (8 * elemBits e.out) + j) % 2 ^ 20 ≠ o) → t.cur.lsRead o = s.cur.lsRead o) ∧
        (isMx e.out = true → t.cur.lsNat ((s.cur.c.getA b).toNat + 2 * k) 2 =
          ((drainVec e x).scales.1 + 256 * (drainVec e x).scales.2) % 65536)) ∧
      Completes (.rpopv d tag v f m pip) s (fun t =>
        s.CTurned pip true (fun c => { c with
          arr := { c.arr with outbuf := r }, vec := { c.vec with v := t.cur.vec.v } }.afterDrain tag.toNat e x (drainVec e x)) t ∧
        ∀ q i, i < 64 → t.cur.vec.lane q i =
          if isMx e.out = true ∧ q = v then
            BitVec.ofNat 32 (if i = 0 then (drainVec e x).scales.1 else if i = 1 then (drainVec e x).scales.2 else 0)
          else if q = d ∧ (s.lanes m).getLsbD i = true then BitVec.ofNat 32 ((drainVec e x).elems.getD i 0)
          else s.cur.vec.lane q i)) ∧
    (outOk e.out = false ∨ s.cur.arr.undrained = 0 → s.cur.surrogate = false →
      Completes (.rpop tag a b f pip) s s.CIllegal ∧ Completes (.rpopv d tag v f m pip) s s.CIllegal) ∧
    (outOk e.out = true → s.cur.arr.outbuf = [] → s.cur.arr.inflight ≠ [] →
      Completes (.rpop tag a b f pip) s (s.CWaits pip .other) ∧ Completes (.rpopv d tag v f m pip) s (s.CWaits pip .other))

namespace Sys2Proof.Machine

/-- No reserved bit of a stream's descriptor is set, and its format is FP32, FP16 or BF16 in and out (R174). -/
def State.StreamLegal (s : State) (b : BitVec 4) (f : BitVec 6) : Prop :=
  (s.cur.c.getA b).toNat < 2 ^ 20 ∧ (s.cur.c.getA b).getLsbD 15 = false ∧ (s.fmtSel f).inp = (s.fmtSel f).out ∧ (s.fmtSel f).inp ≤ 2

end Sys2Proof.Machine

/-- RSWEEP and RSTREAM (R174 to R180). DEDUCED: one elimination or vector at a turn (log entry 77), the slot of DECODE (78). DESIGN
CHOICE: that slot where a record comes from several (log entry 108). -/
def Obligations.SweepsAndStreams : Prop :=
  ∀ (s : State) (n a b : BitVec 4) (f : BitVec 6) (pip : BitVec 4), s.CTurn pip →
    (∀ rows cols done i j tile out, s.cur.arr.inflight = [] → (s.cur.c.getA a).toNat < 2 ^ 32 → i < 64 → j < 64 → 1 ≤ rows → rows ≤ 64 →
        1 ≤ cols → cols ≤ 64 → done < 4096 → out < 2 ^ 20 → tile < 2 ^ 20 →
        s.cur.arr.sws0 = sweepWord 1 cols rows done i j → s.cur.arr.sws1 = BitVec.ofNat 64 (2 ^ 20 * out + tile) →
      (min cols (rows - 1) ≤ j → Completes (.rsweep a b pip) s (s.CEnds pip fun c =>
        { c with arr := { c.arr with sws0 := sweepWord 0 cols rows done i j } })) ∧
      (∀ i' j', j < min cols (rows - 1) → (i', j') = (if j + 1 < i then (i - 1, j) else (rows - 1, j + 1)) →
        (j' < min cols (rows - 1) → Completes (.rsweep a b pip) s (s.CGoesOn pip fun c => { c with
          ls := (eliminate s.cur tile out cols i j).ls,
          arr := { c.arr with
            sws0 := sweepWord 1 cols rows (done + 1) i' j',
            sws1 := BitVec.ofNat 64 (2 ^ 20 * ((out + 2) % 2 ^ 20) + tile) } })) ∧
        (min cols (rows - 1) ≤ j' → Completes (.rsweep a b pip) s (s.CEnds pip fun c => { c with
          ls := (eliminate s.cur tile out cols i j).ls,
          arr := { c.arr with
            sws0 := sweepWord 0 cols rows (done + 1) i' j',
            sws1 := BitVec.ofNat 64 (2 ^ 20 * ((out + 2) % 2 ^ 20) + tile) } })))) ∧
    (s.cur.arr.inflight = [] → (s.cur.c.getA a).toNat < 2 ^ 32 → s.cur.arr.swsMode = 0 →
      exec (.rsweep a b pip) s = exec (.rsweep a b pip) (s.onCore fun c => { c with arr := { c.arr with
        sws0 := sweepWord 1 ((s.cur.c.getA a).toNat / 2 ^ 26 % 64 + 1) ((s.cur.c.getA a).toNat / 2 ^ 20 % 64 + 1) 0
          ((s.cur.c.getA a).toNat / 2 ^ 20 % 64) 0,
        sws1 := BitVec.ofNat 64 (2 ^ 20 * ((s.cur.c.getA b).toNat % 2 ^ 20 / 2 * 2) + (s.cur.c.getA a).toNat % 2 ^ 20 / 4 * 4) } })) ∧
    (s.cur.arr.inflight ≠ [] → (s.cur.c.getA a).toNat < 2 ^ 32 → s.cur.arr.swsMode ≤ 1 →
      Completes (.rsweep a b pip) s (s.CWaits pip .other)) ∧
    ((2 ^ 32 ≤ (s.cur.c.getA a).toNat ∧ s.cur.c.popped = false) ∨ 2 ≤ s.cur.arr.swsMode → s.cur.surrogate = false → Completes (.rsweep a b pip) s s.CIllegal) ∧
    (∀ x g, s.cur.arr.stream = some x → s.cur.arr.swsMode ≠ 2 →
        g = (fun c : Core => streamVec c (s.fmtSel f) ((s.cur.c.getA b).toNat / 2 ^ 16 % 16)
          ((s.cur.c.getA a).toNat % 2 ^ 20 / 16 * 16) ((s.cur.c.getA b).toNat % 2 ^ 15 + 1) x.map x.vec) →
      (x.vec < n.toNat → x.last = true ∨ x.next.isSome = true → Completes (.rstream n a b f pip) s (s.CGoesOn pip fun c =>
        { g c with arr := { (g c).arr with stream := some { x with vec := x.vec + 1 } } })) ∧
      (x.vec = n.toNat → x.last = true → Completes (.rstream n a b f pip) s (s.CEnds pip fun c =>
        { g c with arr := { (g c).arr with stream := none } })) ∧
      (∀ l sc k, n.toNat < x.vec → x.last = false → x.next = some (l, sc, k) →
        Completes (.rstream n a b f pip) s (s.CGoesOn pip fun c => { c with arr := { c.arr with
          activeB := !s.cur.arr.activeB,
          stream := some ⟨x.pass + 1, if (s.cur.arr.plane (!s.cur.arr.activeB)).bitmap = 0xFFFF ∧ sc = false then n.toNat + 1 else 0,
            l, sc, k, none⟩ } }))) ∧
    (s.cur.arr.stream = none → s.StreamLegal b f → s.cur.arr.swsMode = 2 → Completes (.rstream n a b f pip) s (s.CGoesOn pip fun c =>
      { c with arr := { c.arr with stream := some s.cur.arr.swsStream, sws0 := 0, sws1 := 0 } })) ∧
    (s.cur.arr.stream = none → s.StreamLegal b f → s.cur.arr.swsMode = 0 →
      (∀ w, s.cur.passIn ((s.cur.c.getA b).toNat % 2 ^ 15 + 1) = .wait w → Completes (.rstream n a b f pip) s (s.CWaits pip w)) ∧
      (s.cur.passIn ((s.cur.c.getA b).toNat % 2 ^ 15 + 1) = .bad → s.cur.surrogate = false → Completes (.rstream n a b f pip) s
        (s.EngineTraps .c ⟨0x09, (s.cur.vec.slots.headD (0, 0)).1, BitVec.ofNat 64 (s.cur.vec.slots.headD (0, 0)).2⟩)) ∧
      (∀ h p skip g, s.cur.passIn ((s.cur.c.getA b).toNat % 2 ^ 15 + 1) = .ok h p skip →
          g = (fun (st : Option StreamSt) (c : Core) => { c.takePass h p with
            arr := { (c.takePass h p).arr with activeB := !s.cur.arr.activeB, stream := st } }) →
        (skip = false → Completes (.rstream n a b f pip) s (s.CGoesOn pip (g (some ⟨0, 0, h.last, h.scales, h.map, none⟩)))) ∧
        (skip = true → h.last = false → Completes (.rstream n a b f pip) s
          (s.CGoesOn pip (g (some ⟨0, n.toNat + 1, false, h.scales, h.map, none⟩)))) ∧
        (skip = true → h.last = true → Completes (.rstream n a b f pip) s (s.CEnds pip (g none))))) ∧
    (s.cur.arr.stream = none → ¬ s.StreamLegal b f ∨ s.cur.arr.swsMode = 1 ∨ s.cur.arr.swsMode = 3 → s.cur.surrogate = false →
      Completes (.rstream n a b f pip) s s.CIllegal)

namespace Sys2Proof.Machine

/-- A word of a member has changed its team fields by `f`, its context, and the record of team `t` by `h`. -/
def State.TeamWord (s : State) (t : Nat) (f : Team → Team) (h : TeamSt → TeamSt) (u : State) : Prop :=
  u = { s with cores := u.cores, teams := u.teams } ∧ (∀ n, n ≠ s.agent → u.core n = s.core n) ∧ (∀ l, u.byteAt l = s.byteAt l) ∧
  u.cur = { s.cur.setCtx s.inHusk u.ctx with team := f s.cur.team } ∧ s.SameG u ∧ s.SameP u ∧
  ∀ k, Cells.find? u.teams k = if k = t then (Cells.find? s.teams t).map h else Cells.find? s.teams k

end Sys2Proof.Machine

/-- The words between the runs (R249 to R257). DEDUCED: CHLOOP with a span that is not known yet (log entry 106), hand-overs that stay in
their pairs (104). DESIGN CHOICE: one barrier for TSYNC and CHEND (127). -/
def Obligations.TeamStreamWords : Prop :=
  ∀ (s : State), s.Plain →
    (∀ t b g (i : BitVec 12) (n : BitVec 5), s.openTeam = none → s.binderOf s.agent = some b → s.gangOf s.agent = some g →
      g.team = some t → b.team = i.toNat → b.roles.length = n.toNat → 1 ≤ n.toNat → n.toNat ≤ 16 → s.cur.team.begun = false →
      Completes (.chbeg i n) s (fun u => s.TeamWord t
        (fun _ => { Team.reset with team := some t, begun := true, beg := s.pc, cursors := startCursors 0 b.chans })
        (fun x => { x with reached := Cells.put x.reached s.agent 0 }) u ∧ u.StandsAt (s.pc + 4))) ∧
    (∀ t x, s.openTeam = some (t, x) → s.inRun = false → s.ctx.stat = .running →
      (∀ (m : BitVec 16) (l : BitVec 7) beat y, m ≠ 0 → l ≠ 0 → m.toNat < 2 ^ s.roleCount →
        beat = Cells.get 0 x.reached s.agent + 1 → y = Cells.put x.reached s.agent beat →
        (beat ≤ s.cur.team.bound.toNat → Completes (.role m l) s (fun u => s.TeamWord t
          (fun z => { z with
            beat := BitVec.ofNat 32 beat, header := s.pc, mask := m, jumped := false,
            left := (if s.cur.roleSet.setWidth 16 &&& m = 0 then 0 else l.toNat) })
          (fun z => { z with reached := y, headers := Cells.put z.headers (1024 * beat + s.agent) s.pc }) u ∧
          u.StandsAt (if s.cur.roleSet.setWidth 16 &&& m = 0 then s.pc + 4 * BitVec.ofNat 64 (1 + l.toNat) else s.pc + 4))) ∧
        (s.cur.team.bound.toNat < beat →
          (∃ n ∈ x.members, Cells.get 0 y n < beat - s.cur.team.bound.toNat) → Completes (.role m l) s (fun u => s.TeamWord t
          (fun z => { z with beat := BitVec.ofNat 32 beat, header := s.pc, mask := m, jumped := false, left := l.toNat })
          (fun z => { z with reached := y, headers := Cells.put z.headers (1024 * beat + s.agent) s.pc }) u ∧
          u.ctx = s.ctx.await (.drift s.pc (BitVec.ofNat 32 beat)) s.fresh))) ∧
      (∀ d : BitVec 8, Completes (.drift d) s (fun u =>
        s.TeamWord t (fun z => { z with bound := d }) id u ∧ u.StandsAt (s.pc + 4))) ∧
      (∀ (sp : BitVec 7) (c : BitVec 16) stop, sp ≠ 0 → c ≠ 0 → s.cur.team.loops.length < 2 →
        (match stop with
          | some a => s.findSpan 1048576 (s.pc + 4) sp.toNat = .at_ a ∧
              ∀ p ∈ s.cur.team.loops, ∀ e, s.spanEnd p = some e → a.toNat ≤ e.toNat
          | none => s.findSpan 1048576 (s.pc + 4) sp.toNat = .unknown) →
        Completes (.chloop sp c) s (fun u =>
          s.TeamWord t (fun z => { z with loops := ⟨s.pc + 4, stop, sp.toNat, c.toNat⟩ :: z.loops }) id u ∧ u.StandsAt (s.pc + 4))) ∧
      (s.sendWaits = false → (∀ m ∈ x.msgs, m.sender = s.agent → m.kind = 1 ∨ (m.arrived = true ∧ (256 ≤ s.agent → m.placed = true))) →
        Completes .tsync s (fun u =>
          s.TeamWord t id (fun z => { z with arrived := z.arrived ++ [s.agent], ts := wmax z.ts s.pts }) u ∧
          u.ctx = s.ctx.await .teamBarrier s.fresh) ∧
        (s.cur.team.loops = [] → Completes .chend s (fun u =>
          s.TeamWord t id (fun z => { z with
            arrived := z.arrived ++ [s.agent], enders := z.enders ++ [s.agent], ts := wmax z.ts s.pts }) u ∧
          u.ctx = s.ctx.await .teamBarrier s.fresh))))

namespace Sys2Proof.Machine

/-- The oldest message of a pair belongs to the word of a member, and it has arrived. -/
def Msg.For (m : Msg) (kind : Nat) (beat : BitVec 32) (pos : Word) : Prop :=
  m.arrived = true ∧ m.placed = true ∧ m.kind = kind ∧ m.beat = beat ∧ m.pos = pos

/-- A member has received: its context is `x`, its PTS and its floor have risen, and the message has left. -/
def State.Received (s : State) (i : Nat) (f t : BitVec 4) (m : Msg) (h : Team → Team) (u : State) : Prop :=
  u = { s with cores := u.cores, teams := u.teams } ∧ (∀ n, n ≠ s.agent → u.core n = s.core n) ∧ (∀ l, u.byteAt l = s.byteAt l) ∧
  u.cur = { s.cur with
    user := u.cur.user, pts := wmax s.cur.pts m.ts, floor := wmax s.cur.pts m.ts, team := h s.cur.team } ∧
  u.StandsAt (s.pc + 4) ∧ s.SameP u ∧
  ∀ k, Cells.find? u.teams k = if k = i then (Cells.find? s.teams i).map (fun x => { x with msgs := dropFirst f.toNat t.toNat x.msgs })
    else Cells.find? s.teams k

/-- A cursor has moved by its step. -/
def Team.stepped (x : Team) (k : Nat) (step : Int) : Team :=
  { x with cursors := Cells.put x.cursors k (Cells.get 0 x.cursors k + BitVec.ofInt 64 step) }

/-- Both cursors of a channel have moved by their steps (R259). -/
def Team.steppedBoth (x : Team) (n : Nat) (c : Chan) : Team := (x.stepped (2 * n) c.srcStep).stepped (2 * n + 1) c.dstStep

/-- The message of an XFER.G or an XFER.V: it needs no reading and no writing. -/
def valueMsg (f t : BitVec 4) (kind : Nat) (beat : BitVec 32) (at_ pos : Word) (values : List Nat) (sender : Nat) (ts : Word) : Msg :=
  { src := f.toNat, dst := t.toNat, kind := kind, beat := beat, at_ := at_, pos := pos, payload := values, sender := sender, addr := 0,
    bytes := 0, chan := 0, moved := true, placed := true, written := 0, arrived := false,
    stalled := false, ts := ts }

/-- The message of an XFER.B: a block that has neither been read nor written. -/
def blockMsg (f t : BitVec 4) (beat : BitVec 32) (at_ pos : Word) (addr : Word) (bytes chan sender : Nat) (ts : Word) : Msg :=
  { src := f.toNat, dst := t.toNat, kind := 2, beat := beat, at_ := at_, pos := pos, payload := [], sender := sender, addr := addr,
    bytes := bytes, chan := chan, moved := false, placed := false, written := 0, arrived := false,
    stalled := false, ts := ts }

/-- A message has been appended. -/
def TeamSt.sent (x : TeamSt) (m : Msg) : TeamSt := { x with msgs := x.msgs ++ [m] }

end Sys2Proof.Machine

/-- The handovers (R258, R259). -/
def Obligations.HandoverWords : Prop :=
  ∀ (s : State) (f t sx r : BitVec 4) (g h : BitVec 5) (z : BitVec 8) (i : Nat) (x : TeamSt),
    (s.Plain → s.openTeam = some (i, x) → s.who = .s →
      (s.xferFault f t 0 0 = none → s.holds f = false → s.holds t = false → Completes (.xferG f t g h) s s.Skips) ∧
      (s.xferFault f t 2 g.toNat = none → s.holds f = false → s.holds t = false → Completes (.xferB f t g z) s s.Skips) ∧
      (s.hasSent = false → s.holds f = true → s.sendWaits = false → (x.pair f t).length < 16 →
        (s.xferFault f t 0 0 = none → s.holds t = false → Completes (.xferG f t g h) s (fun u =>
          s.TeamWord i id (fun y => y.sent
            (valueMsg f t 0 s.cur.team.beat s.pc s.runPos [(s.g g).toNat] s.agent s.pts)) u ∧ u.StandsAt (s.pc + 4))) ∧
        (s.xferFault f t 2 g.toNat = none → Completes (.xferB f t g z) s (fun u =>
            s.TeamWord i id (fun y => y.sent
              (blockMsg f t s.cur.team.beat s.pc s.runPos (Cells.get 0 s.cur.team.cursors (2 * g.toNat)) (if z = 0 then 65536 else 256 * z.toNat)
                g.toNat s.agent s.pts)) u ∧ u.ctx = s.ctx.await .blockSend s.fresh))) ∧
      (s.hasSent = true → s.holds f = true → s.holds t = false → (∀ m ∈ x.msgs, m.sender = s.agent → m.kind = 2 → m.moved = true) →
        ∀ b c, s.xferFault f t 2 g.toNat = none → s.binderOf s.agent = some b → b.chans[g.toNat]? = some c →
          Completes (.xferB f t g z) s (fun u =>
            s.TeamWord i (fun y => y.steppedBoth g.toNat c) id u ∧ u.StandsAt (s.pc + 4))) ∧
      (s.holds t = true → s.holds f = false → ∀ m q, x.pair f t = m :: q →
        (s.xferFault f t 0 0 = none → m.For 0 s.cur.team.beat s.runPos → Completes (.xferG f t g h) s (fun u =>
          s.Received i f t m id u ∧ u.g h = (if h = 0 then 0 else BitVec.ofNat 64 (m.payload.headD 0)) ∧
          ∀ k, k ≠ h → u.g k = s.g k)) ∧
        (∀ b c, s.xferFault f t 2 g.toNat = none → m.For 2 s.cur.team.beat s.runPos → s.binderOf s.agent = some b →
          b.chans[g.toNat]? = some c → Completes (.xferB f t g z) s (fun u =>
            s.Received i f t m (fun y => y.steppedBoth g.toNat c) u ∧ s.SameG u))) ∧
      (s.holds t = true → s.holds f = false → x.pair f t = [] →
        (s.xferFault f t 0 0 = none → Completes (.xferG f t g h) s (fun u =>
          s.OnlyCtx u ∧ ∃ w, u.ctx = s.ctx.await (.recv w) s.fresh)) ∧
        (s.xferFault f t 2 g.toNat = none → Completes (.xferB f t g z) s (fun u =>
          s.OnlyCtx u ∧ ∃ w, u.ctx = s.ctx.await (.recv w) s.fresh)))) ∧
    (∀ q e, s.EngReady .c 0 → s.gangOf s.agent = some q → q.team = some i → Cells.find? s.teams i = some x → s.cur.c.entry = some e →
      (s.holds f = false → s.holds t = false → Completes (.xferV f t sx r) s (s.EngineDone .c 0 id)) ∧
      (s.holds f = true → s.holds t = false → s.cur.c.offset = 0 → (∀ y ∈ s.reqs, y.2.core = s.agent → y.2.e ≠ .c) →
        (x.pair f t).length < 16 → Completes (.xferV f t sx r) s (fun u =>
          u = { s with cores := u.cores, teams := u.teams } ∧ (∀ n, n ≠ s.agent → u.core n = s.core n) ∧
          u.cur = s.cur.after .c 0 id ∧
          ∀ k, Cells.find? u.teams k = if k = i then some (x.sent
            (valueMsg f t 1 e.beat e.at_ e.val ((List.range 64).map fun n => (s.cur.vec.lane sx n).toNat) s.agent s.cur.c.pts))
            else Cells.find? s.teams k)) ∧
      (s.holds f = false → s.holds t = true → x.pair f t = [] → Completes (.xferV f t sx r) s (s.EngineWaits .c 0 .other)) ∧
      (s.holds f = false → s.holds t = true → ∀ m p, x.pair f t = m :: p → m.For 1 e.beat e.val →
        Completes (.xferV f t sx r) s (fun u =>
          u = { s with cores := u.cores, teams := u.teams } ∧ (∀ n, n ≠ s.agent → u.core n = s.core n) ∧
          u.cur = s.cur.after .c 0 (fun c => { c.updEng .c fun y => { y with pts := wmax y.pts m.ts } with
            vec := { c.vec with v := u.cur.vec.v } }) ∧
          (∀ k n, n < 64 → u.cur.vec.lane k n = if k = r then BitVec.ofNat 32 (m.payload.getD n 0) else s.cur.vec.lane k n) ∧
          ∀ k, Cells.find? u.teams k = if k = i then some { x with msgs := dropFirst f.toNat t.toNat x.msgs }
            else Cells.find? s.teams k)))

namespace Sys2Proof.Machine

/-- The oldest message of the pair is the one that a word of this kind at offset `pos` of the run of `beat` receives. -/
def TeamSt.HasFor (x : TeamSt) (f t : BitVec 4) (kind : Nat) (beat : BitVec 32) (pos : Word) : Prop :=
  ∃ m q, x.pair f t = m :: q ∧ m.For kind beat pos

/-- The payload of the oldest message of a pair. -/
def TeamSt.value (x : TeamSt) (f t : BitVec 4) (n : Nat) : Nat := (((x.pair f t).head?.map fun m => m.payload).getD []).getD n 0

end Sys2Proof.Machine

/-- The handovers are over in this turn (R258, R259). -/
def Obligations.HandoversComplete : Prop :=
  ∀ (s : State) (f t sx r : BitVec 4) (g h : BitVec 5) (z : BitVec 8) (i : Nat) (x : TeamSt),
    (s.Plain → s.openTeam = some (i, x) → s.who = .s → s.xferFault f t 0 0 = none →
      (s.holds f = true → s.hasSent = false → s.sendWaits = false ∧ (x.pair f t).length < 16 ∧ s.holds t = false) →
      (s.holds t = true → x.HasFor f t 0 s.cur.team.beat s.runPos) →
      ∃ u, exec (.xferG f t g h) s = .next u ∧ u.StandsAt (s.pc + 4) ∧
        (s.holds t = true → u.g h = if h = 0 then 0 else BitVec.ofNat 64 (x.value f t 0)) ∧
        (s.holds f = true → s.hasSent = false → Cells.find? u.teams i = some
          (x.sent (valueMsg f t 0 s.cur.team.beat s.pc s.runPos [(s.g g).toNat] s.agent s.pts)))) ∧
    (∀ b c, s.Plain → s.openTeam = some (i, x) → s.who = .s → s.xferFault f t 2 g.toNat = none →
      s.binderOf s.agent = some b → b.chans[g.toNat]? = some c →
      (s.holds f = true → s.hasSent = true ∧ ∀ m ∈ x.msgs, m.sender = s.agent → m.kind = 2 → m.moved = true) →
      (s.holds t = true → x.HasFor f t 2 s.cur.team.beat s.runPos) →
      ∃ u, exec (.xferB f t g z) s = .next u ∧ u.StandsAt (s.pc + 4) ∧
        u.cur.team = if s.holds f = true ∨ s.holds t = true then s.cur.team.steppedBoth g.toNat c else s.cur.team) ∧
    (∀ q e, s.CTurn 0 → s.gangOf s.agent = some q → q.team = some i → Cells.find? s.teams i = some x → s.cur.c.entry = some e →
      (s.holds f = true → s.cur.c.offset ≠ 1 → (∀ y ∈ s.reqs, y.2.core = s.agent → y.2.e ≠ .c) ∧ (x.pair f t).length < 16 ∧
        s.holds t = false) →
      (s.holds t = true → x.HasFor f t 1 e.beat e.val) →
      ∃ u, exec (.xferV f t sx r) s = .next u ∧ (∃ p, u.cur.c = Engine.finish { s.cur.c with pts := p }) ∧
        (s.holds t = true → ∀ n, n < 64 → u.cur.vec.lane r n = BitVec.ofNat 32 (x.value f t n)) ∧
        (s.holds f = true → s.cur.c.offset ≠ 1 → Cells.find? u.teams i = some
          (x.sent (valueMsg f t 1 e.beat e.at_ e.val ((List.range 64).map fun n => (s.cur.vec.lane sx n).toNat) s.agent s.cur.c.pts))))

namespace Sys2Proof.Machine

/-- Core `n` has become `c`, and nothing else has changed. -/
def State.CoreBecomes (s : State) (n : Nat) (c : Core) (t : State) : Prop :=
  t = { s with cores := t.cores } ∧ (∀ m, t.core m = if m = n then c else s.core m) ∧ ∀ l, t.byteAt l = s.byteAt l

/-- The steps of a core (R7, R23, R26, R65, R157, R165, R169). -/
def CoreStepsHold : Prop :=
  ∀ (s : State) (n : Nat) (c : Core), c = s.core n →
    (∀ ld, c.arr.loader = some ld → ld.ahead = 0 →
      (ld.pushes.Nodup → (∀ ch ∈ ld.pushes, c.pipRoom ch = true) → Completes (.planeLoadComplete n) s (s.CoreBecomes n
        { ld.pushes.foldl (fun (a : Core) ch => a.pushPip ch c.c.pts) c with arr := { c.arr with loader := none } })) ∧
      (∀ x y, ld.pushes = [x, y] → x ≠ y → c.pipRoom x = true → c.pipRoom y = false → Completes (.planeLoadComplete n) s (s.CoreBecomes n
        { c.pushPip x c.c.pts with arr := { c.arr with loader := some ⟨[y], 0⟩ } }))) ∧
    (∀ v r, c.arr.inflight = v :: r → Completes (.vectorExit n) s (s.CoreBecomes n { c with arr := { c.arr with
      inflight := r, outbuf := c.arr.outbuf ++ [v], loader := c.arr.loader.map fun ld => { ld with ahead := ld.ahead - 1 } } })) ∧
    (∀ u r, c.vec.tupd = u :: r → Completes (.tstatUpdate n) s (fun t =>
      s.CoreBecomes n { c with vec := { c.vec with tupd := r, tstat := (t.core n).vec.tstat } } t ∧
      (∀ k, k ≠ u.tag → Cells.get 0 (t.core n).vec.tstat k = Cells.get 0 c.vec.tstat k) ∧
      (Cells.get 0 (t.core n).vec.tstat u.tag).toNat % 65536 = (Cells.get 0 c.vec.tstat u.tag).toNat % 64 ||| u.flags.toNat ∧
      (Cells.get 0 (t.core n).vec.tstat u.tag).toNat / 65536 = min 65535 ((Cells.get 0 c.vec.tstat u.tag).toNat / 65536 % 65536 + u.count))) ∧
    (∀ q, Completes (.ptsIdleAdvance n q) s (s.CoreBecomes n (c.setPts q (c.ptsOf q + 1)))) ∧
    (∀ e q r c1, (c.eng e).outer = none → (c.eng e).queue = q :: r → q.kind = .halt →
        c.retired = false → (e = .c → c.arr.loader = none ∧ ∀ y ∈ s.reqs, y.2.core = n → y.2.e = .c → y.2.pushes = [] ∧ ∀ k, y.2.kind ≠ .get k) →
        c1 = c.updEng e (fun x => { x with queue := r, stat := .retired }) →
      (c1.retired = false → Completes (.engineRetire n e) s (s.CoreBecomes n c1)) ∧
      (c1.retired = true → Completes (.engineRetire n e) s (fun t =>
        (∀ m, t.core m = if m = n then { c1 with
          pips := [], tokens := [], gen := s.nextId, readyAt := s.fresh, arr := { c1.arr with inflight := [], outbuf := [] } } else s.core m) ∧
        ∀ l, t.byteAt l = s.byteAt l))) ∧
    (∀ w, c.user.stat = .running → ({ s with turn := .seq n .s } : State).fetchAt c.user.pc = .ok w → w.extractLsb' 29 3 = 0 →
      w.extractLsb' 23 6 = 0x10 ∨ w.extractLsb' 23 6 = 0x11 → w.extractLsb' 20 3 ≠ 0 → (∀ x, c.user.split = some x → x.at_ ≠ c.user.pc) →
      Completes (.branchResolve n) s (s.CoreBecomes n { c with user := { c.user with
        split := some ⟨c.user.pc, c.user.getP (w.extractLsb' 20 3) != (w.extractLsb' 19 1 == 1)⟩ } })) ∧
    (∀ e w d, c.user.stat = .running → c.engTrap = none → c.team.team = none → c.user.pend = none → c.user.pfx = .none →
      ({ s with turn := .seq n .s } : State).fetchAt c.user.pc = .ok w → ({ s with turn := .seq n .s } : State).eccWord w = none →
      ({ s with turn := .seq n .s } : State).fetchHeld = false →
      destOf w = some e → w.extractLsb' 29 3 ≠ 7 →
      decodeWord w = .ok d → d.legal = true → (c.cap e).outer = 0 → (c.eng e).queue.length < 64 →
      Completes (.splitterSteer n) s (fun t =>
        (t.core n).eng e = { c.eng e with
          queue := (c.eng e).queue ++ [⟨.word, w, c.user.pc, (c.user.pc - c.team.header - 4) >>> 2, c.floor, (c.eng e).steered, c.team.beat⟩],
          steered := (c.eng e).steered + 1 } ∧
        (t.core n).user = c.user.goto (c.user.pc + 4) ∧ (∀ m, m ≠ n → t.core m = s.core m) ∧ ∀ l, t.byteAt l = s.byteAt l))

/-- The steps of accesses on their way (R100, R102, R108, R293, R294). -/
def SystemSpaceStepsHold : Prop :=
  ∀ (s : State) (n i : Nat),
    (∀ b, b ∈ (s.core n).comb → Completes (.combiningBufferTimeout n (b.loc.key / 64)) s (fun t =>
      (∀ m, t.core m = if m = n then { s.core n with
        comb := (s.core n).comb.filter fun x => x.loc.key / 64 != b.loc.key / 64 } else s.core m) ∧
      ∀ l, t.byteAt l = s.byteAt l)) ∧
    (∀ c o l bs, Cells.find? s.sys i = some (.store c o l bs) → s.sysBehind i c l bs.length = false → s.hostHeld c l = false →
      Completes (.rootComplexAck i) s (fun t =>
        t.sys = Cells.del s.sys i ∧ t.cores = s.cores ∧ t.natAt l bs.length = natOf bs ∧
        ∀ p, (∀ j, j < bs.length → p.key ≠ (l.plus j).key) → t.byteAt p = s.byteAt p)) ∧
    (∀ c h ps own gd sg kp aq v, Cells.find? s.sys i = some (.load c h ps own gd sg kp aq) →
      (∀ p ∈ ps, s.hostHeld c p.1 = false) → v = (s.readParts kp own ps).2 →
      Completes (.hostReadCompletion i) s (fun t =>
        t.sys = Cells.del s.sys i ∧ (∀ l, t.byteAt l = s.byteAt l) ∧ (∀ m, m ≠ c → t.core m = s.core m) ∧
        ((t.core c).ctx h).getG gd = (if gd = 0 then 0 else
          if sg then sextTo (8 * ps.foldl (fun a p => a + p.2.2) 0) (BitVec.ofNat 64 v) else BitVec.ofNat 64 v) ∧
        ∀ r, r ≠ gd → ((t.core c).ctx h).getG r = ((s.core c).ctx h).getG r)) ∧
    (∀ r cls fill, Cells.find? s.reqs i = some r → r.kind = .line cls fill → s.reqTurn r = true → Completes (.homeLoad i) s (fun t =>
      Cells.find? t.reqs i = none ∧ t.cores = s.cores ∧ s.SameBytes t ∧
      ∀ a, r.loc = .pkg a → ∃ y, Cells.find? t.attrs (a / 128) = some y ∧ y.cls = cls))

end Sys2Proof.Machine

/-- The steps in which a core goes on without executing a word, and those of memory operations on their way (R7, R23, R26, R65, R157, R165, R169, R102, R108, R292, R293, R294). -/
def Obligations.CoreAndSystemSpaceSteps : Prop := CoreStepsHold ∧ SystemSpaceStepsHold

namespace Sys2Proof.Machine

/-- The status of S when an engine trap stops it (R355). -/
def SStat.engineTrapped : SStat → SStat
  | .running => .trapped none
  | .waiting w => .trapped (some w)
  | x => x

/-- The status of S when it goes on after a trap. -/
def SStat.goesOn : SStat → SStat
  | .trapped (some w) => .waiting w
  | .trapped none => .running
  | x => x

/-- PIPDEAD of a core is due: every sequencer is stuck, and nothing outstanding could free one (R14). -/
def State.PipDead (s : State) (n : Nat) (c : Core) : Prop :=
  (c.sBlocked = true ∨ ∃ p, c.user.stat = .retired p) ∧ (∀ d, c.eStuck (s.latePush n) d = true) ∧ c.retired = false ∧
  s.coreBusy n = false ∧ c.engTrap = none ∧ c.surrogate = false

/-- The steps of traps, Husk and the guard (R14, R242, R307, R308, R355, R357, R383). DESIGN CHOICE: where the code of Husk stands (log
entry 17), the bits of PIPDEAD (92), when Husk asks for a preemption (133). DEDUCED: the return into a wait (138). -/
def TrapStepsHold : Prop :=
  ∀ (s a : State) (n : Nat) (c : Core), c = s.core n → a = { s with turn := .seq n .s } →
    (∀ x, c.engTrap = some x → x.entered = false → x.flt.cause ≠ 0x0B → (∀ w, c.user.stat ≠ .stopped w) → Completes (.engineTrapEntry n) s (fun t =>
      t.core n = { c.endPair with
        husk := (t.core n).husk, trap := (t.core n).trap, engTrap := some { x with entered := true },
        user := { c.user with stat := c.user.stat.engineTrapped } } ∧
      (t.core n).trap.Holds c.trap x.flt.cause x.at_ x.flt.addr x.flt.info ∧ (t.core n).husk.stat = .running ∧
      (∀ m, m ≠ n → t.core m = s.core m) ∧ ∀ l, ¬ a.InRingSlot l → t.byteAt l = s.byteAt l)) ∧
    (∀ pc x w, c.engTrap = some x → x.entered = true → x.replayable = true ∨ x.flt.cause = 0x04 → c.user.stat = .trapped w →
      Completes (.huskResume n pc) s (s.CoreBecomes n { c with
        engTrap := none, user := { c.user with stat := c.user.stat.goesOn } })) ∧
    (∀ w, c.engTrap = none → c.user.stat = .trapped w →
      (c.trap.vec ≠ 0 → c.handler = false → c.capturing = false → c.trap.cause ≠ 0x0B → Completes (.huskResume n c.trap.vec) s
        (s.CoreBecomes n { c with handler := true, user := { c.user.goto c.trap.vec with expired := none } })) ∧
      (c.capturing = true ∧ c.trap.cause ≠ 0x04 ∨ c.trap.cause = 0x0B → Completes (.huskResume n c.trap.vec) s (s.CoreBecomes n c)) ∧
      (∀ pc, pc ≠ c.trap.vec → c.trap.cause = 0x04 → Completes (.huskResume n pc) s
        (s.CoreBecomes n { c with user := { c.user with stat := c.user.stat.goesOn } }))) ∧
    (∀ l cause x, s.endCause n = some (l, cause) → Cells.find? s.launches l = some x → Completes (.huskEndLaunch n) s (fun t =>
      (∃ y, Cells.find? t.launches l = some y ∧ y.state = .draining ∧ y.status = (if x.status = 0 then cause else x.status) ∧
        y.handed = x.total) ∧
      (∀ g y, Cells.find? t.gangs g = some y → y.launch = l → y.state = .saving ∧ y.discard = true) ∧ ∀ p, t.byteAt p = s.byteAt p)) ∧
    (c.binding = none ∨ Config.choice s.fresh 644 n = false →
      Completes (.huskTimerExpiry n) s (fun t => ∃ h, h &&& 3 = 0 ∧ s.CoreBecomes n { c.endPair with husk := c.endPair.husk.goto h } t)) ∧
    (∀ b g, c.binding = some b → Config.choice s.fresh 644 n = true → Cells.find? s.gangs b.gang = some g → g.state = .bound →
      (∀ m ∈ g.members, (s.core m).surrogate = false) → Completes (.huskTimerExpiry n) s (fun t =>
        Cells.find? t.gangs b.gang = some { g with state := .saving, saved := [] } ∧
        (∀ m ∈ s.membersOf g, (t.core m).trap.cause = 0x14 ∧ (t.core m).husk.stat = .running ∧ (t.core m).user.stat ≠ .running ∧
          (t.core m).ls = (s.core m).ls ∧ ∀ r, (t.core m).user.getG r = (s.core m).user.getG r) ∧
        ∀ m, m ∉ s.membersOf g → t.core m = s.core m)) ∧
    (∀ p q, s.partOf n = some p → Cells.find? s.parts p = some q → Completes (.huskFailure n) s (fun t =>
      (∃ r, Cells.find? t.parts p = some r ∧ r.stopped = true) ∧
      (∀ l x, Cells.find? s.launches l = some x → x.part = p → x.state ≠ .complete →
        ∃ y, Cells.find? t.launches l = some y ∧ y.state = .draining) ∧
      ∀ l, ¬ a.InRingSlot l → t.byteAt l = s.byteAt l)) ∧
    (∀ f, a.waitFault = some f → c.surrogate = false → Completes (.waitTimeout n .s) s (fun t =>
      (∃ u, a.Trapped f.cause a.aAddr f.addr f.info u ∧ t = { u with turn := s.turn }) ∧
      ∀ w, a.HandlerTakes f.cause → c.user.stat = .waiting w → (t.core n).user.expired = some ⟨a.aAddr, c.user.pc, c.user.pend, w⟩)) ∧
    (∀ (r : BitVec 5) (pr : BitVec 3) e, s.InUser → s.Plain → s.p pr = true → s.cur.handler = true → (s.g r).toNat % 4 = 0 →
      s.ctx.expired = some e → e.word = s.g r → Completes (.eret r pr) s (fun t =>
        s.OnlyCore t ∧ s.SameG t ∧ s.SameP t ∧ t.cur = { s.cur with user := t.cur.user, handler := false } ∧
        t.pc = e.pc ∧ t.ctx.pend = e.pend ∧ t.ctx.stat = .waiting e.wait)) ∧
    (∀ f, ({ s with turn := .seq n .c } : State).recvFault = some f → c.surrogate = false → c.engTrap = none →
      Completes (.waitTimeout n .c) s (fun t => ∃ x, s.CoreBecomes n { c with engTrap := some x } t ∧ x.e = .c ∧
        x.flt = f ∧ f.cause = 0x0C ∧ x.entered = false ∧ x.replayable = false)) ∧
    (s.PipDead n c →
      (∀ e, [Eng.c, Eng.l, Eng.t].find? (fun d => c.eBlocked (s.latePush n) d) = some e → Completes (.pipdeadDetect n) s (fun t =>
        ∃ x, s.CoreBecomes n { c with engTrap := some x } t ∧ x.e = e ∧
          x.flt = ⟨0x0A, 0, BitVec.ofNat 64 (c.deadInfo (s.latePush n))⟩ ∧ x.entered = false ∧ x.replayable = false)) ∧
      ((∀ e, c.eBlocked (s.latePush n) e = false) → Completes (.pipdeadDetect n) s (fun t =>
        ∃ u, a.Trapped 0x0A a.aAddr 0 (BitVec.ofNat 64 (c.deadInfo (s.latePush n))) u ∧ t = { u with turn := s.turn }))) ∧
    (∀ g i, Cells.find? s.gangs i = some g → g.decision = none → g.members.length ≤ g.guardAt.length →
      Completes (.guardDecision i) s (fun t =>
        (∀ m ∈ g.members, (t.core m).guard = [] ∧ (t.core m).surrogate = false) ∧
        ((∀ m ∈ g.members, (s.core m).guardOk = true ∧ (s.core m).raceMode.getLsbD 0 = false) →
          (∃ h, Cells.find? t.gangs i = some h ∧ h.decision = some 0 ∧ h.guardAt = []) ∧
          ∀ l, ¬ s.InRecords l → (∀ m ∈ g.members, ∀ x ∈ (s.core m).guard, x.1 ≠ l.key) → t.byteAt l = s.byteAt l))) ∧
    (∀ b g (reason : BitVec 8), c.surrogate = true → c.binding = some b → Cells.find? s.gangs b.gang = some g →
        (reason = 0x87 ∨ (reason = 0x0D ∧ c.errs ≠ [])) →
      Completes (.fallback n reason) s (fun t => ∀ m ∈ g.members,
        (t.core m).guard = [] ∧ (t.core m).surrogate = false ∧ (t.core m).tokens = []))

/-- Nothing of a core is on its way or half done (R362). -/
def State.Quiet (s : State) (n : Nat) : Prop :=
  (∀ e, ((s.core n).eng e).midWord = false) ∧ (∀ r ∈ s.reqs, r.2.core ≠ n) ∧ (∀ r ∈ s.aoseqs, r.2.core ≠ n) ∧
  (∀ o ∈ s.ops, o.2.tok.core = n → o.2.kind.counted = false) ∧
  (s.core n).arr.inflight = [] ∧ (s.core n).arr.loader = none ∧ (s.core n).vec.tupd = [] ∧
  ∀ y ∈ s.sys, (∀ o l bs, y.2 ≠ .store n o l bs) ∧ (∀ h ps d g x k q, y.2 ≠ .load n h ps d g x k q) ∧ y.2 ≠ .fence n

/-- A saved context in a core: what belongs to the core itself stays (R364). -/
def Core.restored (c y : Core) : Core :=
  { y with
    husk := c.husk, huskPts := c.huskPts, huskLine := c.huskLine, pairAct := c.pairAct, issued := c.issued, tlb := c.tlb, errs := c.errs,
    comb := c.comb }

/-- The first 2^20 bytes of a core's save area hold its LS (Table 19.8); the premises are those of every state that meets the invariant. -/
def State.LsSaved (s : State) (n : Nat) (t : State) : Prop :=
  Memory.wf (s.core n).saved.ls = true → Memory.wf s.save = true →
    ∀ i, i < 0x100000 → Memory.read t.save (0x240000 * n + i) = (s.core n).saved.lsRead i

/-- Preemption (R241, R361 to R364). DESIGN CHOICE: the save area (log entries 48 and 131). -/
def PreemptionStepsHold : Prop :=
  ∀ (s : State) (n : Nat) (c : Core) (b : Binding) (g : Gang), c = s.core n → c.binding = some b → Cells.find? s.gangs b.gang = some g →
    (c.blockedWaiter = true → Completes (.gangPreemptible n) s (fun t =>
      t = { s with gangs := Cells.put s.gangs b.gang { g with preemptible := true } })) ∧
    (g.state = .saving → g.saved.contains n = false → s.Quiet n → g.discard = true →
      (∀ m ∈ s.membersOf g, m = n ∨ g.saved.contains m = true) → Completes (.contextSaveComplete n) s (fun t =>
        Cells.find? t.gangs b.gang = none ∧ t.save = s.save ∧
        (∀ m ∈ s.membersOf g, (s.core m).binding.map (fun x => x.gang) = some b.gang → (t.core m).binding = none ∧ (t.core m).tokens = []) ∧
        (∀ m, m ∉ s.membersOf g → t.core m = s.core m) ∧ ∀ l, t.byteAt l = s.byteAt l)) ∧
    (g.state = .saving → g.saved.contains n = false → s.Quiet n → s.inFlight g = false → g.discard = false →
      ((∃ m ∈ s.membersOf g, m ≠ n ∧ g.saved.contains m = false) → Completes (.contextSaveComplete n) s (fun t =>
        t = { s with gangs := Cells.put s.gangs b.gang { g with saved := g.saved ++ [n] }, save := t.save } ∧ s.LsSaved n t)) ∧
      ((∀ m ∈ s.membersOf g, m = n ∨ g.saved.contains m = true) → Completes (.contextSaveComplete n) s (fun t =>
        Cells.find? t.gangs b.gang = some { g with
          state := .saved, saved := [], preemptible := false, ctxs := (s.membersOf g).map fun m => (m, (s.core m).saved) } ∧
        (∀ m ∈ s.membersOf g, (t.core m).binding = none ∧
          (t.core m).user.stat = (match (s.core m).user.stat with | .retired a => .retired a | _ => .unbound) ∧ (t.core m).tokens = [] ∧
          (t.core m).ls = (s.core m).ls) ∧
        (∀ m, m ∉ s.membersOf g → t.core m = s.core m) ∧ s.LsSaved n t ∧ ∀ l, t.byteAt l = s.byteAt l))) ∧
    (∀ y, g.state = .restoring → g.saved.contains n = false → Cells.find? g.ctxs n = some y →
      ((∃ m ∈ s.membersOf g, m ≠ n ∧ g.saved.contains m = false) → Completes (.contextRestoreComplete n) s (fun t =>
        t.core n = c.restored y ∧ (∀ m, m ≠ n → t.core m = s.core m) ∧
        Cells.find? t.gangs b.gang = some { g with saved := g.saved ++ [n], ctxs := Cells.del g.ctxs n } ∧
        ∀ l, t.byteAt l = s.byteAt l)) ∧
      ((∀ m ∈ s.membersOf g, m = n ∨ g.saved.contains m = true) → Completes (.contextRestoreComplete n) s (fun t =>
        t.core n = { c.restored y with user := (t.core n).user } ∧ (t.core n).user.pc = y.user.pc ∧
        Cells.find? t.gangs b.gang = some { g with state := .bound, saved := [], ctxs := Cells.del g.ctxs n } ∧
        ∀ l, t.byteAt l = s.byteAt l)))

end Sys2Proof.Machine

/-- The steps of traps, of Husk, of timeouts, of the guard and of preemption (R14, R242, R307, R308, R355, R357, R383, R241, R361, R362, R363, R364). -/
def Obligations.TrapAndPreemptionSteps : Prop := TrapStepsHold ∧ PreemptionStepsHold

namespace Sys2Proof.Machine

/-- Operation `i` is over: it has left the table, and its token, if its iteration has not retired and no join waits, has come
to `v` (R25, R187). -/
def State.OpEnds (s : State) (i : Nat) (o : AOp) (v : Tok) (t : State) : Prop :=
  Cells.find? t.ops i = none ∧
  (s.NoJoins → o.tok.k ≠ 63 → (s.core o.tok.core).gen = o.tok.gen →
    (t.core o.tok.core).tok o.tok.k = v)

/-- The place of byte `j` of the bytes that stand in some parts, one after the other. -/
def byteOf : List (Loc × Nat × Nat) → Nat → Option Loc
  | [], _ => none
  | p :: r, j => if j < p.2.2 then some (p.1.plus j) else byteOf r (j - p.2.2)

/-- The parts name no byte twice. -/
def PartsApart (ps : List (Loc × Nat × Nat)) : Prop := ∀ j k p q, byteOf ps j = some p → byteOf ps k = some q → p.key = q.key → j = k

/-- Of the bytes of memory only those of some parts may differ from those of `s`, and each of them is the byte at the same place in the
parts that it comes from. -/
def State.BytesMoved (s : State) (from_ to_ : List (Loc × Nat × Nat)) (t : State) : Prop :=
  (∀ j p q, byteOf to_ j = some p → byteOf from_ j = some q → t.byteAt p = s.byteAt q) ∧
  ∀ l, (∀ j p, byteOf to_ j = some p → l.key ≠ p.key) → t.byteAt l = s.byteAt l

/-- Nothing stands between an operation and memory: no line is in a cache, no shadow record in the shared cache, its core checks for no
races, and it does not write to a guard buffer. -/
def State.Uncached (s : State) (o : AOp) : Prop :=
  s.copies = [] ∧ s.devCopies = [] ∧ (∀ x ∈ s.attrs, x.2.shadowAt = none) ∧ (s.core o.tok.core).raceMode = 0 ∧ o.buffered = false

end Sys2Proof.Machine

/-- The steps of operations (R187 to R209, R272, R280). DEDUCED: the order of window words (log entry 44). DESIGN CHOICE: the order in
the round of a copy engine (15). -/
def Obligations.OperationSteps : Prop :=
  ∀ (s : State) (i : Nat),
    (∀ o, Cells.find? s.ops i = some o →
      (∀ g s1 ts, (∃ a b r, o.kind = .copy a b r) ∨ (∃ a b r, o.kind = .copyl a b r) → o.stat = .running → s.nextGranule o = some g →
        s.granule i o g = .ok s1 ts → Completes (.homeWritePerform i) s (fun t =>
          t = s1.updOp i fun x => { x with done := x.done ++ [g], maxTs := wmax x.maxTs ts })) ∧
      (∀ g d a k l p, (∃ a b r, o.kind = .copy a b r) ∨ (∃ a b r, o.kind = .copyl a b r) → o.stat = .running → s.nextGranule o = some g →
        g < readKey → runsOf (o.moves.filter fun m => m.1 / 32 == g) = [(d, a, k)] → s.Uncached o →
        s.check o.who .write (BitVec.ofNat 64 d) = .ok l → s.check o.who .read (BitVec.ofNat 64 a) = .ok p →
        l.isSystem = false → p.isSystem = false → Completes (.homeWritePerform i) s (s.BytesMoved [(p, a, k)] [(l, d, k)])) ∧
      (∀ a b r, o.kind = .copyl a b r → o.stat = .running → (∀ g ∈ o.granules, g ∈ o.done) → o.race = none → s.opSysPending i = false →
        Completes (.copyComplete i) s (fun t => s.OpEnds i o (.done o.maxTs) t ∧ (s.NoJoins → ∀ l, t.byteAt l = s.byteAt l))) ∧
      (∀ a ctl s1 v ts l, o.kind = .tpref a ctl → s.opRecord i o a = .ok (s1, v, ts) → parseLayout v = some l →
        (s.core o.tok.core).raceMode = 0 →
        Completes (.tprefComplete i) s (fun t => s.OpEnds i o (.done o.base) t ∧ (s.NoJoins → s.SameBytes t))) ∧
      (∀ a b n get, o.kind.fabric = some (a, b, n, get) →
        (∀ m, o.stat = .running → 4096 * m < n → m ∉ o.done → Cells.get 0 o.fails m % 2 = 0 →
          Completes (.fabricMessageArrival i m false) s (fun t => t = { s with
            ops := Cells.put s.ops i { o with fails := Cells.put o.fails m (Cells.get 0 o.fails m + 1) } }) ∧
          (∀ ls oks, get = false → (s.core o.tok.core).raceMode = 0 →
            s.peerParts o .write (b + BitVec.ofNat 64 (4096 * m)) (min 4096 (n - 4096 * m)) m = .ok ls →
            s.plan o.who .read (granules (a + BitVec.ofNat 64 (4096 * m)) (min 4096 (n - 4096 * m))) = (oks, none) →
            Completes (.fabricMessageArrival i m true) s (fun t =>
              (∃ ts, Cells.find? t.ops i = some { o with done := o.done ++ [m], maxTs := ts }) ∧
              (s.Uncached o → (∀ p ∈ oks, p.1.isSystem = false) → PartsApart ls → s.BytesMoved oks ls t))) ∧
          (∀ ls oks, get = true → (s.core o.tok.core).raceMode = 0 →
            s.peerParts o .read (a + BitVec.ofNat 64 (4096 * m)) (min 4096 (n - 4096 * m)) m = .ok ls →
            s.plan o.who .write (granules (b + BitVec.ofNat 64 (4096 * m)) (min 4096 (n - 4096 * m))) = (oks, none) →
            Completes (.fabricMessageArrival i m true) s (fun t =>
              (∃ ts, Cells.find? t.ops i = some { o with done := o.done ++ [m], maxTs := ts }) ∧
              (s.Uncached o → (∀ p ∈ oks, p.1.isSystem = false) → PartsApart oks → s.BytesMoved ls oks t)))) ∧
        (∀ m, Cells.get 0 o.fails m % 2 = 1 →
          (Cells.get 0 o.fails m < 17 → Completes (.fabricMessageResend i m) s (fun t => t = { s with
            ops := Cells.put s.ops i { o with fails := Cells.put o.fails m (Cells.get 0 o.fails m + 1) } })) ∧
          (17 ≤ Cells.get 0 o.fails m → Completes (.fabricMessageResend i m) s (fun t =>
            s.OpEnds i o (.failed ⟨0x0F, (if get then a else b) + BitVec.ofNat 64 (4096 * m), BitVec.ofNat 64 m⟩) t ∧
            (s.NoJoins → ∀ l, ¬ s.InRings l → t.byteAt l = s.byteAt l)))) ∧
        (∀ l, s.peerParts o (if get then .read else .write) (if get then a else b) 1 0 = .ok l → o.stat = .running → o.race = none →
          (∀ m, m < (n + 4095) / 4096 → m ∈ o.done) →
          s.opSysPending i = false → Completes (.fabricOpComplete i) s (fun t =>
            s.OpEnds i o (.done o.maxTs) t ∧ (s.NoJoins → ∀ l, t.byteAt l = s.byteAt l)))) ∧
      (∀ g b f ph rel ts w, o.kind = .barrier g b f ph rel ts w → Cells.find? s.sys i = none → s.peerPending o.tok.core i = false →
        Completes (.flushMarkerGather i) s (fun t => t = { s with
          ops := Cells.put s.ops i { o with kind := .barrier g b f ph rel ts true } })) ∧
      (∀ ix arg l w, o.kind = .window 2 ix (some arg) → Cells.find? s.launches o.launch = some l → l.windows[ix.toNat]? = some w →
        w.flags.getLsbD 0 = true → (w.owner.getD (arg.toNat / 65536) 0).toNat / 4096 = 0 → s.windowBehind i o = false →
        Completes (.windowWordPerform i) s (fun t =>
          s.OpEnds i o (.done o.base) t ∧ (s.NoJoins → ∀ l, t.byteAt l = s.byteAt l) ∧ ∃ l', Cells.find? t.launches o.launch = some l' ∧
            l'.windows = l.windows.set ix.toNat { w with owner := w.owner.set (arg.toNat / 65536) (arg.setWidth 16) })) ∧
      (∀ ix l w s1, o.kind = .window 0 ix none → Cells.find? s.launches o.launch = some l → l.windows[ix.toNat]? = some w →
        w.flags.getLsbD 0 = true → w.flags.getLsbD 1 = false → l.pinUse.toNat + (w.limit - w.base).toNat ≤ l.pinLim.toNat →
        s.windowBehind i o = false → o.done = [] →
        s.pinWindow o.tok.core l.windows w (.launch o.launch ix.toNat) (s.shadowHome o.who) = some s1 → Completes (.windowWordPerform i) s (fun t =>
          s.OpEnds i o (.done o.base) t ∧ t.attrs = s1.attrs ∧ ((s.core o.tok.core).raceMode = 0 → s.NoJoins → s.SameBytes t) ∧
          ∃ l', Cells.find? t.launches o.launch = some l' ∧
            l'.pinUse = l.pinUse + (w.limit - w.base) ∧
            l'.windows = l.windows.set ix.toNat { w with flags := w.flags ||| 2, pinnedBy := 2 }))) ∧
    (∀ c, Cells.find? s.sys i = some (.fence c) → s.peerPending c i = false → Completes (.flushMarkerGather i) s (fun t => t = { s with sys := Cells.del s.sys i })) ∧
    (∀ j o a b n, roundRobin s (s.pod i).served (firstOfCores s [] (s.pod i).queue) = some j → Cells.find? s.ops j = some o →
      o.kind = .copyl a b n → s.blockTurn i = false →
      Completes (.copyEngineStart i) s (fun t =>
        (t.pod i).queue = (s.pod i).queue.filter (fun k => k != j) ∧ (t.pod i).served = o.tok.core % 8 ∧
        Cells.find? t.ops j = some { o with stat := .running } ∧ t.cores = s.cores ∧ ∀ l, t.byteAt l = s.byteAt l)) ∧
    (∀ e p x (k : Nat) (ts : Word), Cells.find? s.parts i = some p → x = Cells.get ⟨0, Barrier.reset, []⟩ p.fbars e → fbValid x.entry = true →
      (fbMaster x.entry = true → x.bar.n = 0 ∨ x.bar.count < x.bar.n → Completes (.fabricBarrierPacket i e k ts) s (fun t =>
        (t.fbar i e).bar = { x.bar with count := x.bar.count + 1, n := fbCount x.entry, ts := wmax x.bar.ts ts } ∧
        (t.fbar i e).entry = x.entry ∧ t.cores = s.cores ∧ ∀ l, t.byteAt l = s.byteAt l)) ∧
      (fbMaster x.entry = false → x.bar.phase = k → s.unsent ⟨i, 64 + e⟩ = false → x.bar.collx = [] →
        s.NoJoins → Completes (.fabricBarrierCompletion i e k ts) s (fun t =>
          (t.fbar i e).bar.phase = k + 1 ∧ (t.fbar i e).bar.count = 0 ∧ (t.fbar i e).entry = x.entry ∧
          (∀ r ∈ x.bar.toks, r.k ≠ 63 → (s.core r.core).gen = r.gen → (t.core r.core).tok r.k = .done (wmax x.bar.ts ts)) ∧
          ∀ l, t.byteAt l = s.byteAt l))) ∧
    (∀ g r, Cells.find? s.gangs i = some g → g.round = some r → r.converting = true →
      (∀ tm x, g.team = some tm → Cells.find? s.teams tm = some x → x.msgs = []) → (∀ m ∈ g.members, (s.core m).surrogate = false) →
      Completes (.bankDrainComplete i) s (fun t =>
        (∃ h, Cells.find? t.gangs i = some h ∧ h.round = none) ∧ (∀ m ∈ g.members, (t.pod (podOf m)).changing = none) ∧
        (s.NoJoins → ∀ l, t.byteAt l = s.byteAt l)))

namespace Sys2Proof.Machine

/-- Nothing of an object is held, asked or logged any more (R325). -/
def State.ObjFailed (i : Nat) (t : State) : Prop :=
  ∃ y, Cells.find? t.objs i = some y ∧ y.held = [] ∧ y.queries = [] ∧ y.logged = [] ∧ y.dead = true ∧ t.answering y = []

end Sys2Proof.Machine

/-- The steps of objects (R318 to R325). DEDUCED: a trim of an object that has failed is done (log entry 142). -/
def Obligations.ObjectSteps : Prop :=
  ∀ (s : State) (i : Nat),
    (∀ o l va, Cells.find? s.ops i = some o → o.stat = .queued → Cells.find? s.launches o.launch = some l →
        (∀ y ∈ s.ops, y.1 < i → y.2.tok.core ≠ o.tok.core) →
      (∀ m b q vals, o.kind = .call va m b q vals → s.objectAt l.part va = none →
        Completes (.objectCallLog i) s (s.OpEnds i o (.failed ⟨0x01, 0, 0⟩))) ∧
      (∀ k x r u, s.objectAt l.part va = some (k, x) → s.objRecord x = some r → u = s.objTouch x x.record.toNat 128 false →
        (∀ m b q vals, o.kind = .call va m b q vals →
          (∀ md, u.objMethod x r m.toNat = some md → (q = true → md.ro = true) → x.dead = true ∨ r.failed = true →
            Completes (.objectCallLog i) s (s.OpEnds i o (.failed ⟨0x0E, x.record, BitVec.ofNat 64 r.tail⟩))) ∧
          (∀ md, u.objMethod x r m.toNat = some md → q = true → md.ro = false →
            Completes (.objectCallLog i) s (s.OpEnds i o (.failed ⟨0x01, 0, 0⟩))) ∧
          (u.objMethod x r m.toNat = none → u.methodBroken x r m.toNat = false →
            Completes (.objectCallLog i) s (s.OpEnds i o (.failed ⟨0x01, 0, 0⟩)))) ∧
        (o.kind = .trim va → x.held = [] → s.objRefused x (x.record.toNat + 104) = none →
          Completes (.objectCallLog i) s (fun t => ∃ ts, s.OpEnds i o (.done ts) t)) ∧
        (∀ m b vals md, o.kind = .call va m b false vals → u.objMethod x r m.toNat = some md → r.failed = false → x.dead = false →
          x.held = [] → r.tail - r.trimmed < r.capacity → Cells.find? s.objs k = some x →
          u.objBroken x (r.log + 64 * (r.tail % r.capacity)) 64 = false →
          s.objRefused x (x.record.toNat + 64) = none → s.objRefused x (r.log + 64 * (r.tail % r.capacity)) = none →
          Completes (.objectCallLog i) s (fun t =>
            (∃ y, Cells.find? t.objs k = some y ∧ y.logged = Cells.put x.logged r.tail i ∧ y.held = []) ∧
            ∃ ts, Cells.find? t.ops i = some { o with stat := .running, maxTs := ts })))) ∧
    (∀ o k x m b va q vals, List.find? (fun (y : Nat × Obj) => y.2.held.contains i) s.objs = some (k, x) → Cells.find? s.ops i = some o →
      o.kind = .call va m b q vals → Completes (.heldCallTimeout i) s (fun t =>
        s.OpEnds i o (.failed ⟨0x0C, x.record, m⟩) t ∧ ∀ y, Cells.find? s.objs k = some y →
          ∃ z, Cells.find? t.objs k = some z ∧ z.held = y.held.filter fun j => j != i)) ∧
    (∀ die x r e s1, Cells.find? s.objs i = some x → s.objRecord x = some r → die < 4 → s.nextObject die = some i →
        s.engineInRun die = false → s.objRead x (r.log + 64 * (r.applied.getD die 0 % r.capacity)) 64 = .ok e →
        s1 = ((s.objTouch x x.record.toNat 128 false).objTouch x (r.log + 64 * (r.applied.getD die 0 % r.capacity)) 64 false).updDie die (fun d => { d with replayTs := wmax d.replayTs (Cells.get 0 x.entryTs (r.applied.getD die 0)), served := i }) →
      (s1.objMethod x r (fieldAt e 8 1) = none → Completes (.replayApplyEntry die i) s (State.ObjFailed i)) ∧
      (∀ md y, s1.objMethod x r (fieldAt e 8 1) = some md →
        y = s1.runMethod x r md die md.ro ((List.range 6).map fun j => BitVec.ofNat 64 (fieldAt e (16 + 8 * j) 8)) →
        y.status ≠ 0x0D → Completes (.replayApplyEntry die i) s (fun t =>
          t = y.state.applied die i x (r.applied.getD die 0) y))) ∧
    (∀ o k x q r m b va vals s1, Cells.find? s.ops i = some o →
        List.find? (fun (y : Nat × Obj) => y.2.queries.any fun z => z.1 == i) s.objs = some (k, x) →
        List.find? (fun (z : Nat × Nat) => z.1 == i) x.queries = some q → s.objRecord x = some r →
        q.2 ≤ r.applied.getD (dieOf o.tok.core) 0 → s.engineInRun (dieOf o.tok.core) = false → o.kind = .call va m b true vals →
        s1 = (s.updDie (dieOf o.tok.core) fun d => { d with replayTs := wmax d.replayTs o.base }).updObj k
          (fun z => { z with queries := z.queries.filter fun w => w.1 != i }) →
      ∀ md y, s1.objMethod x r m.toNat = some md → y = s1.runMethod x r md (dieOf o.tok.core) true vals → y.status ≠ 0x0D →
        Completes (.replayQueryRun i) s (fun t => t = y.state.answer i (dieOf o.tok.core) y)) ∧
    (∀ x a b c d, Cells.find? s.objs i = some x → (Cells.get [] x.posted 0).head? = some a → (Cells.get [] x.posted 1).head? = some b →
        (Cells.get [] x.posted 2).head? = some c → (Cells.get [] x.posted 3).head? = some d →
      (a.2 = b.2 → a.2 = c.2 → a.2 = d.2 → Completes (.replicaCrcCompare i) s (fun t => ∃ p,
        t = { s with objs := Cells.put s.objs i { x with posted := p } } ∧
        ∀ n, Cells.get [] p n = if n < 4 then (Cells.get [] x.posted n).tail else Cells.get [] x.posted n)) ∧
      (¬ (a.2 = b.2 ∧ a.2 = c.2 ∧ a.2 = d.2) → Completes (.replicaCrcCompare i) s (State.ObjFailed i)))

namespace Sys2Proof.Machine

/-- Message `k` of a team has become `m`. -/
def TeamSt.setMsg (x : TeamSt) (k : Nat) (m : Msg) : TeamSt := { x with msgs := x.msgs.set k m }

/-- The message of a block that has been read. -/
def Msg.readAs (m : Msg) (bytes : List Nat) : Msg := { m with payload := bytes, moved := true }

end Sys2Proof.Machine

/-- The steps of a team (R250 to R259). DEDUCED: a block is read before any of it is written (log entry 139). DESIGN CHOICE: one barrier
takes the arrivals of TSYNC and CHEND (127). -/
def Obligations.TeamSteps : Prop :=
  ∀ (s : State) (i : Nat) (x : TeamSt), Cells.find? s.teams i = some x →
    (∀ (beat : BitVec 32) h r g, Cells.find? s.gangs x.gang = some g → g.state = .bound → x.headers.filter (fun h => h.1 / 1024 % 2 ^ 32 == beat.toNat) = h :: r →
      (∃ k ∈ r, k.1 / 1024 = h.1 / 1024 ∧ k.2 ≠ h.2) → (∀ m ∈ x.members, (s.core m).surrogate = false) →
      Completes (.headerDivergence i beat) s (fun t => ∀ m ∈ x.members, (s.core m).team.team = some i → (∃ w, (t.core m).user.stat = .trapped w) ∧
        ((∀ w, (s.core m).user.stat ≠ .trapped w) → (t.core m).trap.cause = 0x0B))) ∧
    (∀ n a h b, a = { s with turn := .seq n .s } → a.ctx.stat = .waiting (.drift h b) → a.openTeam = some (i, x) →
        (∀ m ∈ x.members, Cells.get 0 x.reached n - (s.core n).team.bound.toNat ≤ Cells.get 0 x.reached m) →
      Completes (.driftStallRelease n) s (s.CoreBecomes n
        (if (s.core n).roleSet.setWidth 16 &&& (s.core n).team.mask = 0 then
          { s.core n with
            team := { (s.core n).team with left := 0 },
            user := (s.core n).user.goto ((s.core n).team.header + 4 * BitVec.ofNat 64 (1 + (s.core n).team.left)) }
         else { s.core n with user := (s.core n).user.goto ((s.core n).team.header + 4) }))) ∧
    (∀ k m, x.msgs[k]? = some m → m.moved = true → (∀ o ∈ x.msgs.take k, o.src = m.src → o.dst = m.dst → o.arrived = true) →
      Completes (.handoverMessageArrival i k) s (fun t =>
        t = { s with teams := Cells.put s.teams i (x.setMsg k { m with arrived := true }) })) ∧
    (∀ k m g l b, x.msgs[k]? = some m → Cells.find? s.gangs x.gang = some g → Cells.find? s.launches x.launch = some l →
        l.binder = some b → m.kind = 2 → m.stalled = false → m.placed = false → g.state = .bound →
      (∀ d, m.moved = false → m.sender < 256 → (m.payload = [] → s.blockTurn (podOf m.sender) = true) →
        d = (s.core m.sender).lsBytes (m.addr.toNat % 2 ^ 20) m.bytes →
        Completes (.handoverBlockMove i k) s (fun t =>
          t = { s with teams := Cells.put s.teams i (x.setMsg k (m.readAs d)), pods := t.pods } ∧
          ∀ p, t.pod p = if p = podOf m.sender then { s.pod p with served := 8 } else s.pod p)) ∧
      (∀ ro w, m.moved = true → m.arrived = true → b.roles[m.dst]? = some ro → holderOf g ro < 256 →
        (x.pair (BitVec.ofNat 4 m.src) (BitVec.ofNat 4 m.dst)).head? = some m →
        (s.core (holderOf g ro)).user.stat = .waiting (.recv w) → (s.core (holderOf g ro)).user.pc = m.at_ →
        (s.core (holderOf g ro)).team.beat = m.beat → Completes (.handoverBlockMove i k) s (fun t =>
          Cells.find? t.teams i = some { x.setMsg k { m with placed := true } with ts := if m.sender < 256 then x.ts else wmax x.ts m.ts } ∧
          (∀ n, t.core n = if n = holderOf g ro then (s.core n).lsPut
            ((Cells.get 0 (s.core n).team.cursors (2 * m.chan + 1)).toNat % 2 ^ 20) m.bytes
            (natOf (m.payload.map fun y => BitVec.ofNat 8 y)) else s.core n) ∧ ∀ p, t.byteAt p = s.byteAt p))) ∧
    ((∀ m ∈ x.members, m ∈ x.arrived ∧ (s.core m).user.stat = .waiting .teamBarrier) → x.members.Nodup → x.enders = [] ∨ x.msgs = [] →
      Completes (.teamBarrierComplete i) s (fun t =>
        Cells.find? t.teams i = some { x with arrived := [], enders := [], ts := 0 } ∧
        (∀ m ∈ x.members, m < 256 → t.core m = { s.core m with
          user := (s.core m).user.goto ((s.core m).user.pc + 4), pts := wmax (s.core m).pts x.ts, floor := wmax (s.core m).pts x.ts,
          team := (if m ∈ x.enders then { (s.core m).team with team := none } else (s.core m).team) }) ∧
        (∀ m ∈ x.members, 256 ≤ m → m ∈ x.enders → (t.core m).binding = none ∧ (t.core m).user.stat = .unbound) ∧
        (∀ m, m ∉ x.members → t.core m = s.core m) ∧ ∀ l, t.byteAt l = s.byteAt l))

namespace Sys2Proof.Machine

/-- Submission `x` heads what a die admits: nothing before it belongs to the die, and its partition does; its records can be read, and a
replay lets it in, or it is invalid (R226, R388, R397). -/
def State.AdmitsNext (s : State) (die : Nat) (x : Submission) (p : Part) (before after : List Submission) : Prop :=
  s.subs = before ++ x :: after ∧ Cells.find? s.parts x.part = some p ∧ p.homeDie = die ∧ s.readsHeld p x = false ∧
  (s.admitGo x.part x.key = true ∨ s.readLaunch p x = none) ∧
  ∀ y ∈ before, ∀ q, Cells.find? s.parts y.part = some q → q.homeDie ≠ die

/-- Every wait of a launch record holds (R233, R234). -/
def State.WaitsHold (s : State) (x : Launch) : Prop := ∀ w ∈ x.rec_.waits, w.2 ≤ (s.signal x.part w.1).val.toNat

/-- The slot of its die that a launch may take, with what the shares of the partitions leave (R238). -/
def State.slotFor (s : State) (x : Launch) : Option State :=
  s.slotGrant (((Cells.find? s.parts x.part).map fun p => p.homeDie).getD 0) x.part

end Sys2Proof.Machine

/-- The steps of launches (R225 to R239, R397). DESIGN CHOICE: a gang that stands released (log entry 101), PTS at the binding (37), when
a replay times out (11). -/
def Obligations.LaunchSteps : Prop :=
  ∀ (s : State) (i : Nat),
    (∀ x p before after, s.AdmitsNext i x p before after → x.invoke = none →
      (({ s with subs := before ++ after } : State).readLaunch p x = none → x.tok.k ≠ 63 → (s.core x.tok.core).gen = x.tok.gen →
        s.NoJoins → Completes (.launchAdmit i) s (fun t =>
          t.subs = before ++ after ∧ (t.core x.tok.core).tok x.tok.k = .failed ⟨0x01, 0, 0⟩)) ∧
      (∀ s1 y, ({ s with subs := before ++ after } : State).readLaunch p x = some (s1, y) → s.admitGo x.part x.key = true → y.rec_.kind ≠ 1 →
        Completes (.launchAdmit i) s (fun t => t.subs = before ++ after ∧
          (∃ q, Cells.find? t.parts x.part = some q ∧ q.nextNumber = p.nextNumber + 1) ∧
          ∃ id l, Cells.find? t.launches id = some l ∧ l.part = x.part ∧ l.number = p.nextNumber ∧ l.state = .queued ∧
            l.rec_ = { y.rec_ with queue := x.queue } ∧ l.nest = y.nest ∧ l.startTs = x.ts ∧ l.handed = 0 ∧ l.status = 0))) ∧
    (∀ x, Cells.find? s.launches i = some x →
      (x.state = .queued ∨ x.state = .waiting →
        (∀ y ∈ s.earlier i x, y.state = .complete ∨ (x.rec_.inOrder = false ∧ (y.state = .running ∨ y.state = .draining))) →
        (∀ s1, s.WaitsHold x → s.slotFor x = some s1 → Completes (.launchReady i) s (fun t => ∃ ts,
          t = { s1 with launches := Cells.put s.launches i { x with state := .ready, startTs := ts, doneTs := wmax x.doneTs ts } } ∧
          x.startTs.toNat ≤ ts.toNat ∧ (∀ w ∈ x.rec_.waits, (s.signal x.part w.1).wts.toNat ≤ ts.toNat) ∧
          (x.rec_.inOrder = true → ∀ y ∈ s.earlier i x, y.doneTs.toNat ≤ ts.toNat))) ∧
        (¬ s.WaitsHold x ∨ s.slotFor x = none → Completes (.launchReady i) s (fun t =>
          t = { s with launches := Cells.put s.launches i { x with state := .waiting } }))) ∧
      (x.state = .ready → Completes (.launchAging i) s (fun t =>
        t = { s with launches := Cells.put s.launches i { x with aged := true } })) ∧
      (∀ p, x.state = .draining → s.launchBusy i x = false → x.rec_.kind ≠ 1 → x.invoke = none → x.rec_.dones.Nodup →
        Cells.find? s.parts x.part = some p → Completes (.launchComplete i) s (fun t =>
          (∃ y, Cells.find? t.launches i = some y ∧ y.state = .complete ∧ y.doneTs = wmax x.doneTs x.startTs ∧ y.status = x.status) ∧
          (∀ k ∈ x.rec_.dones, (t.signal x.part k).val = (s.signal x.part k).val + 1) ∧
          (∀ k, k ∉ x.rec_.dones → t.signal x.part k = s.signal x.part k) ∧
          (x.status = 0 → x.tok.k ≠ 63 → (s.core x.tok.core).gen = x.tok.gen → s.NoJoins →
            (t.core x.tok.core).tok x.tok.k = .done (wmax x.doneTs x.startTs)))) ∧
      (s.recMode x.part = 2 → x.state = .running ∨ x.state = .draining → s.strayFadd i x.key = true →
        Completes (.replayArrivalTimeout i) s (fun t =>
          (∃ y, Cells.find? t.launches i = some y ∧ y.state = .draining ∧ y.status = if x.status = 0 then 0x0C else x.status) ∧
          (∀ r ∈ t.reqs, ∀ z v, r.2.kind = .red 9 z v → r.2.launch ≠ i) ∧ ∀ l, ¬ s.InRings l → t.byteAt l = s.byteAt l))) ∧
    (∀ g l, Cells.find? s.gangs i = some g → Cells.find? s.launches g.launch = some l → g.state = .bound → l.state = .running →
      (g.iter = none ∨ ∀ m ∈ g.members, (s.core m).retired = true) → l.binder = none → g.members.Nodup →
      s.notFirst i g l = false →
      (∀ n redo, l.next = some (n, redo) → Completes (.iterationStart i) s (fun t =>
        (∀ m, t.core m = if m ∈ g.members then (s.core m).startIteration l n redo s.nextId 0 else s.core m) ∧
        (∃ h, Cells.find? t.gangs i = some h ∧ h.iter = some n ∧ h.redoing = redo ∧ h.members = g.members) ∧
        (∃ y, Cells.find? t.launches g.launch = some y ∧ y.handed = (if redo then l.handed else l.handed + 1)) ∧
        ∀ p, t.byteAt p = s.byteAt p)) ∧
      (l.next = none → (∀ b ∈ g.barriers, b.2.open_ = false) →
        Completes (.iterationStart i) s (fun t => Cells.find? t.gangs i = none ∧
          ((∀ y ∈ s.gangs, y.2.launch = g.launch → y.1 = i) →
            ∃ y, Cells.find? t.launches g.launch = some y ∧ y.state = .draining))) ∧
      (l.next = none → (∃ b ∈ g.barriers, b.2.open_ = true) →
        Completes (.iterationStart i) s (fun t => ∃ h, Cells.find? t.gangs i = some h ∧ h.state = .released ∧ h.members = [] ∧
          h.barriers = g.barriers))) ∧
    (∀ p id l members, s.parts = [(i, p)] → s.launches = [(id, l)] → s.gangs = [] → p.claim = none → l.part = i → l.state = .ready →
      l.rec_.queue < 64 → l.unstarted = 1 → s.placeWithout p l [] = some members → members.Nodup → Completes (.schedulerTick p.homeDie) s
        (fun t => (∃ y, Cells.find? t.launches id = some y ∧ y.state = .running) ∧
          (∃ g, Cells.find? t.gangs s.nextId = some g ∧ g.members = members ∧ g.launch = id ∧ g.state = .bound ∧ g.iter = none) ∧
          (∀ k m, members[k]? = some m → (t.core m).binding = some ⟨id, s.nextId, k⟩ ∧ (t.core m).ls = [] ∧
            (t.core m).pts = (s.core m).pts ∧ (t.core m).gangRank = BitVec.ofNat 64 k) ∧
          ∀ m, m ∉ members → t.core m = s.core m))

namespace Sys2Proof.Machine

/-- Queue `q` of a VF has become `y`. -/
def State.QueueBecomes (s : State) (vf q : Nat) (y : VQueue) (t : State) : Prop :=
  t.vf vf = { s.vf vf with queues := Cells.put (s.vf vf).queues q y } ∧ (∀ v, v ≠ vf → t.vf v = s.vf v) ∧ t.cores = s.cores ∧
  ∀ l, t.byteAt l = s.byteAt l

end Sys2Proof.Machine

/-- Queues, completions, registers and the aperture (R367 to R371). DEDUCED: a reset drops waiting completions (log
entry 62). UNVERIFIED: how a vector is masked (135). DESIGN CHOICE: the window of an aperture access (143). -/
def Obligations.QueueSteps : Prop :=
  ∀ (s : State) (vf q : Nat) (x : VQueue), vf < 128 → x = (s.vf vf).queue q →
    (q < 64 → s.boot = .ready → s.vfRefuses vf = false →
      (∀ v : BitVec 32, (x.on = false ∨ (v - x.qridx).toNat ≤ x.entries → Completes (.qwidxWrite vf q v) s
          (s.QueueBecomes vf q { x with qwidx := v })) ∧
        (x.on = true → x.entries < (v - x.qridx).toNat → Completes (.qwidxWrite vf q v) s
          (s.QueueBecomes vf q { x with qwidx := v, qcfg := (x.qcfg ||| 0x80) &&& ~~~(0x20 : Word) }))) ∧
      (∀ v : Word, x.on = false → v.getLsbD 5 = true →
        (sizeOk v = true → sizeOk x.ccfg = true → Completes (.qcfgWrite vf q v) s (s.QueueBecomes vf q { x with
          qcfg := v &&& 0x7FF7F, qwidx := 0, qridx := 0, cwidx := 0, cridx := 0 })) ∧
        (sizeOk v = false ∨ sizeOk x.ccfg = false → Completes (.qcfgWrite vf q v) s (s.QueueBecomes vf q { x with
          qcfg := (v &&& 0x7FF5F) ||| 0x80 }))) ∧
      (∀ v : Word, Completes (.registerWrite (65536 * (1 + vf) + 8) v) s (fun t =>
          t.vf vf = { s.vf vf with apbase := v &&& ~~~(0x3FFFFFFFF : Word) } ∧ (∀ w, w ≠ vf → t.vf w = s.vf w) ∧
          ∀ l, t.byteAt l = s.byteAt l) ∧
        Completes (.registerWrite (65536 * (1 + vf) + 0x1000 + 64 * q + 0x38) v) s (s.QueueBecomes vf q { x with cridx := v.setWidth 32 }) ∧
        Completes (.registerWrite (65536 * (1 + vf) + 0x1000 + 64 * q) v) s (s.QueueBecomes vf q
          (if x.on then x else { x with qbase := v &&& ~~~(0xFFF : Word) })))) ∧
    (∀ k bytes irq, (s.vf vf).waiting.find? (fun c => c.1 == q) = some (k, bytes, irq) → x.room = true → s.vfHeld vf = false →
      Completes (.completionWrite vf q) s (fun t =>
        (t.vf vf).queue q = { x with cwidx := x.cwidx + 1 } ∧
        (t.vf vf).waiting = dropFirstOf (fun c => c.1 == q) (s.vf vf).waiting ∧
        t.natAt (.host (x.cbase.toNat / 4096 * 4096 + 16 * (x.cwidx.toNat % x.centries))) bytes.length = natOf bytes ∧
        t.msix = (if irq && x.qcfg.getLsbD 6 && !(s.vf vf).masked.contains x.vector then (vf, x.vector) :: s.msix else s.msix) ∧
        (irq = true → x.qcfg.getLsbD 6 = true → (s.vf vf).masked.contains x.vector = true → x.vector ∈ (t.vf vf).pending) ∧
        ∀ p, (∀ j, j < bytes.length → p.key ≠
          ((Loc.host (x.cbase.toNat / 4096 * 4096 + 16 * (x.cwidx.toNat % x.centries))).plus j).key) → t.byteAt p = s.byteAt p)) ∧
    Completes (.vfFlr vf) s (fun t => t = { s with vfs := Cells.put s.vfs vf { Vf.reset with ts := (s.vf vf).ts } }) ∧
    Completes (.hilumTsAdvance vf) s (fun t => t = { s with vfs := Cells.put s.vfs vf { s.vf vf with ts := (s.vf vf).ts + 1 } }) ∧
    (∀ off m (v : Word), off < 65536 → pfMask off = some m → Completes (.registerWrite off v) s (fun t =>
      t = { s with pf := Cells.set 0 s.pf off (v &&& m) })) ∧
    (∀ off n v, off + n ≤ 2 ^ 34 → s.boot = .ready →
      (s.partOfVf vf = none → Completes (.apertureRead vf off n) s (fun t => t = { s with hostData := 256 ^ n - 1 }) ∧
        Completes (.apertureWrite vf off n v) s (fun t => t = s)) ∧
      (∀ i p a va, s.partOfVf vf = some i → Cells.find? s.parts i = some p → s.vfRefuses vf = false →
        (s.aperturePlaces i p .read (apertureParts (s.vf vf) off n) = .ok [(.pkg a, va, n)] → s.NoRecord (.pkg a) n →
          Completes (.apertureRead vf off n) s (fun t =>
            t.hostData = s.natAt (.pkg a) n ∧ t.cores = s.cores ∧ s.SameBytes t)) ∧
        (s.aperturePlaces i p .write (apertureParts (s.vf vf) off n) = .ok [(.pkg a, va, n)] → Completes (.apertureWrite vf off n v) s (fun t =>
          t.natAt (.pkg a) n = v % 256 ^ n ∧ t.cores = s.cores ∧
          ∀ l, ¬ s.InRecords l → (∀ j, j < n → l.key ≠ a + j) → t.byteAt l = s.byteAt l))))

namespace Sys2Proof.Machine

/-- The queues of a partition offer exactly one command of a kind, which Husk can take now (R369, R375). -/
def State.Offers (s : State) (i : Nat) (p : Part) (vf q c : Nat) (ok : Nat → Bool) : Prop :=
  Cells.find? s.parts i = some p ∧ s.offered p ok = [(vf, q, c)] ∧ p.stopped = false ∧ s.partBusy p = false ∧ s.recMode i ≠ 1

/-- The completion of a command waits for its ring: its identifier, opcode, status, data and interrupt flag (R374). -/
def State.Answered (s : State) (vf q c status : Nat) (t : State) : Prop :=
  ∃ data : Word, (t.vf vf).waiting = (s.vf vf).waiting ++
    [(q, bytesOf 16 (fieldAt c 4 4 + 2 ^ 32 * (c % 256) + 2 ^ 40 * status + 2 ^ 64 * data.toNat), c / 256 % 2 == 1)]

/-- Hilum has read on past the command. -/
def State.ReadOn (s : State) (vf q : Nat) (t : State) : Prop := ((t.vf vf).queue q).qridx = ((s.vf vf).queue q).qridx + 1

end Sys2Proof.Machine

/-- The host commands (R365, R373 to R379). -/
def Obligations.HostCommandSteps : Prop :=
  ∀ (s : State) (i vf q c : Nat) (p : Part),
    (s.Offers i p vf q c (fun c => (commandKind c).isNone) → Completes (.invalidCommand i) s (fun t =>
      s.Answered vf q c 0x80 t ∧ s.ReadOn vf q t ∧ t.parts = s.parts ∧ (∀ l, t.byteAt l = s.byteAt l) ∧
      (c % 256 = 1 → c / 512 % 2 = 1 → (t.vf vf).waiting = (s.vf vf).waiting ++
        [(q, bytesOf 16 (fieldAt c 4 4 + 2 ^ 32 + 2 ^ 40 * 0x80), c / 256 % 2 == 1)]))) ∧
    (s.Offers i p vf q c (fun c => commandKind c == some 4 && fieldAt c 3 1 == 0) → Completes (.signalSet i) s (fun t =>
      s.Answered vf q c 0 t ∧ s.ReadOn vf q t ∧ (t.signal i (fieldAt c 8 2)).val = BitVec.ofNat 64 (fieldAt c 16 8) ∧
      (∀ k, k ≠ fieldAt c 8 2 → t.signal i k = s.signal i k) ∧ ∀ l, t.byteAt l = s.byteAt l)) ∧
    (s.Offers i p vf q c (fun c => commandKind c == some 4 && fieldAt c 3 1 == 1) → Completes (.signalAdd i) s (fun t =>
      s.Answered vf q c 0 t ∧ s.ReadOn vf q t ∧
      (t.signal i (fieldAt c 8 2)).val = (s.signal i (fieldAt c 8 2)).val + BitVec.ofNat 64 (fieldAt c 16 8) ∧
      (∀ k, k ≠ fieldAt c 8 2 → t.signal i k = s.signal i k) ∧ ∀ l, t.byteAt l = s.byteAt l)) ∧
    (s.Offers i p vf q c (fun c => commandKind c == some 1) →
      (Cells.find? s.slots (64 * i + fieldAt c 2 1) = none → Completes (.invoke i) s (fun t =>
        s.Answered vf q c 0x81 t ∧ s.ReadOn vf q t ∧ t.subs = s.subs ∧ ∀ l, t.byteAt l = s.byteAt l)) ∧
      (∀ x, Cells.find? s.slots (64 * i + fieldAt c 2 1) = some x → x.revoked = false → fieldAt c 3 1 ≤ 8 →
        s.unstartedIn i q + x.launches.length ≤ 256 → Completes (.invoke i) s (fun t =>
          s.ReadOn vf q t ∧ (∃ new, t.subs = s.subs ++ new ∧ new.map (fun y => y.bytes) = x.launches ∧
            ∀ y ∈ new, y.part = i ∧ y.queue = q ∧ y.windows = x.windows ∧ y.slot = some (fieldAt c 2 1) ∧
              y.invoke = some s.nextId) ∧
          (∃ v, Cells.find? t.invs s.nextId = some v ∧ v.part = i ∧ v.vf = vf ∧ v.q = q ∧ v.cmd = c ∧ v.launches = []) ∧
          ∀ l, t.byteAt l = s.byteAt l))) ∧
    (s.Offers i p vf q c (fun c => commandKind c == some 2) → s.ideHeld i = false →
      ((Cells.find? s.slots (64 * i + fieldAt c 2 1)).isSome = true → Completes (.loadSlot i) s (fun t =>
        s.Answered vf q c 0x83 t ∧ s.ReadOn vf q t ∧ t.slots = s.slots ∧ ∀ l, t.byteAt l = s.byteAt l)) ∧
      (∀ cmd s1 s2 p1, s.takeCommand i (fun c => commandKind c == some 2) = some (s1, p1, cmd) → s1.loadSlot i p1 cmd = .ok s2 →
        Completes (.loadSlot i) s (fun t => t.slots = s2.slots ∧ (∀ l, t.byteAt l = s2.byteAt l) ∧
          ∃ x, Cells.find? t.slots (64 * i + fieldAt c 2 1) = some x ∧ x.revoked = false))) ∧
    (s.Offers i p vf q c (fun c => commandKind c == some 3) →
      (Cells.find? s.slots (64 * i + fieldAt c 2 1) = none → Completes (.unloadSlot i) s (fun t =>
        s.Answered vf q c 0x81 t ∧ s.ReadOn vf q t ∧ t.slots = s.slots)) ∧
      (∀ x, Cells.find? s.slots (64 * i + fieldAt c 2 1) = some x →
        (s.slotInUse i (fieldAt c 2 1) = true → Completes (.unloadSlot i) s (fun t =>
          s.Answered vf q c 0x83 t ∧ s.ReadOn vf q t ∧ t.slots = s.slots)) ∧
        (s.slotInUse i (fieldAt c 2 1) = false → Completes (.unloadSlot i) s (fun t =>
          s.Answered vf q c 0 t ∧ s.ReadOn vf q t ∧ Cells.find? t.slots (64 * i + fieldAt c 2 1) = none ∧
          (∀ k, k ≠ 64 * i + fieldAt c 2 1 → Cells.find? t.slots k = Cells.find? s.slots k) ∧
          ∀ o ∈ t.objs, o.2.part = i → o.2.slot ≠ fieldAt c 2 1)))) ∧
    (s.Offers i p vf q c (fun c => commandKind c == some 5) → (∀ y ∈ s.subs, y.part = i → y.queue ≠ fieldAt c 2 1) →
      Completes (.resetQueue i) s (fun t => s.ReadOn vf q t ∧
        (∀ l x, Cells.find? s.launches l = some x → x.part = i → x.rec_.queue = fieldAt c 2 1 → x.state ≠ .complete →
          ∃ y, Cells.find? t.launches l = some y ∧ y.state = .draining ∧ y.rec_.dones = [] ∧
            y.status = (if x.status = 0 then 0x41 else x.status)) ∧
        (∃ r d, Cells.find? t.parts i = some r ∧ r.busy = some d ∧ d.bytes = c) ∧ ∀ l, t.byteAt l = s.byteAt l)) ∧
    (∀ d, Cells.find? s.parts i = some p → p.busy = some d →
      (d.bytes % 256 = 5 → d.inv = none → s.resetDone i d.waits = true → Completes (.queueResetComplete i (fieldAt d.bytes 2 1)) s (fun t =>
        s.Answered d.vf d.q d.bytes 0 t ∧ (∃ r, Cells.find? t.parts i = some r ∧ r.busy = none) ∧ ∀ l, t.byteAt l = s.byteAt l)) ∧
      (d.bytes % 256 = 6 → (∀ g ∈ d.waits, ∀ x, Cells.find? s.gangs g = some x → x.state ≠ .saving) → Completes (.preempt i) s (fun t =>
        s.Answered d.vf d.q d.bytes 0 t ∧ (∃ r, Cells.find? t.parts i = some r ∧ r.busy = none) ∧ ∀ l, t.byteAt l = s.byteAt l))) ∧
    (s.Offers i p vf q c (fun c => commandKind c == some 6) → (∀ d, p.busy = some d → d.bytes % 256 ≠ 6) → (∀ n, (s.core n).surrogate = false) →
      Completes (.preempt i) s (fun t => s.ReadOn vf q t ∧
        (∀ k g x, Cells.find? s.gangs k = some g → g.state = .bound → Cells.find? s.launches g.launch = some x → x.part = i →
          x.rec_.queue = fieldAt c 2 1 → x.state ≠ .complete → ∃ h, Cells.find? t.gangs k = some h ∧ h.state = .saving) ∧
        (∃ r d, Cells.find? t.parts i = some r ∧ r.busy = some d ∧ d.bytes = c) ∧ ∀ l, ¬ s.InRings l → t.byteAt l = s.byteAt l))

namespace Sys2Proof.Machine

/-- The value of PCTL after an operation with its result (Table 20.8). -/
def pctlValue (part op result : Nat) (running : Bool) : Word :=
  BitVec.ofNat 64 (part % 32 + 256 * op + (if running then 2 ^ 15 else 0) + 65536 * result)

end Sys2Proof.Machine

/-- The operations of PCTL and RECCTL, and the scrub (R351, R382, R394, R396). -/
def Obligations.PartitionSteps : Prop :=
  ∀ (s : State) (i : Nat),
    (s.pctlBusy = true → ∀ (cb : Word) (k : Nat), ∀ e ∈ [(.invalidateTlbs i : Instr), .partitionUpdate i] ++
        (if s.boot = .ready then [.partitionCreate i cb] else []) ++ (if s.boot = .ready then [.revokePins i k] else []),
      Completes e s (fun t => t = { s with
        pf := Cells.set 0 s.pf 0x100 ((Cells.get 0 s.pf 0x100 &&& ~~~(0xFF0000 : Word)) ||| 0x30000) })) ∧
    (s.pctlBusy = false →
      (∀ cb : Word, s.boot = .ready →
        (s.readPart i cb = none → Completes (.partitionCreate i cb) s (fun t =>
          Cells.get 0 t.pf 0x100 = pctlValue i 1 2 false ∧ t.parts = s.parts ∧ ∀ l, t.byteAt l = s.byteAt l)) ∧
        (∀ p, s.readPart i cb = some p →
          ((Cells.find? s.parts i).isSome = true ∨ (∃ y ∈ s.parts, p.conflicts y.2 = true) → Completes (.partitionCreate i cb) s (fun t =>
            Cells.get 0 t.pf 0x100 = pctlValue i 1 1 false ∧ t.parts = s.parts ∧ ∀ l, t.byteAt l = s.byteAt l)) ∧
          (Cells.find? s.parts i = none → (∀ y ∈ s.parts, p.conflicts y.2 = false) → Completes (.partitionCreate i cb) s (fun t =>
            Cells.get 0 t.pf 0x100 = pctlValue i 1 0 false ∧ t.parts = Cells.put s.parts i p ∧
            (∀ a, inRanges p.ranges a = true → t.byteAt (.pkg a) = 0) ∧
            (∀ l, (∀ a, l = .pkg a → inRanges p.ranges a = false) → t.byteAt l = s.byteAt l) ∧
            ∀ v : Nat, v < 128 → p.vfs.getLsbD v = true → (t.vf v).queues = [] ∧ (t.vf v).ts = (s.vf v).ts)))) ∧
      (Cells.find? s.parts i = none → Completes (.partitionDestroy i) s (fun t => t = { s with
        pf := Cells.set 0 s.pf 0x100 (pctlValue i 2 2 false) })) ∧
      (∀ p, Cells.find? s.parts i = some p →
        ((∀ y ∈ s.subs, y.part ≠ i) → Completes (.partitionDestroy i) s (fun t =>
          Cells.get 0 t.pf 0x100 = pctlValue i 2 0 true ∧ (∃ q, Cells.find? t.parts i = some q ∧ q.stopped = true) ∧
          (∀ l x, Cells.find? s.launches l = some x → x.part = i → x.state ≠ .complete →
            ∃ y, Cells.find? t.launches l = some y ∧ y.state = .draining) ∧ ∀ l, t.byteAt l = s.byteAt l)) ∧
        (∀ q, s.readPart i (Cells.get 0 s.pf 0x108) = some q →
          (q.pinBudget < p.pinsInUse → Completes (.partitionUpdate i) s (fun t => t = { s with
            pf := Cells.set 0 s.pf 0x100 (pctlValue i 3 1 false) })) ∧
          (p.pinsInUse ≤ q.pinBudget → Completes (.partitionUpdate i) s (fun t =>
            Cells.get 0 t.pf 0x100 = pctlValue i 3 0 false ∧ (∀ l, t.byteAt l = s.byteAt l) ∧
            Cells.find? t.parts i = some { p with
              share := q.share, lease := q.lease, yieldUs := q.yieldUs, pinBudget := q.pinBudget,
              fbars := rereadFbars p.fbars q.fbars }))) ∧
        Completes (.invalidateTlbs i) s (fun t => Cells.get 0 t.pf 0x100 = pctlValue i 4 0 false ∧
          (∀ k, ∀ e ∈ (t.pod k).tlb, e.part ≠ i) ∧ (∀ k, ∀ e ∈ (t.core k).tlb, e.part ≠ i) ∧ ∀ l, t.byteAt l = s.byteAt l) ∧
        (∀ k, 64 ≤ k → Completes (.revokePins i k) s (fun t => Cells.get 0 t.pf 0x100 = pctlValue i 5 2 false ∧ t = { s with pf := t.pf })) ∧
        (∀ k x, k < 64 → Cells.find? s.slots (64 * i + k) = some x → Completes (.revokePins i k) s (fun t =>
          Cells.get 0 t.pf 0x100 = pctlValue i 5 0 false ∧
          Cells.find? t.slots (64 * i + k) = some { x with revoked := true, pinned := 0 } ∧
          (∃ q, Cells.find? t.parts i = some q ∧ q.pinsInUse = p.pinsInUse - x.pinned) ∧ ∀ l, t.byteAt l = s.byteAt l)))) ∧
    (∀ p, Cells.find? s.parts i = some p → Cells.get 0 s.pf 0x100 &&& 0xFFFF = pctlValue i 2 0 true →
      s.resetDone i ((s.launches.filter fun (x : Nat × Launch) => x.2.part == i && x.2.state != .complete).map fun x => x.1) = true →
      Completes (.partitionDestroy i) s (fun t => Cells.get 0 t.pf 0x100 = pctlValue i 2 0 false ∧ Cells.find? t.parts i = none ∧
        ∀ x ∈ t.launches, x.2.part ≠ i)) ∧
    (∀ (v : Word) p mode, i < 32 → Cells.find? s.parts i = some p → mode = (v.extractLsb' 8 2).toNat → mode ≠ 3 →
      (∀ y ∈ s.launches, y.2.part = i → y.2.state = .complete) → (∀ y ∈ s.subs, y.part ≠ i) → Completes (.recctlWrite i v) s (fun t =>
        t.recMode i = mode ∧ (∀ j, j ≠ i → t.recMode j = 0) ∧ (∀ l, t.byteAt l = s.byteAt l) ∧ (mode = 1 → t.recs.entries = []) ∧
        (mode = 2 → t.recs.entries = s.recs.entries ∧ t.recs.admitted = 0))) ∧
    (i < 2 ^ 60 → Completes (.patrolScrub i true) s (fun t => Cells.find? t.poison (i / 128) = some 5 ∧
      Cells.get 0 t.pf (dieBlock (hashLine i / 32 % 4) + 0x90) = Cells.get 0 s.pf (dieBlock (hashLine i / 32 % 4) + 0x90) + 1)) ∧
    (i < 2 ^ 60 → Completes (.patrolScrub i false) s (fun t => t = s ∨ t = { s with
      pf := Cells.set 0 s.pf (dieBlock (hashLine i / 32 % 4) + 0x60) (Cells.get 0 s.pf (dieBlock (hashLine i / 32 % 4) + 0x60) + 1) }))

namespace Sys2Proof.Machine

/-- What every start leaves (R384, R389). -/
def State.StartedAnew (s t : State) : Prop :=
  t.mem = [] ∧ t.scratch = [] ∧ t.cores = [] ∧ t.parts = [] ∧ t.launches = [] ∧ t.gangs = [] ∧ t.host = s.host ∧ t.peer = s.peer ∧
  (t.boot = .ready → t.failedStarts = 0) ∧ t.deviceKey = Config.deviceKey (t.meas.take 4)

/-- An image passes (R384): magic, kind, reserved bytes, length, the key that is fused, the signature, the security version. -/
def Passes (kind : Nat) (b : List (BitVec 8)) : Prop :=
  imageField b 0 4 = 0x47485843 ∧ imageField b 4 1 = kind ∧ imageField b 5 3 = 0 ∧ imageField b 80 176 = 0 ∧
  b.length = 256 + imageField b 12 4 + 64 ∧ Config.sm3 ((b.drop 16).take 64) = Config.vendorKeyHash ∧
  Config.sm2Verifies ((b.drop 16).take 64) (Config.sm3 (b.take (256 + imageField b 12 4))) (b.drop (256 + imageField b 12 4)) = true ∧
  Config.minVersion kind ≤ imageField b 8 4

/-- The SPDM session alone has become `x`. -/
def State.SpdmBecomes (s : State) (x : Spdm) (t : State) : Prop := t = { s with spdm := x }

end Sys2Proof.Machine

/-- Starts, attestation, power and operating points (R384 to R393). -/
def Obligations.DeviceSteps : Prop :=
  ∀ (s : State),
    Completes .coldStart s s.StartedAnew ∧ Completes .warmStart s s.StartedAnew ∧
    (s.boot = .starting → Completes .startTimeout s (fun t => t = { s with boot := .failed })) ∧
    (∀ n b k, b = Config.image n → k = imageField b 4 1 →
      (s.boot = .recovery → 1 ≤ k → k ≤ 3 → Passes k b → Completes (.recoveryImage n) s s.StartedAnew) ∧
      (s.boot ≠ .recovery → Completes (.recoveryImage n) s (fun t => t = s)) ∧
      (s.boot = .recovery → ¬ (1 ≤ k ∧ k ≤ 3 ∧ Passes k b) → Completes (.recoveryImage n) s (fun t => t = { s with meas := t.meas } ∧
        t.meas = (if 1 ≤ k ∧ k ≤ 3 then s.meas.set k (extendMeas (s.meas.getD k 0) (digestBytes (Config.sm3 b))) else s.meas)))) ∧
    (s.boot = .ready →
      Completes .getVersion s (s.SpdmBecomes { Spdm.reset with version := true }) ∧
      (s.spdm.version = true → Completes .getCapabilities s (s.SpdmBecomes { s.spdm with capabilities := true, answer := [] })) ∧
      (s.spdm.capabilities = true → Completes .negotiateAlgorithms s (s.SpdmBecomes { s.spdm with
        algorithms := [.sm2P256, .sm3_256, .sm4Gcm], answer := [] })) ∧
      (s.spdm.algorithms ≠ [] →
        Completes .getDigests s (s.SpdmBecomes { s.spdm with answer := [Config.sm3 (Config.certificate s.deviceKey)] }) ∧
        Completes .getCertificate s (fun t => s.SpdmBecomes { s.spdm with answer := t.spdm.answer } t ∧
          t.spdm.answer.length = ((Config.certificate s.deviceKey).length + 31) / 32 ∧
          ∀ i v, t.spdm.answer[i]? = some v → v.toNat = natOf (((Config.certificate s.deviceKey).drop (32 * i)).take 32)) ∧
        Completes .challenge s (fun t => ∃ d, s.SpdmBecomes { s.spdm with answer := [d] } t) ∧
        Completes .getMeasurements s (s.SpdmBecomes { s.spdm with answer := s.meas }) ∧
        Completes .keyExchange s (fun t => ∃ d, s.SpdmBecomes { s.spdm with keyExchange := true, answer := [d] } t)) ∧
      (s.spdm.keyExchange = true → Completes .finish s (s.SpdmBecomes { s.spdm with keyExchange := false, session := true, answer := [] })) ∧
      (s.spdm.session = true → ∀ k key, k < 18 → Completes (.ideKmKeyProgram k key) s (fun t =>
        t = { s with ide := Cells.put s.ide k key }))) ∧
    (∀ d, d < 4 →
      (∀ power temp : Word, Completes (.powerWindow d power temp) s (fun t =>
        (temp.toInt ≥ 840 → (t.die d).level = 48) ∧
        (temp.toInt < 840 → ∀ limit, limit = (Cells.get 0 s.pf (dieBlock d + 0xC0)).toNat →
          (limit ≠ 0 → limit < power.toNat → (t.die d).level = min 48 ((s.die d).level + if 32768 ≤ (s.die d).ratio then 2 else 1)) ∧
          (limit = 0 ∨ 16 * power.toNat < 15 * limit → (t.die d).level = (s.die d).level - 1) ∧
          (limit ≠ 0 → power.toNat ≤ limit → 15 * limit ≤ 16 * power.toNat → (t.die d).level = (s.die d).level)) ∧
        (t.die d).hot = decide (temp.toInt ≥ 840) ∧ (t.die d).bound = 0 ∧ (t.die d).stall = 0 ∧
        Cells.get 0 t.pf (dieBlock d + 0x10) = power ∧ Cells.get 0 t.pf (dieBlock d + 0x18) = temp ∧ t.cores = s.cores)) ∧
      (∀ (v : Word) f volt, f = (v.extractLsb' 0 16).toNat → volt = (v.extractLsb' 16 16).toNat →
        (s.dvfsBusy d = true → Completes (.dvfsRequest d v) s (fun t => t = s.setDvfs d true 3)) ∧
        (s.dvfsBusy d = false → Completes (.dvfsRequest d v) s (fun t =>
          Cells.get 0 t.pf (dieBlock d + 0xC8) = v &&& 0xFFFFFFFF ∧ t.die d = s.die d ∧
          (f < 500 ∨ 2250 < f ∨ (Config.vfloor 3).1 < f ∨ 950 < volt → Cells.get 0 t.pf (dieBlock d + 0xD0) = 32) ∧
          (500 ≤ f → f ≤ 2250 → f ≤ (Config.vfloor 3).1 → volt ≤ 950 →
            (volt < voltFloor f → Cells.get 0 t.pf (dieBlock d + 0xD0) = 16) ∧ (voltFloor f ≤ volt → t.dvfsBusy d = true))))) ∧
      (∀ f v, s.dvfsBusy d = true → f = ((Cells.get 0 s.pf (dieBlock d + 0xC8)).extractLsb' 0 16).toNat →
        v = ((Cells.get 0 s.pf (dieBlock d + 0xC8)).extractLsb' 16 16).toNat → Completes (.dvfsStepComplete d) s (fun t =>
          ((s.die d).volt < v → t.die d = { s.die d with volt := v }) ∧
          (v ≤ (s.die d).volt → (s.die d).freq ≠ f → t.die d = { s.die d with freq := f }) ∧
          (v ≤ (s.die d).volt → (s.die d).freq = f → t.die d = { s.die d with volt := v } ∧ t.dvfsBusy d = false))))

/-- Words that the spec prints: the examples of R71, of files 01, 03 to 09, 13 and 16, and the listings of files 04, 09 and 13. -/
def Obligations.SpecWordsDecode : Prop :=
  decode 0x000C2200 = .ok (.add 3 1 2 0) ∧          -- ADD g3, g1, g2
  decode 0x04940345 = .ok (.movi 5 0x345) ∧         -- MOVI g5, 0x12345, its own word
  decode 0xC0000009 = .ok (.xExt 9) ∧               -- and its prefix
  decode 0x0828000D = .ok (.br 2 1 13) ∧            -- BR (!p2), +13
  decode 0x0903E000 = .ok (.jmpr 0 31 0) ∧          -- RET
  decode 0x0A08A008 = .ok (.mova 2 5 1 0) ∧         -- MOVA C.a2, g5
  decode 0x0A84C060 = .ok (.movar 1 6 3 0 0) ∧      -- MOVAR L.a1, RELOC3, g6
  decode 0x0D000108 = .ok (.twait 33 0) ∧           -- TWAIT k33
  decode 0x1194C002 = .ok (.ld64 5 6 0 2) ∧         -- LD64 g5, g6, 2
  decode 0x149C87FF = .ok (.st32 7 4 1 0x3FF) ∧     -- ST32 g7, g4, -1, keep
  decode 0x180C8509 = .ok (.amoAdd 3 4 5 1) ∧       -- AMO.ADD.64 g3, g4, g5
  decode 0x1A000008 = .ok (.fenceFab 0) ∧           -- FENCE.FAB
  decode 0x1F000088 = .ok (.brk 17 0) ∧             -- BRK 17
  decode 0xA0864298 = .ok (.copyl 3 4 5 6 0) ∧      -- COPYL k3, g4, g5, g6
  decode 0xA28E2001 = .ok (.bara 7 2 1) ∧           -- BARA k7, g2, wait(k3), its own word
  decode 0xC87FFE00 = .ok (.xTws 3 63 63) ∧         -- and its X.TWS
  decode 0x40090201 = .ok (.ldl 1 2 0 16 1) ∧       -- LDL a1, a2, 16 | sr
  decode 0x81AB0028 = .ok (.sflgSt 5 6 8) ∧         -- SFLG.ST a5, a6 | wl
  decode 0x20A09060 = .ok (.vfma 4 1 2 0 0 0) ∧     -- VFMA.S v4, v1, v2
  decode 0x2522B920 = .ok (.trcol 1 5 7 1 0 0) ∧    -- TRCOL.H v7, t1, 5
  decode 0x6329A201 = .ok (.rpop 5 3 4 16 1) ∧      -- RPOP 5, a3, a4, lc0 | sr
  decode 0xE0206010 = .ok (.loope 1 3 16) ∧         -- LOOPE C, 3, 16
  decode 0xE2808E0F = .ok (.xferG 0 1 14 15)        -- XFER.G prod, cons, g14, g15

/-- Decode and encode agree (R55 to R59): for every well-formed instruction with a word, in both directions, and through the
four bytes that memory holds. -/
def Obligations.EncodeDecode : Prop :=
  (∀ (i : Instr) (w : InstrWord), i.legal = true → encode i = some w → decode w = .ok i) ∧
  (∀ (w : InstrWord) (i : Instr), decode w = .ok i → encode i = some w) ∧
  (∀ (i : Instr) (w : InstrWord), i.legal = true → encode i = some w → ∀ rest, decodeBytes (bytesOfWord w ++ rest) = some i) ∧
  (∀ (i : Instr), encode i = none ↔ isEvent i = true)

/-- A step is exec of the decoded instruction (R7, R55), with what the end of a step adds: `State.counted`, for Husk `State.huskIssued`, and `State.tick`. -/
def Obligations.StepRunsTheDecodedWord : Prop :=
  ∀ (s : State) (n : Nat) (w : InstrWord) (i : Instr), s.boot = .ready → n < 292 → decode w = .ok i →
    (s.turn = .seq n .s → s.ExecutesNow w → step s = finish s.fresh (fun t => t.counted s n .s) (exec i s.asFetched)) ∧
    (s.turn = .seq n .husk → s.ExecutesNow w →
      step s = finish s.fresh (fun t => (t.counted s n .husk).huskIssued s) (exec i s.asFetched)) ∧
    (∀ q e, (q = .l ∧ e = .l) ∨ (q = .c ∧ e = .c) ∨ (q = .t ∧ e = .t) → s.turn = .seq n q →
      (s.unland e).EngineExecutesNow e w → step s = finish s.fresh (fun t => t.counted s n q) (exec i (s.unland e))) ∧
    (∀ j, isEvent j = true → step { s with turn := .event j } = finish s.fresh (fun t => t) (exec j { s with turn := .event j })) ∧
    (∀ a l, s.fetchAt a = .ok w → s.translate s.agent (!s.inHusk) .fetch a = .ok l →
      w = wordOfBytes (s.byteAt l) (s.byteAt (l.plus 1)) (s.byteAt (l.plus 2)) (s.byteAt (l.plus 3)))

/-- Nothing stops the machine but a device that is not ready (R386). -/
def Obligations.StepsNeverStop : Prop :=
  (∀ (i : Instr) (s : State), ∃ t, exec i s = .next t) ∧
  (∀ (s : State), s.boot = .ready → ∃ t, step s = .next t) ∧
  (∀ (s : State) (i : Instr), s.turn = .event i → ∃ t, step s = .next t) ∧
  (∀ (s : State) (n : Nat) (q : Seq), s.turn = .seq n q → s.boot ≠ .ready → step s = .fault .notReady)

/-- The invariant of storage is kept by every step: wts ≤ rts for every line (R282), and the canonical form of the memories (the
model's own). -/
def Obligations.StepsKeepTheInvariant : Prop :=
  ∀ (s t : State), s.Inv → step s = .next t → t.Inv

/-- The state after a start (R282, R370, R386, R389). Memory that reads 0 and the 0 of the registers without a stated value are
the model's choices, log entries 1 and 2. -/
def Obligations.ResetState : Prop :=
  State.reset.Inv ∧
  (∀ l, State.reset.tsAt l = ⟨0, 0⟩) ∧
  (∀ l, State.reset.byteAt l = 0) ∧
  (∀ v, State.reset.vf v = Vf.reset) ∧
  State.reset.parts = [] ∧ State.reset.slots = [] ∧ State.reset.launches = [] ∧ State.reset.boot = .ready ∧
  (∀ n, (State.reset.core n).binding = none ∧ (State.reset.core n).user.stat = .unbound ∧ (State.reset.core n).share = 16 ∧
    (State.reset.core n).pts = 0 ∧ (State.reset.core n).pips = [] ∧ (State.reset.core n).tokens = []) ∧
  (∀ n q r, ({ State.reset with turn := .seq n q } : State).g r = 0) ∧
  (∀ n q p, ({ State.reset with turn := .seq n q } : State).p p = (p == 0))
end

