-- ==== Sys2Proof/Laws/Cells.lean ====
section
/-! SUPPORT. Sys2Proof/Laws/Cells.lean: reads after writes of sparse storage and of memory, and the canonical form. -/

namespace Sys2Proof.Machine

variable {α : Type}

/-! ### Reads after writes -/

@[simp] theorem Cells.get_nil (d : α) (k : Nat) : Cells.get d [] k = d := rfl

@[simp] theorem Cells.find?_nil (k : Nat) : Cells.find? ([] : Cells α) k = none := rfl

theorem Cells.get_eq_find? (d : α) (l : Cells α) (k : Nat) : Cells.get d l k = (Cells.find? l k).getD d := by
  induction l with
  | nil => rfl
  | cons x r ih =>
    simp only [Cells.get, Cells.find?]
    split <;> simp_all

theorem Cells.find?_put (l : Cells α) (k j : Nat) (v : α) :
    Cells.find? (Cells.put l k v) j = if k = j then some v else Cells.find? l j := by
  induction l with
  | nil => rfl
  | cons x r ih =>
    simp only [Cells.put]
    split
    · rfl
    · split
      · simp only [Cells.find?]
        split <;> simp_all
      · simp only [Cells.find?, ih]
        grind

@[simp] theorem Cells.find?_put_self (l : Cells α) (k : Nat) (v : α) : Cells.find? (Cells.put l k v) k = some v := by
  simp [Cells.find?_put]

theorem Cells.find?_del_ne (l : Cells α) {k j : Nat} (h : k ≠ j) : Cells.find? (Cells.del l k) j = Cells.find? l j := by
  induction l with
  | nil => rfl
  | cons x r ih =>
    simp only [Cells.del, Cells.find?]
    grind [Cells.find?]

@[simp] theorem Cells.find?_del_self (l : Cells α) (k : Nat) : Cells.find? (Cells.del l k) k = none := by
  induction l with
  | nil => rfl
  | cons x r ih =>
    simp only [Cells.del]
    grind [Cells.find?]

theorem Cells.get_put (d : α) (l : Cells α) (k j : Nat) (v : α) :
    Cells.get d (Cells.put l k v) j = if k = j then v else Cells.get d l j := by
  simp only [Cells.get_eq_find?, Cells.find?_put]
  split <;> rfl

@[simp] theorem Cells.get_put_self (d : α) (l : Cells α) (k : Nat) (v : α) : Cells.get d (Cells.put l k v) k = v := by
  simp [Cells.get_put]

theorem Cells.get_del_ne (d : α) (l : Cells α) {k j : Nat} (h : k ≠ j) : Cells.get d (Cells.del l k) j = Cells.get d l j := by
  simp [Cells.get_eq_find?, Cells.find?_del_ne l h]

/-- A read after a write: the value at its own key, every other key as before. -/
theorem Cells.get_set [DecidableEq α] (d : α) (l : Cells α) (k j : Nat) (v : α) :
    Cells.get d (Cells.set d l k v) j = if k = j then v else Cells.get d l j := by
  unfold Cells.set
  split
  · by_cases h : k = j
    · subst h; simp_all [Cells.get_eq_find?]
    · simp [h, Cells.get_del_ne d l h]
  · exact Cells.get_put d l k j v

@[simp] theorem Cells.get_set_self [DecidableEq α] (d : α) (l : Cells α) (k : Nat) (v : α) :
    Cells.get d (Cells.set d l k v) k = v := by
  simp [Cells.get_set]

theorem Cells.get_set_ne [DecidableEq α] (d : α) (l : Cells α) {k j : Nat} (h : k ≠ j) (v : α) :
    Cells.get d (Cells.set d l k v) j = Cells.get d l j := by
  simp [Cells.get_set, h]

theorem Cells.get_setRange [DecidableEq α] (d : α) (l : Cells α) (base : Nat) (f : Nat → α) (n j : Nat) :
    Cells.get d (Cells.setRange d l base f n) j = if base ≤ j ∧ j < base + n then f (j - base) else Cells.get d l j := by
  induction n with
  | zero => rw [if_neg (by omega)]; rfl
  | succ n ih =>
    simp only [Cells.setRange, Cells.get_set, ih]
    by_cases h : base + n = j
    · subst h; simp
    · simp only [h, if_false]
      congr 1
      ext; omega

/-! ### The canonical form -/

theorem Cells.rising_put (lo : Option Nat) (l : Cells α) (k : Nat) (v : α) (h : Cells.rising lo l = true)
    (hk : ∀ b, lo = some b → b < k) : Cells.rising lo (Cells.put l k v) = true := by
  induction l generalizing lo with
  | nil => cases lo <;> simp_all [Cells.put, Cells.rising]
  | cons x r ih =>
    obtain ⟨j, w⟩ := x
    simp only [Cells.rising, Bool.and_eq_true] at h
    simp only [Cells.put]
    split
    · cases lo <;> simp_all [Cells.rising]
    · split
      · subst_vars; cases lo <;> simp_all [Cells.rising]
      · have := ih (some j) h.2 (by intro b hb; cases hb; omega)
        cases lo <;> simp_all [Cells.rising]

theorem Cells.rising_mono {lo lo' : Option Nat} {l : Cells α} (h : Cells.rising lo l = true)
    (hk : ∀ b, lo' = some b → ∃ a, lo = some a ∧ b ≤ a) : Cells.rising lo' l = true := by
  cases l with
  | nil => rfl
  | cons x r =>
    obtain ⟨j, w⟩ := x
    simp only [Cells.rising, Bool.and_eq_true] at h ⊢
    refine ⟨?_, h.2⟩
    cases lo' with
    | none => rfl
    | some b =>
      obtain ⟨a, rfl, hab⟩ := hk b rfl
      simp at h ⊢
      omega

theorem Cells.rising_filter (lo : Option Nat) (l : Cells α) (q : Nat × α → Bool) (h : Cells.rising lo l = true) :
    Cells.rising lo (l.filter q) = true := by
  induction l generalizing lo with
  | nil => rfl
  | cons x r ih =>
    obtain ⟨j, w⟩ := x
    simp only [Cells.rising, Bool.and_eq_true] at h
    by_cases hq : q (j, w)
    · simp only [List.filter_cons, hq, if_true, Cells.rising, Bool.and_eq_true]
      exact ⟨h.1, ih (some j) h.2⟩
    · simp only [List.filter_cons, hq]
      refine Cells.rising_mono (ih (some j) h.2) ?_
      rintro b rfl
      exact ⟨j, rfl, by simp at h; omega⟩

theorem Cells.del_eq_filter (l : Cells α) (k : Nat) : Cells.del l k = l.filter fun x => decide (x.1 ≠ k) := by
  induction l with
  | nil => rfl
  | cons x r ih =>
    obtain ⟨j, w⟩ := x
    by_cases h : j = k <;> simp_all [Cells.del]

theorem Cells.mem_put {l : Cells α} {k : Nat} {v : α} {x : Nat × α} (h : x ∈ Cells.put l k v) : x = (k, v) ∨ x ∈ l := by
  induction l with
  | nil => simpa [Cells.put] using h
  | cons y r ih =>
    simp only [Cells.put] at h
    grind

variable [DecidableEq α] {d : α} {l : Cells α}

theorem Cells.wf_put (h : Cells.wf d l = true) {v : α} (hv : v ≠ d) (k : Nat) : Cells.wf d (Cells.put l k v) = true := by
  simp only [Cells.wf, Bool.and_eq_true, List.all_eq_true, decide_eq_true_eq] at h ⊢
  refine ⟨Cells.rising_put none l k v h.1 (by simp), fun x hx => ?_⟩
  rcases Cells.mem_put hx with rfl | hx
  · exact hv
  · exact h.2 x hx

theorem Cells.wf_filter (h : Cells.wf d l = true) (q : Nat × α → Bool) : Cells.wf d (l.filter q) = true := by
  simp only [Cells.wf, Bool.and_eq_true, List.all_eq_true, decide_eq_true_eq] at h ⊢
  exact ⟨Cells.rising_filter none l q h.1, fun x hx => h.2 x (List.mem_filter.mp hx).1⟩

/-- A write keeps the canonical form. -/
theorem Cells.wf_set (h : Cells.wf d l = true) (k : Nat) (v : α) : Cells.wf d (Cells.set d l k v) = true := by
  unfold Cells.set
  split
  · rw [Cells.del_eq_filter]; exact Cells.wf_filter h _
  · exact Cells.wf_put h ‹_› k

/-! ### Memory -/

@[simp] theorem Memory.wf_nil : Memory.wf [] = true := rfl

theorem Memory.wf_write {m : Memory} (h : Memory.wf m = true) (a : Nat) (v : Byte) : Memory.wf (Memory.write m a v) = true :=
  Cells.wf_set h a v

theorem Memory.wf_filter {m : Memory} (h : Memory.wf m = true) (q : Host.Cell → Bool) : Memory.wf (m.filter q) = true :=
  Cells.wf_filter h q

theorem Memory.wf_writeNat {m : Memory} (h : Memory.wf m = true) (a n v : Nat) : Memory.wf (Memory.writeNat m a n v) = true := by
  induction n generalizing m a v with
  | zero => exact h
  | succ n ih => exact ih (Memory.wf_write h _ _) _ _

/-- A byte read after a byte write. -/
theorem Memory.read_write (m : Memory) (a b : Nat) (v : Byte) :
    Memory.read (Memory.write m a v) b = if a = b then v else Memory.read m b :=
  Cells.get_set _ _ _ _ _

@[simp] theorem Memory.read_write_self (m : Memory) (a : Nat) (v : Byte) : Memory.read (Memory.write m a v) a = v := by
  simp [Memory.read_write]

/-- A wide write leaves every byte outside it. -/
theorem Memory.read_writeNat_out (m : Memory) (a n v b : Nat) (h : b < a ∨ a + n ≤ b) :
    Memory.read (Memory.writeNat m a n v) b = Memory.read m b := by
  induction n generalizing m a v with
  | zero => rfl
  | succ n ih =>
    rw [Memory.writeNat, ih _ _ _ (by omega), Memory.read_write, if_neg (by omega)]

/-- Byte j of a wide write. -/
theorem Memory.read_writeNat_in (m : Memory) (a n v j : Nat) (h : j < n) :
    Memory.read (Memory.writeNat m a n v) (a + j) = BitVec.ofNat 8 (v / 256 ^ j) := by
  induction n generalizing m a v j with
  | zero => omega
  | succ n ih =>
    cases j with
    | zero => rw [Memory.writeNat, Memory.read_writeNat_out _ _ _ _ _ (by omega)]; simp
    | succ j =>
      have := ih (Memory.write m a (BitVec.ofNat 8 v)) (a + 1) (v / 256) j (by omega)
      rw [Memory.writeNat, show a + (j + 1) = a + 1 + j by omega, this, Nat.div_div_eq_div_mul, Nat.pow_succ, Nat.mul_comm]

/-- A wide read, from its bytes. -/
theorem Memory.readNat_of_bytes (m : Memory) (n a v : Nat)
    (hm : ∀ j, j < n → Memory.read m (a + j) = BitVec.ofNat 8 (v / 256 ^ j)) : Memory.readNat m a n = v % 256 ^ n := by
  induction n generalizing a v with
  | zero => simp [Memory.readNat, Nat.mod_one]
  | succ n ih =>
    have h1 := ih (a + 1) (v / 256) fun j hj => by
      rw [show a + 1 + j = a + (j + 1) by omega, hm (j + 1) (by omega), Nat.div_div_eq_div_mul,
        show 256 ^ (j + 1) = 256 * 256 ^ j by rw [Nat.pow_succ, Nat.mul_comm]]
    have h0 := hm 0 (by omega)
    simp only [Nat.add_zero, Nat.pow_zero, Nat.div_one] at h0
    have h2 : v % 256 ^ (n + 1) = v % 256 + 256 * (v / 256 % 256 ^ n) := by
      rw [show 256 ^ (n + 1) = 256 * 256 ^ n from Nat.pow_succ' .., Nat.mod_mul]
    rw [Memory.readNat, h1, h0, BitVec.toNat_ofNat, h2]

/-- A wide read after the wide write of the same place. -/
theorem Memory.readNat_writeNat (m : Memory) (a n v : Nat) : Memory.readNat (Memory.writeNat m a n v) a n = v % 256 ^ n :=
  Memory.readNat_of_bytes _ _ _ _ fun j hj => Memory.read_writeNat_in m a n v j hj

end Sys2Proof.Machine
end

