-- ==== Sys2Proof/Laws/Decode.lean ====
section
/-! SUPPORT. Sys2Proof/Laws/Decode.lean: the fields of a packed word are the fields that were packed, one lemma per format. -/

namespace Sys2Proof

/-- The high part of a concatenation. -/
theorem extract_high (m n : Nat) (x : BitVec m) (y : BitVec n) : (x ++ y).extractLsb' n m = x := by
  ext i hi
  simp [BitVec.getLsbD_append, BitVec.getLsbD_eq_getElem, hi]

/-- A field of the low part of a concatenation. -/
theorem extract_low (m n s k : Nat) (x : BitVec m) (y : BitVec n) (h : s + k ≤ n) :
    (x ++ y).extractLsb' s k = y.extractLsb' s k := by
  ext i hi
  simp [BitVec.getLsbD_append, show s + i < n by omega]

theorem extract_all (n : Nat) (x : BitVec n) : x.extractLsb' 0 n = x := by
  ext i hi
  simp

theorem unpack_sr {op : BitVec 6} {x1 : BitVec 5} {x2 : BitVec 5} {x3 : BitVec 5} {x4 : BitVec 5} {x5 : BitVec 3} (h : kindOf 0 op = some .sr) :
    unpack (pack (.sr op x1 x2 x3 x4 x5)) = .ok (.sr op x1 x2 x3 x4 x5) := by
  have h1 : (pack (.sr op x1 x2 x3 x4 x5)).extractLsb' 29 3 = 0 := (extract_high 3 29 _ _)
  have h2 : (pack (.sr op x1 x2 x3 x4 x5)).extractLsb' 23 6 = op :=
    ((extract_low 3 29 23 6 _ _ (by decide)).trans (extract_high 6 23 _ _))
  unfold unpack
  rw [h1, h2]
  simp only [h, Except.ok.injEq, Fmt.sr.injEq, true_and]
  exact ⟨((extract_low 3 29 18 5 _ _ (by decide)).trans ((extract_low 6 23 18 5 _ _ (by decide)).trans (extract_high 5 18 _ _))),
    ((extract_low 3 29 13 5 _ _ (by decide)).trans ((extract_low 6 23 13 5 _ _ (by decide)).trans ((extract_low 5 18 13 5 _ _ (by decide)).trans (extract_high 5 13 _ _)))),
    ((extract_low 3 29 8 5 _ _ (by decide)).trans ((extract_low 6 23 8 5 _ _ (by decide)).trans ((extract_low 5 18 8 5 _ _ (by decide)).trans ((extract_low 5 13 8 5 _ _ (by decide)).trans (extract_high 5 8 _ _))))),
    ((extract_low 3 29 3 5 _ _ (by decide)).trans ((extract_low 6 23 3 5 _ _ (by decide)).trans ((extract_low 5 18 3 5 _ _ (by decide)).trans ((extract_low 5 13 3 5 _ _ (by decide)).trans ((extract_low 5 8 3 5 _ _ (by decide)).trans (extract_high 5 3 _ _)))))),
    ((extract_low 3 29 0 3 _ _ (by decide)).trans ((extract_low 6 23 0 3 _ _ (by decide)).trans ((extract_low 5 18 0 3 _ _ (by decide)).trans ((extract_low 5 13 0 3 _ _ (by decide)).trans ((extract_low 5 8 0 3 _ _ (by decide)).trans ((extract_low 5 3 0 3 _ _ (by decide)).trans (extract_all 3 _)))))))⟩

theorem unpack_si {op : BitVec 6} {x1 : BitVec 5} {x2 : BitVec 5} {x3 : BitVec 13} (h : kindOf 0 op = some .si) :
    unpack (pack (.si op x1 x2 x3)) = .ok (.si op x1 x2 x3) := by
  have h1 : (pack (.si op x1 x2 x3)).extractLsb' 29 3 = 0 := (extract_high 3 29 _ _)
  have h2 : (pack (.si op x1 x2 x3)).extractLsb' 23 6 = op :=
    ((extract_low 3 29 23 6 _ _ (by decide)).trans (extract_high 6 23 _ _))
  unfold unpack
  rw [h1, h2]
  simp only [h, Except.ok.injEq, Fmt.si.injEq, true_and]
  exact ⟨((extract_low 3 29 18 5 _ _ (by decide)).trans ((extract_low 6 23 18 5 _ _ (by decide)).trans (extract_high 5 18 _ _))),
    ((extract_low 3 29 13 5 _ _ (by decide)).trans ((extract_low 6 23 13 5 _ _ (by decide)).trans ((extract_low 5 18 13 5 _ _ (by decide)).trans (extract_high 5 13 _ _)))),
    ((extract_low 3 29 0 13 _ _ (by decide)).trans ((extract_low 6 23 0 13 _ _ (by decide)).trans ((extract_low 5 18 0 13 _ _ (by decide)).trans ((extract_low 5 13 0 13 _ _ (by decide)).trans (extract_all 13 _)))))⟩

theorem unpack_sm {op : BitVec 6} {x1 : BitVec 5} {x2 : BitVec 5} {x3 : BitVec 3} {x4 : BitVec 10} (h : kindOf 0 op = some .sm) :
    unpack (pack (.sm op x1 x2 x3 x4)) = .ok (.sm op x1 x2 x3 x4) := by
  have h1 : (pack (.sm op x1 x2 x3 x4)).extractLsb' 29 3 = 0 := (extract_high 3 29 _ _)
  have h2 : (pack (.sm op x1 x2 x3 x4)).extractLsb' 23 6 = op :=
    ((extract_low 3 29 23 6 _ _ (by decide)).trans (extract_high 6 23 _ _))
  unfold unpack
  rw [h1, h2]
  simp only [h, Except.ok.injEq, Fmt.sm.injEq, true_and]
  exact ⟨((extract_low 3 29 18 5 _ _ (by decide)).trans ((extract_low 6 23 18 5 _ _ (by decide)).trans (extract_high 5 18 _ _))),
    ((extract_low 3 29 13 5 _ _ (by decide)).trans ((extract_low 6 23 13 5 _ _ (by decide)).trans ((extract_low 5 18 13 5 _ _ (by decide)).trans (extract_high 5 13 _ _)))),
    ((extract_low 3 29 10 3 _ _ (by decide)).trans ((extract_low 6 23 10 3 _ _ (by decide)).trans ((extract_low 5 18 10 3 _ _ (by decide)).trans ((extract_low 5 13 10 3 _ _ (by decide)).trans (extract_high 3 10 _ _))))),
    ((extract_low 3 29 0 10 _ _ (by decide)).trans ((extract_low 6 23 0 10 _ _ (by decide)).trans ((extract_low 5 18 0 10 _ _ (by decide)).trans ((extract_low 5 13 0 10 _ _ (by decide)).trans ((extract_low 3 10 0 10 _ _ (by decide)).trans (extract_all 10 _))))))⟩

theorem unpack_sa {op : BitVec 6} {x1 : BitVec 5} {x2 : BitVec 5} {x3 : BitVec 2} {x4 : BitVec 1} {x5 : BitVec 10} (h : kindOf 0 op = some .sa) :
    unpack (pack (.sa op x1 x2 x3 x4 x5)) = .ok (.sa op x1 x2 x3 x4 x5) := by
  have h1 : (pack (.sa op x1 x2 x3 x4 x5)).extractLsb' 29 3 = 0 := (extract_high 3 29 _ _)
  have h2 : (pack (.sa op x1 x2 x3 x4 x5)).extractLsb' 23 6 = op :=
    ((extract_low 3 29 23 6 _ _ (by decide)).trans (extract_high 6 23 _ _))
  unfold unpack
  rw [h1, h2]
  simp only [h, Except.ok.injEq, Fmt.sa.injEq, true_and]
  exact ⟨((extract_low 3 29 18 5 _ _ (by decide)).trans ((extract_low 6 23 18 5 _ _ (by decide)).trans (extract_high 5 18 _ _))),
    ((extract_low 3 29 13 5 _ _ (by decide)).trans ((extract_low 6 23 13 5 _ _ (by decide)).trans ((extract_low 5 18 13 5 _ _ (by decide)).trans (extract_high 5 13 _ _)))),
    ((extract_low 3 29 11 2 _ _ (by decide)).trans ((extract_low 6 23 11 2 _ _ (by decide)).trans ((extract_low 5 18 11 2 _ _ (by decide)).trans ((extract_low 5 13 11 2 _ _ (by decide)).trans (extract_high 2 11 _ _))))),
    ((extract_low 3 29 10 1 _ _ (by decide)).trans ((extract_low 6 23 10 1 _ _ (by decide)).trans ((extract_low 5 18 10 1 _ _ (by decide)).trans ((extract_low 5 13 10 1 _ _ (by decide)).trans ((extract_low 2 11 10 1 _ _ (by decide)).trans (extract_high 1 10 _ _)))))),
    ((extract_low 3 29 0 10 _ _ (by decide)).trans ((extract_low 6 23 0 10 _ _ (by decide)).trans ((extract_low 5 18 0 10 _ _ (by decide)).trans ((extract_low 5 13 0 10 _ _ (by decide)).trans ((extract_low 2 11 0 10 _ _ (by decide)).trans ((extract_low 1 10 0 10 _ _ (by decide)).trans (extract_all 10 _)))))))⟩

theorem unpack_ss {op : BitVec 6} {x1 : BitVec 5} {x2 : BitVec 5} {x3 : BitVec 13} (h : kindOf 0 op = some .ss) :
    unpack (pack (.ss op x1 x2 x3)) = .ok (.ss op x1 x2 x3) := by
  have h1 : (pack (.ss op x1 x2 x3)).extractLsb' 29 3 = 0 := (extract_high 3 29 _ _)
  have h2 : (pack (.ss op x1 x2 x3)).extractLsb' 23 6 = op :=
    ((extract_low 3 29 23 6 _ _ (by decide)).trans (extract_high 6 23 _ _))
  unfold unpack
  rw [h1, h2]
  simp only [h, Except.ok.injEq, Fmt.ss.injEq, true_and]
  exact ⟨((extract_low 3 29 18 5 _ _ (by decide)).trans ((extract_low 6 23 18 5 _ _ (by decide)).trans (extract_high 5 18 _ _))),
    ((extract_low 3 29 13 5 _ _ (by decide)).trans ((extract_low 6 23 13 5 _ _ (by decide)).trans ((extract_low 5 18 13 5 _ _ (by decide)).trans (extract_high 5 13 _ _)))),
    ((extract_low 3 29 0 13 _ _ (by decide)).trans ((extract_low 6 23 0 13 _ _ (by decide)).trans ((extract_low 5 18 0 13 _ _ (by decide)).trans ((extract_low 5 13 0 13 _ _ (by decide)).trans (extract_all 13 _)))))⟩

theorem unpack_sb {op : BitVec 6} {x1 : BitVec 3} {x2 : BitVec 1} {x3 : BitVec 19} (h : kindOf 0 op = some .sb) :
    unpack (pack (.sb op x1 x2 x3)) = .ok (.sb op x1 x2 x3) := by
  have h1 : (pack (.sb op x1 x2 x3)).extractLsb' 29 3 = 0 := (extract_high 3 29 _ _)
  have h2 : (pack (.sb op x1 x2 x3)).extractLsb' 23 6 = op :=
    ((extract_low 3 29 23 6 _ _ (by decide)).trans (extract_high 6 23 _ _))
  unfold unpack
  rw [h1, h2]
  simp only [h, Except.ok.injEq, Fmt.sb.injEq, true_and]
  exact ⟨((extract_low 3 29 20 3 _ _ (by decide)).trans ((extract_low 6 23 20 3 _ _ (by decide)).trans (extract_high 3 20 _ _))),
    ((extract_low 3 29 19 1 _ _ (by decide)).trans ((extract_low 6 23 19 1 _ _ (by decide)).trans ((extract_low 3 20 19 1 _ _ (by decide)).trans (extract_high 1 19 _ _)))),
    ((extract_low 3 29 0 19 _ _ (by decide)).trans ((extract_low 6 23 0 19 _ _ (by decide)).trans ((extract_low 3 20 0 19 _ _ (by decide)).trans ((extract_low 1 19 0 19 _ _ (by decide)).trans (extract_all 19 _)))))⟩

theorem unpack_a {op : BitVec 6} {x1 : BitVec 6} {x2 : BitVec 5} {x3 : BitVec 5} {x4 : BitVec 5} {x5 : BitVec 2} (h : kindOf 5 op = some .a) :
    unpack (pack (.a op x1 x2 x3 x4 x5)) = .ok (.a op x1 x2 x3 x4 x5) := by
  have h1 : (pack (.a op x1 x2 x3 x4 x5)).extractLsb' 29 3 = 5 := (extract_high 3 29 _ _)
  have h2 : (pack (.a op x1 x2 x3 x4 x5)).extractLsb' 23 6 = op :=
    ((extract_low 3 29 23 6 _ _ (by decide)).trans (extract_high 6 23 _ _))
  unfold unpack
  rw [h1, h2]
  simp only [h, Except.ok.injEq, Fmt.a.injEq, true_and]
  exact ⟨((extract_low 3 29 17 6 _ _ (by decide)).trans ((extract_low 6 23 17 6 _ _ (by decide)).trans (extract_high 6 17 _ _))),
    ((extract_low 3 29 12 5 _ _ (by decide)).trans ((extract_low 6 23 12 5 _ _ (by decide)).trans ((extract_low 6 17 12 5 _ _ (by decide)).trans (extract_high 5 12 _ _)))),
    ((extract_low 3 29 7 5 _ _ (by decide)).trans ((extract_low 6 23 7 5 _ _ (by decide)).trans ((extract_low 6 17 7 5 _ _ (by decide)).trans ((extract_low 5 12 7 5 _ _ (by decide)).trans (extract_high 5 7 _ _))))),
    ((extract_low 3 29 2 5 _ _ (by decide)).trans ((extract_low 6 23 2 5 _ _ (by decide)).trans ((extract_low 6 17 2 5 _ _ (by decide)).trans ((extract_low 5 12 2 5 _ _ (by decide)).trans ((extract_low 5 7 2 5 _ _ (by decide)).trans (extract_high 5 2 _ _)))))),
    ((extract_low 3 29 0 2 _ _ (by decide)).trans ((extract_low 6 23 0 2 _ _ (by decide)).trans ((extract_low 6 17 0 2 _ _ (by decide)).trans ((extract_low 5 12 0 2 _ _ (by decide)).trans ((extract_low 5 7 0 2 _ _ (by decide)).trans ((extract_low 5 2 0 2 _ _ (by decide)).trans (extract_all 2 _)))))))⟩

theorem unpack_ev {e : BitVec 3} {op : BitVec 6} {x2 : BitVec 4} {x3 : BitVec 4} {x4 : BitVec 4} {x5 : BitVec 6} {x6 : BitVec 1} {x7 : BitVec 4} (h : kindOf e op = some .ev) :
    unpack (pack (.ev e op x2 x3 x4 x5 x6 x7)) = .ok (.ev e op x2 x3 x4 x5 x6 x7) := by
  have h1 : (pack (.ev e op x2 x3 x4 x5 x6 x7)).extractLsb' 29 3 = e := (extract_high 3 29 _ _)
  have h2 : (pack (.ev e op x2 x3 x4 x5 x6 x7)).extractLsb' 23 6 = op :=
    ((extract_low 3 29 23 6 _ _ (by decide)).trans (extract_high 6 23 _ _))
  unfold unpack
  rw [h1, h2]
  simp only [h, Except.ok.injEq, Fmt.ev.injEq, true_and]
  exact ⟨((extract_low 3 29 19 4 _ _ (by decide)).trans ((extract_low 6 23 19 4 _ _ (by decide)).trans (extract_high 4 19 _ _))),
    ((extract_low 3 29 15 4 _ _ (by decide)).trans ((extract_low 6 23 15 4 _ _ (by decide)).trans ((extract_low 4 19 15 4 _ _ (by decide)).trans (extract_high 4 15 _ _)))),
    ((extract_low 3 29 11 4 _ _ (by decide)).trans ((extract_low 6 23 11 4 _ _ (by decide)).trans ((extract_low 4 19 11 4 _ _ (by decide)).trans ((extract_low 4 15 11 4 _ _ (by decide)).trans (extract_high 4 11 _ _))))),
    ((extract_low 3 29 5 6 _ _ (by decide)).trans ((extract_low 6 23 5 6 _ _ (by decide)).trans ((extract_low 4 19 5 6 _ _ (by decide)).trans ((extract_low 4 15 5 6 _ _ (by decide)).trans ((extract_low 4 11 5 6 _ _ (by decide)).trans (extract_high 6 5 _ _)))))),
    ((extract_low 3 29 4 1 _ _ (by decide)).trans ((extract_low 6 23 4 1 _ _ (by decide)).trans ((extract_low 4 19 4 1 _ _ (by decide)).trans ((extract_low 4 15 4 1 _ _ (by decide)).trans ((extract_low 4 11 4 1 _ _ (by decide)).trans ((extract_low 6 5 4 1 _ _ (by decide)).trans (extract_high 1 4 _ _))))))),
    ((extract_low 3 29 0 4 _ _ (by decide)).trans ((extract_low 6 23 0 4 _ _ (by decide)).trans ((extract_low 4 19 0 4 _ _ (by decide)).trans ((extract_low 4 15 0 4 _ _ (by decide)).trans ((extract_low 4 11 0 4 _ _ (by decide)).trans ((extract_low 6 5 0 4 _ _ (by decide)).trans ((extract_low 1 4 0 4 _ _ (by decide)).trans (extract_all 4 _))))))))⟩

theorem unpack_ei {e : BitVec 3} {op : BitVec 6} {x2 : BitVec 4} {x3 : BitVec 4} {x4 : BitVec 10} {x5 : BitVec 1} {x6 : BitVec 4} (h : kindOf e op = some .ei) :
    unpack (pack (.ei e op x2 x3 x4 x5 x6)) = .ok (.ei e op x2 x3 x4 x5 x6) := by
  have h1 : (pack (.ei e op x2 x3 x4 x5 x6)).extractLsb' 29 3 = e := (extract_high 3 29 _ _)
  have h2 : (pack (.ei e op x2 x3 x4 x5 x6)).extractLsb' 23 6 = op :=
    ((extract_low 3 29 23 6 _ _ (by decide)).trans (extract_high 6 23 _ _))
  unfold unpack
  rw [h1, h2]
  simp only [h, Except.ok.injEq, Fmt.ei.injEq, true_and]
  exact ⟨((extract_low 3 29 19 4 _ _ (by decide)).trans ((extract_low 6 23 19 4 _ _ (by decide)).trans (extract_high 4 19 _ _))),
    ((extract_low 3 29 15 4 _ _ (by decide)).trans ((extract_low 6 23 15 4 _ _ (by decide)).trans ((extract_low 4 19 15 4 _ _ (by decide)).trans (extract_high 4 15 _ _)))),
    ((extract_low 3 29 5 10 _ _ (by decide)).trans ((extract_low 6 23 5 10 _ _ (by decide)).trans ((extract_low 4 19 5 10 _ _ (by decide)).trans ((extract_low 4 15 5 10 _ _ (by decide)).trans (extract_high 10 5 _ _))))),
    ((extract_low 3 29 4 1 _ _ (by decide)).trans ((extract_low 6 23 4 1 _ _ (by decide)).trans ((extract_low 4 19 4 1 _ _ (by decide)).trans ((extract_low 4 15 4 1 _ _ (by decide)).trans ((extract_low 10 5 4 1 _ _ (by decide)).trans (extract_high 1 4 _ _)))))),
    ((extract_low 3 29 0 4 _ _ (by decide)).trans ((extract_low 6 23 0 4 _ _ (by decide)).trans ((extract_low 4 19 0 4 _ _ (by decide)).trans ((extract_low 4 15 0 4 _ _ (by decide)).trans ((extract_low 10 5 0 4 _ _ (by decide)).trans ((extract_low 1 4 0 4 _ _ (by decide)).trans (extract_all 4 _)))))))⟩

theorem unpack_em {e : BitVec 3} {op : BitVec 6} {x2 : BitVec 4} {x3 : BitVec 4} {x4 : BitVec 3} {x5 : BitVec 7} {x6 : BitVec 1} {x7 : BitVec 4} (h : kindOf e op = some .em) :
    unpack (pack (.em e op x2 x3 x4 x5 x6 x7)) = .ok (.em e op x2 x3 x4 x5 x6 x7) := by
  have h1 : (pack (.em e op x2 x3 x4 x5 x6 x7)).extractLsb' 29 3 = e := (extract_high 3 29 _ _)
  have h2 : (pack (.em e op x2 x3 x4 x5 x6 x7)).extractLsb' 23 6 = op :=
    ((extract_low 3 29 23 6 _ _ (by decide)).trans (extract_high 6 23 _ _))
  unfold unpack
  rw [h1, h2]
  simp only [h, Except.ok.injEq, Fmt.em.injEq, true_and]
  exact ⟨((extract_low 3 29 19 4 _ _ (by decide)).trans ((extract_low 6 23 19 4 _ _ (by decide)).trans (extract_high 4 19 _ _))),
    ((extract_low 3 29 15 4 _ _ (by decide)).trans ((extract_low 6 23 15 4 _ _ (by decide)).trans ((extract_low 4 19 15 4 _ _ (by decide)).trans (extract_high 4 15 _ _)))),
    ((extract_low 3 29 12 3 _ _ (by decide)).trans ((extract_low 6 23 12 3 _ _ (by decide)).trans ((extract_low 4 19 12 3 _ _ (by decide)).trans ((extract_low 4 15 12 3 _ _ (by decide)).trans (extract_high 3 12 _ _))))),
    ((extract_low 3 29 5 7 _ _ (by decide)).trans ((extract_low 6 23 5 7 _ _ (by decide)).trans ((extract_low 4 19 5 7 _ _ (by decide)).trans ((extract_low 4 15 5 7 _ _ (by decide)).trans ((extract_low 3 12 5 7 _ _ (by decide)).trans (extract_high 7 5 _ _)))))),
    ((extract_low 3 29 4 1 _ _ (by decide)).trans ((extract_low 6 23 4 1 _ _ (by decide)).trans ((extract_low 4 19 4 1 _ _ (by decide)).trans ((extract_low 4 15 4 1 _ _ (by decide)).trans ((extract_low 3 12 4 1 _ _ (by decide)).trans ((extract_low 7 5 4 1 _ _ (by decide)).trans (extract_high 1 4 _ _))))))),
    ((extract_low 3 29 0 4 _ _ (by decide)).trans ((extract_low 6 23 0 4 _ _ (by decide)).trans ((extract_low 4 19 0 4 _ _ (by decide)).trans ((extract_low 4 15 0 4 _ _ (by decide)).trans ((extract_low 3 12 0 4 _ _ (by decide)).trans ((extract_low 7 5 0 4 _ _ (by decide)).trans ((extract_low 1 4 0 4 _ _ (by decide)).trans (extract_all 4 _))))))))⟩

theorem unpack_et {e : BitVec 3} {op : BitVec 6} {x2 : BitVec 2} {x3 : BitVec 6} {x4 : BitVec 4} {x5 : BitVec 3} {x6 : BitVec 3} {x7 : BitVec 1} {x8 : BitVec 4} (h : kindOf e op = some .et) :
    unpack (pack (.et e op x2 x3 x4 x5 x6 x7 x8)) = .ok (.et e op x2 x3 x4 x5 x6 x7 x8) := by
  have h1 : (pack (.et e op x2 x3 x4 x5 x6 x7 x8)).extractLsb' 29 3 = e := (extract_high 3 29 _ _)
  have h2 : (pack (.et e op x2 x3 x4 x5 x6 x7 x8)).extractLsb' 23 6 = op :=
    ((extract_low 3 29 23 6 _ _ (by decide)).trans (extract_high 6 23 _ _))
  unfold unpack
  rw [h1, h2]
  simp only [h, Except.ok.injEq, Fmt.et.injEq, true_and]
  exact ⟨((extract_low 3 29 21 2 _ _ (by decide)).trans ((extract_low 6 23 21 2 _ _ (by decide)).trans (extract_high 2 21 _ _))),
    ((extract_low 3 29 15 6 _ _ (by decide)).trans ((extract_low 6 23 15 6 _ _ (by decide)).trans ((extract_low 2 21 15 6 _ _ (by decide)).trans (extract_high 6 15 _ _)))),
    ((extract_low 3 29 11 4 _ _ (by decide)).trans ((extract_low 6 23 11 4 _ _ (by decide)).trans ((extract_low 2 21 11 4 _ _ (by decide)).trans ((extract_low 6 15 11 4 _ _ (by decide)).trans (extract_high 4 11 _ _))))),
    ((extract_low 3 29 8 3 _ _ (by decide)).trans ((extract_low 6 23 8 3 _ _ (by decide)).trans ((extract_low 2 21 8 3 _ _ (by decide)).trans ((extract_low 6 15 8 3 _ _ (by decide)).trans ((extract_low 4 11 8 3 _ _ (by decide)).trans (extract_high 3 8 _ _)))))),
    ((extract_low 3 29 5 3 _ _ (by decide)).trans ((extract_low 6 23 5 3 _ _ (by decide)).trans ((extract_low 2 21 5 3 _ _ (by decide)).trans ((extract_low 6 15 5 3 _ _ (by decide)).trans ((extract_low 4 11 5 3 _ _ (by decide)).trans ((extract_low 3 8 5 3 _ _ (by decide)).trans (extract_high 3 5 _ _))))))),
    ((extract_low 3 29 4 1 _ _ (by decide)).trans ((extract_low 6 23 4 1 _ _ (by decide)).trans ((extract_low 2 21 4 1 _ _ (by decide)).trans ((extract_low 6 15 4 1 _ _ (by decide)).trans ((extract_low 4 11 4 1 _ _ (by decide)).trans ((extract_low 3 8 4 1 _ _ (by decide)).trans ((extract_low 3 5 4 1 _ _ (by decide)).trans (extract_high 1 4 _ _)))))))),
    ((extract_low 3 29 0 4 _ _ (by decide)).trans ((extract_low 6 23 0 4 _ _ (by decide)).trans ((extract_low 2 21 0 4 _ _ (by decide)).trans ((extract_low 6 15 0 4 _ _ (by decide)).trans ((extract_low 4 11 0 4 _ _ (by decide)).trans ((extract_low 3 8 0 4 _ _ (by decide)).trans ((extract_low 3 5 0 4 _ _ (by decide)).trans ((extract_low 1 4 0 4 _ _ (by decide)).trans (extract_all 4 _)))))))))⟩

theorem unpack_xExt {x0 : BitVec 27} :
    unpack (pack (.xExt x0)) = .ok (.xExt x0) := by
  have h1 : (pack (.xExt x0)).extractLsb' 29 3 = 6 := (extract_high 3 29 _ _)
  have h2 : kindOf 6 ((pack (.xExt x0)).extractLsb' 23 6) = some .xExt := by
    have : ((pack (.xExt x0)).extractLsb' 23 6).extractLsb' 4 2 = 0 := by
      ext i hi; simp [pack]; grind
    simp [kindOf, this]
  unfold unpack
  simp only [h1, h2, Except.ok.injEq, Fmt.xExt.injEq]
  exact ((extract_low 3 29 0 27 _ _ (by decide)).trans ((extract_low 2 27 0 27 _ _ (by decide)).trans (extract_all 27 _)))

theorem unpack_xTws {x0 : BitVec 6} {x1 : BitVec 6} {x2 : BitVec 6} {x3 : BitVec 9} :
    unpack (pack (.xTws x0 x1 x2 x3)) = .ok (.xTws x0 x1 x2 x3) := by
  have h1 : (pack (.xTws x0 x1 x2 x3)).extractLsb' 29 3 = 6 := (extract_high 3 29 _ _)
  have h2 : kindOf 6 ((pack (.xTws x0 x1 x2 x3)).extractLsb' 23 6) = some .xTws := by
    have : ((pack (.xTws x0 x1 x2 x3)).extractLsb' 23 6).extractLsb' 4 2 = 1 := by
      ext i hi; simp [pack]; grind
    simp [kindOf, this]
  unfold unpack
  simp only [h1, h2, Except.ok.injEq, Fmt.xTws.injEq]
  exact ⟨((extract_low 3 29 21 6 _ _ (by decide)).trans ((extract_low 2 27 21 6 _ _ (by decide)).trans (extract_high 6 21 _ _))),
    ((extract_low 3 29 15 6 _ _ (by decide)).trans ((extract_low 2 27 15 6 _ _ (by decide)).trans ((extract_low 6 21 15 6 _ _ (by decide)).trans (extract_high 6 15 _ _)))),
    ((extract_low 3 29 9 6 _ _ (by decide)).trans ((extract_low 2 27 9 6 _ _ (by decide)).trans ((extract_low 6 21 9 6 _ _ (by decide)).trans ((extract_low 6 15 9 6 _ _ (by decide)).trans (extract_high 6 9 _ _))))),
    ((extract_low 3 29 0 9 _ _ (by decide)).trans ((extract_low 2 27 0 9 _ _ (by decide)).trans ((extract_low 6 21 0 9 _ _ (by decide)).trans ((extract_low 6 15 0 9 _ _ (by decide)).trans ((extract_low 6 9 0 9 _ _ (by decide)).trans (extract_all 9 _))))))⟩

theorem unpack_xFmtx {x0 : BitVec 4} {x1 : BitVec 4} {x2 : BitVec 1} {x3 : BitVec 1} {x4 : BitVec 8} {x5 : BitVec 9} :
    unpack (pack (.xFmtx x0 x1 x2 x3 x4 x5)) = .ok (.xFmtx x0 x1 x2 x3 x4 x5) := by
  have h1 : (pack (.xFmtx x0 x1 x2 x3 x4 x5)).extractLsb' 29 3 = 6 := (extract_high 3 29 _ _)
  have h2 : kindOf 6 ((pack (.xFmtx x0 x1 x2 x3 x4 x5)).extractLsb' 23 6) = some .xFmtx := by
    have : ((pack (.xFmtx x0 x1 x2 x3 x4 x5)).extractLsb' 23 6).extractLsb' 4 2 = 2 := by
      ext i hi; simp [pack]; grind
    simp [kindOf, this]
  unfold unpack
  simp only [h1, h2, Except.ok.injEq, Fmt.xFmtx.injEq]
  exact ⟨((extract_low 3 29 23 4 _ _ (by decide)).trans ((extract_low 2 27 23 4 _ _ (by decide)).trans (extract_high 4 23 _ _))),
    ((extract_low 3 29 19 4 _ _ (by decide)).trans ((extract_low 2 27 19 4 _ _ (by decide)).trans ((extract_low 4 23 19 4 _ _ (by decide)).trans (extract_high 4 19 _ _)))),
    ((extract_low 3 29 18 1 _ _ (by decide)).trans ((extract_low 2 27 18 1 _ _ (by decide)).trans ((extract_low 4 23 18 1 _ _ (by decide)).trans ((extract_low 4 19 18 1 _ _ (by decide)).trans (extract_high 1 18 _ _))))),
    ((extract_low 3 29 17 1 _ _ (by decide)).trans ((extract_low 2 27 17 1 _ _ (by decide)).trans ((extract_low 4 23 17 1 _ _ (by decide)).trans ((extract_low 4 19 17 1 _ _ (by decide)).trans ((extract_low 1 18 17 1 _ _ (by decide)).trans (extract_high 1 17 _ _)))))),
    ((extract_low 3 29 9 8 _ _ (by decide)).trans ((extract_low 2 27 9 8 _ _ (by decide)).trans ((extract_low 4 23 9 8 _ _ (by decide)).trans ((extract_low 4 19 9 8 _ _ (by decide)).trans ((extract_low 1 18 9 8 _ _ (by decide)).trans ((extract_low 1 17 9 8 _ _ (by decide)).trans (extract_high 8 9 _ _))))))),
    ((extract_low 3 29 0 9 _ _ (by decide)).trans ((extract_low 2 27 0 9 _ _ (by decide)).trans ((extract_low 4 23 0 9 _ _ (by decide)).trans ((extract_low 4 19 0 9 _ _ (by decide)).trans ((extract_low 1 18 0 9 _ _ (by decide)).trans ((extract_low 1 17 0 9 _ _ (by decide)).trans ((extract_low 8 9 0 9 _ _ (by decide)).trans (extract_all 9 _))))))))⟩

theorem unpack_mLoop {x0 : BitVec 2} {x1 : BitVec 8} {x2 : BitVec 13} :
    unpack (pack (.mLoop x0 x1 x2)) = .ok (.mLoop x0 x1 x2) := by
  have h1 : (pack (.mLoop x0 x1 x2)).extractLsb' 29 3 = 7 := (extract_high 3 29 _ _)
  have h2 : (pack (.mLoop x0 x1 x2)).extractLsb' 23 6 = 0 :=
    ((extract_low 3 29 23 6 _ _ (by decide)).trans (extract_high 6 23 _ _))
  unfold unpack
  rw [h1, h2]
  simp only [show kindOf 7 0 = some .mLoop from rfl, Except.ok.injEq, Fmt.mLoop.injEq]
  exact ⟨((extract_low 3 29 21 2 _ _ (by decide)).trans ((extract_low 6 23 21 2 _ _ (by decide)).trans (extract_high 2 21 _ _))),
    ((extract_low 3 29 13 8 _ _ (by decide)).trans ((extract_low 6 23 13 8 _ _ (by decide)).trans ((extract_low 2 21 13 8 _ _ (by decide)).trans (extract_high 8 13 _ _)))),
    ((extract_low 3 29 0 13 _ _ (by decide)).trans ((extract_low 6 23 0 13 _ _ (by decide)).trans ((extract_low 2 21 0 13 _ _ (by decide)).trans ((extract_low 8 13 0 13 _ _ (by decide)).trans (extract_all 13 _)))))⟩

theorem unpack_mRole {x0 : BitVec 16} {x1 : BitVec 7} :
    unpack (pack (.mRole x0 x1)) = .ok (.mRole x0 x1) := by
  have h1 : (pack (.mRole x0 x1)).extractLsb' 29 3 = 7 := (extract_high 3 29 _ _)
  have h2 : (pack (.mRole x0 x1)).extractLsb' 23 6 = 1 :=
    ((extract_low 3 29 23 6 _ _ (by decide)).trans (extract_high 6 23 _ _))
  unfold unpack
  rw [h1, h2]
  simp only [show kindOf 7 1 = some .mRole from rfl, Except.ok.injEq, Fmt.mRole.injEq]
  exact ⟨((extract_low 3 29 7 16 _ _ (by decide)).trans ((extract_low 6 23 7 16 _ _ (by decide)).trans (extract_high 16 7 _ _))),
    ((extract_low 3 29 0 7 _ _ (by decide)).trans ((extract_low 6 23 0 7 _ _ (by decide)).trans ((extract_low 16 7 0 7 _ _ (by decide)).trans (extract_all 7 _))))⟩

theorem unpack_mBeg {x0 : BitVec 12} {x1 : BitVec 5} {x2 : BitVec 6} :
    unpack (pack (.mBeg x0 x1 x2)) = .ok (.mBeg x0 x1 x2) := by
  have h1 : (pack (.mBeg x0 x1 x2)).extractLsb' 29 3 = 7 := (extract_high 3 29 _ _)
  have h2 : (pack (.mBeg x0 x1 x2)).extractLsb' 23 6 = 2 :=
    ((extract_low 3 29 23 6 _ _ (by decide)).trans (extract_high 6 23 _ _))
  unfold unpack
  rw [h1, h2]
  simp only [show kindOf 7 2 = some .mBeg from rfl, Except.ok.injEq, Fmt.mBeg.injEq]
  exact ⟨((extract_low 3 29 11 12 _ _ (by decide)).trans ((extract_low 6 23 11 12 _ _ (by decide)).trans (extract_high 12 11 _ _))),
    ((extract_low 3 29 6 5 _ _ (by decide)).trans ((extract_low 6 23 6 5 _ _ (by decide)).trans ((extract_low 12 11 6 5 _ _ (by decide)).trans (extract_high 5 6 _ _)))),
    ((extract_low 3 29 0 6 _ _ (by decide)).trans ((extract_low 6 23 0 6 _ _ (by decide)).trans ((extract_low 12 11 0 6 _ _ (by decide)).trans ((extract_low 5 6 0 6 _ _ (by decide)).trans (extract_all 6 _)))))⟩

theorem unpack_mSpan {x0 : BitVec 7} {x1 : BitVec 16} :
    unpack (pack (.mSpan x0 x1)) = .ok (.mSpan x0 x1) := by
  have h1 : (pack (.mSpan x0 x1)).extractLsb' 29 3 = 7 := (extract_high 3 29 _ _)
  have h2 : (pack (.mSpan x0 x1)).extractLsb' 23 6 = 4 :=
    ((extract_low 3 29 23 6 _ _ (by decide)).trans (extract_high 6 23 _ _))
  unfold unpack
  rw [h1, h2]
  simp only [show kindOf 7 4 = some .mSpan from rfl, Except.ok.injEq, Fmt.mSpan.injEq]
  exact ⟨((extract_low 3 29 16 7 _ _ (by decide)).trans ((extract_low 6 23 16 7 _ _ (by decide)).trans (extract_high 7 16 _ _))),
    ((extract_low 3 29 0 16 _ _ (by decide)).trans ((extract_low 6 23 0 16 _ _ (by decide)).trans ((extract_low 7 16 0 16 _ _ (by decide)).trans (extract_all 16 _))))⟩

theorem unpack_mXfer {x0 : BitVec 4} {x1 : BitVec 4} {x2 : BitVec 2} {x3 : BitVec 5} {x4 : BitVec 8} :
    unpack (pack (.mXfer x0 x1 x2 x3 x4)) = .ok (.mXfer x0 x1 x2 x3 x4) := by
  have h1 : (pack (.mXfer x0 x1 x2 x3 x4)).extractLsb' 29 3 = 7 := (extract_high 3 29 _ _)
  have h2 : (pack (.mXfer x0 x1 x2 x3 x4)).extractLsb' 23 6 = 5 :=
    ((extract_low 3 29 23 6 _ _ (by decide)).trans (extract_high 6 23 _ _))
  unfold unpack
  rw [h1, h2]
  simp only [show kindOf 7 5 = some .mXfer from rfl, Except.ok.injEq, Fmt.mXfer.injEq]
  exact ⟨((extract_low 3 29 19 4 _ _ (by decide)).trans ((extract_low 6 23 19 4 _ _ (by decide)).trans (extract_high 4 19 _ _))),
    ((extract_low 3 29 15 4 _ _ (by decide)).trans ((extract_low 6 23 15 4 _ _ (by decide)).trans ((extract_low 4 19 15 4 _ _ (by decide)).trans (extract_high 4 15 _ _)))),
    ((extract_low 3 29 13 2 _ _ (by decide)).trans ((extract_low 6 23 13 2 _ _ (by decide)).trans ((extract_low 4 19 13 2 _ _ (by decide)).trans ((extract_low 4 15 13 2 _ _ (by decide)).trans (extract_high 2 13 _ _))))),
    ((extract_low 3 29 8 5 _ _ (by decide)).trans ((extract_low 6 23 8 5 _ _ (by decide)).trans ((extract_low 4 19 8 5 _ _ (by decide)).trans ((extract_low 4 15 8 5 _ _ (by decide)).trans ((extract_low 2 13 8 5 _ _ (by decide)).trans (extract_high 5 8 _ _)))))),
    ((extract_low 3 29 0 8 _ _ (by decide)).trans ((extract_low 6 23 0 8 _ _ (by decide)).trans ((extract_low 4 19 0 8 _ _ (by decide)).trans ((extract_low 4 15 0 8 _ _ (by decide)).trans ((extract_low 2 13 0 8 _ _ (by decide)).trans ((extract_low 5 8 0 8 _ _ (by decide)).trans (extract_all 8 _)))))))⟩

theorem unpack_mBound {op : BitVec 6} {x1 : BitVec 15} {x2 : BitVec 8} (h : kindOf 7 op = some .mBound) :
    unpack (pack (.mBound op x1 x2)) = .ok (.mBound op x1 x2) := by
  have h1 : (pack (.mBound op x1 x2)).extractLsb' 29 3 = 7 := (extract_high 3 29 _ _)
  have h2 : (pack (.mBound op x1 x2)).extractLsb' 23 6 = op :=
    ((extract_low 3 29 23 6 _ _ (by decide)).trans (extract_high 6 23 _ _))
  unfold unpack
  rw [h1, h2]
  simp only [h, Except.ok.injEq, Fmt.mBound.injEq, true_and]
  exact ⟨((extract_low 3 29 8 15 _ _ (by decide)).trans ((extract_low 6 23 8 15 _ _ (by decide)).trans (extract_high 15 8 _ _))),
    ((extract_low 3 29 0 8 _ _ (by decide)).trans ((extract_low 6 23 0 8 _ _ (by decide)).trans ((extract_low 15 8 0 8 _ _ (by decide)).trans (extract_all 8 _))))⟩

end Sys2Proof
end

