-- ==== Sys2Proof/Laws/State.lean ====
section
/-! SUPPORT. Sys2Proof/Laws/State.lean: what each update of the state leaves, field by field, and what the accessors read
after it. -/

namespace Sys2Proof.Machine

variable (s : State)

/-! ### State.setCore -/

@[simp] theorem State.setCore_mem (n : Nat) (c : Core) : (s.setCore n c).mem = s.mem := rfl
@[simp] theorem State.setCore_scratch (n : Nat) (c : Core) : (s.setCore n c).scratch = s.scratch := rfl
@[simp] theorem State.setCore_host (n : Nat) (c : Core) : (s.setCore n c).host = s.host := rfl
@[simp] theorem State.setCore_peer (n : Nat) (c : Core) : (s.setCore n c).peer = s.peer := rfl
@[simp] theorem State.setCore_lines (n : Nat) (c : Core) : (s.setCore n c).lines = s.lines := rfl
@[simp] theorem State.setCore_scrLines (n : Nat) (c : Core) : (s.setCore n c).scrLines = s.scrLines := rfl
@[simp] theorem State.setCore_copies (n : Nat) (c : Core) : (s.setCore n c).copies = s.copies := rfl
@[simp] theorem State.setCore_devCopies (n : Nat) (c : Core) : (s.setCore n c).devCopies = s.devCopies := rfl
@[simp] theorem State.setCore_attrs (n : Nat) (c : Core) : (s.setCore n c).attrs = s.attrs := rfl
@[simp] theorem State.setCore_poison (n : Nat) (c : Core) : (s.setCore n c).poison = s.poison := rfl
@[simp] theorem State.setCore_shadows (n : Nat) (c : Core) : (s.setCore n c).shadows = s.shadows := rfl
@[simp] theorem State.setCore_ops (n : Nat) (c : Core) : (s.setCore n c).ops = s.ops := rfl
@[simp] theorem State.setCore_reqs (n : Nat) (c : Core) : (s.setCore n c).reqs = s.reqs := rfl
@[simp] theorem State.setCore_sys (n : Nat) (c : Core) : (s.setCore n c).sys = s.sys := rfl
@[simp] theorem State.setCore_aoseqs (n : Nat) (c : Core) : (s.setCore n c).aoseqs = s.aoseqs := rfl
@[simp] theorem State.setCore_nextId (n : Nat) (c : Core) : (s.setCore n c).nextId = s.nextId := rfl
@[simp] theorem State.setCore_parts (n : Nat) (c : Core) : (s.setCore n c).parts = s.parts := rfl
@[simp] theorem State.setCore_slots (n : Nat) (c : Core) : (s.setCore n c).slots = s.slots := rfl
@[simp] theorem State.setCore_launches (n : Nat) (c : Core) : (s.setCore n c).launches = s.launches := rfl
@[simp] theorem State.setCore_gangs (n : Nat) (c : Core) : (s.setCore n c).gangs = s.gangs := rfl
@[simp] theorem State.setCore_teams (n : Nat) (c : Core) : (s.setCore n c).teams = s.teams := rfl
@[simp] theorem State.setCore_objs (n : Nat) (c : Core) : (s.setCore n c).objs = s.objs := rfl
@[simp] theorem State.setCore_subs (n : Nat) (c : Core) : (s.setCore n c).subs = s.subs := rfl
@[simp] theorem State.setCore_invs (n : Nat) (c : Core) : (s.setCore n c).invs = s.invs := rfl
@[simp] theorem State.setCore_vfs (n : Nat) (c : Core) : (s.setCore n c).vfs = s.vfs := rfl
@[simp] theorem State.setCore_pods (n : Nat) (c : Core) : (s.setCore n c).pods = s.pods := rfl
@[simp] theorem State.setCore_dies (n : Nat) (c : Core) : (s.setCore n c).dies = s.dies := rfl
@[simp] theorem State.setCore_msix (n : Nat) (c : Core) : (s.setCore n c).msix = s.msix := rfl
@[simp] theorem State.setCore_hostData (n : Nat) (c : Core) : (s.setCore n c).hostData = s.hostData := rfl
@[simp] theorem State.setCore_pf (n : Nat) (c : Core) : (s.setCore n c).pf = s.pf := rfl
@[simp] theorem State.setCore_pf1Status (n : Nat) (c : Core) : (s.setCore n c).pf1Status = s.pf1Status := rfl
@[simp] theorem State.setCore_reftime (n : Nat) (c : Core) : (s.setCore n c).reftime = s.reftime := rfl
@[simp] theorem State.setCore_boot (n : Nat) (c : Core) : (s.setCore n c).boot = s.boot := rfl
@[simp] theorem State.setCore_slotB (n : Nat) (c : Core) : (s.setCore n c).slotB = s.slotB := rfl
@[simp] theorem State.setCore_failedStarts (n : Nat) (c : Core) : (s.setCore n c).failedStarts = s.failedStarts := rfl
@[simp] theorem State.setCore_training (n : Nat) (c : Core) : (s.setCore n c).training = s.training := rfl
@[simp] theorem State.setCore_meas (n : Nat) (c : Core) : (s.setCore n c).meas = s.meas := rfl
@[simp] theorem State.setCore_deviceKey (n : Nat) (c : Core) : (s.setCore n c).deviceKey = s.deviceKey := rfl
@[simp] theorem State.setCore_spdm (n : Nat) (c : Core) : (s.setCore n c).spdm = s.spdm := rfl
@[simp] theorem State.setCore_ide (n : Nat) (c : Core) : (s.setCore n c).ide = s.ide := rfl
@[simp] theorem State.setCore_recs (n : Nat) (c : Core) : (s.setCore n c).recs = s.recs := rfl
@[simp] theorem State.setCore_save (n : Nat) (c : Core) : (s.setCore n c).save = s.save := rfl
@[simp] theorem State.setCore_turn (n : Nat) (c : Core) : (s.setCore n c).turn = s.turn := rfl
@[simp] theorem State.setCore_fresh (n : Nat) (c : Core) : (s.setCore n c).fresh = s.fresh := rfl

/-! ### State.updCore -/

@[simp] theorem State.updCore_mem (n : Nat) (f : Core → Core) : (s.updCore n f).mem = s.mem := rfl
@[simp] theorem State.updCore_scratch (n : Nat) (f : Core → Core) : (s.updCore n f).scratch = s.scratch := rfl
@[simp] theorem State.updCore_host (n : Nat) (f : Core → Core) : (s.updCore n f).host = s.host := rfl
@[simp] theorem State.updCore_peer (n : Nat) (f : Core → Core) : (s.updCore n f).peer = s.peer := rfl
@[simp] theorem State.updCore_lines (n : Nat) (f : Core → Core) : (s.updCore n f).lines = s.lines := rfl
@[simp] theorem State.updCore_scrLines (n : Nat) (f : Core → Core) : (s.updCore n f).scrLines = s.scrLines := rfl
@[simp] theorem State.updCore_copies (n : Nat) (f : Core → Core) : (s.updCore n f).copies = s.copies := rfl
@[simp] theorem State.updCore_devCopies (n : Nat) (f : Core → Core) : (s.updCore n f).devCopies = s.devCopies := rfl
@[simp] theorem State.updCore_attrs (n : Nat) (f : Core → Core) : (s.updCore n f).attrs = s.attrs := rfl
@[simp] theorem State.updCore_poison (n : Nat) (f : Core → Core) : (s.updCore n f).poison = s.poison := rfl
@[simp] theorem State.updCore_shadows (n : Nat) (f : Core → Core) : (s.updCore n f).shadows = s.shadows := rfl
@[simp] theorem State.updCore_ops (n : Nat) (f : Core → Core) : (s.updCore n f).ops = s.ops := rfl
@[simp] theorem State.updCore_reqs (n : Nat) (f : Core → Core) : (s.updCore n f).reqs = s.reqs := rfl
@[simp] theorem State.updCore_sys (n : Nat) (f : Core → Core) : (s.updCore n f).sys = s.sys := rfl
@[simp] theorem State.updCore_aoseqs (n : Nat) (f : Core → Core) : (s.updCore n f).aoseqs = s.aoseqs := rfl
@[simp] theorem State.updCore_nextId (n : Nat) (f : Core → Core) : (s.updCore n f).nextId = s.nextId := rfl
@[simp] theorem State.updCore_parts (n : Nat) (f : Core → Core) : (s.updCore n f).parts = s.parts := rfl
@[simp] theorem State.updCore_slots (n : Nat) (f : Core → Core) : (s.updCore n f).slots = s.slots := rfl
@[simp] theorem State.updCore_launches (n : Nat) (f : Core → Core) : (s.updCore n f).launches = s.launches := rfl
@[simp] theorem State.updCore_gangs (n : Nat) (f : Core → Core) : (s.updCore n f).gangs = s.gangs := rfl
@[simp] theorem State.updCore_teams (n : Nat) (f : Core → Core) : (s.updCore n f).teams = s.teams := rfl
@[simp] theorem State.updCore_objs (n : Nat) (f : Core → Core) : (s.updCore n f).objs = s.objs := rfl
@[simp] theorem State.updCore_subs (n : Nat) (f : Core → Core) : (s.updCore n f).subs = s.subs := rfl
@[simp] theorem State.updCore_invs (n : Nat) (f : Core → Core) : (s.updCore n f).invs = s.invs := rfl
@[simp] theorem State.updCore_vfs (n : Nat) (f : Core → Core) : (s.updCore n f).vfs = s.vfs := rfl
@[simp] theorem State.updCore_pods (n : Nat) (f : Core → Core) : (s.updCore n f).pods = s.pods := rfl
@[simp] theorem State.updCore_dies (n : Nat) (f : Core → Core) : (s.updCore n f).dies = s.dies := rfl
@[simp] theorem State.updCore_msix (n : Nat) (f : Core → Core) : (s.updCore n f).msix = s.msix := rfl
@[simp] theorem State.updCore_hostData (n : Nat) (f : Core → Core) : (s.updCore n f).hostData = s.hostData := rfl
@[simp] theorem State.updCore_pf (n : Nat) (f : Core → Core) : (s.updCore n f).pf = s.pf := rfl
@[simp] theorem State.updCore_pf1Status (n : Nat) (f : Core → Core) : (s.updCore n f).pf1Status = s.pf1Status := rfl
@[simp] theorem State.updCore_reftime (n : Nat) (f : Core → Core) : (s.updCore n f).reftime = s.reftime := rfl
@[simp] theorem State.updCore_boot (n : Nat) (f : Core → Core) : (s.updCore n f).boot = s.boot := rfl
@[simp] theorem State.updCore_slotB (n : Nat) (f : Core → Core) : (s.updCore n f).slotB = s.slotB := rfl
@[simp] theorem State.updCore_failedStarts (n : Nat) (f : Core → Core) : (s.updCore n f).failedStarts = s.failedStarts := rfl
@[simp] theorem State.updCore_training (n : Nat) (f : Core → Core) : (s.updCore n f).training = s.training := rfl
@[simp] theorem State.updCore_meas (n : Nat) (f : Core → Core) : (s.updCore n f).meas = s.meas := rfl
@[simp] theorem State.updCore_deviceKey (n : Nat) (f : Core → Core) : (s.updCore n f).deviceKey = s.deviceKey := rfl
@[simp] theorem State.updCore_spdm (n : Nat) (f : Core → Core) : (s.updCore n f).spdm = s.spdm := rfl
@[simp] theorem State.updCore_ide (n : Nat) (f : Core → Core) : (s.updCore n f).ide = s.ide := rfl
@[simp] theorem State.updCore_recs (n : Nat) (f : Core → Core) : (s.updCore n f).recs = s.recs := rfl
@[simp] theorem State.updCore_save (n : Nat) (f : Core → Core) : (s.updCore n f).save = s.save := rfl
@[simp] theorem State.updCore_turn (n : Nat) (f : Core → Core) : (s.updCore n f).turn = s.turn := rfl
@[simp] theorem State.updCore_fresh (n : Nat) (f : Core → Core) : (s.updCore n f).fresh = s.fresh := rfl

/-! ### State.onCore -/

@[simp] theorem State.onCore_mem (f : Core → Core) : (s.onCore f).mem = s.mem := rfl
@[simp] theorem State.onCore_scratch (f : Core → Core) : (s.onCore f).scratch = s.scratch := rfl
@[simp] theorem State.onCore_host (f : Core → Core) : (s.onCore f).host = s.host := rfl
@[simp] theorem State.onCore_peer (f : Core → Core) : (s.onCore f).peer = s.peer := rfl
@[simp] theorem State.onCore_lines (f : Core → Core) : (s.onCore f).lines = s.lines := rfl
@[simp] theorem State.onCore_scrLines (f : Core → Core) : (s.onCore f).scrLines = s.scrLines := rfl
@[simp] theorem State.onCore_copies (f : Core → Core) : (s.onCore f).copies = s.copies := rfl
@[simp] theorem State.onCore_devCopies (f : Core → Core) : (s.onCore f).devCopies = s.devCopies := rfl
@[simp] theorem State.onCore_attrs (f : Core → Core) : (s.onCore f).attrs = s.attrs := rfl
@[simp] theorem State.onCore_poison (f : Core → Core) : (s.onCore f).poison = s.poison := rfl
@[simp] theorem State.onCore_shadows (f : Core → Core) : (s.onCore f).shadows = s.shadows := rfl
@[simp] theorem State.onCore_ops (f : Core → Core) : (s.onCore f).ops = s.ops := rfl
@[simp] theorem State.onCore_reqs (f : Core → Core) : (s.onCore f).reqs = s.reqs := rfl
@[simp] theorem State.onCore_sys (f : Core → Core) : (s.onCore f).sys = s.sys := rfl
@[simp] theorem State.onCore_aoseqs (f : Core → Core) : (s.onCore f).aoseqs = s.aoseqs := rfl
@[simp] theorem State.onCore_nextId (f : Core → Core) : (s.onCore f).nextId = s.nextId := rfl
@[simp] theorem State.onCore_parts (f : Core → Core) : (s.onCore f).parts = s.parts := rfl
@[simp] theorem State.onCore_slots (f : Core → Core) : (s.onCore f).slots = s.slots := rfl
@[simp] theorem State.onCore_launches (f : Core → Core) : (s.onCore f).launches = s.launches := rfl
@[simp] theorem State.onCore_gangs (f : Core → Core) : (s.onCore f).gangs = s.gangs := rfl
@[simp] theorem State.onCore_teams (f : Core → Core) : (s.onCore f).teams = s.teams := rfl
@[simp] theorem State.onCore_objs (f : Core → Core) : (s.onCore f).objs = s.objs := rfl
@[simp] theorem State.onCore_subs (f : Core → Core) : (s.onCore f).subs = s.subs := rfl
@[simp] theorem State.onCore_invs (f : Core → Core) : (s.onCore f).invs = s.invs := rfl
@[simp] theorem State.onCore_vfs (f : Core → Core) : (s.onCore f).vfs = s.vfs := rfl
@[simp] theorem State.onCore_pods (f : Core → Core) : (s.onCore f).pods = s.pods := rfl
@[simp] theorem State.onCore_dies (f : Core → Core) : (s.onCore f).dies = s.dies := rfl
@[simp] theorem State.onCore_msix (f : Core → Core) : (s.onCore f).msix = s.msix := rfl
@[simp] theorem State.onCore_hostData (f : Core → Core) : (s.onCore f).hostData = s.hostData := rfl
@[simp] theorem State.onCore_pf (f : Core → Core) : (s.onCore f).pf = s.pf := rfl
@[simp] theorem State.onCore_pf1Status (f : Core → Core) : (s.onCore f).pf1Status = s.pf1Status := rfl
@[simp] theorem State.onCore_reftime (f : Core → Core) : (s.onCore f).reftime = s.reftime := rfl
@[simp] theorem State.onCore_boot (f : Core → Core) : (s.onCore f).boot = s.boot := rfl
@[simp] theorem State.onCore_slotB (f : Core → Core) : (s.onCore f).slotB = s.slotB := rfl
@[simp] theorem State.onCore_failedStarts (f : Core → Core) : (s.onCore f).failedStarts = s.failedStarts := rfl
@[simp] theorem State.onCore_training (f : Core → Core) : (s.onCore f).training = s.training := rfl
@[simp] theorem State.onCore_meas (f : Core → Core) : (s.onCore f).meas = s.meas := rfl
@[simp] theorem State.onCore_deviceKey (f : Core → Core) : (s.onCore f).deviceKey = s.deviceKey := rfl
@[simp] theorem State.onCore_spdm (f : Core → Core) : (s.onCore f).spdm = s.spdm := rfl
@[simp] theorem State.onCore_ide (f : Core → Core) : (s.onCore f).ide = s.ide := rfl
@[simp] theorem State.onCore_recs (f : Core → Core) : (s.onCore f).recs = s.recs := rfl
@[simp] theorem State.onCore_save (f : Core → Core) : (s.onCore f).save = s.save := rfl
@[simp] theorem State.onCore_turn (f : Core → Core) : (s.onCore f).turn = s.turn := rfl
@[simp] theorem State.onCore_fresh (f : Core → Core) : (s.onCore f).fresh = s.fresh := rfl

/-! ### State.onCtx -/

@[simp] theorem State.onCtx_mem (f : Ctx → Ctx) : (s.onCtx f).mem = s.mem := rfl
@[simp] theorem State.onCtx_scratch (f : Ctx → Ctx) : (s.onCtx f).scratch = s.scratch := rfl
@[simp] theorem State.onCtx_host (f : Ctx → Ctx) : (s.onCtx f).host = s.host := rfl
@[simp] theorem State.onCtx_peer (f : Ctx → Ctx) : (s.onCtx f).peer = s.peer := rfl
@[simp] theorem State.onCtx_lines (f : Ctx → Ctx) : (s.onCtx f).lines = s.lines := rfl
@[simp] theorem State.onCtx_scrLines (f : Ctx → Ctx) : (s.onCtx f).scrLines = s.scrLines := rfl
@[simp] theorem State.onCtx_copies (f : Ctx → Ctx) : (s.onCtx f).copies = s.copies := rfl
@[simp] theorem State.onCtx_devCopies (f : Ctx → Ctx) : (s.onCtx f).devCopies = s.devCopies := rfl
@[simp] theorem State.onCtx_attrs (f : Ctx → Ctx) : (s.onCtx f).attrs = s.attrs := rfl
@[simp] theorem State.onCtx_poison (f : Ctx → Ctx) : (s.onCtx f).poison = s.poison := rfl
@[simp] theorem State.onCtx_shadows (f : Ctx → Ctx) : (s.onCtx f).shadows = s.shadows := rfl
@[simp] theorem State.onCtx_ops (f : Ctx → Ctx) : (s.onCtx f).ops = s.ops := rfl
@[simp] theorem State.onCtx_reqs (f : Ctx → Ctx) : (s.onCtx f).reqs = s.reqs := rfl
@[simp] theorem State.onCtx_sys (f : Ctx → Ctx) : (s.onCtx f).sys = s.sys := rfl
@[simp] theorem State.onCtx_aoseqs (f : Ctx → Ctx) : (s.onCtx f).aoseqs = s.aoseqs := rfl
@[simp] theorem State.onCtx_nextId (f : Ctx → Ctx) : (s.onCtx f).nextId = s.nextId := rfl
@[simp] theorem State.onCtx_parts (f : Ctx → Ctx) : (s.onCtx f).parts = s.parts := rfl
@[simp] theorem State.onCtx_slots (f : Ctx → Ctx) : (s.onCtx f).slots = s.slots := rfl
@[simp] theorem State.onCtx_launches (f : Ctx → Ctx) : (s.onCtx f).launches = s.launches := rfl
@[simp] theorem State.onCtx_gangs (f : Ctx → Ctx) : (s.onCtx f).gangs = s.gangs := rfl
@[simp] theorem State.onCtx_teams (f : Ctx → Ctx) : (s.onCtx f).teams = s.teams := rfl
@[simp] theorem State.onCtx_objs (f : Ctx → Ctx) : (s.onCtx f).objs = s.objs := rfl
@[simp] theorem State.onCtx_subs (f : Ctx → Ctx) : (s.onCtx f).subs = s.subs := rfl
@[simp] theorem State.onCtx_invs (f : Ctx → Ctx) : (s.onCtx f).invs = s.invs := rfl
@[simp] theorem State.onCtx_vfs (f : Ctx → Ctx) : (s.onCtx f).vfs = s.vfs := rfl
@[simp] theorem State.onCtx_pods (f : Ctx → Ctx) : (s.onCtx f).pods = s.pods := rfl
@[simp] theorem State.onCtx_dies (f : Ctx → Ctx) : (s.onCtx f).dies = s.dies := rfl
@[simp] theorem State.onCtx_msix (f : Ctx → Ctx) : (s.onCtx f).msix = s.msix := rfl
@[simp] theorem State.onCtx_hostData (f : Ctx → Ctx) : (s.onCtx f).hostData = s.hostData := rfl
@[simp] theorem State.onCtx_pf (f : Ctx → Ctx) : (s.onCtx f).pf = s.pf := rfl
@[simp] theorem State.onCtx_pf1Status (f : Ctx → Ctx) : (s.onCtx f).pf1Status = s.pf1Status := rfl
@[simp] theorem State.onCtx_reftime (f : Ctx → Ctx) : (s.onCtx f).reftime = s.reftime := rfl
@[simp] theorem State.onCtx_boot (f : Ctx → Ctx) : (s.onCtx f).boot = s.boot := rfl
@[simp] theorem State.onCtx_slotB (f : Ctx → Ctx) : (s.onCtx f).slotB = s.slotB := rfl
@[simp] theorem State.onCtx_failedStarts (f : Ctx → Ctx) : (s.onCtx f).failedStarts = s.failedStarts := rfl
@[simp] theorem State.onCtx_training (f : Ctx → Ctx) : (s.onCtx f).training = s.training := rfl
@[simp] theorem State.onCtx_meas (f : Ctx → Ctx) : (s.onCtx f).meas = s.meas := rfl
@[simp] theorem State.onCtx_deviceKey (f : Ctx → Ctx) : (s.onCtx f).deviceKey = s.deviceKey := rfl
@[simp] theorem State.onCtx_spdm (f : Ctx → Ctx) : (s.onCtx f).spdm = s.spdm := rfl
@[simp] theorem State.onCtx_ide (f : Ctx → Ctx) : (s.onCtx f).ide = s.ide := rfl
@[simp] theorem State.onCtx_recs (f : Ctx → Ctx) : (s.onCtx f).recs = s.recs := rfl
@[simp] theorem State.onCtx_save (f : Ctx → Ctx) : (s.onCtx f).save = s.save := rfl
@[simp] theorem State.onCtx_turn (f : Ctx → Ctx) : (s.onCtx f).turn = s.turn := rfl
@[simp] theorem State.onCtx_fresh (f : Ctx → Ctx) : (s.onCtx f).fresh = s.fresh := rfl

/-! ### State.setG -/

@[simp] theorem State.setG_mem (r : BitVec 5) (v : Word) : (s.setG r v).mem = s.mem := rfl
@[simp] theorem State.setG_scratch (r : BitVec 5) (v : Word) : (s.setG r v).scratch = s.scratch := rfl
@[simp] theorem State.setG_host (r : BitVec 5) (v : Word) : (s.setG r v).host = s.host := rfl
@[simp] theorem State.setG_peer (r : BitVec 5) (v : Word) : (s.setG r v).peer = s.peer := rfl
@[simp] theorem State.setG_lines (r : BitVec 5) (v : Word) : (s.setG r v).lines = s.lines := rfl
@[simp] theorem State.setG_scrLines (r : BitVec 5) (v : Word) : (s.setG r v).scrLines = s.scrLines := rfl
@[simp] theorem State.setG_copies (r : BitVec 5) (v : Word) : (s.setG r v).copies = s.copies := rfl
@[simp] theorem State.setG_devCopies (r : BitVec 5) (v : Word) : (s.setG r v).devCopies = s.devCopies := rfl
@[simp] theorem State.setG_attrs (r : BitVec 5) (v : Word) : (s.setG r v).attrs = s.attrs := rfl
@[simp] theorem State.setG_poison (r : BitVec 5) (v : Word) : (s.setG r v).poison = s.poison := rfl
@[simp] theorem State.setG_shadows (r : BitVec 5) (v : Word) : (s.setG r v).shadows = s.shadows := rfl
@[simp] theorem State.setG_ops (r : BitVec 5) (v : Word) : (s.setG r v).ops = s.ops := rfl
@[simp] theorem State.setG_reqs (r : BitVec 5) (v : Word) : (s.setG r v).reqs = s.reqs := rfl
@[simp] theorem State.setG_sys (r : BitVec 5) (v : Word) : (s.setG r v).sys = s.sys := rfl
@[simp] theorem State.setG_aoseqs (r : BitVec 5) (v : Word) : (s.setG r v).aoseqs = s.aoseqs := rfl
@[simp] theorem State.setG_nextId (r : BitVec 5) (v : Word) : (s.setG r v).nextId = s.nextId := rfl
@[simp] theorem State.setG_parts (r : BitVec 5) (v : Word) : (s.setG r v).parts = s.parts := rfl
@[simp] theorem State.setG_slots (r : BitVec 5) (v : Word) : (s.setG r v).slots = s.slots := rfl
@[simp] theorem State.setG_launches (r : BitVec 5) (v : Word) : (s.setG r v).launches = s.launches := rfl
@[simp] theorem State.setG_gangs (r : BitVec 5) (v : Word) : (s.setG r v).gangs = s.gangs := rfl
@[simp] theorem State.setG_teams (r : BitVec 5) (v : Word) : (s.setG r v).teams = s.teams := rfl
@[simp] theorem State.setG_objs (r : BitVec 5) (v : Word) : (s.setG r v).objs = s.objs := rfl
@[simp] theorem State.setG_subs (r : BitVec 5) (v : Word) : (s.setG r v).subs = s.subs := rfl
@[simp] theorem State.setG_invs (r : BitVec 5) (v : Word) : (s.setG r v).invs = s.invs := rfl
@[simp] theorem State.setG_vfs (r : BitVec 5) (v : Word) : (s.setG r v).vfs = s.vfs := rfl
@[simp] theorem State.setG_pods (r : BitVec 5) (v : Word) : (s.setG r v).pods = s.pods := rfl
@[simp] theorem State.setG_dies (r : BitVec 5) (v : Word) : (s.setG r v).dies = s.dies := rfl
@[simp] theorem State.setG_msix (r : BitVec 5) (v : Word) : (s.setG r v).msix = s.msix := rfl
@[simp] theorem State.setG_hostData (r : BitVec 5) (v : Word) : (s.setG r v).hostData = s.hostData := rfl
@[simp] theorem State.setG_pf (r : BitVec 5) (v : Word) : (s.setG r v).pf = s.pf := rfl
@[simp] theorem State.setG_pf1Status (r : BitVec 5) (v : Word) : (s.setG r v).pf1Status = s.pf1Status := rfl
@[simp] theorem State.setG_reftime (r : BitVec 5) (v : Word) : (s.setG r v).reftime = s.reftime := rfl
@[simp] theorem State.setG_boot (r : BitVec 5) (v : Word) : (s.setG r v).boot = s.boot := rfl
@[simp] theorem State.setG_slotB (r : BitVec 5) (v : Word) : (s.setG r v).slotB = s.slotB := rfl
@[simp] theorem State.setG_failedStarts (r : BitVec 5) (v : Word) : (s.setG r v).failedStarts = s.failedStarts := rfl
@[simp] theorem State.setG_training (r : BitVec 5) (v : Word) : (s.setG r v).training = s.training := rfl
@[simp] theorem State.setG_meas (r : BitVec 5) (v : Word) : (s.setG r v).meas = s.meas := rfl
@[simp] theorem State.setG_deviceKey (r : BitVec 5) (v : Word) : (s.setG r v).deviceKey = s.deviceKey := rfl
@[simp] theorem State.setG_spdm (r : BitVec 5) (v : Word) : (s.setG r v).spdm = s.spdm := rfl
@[simp] theorem State.setG_ide (r : BitVec 5) (v : Word) : (s.setG r v).ide = s.ide := rfl
@[simp] theorem State.setG_recs (r : BitVec 5) (v : Word) : (s.setG r v).recs = s.recs := rfl
@[simp] theorem State.setG_save (r : BitVec 5) (v : Word) : (s.setG r v).save = s.save := rfl
@[simp] theorem State.setG_turn (r : BitVec 5) (v : Word) : (s.setG r v).turn = s.turn := rfl
@[simp] theorem State.setG_fresh (r : BitVec 5) (v : Word) : (s.setG r v).fresh = s.fresh := rfl

/-! ### State.setP -/

@[simp] theorem State.setP_mem (r : BitVec 3) (v : Bool) : (s.setP r v).mem = s.mem := rfl
@[simp] theorem State.setP_scratch (r : BitVec 3) (v : Bool) : (s.setP r v).scratch = s.scratch := rfl
@[simp] theorem State.setP_host (r : BitVec 3) (v : Bool) : (s.setP r v).host = s.host := rfl
@[simp] theorem State.setP_peer (r : BitVec 3) (v : Bool) : (s.setP r v).peer = s.peer := rfl
@[simp] theorem State.setP_lines (r : BitVec 3) (v : Bool) : (s.setP r v).lines = s.lines := rfl
@[simp] theorem State.setP_scrLines (r : BitVec 3) (v : Bool) : (s.setP r v).scrLines = s.scrLines := rfl
@[simp] theorem State.setP_copies (r : BitVec 3) (v : Bool) : (s.setP r v).copies = s.copies := rfl
@[simp] theorem State.setP_devCopies (r : BitVec 3) (v : Bool) : (s.setP r v).devCopies = s.devCopies := rfl
@[simp] theorem State.setP_attrs (r : BitVec 3) (v : Bool) : (s.setP r v).attrs = s.attrs := rfl
@[simp] theorem State.setP_poison (r : BitVec 3) (v : Bool) : (s.setP r v).poison = s.poison := rfl
@[simp] theorem State.setP_shadows (r : BitVec 3) (v : Bool) : (s.setP r v).shadows = s.shadows := rfl
@[simp] theorem State.setP_ops (r : BitVec 3) (v : Bool) : (s.setP r v).ops = s.ops := rfl
@[simp] theorem State.setP_reqs (r : BitVec 3) (v : Bool) : (s.setP r v).reqs = s.reqs := rfl
@[simp] theorem State.setP_sys (r : BitVec 3) (v : Bool) : (s.setP r v).sys = s.sys := rfl
@[simp] theorem State.setP_aoseqs (r : BitVec 3) (v : Bool) : (s.setP r v).aoseqs = s.aoseqs := rfl
@[simp] theorem State.setP_nextId (r : BitVec 3) (v : Bool) : (s.setP r v).nextId = s.nextId := rfl
@[simp] theorem State.setP_parts (r : BitVec 3) (v : Bool) : (s.setP r v).parts = s.parts := rfl
@[simp] theorem State.setP_slots (r : BitVec 3) (v : Bool) : (s.setP r v).slots = s.slots := rfl
@[simp] theorem State.setP_launches (r : BitVec 3) (v : Bool) : (s.setP r v).launches = s.launches := rfl
@[simp] theorem State.setP_gangs (r : BitVec 3) (v : Bool) : (s.setP r v).gangs = s.gangs := rfl
@[simp] theorem State.setP_teams (r : BitVec 3) (v : Bool) : (s.setP r v).teams = s.teams := rfl
@[simp] theorem State.setP_objs (r : BitVec 3) (v : Bool) : (s.setP r v).objs = s.objs := rfl
@[simp] theorem State.setP_subs (r : BitVec 3) (v : Bool) : (s.setP r v).subs = s.subs := rfl
@[simp] theorem State.setP_invs (r : BitVec 3) (v : Bool) : (s.setP r v).invs = s.invs := rfl
@[simp] theorem State.setP_vfs (r : BitVec 3) (v : Bool) : (s.setP r v).vfs = s.vfs := rfl
@[simp] theorem State.setP_pods (r : BitVec 3) (v : Bool) : (s.setP r v).pods = s.pods := rfl
@[simp] theorem State.setP_dies (r : BitVec 3) (v : Bool) : (s.setP r v).dies = s.dies := rfl
@[simp] theorem State.setP_msix (r : BitVec 3) (v : Bool) : (s.setP r v).msix = s.msix := rfl
@[simp] theorem State.setP_hostData (r : BitVec 3) (v : Bool) : (s.setP r v).hostData = s.hostData := rfl
@[simp] theorem State.setP_pf (r : BitVec 3) (v : Bool) : (s.setP r v).pf = s.pf := rfl
@[simp] theorem State.setP_pf1Status (r : BitVec 3) (v : Bool) : (s.setP r v).pf1Status = s.pf1Status := rfl
@[simp] theorem State.setP_reftime (r : BitVec 3) (v : Bool) : (s.setP r v).reftime = s.reftime := rfl
@[simp] theorem State.setP_boot (r : BitVec 3) (v : Bool) : (s.setP r v).boot = s.boot := rfl
@[simp] theorem State.setP_slotB (r : BitVec 3) (v : Bool) : (s.setP r v).slotB = s.slotB := rfl
@[simp] theorem State.setP_failedStarts (r : BitVec 3) (v : Bool) : (s.setP r v).failedStarts = s.failedStarts := rfl
@[simp] theorem State.setP_training (r : BitVec 3) (v : Bool) : (s.setP r v).training = s.training := rfl
@[simp] theorem State.setP_meas (r : BitVec 3) (v : Bool) : (s.setP r v).meas = s.meas := rfl
@[simp] theorem State.setP_deviceKey (r : BitVec 3) (v : Bool) : (s.setP r v).deviceKey = s.deviceKey := rfl
@[simp] theorem State.setP_spdm (r : BitVec 3) (v : Bool) : (s.setP r v).spdm = s.spdm := rfl
@[simp] theorem State.setP_ide (r : BitVec 3) (v : Bool) : (s.setP r v).ide = s.ide := rfl
@[simp] theorem State.setP_recs (r : BitVec 3) (v : Bool) : (s.setP r v).recs = s.recs := rfl
@[simp] theorem State.setP_save (r : BitVec 3) (v : Bool) : (s.setP r v).save = s.save := rfl
@[simp] theorem State.setP_turn (r : BitVec 3) (v : Bool) : (s.setP r v).turn = s.turn := rfl
@[simp] theorem State.setP_fresh (r : BitVec 3) (v : Bool) : (s.setP r v).fresh = s.fresh := rfl

/-! ### State.advance -/

@[simp] theorem State.advance_mem : (s.advance).mem = s.mem := rfl
@[simp] theorem State.advance_scratch : (s.advance).scratch = s.scratch := rfl
@[simp] theorem State.advance_host : (s.advance).host = s.host := rfl
@[simp] theorem State.advance_peer : (s.advance).peer = s.peer := rfl
@[simp] theorem State.advance_lines : (s.advance).lines = s.lines := rfl
@[simp] theorem State.advance_scrLines : (s.advance).scrLines = s.scrLines := rfl
@[simp] theorem State.advance_copies : (s.advance).copies = s.copies := rfl
@[simp] theorem State.advance_devCopies : (s.advance).devCopies = s.devCopies := rfl
@[simp] theorem State.advance_attrs : (s.advance).attrs = s.attrs := rfl
@[simp] theorem State.advance_poison : (s.advance).poison = s.poison := rfl
@[simp] theorem State.advance_shadows : (s.advance).shadows = s.shadows := rfl
@[simp] theorem State.advance_ops : (s.advance).ops = s.ops := rfl
@[simp] theorem State.advance_reqs : (s.advance).reqs = s.reqs := rfl
@[simp] theorem State.advance_sys : (s.advance).sys = s.sys := rfl
@[simp] theorem State.advance_aoseqs : (s.advance).aoseqs = s.aoseqs := rfl
@[simp] theorem State.advance_nextId : (s.advance).nextId = s.nextId := rfl
@[simp] theorem State.advance_parts : (s.advance).parts = s.parts := rfl
@[simp] theorem State.advance_slots : (s.advance).slots = s.slots := rfl
@[simp] theorem State.advance_launches : (s.advance).launches = s.launches := rfl
@[simp] theorem State.advance_gangs : (s.advance).gangs = s.gangs := rfl
@[simp] theorem State.advance_teams : (s.advance).teams = s.teams := rfl
@[simp] theorem State.advance_objs : (s.advance).objs = s.objs := rfl
@[simp] theorem State.advance_subs : (s.advance).subs = s.subs := rfl
@[simp] theorem State.advance_invs : (s.advance).invs = s.invs := rfl
@[simp] theorem State.advance_vfs : (s.advance).vfs = s.vfs := rfl
@[simp] theorem State.advance_pods : (s.advance).pods = s.pods := rfl
@[simp] theorem State.advance_dies : (s.advance).dies = s.dies := rfl
@[simp] theorem State.advance_msix : (s.advance).msix = s.msix := rfl
@[simp] theorem State.advance_hostData : (s.advance).hostData = s.hostData := rfl
@[simp] theorem State.advance_pf : (s.advance).pf = s.pf := rfl
@[simp] theorem State.advance_pf1Status : (s.advance).pf1Status = s.pf1Status := rfl
@[simp] theorem State.advance_reftime : (s.advance).reftime = s.reftime := rfl
@[simp] theorem State.advance_boot : (s.advance).boot = s.boot := rfl
@[simp] theorem State.advance_slotB : (s.advance).slotB = s.slotB := rfl
@[simp] theorem State.advance_failedStarts : (s.advance).failedStarts = s.failedStarts := rfl
@[simp] theorem State.advance_training : (s.advance).training = s.training := rfl
@[simp] theorem State.advance_meas : (s.advance).meas = s.meas := rfl
@[simp] theorem State.advance_deviceKey : (s.advance).deviceKey = s.deviceKey := rfl
@[simp] theorem State.advance_spdm : (s.advance).spdm = s.spdm := rfl
@[simp] theorem State.advance_ide : (s.advance).ide = s.ide := rfl
@[simp] theorem State.advance_recs : (s.advance).recs = s.recs := rfl
@[simp] theorem State.advance_save : (s.advance).save = s.save := rfl
@[simp] theorem State.advance_turn : (s.advance).turn = s.turn := rfl
@[simp] theorem State.advance_fresh : (s.advance).fresh = s.fresh := rfl

/-! ### State.jump -/

@[simp] theorem State.jump_mem (a : Word) : (s.jump a).mem = s.mem := rfl
@[simp] theorem State.jump_scratch (a : Word) : (s.jump a).scratch = s.scratch := rfl
@[simp] theorem State.jump_host (a : Word) : (s.jump a).host = s.host := rfl
@[simp] theorem State.jump_peer (a : Word) : (s.jump a).peer = s.peer := rfl
@[simp] theorem State.jump_lines (a : Word) : (s.jump a).lines = s.lines := rfl
@[simp] theorem State.jump_scrLines (a : Word) : (s.jump a).scrLines = s.scrLines := rfl
@[simp] theorem State.jump_copies (a : Word) : (s.jump a).copies = s.copies := rfl
@[simp] theorem State.jump_devCopies (a : Word) : (s.jump a).devCopies = s.devCopies := rfl
@[simp] theorem State.jump_attrs (a : Word) : (s.jump a).attrs = s.attrs := rfl
@[simp] theorem State.jump_poison (a : Word) : (s.jump a).poison = s.poison := rfl
@[simp] theorem State.jump_shadows (a : Word) : (s.jump a).shadows = s.shadows := rfl
@[simp] theorem State.jump_ops (a : Word) : (s.jump a).ops = s.ops := rfl
@[simp] theorem State.jump_reqs (a : Word) : (s.jump a).reqs = s.reqs := rfl
@[simp] theorem State.jump_sys (a : Word) : (s.jump a).sys = s.sys := rfl
@[simp] theorem State.jump_aoseqs (a : Word) : (s.jump a).aoseqs = s.aoseqs := rfl
@[simp] theorem State.jump_nextId (a : Word) : (s.jump a).nextId = s.nextId := rfl
@[simp] theorem State.jump_parts (a : Word) : (s.jump a).parts = s.parts := rfl
@[simp] theorem State.jump_slots (a : Word) : (s.jump a).slots = s.slots := rfl
@[simp] theorem State.jump_launches (a : Word) : (s.jump a).launches = s.launches := rfl
@[simp] theorem State.jump_gangs (a : Word) : (s.jump a).gangs = s.gangs := rfl
@[simp] theorem State.jump_teams (a : Word) : (s.jump a).teams = s.teams := rfl
@[simp] theorem State.jump_objs (a : Word) : (s.jump a).objs = s.objs := rfl
@[simp] theorem State.jump_subs (a : Word) : (s.jump a).subs = s.subs := rfl
@[simp] theorem State.jump_invs (a : Word) : (s.jump a).invs = s.invs := rfl
@[simp] theorem State.jump_vfs (a : Word) : (s.jump a).vfs = s.vfs := rfl
@[simp] theorem State.jump_pods (a : Word) : (s.jump a).pods = s.pods := rfl
@[simp] theorem State.jump_dies (a : Word) : (s.jump a).dies = s.dies := rfl
@[simp] theorem State.jump_msix (a : Word) : (s.jump a).msix = s.msix := rfl
@[simp] theorem State.jump_hostData (a : Word) : (s.jump a).hostData = s.hostData := rfl
@[simp] theorem State.jump_pf (a : Word) : (s.jump a).pf = s.pf := rfl
@[simp] theorem State.jump_pf1Status (a : Word) : (s.jump a).pf1Status = s.pf1Status := rfl
@[simp] theorem State.jump_reftime (a : Word) : (s.jump a).reftime = s.reftime := rfl
@[simp] theorem State.jump_boot (a : Word) : (s.jump a).boot = s.boot := rfl
@[simp] theorem State.jump_slotB (a : Word) : (s.jump a).slotB = s.slotB := rfl
@[simp] theorem State.jump_failedStarts (a : Word) : (s.jump a).failedStarts = s.failedStarts := rfl
@[simp] theorem State.jump_training (a : Word) : (s.jump a).training = s.training := rfl
@[simp] theorem State.jump_meas (a : Word) : (s.jump a).meas = s.meas := rfl
@[simp] theorem State.jump_deviceKey (a : Word) : (s.jump a).deviceKey = s.deviceKey := rfl
@[simp] theorem State.jump_spdm (a : Word) : (s.jump a).spdm = s.spdm := rfl
@[simp] theorem State.jump_ide (a : Word) : (s.jump a).ide = s.ide := rfl
@[simp] theorem State.jump_recs (a : Word) : (s.jump a).recs = s.recs := rfl
@[simp] theorem State.jump_save (a : Word) : (s.jump a).save = s.save := rfl
@[simp] theorem State.jump_turn (a : Word) : (s.jump a).turn = s.turn := rfl
@[simp] theorem State.jump_fresh (a : Word) : (s.jump a).fresh = s.fresh := rfl

/-! ### State.await -/

@[simp] theorem State.await_mem (w : Wait) : (s.await w).mem = s.mem := rfl
@[simp] theorem State.await_scratch (w : Wait) : (s.await w).scratch = s.scratch := rfl
@[simp] theorem State.await_host (w : Wait) : (s.await w).host = s.host := rfl
@[simp] theorem State.await_peer (w : Wait) : (s.await w).peer = s.peer := rfl
@[simp] theorem State.await_lines (w : Wait) : (s.await w).lines = s.lines := rfl
@[simp] theorem State.await_scrLines (w : Wait) : (s.await w).scrLines = s.scrLines := rfl
@[simp] theorem State.await_copies (w : Wait) : (s.await w).copies = s.copies := rfl
@[simp] theorem State.await_devCopies (w : Wait) : (s.await w).devCopies = s.devCopies := rfl
@[simp] theorem State.await_attrs (w : Wait) : (s.await w).attrs = s.attrs := rfl
@[simp] theorem State.await_poison (w : Wait) : (s.await w).poison = s.poison := rfl
@[simp] theorem State.await_shadows (w : Wait) : (s.await w).shadows = s.shadows := rfl
@[simp] theorem State.await_ops (w : Wait) : (s.await w).ops = s.ops := rfl
@[simp] theorem State.await_reqs (w : Wait) : (s.await w).reqs = s.reqs := rfl
@[simp] theorem State.await_sys (w : Wait) : (s.await w).sys = s.sys := rfl
@[simp] theorem State.await_aoseqs (w : Wait) : (s.await w).aoseqs = s.aoseqs := rfl
@[simp] theorem State.await_nextId (w : Wait) : (s.await w).nextId = s.nextId := rfl
@[simp] theorem State.await_parts (w : Wait) : (s.await w).parts = s.parts := rfl
@[simp] theorem State.await_slots (w : Wait) : (s.await w).slots = s.slots := rfl
@[simp] theorem State.await_launches (w : Wait) : (s.await w).launches = s.launches := rfl
@[simp] theorem State.await_gangs (w : Wait) : (s.await w).gangs = s.gangs := rfl
@[simp] theorem State.await_teams (w : Wait) : (s.await w).teams = s.teams := rfl
@[simp] theorem State.await_objs (w : Wait) : (s.await w).objs = s.objs := rfl
@[simp] theorem State.await_subs (w : Wait) : (s.await w).subs = s.subs := rfl
@[simp] theorem State.await_invs (w : Wait) : (s.await w).invs = s.invs := rfl
@[simp] theorem State.await_vfs (w : Wait) : (s.await w).vfs = s.vfs := rfl
@[simp] theorem State.await_pods (w : Wait) : (s.await w).pods = s.pods := rfl
@[simp] theorem State.await_dies (w : Wait) : (s.await w).dies = s.dies := rfl
@[simp] theorem State.await_msix (w : Wait) : (s.await w).msix = s.msix := rfl
@[simp] theorem State.await_hostData (w : Wait) : (s.await w).hostData = s.hostData := rfl
@[simp] theorem State.await_pf (w : Wait) : (s.await w).pf = s.pf := rfl
@[simp] theorem State.await_pf1Status (w : Wait) : (s.await w).pf1Status = s.pf1Status := rfl
@[simp] theorem State.await_reftime (w : Wait) : (s.await w).reftime = s.reftime := rfl
@[simp] theorem State.await_boot (w : Wait) : (s.await w).boot = s.boot := rfl
@[simp] theorem State.await_slotB (w : Wait) : (s.await w).slotB = s.slotB := rfl
@[simp] theorem State.await_failedStarts (w : Wait) : (s.await w).failedStarts = s.failedStarts := rfl
@[simp] theorem State.await_training (w : Wait) : (s.await w).training = s.training := rfl
@[simp] theorem State.await_meas (w : Wait) : (s.await w).meas = s.meas := rfl
@[simp] theorem State.await_deviceKey (w : Wait) : (s.await w).deviceKey = s.deviceKey := rfl
@[simp] theorem State.await_spdm (w : Wait) : (s.await w).spdm = s.spdm := rfl
@[simp] theorem State.await_ide (w : Wait) : (s.await w).ide = s.ide := rfl
@[simp] theorem State.await_recs (w : Wait) : (s.await w).recs = s.recs := rfl
@[simp] theorem State.await_save (w : Wait) : (s.await w).save = s.save := rfl
@[simp] theorem State.await_turn (w : Wait) : (s.await w).turn = s.turn := rfl
@[simp] theorem State.await_fresh (w : Wait) : (s.await w).fresh = s.fresh := rfl

/-! ### State.raisePts -/

@[simp] theorem State.raisePts_mem (v : Word) : (s.raisePts v).mem = s.mem := rfl
@[simp] theorem State.raisePts_scratch (v : Word) : (s.raisePts v).scratch = s.scratch := rfl
@[simp] theorem State.raisePts_host (v : Word) : (s.raisePts v).host = s.host := rfl
@[simp] theorem State.raisePts_peer (v : Word) : (s.raisePts v).peer = s.peer := rfl
@[simp] theorem State.raisePts_lines (v : Word) : (s.raisePts v).lines = s.lines := rfl
@[simp] theorem State.raisePts_scrLines (v : Word) : (s.raisePts v).scrLines = s.scrLines := rfl
@[simp] theorem State.raisePts_copies (v : Word) : (s.raisePts v).copies = s.copies := rfl
@[simp] theorem State.raisePts_devCopies (v : Word) : (s.raisePts v).devCopies = s.devCopies := rfl
@[simp] theorem State.raisePts_attrs (v : Word) : (s.raisePts v).attrs = s.attrs := rfl
@[simp] theorem State.raisePts_poison (v : Word) : (s.raisePts v).poison = s.poison := rfl
@[simp] theorem State.raisePts_shadows (v : Word) : (s.raisePts v).shadows = s.shadows := rfl
@[simp] theorem State.raisePts_ops (v : Word) : (s.raisePts v).ops = s.ops := rfl
@[simp] theorem State.raisePts_reqs (v : Word) : (s.raisePts v).reqs = s.reqs := rfl
@[simp] theorem State.raisePts_sys (v : Word) : (s.raisePts v).sys = s.sys := rfl
@[simp] theorem State.raisePts_aoseqs (v : Word) : (s.raisePts v).aoseqs = s.aoseqs := rfl
@[simp] theorem State.raisePts_nextId (v : Word) : (s.raisePts v).nextId = s.nextId := rfl
@[simp] theorem State.raisePts_parts (v : Word) : (s.raisePts v).parts = s.parts := rfl
@[simp] theorem State.raisePts_slots (v : Word) : (s.raisePts v).slots = s.slots := rfl
@[simp] theorem State.raisePts_launches (v : Word) : (s.raisePts v).launches = s.launches := rfl
@[simp] theorem State.raisePts_gangs (v : Word) : (s.raisePts v).gangs = s.gangs := rfl
@[simp] theorem State.raisePts_teams (v : Word) : (s.raisePts v).teams = s.teams := rfl
@[simp] theorem State.raisePts_objs (v : Word) : (s.raisePts v).objs = s.objs := rfl
@[simp] theorem State.raisePts_subs (v : Word) : (s.raisePts v).subs = s.subs := rfl
@[simp] theorem State.raisePts_invs (v : Word) : (s.raisePts v).invs = s.invs := rfl
@[simp] theorem State.raisePts_vfs (v : Word) : (s.raisePts v).vfs = s.vfs := rfl
@[simp] theorem State.raisePts_pods (v : Word) : (s.raisePts v).pods = s.pods := rfl
@[simp] theorem State.raisePts_dies (v : Word) : (s.raisePts v).dies = s.dies := rfl
@[simp] theorem State.raisePts_msix (v : Word) : (s.raisePts v).msix = s.msix := rfl
@[simp] theorem State.raisePts_hostData (v : Word) : (s.raisePts v).hostData = s.hostData := rfl
@[simp] theorem State.raisePts_pf (v : Word) : (s.raisePts v).pf = s.pf := rfl
@[simp] theorem State.raisePts_pf1Status (v : Word) : (s.raisePts v).pf1Status = s.pf1Status := rfl
@[simp] theorem State.raisePts_reftime (v : Word) : (s.raisePts v).reftime = s.reftime := rfl
@[simp] theorem State.raisePts_boot (v : Word) : (s.raisePts v).boot = s.boot := rfl
@[simp] theorem State.raisePts_slotB (v : Word) : (s.raisePts v).slotB = s.slotB := rfl
@[simp] theorem State.raisePts_failedStarts (v : Word) : (s.raisePts v).failedStarts = s.failedStarts := rfl
@[simp] theorem State.raisePts_training (v : Word) : (s.raisePts v).training = s.training := rfl
@[simp] theorem State.raisePts_meas (v : Word) : (s.raisePts v).meas = s.meas := rfl
@[simp] theorem State.raisePts_deviceKey (v : Word) : (s.raisePts v).deviceKey = s.deviceKey := rfl
@[simp] theorem State.raisePts_spdm (v : Word) : (s.raisePts v).spdm = s.spdm := rfl
@[simp] theorem State.raisePts_ide (v : Word) : (s.raisePts v).ide = s.ide := rfl
@[simp] theorem State.raisePts_recs (v : Word) : (s.raisePts v).recs = s.recs := rfl
@[simp] theorem State.raisePts_save (v : Word) : (s.raisePts v).save = s.save := rfl
@[simp] theorem State.raisePts_turn (v : Word) : (s.raisePts v).turn = s.turn := rfl
@[simp] theorem State.raisePts_fresh (v : Word) : (s.raisePts v).fresh = s.fresh := rfl

/-! ### State.onVec -/

@[simp] theorem State.onVec_mem (f : Vec → Vec) : (s.onVec f).mem = s.mem := rfl
@[simp] theorem State.onVec_scratch (f : Vec → Vec) : (s.onVec f).scratch = s.scratch := rfl
@[simp] theorem State.onVec_host (f : Vec → Vec) : (s.onVec f).host = s.host := rfl
@[simp] theorem State.onVec_peer (f : Vec → Vec) : (s.onVec f).peer = s.peer := rfl
@[simp] theorem State.onVec_lines (f : Vec → Vec) : (s.onVec f).lines = s.lines := rfl
@[simp] theorem State.onVec_scrLines (f : Vec → Vec) : (s.onVec f).scrLines = s.scrLines := rfl
@[simp] theorem State.onVec_copies (f : Vec → Vec) : (s.onVec f).copies = s.copies := rfl
@[simp] theorem State.onVec_devCopies (f : Vec → Vec) : (s.onVec f).devCopies = s.devCopies := rfl
@[simp] theorem State.onVec_attrs (f : Vec → Vec) : (s.onVec f).attrs = s.attrs := rfl
@[simp] theorem State.onVec_poison (f : Vec → Vec) : (s.onVec f).poison = s.poison := rfl
@[simp] theorem State.onVec_shadows (f : Vec → Vec) : (s.onVec f).shadows = s.shadows := rfl
@[simp] theorem State.onVec_ops (f : Vec → Vec) : (s.onVec f).ops = s.ops := rfl
@[simp] theorem State.onVec_reqs (f : Vec → Vec) : (s.onVec f).reqs = s.reqs := rfl
@[simp] theorem State.onVec_sys (f : Vec → Vec) : (s.onVec f).sys = s.sys := rfl
@[simp] theorem State.onVec_aoseqs (f : Vec → Vec) : (s.onVec f).aoseqs = s.aoseqs := rfl
@[simp] theorem State.onVec_nextId (f : Vec → Vec) : (s.onVec f).nextId = s.nextId := rfl
@[simp] theorem State.onVec_parts (f : Vec → Vec) : (s.onVec f).parts = s.parts := rfl
@[simp] theorem State.onVec_slots (f : Vec → Vec) : (s.onVec f).slots = s.slots := rfl
@[simp] theorem State.onVec_launches (f : Vec → Vec) : (s.onVec f).launches = s.launches := rfl
@[simp] theorem State.onVec_gangs (f : Vec → Vec) : (s.onVec f).gangs = s.gangs := rfl
@[simp] theorem State.onVec_teams (f : Vec → Vec) : (s.onVec f).teams = s.teams := rfl
@[simp] theorem State.onVec_objs (f : Vec → Vec) : (s.onVec f).objs = s.objs := rfl
@[simp] theorem State.onVec_subs (f : Vec → Vec) : (s.onVec f).subs = s.subs := rfl
@[simp] theorem State.onVec_invs (f : Vec → Vec) : (s.onVec f).invs = s.invs := rfl
@[simp] theorem State.onVec_vfs (f : Vec → Vec) : (s.onVec f).vfs = s.vfs := rfl
@[simp] theorem State.onVec_pods (f : Vec → Vec) : (s.onVec f).pods = s.pods := rfl
@[simp] theorem State.onVec_dies (f : Vec → Vec) : (s.onVec f).dies = s.dies := rfl
@[simp] theorem State.onVec_msix (f : Vec → Vec) : (s.onVec f).msix = s.msix := rfl
@[simp] theorem State.onVec_hostData (f : Vec → Vec) : (s.onVec f).hostData = s.hostData := rfl
@[simp] theorem State.onVec_pf (f : Vec → Vec) : (s.onVec f).pf = s.pf := rfl
@[simp] theorem State.onVec_pf1Status (f : Vec → Vec) : (s.onVec f).pf1Status = s.pf1Status := rfl
@[simp] theorem State.onVec_reftime (f : Vec → Vec) : (s.onVec f).reftime = s.reftime := rfl
@[simp] theorem State.onVec_boot (f : Vec → Vec) : (s.onVec f).boot = s.boot := rfl
@[simp] theorem State.onVec_slotB (f : Vec → Vec) : (s.onVec f).slotB = s.slotB := rfl
@[simp] theorem State.onVec_failedStarts (f : Vec → Vec) : (s.onVec f).failedStarts = s.failedStarts := rfl
@[simp] theorem State.onVec_training (f : Vec → Vec) : (s.onVec f).training = s.training := rfl
@[simp] theorem State.onVec_meas (f : Vec → Vec) : (s.onVec f).meas = s.meas := rfl
@[simp] theorem State.onVec_deviceKey (f : Vec → Vec) : (s.onVec f).deviceKey = s.deviceKey := rfl
@[simp] theorem State.onVec_spdm (f : Vec → Vec) : (s.onVec f).spdm = s.spdm := rfl
@[simp] theorem State.onVec_ide (f : Vec → Vec) : (s.onVec f).ide = s.ide := rfl
@[simp] theorem State.onVec_recs (f : Vec → Vec) : (s.onVec f).recs = s.recs := rfl
@[simp] theorem State.onVec_save (f : Vec → Vec) : (s.onVec f).save = s.save := rfl
@[simp] theorem State.onVec_turn (f : Vec → Vec) : (s.onVec f).turn = s.turn := rfl
@[simp] theorem State.onVec_fresh (f : Vec → Vec) : (s.onVec f).fresh = s.fresh := rfl

/-! ### State.onArr -/

@[simp] theorem State.onArr_mem (f : Arr → Arr) : (s.onArr f).mem = s.mem := rfl
@[simp] theorem State.onArr_scratch (f : Arr → Arr) : (s.onArr f).scratch = s.scratch := rfl
@[simp] theorem State.onArr_host (f : Arr → Arr) : (s.onArr f).host = s.host := rfl
@[simp] theorem State.onArr_peer (f : Arr → Arr) : (s.onArr f).peer = s.peer := rfl
@[simp] theorem State.onArr_lines (f : Arr → Arr) : (s.onArr f).lines = s.lines := rfl
@[simp] theorem State.onArr_scrLines (f : Arr → Arr) : (s.onArr f).scrLines = s.scrLines := rfl
@[simp] theorem State.onArr_copies (f : Arr → Arr) : (s.onArr f).copies = s.copies := rfl
@[simp] theorem State.onArr_devCopies (f : Arr → Arr) : (s.onArr f).devCopies = s.devCopies := rfl
@[simp] theorem State.onArr_attrs (f : Arr → Arr) : (s.onArr f).attrs = s.attrs := rfl
@[simp] theorem State.onArr_poison (f : Arr → Arr) : (s.onArr f).poison = s.poison := rfl
@[simp] theorem State.onArr_shadows (f : Arr → Arr) : (s.onArr f).shadows = s.shadows := rfl
@[simp] theorem State.onArr_ops (f : Arr → Arr) : (s.onArr f).ops = s.ops := rfl
@[simp] theorem State.onArr_reqs (f : Arr → Arr) : (s.onArr f).reqs = s.reqs := rfl
@[simp] theorem State.onArr_sys (f : Arr → Arr) : (s.onArr f).sys = s.sys := rfl
@[simp] theorem State.onArr_aoseqs (f : Arr → Arr) : (s.onArr f).aoseqs = s.aoseqs := rfl
@[simp] theorem State.onArr_nextId (f : Arr → Arr) : (s.onArr f).nextId = s.nextId := rfl
@[simp] theorem State.onArr_parts (f : Arr → Arr) : (s.onArr f).parts = s.parts := rfl
@[simp] theorem State.onArr_slots (f : Arr → Arr) : (s.onArr f).slots = s.slots := rfl
@[simp] theorem State.onArr_launches (f : Arr → Arr) : (s.onArr f).launches = s.launches := rfl
@[simp] theorem State.onArr_gangs (f : Arr → Arr) : (s.onArr f).gangs = s.gangs := rfl
@[simp] theorem State.onArr_teams (f : Arr → Arr) : (s.onArr f).teams = s.teams := rfl
@[simp] theorem State.onArr_objs (f : Arr → Arr) : (s.onArr f).objs = s.objs := rfl
@[simp] theorem State.onArr_subs (f : Arr → Arr) : (s.onArr f).subs = s.subs := rfl
@[simp] theorem State.onArr_invs (f : Arr → Arr) : (s.onArr f).invs = s.invs := rfl
@[simp] theorem State.onArr_vfs (f : Arr → Arr) : (s.onArr f).vfs = s.vfs := rfl
@[simp] theorem State.onArr_pods (f : Arr → Arr) : (s.onArr f).pods = s.pods := rfl
@[simp] theorem State.onArr_dies (f : Arr → Arr) : (s.onArr f).dies = s.dies := rfl
@[simp] theorem State.onArr_msix (f : Arr → Arr) : (s.onArr f).msix = s.msix := rfl
@[simp] theorem State.onArr_hostData (f : Arr → Arr) : (s.onArr f).hostData = s.hostData := rfl
@[simp] theorem State.onArr_pf (f : Arr → Arr) : (s.onArr f).pf = s.pf := rfl
@[simp] theorem State.onArr_pf1Status (f : Arr → Arr) : (s.onArr f).pf1Status = s.pf1Status := rfl
@[simp] theorem State.onArr_reftime (f : Arr → Arr) : (s.onArr f).reftime = s.reftime := rfl
@[simp] theorem State.onArr_boot (f : Arr → Arr) : (s.onArr f).boot = s.boot := rfl
@[simp] theorem State.onArr_slotB (f : Arr → Arr) : (s.onArr f).slotB = s.slotB := rfl
@[simp] theorem State.onArr_failedStarts (f : Arr → Arr) : (s.onArr f).failedStarts = s.failedStarts := rfl
@[simp] theorem State.onArr_training (f : Arr → Arr) : (s.onArr f).training = s.training := rfl
@[simp] theorem State.onArr_meas (f : Arr → Arr) : (s.onArr f).meas = s.meas := rfl
@[simp] theorem State.onArr_deviceKey (f : Arr → Arr) : (s.onArr f).deviceKey = s.deviceKey := rfl
@[simp] theorem State.onArr_spdm (f : Arr → Arr) : (s.onArr f).spdm = s.spdm := rfl
@[simp] theorem State.onArr_ide (f : Arr → Arr) : (s.onArr f).ide = s.ide := rfl
@[simp] theorem State.onArr_recs (f : Arr → Arr) : (s.onArr f).recs = s.recs := rfl
@[simp] theorem State.onArr_save (f : Arr → Arr) : (s.onArr f).save = s.save := rfl
@[simp] theorem State.onArr_turn (f : Arr → Arr) : (s.onArr f).turn = s.turn := rfl
@[simp] theorem State.onArr_fresh (f : Arr → Arr) : (s.onArr f).fresh = s.fresh := rfl

/-! ### State.onEng -/

@[simp] theorem State.onEng_mem (e : Eng) (f : Engine → Engine) : (s.onEng e f).mem = s.mem := rfl
@[simp] theorem State.onEng_scratch (e : Eng) (f : Engine → Engine) : (s.onEng e f).scratch = s.scratch := rfl
@[simp] theorem State.onEng_host (e : Eng) (f : Engine → Engine) : (s.onEng e f).host = s.host := rfl
@[simp] theorem State.onEng_peer (e : Eng) (f : Engine → Engine) : (s.onEng e f).peer = s.peer := rfl
@[simp] theorem State.onEng_lines (e : Eng) (f : Engine → Engine) : (s.onEng e f).lines = s.lines := rfl
@[simp] theorem State.onEng_scrLines (e : Eng) (f : Engine → Engine) : (s.onEng e f).scrLines = s.scrLines := rfl
@[simp] theorem State.onEng_copies (e : Eng) (f : Engine → Engine) : (s.onEng e f).copies = s.copies := rfl
@[simp] theorem State.onEng_devCopies (e : Eng) (f : Engine → Engine) : (s.onEng e f).devCopies = s.devCopies := rfl
@[simp] theorem State.onEng_attrs (e : Eng) (f : Engine → Engine) : (s.onEng e f).attrs = s.attrs := rfl
@[simp] theorem State.onEng_poison (e : Eng) (f : Engine → Engine) : (s.onEng e f).poison = s.poison := rfl
@[simp] theorem State.onEng_shadows (e : Eng) (f : Engine → Engine) : (s.onEng e f).shadows = s.shadows := rfl
@[simp] theorem State.onEng_ops (e : Eng) (f : Engine → Engine) : (s.onEng e f).ops = s.ops := rfl
@[simp] theorem State.onEng_reqs (e : Eng) (f : Engine → Engine) : (s.onEng e f).reqs = s.reqs := rfl
@[simp] theorem State.onEng_sys (e : Eng) (f : Engine → Engine) : (s.onEng e f).sys = s.sys := rfl
@[simp] theorem State.onEng_aoseqs (e : Eng) (f : Engine → Engine) : (s.onEng e f).aoseqs = s.aoseqs := rfl
@[simp] theorem State.onEng_nextId (e : Eng) (f : Engine → Engine) : (s.onEng e f).nextId = s.nextId := rfl
@[simp] theorem State.onEng_parts (e : Eng) (f : Engine → Engine) : (s.onEng e f).parts = s.parts := rfl
@[simp] theorem State.onEng_slots (e : Eng) (f : Engine → Engine) : (s.onEng e f).slots = s.slots := rfl
@[simp] theorem State.onEng_launches (e : Eng) (f : Engine → Engine) : (s.onEng e f).launches = s.launches := rfl
@[simp] theorem State.onEng_gangs (e : Eng) (f : Engine → Engine) : (s.onEng e f).gangs = s.gangs := rfl
@[simp] theorem State.onEng_teams (e : Eng) (f : Engine → Engine) : (s.onEng e f).teams = s.teams := rfl
@[simp] theorem State.onEng_objs (e : Eng) (f : Engine → Engine) : (s.onEng e f).objs = s.objs := rfl
@[simp] theorem State.onEng_subs (e : Eng) (f : Engine → Engine) : (s.onEng e f).subs = s.subs := rfl
@[simp] theorem State.onEng_invs (e : Eng) (f : Engine → Engine) : (s.onEng e f).invs = s.invs := rfl
@[simp] theorem State.onEng_vfs (e : Eng) (f : Engine → Engine) : (s.onEng e f).vfs = s.vfs := rfl
@[simp] theorem State.onEng_pods (e : Eng) (f : Engine → Engine) : (s.onEng e f).pods = s.pods := rfl
@[simp] theorem State.onEng_dies (e : Eng) (f : Engine → Engine) : (s.onEng e f).dies = s.dies := rfl
@[simp] theorem State.onEng_msix (e : Eng) (f : Engine → Engine) : (s.onEng e f).msix = s.msix := rfl
@[simp] theorem State.onEng_hostData (e : Eng) (f : Engine → Engine) : (s.onEng e f).hostData = s.hostData := rfl
@[simp] theorem State.onEng_pf (e : Eng) (f : Engine → Engine) : (s.onEng e f).pf = s.pf := rfl
@[simp] theorem State.onEng_pf1Status (e : Eng) (f : Engine → Engine) : (s.onEng e f).pf1Status = s.pf1Status := rfl
@[simp] theorem State.onEng_reftime (e : Eng) (f : Engine → Engine) : (s.onEng e f).reftime = s.reftime := rfl
@[simp] theorem State.onEng_boot (e : Eng) (f : Engine → Engine) : (s.onEng e f).boot = s.boot := rfl
@[simp] theorem State.onEng_slotB (e : Eng) (f : Engine → Engine) : (s.onEng e f).slotB = s.slotB := rfl
@[simp] theorem State.onEng_failedStarts (e : Eng) (f : Engine → Engine) : (s.onEng e f).failedStarts = s.failedStarts := rfl
@[simp] theorem State.onEng_training (e : Eng) (f : Engine → Engine) : (s.onEng e f).training = s.training := rfl
@[simp] theorem State.onEng_meas (e : Eng) (f : Engine → Engine) : (s.onEng e f).meas = s.meas := rfl
@[simp] theorem State.onEng_deviceKey (e : Eng) (f : Engine → Engine) : (s.onEng e f).deviceKey = s.deviceKey := rfl
@[simp] theorem State.onEng_spdm (e : Eng) (f : Engine → Engine) : (s.onEng e f).spdm = s.spdm := rfl
@[simp] theorem State.onEng_ide (e : Eng) (f : Engine → Engine) : (s.onEng e f).ide = s.ide := rfl
@[simp] theorem State.onEng_recs (e : Eng) (f : Engine → Engine) : (s.onEng e f).recs = s.recs := rfl
@[simp] theorem State.onEng_save (e : Eng) (f : Engine → Engine) : (s.onEng e f).save = s.save := rfl
@[simp] theorem State.onEng_turn (e : Eng) (f : Engine → Engine) : (s.onEng e f).turn = s.turn := rfl
@[simp] theorem State.onEng_fresh (e : Eng) (f : Engine → Engine) : (s.onEng e f).fresh = s.fresh := rfl

/-! ### State.setTok -/

@[simp] theorem State.setTok_mem (k : BitVec 6) (t : Tok) : (s.setTok k t).mem = s.mem := rfl
@[simp] theorem State.setTok_scratch (k : BitVec 6) (t : Tok) : (s.setTok k t).scratch = s.scratch := rfl
@[simp] theorem State.setTok_host (k : BitVec 6) (t : Tok) : (s.setTok k t).host = s.host := rfl
@[simp] theorem State.setTok_peer (k : BitVec 6) (t : Tok) : (s.setTok k t).peer = s.peer := rfl
@[simp] theorem State.setTok_lines (k : BitVec 6) (t : Tok) : (s.setTok k t).lines = s.lines := rfl
@[simp] theorem State.setTok_scrLines (k : BitVec 6) (t : Tok) : (s.setTok k t).scrLines = s.scrLines := rfl
@[simp] theorem State.setTok_copies (k : BitVec 6) (t : Tok) : (s.setTok k t).copies = s.copies := rfl
@[simp] theorem State.setTok_devCopies (k : BitVec 6) (t : Tok) : (s.setTok k t).devCopies = s.devCopies := rfl
@[simp] theorem State.setTok_attrs (k : BitVec 6) (t : Tok) : (s.setTok k t).attrs = s.attrs := rfl
@[simp] theorem State.setTok_poison (k : BitVec 6) (t : Tok) : (s.setTok k t).poison = s.poison := rfl
@[simp] theorem State.setTok_shadows (k : BitVec 6) (t : Tok) : (s.setTok k t).shadows = s.shadows := rfl
@[simp] theorem State.setTok_ops (k : BitVec 6) (t : Tok) : (s.setTok k t).ops = s.ops := rfl
@[simp] theorem State.setTok_reqs (k : BitVec 6) (t : Tok) : (s.setTok k t).reqs = s.reqs := rfl
@[simp] theorem State.setTok_sys (k : BitVec 6) (t : Tok) : (s.setTok k t).sys = s.sys := rfl
@[simp] theorem State.setTok_aoseqs (k : BitVec 6) (t : Tok) : (s.setTok k t).aoseqs = s.aoseqs := rfl
@[simp] theorem State.setTok_nextId (k : BitVec 6) (t : Tok) : (s.setTok k t).nextId = s.nextId := rfl
@[simp] theorem State.setTok_parts (k : BitVec 6) (t : Tok) : (s.setTok k t).parts = s.parts := rfl
@[simp] theorem State.setTok_slots (k : BitVec 6) (t : Tok) : (s.setTok k t).slots = s.slots := rfl
@[simp] theorem State.setTok_launches (k : BitVec 6) (t : Tok) : (s.setTok k t).launches = s.launches := rfl
@[simp] theorem State.setTok_gangs (k : BitVec 6) (t : Tok) : (s.setTok k t).gangs = s.gangs := rfl
@[simp] theorem State.setTok_teams (k : BitVec 6) (t : Tok) : (s.setTok k t).teams = s.teams := rfl
@[simp] theorem State.setTok_objs (k : BitVec 6) (t : Tok) : (s.setTok k t).objs = s.objs := rfl
@[simp] theorem State.setTok_subs (k : BitVec 6) (t : Tok) : (s.setTok k t).subs = s.subs := rfl
@[simp] theorem State.setTok_invs (k : BitVec 6) (t : Tok) : (s.setTok k t).invs = s.invs := rfl
@[simp] theorem State.setTok_vfs (k : BitVec 6) (t : Tok) : (s.setTok k t).vfs = s.vfs := rfl
@[simp] theorem State.setTok_pods (k : BitVec 6) (t : Tok) : (s.setTok k t).pods = s.pods := rfl
@[simp] theorem State.setTok_dies (k : BitVec 6) (t : Tok) : (s.setTok k t).dies = s.dies := rfl
@[simp] theorem State.setTok_msix (k : BitVec 6) (t : Tok) : (s.setTok k t).msix = s.msix := rfl
@[simp] theorem State.setTok_hostData (k : BitVec 6) (t : Tok) : (s.setTok k t).hostData = s.hostData := rfl
@[simp] theorem State.setTok_pf (k : BitVec 6) (t : Tok) : (s.setTok k t).pf = s.pf := rfl
@[simp] theorem State.setTok_pf1Status (k : BitVec 6) (t : Tok) : (s.setTok k t).pf1Status = s.pf1Status := rfl
@[simp] theorem State.setTok_reftime (k : BitVec 6) (t : Tok) : (s.setTok k t).reftime = s.reftime := rfl
@[simp] theorem State.setTok_boot (k : BitVec 6) (t : Tok) : (s.setTok k t).boot = s.boot := rfl
@[simp] theorem State.setTok_slotB (k : BitVec 6) (t : Tok) : (s.setTok k t).slotB = s.slotB := rfl
@[simp] theorem State.setTok_failedStarts (k : BitVec 6) (t : Tok) : (s.setTok k t).failedStarts = s.failedStarts := rfl
@[simp] theorem State.setTok_training (k : BitVec 6) (t : Tok) : (s.setTok k t).training = s.training := rfl
@[simp] theorem State.setTok_meas (k : BitVec 6) (t : Tok) : (s.setTok k t).meas = s.meas := rfl
@[simp] theorem State.setTok_deviceKey (k : BitVec 6) (t : Tok) : (s.setTok k t).deviceKey = s.deviceKey := rfl
@[simp] theorem State.setTok_spdm (k : BitVec 6) (t : Tok) : (s.setTok k t).spdm = s.spdm := rfl
@[simp] theorem State.setTok_ide (k : BitVec 6) (t : Tok) : (s.setTok k t).ide = s.ide := rfl
@[simp] theorem State.setTok_recs (k : BitVec 6) (t : Tok) : (s.setTok k t).recs = s.recs := rfl
@[simp] theorem State.setTok_save (k : BitVec 6) (t : Tok) : (s.setTok k t).save = s.save := rfl
@[simp] theorem State.setTok_turn (k : BitVec 6) (t : Tok) : (s.setTok k t).turn = s.turn := rfl
@[simp] theorem State.setTok_fresh (k : BitVec 6) (t : Tok) : (s.setTok k t).fresh = s.fresh := rfl

/-! ### State.updPod -/

@[simp] theorem State.updPod_mem (p : Nat) (f : Pod → Pod) : (s.updPod p f).mem = s.mem := rfl
@[simp] theorem State.updPod_scratch (p : Nat) (f : Pod → Pod) : (s.updPod p f).scratch = s.scratch := rfl
@[simp] theorem State.updPod_host (p : Nat) (f : Pod → Pod) : (s.updPod p f).host = s.host := rfl
@[simp] theorem State.updPod_peer (p : Nat) (f : Pod → Pod) : (s.updPod p f).peer = s.peer := rfl
@[simp] theorem State.updPod_lines (p : Nat) (f : Pod → Pod) : (s.updPod p f).lines = s.lines := rfl
@[simp] theorem State.updPod_scrLines (p : Nat) (f : Pod → Pod) : (s.updPod p f).scrLines = s.scrLines := rfl
@[simp] theorem State.updPod_copies (p : Nat) (f : Pod → Pod) : (s.updPod p f).copies = s.copies := rfl
@[simp] theorem State.updPod_devCopies (p : Nat) (f : Pod → Pod) : (s.updPod p f).devCopies = s.devCopies := rfl
@[simp] theorem State.updPod_attrs (p : Nat) (f : Pod → Pod) : (s.updPod p f).attrs = s.attrs := rfl
@[simp] theorem State.updPod_poison (p : Nat) (f : Pod → Pod) : (s.updPod p f).poison = s.poison := rfl
@[simp] theorem State.updPod_shadows (p : Nat) (f : Pod → Pod) : (s.updPod p f).shadows = s.shadows := rfl
@[simp] theorem State.updPod_cores (p : Nat) (f : Pod → Pod) : (s.updPod p f).cores = s.cores := rfl
@[simp] theorem State.updPod_ops (p : Nat) (f : Pod → Pod) : (s.updPod p f).ops = s.ops := rfl
@[simp] theorem State.updPod_reqs (p : Nat) (f : Pod → Pod) : (s.updPod p f).reqs = s.reqs := rfl
@[simp] theorem State.updPod_sys (p : Nat) (f : Pod → Pod) : (s.updPod p f).sys = s.sys := rfl
@[simp] theorem State.updPod_aoseqs (p : Nat) (f : Pod → Pod) : (s.updPod p f).aoseqs = s.aoseqs := rfl
@[simp] theorem State.updPod_nextId (p : Nat) (f : Pod → Pod) : (s.updPod p f).nextId = s.nextId := rfl
@[simp] theorem State.updPod_parts (p : Nat) (f : Pod → Pod) : (s.updPod p f).parts = s.parts := rfl
@[simp] theorem State.updPod_slots (p : Nat) (f : Pod → Pod) : (s.updPod p f).slots = s.slots := rfl
@[simp] theorem State.updPod_launches (p : Nat) (f : Pod → Pod) : (s.updPod p f).launches = s.launches := rfl
@[simp] theorem State.updPod_gangs (p : Nat) (f : Pod → Pod) : (s.updPod p f).gangs = s.gangs := rfl
@[simp] theorem State.updPod_teams (p : Nat) (f : Pod → Pod) : (s.updPod p f).teams = s.teams := rfl
@[simp] theorem State.updPod_objs (p : Nat) (f : Pod → Pod) : (s.updPod p f).objs = s.objs := rfl
@[simp] theorem State.updPod_subs (p : Nat) (f : Pod → Pod) : (s.updPod p f).subs = s.subs := rfl
@[simp] theorem State.updPod_invs (p : Nat) (f : Pod → Pod) : (s.updPod p f).invs = s.invs := rfl
@[simp] theorem State.updPod_vfs (p : Nat) (f : Pod → Pod) : (s.updPod p f).vfs = s.vfs := rfl
@[simp] theorem State.updPod_dies (p : Nat) (f : Pod → Pod) : (s.updPod p f).dies = s.dies := rfl
@[simp] theorem State.updPod_msix (p : Nat) (f : Pod → Pod) : (s.updPod p f).msix = s.msix := rfl
@[simp] theorem State.updPod_hostData (p : Nat) (f : Pod → Pod) : (s.updPod p f).hostData = s.hostData := rfl
@[simp] theorem State.updPod_pf (p : Nat) (f : Pod → Pod) : (s.updPod p f).pf = s.pf := rfl
@[simp] theorem State.updPod_pf1Status (p : Nat) (f : Pod → Pod) : (s.updPod p f).pf1Status = s.pf1Status := rfl
@[simp] theorem State.updPod_reftime (p : Nat) (f : Pod → Pod) : (s.updPod p f).reftime = s.reftime := rfl
@[simp] theorem State.updPod_boot (p : Nat) (f : Pod → Pod) : (s.updPod p f).boot = s.boot := rfl
@[simp] theorem State.updPod_slotB (p : Nat) (f : Pod → Pod) : (s.updPod p f).slotB = s.slotB := rfl
@[simp] theorem State.updPod_failedStarts (p : Nat) (f : Pod → Pod) : (s.updPod p f).failedStarts = s.failedStarts := rfl
@[simp] theorem State.updPod_training (p : Nat) (f : Pod → Pod) : (s.updPod p f).training = s.training := rfl
@[simp] theorem State.updPod_meas (p : Nat) (f : Pod → Pod) : (s.updPod p f).meas = s.meas := rfl
@[simp] theorem State.updPod_deviceKey (p : Nat) (f : Pod → Pod) : (s.updPod p f).deviceKey = s.deviceKey := rfl
@[simp] theorem State.updPod_spdm (p : Nat) (f : Pod → Pod) : (s.updPod p f).spdm = s.spdm := rfl
@[simp] theorem State.updPod_ide (p : Nat) (f : Pod → Pod) : (s.updPod p f).ide = s.ide := rfl
@[simp] theorem State.updPod_recs (p : Nat) (f : Pod → Pod) : (s.updPod p f).recs = s.recs := rfl
@[simp] theorem State.updPod_save (p : Nat) (f : Pod → Pod) : (s.updPod p f).save = s.save := rfl
@[simp] theorem State.updPod_turn (p : Nat) (f : Pod → Pod) : (s.updPod p f).turn = s.turn := rfl
@[simp] theorem State.updPod_fresh (p : Nat) (f : Pod → Pod) : (s.updPod p f).fresh = s.fresh := rfl

/-! ### State.updDie -/

@[simp] theorem State.updDie_mem (d : Nat) (f : Die → Die) : (s.updDie d f).mem = s.mem := rfl
@[simp] theorem State.updDie_scratch (d : Nat) (f : Die → Die) : (s.updDie d f).scratch = s.scratch := rfl
@[simp] theorem State.updDie_host (d : Nat) (f : Die → Die) : (s.updDie d f).host = s.host := rfl
@[simp] theorem State.updDie_peer (d : Nat) (f : Die → Die) : (s.updDie d f).peer = s.peer := rfl
@[simp] theorem State.updDie_lines (d : Nat) (f : Die → Die) : (s.updDie d f).lines = s.lines := rfl
@[simp] theorem State.updDie_scrLines (d : Nat) (f : Die → Die) : (s.updDie d f).scrLines = s.scrLines := rfl
@[simp] theorem State.updDie_copies (d : Nat) (f : Die → Die) : (s.updDie d f).copies = s.copies := rfl
@[simp] theorem State.updDie_devCopies (d : Nat) (f : Die → Die) : (s.updDie d f).devCopies = s.devCopies := rfl
@[simp] theorem State.updDie_attrs (d : Nat) (f : Die → Die) : (s.updDie d f).attrs = s.attrs := rfl
@[simp] theorem State.updDie_poison (d : Nat) (f : Die → Die) : (s.updDie d f).poison = s.poison := rfl
@[simp] theorem State.updDie_shadows (d : Nat) (f : Die → Die) : (s.updDie d f).shadows = s.shadows := rfl
@[simp] theorem State.updDie_cores (d : Nat) (f : Die → Die) : (s.updDie d f).cores = s.cores := rfl
@[simp] theorem State.updDie_ops (d : Nat) (f : Die → Die) : (s.updDie d f).ops = s.ops := rfl
@[simp] theorem State.updDie_reqs (d : Nat) (f : Die → Die) : (s.updDie d f).reqs = s.reqs := rfl
@[simp] theorem State.updDie_sys (d : Nat) (f : Die → Die) : (s.updDie d f).sys = s.sys := rfl
@[simp] theorem State.updDie_aoseqs (d : Nat) (f : Die → Die) : (s.updDie d f).aoseqs = s.aoseqs := rfl
@[simp] theorem State.updDie_nextId (d : Nat) (f : Die → Die) : (s.updDie d f).nextId = s.nextId := rfl
@[simp] theorem State.updDie_parts (d : Nat) (f : Die → Die) : (s.updDie d f).parts = s.parts := rfl
@[simp] theorem State.updDie_slots (d : Nat) (f : Die → Die) : (s.updDie d f).slots = s.slots := rfl
@[simp] theorem State.updDie_launches (d : Nat) (f : Die → Die) : (s.updDie d f).launches = s.launches := rfl
@[simp] theorem State.updDie_gangs (d : Nat) (f : Die → Die) : (s.updDie d f).gangs = s.gangs := rfl
@[simp] theorem State.updDie_teams (d : Nat) (f : Die → Die) : (s.updDie d f).teams = s.teams := rfl
@[simp] theorem State.updDie_objs (d : Nat) (f : Die → Die) : (s.updDie d f).objs = s.objs := rfl
@[simp] theorem State.updDie_subs (d : Nat) (f : Die → Die) : (s.updDie d f).subs = s.subs := rfl
@[simp] theorem State.updDie_invs (d : Nat) (f : Die → Die) : (s.updDie d f).invs = s.invs := rfl
@[simp] theorem State.updDie_vfs (d : Nat) (f : Die → Die) : (s.updDie d f).vfs = s.vfs := rfl
@[simp] theorem State.updDie_pods (d : Nat) (f : Die → Die) : (s.updDie d f).pods = s.pods := rfl
@[simp] theorem State.updDie_msix (d : Nat) (f : Die → Die) : (s.updDie d f).msix = s.msix := rfl
@[simp] theorem State.updDie_hostData (d : Nat) (f : Die → Die) : (s.updDie d f).hostData = s.hostData := rfl
@[simp] theorem State.updDie_pf (d : Nat) (f : Die → Die) : (s.updDie d f).pf = s.pf := rfl
@[simp] theorem State.updDie_pf1Status (d : Nat) (f : Die → Die) : (s.updDie d f).pf1Status = s.pf1Status := rfl
@[simp] theorem State.updDie_reftime (d : Nat) (f : Die → Die) : (s.updDie d f).reftime = s.reftime := rfl
@[simp] theorem State.updDie_boot (d : Nat) (f : Die → Die) : (s.updDie d f).boot = s.boot := rfl
@[simp] theorem State.updDie_slotB (d : Nat) (f : Die → Die) : (s.updDie d f).slotB = s.slotB := rfl
@[simp] theorem State.updDie_failedStarts (d : Nat) (f : Die → Die) : (s.updDie d f).failedStarts = s.failedStarts := rfl
@[simp] theorem State.updDie_training (d : Nat) (f : Die → Die) : (s.updDie d f).training = s.training := rfl
@[simp] theorem State.updDie_meas (d : Nat) (f : Die → Die) : (s.updDie d f).meas = s.meas := rfl
@[simp] theorem State.updDie_deviceKey (d : Nat) (f : Die → Die) : (s.updDie d f).deviceKey = s.deviceKey := rfl
@[simp] theorem State.updDie_spdm (d : Nat) (f : Die → Die) : (s.updDie d f).spdm = s.spdm := rfl
@[simp] theorem State.updDie_ide (d : Nat) (f : Die → Die) : (s.updDie d f).ide = s.ide := rfl
@[simp] theorem State.updDie_recs (d : Nat) (f : Die → Die) : (s.updDie d f).recs = s.recs := rfl
@[simp] theorem State.updDie_save (d : Nat) (f : Die → Die) : (s.updDie d f).save = s.save := rfl
@[simp] theorem State.updDie_turn (d : Nat) (f : Die → Die) : (s.updDie d f).turn = s.turn := rfl
@[simp] theorem State.updDie_fresh (d : Nat) (f : Die → Die) : (s.updDie d f).fresh = s.fresh := rfl

/-! ### State.updVf -/

@[simp] theorem State.updVf_mem (v : Nat) (f : Vf → Vf) : (s.updVf v f).mem = s.mem := rfl
@[simp] theorem State.updVf_scratch (v : Nat) (f : Vf → Vf) : (s.updVf v f).scratch = s.scratch := rfl
@[simp] theorem State.updVf_host (v : Nat) (f : Vf → Vf) : (s.updVf v f).host = s.host := rfl
@[simp] theorem State.updVf_peer (v : Nat) (f : Vf → Vf) : (s.updVf v f).peer = s.peer := rfl
@[simp] theorem State.updVf_lines (v : Nat) (f : Vf → Vf) : (s.updVf v f).lines = s.lines := rfl
@[simp] theorem State.updVf_scrLines (v : Nat) (f : Vf → Vf) : (s.updVf v f).scrLines = s.scrLines := rfl
@[simp] theorem State.updVf_copies (v : Nat) (f : Vf → Vf) : (s.updVf v f).copies = s.copies := rfl
@[simp] theorem State.updVf_devCopies (v : Nat) (f : Vf → Vf) : (s.updVf v f).devCopies = s.devCopies := rfl
@[simp] theorem State.updVf_attrs (v : Nat) (f : Vf → Vf) : (s.updVf v f).attrs = s.attrs := rfl
@[simp] theorem State.updVf_poison (v : Nat) (f : Vf → Vf) : (s.updVf v f).poison = s.poison := rfl
@[simp] theorem State.updVf_shadows (v : Nat) (f : Vf → Vf) : (s.updVf v f).shadows = s.shadows := rfl
@[simp] theorem State.updVf_cores (v : Nat) (f : Vf → Vf) : (s.updVf v f).cores = s.cores := rfl
@[simp] theorem State.updVf_ops (v : Nat) (f : Vf → Vf) : (s.updVf v f).ops = s.ops := rfl
@[simp] theorem State.updVf_reqs (v : Nat) (f : Vf → Vf) : (s.updVf v f).reqs = s.reqs := rfl
@[simp] theorem State.updVf_sys (v : Nat) (f : Vf → Vf) : (s.updVf v f).sys = s.sys := rfl
@[simp] theorem State.updVf_aoseqs (v : Nat) (f : Vf → Vf) : (s.updVf v f).aoseqs = s.aoseqs := rfl
@[simp] theorem State.updVf_nextId (v : Nat) (f : Vf → Vf) : (s.updVf v f).nextId = s.nextId := rfl
@[simp] theorem State.updVf_parts (v : Nat) (f : Vf → Vf) : (s.updVf v f).parts = s.parts := rfl
@[simp] theorem State.updVf_slots (v : Nat) (f : Vf → Vf) : (s.updVf v f).slots = s.slots := rfl
@[simp] theorem State.updVf_launches (v : Nat) (f : Vf → Vf) : (s.updVf v f).launches = s.launches := rfl
@[simp] theorem State.updVf_gangs (v : Nat) (f : Vf → Vf) : (s.updVf v f).gangs = s.gangs := rfl
@[simp] theorem State.updVf_teams (v : Nat) (f : Vf → Vf) : (s.updVf v f).teams = s.teams := rfl
@[simp] theorem State.updVf_objs (v : Nat) (f : Vf → Vf) : (s.updVf v f).objs = s.objs := rfl
@[simp] theorem State.updVf_subs (v : Nat) (f : Vf → Vf) : (s.updVf v f).subs = s.subs := rfl
@[simp] theorem State.updVf_invs (v : Nat) (f : Vf → Vf) : (s.updVf v f).invs = s.invs := rfl
@[simp] theorem State.updVf_pods (v : Nat) (f : Vf → Vf) : (s.updVf v f).pods = s.pods := rfl
@[simp] theorem State.updVf_dies (v : Nat) (f : Vf → Vf) : (s.updVf v f).dies = s.dies := rfl
@[simp] theorem State.updVf_msix (v : Nat) (f : Vf → Vf) : (s.updVf v f).msix = s.msix := rfl
@[simp] theorem State.updVf_hostData (v : Nat) (f : Vf → Vf) : (s.updVf v f).hostData = s.hostData := rfl
@[simp] theorem State.updVf_pf (v : Nat) (f : Vf → Vf) : (s.updVf v f).pf = s.pf := rfl
@[simp] theorem State.updVf_pf1Status (v : Nat) (f : Vf → Vf) : (s.updVf v f).pf1Status = s.pf1Status := rfl
@[simp] theorem State.updVf_reftime (v : Nat) (f : Vf → Vf) : (s.updVf v f).reftime = s.reftime := rfl
@[simp] theorem State.updVf_boot (v : Nat) (f : Vf → Vf) : (s.updVf v f).boot = s.boot := rfl
@[simp] theorem State.updVf_slotB (v : Nat) (f : Vf → Vf) : (s.updVf v f).slotB = s.slotB := rfl
@[simp] theorem State.updVf_failedStarts (v : Nat) (f : Vf → Vf) : (s.updVf v f).failedStarts = s.failedStarts := rfl
@[simp] theorem State.updVf_training (v : Nat) (f : Vf → Vf) : (s.updVf v f).training = s.training := rfl
@[simp] theorem State.updVf_meas (v : Nat) (f : Vf → Vf) : (s.updVf v f).meas = s.meas := rfl
@[simp] theorem State.updVf_deviceKey (v : Nat) (f : Vf → Vf) : (s.updVf v f).deviceKey = s.deviceKey := rfl
@[simp] theorem State.updVf_spdm (v : Nat) (f : Vf → Vf) : (s.updVf v f).spdm = s.spdm := rfl
@[simp] theorem State.updVf_ide (v : Nat) (f : Vf → Vf) : (s.updVf v f).ide = s.ide := rfl
@[simp] theorem State.updVf_recs (v : Nat) (f : Vf → Vf) : (s.updVf v f).recs = s.recs := rfl
@[simp] theorem State.updVf_save (v : Nat) (f : Vf → Vf) : (s.updVf v f).save = s.save := rfl
@[simp] theorem State.updVf_turn (v : Nat) (f : Vf → Vf) : (s.updVf v f).turn = s.turn := rfl
@[simp] theorem State.updVf_fresh (v : Nat) (f : Vf → Vf) : (s.updVf v f).fresh = s.fresh := rfl

/-! ### State.updLaunch -/

@[simp] theorem State.updLaunch_mem (l : Nat) (f : Launch → Launch) : (s.updLaunch l f).mem = s.mem := by unfold State.updLaunch; split <;> rfl
@[simp] theorem State.updLaunch_scratch (l : Nat) (f : Launch → Launch) : (s.updLaunch l f).scratch = s.scratch := by unfold State.updLaunch; split <;> rfl
@[simp] theorem State.updLaunch_host (l : Nat) (f : Launch → Launch) : (s.updLaunch l f).host = s.host := by unfold State.updLaunch; split <;> rfl
@[simp] theorem State.updLaunch_peer (l : Nat) (f : Launch → Launch) : (s.updLaunch l f).peer = s.peer := by unfold State.updLaunch; split <;> rfl
@[simp] theorem State.updLaunch_lines (l : Nat) (f : Launch → Launch) : (s.updLaunch l f).lines = s.lines := by unfold State.updLaunch; split <;> rfl
@[simp] theorem State.updLaunch_scrLines (l : Nat) (f : Launch → Launch) : (s.updLaunch l f).scrLines = s.scrLines := by unfold State.updLaunch; split <;> rfl
@[simp] theorem State.updLaunch_copies (l : Nat) (f : Launch → Launch) : (s.updLaunch l f).copies = s.copies := by unfold State.updLaunch; split <;> rfl
@[simp] theorem State.updLaunch_devCopies (l : Nat) (f : Launch → Launch) : (s.updLaunch l f).devCopies = s.devCopies := by unfold State.updLaunch; split <;> rfl
@[simp] theorem State.updLaunch_attrs (l : Nat) (f : Launch → Launch) : (s.updLaunch l f).attrs = s.attrs := by unfold State.updLaunch; split <;> rfl
@[simp] theorem State.updLaunch_poison (l : Nat) (f : Launch → Launch) : (s.updLaunch l f).poison = s.poison := by unfold State.updLaunch; split <;> rfl
@[simp] theorem State.updLaunch_shadows (l : Nat) (f : Launch → Launch) : (s.updLaunch l f).shadows = s.shadows := by unfold State.updLaunch; split <;> rfl
@[simp] theorem State.updLaunch_cores (l : Nat) (f : Launch → Launch) : (s.updLaunch l f).cores = s.cores := by unfold State.updLaunch; split <;> rfl
@[simp] theorem State.updLaunch_ops (l : Nat) (f : Launch → Launch) : (s.updLaunch l f).ops = s.ops := by unfold State.updLaunch; split <;> rfl
@[simp] theorem State.updLaunch_reqs (l : Nat) (f : Launch → Launch) : (s.updLaunch l f).reqs = s.reqs := by unfold State.updLaunch; split <;> rfl
@[simp] theorem State.updLaunch_sys (l : Nat) (f : Launch → Launch) : (s.updLaunch l f).sys = s.sys := by unfold State.updLaunch; split <;> rfl
@[simp] theorem State.updLaunch_aoseqs (l : Nat) (f : Launch → Launch) : (s.updLaunch l f).aoseqs = s.aoseqs := by unfold State.updLaunch; split <;> rfl
@[simp] theorem State.updLaunch_nextId (l : Nat) (f : Launch → Launch) : (s.updLaunch l f).nextId = s.nextId := by unfold State.updLaunch; split <;> rfl
@[simp] theorem State.updLaunch_parts (l : Nat) (f : Launch → Launch) : (s.updLaunch l f).parts = s.parts := by unfold State.updLaunch; split <;> rfl
@[simp] theorem State.updLaunch_slots (l : Nat) (f : Launch → Launch) : (s.updLaunch l f).slots = s.slots := by unfold State.updLaunch; split <;> rfl
@[simp] theorem State.updLaunch_gangs (l : Nat) (f : Launch → Launch) : (s.updLaunch l f).gangs = s.gangs := by unfold State.updLaunch; split <;> rfl
@[simp] theorem State.updLaunch_teams (l : Nat) (f : Launch → Launch) : (s.updLaunch l f).teams = s.teams := by unfold State.updLaunch; split <;> rfl
@[simp] theorem State.updLaunch_objs (l : Nat) (f : Launch → Launch) : (s.updLaunch l f).objs = s.objs := by unfold State.updLaunch; split <;> rfl
@[simp] theorem State.updLaunch_subs (l : Nat) (f : Launch → Launch) : (s.updLaunch l f).subs = s.subs := by unfold State.updLaunch; split <;> rfl
@[simp] theorem State.updLaunch_invs (l : Nat) (f : Launch → Launch) : (s.updLaunch l f).invs = s.invs := by unfold State.updLaunch; split <;> rfl
@[simp] theorem State.updLaunch_vfs (l : Nat) (f : Launch → Launch) : (s.updLaunch l f).vfs = s.vfs := by unfold State.updLaunch; split <;> rfl
@[simp] theorem State.updLaunch_pods (l : Nat) (f : Launch → Launch) : (s.updLaunch l f).pods = s.pods := by unfold State.updLaunch; split <;> rfl
@[simp] theorem State.updLaunch_dies (l : Nat) (f : Launch → Launch) : (s.updLaunch l f).dies = s.dies := by unfold State.updLaunch; split <;> rfl
@[simp] theorem State.updLaunch_msix (l : Nat) (f : Launch → Launch) : (s.updLaunch l f).msix = s.msix := by unfold State.updLaunch; split <;> rfl
@[simp] theorem State.updLaunch_hostData (l : Nat) (f : Launch → Launch) : (s.updLaunch l f).hostData = s.hostData := by unfold State.updLaunch; split <;> rfl
@[simp] theorem State.updLaunch_pf (l : Nat) (f : Launch → Launch) : (s.updLaunch l f).pf = s.pf := by unfold State.updLaunch; split <;> rfl
@[simp] theorem State.updLaunch_pf1Status (l : Nat) (f : Launch → Launch) : (s.updLaunch l f).pf1Status = s.pf1Status := by unfold State.updLaunch; split <;> rfl
@[simp] theorem State.updLaunch_reftime (l : Nat) (f : Launch → Launch) : (s.updLaunch l f).reftime = s.reftime := by unfold State.updLaunch; split <;> rfl
@[simp] theorem State.updLaunch_boot (l : Nat) (f : Launch → Launch) : (s.updLaunch l f).boot = s.boot := by unfold State.updLaunch; split <;> rfl
@[simp] theorem State.updLaunch_slotB (l : Nat) (f : Launch → Launch) : (s.updLaunch l f).slotB = s.slotB := by unfold State.updLaunch; split <;> rfl
@[simp] theorem State.updLaunch_failedStarts (l : Nat) (f : Launch → Launch) : (s.updLaunch l f).failedStarts = s.failedStarts := by unfold State.updLaunch; split <;> rfl
@[simp] theorem State.updLaunch_training (l : Nat) (f : Launch → Launch) : (s.updLaunch l f).training = s.training := by unfold State.updLaunch; split <;> rfl
@[simp] theorem State.updLaunch_meas (l : Nat) (f : Launch → Launch) : (s.updLaunch l f).meas = s.meas := by unfold State.updLaunch; split <;> rfl
@[simp] theorem State.updLaunch_deviceKey (l : Nat) (f : Launch → Launch) : (s.updLaunch l f).deviceKey = s.deviceKey := by unfold State.updLaunch; split <;> rfl
@[simp] theorem State.updLaunch_spdm (l : Nat) (f : Launch → Launch) : (s.updLaunch l f).spdm = s.spdm := by unfold State.updLaunch; split <;> rfl
@[simp] theorem State.updLaunch_ide (l : Nat) (f : Launch → Launch) : (s.updLaunch l f).ide = s.ide := by unfold State.updLaunch; split <;> rfl
@[simp] theorem State.updLaunch_recs (l : Nat) (f : Launch → Launch) : (s.updLaunch l f).recs = s.recs := by unfold State.updLaunch; split <;> rfl
@[simp] theorem State.updLaunch_save (l : Nat) (f : Launch → Launch) : (s.updLaunch l f).save = s.save := by unfold State.updLaunch; split <;> rfl
@[simp] theorem State.updLaunch_turn (l : Nat) (f : Launch → Launch) : (s.updLaunch l f).turn = s.turn := by unfold State.updLaunch; split <;> rfl
@[simp] theorem State.updLaunch_fresh (l : Nat) (f : Launch → Launch) : (s.updLaunch l f).fresh = s.fresh := by unfold State.updLaunch; split <;> rfl

/-! ### State.updGang -/

@[simp] theorem State.updGang_mem (g : Nat) (f : Gang → Gang) : (s.updGang g f).mem = s.mem := by unfold State.updGang; split <;> rfl
@[simp] theorem State.updGang_scratch (g : Nat) (f : Gang → Gang) : (s.updGang g f).scratch = s.scratch := by unfold State.updGang; split <;> rfl
@[simp] theorem State.updGang_host (g : Nat) (f : Gang → Gang) : (s.updGang g f).host = s.host := by unfold State.updGang; split <;> rfl
@[simp] theorem State.updGang_peer (g : Nat) (f : Gang → Gang) : (s.updGang g f).peer = s.peer := by unfold State.updGang; split <;> rfl
@[simp] theorem State.updGang_lines (g : Nat) (f : Gang → Gang) : (s.updGang g f).lines = s.lines := by unfold State.updGang; split <;> rfl
@[simp] theorem State.updGang_scrLines (g : Nat) (f : Gang → Gang) : (s.updGang g f).scrLines = s.scrLines := by unfold State.updGang; split <;> rfl
@[simp] theorem State.updGang_copies (g : Nat) (f : Gang → Gang) : (s.updGang g f).copies = s.copies := by unfold State.updGang; split <;> rfl
@[simp] theorem State.updGang_devCopies (g : Nat) (f : Gang → Gang) : (s.updGang g f).devCopies = s.devCopies := by unfold State.updGang; split <;> rfl
@[simp] theorem State.updGang_attrs (g : Nat) (f : Gang → Gang) : (s.updGang g f).attrs = s.attrs := by unfold State.updGang; split <;> rfl
@[simp] theorem State.updGang_poison (g : Nat) (f : Gang → Gang) : (s.updGang g f).poison = s.poison := by unfold State.updGang; split <;> rfl
@[simp] theorem State.updGang_shadows (g : Nat) (f : Gang → Gang) : (s.updGang g f).shadows = s.shadows := by unfold State.updGang; split <;> rfl
@[simp] theorem State.updGang_cores (g : Nat) (f : Gang → Gang) : (s.updGang g f).cores = s.cores := by unfold State.updGang; split <;> rfl
@[simp] theorem State.updGang_ops (g : Nat) (f : Gang → Gang) : (s.updGang g f).ops = s.ops := by unfold State.updGang; split <;> rfl
@[simp] theorem State.updGang_reqs (g : Nat) (f : Gang → Gang) : (s.updGang g f).reqs = s.reqs := by unfold State.updGang; split <;> rfl
@[simp] theorem State.updGang_sys (g : Nat) (f : Gang → Gang) : (s.updGang g f).sys = s.sys := by unfold State.updGang; split <;> rfl
@[simp] theorem State.updGang_aoseqs (g : Nat) (f : Gang → Gang) : (s.updGang g f).aoseqs = s.aoseqs := by unfold State.updGang; split <;> rfl
@[simp] theorem State.updGang_nextId (g : Nat) (f : Gang → Gang) : (s.updGang g f).nextId = s.nextId := by unfold State.updGang; split <;> rfl
@[simp] theorem State.updGang_parts (g : Nat) (f : Gang → Gang) : (s.updGang g f).parts = s.parts := by unfold State.updGang; split <;> rfl
@[simp] theorem State.updGang_slots (g : Nat) (f : Gang → Gang) : (s.updGang g f).slots = s.slots := by unfold State.updGang; split <;> rfl
@[simp] theorem State.updGang_launches (g : Nat) (f : Gang → Gang) : (s.updGang g f).launches = s.launches := by unfold State.updGang; split <;> rfl
@[simp] theorem State.updGang_teams (g : Nat) (f : Gang → Gang) : (s.updGang g f).teams = s.teams := by unfold State.updGang; split <;> rfl
@[simp] theorem State.updGang_objs (g : Nat) (f : Gang → Gang) : (s.updGang g f).objs = s.objs := by unfold State.updGang; split <;> rfl
@[simp] theorem State.updGang_subs (g : Nat) (f : Gang → Gang) : (s.updGang g f).subs = s.subs := by unfold State.updGang; split <;> rfl
@[simp] theorem State.updGang_invs (g : Nat) (f : Gang → Gang) : (s.updGang g f).invs = s.invs := by unfold State.updGang; split <;> rfl
@[simp] theorem State.updGang_vfs (g : Nat) (f : Gang → Gang) : (s.updGang g f).vfs = s.vfs := by unfold State.updGang; split <;> rfl
@[simp] theorem State.updGang_pods (g : Nat) (f : Gang → Gang) : (s.updGang g f).pods = s.pods := by unfold State.updGang; split <;> rfl
@[simp] theorem State.updGang_dies (g : Nat) (f : Gang → Gang) : (s.updGang g f).dies = s.dies := by unfold State.updGang; split <;> rfl
@[simp] theorem State.updGang_msix (g : Nat) (f : Gang → Gang) : (s.updGang g f).msix = s.msix := by unfold State.updGang; split <;> rfl
@[simp] theorem State.updGang_hostData (g : Nat) (f : Gang → Gang) : (s.updGang g f).hostData = s.hostData := by unfold State.updGang; split <;> rfl
@[simp] theorem State.updGang_pf (g : Nat) (f : Gang → Gang) : (s.updGang g f).pf = s.pf := by unfold State.updGang; split <;> rfl
@[simp] theorem State.updGang_pf1Status (g : Nat) (f : Gang → Gang) : (s.updGang g f).pf1Status = s.pf1Status := by unfold State.updGang; split <;> rfl
@[simp] theorem State.updGang_reftime (g : Nat) (f : Gang → Gang) : (s.updGang g f).reftime = s.reftime := by unfold State.updGang; split <;> rfl
@[simp] theorem State.updGang_boot (g : Nat) (f : Gang → Gang) : (s.updGang g f).boot = s.boot := by unfold State.updGang; split <;> rfl
@[simp] theorem State.updGang_slotB (g : Nat) (f : Gang → Gang) : (s.updGang g f).slotB = s.slotB := by unfold State.updGang; split <;> rfl
@[simp] theorem State.updGang_failedStarts (g : Nat) (f : Gang → Gang) : (s.updGang g f).failedStarts = s.failedStarts := by unfold State.updGang; split <;> rfl
@[simp] theorem State.updGang_training (g : Nat) (f : Gang → Gang) : (s.updGang g f).training = s.training := by unfold State.updGang; split <;> rfl
@[simp] theorem State.updGang_meas (g : Nat) (f : Gang → Gang) : (s.updGang g f).meas = s.meas := by unfold State.updGang; split <;> rfl
@[simp] theorem State.updGang_deviceKey (g : Nat) (f : Gang → Gang) : (s.updGang g f).deviceKey = s.deviceKey := by unfold State.updGang; split <;> rfl
@[simp] theorem State.updGang_spdm (g : Nat) (f : Gang → Gang) : (s.updGang g f).spdm = s.spdm := by unfold State.updGang; split <;> rfl
@[simp] theorem State.updGang_ide (g : Nat) (f : Gang → Gang) : (s.updGang g f).ide = s.ide := by unfold State.updGang; split <;> rfl
@[simp] theorem State.updGang_recs (g : Nat) (f : Gang → Gang) : (s.updGang g f).recs = s.recs := by unfold State.updGang; split <;> rfl
@[simp] theorem State.updGang_save (g : Nat) (f : Gang → Gang) : (s.updGang g f).save = s.save := by unfold State.updGang; split <;> rfl
@[simp] theorem State.updGang_turn (g : Nat) (f : Gang → Gang) : (s.updGang g f).turn = s.turn := by unfold State.updGang; split <;> rfl
@[simp] theorem State.updGang_fresh (g : Nat) (f : Gang → Gang) : (s.updGang g f).fresh = s.fresh := by unfold State.updGang; split <;> rfl

/-! ### State.updPart -/

@[simp] theorem State.updPart_mem (p : Nat) (f : Part → Part) : (s.updPart p f).mem = s.mem := by unfold State.updPart; split <;> rfl
@[simp] theorem State.updPart_scratch (p : Nat) (f : Part → Part) : (s.updPart p f).scratch = s.scratch := by unfold State.updPart; split <;> rfl
@[simp] theorem State.updPart_host (p : Nat) (f : Part → Part) : (s.updPart p f).host = s.host := by unfold State.updPart; split <;> rfl
@[simp] theorem State.updPart_peer (p : Nat) (f : Part → Part) : (s.updPart p f).peer = s.peer := by unfold State.updPart; split <;> rfl
@[simp] theorem State.updPart_lines (p : Nat) (f : Part → Part) : (s.updPart p f).lines = s.lines := by unfold State.updPart; split <;> rfl
@[simp] theorem State.updPart_scrLines (p : Nat) (f : Part → Part) : (s.updPart p f).scrLines = s.scrLines := by unfold State.updPart; split <;> rfl
@[simp] theorem State.updPart_copies (p : Nat) (f : Part → Part) : (s.updPart p f).copies = s.copies := by unfold State.updPart; split <;> rfl
@[simp] theorem State.updPart_devCopies (p : Nat) (f : Part → Part) : (s.updPart p f).devCopies = s.devCopies := by unfold State.updPart; split <;> rfl
@[simp] theorem State.updPart_attrs (p : Nat) (f : Part → Part) : (s.updPart p f).attrs = s.attrs := by unfold State.updPart; split <;> rfl
@[simp] theorem State.updPart_poison (p : Nat) (f : Part → Part) : (s.updPart p f).poison = s.poison := by unfold State.updPart; split <;> rfl
@[simp] theorem State.updPart_shadows (p : Nat) (f : Part → Part) : (s.updPart p f).shadows = s.shadows := by unfold State.updPart; split <;> rfl
@[simp] theorem State.updPart_cores (p : Nat) (f : Part → Part) : (s.updPart p f).cores = s.cores := by unfold State.updPart; split <;> rfl
@[simp] theorem State.updPart_ops (p : Nat) (f : Part → Part) : (s.updPart p f).ops = s.ops := by unfold State.updPart; split <;> rfl
@[simp] theorem State.updPart_reqs (p : Nat) (f : Part → Part) : (s.updPart p f).reqs = s.reqs := by unfold State.updPart; split <;> rfl
@[simp] theorem State.updPart_sys (p : Nat) (f : Part → Part) : (s.updPart p f).sys = s.sys := by unfold State.updPart; split <;> rfl
@[simp] theorem State.updPart_aoseqs (p : Nat) (f : Part → Part) : (s.updPart p f).aoseqs = s.aoseqs := by unfold State.updPart; split <;> rfl
@[simp] theorem State.updPart_nextId (p : Nat) (f : Part → Part) : (s.updPart p f).nextId = s.nextId := by unfold State.updPart; split <;> rfl
@[simp] theorem State.updPart_slots (p : Nat) (f : Part → Part) : (s.updPart p f).slots = s.slots := by unfold State.updPart; split <;> rfl
@[simp] theorem State.updPart_launches (p : Nat) (f : Part → Part) : (s.updPart p f).launches = s.launches := by unfold State.updPart; split <;> rfl
@[simp] theorem State.updPart_gangs (p : Nat) (f : Part → Part) : (s.updPart p f).gangs = s.gangs := by unfold State.updPart; split <;> rfl
@[simp] theorem State.updPart_teams (p : Nat) (f : Part → Part) : (s.updPart p f).teams = s.teams := by unfold State.updPart; split <;> rfl
@[simp] theorem State.updPart_objs (p : Nat) (f : Part → Part) : (s.updPart p f).objs = s.objs := by unfold State.updPart; split <;> rfl
@[simp] theorem State.updPart_subs (p : Nat) (f : Part → Part) : (s.updPart p f).subs = s.subs := by unfold State.updPart; split <;> rfl
@[simp] theorem State.updPart_invs (p : Nat) (f : Part → Part) : (s.updPart p f).invs = s.invs := by unfold State.updPart; split <;> rfl
@[simp] theorem State.updPart_vfs (p : Nat) (f : Part → Part) : (s.updPart p f).vfs = s.vfs := by unfold State.updPart; split <;> rfl
@[simp] theorem State.updPart_pods (p : Nat) (f : Part → Part) : (s.updPart p f).pods = s.pods := by unfold State.updPart; split <;> rfl
@[simp] theorem State.updPart_dies (p : Nat) (f : Part → Part) : (s.updPart p f).dies = s.dies := by unfold State.updPart; split <;> rfl
@[simp] theorem State.updPart_msix (p : Nat) (f : Part → Part) : (s.updPart p f).msix = s.msix := by unfold State.updPart; split <;> rfl
@[simp] theorem State.updPart_hostData (p : Nat) (f : Part → Part) : (s.updPart p f).hostData = s.hostData := by unfold State.updPart; split <;> rfl
@[simp] theorem State.updPart_pf (p : Nat) (f : Part → Part) : (s.updPart p f).pf = s.pf := by unfold State.updPart; split <;> rfl
@[simp] theorem State.updPart_pf1Status (p : Nat) (f : Part → Part) : (s.updPart p f).pf1Status = s.pf1Status := by unfold State.updPart; split <;> rfl
@[simp] theorem State.updPart_reftime (p : Nat) (f : Part → Part) : (s.updPart p f).reftime = s.reftime := by unfold State.updPart; split <;> rfl
@[simp] theorem State.updPart_boot (p : Nat) (f : Part → Part) : (s.updPart p f).boot = s.boot := by unfold State.updPart; split <;> rfl
@[simp] theorem State.updPart_slotB (p : Nat) (f : Part → Part) : (s.updPart p f).slotB = s.slotB := by unfold State.updPart; split <;> rfl
@[simp] theorem State.updPart_failedStarts (p : Nat) (f : Part → Part) : (s.updPart p f).failedStarts = s.failedStarts := by unfold State.updPart; split <;> rfl
@[simp] theorem State.updPart_training (p : Nat) (f : Part → Part) : (s.updPart p f).training = s.training := by unfold State.updPart; split <;> rfl
@[simp] theorem State.updPart_meas (p : Nat) (f : Part → Part) : (s.updPart p f).meas = s.meas := by unfold State.updPart; split <;> rfl
@[simp] theorem State.updPart_deviceKey (p : Nat) (f : Part → Part) : (s.updPart p f).deviceKey = s.deviceKey := by unfold State.updPart; split <;> rfl
@[simp] theorem State.updPart_spdm (p : Nat) (f : Part → Part) : (s.updPart p f).spdm = s.spdm := by unfold State.updPart; split <;> rfl
@[simp] theorem State.updPart_ide (p : Nat) (f : Part → Part) : (s.updPart p f).ide = s.ide := by unfold State.updPart; split <;> rfl
@[simp] theorem State.updPart_recs (p : Nat) (f : Part → Part) : (s.updPart p f).recs = s.recs := by unfold State.updPart; split <;> rfl
@[simp] theorem State.updPart_save (p : Nat) (f : Part → Part) : (s.updPart p f).save = s.save := by unfold State.updPart; split <;> rfl
@[simp] theorem State.updPart_turn (p : Nat) (f : Part → Part) : (s.updPart p f).turn = s.turn := by unfold State.updPart; split <;> rfl
@[simp] theorem State.updPart_fresh (p : Nat) (f : Part → Part) : (s.updPart p f).fresh = s.fresh := by unfold State.updPart; split <;> rfl

/-! ### State.updTeam -/

@[simp] theorem State.updTeam_mem (t : Nat) (f : TeamSt → TeamSt) : (s.updTeam t f).mem = s.mem := by unfold State.updTeam; split <;> rfl
@[simp] theorem State.updTeam_scratch (t : Nat) (f : TeamSt → TeamSt) : (s.updTeam t f).scratch = s.scratch := by unfold State.updTeam; split <;> rfl
@[simp] theorem State.updTeam_host (t : Nat) (f : TeamSt → TeamSt) : (s.updTeam t f).host = s.host := by unfold State.updTeam; split <;> rfl
@[simp] theorem State.updTeam_peer (t : Nat) (f : TeamSt → TeamSt) : (s.updTeam t f).peer = s.peer := by unfold State.updTeam; split <;> rfl
@[simp] theorem State.updTeam_lines (t : Nat) (f : TeamSt → TeamSt) : (s.updTeam t f).lines = s.lines := by unfold State.updTeam; split <;> rfl
@[simp] theorem State.updTeam_scrLines (t : Nat) (f : TeamSt → TeamSt) : (s.updTeam t f).scrLines = s.scrLines := by unfold State.updTeam; split <;> rfl
@[simp] theorem State.updTeam_copies (t : Nat) (f : TeamSt → TeamSt) : (s.updTeam t f).copies = s.copies := by unfold State.updTeam; split <;> rfl
@[simp] theorem State.updTeam_devCopies (t : Nat) (f : TeamSt → TeamSt) : (s.updTeam t f).devCopies = s.devCopies := by unfold State.updTeam; split <;> rfl
@[simp] theorem State.updTeam_attrs (t : Nat) (f : TeamSt → TeamSt) : (s.updTeam t f).attrs = s.attrs := by unfold State.updTeam; split <;> rfl
@[simp] theorem State.updTeam_poison (t : Nat) (f : TeamSt → TeamSt) : (s.updTeam t f).poison = s.poison := by unfold State.updTeam; split <;> rfl
@[simp] theorem State.updTeam_shadows (t : Nat) (f : TeamSt → TeamSt) : (s.updTeam t f).shadows = s.shadows := by unfold State.updTeam; split <;> rfl
@[simp] theorem State.updTeam_cores (t : Nat) (f : TeamSt → TeamSt) : (s.updTeam t f).cores = s.cores := by unfold State.updTeam; split <;> rfl
@[simp] theorem State.updTeam_ops (t : Nat) (f : TeamSt → TeamSt) : (s.updTeam t f).ops = s.ops := by unfold State.updTeam; split <;> rfl
@[simp] theorem State.updTeam_reqs (t : Nat) (f : TeamSt → TeamSt) : (s.updTeam t f).reqs = s.reqs := by unfold State.updTeam; split <;> rfl
@[simp] theorem State.updTeam_sys (t : Nat) (f : TeamSt → TeamSt) : (s.updTeam t f).sys = s.sys := by unfold State.updTeam; split <;> rfl
@[simp] theorem State.updTeam_aoseqs (t : Nat) (f : TeamSt → TeamSt) : (s.updTeam t f).aoseqs = s.aoseqs := by unfold State.updTeam; split <;> rfl
@[simp] theorem State.updTeam_nextId (t : Nat) (f : TeamSt → TeamSt) : (s.updTeam t f).nextId = s.nextId := by unfold State.updTeam; split <;> rfl
@[simp] theorem State.updTeam_parts (t : Nat) (f : TeamSt → TeamSt) : (s.updTeam t f).parts = s.parts := by unfold State.updTeam; split <;> rfl
@[simp] theorem State.updTeam_slots (t : Nat) (f : TeamSt → TeamSt) : (s.updTeam t f).slots = s.slots := by unfold State.updTeam; split <;> rfl
@[simp] theorem State.updTeam_launches (t : Nat) (f : TeamSt → TeamSt) : (s.updTeam t f).launches = s.launches := by unfold State.updTeam; split <;> rfl
@[simp] theorem State.updTeam_gangs (t : Nat) (f : TeamSt → TeamSt) : (s.updTeam t f).gangs = s.gangs := by unfold State.updTeam; split <;> rfl
@[simp] theorem State.updTeam_objs (t : Nat) (f : TeamSt → TeamSt) : (s.updTeam t f).objs = s.objs := by unfold State.updTeam; split <;> rfl
@[simp] theorem State.updTeam_subs (t : Nat) (f : TeamSt → TeamSt) : (s.updTeam t f).subs = s.subs := by unfold State.updTeam; split <;> rfl
@[simp] theorem State.updTeam_invs (t : Nat) (f : TeamSt → TeamSt) : (s.updTeam t f).invs = s.invs := by unfold State.updTeam; split <;> rfl
@[simp] theorem State.updTeam_vfs (t : Nat) (f : TeamSt → TeamSt) : (s.updTeam t f).vfs = s.vfs := by unfold State.updTeam; split <;> rfl
@[simp] theorem State.updTeam_pods (t : Nat) (f : TeamSt → TeamSt) : (s.updTeam t f).pods = s.pods := by unfold State.updTeam; split <;> rfl
@[simp] theorem State.updTeam_dies (t : Nat) (f : TeamSt → TeamSt) : (s.updTeam t f).dies = s.dies := by unfold State.updTeam; split <;> rfl
@[simp] theorem State.updTeam_msix (t : Nat) (f : TeamSt → TeamSt) : (s.updTeam t f).msix = s.msix := by unfold State.updTeam; split <;> rfl
@[simp] theorem State.updTeam_hostData (t : Nat) (f : TeamSt → TeamSt) : (s.updTeam t f).hostData = s.hostData := by unfold State.updTeam; split <;> rfl
@[simp] theorem State.updTeam_pf (t : Nat) (f : TeamSt → TeamSt) : (s.updTeam t f).pf = s.pf := by unfold State.updTeam; split <;> rfl
@[simp] theorem State.updTeam_pf1Status (t : Nat) (f : TeamSt → TeamSt) : (s.updTeam t f).pf1Status = s.pf1Status := by unfold State.updTeam; split <;> rfl
@[simp] theorem State.updTeam_reftime (t : Nat) (f : TeamSt → TeamSt) : (s.updTeam t f).reftime = s.reftime := by unfold State.updTeam; split <;> rfl
@[simp] theorem State.updTeam_boot (t : Nat) (f : TeamSt → TeamSt) : (s.updTeam t f).boot = s.boot := by unfold State.updTeam; split <;> rfl
@[simp] theorem State.updTeam_slotB (t : Nat) (f : TeamSt → TeamSt) : (s.updTeam t f).slotB = s.slotB := by unfold State.updTeam; split <;> rfl
@[simp] theorem State.updTeam_failedStarts (t : Nat) (f : TeamSt → TeamSt) : (s.updTeam t f).failedStarts = s.failedStarts := by unfold State.updTeam; split <;> rfl
@[simp] theorem State.updTeam_training (t : Nat) (f : TeamSt → TeamSt) : (s.updTeam t f).training = s.training := by unfold State.updTeam; split <;> rfl
@[simp] theorem State.updTeam_meas (t : Nat) (f : TeamSt → TeamSt) : (s.updTeam t f).meas = s.meas := by unfold State.updTeam; split <;> rfl
@[simp] theorem State.updTeam_deviceKey (t : Nat) (f : TeamSt → TeamSt) : (s.updTeam t f).deviceKey = s.deviceKey := by unfold State.updTeam; split <;> rfl
@[simp] theorem State.updTeam_spdm (t : Nat) (f : TeamSt → TeamSt) : (s.updTeam t f).spdm = s.spdm := by unfold State.updTeam; split <;> rfl
@[simp] theorem State.updTeam_ide (t : Nat) (f : TeamSt → TeamSt) : (s.updTeam t f).ide = s.ide := by unfold State.updTeam; split <;> rfl
@[simp] theorem State.updTeam_recs (t : Nat) (f : TeamSt → TeamSt) : (s.updTeam t f).recs = s.recs := by unfold State.updTeam; split <;> rfl
@[simp] theorem State.updTeam_save (t : Nat) (f : TeamSt → TeamSt) : (s.updTeam t f).save = s.save := by unfold State.updTeam; split <;> rfl
@[simp] theorem State.updTeam_turn (t : Nat) (f : TeamSt → TeamSt) : (s.updTeam t f).turn = s.turn := by unfold State.updTeam; split <;> rfl
@[simp] theorem State.updTeam_fresh (t : Nat) (f : TeamSt → TeamSt) : (s.updTeam t f).fresh = s.fresh := by unfold State.updTeam; split <;> rfl

/-! ### State.updOp -/

@[simp] theorem State.updOp_mem (o : Nat) (f : AOp → AOp) : (s.updOp o f).mem = s.mem := by unfold State.updOp; split <;> rfl
@[simp] theorem State.updOp_scratch (o : Nat) (f : AOp → AOp) : (s.updOp o f).scratch = s.scratch := by unfold State.updOp; split <;> rfl
@[simp] theorem State.updOp_host (o : Nat) (f : AOp → AOp) : (s.updOp o f).host = s.host := by unfold State.updOp; split <;> rfl
@[simp] theorem State.updOp_peer (o : Nat) (f : AOp → AOp) : (s.updOp o f).peer = s.peer := by unfold State.updOp; split <;> rfl
@[simp] theorem State.updOp_lines (o : Nat) (f : AOp → AOp) : (s.updOp o f).lines = s.lines := by unfold State.updOp; split <;> rfl
@[simp] theorem State.updOp_scrLines (o : Nat) (f : AOp → AOp) : (s.updOp o f).scrLines = s.scrLines := by unfold State.updOp; split <;> rfl
@[simp] theorem State.updOp_copies (o : Nat) (f : AOp → AOp) : (s.updOp o f).copies = s.copies := by unfold State.updOp; split <;> rfl
@[simp] theorem State.updOp_devCopies (o : Nat) (f : AOp → AOp) : (s.updOp o f).devCopies = s.devCopies := by unfold State.updOp; split <;> rfl
@[simp] theorem State.updOp_attrs (o : Nat) (f : AOp → AOp) : (s.updOp o f).attrs = s.attrs := by unfold State.updOp; split <;> rfl
@[simp] theorem State.updOp_poison (o : Nat) (f : AOp → AOp) : (s.updOp o f).poison = s.poison := by unfold State.updOp; split <;> rfl
@[simp] theorem State.updOp_shadows (o : Nat) (f : AOp → AOp) : (s.updOp o f).shadows = s.shadows := by unfold State.updOp; split <;> rfl
@[simp] theorem State.updOp_cores (o : Nat) (f : AOp → AOp) : (s.updOp o f).cores = s.cores := by unfold State.updOp; split <;> rfl
@[simp] theorem State.updOp_reqs (o : Nat) (f : AOp → AOp) : (s.updOp o f).reqs = s.reqs := by unfold State.updOp; split <;> rfl
@[simp] theorem State.updOp_sys (o : Nat) (f : AOp → AOp) : (s.updOp o f).sys = s.sys := by unfold State.updOp; split <;> rfl
@[simp] theorem State.updOp_aoseqs (o : Nat) (f : AOp → AOp) : (s.updOp o f).aoseqs = s.aoseqs := by unfold State.updOp; split <;> rfl
@[simp] theorem State.updOp_nextId (o : Nat) (f : AOp → AOp) : (s.updOp o f).nextId = s.nextId := by unfold State.updOp; split <;> rfl
@[simp] theorem State.updOp_parts (o : Nat) (f : AOp → AOp) : (s.updOp o f).parts = s.parts := by unfold State.updOp; split <;> rfl
@[simp] theorem State.updOp_slots (o : Nat) (f : AOp → AOp) : (s.updOp o f).slots = s.slots := by unfold State.updOp; split <;> rfl
@[simp] theorem State.updOp_launches (o : Nat) (f : AOp → AOp) : (s.updOp o f).launches = s.launches := by unfold State.updOp; split <;> rfl
@[simp] theorem State.updOp_gangs (o : Nat) (f : AOp → AOp) : (s.updOp o f).gangs = s.gangs := by unfold State.updOp; split <;> rfl
@[simp] theorem State.updOp_teams (o : Nat) (f : AOp → AOp) : (s.updOp o f).teams = s.teams := by unfold State.updOp; split <;> rfl
@[simp] theorem State.updOp_objs (o : Nat) (f : AOp → AOp) : (s.updOp o f).objs = s.objs := by unfold State.updOp; split <;> rfl
@[simp] theorem State.updOp_subs (o : Nat) (f : AOp → AOp) : (s.updOp o f).subs = s.subs := by unfold State.updOp; split <;> rfl
@[simp] theorem State.updOp_invs (o : Nat) (f : AOp → AOp) : (s.updOp o f).invs = s.invs := by unfold State.updOp; split <;> rfl
@[simp] theorem State.updOp_vfs (o : Nat) (f : AOp → AOp) : (s.updOp o f).vfs = s.vfs := by unfold State.updOp; split <;> rfl
@[simp] theorem State.updOp_pods (o : Nat) (f : AOp → AOp) : (s.updOp o f).pods = s.pods := by unfold State.updOp; split <;> rfl
@[simp] theorem State.updOp_dies (o : Nat) (f : AOp → AOp) : (s.updOp o f).dies = s.dies := by unfold State.updOp; split <;> rfl
@[simp] theorem State.updOp_msix (o : Nat) (f : AOp → AOp) : (s.updOp o f).msix = s.msix := by unfold State.updOp; split <;> rfl
@[simp] theorem State.updOp_hostData (o : Nat) (f : AOp → AOp) : (s.updOp o f).hostData = s.hostData := by unfold State.updOp; split <;> rfl
@[simp] theorem State.updOp_pf (o : Nat) (f : AOp → AOp) : (s.updOp o f).pf = s.pf := by unfold State.updOp; split <;> rfl
@[simp] theorem State.updOp_pf1Status (o : Nat) (f : AOp → AOp) : (s.updOp o f).pf1Status = s.pf1Status := by unfold State.updOp; split <;> rfl
@[simp] theorem State.updOp_reftime (o : Nat) (f : AOp → AOp) : (s.updOp o f).reftime = s.reftime := by unfold State.updOp; split <;> rfl
@[simp] theorem State.updOp_boot (o : Nat) (f : AOp → AOp) : (s.updOp o f).boot = s.boot := by unfold State.updOp; split <;> rfl
@[simp] theorem State.updOp_slotB (o : Nat) (f : AOp → AOp) : (s.updOp o f).slotB = s.slotB := by unfold State.updOp; split <;> rfl
@[simp] theorem State.updOp_failedStarts (o : Nat) (f : AOp → AOp) : (s.updOp o f).failedStarts = s.failedStarts := by unfold State.updOp; split <;> rfl
@[simp] theorem State.updOp_training (o : Nat) (f : AOp → AOp) : (s.updOp o f).training = s.training := by unfold State.updOp; split <;> rfl
@[simp] theorem State.updOp_meas (o : Nat) (f : AOp → AOp) : (s.updOp o f).meas = s.meas := by unfold State.updOp; split <;> rfl
@[simp] theorem State.updOp_deviceKey (o : Nat) (f : AOp → AOp) : (s.updOp o f).deviceKey = s.deviceKey := by unfold State.updOp; split <;> rfl
@[simp] theorem State.updOp_spdm (o : Nat) (f : AOp → AOp) : (s.updOp o f).spdm = s.spdm := by unfold State.updOp; split <;> rfl
@[simp] theorem State.updOp_ide (o : Nat) (f : AOp → AOp) : (s.updOp o f).ide = s.ide := by unfold State.updOp; split <;> rfl
@[simp] theorem State.updOp_recs (o : Nat) (f : AOp → AOp) : (s.updOp o f).recs = s.recs := by unfold State.updOp; split <;> rfl
@[simp] theorem State.updOp_save (o : Nat) (f : AOp → AOp) : (s.updOp o f).save = s.save := by unfold State.updOp; split <;> rfl
@[simp] theorem State.updOp_turn (o : Nat) (f : AOp → AOp) : (s.updOp o f).turn = s.turn := by unfold State.updOp; split <;> rfl
@[simp] theorem State.updOp_fresh (o : Nat) (f : AOp → AOp) : (s.updOp o f).fresh = s.fresh := by unfold State.updOp; split <;> rfl

/-! ### State.updObj -/

@[simp] theorem State.updObj_mem (o : Nat) (f : Obj → Obj) : (s.updObj o f).mem = s.mem := by unfold State.updObj; split <;> rfl
@[simp] theorem State.updObj_scratch (o : Nat) (f : Obj → Obj) : (s.updObj o f).scratch = s.scratch := by unfold State.updObj; split <;> rfl
@[simp] theorem State.updObj_host (o : Nat) (f : Obj → Obj) : (s.updObj o f).host = s.host := by unfold State.updObj; split <;> rfl
@[simp] theorem State.updObj_peer (o : Nat) (f : Obj → Obj) : (s.updObj o f).peer = s.peer := by unfold State.updObj; split <;> rfl
@[simp] theorem State.updObj_lines (o : Nat) (f : Obj → Obj) : (s.updObj o f).lines = s.lines := by unfold State.updObj; split <;> rfl
@[simp] theorem State.updObj_scrLines (o : Nat) (f : Obj → Obj) : (s.updObj o f).scrLines = s.scrLines := by unfold State.updObj; split <;> rfl
@[simp] theorem State.updObj_copies (o : Nat) (f : Obj → Obj) : (s.updObj o f).copies = s.copies := by unfold State.updObj; split <;> rfl
@[simp] theorem State.updObj_devCopies (o : Nat) (f : Obj → Obj) : (s.updObj o f).devCopies = s.devCopies := by unfold State.updObj; split <;> rfl
@[simp] theorem State.updObj_attrs (o : Nat) (f : Obj → Obj) : (s.updObj o f).attrs = s.attrs := by unfold State.updObj; split <;> rfl
@[simp] theorem State.updObj_poison (o : Nat) (f : Obj → Obj) : (s.updObj o f).poison = s.poison := by unfold State.updObj; split <;> rfl
@[simp] theorem State.updObj_shadows (o : Nat) (f : Obj → Obj) : (s.updObj o f).shadows = s.shadows := by unfold State.updObj; split <;> rfl
@[simp] theorem State.updObj_cores (o : Nat) (f : Obj → Obj) : (s.updObj o f).cores = s.cores := by unfold State.updObj; split <;> rfl
@[simp] theorem State.updObj_ops (o : Nat) (f : Obj → Obj) : (s.updObj o f).ops = s.ops := by unfold State.updObj; split <;> rfl
@[simp] theorem State.updObj_reqs (o : Nat) (f : Obj → Obj) : (s.updObj o f).reqs = s.reqs := by unfold State.updObj; split <;> rfl
@[simp] theorem State.updObj_sys (o : Nat) (f : Obj → Obj) : (s.updObj o f).sys = s.sys := by unfold State.updObj; split <;> rfl
@[simp] theorem State.updObj_aoseqs (o : Nat) (f : Obj → Obj) : (s.updObj o f).aoseqs = s.aoseqs := by unfold State.updObj; split <;> rfl
@[simp] theorem State.updObj_nextId (o : Nat) (f : Obj → Obj) : (s.updObj o f).nextId = s.nextId := by unfold State.updObj; split <;> rfl
@[simp] theorem State.updObj_parts (o : Nat) (f : Obj → Obj) : (s.updObj o f).parts = s.parts := by unfold State.updObj; split <;> rfl
@[simp] theorem State.updObj_slots (o : Nat) (f : Obj → Obj) : (s.updObj o f).slots = s.slots := by unfold State.updObj; split <;> rfl
@[simp] theorem State.updObj_launches (o : Nat) (f : Obj → Obj) : (s.updObj o f).launches = s.launches := by unfold State.updObj; split <;> rfl
@[simp] theorem State.updObj_gangs (o : Nat) (f : Obj → Obj) : (s.updObj o f).gangs = s.gangs := by unfold State.updObj; split <;> rfl
@[simp] theorem State.updObj_teams (o : Nat) (f : Obj → Obj) : (s.updObj o f).teams = s.teams := by unfold State.updObj; split <;> rfl
@[simp] theorem State.updObj_subs (o : Nat) (f : Obj → Obj) : (s.updObj o f).subs = s.subs := by unfold State.updObj; split <;> rfl
@[simp] theorem State.updObj_invs (o : Nat) (f : Obj → Obj) : (s.updObj o f).invs = s.invs := by unfold State.updObj; split <;> rfl
@[simp] theorem State.updObj_vfs (o : Nat) (f : Obj → Obj) : (s.updObj o f).vfs = s.vfs := by unfold State.updObj; split <;> rfl
@[simp] theorem State.updObj_pods (o : Nat) (f : Obj → Obj) : (s.updObj o f).pods = s.pods := by unfold State.updObj; split <;> rfl
@[simp] theorem State.updObj_dies (o : Nat) (f : Obj → Obj) : (s.updObj o f).dies = s.dies := by unfold State.updObj; split <;> rfl
@[simp] theorem State.updObj_msix (o : Nat) (f : Obj → Obj) : (s.updObj o f).msix = s.msix := by unfold State.updObj; split <;> rfl
@[simp] theorem State.updObj_hostData (o : Nat) (f : Obj → Obj) : (s.updObj o f).hostData = s.hostData := by unfold State.updObj; split <;> rfl
@[simp] theorem State.updObj_pf (o : Nat) (f : Obj → Obj) : (s.updObj o f).pf = s.pf := by unfold State.updObj; split <;> rfl
@[simp] theorem State.updObj_pf1Status (o : Nat) (f : Obj → Obj) : (s.updObj o f).pf1Status = s.pf1Status := by unfold State.updObj; split <;> rfl
@[simp] theorem State.updObj_reftime (o : Nat) (f : Obj → Obj) : (s.updObj o f).reftime = s.reftime := by unfold State.updObj; split <;> rfl
@[simp] theorem State.updObj_boot (o : Nat) (f : Obj → Obj) : (s.updObj o f).boot = s.boot := by unfold State.updObj; split <;> rfl
@[simp] theorem State.updObj_slotB (o : Nat) (f : Obj → Obj) : (s.updObj o f).slotB = s.slotB := by unfold State.updObj; split <;> rfl
@[simp] theorem State.updObj_failedStarts (o : Nat) (f : Obj → Obj) : (s.updObj o f).failedStarts = s.failedStarts := by unfold State.updObj; split <;> rfl
@[simp] theorem State.updObj_training (o : Nat) (f : Obj → Obj) : (s.updObj o f).training = s.training := by unfold State.updObj; split <;> rfl
@[simp] theorem State.updObj_meas (o : Nat) (f : Obj → Obj) : (s.updObj o f).meas = s.meas := by unfold State.updObj; split <;> rfl
@[simp] theorem State.updObj_deviceKey (o : Nat) (f : Obj → Obj) : (s.updObj o f).deviceKey = s.deviceKey := by unfold State.updObj; split <;> rfl
@[simp] theorem State.updObj_spdm (o : Nat) (f : Obj → Obj) : (s.updObj o f).spdm = s.spdm := by unfold State.updObj; split <;> rfl
@[simp] theorem State.updObj_ide (o : Nat) (f : Obj → Obj) : (s.updObj o f).ide = s.ide := by unfold State.updObj; split <;> rfl
@[simp] theorem State.updObj_recs (o : Nat) (f : Obj → Obj) : (s.updObj o f).recs = s.recs := by unfold State.updObj; split <;> rfl
@[simp] theorem State.updObj_save (o : Nat) (f : Obj → Obj) : (s.updObj o f).save = s.save := by unfold State.updObj; split <;> rfl
@[simp] theorem State.updObj_turn (o : Nat) (f : Obj → Obj) : (s.updObj o f).turn = s.turn := by unfold State.updObj; split <;> rfl
@[simp] theorem State.updObj_fresh (o : Nat) (f : Obj → Obj) : (s.updObj o f).fresh = s.fresh := by unfold State.updObj; split <;> rfl

/-! ### Cores and contexts -/

@[simp] theorem State.core_setCore_self (n : Nat) (c : Core) : (s.setCore n c).core n = c := Cells.get_put_self _ _ _ _

theorem State.core_setCore (n m : Nat) (c : Core) : (s.setCore n c).core m = if n = m then c else s.core m :=
  Cells.get_put _ _ _ _ _

theorem State.core_updCore (n m : Nat) (f : Core → Core) : (s.updCore n f).core m = if n = m then f (s.core n) else s.core m :=
  Cells.get_put _ _ _ _ _

@[simp] theorem State.core_updCore_self (n : Nat) (f : Core → Core) : (s.updCore n f).core n = f (s.core n) :=
  Cells.get_put_self _ _ _ _

theorem State.core_updCore_ne {n m : Nat} (h : n ≠ m) (f : Core → Core) : (s.updCore n f).core m = s.core m := by
  simp [State.core_updCore, h]

@[simp] theorem State.agent_onCore (f : Core → Core) : (s.onCore f).agent = s.agent := rfl

@[simp] theorem State.who_onCore (f : Core → Core) : (s.onCore f).who = s.who := rfl

@[simp] theorem State.inHusk_onCore (f : Core → Core) : (s.onCore f).inHusk = s.inHusk := rfl

@[simp] theorem State.cur_onCore (f : Core → Core) : (s.onCore f).cur = f s.cur := Cells.get_put_self _ _ _ _

theorem State.core_onCore_ne {n : Nat} (h : n ≠ s.agent) (f : Core → Core) : (s.onCore f).core n = s.core n :=
  State.core_updCore_ne s (Ne.symm h) f

@[simp] theorem Core.ctx_setCtx (c : Core) (h : Bool) (x : Ctx) : (c.setCtx h x).ctx h = x := by cases h <;> rfl

@[simp] theorem Core.setCtx_setCtx (c : Core) (h : Bool) (x y : Ctx) : (c.setCtx h x).setCtx h y = c.setCtx h y := by
  cases h <;> rfl

@[simp] theorem Core.setCtx_ctx (c : Core) (h : Bool) : c.setCtx h (c.ctx h) = c := by cases h <;> rfl

@[simp] theorem State.agent_onCtx (f : Ctx → Ctx) : (s.onCtx f).agent = s.agent := rfl

@[simp] theorem State.who_onCtx (f : Ctx → Ctx) : (s.onCtx f).who = s.who := rfl

@[simp] theorem State.inHusk_onCtx (f : Ctx → Ctx) : (s.onCtx f).inHusk = s.inHusk := rfl

@[simp] theorem State.cur_onCtx (f : Ctx → Ctx) : (s.onCtx f).cur = s.cur.setCtx s.inHusk (f s.ctx) := Cells.get_put_self _ _ _ _

@[simp] theorem State.ctx_onCtx (f : Ctx → Ctx) : (s.onCtx f).ctx = f s.ctx := by
  simp [State.ctx, State.cur_onCtx]

theorem State.core_onCtx_ne {n : Nat} (h : n ≠ s.agent) (f : Ctx → Ctx) : (s.onCtx f).core n = s.core n :=
  State.core_onCore_ne s h _

/-- Two updates of the current core are one. -/
@[simp] theorem State.onCore_onCore (f g : Core → Core) : ((s.onCore f).onCore g).cur = g (f s.cur) := by simp

/-! ### Registers of a context -/

@[simp] theorem Ctx.getG_zero (x : Ctx) : x.getG 0 = 0 := rfl

@[simp] theorem Ctx.setG_zero (x : Ctx) (v : Word) : x.setG 0 v = x := rfl

theorem Ctx.getG_setG (x : Ctx) (r q : BitVec 5) (v : Word) :
    (x.setG r v).getG q = if r = q then (if q = 0 then 0 else v) else x.getG q := by
  unfold Ctx.setG Ctx.getG
  have ne : r ≠ q → r.toNat ≠ q.toNat := fun hq h => hq (BitVec.eq_of_toNat_eq h)
  grind [Cells.get_set]

@[simp] theorem Ctx.getP_setG (x : Ctx) (r : BitVec 5) (v : Word) (q : BitVec 3) : (x.setG r v).getP q = x.getP q := by
  unfold Ctx.setG; split <;> rfl

@[simp] theorem Ctx.pc_setG (x : Ctx) (r : BitVec 5) (v : Word) : (x.setG r v).pc = x.pc := by unfold Ctx.setG; split <;> rfl

@[simp] theorem Ctx.getP_zero (x : Ctx) : x.getP 0 = true := rfl

theorem Ctx.getP_setP (x : Ctx) (r q : BitVec 3) (v : Bool) :
    (x.setP r v).getP q = if r = q then (if q = 0 then true else v) else x.getP q := by
  unfold Ctx.setP Ctx.getP
  have ne : r ≠ q → r.toNat ≠ q.toNat := fun hq h => hq (BitVec.eq_of_toNat_eq h)
  grind [Cells.get_set]

@[simp] theorem Ctx.getG_setP (x : Ctx) (r : BitVec 3) (v : Bool) (q : BitVec 5) : (x.setP r v).getG q = x.getG q := by
  unfold Ctx.setP; split <;> rfl

@[simp] theorem Ctx.pc_setP (x : Ctx) (r : BitVec 3) (v : Bool) : (x.setP r v).pc = x.pc := by unfold Ctx.setP; split <;> rfl

@[simp] theorem Ctx.getG_goto (x : Ctx) (a : Word) (q : BitVec 5) : (x.goto a).getG q = x.getG q := rfl

@[simp] theorem Ctx.getP_goto (x : Ctx) (a : Word) (q : BitVec 3) : (x.goto a).getP q = x.getP q := rfl

@[simp] theorem Ctx.getG_await (x : Ctx) (w : Wait) (n : Nat) (q : BitVec 5) : (x.await w n).getG q = x.getG q := rfl

@[simp] theorem Ctx.getP_await (x : Ctx) (w : Wait) (n : Nat) (q : BitVec 3) : (x.await w n).getP q = x.getP q := rfl

@[simp] theorem Ctx.pc_await (x : Ctx) (w : Wait) (n : Nat) : (x.await w n).pc = x.pc := rfl

@[simp] theorem Ctx.stat_await (x : Ctx) (w : Wait) (n : Nat) : (x.await w n).stat = .waiting w := rfl

@[simp] theorem State.ctx_setG (r : BitVec 5) (v : Word) : (s.setG r v).ctx = s.ctx.setG r v := State.ctx_onCtx s _

@[simp] theorem State.ctx_setP (r : BitVec 3) (v : Bool) : (s.setP r v).ctx = s.ctx.setP r v := State.ctx_onCtx s _

@[simp] theorem State.ctx_advance : s.advance.ctx = s.ctx.goto (s.pc + 4) := State.ctx_onCtx s _

@[simp] theorem State.ctx_jump (a : Word) : (s.jump a).ctx = s.ctx.goto a := State.ctx_onCtx s _

@[simp] theorem State.ctx_await (w : Wait) : (s.await w).ctx = s.ctx.await w s.fresh := State.ctx_onCtx s _

@[simp] theorem State.pc_setG (r : BitVec 5) (v : Word) : (s.setG r v).pc = s.pc := by simp [State.pc]

@[simp] theorem State.pc_setP (r : BitVec 3) (v : Bool) : (s.setP r v).pc = s.pc := by simp [State.pc]

/-- Reading a register after a write: g0 reads 0 whatever is written to it. -/
theorem State.g_setG (r q : BitVec 5) (v : Word) : (s.setG r v).g q = if r = q then (if q = 0 then 0 else v) else s.g q := by
  simp [State.g, Ctx.getG_setG]

theorem State.p_setP (r q : BitVec 3) (v : Bool) : (s.setP r v).p q = if r = q then (if q = 0 then true else v) else s.p q := by
  simp [State.p, Ctx.getP_setP]

@[simp] theorem State.g_advance (q : BitVec 5) : s.advance.g q = s.g q := by simp [State.g]

@[simp] theorem State.p_advance (q : BitVec 3) : s.advance.p q = s.p q := by simp [State.p]

@[simp] theorem State.pc_advance : s.advance.pc = s.pc + 4 := by simp [State.pc, Ctx.goto]

@[simp] theorem State.pc_jump (a : Word) : (s.jump a).pc = a := by simp [State.pc, Ctx.goto]

@[simp] theorem State.g_jump (a : Word) (q : BitVec 5) : (s.jump a).g q = s.g q := by simp [State.g]

@[simp] theorem State.p_jump (a : Word) (q : BitVec 3) : (s.jump a).p q = s.p q := by simp [State.p]

/-! ### Whose turn, and the core, after an update -/

@[simp] theorem State.agent_setG (r : BitVec 5) (v : Word) : (s.setG r v).agent = s.agent := rfl
@[simp] theorem State.who_setG (r : BitVec 5) (v : Word) : (s.setG r v).who = s.who := rfl
@[simp] theorem State.inHusk_setG (r : BitVec 5) (v : Word) : (s.setG r v).inHusk = s.inHusk := rfl

@[simp] theorem State.agent_setP (r : BitVec 3) (v : Bool) : (s.setP r v).agent = s.agent := rfl
@[simp] theorem State.who_setP (r : BitVec 3) (v : Bool) : (s.setP r v).who = s.who := rfl
@[simp] theorem State.inHusk_setP (r : BitVec 3) (v : Bool) : (s.setP r v).inHusk = s.inHusk := rfl

@[simp] theorem State.agent_advance : (s.advance).agent = s.agent := rfl
@[simp] theorem State.who_advance : (s.advance).who = s.who := rfl
@[simp] theorem State.inHusk_advance : (s.advance).inHusk = s.inHusk := rfl

@[simp] theorem State.agent_jump (a : Word) : (s.jump a).agent = s.agent := rfl
@[simp] theorem State.who_jump (a : Word) : (s.jump a).who = s.who := rfl
@[simp] theorem State.inHusk_jump (a : Word) : (s.jump a).inHusk = s.inHusk := rfl

@[simp] theorem State.agent_await (w : Wait) : (s.await w).agent = s.agent := rfl
@[simp] theorem State.who_await (w : Wait) : (s.await w).who = s.who := rfl
@[simp] theorem State.inHusk_await (w : Wait) : (s.await w).inHusk = s.inHusk := rfl

@[simp] theorem State.agent_raisePts (v : Word) : (s.raisePts v).agent = s.agent := rfl
@[simp] theorem State.who_raisePts (v : Word) : (s.raisePts v).who = s.who := rfl
@[simp] theorem State.inHusk_raisePts (v : Word) : (s.raisePts v).inHusk = s.inHusk := rfl

@[simp] theorem State.agent_onVec (f : Vec → Vec) : (s.onVec f).agent = s.agent := rfl
@[simp] theorem State.who_onVec (f : Vec → Vec) : (s.onVec f).who = s.who := rfl
@[simp] theorem State.inHusk_onVec (f : Vec → Vec) : (s.onVec f).inHusk = s.inHusk := rfl

@[simp] theorem State.agent_onArr (f : Arr → Arr) : (s.onArr f).agent = s.agent := rfl
@[simp] theorem State.who_onArr (f : Arr → Arr) : (s.onArr f).who = s.who := rfl
@[simp] theorem State.inHusk_onArr (f : Arr → Arr) : (s.onArr f).inHusk = s.inHusk := rfl

@[simp] theorem State.agent_onEng (e : Eng) (f : Engine → Engine) : (s.onEng e f).agent = s.agent := rfl
@[simp] theorem State.who_onEng (e : Eng) (f : Engine → Engine) : (s.onEng e f).who = s.who := rfl
@[simp] theorem State.inHusk_onEng (e : Eng) (f : Engine → Engine) : (s.onEng e f).inHusk = s.inHusk := rfl

@[simp] theorem State.agent_setTok (k : BitVec 6) (t : Tok) : (s.setTok k t).agent = s.agent := rfl
@[simp] theorem State.who_setTok (k : BitVec 6) (t : Tok) : (s.setTok k t).who = s.who := rfl
@[simp] theorem State.inHusk_setTok (k : BitVec 6) (t : Tok) : (s.setTok k t).inHusk = s.inHusk := rfl

@[simp] theorem State.ctx_onCore (f : Core → Core) : (s.onCore f).ctx = (f s.cur).ctx s.inHusk := by simp [State.ctx]

@[simp] theorem State.cur_ctx : s.cur.ctx s.inHusk = s.ctx := rfl

@[simp] theorem State.ctx_raisePts (v : Word) : (s.raisePts v).ctx = s.ctx := by
  simp only [State.raisePts, State.ctx_onCore]
  cases s.who <;> cases h : s.inHusk <;> simp [State.ctx, Core.setPts, Core.ctx, h]

@[simp] theorem State.ctx_setTok (k : BitVec 6) (t : Tok) : (s.setTok k t).ctx = s.ctx := by
  simp only [State.setTok, State.ctx_onCore]
  unfold Core.setTok; split <;> cases h : s.inHusk <;> simp [State.ctx, Core.ctx, h]

@[simp] theorem State.ctx_onVec (f : Vec → Vec) : (s.onVec f).ctx = s.ctx := by
  simp only [State.onVec, State.ctx_onCore]; cases h : s.inHusk <;> simp [State.ctx, Core.ctx, h]

@[simp] theorem State.cur_setG (r : BitVec 5) (v : Word) : (s.setG r v).cur = s.cur.setCtx s.inHusk (s.ctx.setG r v) := State.cur_onCtx s _

@[simp] theorem State.cur_setP (r : BitVec 3) (v : Bool) : (s.setP r v).cur = s.cur.setCtx s.inHusk (s.ctx.setP r v) := State.cur_onCtx s _

@[simp] theorem State.cur_advance : s.advance.cur = s.cur.setCtx s.inHusk (s.ctx.goto (s.pc + 4)) := State.cur_onCtx s _

@[simp] theorem State.cur_jump (a : Word) : (s.jump a).cur = s.cur.setCtx s.inHusk (s.ctx.goto a) := State.cur_onCtx s _

@[simp] theorem State.cur_await (w : Wait) : (s.await w).cur = s.cur.setCtx s.inHusk (s.ctx.await w s.fresh) := State.cur_onCtx s _

@[simp] theorem State.cur_raisePts (v : Word) : (s.raisePts v).cur = s.cur.setPts s.who (wmax (s.cur.ptsOf s.who) v) := State.cur_onCore s _

@[simp] theorem State.cur_onVec (f : Vec → Vec) : (s.onVec f).cur = { s.cur with vec := f s.cur.vec } := State.cur_onCore s _

@[simp] theorem State.cur_onArr (f : Arr → Arr) : (s.onArr f).cur = { s.cur with arr := f s.cur.arr } := State.cur_onCore s _

@[simp] theorem State.cur_onEng (e : Eng) (f : Engine → Engine) : (s.onEng e f).cur = s.cur.updEng e f := State.cur_onCore s _

@[simp] theorem State.cur_setTok (k : BitVec 6) (t : Tok) : (s.setTok k t).cur = s.cur.setTok k t := State.cur_onCore s _

@[simp] theorem Core.ctx_setPts (c : Core) (q : Seq) (v : Word) (h : Bool) : (c.setPts q v).ctx h = c.ctx h := by
  cases q <;> cases h <;> rfl

@[simp] theorem Core.ctx_setTok (c : Core) (k : BitVec 6) (t : Tok) (h : Bool) : (c.setTok k t).ctx h = c.ctx h := by
  unfold Core.setTok; split <;> cases h <;> rfl

@[simp] theorem Core.ctx_setEng (c : Core) (e : Eng) (x : Engine) (h : Bool) : (c.setEng e x).ctx h = c.ctx h := by
  cases e <;> cases h <;> rfl

@[simp] theorem Core.ctx_setPip (c : Core) (i : Nat) (l : List Word) (h : Bool) : (c.setPip i l).ctx h = c.ctx h := by cases h <;> rfl

@[simp] theorem Core.ctx_pushPip (c : Core) (i : Nat) (v : Word) (h : Bool) : (c.pushPip i v).ctx h = c.ctx h := by cases h <;> rfl

@[simp] theorem Core.ctx_popPip (c : Core) (i : Nat) (h : Bool) : (c.popPip i).ctx h = c.ctx h := by cases h <;> rfl

@[simp] theorem Core.ctx_vec (c : Core) (v : Vec) (h : Bool) : ({ c with vec := v } : Core).ctx h = c.ctx h := by cases h <;> rfl

@[simp] theorem Core.ctx_floor (c : Core) (v : Word) (h : Bool) : ({ c with floor := v } : Core).ctx h = c.ctx h := by cases h <;> rfl

/-! ### Engines, pips and tokens -/

@[simp] theorem Core.eng_setEng_self (c : Core) (e : Eng) (x : Engine) : (c.setEng e x).eng e = x := by cases e <;> rfl

theorem Core.eng_setEng_ne (c : Core) {e f : Eng} (h : e ≠ f) (x : Engine) : (c.setEng e x).eng f = c.eng f := by
  cases e <;> cases f <;> first | rfl | exact absurd rfl h

theorem Core.pip_setPip (c : Core) (i j : Nat) (l : List Word) : (c.setPip i l).pip j = if i = j then l else c.pip j :=
  Cells.get_set _ _ _ _ _

@[simp] theorem Core.tok_63 (c : Core) : c.tok 63 = .free := rfl

@[simp] theorem Core.setTok_63 (c : Core) (t : Tok) : c.setTok 63 t = c := rfl

theorem Core.tok_setTok (c : Core) (k j : BitVec 6) (t : Tok) :
    (c.setTok k t).tok j = if k = j then (if j = 63 then .free else t) else c.tok j := by
  unfold Core.setTok Core.tok
  have ne : k ≠ j → k.toNat ≠ j.toNat := fun hq h => hq (BitVec.eq_of_toNat_eq h)
  grind [Cells.get_set]

/-! ### Vectors, masks, tiles and accumulators -/

theorem Vec.lane_setLanes (x : Vec) (r q : BitVec 4) (f : Nat → Lane) (i : Nat) (h : i < 64) :
    (x.setLanes r f).lane q i = if r = q then f i else x.lane q i := by
  simp only [Vec.setLanes, Vec.lane, Cells.get_setRange]
  by_cases hr : r = q
  · subst hr; simp [h]
  · have : r.toNat ≠ q.toNat := fun h => hr (BitVec.eq_of_toNat_eq h)
    rw [if_neg (by omega), if_neg hr]

theorem Vec.mask_setMask (x : Vec) (r q : Nat) (v : BitVec 64) : (x.setMask r v).mask q = if r = q then v else x.mask q :=
  Cells.get_set _ _ _ _ _

theorem Vec.accum_setAccum (x : Vec) (r q : Nat) (v : Accum) : (x.setAccum r v).accum q = if r = q then v else x.accum q :=
  Cells.get_set _ _ _ _ _

/-! ### Tables -/

theorem State.pod_updPod (p q : Nat) (f : Pod → Pod) : (s.updPod p f).pod q = if p = q then f (s.pod p) else s.pod q :=
  Cells.get_put _ _ _ _ _

theorem State.die_updDie (d e : Nat) (f : Die → Die) : (s.updDie d f).die e = if d = e then f (s.die d) else s.die e :=
  Cells.get_put _ _ _ _ _

theorem State.vf_updVf (v w : Nat) (f : Vf → Vf) : (s.updVf v f).vf w = if v = w then f (s.vf v) else s.vf w :=
  Cells.get_put _ _ _ _ _

end Sys2Proof.Machine
end

