-- ==== Sys2Proof/Laws/Frames.lean ====
section
/-! SUPPORT. Sys2Proof/Laws/Frames.lean: what the shared wrappers of words come to, and the frames of the updates of the
running context and of the current core. -/

namespace Sys2Proof.Machine

variable {s t u : State}

/-! ### The wrappers of S words -/

/-- A legal word in a plain context does what its body does. -/
theorem sWord_plain (h : s.Plain) (e : Bool) {i : Instr} (hl : i.legal = true) (body : State → State) :
    sWord e i body s = body s := by
  obtain ⟨h1, h2⟩ := h
  simp [sWord, h1, h2, Prefix.word, hl]

/-- The same after an X.EXT, for a word that accepts one. -/
theorem sWord_ext (h : s.ctx.pend = none) {p : BitVec 27} {a : Word} (hp : s.ctx.pfx = .ext p a) {i : Instr} (hl : i.legal = true)
    (body : State → State) : sWord true i body s = body s := by
  have : (pack (.xExt p)).extractLsb' 27 2 = 0 := by
    ext i hi
    simp [pack]
    grind
  simp [sWord, h, hp, Prefix.word, hl, this]

/-- A legal word under a true guard does what its body does. -/
theorem guarded_plain (h : s.Plain) {pr : BitVec 3} (hp : s.p pr = true) {i : Instr} (hl : i.legal = true) (body : State → State) :
    guarded pr i body s = body s := by
  rw [guarded, sWord_plain h _ hl]; simp [hp]

/-- A legal word under a false guard only advances. -/
theorem guarded_false (h : s.Plain) {pr : BitVec 3} (hp : s.p pr = false) {i : Instr} (hl : i.legal = true) (body : State → State) :
    guarded pr i body s = s.advance := by
  rw [guarded, sWord_plain h _ hl]; simp [hp]

/-! ### Frames of updates -/

theorem onlyCore_onCore (s : State) (f : Core → Core) : s.OnlyCore (s.onCore f) :=
  ⟨rfl, fun _ hn => State.core_onCore_ne s hn f, fun l => by cases l <;> rfl⟩

theorem onlyCtx_onCtx (s : State) (f : Ctx → Ctx) : s.OnlyCtx (s.onCtx f) := ⟨onlyCore_onCore s _, by simp⟩

theorem State.OnlyCore.turn (h : s.OnlyCore t) : t.turn = s.turn := by rw [h.1]

theorem State.OnlyCore.agent (h : s.OnlyCore t) : t.agent = s.agent := by simp [State.agent, h.turn]

theorem State.OnlyCore.who (h : s.OnlyCore t) : t.who = s.who := by simp [State.who, h.turn]

theorem State.OnlyCore.inHusk (h : s.OnlyCore t) : t.inHusk = s.inHusk := by simp [State.inHusk, h.who]

theorem State.OnlyCore.trans (h : s.OnlyCore t) (h' : t.OnlyCore u) : s.OnlyCore u := by
  refine ⟨?_, fun n hn => ?_, fun l => ?_⟩
  · rw [h'.1, h.1]
  · rw [h'.2.1 n (by rw [h.agent]; exact hn), h.2.1 n hn]
  · rw [h'.2.2, h.2.2]

theorem State.OnlyCtx.trans (h : s.OnlyCtx t) (h' : t.OnlyCtx u) : s.OnlyCtx u :=
  ⟨h.1.trans h'.1, by rw [h'.2, h.2, h.1.inHusk]; simp⟩

theorem onlyCtx_setG (s : State) (d : BitVec 5) (v : Word) : s.OnlyCtx (s.setG d v) := onlyCtx_onCtx s _

theorem onlyCtx_setP (s : State) (d : BitVec 3) (v : Bool) : s.OnlyCtx (s.setP d v) := onlyCtx_onCtx s _

theorem onlyCtx_advance (s : State) : s.OnlyCtx s.advance := onlyCtx_onCtx s _

theorem onlyCtx_jump (s : State) (a : Word) : s.OnlyCtx (s.jump a) := onlyCtx_onCtx s _

theorem onlyCtx_await (s : State) (w : Wait) : s.OnlyCtx (s.await w) := onlyCtx_onCtx s _

theorem standsAt_advance (s : State) : s.advance.StandsAt (s.pc + 4) := by simp [State.StandsAt, Ctx.goto]

theorem standsAt_jump (s : State) (a : Word) : (s.jump a).StandsAt a := by simp [State.StandsAt, Ctx.goto]

/-- A word that only advances. -/
theorem skips_advance (s : State) : s.Skips s.advance :=
  ⟨onlyCtx_advance s, fun _ => by simp, fun _ => by simp, standsAt_advance s⟩

/-- A result in gd: its value, its frame, the next word. -/
theorem result_result (s : State) (d : BitVec 5) (v : Word) : s.Result d v (s.result d v) := by
  refine ⟨(onlyCtx_setG s d v).trans (onlyCtx_advance _), ⟨?_, fun r hr => ?_, fun q => ?_⟩, ?_⟩
  · simp [State.result, State.g_setG]
  · simp [State.result, State.g_setG, Ne.symm hr]
  · simp [State.result, State.p]
  · simp [State.result, State.StandsAt, Ctx.goto]

/-- A result in pd: its value, its frame, the next word. -/
theorem resultP_resultP (s : State) (d : BitVec 3) (v : Bool) : s.ResultP d v (s.resultP d v) := by
  refine ⟨(onlyCtx_setP s d v).trans (onlyCtx_advance _), ?_, fun q hq => ?_, fun r => ?_, ?_⟩
  · simp [State.resultP, State.p_setP]
  · simp [State.resultP, State.p_setP, Ne.symm hq]
  · simp [State.resultP, State.g]
  · simp [State.resultP, State.StandsAt, Ctx.goto]

/-- A word with a guard whose body puts a result in gd. -/
theorem completes_result (h : s.Plain) {pr : BitVec 3} (hp : s.p pr = true) {i : Instr} (hl : i.legal = true) {d : BitVec 5} {v : Word}
    {f : State → Word} (he : exec i s = .next (guarded pr i (fun s => s.result d (f s)) s)) (hv : f s = v) :
    Completes i s (s.Result d v) :=
  ⟨_, he, by rw [guarded_plain h hp hl, hv]; exact result_result s d v⟩

/-- A word with a guard whose body puts a result in pd. -/
theorem completes_resultP (h : s.Plain) {pr : BitVec 3} (hp : s.p pr = true) {i : Instr} (hl : i.legal = true) {d : BitVec 3} {v : Bool}
    {f : State → Bool} (he : exec i s = .next (guarded pr i (fun s => s.resultP d (f s)) s)) (hv : f s = v) :
    Completes i s (s.ResultP d v) :=
  ⟨_, he, by rw [guarded_plain h hp hl, hv]; exact resultP_resultP s d v⟩

/-- The byte of a place after a write of one byte. -/
theorem State.byteAt_congr (hm : t.mem = s.mem) (hs : t.scratch = s.scratch) (hh : t.host = s.host) (hp : t.peer = s.peer) (l : Loc) :
    t.byteAt l = s.byteAt l := by
  cases l <;> simp [State.byteAt, hm, hs, hh, hp]

end Sys2Proof.Machine
end

