-- ==== Sys2Proof/Laws/PerInstr.lean ====
section
/-! SUPPORT. Sys2Proof/Laws/PerInstr.lean: for each instruction, the fields that the encoding tables give it come back from
its word (R56 to R59). -/

namespace Sys2Proof.Laws.Shape

/-- Every field of the instruction's word is the field that the encoding tables put there. -/
def Statement (i : Instr) : Prop := ∀ f, toFmt i = some f → unpack (pack f) = .ok f

theorem add x0 x1 x2 x3 : Statement (.add x0 x1 x2 x3) := by
  rintro _ ⟨⟩
  exact unpack_sr rfl

theorem sub x0 x1 x2 x3 : Statement (.sub x0 x1 x2 x3) := by
  rintro _ ⟨⟩
  exact unpack_sr rfl

theorem and x0 x1 x2 x3 : Statement (.and x0 x1 x2 x3) := by
  rintro _ ⟨⟩
  exact unpack_sr rfl

theorem or x0 x1 x2 x3 : Statement (.or x0 x1 x2 x3) := by
  rintro _ ⟨⟩
  exact unpack_sr rfl

theorem xor x0 x1 x2 x3 : Statement (.xor x0 x1 x2 x3) := by
  rintro _ ⟨⟩
  exact unpack_sr rfl

theorem sll x0 x1 x2 x3 : Statement (.sll x0 x1 x2 x3) := by
  rintro _ ⟨⟩
  exact unpack_sr rfl

theorem srl x0 x1 x2 x3 : Statement (.srl x0 x1 x2 x3) := by
  rintro _ ⟨⟩
  exact unpack_sr rfl

theorem sra x0 x1 x2 x3 : Statement (.sra x0 x1 x2 x3) := by
  rintro _ ⟨⟩
  exact unpack_sr rfl

theorem mul x0 x1 x2 x3 : Statement (.mul x0 x1 x2 x3) := by
  rintro _ ⟨⟩
  exact unpack_sr rfl

theorem mulh x0 x1 x2 x3 : Statement (.mulh x0 x1 x2 x3) := by
  rintro _ ⟨⟩
  exact unpack_sr rfl

theorem mulhz x0 x1 x2 x3 : Statement (.mulhz x0 x1 x2 x3) := by
  rintro _ ⟨⟩
  exact unpack_sr rfl

theorem div x0 x1 x2 x3 : Statement (.div x0 x1 x2 x3) := by
  rintro _ ⟨⟩
  exact unpack_sr rfl

theorem divz x0 x1 x2 x3 : Statement (.divz x0 x1 x2 x3) := by
  rintro _ ⟨⟩
  exact unpack_sr rfl

theorem rem x0 x1 x2 x3 : Statement (.rem x0 x1 x2 x3) := by
  rintro _ ⟨⟩
  exact unpack_sr rfl

theorem remz x0 x1 x2 x3 : Statement (.remz x0 x1 x2 x3) := by
  rintro _ ⟨⟩
  exact unpack_sr rfl

theorem min x0 x1 x2 x3 : Statement (.min x0 x1 x2 x3) := by
  rintro _ ⟨⟩
  exact unpack_sr rfl

theorem max x0 x1 x2 x3 : Statement (.max x0 x1 x2 x3) := by
  rintro _ ⟨⟩
  exact unpack_sr rfl

theorem minz x0 x1 x2 x3 : Statement (.minz x0 x1 x2 x3) := by
  rintro _ ⟨⟩
  exact unpack_sr rfl

theorem maxz x0 x1 x2 x3 : Statement (.maxz x0 x1 x2 x3) := by
  rintro _ ⟨⟩
  exact unpack_sr rfl

theorem slt x0 x1 x2 x3 : Statement (.slt x0 x1 x2 x3) := by
  rintro _ ⟨⟩
  exact unpack_sr rfl

theorem sltz x0 x1 x2 x3 : Statement (.sltz x0 x1 x2 x3) := by
  rintro _ ⟨⟩
  exact unpack_sr rfl

theorem seq x0 x1 x2 x3 : Statement (.seq x0 x1 x2 x3) := by
  rintro _ ⟨⟩
  exact unpack_sr rfl

theorem clz x0 x1 x2 : Statement (.clz x0 x1 x2) := by
  rintro _ ⟨⟩
  exact unpack_sr rfl

theorem popc x0 x1 x2 : Statement (.popc x0 x1 x2) := by
  rintro _ ⟨⟩
  exact unpack_sr rfl

theorem addsh x0 x1 x2 x3 : Statement (.addsh x0 x1 x2 x3) := by
  rintro _ ⟨⟩
  exact unpack_sr rfl

theorem addi x0 x1 x2 : Statement (.addi x0 x1 x2) := by
  rintro _ ⟨⟩
  exact unpack_si rfl

theorem andi x0 x1 x2 : Statement (.andi x0 x1 x2) := by
  rintro _ ⟨⟩
  exact unpack_si rfl

theorem ori x0 x1 x2 : Statement (.ori x0 x1 x2) := by
  rintro _ ⟨⟩
  exact unpack_si rfl

theorem xori x0 x1 x2 : Statement (.xori x0 x1 x2) := by
  rintro _ ⟨⟩
  exact unpack_si rfl

theorem slli x0 x1 x2 : Statement (.slli x0 x1 x2) := by
  rintro _ ⟨⟩
  exact unpack_si rfl

theorem srli x0 x1 x2 : Statement (.srli x0 x1 x2) := by
  rintro _ ⟨⟩
  exact unpack_si rfl

theorem srai x0 x1 x2 : Statement (.srai x0 x1 x2) := by
  rintro _ ⟨⟩
  exact unpack_si rfl

theorem slti x0 x1 x2 : Statement (.slti x0 x1 x2) := by
  rintro _ ⟨⟩
  exact unpack_si rfl

theorem movi x0 x1 : Statement (.movi x0 x1) := by
  rintro _ ⟨⟩
  exact unpack_si rfl

theorem psetEq x0 x1 x2 x3 : Statement (.psetEq x0 x1 x2 x3) := by
  rintro _ ⟨⟩
  exact unpack_sr rfl

theorem psetNe x0 x1 x2 x3 : Statement (.psetNe x0 x1 x2 x3) := by
  rintro _ ⟨⟩
  exact unpack_sr rfl

theorem psetLt x0 x1 x2 x3 : Statement (.psetLt x0 x1 x2 x3) := by
  rintro _ ⟨⟩
  exact unpack_sr rfl

theorem psetGe x0 x1 x2 x3 : Statement (.psetGe x0 x1 x2 x3) := by
  rintro _ ⟨⟩
  exact unpack_sr rfl

theorem psetLtz x0 x1 x2 x3 : Statement (.psetLtz x0 x1 x2 x3) := by
  rintro _ ⟨⟩
  exact unpack_sr rfl

theorem psetGez x0 x1 x2 x3 : Statement (.psetGez x0 x1 x2 x3) := by
  rintro _ ⟨⟩
  exact unpack_sr rfl

theorem psetTstat x0 x1 x2 : Statement (.psetTstat x0 x1 x2) := by
  rintro _ ⟨⟩
  exact unpack_sr rfl

theorem pand x0 x1 x2 x3 : Statement (.pand x0 x1 x2 x3) := by
  rintro _ ⟨⟩
  exact unpack_sr rfl

theorem por x0 x1 x2 x3 : Statement (.por x0 x1 x2 x3) := by
  rintro _ ⟨⟩
  exact unpack_sr rfl

theorem pxor x0 x1 x2 x3 : Statement (.pxor x0 x1 x2 x3) := by
  rintro _ ⟨⟩
  exact unpack_sr rfl

theorem pnot x0 x1 x2 : Statement (.pnot x0 x1 x2) := by
  rintro _ ⟨⟩
  exact unpack_sr rfl

theorem br x0 x1 x2 : Statement (.br x0 x1 x2) := by
  rintro _ ⟨⟩
  exact unpack_sb rfl

theorem call x0 x1 x2 : Statement (.call x0 x1 x2) := by
  rintro _ ⟨⟩
  exact unpack_sb rfl

theorem jmpr x0 x1 x2 : Statement (.jmpr x0 x1 x2) := by
  rintro _ ⟨⟩
  exact unpack_sr rfl

theorem mova x0 x1 x2 x3 : Statement (.mova x0 x1 x2 x3) := by
  rintro _ ⟨⟩
  exact unpack_sr rfl

theorem movar x0 x1 x2 x3 x4 : Statement (.movar x0 x1 x2 x3 x4) := by
  rintro _ ⟨⟩
  exact unpack_sr rfl

theorem movl x0 x1 x2 x3 : Statement (.movl x0 x1 x2 x3) := by
  rintro _ ⟨⟩
  exact unpack_sr rfl

theorem msel x0 x1 : Statement (.msel x0 x1) := by
  rintro _ ⟨⟩
  exact unpack_sr rfl

theorem pippush x0 x1 : Statement (.pippush x0 x1) := by
  rintro _ ⟨⟩
  exact unpack_sr rfl

theorem pippop x0 x1 : Statement (.pippop x0 x1) := by
  rintro _ ⟨⟩
  exact unpack_sr rfl

theorem twait x0 x1 : Statement (.twait x0 x1) := by
  rintro _ ⟨⟩
  exact unpack_sr rfl

theorem ttest x0 x1 x2 : Statement (.ttest x0 x1 x2) := by
  rintro _ ⟨⟩
  exact unpack_sr rfl

theorem tfree x0 x1 : Statement (.tfree x0 x1) := by
  rintro _ ⟨⟩
  exact unpack_sr rfl

theorem srd x0 x1 : Statement (.srd x0 x1) := by
  rintro _ ⟨⟩
  exact unpack_ss rfl

theorem swr x0 x1 : Statement (.swr x0 x1) := by
  rintro _ ⟨⟩
  exact unpack_ss rfl

theorem ld8 x0 x1 x2 x3 : Statement (.ld8 x0 x1 x2 x3) := by
  rintro _ ⟨⟩
  exact unpack_sm rfl

theorem ld16 x0 x1 x2 x3 : Statement (.ld16 x0 x1 x2 x3) := by
  rintro _ ⟨⟩
  exact unpack_sm rfl

theorem ld32 x0 x1 x2 x3 : Statement (.ld32 x0 x1 x2 x3) := by
  rintro _ ⟨⟩
  exact unpack_sm rfl

theorem ld64 x0 x1 x2 x3 : Statement (.ld64 x0 x1 x2 x3) := by
  rintro _ ⟨⟩
  exact unpack_sm rfl

theorem lds8 x0 x1 x2 x3 : Statement (.lds8 x0 x1 x2 x3) := by
  rintro _ ⟨⟩
  exact unpack_sm rfl

theorem lds16 x0 x1 x2 x3 : Statement (.lds16 x0 x1 x2 x3) := by
  rintro _ ⟨⟩
  exact unpack_sm rfl

theorem lds32 x0 x1 x2 x3 : Statement (.lds32 x0 x1 x2 x3) := by
  rintro _ ⟨⟩
  exact unpack_sm rfl

theorem st8 x0 x1 x2 x3 : Statement (.st8 x0 x1 x2 x3) := by
  rintro _ ⟨⟩
  exact unpack_sm rfl

theorem st16 x0 x1 x2 x3 : Statement (.st16 x0 x1 x2 x3) := by
  rintro _ ⟨⟩
  exact unpack_sm rfl

theorem st32 x0 x1 x2 x3 : Statement (.st32 x0 x1 x2 x3) := by
  rintro _ ⟨⟩
  exact unpack_sm rfl

theorem st64 x0 x1 x2 x3 : Statement (.st64 x0 x1 x2 x3) := by
  rintro _ ⟨⟩
  exact unpack_sm rfl

theorem ldaq x0 x1 x2 x3 x4 : Statement (.ldaq x0 x1 x2 x3 x4) := by
  rintro _ ⟨⟩
  exact unpack_sa rfl

theorem strl x0 x1 x2 x3 x4 : Statement (.strl x0 x1 x2 x3 x4) := by
  rintro _ ⟨⟩
  exact unpack_sa rfl

theorem amoSwap x0 x1 x2 x3 : Statement (.amoSwap x0 x1 x2 x3) := by
  rintro _ ⟨⟩
  exact unpack_sr rfl

theorem amoAdd x0 x1 x2 x3 : Statement (.amoAdd x0 x1 x2 x3) := by
  rintro _ ⟨⟩
  exact unpack_sr rfl

theorem amoAnd x0 x1 x2 x3 : Statement (.amoAnd x0 x1 x2 x3) := by
  rintro _ ⟨⟩
  exact unpack_sr rfl

theorem amoOr x0 x1 x2 x3 : Statement (.amoOr x0 x1 x2 x3) := by
  rintro _ ⟨⟩
  exact unpack_sr rfl

theorem amoXor x0 x1 x2 x3 : Statement (.amoXor x0 x1 x2 x3) := by
  rintro _ ⟨⟩
  exact unpack_sr rfl

theorem amoMin x0 x1 x2 x3 : Statement (.amoMin x0 x1 x2 x3) := by
  rintro _ ⟨⟩
  exact unpack_sr rfl

theorem amoMax x0 x1 x2 x3 : Statement (.amoMax x0 x1 x2 x3) := by
  rintro _ ⟨⟩
  exact unpack_sr rfl

theorem amoMinz x0 x1 x2 x3 : Statement (.amoMinz x0 x1 x2 x3) := by
  rintro _ ⟨⟩
  exact unpack_sr rfl

theorem amoMaxz x0 x1 x2 x3 : Statement (.amoMaxz x0 x1 x2 x3) := by
  rintro _ ⟨⟩
  exact unpack_sr rfl

theorem amoFadd x0 x1 x2 : Statement (.amoFadd x0 x1 x2) := by
  rintro _ ⟨⟩
  exact unpack_sr rfl

theorem amoXadd x0 x1 x2 : Statement (.amoXadd x0 x1 x2) := by
  rintro _ ⟨⟩
  exact unpack_sr rfl

theorem redAdd x0 x1 x2 : Statement (.redAdd x0 x1 x2) := by
  rintro _ ⟨⟩
  exact unpack_sr rfl

theorem redAnd x0 x1 x2 : Statement (.redAnd x0 x1 x2) := by
  rintro _ ⟨⟩
  exact unpack_sr rfl

theorem redOr x0 x1 x2 : Statement (.redOr x0 x1 x2) := by
  rintro _ ⟨⟩
  exact unpack_sr rfl

theorem redXor x0 x1 x2 : Statement (.redXor x0 x1 x2) := by
  rintro _ ⟨⟩
  exact unpack_sr rfl

theorem redMin x0 x1 x2 : Statement (.redMin x0 x1 x2) := by
  rintro _ ⟨⟩
  exact unpack_sr rfl

theorem redMax x0 x1 x2 : Statement (.redMax x0 x1 x2) := by
  rintro _ ⟨⟩
  exact unpack_sr rfl

theorem redMinz x0 x1 x2 : Statement (.redMinz x0 x1 x2) := by
  rintro _ ⟨⟩
  exact unpack_sr rfl

theorem redMaxz x0 x1 x2 : Statement (.redMaxz x0 x1 x2) := by
  rintro _ ⟨⟩
  exact unpack_sr rfl

theorem redFadd x0 x1 : Statement (.redFadd x0 x1) := by
  rintro _ ⟨⟩
  exact unpack_sr rfl

theorem redXadd x0 x1 : Statement (.redXadd x0 x1) := by
  rintro _ ⟨⟩
  exact unpack_sr rfl

theorem cas x0 x1 x2 x3 : Statement (.cas x0 x1 x2 x3) := by
  rintro _ ⟨⟩
  exact unpack_sr rfl

theorem aoseqSwap x0 x1 x2 x3 : Statement (.aoseqSwap x0 x1 x2 x3) := by
  rintro _ ⟨⟩
  exact unpack_sr rfl

theorem aoseqAdd x0 x1 x2 x3 : Statement (.aoseqAdd x0 x1 x2 x3) := by
  rintro _ ⟨⟩
  exact unpack_sr rfl

theorem aoseqAnd x0 x1 x2 x3 : Statement (.aoseqAnd x0 x1 x2 x3) := by
  rintro _ ⟨⟩
  exact unpack_sr rfl

theorem aoseqOr x0 x1 x2 x3 : Statement (.aoseqOr x0 x1 x2 x3) := by
  rintro _ ⟨⟩
  exact unpack_sr rfl

theorem aoseqXor x0 x1 x2 x3 : Statement (.aoseqXor x0 x1 x2 x3) := by
  rintro _ ⟨⟩
  exact unpack_sr rfl

theorem aoseqMin x0 x1 x2 x3 : Statement (.aoseqMin x0 x1 x2 x3) := by
  rintro _ ⟨⟩
  exact unpack_sr rfl

theorem aoseqMax x0 x1 x2 x3 : Statement (.aoseqMax x0 x1 x2 x3) := by
  rintro _ ⟨⟩
  exact unpack_sr rfl

theorem aoseqMinz x0 x1 x2 x3 : Statement (.aoseqMinz x0 x1 x2 x3) := by
  rintro _ ⟨⟩
  exact unpack_sr rfl

theorem aoseqMaxz x0 x1 x2 x3 : Statement (.aoseqMaxz x0 x1 x2 x3) := by
  rintro _ ⟨⟩
  exact unpack_sr rfl

theorem aoseqFadd x0 x1 x2 : Statement (.aoseqFadd x0 x1 x2) := by
  rintro _ ⟨⟩
  exact unpack_sr rfl

theorem fenceSys x0 : Statement (.fenceSys x0) := by
  rintro _ ⟨⟩
  exact unpack_sr rfl

theorem fenceFab x0 : Statement (.fenceFab x0) := by
  rintro _ ⟨⟩
  exact unpack_sr rfl

theorem cacheopClean x0 x1 x2 : Statement (.cacheopClean x0 x1 x2) := by
  rintro _ ⟨⟩
  exact unpack_sr rfl

theorem cacheopDrop x0 x1 x2 : Statement (.cacheopDrop x0 x1 x2) := by
  rintro _ ⟨⟩
  exact unpack_sr rfl

theorem cacheopDemote x0 x1 x2 : Statement (.cacheopDemote x0 x1 x2) := by
  rintro _ ⟨⟩
  exact unpack_sr rfl

theorem cacheopSysinv x0 x1 x2 : Statement (.cacheopSysinv x0 x1 x2) := by
  rintro _ ⟨⟩
  exact unpack_sr rfl

theorem gend x0 x1 : Statement (.gend x0 x1) := by
  rintro _ ⟨⟩
  exact unpack_sr rfl

theorem share x0 x1 : Statement (.share x0 x1) := by
  rintro _ ⟨⟩
  exact unpack_sr rfl

theorem hyield x0 : Statement (.hyield x0) := by
  rintro _ ⟨⟩
  exact unpack_sr rfl

theorem trap x0 x1 : Statement (.trap x0 x1) := by
  rintro _ ⟨⟩
  exact unpack_si rfl

theorem eret x0 x1 : Statement (.eret x0 x1) := by
  rintro _ ⟨⟩
  exact unpack_sr rfl

theorem halt x0 : Statement (.halt x0) := by
  rintro _ ⟨⟩
  exact unpack_sr rfl

theorem yield x0 : Statement (.yield x0) := by
  rintro _ ⟨⟩
  exact unpack_sr rfl

theorem brk x0 x1 : Statement (.brk x0 x1) := by
  rintro _ ⟨⟩
  exact unpack_sr rfl

theorem udf x0 : Statement (.udf x0) := by
  rintro _ ⟨⟩
  exact unpack_sr rfl

theorem copy x0 x1 x2 x3 x4 : Statement (.copy x0 x1 x2 x3 x4) := by
  rintro _ ⟨⟩
  exact unpack_a rfl

theorem copyl x0 x1 x2 x3 x4 : Statement (.copyl x0 x1 x2 x3 x4) := by
  rintro _ ⟨⟩
  exact unpack_a rfl

theorem tpref x0 x1 x2 x3 : Statement (.tpref x0 x1 x2 x3) := by
  rintro _ ⟨⟩
  exact unpack_a rfl

theorem bar x0 x1 x2 : Statement (.bar x0 x1 x2) := by
  rintro _ ⟨⟩
  exact unpack_a rfl

theorem bara x0 x1 x2 : Statement (.bara x0 x1 x2) := by
  rintro _ ⟨⟩
  exact unpack_a rfl

theorem barax x0 x1 x2 : Statement (.barax x0 x1 x2) := by
  rintro _ ⟨⟩
  exact unpack_a rfl

theorem barw x0 x1 x2 : Statement (.barw x0 x1 x2) := by
  rintro _ ⟨⟩
  exact unpack_a rfl

theorem collx x0 x1 x2 x3 x4 : Statement (.collx x0 x1 x2 x3 x4) := by
  rintro _ ⟨⟩
  exact unpack_a rfl

theorem lnch x0 x1 x2 : Statement (.lnch x0 x1 x2) := by
  rintro _ ⟨⟩
  exact unpack_a rfl

theorem glnch x0 x1 x2 : Statement (.glnch x0 x1 x2) := by
  rintro _ ⟨⟩
  exact unpack_a rfl

theorem sigs x0 x1 x2 x3 : Statement (.sigs x0 x1 x2 x3) := by
  rintro _ ⟨⟩
  exact unpack_a rfl

theorem sigw x0 x1 x2 x3 : Statement (.sigw x0 x1 x2 x3) := by
  rintro _ ⟨⟩
  exact unpack_a rfl

theorem rcall x0 x1 x2 x3 x4 : Statement (.rcall x0 x1 x2 x3 x4) := by
  rintro _ ⟨⟩
  exact unpack_a rfl

theorem rqry x0 x1 x2 x3 x4 : Statement (.rqry x0 x1 x2 x3 x4) := by
  rintro _ ⟨⟩
  exact unpack_a rfl

theorem rtrim x0 x1 x2 : Statement (.rtrim x0 x1 x2) := by
  rintro _ ⟨⟩
  exact unpack_a rfl

theorem wpin x0 x1 x2 x3 : Statement (.wpin x0 x1 x2 x3) := by
  rintro _ ⟨⟩
  exact unpack_a rfl

theorem wunpin x0 x1 x2 x3 : Statement (.wunpin x0 x1 x2 x3) := by
  rintro _ ⟨⟩
  exact unpack_a rfl

theorem wown x0 x1 x2 x3 : Statement (.wown x0 x1 x2 x3) := by
  rintro _ ⟨⟩
  exact unpack_a rfl

theorem phase x0 x1 x2 x3 : Statement (.phase x0 x1 x2 x3) := by
  rintro _ ⟨⟩
  exact unpack_a rfl

theorem tokn x0 x1 x2 x3 x4 : Statement (.tokn x0 x1 x2 x3 x4) := by
  rintro _ ⟨⟩
  exact unpack_a rfl

theorem fsend x0 x1 x2 x3 x4 : Statement (.fsend x0 x1 x2 x3 x4) := by
  rintro _ ⟨⟩
  exact unpack_a rfl

theorem fget x0 x1 x2 x3 x4 : Statement (.fget x0 x1 x2 x3 x4) := by
  rintro _ ⟨⟩
  exact unpack_a rfl

theorem xExt x0 : Statement (.xExt x0) := by
  rintro _ ⟨⟩
  exact unpack_xExt

theorem xTws x0 x1 x2 : Statement (.xTws x0 x1 x2) := by
  rintro _ ⟨⟩
  exact unpack_xTws

theorem xFmtx x0 x1 x2 x3 x4 : Statement (.xFmtx x0 x1 x2 x3 x4) := by
  rintro _ ⟨⟩
  exact unpack_xFmtx

theorem ldl x0 x1 x2 x3 x4 : Statement (.ldl x0 x1 x2 x3 x4) := by
  rintro _ ⟨⟩
  exact unpack_em rfl

theorem lds x0 x1 x2 x3 x4 : Statement (.lds x0 x1 x2 x3 x4) := by
  rintro _ ⟨⟩
  exact unpack_em rfl

theorem ldg x0 x1 x2 x3 x4 : Statement (.ldg x0 x1 x2 x3 x4) := by
  rintro _ ⟨⟩
  exact unpack_em rfl

theorem ldq x0 x1 x2 x3 : Statement (.ldq x0 x1 x2 x3) := by
  rintro _ ⟨⟩
  exact unpack_em rfl

theorem ldf x0 x1 x2 x3 x4 : Statement (.ldf x0 x1 x2 x3 x4) := by
  rintro _ ⟨⟩
  exact unpack_em rfl

theorem lpf x0 x1 x2 x3 : Statement (.lpf x0 x1 x2 x3) := by
  rintro _ ⟨⟩
  exact unpack_em rfl

theorem ssl x0 x1 x2 x3 x4 x5 : Statement (.ssl x0 x1 x2 x3 x4 x5) := by
  rintro _ ⟨⟩
  exact unpack_em rfl

theorem sss x0 x1 x2 x3 x4 x5 : Statement (.sss x0 x1 x2 x3 x4 x5) := by
  rintro _ ⟨⟩
  exact unpack_em rfl

theorem ssc x0 x1 x2 x3 x4 x5 : Statement (.ssc x0 x1 x2 x3 x4 x5) := by
  rintro _ ⟨⟩
  exact unpack_em rfl

theorem sflgSet x0 : Statement (.sflgSet x0) := by
  rintro _ ⟨⟩
  exact unpack_ev rfl

theorem sflgSt x0 x1 x2 : Statement (.sflgSt x0 x1 x2) := by
  rintro _ ⟨⟩
  exact unpack_ev rfl

theorem sflgStf x0 x1 : Statement (.sflgStf x0 x1) := by
  rintro _ ⟨⟩
  exact unpack_ev rfl

theorem aincL x0 x1 x2 x3 : Statement (.aincL x0 x1 x2 x3) := by
  rintro _ ⟨⟩
  exact unpack_ei rfl

theorem aincT x0 x1 x2 x3 : Statement (.aincT x0 x1 x2 x3) := by
  rintro _ ⟨⟩
  exact unpack_ei rfl

theorem aincC x0 x1 x2 x3 : Statement (.aincC x0 x1 x2 x3) := by
  rintro _ ⟨⟩
  exact unpack_ei rfl

theorem aaddL x0 x1 x2 x3 : Statement (.aaddL x0 x1 x2 x3) := by
  rintro _ ⟨⟩
  exact unpack_ev rfl

theorem aaddT x0 x1 x2 x3 : Statement (.aaddT x0 x1 x2 x3) := by
  rintro _ ⟨⟩
  exact unpack_ev rfl

theorem aaddC x0 x1 x2 x3 : Statement (.aaddC x0 x1 x2 x3) := by
  rintro _ ⟨⟩
  exact unpack_ev rfl

theorem amovL x0 x1 x2 : Statement (.amovL x0 x1 x2) := by
  rintro _ ⟨⟩
  exact unpack_ev rfl

theorem amovT x0 x1 x2 : Statement (.amovT x0 x1 x2) := by
  rintro _ ⟨⟩
  exact unpack_ev rfl

theorem amovC x0 x1 x2 : Statement (.amovC x0 x1 x2) := by
  rintro _ ⟨⟩
  exact unpack_ev rfl

theorem syncL x0 : Statement (.syncL x0) := by
  rintro _ ⟨⟩
  exact unpack_ev rfl

theorem syncT x0 : Statement (.syncT x0) := by
  rintro _ ⟨⟩
  exact unpack_ev rfl

theorem syncC x0 : Statement (.syncC x0) := by
  rintro _ ⟨⟩
  exact unpack_ev rfl

theorem vadd x0 x1 x2 x3 x4 : Statement (.vadd x0 x1 x2 x3 x4) := by
  rintro _ ⟨⟩
  exact unpack_ev rfl

theorem vsub x0 x1 x2 x3 x4 : Statement (.vsub x0 x1 x2 x3 x4) := by
  rintro _ ⟨⟩
  exact unpack_ev rfl

theorem vmul x0 x1 x2 x3 x4 : Statement (.vmul x0 x1 x2 x3 x4) := by
  rintro _ ⟨⟩
  exact unpack_ev rfl

theorem vmin x0 x1 x2 x3 x4 : Statement (.vmin x0 x1 x2 x3 x4) := by
  rintro _ ⟨⟩
  exact unpack_ev rfl

theorem vmax x0 x1 x2 x3 x4 : Statement (.vmax x0 x1 x2 x3 x4) := by
  rintro _ ⟨⟩
  exact unpack_ev rfl

theorem vand x0 x1 x2 x3 x4 : Statement (.vand x0 x1 x2 x3 x4) := by
  rintro _ ⟨⟩
  exact unpack_ev rfl

theorem vor x0 x1 x2 x3 x4 : Statement (.vor x0 x1 x2 x3 x4) := by
  rintro _ ⟨⟩
  exact unpack_ev rfl

theorem vxor x0 x1 x2 x3 x4 : Statement (.vxor x0 x1 x2 x3 x4) := by
  rintro _ ⟨⟩
  exact unpack_ev rfl

theorem vsll x0 x1 x2 x3 x4 : Statement (.vsll x0 x1 x2 x3 x4) := by
  rintro _ ⟨⟩
  exact unpack_ev rfl

theorem vsrl x0 x1 x2 x3 x4 : Statement (.vsrl x0 x1 x2 x3 x4) := by
  rintro _ ⟨⟩
  exact unpack_ev rfl

theorem vsra x0 x1 x2 x3 x4 : Statement (.vsra x0 x1 x2 x3 x4) := by
  rintro _ ⟨⟩
  exact unpack_ev rfl

theorem vabs x0 x1 x2 x3 : Statement (.vabs x0 x1 x2 x3) := by
  rintro _ ⟨⟩
  exact unpack_ev rfl

theorem vminz x0 x1 x2 x3 x4 : Statement (.vminz x0 x1 x2 x3 x4) := by
  rintro _ ⟨⟩
  exact unpack_ev rfl

theorem vmaxz x0 x1 x2 x3 x4 : Statement (.vmaxz x0 x1 x2 x3 x4) := by
  rintro _ ⟨⟩
  exact unpack_ev rfl

theorem vfadd x0 x1 x2 x3 x4 x5 : Statement (.vfadd x0 x1 x2 x3 x4 x5) := by
  rintro _ ⟨⟩
  exact unpack_ev rfl

theorem vfsub x0 x1 x2 x3 x4 x5 : Statement (.vfsub x0 x1 x2 x3 x4 x5) := by
  rintro _ ⟨⟩
  exact unpack_ev rfl

theorem vfmul x0 x1 x2 x3 x4 x5 : Statement (.vfmul x0 x1 x2 x3 x4 x5) := by
  rintro _ ⟨⟩
  exact unpack_ev rfl

theorem vfma x0 x1 x2 x3 x4 x5 : Statement (.vfma x0 x1 x2 x3 x4 x5) := by
  rintro _ ⟨⟩
  exact unpack_ev rfl

theorem vfmin x0 x1 x2 x3 x4 x5 : Statement (.vfmin x0 x1 x2 x3 x4 x5) := by
  rintro _ ⟨⟩
  exact unpack_ev rfl

theorem vfmax x0 x1 x2 x3 x4 x5 : Statement (.vfmax x0 x1 x2 x3 x4 x5) := by
  rintro _ ⟨⟩
  exact unpack_ev rfl

theorem vfabs x0 x1 x2 x3 x4 : Statement (.vfabs x0 x1 x2 x3 x4) := by
  rintro _ ⟨⟩
  exact unpack_ev rfl

theorem vfneg x0 x1 x2 x3 x4 : Statement (.vfneg x0 x1 x2 x3 x4) := by
  rintro _ ⟨⟩
  exact unpack_ev rfl

theorem vfdiv x0 x1 x2 x3 x4 x5 : Statement (.vfdiv x0 x1 x2 x3 x4 x5) := by
  rintro _ ⟨⟩
  exact unpack_ev rfl

theorem vfsqrt x0 x1 x2 x3 x4 : Statement (.vfsqrt x0 x1 x2 x3 x4) := by
  rintro _ ⟨⟩
  exact unpack_ev rfl

theorem vfrsq x0 x1 x2 x3 x4 : Statement (.vfrsq x0 x1 x2 x3 x4) := by
  rintro _ ⟨⟩
  exact unpack_ev rfl

theorem vcmpEq x0 x1 x2 x3 x4 x5 : Statement (.vcmpEq x0 x1 x2 x3 x4 x5) := by
  rintro _ ⟨⟩
  exact unpack_ev rfl

theorem vcmpNe x0 x1 x2 x3 x4 x5 : Statement (.vcmpNe x0 x1 x2 x3 x4 x5) := by
  rintro _ ⟨⟩
  exact unpack_ev rfl

theorem vcmpLt x0 x1 x2 x3 x4 x5 : Statement (.vcmpLt x0 x1 x2 x3 x4 x5) := by
  rintro _ ⟨⟩
  exact unpack_ev rfl

theorem vcmpLe x0 x1 x2 x3 x4 x5 : Statement (.vcmpLe x0 x1 x2 x3 x4 x5) := by
  rintro _ ⟨⟩
  exact unpack_ev rfl

theorem vcmpUn x0 x1 x2 x3 x4 x5 : Statement (.vcmpUn x0 x1 x2 x3 x4 x5) := by
  rintro _ ⟨⟩
  exact unpack_ev rfl

theorem vcvt x0 x1 x2 x3 x4 x5 : Statement (.vcvt x0 x1 x2 x3 x4 x5) := by
  rintro _ ⟨⟩
  exact unpack_ev rfl

theorem lmul x0 x1 x2 x3 x4 : Statement (.lmul x0 x1 x2 x3 x4) := by
  rintro _ ⟨⟩
  exact unpack_ev rfl

theorem ldiv x0 x1 x2 x3 x4 : Statement (.ldiv x0 x1 x2 x3 x4) := by
  rintro _ ⟨⟩
  exact unpack_ev rfl

theorem ladd x0 x1 x2 x3 x4 : Statement (.ladd x0 x1 x2 x3 x4) := by
  rintro _ ⟨⟩
  exact unpack_ev rfl

theorem lsub x0 x1 x2 x3 x4 : Statement (.lsub x0 x1 x2 x3 x4) := by
  rintro _ ⟨⟩
  exact unpack_ev rfl

theorem lneg x0 x1 x2 x3 : Statement (.lneg x0 x1 x2 x3) := by
  rintro _ ⟨⟩
  exact unpack_ev rfl

theorem vmov x0 x1 x2 x3 : Statement (.vmov x0 x1 x2 x3) := by
  rintro _ ⟨⟩
  exact unpack_ev rfl

theorem vsel x0 x1 x2 x3 : Statement (.vsel x0 x1 x2 x3) := by
  rintro _ ⟨⟩
  exact unpack_ev rfl

theorem vperm x0 x1 x2 x3 x4 : Statement (.vperm x0 x1 x2 x3 x4) := by
  rintro _ ⟨⟩
  exact unpack_ev rfl

theorem vbcst x0 x1 x2 x3 : Statement (.vbcst x0 x1 x2 x3) := by
  rintro _ ⟨⟩
  exact unpack_ev rfl

theorem viota x0 x1 x2 : Statement (.viota x0 x1 x2) := by
  rintro _ ⟨⟩
  exact unpack_ev rfl

theorem vrsum x0 x1 x2 x3 x4 : Statement (.vrsum x0 x1 x2 x3 x4) := by
  rintro _ ⟨⟩
  exact unpack_ev rfl

theorem vrmax x0 x1 x2 x3 x4 : Statement (.vrmax x0 x1 x2 x3 x4) := by
  rintro _ ⟨⟩
  exact unpack_ev rfl

theorem vrmin x0 x1 x2 x3 x4 : Statement (.vrmin x0 x1 x2 x3 x4) := by
  rintro _ ⟨⟩
  exact unpack_ev rfl

theorem vriadd x0 x1 x2 x3 : Statement (.vriadd x0 x1 x2 x3) := by
  rintro _ ⟨⟩
  exact unpack_ev rfl

theorem xclr x0 x1 : Statement (.xclr x0 x1) := by
  rintro _ ⟨⟩
  exact unpack_ev rfl

theorem xmac x0 x1 x2 x3 x4 : Statement (.xmac x0 x1 x2 x3 x4) := by
  rintro _ ⟨⟩
  exact unpack_ev rfl

theorem xsum x0 x1 x2 x3 : Statement (.xsum x0 x1 x2 x3) := by
  rintro _ ⟨⟩
  exact unpack_ev rfl

theorem xrnd x0 x1 x2 : Statement (.xrnd x0 x1 x2) := by
  rintro _ ⟨⟩
  exact unpack_ev rfl

theorem xput x0 x1 x2 : Statement (.xput x0 x1 x2) := by
  rintro _ ⟨⟩
  exact unpack_ev rfl

theorem xget x0 x1 x2 : Statement (.xget x0 x1 x2) := by
  rintro _ ⟨⟩
  exact unpack_ev rfl

theorem xsave x0 x1 x2 : Statement (.xsave x0 x1 x2) := by
  rintro _ ⟨⟩
  exact unpack_ev rfl

theorem xload x0 x1 x2 : Statement (.xload x0 x1 x2) := by
  rintro _ ⟨⟩
  exact unpack_ev rfl

theorem defer x0 x1 x2 x3 : Statement (.defer x0 x1 x2 x3) := by
  rintro _ ⟨⟩
  exact unpack_ev rfl

theorem drain x0 x1 x2 x3 : Statement (.drain x0 x1 x2 x3) := by
  rintro _ ⟨⟩
  exact unpack_ev rfl

theorem dqcnt x0 x1 : Statement (.dqcnt x0 x1) := by
  rintro _ ⟨⟩
  exact unpack_ev rfl

theorem vscat x0 x1 x2 x3 x4 : Statement (.vscat x0 x1 x2 x3 x4) := by
  rintro _ ⟨⟩
  exact unpack_ev rfl

theorem vld x0 x1 x2 x3 : Statement (.vld x0 x1 x2 x3) := by
  rintro _ ⟨⟩
  exact unpack_ev rfl

theorem vst x0 x1 x2 x3 : Statement (.vst x0 x1 x2 x3) := by
  rintro _ ⟨⟩
  exact unpack_ev rfl

theorem vldx x0 x1 x2 x3 x4 : Statement (.vldx x0 x1 x2 x3 x4) := by
  rintro _ ⟨⟩
  exact unpack_ev rfl

theorem vstx x0 x1 x2 x3 x4 : Statement (.vstx x0 x1 x2 x3 x4) := by
  rintro _ ⟨⟩
  exact unpack_ev rfl

theorem twrow x0 x1 x2 x3 x4 x5 : Statement (.twrow x0 x1 x2 x3 x4 x5) := by
  rintro _ ⟨⟩
  exact unpack_et rfl

theorem trcol x0 x1 x2 x3 x4 x5 : Statement (.trcol x0 x1 x2 x3 x4 x5) := by
  rintro _ ⟨⟩
  exact unpack_et rfl

theorem trrow x0 x1 x2 x3 x4 x5 : Statement (.trrow x0 x1 x2 x3 x4 x5) := by
  rintro _ ⟨⟩
  exact unpack_et rfl

theorem tclr x0 x1 : Statement (.tclr x0 x1) := by
  rintro _ ⟨⟩
  exact unpack_et rfl

theorem tld x0 x1 x2 : Statement (.tld x0 x1 x2) := by
  rintro _ ⟨⟩
  exact unpack_et rfl

theorem tst x0 x1 x2 : Statement (.tst x0 x1 x2) := by
  rintro _ ⟨⟩
  exact unpack_et rfl

theorem vrand x0 x1 x2 x3 x4 x5 : Statement (.vrand x0 x1 x2 x3 x4 x5) := by
  rintro _ ⟨⟩
  exact unpack_ev rfl

theorem mand x0 x1 x2 x3 : Statement (.mand x0 x1 x2 x3) := by
  rintro _ ⟨⟩
  exact unpack_ev rfl

theorem mor x0 x1 x2 x3 : Statement (.mor x0 x1 x2 x3) := by
  rintro _ ⟨⟩
  exact unpack_ev rfl

theorem mxor x0 x1 x2 x3 : Statement (.mxor x0 x1 x2 x3) := by
  rintro _ ⟨⟩
  exact unpack_ev rfl

theorem mnot x0 x1 x2 : Statement (.mnot x0 x1 x2) := by
  rintro _ ⟨⟩
  exact unpack_ev rfl

theorem mpop x0 x1 x2 : Statement (.mpop x0 x1 x2) := by
  rintro _ ⟨⟩
  exact unpack_ev rfl

theorem mfirst x0 x1 x2 : Statement (.mfirst x0 x1 x2) := by
  rintro _ ⟨⟩
  exact unpack_ev rfl

theorem gchk x0 x1 x2 : Statement (.gchk x0 x1 x2) := by
  rintro _ ⟨⟩
  exact unpack_ev rfl

theorem vsplat x0 x1 x2 x3 : Statement (.vsplat x0 x1 x2 x3) := by
  rintro _ ⟨⟩
  exact unpack_ei rfl

theorem angl x0 x1 x2 x3 x4 x5 : Statement (.angl x0 x1 x2 x3 x4 x5) := by
  rintro _ ⟨⟩
  exact unpack_ev rfl

theorem abmp x0 x1 x2 : Statement (.abmp x0 x1 x2) := by
  rintro _ ⟨⟩
  exact unpack_ev rfl

theorem rscl x0 x1 x2 : Statement (.rscl x0 x1 x2) := by
  rintro _ ⟨⟩
  exact unpack_ev rfl

theorem rsclV x0 x1 x2 : Statement (.rsclV x0 x1 x2) := by
  rintro _ ⟨⟩
  exact unpack_ev rfl

theorem rlane x0 x1 : Statement (.rlane x0 x1) := by
  rintro _ ⟨⟩
  exact unpack_ev rfl

theorem rpush x0 x1 x2 x3 : Statement (.rpush x0 x1 x2 x3) := by
  rintro _ ⟨⟩
  exact unpack_ev rfl

theorem rpushv x0 x1 x2 x3 x4 : Statement (.rpushv x0 x1 x2 x3 x4) := by
  rintro _ ⟨⟩
  exact unpack_ev rfl

theorem rpop x0 x1 x2 x3 x4 : Statement (.rpop x0 x1 x2 x3 x4) := by
  rintro _ ⟨⟩
  exact unpack_ev rfl

theorem rpopv x0 x1 x2 x3 x4 x5 : Statement (.rpopv x0 x1 x2 x3 x4 x5) := by
  rintro _ ⟨⟩
  exact unpack_ev rfl

theorem reos x0 : Statement (.reos x0) := by
  rintro _ ⟨⟩
  exact unpack_ev rfl

theorem rstream x0 x1 x2 x3 x4 : Statement (.rstream x0 x1 x2 x3 x4) := by
  rintro _ ⟨⟩
  exact unpack_ev rfl

theorem rsweep x0 x1 x2 : Statement (.rsweep x0 x1 x2) := by
  rintro _ ⟨⟩
  exact unpack_ev rfl

theorem rplane x0 x1 : Statement (.rplane x0 x1) := by
  rintro _ ⟨⟩
  exact unpack_ev rfl

theorem rplaneT x0 : Statement (.rplaneT x0) := by
  rintro _ ⟨⟩
  exact unpack_ev rfl

theorem rsave x0 x1 : Statement (.rsave x0 x1) := by
  rintro _ ⟨⟩
  exact unpack_ev rfl

theorem rload x0 x1 : Statement (.rload x0 x1) := by
  rintro _ ⟨⟩
  exact unpack_ev rfl

theorem rmonOff x0 : Statement (.rmonOff x0) := by
  rintro _ ⟨⟩
  exact unpack_ev rfl

theorem rmonOn x0 : Statement (.rmonOn x0) := by
  rintro _ ⟨⟩
  exact unpack_ev rfl

theorem rmonClr x0 : Statement (.rmonClr x0) := by
  rintro _ ⟨⟩
  exact unpack_ev rfl

theorem loope x0 x1 x2 : Statement (.loope x0 x1 x2) := by
  rintro _ ⟨⟩
  exact unpack_mLoop

theorem role x0 x1 : Statement (.role x0 x1) := by
  rintro _ ⟨⟩
  exact unpack_mRole

theorem chbeg x0 x1 : Statement (.chbeg x0 x1) := by
  rintro _ ⟨⟩
  exact unpack_mBeg

theorem chend : Statement (.chend) := by
  rintro _ ⟨⟩
  exact unpack_mBound rfl

theorem chloop x0 x1 : Statement (.chloop x0 x1) := by
  rintro _ ⟨⟩
  exact unpack_mSpan

theorem xferG x0 x1 x2 x3 : Statement (.xferG x0 x1 x2 x3) := by
  rintro _ ⟨⟩
  exact unpack_mXfer

theorem xferV x0 x1 x2 x3 : Statement (.xferV x0 x1 x2 x3) := by
  rintro _ ⟨⟩
  exact unpack_mXfer

theorem xferB x0 x1 x2 x3 : Statement (.xferB x0 x1 x2 x3) := by
  rintro _ ⟨⟩
  exact unpack_mXfer

theorem drift x0 : Statement (.drift x0) := by
  rintro _ ⟨⟩
  exact unpack_mBound rfl

theorem tsync : Statement (.tsync) := by
  rintro _ ⟨⟩
  exact unpack_mBound rfl

theorem branchResolve x0 : Statement (.branchResolve x0) := by
  rintro _ ⟨⟩

theorem pipdeadDetect x0 : Statement (.pipdeadDetect x0) := by
  rintro _ ⟨⟩

theorem engineRetire x0 x1 : Statement (.engineRetire x0 x1) := by
  rintro _ ⟨⟩

theorem iterationStart x0 : Statement (.iterationStart x0) := by
  rintro _ ⟨⟩

theorem ptsIdleAdvance x0 x1 : Statement (.ptsIdleAdvance x0 x1) := by
  rintro _ ⟨⟩

theorem homeLoad x0 : Statement (.homeLoad x0) := by
  rintro _ ⟨⟩

theorem homeWritePerform x0 : Statement (.homeWritePerform x0) := by
  rintro _ ⟨⟩

theorem homeAtomicPerform x0 : Statement (.homeAtomicPerform x0) := by
  rintro _ ⟨⟩

theorem aoseqArrival x0 : Statement (.aoseqArrival x0) := by
  rintro _ ⟨⟩

theorem aoseqResend x0 : Statement (.aoseqResend x0) := by
  rintro _ ⟨⟩

theorem combiningBufferTimeout x0 x1 : Statement (.combiningBufferTimeout x0 x1) := by
  rintro _ ⟨⟩

theorem copyEngineStart x0 : Statement (.copyEngineStart x0) := by
  rintro _ ⟨⟩

theorem copyComplete x0 : Statement (.copyComplete x0) := by
  rintro _ ⟨⟩

theorem tprefComplete x0 : Statement (.tprefComplete x0) := by
  rintro _ ⟨⟩

theorem barrierPhaseComplete x0 x1 : Statement (.barrierPhaseComplete x0 x1) := by
  rintro _ ⟨⟩

theorem fabricBarrierPacket x0 x1 x2 x3 : Statement (.fabricBarrierPacket x0 x1 x2 x3) := by
  rintro _ ⟨⟩

theorem fabricBarrierCompletion x0 x1 x2 x3 : Statement (.fabricBarrierCompletion x0 x1 x2 x3) := by
  rintro _ ⟨⟩

theorem fabricMessageArrival x0 x1 x2 : Statement (.fabricMessageArrival x0 x1 x2) := by
  rintro _ ⟨⟩

theorem fabricMessageResend x0 x1 : Statement (.fabricMessageResend x0 x1) := by
  rintro _ ⟨⟩

theorem fabricOpComplete x0 : Statement (.fabricOpComplete x0) := by
  rintro _ ⟨⟩

theorem flushMarkerGather x0 : Statement (.flushMarkerGather x0) := by
  rintro _ ⟨⟩

theorem planeLoadComplete x0 : Statement (.planeLoadComplete x0) := by
  rintro _ ⟨⟩

theorem vectorExit x0 : Statement (.vectorExit x0) := by
  rintro _ ⟨⟩

theorem tstatUpdate x0 : Statement (.tstatUpdate x0) := by
  rintro _ ⟨⟩

theorem guardDecision x0 : Statement (.guardDecision x0) := by
  rintro _ ⟨⟩

theorem fallback x0 x1 : Statement (.fallback x0 x1) := by
  rintro _ ⟨⟩

theorem launchAdmit x0 : Statement (.launchAdmit x0) := by
  rintro _ ⟨⟩

theorem launchReady x0 : Statement (.launchReady x0) := by
  rintro _ ⟨⟩

theorem schedulerTick x0 : Statement (.schedulerTick x0) := by
  rintro _ ⟨⟩

theorem launchAging x0 : Statement (.launchAging x0) := by
  rintro _ ⟨⟩

theorem gangPreemptible x0 : Statement (.gangPreemptible x0) := by
  rintro _ ⟨⟩

theorem waitTimeout x0 x1 : Statement (.waitTimeout x0 x1) := by
  rintro _ ⟨⟩

theorem launchComplete x0 : Statement (.launchComplete x0) := by
  rintro _ ⟨⟩

theorem bankDrainComplete x0 : Statement (.bankDrainComplete x0) := by
  rintro _ ⟨⟩

theorem windowWordPerform x0 : Statement (.windowWordPerform x0) := by
  rintro _ ⟨⟩

theorem objectCallLog x0 : Statement (.objectCallLog x0) := by
  rintro _ ⟨⟩

theorem heldCallTimeout x0 : Statement (.heldCallTimeout x0) := by
  rintro _ ⟨⟩

theorem replayApplyEntry x0 x1 : Statement (.replayApplyEntry x0 x1) := by
  rintro _ ⟨⟩

theorem replayQueryRun x0 : Statement (.replayQueryRun x0) := by
  rintro _ ⟨⟩

theorem replicaCrcCompare x0 : Statement (.replicaCrcCompare x0) := by
  rintro _ ⟨⟩

theorem headerDivergence x0 x1 : Statement (.headerDivergence x0 x1) := by
  rintro _ ⟨⟩

theorem driftStallRelease x0 : Statement (.driftStallRelease x0) := by
  rintro _ ⟨⟩

theorem handoverMessageArrival x0 x1 : Statement (.handoverMessageArrival x0 x1) := by
  rintro _ ⟨⟩

theorem handoverBlockMove x0 x1 : Statement (.handoverBlockMove x0 x1) := by
  rintro _ ⟨⟩

theorem teamBarrierComplete x0 : Statement (.teamBarrierComplete x0) := by
  rintro _ ⟨⟩

theorem engineTrapEntry x0 : Statement (.engineTrapEntry x0) := by
  rintro _ ⟨⟩

theorem huskResume x0 x1 : Statement (.huskResume x0 x1) := by
  rintro _ ⟨⟩

theorem huskEndLaunch x0 : Statement (.huskEndLaunch x0) := by
  rintro _ ⟨⟩

theorem contextSaveComplete x0 : Statement (.contextSaveComplete x0) := by
  rintro _ ⟨⟩

theorem queueResetComplete x0 x1 : Statement (.queueResetComplete x0 x1) := by
  rintro _ ⟨⟩

theorem patrolScrub x0 x1 : Statement (.patrolScrub x0 x1) := by
  rintro _ ⟨⟩

theorem huskTimerExpiry x0 : Statement (.huskTimerExpiry x0) := by
  rintro _ ⟨⟩

theorem huskFailure x0 : Statement (.huskFailure x0) := by
  rintro _ ⟨⟩

theorem qwidxWrite x0 x1 x2 : Statement (.qwidxWrite x0 x1 x2) := by
  rintro _ ⟨⟩

theorem qcfgWrite x0 x1 x2 : Statement (.qcfgWrite x0 x1 x2) := by
  rintro _ ⟨⟩

theorem completionWrite x0 x1 : Statement (.completionWrite x0 x1) := by
  rintro _ ⟨⟩

theorem invoke x0 : Statement (.invoke x0) := by
  rintro _ ⟨⟩

theorem loadSlot x0 : Statement (.loadSlot x0) := by
  rintro _ ⟨⟩

theorem unloadSlot x0 : Statement (.unloadSlot x0) := by
  rintro _ ⟨⟩

theorem signalSet x0 : Statement (.signalSet x0) := by
  rintro _ ⟨⟩

theorem signalAdd x0 : Statement (.signalAdd x0) := by
  rintro _ ⟨⟩

theorem resetQueue x0 : Statement (.resetQueue x0) := by
  rintro _ ⟨⟩

theorem preempt x0 : Statement (.preempt x0) := by
  rintro _ ⟨⟩

theorem invalidCommand x0 : Statement (.invalidCommand x0) := by
  rintro _ ⟨⟩

theorem apertureRead x0 x1 x2 : Statement (.apertureRead x0 x1 x2) := by
  rintro _ ⟨⟩

theorem apertureWrite x0 x1 x2 x3 : Statement (.apertureWrite x0 x1 x2 x3) := by
  rintro _ ⟨⟩

theorem hilumTsAdvance x0 : Statement (.hilumTsAdvance x0) := by
  rintro _ ⟨⟩

theorem vfFlr x0 : Statement (.vfFlr x0) := by
  rintro _ ⟨⟩

theorem partitionCreate x0 x1 : Statement (.partitionCreate x0 x1) := by
  rintro _ ⟨⟩

theorem partitionDestroy x0 : Statement (.partitionDestroy x0) := by
  rintro _ ⟨⟩

theorem partitionUpdate x0 : Statement (.partitionUpdate x0) := by
  rintro _ ⟨⟩

theorem invalidateTlbs x0 : Statement (.invalidateTlbs x0) := by
  rintro _ ⟨⟩

theorem revokePins x0 x1 : Statement (.revokePins x0 x1) := by
  rintro _ ⟨⟩

theorem coldStart : Statement (.coldStart) := by
  rintro _ ⟨⟩

theorem warmStart : Statement (.warmStart) := by
  rintro _ ⟨⟩

theorem startTimeout : Statement (.startTimeout) := by
  rintro _ ⟨⟩

theorem recoveryImage x0 : Statement (.recoveryImage x0) := by
  rintro _ ⟨⟩

theorem getVersion : Statement (.getVersion) := by
  rintro _ ⟨⟩

theorem getCapabilities : Statement (.getCapabilities) := by
  rintro _ ⟨⟩

theorem negotiateAlgorithms : Statement (.negotiateAlgorithms) := by
  rintro _ ⟨⟩

theorem getDigests : Statement (.getDigests) := by
  rintro _ ⟨⟩

theorem getCertificate : Statement (.getCertificate) := by
  rintro _ ⟨⟩

theorem challenge : Statement (.challenge) := by
  rintro _ ⟨⟩

theorem getMeasurements : Statement (.getMeasurements) := by
  rintro _ ⟨⟩

theorem keyExchange : Statement (.keyExchange) := by
  rintro _ ⟨⟩

theorem finish : Statement (.finish) := by
  rintro _ ⟨⟩

theorem ideKmKeyProgram x0 x1 : Statement (.ideKmKeyProgram x0 x1) := by
  rintro _ ⟨⟩

theorem powerWindow x0 x1 x2 : Statement (.powerWindow x0 x1 x2) := by
  rintro _ ⟨⟩

theorem dvfsRequest x0 x1 : Statement (.dvfsRequest x0 x1) := by
  rintro _ ⟨⟩

theorem dvfsStepComplete x0 : Statement (.dvfsStepComplete x0) := by
  rintro _ ⟨⟩

theorem recctlWrite x0 x1 : Statement (.recctlWrite x0 x1) := by
  rintro _ ⟨⟩

theorem registerWrite x0 x1 : Statement (.registerWrite x0 x1) := by
  rintro _ ⟨⟩

theorem splitterSteer x0 : Statement (.splitterSteer x0) := by
  rintro _ ⟨⟩

theorem rootComplexAck x0 : Statement (.rootComplexAck x0) := by
  rintro _ ⟨⟩

theorem hostReadCompletion x0 : Statement (.hostReadCompletion x0) := by
  rintro _ ⟨⟩

theorem contextRestoreComplete x0 : Statement (.contextRestoreComplete x0) := by
  rintro _ ⟨⟩

theorem replayArrivalTimeout x0 : Statement (.replayArrivalTimeout x0) := by
  rintro _ ⟨⟩

end Sys2Proof.Laws.Shape
end

