-- ==== Sys2Proof/Laws/Storage.lean ====
section
/-! SUPPORT. Sys2Proof/Laws/Storage.lean: every memory operation keeps the canonical form of the memories, and every grant of a
lease and every write keeps wts ≤ rts (R282 to R284). -/

namespace Sys2Proof.Machine

variable {s t : State}

theorem le_wmax_left (a b : Word) : a ≤ wmax a b := by
  unfold wmax
  split
  · simp_all only [BitVec.le_def]
  · exact BitVec.le_refl a

/-- The invariant rests on the memories and the two timestamp tables alone. -/
theorem State.Inv.congr (h : s.Inv) (h1 : t.mem = s.mem) (h2 : t.scratch = s.scratch) (h3 : t.host = s.host) (h4 : t.peer = s.peer)
    (h5 : t.lines = s.lines) (h6 : t.scrLines = s.scrLines) (h7 : t.save = s.save) : t.Inv := by
  refine ⟨by unfold State.MemOk; rw [h1, h2, h3, h4, h7]; exact h.1, fun l => ?_⟩
  have := h.2 l
  cases l <;> simp_all only [State.tsAt]

theorem State.MemOk.putByte (h : s.MemOk) (l : Loc) (b : Byte) : (s.putByte l b).MemOk := by
  obtain ⟨h1, h2, h3, h4, h5⟩ := h
  cases l <;> simp only [State.putByte, State.MemOk] <;> simp [h1, h2, h3, h4, h5, Memory.wf_write]

theorem State.MemOk.putNat (h : s.MemOk) (l : Loc) (n v : Nat) : (s.putNat l n v).MemOk := by
  induction n generalizing s l v with
  | zero => exact h
  | succ n ih => exact ih (h.putByte l _) _ _

@[simp] theorem State.tsAt_putByte (s : State) (l : Loc) (b : Byte) (k : Loc) : (s.putByte l b).tsAt k = s.tsAt k := by
  cases l <;> cases k <;> rfl

@[simp] theorem State.tsAt_putNat (s : State) (l : Loc) (n v : Nat) (k : Loc) : (s.putNat l n v).tsAt k = s.tsAt k := by
  induction n generalizing s l v with
  | zero => rfl
  | succ n ih => simp [State.putNat, ih]

theorem State.Inv.putNat (h : s.Inv) (l : Loc) (n v : Nat) : (s.putNat l n v).Inv :=
  ⟨h.1.putNat l n v, fun k => by simpa using h.2 k⟩

theorem State.Inv.putByte (h : s.Inv) (l : Loc) (b : Byte) : (s.putByte l b).Inv :=
  ⟨h.1.putByte l b, fun k => by simpa using h.2 k⟩

/-- Every timestamp that a store of timestamps leaves is an old one or the new one. -/
theorem State.tsAt_setTs (s : State) (l : Loc) (x : LineTs) (k : Loc) : (s.setTs l x).tsAt k = s.tsAt k ∨ (s.setTs l x).tsAt k = x := by
  cases l <;> cases k <;> simp only [State.setTs, State.tsAt, Cells.get_set, true_or] <;> split <;> simp

theorem State.Inv.setTs (h : s.Inv) (l : Loc) {x : LineTs} (hx : x.wts ≤ x.rts) : (s.setTs l x).Inv := by
  refine ⟨?_, fun k => ?_⟩
  · cases l <;> exact h.1
  · rcases s.tsAt_setTs l x k with e | e <;> rw [e]
    · exact h.2 k
    · exact hx

/-- Making room for a copy changes the copies alone (R267, R269). -/
theorem State.Inv.copyRoom (h : s.Inv) (x : Holder) : (s.copyRoom x).1.Inv := by
  have hr : ∀ l, (s.replaceCopy l).1.Inv := fun l => by
    unfold State.replaceCopy; split
    · exact h.congr rfl rfl rfl rfl rfl rfl rfl
    · exact h
  unfold State.copyRoom
  split
  · simp only
    split
    · exact h
    · exact hr _
  · simp only
    split
    · exact h
    · exact hr _

theorem State.Inv.putCopy (h : s.Inv) (l : Loc) (x : Holder) (d : BitVec 1024) (w r : Word) : (s.putCopy l x d w r).Inv := by
  unfold State.putCopy
  split
  · simp only
    split
    · exact h.congr rfl rfl rfl rfl rfl rfl rfl
    · exact (h.copyRoom x).congr rfl rfl rfl rfl rfl rfl rfl
  · exact h

theorem State.Inv.dropCopy (h : s.Inv) (l : Loc) (n : Nat) : (s.dropCopy l n).Inv := by
  cases l <;> exact h.congr rfl rfl rfl rfl rfl rfl rfl

/-- A list of updates of which each keeps the invariant. -/
theorem State.Inv.foldl {α : Type} {f : State → α → State} (hf : ∀ s a, s.Inv → (f s a).Inv) (l : List α) (h : s.Inv) : (l.foldl f s).Inv := by
  induction l generalizing s with
  | nil => exact h
  | cons a l ih => exact ih (hf s a h)

/-- A read that grants a lease (R283). -/
theorem State.Inv.readAt (h : s.Inv) (hs : List Holder) (lam p : Word) (l : Loc) (n : Nat) : (s.readAt hs lam p l n).1.Inv := by
  unfold State.readAt
  split
  · exact h
  · exact State.Inv.foldl (fun s a hs => hs.putCopy l a _ _ _) hs
      (h.setTs l (BitVec.le_trans (h.2 l) (le_wmax_left _ _)))

/-- A write with its new timestamp (R284). -/
theorem State.Inv.writeAt (h : s.Inv) (hs : List Holder) (na : Bool) (p : Word) (l : Loc) (n v : Nat) : (s.writeAt hs na p l n v).1.Inv := by
  unfold State.writeAt
  refine State.Inv.foldl (fun s a hs => ?_) hs ((h.setTs l (BitVec.le_refl _)).putNat l n v)
  split
  · exact hs.dropCopy l a.id
  · exact hs.putCopy l a _ _ _

end Sys2Proof.Machine
end

