-- ==== Sys2Proof/Laws/Traps.lean ====
section
/-! SUPPORT. Sys2Proof/Laws/Traps.lean: everything that taking a trap does to the state (R90, R354). -/

namespace Sys2Proof.Machine

variable {s t : State}

theorem toUser_iff (s : State) (c : BitVec 8) : s.cur.toUser c = true ↔ s.HandlerTakes c := by
  simp [Core.toUser, State.HandlerTakes, causeToUser, goesToUser, Core.capturing, and_assoc]
  grind

/-! ### Bytes under byte writes -/

@[simp] theorem State.putByte_cores (s : State) (l : Loc) (b : Byte) : (s.putByte l b).cores = s.cores := by cases l <;> rfl

@[simp] theorem State.putByte_turn (s : State) (l : Loc) (b : Byte) : (s.putByte l b).turn = s.turn := by cases l <;> rfl

@[simp] theorem State.putNat_cores (s : State) (l : Loc) (n v : Nat) : (s.putNat l n v).cores = s.cores := by
  induction n generalizing s l v with
  | zero => rfl
  | succ n ih => simp [State.putNat, ih]

@[simp] theorem State.putNat_turn (s : State) (l : Loc) (n v : Nat) : (s.putNat l n v).turn = s.turn := by
  induction n generalizing s l v with
  | zero => rfl
  | succ n ih => simp [State.putNat, ih]

theorem State.byteAt_putByte_pkg (s : State) (a : Nat) (b : Byte) (l : Loc) :
    (s.putByte (.pkg a) b).byteAt l = if l = .pkg a then b else s.byteAt l := by
  cases l <;> simp [State.putByte, State.byteAt, Memory.read_write]
  grind

/-- A wide write in package memory leaves every byte outside it. -/
theorem State.byteAt_putNat_pkg (s : State) (a n v : Nat) (l : Loc) (h : ∀ b, l = .pkg b → b < a ∨ a + n ≤ b) :
    (s.putNat (.pkg a) n v).byteAt l = s.byteAt l := by
  induction n generalizing s a v with
  | zero => rfl
  | succ n ih =>
    rw [State.putNat, Loc.plus, ih _ _ _ (fun b hb => by have := h b hb; omega), State.byteAt_putByte_pkg, if_neg]
    rintro rfl
    have := h a rfl
    omega

/-- A write without copies sets the line's timestamps and the bytes. -/
theorem State.byteAt_writeAt_pkg (s : State) (na : Bool) (p : Word) (a n v : Nat) (l : Loc) (h : ∀ b, l = .pkg b → b < a ∨ a + n ≤ b) :
    (s.writeAt [] na p (.pkg a) n v).1.byteAt l = s.byteAt l := by
  simp only [State.writeAt, List.foldl_nil, State.setTs]
  rw [State.byteAt_putNat_pkg _ _ _ _ _ h]
  cases l <;> rfl

theorem State.writeAt_nil_cores (s : State) (na : Bool) (p : Word) (l : Loc) (n v : Nat) : (s.writeAt [] na p l n v).1.cores = s.cores := by
  cases l <;> simp [State.writeAt, State.setTs]

theorem State.writeAt_nil_turn (s : State) (na : Bool) (p : Word) (l : Loc) (n v : Nat) : (s.writeAt [] na p l n v).1.turn = s.turn := by
  cases l <;> simp [State.writeAt, State.setTs]

/-! ### Fault records -/

@[simp] theorem State.recordFor_cores (s : State) (agent : Nat) (r : FaultRec) : (s.recordFor agent r).cores = s.cores := by
  unfold State.recordFor
  split
  · unfold State.recordFault
    split
    · rfl
    · simp [State.writeAt_nil_cores]
  · rfl

@[simp] theorem State.recordFor_turn (s : State) (agent : Nat) (r : FaultRec) : (s.recordFor agent r).turn = s.turn := by
  unfold State.recordFor
  split
  · unfold State.recordFault
    split
    · rfl
    · simp [State.writeAt_nil_turn]
  · rfl

/-- A fault record changes no byte but those of the ring slot that is filled next. -/
theorem State.byteAt_recordFor (s : State) (r : FaultRec) (l : Loc) (h : ¬ s.InRingSlot l) : (s.recordFor s.agent r).byteAt l = s.byteAt l := by
  unfold State.recordFor
  split
  · rename_i i hi
    unfold State.recordFault
    split
    · rfl
    · rename_i p hp
      simp only
      rw [State.byteAt_writeAt_pkg]
      · exact State.byteAt_congr (by simp) (by simp) (by simp) (by simp) l
      · rintro b rfl
        refine Classical.byContradiction fun hc => ?_
        exact h ⟨i, p, b, hi, hp, rfl, by unfold Part.ringSlot; omega, by unfold Part.ringSlot; omega⟩
  · rfl

/-! ### Traps -/

theorem State.core_congr (h : t.cores = s.cores) (n : Nat) : t.core n = s.core n := by simp [State.core, h]

theorem State.agent_congr (h : t.turn = s.turn) : t.agent = s.agent := by simp [State.agent, h]

/-- The end of Husk's fetch pair leaves the trap registers and the user context (R95). -/
theorem Core.endPair_trap (c : Core) (r : TrapRegs) : ({ c with trap := r } : Core).endPair = { c.endPair with trap := r } := by
  obtain ⟨⟩ := c
  unfold Core.endPair
  split <;> rename_i h <;> simp only at h <;> subst h
  · rename_i a _; cases a <;> rfl
  · rfl

@[simp] theorem Core.endPair_user (c : Core) : c.endPair.user = c.user := by
  unfold Core.endPair; split
  · rename_i a _ _; cases a <;> rfl
  · rfl

/-- Taking a trap outside Husk and the surrogate phase (R90). -/
theorem trapped_takeTrap (h : s.InUser) (f : Flt) (at_ : Word) : s.Trapped f.cause at_ f.addr f.info (s.takeTrap f at_) := by
  obtain ⟨hw, hs⟩ := h
  have hh : s.inHusk = false := by simp [State.inHusk, hw]
  constructor
  · intro hu
    have hu' := (toUser_iff s f.cause).mpr hu
    have e : s.takeTrap f at_ = (s.onCore fun x => { x with trap := x.trap.set f at_ }).onCore Core.enterHandler := by
      simp [State.takeTrap, hh, hs, hu']
    rw [e]
    refine ⟨(onlyCore_onCore s _).trans (onlyCore_onCore _ _), ?_, ?_, fun r => ?_, fun q => ?_, ?_⟩
    · simp [Core.enterHandler]
    · simp [Core.enterHandler, TrapRegs.Holds, TrapRegs.set]
    · simp [State.g, State.ctx, hh, Core.ctx, Core.enterHandler, Ctx.getG, Ctx.goto]
    · simp [State.p, State.ctx, hh, Core.ctx, Core.enterHandler, Ctx.getP, Ctx.goto]
    · simp [State.StandsAt, State.pc, State.ctx, hh, Core.ctx, Core.enterHandler, Ctx.goto, TrapRegs.set]
  · intro hu
    have hu' : s.cur.toUser f.cause = false := by
      have := mt (toUser_iff s f.cause).mp hu
      simpa using this
    have e : s.takeTrap f at_ = (((s.onCore fun x => { x with trap := x.trap.set f at_ }).recordFor s.agent
        (s.faultRec s.agent (srcOf s.agent) (if f.cause == 0x04 && f.info.getLsbD 3 then 3 else 1) 0 at_ f s.cur.pts)).enterHusk s.agent).onCore
          fun x => { x with user := { x.user with stat := .trapped none } } := by
      simp only [State.takeTrap, hh, hs, hu', Bool.false_eq_true, if_false, Bool.false_and]
    rw [e]
    generalize s.faultRec s.agent (srcOf s.agent) _ 0 at_ f s.cur.pts = r
    have ht : ((s.onCore fun x => { x with trap := x.trap.set f at_ }).recordFor s.agent r).turn = s.turn := by simp
    have ha := State.agent_congr ht
    have hc : ((s.onCore fun x => { x with trap := x.trap.set f at_ }).recordFor s.agent r).core s.agent
        = { s.cur with trap := s.cur.trap.set f at_ } := by
      rw [State.core_congr (State.recordFor_cores _ _ _)]
      exact State.cur_onCore s _
    have hk : ∀ n, n ≠ s.agent → ((s.onCore fun x => { x with trap := x.trap.set f at_ }).recordFor s.agent r).core n = s.core n := by
      intro n hn
      rw [State.core_congr (State.recordFor_cores _ _ _), State.core_onCore_ne _ hn]
    have hb : ∀ l, ¬ s.InRingSlot l →
        ((s.onCore fun x => { x with trap := x.trap.set f at_ }).recordFor s.agent r).byteAt l = s.byteAt l := by
      intro l hl
      have hp : (s.onCore fun x => { x with trap := x.trap.set f at_ }).partOf s.agent = s.partOf s.agent := by
        have hbind : ((s.onCore fun x => { x with trap := x.trap.set f at_ }).core s.agent).binding = (s.core s.agent).binding := by
          have := State.cur_onCore s fun x => { x with trap := x.trap.set f at_ }
          rw [show (s.onCore fun x => { x with trap := x.trap.set f at_ }).core s.agent = _ from this]
          rfl
        simp [State.partOf, State.launchOf, hbind]
      have := State.byteAt_recordFor (s.onCore fun x => { x with trap := x.trap.set f at_ }) r l (by
        rintro ⟨i, p, a, h1, h2, h3⟩
        exact hl ⟨i, p, a, by rw [← hp]; exact h1, by simpa using h2, h3⟩)
      rw [State.agent_onCore] at this
      rw [this]
      exact (onlyCore_onCore s _).2.2 l
    generalize (s.onCore fun x => { x with trap := x.trap.set f at_ }).recordFor s.agent r = b at ht ha hc hk hb
    have hcur : ((b.enterHusk s.agent).onCore fun x => { x with user := { x.user with stat := .trapped none } }).cur =
        { s.cur.endPair with
          trap := s.cur.trap.set f at_, user := { s.cur.user with stat := .trapped none },
          husk := s.cur.endPair.husk.goto (Config.freeWord b.fresh 50 &&& ~~~(3 : Word)) } := by
      rw [State.cur_onCore]
      have : (b.enterHusk s.agent).cur = { s.cur.endPair with
          trap := s.cur.trap.set f at_, husk := s.cur.endPair.husk.goto (Config.freeWord b.fresh 50 &&& ~~~(3 : Word)) } := by
        show (b.enterHusk s.agent).core (b.enterHusk s.agent).agent = _
        rw [show (b.enterHusk s.agent).agent = s.agent from ha]
        simp [State.enterHusk, hc, Core.endPair_trap]
      rw [this]
      simp
    refine ⟨fun n hn => ?_, ?_, ?_, ?_, fun l hl => ?_⟩
    · rw [State.core_onCore_ne _ (by rw [show (b.enterHusk s.agent).agent = s.agent from ha]; exact hn)]
      unfold State.enterHusk
      rw [State.core_updCore_ne _ (Ne.symm hn), hk n hn]
    · rw [hcur]
    · rw [hcur]; simp [TrapRegs.Holds, TrapRegs.set]
    · rw [hcur]; simp [Ctx.goto]
    · rw [(onlyCore_onCore _ _).2.2 l, ← hb l hl]
      exact State.byteAt_congr rfl rfl rfl rfl l

/-- `ILLEGAL` of the word at the pc (R64). -/
theorem trappedIllegal (h : s.InUser) (w : InstrWord) : s.TrappedIllegal w (s.illegalWord w s.pc) :=
  trapped_takeTrap h ⟨0x01, 0, w.setWidth 64⟩ s.pc

end Sys2Proof.Machine
end

