-- ==== Sys2Proof/Tests/Slice0.lean ====
section
/-! SUPPORT. Sys2Proof/Tests/Slice0.lean: the well-formedness checks, words that the spec prints, one step of each family, and
for every statement a state and operands that meet its hypotheses. -/

/- Elaborated in order: the kernel checks of this file are long, and its proofs would otherwise all stand waiting for them. -/
set_option Elab.async false

namespace Sys2Proof.Tests

open Sys2Proof.Machine

/-! ### Small states -/

/-- S of core 0 in the user context of a launch. -/
def base : State := State.reset.layWord 0

/-- The same with a value in a register. -/
def baseG (r : BitVec 5) (v : Word) : State := base.setG r v

/-- The same after an X.EXT. -/
def baseExt : State := base.onCtx fun c => { c with pfx := .ext 1 0x7FFC }

/-- The turn of Husk on core 0. -/
def husk : State := { (base.updCore 0 fun c => { c with husk := { c.husk with stat := .running } }) with turn := .seq 0 .husk }

/-- Core 0 with a register write at the head of an engine's queue. -/
def queued (e : Eng) (k : QKind) : State := base.onEng e fun x => { x with queue := [⟨k, 0, fetchAddr, 5, 0, 0, 0⟩] }

/-- Core 0 with a token in a state. -/
def withTok (t : Tok) : State := base.onCore fun c => { c with tokens := [(3, t)] }

/-- Core 0 with host memory mapped at 2^30, and a value in g1. -/
def withSys (v : Word) : State := ({ base with mem := Memory.writeNat base.mem 12296 8 0x13F } : State).setG 1 v

/-- Core 0 in the surrogate phase of its launch. -/
def guarded (v : Word) : State :=
  { ((baseG 1 v).onCore fun c => { c with surrogate := true }) with
    launches := [(0, { fetchLaunch fetchAddr with buffer := 256 })] }

/-- A partition of one pod, and a ready launch of eight cores. -/
def onePod : Part := { fetchPart with pods := 1 }
def eightCores : Launch :=
  { fetchLaunch fetchAddr with state := .ready, rec_ := { (fetchLaunch fetchAddr).rec_ with gangSize := 8 } }

/-- Core 0 bound, and a launch that is ready and needs all eight cores of the partition's one pod. -/
def contended : State :=
  { base with parts := [(0, onePod)], launches := [(0, fetchLaunch fetchAddr), (1, eightCores)] }

/-- Core 0 with a token in a state, and a TPREF that waits for its X.TWS. -/
def waitingA (t : Tok) : State := (withTok t).onCtx fun c => { c with pend := some ⟨wordOf (.tpref 5 1 2 1), 0x7FFC⟩ }

/-- Core 0 with barrier 1 of its gang in a state. -/
def withBar (b : Barrier) : State :=
  { (baseG 1 0x10001) with gangs := [(0, { fetchGang with barriers := [(1, b)], arrivals := [(1, 0)] })] }

/-- Core 0 with a barrier in entry 3 of its partition, of which its own device, or device 1, is the master. -/
def withFbar (master : Bool) (b : Barrier) : State :=
  { (baseG 1 0x430000) with
    parts := [(0, { fetchPart with fbars := [(3, ⟨if master then 0x100010002 else 0x1010002, b, []⟩)] })] }

/-- The same in a wait at its phase 0. -/
def atBar (b : Barrier) : State := (withBar b).await (.barrier 0x10001 0)

/-- Core 0 with a member beside it. -/
def pair : State := { base with gangs := [(0, { fetchGang with members := [0, 1] })] }

/-- Core 0 with signal 0 of its partition in a state, and the same in a wait for it. -/
def withSig (v : Signal) : State := { base with parts := [(0, { fetchPart with signals := [(0, v)] })] }

/-- The turn of an engine of core 0 at a word. -/
def eng (e : Eng) : State :=
  { (base.onEng e fun x => { x with queue := [⟨.word, 0, fetchAddr, 0, 0, 0, 0⟩] }) with turn := .seq 0 e.seq }

/-- The same at an address in a1, with a layout record of one byte at 0x30000 and a stream descriptor of one slot at 0x20000.
What they point to stands in a second GiB that shows the first one's bytes: no TLB entry of the record answers there, and the
engine's PTS is so late that no copy answers it, which leaves nothing to a free choice. -/
def engAt (e : Eng) (v : Word) : State :=
  { ((eng e).onEng e fun x => { x.setA 1 v with pts := BitVec.allOnes 64 }) with
    mem := Memory.write (Memory.write (Memory.write (Memory.write (Memory.write (Memory.write (Memory.write (Memory.write
      (Memory.writeNat base.mem 12296 8 0x3F) 0x20003 0x40) 0x20014 1) 0x30002 4) 0x30003 0x40) 0x30009 1) 0x30010 1) 0x30028 1) 0x30064 1 }

/-- L at the descriptor, with a window over everything below 2^30 that streams may read. -/
def streamed : State :=
  { engAt .l 0x20000 with
    launches := [(0, { fetchLaunch fetchAddr with windows := [⟨0, 0x80000000, 0, 15, 5, List.replicate 16 0, 0, 0⟩] })] }

/-- The same in a pod with bank 1 as scratch. -/
def inScratch (e : Eng) : State := (eng e).updPod 0 fun p => { p with banks := 4 }

/-- The user handler of core 0, with a value in g1. -/
def inHandler (v : Word) : State := (baseG 1 v).onCore fun c => { c with handler := true }

/-- A reduction of core 0 at its home. -/
def redReq (fn size : Nat) (v : Word) : Req := ⟨.red fn size v, .pkg 0x20000, 0x20000, 0, .s, 0, 0, 0, 0, 0, 0, 0, 0, [], [1], 0, []⟩

/-- The same while `RECCTL` has a mode for the partition, with a record of some entries. -/
def redAt (fn mode : Nat) (es : List RecEntry) : State :=
  { base with reqs := [(0, redReq fn 4 5)], pf := [(0x0300, BitVec.ofNat 64 (256 * mode))], recs := ⟨es, 0, []⟩ }

/-- An ordered atomic with the number 1 on its way to its home, where a number stands. -/
def ordReq : Aoseq := ⟨0, 0x20000, 9, 4, 1, 0, 3, false, false, false, false, 0, base.ctx⟩
def ordered (v : Byte) : State := { base with mem := Memory.write base.mem 0x20000 v, aoseqs := [(0, ordReq)] }

/-- Core 0 with an access of S on its way to a home. -/
def pendingMem : State := { base with aoseqs := [(0, ordReq)] }

/-- Core 0 with as many requests outstanding as it may have. -/
def fullCore : State :=
  { baseG 1 0x20000 with reqs := (List.range 512).map fun i => (i, redReq 1 4 5) }

/-! ### Hypotheses that are met -/

theorem noRecord_of_nil {s : State} (h : s.attrs = []) (l : Loc) (n : Nat) : s.NoRecord l n :=
  fun _ _ ⟨x, hx, _⟩ => by rw [h] at hx; cases hx

theorem witness_AluResults : base.Plain ∧ base.p 0 = true := ⟨⟨rfl, rfl⟩, rfl⟩

theorem witness_ImmediatesAndShiftAmounts :
    base.HasImmediate 63 63 ∧ (63 : Word).toNat < 64 ∧ baseExt.HasImmediate 0 8192 ∧
      base.InUser ∧ base.HasImmediate 64 64 ∧ 64 ≤ (64 : Word).toNat :=
  ⟨⟨rfl, .inl ⟨rfl, rfl⟩⟩, by decide, ⟨rfl, .inr ⟨1, 0x7FFC, rfl, rfl⟩⟩, ⟨rfl, rfl⟩, ⟨rfl, .inl ⟨rfl, rfl⟩⟩, by decide⟩

theorem witness_PredicateResults :
    base.Plain ∧ base.p 0 = true ∧ base.CDrained ∧ (queued .c (.regA 1)).Plain ∧ (queued .c (.regA 1)).p 0 = true ∧
      ¬ (queued .c (.regA 1)).CDrained :=
  ⟨⟨rfl, rfl⟩, rfl, ⟨rfl, rfl, rfl, rfl⟩, ⟨rfl, rfl⟩, rfl, fun h => absurd h.1 (by decide)⟩

theorem witness_FalseGuardSkips :
    guardOf (.add 1 2 3 1) = some 1 ∧ (Instr.add 1 2 3 1).legal = true ∧ base.Plain ∧ base.p 1 = false :=
  ⟨rfl, rfl, ⟨rfl, rfl⟩, rfl⟩

theorem witness_BranchTargets :
    base.HasOffset 3 3 ∧ base.p 1 = false ∧ baseExt.HasOffset 0 524288 ∧ ¬ ((1 : BitVec 3) = 0 ∧ (1 : BitVec 1) = 1) ∧
      ¬ ((1 : BitVec 3) = 0 ∧ (0 : BitVec 1) = 1) ∧ (base.setP 1 true).HasOffset 3 3 ∧ (base.setP 1 true).p 1 = true :=
  ⟨⟨rfl, .inl ⟨rfl, rfl⟩⟩, rfl, ⟨rfl, .inr ⟨1, 0x7FFC, rfl, rfl⟩⟩, by decide, by decide, ⟨rfl, .inl ⟨rfl, rfl⟩⟩, rfl⟩

theorem witness_RegisterJumps :
    (baseG 1 0x100).Plain ∧ (baseG 1 0x100).p 0 = true ∧ ((baseG 1 0x100).g 1).toNat % 4 = 0 ∧
      (baseG 1 0x102).Plain ∧ (baseG 1 0x102).p 0 = true ∧ ((baseG 1 0x102).g 1).toNat % 4 ≠ 0 ∧ (baseG 1 0x102).InUser :=
  ⟨⟨rfl, rfl⟩, rfl, rfl, ⟨rfl, rfl⟩, rfl, by decide, ⟨rfl, rfl⟩⟩

/-- Room in the queue, and a write of each kind at the head of one whose engine executes it. -/
theorem witness_EngineRegisterWrites :
    (∀ e : Eng, base.QueueOpen e) ∧ base.Plain ∧ base.p 0 = true ∧
      ∀ e k, ((queued e k).cur.eng e).queue = [⟨k, 0, fetchAddr, 5, 0, 0, 0⟩] ∧ ((queued e k).cur.eng e).outer = none ∧
        ((queued e k).cur.eng e).stat = .ready ∧ (queued e k).engineHeld = false :=
  ⟨fun e => by cases e <;> exact ⟨by decide, rfl⟩, ⟨rfl, rfl⟩, rfl, fun e k => by cases e <;> exact ⟨rfl, rfl, rfl, rfl⟩⟩

/-- Channel 7 with room, full and before an earlier access has performed; channel 1 with a pip and without. -/
theorem witness_PipWords :
    base.InUser ∧ base.Plain ∧ base.p 0 = true ∧ base.memPending = false ∧ base.SysQuiet ∧ (base.cur.pip 7).length < 16 ∧ base.cur.pip 1 = [] ∧
      (∃ s : State, s.InUser ∧ s.Plain ∧ s.p 0 = true ∧ s.memPending = false ∧ s.SysQuiet ∧ 16 ≤ (s.cur.pip 7).length ∧ s.cur.pip 1 = [5]) ∧
      (pendingMem.InUser ∧ pendingMem.Plain ∧ pendingMem.p 0 = true ∧ ¬ (pendingMem.memPending = false ∧ pendingMem.SysQuiet)) :=
  ⟨⟨rfl, rfl⟩, ⟨rfl, rfl⟩, rfl, rfl, ⟨rfl, rfl⟩, by decide, rfl,
    ⟨base.onCore fun c => { c with pips := [(1, [5]), (7, List.replicate 16 0)] }, ⟨rfl, rfl⟩, ⟨rfl, rfl⟩, rfl, rfl, ⟨rfl, rfl⟩, by decide, rfl⟩,
    ⟨rfl, rfl⟩, ⟨rfl, rfl⟩, rfl, fun h => absurd h.1 (by decide)⟩

theorem witness_TokenWords :
    (∀ t, (withTok t).InUser ∧ (withTok t).Plain ∧ (withTok t).p 0 = true ∧ (withTok t).cur.tok 3 = t) :=
  fun _ => ⟨⟨rfl, rfl⟩, ⟨rfl, rfl⟩, rfl, rfl⟩

theorem witness_SystemRegisterAccess :
    base.Plain ∧ base.InUser ∧ base.CDrained ∧ (∃ l, base.launchOf base.agent = some l) ∧
      (∃ b l, base.cur.binding = some b ∧ Cells.find? base.launches b.launch = some l) ∧
      husk.Plain ∧ husk.inHusk = true ∧ (∃ b l, husk.cur.binding = some b ∧ Cells.find? husk.launches b.launch = some l) ∧
      (queued .c (.regA 1)).Plain ∧ ¬ (queued .c (.regA 1)).CDrained :=
  ⟨⟨rfl, rfl⟩, ⟨rfl, rfl⟩, ⟨rfl, rfl, rfl, rfl⟩, ⟨_, rfl⟩, ⟨_, _, rfl, rfl⟩, ⟨rfl, rfl⟩, rfl, ⟨_, _, rfl, rfl⟩, ⟨rfl, rfl⟩,
    fun h => absurd h.1 (by decide)⟩

theorem witness_HuskIssueControl :
    husk.Plain ∧ husk.p 0 = true ∧ husk.inHusk = true ∧ husk.pc.getLsbD 2 = false ∧ (husk.onCtx fun c => c.goto 4).pc.getLsbD 2 = true ∧
      (∃ c : Core, c.pairAct = some (.share 3, 4)) ∧ (∃ c : Core, c.pairAct = some (.yield, 4)) ∧
      base.Plain ∧ base.p 0 = true ∧ base.InUser :=
  ⟨⟨rfl, rfl⟩, rfl, rfl, by decide, by decide, ⟨{ Core.reset with pairAct := some (.share 3, 4) }, rfl⟩,
    ⟨{ Core.reset with pairAct := some (.yield, 4) }, rfl⟩, ⟨rfl, rfl⟩, rfl, ⟨rfl, rfl⟩⟩

theorem witness_SoftwareTraps : base.InUser ∧ base.HasImmediate 5 5 ∧ base.Plain ∧ base.p 0 = true :=
  ⟨⟨rfl, rfl⟩, ⟨rfl, .inl ⟨rfl, rfl⟩⟩, ⟨rfl, rfl⟩, rfl⟩

/-- In the handler with an aligned and with a misaligned target, and outside it. -/
theorem witness_HandlerReturn :
    base.InUser ∧ base.Plain ∧ base.p 0 = true ∧ base.cur.handler = false ∧
      (∀ v, (inHandler v).InUser ∧ (inHandler v).Plain ∧ (inHandler v).cur.handler = true ∧ (inHandler v).ctx.expired = none) ∧
      ((inHandler 0x100).g 1).toNat % 4 = 0 ∧ ((inHandler 0x102).g 1).toNat % 4 ≠ 0 :=
  ⟨⟨rfl, rfl⟩, ⟨rfl, rfl⟩, rfl, rfl, fun _ => ⟨⟨rfl, rfl⟩, ⟨rfl, rfl⟩, rfl, rfl⟩, rfl, by decide⟩

theorem witness_TrapToHuskIsRecorded :
    base.InUser ∧ base.Plain ∧ base.agent < 256 ∧ ¬ base.HandlerTakes 0x01 ∧ base.partOf base.agent = some 0 ∧
      Cells.find? base.parts 0 = some fetchPart :=
  ⟨⟨rfl, rfl⟩, ⟨rfl, rfl⟩, by decide, fun h => absurd rfl h.2.1, rfl, rfl⟩

theorem rotated_nil {α : Type} (k : Nat) : rotated k ([] : List α) = [] := by simp [rotated]

theorem atLevel_of_ready {s : State} {v : Nat} {l : List (Nat × Launch)}
    (h : s.atLevel 0 v = [] ++ rotated (Config.freeNat s.fresh 201) [] ++ [] ++ l) : s.atLevel 0 v = l := by
  rw [h, rotated_nil]; rfl

theorem base_keeps : base.yieldsTo 0 fetchGang = none := by
  have h : base.yieldsTo 0 fetchGang = (List.find? (fun (x : Nat × Launch) => x.2.state == .ready &&
      (base.placeWithout fetchPart x.2 []).isNone && (base.placeWithout fetchPart x.2 [0]).isSome)
      (base.atLevel 0 3 ++ (base.atLevel 0 2 ++ (base.atLevel 0 1 ++ (base.atLevel 0 0 ++ []))))).map fun x => x.1 := rfl
  rw [h, atLevel_of_ready (v := 3) (l := []) rfl, atLevel_of_ready (v := 2) (l := []) rfl, atLevel_of_ready (v := 1) (l := []) rfl,
    atLevel_of_ready (v := 0) (l := []) rfl]
  rfl

/-- Each clause of HALT, GEND and YIELD; a launch of a higher level that is ready and whose place the gang of core 0 holds. -/
theorem witness_RetireAndYield :
    base.Plain ∧ base.p 0 = true ∧ base.InUser ∧ base.ctx.stat ≠ .waiting .guardEnd ∧ base.cur.capturing = false ∧
      base.memPending = false ∧ pendingMem.Plain ∧ pendingMem.InUser ∧ pendingMem.cur.capturing = false ∧ pendingMem.memPending = true ∧
      (base.onCore fun c => { c with capC := ⟨2, 0⟩ }).cur.capturing = true ∧ husk.Plain ∧ husk.inHusk = true ∧
      (∃ g b, base.gangOf base.agent = some g ∧ base.cur.binding = some b ∧ base.yieldsTo b.gang g = none ∧ g.state = .bound ∧
        (g.members.all fun m => !(base.core m).surrogate) = true) :=
  ⟨⟨rfl, rfl⟩, rfl, ⟨rfl, rfl⟩, by decide, rfl, rfl, ⟨rfl, rfl⟩, ⟨rfl, rfl⟩, rfl, rfl, rfl, ⟨rfl, rfl⟩, rfl,
    fetchGang, ⟨0, 0, 0⟩, rfl, rfl, base_keeps, rfl, rfl⟩

theorem witness_PrefixWords :
    base.who = .s ∧ base.Plain ∧ baseExt.InUser ∧ baseExt.ctx.pend = none ∧ baseExt.ctx.pfx = .ext 1 0x7FFC ∧
      (∀ e : Eng, ∃ s : State, s.who = e.seq ∧ (s.cur.eng e).queue = [⟨.word, 0xC0000001, 0, 0, 0, 0, 0⟩] ∧
        (s.cur.eng e).outer = none ∧ (s.cur.eng e).inner = none) ∧
      ∃ s : State, s.who = .c ∧ s.cur.c.loopMem[s.cur.c.lp]? = some ⟨.word, 0xC0000001, 0, 0, 0, 0, 0⟩ ∧
        s.cur.c.outer = some ⟨2, 0, 0, 2⟩ ∧ s.cur.c.inner = none ∧ s.cur.c.lp + 1 < 2 :=
  ⟨rfl, ⟨rfl, rfl⟩, ⟨rfl, rfl⟩, rfl, rfl, fun e =>
    ⟨{ (base.onEng e fun x => { x with queue := [⟨.word, 0xC0000001, 0, 0, 0, 0, 0⟩] }) with turn := .seq 0 e.seq },
      by cases e <;> exact ⟨rfl, rfl, rfl, rfl⟩⟩,
    { (base.onEng .c fun x => { x with
        outer := some ⟨2, 0, 0, 2⟩, loopMem := [⟨.word, 0xC0000001, 0, 0, 0, 0, 0⟩, ⟨.word, 0, 4, 0, 0, 0, 0⟩] }) with turn := .seq 0 .c },
    rfl, rfl, rfl, rfl, by decide⟩

/-- S with as many loads of host memory outstanding as it may have. -/
def fullOfLoads : State :=
  { withSys 0x40000000 with
    sys := (List.range 64).map fun i => (i, .load 0 false [(.host 0, 0x40000000, 8)] [] 3 false false false) }

/-- Package memory, host memory, with room and without, the surrogate phase, and an unmapped address. -/
theorem witness_LoadResults :
    (baseG 1 0x20000).HasDisp 1 1 ∧ (baseG 1 0x20000).surrogateNow = false ∧ (baseG 1 0x20000).cur.raceMode = 0 ∧ (baseG 1 0x20000).coreFull = false ∧
      (baseG 1 0x20000).checkAll ((baseG 1 0x20000).whoS false) .read (partsOf 8 8 0x20008 8) = .ok [(.pkg 0x20008, 0x20008, 8)] ∧
      (∀ k, (baseG 1 0x20000).copyOf (.pkg 0x20008) k = none) ∧ (baseG 1 0x20000).NoRecord (.pkg 0x20008) 8 ∧
      (withSys 0x40000000).checkAll ((withSys 0x40000000).whoS false) .read (partsOf 8 8 0x40000000 8) =
        .ok [(.host 0, 0x40000000, 8)] ∧ (withSys 0x40000000).loadsFull = false ∧ (withSys 0x40000000).coreFull = false ∧
      fullOfLoads.loadsFull = true ∧
      (fullCore.HasDisp 0 0 ∧ fullCore.cur.raceMode = 0 ∧ fullCore.coreFull = true ∧
        fullCore.checkAll (fullCore.whoS false) .read (partsOf 8 8 0x20000 8) = .ok [(.pkg 0x20000, 0x20000, 8)]) ∧
      ((guarded 0x20000).HasDisp 0 0 ∧ (guarded 0x20000).surrogateNow = true ∧ (guarded 0x20000).cur.raceMode = 0 ∧
        (guarded 0x20000).coreFull = false ∧ (∀ k, (guarded 0x20000).copyOf (.pkg 0x20000) k = none) ∧ (guarded 0x20000).NoRecord (.pkg 0x20000) 8 ∧
        (guarded 0x20000).checkAll ((guarded 0x20000).whoS false) .read (partsOf 8 8 0x20000 8) = .ok [(.pkg 0x20000, 0x20000, 8)]) ∧
      base.InUser ∧ base.checkAll (base.whoS false) .read (partsOf 8 8 0x40000000 8) = .error (some (xlateFlt 0x40000000 2 .read)) :=
  ⟨⟨rfl, .inl ⟨rfl, rfl⟩⟩, rfl, rfl, rfl, rfl, fun _ => rfl, noRecord_of_nil rfl _ _, rfl, rfl, rfl, by decide,
    ⟨⟨rfl, .inl ⟨rfl, rfl⟩⟩, rfl, by decide +kernel, rfl⟩,
    ⟨⟨rfl, .inl ⟨rfl, rfl⟩⟩, rfl, rfl, rfl, fun _ => rfl, noRecord_of_nil rfl _ _, rfl⟩, ⟨rfl, rfl⟩, rfl⟩

theorem contended_none : contended.placeWithout onePod eightCores [] = none := by
  have h : ∀ k, placeGang k 8 0 [0] (contended.freeWithout []) = none := by
    intro k
    have : ([0].filter fun p => decide (8 ≤ ((List.range 8).map (fun i => 8 * p + i) |>.filter (contended.freeWithout [])).length)) = [] :=
      by decide
    simp [placeGang, this, rotated]
  exact h _

theorem contended_some : (contended.placeWithout onePod eightCores [0]).isSome = true := by
  have h : ∀ k, (placeGang k 8 0 [0] (contended.freeWithout [0])).isSome = true := by
    intro k
    have : ([0].filter fun p => decide (8 ≤ ((List.range 8).map (fun i => 8 * p + i) |>.filter (contended.freeWithout [0])).length)) = [0] :=
      by decide
    simp [placeGang, this, rotated, Nat.mod_one]
  exact h _

theorem contended_yields : contended.yieldsTo 0 fetchGang = some 1 := by
  have h : contended.yieldsTo 0 fetchGang = (List.find? (fun (x : Nat × Launch) => x.2.state == .ready &&
      (contended.placeWithout onePod x.2 []).isNone && (contended.placeWithout onePod x.2 [0]).isSome)
      (contended.atLevel 0 3 ++ (contended.atLevel 0 2 ++ (contended.atLevel 0 1 ++ (contended.atLevel 0 0 ++ []))))).map
        fun x => x.1 := rfl
  rw [h, atLevel_of_ready (v := 3) (l := []) rfl, atLevel_of_ready (v := 2) (l := []) rfl, atLevel_of_ready (v := 1) (l := []) rfl,
    atLevel_of_ready (v := 0) (l := [(1, eightCores)]) rfl]
  simp only [List.nil_append, List.append_nil]
  rw [List.find?_cons_of_pos (by rw [contended_none, contended_some]; decide)]
  rfl

theorem witness_Yield :
    contended.InUser ∧ contended.Plain ∧ contended.p 0 = true ∧ contended.gangOf contended.agent = some fetchGang ∧
      contended.cur.binding = some ⟨0, 0, 0⟩ ∧ contended.yieldsTo 0 fetchGang = some 1 ∧ fetchGang.state = .bound ∧
      (fetchGang.members.all fun m => !(contended.core m).surrogate) = true ∧ contended.agent ∈ contended.membersOf fetchGang :=
  ⟨⟨rfl, rfl⟩, ⟨rfl, rfl⟩, rfl, rfl, rfl, contended_yields, rfl, rfl, by decide⟩

/-- A store in package memory, in host memory and in the surrogate phase, and one that traps. -/
theorem witness_StoreResults :
    (baseG 1 0x20000).HasDisp 0 0 ∧ (baseG 1 0x20000).cur.raceMode = 0 ∧ (baseG 1 0x20000).cur.surrogate = false ∧
      (baseG 1 0x20000).checkAll ((baseG 1 0x20000).whoS false) .write (partsOf 8 4 0x20000 4) = .ok [(.pkg 0x20000, 0x20000, 4)] ∧
      (baseG 1 0x20000).coreFull = false ∧ (withSys 0x40000000).coreFull = false ∧ (withSys 0x40000000).HasDisp 0 0 ∧
      (withSys 0x40000000).checkAll ((withSys 0x40000000).whoS false) .write (partsOf 8 4 0x40000000 4) =
        .ok [(.host 0, 0x40000000, 4)] ∧ (withSys 0x40000000).storesFull = false ∧
      (guarded 0x20000).HasDisp 0 0 ∧ (guarded 0x20000).cur.surrogate = true ∧ (guarded 0x20000).who = .s ∧
      (guarded 0x20000).checkAll ((guarded 0x20000).whoS false) .write (partsOf 8 4 0x20000 4) = .ok [(.pkg 0x20000, 0x20000, 4)] ∧
      (guarded 0x20000).guardRoom (guarded 0x20000).agent [(.pkg 0x20000, 0x20000, 4)] = true ∧
      base.InUser ∧ base.checkAll (base.whoS false) .write (partsOf 8 4 0x40000000 4) = .error (some (xlateFlt 0x40000000 2 .write)) :=
  ⟨⟨rfl, .inl ⟨rfl, rfl⟩⟩, rfl, rfl, rfl, rfl, rfl, ⟨rfl, .inl ⟨rfl, rfl⟩⟩, rfl, rfl, ⟨rfl, .inl ⟨rfl, rfl⟩⟩, rfl, rfl, rfl, by decide,
    ⟨rfl, rfl⟩, rfl⟩

theorem witness_OrderingAccesses :
    (baseG 1 0x20000).HasDisp 0 0 ∧ (baseG 1 0x20000).cur.surrogate = false ∧ (baseG 1 0x20000).cur.raceMode = 0 ∧
      (baseG 1 0x20000).coreFull = false ∧ pendingMem.coreFull = false ∧ (0x20000 : Word).toNat % 2 ^ (3 : BitVec 2).toNat = 0 ∧
      (baseG 1 0x20000).check ((baseG 1 0x20000).whoS true) .read 0x20000 = .ok (.pkg 0x20000) ∧
      (∀ k, (baseG 1 0x20000).copyOf (.pkg 0x20000) k = none) ∧
      (baseG 1 0x20000).check ((baseG 1 0x20000).whoS true) .write 0x20000 = .ok (.pkg 0x20000) ∧
      (baseG 1 0x20000).memPending = false ∧ (baseG 1 0x20000).cur.comb = [] ∧ (baseG 1 0x20000).sysPending = false ∧
      (baseG 1 0x20000).NoRecord (.pkg 0x20000) 8 ∧ pendingMem.HasDisp 0 0 ∧ pendingMem.cur.surrogate = false ∧ pendingMem.cur.raceMode = 0 ∧ pendingMem.memPending = true ∧
      (baseG 1 0x20001).InUser ∧ (0x20001 : Word).toNat % 2 ^ (1 : BitVec 2).toNat ≠ 0 :=
  ⟨⟨rfl, .inl ⟨rfl, rfl⟩⟩, rfl, rfl, rfl, rfl, rfl, rfl, fun _ => rfl, rfl, rfl, rfl, rfl, noRecord_of_nil rfl _ _, ⟨rfl, .inl ⟨rfl, rfl⟩⟩, rfl, rfl, rfl, ⟨rfl, rfl⟩,
    by decide⟩

theorem witness_AtomicResults :
    (0 : BitVec 3).toNat ≤ 1 ∧ (1 : BitVec 3).toNat ≤ 1 ∧ (∀ n ∈ [4, 8, 128], (baseG 1 0x20000).AtomicReady 0x20000 n (.pkg 0x20000)) ∧
      (baseG 1 0x20000).recMode (((baseG 1 0x20000).partOf (baseG 1 0x20000).agent).getD 0) = 0 ∧
      (baseG 1 0x20002).InUser ∧ (baseG 1 0x20002).Plain ∧ ((baseG 1 0x20002).g 1).toNat % sizeBytes 0 ≠ 0 :=
  ⟨by decide, by decide, fun n h => by
    simp only [List.mem_cons, List.not_mem_nil, or_false] at h
    rcases h with rfl | rfl | rfl <;> exact ⟨⟨rfl, rfl⟩, rfl, rfl, rfl, rfl, rfl, noRecord_of_nil rfl _ _, rfl⟩, rfl, ⟨rfl, rfl⟩, ⟨rfl, rfl⟩, by decide⟩

/-- A RED at issue, with room and without; at its home, outside a recording, in one, and in a replay before and at its turn. -/
theorem witness_ReductionsAreSent :
    (∀ n ∈ [4, 8, 128], (baseG 1 0x20000).AtomicReady 0x20000 n (.pkg 0x20000)) ∧
      (fullCore.Plain ∧ fullCore.surrogateNow = false ∧ fullCore.cur.raceMode = 0 ∧ (fullCore.g 1).toNat % 128 = 0 ∧
        fullCore.check (fullCore.whoS true) .atomic (fullCore.g 1) = .ok (.pkg 0x20000) ∧ fullCore.coreFull = true) ∧
      (∀ fn m es, (redAt fn m es).reqs = [(0, redReq fn 4 5)] ∧ (redAt fn m es).redBehind 0 (redReq fn 4 5) = false ∧
        (redAt fn m es).reqTurn (redReq fn 4 5) = true ∧ (redAt fn m es).reqPlace (redReq fn 4 5) = .ok (redReq fn 4 5).loc ∧
        (redReq fn 4 5).loc.isSystem = false ∧ (redAt fn m es).eccAt (redReq fn 4 5).loc (redReq fn 4 5).va = none ∧
        ((redAt fn m es).core (redReq fn 4 5).core).raceMode = 0) ∧
      ((redAt 9 0 []).recMode ((redAt 9 0 []).reqPart (redReq 9 4 5)) = 0 ∧ (redAt 9 0 []).faddGo 0 1024 [1] = true) ∧
      ((redAt 9 1 []).recMode ((redAt 9 1 []).reqPart (redReq 9 4 5)) = 1 ∧ (redAt 9 1 []).recRoom 1 = true) ∧
      ((redAt 9 2 []).recMode ((redAt 9 2 []).reqPart (redReq 9 4 5)) = 2 ∧
        (redAt 9 2 []).faddGo ((redAt 9 2 []).reqPart (redReq 9 4 5)) (faddLine (redReq 9 4 5).va) (redReq 9 4 5).key = false) ∧
      (redAt 9 2 [.fadd 1024 [1] 0]).faddGo ((redAt 9 2 []).reqPart (redReq 9 4 5)) (faddLine (redReq 9 4 5).va) (redReq 9 4 5).key = true :=
  ⟨fun n h => by
    simp only [List.mem_cons, List.not_mem_nil, or_false] at h
    rcases h with rfl | rfl | rfl <;> exact ⟨⟨rfl, rfl⟩, rfl, rfl, rfl, rfl, rfl, noRecord_of_nil rfl _ _, rfl⟩,
    ⟨⟨rfl, rfl⟩, rfl, rfl, rfl, rfl, by decide +kernel⟩, fun _ _ _ => ⟨rfl, rfl, rfl, rfl, rfl, rfl, rfl⟩, ⟨rfl, rfl⟩, ⟨rfl, rfl⟩,
    ⟨rfl, by decide⟩, by decide⟩

/-- An AOSEQ at issue, and at its home in order, late and early. -/
theorem witness_OrderedAtomics :
    (baseG 1 0x20000).Plain ∧ (baseG 1 0x20000).surrogateNow = false ∧ (baseG 1 0x20000).cur.raceMode = 0 ∧
      ((baseG 1 0x20000).g 1).toNat % 16 = 0 ∧
      (baseG 1 0x20000).check ((baseG 1 0x20000).whoS true) .atomic 0x20000 = .ok (.pkg 0x20000) ∧ (baseG 1 0x20000).coreFull = false ∧
      (ordReq.buffered = false ∧ ordReq.dead = false ∧ ordReq.refused = false ∧ ordReq.size = 4) ∧
      (∀ v ∈ [(0 : Byte), 1, 2], (ordered v).aoseqs = [(0, ordReq)] ∧ (ordered v).aoseqPlace ordReq = .ok (.pkg 0x20000) ∧
        ((ordered v).core ordReq.core).raceMode = 0 ∧ (ordered v).natAt (.pkg 0x20000) 8 = v.toNat) ∧ ordReq.n.toNat = 1 :=
  ⟨⟨rfl, rfl⟩, rfl, rfl, rfl, rfl, rfl, ⟨rfl, rfl, rfl, rfl⟩, fun v h => by
    simp only [List.mem_cons, List.not_mem_nil, or_false] at h
    rcases h with rfl | rfl | rfl <;> exact ⟨rfl, rfl, rfl, by decide⟩, rfl⟩

/-- Core 0 with the range of two lines in g1 and g2. -/
def ranged : State := (baseG 1 0x20000).setG 2 256

/-- Core 0 with a line of package memory in the shared cache, and with a line of host memory. -/
def resident : State := { (baseG 1 0x20000).setG 2 64 with attrs := [(1024, ⟨1, [], true, 0, 0, 0, none⟩)] }
def hostLine : State := (withSys 0x40000000).setG 2 64

/-- The one leaf that walks of the lines of the range give. -/
def rangedLeaf : TlbEntry := ⟨0, false, 0, 0, 2, 0x3F, false⟩

theorem ranged_walks (n : Nat) (h1 : 1024 ≤ n) (h2 : n ≤ 1025) :
    ranged.walkEntry 0 false (BitVec.ofNat 64 (128 * n)) = some rangedLeaf := by
  obtain rfl | rfl : n = 1024 ∨ n = 1025 := by omega
  · rfl
  · rfl

/-- While CACHEOP goes over the range, whatever its walks have left in the TLBs, its lines translate. -/
theorem ranged_translates (u : State) (h : ranged.UpToCaches 1024 1025 u) (n : Nat) (h1 : 1024 ≤ n) (h2 : n ≤ 1025) :
    ∃ l, u.translate 0 true .read (BitVec.ofNat 64 (128 * n)) = .ok l := by
  obtain ⟨hu, hc, -, ht⟩ := h
  have hb : (u.core 0).binding = some ⟨0, 0, 0⟩ := congrArg Core.binding (hc 0)
  have hl : u.launches = [(0, fetchLaunch fetchAddr)] := by rw [hu]; rfl
  have hp : u.parts = [(0, fetchPart)] := by rw [hu]; rfl
  have hpart : u.partOf 0 = some 0 := by simp [State.partOf, State.launchOf, hb, hl, Cells.find?, fetchLaunch]
  have hx : ∀ x ∈ u.tlbOf 0, x = rangedLeaf := fun x hx => by
    rcases ht 0 x hx with h | ⟨m, m1, m2, e⟩
    · exact absurd h List.not_mem_nil
    · rw [show ranged.agent = 0 from rfl, show ranged.inHusk = false from rfl, ranged_walks m m1 m2] at e
      exact (Option.some.inj e).symm
  have hw : u.walkEcc 4096 (BitVec.ofNat 64 (128 * n)) = none ∧ u.walkLeaf 4096 (BitVec.ofNat 64 (128 * n)).toNat = .ok (2, 0x3F) := by
    have hm : u.mem = ranged.mem := by rw [hu]
    have hk : u.poison = ranged.poison := by rw [hu]
    unfold State.walkEcc State.walkLeaf
    rw [hm, hk]
    obtain rfl | rfl : n = 1024 ∨ n = 1025 := by omega
    · exact ⟨rfl, rfl⟩
    · exact ⟨rfl, rfl⟩
  have hleaf : u.leafFor 0 0 fetchPart false .read (BitVec.ofNat 64 (128 * n)) = .ok (2, 0x3F) := by
    unfold State.leafFor
    rw [show fetchPart.tables false = 4096 from rfl, hw.1, hw.2]
    have hm : ∀ x ∈ tlbMatches (u.tlbOf 0) 0 false fetchPart.asid (BitVec.ofNat 64 (128 * n)).toNat, x = rangedLeaf :=
      fun x h => hx x (List.mem_of_mem_filter h)
    revert hm
    generalize tlbMatches (u.tlbOf 0) 0 false fetchPart.asid (BitVec.ofNat 64 (128 * n)).toNat = L
    intro hm
    cases L with
    | nil => rfl
    | cons e es =>
      dsimp only
      cases hi : (e :: es)[Config.freeNat u.fresh ((BitVec.ofNat 64 (128 * n)).toNat / 4096) % (es.length + 2)]? with
      | none => rfl
      | some x => rw [hm x (List.mem_of_getElem? hi)]; rfl
  refine ⟨.pkg (128 * n), ?_⟩
  unfold State.translate State.translateIn
  rw [hpart, hp]
  have hf : Cells.find? [(0, fetchPart)] 0 = some fetchPart := rfl
  simp only [hf, Bool.not_true, hleaf]
  obtain rfl | rfl : n = 1024 ∨ n = 1025 := by omega
  · rfl
  · rfl

/-- Nothing outstanding, an access outstanding, before and after the barrier of FENCE.FAB; an empty range, one of two lines, one in the
scratch window, and one line, resident and of host memory. -/
theorem witness_FencesAndCacheOperations :
    base.Plain ∧ base.p 0 = true ∧ base.surrogateNow = false ∧ base.memPending = false ∧ base.cur.comb = [] ∧ base.sysPending = false ∧
      pendingMem.Plain ∧ pendingMem.memPending = true ∧ pendingMem.cur.comb = [] ∧ base.ctx.wait ≠ some .fence ∧
      (base.await .fence).Plain ∧ (base.await .fence).ctx.wait = some .fence ∧ (base.await .fence).fencePending = false ∧
      base.g 2 = 0 ∧ (ranged.g 2 ≠ 0 ∧ (ranged.g 1).toNat / 128 = 1024 ∧ ((ranged.g 1).toNat + (ranged.g 2).toNat - 1) / 128 = 1025 ∧
        ranged.attrs = [] ∧ (∀ n, 1024 ≤ n → n ≤ 1025 → ranged.repFault (BitVec.ofNat 64 (128 * n)) = none ∧
          ∀ u, ranged.UpToCaches 1024 1025 u → ∃ l, u.translate ranged.agent (!ranged.inHusk) .read (BitVec.ofNat 64 (128 * n)) = .ok l)) ∧
      (scratchBase ≤ 128 * 0x1FFFFFFFF0000 ∧ 128 * 0x1FFFFFFFF0000 < 2 ^ 56) ∧
      (resident.g 2 ≠ 0 ∧ (resident.g 1).toNat / 128 = ((resident.g 1).toNat + (resident.g 2).toNat - 1) / 128 ∧ (resident.g 1).toNat < 2 ^ 55 ∧
        resident.translate resident.agent (!resident.inHusk) .read (BitVec.ofNat 64 (128 * ((resident.g 1).toNat / 128))) = .ok (.pkg 0x20000) ∧
        resident.repFault (BitVec.ofNat 64 (128 * ((resident.g 1).toNat / 128))) = none ∧
        ∃ x, Cells.find? resident.attrs (Loc.key (.pkg 0x20000) / 128) = some x ∧ x.pins = []) ∧
      (hostLine.g 2 ≠ 0 ∧ (hostLine.g 1).toNat / 128 = ((hostLine.g 1).toNat + (hostLine.g 2).toNat - 1) / 128 ∧ (hostLine.g 1).toNat < 2 ^ 55 ∧
        hostLine.translate hostLine.agent (!hostLine.inHusk) .read (BitVec.ofNat 64 (128 * ((hostLine.g 1).toNat / 128))) = .ok (.host 0) ∧
        hostLine.repFault (BitVec.ofNat 64 (128 * ((hostLine.g 1).toNat / 128))) = none) :=
  ⟨⟨rfl, rfl⟩, rfl, rfl, rfl, rfl, rfl, ⟨rfl, rfl⟩, rfl, rfl, by decide, ⟨rfl, rfl⟩, rfl, rfl, rfl,
    ⟨by decide, rfl, rfl, rfl, fun n h1 h2 => ⟨by
      obtain rfl | rfl : n = 1024 ∨ n = 1025 := by omega
      · rfl
      · rfl, fun u h => ranged_translates u h n h1 h2⟩⟩, by decide,
    ⟨by decide, rfl, by decide, rfl, rfl, _, rfl, rfl⟩, by decide, rfl, by decide, rfl, rfl⟩

/-- Register values that the A words accept. -/
theorem witness_AsynchronousOperations :
    base.AReady 3 ∧ base.opsFull = false ∧ base.g 3 = 0 ∧ ((base.setG 3 64).AReady 3 ∧ (base.setG 3 64).g 3 ≠ 0 ∧
      ((base.setG 3 64).g 3).toNat < 2 ^ 32 ∧ ((base.setG 3 64).g 3).toNat % 16 = 0) ∧ (base.g 1).toNat ≤ 63 ∧ (base.g 2).toNat < 8 ∧
      (base.g 2).toNat / 256 % 16 = 0 ∧ (base.g 2).toNat / 4096 % 16 ≤ 6 ∧ (base.g 1).toNat % 128 = 0 :=
  ⟨⟨⟨rfl, rfl⟩, rfl, by decide⟩, rfl, rfl, ⟨⟨⟨rfl, rfl⟩, rfl, by decide⟩, by decide, by decide, rfl⟩, by decide, by decide, by decide,
    by decide, rfl⟩

/-- Register values that the A words refuse. -/
theorem witness_IllegalOperands :
    base.InUser ∧ base.Plain ∧ ((baseG 1 8).g 1).toNat % 16 ≠ 0 ∧ 8 ≤ ((baseG 1 8).g 1).toNat ∧ ((baseG 1 8).g 1).toNat % 128 ≠ 0 ∧
      2 ^ 40 ≤ ((baseG 1 0x10000000000).g 1).toNat ∧ 4096 ≤ ((baseG 1 4096).g 1).toNat ∧
      ∀ i th m, (baseG 1 4096).ctx.stat ≠ .waiting (.signal i th m) :=
  ⟨⟨rfl, rfl⟩, ⟨rfl, rfl⟩, by decide, by decide, by decide, by decide, by decide, fun _ _ _ h => by cases h⟩

/-- A TPREF that waits for its X.TWS, with a token in each state. -/
theorem witness_TokenWaitsOfAWords :
    base.Plain ∧ base.InUser ∧
      ∀ t, (waitingA t).InUser ∧ (waitingA t).ctx.pfx = .none ∧ (waitingA t).ctx.pend = some ⟨wordOf (.tpref 5 1 2 1), 0x7FFC⟩ ∧
        ((waitingA t).g 2).toNat < 8 ∧ (waitingA t).cur.tok 3 = t ∧ (waitingA t).cur.tok 5 ≠ .pending ∧ (waitingA t).opsFull = false :=
  ⟨⟨rfl, rfl⟩, ⟨rfl, rfl⟩, fun _ => ⟨⟨rfl, rfl⟩, rfl, rfl, show 0 < 8 by decide, rfl, fun h => (by cases h), rfl⟩⟩

theorem witness_TokenJoins :
    base.AReady 5 ∧ ∀ t, ((withTok t).setG 1 3).AReady 5 ∧ (((withTok t).setG 1 3).g 1).toNat < 64 ∧
      ((withTok t).setG 1 3).cur.tok ((((withTok t).setG 1 3).g 1).setWidth 6) = t :=
  ⟨⟨⟨rfl, rfl⟩, rfl, by decide⟩,
    fun _ => ⟨⟨⟨rfl, rfl⟩, rfl, fun h => (by cases h)⟩, show 3 < 64 by decide, rfl⟩⟩

/-- The first arrival at a barrier of the gang and a second one; arrivals at a fabric barrier that this device counts, and that another
one counts; of words and of COLLX. -/
theorem witness_BarrierArrivals :
    (∀ collx, (withBar Barrier.reset).Arrives 3 ((withBar Barrier.reset).g 1) ⟨0, 0, 0⟩
        { fetchGang with barriers := [(1, Barrier.reset)], arrivals := [(1, 0)] } collx) ∧
      ((withBar Barrier.reset).g 2).toNat % 128 = 0 ∧
      ((withBar Barrier.reset).setG 2 0x20000).check (((withBar Barrier.reset).setG 2 0x20000).whoS true) .read 0x20000 =
        .ok (.pkg 0x20000) ∧
      (∃ g, (withBar { Barrier.reset with count := 0, n := 1 }).Arrives 3 0x10001 ⟨0, 0, 0⟩ g false) ∧
      (∀ m collx, ∃ p, (withFbar m Barrier.reset).ArrivesFabric 3 ((withFbar m Barrier.reset).g 1) ⟨0, 0, 0⟩ fetchGang 0 p collx ∧
        fbMaster (p.fabricBar ((withFbar m Barrier.reset).g 1)).entry = m) ∧
      ∀ m, ((withFbar m Barrier.reset).setG 2 0x20000).check (((withFbar m Barrier.reset).setG 2 0x20000).whoS true) .read 0x20000 =
        .ok (.pkg 0x20000) ∧
        ((withFbar m Barrier.reset).setG 2 0x20000).check (((withFbar m Barrier.reset).setG 2 0x20000).whoS true) .write 0x20000 =
        .ok (.pkg 0x20000) :=
  ⟨fun _ => ⟨⟨⟨rfl, rfl⟩, rfl, by decide⟩, rfl, rfl, rfl, by decide, (fun _ _ h => by cases h),
      (fun h => by cases (show none = some _ from h)), .inl rfl⟩, rfl, rfl,
   ⟨_, ⟨⟨rfl, rfl⟩, rfl, by decide⟩, rfl, rfl, rfl, by decide, (fun _ _ h => by cases h), by decide, .inl rfl⟩,
   fun m collx => ⟨_, ⟨⟨⟨rfl, rfl⟩, rfl, fun h => (by cases h)⟩, rfl, rfl, rfl, rfl, rfl, by decide +revert, by decide +revert, by decide +revert,
     (fun _ _ h => by cases h), rfl, by decide +revert, by decide +revert, by decide +revert, by decide +revert, .inl (by decide +revert)⟩, by decide +revert⟩,
   fun m => by cases m <;> exact ⟨rfl, rfl⟩⟩

theorem witness_PhaseArrival :
    pair.AReady 3 ∧ pair.memPending = false ∧ pair.SysQuiet ∧ (pair.g 1).toNat % 128 = 0 ∧ (pair.g 2).toNat ≤ 15 ∧ pair.cur.binding = some ⟨0, 0, 0⟩ ∧
      ∃ g, Cells.find? pair.gangs 0 = some g ∧ pair.sharesPod 0 g = false ∧ g.round = none ∧ g.members.length ≠ 1 :=
  ⟨⟨⟨rfl, rfl⟩, rfl, by decide⟩, rfl, ⟨rfl, rfl⟩, rfl, by decide, rfl, _, rfl, rfl, rfl, by decide⟩

theorem atBar_get (b : Barrier) : Cells.get Barrier.reset [(1, b)] (((atBar b).g 1).toNat / 65536) = b := by
  rw [show ((atBar b).g 1) = 0x10001 from rfl]; simp [Cells.get]

/-- Two members of a COLLX phase, with their slots in the scratch window of their pod. -/
def collxOf (n : Nat) : Collx :=
  ⟨0, 0x00FFFFFFFF800000, BitVec.ofNat 64 (0x00FFFFFFFF800100 + 256 * n), true, ⟨0, 0, BitVec.ofNat 6 n, 0, 0⟩, 0, 0, 0, n, 0⟩
def collxAt (n : Nat) : Collx × Loc × Loc := (collxOf n, .scratch 0 0x600000, .scratch 0 (0x600100 + 256 * n))

def collxBar : Barrier := { Barrier.reset with n := 2, count := 2, collx := [collxOf 0, collxOf 1] }

theorem collx_places (m) (h : m ∈ [collxAt 0, collxAt 1]) : (withBar collxBar).CollxPlaces m.1 m.2.1 m.2.2 := by
  simp only [List.mem_cons, List.not_mem_nil, or_false] at h
  rcases h with rfl | rfl <;>
    exact ⟨by decide, by decide, by decide, by decide, rfl, by decide +kernel, by decide +kernel, fun _ => by decide +kernel⟩

/-- A complete phase of words, one of COLLX words, one that is not complete, and a wait on both sides of the completion. -/
theorem witness_BarrierCompletion :
    (∃ g, Cells.find? (withBar { Barrier.reset with n := 1, count := 1 }).gangs 0 = some g ∧
      (Cells.get Barrier.reset g.barriers 1).n ≠ 0 ∧
      (Cells.get Barrier.reset g.barriers 1).n ≤ (Cells.get Barrier.reset g.barriers 1).count ∧
      (Cells.get Barrier.reset g.barriers 1).collx = [] ∧ g.state ≠ .released) ∧
    (∃ g, Cells.find? (withBar collxBar).gangs 0 = some g ∧
      (Cells.get Barrier.reset g.barriers 1).n ≤ (Cells.get Barrier.reset g.barriers 1).count ∧
      (Cells.get Barrier.reset g.barriers 1).toks = [] ∧
      (Cells.get Barrier.reset g.barriers 1).collx = [collxAt 0, collxAt 1].map fun m => m.1) ∧
    (∀ m ∈ [collxAt 0, collxAt 1], (withBar collxBar).CollxPlaces m.1 m.2.1 m.2.2) ∧
    [collxAt 0, collxAt 1].Pairwise (fun m o => ∀ p, InDst m p → ¬ InDst o p) ∧
    (∀ b, (withBar b).NoJoins ∧ (atBar b).NoJoins) ∧
    (∀ b, (atBar b).InUser ∧ (atBar b).Plain ∧ (atBar b).cur.binding = some ⟨0, 0, 0⟩ ∧
      (atBar b).ctx.stat = .waiting (.barrier 0x10001 0) ∧ ((atBar b).g 1).toNat < 2 ^ 22 ∧
      ∃ g, Cells.find? (atBar b).gangs 0 = some g ∧ Cells.get Barrier.reset g.barriers (((atBar b).g 1).toNat / 65536) = b) ∧
    (0 < ({ Barrier.reset with phase := 1 } : Barrier).phase ∧ Barrier.reset.phase ≤ 0 ∧ Barrier.reset.isCollx ≠ some true) ∧
    (∀ b, (∀ d p, (withBar b).ctx.stat ≠ .waiting (.barrier d p)) ∧ (withBar b).cur.tok 3 ≠ .pending ∧
      ∃ g, Cells.find? (withBar b).gangs 0 = some g ∧
        Cells.find? g.arrivals (arrivalKey (withBar b).cur.gangRank.toNat ((withBar b).g 1)) = some 0) ∧
    Cells.find? fetchGang.arrivals (arrivalKey base.cur.gangRank.toNat (base.g 1)) = none :=
  ⟨⟨_, rfl, by decide, by decide, rfl, by decide⟩, ⟨_, rfl, by decide, rfl, rfl⟩, collx_places, by
     simp only [List.pairwise_cons, List.mem_cons, List.not_mem_nil, or_false, forall_eq, List.Pairwise.nil, and_true, false_imp_iff, implies_true]
     rintro p ⟨i, hi, e⟩ ⟨j, hj, e'⟩
     rw [e] at e'
     simp [collxAt, collxOf, Loc.plus, Loc.key] at hi hj e'
     omega, fun _ => ⟨fun _ h => (by cases h), fun _ h => (by cases h)⟩,
   fun _ => ⟨⟨rfl, rfl⟩, ⟨rfl, rfl⟩, rfl, rfl, show 0x10001 < 2 ^ 22 by decide, _, rfl, atBar_get _⟩, by decide,
   fun _ => ⟨fun _ _ h => (by cases h), fun h => (by cases h), _, rfl,
     show Cells.find? [(1, 0)] (arrivalKey 0 0x10001) = some 0 by decide⟩, rfl⟩

/-- A signal below, at and above a threshold, and a wait that a write has met. -/
theorem witness_SignalWords :
    (∀ v, (withSig v).InUser ∧ (withSig v).Plain ∧ ((withSig v).g 1).toNat < 4096 ∧ (withSig v).partOf (withSig v).agent = some 0 ∧
      (∃ p, Cells.find? (withSig v).parts 0 = some p ∧ Cells.get Signal.reset p.signals ((withSig v).g 1).toNat = v) ∧
      (withSig v).cur.tok 3 ≠ .pending ∧ (withSig v).memPending = false ∧ (withSig v).NoJoins ∧ (∀ i th m, (withSig v).ctx.stat ≠ .waiting (.signal i th m))) ∧
      (base.g 2).toNat ≤ Signal.reset.val.toNat ∧ Signal.reset.val.toNat < ((base.setG 2 5).g 2).toNat ∧
      ((withSig Signal.reset).await (.signal 0 5 (some 9))).InUser ∧ ((withSig Signal.reset).await (.signal 0 5 (some 9))).Plain ∧
      ((withSig Signal.reset).await (.signal 0 5 (some 9))).ctx.stat = .waiting (.signal 0 5 (some 9)) ∧
      ((withSig Signal.reset).await (.signal 0 5 (some 9))).NoJoins :=
  ⟨fun _ => ⟨⟨rfl, rfl⟩, ⟨rfl, rfl⟩, show 0 < 4096 by decide, rfl, ⟨_, rfl, rfl⟩, fun h => (by cases h), rfl, fun _ h => (by cases h),
    fun _ _ _ h => (by cases h)⟩, by decide, by decide,
    ⟨rfl, rfl⟩, ⟨rfl, rfl⟩, rfl, fun _ h => (by cases h)⟩

theorem witness_CallsAndLaunches :
    (baseG 1 0x20000).AReady 3 ∧ (baseG 1 0x20000).cur.raceMode = 0 ∧ (baseG 1 0x20000).cur.surrogate = false ∧
      (baseG 1 0x20000).memPending = false ∧ (baseG 1 0x20000).SysQuiet ∧ ((baseG 1 0x20000).g 1).toNat % 128 = 0 ∧ ((baseG 1 0x20000).g 2).toNat % 64 = 0 ∧
      ((baseG 1 0x20000).g 3).toNat ≤ 31 ∧
      (∃ ps, (baseG 1 0x20000).checkAll ((baseG 1 0x20000).whoS false) .read [(0x20000, 32), (0x20020, 16)] = .ok ps) ∧
      (∃ x l, (baseG 1 0x20000).cur.binding = some x ∧ Cells.find? (baseG 1 0x20000).launches x.launch = some l ∧
        ∀ q, (baseG 1 0x20000).unstartedIn l.part q < 256) ∧
      (∀ r q v, (baseG 1 0x20000).ctx.stat ≠ .waiting (.launchQueue r q v)) ∧
      (∃ ps, (baseG 1 0x20000).checkAll ((baseG 1 0x20000).whoS false) .read ((List.range 4).map fun i => (0x20000 + 32 * i, 32)) = .ok ps) :=
  ⟨⟨⟨rfl, rfl⟩, rfl, by decide⟩, rfl, rfl, rfl, ⟨rfl, rfl⟩, rfl, rfl, by decide, ⟨_, rfl⟩,
    ⟨_, _, rfl, rfl, fun q => by
      rw [State.unstartedIn, show (baseG 1 0x20000).subs = [] from rfl,
        show (baseG 1 0x20000).launches = [(0, fetchLaunch fetchAddr)] from rfl]
      simp [fetchLaunch]⟩, fun _ _ _ h => (by cases h), ⟨_, rfl⟩⟩

/-- An engine that may go on, and one whose left-in channel is empty. -/
theorem witness_EnginePipsAndAddresses :
    (∀ e, (eng e).EngReady e 0 ∧ (∀ p a, ((eng e).cur.eng e).pfx ≠ .ext p a)) ∧
      (∃ s : State, s.EngReady .c 15 ∧ s.cur.pip 2 = [3]) ∧
      ((eng .c).cur.eng .c).pushes = [] ∧ ((eng .c).cur.eng .c).popped = false ∧ ((eng .c).cur.eng .c).half = false ∧ (eng .c).cur.pip 2 = [] ∧
      (((eng .c).onCore fun c => { c with pips := [(2, [3])] }).cur.pip 2 ≠ [] ∧
        ((eng .c).onCore fun c => { c with pips := [(2, [3])] }).cur.pip 5 = []) ∧
      (∃ s : State, s.EngReady .c 0 ∧ (s.cur.eng .c).pfx = .ext 1 0) :=
  ⟨fun e => ⟨by cases e <;> exact ⟨rfl, rfl, rfl, rfl, by decide, by decide⟩, fun _ _ h => by cases e <;> cases h⟩,
    ⟨(eng .c).onCore fun c => { c with pips := [(2, [3]), (5, [4])] }, ⟨rfl, rfl, rfl, rfl, by decide, by decide⟩, rfl⟩, rfl, rfl, rfl, rfl,
    ⟨by decide, rfl⟩, ⟨(eng .c).onEng .c fun x => { x with pfx := .ext 1 0 }, ⟨rfl, rfl, rfl, rfl, by decide, by decide⟩, rfl⟩⟩

/-- Outside a loop, in an outer body, and at the end of a body. -/
theorem witness_EngineLoops :
    (1 : BitVec 2) ≠ 3 ∧ engOfNum 1 = .c ∧ ((eng .c).cur.eng .c).outer = none ∧ ((eng .c).cur.eng .c).inner = none ∧
      ((eng .c).cur.eng .c).lc0.toNat = 0 ∧
      (∃ s : State, (s.cur.eng .c).outer = some ⟨3, 0, 0, 2⟩ ∧ (s.cur.eng .c).inner = none ∧
        ((Cells.find? (s.cur.eng .c).latched (s.cur.eng .c).lp).getD (4 : BitVec 13).toNat) ≠ 0) ∧
      (∃ s : State, (s.cur.eng .c).outer = some ⟨3, 0, 0, 1⟩ ∧ (s.cur.eng .c).inner = none ∧ (s.cur.eng .c).loopMem.length = 1 ∧
        (s.cur.eng .c).lp + 1 = 1 ∧ s.EngReady .c 0) :=
  ⟨by decide, rfl, rfl, rfl, rfl, ⟨(eng .c).onEng .c fun x => { x with outer := some ⟨3, 0, 0, 2⟩ }, rfl, rfl, by decide⟩,
    ⟨(eng .c).onEng .c fun x => { x with outer := some ⟨3, 0, 0, 1⟩, loopMem := [⟨.word, 0, 0, 0, 0, 0, 0⟩] }, rfl, rfl, rfl, rfl,
      ⟨rfl, rfl, rfl, rfl, by decide, by decide⟩⟩⟩

/-- No shadow record belongs to the granules of a state whose shared cache carries none. -/
theorem noRecords_of_nil {s : State} (h : s.attrs = []) (oks : List (Loc × Nat × Nat)) : s.NoRecords oks :=
  fun _ _ => noRecord_of_nil h _ _

/-- A block of memory and of scratch, one that runs past the window, and a tile, that L reads. -/
theorem witness_EngineLoads :
    (engAt .l 0x30000).EngReady .l 0 ∧ popPips .l (popsOf .l 0) (engAt .l 0x30000) = engAt .l 0x30000 ∧
      (engAt .l 0x30000).cur.surrogate = false ∧ (engAt .l 0x30000).cur.raceMode = 0 ∧ (engAt .l 0x30000).cur.l.offset = 0 ∧
      (∃ oks, (engAt .l 0x30000).plan ((engAt .l 0x30000).whoE .l false) .read
        ((blockPieces ((engAt .l 0x30000).cur.l.getA 1) 64 0).map fun p => (p.va, p.n)) = (oks, none) ∧ (engAt .l 0x30000).NoRecords oks) ∧
      (∃ oks, (inScratch .l).plan ((inScratch .l).whoE .l false) .read
        ((scratchPieces ((inScratch .l).cur.l.getA 1) 64 0).map fun p => (p.va, p.n)) = (oks, none) ∧ (inScratch .l).NoRecords oks) ∧
      scratchTail ((inScratch .l).cur.l.getA 1) 64 = none ∧
      (∃ f, scratchTail ((engAt .l 0x800000).cur.l.getA 1) 64 = some f) ∧
      (∃ oks, (engAt .l 0x800000).plan ((engAt .l 0x800000).whoE .l false) .read
        ((scratchPieces ((engAt .l 0x800000).cur.l.getA 1) 64 0).map fun p => (p.va, p.n)) = (oks, none)) ∧
      (match engTile .l 4 1 1 (engAt .l 0x30000) with
        | .ok (s1, y) =>
          (s1.plan (s1.whoE .l false) .read ((tilePieces y 0 (List.range y.count)).map fun p => (p.va, p.n))).2.isNone
        | .error _ => false) = true :=
  ⟨⟨rfl, rfl, rfl, rfl, by decide, by decide⟩, rfl, rfl, rfl, rfl, ⟨_, rfl, noRecords_of_nil rfl _⟩, ⟨_, rfl, noRecords_of_nil rfl _⟩,
    rfl, ⟨_, rfl⟩, ⟨_, rfl⟩, by decide⟩

/-- Scales that fit, slots that fit, and both queues full. -/
theorem witness_QueueFills :
    streamed.EngReady .l 0 ∧ popPips .l (popsOf .l 0) streamed = streamed ∧
      streamed.cur.raceMode = 0 ∧ streamed.cur.vec.scaleQ.length + 2 * 4 ≤ 64 ∧
      (∃ s1 v, engRecord .l 4 (streamed.cur.l.getA 1) 8 streamed = .ok (s1, v)) ∧
      streamed.cur.vec.fifo.length + 128 ≤ 65536 ∧ streamed.cur.l.offset = 0 ∧
      (match ldfSlot 4 (streamed.cur.l.getA 1).toNat 0 streamed with | .ok _ => true | .error _ => false) = true ∧
      (∃ s : State, s.EngReady .l 0 ∧ s.cur.raceMode = 0 ∧ 64 < s.cur.vec.scaleQ.length + 2 * 4) ∧
      (∃ s : State, s.EngReady .l 0 ∧ s.cur.raceMode = 0 ∧ 65536 < s.cur.vec.fifo.length + 128) :=
  ⟨⟨rfl, rfl, rfl, rfl, by decide, by decide⟩, rfl, rfl, by decide, ⟨_, _, rfl⟩, by decide, rfl, by decide,
    ⟨(eng .l).onVec fun v => { v with scaleQ := List.replicate 64 0 }, ⟨rfl, rfl, rfl, rfl, by decide, by decide⟩, rfl, by decide⟩,
    ⟨(eng .l).onVec fun v => { v with fifo := List.replicate 65536 0 }, ⟨rfl, rfl, rfl, rfl, by decide, by decide⟩, rfl,
      by rw [show ((eng .l).onVec fun v => { v with fifo := List.replicate 65536 0 }).cur.vec.fifo = List.replicate 65536 0 from rfl,
        List.length_replicate]; decide⟩⟩

/-- A block of memory and of scratch, one that runs past the window, a tile and a flag that T writes; a tile that is not clean; a
flag behind a granule of T on its way, and a misaligned one. -/
theorem witness_EngineStores :
    (engAt .t 0x30000).EngReady .t 0 ∧ popPips .t (popsOf .t 0) (engAt .t 0x30000) = engAt .t 0x30000 ∧
      (engAt .t 0x30000).cur.surrogate = false ∧ (engAt .t 0x30000).cur.raceMode = 0 ∧ (engAt .t 0x30000).cur.t.offset = 0 ∧
      (engAt .t 0x30000).cur.tileClean = true ∧
      (∃ oks, (engAt .t 0x30000).plan ((engAt .t 0x30000).whoE .t false) .write
        ((blockPieces ((engAt .t 0x30000).cur.t.getA 1) 64 0).map fun p => (p.va, p.n)) = (oks, none) ∧
        (oks.all fun o => !o.1.isSystem) = true) ∧
      (∃ oks, (inScratch .t).plan ((inScratch .t).whoE .t false) .write
        ((scratchPieces ((inScratch .t).cur.t.getA 1) 64 0).map fun p => (p.va, p.n)) = (oks, none) ∧
        (oks.all fun o => !o.1.isSystem) = true) ∧
      scratchTail ((inScratch .t).cur.t.getA 1) 64 = none ∧
      (∃ f, scratchTail ((engAt .t 0x800000).cur.t.getA 1) 64 = some f) ∧
      (match engTile .t 4 1 1 (engAt .t 0x30000) with
        | .ok (s1, y) =>
          (match s1.plan (s1.whoE .t false) .write
              ((tilePieces y 0 ((List.range y.count).filter y.genuine)).map fun p => (p.va, p.n)) with
           | (oks, none) => oks.all fun o => !o.1.isSystem
           | _ => false)
        | .error _ => false) = true ∧
      (∃ oks, ((engAt .t 0x30000).cur.t.getA 1).toNat % 8 = 0 ∧ (engAt .t 0x30000).tPending = false ∧
        (engAt .t 0x30000).plan ((engAt .t 0x30000).whoE .t true) .write [(((engAt .t 0x30000).cur.t.getA 1).toNat, 8)] = (oks, none)) ∧
      ({ eng .t with sys := [(0, .store 0 (.seq .t) (.host 8) [1])] } : State).tPending = true ∧
      ((engAt .t 0x30001).cur.t.getA 1).toNat % 8 ≠ 0 ∧
      ((eng .t).onCore fun c => { c with tileClean := false }).cur.tileClean = false :=
  ⟨⟨rfl, rfl, rfl, rfl, by decide, by decide⟩, rfl, rfl, rfl, rfl, rfl, ⟨_, rfl, rfl⟩, ⟨_, rfl, rfl⟩, rfl, ⟨_, rfl⟩, by decide,
    ⟨_, rfl, rfl, rfl⟩, by decide, by decide, rfl⟩

/-! ### The vector unit and the array -/

/-- C at an address in a1. -/
def cAt (v : Word) : State := (eng .c).onEng .c fun x => x.setA 1 v

/-- C with the array in a state. -/
def withArr (f : Arr → Arr) : State := (eng .c).onCore fun c => { c with arr := f c.arr }

/-- C with format-table entries 1 (BF16 in, MXFP8 E4M3 out) and 2 (MXFP8 E4M3 in), and two scales. -/
def withFmts : State := (eng .c).onVec fun v => { v with ft := [(1, 0x00FF0382), (2, 0x00000008)], scaleQ := [127, 127] }

theorem engReady_c (v : Word) : (cAt v).EngReady .c 0 := ⟨rfl, rfl, rfl, rfl, by simp [popsOf], by simp [pushesOf]⟩

theorem witness_VectorArithmetic : (eng .c).EngReady .c 0 := ⟨rfl, rfl, rfl, rfl, by decide, by decide⟩

/-- An empty mask and one whose first bit is 0. -/
theorem witness_MaskWords :
    (eng .c).EngReady .c 0 ∧ ((eng .c).cur.vec.mask 1).getLsbD 0 = true ∧
      ∀ j, j < 64 → (((eng .c).onVec fun v => { v with m := [(1, 0)] }).cur.vec.mask 1).getLsbD j = false :=
  ⟨⟨rfl, rfl, rfl, rfl, by decide, by decide⟩, by decide, by decide⟩

theorem witness_MovesAndConversions :
    (eng .c).EngReady .c 0 ∧ (∀ p a, (eng .c).cur.c.pfx ≠ .ext p a) ∧
      (∃ s : State, s.EngReady .c 0 ∧ s.cur.c.pfx = .ext 1 0) :=
  ⟨⟨rfl, rfl, rfl, rfl, by decide, by decide⟩, fun _ _ h => (by cases h),
    ⟨(eng .c).onEng .c fun x => { x with pfx := .ext 1 0 }, ⟨rfl, rfl, rfl, rfl, by decide, by decide⟩, rfl⟩⟩

theorem witness_Reductions : (eng .c).EngReady .c 0 := ⟨rfl, rfl, rfl, rfl, by decide, by decide⟩

/-- An LS address, and the decoder FIFO with and without a vector. -/
theorem witness_LocalStoreWords :
    (∀ v, (cAt v).EngReady .c 0) ∧ ((cAt 0x100).cur.c.getA 1).getLsbD 63 = false ∧
      ((cAt 0x8000000000000000).cur.c.getA 1).getLsbD 63 = true ∧ (cAt 0x8000000000000000).cur.vec.fifo.length < 128 ∧
      128 ≤ ((cAt 0x8000000000000000).onVec fun v => { v with fifo := List.replicate 128 0 }).cur.vec.fifo.length :=
  ⟨engReady_c, by decide, by decide, by decide, by
    change 128 ≤ (List.replicate 128 (0 : Byte)).length; exact Nat.le_of_eq List.length_replicate.symm⟩

theorem witness_TileWords : (eng .c).EngReady .c 0 := ⟨rfl, rfl, rfl, rfl, by decide, by decide⟩

/-- A queue with room, a full one with an active lane, and a drain of two lanes. -/
theorem witness_DeferralWords :
    (eng .c).EngReady .c 0 ∧ (eng .c).cur.vec.deferQ.length + 64 ≤ 1024 ∧
      (∃ s : State, s.EngReady .c 0 ∧ 1024 < s.cur.vec.deferQ.length + 1 ∧ s.cur.surrogate = false ∧ (s.lanes 0).getLsbD 0 = true) ∧
      1 ≤ (2 : BitVec 4).toNat ∧ (2 : BitVec 4).toNat ≤ 4 ∧ (3 : BitVec 4).toNat + (2 : BitVec 4).toNat ≤ 16 ∧
      ¬ ((3 : BitVec 4).toNat ≤ (1 : BitVec 4).toNat ∧ (1 : BitVec 4).toNat < (3 : BitVec 4).toNat + (2 : BitVec 4).toNat) :=
  ⟨⟨rfl, rfl, rfl, rfl, by decide, by decide⟩, by decide,
    ⟨(eng .c).onVec fun v => { v with deferQ := List.replicate 1024 ⟨0, []⟩ }, ⟨rfl, rfl, rfl, rfl, by decide, by decide⟩, by
      change 1024 < (List.replicate 1024 (⟨0, []⟩ : DEntry)).length + 1
      rw [List.length_replicate]; norm_num, rfl, by decide⟩, by decide, by decide, by decide, by decide⟩

/-- A slot operation of C on its way, and the core that has sent it. -/
def slotReq (k : ReqKind) : Req := ⟨k, .pkg 0x20000, 0x20000, 0, .c, 0, 0, 0, 0, 0, 0, 0, 0, [3], [], 0, []⟩
def slotAt (k : ReqKind) : State := { cAt 0x20000 with reqs := [(0, slotReq k)] }

theorem slot_served (k : ReqKind) : (slotAt k).ReqServed 0 (slotReq k) (.pkg 0x20000) :=
  ⟨rfl, rfl, rfl, rfl, rfl, rfl, rfl, by simp [slotReq], fun ch h => by
    rw [List.mem_singleton.mp h]; show ([] : List Word).length < 16; decide⟩

/-- An accumulator that an XGET still fills, and a free one; a slot behind an operation of C, and a free one; the operations at the home. -/
theorem witness_AccumulatorWords :
    (cAt 0x20000).EngReady .c 0 ∧ popPips .c (popsOf .c 0) (cAt 0x20000) = cAt 0x20000 ∧ ((cAt 0x20000).cur.c.getA 1).toNat % 128 = 0 ∧
      (cAt 0x20000).check ((cAt 0x20000).whoE .c true) .read ((cAt 0x20000).cur.c.getA 1) = .ok (.pkg 0x20000) ∧
      (cAt 0x20000).accumBusy 2 = false ∧ (cAt 0x20000).slotBusy (.pkg 0x20000) = false ∧ (cAt 0x20000).cur.raceMode = 0 ∧
      (cAt 0x20000).cur.surrogate = false ∧
      (cAt 0x20000).check ((cAt 0x20000).whoE .c true) .atomic ((cAt 0x20000).cur.c.getA 1) = .ok (.pkg 0x20000) ∧
      ((slotAt (.get 2)).EngReady .c 0 ∧ (slotAt (.get 2)).accumBusy 2 = true) ∧
      ((slotAt (.slot Accum.zero)).EngReady .c (0 &&& 12) ∧ (slotAt (.slot Accum.zero)).accumBusy 2 = false ∧ (slotAt (.slot Accum.zero)).cur.raceMode = 0 ∧
        ((slotAt (.slot Accum.zero)).cur.c.getA 1).toNat % 128 = 0 ∧ popPips .c (popsOf .c 0) (slotAt (.slot Accum.zero)) = slotAt (.slot Accum.zero) ∧
        (slotAt (.slot Accum.zero)).check ((slotAt (.slot Accum.zero)).whoE .c true) .read 0x20000 = .ok (.pkg 0x20000) ∧
        (slotAt (.slot Accum.zero)).slotBusy (.pkg 0x20000) = true) ∧
      (∀ k, Cells.find? (slotAt k).reqs 0 = some (slotReq k) ∧ (slotAt k).ReqServed 0 (slotReq k) (.pkg 0x20000) ∧
        ((slotAt k).core (slotReq k).core).surrogate = false ∧ ∀ h, (slotAt k).copyOf (.pkg 0x20000) h = none) :=
  ⟨engReady_c _, rfl, by decide, rfl, rfl, rfl, rfl, rfl, rfl, ⟨⟨rfl, rfl, rfl, rfl, by decide, by decide⟩, rfl⟩,
    ⟨⟨rfl, rfl, rfl, rfl, by decide, by decide⟩, rfl, rfl, by decide, rfl, by decide +kernel, rfl⟩,
    fun k => ⟨rfl, slot_served k, rfl, fun _ => rfl⟩⟩

/-- The loader free and busy. -/
theorem witness_PlaneLoads :
    (eng .c).EngReady .c (0 &&& 12) ∧ (eng .c).cur.arr.loader = none ∧
      (withArr fun a => { a with loader := some ⟨[], 0⟩ }).EngReady .c (0 &&& 12) ∧
      (withArr fun a => { a with loader := some ⟨[], 0⟩ }).cur.arr.loader.isSome = true :=
  ⟨⟨rfl, rfl, rfl, rfl, by decide, by decide⟩, rfl, ⟨rfl, rfl, rfl, rfl, by decide, by decide⟩, rfl⟩

/-- The array empty, and with a vector in flight. -/
theorem witness_ArrayControl :
    (eng .c).EngReady .c 0 ∧ (eng .c).cur.arr.inflight = [] ∧ (eng .c).cur.arr.loader = none ∧
      (withArr fun a => { a with inflight := [⟨0, [], 0, 0, 0, false⟩] }).EngReady .c 0 ∧
      (withArr fun a => { a with inflight := [⟨0, [], 0, 0, 0, false⟩] }).cur.arr.inflight ≠ [] :=
  ⟨⟨rfl, rfl, rfl, rfl, by decide, by decide⟩, rfl, rfl, ⟨rfl, rfl, rfl, rfl, by decide, by decide⟩, by decide⟩

/-- The same with no scale in the queue. -/
def noScales : State := withFmts.onVec fun v => { v with scaleQ := [] }

/-- A push of each kind of format, one without its scales, one past the buffer, a drain of each kind, an empty array, and a vector still in flight. -/
theorem witness_PushesAndDrains :
    withFmts.CTurn 0 ∧ withFmts.cur.c.offset = 0 ∧ (workFmt (withFmts.fmtSel 1).inp).isSome = true ∧
      withFmts.cur.arr.undrained + ((3 : BitVec 4).toNat + 1) ≤ 64 ∧ isMx (withFmts.fmtSel 1).inp = false ∧
      (workFmt (withFmts.fmtSel 2).inp).isSome = true ∧ isMx (withFmts.fmtSel 2).inp = true ∧ 2 ≤ withFmts.cur.vec.scaleQ.length ∧
      outOk (withFmts.fmtSel 1).out = true ∧ isMx (withFmts.fmtSel 1).out = true ∧
      outOk (withFmts.fmtSel 0).out = true ∧ isMx (withFmts.fmtSel 0).out = false ∧
      withFmts.cur.arr.undrained = 0 ∧ withFmts.cur.surrogate = false ∧
      (∃ s : State, s.CTurn 0 ∧ s.cur.arr.outbuf ≠ []) ∧
      (∃ s : State, s.CTurn 0 ∧ outOk (s.fmtSel 0).out = true ∧ s.cur.arr.outbuf = [] ∧ s.cur.arr.inflight ≠ []) ∧
      noScales.CTurn 0 ∧ noScales.cur.vec.scaleQ.length < 2 ∧ noScales.cur.l.hasLdq = false ∧ noScales.cur.surrogate = false ∧
      (noScales.onEng .l fun x => { x with queue := [⟨.word, wordOf (.ldq 1 0 4 0), 0, 0, 0, 0, 0⟩] }).cur.l.hasLdq = true ∧
      (∃ s : State, s.CTurn 0 ∧ s.cur.c.offset = 0 ∧ 64 < s.cur.arr.undrained + ((15 : BitVec 4).toNat + 1) ∧ s.cur.surrogate = false) :=
  ⟨⟨rfl, rfl, rfl, .inr (by decide), by decide⟩, rfl, by decide, by decide, by decide, by decide, by decide, by decide, by decide, by decide,
    by decide, by decide, rfl, rfl,
    ⟨withArr fun a => { a with outbuf := [⟨0, [], 0, 0, 0, false⟩] }, ⟨rfl, rfl, rfl, .inr (by decide), by decide⟩, by decide⟩,
    ⟨withArr fun a => { a with inflight := [⟨0, [], 0, 0, 0, false⟩] }, ⟨rfl, rfl, rfl, .inr (by decide), by decide⟩, by decide, rfl, by decide⟩,
    ⟨rfl, rfl, rfl, .inr (by decide), by decide⟩, by decide, by decide, rfl, by decide,
    ⟨withArr fun a => { a with inflight := List.replicate 60 ⟨0, [], 0, 0, 0, false⟩ }, ⟨rfl, rfl, rfl, .inr (by decide), by decide⟩, rfl,
      by decide, rfl⟩⟩

/-- A sweep of three rows and two columns at its first elimination and at its end, one that has not begun, one behind vectors, an
illegal one; a stream at its last vector, before it, and an illegal one. -/
theorem witness_SweepsAndStreams :
    (eng .c).CTurn 0 ∧ (eng .c).cur.arr.inflight = [] ∧ ((eng .c).cur.c.getA 1).toNat < 2 ^ 32 ∧
      (withArr fun a => { a with sws0 := sweepWord 1 2 3 0 2 0 }).cur.arr.sws0 = sweepWord 1 2 3 0 2 0 ∧ 0 < min 2 (3 - 1) ∧
      (withArr fun a => { a with sws0 := sweepWord 1 2 3 0 2 0 }).cur.arr.sws1 = BitVec.ofNat 64 (2 ^ 20 * 0 + 0) ∧
      (withArr fun a => { a with sws0 := sweepWord 1 2 3 3 2 2 }).cur.arr.sws0 = sweepWord 1 2 3 3 2 2 ∧ min 2 (3 - 1) ≤ 2 ∧
      (eng .c).cur.arr.swsMode = 0 ∧
      (withArr fun a => { a with inflight := [⟨0, [], 0, 0, 0, false⟩] }).CTurn 0 ∧
      (withArr fun a => { a with inflight := [⟨0, [], 0, 0, 0, false⟩] }).cur.arr.swsMode ≤ 1 ∧
      (cAt 0x100000000).CTurn 0 ∧ 2 ^ 32 ≤ ((cAt 0x100000000).cur.c.getA 1).toNat ∧ (cAt 0x100000000).cur.surrogate = false ∧
      (∀ x, (withArr fun a => { a with stream := some x }).CTurn 0 ∧ (withArr fun a => { a with stream := some x }).cur.arr.stream = some x) ∧
      (cAt 0x100000).CTurn 0 ∧ (cAt 0x100000).cur.arr.stream = none ∧ 2 ^ 20 ≤ ((cAt 0x100000).cur.c.getA 1).toNat :=
  ⟨⟨rfl, rfl, rfl, .inr (by decide), by decide⟩, rfl, by decide, rfl, by decide, rfl, rfl, by decide, by decide,
    ⟨rfl, rfl, rfl, .inr (by decide), by decide⟩, by decide, ⟨rfl, rfl, rfl, .inr (by decide), by decide⟩, by decide, rfl,
    fun _ => ⟨⟨rfl, rfl, rfl, .inr (by simp [popsOf]), by simp [pushesOf]⟩, rfl⟩, ⟨rfl, rfl, rfl, .inr (by decide), by decide⟩, rfl, by decide⟩

/-- C with bytes in the decoder FIFO. -/
def withPass (bs : List Byte) : State := withFmts.onVec fun v => { v with fifo := bs, slots := [(0x20000, 3), (0x20080, 4)], ft := [] }

/-- A pass record of an all-identity plane, with the flags of its header, and one of a plane with one open block. -/
def identityPass (flags : Byte) : List Byte := [0xFF, 0xFF, 0, flags] ++ List.replicate 124 0
def openPass : List Byte := [0xFF, 0x7F, 0, 0] ++ List.replicate 252 0

/-- What the record at the head of the FIFO comes to, without the plane. -/
def passKind (bs : List Byte) : Nat :=
  match (withPass bs).cur.passIn 1 with
  | .wait _ => 0
  | .bad => 1
  | .ok h _ skip => if skip then (if h.last then 2 else 3) else 4

/-- A stream before, at and after its last vector; one that SWS records; a pass that is short, bad, taken, and skipped. -/
theorem witness_StreamPasses :
    (∀ bs, (withPass bs).CTurn 0 ∧ (withPass bs).cur.arr.stream = none ∧ (withPass bs).StreamLegal 1 0 ∧ (withPass bs).cur.arr.swsMode = 0 ∧
      (withPass bs).cur.surrogate = false) ∧
      (∀ x, (withArr fun a => { a with stream := some x }).cur.arr.swsMode ≠ 2) ∧
      ((0 : Nat) < (3 : BitVec 4).toNat ∧ (StreamSt.mk 0 0 true false 0 none).last = true) ∧
      ((3 : Nat) = (3 : BitVec 4).toNat) ∧ (3 : BitVec 4).toNat < (StreamSt.mk 0 4 false false 0 (some (true, false, 0))).vec ∧
      ((withArr fun a => { a with sws0 := 0x8000000000000000 }).CTurn 0 ∧ (withArr fun a => { a with sws0 := 0x8000000000000000 }).cur.arr.swsMode = 2 ∧
        (withArr fun a => { a with sws0 := 0x8000000000000000 }).StreamLegal 1 0) ∧
      passKind [] = 0 ∧ passKind (identityPass 4) = 1 ∧ passKind (identityPass 1) = 2 ∧ passKind (identityPass 0) = 3 ∧ passKind openPass = 4 :=
  ⟨fun _ => ⟨⟨rfl, rfl, rfl, .inr (by simp [popsOf]), by simp [pushesOf]⟩, rfl, ⟨show (0 : Nat) < 2 ^ 20 by decide, show (0 : Word).getLsbD 15 = false by decide,
      show ((0 : Word).extractLsb' 0 4).toNat = ((0 : Word).extractLsb' 4 4).toNat by decide, show (0 : Nat) ≤ 2 by decide⟩,
      show (0 : Word).toNat / 2 ^ 62 = 0 by decide, rfl⟩,
    fun _ => by show ¬ ((0 : Word).toNat / 2 ^ 62 = 2); decide, ⟨by decide, rfl⟩, rfl, by decide,
    ⟨⟨rfl, rfl, rfl, .inr (by decide), by decide⟩, by decide, ⟨by decide, rfl, rfl, by decide⟩⟩, by decide +kernel, by decide +kernel,
    by decide +kernel, by decide +kernel, by decide +kernel⟩

/-! ### Teams, and the steps of cores -/

/-- A message from role 0 to role 1 that has arrived at the word of `base`. -/
def inbound (kind : Nat) : Msg := { valueMsg 0 1 kind 0 fetchAddr 0 [5] 1 9 with arrived := true }

/-- A team of two members. -/
def teamOf (msgs : List Msg) : TeamSt := ⟨0, 0, [0, 1], [], [], [], [], 0, msgs⟩

/-- The team state of a member at the start of the body of a run of two roles, of which it executes `left` words. -/
def runTeam (left : Nat) : Team :=
  { Team.reset with
    team := some 0, begun := true, header := 0x7FFC, left := left, mask := 3 }

/-- Core 0 as a member of a team of two roles, with one channel, in a run or between runs. -/
def member (roles : Word) (left : Nat) (msgs : List Msg) : State :=
  { (base.onCore fun c => { c with roleSet := roles, team := runTeam left }) with
    gangs := [(0, { fetchGang with team := some 0 })],
    launches := [(0, { fetchLaunch fetchAddr with binder := some ⟨5, [⟨1, 0⟩, ⟨1, 1⟩], [⟨0, 0, 0, 0⟩]⟩ })],
    teams := [(0, teamOf msgs)] }

/-- The same member before CHBEG. -/
def newcomer : State := (member 1 0 []).onCore fun c => { c with team := Team.reset }

/-- CHBEG; headers within and beyond the drift bound; a span of three runs; TSYNC and CHEND. -/
theorem witness_TeamStreamWords :
    newcomer.Plain ∧ newcomer.openTeam = none ∧
      (∃ b g, newcomer.binderOf newcomer.agent = some b ∧ newcomer.gangOf newcomer.agent = some g ∧ g.team = some 0 ∧
        b.team = (5 : BitVec 12).toNat ∧ b.roles.length = (2 : BitVec 5).toNat) ∧ newcomer.cur.team.begun = false ∧
      (member 1 0 []).Plain ∧
      (∃ x, (member 1 0 []).openTeam = some (0, x) ∧ Cells.get 0 x.reached (member 1 0 []).agent + 1 ≤ (member 1 0 []).cur.team.bound.toNat ∧
        (∀ m ∈ x.msgs, m.sender = (member 1 0 []).agent → m.kind = 1 ∨ (m.arrived = true ∧ (256 ≤ (member 1 0 []).agent → m.placed = true)))) ∧
      (member 1 0 []).inRun = false ∧ (member 1 0 []).ctx.stat = .running ∧ (3 : BitVec 16).toNat < 2 ^ (member 1 0 []).roleCount ∧
      (∃ (s : State) (x : TeamSt), s.Plain ∧ s.openTeam = some (0, x) ∧ s.inRun = false ∧ s.ctx.stat = .running ∧
        s.cur.team.bound.toNat < Cells.get 0 x.reached s.agent + 1 ∧
        ∃ n ∈ x.members, Cells.get 0 (Cells.put x.reached s.agent (Cells.get 0 x.reached s.agent + 1)) n <
          Cells.get 0 x.reached s.agent + 1 - s.cur.team.bound.toNat) ∧
      (member 1 0 []).cur.team.loops.length < 2 ∧ (member 1 0 []).cur.team.loops = [] ∧ (member 1 0 []).sendWaits = false :=
  ⟨⟨rfl, rfl⟩, rfl, ⟨_, _, rfl, rfl, rfl, rfl, rfl⟩, rfl, ⟨rfl, rfl⟩, ⟨teamOf [], rfl, by decide, fun _ h => by cases h⟩, rfl, rfl, by decide,
    ⟨(member 1 0 []).onCore fun c => { c with team := { c.team with bound := 0 } }, teamOf [], ⟨rfl, rfl⟩, rfl, rfl, rfl, by decide, 1,
      by decide, by decide⟩, by decide, rfl, rfl⟩

/-- A span of one run: its header stands behind the CHLOOP. -/
theorem witness_ChLoopSpan :
    ({ member 1 0 [] with mem := Memory.writeNat base.mem 0x8004 4 0xE0800081 } : State).findSpan 1048576 0x8004 1 = .at_ 0x800C := rfl

/-- A span that begins on a page that is not mapped. -/
theorem witness_ChLoopUnmapped : ({ member 1 0 [] with mem := [] } : State).findSpan 1048576 0x8004 1 = .unknown := rfl

/-- The sender, the receiver with and without its message, a bystander; for each kind. -/
theorem witness_HandoverWords :
    (∀ r m, (member r 4 m).Plain ∧ (member r 4 m).who = .s ∧ ∃ x, (member r 4 m).openTeam = some (0, x) ∧ x.msgs = m) ∧
      ((member 0 4 []).xferFault 0 1 0 0 = none ∧ (member 0 4 []).xferFault 0 1 2 0 = none ∧ (member 1 4 []).xferFault 0 1 0 0 = none ∧
        (member 1 4 []).xferFault 0 1 2 0 = none ∧ (member 2 4 []).xferFault 0 1 0 0 = none ∧ (member 2 4 []).xferFault 0 1 2 0 = none) ∧
      (member 0 4 []).holds 0 = false ∧ (member 0 4 []).holds 1 = false ∧
      (member 1 4 []).holds 0 = true ∧ (member 1 4 []).holds 1 = false ∧ (member 1 4 []).hasSent = false ∧
      (member 1 4 []).sendWaits = false ∧ ((member 1 4 []).await .blockSend).hasSent = true ∧
      (∃ b c, (member 1 4 []).binderOf (member 1 4 []).agent = some b ∧ b.chans[0]? = some c) ∧
      (member 2 4 [inbound 0]).holds 1 = true ∧ (member 2 4 [inbound 0]).holds 0 = false ∧
      (∀ k, (inbound k).For k (member 2 4 [inbound k]).cur.team.beat (member 2 4 [inbound k]).runPos) ∧
      (teamOf [inbound 0]).pair 0 1 = [inbound 0] ∧ (member 2 4 []).holds 1 = true ∧ (member 2 4 []).holds 0 = false ∧ (teamOf []).pair 0 1 = [] :=
  ⟨fun _ _ => ⟨⟨rfl, rfl⟩, rfl, _, rfl, rfl⟩, ⟨rfl, rfl, rfl, rfl, rfl, rfl⟩, rfl, rfl, rfl, rfl, rfl, rfl, rfl, ⟨_, _, rfl, rfl⟩, rfl, rfl,
    fun _ => ⟨rfl, rfl, rfl, rfl, show (0 : Word) = ((0x8000 - 0x7FFC - 4 : Word) >>> 2) by decide⟩, rfl, rfl, rfl, rfl⟩

/-- C of a member at an XFER.V. -/
def memberC (roles : Word) (msgs : List Msg) : State :=
  { ((member roles 4 msgs).onEng .c fun x => { x with queue := [⟨.word, 0, fetchAddr, 0, 0, 0, 0⟩] }) with turn := .seq 0 .c }

theorem witness_HandoverVectors :
    (∀ r m, (memberC r m).EngReady .c 0 ∧ (∃ q, (memberC r m).gangOf (memberC r m).agent = some q ∧ q.team = some 0) ∧
      (∃ x, Cells.find? (memberC r m).teams 0 = some x ∧ x.msgs = m) ∧ (∃ e, (memberC r m).cur.c.entry = some e ∧
        (inbound 1).For 1 e.beat e.val)) ∧
      (memberC 0 []).holds 0 = false ∧ (memberC 0 []).holds 1 = false ∧ (memberC 1 []).holds 0 = true ∧
      (memberC 1 []).cur.c.offset = 0 ∧ (∀ y ∈ (memberC 1 []).reqs, y.2.core = (memberC 1 []).agent → y.2.e ≠ .c) ∧
      (memberC 2 [inbound 1]).holds 1 = true ∧ (memberC 2 [inbound 1]).holds 0 = false ∧
      (memberC 2 []).holds 1 = true ∧ (memberC 2 []).holds 0 = false ∧ (teamOf []).pair 0 1 = [] :=
  ⟨fun _ _ => ⟨⟨rfl, rfl, rfl, rfl, by simp [popsOf], by simp [pushesOf]⟩, ⟨_, rfl, rfl⟩, ⟨_, rfl, rfl⟩, _, rfl, ⟨rfl, rfl, rfl, rfl, rfl⟩⟩,
    rfl, rfl, rfl, rfl, (fun _ h => by cases h), rfl, rfl, rfl, rfl, rfl⟩

/-- A sender whose block has been read. -/
def blockRead : State := (member 1 4 [{ blockMsg 0 1 0 fetchAddr 0 0x20000 256 0 0 9 with moved := true }]).await .blockSend

/-- Each role of each hand-over where it is over in its turn: a bystander, a sender and a receiver. -/
theorem witness_HandoversComplete :
    (∀ r m, (member r 4 m).Plain ∧ (member r 4 m).openTeam = some (0, teamOf m) ∧ (member r 4 m).who = .s ∧
      (member r 4 m).xferFault 0 1 0 0 = (member r 4 []).xferFault 0 1 0 0) ∧
      ((member 0 4 []).xferFault 0 1 0 0 = none ∧ (member 1 4 []).xferFault 0 1 0 0 = none ∧ (member 2 4 []).xferFault 0 1 0 0 = none) ∧
      ((member 0 4 []).holds 0 = false ∧ (member 0 4 []).holds 1 = false) ∧
      ((member 1 4 []).holds 0 = true ∧ (member 1 4 []).hasSent = false ∧ (member 1 4 []).sendWaits = false ∧
        ((teamOf []).pair 0 1).length < 16 ∧ (member 1 4 []).holds 1 = false) ∧
      ((member 2 4 [inbound 0]).holds 0 = false ∧ (member 2 4 [inbound 0]).holds 1 = true ∧
        (teamOf [inbound 0]).HasFor 0 1 0 (member 2 4 [inbound 0]).cur.team.beat (member 2 4 [inbound 0]).runPos) ∧
      ((∃ b c, blockRead.binderOf blockRead.agent = some b ∧ b.chans[0]? = some c) ∧ blockRead.Plain ∧
        (∃ x, blockRead.openTeam = some (0, x) ∧ ∀ m ∈ x.msgs, m.sender = blockRead.agent → m.kind = 2 → m.moved = true) ∧
        blockRead.xferFault 0 1 2 0 = none ∧ blockRead.hasSent = true ∧ blockRead.holds 1 = false) ∧
      ((∃ b c, (member 2 4 [inbound 2]).binderOf (member 2 4 [inbound 2]).agent = some b ∧ b.chans[0]? = some c) ∧
        (member 2 4 [inbound 2]).xferFault 0 1 2 0 = none ∧
        (teamOf [inbound 2]).HasFor 0 1 2 (member 2 4 [inbound 2]).cur.team.beat (member 2 4 [inbound 2]).runPos) ∧
      (∀ r m, (memberC r m).CTurn 0 ∧ (∃ q, (memberC r m).gangOf (memberC r m).agent = some q ∧ q.team = some 0) ∧
        Cells.find? (memberC r m).teams 0 = some (teamOf m) ∧
        ∃ e, (memberC r m).cur.c.entry = some e ∧ (teamOf [inbound 1]).HasFor 0 1 1 e.beat e.val) ∧
      (∀ y ∈ (memberC 1 []).reqs, y.2.core = (memberC 1 []).agent → y.2.e ≠ .c) :=
  ⟨fun _ _ => ⟨⟨rfl, rfl⟩, rfl, rfl, rfl⟩, ⟨rfl, rfl, rfl⟩, ⟨rfl, rfl⟩, ⟨rfl, rfl, rfl, by decide, rfl⟩,
    ⟨rfl, rfl, _, _, rfl, rfl, rfl, rfl, rfl, rfl⟩, ⟨⟨_, _, rfl, rfl⟩, ⟨rfl, rfl⟩, ⟨_, rfl, fun m h _ _ => by
      cases h with | head => rfl | tail _ h => cases h⟩, rfl, rfl, rfl⟩,
    ⟨⟨_, _, rfl, rfl⟩, rfl, _, _, rfl, rfl, rfl, rfl, rfl, rfl⟩,
    fun _ _ => ⟨⟨rfl, rfl, rfl, .inr (by simp [popsOf]), by simp [pushesOf]⟩, ⟨_, rfl, rfl⟩, rfl, _, rfl, _, _, rfl, rfl, rfl, rfl, rfl, rfl⟩,
    fun _ h => by cases h⟩

/-- Core 0 in any state of its own. -/
def coreIs (f : Core → Core) : State := base.onCore f

/-- A core with its engines retired. -/
def finishedCore (x : Core) : Core :=
  { x with
    l := { x.l with stat := .retired }, c := { x.c with stat := .retired }, t := { x.t with stat := .retired } }

/-- A plane load that pushes both pips, with the right-out channel full or not. -/
def loaded (full : Bool) : State :=
  coreIs fun c => { c with arr := { c.arr with loader := some ⟨[3, 4], 0⟩ }, pips := if full then [(4, List.replicate 16 0)] else [] }

theorem witness_CoreSteps :
    (∀ full, ((loaded full).core 0).arr.loader = some ⟨[3, 4], 0⟩ ∧ ([3, 4] : List Nat).Nodup ∧ ((loaded full).core 0).pipRoom 3 = true ∧
        ((loaded full).core 0).pipRoom 4 = !full) ∧
      (∃ v r, ((coreIs fun c => { c with arr := { c.arr with inflight := [⟨0, [], 0, 0, 0, false⟩] } }).core 0).arr.inflight = v :: r) ∧
      (∃ u r, ((coreIs fun c => { c with vec := { c.vec with tupd := [⟨3, 1, 1⟩] } }).core 0).vec.tupd = u :: r) ∧
      (∀ e, ∃ q, (((queued e .halt).core 0).eng e).outer = none ∧ (((queued e .halt).core 0).eng e).queue = [q] ∧ q.kind = .halt ∧
        ((queued e .halt).core 0).arr.loader = none ∧ (queued e .halt).reqs = []) ∧
      (base.core 0).retired = false ∧
      ((coreIs fun c => { finishedCore c with user := { c.user with stat := .retired 0 } }).core 0).retired = true :=
  ⟨fun full => ⟨rfl, by decide, by cases full <;> decide, by cases full <;> decide⟩, ⟨_, _, rfl⟩, ⟨_, _, rfl⟩,
    fun e => by cases e <;> exact ⟨_, rfl, rfl, rfl, rfl, rfl⟩, rfl, rfl⟩

/-- A conditional branch at the pc, and a word that C takes. -/
theorem witness_BranchResolveAndSteer :
    (∃ (s : State) (w : InstrWord), (s.core 0).user.stat = .running ∧ ({ s with turn := .seq 0 .s } : State).fetchAt (s.core 0).user.pc = .ok w ∧
      w.extractLsb' 29 3 = 0 ∧ w.extractLsb' 23 6 = 0x10 ∧ w.extractLsb' 20 3 ≠ 0 ∧
      ∀ x, (s.core 0).user.split = some x → x.at_ ≠ (s.core 0).user.pc) ∧
      ∃ (s : State) (w : InstrWord) (d : Decoded), (s.core 0).user.stat = .running ∧ (s.core 0).engTrap = none ∧ (s.core 0).team.team = none ∧ (s.core 0).user.pend = none ∧
        (s.core 0).user.pfx = .none ∧ ({ s with turn := .seq 0 .s } : State).fetchAt (s.core 0).user.pc = .ok w ∧
        ({ s with turn := .seq 0 .s } : State).eccWord w = none ∧ ({ s with turn := .seq 0 .s } : State).fetchHeld = false ∧
        destOf w = some .c ∧ w.extractLsb' 29 3 ≠ 7 ∧ decodeWord w = .ok d ∧ d.legal = true ∧ ((s.core 0).cap .c).outer = 0 ∧
        ((s.core 0).eng .c).queue.length < 64 :=
  ⟨⟨{ (base.onCtx fun c => { c with split := none }) with mem := Memory.writeNat base.mem 0x8000 4 0x0828000D }, 0x0828000D,
      rfl, rfl, by decide, by decide, by decide, fun _ h => by cases h⟩,
    { base with mem := Memory.writeNat base.mem 0x8000 4 0x20A09060 }, 0x20A09060, .word (.vfma 4 1 2 0 0 0),
      rfl, rfl, rfl, rfl, rfl, rfl, rfl, rfl, rfl, by decide, rfl, rfl, rfl, by decide⟩

/-- A combining buffer, a store and a load of host memory, a prefetch. -/
theorem witness_SystemSpaceSteps :
    (∃ b, b ∈ ((coreIs fun c => { c with comb := [⟨.host 0, [(0, 1)]⟩] }).core 0).comb) ∧
      (∃ (s : State) (bs : List Byte), Cells.find? s.sys 0 = some (.store 0 (.seq .s) (.host 8) bs) ∧
        s.sysBehind 0 0 (.host 8) bs.length = false ∧ s.hostHeld 0 (.host 8) = false) ∧
      (∃ (s : State) (ps : List (Loc × Nat × Nat)), Cells.find? s.sys 0 = some (.load 0 false ps [] 3 false false false) ∧
        ∀ p ∈ ps, s.hostHeld 0 p.1 = false) ∧
      ∃ (s : State) (r : Req), Cells.find? s.reqs 0 = some r ∧ r.kind = .line 2 true ∧ s.reqTurn r = true :=
  ⟨⟨_, .head _⟩, ⟨{ base with sys := [(0, .store 0 (.seq .s) (.host 8) [1, 2])] }, [1, 2], rfl, rfl, rfl⟩,
    ⟨{ base with sys := [(0, .load 0 false [(.host 8, 0x40000008, 4)] [] 3 false false false)] }, [(.host 8, 0x40000008, 4)], rfl,
      fun p h => by cases h with | head => rfl | tail _ h => cases h⟩,
    { base with reqs := [(0, ⟨.line 2 true, .pkg 0x20000, 0x20000, 0, .l, 0, 0, 0, 0, 0, 0, 0, 0, [], [], 0, []⟩)] }, _, rfl, rfl, rfl⟩


/-- An engine trap on C, before S has entered it and after. -/
def engTrapOf (entered : Bool) : EngTrap := ⟨.c, ⟨0x05, 0, 0⟩, 0, 0, 0, 0, true, 0, entered⟩

/-- Core 0 with S stuck at an empty channel, and C too or idle. -/
def stuck (both : Bool) : State := coreIs fun c => { c with
  user := { c.user with stat := .waiting (.pipPop 1) },
  c := if both then { c.c with queue := [⟨.word, 0, fetchAddr, 0, 0, 0, 0⟩], stat := .waiting (.pipPop 2) } else { c.c with queue := [] } }

/-- A user trap with a vector, of a cause. -/
def userTrap (cause : Word) : State :=
  coreIs fun c => { c with trap := ⟨0x9000, cause, 0, 0, 0⟩, user := { c.user with stat := .trapped none } }

/-- C of a receiving member at an XFER.V before its message has come. -/
def receiving : State :=
  { ((member 2 4 []).onEng .c fun x =>
      { x with queue := [⟨.word, 0xE280A000, fetchAddr, 0, 0, 0, 0⟩], stat := .waiting .other }) with turn := .seq 0 .c }

/-- A wait for a pending token, with a user handler and without. -/
def tokenWait (vec : Word) : State := ((withTok .pending).onCore fun c => { c with trap := { c.trap with vec := vec } }).await (.token 3)

/-- An engine trap not entered, and entered; a user trap for the handler, one in an open capture, CHOR, and one that Husk repairs; a
launch to end; a timer that expires, whatever Husk does then; a handler that returns into an expired wait. -/
theorem witness_TrapSteps :
    (((coreIs fun c => { c with engTrap := some (engTrapOf false) }).core 0).engTrap = some (engTrapOf false) ∧
      (engTrapOf false).entered = false ∧ (engTrapOf false).flt.cause ≠ 0x0B ∧
      ∀ w, ((coreIs fun c => { c with engTrap := some (engTrapOf false) }).core 0).user.stat ≠ .stopped w) ∧
      (∃ s : State, (s.core 0).engTrap = some (engTrapOf true) ∧ (s.core 0).user.stat = .trapped none ∧
        s.endCause 0 = some (0, 5) ∧ Cells.find? s.launches 0 = some (fetchLaunch fetchAddr)) ∧
      (∀ x, ((userTrap x).core 0).engTrap = none ∧ ((userTrap x).core 0).user.stat = .trapped none ∧ ((userTrap x).core 0).trap.vec ≠ 0 ∧
        ((userTrap x).core 0).handler = false ∧ ((userTrap x).core 0).trap.cause = x ∧ ((userTrap x).core 0).capturing = false ∧
        (0 : Word) ≠ ((userTrap x).core 0).trap.vec) ∧
      (((userTrap 0x05).onCore fun c => { c with capC := ⟨2, 0⟩ }).core 0).capturing = true ∧ (0x04 : Word) ≠ 0x0B ∧ (0x05 : Word) ≠ 0x04 ∧
      (base.core 0).binding = some ⟨0, 0, 0⟩ ∧ (Config.choice base.fresh 644 0 = false ∨ Config.choice base.fresh 644 0 = true) ∧
      Cells.find? base.gangs 0 = some fetchGang ∧ fetchGang.state = .bound ∧ (∀ m ∈ fetchGang.members, (base.core m).surrogate = false) ∧
      (State.reset.core 0).binding = none ∧
      (∃ (s : State) (e : Expired), s.InUser ∧ s.Plain ∧ s.p 0 = true ∧ s.cur.handler = true ∧ (s.g 1).toNat % 4 = 0 ∧
        s.ctx.expired = some e ∧ e.word = s.g 1) ∧
      base.partOf 0 = some 0 ∧ Cells.find? base.parts 0 = some fetchPart ∧ Cells.find? base.launches 0 = some (fetchLaunch fetchAddr) ∧
      (fetchLaunch fetchAddr).part = 0 ∧ (fetchLaunch fetchAddr).state ≠ .complete :=
  ⟨⟨rfl, rfl, by decide, fun _ h => by cases h⟩,
    ⟨coreIs fun c => { c with engTrap := some (engTrapOf true), user := { c.user with stat := .trapped none } }, rfl, rfl, rfl, rfl⟩,
    fun _ => ⟨rfl, rfl, show (0x9000 : Word) ≠ 0 by decide, rfl, rfl, rfl, show (0 : Word) ≠ 0x9000 by decide⟩, rfl, by decide, by decide, rfl,
    (by cases Config.choice base.fresh 644 0 <;> simp), rfl, rfl, (by decide), rfl,
    ⟨(inHandler 0x100).onCtx fun c => { c with expired := some ⟨0x100, 0xFC, none, .memory⟩ }, _, ⟨rfl, rfl⟩, ⟨rfl, rfl⟩, rfl, rfl, rfl, rfl, rfl⟩,
    rfl, rfl, rfl, rfl, by decide⟩

/-- A wait of S with a user handler and without, and a receive of C; a core with S and C stuck, and with S alone; a gang at its guard
decision; a core in the surrogate phase. -/
theorem witness_TimeoutAndGuardSteps :
    (∀ v, (∃ f, (tokenWait v).waitFault = some f ∧ f.cause = 0x0C) ∧ ((tokenWait v).core 0).surrogate = false) ∧
      (tokenWait 0x9000).HandlerTakes 0x0C ∧ (tokenWait 0x9000).ctx.stat = .waiting (.token 3) ∧
      ((∃ f, receiving.recvFault = some f) ∧ (receiving.core 0).surrogate = false ∧ (receiving.core 0).engTrap = none) ∧
      (∀ b, (stuck b).latePush 0 = false ∧ (stuck b).PipDead 0 ((stuck b).core 0)) ∧
      [Eng.c, Eng.l, Eng.t].find? (fun d => ((stuck true).core 0).eBlocked ((stuck true).latePush 0) d) = some .c ∧
      (∀ e, ((stuck false).core 0).eBlocked ((stuck false).latePush 0) e = false) ∧
      (∃ (s : State) (g : Gang), Cells.find? s.gangs 0 = some g ∧ g.decision = none ∧ g.members.length ≤ g.guardAt.length ∧
        ∀ m ∈ g.members, (s.core m).guardOk = true ∧ (s.core m).raceMode.getLsbD 0 = false) ∧
      (((guarded 0).core 0).surrogate = true ∧ ((guarded 0).core 0).binding = some ⟨0, 0, 0⟩ ∧
        Cells.find? (guarded 0).gangs 0 = some fetchGang) ∧
      (((guarded 0).onCore fun c => { c with errs := [(1, 0x40)] }).core 0).surrogate = true ∧
      (((guarded 0).onCore fun c => { c with errs := [(1, 0x40)] }).core 0).errs ≠ [] :=
  ⟨fun _ => ⟨⟨_, rfl, rfl⟩, rfl⟩, ⟨rfl, by decide, by simp [goesToUser], rfl, rfl, rfl⟩, rfl, ⟨⟨_, rfl⟩, rfl, rfl⟩,
    fun b => ⟨by cases b <;> rfl, .inl rfl, fun d => by cases b <;> cases d <;> rfl, by cases b <;> rfl, by cases b <;> rfl, rfl, rfl⟩, rfl,
    fun e => by cases e <;> rfl,
    ⟨{ base with gangs := [(0, { fetchGang with guardAt := [0] })] }, _, rfl, rfl, by decide, by decide⟩, ⟨rfl, rfl, rfl⟩, rfl, by decide⟩

/-- Two members, saving or restoring, with what has been saved or restored. -/
def moving (st : GState) (saved : List Nat) : State :=
  { pair with gangs := [(0, { fetchGang with members := [0, 1], state := st, saved := saved, ctxs := [(0, Core.reset), (1, Core.reset)] })] }

theorem moving_quiet (st : GState) (saved : List Nat) : (moving st saved).Quiet 0 :=
  ⟨(fun e => by cases e <;> rfl), (fun _ h => by cases h), (fun _ h => by cases h), (fun _ h => by cases h), rfl, rfl, rfl, (fun _ h => by cases h)⟩

/-- A blocked waiter; the first save and the last, of a gang that goes on and of one whose launch has ended; the first restore and the
last. -/
theorem witness_PreemptionSteps :
    (((withSig Signal.reset).await (.signal 0 5 none)).core 0).blockedWaiter = true ∧
      (∀ st sv, ((moving st sv).core 0).binding = some ⟨0, 0, 0⟩ ∧ (moving st sv).Quiet 0 ∧
        ∃ g, (moving st sv).inFlight g = false ∧ Cells.find? (moving st sv).gangs 0 = some g ∧ g.state = st ∧ g.saved = sv ∧
          g.discard = false ∧ Cells.find? g.ctxs 0 = some Core.reset ∧ (moving st sv).membersOf g = [0, 1]) ∧
      (∃ (s : State) (g : Gang), (s.core 0).binding = some ⟨0, 0, 0⟩ ∧ s.Quiet 0 ∧ Cells.find? s.gangs 0 = some g ∧ g.state = .saving ∧
        g.saved.contains 0 = false ∧ g.discard = true ∧ ∀ m ∈ s.membersOf g, m = 0 ∨ g.saved.contains m = true) ∧
      Memory.wf ((moving .saving []).core 0).saved.ls = true ∧ Memory.wf (moving .saving []).save = true ∧
      ([] : List Nat).contains 0 = false ∧ ([1] : List Nat).contains 0 = false ∧
      (∃ m ∈ [0, 1], m ≠ 0 ∧ ([] : List Nat).contains m = false) ∧ ∀ m ∈ [0, 1], m = 0 ∨ ([1] : List Nat).contains m = true :=
  ⟨rfl, fun st sv => ⟨rfl, moving_quiet st sv, _, rfl, rfl, rfl, rfl, rfl, rfl, rfl⟩,
    ⟨{ pair with gangs := [(0, { fetchGang with members := [0, 1], state := .saving, saved := [1], discard := true })] }, _, rfl,
      ⟨(fun e => by cases e <;> rfl), (fun _ h => by cases h), (fun _ h => by cases h), (fun _ h => by cases h), rfl, rfl, rfl, (fun _ h => by cases h)⟩,
      rfl, rfl, rfl, rfl, by decide⟩, rfl, rfl, rfl, rfl, by decide, by decide⟩

/-! ### Operations, objects and teams -/

/-- An operation of core 0 on its token 3, issued so late that no copy answers it. -/
def opOf (kind : OpKind) (stat : OpStat) : AOp :=
  { kind := kind, tok := ⟨0, 0, 3, 1, 0⟩, base := BitVec.allOnes 64, floor := 0, launch := 0, rank := 0, stat := stat, src := none, dst := none,
    done := [], fails := [], race := none, buffered := false, maxTs := 0, at_ := 0 }

/-- Core 0 with operation 0. -/
def withOp (o : AOp) : State := { engAt .c 0 with ops := [(0, o)] }

/-- A COPYL whose second granule is not mapped, which leaves its first as the next one; and one that has performed. -/
def copyAtEdge : AOp := opOf (.copyl 0x20000 0x7FFFFFE0 64) .running
def copyOver : AOp := { opOf (.copyl 0x20000 0x21000 32) .running with done := [0x1080] }

/-- An FSEND and an FGET of one message with a peer mapped at 2^30. -/
def sendOp : AOp := opOf (.fsend 0x20000 0x40000000 32) .running
def getOp : AOp := opOf (.fget 0x40000000 0x20000 32) .running
def withPeer (o : AOp) : State :=
  { withOp o with mem := Memory.writeNat base.mem 12296 8 0x23F, parts := [(0, { fetchPart with ports := 1 })] }

/-- No byte stands twice in one part. -/
theorem partsApart_one (l : Loc) (va n : Nat) (h : ∀ j k : Nat, (l.plus j).key = (l.plus k).key → j = k) : PartsApart [(l, va, n)] := by
  intro j k p q hj hk e
  simp only [byteOf] at hj hk
  split at hj <;> split at hk <;> simp_all
  subst hj hk
  exact h j k e

/-- Copies: a granule that performs, one that is over, a start; a prefetch, in a pod without a cache. -/
theorem witness_CopySteps :
    (copyAtEdge.stat = .running ∧ (withOp copyAtEdge).nextGranule copyAtEdge = some 0x3FFFFFF ∧
      (match (withOp copyAtEdge).granule 0 copyAtEdge 0x3FFFFFF with | .ok _ _ => true | _ => false) = true ∧
      ((withOp copyAtEdge).core copyAtEdge.tok.core).surrogate = false) ∧
      (0x3FFFFFF < readKey ∧ runsOf (copyAtEdge.moves.filter fun m => m.1 / 32 == 0x3FFFFFF) = [(0x7FFFFFE0, 0x20000, 32)] ∧
        (withOp copyAtEdge).Uncached copyAtEdge ∧
        (withOp copyAtEdge).check copyAtEdge.who .write (BitVec.ofNat 64 0x7FFFFFE0) = .ok (.pkg 0x3FFFFFE0) ∧
        (withOp copyAtEdge).check copyAtEdge.who .read (BitVec.ofNat 64 0x20000) = .ok (.pkg 0x20000)) ∧
      ((∀ g ∈ copyOver.granules, g ∈ copyOver.done) ∧ copyOver.race = none ∧ (withOp copyOver).opSysPending 0 = false ∧ ((withOp copyOver).core 0).raceMode = 0) ∧
      (match ((withOp (opOf (.tpref 0x30000 0) .running)).updPod 0 fun p => { p with banks := 0x5555555555555555 }).opRecord 0 (opOf (.tpref 0x30000 0) .running) 0x30000 with
        | .ok (_, v, _) => (parseLayout v).isSome | _ => false) = true ∧
      (∃ s : State, s.blockTurn 0 = false ∧ roundRobin s (s.pod 0).served (firstOfCores s [] (s.pod 0).queue) = some 0 ∧ Cells.find? s.ops 0 = some copyOver) :=
  ⟨⟨rfl, by decide, by decide, rfl⟩,
    ⟨by decide, by decide +kernel, ⟨rfl, rfl, fun _ h => (by cases h), rfl, rfl⟩, by decide +kernel, by decide +kernel⟩,
    ⟨by decide, rfl, rfl, rfl⟩, by decide +kernel,
    (withOp copyOver).updPod 0 fun p => { p with queue := [0] }, rfl, rfl, rfl⟩

theorem withPeer_reaches (h : Config.choice 0 30 0 = true) (n : Nat) (hn : n = 1 ∨ n = 32) :
    (withPeer sendOp).peerParts sendOp .write 0x40000000 n 0 = .ok [(.peer 0 0, 0x40000000, n)] ∧
      (withPeer getOp).peerParts getOp .read 0x40000000 n 0 = .ok [(.peer 0 0, 0x40000000, n)] := by
  have h1 : (withPeer sendOp).plan sendOp.who .write (granules 0x40000000 n) = ([(.peer 0 0, 0x40000000, n)], none) := by
    rcases hn with rfl | rfl <;> rfl
  have h2 : (withPeer getOp).plan getOp.who .read (granules 0x40000000 n) = ([(.peer 0 0, 0x40000000, n)], none) := by
    rcases hn with rfl | rfl <;> rfl
  have r1 : (withPeer sendOp).reachable sendOp 0 = true := by rw [State.reachable, h]; rfl
  have r2 : (withPeer getOp).reachable getOp 0 = true := by rw [State.reachable, h]; rfl
  constructor
  · rw [State.peerParts, h1]; simp [r1]
  · rw [State.peerParts, h2]; simp [r2]

/-- Messages to a device that can be reached, which the model leaves open: failed, resent, failed for good, arriving, all arrived, out and in. -/
theorem witness_FabricSteps :
    sendOp.kind.fabric = some (0x20000, 0x40000000, 32, false) ∧ getOp.kind.fabric = some (0x40000000, 0x20000, 32, true) ∧
      4096 * 0 < 32 ∧ 0 ∉ sendOp.done ∧ Cells.get 0 sendOp.fails 0 % 2 = 0 ∧
      (Config.choice 0 30 0 = true → ∀ n, n = 1 ∨ n = 32 →
        (withPeer sendOp).peerParts sendOp .write 0x40000000 n 0 = .ok [(.peer 0 0, 0x40000000, n)] ∧
          (withPeer getOp).peerParts getOp .read 0x40000000 n 0 = .ok [(.peer 0 0, 0x40000000, n)]) ∧ sendOp.race = none ∧
      ((withPeer sendOp).core sendOp.tok.core).raceMode = 0 ∧ (withPeer sendOp).NoJoins ∧
      (withPeer sendOp).plan sendOp.who .read (granules 0x20000 (min 4096 32)) = ([(.pkg 0x20000, 0x20000, 32)], none) ∧
      (withPeer getOp).plan getOp.who .write (granules 0x20000 (min 4096 32)) = ([(.pkg 0x20000, 0x20000, 32)], none) ∧
      ((withPeer sendOp).Uncached sendOp ∧ (withPeer getOp).Uncached getOp ∧ PartsApart [(.peer 0 0, 0x40000000, 32)] ∧
        PartsApart [(.pkg 0x20000, 0x20000, 32)]) ∧
      Cells.get 0 [(0, 1)] 0 % 2 = 1 ∧ Cells.get 0 [(0, 1)] 0 < 17 ∧ Cells.get 0 [(0, 17)] 0 % 2 = 1 ∧ 17 ≤ Cells.get 0 [(0, 17)] 0 ∧
      (∀ m, m < (32 + 4095) / 4096 → m ∈ [0]) ∧ (withPeer sendOp).opSysPending 0 = false :=
  ⟨rfl, rfl, by decide, by decide, rfl, withPeer_reaches, rfl, rfl,
    (fun x h ins hk => by obtain rfl := List.mem_singleton.1 h; cases hk), by decide, by decide,
    ⟨⟨rfl, rfl, fun _ h => (by cases h), rfl, rfl⟩, ⟨rfl, rfl, fun _ h => (by cases h), rfl, rfl⟩,
      partsApart_one _ _ _ fun j k e => by simp [Loc.plus, Loc.key] at e; omega,
      partsApart_one _ _ _ fun j k e => by simp [Loc.plus, Loc.key] at e; omega⟩,
    rfl, by decide, rfl, by decide, by decide, rfl⟩

/-- A window over 4,096 bytes that may be owned and pinned. -/
def ownWin : Win := ⟨0x20000, 0x21000, 1, 15, 5, List.replicate 16 0, 0, 0⟩

/-- Core 0 with a window word and room for its pins. -/
def withWin (o : AOp) : State :=
  { withOp o with launches := [(0, { fetchLaunch fetchAddr with windows := [ownWin], pinLim := 0x10000 })] }

/-- A marker of an arrival and of a fence, WOWN and WPIN. -/
theorem witness_MarkerAndWindowSteps :
    (opOf (.barrier 0 1 false 0 true 0 false) .running).kind = .barrier 0 1 false 0 true 0 false ∧
      Cells.find? (withOp (opOf (.barrier 0 1 false 0 true 0 false) .running)).sys 0 = none ∧
      (withOp (opOf (.barrier 0 1 false 0 true 0 false) .running)).peerPending 0 0 = false ∧
      (∃ s : State, Cells.find? s.sys 0 = some (.fence 0) ∧ s.peerPending 0 0 = false) ∧
      (∀ k, ∃ l, Cells.find? (withWin (opOf k .running)).launches 0 = some l ∧ l.windows[(0 : Word).toNat]? = some ownWin ∧
        l.pinUse.toNat + (ownWin.limit - ownWin.base).toNat ≤ l.pinLim.toNat) ∧
      ownWin.flags.getLsbD 0 = true ∧ ownWin.flags.getLsbD 1 = false ∧ (ownWin.owner.getD ((0x10005 : Word).toNat / 65536) 0).toNat / 4096 = 0 ∧
      (∀ k, (withWin (opOf k .running)).windowBehind 0 (opOf k .running) = false) ∧
      ((withWin (opOf (.window 0 0 none) .running)).pinWindow 0 [ownWin] ownWin (.launch 0 0)
        ((withWin (opOf (.window 0 0 none) .running)).shadowHome (opOf (.window 0 0 none) .running).who)).isSome = true :=
  ⟨rfl, rfl, rfl, ⟨{ base with sys := [(0, .fence 0)] }, rfl, by decide⟩, fun _ => ⟨_, rfl, rfl, by decide⟩, rfl, rfl, by decide,
    fun _ => rfl, by decide⟩

/-- A fabric barrier with a packet at its master and a completion elsewhere; banks that convert. -/
theorem witness_FabricBarrierAndBankSteps :
    (∀ e : Word, fbValid e = true → ∃ (s : State) (p : Part), Cells.find? s.parts 0 = some p ∧
        Cells.get ⟨0, Barrier.reset, []⟩ p.fbars 2 = ⟨e, Barrier.reset, []⟩ ∧ s.unsent ⟨0, 64 + 2⟩ = false ∧ s.ops = []) ∧
      fbValid 0x100010002 = true ∧ fbMaster 0x100010002 = true ∧ fbValid 0x10002 = true ∧ fbMaster 0x10002 = false ∧
      Barrier.reset.n = 0 ∧ Barrier.reset.phase = 0 ∧ Barrier.reset.collx = [] ∧
      (∃ (s : State) (g : Gang) (r : Round), Cells.find? s.gangs 0 = some g ∧ g.round = some r ∧ r.converting = true ∧ g.team = none ∧
        ∀ m ∈ g.members, (s.core m).surrogate = false) :=
  ⟨fun e _ => ⟨{ base with parts := [(0, { fetchPart with fbars := [(2, ⟨e, Barrier.reset, []⟩)] })] }, _, rfl, rfl, rfl, rfl⟩,
    by decide, by decide, by decide, by decide, rfl, rfl, rfl,
    ⟨{ base with gangs := [(0, { fetchGang with round := some ⟨0, 1, [0], 0, [], true⟩ })] }, _, _, rfl, rfl, rfl, rfl, by decide⟩⟩

/-- Bytes laid into a memory. -/
def lay (m : Memory) (bs : List (Nat × Byte)) : Memory := bs.foldl (fun m b => Memory.write m b.1 b.2) m

/-- Package memory with an object record at 0x40000: replicas at 0x50000 to 0x53000, one method at 0x41000, which is HALT, a log of
64 entries at 0x42000 with `tail` of them logged. -/
def objMemory (tail : Byte) (ro : Byte) : Memory :=
  Memory.writeNat (lay base.mem [(0x40002, 5), (0x40009, 0x10), (0x4000A, 5), (0x40011, 0x20), (0x40012, 5), (0x40019, 0x30),
    (0x4001A, 5), (0x40021, 0x10), (0x40022, 4), (0x40029, 0x20),
    (0x4002A, 4), (0x40030, 6), (0x40031, 1), (0x40034, 0x80), (0x40040, tail), (0x41001, 0x90), (0x41008, ro)]) 0x9000 4
    (wordOf (.halt 0)).toNat

/-- The object of that record. -/
def theObj : Obj := ⟨0, 0, 0x40000, [], [], [], [], [], [], false⟩

/-- The windows of its slot: one for the record and the log, and one for the replica of each die. -/
def objWins : List Win :=
  ⟨0x40000, 0x44000, 1, 1, 9, List.replicate 16 0, 0, 0⟩ :: (List.range 4).map fun d =>
    ⟨BitVec.ofNat 64 (0x50000 + 0x1000 * d), BitVec.ofNat 64 (0x51000 + 0x1000 * d), 1, BitVec.ofNat 4 (2 ^ d), 9, List.replicate 16 0, 0, 0⟩

/-- Core 0 with an operation and an object. -/
def withObj (tail ro : Byte) (x : Obj) (o : AOp) : State := { withOp o with mem := objMemory tail ro, objs := [(0, x)], slots := [(0, ⟨objWins, [], false, 0⟩)] }

/-- A call of method 0, and a query. -/
def callOf (query : Bool) (stat : OpStat) : AOp := opOf (.call 0x40000 0 0x20000 query (List.replicate 6 0)) stat

/-- What a test asks of the record, and in the state that follows of the method and the way it ends. -/
def recordHas (s : State) (x : Obj) (after : State → State) (tail : Nat) (ro : Bool) : Bool :=
  match s.objRecord x with
  | some r => r.tail == tail && r.applied == [0, 0, 0, 0] && r.trimmed == 0 && r.capacity == 64 && !r.failed && r.log == 0x42000 &&
      (match (after s).objMethod x r 0 with
       | some md => md.ro == ro && ((after s).runMethod x r md 0 ro (List.replicate 6 0)).status == 0 | none => false) &&
      ((after s).objMethod x r 1).isNone && !(after s).methodBroken x r 1 && !(after s).objBroken x 0x42000 64
  | none => false

/-- The state after the record has been read, after the entry of a die too, and after a query has left its list. -/
def recordRead (s : State) : State := s.objTouch theObj 0x40000 128 false
def entryRead (s : State) : State :=
  ((s.objTouch theObj 0x40000 128 false).objTouch theObj 0x42000 64 false).updDie 0 fun d =>
    { d with replayTs := wmax d.replayTs (Cells.get 0 theObj.entryTs 0), served := 0 }
def queryTaken (s : State) : State :=
  (s.updDie 0 fun d => { d with replayTs := wmax d.replayTs (callOf true .running).base }).updObj 0 fun z =>
    { z with queries := z.queries.filter fun w => w.1 != 0 }

/-- No object at the address; a dead one; an object with room in its log, with a method, and without one of the number; an entry to apply; a
held call; a query; the posted CRCs equal and not equal. -/
theorem witness_ObjectSteps :
    (withOp (callOf false .queued)).objectAt 0 0x40000 = none ∧
      (∀ o, (withObj 0 0 theObj o).objectAt 0 0x40000 = some (0, theObj) ∧ Cells.find? (withObj 0 0 theObj o).objs 0 = some theObj ∧
        Cells.find? (withObj 0 0 theObj o).launches o.launch = Cells.find? base.launches o.launch ∧
        Cells.find? (withObj 0 0 theObj o).ops 0 = some o ∧ (∀ y ∈ (withObj 0 0 theObj o).ops, y.1 < 0 → y.2.tok.core ≠ o.tok.core)) ∧
      (∀ o, (withObj 0 0 { theObj with dead := true } o).objectAt 0 0x40000 = some (0, { theObj with dead := true })) ∧
      (∀ ro : Bool, recordHas (withObj 0 (if ro then 1 else 0) theObj (callOf false .queued)) theObj recordRead 0 ro = true) ∧ theObj.held = [] ∧
      recordHas (withObj 1 0 theObj (callOf false .queued)) theObj entryRead 1 false = true ∧
      (withObj 1 0 theObj (callOf false .queued)).engineInRun 0 = false ∧ (withObj 1 0 theObj (callOf false .queued)).nextObject 0 = some 0 ∧
      (withObj 0 0 theObj (callOf false .queued)).objRefused theObj 0x40068 = none ∧
      (withObj 0 0 theObj (callOf false .queued)).objRefused theObj 0x40040 = none ∧
      (withObj 0 0 theObj (callOf false .queued)).objRefused theObj 0x42000 = none ∧
      (match (withObj 1 0 theObj (callOf false .queued)).objRead theObj 0x42000 64 with | .ok e => e == 0 | .error _ => false) = true ∧
      (match (withObj 0 0 theObj (callOf false .queued)).objRecord theObj with
        | some r => ((entryRead (withObj 0 0 theObj (callOf false .queued))).objMethod theObj r 1).isNone | none => false) = true ∧
      (∃ s : State, List.find? (fun (y : Nat × Obj) => y.2.held.contains 0) s.objs = some (0, { theObj with held := [0] }) ∧
        Cells.find? s.ops 0 = some (callOf false .running)) ∧
      (∃ s : State, List.find? (fun (y : Nat × Obj) => y.2.queries.any fun z => z.1 == 0) s.objs =
          some (0, { theObj with queries := [(0, 0)] }) ∧ Cells.find? s.ops 0 = some (callOf true .running) ∧ s.engineInRun 0 = false ∧
        recordHas s { theObj with queries := [(0, 0)] } queryTaken 0 true = true) ∧
      (∀ a b : BitVec 32, ∃ s : State, ∃ x : Obj, Cells.find? s.objs 0 = some x ∧ (Cells.get [] x.posted 0).head? = some (63, a) ∧
        (Cells.get [] x.posted 1).head? = some (63, b) ∧ (Cells.get [] x.posted 2).head? = some (63, a) ∧
        (Cells.get [] x.posted 3).head? = some (63, a)) :=
  ⟨rfl, fun o => ⟨rfl, rfl, rfl, rfl, fun y _ h => absurd h (Nat.not_lt_zero _)⟩, fun _ => rfl, by decide +kernel, rfl, by decide +kernel, rfl,
    by decide +kernel, rfl, rfl, rfl, by decide +kernel, by decide +kernel,
    ⟨withObj 0 0 { theObj with held := [0] } (callOf false .running), rfl, rfl⟩,
    ⟨withObj 0 1 { theObj with queries := [(0, 0)] } (callOf true .running), rfl, rfl, rfl, by decide +kernel⟩,
    fun a b => ⟨withObj 0 0 { theObj with posted := [(0, [(63, a)]), (1, [(63, b)]), (2, [(63, a)]), (3, [(63, a)])] }
      (callOf false .running), _, rfl, rfl, rfl, rfl, rfl⟩⟩

/-! ### Members at a header, in a barrier, with messages -/

/-- Team 0 with some of its tables. -/
def teamIs (f : TeamSt → TeamSt) : State := { member 1 4 [] with teams := [(0, f (teamOf []))] }

/-- A block from role 0 to role 1. -/
def block (moved arrived : Bool) : Msg := { blockMsg 0 1 0 fetchAddr 1 0x100 16 0 1 0 with moved := moved, arrived := arrived }

/-- The members publish different headers for a beat; the slowest has caught up; a message is the oldest of its pair; a block is to be
read, and to be written; all have arrived. -/
theorem witness_TeamSteps :
    (∃ x, Cells.find? (teamIs fun x => { x with headers := [(1024, 5), (1025, 6)] }).teams 0 = some x ∧
      x.headers.filter (fun h => h.1 / 1024 % 2 ^ 32 == (1 : BitVec 32).toNat) = [(1024, 5), (1025, 6)] ∧
      (∃ k ∈ [((1025 : Nat), (6 : Word))], k.1 / 1024 = 1024 / 1024 ∧ k.2 ≠ 5) ∧
      (∃ g, Cells.find? (teamIs fun x => { x with headers := [(1024, 5), (1025, 6)] }).gangs x.gang = some g ∧ g.state = .bound) ∧
      ∀ m ∈ x.members, ((teamIs fun x => { x with headers := [(1024, 5), (1025, 6)] }).core m).surrogate = false) ∧
      (∃ x, ((member 1 0 []).await (.drift 0x7FFC 1)).openTeam = some (0, x) ∧
        ((member 1 0 []).await (.drift 0x7FFC 1)).ctx.stat = .waiting (.drift 0x7FFC 1) ∧
        ∀ m ∈ x.members, Cells.get 0 x.reached 0 - (((member 1 0 []).await (.drift 0x7FFC 1)).core 0).team.bound.toNat ≤ Cells.get 0 x.reached m) ∧
      (∃ x, Cells.find? (member 1 4 [block true false]).teams 0 = some x ∧ x.msgs[0]? = some (block true false) ∧ (block true false).moved = true ∧
        ∀ o ∈ x.msgs.take 0, o.src = (block true false).src → o.dst = (block true false).dst → o.arrived = true) ∧
      (∀ v a, ∃ g l b x, Cells.find? (member 2 4 [block v a]).gangs 0 = some g ∧ Cells.find? (member 2 4 [block v a]).launches 0 = some l ∧
        l.binder = some b ∧ Cells.find? (member 2 4 [block v a]).teams 0 = some x ∧ x.gang = 0 ∧ x.launch = 0 ∧ x.msgs[0]? = some (block v a) ∧
        (block v a).kind = 2 ∧ (block v a).stalled = false ∧ (block v a).placed = false ∧ (block v a).sender < 256 ∧
        g.state = .bound) ∧
      ((block false false).payload = [] ∧ (member 2 4 [block false false]).blockTurn (podOf (block false false).sender) = true) ∧
      (∃ (s : State) (g : Gang) (l : Launch) (b : Binder) (x : TeamSt) (ro : Role) (w : InstrWord), Cells.find? s.gangs 0 = some g ∧
        Cells.find? s.launches 0 = some l ∧ l.binder = some b ∧ Cells.find? s.teams 0 = some x ∧ b.roles[(block true true).dst]? = some ro ∧
        holderOf g ro < 256 ∧ (x.pair 0 1).head? = some (block true true) ∧ (s.core (holderOf g ro)).user.stat = .waiting (.recv w) ∧
        (s.core (holderOf g ro)).user.pc = (block true true).at_ ∧ (s.core (holderOf g ro)).team.beat = (block true true).beat) ∧
      (∃ (s : State) (x : TeamSt), Cells.find? s.teams 0 = some x ∧ x.members = [0] ∧ x.members.Nodup ∧ x.enders = [0] ∧ x.msgs = [] ∧
        ∀ m ∈ x.members, m ∈ x.arrived ∧ (s.core m).user.stat = .waiting .teamBarrier) :=
  ⟨⟨_, rfl, by decide, by decide, ⟨_, rfl, rfl⟩, by decide⟩, ⟨_, rfl, rfl, by decide⟩, ⟨_, rfl, rfl, rfl, by decide⟩,
    fun _ _ => ⟨_, _, _, _, rfl, rfl, rfl, rfl, rfl, rfl, rfl, rfl, rfl, rfl, (by show 1 < 256; decide), rfl⟩, ⟨rfl, by decide +kernel⟩,
    ⟨({ member 2 4 [block true true] with gangs := [(0, { fetchGang with members := [0, 1], team := some 0 })] } : State).updCore 1 fun c =>
        { c with user := { c.user with pc := fetchAddr, stat := .waiting (.recv 0) } },
      _, _, _, _, _, 0, rfl, rfl, rfl, rfl, rfl, by decide, rfl, rfl, rfl, rfl⟩,
    ⟨{ base.await .teamBarrier with teams := [(0, ⟨0, 0, [0], [], [], [0], [0], 0, []⟩)] }, _, rfl, rfl, by decide, rfl, rfl, by decide⟩⟩

/-! ### Launches -/

/-- The record of a launch of one core, with its nest at 0x44000, on its way to the scheduler; and an invalid one. -/
def submission (bytes : Nat) : Submission :=
  { part := 0, bytes := bytes, ts := BitVec.allOnes 64, tok := ⟨0, 0, 3, 1, 0⟩, kinds := [0, 2], parent := none, key := [], slot := none,
    invoke := none, queue := 0, windows := [], pinLim := 0, reloc := [] }

def goodRecord : Nat := 2 ^ 64 * 0x44000 + 2 ^ 144

/-- Core 0, a nest record of one iteration at 0x44000, and submissions. -/
def submitted (xs : List Submission) : State :=
  { engAt .c 0 with mem := Memory.write (Memory.write base.mem 0x44000 1) 0x44008 1, subs := xs }

/-- Core 0 with one launch. -/
def withLaunch (l : Launch) : State := { base with launches := [(0, l)] }

/-- A launch in a state, with waits. -/
def launchIn (st : LState) (waits : List (Nat × Nat)) : Launch :=
  { fetchLaunch fetchAddr with state := st, rec_ := { (fetchLaunch fetchAddr).rec_ with waits := waits } }

/-- A pod with one core in service, nothing bound, and a launch of one core that is ready. -/
def lone : State :=
  { base with
    cores := [], gangs := [], parts := [(0, onePod)], launches := [(0, { launchIn .ready [] with handed := 0 })], pf := [(0x400, 0xFE)] }

theorem lone_places : lone.placeWithout onePod { launchIn .ready [] with handed := 0 } [] = some [0] := by
  have h : ∀ k, placeGang k 1 0 [0] (lone.freeWithout []) = some [0] := by
    intro k
    have h1 : ((List.range 8).map (fun i => 8 * 0 + i) |>.filter (lone.freeWithout [])) = [0] := by decide
    have h2 : ([0].filter fun p => decide (1 ≤ ((List.range 8).map (fun i => 8 * p + i) |>.filter (lone.freeWithout [])).length)) = [0] :=
      by decide
    simp only [placeGang, h1, h2, rotated, List.length_singleton, Nat.mod_one, List.drop_zero, List.take_zero, List.append_nil,
      List.head?_cons, Option.map_some, if_pos (show 1 ≤ 8 by decide)]
    rfl
  exact h _

/-- A submission that is refused, and one that is admitted. -/
theorem witness_LaunchAdmission :
    (∀ x, x = submission 0 ∨ x = submission goodRecord → (submitted [x]).AdmitsNext 0 x fetchPart [] [] ∧ x.invoke = none ∧
      x.tok.k ≠ 63 ∧ ((submitted [x]).core x.tok.core).gen = x.tok.gen ∧ (submitted [x]).ops = []) ∧
      (submitted []).readLaunch fetchPart (submission 0) = none ∧
      (match (submitted []).readLaunch fetchPart (submission goodRecord) with | some (_, y) => y.rec_.kind == 0 | none => false) = true :=
  ⟨fun x h => by rcases h with rfl | rfl <;> exact ⟨⟨rfl, rfl, rfl, rfl, .inl rfl, fun _ h => by cases h⟩, rfl, by decide, rfl, rfl⟩,
    by decide +kernel, by decide +kernel⟩

/-- The same with 64 launches that hold the slots of its die. -/
def crowded : State :=
  { withLaunch (launchIn .queued []) with
    launches := (0, launchIn .queued []) :: (List.range 64).map fun i => (i + 1, launchIn .running []) }

/-- At the head of its queue, with its waits met and not met; ready; draining with nothing left; in a replay; with an iteration to
start and without. -/
theorem witness_LaunchSteps :
    (withLaunch (launchIn .queued [])).earlier 0 (launchIn .queued []) = [] ∧ (withLaunch (launchIn .queued [])).WaitsHold (launchIn .queued []) ∧
      (withLaunch (launchIn .queued [])).slotFor (launchIn .queued []) = some (withLaunch (launchIn .queued [])) ∧
      crowded.slotFor (launchIn .queued []) = none ∧
      (withLaunch (launchIn .queued [(0, 5)])).earlier 0 (launchIn .queued [(0, 5)]) = [] ∧
      ¬ (withLaunch (launchIn .queued [(0, 5)])).WaitsHold (launchIn .queued [(0, 5)]) ∧
      (∀ l, Cells.find? (withLaunch l).launches 0 = some l) ∧ (launchIn .ready []).state = .ready ∧
      (∃ s : State, Cells.find? s.launches 0 = some (launchIn .draining []) ∧ s.launchBusy 0 (launchIn .draining []) = false ∧
        Cells.find? s.parts 0 = some fetchPart) ∧ (launchIn .draining []).rec_.dones.Nodup ∧
      (∃ s : State, s.recMode 0 = 2 ∧ Cells.find? s.launches 0 = some (launchIn .running []) ∧ (launchIn .running []).part = 0 ∧
        s.strayFadd 0 (launchIn .running []).key = true) ∧
      (∀ n : Nat, ∃ (s : State) (g : Gang), Cells.find? s.gangs 0 = some g ∧ Cells.find? s.launches g.launch = some { launchIn .running [] with handed := n } ∧
        g.state = .bound ∧ g.iter = none ∧ g.members.Nodup ∧
        s.notFirst 0 g { launchIn .running [] with handed := n } = false ∧ g.barriers = []) ∧
      (∃ b ∈ [((1 : Nat), { Barrier.reset with n := 2, count := 1, toks := [⟨0, 0, 3, 1, 0⟩] })], b.2.open_ = true) ∧ (∀ b ∈ fetchGang.barriers, b.2.open_ = false) ∧
      Launch.next { launchIn .running [] with handed := 0 } = some (0, false) ∧ Launch.next { launchIn .running [] with handed := 1 } = none :=
  ⟨rfl, (fun w h => by cases h), rfl, by decide +kernel, rfl, fun h => absurd (h (0, 5) (.head _)) (by decide), fun _ => rfl, rfl,
    ⟨{ withLaunch (launchIn .draining []) with gangs := [] }, rfl, by decide, rfl⟩, by decide,
    ⟨{ withLaunch (launchIn .running []) with pf := [(0x0300, 0x200)], reqs := [(0, redReq 9 4 5)] }, rfl, rfl, rfl, by decide⟩,
    fun n => ⟨{ withLaunch { launchIn .running [] with handed := n } with gangs := [(0, { fetchGang with iter := none })] }, _, rfl, rfl, rfl, rfl, by decide, rfl, rfl⟩,
    ⟨_, .head _, rfl⟩, (fun _ h => by cases h), rfl, rfl⟩

theorem witness_SchedulerTick :
    lone.parts = [(0, onePod)] ∧ lone.launches = [(0, { launchIn .ready [] with handed := 0 })] ∧ lone.gangs = [] ∧ onePod.claim = none ∧
      Launch.unstarted { launchIn .ready [] with handed := 0 } = 1 ∧
      lone.placeWithout onePod { launchIn .ready [] with handed := 0 } [] = some [0] ∧ [0].Nodup :=
  ⟨rfl, rfl, rfl, rfl, rfl, lone_places, by decide⟩

/-! ### The host's side -/

/-- Partition 0 owns VF 0, of which queue 2 is in a state, with 64 bytes of a command at the head of its ring. -/
def hosted (p : Part) (x : VQueue) (c : Nat) : State :=
  { base with
    parts := [(0, { p with vfs := 1 })], vfs := [(0, { Vf.reset with queues := [(2, x)] })], host := Memory.writeNat [] 0x1000 64 c }

/-- A queue that is enabled, with one command to read; and one that is not, with a completion ring. -/
def running : VQueue := { VQueue.reset with qbase := 0x1000, qcfg := 0x24, qwidx := 1, ccfg := 4 }
def idle : VQueue := { VQueue.reset with ccfg := 4 }

/-- A completion with its interrupt waits, and some vectors are masked. -/
def answering (m : List Nat) : State :=
  { base with vfs := [(0, { Vf.reset with queues := [(2, { idle with qcfg := 0x40 })], waiting := [(2, [7], true)], masked := m })] }

/-- Disabled and enabled, a doorbell in range and beyond; sizes in range and not; a completion that waits, with room, its vector
masked or not. -/
theorem witness_QueueSteps :
    (∀ x, (hosted fetchPart x 0).boot = .ready ∧ (hosted fetchPart x 0).vfRefuses 0 = false ∧ ((hosted fetchPart x 0).vf 0).queue 2 = x) ∧
      idle.on = false ∧ running.on = true ∧ ((3 : BitVec 32) - running.qridx).toNat ≤ running.entries ∧
      running.entries < ((99 : BitVec 32) - running.qridx).toNat ∧ (0x24 : Word).getLsbD 5 = true ∧ sizeOk 0x24 = true ∧ sizeOk idle.ccfg = true ∧
      (0x20 : Word).getLsbD 5 = true ∧ sizeOk 0x20 = false ∧
      (∀ m, ((answering m).vf 0).waiting.find? (fun c => c.1 == 2) = some (2, [7], true) ∧ (((answering m).vf 0).queue 2).room = true ∧
        (answering m).vfHeld 0 = false ∧ (((answering m).vf 0).queue 2).qcfg.getLsbD 6 = true ∧ ((answering m).vf 0).masked = m) ∧
      ([0] : List Nat).contains ((answering [0]).vf 0 |>.queue 2).vector = true :=
  ⟨fun _ => ⟨rfl, rfl, rfl⟩, rfl, rfl, by decide, by decide, by decide, by decide, by decide, by decide, by decide,
    fun _ => ⟨rfl, (show (idle.room) = true by decide), rfl, (show (0x40 : Word).getLsbD 6 = true by decide), rfl⟩, rfl⟩

/-- A register of PF 0; a VF without a partition, and one whose aperture leads to package memory. -/
theorem witness_ApertureSteps :
    pfMask 0x108 = some (BitVec.allOnes 64) ∧ base.boot = .ready ∧ base.partOfVf 0 = none ∧
      (hosted fetchPart idle 0).partOfVf 0 = some 0 ∧ Cells.find? (hosted fetchPart idle 0).parts 0 = some { fetchPart with vfs := 1 } ∧
      (hosted fetchPart idle 0).vfRefuses 0 = false ∧ (hosted fetchPart idle 0).NoRecord (.pkg 0x20000) 8 ∧
      (∀ acc, acc = .read ∨ acc = .write → (hosted fetchPart idle 0).aperturePlaces 0 { fetchPart with vfs := 1 } acc
        (apertureParts ((hosted fetchPart idle 0).vf 0) 0x20000 8) = .ok [(.pkg 0x20000, 0x20000, 8)]) ∧ 0x20000 + 8 ≤ 2 ^ 34 :=
  ⟨rfl, rfl, rfl, rfl, rfl, rfl, noRecord_of_nil rfl _ _, fun _ h => by rcases h with rfl | rfl <;> rfl, by decide⟩

/-- Commands: none of Table 20.4, an INVOKE with a bad slot number, SIGNAL_SET, SIGNAL_ADD, INVOKE, LOAD_SLOT, UNLOAD_SLOT, RESET_QUEUE and PREEMPT of 0. -/
theorem hosted_offers :
    (hosted fetchPart running 9).Offers 0 { fetchPart with vfs := 1 } 0 2 9 (fun c => (commandKind c).isNone) ∧
      ((hosted fetchPart running 0x400201).Offers 0 { fetchPart with vfs := 1 } 0 2 0x400201 (fun c => (commandKind c).isNone) ∧
        0x400201 % 256 = 1 ∧ 0x400201 / 512 % 2 = 1) ∧
      (hosted fetchPart running 4).Offers 0 { fetchPart with vfs := 1 } 0 2 4 (fun c => commandKind c == some 4 && fieldAt c 3 1 == 0) ∧
      (hosted fetchPart running 0x1000004).Offers 0 { fetchPart with vfs := 1 } 0 2 0x1000004
        (fun c => commandKind c == some 4 && fieldAt c 3 1 == 1) ∧
      ∀ c, c = 1 ∨ c = 2 ∨ c = 3 ∨ c = 5 ∨ c = 6 →
        (hosted fetchPart running c).Offers 0 { fetchPart with vfs := 1 } 0 2 c (fun d => commandKind d == some c) :=
  ⟨⟨rfl, by decide +kernel, rfl, rfl, by decide⟩, ⟨⟨rfl, by decide +kernel, rfl, rfl, by decide⟩, by decide, by decide⟩, ⟨rfl, by decide +kernel, rfl, rfl, by decide⟩, ⟨rfl, by decide +kernel, rfl, rfl, by decide⟩,
    fun c h => by rcases h with rfl | rfl | rfl | rfl | rfl <;> exact ⟨rfl, by decide +kernel, rfl, rfl, by decide⟩⟩

/-- The same with slot 0 loaded, idle or with a launch that has not completed. -/
def slotted (c : Nat) (busy : Bool) : State :=
  { hosted fetchPart running c with
    slots := [(0, ⟨[], [goodRecord], false, 0⟩)], launches := [(0, { fetchLaunch fetchAddr with slot := if busy then some 0 else none })] }

theorem slotted_offers (c : Nat) (busy : Bool) (h : c = 1 ∨ c = 2 ∨ c = 3) :
    (slotted c busy).Offers 0 { fetchPart with vfs := 1 } 0 2 c (fun d => commandKind d == some c) := by
  cases busy <;> rcases h with rfl | rfl | rfl <;> exact ⟨rfl, by decide +kernel, rfl, rfl, by decide⟩

/-- Slot 0 empty, loaded and in use; no submission of the queue; a reset and a preemption that have run out. -/
theorem witness_HostCommandSteps :
    (∀ c, Cells.find? (hosted fetchPart running c).slots (64 * 0 + fieldAt c 2 1) = none) ∧
      (∀ b, Cells.find? (slotted 1 b).slots (64 * 0 + fieldAt 1 2 1) = some ⟨[], [goodRecord], false, 0⟩ ∧ fieldAt 1 3 1 ≤ 8) ∧
      (slotted 1 true).unstartedIn 0 2 + 1 ≤ 256 ∧
      (Cells.find? (slotted 2 true).slots (64 * 0 + fieldAt 2 2 1)).isSome = true ∧
      (Cells.find? (slotted 3 true).slots (64 * 0 + fieldAt 3 2 1)).isSome = true ∧
      (slotted 3 true).slotInUse 0 (fieldAt 3 2 1) = true ∧ (slotted 3 false).slotInUse 0 (fieldAt 3 2 1) = false ∧
      (∀ c, (hosted fetchPart running c).ideHeld 0 = false) ∧ (hosted fetchPart running 5).subs = [] ∧ (∀ n, ((hosted fetchPart running 6).core n).surrogate = false) ∧
      (∃ (s : State) (p : Part), Cells.find? s.parts 0 = some p ∧ p.busy = some ⟨0, 2, 5, 0, none, [0]⟩ ∧ s.resetDone 0 [0] = true) ∧
      (∃ (s : State) (p : Part), Cells.find? s.parts 0 = some p ∧ p.busy = some ⟨0, 2, 6, 0, none, [0]⟩ ∧
        ∀ g ∈ [0], ∀ x, Cells.find? s.gangs g = some x → x.state ≠ .saving) :=
  ⟨fun _ => rfl, fun _ => ⟨rfl, by decide⟩, by decide, rfl, rfl, by decide, by decide, (fun _ => rfl), rfl,
    (fun n => by cases n <;> rfl),
    ⟨{ withLaunch (launchIn .complete []) with parts := [(0, { fetchPart with busy := some ⟨0, 2, 5, 0, none, [0]⟩ })] }, _, rfl, rfl, by decide⟩,
    ⟨{ base with parts := [(0, { fetchPart with busy := some ⟨0, 2, 6, 0, none, [0]⟩ })] }, _, rfl, rfl,
      fun g h x hx => by
        obtain rfl := List.mem_singleton.1 h
        obtain rfl := Option.some.inj hx
        decide⟩⟩

/-! ### LOAD_SLOT -/

/-- LOAD_SLOT of slot 0 with the 8,352-byte image at bus address 0x10000. -/
def loadCmd : Nat := 2 + 2 ^ 64 * 0x10000 + 2 ^ 128 * 8352

/-- An image of one launch and one empty section, without windows or objects, whose digest is 0; the nest record stands in memory. -/
def loading : State :=
  { hosted fetchPart running loadCmd with
    mem := Memory.write (Memory.write base.mem 0x44000 1) 0x44008 1,
    host := lay (Memory.writeNat [] 0x1000 64 loadCmd) [(0x10000, 0x43), (0x10001, 0x58), (0x10002, 0x53), (0x10003, 0x4C), (0x10004, 1),
      (0x10006, 1), (0x10007, 1), (0x11049, 0x40), (0x1104A, 4), (0x11052, 1)],
    vfs := [(0, { Vf.reset with queues := [(2, running)], ts := BitVec.allOnes 64 })] }

theorem loading_offers :
    loading.Offers 0 { fetchPart with vfs := 1 } 0 2 loadCmd (fun c => commandKind c == some 2) :=
  ⟨rfl, by decide +kernel, rfl, rfl, by decide⟩

/-- Husk has taken the command. -/
def loadTaken : State := (loading.updQueue 0 2 fun x => { x with qridx := x.qridx + 1 }).enterHusk 0

theorem loading_takes :
    loading.takeCommand 0 (fun c => commandKind c == some 2) =
      some (loadTaken, { fetchPart with vfs := 1 }, ⟨0, 2, loadCmd, BitVec.allOnes 64, none, []⟩) := by
  unfold State.takeCommand
  rw [loading_offers.1]
  dsimp only
  rw [loading_offers.2.1]
  simp only [List.length_singleton, Nat.mod_one]
  rfl

/-- The bytes of the image, as one number. -/
def loadImage : Nat := 0x14C535843 + 2 ^ 48 + 2 ^ 56 + 2 ^ (8 * 4160) * goodRecord

theorem loadTaken_image : loadTaken.natAt (.host 0x10000) 8352 = loadImage := by decide +kernel

/-- Whether a load ends well. -/
def loads (x : Except Nat State) : Bool := match x with | .ok _ => true | .error _ => false

theorem loads_ok {x : Except Nat State} (h : loads x = true) : ∃ t, x = .ok t := by
  cases x with
  | ok t => exact ⟨t, rfl⟩
  | error _ => cases h

/-- The slot loads, if the read of the image meets no error and SM3 of its body is the digest that stands in it: the model leaves both
open. -/
theorem loading_loads (h1 : Config.choice loadTaken.fresh 703 0 = false) (h2 : Config.sm3 (bytesOf 8256 loadImage) = 0) :
    ∃ t, loadTaken.loadSlot 0 { fetchPart with vfs := 1 } ⟨0, 2, loadCmd, BitVec.allOnes 64, none, []⟩ = .ok t := by
  have e1 : fieldAt loadCmd 16 4 = 8352 := by decide +kernel
  have e2 : fieldAt loadCmd 8 8 = 0x10000 := by decide +kernel
  have e3 : loadImage % 2 ^ (8 * 8256) = loadImage := by decide +kernel
  have e4 : fieldAt loadImage 8256 32 = 0 := by decide +kernel
  have e5 : (Cells.find? loadTaken.slots (64 * 0 + fieldAt loadCmd 2 1)).isSome = false := rfl
  apply loads_ok
  unfold State.loadSlot
  simp only [e1, e2, loadTaken_image, Nat.reduceSub, e3, e4, e5, h1, h2, Bool.false_eq_true, if_false]
  decide +kernel

/-- A control block of partition 0 at bus address 0: pod 1, slice 0, leases of 64. -/
def blocked (parts : Cells Part) : State :=
  { base with
    parts := parts, pf := [],
    host := lay [] [(2, 64), (4, 100), (6, 1), (8, 2), (32, 1), (144, 6), (160, 6), (185, 0x40)] }

/-- What a test asks of that block: no part of it is another partition's, or some is; its pin budget reaches the pins. -/
def blockHas (s : State) (conflict : Bool) (pins : Nat) (enough : Bool) : Bool :=
  match s.readPart 0 0 with
  | some p => s.parts.any (fun y => p.conflicts y.2) == conflict && (decide (pins ≤ p.pinBudget)) == enough
  | none => false

/-- PCTL busy, and not; an invalid block, one that conflicts, one that does not; a partition to update, with its pins and beyond them;
a slot to revoke, and a number that is none; a destruction that can finish, though another operation was refused meanwhile; a recording
without launches. -/
theorem witness_PartitionSteps :
    (∃ s : State, s.pctlBusy = true) ∧ (∀ ps, (blocked ps).pctlBusy = false ∧ (blocked ps).boot = .ready ∧ (blocked ps).subs = [] ∧
      Cells.get 0 (blocked ps).pf 0x108 = 0 ∧ Cells.find? (blocked ps).parts 0 = Cells.find? ps 0) ∧
      base.readPart 0 0 = none ∧ blockHas (blocked [(0, fetchPart)]) true 0 true = true ∧ blockHas (blocked []) false 0 true = true ∧
      blockHas (blocked [(0, { fetchPart with pinsInUse := 1 })]) true 1 false = true ∧
      (∃ s : State, s.pctlBusy = false ∧ Cells.find? s.parts 0 = some fetchPart ∧
        Cells.find? s.slots (64 * 0 + 3) = some ⟨[], [goodRecord], false, 0⟩) ∧
      (∃ s : State, Cells.find? s.parts 0 = some fetchPart ∧ Cells.get 0 s.pf 0x100 &&& 0xFFFF = pctlValue 0 2 0 true ∧
        s.resetDone 0 ((s.launches.filter fun (x : Nat × Launch) => x.2.part == 0 && x.2.state != .complete).map fun x => x.1) = true) ∧
      (∃ s : State, Cells.find? s.parts 0 = some fetchPart ∧ s.launches = [] ∧ s.subs = []) ∧ (64 : Nat) ≤ 64 ∧ (0 : Nat) < 32 ∧ (0 : Nat) < 2 ^ 60 ∧
      ((0x100 : Word).extractLsb' 8 2).toNat = 1 ∧ ((0x200 : Word).extractLsb' 8 2).toNat = 2 :=
  ⟨⟨{ base with pf := [(0x100, 0x8000)] }, rfl⟩, fun _ => ⟨(by decide : (0 : Word).getLsbD 15 = false), rfl, rfl, rfl, rfl⟩, by decide +kernel, by decide +kernel, by decide +kernel,
    by decide +kernel, ⟨{ base with slots := [(3, ⟨[], [goodRecord], false, 0⟩)] }, rfl, rfl, rfl⟩,
    ⟨{ withLaunch (launchIn .complete []) with pf := [(0x100, pctlValue 0 2 3 true)] }, rfl, (show pctlValue 0 2 3 true &&& 0xFFFF = _ by decide), by decide⟩,
    ⟨{ base with launches := [] }, rfl, rfl, rfl⟩, by decide, by decide, by decide, by decide, by decide⟩

/-- Recovery with an image that passes, if the images, the keys and the hash, which the model leaves open, say so; and with one that does not. -/
theorem recovering (n : Nat) :
    ∃ s : State, s.boot = .recovery ∧ (Passes 2 (Config.image n) → imageField (Config.image n) 4 1 = 2 → 1 ≤ imageField (Config.image n) 4 1) ∧
      (imageField (Config.image n) 4 1 = 0 → ¬ (1 ≤ imageField (Config.image n) 4 1 ∧ imageField (Config.image n) 4 1 ≤ 3)) :=
  ⟨{ base with boot := .recovery }, rfl, fun _ h => by rw [h]; decide, fun h => by rw [h]; decide⟩

/-- A session whose algorithms are agreed. -/
theorem agreed_has : ∃ s : State, s.boot = .ready ∧ s.spdm.algorithms ≠ [] ∧ s.spdm.capabilities = true :=
  ⟨{ base with spdm := { Spdm.reset with version := true, capabilities := true, algorithms := [.sm3_256] } }, rfl, by decide, rfl⟩

/-- Each state of a start; each stage of a session; each outcome of a power window and of a DVFS request. -/
theorem witness_DeviceSteps :
    (∀ b, ∃ s : State, s.boot = b) ∧ (∀ x, ∃ s : State, s.boot = .ready ∧ s.spdm = x) ∧ (18 : Nat) ≥ 17 + 1 ∧
      (840 : Word).toInt ≥ 840 ∧ (30 : Word).toInt < 840 ∧ (Cells.get 0 base.pf (dieBlock 0 + 0xC0)).toNat = 600000 ∧
      (600000 : Nat) < (600001 : Word).toNat ∧ 16 * (500000 : Word).toNat < 15 * 600000 ∧
      ((600000 : Word).toNat ≤ 600000 ∧ 15 * 600000 ≤ 16 * (600000 : Word).toNat) ∧ base.dvfsBusy 0 = false ∧
      (∃ s : State, s.dvfsBusy 0 = true) ∧ ((400 : Word).extractLsb' 0 16).toNat < 500 ∧ 950 < ((0x3E8 * 65536 : Word).extractLsb' 16 16).toNat :=
  ⟨fun b => ⟨{ base with boot := b }, rfl⟩, fun x => ⟨{ base with spdm := x }, rfl, rfl⟩, by decide, by decide, by decide, by decide, by decide,
    by decide, by decide, by decide, ⟨{ base with pf := [(dieBlock 0 + 0xD0, 1)] }, by decide⟩, by decide, by decide⟩

/-! ### Steps -/

/-- S of core 0 at a word. -/
def atWord (w : Nat) : State := { base with mem := Memory.writeNat base.mem 0x8000 4 w }

/-- Husk of core 0 at a word. -/
def huskAtWord (w : Nat) : State :=
  { (husk.updCore 0 fun c => { c with husk := { c.husk with pc := 0x8000 } }) with mem := (atWord w).mem }

/-- S and Husk at ADD g3, g1, g2, and each engine at ADD's word as it would stand in a queue. -/
theorem witness_StepRunsTheDecodedWord :
    base.boot = .ready ∧ (0 : Nat) < 292 ∧ decode 0x000C2200 = .ok (.add 3 1 2 0) ∧
      ((atWord 0xC2200).turn = .seq 0 .s ∧ (atWord 0xC2200).ExecutesNow 0x000C2200) ∧
      ((huskAtWord 0xC2200).turn = .seq 0 .husk ∧ (huskAtWord 0xC2200).ExecutesNow 0x000C2200) ∧
      (∀ e : Eng, (eng e).turn = .seq 0 e.seq ∧ ((eng e).unland e).EngineExecutesNow e 0) ∧
      isEvent (.vfFlr 0) = true ∧
      (atWord 0xC2200).translate (atWord 0xC2200).agent (!(atWord 0xC2200).inHusk) .fetch 0x8000 = .ok (.pkg 0x8000) :=
  ⟨rfl, by decide, rfl,
    ⟨rfl, .inl rfl, .inr (fun _ h => by cases h), fun h => absurd h (by decide), rfl, rfl, rfl, by decide +kernel, rfl, rfl, rfl, rfl, rfl⟩,
    ⟨rfl, .inl rfl, .inl rfl, fun _ => by decide +kernel, rfl, rfl, rfl, by decide +kernel, rfl, rfl, rfl, rfl, rfl⟩,
    fun e => by cases e <;> exact ⟨rfl, _, rfl, rfl, rfl, by decide, rfl, by decide, fun _ => ⟨rfl, fun _ _ => rfl⟩, .inl rfl⟩, rfl, rfl⟩

theorem witness_EncodeDecode : (Instr.add 3 1 2 0).legal = true ∧ encode (.add 3 1 2 0) = some 0x000C2200 := ⟨rfl, rfl⟩

theorem witness_StepsNeverStop :
    (∃ s : State, s.turn = .seq 0 .s ∧ s.boot ≠ .ready) ∧ ∀ i, ∃ s : State, s.turn = .event i :=
  ⟨⟨{ base with boot := .failed }, rfl, by decide⟩, fun i => ⟨{ base with turn := .event i }, rfl⟩⟩

theorem base_inv : base.Inv :=
  ⟨⟨by decide +kernel, rfl, rfl, rfl, rfl⟩, fun l => by cases l <;> exact BitVec.le_refl _⟩

/-- A state with the invariant, and a step from it. -/
theorem witness_StepsKeepTheInvariant : ∃ s t : State, s.Inv ∧ step s = .next t :=
  ⟨{ base with turn := .event (.vfFlr 0) }, _, base_inv, rfl⟩

/-! ### Ill-formed terms: each check of `Instr.legal` refuses one -/

theorem test_illegal_control :
    (Instr.br 0 1 0).legal = false ∧ (Instr.call 0 1 0).legal = false ∧ (Instr.mova 0 0 3 0).legal = false ∧
      (Instr.movar 0 0 0 3 0).legal = false ∧ (Instr.movl 0 0 3 0).legal = false ∧ (Instr.pippush 1 0).legal = false ∧
      (Instr.pippop 0 0).legal = false ∧ (Instr.loope 3 1 0).legal = false ∧ (Instr.loope 0 0 0).legal = false ∧
      (Instr.role 0 1).legal = false ∧ (Instr.role 1 0).legal = false ∧ (Instr.chbeg 0 0).legal = false ∧ (Instr.chbeg 0 17).legal = false ∧
      (Instr.chloop 0 1).legal = false ∧ (Instr.chloop 1 0).legal = false := by decide

theorem test_illegal_atomics :
    (Instr.amoSwap 0 0 0 2).legal = false ∧ (Instr.amoAdd 0 0 0 2).legal = false ∧ (Instr.amoAnd 0 0 0 2).legal = false ∧
      (Instr.amoOr 0 0 0 2).legal = false ∧ (Instr.amoXor 0 0 0 2).legal = false ∧ (Instr.amoMin 0 0 0 2).legal = false ∧
      (Instr.amoMax 0 0 0 2).legal = false ∧ (Instr.amoMinz 0 0 0 2).legal = false ∧ (Instr.amoMaxz 0 0 0 2).legal = false ∧
      (Instr.redAdd 0 0 2).legal = false ∧ (Instr.redAnd 0 0 2).legal = false ∧ (Instr.redOr 0 0 2).legal = false ∧
      (Instr.redXor 0 0 2).legal = false ∧ (Instr.redMin 0 0 2).legal = false ∧ (Instr.redMax 0 0 2).legal = false ∧
      (Instr.redMinz 0 0 2).legal = false ∧ (Instr.redMaxz 0 0 2).legal = false ∧ (Instr.cas 0 0 0 2).legal = false := by decide

theorem test_illegal_ordered_atomics :
    (Instr.aoseqSwap 0 0 0 2).legal = false ∧ (Instr.aoseqAdd 0 0 0 2).legal = false ∧ (Instr.aoseqAnd 0 0 0 2).legal = false ∧
      (Instr.aoseqOr 0 0 0 2).legal = false ∧ (Instr.aoseqXor 0 0 0 2).legal = false ∧ (Instr.aoseqMin 0 0 0 2).legal = false ∧
      (Instr.aoseqMax 0 0 0 2).legal = false ∧ (Instr.aoseqMinz 0 0 0 2).legal = false ∧ (Instr.aoseqMaxz 0 0 0 2).legal = false := by
  decide

theorem test_illegal_vectors :
    (Instr.ldq 0 0 0 0).legal = false ∧ (Instr.ldq 0 0 33 0).legal = false ∧ (Instr.vfadd 0 0 0 3 0 0).legal = false ∧
      (Instr.vfsub 0 0 0 3 0 0).legal = false ∧ (Instr.vfmul 0 0 0 3 0 0).legal = false ∧ (Instr.vfma 0 0 0 3 0 0).legal = false ∧
      (Instr.vfmin 0 0 0 3 0 0).legal = false ∧ (Instr.vfmax 0 0 0 3 0 0).legal = false ∧ (Instr.vfabs 0 0 3 0 0).legal = false ∧
      (Instr.vfneg 0 0 3 0 0).legal = false ∧ (Instr.vfdiv 0 0 0 3 0 0).legal = false ∧ (Instr.vfsqrt 0 0 3 0 0).legal = false ∧
      (Instr.vfrsq 0 0 3 0 0).legal = false ∧ (Instr.vcmpUn 0 0 0 0 0 0).legal = false ∧ (Instr.vrsum 0 0 3 0 0).legal = false ∧
      (Instr.vrmax 0 0 3 0 0).legal = false ∧ (Instr.vrmin 0 0 3 0 0).legal = false ∧ (Instr.vrand 0 0 0 4 0 0).legal = false := by decide

theorem test_illegal_accumulators_and_array :
    (Instr.xclr 4 0).legal = false ∧ (Instr.xmac 4 0 0 0 0).legal = false ∧ (Instr.xsum 4 0 0 0).legal = false ∧
      (Instr.xrnd 0 4 0).legal = false ∧ (Instr.xput 4 0 0).legal = false ∧ (Instr.xget 4 0 0).legal = false ∧
      (Instr.xsave 4 0 0).legal = false ∧ (Instr.xload 4 0 0).legal = false ∧ (Instr.defer 0 0 0 0).legal = false ∧
      (Instr.defer 13 4 0 0).legal = false ∧ (Instr.drain 0 5 0 0).legal = false ∧ (Instr.drain 3 2 4 0).legal = false ∧
      (Instr.rpush 0 0 18 0).legal = false ∧ (Instr.rpushv 0 0 18 0 0).legal = false ∧ (Instr.rpushv 3 13 0 0 0).legal = false ∧
      (Instr.rpop 0 0 0 18 0).legal = false ∧ (Instr.rpopv 0 0 0 18 0 0).legal = false ∧ (Instr.rstream 0 0 0 18 0).legal = false := by
  decide

/-! ### Words that the spec prints beside their assembly (listings of files 01, 03, 04, 06, 08 to 10, 12, 14, 15) -/

theorem test_words_scalar :
    decode 0x00DAC001 = .ok (.addi 22 22 1) ∧ decode 0x00909FFF = .ok (.addi 4 4 0x1FFF) ∧ decode 0x0110803F = .ok (.andi 4 4 63) ∧
      decode 0x029CA01A = .ok (.slli 7 5 26) ∧ decode 0x03210006 = .ok (.srli 8 8 6) ∧ decode 0x03B18001 = .ok (.srai 12 12 1) ∧
      decode 0x001CEC18 = .ok (.or 7 7 12 0) ∧ decode 0x00208540 = .ok (.mul 8 4 5 0) ∧ decode 0x0028A978 = .ok (.min 10 5 9 0) ∧
      decode 0x002D6C08 = .ok (.sub 11 11 12 0) ∧ decode 0x04D40818 = .ok (.movi 21 0x818) :=
  ⟨rfl, rfl, rfl, rfl, rfl, rfl, rfl, rfl, rfl, rfl, rfl⟩

theorem test_words_control :
    decode 0x1F000088 = .ok (.brk 17 0) ∧ decode 0x1E000000 = .ok (.halt 0) ∧ decode 0x1D828000 = .ok (.eret 20 0) ∧
      decode 0x0F02A090 = .ok (.swr 21 0x90) ∧ decode 0x0ED00092 = .ok (.srd 20 0x92) ∧ decode 0x0EDC0094 = .ok (.srd 23 0x94) ∧
      decode 0x1B1C0000 = .ok (.gend 7 0) ∧ decode 0x0D000010 = .ok (.twait 2 0) ∧ decode 0x0A11E010 = .ok (.mova 4 15 2 0) ∧
      decode 0x0B016010 = .ok (.movl 0 11 2 0) :=
  ⟨rfl, rfl, rfl, rfl, rfl, rfl, rfl, rfl, rfl, rfl⟩

theorem test_words_memory_and_operations :
    decode 0x14A50000 = .ok (.st32 9 8 0 0) ∧ decode 0x14A90001 = .ok (.st32 10 8 0 1) ∧ decode 0x15282002 = .ok (.st64 10 1 0 2) ∧
      decode 0xA6FE9500 = .ok (.sigw 63 9 10 0) ∧ decode 0xAA046380 = .ok (.wpin 2 6 7 0) ∧ decode 0xAA866380 = .ok (.wunpin 3 6 7 0) :=
  ⟨rfl, rfl, rfl, rfl, rfl, rfl⟩

theorem test_words_engines :
    decode 0x20989211 = .ok (.vfadd 3 1 2 1 1 1) ∧ decode 0x23891820 = .ok (.xmac 1 2 3 0 0) ∧ decode 0x22888060 = .ok (.vbcst 1 1 0 0) ∧
      decode 0x26808000 = .ok (.gchk 1 0 0) ∧ decode 0x28198040 = .ok (.aincC 3 3 2 0) ∧ decode 0x48110040 = .ok (.aincL 2 2 2 0) ∧
      decode 0x88088040 = .ok (.aincT 1 1 2 0) ∧ decode 0x2F800008 = .ok (.syncC 8) ∧ decode 0x40080421 = .ok (.ldl 1 0 0 33 1) ∧
      decode 0x800A0048 = .ok (.ssl 1 4 0 2 0 8) :=
  ⟨rfl, rfl, rfl, rfl, rfl, rfl, rfl, rfl, rfl, rfl⟩

theorem test_words_array_and_teams :
    decode 0x600880A0 = .ok (.angl 1 1 1 0 1 0) ∧ decode 0x6201006A = .ok (.rpush 0 2 3 10) ∧ decode 0x64F09080 = .ok (.rstream 14 1 2 4 0) ∧
      decode 0x67000020 = .ok (.rmonOn 0) ∧ decode 0x65033800 = .ok (.rsweep 6 7 0) ∧ decode 0xE1003880 = .ok (.chbeg 7 2) ∧
      decode 0xE3000001 = .ok (.drift 1) ∧ decode 0xE2030003 = .ok (.chloop 3 3) ∧ decode 0xE0800181 = .ok (.role 3 1) ∧
      decode 0xE1800000 = .ok .chend :=
  ⟨rfl, rfl, rfl, rfl, rfl, rfl, rfl, rfl, rfl, rfl⟩

/-! ### One step; the expected values come from the tables and examples of the spec -/

/-- The state that an instruction answers. -/
def after (i : Instr) (s : State) : State := match exec i s with | .next t => t | _ => s

/-- Core 0 with values in g1 and g2. -/
def two (a b : Word) : State := (baseG 1 a).setG 2 b

/-- Table 04.3 and Table 04.4. -/
theorem test_alu :
    (after (.add 3 1 2 0) (two 0xFFFFFFFFFFFFFFFF 1)).g 3 = 0 ∧ (after (.sub 3 1 2 0) (two 0 1)).g 3 = 0xFFFFFFFFFFFFFFFF ∧
      (after (.sll 3 1 2 0) (two 1 65)).g 3 = 2 ∧ (after (.sra 3 1 2 0) (two 0x8000000000000000 63)).g 3 = 0xFFFFFFFFFFFFFFFF ∧
      (after (.mulh 3 1 2 0) (two 0xFFFFFFFFFFFFFFFF 1)).g 3 = 0xFFFFFFFFFFFFFFFF ∧
      (after (.mulhz 3 1 2 0) (two 0xFFFFFFFFFFFFFFFF 2)).g 3 = 1 ∧
      (after (.slt 3 1 2 0) (two 0xFFFFFFFFFFFFFFFF 1)).g 3 = 1 ∧ (after (.sltz 3 1 2 0) (two 0xFFFFFFFFFFFFFFFF 1)).g 3 = 0 ∧
      (after (.clz 3 1 0) (two 0 0)).g 3 = 64 ∧ (after (.addsh 3 1 2 0) (two 5 3)).g 3 = 29 ∧ (after (.add 0 1 2 0) (two 5 3)).g 0 = 0 := by
  decide +kernel

theorem test_division :
    (after (.div 3 1 2 0) (two 0xFFFFFFFFFFFFFFF9 2)).g 3 = 0xFFFFFFFFFFFFFFFD ∧
      (after (.rem 3 1 2 0) (two 0xFFFFFFFFFFFFFFF9 2)).g 3 = 0xFFFFFFFFFFFFFFFF ∧
      (after (.div 3 1 2 0) (two 7 0)).g 3 = 0xFFFFFFFFFFFFFFFF ∧ (after (.rem 3 1 2 0) (two 7 0)).g 3 = 7 ∧
      (after (.div 3 1 2 0) (two 0x8000000000000000 0xFFFFFFFFFFFFFFFF)).g 3 = 0x8000000000000000 ∧
      (after (.remz 3 1 2 0) (two 7 0)).g 3 = 7 := by decide +kernel

/-- R77, R78 to R81: an immediate is sign-extended; PNOT p4, p0 clears p4; a branch adds 4 times its offset; CALL links. -/
theorem test_immediates_predicates_and_branches :
    (after (.addi 3 1 0x1FFF) (two 5 0)).g 3 = 4 ∧ (after (.slti 3 1 0x1FFF) (two 0 0)).g 3 = 0 ∧
      (after (.psetLt 2 1 2 0) (two 0xFFFFFFFFFFFFFFFF 0)).p 2 = true ∧ (after (.pnot 4 0 0) (base.setP 4 true)).p 4 = false ∧
      (after (.br 0 0 13) base).pc = 0x8034 ∧ (after (.br 1 0 13) base).pc = 0x8004 ∧
      (after (.call 0 0 13) base).g 31 = 0x8004 ∧ (after (.jmpr 5 1 0) (two 0x9000 0)).pc = 0x9000 := by decide +kernel

/-- Table 04.5: BRK 17 with a vector enters the handler with its word as the detail; ERET comes back. -/
theorem test_brk_and_eret :
    (after (.brk 17 0) (coreIs fun c => { c with trap := ⟨0x818, 0, 0, 0, 0⟩ })).cur.trap = ⟨0x818, 0x13, 0x8000, 0, 0x1F000088⟩ ∧
      (after (.brk 17 0) (coreIs fun c => { c with trap := ⟨0x818, 0, 0, 0, 0⟩ })).pc = 0x818 ∧
      (after (.brk 17 0) (coreIs fun c => { c with trap := ⟨0x818, 0, 0, 0, 0⟩ })).cur.handler = true ∧
      (after (.eret 1 0) (inHandler 0x810)).pc = 0x810 ∧ (after (.eret 1 0) (inHandler 0x810)).cur.handler = false := by decide +kernel

/-- The same with no pod cache: which of its ways a line takes is open. -/
def mtwo (a b : Word) : State := (two a b).updPod 0 fun p => { p with banks := 0x5555555555555555 }

/-- R97, R98: little-endian bytes, a displacement in units of the access, sign extension. -/
theorem test_loads_and_stores :
    (after (.st32 2 1 0 1) (mtwo 0x20000 0x11223344)).byteAt (.pkg 0x20004) = 0x44 ∧
      (after (.st32 2 1 0 1) (mtwo 0x20000 0x11223344)).byteAt (.pkg 0x20007) = 0x11 ∧
      (after (.lds8 3 1 0 0) { mtwo 0x20000 0 with mem := Memory.write base.mem 0x20000 0x80 }).g 3 = 0xFFFFFFFFFFFFFF80 ∧
      (after (.ld8 3 1 0 0) { mtwo 0x20000 0 with mem := Memory.write base.mem 0x20000 0x80 }).g 3 = 0x80 := by decide +kernel

/-- R116: AMO.ADD returns the old value and stores the sum; CAS stores only on a match. -/
theorem test_atomics :
    (after (.amoAdd 3 1 2 1) { mtwo 0x20000 2 with mem := Memory.write base.mem 0x20000 5 }).g 3 = 5 ∧
      (after (.amoAdd 3 1 2 1) { mtwo 0x20000 2 with mem := Memory.write base.mem 0x20000 5 }).byteAt (.pkg 0x20000) = 7 ∧
      (after (.cas 3 1 2 1) { (mtwo 0x20000 9).setG 3 5 with mem := Memory.write base.mem 0x20000 5 }).byteAt (.pkg 0x20000) = 9 ∧
      (after (.cas 3 1 2 1) { (mtwo 0x20000 9).setG 3 4 with mem := Memory.write base.mem 0x20000 5 }).byteAt (.pkg 0x20000) = 5 := by
  decide +kernel

/-- R112, R132, R131, R133: AINC adds 64 times its immediate; VSPLAT v2, 5; VIOTA; MFIRST of an empty mask is 64. -/
theorem test_engine_words :
    (after (.aincL 2 1 4 0) (engAt .l 0x1000)).cur.l.getA 2 = 0x1100 ∧ (after (.vsplat 2 5 0 0) (eng .c)).cur.vec.lane 2 63 = 5 ∧
      (after (.vsplat 2 0x3FF 0 0) (eng .c)).cur.vec.lane 2 0 = 0xFFFFFFFF ∧ (after (.viota 2 0 0) (eng .c)).cur.vec.lane 2 17 = 17 ∧
      (after (.mfirst 2 1 0) ((eng .c).onVec fun v => { v with m := [(1, 0)] })).cur.vec.lane 2 0 = 64 := by decide +kernel

/-- R127: FP32 1 + 1 = 2, and 0/0 is the canonical NaN; R40: LNS6 code 0x30 is zero and absorbs a product. -/
theorem test_lane_arithmetic :
    (after (.vfadd 3 1 1 0 0 0) ((eng .c).onVec fun v => { v with v := [(64, 0x3F800000)] })).cur.vec.lane 3 0 = 0x40000000 ∧
      (after (.lmul 3 1 2 0 0) ((eng .c).onVec fun v => { v with v := [(64, 0x30), (128, 0x0F)] })).cur.vec.lane 3 0 = 0x30 ∧
      (after (.vfdiv 3 1 2 0 0 0) (eng .c)).cur.vec.lane 3 0 = 0x7FC00000 := by decide +kernel

end Sys2Proof.Tests
end

section
/-! ### Pips and engines of a core, and the shape of an engine word (R9 to R13) -/

namespace Sys2Proof.Machine

variable {s t : State}

theorem onlyCore_refl (s : State) : s.OnlyCore s := ⟨rfl, fun _ _ => rfl, fun _ => rfl⟩

theorem onlyCore_onEng (s : State) (e : Eng) (f : Engine → Engine) : s.OnlyCore (s.onEng e f) := onlyCore_onCore s _

/-! #### Engines and pips read after an update -/

@[simp] theorem Core.pips_setEng (c : Core) (e : Eng) (x : Engine) : (c.setEng e x).pips = c.pips := by cases e <;> rfl

@[simp] theorem Core.pips_updEng (c : Core) (e : Eng) (f : Engine → Engine) : (c.updEng e f).pips = c.pips := Core.pips_setEng c e _

@[simp] theorem Core.pip_updEng (c : Core) (e : Eng) (f : Engine → Engine) (i : Nat) : (c.updEng e f).pip i = c.pip i := by
  simp [Core.pip]

@[simp] theorem Core.engTrap_updEng (c : Core) (e : Eng) (f : Engine → Engine) : (c.updEng e f).engTrap = c.engTrap := by
  cases e <;> rfl

@[simp] theorem Core.eng_updEng (c : Core) (e : Eng) (f : Engine → Engine) : (c.updEng e f).eng e = f (c.eng e) :=
  Core.eng_setEng_self c e _

@[simp] theorem Core.eng_setPip (c : Core) (i : Nat) (l : List Word) (e : Eng) : (c.setPip i l).eng e = c.eng e := by cases e <;> rfl

@[simp] theorem Core.eng_popPip (c : Core) (i : Nat) (e : Eng) : (c.popPip i).eng e = c.eng e := Core.eng_setPip c _ _ _

@[simp] theorem Core.eng_pushPip (c : Core) (i : Nat) (v : Word) (e : Eng) : (c.pushPip i v).eng e = c.eng e := Core.eng_setPip c _ _ _

theorem Core.pip_popPip (c : Core) (i j : Nat) : (c.popPip i).pip j = if i = j then (c.pip i).tail else c.pip j :=
  Core.pip_setPip c _ _ _

theorem Core.pip_pushPip (c : Core) (i j : Nat) (v : Word) : (c.pushPip i v).pip j = if i = j then c.pip i ++ [v] else c.pip j :=
  Core.pip_setPip c _ _ _

/-! #### Pips popped -/

theorem onlyCore_popPips (e : Eng) (l : List Nat) (s : State) : s.OnlyCore (popPips e l s) := by
  induction l generalizing s with
  | nil => exact onlyCore_refl s
  | cons ch r ih => exact (onlyCore_onCore s _).trans (ih _)

@[simp] theorem cur_popPips (e : Eng) (l : List Nat) (s : State) : (popPips e l s).cur = s.cur.popAll e l := by
  induction l generalizing s with
  | nil => rfl
  | cons ch r ih => rw [popPips, ih, State.cur_onCore]; rfl

/-- A word whose channels all hold a pip takes one from each. -/
theorem takePips_ok (e : Eng) {l : List Nat} (hn : l.Nodup) (b : Bool) (s : State) (h : ∀ ch ∈ l, s.cur.pip ch ≠ []) :
    takePips e l b s = .ok (popPips e l s) := by
  induction l generalizing s b with
  | nil => rfl
  | cons ch r ih =>
    obtain ⟨hch, hr⟩ := List.nodup_cons.mp hn
    have he : (s.cur.pip ch).isEmpty = false := by simpa using h ch (by simp)
    rw [takePips, he, if_neg (by simp), ih hr]
    · rfl
    · intro j hj
      have hne : ch ≠ j := by rintro rfl; exact hch hj
      simpa [Core.popAll, Core.pip_popPip, hne] using h j (by simp [hj])

theorem popsOf_nodup (e : Eng) (pip : BitVec 4) : (popsOf e pip).Nodup := by
  unfold popsOf
  cases e <;> cases pip.getLsbD 3 <;> cases pip.getLsbD 2 <;> decide

theorem pushesOf_nodup (e : Eng) (pip : BitVec 4) : (pushesOf e pip).Nodup := by
  unfold pushesOf
  cases e <;> cases pip.getLsbD 1 <;> cases pip.getLsbD 0 <;> decide

/-- Popping changes the channels and the PTS of the engine. -/
theorem Core.popAll_eq (c : Core) (e : Eng) (l : List Nat) :
    ∃ p v, c.popAll e l = { c.updEng e fun x => { x with pts := v } with pips := p } := by
  induction l generalizing c with
  | nil => exact ⟨c.pips, (c.eng e).pts, by cases e <;> rfl⟩
  | cons ch r ih =>
    obtain ⟨p, v, h⟩ := ih ((c.popPip ch).updEng e fun x => { x with pts := wmax x.pts ((c.pip ch).headD 0) })
    exact ⟨p, v, by rw [Core.popAll, h]; cases e <;> rfl⟩

@[simp] theorem Core.engTrap_popAll (c : Core) (e : Eng) (l : List Nat) : (c.popAll e l).engTrap = c.engTrap := by
  obtain ⟨p, v, h⟩ := c.popAll_eq e l
  rw [h]; cases e <;> rfl

/-- Popping leaves the engine but for its PTS. -/
theorem Core.eng_popAll (c : Core) (e : Eng) (l : List Nat) : (c.popAll e l).eng e = { c.eng e with pts := ((c.popAll e l).eng e).pts } := by
  obtain ⟨p, v, h⟩ := c.popAll_eq e l
  rw [h]; cases e <;> rfl

/-- A pop leaves every other channel. -/
theorem Core.pip_popAll_of_notMem (c : Core) (e : Eng) {l : List Nat} {j : Nat} (h : j ∉ l) : (c.popAll e l).pip j = c.pip j := by
  induction l generalizing c with
  | nil => rfl
  | cons ch r ih =>
    obtain ⟨hj, hr⟩ : j ≠ ch ∧ j ∉ r := by simpa using h
    rw [Core.popAll, ih _ hr, Core.pip_updEng, Core.pip_popPip, if_neg (Ne.symm hj)]

/-- Every channel of the list, each named once, loses its oldest pip. -/
theorem Core.pip_popAll (c : Core) (e : Eng) {l : List Nat} (hn : l.Nodup) (j : Nat) :
    (c.popAll e l).pip j = if j ∈ l then (c.pip j).tail else c.pip j := by
  induction l generalizing c with
  | nil => simp [Core.popAll]
  | cons ch r ih =>
    obtain ⟨hch, hr⟩ := List.nodup_cons.mp hn
    rw [Core.popAll, ih _ hr]
    simp only [Core.pip_updEng, Core.pip_popPip, List.mem_cons]
    grind

/-! #### Pips pushed -/

theorem onlyCore_pushPips (e : Eng) (l : List Nat) (s : State) : s.OnlyCore (pushPips e l s) := by
  induction l generalizing s with
  | nil => exact onlyCore_onEng s e _
  | cons ch r ih =>
    rw [pushPips]
    split
    · exact (onlyCore_onCore s _).trans (ih _)
    · exact onlyCore_onEng s e _

/-- With room in every channel the pips are pushed, and the word is over. -/
theorem cur_pushPips (e : Eng) {l : List Nat} (hn : l.Nodup) (s : State) (h : ∀ ch ∈ l, (s.cur.pip ch).length < 16) :
    (pushPips e l s).cur = (s.cur.pushAll e l).updEng e Engine.finish := by
  induction l generalizing s with
  | nil => exact State.cur_onEng s e _
  | cons ch r ih =>
    obtain ⟨hch, hr⟩ := List.nodup_cons.mp hn
    have hroom : s.cur.pipRoom ch = true := by simpa [Core.pipRoom] using h ch (by simp)
    rw [pushPips, if_pos hroom, ih hr]
    · rw [State.cur_onCore]; rfl
    · intro j hj
      have hne : ch ≠ j := by rintro rfl; exact hch hj
      simpa [Core.pip_pushPip, hne] using h j (by simp [hj])

/-- Pushing changes the channels alone. -/
theorem Core.pushAll_eq (c : Core) (e : Eng) (l : List Nat) : ∃ p, c.pushAll e l = { c with pips := p } := by
  induction l generalizing c with
  | nil => exact ⟨c.pips, rfl⟩
  | cons ch r ih =>
    obtain ⟨p, h⟩ := ih (c.pushPip ch (c.eng e).pts)
    exact ⟨p, by rw [Core.pushAll, h]; rfl⟩

@[simp] theorem Core.eng_pushAll (c : Core) (e d : Eng) (l : List Nat) : (c.pushAll e l).eng d = c.eng d := by
  obtain ⟨p, h⟩ := c.pushAll_eq e l
  rw [h]; cases d <;> rfl

/-- Every channel of the list, each named once, gets one pip with the PTS of the engine. -/
theorem Core.pip_pushAll (c : Core) (e : Eng) {l : List Nat} (hn : l.Nodup) (j : Nat) :
    (c.pushAll e l).pip j = if j ∈ l then c.pip j ++ [(c.eng e).pts] else c.pip j := by
  induction l generalizing c with
  | nil => simp [Core.pushAll]
  | cons ch r ih =>
    obtain ⟨hch, hr⟩ := List.nodup_cons.mp hn
    rw [Core.pushAll, ih _ hr]
    simp only [Core.eng_pushPip, Core.pip_pushPip, List.mem_cons]
    grind

/-! #### A word that performs at once (R13) -/

theorem mem_popsOf {e : Eng} {pip : BitVec 4} {j : Nat} :
    j ∈ popsOf e pip ↔ (j = (engChannels e).1 ∧ pip.getLsbD 3 = true) ∨ (j = (engChannels e).2.1 ∧ pip.getLsbD 2 = true) := by
  unfold popsOf
  split <;> split <;> simp_all

theorem mem_pushesOf {e : Eng} {pip : BitVec 4} {j : Nat} :
    j ∈ pushesOf e pip ↔
      (j = (engChannels e).2.2.1 ∧ pip.getLsbD 1 = true) ∨ (j = (engChannels e).2.2.2 ∧ pip.getLsbD 0 = true) := by
  unfold pushesOf
  split <;> split <;> simp_all

/-- A word pops from no channel that it pushes into. -/
theorem notMem_popsOf_of_mem_pushesOf {e : Eng} {pip : BitVec 4} {j : Nat} (h : j ∈ pushesOf e pip) : j ∉ popsOf e pip := by
  rw [mem_pushesOf] at h
  rw [mem_popsOf]
  cases e <;> simp only [engChannels] at * <;> omega

/-- A word of an engine that is ready pops its pips and then performs. -/
theorem takePips_of_ready {e : Eng} {pip : BitVec 4} (h : s.EngReady e pip) :
    takePips e ((s.cur.eng e).owed e pip) (s.cur.eng e).half s = .ok (popPips e (popsOf e pip) s) := by
  obtain ⟨_, hp, hh, _, hpop, _⟩ := h
  rw [Engine.owed, hp, hh]
  exact takePips_ok e (popsOf_nodup e pip) _ s hpop

/-- A word whose effect on its core is `f`, done at once: its pips, its effect, and nothing else. -/
theorem engineDone_engWord {e : Eng} {pip : BitVec 4} (h : s.EngReady e pip) {body : State → Eff} {t : State} {f : Core → Core}
    (hb : body (popPips e (popsOf e pip) s) = .done t false) (ht : (popPips e (popsOf e pip) s).OnlyCore t)
    (hc : t.cur = f (s.cur.popAll e (popsOf e pip))) (hp : t.cur.pips = (s.cur.popAll e (popsOf e pip)).pips)
    (hn : t.cur.engTrap = none) : s.EngineDone e pip f (engWord e pip body s) := by
  have htake := takePips_of_ready h
  obtain ⟨hpu, _, _, _, _, hroom⟩ := h
  have hw : engWord e pip body s = pushPips e (pushesOf e pip) t := by
    simp only [engWord, hpu, htake, hb, hn]
    cases t.cur.surrogate <;> rfl
  rw [hw]
  refine ⟨((onlyCore_popPips e _ s).trans ht).trans (onlyCore_pushPips e _ t), ?_⟩
  rw [cur_pushPips e (pushesOf_nodup e pip), hc]
  · rfl
  · intro j hj
    have hpip : t.cur.pip j = (s.cur.popAll e (popsOf e pip)).pip j := congrArg (fun p => Cells.get [] p j) hp
    rw [hpip, Core.pip_popAll_of_notMem _ _ (notMem_popsOf_of_mem_pushesOf hj)]
    exact hroom j hj

/-! #### SYNC and the address-register words (R13, R112) -/

theorem exec_syncOf (e : Eng) (pip : BitVec 4) (s : State) :
    exec (syncOf e pip) s = .next (engWord e pip (fun s => .done s false) s) := by
  cases e <;> rfl

theorem pipChannels_eq (e : Eng) : pipChannels e = engChannels e := rfl

/-- The two channels that an engine pops differ. -/
theorem engChannels_pops_ne (e : Eng) : (engChannels e).1 ≠ (engChannels e).2.1 := by cases e <;> decide

@[simp] theorem wmax_zero (a : Word) : wmax a 0#64 = a := by
  unfold wmax
  split
  · exact (BitVec.eq_of_toNat_eq (by simp_all)).symm
  · rfl

/-- The PTS of an engine after its pops: the largest of its own and those of the pips. -/
theorem Core.pts_popAll_popsOf (c : Core) (e : Eng) (pip : BitVec 4) :
    ((c.popAll e (popsOf e pip)).eng e).pts =
      wmax (wmax (c.eng e).pts (if pip.getLsbD 3 then (c.pip (engChannels e).1).headD 0 else 0))
        (if pip.getLsbD 2 then (c.pip (engChannels e).2.1).headD 0 else 0) := by
  have hne := engChannels_pops_ne e
  unfold popsOf
  cases pip.getLsbD 3 <;> cases pip.getLsbD 2 <;> simp [Core.popAll, Core.pip_popPip, hne]

@[simp] theorem Engine.pts_take (x : Engine) : x.take.pts = x.pts := by
  unfold Engine.take
  split
  · rfl
  · split <;> rfl

@[simp] theorem Engine.pts_closeInner (x : Engine) : x.closeInner.pts = x.pts := by
  unfold Engine.closeInner
  split
  · rfl
  · split
    · rfl
    · split <;> rfl

@[simp] theorem Engine.pts_closeOuter (x : Engine) : x.closeOuter.pts = x.pts := by
  unfold Engine.closeOuter
  split
  · split
    · rfl
    · split <;> rfl
  · rfl

@[simp] theorem Engine.pts_finish (x : Engine) : x.finish.pts = x.pts := by simp [Engine.finish]

/-- The engine after a word that leaves it but for its PTS. -/
theorem Core.eng_after_id (c : Core) (e : Eng) (pip : BitVec 4) :
    (c.after e pip id).eng e = Engine.finish { c.eng e with pts := ((c.popAll e (popsOf e pip)).eng e).pts } := by
  rw [Core.after, Core.eng_updEng, Core.eng_pushAll, id, ← Core.eng_popAll]

/-- Of the core only the engine and the channels differ after such a word. -/
theorem Core.after_id (c : Core) (e : Eng) (pip : BitVec 4) :
    c.after e pip id = { c.setEng e ((c.after e pip id).eng e) with pips := (c.after e pip id).pips } := by
  obtain ⟨p, v, h⟩ := c.popAll_eq e (popsOf e pip)
  obtain ⟨q, h'⟩ := (c.popAll e (popsOf e pip)).pushAll_eq e (pushesOf e pip)
  rw [Core.after, id, h', h]
  cases e <;> rfl

/-- The channels after such a word. -/
theorem Core.pip_after_id (c : Core) (e : Eng) (pip : BitVec 4) (j : Nat) :
    (c.after e pip id).pip j =
      if j ∈ popsOf e pip then (c.pip j).tail
      else if j ∈ pushesOf e pip then c.pip j ++ [((c.after e pip id).eng e).pts] else c.pip j := by
  have hpts : ((c.after e pip id).eng e).pts = ((c.popAll e (popsOf e pip)).eng e).pts := by simp [Core.eng_after_id]
  rw [hpts, Core.after, Core.pip_updEng, id, Core.pip_pushAll _ _ (pushesOf_nodup e pip), Core.pip_popAll _ _ (popsOf_nodup e pip)]
  have := @notMem_popsOf_of_mem_pushesOf e pip j
  grind

/-- SYNC of an engine that is ready (R13). -/
theorem sync_completes {e : Eng} {pip : BitVec 4} (h : s.EngReady e pip) :
    Completes (syncOf e pip) s (s.EngineDone e pip id) :=
  ⟨_, exec_syncOf e pip s, engineDone_engWord h rfl (onlyCore_refl _) (cur_popPips e _ s) (by rw [cur_popPips])
    (by rw [cur_popPips, Core.engTrap_popAll]; exact h.2.2.2.1)⟩

/-- With the left pip missing nothing is popped, and the engine waits for its channel (R13). -/
theorem sync_waits_left {e : Eng} {pip : BitVec 4} (hpu : (s.cur.eng e).pushes = []) (hp : (s.cur.eng e).popped = false)
    (hh : (s.cur.eng e).half = false) (h3 : pip.getLsbD 3 = true) (hl : s.cur.pip (engChannels e).1 = []) :
    engWord e pip (fun s => .done s false) s = s.onEng e fun x => { x with half := false, stat := .waiting (.pipPop (engChannels e).1) } := by
  simp [engWord, hpu, Engine.owed, hp, hh, popsOf, h3, takePips, hl]

/-- With the right pip missing the left one is popped, and the engine waits for the right channel (R13). -/
theorem sync_waits_right {e : Eng} {pip : BitVec 4} (hpu : (s.cur.eng e).pushes = []) (hp : (s.cur.eng e).popped = false)
    (hh : (s.cur.eng e).half = false) (h3 : pip.getLsbD 3 = true) (h2 : pip.getLsbD 2 = true)
    (hl : s.cur.pip (engChannels e).1 ≠ []) (hr : s.cur.pip (engChannels e).2.1 = []) :
    engWord e pip (fun s => .done s false) s =
      (popPips e [(engChannels e).1] s).onEng e fun x => { x with half := true, stat := .waiting (.pipPop (engChannels e).2.1) } := by
  have hr' : ((popPips e [(engChannels e).1] s).cur.pip (engChannels e).2.1) = [] := by
    simp [Core.popAll, Core.pip_popPip, engChannels_pops_ne, hr]
  simp [engWord, hpu, Engine.owed, hp, hh, popsOf, h3, h2, takePips, hl, -cur_popPips, hr']

theorem enginePipsHold : EnginePipsHold := by
  intro s e pip li ri lo ro hch
  rw [pipChannels_eq] at hch
  obtain ⟨hli, hri, hlo, hro⟩ : (engChannels e).1 = li ∧ (engChannels e).2.1 = ri ∧ (engChannels e).2.2.1 = lo ∧ (engChannels e).2.2.2 = ro := by
    rw [hch]; exact ⟨rfl, rfl, rfl, rfl⟩
  refine ⟨fun h => ?_, fun hpu hp hh h3 => ⟨fun hl => ?_, fun hl h2 hr => ?_⟩⟩
  · obtain ⟨t, ht, ho, hc⟩ := sync_completes h
    refine ⟨t, ht, ho, ?_, ?_, ?_, fun j => ?_⟩
    · rw [hc]; exact Core.after_id _ _ _
    · simp [hc, Core.eng_after_id]
    · simp [hc, Core.eng_after_id, Core.pts_popAll_popsOf, hli, hri]
    · rw [hc, Core.pip_after_id]
      simp only [mem_popsOf, mem_pushesOf, hli, hri, hlo, hro]
  · refine ⟨_, exec_syncOf e pip s, ?_⟩
    rw [sync_waits_left hpu hp hh h3 (by rw [hli]; exact hl), hli]
    refine ⟨onlyCore_onEng s e _, ?_⟩
    rw [State.cur_onEng, Core.updEng, ← hh]
  · refine ⟨_, exec_syncOf e pip s, ?_⟩
    rw [sync_waits_right hpu hp hh h3 h2 (by rw [hli]; exact hl) (by rw [hri]; exact hr), hli, hri]
    refine ⟨(onlyCore_popPips e _ s).trans (onlyCore_onEng _ e _), ?_⟩
    rw [State.cur_onEng, cur_popPips]
    cases e <;> rfl

/-- A word that writes one engine register from the engine's own registers and the X.EXT before it. -/
theorem setA_completes {e : Eng} {pip : BitVec 4} (h : s.EngReady e pip) {i : Instr} {d : BitVec 4} {f : Engine → Word}
    (he : exec i s = .next (engWord e pip (fun s => .done (s.onEng e fun x => x.setA d (f x)) false) s))
    (hf : ∀ x p, f { x with pts := p } = f x) :
    Completes i s (s.EngineDone e pip fun c => c.updEng e fun x => x.setA d (f (s.cur.eng e))) := by
  refine ⟨_, he, engineDone_engWord h rfl (onlyCore_onEng _ e _) ?_ ?_ ?_⟩
  · rw [State.cur_onEng, cur_popPips, Core.updEng, Core.updEng, show f ((s.cur.popAll e (popsOf e pip)).eng e) = f (s.cur.eng e) by
      rw [Core.eng_popAll, hf]]
  · rw [State.cur_onEng, cur_popPips, Core.pips_updEng]
  · rw [State.cur_onEng, cur_popPips, Core.engTrap_updEng, Core.engTrap_popAll]
    exact h.2.2.2.1

/-- The immediate of an engine word: the field, with the payload of an X.EXT above it (R59). -/
theorem Engine.imm_eq {x : Engine} {i : BitVec 10} {v : Word}
    (h : (∀ p a, x.pfx ≠ .ext p a) ∧ v = i.signExtend 64 ∨ ∃ p a, x.pfx = .ext p a ∧ v = (p ++ i).signExtend 64) : x.imm i = v := by
  unfold Engine.imm
  rcases h with ⟨hne, rfl⟩ | ⟨p, a, hp, rfl⟩
  · split
    · rename_i p a hp; exact absurd hp (hne p a)
    · rfl
  · rw [hp]

theorem addressRegisterWordsHold : AddressRegisterWordsHold := by
  intro s e d a b i pip v h hv
  rw [← Engine.imm_eq hv]
  refine ⟨?_, ?_, ?_⟩
  · exact setA_completes (f := fun x => x.getA a + 64 * x.imm i) h (by cases e <;> rfl) fun x p => rfl
  · exact setA_completes (f := fun x => x.getA a + x.getA b) h (by cases e <;> rfl) fun x p => rfl
  · exact setA_completes (f := fun x => x.getA a) h (by cases e <;> rfl) fun x p => rfl

/-- Settles O27: the pips of a ready engine are popped, then the effect, then the pushes (`engineDone_engWord`). -/
theorem enginePipsAndAddresses : Obligations.EnginePipsAndAddresses := ⟨enginePipsHold, addressRegisterWordsHold⟩

/-! #### LOOPE and the end of a body (R9, R10) -/

/-- The word of an engine that LOOPE leaves: the loop opened, an outer body of no words closed. -/
def Engine.loope (x : Engine) (len cnt : Nat) : Engine :=
  { (match x.outer with
      | none => x.openOuter len cnt
      | some _ => x.openInner len cnt).closeOuter with stat := .ready }

theorem loope_completes (k : BitVec 2) (len : BitVec 8) (cnt : BitVec 13) :
    Completes (.loope k len cnt) s fun t =>
      s.OnlyCore t ∧ t.cur = s.cur.setEng (engOfNum k) ((s.cur.eng (engOfNum k)).loope len.toNat cnt.toNat) :=
  ⟨_, rfl, onlyCore_onEng s _ _, State.cur_onEng s _ _⟩

/-- An outer loop with a count opens an empty loop memory. -/
theorem Engine.loope_outer {x : Engine} {len cnt n : Nat} (ho : x.outer = none) (hi : x.inner = none)
    (hn : n = if cnt = 0 then x.lc0.toNat else cnt) (hn0 : n ≠ 0) (hlen : len ≠ 0) :
    x.loope len cnt = { x with
      queue := x.queue.tail, lc0 := BitVec.ofNat 32 n, outer := some ⟨n, 0, 0, len⟩, loopMem := [], latched := [], lp := 0, stat := .ready } := by
  have hpos : 0 < len := by omega
  simp [Engine.loope, ho, Engine.openOuter, ← hn, hn0, Engine.closeOuter, hi, hpos]

/-- An outer loop with count 0 discards its body. -/
theorem Engine.loope_outer_zero {x : Engine} {len cnt : Nat} (ho : x.outer = none)
    (hn : 0 = if cnt = 0 then x.lc0.toNat else cnt) :
    x.loope len cnt = { x with queue := x.queue.tail, lc0 := 0, skip := len, stat := .ready } := by
  simp [Engine.loope, ho, Engine.openOuter, ← hn, Engine.closeOuter]

theorem Engine.lp_take {x : Engine} {o : LoopSt} (ho : x.outer = some o) : x.take.lp = x.lp + 1 := by
  unfold Engine.take
  rw [ho]
  simp only
  split <;> rfl

@[simp] theorem Engine.outer_take (x : Engine) : x.take.outer = x.outer := by
  unfold Engine.take
  split
  · rfl
  · split <;> rfl

/-- An inner loop starts behind its LOOPE, with the count that its first execution latched. -/
theorem Engine.loope_inner {x : Engine} {len cnt n : Nat} {o : LoopSt} (ho : x.outer = some o)
    (hn : n = (Cells.find? x.latched x.lp).getD (if cnt = 0 then x.lc1.toNat else cnt)) (hn0 : n ≠ 0) :
    x.loope len cnt = { x.take with
      latched := Cells.put x.latched x.lp n, lc1 := BitVec.ofNat 32 n, inner := some ⟨n, 0, x.lp + 1, len⟩, stat := .ready } := by
  simp [Engine.loope, ho, Engine.openInner, ← hn, hn0, Engine.closeOuter, Engine.lp_take ho]

/-- The last word of an outer body that stands in loop memory. -/
theorem Engine.finish_last {x : Engine} {m i l : Nat} (ho : x.outer = some ⟨m, i, 0, l⟩) (hi : x.inner = none)
    (hmem : x.loopMem.length = l) (hlp : x.lp + 1 = l) :
    x.finish.queue = x.queue ∧
    (i + 1 < m → x.finish.outer = some ⟨m, i + 1, 0, l⟩ ∧ x.finish.lp = 0 ∧ x.finish.lc0 = BitVec.ofNat 32 (m - (i + 1)) ∧
      x.finish.loopMem = x.loopMem) ∧
    (m ≤ i + 1 → x.finish.outer = none ∧ x.finish.lc0 = 0 ∧ x.finish.loopMem = []) := by
  have htake : x.take = { x with lp := l } := by
    have hlt : x.lp < x.loopMem.length := by omega
    simp [Engine.take, ho, hlt, hlp]
  have hin : x.take.closeInner = { x with lp := l } := by rw [htake]; simp [Engine.closeInner, hi]
  by_cases hm : i + 1 < m
  · have hout : ({ x with lp := l } : Engine).closeOuter =
        { x with outer := some ⟨m, i + 1, 0, l⟩, lp := 0, lc0 := BitVec.ofNat 32 (m - (i + 1)) } := by
      simp [Engine.closeOuter, ho, hi, hm]
    rw [Engine.finish, hin, hout]
    exact ⟨rfl, fun _ => ⟨rfl, rfl, rfl, rfl⟩, fun h => absurd hm (by omega)⟩
  · have hout : ({ x with lp := l } : Engine).closeOuter =
        { x with outer := none, loopMem := [], latched := [], lp := 0, lc0 := 0 } := by
      simp [Engine.closeOuter, ho, hi, hm]
    rw [Engine.finish, hin, hout]
    exact ⟨rfl, fun h => absurd h hm, fun _ => ⟨rfl, rfl, rfl⟩⟩

/-- SYNC without pips only ends its word. -/
theorem sync_completes_zero {e : Eng} (h : s.EngReady e 0) :
    Completes (syncOf e 0) s fun t => t.cur.eng e = (s.cur.eng e).finish := by
  obtain ⟨t, ht, _, hc⟩ := sync_completes h
  refine ⟨t, ht, ?_⟩
  show t.cur.eng e = _
  rw [hc, Core.eng_after_id]
  rfl

/-- The count field of a LOOPE is 0 as a field and as a number alike. -/
theorem loope_count (cnt : BitVec 13) (v : Nat) :
    (if cnt = 0 then v else cnt.toNat) = if cnt.toNat = 0 then v else cnt.toNat := by
  have h : cnt = 0 ↔ cnt.toNat = 0 := ⟨fun h => by rw [h]; rfl, fun h => BitVec.eq_of_toNat_eq h⟩
  simp only [h]

/-- Settles O28: LOOPE opens or discards a body (`Engine.loope_outer`, `Engine.loope_outer_zero`, `Engine.loope_inner`), and the
end of the last word starts the next iteration or ends the loop (`Engine.finish_last`). -/
theorem engineLoops : Obligations.EngineLoops := by
  rintro s k e len cnt n - rfl hlen
  have hlen' : len.toNat ≠ 0 := fun h => hlen (BitVec.eq_of_toNat_eq h)
  obtain ⟨t, ht, hcore, hcur⟩ := loope_completes (s := s) k len cnt
  simp only [loope_count]
  refine ⟨fun ho hi hn => ⟨fun hn0 => ⟨t, ht, hcore, ?_⟩, fun hn0 => ⟨t, ht, hcore, ?_⟩⟩, fun o ho hi hn hn0 => ⟨t, ht, hcore, ?_⟩,
    fun m i l ho hi hmem hlp hr => ?_⟩
  · rw [hcur, Engine.loope_outer ho hi hn hn0 hlen']
  · rw [hcur, Engine.loope_outer_zero ho (hn0 ▸ hn)]
  · rw [hcur, Engine.loope_inner ho hn hn0]
  · obtain ⟨u, hu, he⟩ := sync_completes_zero hr
    obtain ⟨hq, hnext, hend⟩ := Engine.finish_last ho hi hmem hlp
    refine ⟨fun hm => ⟨u, hu, ?_⟩, fun hm => ⟨u, hu, ?_⟩⟩
    · obtain ⟨h1, h2, h3, h4⟩ := hnext hm
      rw [he]
      exact ⟨h1, h2, h3, h4, hq⟩
    · obtain ⟨h1, h2, h3⟩ := hend hm
      rw [he]
      exact ⟨h1, h2, h3, hq⟩

end Sys2Proof.Machine
end

section
/-! ### System registers (R18, R89) -/

namespace Sys2Proof.Machine

variable {s : State}

theorem State.InUser.inHusk (h : s.InUser) : s.inHusk = false := by simp [State.inHusk, h.1]

/-- `PRIV` of the word at the pc (R353). -/
theorem trappedPriv (h : s.InUser) (i : Instr) : s.Trapped 0x02 s.pc 0 ((wordOf i).setWidth 64) (s.priv i) :=
  trapped_takeTrap h ⟨0x02, 0, (wordOf i).setWidth 64⟩ s.pc

/-! #### SRD -/

/-- SRD of a register that is read at issue. -/
theorem exec_srd_issue (h : s.Plain) (d : BitVec 5) {x : BitVec 13} (hx : x ≠ 0x0A0 ∨ s.inHusk = true) (hc : isCSide x.toNat = false) :
    exec (.srd d x) s = .next (s.result d (s.readS x.toNat)) := by
  have hp : ¬ (x = 0x0A0 ∧ (!s.inHusk) = true) := fun ⟨h1, h2⟩ => by
    rcases hx with hx | hx
    · exact hx h1
    · simp [hx] at h2
  show Host.Outcome.next _ = _
  rw [sWord_plain h _ rfl, if_neg hp, hc]
  rfl

theorem srd_issue_completes (h : s.Plain) (d : BitVec 5) {x : BitVec 13} {v : Word} (hx : x ≠ 0x0A0 ∨ s.inHusk = true)
    (hc : isCSide x.toNat = false) (hv : s.readS x.toNat = v) : Completes (.srd d x) s (s.Result d v) :=
  ⟨_, exec_srd_issue h d hx hc, by rw [hv]; exact result_result s d v⟩

theorem exec_srd_share_user (h : s.Plain) (d : BitVec 5) (hh : s.inHusk = false) :
    exec (.srd d 0x0A0) s = .next (s.priv (.srd d 0x0A0)) := by
  show Host.Outcome.next _ = _
  rw [sWord_plain h _ rfl, if_pos ⟨rfl, by rw [hh]; rfl⟩]

/-- SHARE, the one register that only Husk reads, is not C's. -/
theorem ne_share_of_isCSide {x : BitVec 13} (hc : isCSide x.toNat = true) : x ≠ 0x0A0 := by
  rintro rfl
  exact absurd hc (by decide)

/-- SRD of a C-side register: once C is idle its value, and NDRIFT is cleared; before that S waits (R89). -/
theorem exec_srd_cside (h : s.Plain) (d : BitVec 5) {x : BitVec 13} (hc : isCSide x.toNat = true) :
    exec (.srd d x) s = .next (if s.cur.cIdle then
      (if x = 0x040 then s.onArr fun r => { r with ndrift := 0 } else s).result d (s.cur.readC x.toNat) else s.await .cside) := by
  show Host.Outcome.next _ = _
  rw [sWord_plain h _ rfl, if_neg fun hx => ne_share_of_isCSide hc hx.1, if_pos hc]

theorem cIdle_iff (s : State) : s.cur.cIdle = true ↔ s.CDrained := by
  simp [Core.cIdle, State.CDrained, and_assoc]

theorem srd_cside_completes (h : s.Plain) (hd : s.CDrained) (d : BitVec 5) {x : BitVec 13} {v : Word} (hc : isCSide x.toNat = true)
    (hx : x ≠ 0x040) (hv : s.cur.readC x.toNat = v) : Completes (.srd d x) s (s.Result d v) :=
  ⟨_, exec_srd_cside h d hc, by rw [if_pos ((cIdle_iff s).mpr hd), if_neg hx, hv]; exact result_result s d v⟩

theorem srd_cside_waits (h : s.Plain) (hd : ¬ s.CDrained) (d : BitVec 5) {x : BitVec 13} (hc : isCSide x.toNat = true) :
    Completes (.srd d x) s (fun t => s.OnlyCtx t ∧ s.SameG t ∧ s.SameP t ∧ t.pc = s.pc ∧ t.ctx.stat = .waiting .cside) := by
  refine ⟨_, exec_srd_cside h d hc, ?_⟩
  rw [if_neg fun hi => hd ((cIdle_iff s).mp hi)]
  exact ⟨onlyCtx_await s _, fun _ => by simp [State.g], fun _ => by simp [State.p], by simp [State.pc], by simp⟩

/-- The value that SRD of a register of Table 01.7 finds at issue. -/
theorem readS_of_mem_issueReads {x : BitVec 13 × Word} (hx : x ∈ s.issueReads) :
    x.1 ≠ 0x0A0 ∧ isCSide x.1.toNat = false ∧ s.readS x.1.toNat = x.2 := by
  simp only [State.issueReads, List.mem_cons, List.not_mem_nil, or_false] at hx
  rcases hx with rfl | rfl | rfl | rfl | rfl | rfl | rfl | rfl | rfl | rfl | rfl | rfl | rfl | rfl | rfl | rfl | rfl | rfl | rfl | rfl |
    rfl | rfl | rfl | rfl | rfl | rfl | rfl | rfl <;>
    dsimp only <;> exact ⟨by decide, by decide, rfl⟩

theorem readC_of_mem_cSideReads {x : BitVec 13 × Word} (hx : x ∈ s.cSideReads) :
    isCSide x.1.toNat = true ∧ x.1 ≠ 0x040 ∧ s.cur.readC x.1.toNat = x.2 := by
  simp only [State.cSideReads, List.mem_cons, List.not_mem_nil, or_false] at hx
  rcases hx with rfl | rfl | rfl | rfl | rfl | rfl <;>
    dsimp only <;> exact ⟨by decide, by decide, rfl⟩

/-- An index that Table 01.7 does not assign reads 0 (R18). -/
theorem readS_of_unassigned {x : Nat} (hx : Unassigned x) : s.readS x = 0 := by
  unfold Unassigned at hx
  have hreloc : ¬ (0x100 ≤ x ∧ x ≤ 0x107) := by omega
  unfold State.readS
  split
  case h_25 => exact if_neg hreloc
  all_goals omega

theorem isCSide_of_unassigned {x : Nat} (hx : Unassigned x) : isCSide x = false := by
  unfold Unassigned at hx
  simp only [isCSide, Bool.or_eq_false_iff, decide_eq_false_iff_not, beq_eq_false_iff_ne]
  omega

/-- FT and TSTAT of a tag. -/
theorem readC_table (c : Core) (k : Fin 16) :
    c.readC (0x020 + k.val) = Cells.get 0 c.vec.ft k.val ∧ c.readC (0x030 + k.val) = Cells.get 0 c.vec.tstat k.val := by
  have := k.isLt
  constructor
  · unfold Core.readC
    rw [if_pos (by omega), Nat.add_sub_cancel_left]
  · unfold Core.readC
    rw [if_neg (by omega), if_pos (by omega), Nat.add_sub_cancel_left]

theorem toNat_ofNat_13 {n : Nat} (h : n < 8192) : (BitVec.ofNat 13 n).toNat = n := by
  rw [BitVec.toNat_ofNat, Nat.mod_eq_of_lt h]

theorem isCSide_of_table {n : Nat} (h : 0x020 ≤ n ∧ n ≤ 0x043) : isCSide n = true := by simp [isCSide, h]

@[simp] theorem State.ctx_onArr (s : State) (f : Arr → Arr) : (s.onArr f).ctx = s.ctx := by
  rw [State.onArr, State.ctx_onCore]
  cases h : s.inHusk <;> simp [State.ctx, Core.ctx, h]

/-- SRD of NDRIFT also clears it (R18). -/
theorem srd_ndrift_completes (h : s.Plain) (hd : s.CDrained) (d : BitVec 5) :
    Completes (.srd d 0x040) s (fun t =>
      s.OnlyCore t ∧ s.PutG d (s.cur.arr.ndrift.setWidth 64) t ∧ t.StandsAt (s.pc + 4) ∧
      t.cur = { s.cur.setCtx s.inHusk t.ctx with arr := { s.cur.arr with ndrift := 0 } }) := by
  refine ⟨_, exec_srd_cside h d (x := 0x040) (by decide), ?_⟩
  rw [if_pos ((cIdle_iff s).mpr hd), if_pos rfl]
  obtain ⟨⟨hcore, hcur⟩, hput, hat⟩ := result_result (s.onArr fun r => { r with ndrift := 0 }) d (s.cur.arr.ndrift.setWidth 64)
  simp only [State.PutG, State.SameP, State.g, State.p, State.pc, State.ctx_onArr] at hput hat ⊢
  refine ⟨(onlyCore_onCore s _).trans hcore, hput, hat, hcur.trans ?_⟩
  rw [State.inHusk_onArr, State.cur_onArr]
  cases s.inHusk <;> rfl

theorem systemRegisterReadsHold : SystemRegisterReadsHold := by
  intro s d k h
  refine ⟨fun x hx => ?_, fun l hl => ⟨?_, ?_, ?_⟩, fun x hx => ?_, fun hh => ?_, fun hu => ?_, fun hd => ⟨fun x hx => ?_, ?_, ?_, ?_⟩,
    fun hd x hx => ?_⟩
  · obtain ⟨h1, h2, h3⟩ := readS_of_mem_issueReads hx
    exact srd_issue_completes h d (.inl h1) h2 h3
  · exact srd_issue_completes h d (.inl (by decide)) (by decide) (by show ((s.launchOf s.agent).map _).getD 0 = _; rw [hl]; rfl)
  · exact srd_issue_completes h d (.inl (by decide)) (by decide) (by show ((s.launchOf s.agent).map _).getD 0 = _; rw [hl]; rfl)
  · exact srd_issue_completes h d (.inl (by decide)) (by decide) (by show ((s.launchOf s.agent).map _).getD 0 = _; rw [hl]; rfl)
  · refine srd_issue_completes h d (.inl ?_) (isCSide_of_unassigned hx) (readS_of_unassigned hx)
    rintro rfl
    exact absurd hx (by unfold Unassigned; decide)
  · exact srd_issue_completes h d (.inr hh) (by decide) rfl
  · exact ⟨_, exec_srd_share_user h d hu.inHusk, trappedPriv hu _⟩
  · obtain ⟨h1, h2, h3⟩ := readC_of_mem_cSideReads hx
    exact srd_cside_completes h hd d h1 h2 h3
  · have hk : (BitVec.ofNat 13 (0x020 + k.val)).toNat = 0x020 + k.val := toNat_ofNat_13 (by omega)
    refine srd_cside_completes h hd d (by rw [hk]; exact isCSide_of_table (by omega)) (fun he => ?_) (by rw [hk]; exact (readC_table _ k).1)
    rw [he] at hk
    simp at hk
    omega
  · have hk : (BitVec.ofNat 13 (0x030 + k.val)).toNat = 0x030 + k.val := toNat_ofNat_13 (by omega)
    refine srd_cside_completes h hd d (by rw [hk]; exact isCSide_of_table (by omega)) (fun he => ?_) (by rw [hk]; exact (readC_table _ k).2)
    rw [he] at hk
    simp at hk
    omega
  · exact srd_ndrift_completes h hd d
  · refine srd_cside_waits h hd d ?_
    simp only [List.mem_cons, List.not_mem_nil, or_false] at hx
    simp only [isCSide, Bool.or_eq_true, decide_eq_true_eq, beq_iff_eq]
    omega

/-! #### SWR -/

/-- The core after an update of the current core and the next word. -/
theorem writes_onCore_advance (s : State) {f : Core → Core} (hf : ∀ c h x, f (c.setCtx h x) = (f c).setCtx h x)
    (hx : ∀ c h, (f c).ctx h = c.ctx h) : s.Writes f (s.onCore f).advance := by
  have hctx : (s.onCore f).ctx = s.ctx := by rw [State.ctx_onCore, hx]; rfl
  refine ⟨(onlyCore_onCore s f).trans (onlyCtx_advance _).1, fun r => ?_, fun q => ?_, ?_, ?_⟩
  · simp only [State.g, State.ctx_advance, hctx, Ctx.getG_goto]
  · simp only [State.p, State.ctx_advance, hctx, Ctx.getP_goto]
  · have := standsAt_advance (s.onCore f)
    rwa [State.pc, hctx] at this
  · rw [State.cur_advance, State.ctx_advance, State.cur_onCore, State.inHusk_onCore, hf]

/-- SWR of a register that S writes at issue. -/
theorem exec_swr_issue (h : s.Plain) (a : BitVec 5) {x : BitVec 13} (hc : isCSide x.toNat = false)
    (hx : accessOf x.toNat = .any ∨ (accessOf x.toNat = .huskOnly ∧ s.inHusk = true)) :
    exec (.swr a x) s = .next (s.writeS x.toNat (s.g a)).advance := by
  show Host.Outcome.next _ = _
  rw [sWord_plain h _ rfl]
  rcases hx with hx | ⟨hx, hh⟩
  · rw [hx]; simp only [hc, Bool.false_eq_true, if_false]
  · rw [hx]; simp only [hh, if_true]

theorem exec_swr_priv (h : s.Plain) (a : BitVec 5) {x : BitVec 13} (hx : accessOf x.toNat = .huskOnly) (hh : s.inHusk = false) :
    exec (.swr a x) s = .next (s.priv (.swr a x)) := by
  show Host.Outcome.next _ = _
  rw [sWord_plain h _ rfl, hx]
  simp only [hh, Bool.false_eq_true, if_false]

theorem exec_swr_illegal (h : s.Plain) (a : BitVec 5) {x : BitVec 13} (hx : accessOf x.toNat = .readOnly ∨ accessOf x.toNat = .unassigned) :
    exec (.swr a x) s = .next (s.illegal (.swr a x)) := by
  show Host.Outcome.next _ = _
  rw [sWord_plain h _ rfl]
  rcases hx with hx | hx <;> rw [hx]

theorem swr_issue_completes (h : s.Plain) (a : BitVec 5) {x : BitVec 13} {f : Core → Core} (hc : isCSide x.toNat = false)
    (hx : accessOf x.toNat = .any ∨ (accessOf x.toNat = .huskOnly ∧ s.inHusk = true)) (hw : s.writeS x.toNat (s.g a) = s.onCore f)
    (hf : ∀ c h x, f (c.setCtx h x) = (f c).setCtx h x) (hg : ∀ c h, (f c).ctx h = c.ctx h) : Completes (.swr a x) s (s.Writes f) :=
  ⟨_, exec_swr_issue h a hc hx, by rw [hw]; exact writes_onCore_advance s hf hg⟩

theorem accessOf_huskOnly {x : Nat} (hx : x ∈ [0x070, 0x072, 0x0A0] ∨ (0x100 ≤ x ∧ x ≤ 0x107)) : accessOf x = .huskOnly := by
  simp only [List.mem_cons, List.not_mem_nil, or_false] at hx
  rw [accessOf, if_neg (by omega), if_pos (by omega)]

theorem accessOf_readOnly_or_unassigned {x : Nat}
    (hx : x ≤ 0x006 ∨ x ∈ [0x010, 0x011, 0x040, 0x052, 0x060, 0x061, 0x071, 0x080, 0x081] ∨ (0x091 ≤ x ∧ x ≤ 0x094) ∨ Unassigned x) :
    accessOf x = .readOnly ∨ accessOf x = .unassigned := by
  simp only [List.mem_cons, List.not_mem_nil, or_false, Unassigned] at hx
  rw [accessOf, if_neg (by omega), if_neg (by omega)]
  split
  · exact .inl rfl
  · exact .inr rfl

/-- PINLIM is of the launch, in multiples of 4,096 (R279). -/
theorem swr_pinLim_completes (h : s.Plain) (hh : s.inHusk = true) (a : BitVec 5) {b : Binding} {l : Launch} (hb : s.cur.binding = some b)
    (hl : Cells.find? s.launches b.launch = some l) :
    Completes (.swr a 0x070) s (fun t =>
      s.SameG t ∧ s.SameP t ∧ t.StandsAt (s.pc + 4) ∧ t.cur = s.cur.setCtx s.inHusk t.ctx ∧
      (∀ n, n ≠ s.agent → t.core n = s.core n) ∧ (∀ p, t.byteAt p = s.byteAt p) ∧
      t = { s with cores := t.cores, launches := t.launches } ∧
      ∀ j, Cells.find? t.launches j = if j = b.launch then some { l with pinLim := s.g a &&& ~~~(4095 : Word) } else Cells.find? s.launches j) := by
  refine ⟨_, exec_swr_issue h a (x := 0x070) (by decide) (.inr ⟨by decide, hh⟩), ?_⟩
  have hw : s.writeS 0x070 (s.g a) = { s with launches := Cells.put s.launches b.launch { l with pinLim := s.g a &&& ~~~(4095 : Word) } } := by
    show (match s.cur.binding with | some b => _ | none => _) = _
    rw [hb]
    simp only [State.updLaunch, hl]
  show _ ∧ _
  rw [show (0x070 : BitVec 13).toNat = 0x070 from rfl, hw]
  generalize ({ l with pinLim := s.g a &&& ~~~(4095 : Word) } : Launch) = m
  obtain ⟨⟨⟨hcore, hother, hbyte⟩, hcur⟩, hg, hp, hat⟩ := skips_advance { s with launches := Cells.put s.launches b.launch m }
  refine ⟨hg, hp, hat, hcur, hother, fun l => ?_, hcore, fun j => ?_⟩
  · rw [hbyte]; cases l <;> rfl
  · rw [State.advance_launches, Cells.find?_put]
    simp only [eq_comm]

theorem systemRegisterWritesHold : SystemRegisterWritesHold := by
  intro s a k h
  refine ⟨?_, ?_, fun hh => ⟨?_, ?_, ?_, fun b l hb hl => swr_pinLim_completes h hh a hb hl⟩, fun hu => ⟨fun x hx => ?_, fun x hx => ?_⟩⟩
  · exact swr_issue_completes h a (by decide) (.inl (by decide)) rfl (fun c h x => by cases h <;> rfl) (fun c h => by cases h <;> rfl)
  · exact swr_issue_completes h a (by decide) (.inl (by decide)) rfl (fun c h x => by cases h <;> rfl) (fun c h => by cases h <;> rfl)
  · exact swr_issue_completes h a (by decide) (.inr ⟨by decide, hh⟩) rfl (fun c h x => by cases h <;> rfl) (fun c h => by cases h <;> rfl)
  · exact swr_issue_completes h a (by decide) (.inr ⟨by decide, hh⟩) rfl (fun c h x => by cases h <;> rfl) (fun c h => by cases h <;> rfl)
  · have hk : (BitVec.ofNat 13 (0x100 + k.val)).toNat = 0x100 + k.val := toNat_ofNat_13 (by omega)
    refine swr_issue_completes h a (by rw [hk]; simp [isCSide]; omega) (.inr ⟨by rw [hk]; exact accessOf_huskOnly (by omega), hh⟩) ?_
      (fun c h x => by cases h <;> rfl) (fun c h => by cases h <;> rfl)
    rw [hk]
    fin_cases k <;> rfl
  · exact ⟨_, exec_swr_priv h a (accessOf_huskOnly hx) hu.inHusk, trappedPriv hu _⟩
  · exact ⟨_, exec_swr_illegal h a (accessOf_readOnly_or_unassigned hx), trappedIllegal hu _⟩

/-- Settles O9: SRD and SWR by the class of the register (`exec_srd_issue`, `exec_srd_cside`, `exec_swr_issue`, `exec_swr_priv`,
`exec_swr_illegal`). -/
theorem systemRegisterAccess : Obligations.SystemRegisterAccess := ⟨systemRegisterReadsHold, systemRegisterWritesHold⟩

end Sys2Proof.Machine
end

section
/-! ### A turn runs the word at which its sequencer stands (R7, R55) -/

namespace Sys2Proof.Machine

variable {s : State}

theorem decode_ok {w : InstrWord} {i : Instr} (h : decode w = .ok i) : ∃ d, decodeWord w = .ok d ∧ d.toInstr = i := by
  unfold decode at h
  split at h
  · exact ⟨_, ‹_›, Except.ok.inj h⟩
  · cases h

/-- The fetched word of S is executed where nothing keeps it from issuing. -/
theorem fetched_word {w : InstrWord} {d : Decoded} (hp : s.placement w = none) (hd : destOf w = none) (hu : s.unresolved w = false)
    (hz : s.hazard w = false) (hw : decodeWord w = .ok d) :
    s.fetched w = .word d (if s.cur.team.jumped && !s.inHusk && !s.cur.handler then s.onTeam fun t => { t with jumped := false } else s) := by
  simp only [State.fetched, hp, hd, hw, hu, hz, Bool.or_self, Bool.false_eq_true, if_false]

/-- The turn of a context that executes the word at its pc. -/
theorem sTurn_executesNow {w : InstrWord} {d : Decoded} (h : s.ExecutesNow w) (hw : decodeWord w = .ok d) :
    s.sTurn = .word d s.asFetched := by
  obtain ⟨hstat, htrap, _, hend, hpast, hheld, hfetch, hecc, hplace, hdest, hunres, hhaz⟩ := h
  have henter : (!s.inHusk && (s.cur.engTrap.map fun t => !t.entered).getD false) = false := by
    rcases htrap with hh | ht
    · simp [hh]
    · cases he : s.cur.engTrap with
      | none => simp
      | some t => simp [ht t he]
  have hgo := fetched_word hplace hdest hunres hhaz hw
  unfold State.sTurn
  rcases hstat with hs | ⟨x, hs⟩ <;>
    simp only [hs, henter, hend, hpast, hheld, hfetch, hecc, hgo, Bool.false_eq_true, if_false] <;> rfl

theorem exists_of_lt {n : Nat} (h : n < 292) : exists_ n = true := by simp [exists_, h]

theorem step_seq_s {n : Nat} {w : InstrWord} {i : Instr} (hb : s.boot = .ready) (hn : n < 292) (hi : decode w = .ok i)
    (ht : s.turn = .seq n .s) (h : s.ExecutesNow w) : step s = finish s.fresh (fun t => t.counted s n .s) (exec i s.asFetched) := by
  obtain ⟨d, hd, rfl⟩ := decode_ok hi
  simp only [step, runTurn, ht, seqTurn, hb, exists_of_lt hn, sTurn_executesNow h hd, ne_eq, not_true_eq_false, if_false, Bool.not_true,
    Bool.false_eq_true, execDecoded_eq]

theorem step_seq_husk {n : Nat} {w : InstrWord} {i : Instr} (hb : s.boot = .ready) (hn : n < 292) (hi : decode w = .ok i)
    (ht : s.turn = .seq n .husk) (h : s.ExecutesNow w) :
    step s = finish s.fresh (fun t => (t.counted s n .husk).huskIssued s) (exec i s.asFetched) := by
  obtain ⟨d, hd, rfl⟩ := decode_ok hi
  have hissue : s.huskIssues = true := h.2.2.1 (by simp [State.inHusk, State.who, ht])
  simp only [step, runTurn, ht, seqTurn, hb, exists_of_lt hn, sTurn_executesNow h hd, hissue, ne_eq, not_true_eq_false, if_false,
    Bool.not_true, Bool.false_eq_true, execDecoded_eq]

/-- The turn of an engine that executes the word at the head of its queue. -/
theorem eTurn_executesNow {e : Eng} {w : InstrWord} {d : Decoded} (h : s.EngineExecutesNow e w) (hw : decodeWord w = .ok d) :
    s.eTurn e = .word d := by
  obtain ⟨q, hq, hk, rfl, hstat, hskip, hpfx, hecc, hfree⟩ := h
  have he : (if s.cur.engTrap.isSome then none else s.eccWord q.word) = none := by
    cases ht : s.cur.engTrap with
    | none => simp [(hecc ht).1]
    | some t => rfl
  have hl : (if s.cur.engTrap.isSome then none else s.eccLs d) = none := by
    cases ht : s.cur.engTrap with
    | none => simp [(hecc ht).2 d hw]
    | some t => rfl
  unfold State.eTurn
  simp only [hq]
  refine (if_neg ?_).trans ?_
  · rintro (hr | ⟨hheld, hbegun⟩)
    · exact hstat hr
    · obtain ⟨hmid, htrap⟩ := hfree.resolve_left (by simp [hheld])
      have hgoes : (((s.cur.eng e).midWord && !(s.saving && e == .c && (s.cur.eng e).atStop)) || !(s.cur.eng e).pushes.isEmpty) = true := by
        rcases hmid with ⟨hm, hs⟩ | hp
        · have : (s.saving && e == .c && (s.cur.eng e).atStop) = false := by
            rw [← Bool.not_eq_true]
            simpa [and_assoc] using hs
          simp [hm, this]
        · simp [hp]
      rw [hgoes] at hbegun
      cases ht : s.cur.engTrap with
      | none => simp [ht] at hbegun
      | some t =>
        have htrapped : t.e = e ∧ t.flt.cause ≠ 0x07 := by simpa [ht] using hbegun
        exact htrapped.2 (htrap t ht htrapped.1)
  · simp only [hk, hskip, gt_iff_lt, lt_self_iff_false, if_false, hpfx, he, hw, hl]

theorem step_seq_engine {n : Nat} {q : Seq} {e : Eng} {w : InstrWord} {i : Instr} (hb : s.boot = .ready) (hn : n < 292)
    (hi : decode w = .ok i) (hq : (q = .l ∧ e = .l) ∨ (q = .c ∧ e = .c) ∨ (q = .t ∧ e = .t)) (ht : s.turn = .seq n q)
    (h : (s.unland e).EngineExecutesNow e w) :
    step s = finish s.fresh (fun t => t.counted s n q) (exec i (s.unland e)) := by
  obtain ⟨d, hd, rfl⟩ := decode_ok hi
  have hturn := eTurn_executesNow h hd
  rcases hq with ⟨rfl, rfl⟩ | ⟨rfl, rfl⟩ | ⟨rfl, rfl⟩ <;>
    simp only [step, runTurn, ht, seqTurn, hb, exists_of_lt hn, hturn, ne_eq, not_true_eq_false, if_false, Bool.not_true,
      Bool.false_eq_true, execDecoded_eq]

theorem step_event {j : Instr} (hj : isEvent j = true) :
    step { s with turn := .event j } = finish s.fresh (fun t => t) (exec j { s with turn := .event j }) := by
  simp only [step, runTurn, hj, if_true]

/-- Four bytes as a number, the least significant first, are the word at them. -/
theorem wordOfBytes_eq (b0 b1 b2 b3 : Byte) :
    wordOfBytes b0 b1 b2 b3 = BitVec.ofNat 32 (b0.toNat + 256 * (b1.toNat + 256 * (b2.toNat + 256 * b3.toNat))) := by
  have happ : ∀ {m n : Nat} (x : BitVec m) (y : BitVec n), (x ++ y).toNat = y.toNat + 2 ^ n * x.toNat := fun x y => by
    rw [BitVec.toNat_append, ← Nat.shiftLeft_add_eq_or_of_lt y.isLt, Nat.shiftLeft_eq, Nat.mul_comm, Nat.add_comm]
  apply BitVec.eq_of_toNat_eq
  rw [wordOfBytes, happ, happ, happ, BitVec.toNat_ofNat]
  omega

/-- A fetch reads the four bytes at the place to which the tables lead, the least significant first (R55). -/
theorem word_of_fetchAt {a : Word} {w : InstrWord} {l : Loc} (hf : s.fetchAt a = .ok w)
    (hl : s.translate s.agent (!s.inHusk) .fetch a = .ok l) :
    w = wordOfBytes (s.byteAt l) (s.byteAt (l.plus 1)) (s.byteAt (l.plus 2)) (s.byteAt (l.plus 3)) := by
  have hw : w = BitVec.ofNat 32 (s.natAt l 4) := by
    unfold State.fetchAt at hf
    rw [hl] at hf
    simp only at hf
    split at hf
    · cases hf
    · cases hf
    · exact (Except.ok.inj hf).symm
  have hplus : ∀ i j, (l.plus i).plus j = l.plus (i + j) := fun i j => by cases l <;> simp [Loc.plus, Nat.add_assoc]
  rw [hw]
  simp only [State.natAt, hplus, wordOfBytes_eq, Nat.mul_zero, Nat.add_zero]

/-- Settles O57: `step_seq_s`, `step_seq_husk`, `step_seq_engine` and `step_event` for the four kinds of turn, and `word_of_fetchAt`
for the word. -/
theorem stepRunsTheDecodedWord : Obligations.StepRunsTheDecodedWord := fun _ _ _ _ hb hn hi =>
  ⟨fun ht h => step_seq_s hb hn hi ht h, fun ht h => step_seq_husk hb hn hi ht h,
    fun _ _ hq ht h => step_seq_engine hb hn hi hq ht h, fun _ hj => step_event hj, fun _ _ hf hl => word_of_fetchAt hf hl⟩

end Sys2Proof.Machine
end

section
/-! ### Steps of a core that execute no word (R7, R23, R26, R65, R157, R165, R169) -/

namespace Sys2Proof.Machine

variable {s t : State}

/-! #### One core becomes another -/

theorem byteAt_updCore (s : State) (n : Nat) (f : Core → Core) (l : Loc) : (s.updCore n f).byteAt l = s.byteAt l := by
  cases l <;> rfl

theorem coreBecomes_updCore (s : State) (n : Nat) {f : Core → Core} {c : Core} (h : f (s.core n) = c) : s.CoreBecomes n c (s.updCore n f) := by
  refine ⟨rfl, fun m => ?_, byteAt_updCore s n f⟩
  rw [State.core_updCore, h]
  simp only [eq_comm]

/-- The context of S of a core, for what is done on its behalf. -/
theorem coreBecomes_onBehalf_onCtx (s : State) (n : Nat) {f : Ctx → Ctx} {c : Core} (h : { s.core n with user := f (s.core n).user } = c) :
    s.CoreBecomes n c (s.onBehalf n .s fun a => a.onCtx f) := by
  refine ⟨rfl, fun m => ?_, fun l => by cases l <;> rfl⟩
  show (({ s with turn := .seq n .s } : State).updCore n fun c => c.setCtx false (f (c.ctx false))).core m = _
  rw [State.core_updCore, ← h]
  simp only [eq_comm]
  rfl

/-! #### The rotation array and the vector unit -/

theorem pushLoader_of_room {l : List Nat} (hn : l.Nodup) {p : Word} {c : Core} (hp : c.c.pts = p) (hr : ∀ ch ∈ l, c.pipRoom ch = true) :
    Core.pushLoader l c = { l.foldl (fun (a : Core) ch => a.pushPip ch p) c with arr := { c.arr with loader := none } } := by
  induction l generalizing c with
  | nil => rfl
  | cons ch r ih =>
    obtain ⟨hch, hn'⟩ := List.nodup_cons.mp hn
    rw [Core.pushLoader, if_pos (hr ch (by simp)), hp, ih hn' (c := c.pushPip ch p) hp]
    · rfl
    · intro j hj
      have hne : ch ≠ j := by rintro rfl; exact hch hj
      simpa [Core.pipRoom, Core.pip_pushPip, hne] using hr j (by simp [hj])

theorem exec_planeLoadComplete {n : Nat} {ld : Loader} (h : (s.core n).arr.loader = some ld) (ha : ld.ahead = 0) :
    exec (.planeLoadComplete n) s = .next (s.updCore n (Core.pushLoader ld.pushes)) := by
  show Host.Outcome.next _ = _
  rw [h]
  simp only [ha, if_true]

theorem planeLoad_completes {n : Nat} {ld : Loader} (h : (s.core n).arr.loader = some ld) (ha : ld.ahead = 0) (hn : ld.pushes.Nodup)
    (hr : ∀ ch ∈ ld.pushes, (s.core n).pipRoom ch = true) :
    Completes (.planeLoadComplete n) s (s.CoreBecomes n
      { ld.pushes.foldl (fun (a : Core) ch => a.pushPip ch (s.core n).c.pts) (s.core n) with arr := { (s.core n).arr with loader := none } }) :=
  ⟨_, exec_planeLoadComplete h ha, coreBecomes_updCore s n (pushLoader_of_room hn rfl hr)⟩

theorem planeLoad_waits {n : Nat} {ld : Loader} {x y : Nat} (h : (s.core n).arr.loader = some ld) (ha : ld.ahead = 0) (hp : ld.pushes = [x, y])
    (hne : x ≠ y) (hx : (s.core n).pipRoom x = true) (hy : (s.core n).pipRoom y = false) :
    Completes (.planeLoadComplete n) s (s.CoreBecomes n
      { (s.core n).pushPip x (s.core n).c.pts with arr := { (s.core n).arr with loader := some ⟨[y], 0⟩ } }) := by
  refine ⟨_, exec_planeLoadComplete h ha, coreBecomes_updCore s n ?_⟩
  have hy' : ((s.core n).pushPip x (s.core n).c.pts).pipRoom y = false := by
    simpa [Core.pipRoom, Core.pip_pushPip, hne] using hy
  rw [hp, Core.pushLoader, if_pos hx, Core.pushLoader, hy']
  rfl

theorem vectorExit_completes {n : Nat} {v : AVec} {r : List AVec} (h : (s.core n).arr.inflight = v :: r) :
    Completes (.vectorExit n) s (s.CoreBecomes n { s.core n with arr := { (s.core n).arr with
      inflight := r, outbuf := (s.core n).arr.outbuf ++ [v],
      loader := (s.core n).arr.loader.map fun ld => { ld with ahead := ld.ahead - 1 } } }) := by
  refine ⟨s.updCore n fun c => { c with arr := { c.arr with
    inflight := r, outbuf := c.arr.outbuf ++ [v], loader := c.arr.loader.map fun ld => { ld with ahead := ld.ahead - 1 } } }, ?_,
    coreBecomes_updCore s n rfl⟩
  show Host.Outcome.next _ = _
  rw [h]

/-- The two fields of a tile-status register after an update (R169). -/
theorem tstatNext_fields (x : Word) (u : TUpd) :
    (tstatNext x u).toNat % 65536 = x.toNat % 64 ||| u.flags.toNat ∧
    (tstatNext x u).toNat / 65536 = min 65535 (x.toNat / 65536 % 65536 + u.count) := by
  have hf : x.toNat % 64 ||| u.flags.toNat < 2 ^ 6 := Nat.or_lt_two_pow (Nat.mod_lt _ (by decide)) u.flags.isLt
  unfold tstatNext
  generalize x.toNat % 64 ||| u.flags.toNat = a at hf
  rw [BitVec.toNat_ofNat]
  omega

theorem tstatUpdate_completes {n : Nat} {u : TUpd} {r : List TUpd} (h : (s.core n).vec.tupd = u :: r) :
    Completes (.tstatUpdate n) s (fun t =>
      s.CoreBecomes n { s.core n with vec := { (s.core n).vec with tupd := r, tstat := (t.core n).vec.tstat } } t ∧
      (∀ k, k ≠ u.tag → Cells.get 0 (t.core n).vec.tstat k = Cells.get 0 (s.core n).vec.tstat k) ∧
      (Cells.get 0 (t.core n).vec.tstat u.tag).toNat % 65536 = (Cells.get 0 (s.core n).vec.tstat u.tag).toNat % 64 ||| u.flags.toNat ∧
      (Cells.get 0 (t.core n).vec.tstat u.tag).toNat / 65536 =
        min 65535 ((Cells.get 0 (s.core n).vec.tstat u.tag).toNat / 65536 % 65536 + u.count)) := by
  refine ⟨s.updCore n fun c => { c with vec := { c.vec with
    tupd := r, tstat := Cells.set 0 c.vec.tstat u.tag (tstatNext (Cells.get 0 c.vec.tstat u.tag) u) } }, ?_, coreBecomes_updCore s n ?_, ?_⟩
  · show Host.Outcome.next _ = _
    rw [h]
  · rw [State.core_updCore_self]
  · rw [State.core_updCore_self]
    refine ⟨fun k hk => Cells.get_set_ne _ _ (Ne.symm hk) _, ?_⟩
    simp only [Cells.get_set_self]
    exact tstatNext_fields _ u

theorem ptsIdleAdvance_completes (s : State) (n : Nat) (q : Seq) :
    Completes (.ptsIdleAdvance n q) s (s.CoreBecomes n ((s.core n).setPts q ((s.core n).ptsOf q + 1))) :=
  ⟨_, rfl, coreBecomes_updCore s n rfl⟩

/-! #### Retirement (R23) -/

/-- An engine at its halt marker retires. -/
theorem Engine.retire_halt {x : Engine} {q : QEntry} {r : List QEntry} (ho : x.outer = none) (hq : x.queue = q :: r) (hk : q.kind = .halt) :
    x.retire = { x with queue := r, stat := .retired } := by
  simp only [Engine.retire, ho, hq, hk, if_true]

/-- C waits neither for a plane load nor for a slot operation. -/
def State.CFinished (s : State) (n : Nat) : Prop :=
  (s.core n).arr.loader = none ∧ ∀ y ∈ s.reqs, y.2.core = n → y.2.e = .c → y.2.pushes = [] ∧ ∀ k, y.2.kind ≠ .get k

theorem exec_engineRetire {n : Nat} {e : Eng} {q : QEntry} {r : List QEntry} {c1 : Core} (ho : ((s.core n).eng e).outer = none)
    (hq : ((s.core n).eng e).queue = q :: r) (hk : q.kind = .halt) (hret : (s.core n).retired = false) (hc : e = .c → s.CFinished n)
    (h1 : c1 = (s.core n).updEng e fun x => { x with queue := r, stat := .retired }) :
    exec (.engineRetire n e) s = .next (if c1.retired then (s.updCore n fun c => c.updEng e Engine.retire).coreRetired n
      else s.updCore n fun c => c.updEng e Engine.retire) := by
  have hwaits : (e == .c && ((s.core n).arr.loader.isSome || (s.reqs.any fun x => x.2.core == n && x.2.e == .c &&
      (!x.2.pushes.isEmpty || (match x.2.kind with | .get _ => true | _ => false))))) = false := by
    by_cases hec : e = .c
    · obtain ⟨hl, hr⟩ := hc hec
      have hany : (s.reqs.any fun x => x.2.core == n && x.2.e == .c &&
          (!x.2.pushes.isEmpty || (match x.2.kind with | .get _ => true | _ => false))) = false := by
        rw [List.any_eq_false]
        intro y hy hyt
        simp only [Bool.and_eq_true, beq_iff_eq, Bool.or_eq_true, Bool.not_eq_true'] at hyt
        obtain ⟨⟨hcore, he⟩, hbusy⟩ := hyt
        obtain ⟨hp, hg⟩ := hr y hy hcore he
        rcases hbusy with hb | hb
        · simp [hp] at hb
        · split at hb
          · rename_i k hk; exact hg k hk
          · exact absurd hb (by simp)
      rw [hl, hany]
      simp
    · simp [hec]
  have hcore : ((s.updCore n fun c => c.updEng e Engine.retire).core n) = c1 := by
    rw [State.core_updCore_self, h1, Core.updEng, Core.updEng, Engine.retire_halt ho hq hk]
  show Host.Outcome.next (s.retireEngine n e) = _
  have hret' : s.retireEngine n e = if ((s.updCore n fun c => c.updEng e Engine.retire).core n).retired && !(s.core n).retired then
      (s.updCore n fun c => c.updEng e Engine.retire).coreRetired n else s.updCore n fun c => c.updEng e Engine.retire := by
    unfold State.retireEngine
    exact (if_neg (ne_true_of_eq_false hwaits)).trans rfl
  rw [hret', hcore, hret, Bool.not_false, Bool.and_true]

/-- A core whose iteration is over: its pips, tokens and undrained results are gone (R23, R25). -/
def Core.iterationOver (gen now : Nat) (c : Core) : Core :=
  { c with pips := [], tokens := [], gen := gen, readyAt := now, arr := { c.arr with inflight := [], outbuf := [] } }

theorem State.cores_coreRetired (s : State) (n : Nat) :
    (s.coreRetired n).cores = (s.updCore n (Core.iterationOver s.nextId s.fresh)).cores := by
  cases hb : (s.core n).binding with
  | none => simp only [State.coreRetired, hb]; rfl
  | some b => simp only [State.coreRetired, hb, State.updLaunch_cores]; rfl

theorem byteAt_coreRetired (s : State) (n : Nat) (l : Loc) : (s.coreRetired n).byteAt l = s.byteAt l := by
  cases hb : (s.core n).binding with
  | none => simp only [State.coreRetired, hb]; cases l <;> rfl
  | some b => simp only [State.coreRetired, hb]; cases l <;> simp [State.byteAt]

theorem engineRetire_completes {n : Nat} {e : Eng} {q : QEntry} {r : List QEntry} {c1 : Core} (ho : ((s.core n).eng e).outer = none)
    (hq : ((s.core n).eng e).queue = q :: r) (hk : q.kind = .halt) (hret : (s.core n).retired = false) (hc : e = .c → s.CFinished n)
    (h1 : c1 = (s.core n).updEng e fun x => { x with queue := r, stat := .retired }) :
    (c1.retired = false → Completes (.engineRetire n e) s (s.CoreBecomes n c1)) ∧
    (c1.retired = true → Completes (.engineRetire n e) s (fun t =>
      (∀ m, t.core m = if m = n then { c1 with
        pips := [], tokens := [], gen := s.nextId, readyAt := s.fresh, arr := { c1.arr with inflight := [], outbuf := [] } } else s.core m) ∧
      ∀ l, t.byteAt l = s.byteAt l)) := by
  have hx := exec_engineRetire ho hq hk hret hc h1
  have hcore : (s.core n).updEng e Engine.retire = c1 := by rw [h1, Core.updEng, Core.updEng, Engine.retire_halt ho hq hk]
  constructor
  · intro hr
    refine ⟨_, hx, ?_⟩
    rw [hr]
    exact coreBecomes_updCore s n (f := fun c => c.updEng e Engine.retire) hcore
  · intro hr
    refine ⟨_, hx, ?_⟩
    rw [if_pos hr]
    refine ⟨fun m => ?_, fun l => (byteAt_coreRetired _ n l).trans (byteAt_updCore s n _ l)⟩
    rw [State.core_congr (State.cores_coreRetired _ n), State.core_updCore, State.core_updCore_self, hcore]
    by_cases hm : m = n
    · subst hm; simp only [if_true]; rfl
    · rw [if_neg (Ne.symm hm), if_neg hm, State.core_updCore_ne s (Ne.symm hm)]

/-! #### Branches resolved ahead, and the splitter (R7, R65) -/

/-- S of a core, in whose turn something is done on its behalf. -/
abbrev State.asS (s : State) (n : Nat) : State := { s with turn := .seq n .s }

theorem State.ctx_asS (s : State) (n : Nat) : (s.asS n).ctx = (s.core n).user := rfl

theorem isCondSb_of_fields {w : InstrWord} (he : w.extractLsb' 29 3 = 0) (ho : w.extractLsb' 23 6 = 0x10 ∨ w.extractLsb' 23 6 = 0x11)
    (hp : w.extractLsb' 20 3 ≠ 0) : isCondSb w = true := by
  rcases ho with ho | ho <;> simp [isCondSb, he, ho] <;> exact hp

theorem branchResolve_completes {n : Nat} {w : InstrWord} (hs : (s.core n).user.stat = .running)
    (hf : (s.asS n).fetchAt (s.core n).user.pc = .ok w) (hw : isCondSb w = true)
    (hx : ∀ x, (s.core n).user.split = some x → x.at_ ≠ (s.core n).user.pc) :
    Completes (.branchResolve n) s (s.CoreBecomes n { s.core n with user := { (s.core n).user with
      split := some ⟨(s.core n).user.pc, (s.core n).user.getP (w.extractLsb' 20 3) != (w.extractLsb' 19 1 == 1)⟩ } }) := by
  have hu : (s.asS n).unresolved w = true := by
    simp only [State.unresolved, hw, Bool.true_and, State.pc, State.ctx_asS]
    cases hsp : (s.core n).user.split with
    | none => rfl
    | some x => simpa using hx x hsp
  have hr : s.resolveAt n .s = some (s.onBehalf n .s fun a => a.onCtx fun x =>
      { x with split := some ⟨x.pc, a.p (w.extractLsb' 20 3) != (w.extractLsb' 19 1 == 1)⟩ }) := by
    have hs' : (s.asS n).ctx.stat = .running := hs
    have hf' : (s.asS n).fetchAt (s.asS n).pc = .ok w := hf
    simp only [State.resolveAt, hs', hf', hu, if_true]
  refine ⟨s.onBehalf n .s fun a => a.onCtx fun x =>
    { x with split := some ⟨x.pc, (s.core n).user.getP (w.extractLsb' 20 3) != (w.extractLsb' 19 1 == 1)⟩ }, ?_,
    coreBecomes_onBehalf_onCtx s n rfl⟩
  show Host.Outcome.next (match s.resolveAt n .s with | some s1 => s1 | none => (s.resolveAt n .husk).getD s) = _
  rw [hr]
  rfl

/-- What a walk leaves: an entry in the TLB of the core and in that of its pod (R351). -/
theorem noteTlb_spec (s : State) (n : Nat) (h : Bool) (va : Word) :
    (∃ x, (s.noteTlb n h va).core n = { s.core n with tlb := x }) ∧ (∀ m, m ≠ n → (s.noteTlb n h va).core m = s.core m) ∧
      ∃ c p, s.noteTlb n h va = { s with cores := c, pods := p } := by
  unfold State.noteTlb
  split
  · exact ⟨⟨_, rfl⟩, fun _ _ => rfl, _, _, rfl⟩
  · rename_i x _
    split
    · exact ⟨⟨_, rfl⟩, fun _ _ => rfl, _, _, rfl⟩
    · let f (c : Core) : Core := { c with tlb := tlbPut 64 s.fresh c.tlb x }
      exact ⟨⟨_, State.core_updCore_self s n f⟩, fun m hm => State.core_updCore_ne s (Ne.symm hm) f, _, _, rfl⟩

theorem openTeam_of_none (h : s.cur.team.team = none) : s.openTeam = none := by simp [State.openTeam, h]

/-- Outside a team stream S is at the end of no span. -/
theorem spanEnds_of_none (h : s.cur.team.team = none) : s.atSpanEnd = false ∧ s.pastOuter = false := by
  have hb : s.betweenSpans = false := by simp [State.betweenSpans, openTeam_of_none h]
  constructor
  · unfold State.atSpanEnd; split <;> simp [hb]
  · unfold State.pastOuter; split <;> simp [hb]

@[simp] theorem Core.setCap_cap (c : Core) (e : Eng) : c.setCap e (c.cap e) = c := by cases e <;> rfl

/-- The core after the splitter has put the word at `a` into a queue (R7). -/
def Core.steered (c : Core) (e : Eng) (w : InstrWord) (a : Word) : Core :=
  c.updEng e fun y => { y with
    queue := y.queue ++ [⟨.word, w, a, (a - c.team.header - 4) >>> 2, c.floor, y.steered, c.team.beat⟩], steered := y.steered + 1 }

theorem cur_onCore_advance {f : Core → Core} (hf : (f s.cur).ctx s.inHusk = s.ctx) :
    (s.onCore f).advance.cur = (f s.cur).setCtx s.inHusk (s.ctx.goto (s.pc + 4)) := by
  have hctx : (s.onCore f).ctx = s.ctx := by rw [State.ctx_onCore, hf]
  rw [State.cur_advance, State.cur_onCore, State.inHusk_onCore, State.pc, hctx]
  rfl

/-- A legal word of an engine with no X word before it goes to the queue of its engine. -/
theorem engineWord_steers {e : Eng} {w : InstrWord} {d : Decoded} (hpend : s.ctx.pend = none) (hpfx : s.ctx.pfx = .none)
    (hd : decodeWord w = .ok d) (hl : d.legal = true) (hm : w.extractLsb' 29 3 ≠ 7) (hcap : (s.cur.cap e).outer = 0)
    (hroom : (s.cur.eng e).queue.length < 64) :
    s.OnlyCore (s.engineWord e w) ∧
      (s.engineWord e w).cur = (s.cur.steered e w s.pc).setCtx s.inHusk (s.ctx.goto (s.pc + 4)) := by
  have hM : ¬ w.extractLsb' 29 3 = 7#3 := hm
  have hfull : ¬ ((s.cur.eng e).queue.length + 1 > 64) := by omega
  have hw : s.engineWord e w = (s.onCore fun c => (c.setCap e (s.cur.cap e)).updEng e fun y => { y with
      queue := y.queue ++ [⟨.word, w, s.pc, (s.pc - s.cur.team.header - 4) >>> 2, s.cur.floor, (s.cur.eng e).steered, s.cur.team.beat⟩],
      steered := y.steered + 1 }).advance := by
    simp [State.engineWord, State.steerTo, hpend, hpfx, Prefix.unaccepted, Prefix.word, hd, hl, hM, hfull, Capture.next, hcap, State.pc]
  rw [hw]
  refine ⟨(onlyCore_onCore _ _).trans (onlyCtx_advance _).1, ?_⟩
  rw [cur_onCore_advance (by rw [Core.updEng, Core.ctx_setEng, Core.setCap_cap]; rfl), Core.setCap_cap]
  rfl

/-- A context whose jump has landed. -/
def State.landed (s : State) : State :=
  if s.cur.team.jumped && !s.inHusk && !s.cur.handler then s.onTeam fun t => { t with jumped := false } else s

theorem landed_spec (s : State) : s.OnlyCore s.landed ∧ ∃ j, s.landed.cur = { s.cur with team := { s.cur.team with jumped := j } } := by
  unfold State.landed
  split
  · exact ⟨onlyCore_onCore s _, false, State.cur_onCore s _⟩
  · exact ⟨onlyCore_refl s, _, rfl⟩

/-- Outside a team stream an engine word at the pc goes to the splitter. -/
theorem fetched_steered {e : Eng} {w : InstrWord} (ht : s.cur.team.team = none) (hd : destOf w = some e) :
    s.fetched w = .steered (s.landed.engineWord e w) := by
  have hp : s.placement w = none := by simp only [State.placement, openTeam_of_none ht]
  simp only [State.fetched, hp, hd]
  rfl

theorem sTurn_steered {e : Eng} {w : InstrWord} (hs : s.ctx.stat = .running) (htrap : s.cur.engTrap = none) (ht : s.cur.team.team = none)
    (hheld : s.fetchHeld = false) (hf : s.fetchAt s.pc = .ok w) (hecc : s.eccWord w = none)
    (ht' : (s.noteTlb s.agent s.inHusk s.pc).cur.team.team = none) (hd : destOf w = some e) :
    s.sTurn = .steered ((s.noteTlb s.agent s.inHusk s.pc).landed.engineWord e w) := by
  obtain ⟨hend, hpast⟩ := spanEnds_of_none ht
  unfold State.sTurn
  simp only [hs, htrap, Option.map_none, Option.getD_none, Bool.and_false, hend, hpast, hheld, hf, hecc, Bool.false_eq_true, if_false]
  exact fetched_steered ht' hd

theorem splitterSteer_completes {n : Nat} {e : Eng} {w : InstrWord} {d : Decoded} (hs : (s.core n).user.stat = .running)
    (htrap : (s.core n).engTrap = none) (ht : (s.core n).team.team = none) (hpend : (s.core n).user.pend = none)
    (hpfx : (s.core n).user.pfx = .none) (hf : (s.asS n).fetchAt (s.core n).user.pc = .ok w) (hecc : (s.asS n).eccWord w = none)
    (hheld : (s.asS n).fetchHeld = false) (hdest : destOf w = some e) (hm : w.extractLsb' 29 3 ≠ 7) (hd : decodeWord w = .ok d)
    (hl : d.legal = true) (hcap : ((s.core n).cap e).outer = 0) (hroom : ((s.core n).eng e).queue.length < 64) :
    Completes (.splitterSteer n) s (fun t =>
      (t.core n).eng e = { (s.core n).eng e with
        queue := ((s.core n).eng e).queue ++ [⟨.word, w, (s.core n).user.pc, ((s.core n).user.pc - (s.core n).team.header - 4) >>> 2,
          (s.core n).floor, ((s.core n).eng e).steered, (s.core n).team.beat⟩],
        steered := ((s.core n).eng e).steered + 1 } ∧
      (t.core n).user = (s.core n).user.goto ((s.core n).user.pc + 4) ∧ (∀ m, m ≠ n → t.core m = s.core m) ∧
      ∀ l, t.byteAt l = s.byteAt l) := by
  let b := (s.asS n).noteTlb n false (s.core n).user.pc
  obtain ⟨⟨x, hcur⟩, hother, c, p, hb⟩ := noteTlb_spec (s.asS n) n false (s.core n).user.pc
  have hag : b.agent = n := by show State.agent (State.noteTlb _ _ _ _) = n; rw [hb]; rfl
  have hhusk : b.inHusk = false := by show State.inHusk (State.noteTlb _ _ _ _) = false; rw [hb]; rfl
  have hbcur : b.cur = { s.core n with tlb := x } := by show b.core b.agent = _; rw [hag]; exact hcur
  have hbyte : ∀ l, b.byteAt l = s.byteAt l := fun l => by
    show State.byteAt (State.noteTlb _ _ _ _) l = _; rw [hb]; cases l <;> rfl
  obtain ⟨hlo, j, hlc⟩ := landed_spec b
  have hlh : b.landed.inHusk = false := hlo.inHusk.trans hhusk
  rw [hbcur] at hlc
  have hlx : b.landed.ctx = (s.core n).user := by rw [State.ctx, hlh, hlc]; rfl
  have hturn : (s.asS n).sTurn = .steered (b.landed.engineWord e w) :=
    sTurn_steered hs htrap ht hheld hf hecc (by show b.cur.team.team = none; rw [hbcur]; exact ht) hdest
  have heng : b.landed.cur.eng e = (s.core n).eng e := by rw [hlc]; cases e <;> rfl
  have hcape : b.landed.cur.cap e = (s.core n).cap e := by rw [hlc]; cases e <;> rfl
  have hsteer := engineWord_steers (s := b.landed) (e := e) (w := w) (d := d) (by rw [hlx]; exact hpend) (by rw [hlx]; exact hpfx) hd hl hm
    (by rw [hcape]; exact hcap) (by rw [heng]; exact hroom)
  have hexec : exec (.splitterSteer n) s = .next { b.landed.engineWord e w with turn := s.turn } := by
    show Host.Outcome.next (s.onBehalf n .s fun a => match a.sTurn with | .steered b => b | _ => a) = _
    simp only [State.onBehalf, hturn]
  refine ⟨_, hexec, ?_⟩
  obtain ⟨hou, hcuru⟩ := hsteer
  replace hou := hlo.trans hou
  generalize b.landed.engineWord e w = u at hou hcuru
  rw [hlc, hlh, State.pc, hlx] at hcuru
  have hucur : u.core n = u.cur := by rw [State.cur, hou.agent, hag]
  show (u.core n).eng e = _ ∧ (u.core n).user = _ ∧ (∀ m, m ≠ n → u.core m = s.core m) ∧ ∀ l, State.byteAt { u with turn := s.turn } l = _
  refine ⟨?_, ?_, fun m hm => ?_, fun l => ?_⟩
  · rw [hucur, hcuru]
    cases e <;> rfl
  · rw [hucur, hcuru]
    cases e <;> rfl
  · rw [hou.2.1 m (by rw [hag]; exact hm)]
    exact hother m hm
  · rw [← hbyte l, ← hou.2.2 l]
    cases l <;> rfl

theorem coreStepsHold : CoreStepsHold := by
  rintro s n c rfl
  refine ⟨fun ld hld ha => ⟨fun hn hr => planeLoad_completes hld ha hn hr, fun x y hp hne hx hy => planeLoad_waits hld ha hp hne hx hy⟩,
    fun v r h => vectorExit_completes h, fun u r h => tstatUpdate_completes h, fun q => ptsIdleAdvance_completes s n q,
    fun e q r c1 ho hq hk hret hc h1 => engineRetire_completes ho hq hk hret hc h1,
    fun w hs hf he ho hp hx => branchResolve_completes hs hf (isCondSb_of_fields he ho hp) hx,
    fun e w d hs htrap ht hpend hpfx hf hecc hheld hdest hm hd hl hcap hroom =>
      splitterSteer_completes hs htrap ht hpend hpfx hf hecc hheld hdest hm hd hl hcap hroom⟩

end Sys2Proof.Machine
end

section
/-! ### Accesses on their way (R100, R102, R108, R292 to R294) -/

namespace Sys2Proof.Machine

variable {s t : State}

/-- What every step of a list leaves as it is, the list leaves as it is. -/
theorem foldl_keeps {σ α β : Type} (g : σ → β) {f : σ → α → σ} (hf : ∀ s a, g (f s a) = g s) (l : List α) (s : σ) :
    g (l.foldl f s) = g s := by
  induction l generalizing s with
  | nil => rfl
  | cons a l ih => rw [List.foldl_cons, ih, hf]

/-! #### Combining buffers -/

/-- The sending of combining buffers adds to what is on its way. -/
theorem sendCombs_cores (s : State) (n : Nat) (l : List Comb) : (l.foldl (fun a b => a.sendComb n b) s).cores = s.cores := by
  refine foldl_keeps State.cores (fun a b => ?_) l s
  unfold State.sendComb
  exact foldl_keeps State.cores (f := fun (x : State) (r : Nat × List Byte) => x.sendSys (.store n (.seq .s) (b.loc.plus r.1) r.2))
    (fun _ _ => rfl) _ a

theorem byteAt_sendCombs (s : State) (n : Nat) (l : List Comb) : (l.foldl (fun a b => a.sendComb n b) s).byteAt = s.byteAt := by
  refine foldl_keeps State.byteAt (fun a b => ?_) l s
  unfold State.sendComb
  exact foldl_keeps State.byteAt (f := fun (x : State) (r : Nat × List Byte) => x.sendSys (.store n (.seq .s) (b.loc.plus r.1) r.2))
    (fun _ _ => funext fun p => by cases p <;> rfl) _ a

theorem combiningBufferTimeout_completes {n : Nat} {b : Comb} (hb : b ∈ (s.core n).comb) :
    Completes (.combiningBufferTimeout n (b.loc.key / 64)) s (fun t =>
      (∀ m, t.core m = if m = n then { s.core n with
        comb := (s.core n).comb.filter fun x => x.loc.key / 64 != b.loc.key / 64 } else s.core m) ∧
      ∀ l, t.byteAt l = s.byteAt l) := by
  obtain ⟨d, hd⟩ : ∃ d, ((s.core n).comb.find? fun x => x.loc.key / 64 == b.loc.key / 64) = some d := by
    rw [← Option.isSome_iff_exists, List.find?_isSome]
    exact ⟨b, hb, by simp⟩
  have hkey : d.loc.key / 64 = b.loc.key / 64 := by simpa using List.find?_some hd
  refine ⟨s.sendCombAt n d.loc, ?_, ?_⟩
  · show Host.Outcome.next _ = _
    rw [hd]
  · simp only [State.sendCombAt, hkey]
    refine ⟨fun m => ?_, fun l => ?_⟩
    · rw [State.core_updCore, State.core_congr (sendCombs_cores s n _), State.core_congr (sendCombs_cores s n _)]
      simp only [eq_comm]
    · rw [byteAt_updCore, byteAt_sendCombs]

/-! #### Bytes under wide writes -/

theorem byteAt_putByte_self (s : State) (l : Loc) (b : Byte) : (s.putByte l b).byteAt l = b := by
  cases l <;> exact Memory.read_write_self _ _ _

/-- A place with another key keeps its byte. -/
theorem byteAt_putByte_of_key_ne (s : State) {l p : Loc} (h : p.key ≠ l.key) (b : Byte) : (s.putByte l b).byteAt p = s.byteAt p := by
  have out : ∀ (m : Memory) {i j k : Nat}, k + j ≠ k + i → Memory.read (Memory.write m i b) j = Memory.read m j := fun m i j k hij => by
    rw [Memory.read_write, if_neg fun e => hij (by rw [e])]
  cases l with
  | pkg a =>
    cases p with
    | pkg c => exact out s.mem (k := 0) (by simpa [Loc.key] using h)
    | _ => rfl
  | scratch q a =>
    cases p with
    | scratch r c => exact out s.scratch (k := 2 ^ 60) (by simpa [Loc.key, Nat.add_assoc] using h)
    | _ => rfl
  | host a =>
    cases p with
    | host c => exact out s.host (k := 2 ^ 61) h
    | _ => rfl
  | peer d a =>
    cases p with
    | peer e c => exact out s.peer (k := 2 ^ 62) (by simpa [Loc.key, Nat.add_assoc] using h)
    | _ => rfl

theorem Loc.plus_zero (l : Loc) : l.plus 0 = l := by cases l <;> rfl

theorem Loc.plus_plus (l : Loc) (i j : Nat) : (l.plus i).plus j = l.plus (i + j) := by cases l <;> simp [Loc.plus, Nat.add_assoc]

theorem Loc.key_plus (l : Loc) (i : Nat) : (l.plus i).key = l.key + i := by cases l <;> simp [Loc.plus, Loc.key, Nat.add_assoc]

/-- A wide write leaves every place whose key is none of its bytes'. -/
theorem byteAt_putNat_of_key_ne (s : State) (l : Loc) (n v : Nat) {p : Loc} (h : ∀ j, j < n → p.key ≠ (l.plus j).key) :
    (s.putNat l n v).byteAt p = s.byteAt p := by
  induction n generalizing s l v with
  | zero => rfl
  | succ n ih =>
    rw [State.putNat, ih, byteAt_putByte_of_key_ne]
    · simpa [Loc.plus_zero] using h 0 (by omega)
    · intro j hj
      rw [Loc.plus_plus, Nat.add_comm]
      exact h (j + 1) (by omega)

/-- What a wide write wrote reads back. -/
theorem natAt_putNat (s : State) (l : Loc) (n v : Nat) : (s.putNat l n v).natAt l n = v % 256 ^ n := by
  induction n generalizing s l v with
  | zero => simp [State.natAt, Nat.mod_one]
  | succ n ih =>
    have hfirst : ((s.putByte l (BitVec.ofNat 8 v)).putNat (l.plus 1) n (v / 256)).byteAt l = BitVec.ofNat 8 v := by
      rw [byteAt_putNat_of_key_ne, byteAt_putByte_self]
      intro j _
      rw [Loc.plus_plus, Loc.key_plus]
      omega
    rw [State.natAt, State.putNat, ih, hfirst, BitVec.toNat_ofNat]
    show v % 256 + _ = _
    rw [Nat.pow_succ', Nat.mod_mul]

theorem natOf_lt (bs : List Byte) : natOf bs < 256 ^ bs.length := by
  induction bs with
  | nil => simp [natOf]
  | cons b r ih =>
    have := b.isLt
    rw [natOf, List.length_cons, Nat.pow_succ]
    omega

/-! #### System-scope writes and loads -/

theorem writeSys_spec (s : State) (l : Loc) (bs : List Byte) : ∃ d, s.writeSys l bs = { s.putNat l bs.length (natOf bs) with devCopies := d } := by
  unfold State.writeSys
  simp only
  split
  · exact ⟨_, rfl⟩
  · exact ⟨_, rfl⟩

@[simp] theorem State.putByte_sys (s : State) (l : Loc) (b : Byte) : (s.putByte l b).sys = s.sys := by cases l <;> rfl

@[simp] theorem State.putNat_sys (s : State) (l : Loc) (n v : Nat) : (s.putNat l n v).sys = s.sys := by
  induction n generalizing s l v with
  | zero => rfl
  | succ n ih => simp [State.putNat, ih]

/-- The bytes do not depend on the device copies. -/
theorem byteAt_devCopies (s : State) (d : Cells (BitVec 1024)) : ({ s with devCopies := d } : State).byteAt = s.byteAt :=
  funext fun l => by cases l <;> rfl

theorem natAt_congr (h : t.byteAt = s.byteAt) (l : Loc) (n : Nat) : t.natAt l n = s.natAt l n := by
  induction n generalizing l with
  | zero => rfl
  | succ n ih => rw [State.natAt, State.natAt, h, ih]

theorem rootComplexAck_completes {i c : Nat} {o : SysSrc} {l : Loc} {bs : List Byte} (hs : Cells.find? s.sys i = some (.store c o l bs))
    (hb : s.sysBehind i c l bs.length = false) (hh : s.hostHeld c l = false) :
    Completes (.rootComplexAck i) s (fun t =>
      t.sys = Cells.del s.sys i ∧ t.cores = s.cores ∧ t.natAt l bs.length = natOf bs ∧
      ∀ p, (∀ j, j < bs.length → p.key ≠ (l.plus j).key) → t.byteAt p = s.byteAt p) := by
  obtain ⟨d, hw⟩ := writeSys_spec { s with sys := Cells.del s.sys i } l bs
  refine ⟨{ ({ s with sys := Cells.del s.sys i } : State).putNat l bs.length (natOf bs) with devCopies := d }, ?_, ?_⟩
  · show Host.Outcome.next _ = _
    rw [hs]
    simp only [hb, hh, Bool.or_self, Bool.false_eq_true, if_false, hw]
  · refine ⟨State.putNat_sys _ _ _ _, State.putNat_cores _ _ _ _, ?_, fun p hp => ?_⟩
    · rw [natAt_congr (byteAt_devCopies _ d), natAt_putNat, Nat.mod_eq_of_lt (natOf_lt bs)]
    · rw [byteAt_devCopies, byteAt_putNat_of_key_ne _ _ _ _ hp]
      cases p <;> rfl

/-- A read of system space changes the device copies alone (R293). -/
theorem readSys_spec (s : State) (l : Loc) (n : Nat) (plain : Bool) : ∃ d, (s.readSys l n plain).1 = { s with devCopies := d } := by
  unfold State.readSys
  simp only
  split
  · exact ⟨_, rfl⟩
  · split
    · exact ⟨_, rfl⟩
    · exact ⟨_, rfl⟩

theorem readParts_spec (s : State) (keep : Bool) (data : Cells Byte) (ps : List (Loc × Nat × Nat)) :
    ∃ d, (s.readParts keep data ps).1 = { s with devCopies := d } := by
  induction ps generalizing s with
  | nil => exact ⟨_, rfl⟩
  | cons p r ih =>
    obtain ⟨l, a, n⟩ := p
    simp only [State.readParts]
    split
    · obtain ⟨d, hd⟩ := readSys_spec s l n keep
      obtain ⟨d', hd'⟩ := ih (s.readSys l n keep).1
      exact ⟨d', by rw [hd', hd]⟩
    · exact ih s

/-- SYNC_FLOOR is of no context's registers. -/
theorem ctx_setFloor_core (s : State) (n : Nat) (h : Bool) : (s.setFloor.core n).ctx h = (s.core n).ctx h := by
  unfold State.setFloor
  split
  · rfl
  · rw [State.onCore, State.core_updCore]
    split
    · rename_i he; subst he; cases h <;> rfl
    · rfl

theorem core_setFloor_ne (s : State) {n : Nat} (h : n ≠ s.agent) : s.setFloor.core n = s.core n := by
  unfold State.setFloor
  split
  · rfl
  · exact State.core_onCore_ne s h _

theorem byteAt_setFloor (s : State) (l : Loc) : s.setFloor.byteAt l = s.byteAt l := by
  unfold State.setFloor
  split
  · rfl
  · cases l <;> rfl

/-- The sequencer of a context. -/
def ctxSeq (husk : Bool) : Seq := if husk then .husk else .s

/-- The data of a load goes into a register of its context; an acquire load sets SYNC_FLOOR too. -/
def State.loadData (s : State) (acq : Bool) (d : BitVec 5) (v : Word) : State :=
  let b := s.onCtx fun x => x.setG d v
  if acq then b.setFloor else b

theorem loadData_spec (s : State) (acq : Bool) (d : BitVec 5) (v : Word) :
    (∀ m, m ≠ s.agent → (s.loadData acq d v).core m = s.core m) ∧ (∀ l, (s.loadData acq d v).byteAt l = s.byteAt l) ∧
      (s.loadData acq d v).sys = s.sys ∧ ((s.loadData acq d v).core s.agent).ctx s.inHusk = s.ctx.setG d v := by
  have hx : ((s.onCtx fun x => x.setG d v).core s.agent).ctx s.inHusk = s.ctx.setG d v := State.ctx_onCtx s _
  have hb : ∀ l, (s.onCtx fun x => x.setG d v).byteAt l = s.byteAt l := (onlyCtx_onCtx s _).1.2.2
  cases acq with
  | false => exact ⟨fun m hm => State.core_onCtx_ne s hm fun x => x.setG d v, hb, rfl, hx⟩
  | true =>
    refine ⟨fun m hm => ?_, fun l => ?_, ?_, ?_⟩
    · exact (core_setFloor_ne (s.onCtx fun x => x.setG d v) hm).trans (State.core_onCtx_ne s hm fun x => x.setG d v)
    · exact (byteAt_setFloor _ l).trans (hb l)
    · show (State.setFloor _).sys = _
      unfold State.setFloor
      split <;> rfl
    · exact (ctx_setFloor_core _ _ _).trans hx

theorem hostReadCompletion_completes {i c : Nat} {h sg kp aq : Bool} {ps : List (Loc × Nat × Nat)} {own : Cells Byte} {gd : BitVec 5} {v : Nat}
    (hs : Cells.find? s.sys i = some (.load c h ps own gd sg kp aq)) (hh : ∀ p ∈ ps, s.hostHeld c p.1 = false)
    (hv : v = (s.readParts kp own ps).2) :
    Completes (.hostReadCompletion i) s (fun t =>
      t.sys = Cells.del s.sys i ∧ (∀ l, t.byteAt l = s.byteAt l) ∧ (∀ m, m ≠ c → t.core m = s.core m) ∧
      ((t.core c).ctx h).getG gd = (if gd = 0 then 0 else
        if sg then sextTo (8 * ps.foldl (fun a p => a + p.2.2) 0) (BitVec.ofNat 64 v) else BitVec.ofNat 64 v) ∧
      ∀ r, r ≠ gd → ((t.core c).ctx h).getG r = ((s.core c).ctx h).getG r) := by
  obtain ⟨d, hd⟩ := readParts_spec s kp own ps
  have hheld : (ps.any fun p => s.hostHeld c p.1) = false := by
    rw [List.any_eq_false]
    intro p hp
    simp [hh p hp]
  generalize hx : (if sg then sextTo (8 * ps.foldl (fun a p => a + p.2.2) 0) (BitVec.ofNat 64 v) else BitVec.ofNat 64 v : Word) = x
  let u : State := { s with
    devCopies := d, sys := Cells.del s.sys i, aoseqs := s.aoseqs.map fun (y : Nat × Aoseq) =>
      (y.1, if y.2.core == c && y.2.husk == h then { y.2 with snap := y.2.snap.setG gd x } else y.2), turn := .seq c (ctxSeq h) }
  have hexec : exec (.hostReadCompletion i) s = .next { u.loadData aq gd x with turn := s.turn } := by
    show Host.Outcome.next _ = _
    rw [hs]
    simp only [hheld, Bool.false_eq_true, if_false, hd, ← hv, hx]
    rfl
  obtain ⟨hother, hbytes, hsys, hctx⟩ := loadData_spec u aq gd x
  have hu : u.inHusk = h := by cases h <;> rfl
  rw [hu] at hctx
  have hself : ({ u.loadData aq gd x with turn := s.turn } : State).core c = (u.loadData aq gd x).core u.agent := rfl
  have huctx : u.ctx = (s.core c).ctx h := by rw [State.ctx, hu]; rfl
  refine ⟨_, hexec, hsys, fun l => ?_, hother, ?_, fun r hr => ?_⟩
  · exact Eq.trans (by cases l <;> rfl) ((hbytes l).trans (by cases l <;> rfl))
  · rw [hself, hctx, Ctx.getG_setG, if_pos rfl]
  · rw [hself, hctx, Ctx.getG_setG, if_neg (Ne.symm hr), huctx]

/-! #### Lines that come to their home (R278, R299) -/

theorem Cells.mem_of_find? {α : Type} {l : Cells α} {k : Nat} {v : α} (h : Cells.find? l k = some v) : (k, v) ∈ l := by
  induction l with
  | nil => cases h
  | cons x r ih =>
    obtain ⟨j, w⟩ := x
    simp only [Cells.find?] at h
    split at h
    · rename_i hj
      subst hj
      simp only [Option.some.injEq] at h
      simp [h]
    · exact List.mem_cons_of_mem _ (ih h)

theorem Cells.mem_of_mem_del {α : Type} {l : Cells α} {k : Nat} {x : Nat × α} (h : x ∈ Cells.del l k) : x ∈ l := by
  rw [Cells.del_eq_filter] at h
  exact (List.mem_filter.mp h).1

/-- Lines have left the shared cache, and nothing but their shadow records has gone to memory. -/
structure State.Evicted (s t : State) : Prop where
  records : ∀ l, t.InRecords l → s.InRecords l
  bytes : s.SameBytes t
  cores : t.cores = s.cores
  gangs : t.gangs = s.gangs
  reqs : t.reqs = s.reqs

theorem State.Evicted.refl (s : State) : s.Evicted s := ⟨fun _ h => h, fun _ _ => rfl, rfl, rfl, rfl⟩

theorem State.Evicted.trans {u : State} (h : s.Evicted t) (h' : t.Evicted u) : s.Evicted u where
  records l hl := h.records l (h'.records l hl)
  bytes l hl := by rw [h'.bytes l fun hr => hl (h.records l hr), h.bytes l hl]
  cores := h'.cores.trans h.cores
  gangs := h'.gangs.trans h.gangs
  reqs := h'.reqs.trans h.reqs

theorem inRecords_of_subset (h : ∀ x ∈ t.attrs, x ∈ s.attrs) {l : Loc} : t.InRecords l → s.InRecords l
  | ⟨x, hx, hp⟩ => ⟨x, h x hx, hp⟩

theorem evicted_evict (s : State) (k : Nat) : s.Evicted (s.evict k) := by
  unfold State.evict
  split
  · exact State.Evicted.refl s
  · rename_i x hx
    simp only
    cases hp : x.shadowAt with
    | none => exact ⟨fun _ => inRecords_of_subset fun _ => Cells.mem_of_mem_del, fun l _ => by cases l <;> rfl, rfl, rfl, rfl⟩
    | some p =>
      refine ⟨fun _ => inRecords_of_subset fun _ => Cells.mem_of_mem_del, fun l hl => ?_, rfl, rfl, rfl⟩
      cases l with
      | pkg a =>
        refine Memory.read_writeNat_out _ _ _ _ _ ?_
        refine Classical.byContradiction fun hc => hl ⟨(k, x), Cells.mem_of_find? hx, p, a, hp, rfl, by omega, by omega⟩
      | _ => rfl

theorem evicted_evicts {α : Type} (s : State) (l : List α) (f : α → Nat) : s.Evicted (l.foldl (fun a x => a.evict (f x)) s) := by
  induction l generalizing s with
  | nil => exact State.Evicted.refl s
  | cons x r ih => exact (evicted_evict s (f x)).trans (ih _)

theorem evicted_lineRoom (s : State) (home set : Nat) : s.Evicted (s.lineRoom home set) := by
  unfold State.lineRoom
  simp only
  split
  · exact State.Evicted.refl s
  · split
    · exact evicted_evict s _
    · exact State.Evicted.refl s

theorem evicted_shadows (s : State) (r : Cells Word) : s.Evicted { s with shadows := r } :=
  ⟨fun _ h => h, fun l _ => by cases l <;> rfl, rfl, rfl, rfl⟩

theorem evicted_fetchRecords (s : State) (k p : Nat) : s.Evicted (s.fetchRecords k p) := evicted_shadows s _

/-- What an access to a line leaves: no byte but shadow records has changed, no core and no request, and the line of a place in package
memory is resident with the class `cls` (R278). -/
structure State.Touched (s t : State) (l : Loc) (cls : BitVec 2) : Prop where
  bytes : s.SameBytes t
  cores : t.cores = s.cores
  reqs : t.reqs = s.reqs
  line : ∀ a, l = .pkg a → ∃ y, Cells.find? t.attrs (a / 128) = some y ∧ y.cls = cls

/-- A touch of a line of package memory: other lines may have left, and the line's own entry `y` stands in the shared cache, with the shadow
records that it carried before, or those at `sh`. -/
theorem touch_pkg (s : State) (a home set : Nat) (sh : Option Nat) (cls : BitVec 2) (dirty : Bool) :
    ∃ u y, s.Evicted u ∧ s.touch (.pkg a) home set sh cls dirty = { u with attrs := Cells.put u.attrs (a / 128) y } ∧ y.cls = cls ∧
      (sh = none → ∀ p, y.shadowAt = some p → ∃ x ∈ u.attrs, x.2.shadowAt = some p) := by
  unfold State.touch
  simp only
  generalize hu : (if cls = 3 then List.foldl (fun (a : State) x => a.evict x.1) s
    ((s.setLines home set).filter fun x => x.1 != a / 128 && x.2.cls == 3 && x.2.pins.isEmpty) else s) = u
  have he : s.Evicted u := by
    rw [← hu]
    split
    · exact evicted_evicts s _ _
    · exact State.Evicted.refl s
  cases hx : Cells.find? u.attrs (a / 128) with
  | some x =>
    have hmem := Cells.mem_of_find? hx
    simp only
    cases hold : x.shadowAt with
    | some p => exact ⟨u, _, he, rfl, rfl, fun _ q hq => ⟨_, hmem, hold.trans hq⟩⟩
    | none =>
      cases sh with
      | none => exact ⟨u, _, he, rfl, rfl, fun _ q hq => by cases hq⟩
      | some p => exact ⟨u.fetchRecords (a / 128) p, _, he.trans (evicted_fetchRecords u _ _), rfl, rfl, fun h => by cases h⟩
  | none =>
    have hr := he.trans (evicted_lineRoom u home set)
    cases sh with
    | none => exact ⟨u.lineRoom home set, _, hr, rfl, rfl, fun _ q hq => by cases hq⟩
    | some p => exact ⟨(u.lineRoom home set).fetchRecords (a / 128) p, _, hr.trans (evicted_fetchRecords _ _ _), rfl, rfl, fun h => by cases h⟩

theorem touched_touch (s : State) (l : Loc) (home set : Nat) (sh : Option Nat) (cls : BitVec 2) (dirty : Bool) :
    s.Touched (s.touch l home set sh cls dirty) l cls := by
  cases l with
  | pkg a =>
    obtain ⟨u, y, hu, ht, hy, _⟩ := touch_pkg s a home set sh cls dirty
    rw [ht]
    refine ⟨fun l hl => Eq.trans (by cases l <;> rfl) (hu.bytes l hl), hu.cores, hu.reqs, fun b hb => ?_⟩
    cases hb
    exact ⟨y, Cells.find?_put_self _ _ _, hy⟩
  | _ => exact ⟨fun _ _ => rfl, rfl, rfl, fun _ h => by cases h⟩

/-- Outside a race window no line takes shadow records with it. -/
theorem evicted_touch (s : State) (l : Loc) (home set : Nat) (cls : BitVec 2) (dirty : Bool) : s.Evicted (s.touch l home set none cls dirty) := by
  cases l with
  | pkg a =>
    obtain ⟨u, y, hu, ht, _, hy⟩ := touch_pkg s a home set none cls dirty
    rw [ht]
    refine hu.trans ⟨?_, fun l _ => by cases l <;> rfl, rfl, rfl, rfl⟩
    rintro l ⟨x, hx, p, b, hp, hrest⟩
    rcases Cells.mem_put hx with rfl | hx
    · obtain ⟨z, hz, hzp⟩ := hy rfl p hp
      exact ⟨z, hz, p, b, hzp, hrest⟩
    · exact ⟨x, hx, p, b, hp, hrest⟩
  | _ => exact State.Evicted.refl s

/-- Only timestamps of lines and copies in caches differ. -/
structure State.OnlyCaches (s t : State) : Prop where
  bytes : ∀ l, t.byteAt l = s.byteAt l
  cores : t.cores = s.cores
  reqs : t.reqs = s.reqs
  attrs : t.attrs = s.attrs

theorem State.OnlyCaches.refl (s : State) : s.OnlyCaches s := ⟨fun _ => rfl, rfl, rfl, rfl⟩

theorem State.OnlyCaches.trans {u : State} (h : s.OnlyCaches t) (h' : t.OnlyCaches u) : s.OnlyCaches u :=
  ⟨fun l => (h'.bytes l).trans (h.bytes l), h'.cores.trans h.cores, h'.reqs.trans h.reqs, h'.attrs.trans h.attrs⟩

theorem onlyCaches_copies (s : State) (c : Cells Copy) : s.OnlyCaches { s with copies := c } :=
  ⟨fun l => by cases l <;> rfl, rfl, rfl, rfl⟩

theorem onlyCaches_setTs (s : State) (l : Loc) (x : LineTs) : s.OnlyCaches (s.setTs l x) := by
  cases l <;> exact ⟨fun k => by cases k <;> rfl, rfl, rfl, rfl⟩

theorem onlyCaches_replaceCopy (s : State) (l : List (Nat × Copy)) : s.OnlyCaches (s.replaceCopy l).1 := by
  unfold State.replaceCopy
  split
  · exact onlyCaches_copies s _
  · exact State.OnlyCaches.refl s

theorem onlyCaches_copyRoom (s : State) (h : Holder) : s.OnlyCaches (s.copyRoom h).1 := by
  unfold State.copyRoom
  simp only
  split
  · split
    · exact State.OnlyCaches.refl s
    · exact onlyCaches_replaceCopy s _
  · split
    · exact State.OnlyCaches.refl s
    · exact onlyCaches_replaceCopy s _

theorem onlyCaches_putCopy (s : State) (l : Loc) (h : Holder) (d : BitVec 1024) (w r : Word) : s.OnlyCaches (s.putCopy l h d w r) := by
  cases l with
  | pkg a =>
    cases hc : Cells.find? s.copies (copyKey (a / 128) h.id) with
    | some c =>
      simp only [State.putCopy, hc]
      exact onlyCaches_copies s _
    | none =>
      simp only [State.putCopy, hc]
      exact (onlyCaches_copyRoom s h).trans (onlyCaches_copies _ _)
  | _ => exact State.OnlyCaches.refl s

theorem onlyCaches_putCopies (s u : State) (hs : List Holder) (l : Loc) (d : BitVec 1024) (w r : Word) (h : u.OnlyCaches s) :
    u.OnlyCaches (hs.foldl (fun a x => a.putCopy l x d w r) s) := by
  induction hs generalizing s with
  | nil => exact h
  | cons x xs ih => exact ih _ (h.trans (onlyCaches_putCopy s l x d w r))

theorem onlyCaches_readAt (s : State) (hs : List Holder) (lam p : Word) (l : Loc) (n : Nat) : s.OnlyCaches (s.readAt hs lam p l n).1 := by
  unfold State.readAt
  split
  · exact State.OnlyCaches.refl s
  · exact onlyCaches_putCopies _ s hs l _ _ _ (onlyCaches_setTs s l _)

theorem homeLoad_completes {i : Nat} {r : Req} {cls : BitVec 2} {fill : Bool} (hr : Cells.find? s.reqs i = some r) (hk : r.kind = .line cls fill)
    (ht : s.reqTurn r = true) :
    Completes (.homeLoad i) s (fun t =>
      Cells.find? t.reqs i = none ∧ t.cores = s.cores ∧ s.SameBytes t ∧
      ∀ a, r.loc = .pkg a → ∃ y, Cells.find? t.attrs (a / 128) = some y ∧ y.cls = cls) := by
  have h1 : (s.noteServed r).Touched ((s.noteServed r).touchFor (s.reqWho r) cls false r.loc r.va) r.loc cls := touched_touch _ _ _ _ _ _ _
  generalize hs1 : (s.noteServed r).touchFor (s.reqWho r) cls false r.loc r.va = s1 at h1
  generalize hhs : (if fill && !s1.homeOnly (s1.reqWho r) false r.va.toNat then s1.holders r.core r.va.toNat else []) = hs
  have h2 : s1.OnlyCaches (if hs.isEmpty then s1 else (s1.readAt hs (s1.leaseOf r.core) r.pts r.loc 0).1) := by
    split
    · exact State.OnlyCaches.refl s1
    · exact onlyCaches_readAt s1 _ _ _ _ _
  generalize hs2 : (if hs.isEmpty then s1 else (s1.readAt hs (s1.leaseOf r.core) r.pts r.loc 0).1) = s2 at h2
  refine ⟨s2.dropReq i, ?_, Cells.find?_del_self _ _, h2.cores.trans h1.cores, fun l hl => ?_, fun a ha => ?_⟩
  · show Host.Outcome.next _ = _
    simp only [hr, hk, ht, Bool.not_true, Bool.false_eq_true, if_false, hs1, hhs, hs2]
  · calc (s2.dropReq i).byteAt l = s2.byteAt l := by cases l <;> rfl
      _ = s1.byteAt l := h2.bytes l
      _ = (s.noteServed r).byteAt l := h1.bytes l hl
      _ = s.byteAt l := by cases l <;> rfl
  · obtain ⟨y, hy, hc⟩ := h1.line a ha
    exact ⟨y, h2.attrs ▸ hy, hc⟩

theorem systemSpaceStepsHold : SystemSpaceStepsHold := fun _ _ _ =>
  ⟨fun _ hb => combiningBufferTimeout_completes hb, fun _ _ _ _ hs hb hh => rootComplexAck_completes hs hb hh,
    fun _ _ _ _ _ _ _ _ _ hs hh hv => hostReadCompletion_completes hs hh hv, fun _ _ _ hr hk ht => homeLoad_completes hr hk ht⟩

/-- Settles O45: each step by a lemma of its own, over the rules for one core, for bytes and for lines of the shared cache. -/
theorem coreAndSystemSpaceSteps : Obligations.CoreAndSystemSpaceSteps := ⟨coreStepsHold, systemSpaceStepsHold⟩

end Sys2Proof.Machine
end

section
/-! ### What ends work: gangs that stop and leave, launches that end, fault records (R354, R357, R362, R365) -/

namespace Sys2Proof.Machine

variable {s t u : State}

/-! #### Folds and tables -/

/-- What the step of one element of the list brings about, and every step keeps, holds after the fold. -/
theorem foldl_reaches {α β : Type} {g : β → α → β} {Q R : β → Prop} {x : α} {l : List α} (hQ : ∀ b y, Q b → Q (g b y))
    (hx : ∀ b, Q b → R (g b x)) (hR : ∀ b y, R b → R (g b y)) {b : β} (h : Q b) (hm : x ∈ l) : R (l.foldl g b) := by
  induction l generalizing b with
  | nil => cases hm
  | cons y r ih =>
    rcases List.mem_cons.mp hm with rfl | hm
    · exact List.foldlRecOn r g (hx b h) fun b hb y _ => hR b y hb
    · exact ih (hQ b y h) hm

theorem Cells.find?_map_values {α : Type} (f : Nat → α → α) (l : Cells α) (k : Nat) :
    Cells.find? (l.map fun x => (x.1, f x.1 x.2)) k = (Cells.find? l k).map (f k) := by
  induction l with
  | nil => rfl
  | cons x r ih =>
    obtain ⟨j, v⟩ := x
    by_cases h : j = k
    · subst h; simp [Cells.find?]
    · simp [Cells.find?, h, ih]

/-- An entry that a function changes, where there is one. -/
theorem Cells.find?_elim_put {α : Type} (l : Cells α) (g k : Nat) (f : α → α) :
    Cells.find? ((Cells.find? l g).elim l fun x => Cells.put l g (f x)) k = if g = k then (Cells.find? l k).map f else Cells.find? l k := by
  by_cases h : g = k
  · subst h
    cases hx : Cells.find? l g <;> simp [hx]
  · rw [if_neg h]
    cases Cells.find? l g with
    | none => rfl
    | some x => exact (Cells.find?_put l g k _).trans (if_neg h)

theorem State.find?_updGang (s : State) (g k : Nat) (f : Gang → Gang) :
    Cells.find? (s.updGang g f).gangs k = if g = k then (Cells.find? s.gangs k).map f else Cells.find? s.gangs k := by
  rw [← Cells.find?_elim_put, State.updGang]
  cases Cells.find? s.gangs g <;> rfl

theorem State.find?_updLaunch (s : State) (g k : Nat) (f : Launch → Launch) :
    Cells.find? (s.updLaunch g f).launches k = if g = k then (Cells.find? s.launches k).map f else Cells.find? s.launches k := by
  rw [← Cells.find?_elim_put, State.updLaunch]
  cases Cells.find? s.launches g <;> rfl

theorem State.find?_updPart (s : State) (g k : Nat) (f : Part → Part) :
    Cells.find? (s.updPart g f).parts k = if g = k then (Cells.find? s.parts k).map f else Cells.find? s.parts k := by
  rw [← Cells.find?_elim_put, State.updPart]
  cases Cells.find? s.parts g <;> rfl

/-! #### Folds over cores -/

/-- Steps that each touch one core leave the cores that they do not name. -/
theorem core_foldl_of_not_mem {g : State → Nat → State} (hg : ∀ a k m, k ≠ m → (g a k).core m = a.core m) {l : List Nat} {m : Nat}
    (hm : m ∉ l) (s : State) : (l.foldl g s).core m = s.core m := by
  induction l generalizing s with
  | nil => rfl
  | cons k r ih =>
    rw [List.mem_cons, not_or] at hm
    rw [List.foldl_cons, ih hm.2, hg s k m (Ne.symm hm.1)]

/-- Of a core that they name, they bring about what one step brings about. -/
theorem core_foldl_of_mem {g : State → Nat → State} (hg : ∀ a k m, k ≠ m → (g a k).core m = a.core m) {Q R : Core → Prop} {l : List Nat} {m : Nat}
    (hm : m ∈ l) (hstep : ∀ a, Q (a.core m) → R ((g a m).core m)) (hRQ : ∀ c, R c → Q c) {s : State} (h : Q (s.core m)) :
    R ((l.foldl g s).core m) := by
  have keep : ∀ (P : Core → Prop), (∀ a, P (a.core m) → P ((g a m).core m)) → ∀ (a : State) (k : Nat), P (a.core m) → P ((g a k).core m) := by
    intro P hP a k ha
    by_cases hk : k = m
    · subst hk; exact hP a ha
    · rw [hg a k m hk]; exact ha
  exact foldl_reaches (Q := fun a => Q (a.core m)) (R := fun a => R (a.core m)) (keep Q fun a ha => hRQ _ (hstep a ha)) (fun a ha => hstep a ha)
    (keep R fun a ha => hstep a (hRQ _ ha)) h hm

theorem updCore_local (f : Core → Core) (a : State) (k m : Nat) (h : k ≠ m) : (a.updCore k f).core m = a.core m := a.core_updCore_ne h f

/-! #### Fault records -/

theorem putNat_pkg_spec (s : State) (a n v : Nat) : ∃ x, s.putNat (.pkg a) n v = { s with mem := x } := by
  induction n generalizing s a v with
  | zero => exact ⟨s.mem, rfl⟩
  | succ n ih =>
    obtain ⟨x, hx⟩ := ih (s.putByte (.pkg a) (BitVec.ofNat 8 v)) (a + 1) (v / 256)
    exact ⟨x, hx⟩

theorem writeAt_pkg_spec (s : State) (na : Bool) (p : Word) (a n v : Nat) :
    ∃ m ls, (s.writeAt [] na p (.pkg a) n v).1 = { s with mem := m, lines := ls } := by
  obtain ⟨m, hm⟩ := putNat_pkg_spec (s.setTs (.pkg a) ⟨wmax p ((s.tsAt (.pkg a)).rts + 1), wmax p ((s.tsAt (.pkg a)).rts + 1)⟩) a n v
  exact ⟨m, _, hm⟩

/-- A fault record touches package memory, the timestamps of a line and the partition, which stays. -/
theorem recordFault_spec (s : State) (p : Nat) (r : FaultRec) :
    ∃ m ls ps, s.recordFault p r = { s with mem := m, lines := ls, parts := ps } ∧ ∀ q, (Cells.find? s.parts q).isSome → (Cells.find? ps q).isSome := by
  unfold State.recordFault
  cases hp : Cells.find? s.parts p with
  | none => exact ⟨_, _, _, rfl, fun _ h => h⟩
  | some x =>
    obtain ⟨m, ls, hw⟩ := writeAt_pkg_spec (s.updPart p fun x => { x with ringNext := x.ringNext + 1 }) true r.pts
      (x.ringBase + 64 * (x.ringNext % 2 ^ x.ringLog)) 64 r.bytes
    refine ⟨m, ls, _, hw.trans (by rw [State.updPart, hp]), fun q hq => ?_⟩
    rw [Cells.find?_put]
    split
    · rfl
    · exact hq

/-- It changes no byte but those of the slot of the partition's ring that is filled next. -/
theorem byteAt_recordFault (s : State) (p : Nat) (r : FaultRec) {l : Loc}
    (h : ∀ q a, Cells.find? s.parts p = some q → l = .pkg a → ¬ (q.ringSlot ≤ a ∧ a < q.ringSlot + 64)) :
    (s.recordFault p r).byteAt l = s.byteAt l := by
  unfold State.recordFault
  cases hp : Cells.find? s.parts p with
  | none => rfl
  | some q =>
    refine (State.byteAt_writeAt_pkg _ _ _ _ _ _ l fun b hb => ?_).trans (State.byteAt_congr (by simp) (by simp) (by simp) (by simp) l)
    have := h q b hp hb
    unfold Part.ringSlot at this
    omega

theorem recordFor_spec (s : State) (n : Nat) (r : FaultRec) :
    ∃ m ls ps, s.recordFor n r = { s with mem := m, lines := ls, parts := ps } ∧ ∀ q, (Cells.find? s.parts q).isSome → (Cells.find? ps q).isSome := by
  unfold State.recordFor
  split
  · exact recordFault_spec s _ r
  · exact ⟨_, _, _, rfl, fun _ h => h⟩

@[simp] theorem recordFor_gangs (s : State) (n : Nat) (r : FaultRec) : (s.recordFor n r).gangs = s.gangs := by
  obtain ⟨_, _, _, h, _⟩ := recordFor_spec s n r
  rw [h]

/-- The record of an agent, whose ring slot is told by a turn of its S. -/
theorem byteAt_recordFor_asS (s : State) (n : Nat) (r : FaultRec) {l : Loc} (h : ¬ (s.asS n).InRingSlot l) :
    (s.recordFor n r).byteAt l = s.byteAt l := by
  unfold State.recordFor
  split
  · rename_i p hp
    exact byteAt_recordFault s p r fun q a hq hl hin => h ⟨p, q, a, hp, hq, hl, hin⟩
  · rfl

/-! #### Gangs that stop and leave (R20, R357, R362, R365) -/

/-- Nothing but cores, gangs and what is bound to them differs: no memory, no launch, no partition, no save area. -/
structure State.OnlyGangs (s t : State) : Prop where
  mem : t.mem = s.mem
  scratch : t.scratch = s.scratch
  host : t.host = s.host
  peer : t.peer = s.peer
  launches : t.launches = s.launches
  parts : t.parts = s.parts
  save : t.save = s.save

theorem State.OnlyGangs.refl (s : State) : s.OnlyGangs s := ⟨rfl, rfl, rfl, rfl, rfl, rfl, rfl⟩

theorem State.OnlyGangs.trans (h : s.OnlyGangs t) (h' : t.OnlyGangs u) : s.OnlyGangs u :=
  ⟨h'.mem.trans h.mem, h'.scratch.trans h.scratch, h'.host.trans h.host, h'.peer.trans h.peer, h'.launches.trans h.launches,
    h'.parts.trans h.parts, h'.save.trans h.save⟩

theorem State.OnlyGangs.byteAt (h : s.OnlyGangs t) (l : Loc) : t.byteAt l = s.byteAt l :=
  State.byteAt_congr h.mem h.scratch h.host h.peer l

theorem onlyGangs_foldl {α : Type} {g : State → α → State} (hg : ∀ (a : State) (x : α), a.OnlyGangs (g a x)) (l : List α) (s : State) : s.OnlyGangs (l.foldl g s) :=
  List.foldlRecOn (motive := s.OnlyGangs) l g (State.OnlyGangs.refl s) fun a h x _ => h.trans (hg a x)

theorem onlyGangs_updCore (s : State) (n : Nat) (f : Core → Core) : s.OnlyGangs (s.updCore n f) := ⟨rfl, rfl, rfl, rfl, rfl, rfl, rfl⟩

theorem onlyGangs_foldl_updCore (f : Core → Core) (l : List Nat) (s : State) : s.OnlyGangs (l.foldl (fun a m => a.updCore m f) s) :=
  onlyGangs_foldl (fun a m => onlyGangs_updCore a m f) l s

theorem gangs_foldl_updCore (f : Core → Core) (l : List Nat) (s : State) : (l.foldl (fun a m => a.updCore m f) s).gangs = s.gangs :=
  foldl_keeps State.gangs (f := fun a m => a.updCore m f) (fun _ _ => rfl) l s

theorem onlyGangs_updGang (s : State) (g : Nat) (f : Gang → Gang) : s.OnlyGangs (s.updGang g f) := by constructor <;> simp

theorem onlyGangs_homePod (s : State) (g p : Nat) : s.OnlyGangs (s.homePod g p) := by
  unfold State.homePod
  split
  · exact ⟨rfl, rfl, rfl, rfl, rfl, rfl, rfl⟩
  · exact State.OnlyGangs.refl s

@[simp] theorem homePod_cores (s : State) (g p : Nat) : (s.homePod g p).cores = s.cores := by
  unfold State.homePod
  split <;> rfl

@[simp] theorem homePod_gangs (s : State) (g p : Nat) : (s.homePod g p).gangs = s.gangs := by
  unfold State.homePod
  split <;> rfl

/-- A member of the gang is bound to it. -/
def State.boundTo (s : State) (g m : Nat) : Bool := ((s.core m).binding.map fun (b : Binding) => b.gang) == some g

/-- The cores that leave with a gang. -/
def State.leaving (s : State) (g : Nat) (x : Gang) : List Nat := (s.membersOf x).filter (s.boundTo g)

theorem cores_foldl_updCore_congr (f : Core → Core) (l : List Nat) (h : t.cores = s.cores) :
    (l.foldl (fun a m => a.updCore m f) t).cores = (l.foldl (fun a m => a.updCore m f) s).cores := by
  induction l generalizing s t with
  | nil => exact h
  | cons m r ih =>
    refine ih ?_
    show Cells.put t.cores m (f (t.core m)) = Cells.put s.cores m (f (s.core m))
    rw [State.core_congr h, h]

/-- What `releaseGang` has done before it takes the gang and its team from their tables. -/
def State.unbound (s : State) (g : Nat) (x : Gang) : State :=
  x.members.foldl (fun a m => a.homePod g (podOf m))
    ((s.leaving g x).foldl (fun a m => a.updCore m (Core.unbind s.nextId)) { s.dropGets (x.members.filter (s.boundTo g)) with nextId := s.nextId + 1 })

theorem unbound_spec (s : State) (g : Nat) (x : Gang) :
    s.OnlyGangs (s.unbound g x) ∧ (s.unbound g x).gangs = s.gangs ∧
    (s.unbound g x).cores = ((s.leaving g x).foldl (fun (a : State) m => a.updCore m (Core.unbind s.nextId)) s).cores := by
  unfold State.unbound
  refine ⟨?_, ?_, ?_⟩
  · refine State.OnlyGangs.trans ?_ (onlyGangs_foldl (fun a m => onlyGangs_homePod a g (podOf m)) _ _)
    exact State.OnlyGangs.trans (t := { s.dropGets (x.members.filter (s.boundTo g)) with nextId := s.nextId + 1 })
      ⟨rfl, rfl, rfl, rfl, rfl, rfl, rfl⟩ (onlyGangs_foldl_updCore _ _ _)
  · rw [foldl_keeps State.gangs fun a m => homePod_gangs a g (podOf m), gangs_foldl_updCore]
    rfl
  · rw [foldl_keeps State.cores fun a m => homePod_cores a g (podOf m)]
    exact cores_foldl_updCore_congr _ _ rfl

/-- A gang that leaves: its bound members leave it, and the other gangs stay. -/
theorem dropGang_spec {g : Nat} {x : Gang} (hx : Cells.find? s.gangs g = some x) :
    s.OnlyGangs (s.dropGang g) ∧ (∀ k, Cells.find? (s.dropGang g).gangs k = if g = k then none else Cells.find? s.gangs k) ∧
    (s.dropGang g).cores = ((s.leaving g x).foldl (fun (a : State) m => a.updCore m (Core.unbind s.nextId)) s).cores := by
  obtain ⟨honly, hgangs, hcores⟩ := unbound_spec s g x
  have hrel : ∃ gs ts, s.releaseGang g = { s.unbound g x with gangs := gs, teams := ts } ∧
      ∀ k, g ≠ k → Cells.find? gs k = Cells.find? s.gangs k := by
    unfold State.releaseGang
    rw [hx]
    refine ⟨_, _, rfl, fun k hk => ?_⟩
    show Cells.find? (if _ then Cells.put (s.unbound g x).gangs g _ else Cells.del (s.unbound g x).gangs g) k = _
    rw [hgangs]
    split
    · rw [Cells.find?_put, if_neg hk]
    · exact Cells.find?_del_ne _ hk
  obtain ⟨gs, ts, hrel, hother⟩ := hrel
  have hdrop : s.dropGang g = { s.unbound g x with gangs := Cells.del gs g, teams := ts } := by
    unfold State.dropGang
    rw [hrel]
  rw [hdrop]
  refine ⟨⟨honly.mem, honly.scratch, honly.host, honly.peer, honly.launches, honly.parts, honly.save⟩, fun k => ?_, hcores⟩
  split
  · rename_i hk
    subst hk
    exact Cells.find?_del_self _ _
  · rename_i hk
    exact (Cells.find?_del_ne _ hk).trans (hother k hk)

/-- A property of a core that S's stop and the leaving of a gang keep. -/
def KeptByEnding (P : Core → Prop) : Prop := (∀ c, P c → P { c with user := c.user.stop }) ∧ ∀ k c, P c → P (c.unbind k)

theorem core_foldl_updCore_keeps {P : Core → Prop} {f : Core → Core} (hf : ∀ c, P c → P (f c)) (l : List Nat) {m : Nat} (h : P (s.core m)) :
    P ((l.foldl (fun (a : State) k => a.updCore k f) s).core m) := by
  refine List.foldlRecOn (motive := fun a : State => P (a.core m)) l _ h fun a ha k _ => ?_
  rw [State.core_updCore]
  split
  · rename_i hk
    subst hk
    exact hf _ ha
  · exact ha

theorem stopGang_cores {P : Core → Prop} (hP : KeptByEnding P) (g : Nat) {m : Nat} (h : P (s.core m)) : P ((s.stopGang g).core m) := by
  have hdrop : ∀ {x}, Cells.find? s.gangs g = some x → P ((s.dropGang g).core m) := fun hx => by
    rw [State.core_congr (dropGang_spec hx).2.2]
    exact core_foldl_updCore_keeps (hP.2 _) _ h
  unfold State.stopGang
  split
  · exact h
  · rename_i x hx
    split
    · rw [State.core_congr (State.updGang_cores _ _ _)]
      exact core_foldl_updCore_keeps hP.1 _ h
    · rw [State.core_congr (State.updGang_cores _ _ _)]
      exact h
    · exact hdrop hx

theorem onlyGangs_stopGang (s : State) (g : Nat) : s.OnlyGangs (s.stopGang g) := by
  unfold State.stopGang
  split
  · exact State.OnlyGangs.refl s
  · rename_i x hx
    split
    · exact (onlyGangs_foldl_updCore _ _ _).trans (onlyGangs_updGang _ _ _)
    · exact onlyGangs_updGang _ _ _
    · exact (dropGang_spec hx).1

/-- A gang is going, and nothing of it will be kept. -/
def Gang.Discarding (x : Gang) : Prop := x.state = .saving ∧ x.discard = true

/-- A gang after another one, or it, has stopped: it was there, of the same launch; a stopped one is going. -/
theorem stopGang_gang {g k : Nat} {y : Gang} (h : Cells.find? (s.stopGang k).gangs g = some y) :
    (k = g → y.Discarding) ∧ ∃ x, Cells.find? s.gangs g = some x ∧ y.launch = x.launch ∧ (x.Discarding → y.Discarding) := by
  unfold State.stopGang at h
  cases hx : Cells.find? s.gangs k with
  | none =>
    simp only [hx] at h
    exact ⟨fun hk => by subst hk; simp [hx] at h, y, h, rfl, id⟩
  | some x =>
    simp only [hx] at h
    by_cases hk : k = g
    · subst hk
      cases hst : x.state <;> simp only [hst] at h
      case bound =>
        rw [State.find?_updGang, if_pos rfl, gangs_foldl_updCore, hx] at h
        cases h
        exact ⟨fun _ => ⟨rfl, rfl⟩, x, hx, rfl, fun _ => ⟨rfl, rfl⟩⟩
      case saving =>
        rw [State.find?_updGang, if_pos rfl, hx] at h
        cases h
        exact ⟨fun _ => ⟨hst, rfl⟩, x, hx, rfl, fun _ => ⟨hst, rfl⟩⟩
      all_goals
        rw [(dropGang_spec hx).2.1, if_pos rfl] at h
        cases h
    · refine ⟨fun h => absurd h hk, y, ?_, rfl, id⟩
      cases hst : x.state <;> simp only [hst] at h
      case bound => rwa [State.find?_updGang, if_neg hk, gangs_foldl_updCore] at h
      case saving => rwa [State.find?_updGang, if_neg hk] at h
      all_goals rwa [(dropGang_spec hx).2.1, if_neg hk] at h

/-! #### Launches that end (R357, R360) -/

/-- The gangs of a launch have been told to stop. -/
def State.gangsStopped (s : State) (l : Nat) : State := (s.gangs.filter fun x => x.2.launch == l).foldl (fun a x => a.stopGang x.1) s

theorem onlyGangs_gangsStopped (s : State) (l : Nat) : s.OnlyGangs (s.gangsStopped l) :=
  onlyGangs_foldl (g := fun a (x : Nat × Gang) => a.stopGang x.1) (fun a x => onlyGangs_stopGang a x.1) _ s

theorem gangsStopped_cores {P : Core → Prop} (hP : KeptByEnding P) (l : Nat) {m : Nat} (h : P (s.core m)) : P ((s.gangsStopped l).core m) :=
  List.foldlRecOn (motive := fun a : State => P (a.core m)) _ _ h fun _ ha x _ => stopGang_cores hP x.1 ha

/-- Every gang of the launch that is still there is going, and nothing of it will be kept. -/
theorem gangsStopped_gang {l g : Nat} {y : Gang} (h : Cells.find? (s.gangsStopped l).gangs g = some y) (hl : y.launch = l) : y.Discarding := by
  by_cases h0 : ∃ x, Cells.find? s.gangs g = some x ∧ x.launch = l
  · obtain ⟨x, hx, hxl⟩ := h0
    refine foldl_reaches (Q := fun _ => True) (R := fun a : State => ∀ y, Cells.find? a.gangs g = some y → y.Discarding) (x := (g, x))
      (fun _ _ _ => trivial) (fun a _ y hy => (stopGang_gang hy).1 rfl) (fun a z ha y hy => ?_) trivial ?_ y h
    · obtain ⟨x', hx', _, hd⟩ := (stopGang_gang hy).2
      exact hd (ha x' hx')
    · rw [List.mem_filter]
      exact ⟨Cells.mem_of_find? hx, by simp [hxl]⟩
  · refine absurd hl (List.foldlRecOn (motive := fun a : State => ∀ y, Cells.find? a.gangs g = some y → y.launch ≠ l) _ _ ?_ (fun a ha z _ y hy => ?_) y h)
    · exact fun x hx hxl => h0 ⟨x, hx, hxl⟩
    · obtain ⟨x', hx', hl', _⟩ := (stopGang_gang hy).2
      rw [hl']
      exact ha x' hx'

/-- The launch no longer counts for the launch `l` that made it. -/
def Launch.orphaned (l : Nat) (x : Launch) : Launch := if x.parent = some l then { x with parent := none } else x

/-- A launch that ends. -/
def Launch.ended (status : Nat) (ts : Word) (x : Launch) : Launch :=
  { x with doneTs := wmax x.doneTs ts, state := .draining, status := if x.status = 0 then status else x.status, handed := x.total, redoHanded := x.redo.length }

theorem endLaunch_eq (s : State) (l status : Nat) : ∃ ops aoseqs subs p f ts,
    s.endLaunch l status = (State.updPart { s.gangsStopped l with
      ops := ops, aoseqs := aoseqs, subs := subs, launches := (s.gangsStopped l).launches.map fun x => (x.1, x.2.orphaned l) } p f).updLaunch l
        (Launch.ended status ts) :=
  ⟨_, _, _, _, _, _, rfl⟩

/-- What the end of a launch leaves: gangs and cores as after the stop of its gangs, no byte changed, every partition there, and the launch
draining with the status. -/
theorem endLaunch_spec (s : State) (l status : Nat) :
    (s.endLaunch l status).cores = (s.gangsStopped l).cores ∧ (s.endLaunch l status).gangs = (s.gangsStopped l).gangs ∧
    (∀ p, (s.endLaunch l status).byteAt p = s.byteAt p) ∧
    (∀ q, (Cells.find? s.parts q).isSome → (Cells.find? (s.endLaunch l status).parts q).isSome) ∧
    ∃ ts, ∀ k, Cells.find? (s.endLaunch l status).launches k =
      (Cells.find? s.launches k).map fun x => if l = k then (x.orphaned l).ended status ts else x.orphaned l := by
  have ho := onlyGangs_gangsStopped s l
  obtain ⟨_, _, _, _, _, ts, h⟩ := endLaunch_eq s l status
  rw [h]
  refine ⟨by simp, by simp, fun p => ?_, fun q hq => ?_, ts, fun k => ?_⟩
  · exact (State.byteAt_congr (by simp) (by simp) (by simp) (by simp) p).trans (ho.byteAt p)
  · rw [State.updLaunch_parts, State.find?_updPart]
    have hq' : (Cells.find? (s.gangsStopped l).parts q).isSome := ho.parts ▸ hq
    split
    · exact (Option.isSome_map ..).trans hq'
    · exact hq'
  · have hl : Cells.find? ((s.gangsStopped l).launches.map fun x => (x.1, x.2.orphaned l)) k = (Cells.find? s.launches k).map (Launch.orphaned l) := by
      rw [Cells.find?_map_values fun _ => Launch.orphaned l, ho.launches]
    rw [State.find?_updLaunch, State.updPart_launches, hl, Option.map_map]
    split <;> rfl

end Sys2Proof.Machine
end

section
/-! ### Traps, Husk, timeouts and PIPDEAD (R14, R242, R307, R355, R357, R383) -/

namespace Sys2Proof.Machine

variable {s t : State}

/-! #### Husk is entered (R95) -/

/-- The end of Husk's fetch pair touches `SHARE` and Husk's own context. -/
theorem Core.endPair_eq (c : Core) : c.endPair = { c with share := c.endPair.share, husk := c.endPair.husk, pairAct := c.endPair.pairAct } := by
  unfold Core.endPair
  split
  · rename_i a _ _
    cases a <;> rfl
  · rfl

/-- Where the code of Husk stands (log entry 17). -/
def State.huskEntry (s : State) : Word := Config.freeWord s.fresh 50 &&& ~~~(3 : Word)

theorem core_enterHusk (s : State) (n m : Nat) :
    (s.enterHusk n).core m = if n = m then { (s.core n).endPair with husk := (s.core n).endPair.husk.goto s.huskEntry } else s.core m :=
  s.core_updCore n m _

theorem huskEntry_aligned (s : State) : s.huskEntry &&& 3 = 0 := by
  unfold State.huskEntry
  rw [BitVec.and_assoc]
  simp

theorem enterHusk_becomes (s : State) (n : Nat) :
    ∃ h, h &&& 3 = 0 ∧ s.CoreBecomes n { (s.core n).endPair with husk := (s.core n).endPair.husk.goto h } (s.enterHusk n) :=
  ⟨s.huskEntry, huskEntry_aligned s, coreBecomes_updCore s n rfl⟩

/-! #### Engine traps (R355) -/

@[simp] theorem recordFor_huskEntry (s : State) (n : Nat) (r : FaultRec) : (s.recordFor n r).huskEntry = s.huskEntry := by
  obtain ⟨_, _, _, h, _⟩ := recordFor_spec s n r
  rw [h]
  rfl

theorem enterEngineTrap_eq {n : Nat} {x : EngTrap} (hx : (s.core n).engTrap = some x) (he : x.entered = false) (hc : x.flt.cause ≠ 0x0B)
    (hs : ∀ w, (s.core n).user.stat ≠ .stopped w) :
    ∃ r u, u = (s.recordFor n r).enterHusk n ∧ s.enterEngineTrap n = u.updCore n fun c => { c with
      trap := c.trap.set x.flt x.at_, engTrap := some { x with entered := true }, user := { c.user with stat := c.user.stat.engineTrapped } } := by
  refine ⟨{ s.faultRec n (sourceOf x.e) (if x.replayable then 2 else 0) x.pos x.at_ x.flt x.pts with offset := x.offset, iter := x.iter }, _, rfl, ?_⟩
  unfold State.enterEngineTrap
  rw [hx]
  refine (if_neg ?_).trans ((if_neg hc).trans (congrArg (State.updCore _ n) (funext fun c => ?_)))
  · rw [he, Bool.false_or]
    split
    · rename_i w hw
      exact absurd hw (hs w)
    · exact Bool.false_ne_true
  · cases c.user.stat <;> rfl

theorem engineTrapEntry_completes {n : Nat} {x : EngTrap} (hx : (s.core n).engTrap = some x) (he : x.entered = false) (hc : x.flt.cause ≠ 0x0B)
    (hs : ∀ w, (s.core n).user.stat ≠ .stopped w) :
    Completes (.engineTrapEntry n) s (fun t =>
      t.core n = { (s.core n).endPair with
        husk := (t.core n).husk, trap := (t.core n).trap, engTrap := some { x with entered := true },
        user := { (s.core n).user with stat := (s.core n).user.stat.engineTrapped } } ∧
      (t.core n).trap.Holds (s.core n).trap x.flt.cause x.at_ x.flt.addr x.flt.info ∧ (t.core n).husk.stat = .running ∧
      (∀ m, m ≠ n → t.core m = s.core m) ∧ ∀ l, ¬ (s.asS n).InRingSlot l → t.byteAt l = s.byteAt l) := by
  obtain ⟨r, u, hu, ht⟩ := enterEngineTrap_eq hx he hc hs
  have hcore : ∀ m, u.core m = if n = m then { (s.core n).endPair with husk := (s.core n).endPair.husk.goto s.huskEntry } else s.core m := by
    intro m
    rw [hu, core_enterHusk]
    simp only [State.core_congr (State.recordFor_cores s n r), recordFor_huskEntry]
  refine ⟨_, congrArg Host.Outcome.next ht, ?_, ?_, ?_, fun m hm => ?_, fun l hl => ?_⟩
  · rw [State.core_updCore_self, hcore, if_pos rfl]
    simp
  · rw [State.core_updCore_self, hcore, if_pos rfl]
    rw [Core.endPair_eq]
    exact ⟨rfl, rfl, rfl, rfl, rfl⟩
  · rw [State.core_updCore_self, hcore, if_pos rfl]
    rfl
  · rw [State.core_updCore_ne _ (Ne.symm hm), hcore, if_neg (Ne.symm hm)]
  · rw [byteAt_updCore, hu]
    exact (byteAt_updCore _ n _ l).trans (byteAt_recordFor_asS s n r hl)

/-! #### Husk goes on, or ends the launch (R357) -/

theorem huskResume_repaired {n : Nat} (pc : Word) {x : EngTrap} {w : Option Wait} (hx : (s.core n).engTrap = some x) (he : x.entered = true)
    (hr : x.replayable = true ∨ x.flt.cause = 0x04) (hs : (s.core n).user.stat = .trapped w) :
    Completes (.huskResume n pc) s (s.CoreBecomes n { s.core n with
      engTrap := none, user := { (s.core n).user with stat := (s.core n).user.stat.goesOn } }) := by
  refine ⟨s.updCore n fun c => { c with engTrap := none, user := (match c.user.stat with | .trapped _ => c.user.resume | _ => c.user) }, ?_,
    coreBecomes_updCore s n ?_⟩
  · show Host.Outcome.next _ = _
    have h : (x.entered && (x.replayable || x.flt.cause == 0x04)) = true := by
      rcases hr with h | h <;> simp [he, h]
    rw [hx]
    exact congrArg Host.Outcome.next (if_pos h)
  · cases w <;> simp [hs, Ctx.resume, SStat.goesOn]

/-- What HUSK_RESUME does with a core that S's own trap has stopped. -/
theorem exec_huskResume_trapped {n : Nat} (pc : Word) {w : Option Wait} (hx : (s.core n).engTrap = none) (hs : (s.core n).user.stat = .trapped w) :
    exec (.huskResume n pc) s = .next (if (s.core n).trap.vec != 0 && pc == (s.core n).trap.vec && !(s.core n).handler && !(s.core n).capturing
        && (s.core n).trap.cause != 0x0B then s.updCore n Core.enterHandler
      else if (s.core n).trap.cause = 0x04 then s.updCore n fun c => { c with user := c.user.resume } else s) := by
  show Host.Outcome.next _ = _
  rw [hx]
  simp only [hs]

theorem coreBecomes_refl (s : State) (n : Nat) : s.CoreBecomes n (s.core n) s :=
  ⟨rfl, fun m => by split <;> simp_all, fun _ => rfl⟩

theorem huskResume_toHandler {n : Nat} {w : Option Wait} (hx : (s.core n).engTrap = none) (hs : (s.core n).user.stat = .trapped w)
    (hv : (s.core n).trap.vec ≠ 0) (hh : (s.core n).handler = false) (hc : (s.core n).capturing = false) (hb : (s.core n).trap.cause ≠ 0x0B) :
    Completes (.huskResume n (s.core n).trap.vec) s (s.CoreBecomes n { s.core n with
      handler := true, user := { (s.core n).user.goto (s.core n).trap.vec with expired := none } }) := by
  refine ⟨_, (exec_huskResume_trapped _ hx hs).trans (congrArg _ (if_pos ?_)), coreBecomes_updCore s n rfl⟩
  have hv' : ¬ (s.core n).trap.vec = 0#64 := hv
  have hb' : ¬ (s.core n).trap.cause = 11#64 := hb
  simp [hv', hh, hc, hb']

theorem huskResume_refused {n : Nat} {w : Option Wait} (hx : (s.core n).engTrap = none) (hs : (s.core n).user.stat = .trapped w)
    (h : (s.core n).capturing = true ∧ (s.core n).trap.cause ≠ 0x04 ∨ (s.core n).trap.cause = 0x0B) :
    Completes (.huskResume n (s.core n).trap.vec) s (s.CoreBecomes n (s.core n)) := by
  refine ⟨_, (exec_huskResume_trapped _ hx hs).trans (congrArg _ ((if_neg ?_).trans (if_neg ?_))), coreBecomes_refl s n⟩
  · rcases h with ⟨h, _⟩ | h <;> simp [h]
  · rcases h with ⟨_, h⟩ | h
    · exact h
    · simp [h]

theorem huskResume_goesOn {n : Nat} {pc : Word} {w : Option Wait} (hx : (s.core n).engTrap = none) (hs : (s.core n).user.stat = .trapped w)
    (hp : pc ≠ (s.core n).trap.vec) (hc : (s.core n).trap.cause = 0x04) :
    Completes (.huskResume n pc) s (s.CoreBecomes n { s.core n with user := { (s.core n).user with stat := (s.core n).user.stat.goesOn } }) := by
  refine ⟨_, (exec_huskResume_trapped _ hx hs).trans (congrArg _ ((if_neg ?_).trans (if_pos hc))), coreBecomes_updCore s n ?_⟩
  · simp [hp]
  · cases w <;> simp [hs, Ctx.resume, SStat.goesOn]

theorem huskEndLaunch_completes {n l cause : Nat} {x : Launch} (hl : s.endCause n = some (l, cause)) (hx : Cells.find? s.launches l = some x) :
    Completes (.huskEndLaunch n) s (fun t =>
      (∃ y, Cells.find? t.launches l = some y ∧ y.state = .draining ∧ y.status = (if x.status = 0 then cause else x.status) ∧ y.handed = x.total) ∧
      (∀ g y, Cells.find? t.gangs g = some y → y.launch = l → y.state = .saving ∧ y.discard = true) ∧ ∀ p, t.byteAt p = s.byteAt p) := by
  obtain ⟨_, hgangs, hbytes, _, ts, hlaunch⟩ := endLaunch_spec s l cause
  refine ⟨s.endLaunch l cause, ?_, ⟨(x.orphaned l).ended cause ts, ?_, rfl, ?_, ?_⟩, fun g y hy hyl => gangsStopped_gang (hgangs ▸ hy) hyl, hbytes⟩
  · show Host.Outcome.next _ = _
    rw [hl]
  · rw [hlaunch, hx]
    simp only [Option.map_some, if_true]
  · unfold Launch.ended Launch.orphaned
    split <;> rfl
  · unfold Launch.ended Launch.orphaned
    split <;> rfl

end Sys2Proof.Machine
end

section
/-! ### Husk’s timer and failure, timeouts, returns and PIPDEAD (R14, R92, R242, R361, R383) -/

namespace Sys2Proof.Machine

variable {s t : State}

/-! #### Husk’s timer (R361, R383) -/

theorem huskTimerExpiry_entersHusk {n : Nat} (h : (s.core n).binding = none ∨ Config.choice s.fresh 644 n = false) :
    Completes (.huskTimerExpiry n) s (fun t =>
      ∃ h, h &&& 3 = 0 ∧ s.CoreBecomes n { (s.core n).endPair with husk := (s.core n).endPair.husk.goto h } t) := by
  refine ⟨s.enterHusk n, ?_, enterHusk_becomes s n⟩
  show Host.Outcome.next _ = _
  cases hb : (s.core n).binding with
  | none => rfl
  | some b =>
    have hc : Config.choice s.fresh 644 n = false := h.resolve_left (by simp [hb])
    simp only [hc, Bool.false_eq_true, if_false]

/-- A member that is stopped for preemption. -/
theorem core_preemptMember (s : State) (k m : Nat) :
    (s.preemptMember k).core m = if k = m then
      Core.preempt { (s.core k).endPair with husk := (s.core k).endPair.husk.goto s.huskEntry } else s.core m := by
  unfold State.preemptMember
  simp only [State.core_updCore, core_enterHusk, State.core_congr (State.recordFor_cores _ _ _), recordFor_huskEntry, if_true]
  split <;> rfl

/-- A member stopped for preemption: Husk runs with the cause, S does not, and LS and the registers are as in `c`. -/
structure Core.Preempted (c d : Core) : Prop where
  cause : d.trap.cause = 0x14
  husk : d.husk.stat = .running
  user : d.user.stat ≠ .running
  ls : d.ls = c.ls
  regs : ∀ r, d.user.getG r = c.user.getG r

theorem Ctx.stop_stat_ne (x : Ctx) : x.stop.stat ≠ .running := by
  unfold Ctx.stop
  cases x.stat <;> simp

theorem preempted_preempt (c : Core) (h : Word) {d : Core} (hls : d.ls = c.ls) (hg : ∀ r, d.user.getG r = c.user.getG r) :
    c.Preempted (Core.preempt { d.endPair with husk := d.endPair.husk.goto h }) := by
  rw [Core.endPair_eq]
  refine ⟨rfl, rfl, ?_, hls, hg⟩
  simp only [Core.preempt]
  exact Ctx.stop_stat_ne _

theorem exec_huskTimerExpiry_preempt {n : Nat} {b : Binding} {g : Gang} (hb : (s.core n).binding = some b) (hc : Config.choice s.fresh 644 n = true)
    (hg : Cells.find? s.gangs b.gang = some g) (hst : g.state = .bound) (hsur : ∀ m ∈ g.members, (s.core m).surrogate = false) :
    exec (.huskTimerExpiry n) s = .next (((s.membersOf g).foldl State.preemptMember s).updGang b.gang fun y => { y with state := .saving, saved := [] }) := by
  have hfind : g.members.find? (fun m => (s.core m).surrogate) = none := by
    rw [List.find?_eq_none]
    intro m hm
    simp [hsur m hm]
  show Host.Outcome.next _ = _
  rw [hb]
  simp only [hc, if_true, State.preemptGang, hg, hst, ne_eq, not_true_eq_false, if_false, hfind]

theorem huskTimerExpiry_preempts {n : Nat} {b : Binding} {g : Gang} (hb : (s.core n).binding = some b) (hc : Config.choice s.fresh 644 n = true)
    (hg : Cells.find? s.gangs b.gang = some g) (hst : g.state = .bound) (hsur : ∀ m ∈ g.members, (s.core m).surrogate = false) :
    Completes (.huskTimerExpiry n) s (fun t =>
      Cells.find? t.gangs b.gang = some { g with state := .saving, saved := [] } ∧
      (∀ m ∈ s.membersOf g, (t.core m).trap.cause = 0x14 ∧ (t.core m).husk.stat = .running ∧ (t.core m).user.stat ≠ .running ∧
        (t.core m).ls = (s.core m).ls ∧ ∀ r, (t.core m).user.getG r = (s.core m).user.getG r) ∧
      ∀ m, m ∉ s.membersOf g → t.core m = s.core m) := by
  have hlocal : ∀ (a : State) k m, k ≠ m → (a.preemptMember k).core m = a.core m := fun a k m h => by rw [core_preemptMember, if_neg h]
  have hgangs : ((s.membersOf g).foldl State.preemptMember s).gangs = s.gangs :=
    foldl_keeps State.gangs (f := State.preemptMember) (fun a m => recordFor_gangs a m _) _ s
  refine ⟨_, exec_huskTimerExpiry_preempt hb hc hg hst hsur, ?_, fun m hm => ?_, fun m hm => ?_⟩
  · rw [State.find?_updGang, if_pos rfl, hgangs, hg]
    rfl
  · rw [State.core_congr (State.updGang_cores _ _ _)]
    obtain ⟨h1, h2, h3, h4, h5⟩ : (s.core m).Preempted (((s.membersOf g).foldl State.preemptMember s).core m) := by
      refine core_foldl_of_mem (Q := fun d => d.ls = (s.core m).ls ∧ ∀ r, d.user.getG r = (s.core m).user.getG r) hlocal hm (fun a ha => ?_)
        (fun d hd => ⟨hd.ls, hd.regs⟩) ⟨rfl, fun _ => rfl⟩
      rw [core_preemptMember, if_pos rfl]
      exact preempted_preempt _ _ ha.1 ha.2
    exact ⟨h1, h2, h3, h4, h5⟩
  · rw [State.core_congr (State.updGang_cores _ _ _)]
    exact core_foldl_of_not_mem hlocal hm s

/-! #### A failure of Husk (R383) -/

/-- The launches that end with a failure of Husk in partition `p`. -/
def State.liveIn (s : State) (p : Nat) : List (Nat × Launch) := s.launches.filter fun x => x.2.part == p && x.2.state != .complete

/-- They have ended. -/
def State.failed (s : State) (p : Nat) : State := (s.liveIn p).foldl (fun a x => a.endLaunch x.1 0x0D) s

theorem failed_spec (s : State) (p : Nat) :
    (∀ q, (Cells.find? s.parts q).isSome → (Cells.find? (s.failed p).parts q).isSome) ∧ (∀ l, (s.failed p).byteAt l = s.byteAt l) ∧
    ∀ l x, Cells.find? s.launches l = some x → x.part = p → x.state ≠ .complete →
      ∃ y, Cells.find? (s.failed p).launches l = some y ∧ y.state = .draining := by
  unfold State.failed
  refine ⟨fun q hq => ?_, fun l => ?_, fun l x hx hp hst => ?_⟩
  · exact List.foldlRecOn (motive := fun a : State => (Cells.find? a.parts q).isSome) _ _ hq fun a ha x _ => (endLaunch_spec a x.1 0x0D).2.2.2.1 q ha
  · exact List.foldlRecOn (motive := fun a : State => a.byteAt l = s.byteAt l) _ _ rfl fun a ha x _ => ((endLaunch_spec a x.1 0x0D).2.2.1 l).trans ha
  · have hmem : (l, x) ∈ s.liveIn p := List.mem_filter.mpr ⟨Cells.mem_of_find? hx, by simp [hp, hst]⟩
    have hstep : ∀ (a : State) k, ∃ f : Launch → Launch, (∀ y, (k = l ∨ y.state = .draining) → (f y).state = .draining) ∧
        Cells.find? (a.endLaunch k 0x0D).launches l = (Cells.find? a.launches l).map f := by
      intro a k
      obtain ⟨_, _, _, _, ts, h⟩ := endLaunch_spec a k 0x0D
      refine ⟨_, fun y hy => ?_, h l⟩
      by_cases hk : k = l
      · rw [if_pos hk]
        rfl
      · rw [if_neg hk, Launch.orphaned]
        split <;> exact hy.resolve_left hk
    refine foldl_reaches (Q := fun a : State => ∃ y, Cells.find? a.launches l = some y)
      (R := fun a : State => ∃ y, Cells.find? a.launches l = some y ∧ y.state = .draining) (fun a z ⟨y, hy⟩ => ?_) (fun a ⟨y, hy⟩ => ?_)
      (fun a z ⟨y, hy, hd⟩ => ?_) ⟨x, hx⟩ hmem
    · obtain ⟨f, _, h⟩ := hstep a z.1
      exact ⟨f y, by rw [h, hy]; rfl⟩
    · obtain ⟨f, hf, h⟩ := hstep a l
      exact ⟨f y, by rw [h, hy]; rfl, hf y (.inl rfl)⟩
    · obtain ⟨f, hf, h⟩ := hstep a z.1
      exact ⟨f y, by rw [h, hy]; rfl, hf y (.inr hd)⟩

theorem huskFailure_eq {n p : Nat} (hp : s.partOf n = some p) :
    ∃ r vs, s.huskFailure n = (vs : List Nat).foldl (fun a v => a.updVf v Vf.stop)
      (((s.recordFault p r).failed p).updPart p fun x => { x with stopped := true }) := by
  unfold State.huskFailure
  rw [hp]
  exact ⟨s.faultRec n 0 0 0 (s.core n).husk.pc ⟨0x0D, 0, 0⟩ (s.core n).huskPts, _, rfl⟩

theorem updVfs_spec (s : State) (f : Vf → Vf) (vs : List Nat) :
    (vs.foldl (fun a v => a.updVf v f) s).parts = s.parts ∧ (vs.foldl (fun a v => a.updVf v f) s).launches = s.launches ∧
      ∀ l, (vs.foldl (fun a v => a.updVf v f) s).byteAt l = s.byteAt l := by
  refine List.foldlRecOn (motive := fun a : State => a.parts = s.parts ∧ a.launches = s.launches ∧ ∀ l, a.byteAt l = s.byteAt l) vs _
    ⟨rfl, rfl, fun _ => rfl⟩ ?_
  exact fun a ⟨hp, hl, hb⟩ v _ => ⟨hp, hl, fun l => Eq.trans (by cases l <;> rfl) (hb l)⟩

theorem huskFailure_completes {n p : Nat} {q : Part} (hp : s.partOf n = some p) (hq : Cells.find? s.parts p = some q) :
    Completes (.huskFailure n) s (fun t =>
      (∃ r, Cells.find? t.parts p = some r ∧ r.stopped = true) ∧
      (∀ l x, Cells.find? s.launches l = some x → x.part = p → x.state ≠ .complete → ∃ y, Cells.find? t.launches l = some y ∧ y.state = .draining) ∧
      ∀ l, ¬ (s.asS n).InRingSlot l → t.byteAt l = s.byteAt l) := by
  obtain ⟨r, vs, hexec⟩ := huskFailure_eq hp
  obtain ⟨hparts, hbytes, hlaunches⟩ := failed_spec (s.recordFault p r) p
  obtain ⟨_, _, _, hrec, hstay⟩ := recordFault_spec s p r
  obtain ⟨hvparts, hvlaunches, hvbytes⟩ := updVfs_spec (((s.recordFault p r).failed p).updPart p fun x => { x with stopped := true }) Vf.stop vs
  refine ⟨_, congrArg Host.Outcome.next hexec, ?_, fun l x hx hpart hst => ?_, fun l hl => ?_⟩
  · obtain ⟨y, hy⟩ := Option.isSome_iff_exists.mp (hparts p (by rw [hrec]; exact hstay p (by simp [hq])))
    refine ⟨{ y with stopped := true }, ?_, rfl⟩
    rw [hvparts, State.find?_updPart, if_pos rfl, hy]
    rfl
  · rw [hvlaunches, State.updPart_launches]
    exact hlaunches l x (by rw [hrec]; exact hx) hpart hst
  · have hfault : (s.recordFault p r).byteAt l = s.byteAt l :=
      byteAt_recordFault s p r fun q a hq hl' hin => hl ⟨p, q, a, hp, hq, hl', hin⟩
    rw [hvbytes, ← hfault, ← hbytes l]
    exact State.byteAt_congr (by simp) (by simp) (by simp) (by simp) l

/-! #### Timeouts (R242, R258) -/

theorem onBehalf_eq {n : Nat} {q : Seq} {f : State → State} {u : State} (h : f { s with turn := .seq n q } = u) :
    s.onBehalf n q f = { u with turn := s.turn } := by
  rw [State.onBehalf, h]

theorem entersHandler_expired {cause : BitVec 8} {at_ addr info : Word} (hh : s.inHusk = false) (h : s.EntersHandler cause at_ addr info t)
    (v : Option Expired) : s.EntersHandler cause at_ addr info (t.onCtx fun x => { x with expired := v }) := by
  obtain ⟨honly, hcur, hholds, hg, hp, hpc, hpfx, hpend, hsplit, hstat⟩ := h
  have hth : t.inHusk = false := honly.inHusk.trans hh
  have htrap : (t.onCtx fun x => { x with expired := v }).cur.trap = t.cur.trap := by
    rw [State.cur_onCtx, hth]
    rfl
  have hctx : (t.onCtx fun x => { x with expired := v }).ctx = { t.ctx with expired := v } := State.ctx_onCtx t _
  refine ⟨honly.trans (onlyCore_onCore t _), ?_, htrap ▸ hholds, fun r => ?_, fun q => ?_, ?_, ?_, ?_, ?_, ?_⟩
  · rw [State.cur_onCtx, hth, hcur]
    rfl
  · rw [← hg r, State.g, hctx]
    rfl
  · rw [← hp q, State.p, hctx]
    rfl
  · rw [State.pc, hctx]
    exact hpc
  all_goals
    rw [hctx]
    assumption

theorem waitTrap_spec (h : s.InUser) (f : Flt) : s.Trapped f.cause s.aAddr f.addr f.info (s.waitTrap f) ∧
    ∀ w, s.HandlerTakes f.cause → s.ctx.stat = .waiting w → (s.waitTrap f).ctx.expired = some ⟨s.aAddr, s.pc, s.ctx.pend, w⟩ := by
  have ht := trapped_takeTrap h f s.aAddr
  by_cases hu : s.HandlerTakes f.cause
  · have henter := ht.1 hu
    have hhandler : ((s.takeTrap f s.aAddr).cur.handler && !s.cur.handler) = true := by
      rw [henter.2.1, hu.1]
      rfl
    cases hw : s.ctx.wait with
    | none =>
      have hwt : s.waitTrap f = s.takeTrap f s.aAddr := by simp only [State.waitTrap, hw]
      refine ⟨hwt ▸ ht, fun w _ hst => ?_⟩
      simp [Ctx.wait, hst] at hw
    | some w =>
      have hwt : s.waitTrap f = (s.takeTrap f s.aAddr).onCtx fun x => { x with expired := some ⟨s.aAddr, s.pc, s.ctx.pend, w⟩ } := by
        simp only [State.waitTrap, hw, hhandler]
      rw [hwt]
      refine ⟨⟨fun _ => entersHandler_expired h.inHusk henter _, fun hn => absurd hu hn⟩, fun w' _ hst => ?_⟩
      have hww : w' = w := by simpa [Ctx.wait, hst] using hw
      rw [State.ctx_onCtx, hww]
  · have hhusk := ht.2 hu
    have hhandler : ((s.takeTrap f s.aAddr).cur.handler && !s.cur.handler) = false := by
      rw [hhusk.2.1, Core.endPair_eq]
      simp
    have hwt : s.waitTrap f = s.takeTrap f s.aAddr := by
      simp only [State.waitTrap, hhandler]
      cases s.ctx.wait <;> rfl
    exact ⟨hwt ▸ ht, fun _ h => absurd h hu⟩

theorem waitTimeout_completes {n : Nat} {f : Flt} (hf : (s.asS n).waitFault = some f) (hs : (s.core n).surrogate = false) :
    Completes (.waitTimeout n .s) s (fun t =>
      (∃ u, (s.asS n).Trapped f.cause (s.asS n).aAddr f.addr f.info u ∧ t = { u with turn := s.turn }) ∧
      ∀ w, (s.asS n).HandlerTakes f.cause → (s.core n).user.stat = .waiting w →
        (t.core n).user.expired = some ⟨(s.asS n).aAddr, (s.core n).user.pc, (s.core n).user.pend, w⟩) := by
  obtain ⟨htrap, hexp⟩ := waitTrap_spec (s := s.asS n) ⟨rfl, hs⟩ f
  refine ⟨{ (s.asS n).waitTrap f with turn := s.turn }, ?_, ⟨_, htrap, rfl⟩, fun w hu hw => ?_⟩
  · show Host.Outcome.next (s.onBehalf n .s _) = _
    refine congrArg Host.Outcome.next (onBehalf_eq ?_)
    simp only [reduceCtorEq, if_false, if_true, hf]
  · have hx := hexp w hu hw
    have hagent : ((s.asS n).waitTrap f).ctx = (((s.asS n).waitTrap f).core n).user := by
      have honly : (s.asS n).OnlyCore ((s.asS n).waitTrap f) := (htrap.1 hu).1
      rw [State.ctx, honly.inHusk, State.cur, honly.agent]
      rfl
    rw [hagent] at hx
    exact hx

/-- An engine trap that is reported against an engine of a core, outside the surrogate phase and with none pending (R355). -/
theorem engineTrap_becomes {n : Nat} (q : Seq) (e : Eng) (f : Flt) (hs : (s.core n).surrogate = false) (he : (s.core n).engTrap = none) :
    ∃ x, s.CoreBecomes n { s.core n with engTrap := some x } (s.onBehalf n q (engineTrap e f false 0)) ∧ x.e = e ∧ x.flt = f ∧
      x.entered = false ∧ x.replayable = false := by
  let y := ((s.core n).eng e).entry.getD ⟨.halt, 0, 0, 0, 0, 0, 0⟩
  let x : EngTrap := ⟨e, f, y.at_, y.pos, 0, ((s.core n).eng e).iterNo, false, ((s.core n).eng e).pts, false⟩
  have h : engineTrap e f false 0 { s with turn := .seq n q } =
      State.updCore { s with turn := .seq n q } n fun c => { c with engTrap := some (c.engTrap.getD x) } := by
    unfold engineTrap
    exact if_neg (ne_true_of_eq_false hs)
  rw [onBehalf_eq h]
  refine ⟨x, ?_, rfl, rfl, rfl, rfl⟩
  exact coreBecomes_updCore s n (f := fun c => { c with engTrap := some (c.engTrap.getD x) }) (by rw [he]; rfl)

/-- What C reports of a receive is `WAITTO`. -/
theorem cause_of_recvFault {f : Flt} (h : s.recvFault = some f) : f.cause = 0x0C := by
  unfold State.recvFault at h
  split at h
  · simp only [Option.ite_none_right_eq_some, Option.some.injEq] at h
    exact h.2 ▸ rfl
  · cases h

theorem recvTimeout_completes {n : Nat} {f : Flt} (hf : ({ s with turn := .seq n .c } : State).recvFault = some f) (hs : (s.core n).surrogate = false)
    (he : (s.core n).engTrap = none) :
    Completes (.waitTimeout n .c) s (fun t => ∃ x, s.CoreBecomes n { s.core n with engTrap := some x } t ∧ x.e = .c ∧
      x.flt = f ∧ f.cause = 0x0C ∧ x.entered = false ∧ x.replayable = false) := by
  obtain ⟨x, hx, hxe, hxf, hent, hrep⟩ := engineTrap_becomes .c .c f hs he
  refine ⟨_, ?_, x, hx, hxe, hxf, cause_of_recvFault hf, hent, hrep⟩
  show Host.Outcome.next (s.onBehalf n .c _) = _
  refine congrArg Host.Outcome.next (onBehalf_eq ?_)
  simp only [if_true, hf]

/-! #### Returns into a wait (R242) -/

theorem reenter_expired {x : Ctx} {e : Expired} {dest : Word} (he : x.expired = some e) (hw : e.word = dest) :
    x.reenter dest = { x.goto dest with expired := none, pc := e.pc, pend := e.pend, stat := .waiting e.wait } := by
  simp only [Ctx.reenter, he, hw, if_true]

theorem eret_reenters {r : BitVec 5} {pr : BitVec 3} {e : Expired} (hu : s.InUser) (hpl : s.Plain) (hp : s.p pr = true) (hh : s.cur.handler = true)
    (hr : (s.g r).toNat % 4 = 0) (he : s.ctx.expired = some e) (hw : e.word = s.g r) :
    Completes (.eret r pr) s (fun t =>
      s.OnlyCore t ∧ s.SameG t ∧ s.SameP t ∧ t.cur = { s.cur with user := t.cur.user, handler := false } ∧
      t.pc = e.pc ∧ t.ctx.pend = e.pend ∧ t.ctx.stat = .waiting e.wait) := by
  have hctx : (s.returnFrom (s.g r)).ctx =
      { s.ctx.goto (s.g r) with expired := none, pc := e.pc, pend := e.pend, stat := .waiting e.wait } := by
    rw [← reenter_expired he hw, State.returnFrom, State.ctx_onCtx, State.ctx_onCore]
    simp [State.ctx, Core.ctx, hu.inHusk]
  have honly : s.OnlyCore (s.returnFrom (s.g r)) := by
    unfold State.returnFrom
    exact (onlyCore_onCore s _).trans (onlyCtx_onCtx _ _).1
  refine ⟨s.returnFrom (s.g r), ?_, honly, fun q => ?_, fun q => ?_, ?_, ?_, ?_, ?_⟩
  · show Host.Outcome.next _ = _
    rw [guarded_plain hpl hp rfl]
    simp [hh, hr]
  · rw [State.g, hctx]
    rfl
  · rw [State.p, hctx]
    rfl
  · unfold State.returnFrom
    rw [State.cur_onCtx, State.cur_onCore]
    simp [hu.inHusk, Core.setCtx]
  · rw [State.pc, hctx]
  · rw [hctx]
  · rw [hctx]

/-! #### PIPDEAD (R14) -/

theorem exec_pipdeadDetect {n : Nat} (h : s.PipDead n (s.core n)) :
    exec (.pipdeadDetect n) s = .next (match [Eng.c, Eng.l, Eng.t].find? fun e => (s.core n).eBlocked (s.latePush n) e with
      | some e => s.onBehalf n e.seq (engineTrap e ⟨0x0A, 0, BitVec.ofNat 64 ((s.core n).deadInfo (s.latePush n))⟩ false 0)
      | none => s.trapOn n ⟨0x0A, 0, BitVec.ofNat 64 ((s.core n).deadInfo (s.latePush n))⟩) := by
  obtain ⟨hS, hE, hret, hbusy, htrap, _⟩ := h
  show Host.Outcome.next _ = _
  refine congrArg Host.Outcome.next ((if_neg ?_).trans ?_)
  · rw [hE, hE, hE, hret, hbusy, htrap]
    rcases hS with hS | ⟨p, hS⟩ <;> simp [hS]
  · rfl

theorem pipdead_engine {n : Nat} {e : Eng} (h : s.PipDead n (s.core n))
    (he : [Eng.c, Eng.l, Eng.t].find? (fun d => (s.core n).eBlocked (s.latePush n) d) = some e) :
    Completes (.pipdeadDetect n) s (fun t => ∃ x, s.CoreBecomes n { s.core n with engTrap := some x } t ∧ x.e = e ∧
      x.flt = ⟨0x0A, 0, BitVec.ofNat 64 ((s.core n).deadInfo (s.latePush n))⟩ ∧ x.entered = false ∧ x.replayable = false) := by
  obtain ⟨_, _, _, _, htrap, hsur⟩ := id h
  refine ⟨_, (exec_pipdeadDetect h).trans (by rw [he]), ?_⟩
  exact engineTrap_becomes e.seq e _ hsur htrap

theorem pipdead_s {n : Nat} (h : s.PipDead n (s.core n)) (he : ∀ e, (s.core n).eBlocked (s.latePush n) e = false) :
    Completes (.pipdeadDetect n) s (fun t => ∃ u,
      (s.asS n).Trapped 0x0A (s.asS n).aAddr 0 (BitVec.ofNat 64 ((s.core n).deadInfo (s.latePush n))) u ∧ t = { u with turn := s.turn }) := by
  obtain ⟨_, _, _, _, _, hsur⟩ := id h
  have hfind : [Eng.c, Eng.l, Eng.t].find? (fun d => (s.core n).eBlocked (s.latePush n) d) = none := by
    rw [List.find?_eq_none]
    intro d _
    simp [he d]
  have hexec : exec (.pipdeadDetect n) s = .next (s.trapOn n ⟨0x0A, 0, BitVec.ofNat 64 ((s.core n).deadInfo (s.latePush n))⟩) := by
    rw [exec_pipdeadDetect h, hfind]
  exact ⟨_, hexec, _, trapped_takeTrap (s := s.asS n) ⟨rfl, hsur⟩ ⟨0x0A, 0, _⟩ _, rfl⟩

end Sys2Proof.Machine
end

section
/-! ### The end of the surrogate phase: the decision and the fallback (R297, R307, R308, R310) -/

namespace Sys2Proof.Machine

variable {s t : State}

/-! #### The redo area (R310) -/

theorem devWrite_cores {agent : Nat} {ws : List Win} {p va w : Word} {n v : Nat} (h : s.devWrite agent ws p va n v = .ok (t, w)) :
    t.cores = s.cores := by
  unfold State.devWrite at h
  split at h
  · cases h
  · rename_i l _
    split at h
    · cases h
      rfl
    · simp only [Except.ok.injEq] at h
      have ht : t = ((s.touchIn ws l va true).writeAt [] false p l n v).1 := by rw [h]
      rw [ht, State.writeAt_nil_cores]
      exact (touched_touch s l _ _ _ _ _).cores

theorem endLaunch_cores {P : Core → Prop} (hP : KeptByEnding P) (l status : Nat) {m : Nat} (h : P (s.core m)) :
    P ((s.endLaunch l status).core m) := by
  rw [State.core_congr (endLaunch_spec s l status).1]
  exact gangsStopped_cores hP l h

/-- An entry of the redo area, or the end of the launch that comes of its failure, keeps of a core what the end of a launch keeps. -/
theorem appendRedo_cores {P : Core → Prop} (hP : KeptByEnding P) (agent l iter : Nat) {m : Nat} (h : P (s.core m)) :
    P ((s.appendRedo agent l iter).core m) := by
  unfold State.appendRedo
  split
  · exact h
  · simp only
    split
    · exact endLaunch_cores hP _ _ h
    · rename_i s1 _ h1
      have hs1 : P (s1.core m) := by rwa [State.core_congr (devWrite_cores h1)]
      split
      · exact endLaunch_cores hP _ _ hs1
      · rename_i s2 _ h2
        rw [State.core_congr (State.updLaunch_cores _ _ _), State.core_congr (devWrite_cores h2)]
        exact hs1

/-! #### The fallback (R307) -/

/-- No buffer, no surrogate phase. -/
def Core.OutOfGuard (c : Core) : Prop := c.guard = [] ∧ c.surrogate = false

/-- And no token. -/
def Core.FellBack (c : Core) : Prop := c.guard = [] ∧ c.surrogate = false ∧ c.tokens = []

theorem outOfGuard_kept : KeptByEnding Core.OutOfGuard := ⟨fun _ h => h, fun _ _ _ => ⟨rfl, rfl⟩⟩

theorem fellBack_kept : KeptByEnding Core.FellBack := ⟨fun _ h => h, fun _ _ _ => ⟨rfl, rfl, rfl⟩⟩

theorem core_foldl_updCore_makes {P : Core → Prop} {f : Core → Core} (hf : ∀ c, P (f c)) {l : List Nat} {m : Nat} (hm : m ∈ l) :
    P ((l.foldl (fun (a : State) k => a.updCore k f) s).core m) := by
  refine core_foldl_of_mem (Q := fun _ => True) (updCore_local f) hm (fun a _ => ?_) (fun _ _ => trivial) trivial
  rw [State.core_updCore_self]
  exact hf _

theorem fallback_members {n reason : Nat} {b : Binding} {g : Gang} (hb : (s.core n).binding = some b) (hg : Cells.find? s.gangs b.gang = some g)
    {m : Nat} (hm : m ∈ g.members) : ((s.fallback n reason).core m).FellBack := by
  unfold State.fallback
  rw [hb]
  simp only [hg]
  refine appendRedo_cores fellBack_kept _ _ _ ?_
  rw [State.core_congr (State.updLaunch_cores _ _ _), State.core_congr (State.updGang_cores _ _ _)]
  exact core_foldl_updCore_makes (f := Core.fallBack s.nextId s.fresh) (fun c => ⟨rfl, rfl, rfl⟩) hm

theorem fallback_completes {n : Nat} {b : Binding} {g : Gang} {reason : BitVec 8} (hs : (s.core n).surrogate = true)
    (hb : (s.core n).binding = some b) (hg : Cells.find? s.gangs b.gang = some g) (hr : reason = 0x87 ∨ (reason = 0x0D ∧ (s.core n).errs ≠ [])) :
    Completes (.fallback n reason) s (fun t => ∀ m ∈ g.members, (t.core m).guard = [] ∧ (t.core m).surrogate = false ∧ (t.core m).tokens = []) := by
  rcases hr with rfl | ⟨rfl, he⟩
  · refine ⟨s.fallback n 0x87, ?_, fun m hm => fallback_members hb hg hm⟩
    show Host.Outcome.next _ = _
    simp [hs]
  · obtain ⟨x, r, hx⟩ := List.exists_cons_of_ne_nil he
    refine ⟨s.fallbackTrap n (s.faultRec n 0 0 0 (s.core n).user.pc ⟨0x0D, x.2, x.1.setWidth 64⟩ (s.core n).pts), ?_, fun m hm => ?_⟩
    · show Host.Outcome.next _ = _
      simp [hs, hx]
    · unfold State.fallbackTrap
      refine fallback_members (b := b) ?_ ?_ hm
      · rw [State.core_congr (State.recordFor_cores _ _ _)]
        exact hb
      · rw [recordFor_gangs]
        exact hg

/-! #### The commit (R297, R299, R300) -/

@[simp] theorem key_locOfKey (k : Nat) : (locOfKey k).key = k := by
  unfold locOfKey
  split
  · rfl
  · split
    · simp only [Loc.key]
      omega
    · split
      · simp only [Loc.key]
        omega
      · simp only [Loc.key]
        omega

/-- Race mode is off on a core. -/
def State.RaceOff (s : State) (m : Nat) : Prop := (s.core m).raceMode.getLsbD 0 = false

theorem whoAt_core (s : State) (n : Nat) (q : Seq) (f : Word) (y : Bool) : (s.whoAt n q f y).core = n := by
  unfold State.whoAt
  simp only
  split
  · rfl
  · split <;> rfl

theorem shadowHome_of_off {w : Who} (h : s.RaceOff w.core) (va : Word) : s.shadowHome w va = none := by
  have h0 : s.raceModeAt w va = 0 := by
    unfold State.raceModeAt
    split
    · rw [h]
      rfl
    · rfl
  rw [State.shadowHome, if_pos h0]

theorem evicted_touchFor {w : Who} (h : s.RaceOff w.core) (cls : BitVec 2) (dirty : Bool) (l : Loc) (va : Word) :
    s.Evicted (s.touchFor w cls dirty l va) := by
  unfold State.touchFor
  rw [shadowHome_of_off h]
  exact evicted_touch s l _ _ _ _

theorem evicted_touchBuffer {m : Nat} (h : s.RaceOff m) : s.Evicted (s.touchBuffer m) := by
  unfold State.touchBuffer
  refine List.foldlRecOn (motive := s.Evicted) _ _ (State.Evicted.refl s) fun a ha va _ => ?_
  split
  · refine ha.trans (evicted_touchFor ?_ _ _ _ _)
    show a.RaceOff (s.whoAt m .s (s.core m).floor false).core
    rw [whoAt_core, State.RaceOff, State.core_congr ha.cores]
    exact h
  · exact ha

theorem noteBuffer_of_off {m : Nat} (h : s.RaceOff m) (t : Word) : s.noteBuffer m t = s := by
  unfold State.noteBuffer
  simp only
  rw [if_pos (by rw [h]; rfl)]

/-- The bytes of the buffers at their places, each with its line at timestamp `t`. -/
def State.putBuffered (t : Word) (s : State) (x : Nat × Byte) : State := (s.putByte (locOfKey x.1) x.2).setTs (locOfKey x.1) ⟨t, t⟩

theorem putBuffered_spec (t : Word) (l : List (Nat × Byte)) (s : State) :
    (l.foldl (State.putBuffered t) s).cores = s.cores ∧ (l.foldl (State.putBuffered t) s).gangs = s.gangs ∧
    ∀ p : Loc, (∀ x ∈ l, x.1 ≠ p.key) → (l.foldl (State.putBuffered t) s).byteAt p = s.byteAt p := by
  have hcores : ∀ (a : State) x, (a.putBuffered t x).cores = a.cores := fun a x =>
    (onlyCaches_setTs _ _ _).cores.trans (State.putByte_cores a _ _)
  have hgangs : ∀ (a : State) x, (a.putBuffered t x).gangs = a.gangs := fun a x => by
    unfold State.putBuffered
    cases locOfKey x.1 <;> rfl
  refine ⟨foldl_keeps State.cores (f := State.putBuffered t) hcores l s, foldl_keeps State.gangs (f := State.putBuffered t) hgangs l s, fun p hp => ?_⟩
  refine List.foldlRecOn (motive := fun a : State => a.byteAt p = s.byteAt p) l _ rfl fun a ha x hx => ?_
  refine ((onlyCaches_setTs _ _ _).bytes p).trans ((byteAt_putByte_of_key_ne a ?_ _).trans ha)
  rw [key_locOfKey]
  exact Ne.symm (hp x hx)

/-- The lines of the members' buffers have been touched, and the buffered bytes put in place at `t`. -/
def State.merged (s : State) (l : List Nat) (t : Word) : State :=
  (l.flatMap fun m => (s.core m).guard).foldl (State.putBuffered t) (l.foldl State.touchBuffer s)

theorem evicted_touchBuffers {l : List Nat} (h : ∀ m ∈ l, s.RaceOff m) : s.Evicted (l.foldl State.touchBuffer s) := by
  refine List.foldlRecOn (motive := s.Evicted) l _ (State.Evicted.refl s) fun a ha m hm => ha.trans (evicted_touchBuffer ?_)
  rw [State.RaceOff, State.core_congr ha.cores]
  exact h m hm

theorem merged_spec {l : List Nat} (h : ∀ m ∈ l, s.RaceOff m) (t : Word) :
    (s.merged l t).cores = s.cores ∧ (s.merged l t).gangs = s.gangs ∧
    ∀ p, ¬ s.InRecords p → (∀ m ∈ l, ∀ x ∈ (s.core m).guard, x.1 ≠ p.key) → (s.merged l t).byteAt p = s.byteAt p := by
  have he := evicted_touchBuffers h
  obtain ⟨hcores, hgangs, hbytes⟩ := putBuffered_spec t (l.flatMap fun m => (s.core m).guard) (l.foldl State.touchBuffer s)
  refine ⟨hcores.trans he.cores, hgangs.trans he.gangs, fun p hp hkeys => (hbytes p fun x hx => ?_).trans (he.bytes p hp)⟩
  obtain ⟨m, hm, hxm⟩ := List.mem_flatMap.mp hx
  exact hkeys m hm x hxm

theorem noteBuffers_of_off {l : List Nat} (h : ∀ m ∈ l, s.RaceOff m) (t : Word) :
    l.foldl (fun (a : State) m => a.noteBuffer m t) s = s :=
  List.foldlRecOn (motive := fun a => a = s) l _ rfl fun _ ha m hm => by rw [ha, noteBuffer_of_off (h m hm)]

theorem commit_spec {l : List Nat} (h : ∀ m ∈ l, s.RaceOff m) :
    (s.commit l).gangs = s.gangs ∧
    ∀ p, ¬ s.InRecords p → (∀ m ∈ l, ∀ x ∈ (s.core m).guard, x.1 ≠ p.key) → (s.commit l).byteAt p = s.byteAt p := by
  obtain ⟨t, ht⟩ : ∃ t, s.commit l = l.foldl (fun (a : State) m => a.updCore m fun c => (((c.setPts .s t).setPts .l t).setPts .c t).setPts .t t)
      (l.foldl (fun (a : State) m => a.noteBuffer m t) (s.merged l t)) := ⟨_, rfl⟩
  obtain ⟨hcores, hgangs, hbytes⟩ := merged_spec h t
  rw [ht, noteBuffers_of_off fun m hm => by
    rw [State.RaceOff, State.core_congr hcores]
    exact h m hm]
  exact ⟨(gangs_foldl_updCore _ _ _).trans hgangs, fun p hp hkeys => ((onlyGangs_foldl_updCore _ _ _).byteAt p).trans (hbytes p hp hkeys)⟩

/-! #### The decision (R308) -/

/-- A core after the decision of its gang. -/
def Core.decided (c : Core) : Core := { c with guard := [], guardVas := [], surrogate := false }

/-- The decision `v` of a gang has been taken in `u`: no member has a buffer any more, and the gang and its launch know of it. -/
def State.decidedAs (u : State) (i : Nat) (g : Gang) (v field : Nat) : State :=
  ((g.members.foldl (fun (a : State) m => a.updCore m Core.decided) u).updGang i fun y => { y with decision := some v, guardAt := [] }).updLaunch g.launch
    fun l => { l with gstat := bumpField l.gstat field }

theorem decidedAs_members (u : State) (i : Nat) (g : Gang) (v field : Nat) {m : Nat} (hm : m ∈ g.members) : ((u.decidedAs i g v field).core m).OutOfGuard := by
  unfold State.decidedAs
  rw [State.core_congr (State.updLaunch_cores _ _ _), State.core_congr (State.updGang_cores _ _ _)]
  exact core_foldl_updCore_makes (f := Core.decided) (fun _ => ⟨rfl, rfl⟩) hm

theorem decidedAs_gang {u : State} {i : Nat} {g x : Gang} (h : Cells.find? u.gangs i = some x) (v field : Nat) :
    Cells.find? (u.decidedAs i g v field).gangs i = some { x with decision := some v, guardAt := [] } := by
  rw [State.decidedAs, State.updLaunch_gangs, State.find?_updGang, if_pos rfl, gangs_foldl_updCore, h]
  rfl

theorem byteAt_decidedAs (u : State) (i : Nat) (g : Gang) (v field : Nat) (p : Loc) : (u.decidedAs i g v field).byteAt p = u.byteAt p := by
  refine Eq.trans ?_ ((onlyGangs_foldl_updCore Core.decided g.members u).byteAt p)
  exact State.byteAt_congr (by simp [State.decidedAs]) (by simp [State.decidedAs]) (by simp [State.decidedAs]) (by simp [State.decidedAs]) p

theorem exec_guardDecision {i : Nat} {g : Gang} (hg : Cells.find? s.gangs i = some g) (hd : g.decision = none)
    (hl : g.members.length ≤ g.guardAt.length) :
    exec (.guardDecision i) s = .next (if g.members.all fun m => (s.core m).guardOk then (s.commit g.members).decidedAs i g 0 0
      else (s.decidedAs i g 1 16).appendRedo (g.members.headD 0) g.launch (g.iter.getD 0)) := by
  show Host.Outcome.next _ = _
  rw [hg]
  refine congrArg Host.Outcome.next ((if_neg ?_).trans ?_)
  · rw [hd]
    simp only [Option.isSome_none, Bool.false_eq_true, false_or]
    omega
  · cases g.members.all fun m => (s.core m).guardOk <;> rfl

theorem guardDecision_completes {i : Nat} {g : Gang} (hg : Cells.find? s.gangs i = some g) (hd : g.decision = none)
    (hl : g.members.length ≤ g.guardAt.length) :
    Completes (.guardDecision i) s (fun t =>
      (∀ m ∈ g.members, (t.core m).guard = [] ∧ (t.core m).surrogate = false) ∧
      ((∀ m ∈ g.members, (s.core m).guardOk = true ∧ (s.core m).raceMode.getLsbD 0 = false) →
        (∃ h, Cells.find? t.gangs i = some h ∧ h.decision = some 0 ∧ h.guardAt = []) ∧
        ∀ l, ¬ s.InRecords l → (∀ m ∈ g.members, ∀ x ∈ (s.core m).guard, x.1 ≠ l.key) → t.byteAt l = s.byteAt l)) := by
  refine ⟨_, exec_guardDecision hg hd hl, fun m hm => ?_, fun h => ?_⟩
  · split
    · exact decidedAs_members _ i g 0 0 hm
    · exact appendRedo_cores outOfGuard_kept _ _ _ (decidedAs_members s i g 1 16 hm)
  · obtain ⟨hgangs, hbytes⟩ := commit_spec (s := s) (l := g.members) fun m hm => (h m hm).2
    rw [if_pos (List.all_eq_true.mpr fun m hm => (h m hm).1)]
    refine ⟨⟨_, decidedAs_gang (by rw [hgangs]; exact hg) 0 0, rfl, rfl⟩, fun l hr hkeys => ?_⟩
    exact (byteAt_decidedAs _ i g 0 0 l).trans (hbytes l hr hkeys)

/-! #### All of them -/

theorem trapStepsHold : TrapStepsHold := by
  rintro s a n c rfl rfl
  refine ⟨fun x hx he hc hs => engineTrapEntry_completes hx he hc hs, fun pc x w hx he hr hs => huskResume_repaired pc hx he hr hs,
    fun w hx hs => ⟨fun hv hh hc hb => huskResume_toHandler hx hs hv hh hc hb, huskResume_refused hx hs, fun pc hp hc => huskResume_goesOn hx hs hp hc⟩,
    fun l cause x hl hx => huskEndLaunch_completes hl hx, huskTimerExpiry_entersHusk,
    fun b g hb hc hg hst hsur => huskTimerExpiry_preempts hb hc hg hst hsur, fun p q hp hq => huskFailure_completes hp hq,
    fun f hf hs => waitTimeout_completes hf hs, fun r pr e hu hpl hp hh hr he hw => eret_reenters hu hpl hp hh hr he hw,
    fun f hf hs he => recvTimeout_completes hf hs he, fun h => ⟨fun e he => pipdead_engine h he, pipdead_s h⟩,
    fun g i hg hd hl => guardDecision_completes hg hd hl, fun b g reason hs hb hg hr => fallback_completes hs hb hg hr⟩

end Sys2Proof.Machine
end

section
/-! ### Preemption: save and restore (R241, R361 to R364) -/

namespace Sys2Proof.Machine

variable {s t : State}

/-! #### The save area (R363, Table 19.8) -/

theorem Cells.lt_of_rising {α : Type} {k : Nat} {l : Cells α} (h : Cells.rising (some k) l = true) : ∀ x ∈ l, k < x.1 := by
  induction l generalizing k with
  | nil => exact fun x hx => by cases hx
  | cons y r ih =>
    obtain ⟨j, v⟩ := y
    simp only [Cells.rising, Bool.and_eq_true, decide_eq_true_eq] at h
    intro x hx
    rcases List.mem_cons.mp hx with rfl | hx
    · exact h.1
    · exact h.1.trans (ih h.2 x hx)

theorem Memory.read_foldl_write_out (m l : Memory) (base a : Nat) (h : ∀ x ∈ l, base + x.1 ≠ a) :
    Memory.read (l.foldl (fun m x => Memory.write m (base + x.1) x.2) m) a = Memory.read m a :=
  List.foldlRecOn (motive := fun b => Memory.read b a = Memory.read m a) l _ rfl fun b hb x hx => by
    rw [Memory.read_write, if_neg (h x hx), hb]

/-- A memory in canonical form, laid over bytes that nothing has written, reads as itself. -/
theorem Memory.read_foldl_write {m l : Memory} {lo : Option Nat} (hl : Cells.rising lo l = true) (base i : Nat)
    (hm : Memory.read m (base + i) = Memory.unwritten) :
    Memory.read (l.foldl (fun m x => Memory.write m (base + x.1) x.2) m) (base + i) = Memory.read l i := by
  induction l generalizing m lo with
  | nil => exact hm
  | cons y r ih =>
    obtain ⟨k, v⟩ := y
    simp only [Cells.rising, Bool.and_eq_true] at hl
    by_cases hk : k = i
    · subst hk
      rw [List.foldl_cons, Memory.read_foldl_write_out, Memory.read_write_self]
      · simp [Memory.read, Cells.get]
      · intro x hx
        have := Cells.lt_of_rising hl.2 x hx
        omega
    · rw [List.foldl_cons, ih hl.2]
      · simp [Memory.read, Cells.get, hk]
      · rw [Memory.read_write, if_neg (by omega), hm]

theorem Memory.read_filter_out (m : Memory) (q : Host.Cell → Bool) (a : Nat) (h : ∀ v, q (a, v) = false) :
    Memory.read (m.filter q) a = Memory.unwritten := by
  have hnone : Cells.find? (m.filter q) a = none := by
    rw [Option.eq_none_iff_forall_ne_some]
    intro v hv
    have hq := (List.mem_filter.mp (Cells.mem_of_find? hv)).2
    rw [h v] at hq
    cases hq
  rw [Memory.read, Cells.get_eq_find?, hnone]
  rfl

/-- Memory `m'` is `m` with writes from 1 MiB on. -/
def Memory.KeepsLow (m m' : Memory) : Prop :=
  (Memory.wf m = true → Memory.wf m' = true) ∧ ∀ i, i < 0x100000 → Memory.read m' i = Memory.read m i

theorem Memory.KeepsLow.refl (m : Memory) : Memory.KeepsLow m m := ⟨id, fun _ _ => rfl⟩

theorem Memory.KeepsLow.writeNat {m m' : Memory} (h : Memory.KeepsLow m m') {a : Nat} (ha : 0x100000 ≤ a) (n v : Nat) :
    Memory.KeepsLow m (Memory.writeNat m' a n v) :=
  ⟨fun hm => Memory.wf_writeNat (h.1 hm) a n v, fun i hi => by rw [Memory.read_writeNat_out _ _ _ _ _ (.inl (by omega)), h.2 i hi]⟩

theorem Memory.KeepsLow.foldl {α : Type} {m m' : Memory} (h : Memory.KeepsLow m m') {f : Memory → α → Memory}
    (hf : ∀ a x, Memory.KeepsLow m a → Memory.KeepsLow m (f a x)) (l : List α) : Memory.KeepsLow m (l.foldl f m') :=
  List.foldlRecOn (motive := Memory.KeepsLow m) l f h fun a ha x _ => hf a x ha

theorem Memory.KeepsLow.words {m m' : Memory} (h : Memory.KeepsLow m m') {base : Nat} (hb : 0x100000 ≤ base) (n : Nat) (l : List (Nat × Nat)) :
    Memory.KeepsLow m (l.foldl (fun a x => Memory.writeNat a (base + n * x.1) n x.2) m') :=
  h.foldl (fun _ x ha => ha.writeNat (by omega) n x.2) l

/-- The image of a core holds its LS as it is, and everything else from 1 MiB on. -/
theorem keepsLow_saveImage (seed : Nat) (c : Core) (messages : Nat) : Memory.KeepsLow c.ls (c.saveImage seed messages) := by
  unfold Core.saveImage
  have far : ∀ {b x : Nat}, 0x100000 ≤ b → 0x100000 ≤ b + x := fun h => h.trans (Nat.le_add_right _ _)
  refine .writeNat (.writeNat (.writeNat (.writeNat (.writeNat (.foldl ?_ (fun _ e ha => ?_) _) ?_ _ _) ?_ _ _) ?_ _ _) ?_ _ _) ?_ _ _
  · refine .words (.foldl (.words (.words (.words (.writeNat (.refl _) le_rfl _ _) ?_ _ _) ?_ _ _) ?_ _ _) (fun _ x ha => ha.writeNat (far ?_) _ _) _)
      ?_ _ _
    all_goals decide
  · exact .words (.words ha (far (by decide)) _ _) (far (by decide)) _ _
  all_goals decide

/-- The area of a core holds its image. -/
theorem saveArea_spec (s : State) (n : Nat) : s.saveArea n = { s with save := (s.saveArea n).save } ∧ s.LsSaved n (s.saveArea n) := by
  refine ⟨rfl, fun hls _ i hi => ?_⟩
  obtain ⟨k, hk⟩ : ∃ k, (s.saveArea n).save = ((s.core n).saved.saveImage s.fresh k).foldl (fun m x => Memory.write m (0x240000 * n + x.1) x.2)
      (s.save.filter fun (x : Nat × Byte) => decide (x.1 < 0x240000 * n ∨ 0x240000 * n + 0x240000 ≤ x.1)) := ⟨_, rfl⟩
  obtain ⟨hwf, hlow⟩ := keepsLow_saveImage s.fresh (s.core n).saved k
  have hwf' := hwf hls
  simp only [Memory.wf, Cells.wf, Bool.and_eq_true] at hwf'
  rw [hk, Memory.read_foldl_write hwf'.1, hlow i hi, Core.lsRead, Nat.mod_eq_of_lt hi]
  refine Memory.read_filter_out _ _ _ fun v => ?_
  simp only [decide_eq_false_iff_not]
  omega

/-! #### Preemptible gangs (R241) -/

theorem gangPreemptible_completes {n : Nat} {b : Binding} {g : Gang} (hb : (s.core n).binding = some b) (hg : Cells.find? s.gangs b.gang = some g)
    (hw : (s.core n).blockedWaiter = true) :
    Completes (.gangPreemptible n) s (fun t => t = { s with gangs := Cells.put s.gangs b.gang { g with preemptible := true } }) := by
  refine ⟨_, ?_, rfl⟩
  show Host.Outcome.next _ = _
  rw [hb]
  simp only [hw, if_true, State.updGang, hg]

/-! #### Saves (R362, R363) -/

theorem saveBusy_of_quiet {n : Nat} {g : Gang} (hq : s.Quiet n) (hf : g.discard = true ∨ s.inFlight g = false) : s.saveBusy g n = false := by
  obtain ⟨hmid, hreqs, hao, hops, hinf, hld, htup, hsys⟩ := hq
  simp only [State.saveBusy, hmid, hinf, hld, htup, Bool.false_and, Bool.or_eq_false_iff, List.any_eq_false]
  refine ⟨⟨⟨⟨⟨⟨⟨⟨by simp, fun x hx => ?_⟩, fun x hx => ?_⟩, fun x hx => ?_⟩, fun x hx => ?_⟩, by simp⟩, by simp⟩, by simp⟩, ?_⟩
  · simp [hreqs x hx]
  · simp [hao x hx]
  · intro h
    simp only [Bool.and_eq_true, beq_iff_eq] at h
    exact absurd h.2 (ne_true_of_eq_false (hops x hx h.1))
  · obtain ⟨hst, hlo, hfe⟩ := hsys x hx
    split
    · rename_i k o l bs hk
      simp only [beq_iff_eq]
      rintro rfl
      exact hst o l bs hk
    · rename_i k h ps own gd sg kp aq hk
      simp only [beq_iff_eq]
      rintro rfl
      exact hlo h ps own gd sg kp aq hk
    · rename_i k hk
      simp only [beq_iff_eq]
      rintro rfl
      exact hfe hk
  · rcases hf with h | h <;> simp [h]

/-- Core `n` stands among the saved, or restored, members of its gang. -/
def State.noteSaved (s : State) (i n : Nat) : State := s.updGang i fun y => { y with saved := y.saved ++ [n] }

theorem exec_contextSaveComplete {n : Nat} {b : Binding} {g : Gang} (hb : (s.core n).binding = some b) (hg : Cells.find? s.gangs b.gang = some g)
    (hst : g.state = .saving) (hn : g.saved.contains n = false) (hbusy : s.saveBusy g n = false) :
    exec (.contextSaveComplete n) s = .next (
      if !((s.membersOf g).all fun m => m == n || g.saved.contains m) then (if g.discard then s else s.saveArea n).noteSaved b.gang n
      else if g.discard then ((if g.discard then s else s.saveArea n).noteSaved b.gang n).discardGang b.gang g
      else
        ((s.membersOf g).foldl (fun (a : State) m => a.updCore m (Core.unbind s.nextId))
          { (if g.discard then s else s.saveArea n).noteSaved b.gang n with
            nextId := ((if g.discard then s else s.saveArea n).noteSaved b.gang n).nextId + 1 }).updGang b.gang fun y =>
          { y with state := .saved, saved := [], preemptible := false, ctxs := (s.membersOf g).map fun m => (m, (s.core m).saved) }) := by
  show Host.Outcome.next _ = _
  rw [hb]
  simp only [hg]
  refine congrArg Host.Outcome.next ((if_neg ?_).trans rfl)
  rw [hst, hn, hbusy]
  simp

theorem all_saved {n : Nat} {g : Gang} (h : ∀ m ∈ s.membersOf g, m = n ∨ g.saved.contains m = true) :
    ((s.membersOf g).all fun m => m == n || g.saved.contains m) = true := by
  rw [List.all_eq_true]
  intro m hm
  rcases h m hm with h | h
  · simp [h]
  · rw [h, Bool.or_true]

theorem not_all_saved {n : Nat} {g : Gang} (h : ∃ m ∈ s.membersOf g, m ≠ n ∧ g.saved.contains m = false) :
    ((s.membersOf g).all fun m => m == n || g.saved.contains m) = false := by
  obtain ⟨m, hm, hne, hs⟩ := h
  rw [List.all_eq_false]
  exact ⟨m, hm, by rw [hs]; simpa using hne⟩

theorem noteSaved_gang {i n : Nat} {g : Gang} (hg : Cells.find? s.gangs i = some g) :
    Cells.find? (s.noteSaved i n).gangs i = some { g with saved := g.saved ++ [n] } := by
  rw [State.noteSaved, State.find?_updGang, if_pos rfl, hg]
  rfl

theorem onlyGangs_noteSaved (s : State) (i n : Nat) : s.OnlyGangs (s.noteSaved i n) := onlyGangs_updGang s i _

theorem noteSaved_cores (s : State) (i n : Nat) : (s.noteSaved i n).cores = s.cores := State.updGang_cores _ _ _

theorem contextSave_discards {n : Nat} {b : Binding} {g : Gang} (hb : (s.core n).binding = some b) (hg : Cells.find? s.gangs b.gang = some g)
    (hst : g.state = .saving) (hn : g.saved.contains n = false) (hq : s.Quiet n) (hd : g.discard = true)
    (hall : ∀ m ∈ s.membersOf g, m = n ∨ g.saved.contains m = true) :
    Completes (.contextSaveComplete n) s (fun t =>
      Cells.find? t.gangs b.gang = none ∧ t.save = s.save ∧
      (∀ m ∈ s.membersOf g, (s.core m).binding.map (fun x => x.gang) = some b.gang → (t.core m).binding = none ∧ (t.core m).tokens = []) ∧
      (∀ m, m ∉ s.membersOf g → t.core m = s.core m) ∧ ∀ l, t.byteAt l = s.byteAt l) := by
  have hexec := exec_contextSaveComplete hb hg hst hn (saveBusy_of_quiet hq (.inl hd))
  rw [all_saved hall, hd] at hexec
  obtain ⟨v, hv, hgangs, hcores, hteams, honly, hsave⟩ : ∃ v : State, (s.noteSaved b.gang n).discardGang b.gang g = v.dropGang b.gang ∧
      v.gangs = (s.noteSaved b.gang n).gangs ∧ v.cores = s.cores ∧ v.teams = s.teams ∧ (∀ l, v.byteAt l = s.byteAt l) ∧ v.save = s.save := by
    refine ⟨_, rfl, State.updLaunch_gangs _ _ _, ?_, ?_, fun l => ?_, ?_⟩
    · rw [State.updLaunch_cores, noteSaved_cores]
    · rw [State.updLaunch_teams, State.noteSaved, State.updGang_teams]
    · refine Eq.trans ?_ ((onlyGangs_noteSaved s b.gang n).byteAt l)
      exact State.byteAt_congr (by simp) (by simp) (by simp) (by simp) l
    · rw [State.updLaunch_save, State.noteSaved, State.updGang_save]
  have hx : Cells.find? v.gangs b.gang = some { g with saved := g.saved ++ [n] } := hgangs ▸ noteSaved_gang hg
  obtain ⟨hdrop, hfind, hdcores⟩ := dropGang_spec hx
  have hmem : ∀ m, m ∈ v.leaving b.gang { g with saved := g.saved ++ [n] } ↔
      m ∈ s.membersOf g ∧ (s.core m).binding.map (fun x => x.gang) = some b.gang := by
    intro m
    have hmembers : v.membersOf { g with saved := g.saved ++ [n] } = s.membersOf g := by simp only [State.membersOf, hteams]
    simp only [State.leaving, List.mem_filter, hmembers, State.boundTo, State.core_congr hcores, beq_iff_eq]
  refine ⟨v.dropGang b.gang, ?_, ?_, hdrop.save.trans hsave, fun m hm hbind => ?_, fun m hm => ?_, fun l => (hdrop.byteAt l).trans (honly l)⟩
  · rw [hexec, ← hv]
    simp
  · rw [hfind, if_pos rfl]
  · rw [State.core_congr hdcores]
    exact core_foldl_updCore_makes (P := fun c => c.binding = none ∧ c.tokens = []) (f := Core.unbind v.nextId) (fun _ => ⟨rfl, rfl⟩)
      ((hmem m).mpr ⟨hm, hbind⟩)
  · rw [State.core_congr hdcores, core_foldl_of_not_mem (updCore_local _) fun h => hm ((hmem m).mp h).1, State.core_congr hcores]

theorem contextSave_one {n : Nat} {b : Binding} {g : Gang} (hb : (s.core n).binding = some b) (hg : Cells.find? s.gangs b.gang = some g)
    (hst : g.state = .saving) (hn : g.saved.contains n = false) (hq : s.Quiet n) (hf : s.inFlight g = false) (hd : g.discard = false)
    (hnot : ∃ m ∈ s.membersOf g, m ≠ n ∧ g.saved.contains m = false) :
    Completes (.contextSaveComplete n) s (fun t =>
      t = { s with gangs := Cells.put s.gangs b.gang { g with saved := g.saved ++ [n] }, save := t.save } ∧ s.LsSaved n t) := by
  have hexec := exec_contextSaveComplete hb hg hst hn (saveBusy_of_quiet hq (.inr hf))
  rw [not_all_saved hnot, hd] at hexec
  have hnote : (s.saveArea n).noteSaved b.gang n =
      { s with gangs := Cells.put s.gangs b.gang { g with saved := g.saved ++ [n] }, save := (s.saveArea n).save } := by
    show State.updGang { s with save := (s.saveArea n).save } _ _ = _
    simp only [State.updGang, hg]
  have hnext : exec (.contextSaveComplete n) s = .next ((s.saveArea n).noteSaved b.gang n) := hexec
  exact ⟨_, hnext.trans (congrArg _ hnote), rfl, (saveArea_spec s n).2⟩

/-- The status of S of a core that has left its gang. -/
theorem release_stat (x : Ctx) : x.release.stat = (match x.stat with | .retired a => .retired a | _ => .unbound) := rfl

theorem release_release_stat (x : Ctx) : x.release.release.stat = x.release.stat := by
  simp only [release_stat]
  cases x.stat <;> rfl

theorem contextSave_last {n : Nat} {b : Binding} {g : Gang} (hb : (s.core n).binding = some b) (hg : Cells.find? s.gangs b.gang = some g)
    (hst : g.state = .saving) (hn : g.saved.contains n = false) (hq : s.Quiet n) (hf : s.inFlight g = false) (hd : g.discard = false)
    (hall : ∀ m ∈ s.membersOf g, m = n ∨ g.saved.contains m = true) :
    Completes (.contextSaveComplete n) s (fun t =>
      Cells.find? t.gangs b.gang = some { g with
        state := .saved, saved := [], preemptible := false, ctxs := (s.membersOf g).map fun m => (m, (s.core m).saved) } ∧
      (∀ m ∈ s.membersOf g, (t.core m).binding = none ∧
        (t.core m).user.stat = (s.core m).user.release.stat ∧ (t.core m).tokens = [] ∧ (t.core m).ls = (s.core m).ls) ∧
      (∀ m, m ∉ s.membersOf g → t.core m = s.core m) ∧ s.LsSaved n t ∧ ∀ l, t.byteAt l = s.byteAt l) := by
  have hexec := exec_contextSaveComplete hb hg hst hn (saveBusy_of_quiet hq (.inr hf))
  rw [all_saved hall, hd] at hexec
  generalize hw : ({ (s.saveArea n).noteSaved b.gang n with nextId := ((s.saveArea n).noteSaved b.gang n).nextId + 1 } : State) = w
  have hnext : exec (.contextSaveComplete n) s = .next (((s.membersOf g).foldl (fun (a : State) m => a.updCore m (Core.unbind s.nextId)) w).updGang
      b.gang fun y => { y with state := .saved, saved := [], preemptible := false, ctxs := (s.membersOf g).map fun m => (m, (s.core m).saved) }) := by
    rw [← hw]
    exact hexec
  have hwonly : (s.saveArea n).OnlyGangs w := hw ▸ (onlyGangs_noteSaved _ _ _).trans ⟨rfl, rfl, rfl, rfl, rfl, rfl, rfl⟩
  have hwgang : Cells.find? w.gangs b.gang = some { g with saved := g.saved ++ [n] } := hw ▸ noteSaved_gang (s := s.saveArea n) hg
  have hwcores : w.cores = s.cores := hw ▸ noteSaved_cores (s.saveArea n) b.gang n
  have honly := (hwonly.trans (onlyGangs_foldl_updCore (Core.unbind s.nextId) (s.membersOf g) w)).trans (onlyGangs_updGang _ b.gang fun y =>
    { y with state := .saved, saved := [], preemptible := false, ctxs := (s.membersOf g).map fun m => (m, (s.core m).saved) })
  refine ⟨_, hnext, ?_, fun m hm => ?_, fun m hm => ?_, fun hls hsv i hi => ?_, fun l => (honly.byteAt l).trans (by cases l <;> rfl)⟩
  · rw [State.find?_updGang, if_pos rfl, gangs_foldl_updCore, hwgang]
    rfl
  · rw [State.core_congr (State.updGang_cores _ _ _)]
    refine core_foldl_of_mem (Q := fun d => d.user.release.stat = (s.core m).user.release.stat ∧ d.ls = (s.core m).ls)
      (R := fun d => d.binding = none ∧ d.user.stat = (s.core m).user.release.stat ∧ d.tokens = [] ∧ d.ls = (s.core m).ls)
      (updCore_local _) hm (fun a ⟨hs, hls⟩ => ?_) (fun d ⟨_, hs, _, hls⟩ => ⟨?_, hls⟩) ?_
    · rw [State.core_updCore_self]
      exact ⟨rfl, hs, rfl, hls⟩
    · rw [release_stat, hs, ← release_stat, release_release_stat]
    · rw [State.core_congr hwcores]
      exact ⟨rfl, rfl⟩
  · rw [State.core_congr (State.updGang_cores _ _ _), core_foldl_of_not_mem (updCore_local _) hm, State.core_congr hwcores]
  · rw [honly.save]
    exact (saveArea_spec s n).2 hls hsv i hi

/-! #### Restores (R364) -/

/-- A member's context stands in its core again, and its gang knows of it. -/
def State.restoredIn (s : State) (i n : Nat) (y : Core) : State :=
  (s.updCore n fun c => c.restored y).updGang i fun z => { z with saved := z.saved ++ [n], ctxs := Cells.del z.ctxs n }

/-- S of a core goes on if it has been stopped for preemption. -/
def Core.resumed (c : Core) : Core := { c with user := match c.user.stat with | .stopped _ => c.user.resume | _ => c.user }

theorem resumed_pc (c : Core) : c.resumed.user.pc = c.user.pc := by
  unfold Core.resumed
  cases c.user.stat <;> rfl

theorem exec_contextRestoreComplete {n : Nat} {b : Binding} {g : Gang} {y : Core} (hb : (s.core n).binding = some b)
    (hg : Cells.find? s.gangs b.gang = some g) (hst : g.state = .restoring) (hn : g.saved.contains n = false) (hy : Cells.find? g.ctxs n = some y) :
    exec (.contextRestoreComplete n) s = .next (
      if (s.membersOf g).all fun m => m == n || g.saved.contains m then
        ((s.membersOf g).foldl (fun (a : State) m => a.updCore m Core.resumed) (s.restoredIn b.gang n y)).updGang b.gang fun z =>
          { z with state := .bound, saved := [] }
      else s.restoredIn b.gang n y) := by
  show Host.Outcome.next _ = _
  rw [hb]
  simp only [hg, hy]
  refine congrArg Host.Outcome.next ((if_neg ?_).trans rfl)
  rw [hst, hn]
  simp

theorem restoredIn_spec {i n : Nat} {g : Gang} (y : Core) (hg : Cells.find? s.gangs i = some g) :
    (s.restoredIn i n y).core n = (s.core n).restored y ∧ (∀ m, m ≠ n → (s.restoredIn i n y).core m = s.core m) ∧
    Cells.find? (s.restoredIn i n y).gangs i = some { g with saved := g.saved ++ [n], ctxs := Cells.del g.ctxs n } ∧ s.OnlyGangs (s.restoredIn i n y) := by
  unfold State.restoredIn
  refine ⟨?_, fun m hm => ?_, ?_, (onlyGangs_updCore s n _).trans (onlyGangs_updGang _ i _)⟩
  · rw [State.core_congr (State.updGang_cores _ _ _), State.core_updCore_self]
  · rw [State.core_congr (State.updGang_cores _ _ _), State.core_updCore_ne _ (Ne.symm hm)]
  · rw [State.find?_updGang, if_pos rfl, State.updCore_gangs, hg]
    rfl

theorem contextRestore_one {n : Nat} {b : Binding} {g : Gang} {y : Core} (hb : (s.core n).binding = some b)
    (hg : Cells.find? s.gangs b.gang = some g) (hst : g.state = .restoring) (hn : g.saved.contains n = false) (hy : Cells.find? g.ctxs n = some y)
    (hnot : ∃ m ∈ s.membersOf g, m ≠ n ∧ g.saved.contains m = false) :
    Completes (.contextRestoreComplete n) s (fun t =>
      t.core n = (s.core n).restored y ∧ (∀ m, m ≠ n → t.core m = s.core m) ∧
      Cells.find? t.gangs b.gang = some { g with saved := g.saved ++ [n], ctxs := Cells.del g.ctxs n } ∧ ∀ l, t.byteAt l = s.byteAt l) := by
  have hexec := exec_contextRestoreComplete hb hg hst hn hy
  rw [not_all_saved hnot] at hexec
  obtain ⟨hcore, hother, hgang, honly⟩ := restoredIn_spec (n := n) y hg
  exact ⟨_, hexec, hcore, hother, hgang, honly.byteAt⟩

theorem contextRestore_last {n : Nat} {b : Binding} {g : Gang} {y : Core} (hb : (s.core n).binding = some b)
    (hg : Cells.find? s.gangs b.gang = some g) (hst : g.state = .restoring) (hn : g.saved.contains n = false) (hy : Cells.find? g.ctxs n = some y)
    (hall : ∀ m ∈ s.membersOf g, m = n ∨ g.saved.contains m = true) :
    Completes (.contextRestoreComplete n) s (fun t =>
      t.core n = { (s.core n).restored y with user := (t.core n).user } ∧ (t.core n).user.pc = y.user.pc ∧
      Cells.find? t.gangs b.gang = some { g with state := .bound, saved := [], ctxs := Cells.del g.ctxs n } ∧ ∀ l, t.byteAt l = s.byteAt l) := by
  have hexec := exec_contextRestoreComplete hb hg hst hn hy
  rw [all_saved hall, if_pos rfl] at hexec
  obtain ⟨hcore, _, hgang, honly⟩ := restoredIn_spec (n := n) y hg
  have hkept : ∀ d : Core, (d = { (s.core n).restored y with user := d.user } ∧ d.user.pc = y.user.pc) →
      d.resumed = { (s.core n).restored y with user := d.resumed.user } ∧ d.resumed.user.pc = y.user.pc := by
    rintro d ⟨hd, hpc⟩
    exact ⟨congrArg (fun c : Core => { c with user := d.resumed.user }) hd, (resumed_pc d).trans hpc⟩
  obtain ⟨hc, hpc⟩ := core_foldl_updCore_keeps (s := s.restoredIn b.gang n y) (m := n)
    (P := fun d => d = { (s.core n).restored y with user := d.user } ∧ d.user.pc = y.user.pc) hkept (s.membersOf g) (by rw [hcore]; exact ⟨rfl, rfl⟩)
  refine ⟨_, hexec, ?_, ?_, ?_, fun l => ?_⟩
  · rw [State.core_congr (State.updGang_cores _ _ _)]
    exact hc
  · rw [State.core_congr (State.updGang_cores _ _ _)]
    exact hpc
  · rw [State.find?_updGang, if_pos rfl, gangs_foldl_updCore, hgang]
    rfl
  · exact ((onlyGangs_foldl_updCore _ _ _).trans (onlyGangs_updGang _ _ _)).byteAt l |>.trans (honly.byteAt l)

theorem preemptionStepsHold : PreemptionStepsHold := by
  rintro s n c b g rfl hb hg
  refine ⟨gangPreemptible_completes hb hg, fun hst hn hq hd hall => contextSave_discards hb hg hst hn hq hd hall, fun hst hn hq hf hd =>
    ⟨fun hnot => contextSave_one hb hg hst hn hq hf hd hnot, fun hall => contextSave_last hb hg hst hn hq hf hd hall⟩, fun y hst hn hy =>
    ⟨fun hnot => contextRestore_one hb hg hst hn hy hnot, fun hall => contextRestore_last hb hg hst hn hy hall⟩⟩

/-- Settles O46: each step by a lemma of its own, over the rules for cores, gangs and launches that end, and for the save area. -/
theorem trapAndPreemptionSteps : Obligations.TrapAndPreemptionSteps := ⟨trapStepsHold, preemptionStepsHold⟩

end Sys2Proof.Machine
end

section
/-! ### Words, their fields and their rows: decode and encode agree (R55 to R59, R63) -/

namespace Sys2Proof

/-! #### Bits of words -/

/-- A field of a field. -/
theorem extract_extract {m : Nat} (w : BitVec m) {a b c d : Nat} (h : c + d ≤ b) :
    (w.extractLsb' a b).extractLsb' c d = w.extractLsb' (a + c) d := by
  ext i hi
  have hlt : c + i < b := by omega
  simp [hlt, Nat.add_assoc]

/-- A field is two parts put together where each part is the one that stands there. -/
theorem toNat_append_eq_iff {n s : Nat} {x : BitVec n} {y : BitVec s} {w : BitVec (n + s)} :
    (x ++ y).toNat = w.toNat ↔ w.extractLsb' s n = x ∧ w.extractLsb' 0 s = y := by
  rw [BitVec.toNat_inj]
  constructor
  · rintro rfl
    exact ⟨BitVec.extractLsb'_append_eq_left, BitVec.extractLsb'_append_eq_right⟩
  · rintro ⟨rfl, rfl⟩
    exact (BitVec.extractLsb'_append_extractLsb'_eq_extractLsb' (Nat.zero_add s).symm).trans BitVec.extractLsb'_eq_self

/-! #### Words and split words -/

/-- E and OP select the format of a split word. -/
def Fmt.placed : Fmt → Bool
  | .sr op .. => kindOf 0 op == some .sr
  | .si op .. => kindOf 0 op == some .si
  | .sm op .. => kindOf 0 op == some .sm
  | .sa op .. => kindOf 0 op == some .sa
  | .ss op .. => kindOf 0 op == some .ss
  | .sb op .. => kindOf 0 op == some .sb
  | .a op .. => kindOf 5 op == some .a
  | .ev e op .. => kindOf e op == some .ev
  | .ei e op .. => kindOf e op == some .ei
  | .em e op .. => kindOf e op == some .em
  | .et e op .. => kindOf e op == some .et
  | .mBound op .. => kindOf 7 op == some .mBound
  | _ => true

/-- A packed word splits into the fields that were packed (R56 to R59). -/
theorem unpack_pack {f : Fmt} (h : f.placed = true) : unpack (pack f) = .ok f := by
  cases f
  case sr => exact unpack_sr (beq_iff_eq.mp h)
  case si => exact unpack_si (beq_iff_eq.mp h)
  case sm => exact unpack_sm (beq_iff_eq.mp h)
  case sa => exact unpack_sa (beq_iff_eq.mp h)
  case ss => exact unpack_ss (beq_iff_eq.mp h)
  case sb => exact unpack_sb (beq_iff_eq.mp h)
  case a => exact unpack_a (beq_iff_eq.mp h)
  case ev => exact unpack_ev (beq_iff_eq.mp h)
  case ei => exact unpack_ei (beq_iff_eq.mp h)
  case em => exact unpack_em (beq_iff_eq.mp h)
  case et => exact unpack_et (beq_iff_eq.mp h)
  case mBound => exact unpack_mBound (beq_iff_eq.mp h)
  case xExt => exact unpack_xExt
  case xTws => exact unpack_xTws
  case xFmtx => exact unpack_xFmtx
  case mLoop => exact unpack_mLoop
  case mRole => exact unpack_mRole
  case mBeg => exact unpack_mBeg
  case mSpan => exact unpack_mSpan
  case mXfer => exact unpack_mXfer

/-- What a format fixes of E and OP (Tables 03.7 to 03.10, Table 03.4). -/
def FmtKind.fixes (e : BitVec 3) (op : BitVec 6) : FmtKind → Bool
  | .sr | .si | .sm | .sa | .ss | .sb => e == 0x0#3
  | .a => e == 0x5#3
  | .ev | .ei | .em | .et => true
  | .xExt => e == 0x6#3 && op.extractLsb' 4 2 == 0x0#2
  | .xTws => e == 0x6#3 && op.extractLsb' 4 2 == 0x1#2
  | .xFmtx => e == 0x6#3 && op.extractLsb' 4 2 == 0x2#2
  | .mLoop => e == 0x7#3 && op == 0x0#6
  | .mRole => e == 0x7#3 && op == 0x1#6
  | .mBeg => e == 0x7#3 && op == 0x2#6
  | .mSpan => e == 0x7#3 && op == 0x4#6
  | .mXfer => e == 0x7#3 && op == 0x5#6
  | .mBound => e == 0x7#3

theorem fixes_of_kindOf {e : BitVec 3} {op : BitVec 6} {k : FmtKind} (h : kindOf e op = some k) : k.fixes e op = true := by
  have hall : ∀ (e : BitVec 3) (op : BitVec 6), (kindOf e op).all (FmtKind.fixes e op) = true := by decide
  simpa [h] using hall e op

/-- The fields of a word, packed again, are the word: what the packing writes for E and OP stood there. -/
theorem pack_unpack {w : InstrWord} {f : Fmt} (h : unpack w = .ok f) : pack f = w := by
  unfold unpack at h
  dsimp only at h
  cases hk : kindOf (w.extractLsb' 29 3) (w.extractLsb' 23 6) with
  | none => simp only [hk, reduceCtorEq] at h
  | some k =>
    have hfix := fixes_of_kindOf hk
    cases k
    all_goals
      simp only [hk, Except.ok.injEq] at h
      simp only [FmtKind.fixes, Bool.and_eq_true, beq_iff_eq] at hfix
      subst h
    case ev | ei | em | et =>
      simp only [pack, BitVec.extractLsb'_append_extractLsb'_eq_extractLsb']
      exact BitVec.extractLsb'_eq_self
    case sr | si | sm | sa | ss | sb | a | mBound =>
      simp only [pack, ← hfix, BitVec.extractLsb'_append_extractLsb'_eq_extractLsb']
      exact BitVec.extractLsb'_eq_self
    case mLoop | mRole | mBeg | mSpan | mXfer =>
      simp only [pack, ← hfix.1, ← hfix.2, BitVec.extractLsb'_append_extractLsb'_eq_extractLsb']
      exact BitVec.extractLsb'_eq_self
    case xExt | xTws | xFmtx =>
      obtain ⟨he, ho⟩ := hfix
      rw [extract_extract w (by decide)] at ho
      simp only [pack, ← he, ← ho, BitVec.extractLsb'_append_extractLsb'_eq_extractLsb']
      exact BitVec.extractLsb'_eq_self

/-! #### Split words and rows -/

/-- Whatever a reading of some fields accepts has these fields. -/
def ReadsAs (f : Fmt) (r : Except DecodeError Decoded) : Prop := ∀ d, r = .ok d → toFmt d.toInstr = some f

theorem readsAs_ok {f : Fmt} {d : Decoded} : ReadsAs f (.ok d) ↔ toFmt d.toInstr = some f := by simp [ReadsAs]

theorem readsAs_error {f : Fmt} {e : DecodeError} : ReadsAs f (.error e) ↔ True := by simp [ReadsAs]

theorem readsAs_need {f : Fmt} {m : String} {z : Bool} {d : Decoded} :
    ReadsAs f (need m z d) ↔ (z = true → toFmt d.toInstr = some f) := by
  cases z <;> simp [need, ReadsAs]

/-- The fn field of ANGL, whose high half is reserved, from its parts. -/
theorem angl_fn {fn : BitVec 6} (h : fn.extractLsb' 3 3 = 0x0#3) :
    0x0#3 ++ fn.extractLsb' 2 1 ++ fn.extractLsb' 1 1 ++ fn.extractLsb' 0 1 = fn := by
  simp only [← h, BitVec.extractLsb'_append_extractLsb'_eq_extractLsb']
  exact BitVec.extractLsb'_eq_self

/-- The decoder reads the fields of a split word as a row that has these fields: the literals that it matched and the reserved
fields that it found zero are those that the row's encoding writes. -/
theorem ofFmt_readsAs (f : Fmt) : ReadsAs f (ofFmt f) := by
  cases f
  all_goals
    simp only [ofFmt, decodeSr, decodeSi, decodeSm, decodeSa, decodeSs, decodeSb, decodeA, decodeEv, decodeEi, decodeEm, decodeEt,
      decodeXExt, decodeXTws, decodeXFmtx, decodeMLoop, decodeMRole, decodeMBeg, decodeMSpan, decodeMXfer, decodeMBound]
    repeat' split
  all_goals
    simp only [readsAs_ok, readsAs_need, readsAs_error, Bool.and_eq_true, beq_iff_eq]
  all_goals
    intros
    refine congrArg some ?_
    simp only [*, angl_fn, Fmt.sr.injEq, Fmt.si.injEq, Fmt.sm.injEq, Fmt.sa.injEq, Fmt.ss.injEq, Fmt.sb.injEq, Fmt.a.injEq, Fmt.ev.injEq,
      Fmt.ei.injEq, Fmt.em.injEq, Fmt.et.injEq, Fmt.mXfer.injEq, Fmt.mBound.injEq,
      BitVec.extractLsb'_append_eq_of_le, BitVec.extractLsb'_append_eq_of_add_le, BitVec.extractLsb'_eq_self, Nat.reduceLeDiff, Nat.reduceSub,
      ← BitVec.toNat_inj, toNat_append_eq_iff, BitVec.toNat_ofNat, Nat.reducePow, Nat.reduceMod, and_self]

/-- Every format of an encoding is one that its E and OP select. -/
theorem placed_of_toFmt {i : Instr} {f : Fmt} (h : toFmt i = some f) : f.placed = true := by
  cases i <;> cases h <;> rfl

/-- The fields that the encoding tables give an instruction are read as this instruction. Where the row pads or splits a field, its
parts come back from the padded field; elsewhere the operands are the fields. -/
theorem ofFmt_toFmt {i : Instr} {f : Fmt} (h : toFmt i = some f) : ∃ d, ofFmt f = .ok d ∧ d.toInstr = i := by
  cases i <;> cases h
  case udf =>
    refine ⟨_, rfl, congrArg Instr.udf ?_⟩
    simp only [BitVec.extractLsb'_append_extractLsb'_eq_extractLsb']
    exact BitVec.extractLsb'_eq_self
  case psetEq | psetNe | psetLt | psetGe | psetLtz | psetGez | psetTstat | pand | por | pxor | pnot | mova | movar | movl | msel | twait |
      ttest | tfree | brk =>
    simp [-Nat.reduceAdd, ofFmt, decodeSr, need, BitVec.extractLsb'_append_eq_left, BitVec.extractLsb'_append_eq_right, Decoded.toInstr]
  case vfadd | vfsub | vfmul | vfma | vfmin | vfmax | vfabs | vfneg | vfdiv | vfsqrt | vfrsq | vcmpEq | vcmpNe | vcmpLt | vcmpLe | vcmpUn |
      vcvt | vrsum | vrmax | vrmin | mand | mor | mxor | mnot | mpop | mfirst =>
    simp [-Nat.reduceAdd, ofFmt, decodeEv, need, BitVec.extractLsb'_append_eq_left, BitVec.extractLsb'_append_eq_right, Decoded.toInstr]
  case angl | abmp | rscl | rsclV | rplane =>
    simp [-Nat.reduceAdd, ofFmt, decodeEv, need, BitVec.extractLsb'_append_eq_of_le,
      BitVec.extractLsb'_append_eq_right, Decoded.toInstr, RMInstr.toInstr]
  case xferG | xferV =>
    simp [-Nat.reduceAdd, ofFmt, decodeMXfer, need, BitVec.extractLsb'_append_eq_left, BitVec.extractLsb'_append_eq_right, Decoded.toInstr,
      RMInstr.toInstr]
  all_goals exact ⟨_, rfl, rfl⟩

/-! #### Words and instructions -/

theorem encode_eq_some {i : Instr} {w : InstrWord} : encode i = some w ↔ ∃ f, toFmt i = some f ∧ pack f = w := Option.map_eq_some_iff

theorem decode_encode {i : Instr} {w : InstrWord} (h : encode i = some w) : decode w = .ok i := by
  obtain ⟨f, hf, rfl⟩ := encode_eq_some.mp h
  obtain ⟨d, hd, rfl⟩ := ofFmt_toFmt hf
  simp only [decode, decodeWord, unpack_pack (placed_of_toFmt hf), hd]

theorem decodeWord_eq_ok {w : InstrWord} {d : Decoded} : decodeWord w = .ok d ↔ ∃ f, unpack w = .ok f ∧ ofFmt f = .ok d := by
  unfold decodeWord
  cases unpack w <;> simp

theorem encode_decode {w : InstrWord} {i : Instr} (h : decode w = .ok i) : encode i = some w := by
  obtain ⟨d, hd, rfl⟩ := Machine.decode_ok h
  obtain ⟨f, hf, hd⟩ := decodeWord_eq_ok.mp hd
  exact encode_eq_some.mpr ⟨f, ofFmt_readsAs f d hd, pack_unpack hf⟩

/-- The four bytes that memory holds of a word are the word again (R55). -/
theorem wordOfBytes_bytes (w : InstrWord) :
    wordOfBytes (w.extractLsb' 0 8) (w.extractLsb' 8 8) (w.extractLsb' 16 8) (w.extractLsb' 24 8) = w := by
  simp only [wordOfBytes, BitVec.extractLsb'_append_extractLsb'_eq_extractLsb']
  exact BitVec.extractLsb'_eq_self

theorem decodeBytes_bytesOfWord (w : InstrWord) (rest : List Byte) :
    decodeBytes (bytesOfWord w ++ rest) = (decode w).toOption := by
  simp only [bytesOfWord, List.cons_append, List.nil_append, decodeBytes, wordOfBytes_bytes]
  cases decode w <;> rfl

theorem encode_eq_none {i : Instr} : encode i = none ↔ Machine.isEvent i = true := by
  rw [encode, Option.map_eq_none_iff, Machine.isEvent, Option.isNone_iff_eq_none]

/-- Settles O56: both directions from the two steps of the decoder (`unpack_pack` and `pack_unpack`, `ofFmt_toFmt` and
`ofFmt_readsAs`). Decoding an instruction's word asks for no legal fields: those are a matter of its meaning. -/
theorem encodeDecode : Obligations.EncodeDecode :=
  ⟨fun _ _ _ h => decode_encode h, fun _ _ h => encode_decode h,
    fun _ w _ h rest => by rw [decodeBytes_bytesOfWord, decode_encode h]; rfl, fun _ => encode_eq_none⟩

/-- Settles O55: each instruction's encoding is the printed word, and `decode_encode` reads it back. -/
theorem specWordsDecode : Obligations.SpecWordsDecode :=
  ⟨decode_encode rfl, decode_encode rfl, decode_encode rfl, decode_encode rfl, decode_encode rfl, decode_encode rfl, decode_encode rfl,
    decode_encode rfl, decode_encode rfl, decode_encode rfl, decode_encode rfl, decode_encode rfl, decode_encode rfl, decode_encode rfl,
    decode_encode rfl, decode_encode rfl, decode_encode rfl, decode_encode rfl, decode_encode rfl, decode_encode rfl, decode_encode rfl,
    decode_encode rfl, decode_encode rfl⟩

end Sys2Proof
end

section
/-! ### Words of S under a false guard (R60, R74) -/

namespace Sys2Proof.Machine

variable {s : State}

/-- Every word with a guard is a body under that guard, with the checks of a word before it (R60). -/
theorem exec_of_guardOf {i : Instr} {pr : BitVec 3} (h : guardOf i = some pr) (s : State) :
    ∃ body, exec i s = .next (guarded pr i body s) := by
  cases i <;> cases h <;> exact ⟨_, rfl⟩

theorem completes_skips_of_guarded {i : Instr} {pr : BitVec 3} {body : State → State} (h : s.Plain) (hp : s.p pr = false) (hl : i.legal = true)
    (he : exec i s = .next (guarded pr i body s)) : Completes i s s.Skips :=
  ⟨_, he, by rw [guarded_false h hp hl]; exact skips_advance s⟩

/-- Settles O4: a guarded body (`exec_of_guardOf`) under a false guard only advances (`completes_skips_of_guarded`). -/
theorem falseGuardSkips : Obligations.FalseGuardSkips := fun _ _ s hg hl h hp =>
  let ⟨_, he⟩ := exec_of_guardOf hg s
  completes_skips_of_guarded h hp hl he

end Sys2Proof.Machine
end

section
/-! ### A words: token waits, X.TWS and joins (R58, R59, R86, R186, R199) -/

namespace Sys2Proof.Machine

variable {s : State}

/-! #### Tokens -/

@[simp] theorem Core.tok_setCtx (c : Core) (h : Bool) (x : Ctx) (j : BitVec 6) : (c.setCtx h x).tok j = c.tok j := by cases h <;> rfl

theorem Core.setTok_eq (c : Core) (k : BitVec 6) (v : Tok) : c.setTok k v = { c with tokens := (c.setTok k v).tokens } := by
  unfold Core.setTok
  split <;> rfl

/-- k63 names no token: a token takes the state that it is given, the others keep theirs. -/
theorem Core.tok_setTok_eq_if (c : Core) (k j : BitVec 6) (v : Tok) :
    (c.setTok k v).tok j = if j = k ∧ k ≠ 63 then v else c.tok j := by
  rw [Core.tok_setTok]
  by_cases hj : k = j
  · subst hj
    by_cases h63 : k = 63
    · subst h63; rfl
    · rw [if_pos rfl, if_neg h63, if_pos ⟨rfl, h63⟩]
  · rw [if_neg hj, if_neg fun h => hj h.1.symm]

/-- kout takes its state and S goes on: the frame of an A word. -/
theorem aFrame_setTok_advance (s : State) (k : BitVec 6) (v : Tok) : s.AFrame k v (s.setTok k v).advance := by
  obtain ⟨_, hcores, hbytes⟩ := (onlyCore_onCore s fun c => c.setTok k v).trans (onlyCtx_advance (s.setTok k v)).1
  refine ⟨hcores, fun r => ?_, fun q => ?_, ?_, hbytes, fun j => ?_, ?_⟩
  · simp [State.g]
  · simp [State.p]
  · simp [State.StandsAt, State.pc, Ctx.goto]
  · rw [State.cur_advance, Core.tok_setCtx, State.cur_setTok, Core.tok_setTok_eq_if]
  · rw [State.cur_advance, State.ctx_advance, State.cur_setTok, State.ctx_setTok, State.inHusk_setTok, Core.setTok_eq]
    cases s.inHusk <;> rfl

/-- A new operation: kout is pending, S goes on, the table of operations has one entry more. -/
theorem starts_startOp (s : State) (kind : OpKind) (k : BitVec 6) : s.Starts kind k (s.startOp kind k) :=
  ⟨aFrame_setTok_advance { s with ops := (s.startOp kind k).ops, nextId := s.nextId + 1 } k .pending, rfl,
    fun _ hj => (Cells.find?_put _ _ _ _).trans (if_neg hj.symm), _, Cells.find?_put_self _ _ _, rfl, rfl, rfl⟩

/-- The operation names the address of its A word. -/
theorem startOp_at {kind : OpKind} {k : BitVec 6} {o : AOp} (h : Cells.find? (s.startOp kind k).ops s.nextId = some o) : o.at_ = s.aAddr := by
  cases (Cells.find?_put_self s.ops s.nextId _).symm.trans h
  rfl

/-! #### What a done token leaves (R86) -/

theorem onlyCore_setFloor (s : State) : s.OnlyCore s.setFloor := by
  unfold State.setFloor
  split
  · exact onlyCore_refl s
  · exact onlyCore_onCore s _

theorem onlyCore_raisePts_setFloor (s : State) (ts : Word) : s.OnlyCore (s.raisePts ts).setFloor :=
  (onlyCore_onCore s _).trans (onlyCore_setFloor _)

theorem cur_raisePts_setFloor (h : s.InUser) (ts : Word) :
    (s.raisePts ts).setFloor.cur = { s.cur with pts := wmax s.cur.pts ts, floor := wmax s.cur.pts ts } := by
  have hh : (s.raisePts ts).inHusk = false := h.inHusk
  rw [State.setFloor, if_neg (by simp [hh]), State.cur_onCore, State.cur_raisePts, h.1]
  rfl

theorem ctx_raisePts_setFloor (h : s.InUser) (ts : Word) : (s.raisePts ts).setFloor.ctx = s.ctx := by
  rw [State.ctx, cur_raisePts_setFloor h, (onlyCore_raisePts_setFloor s ts).inHusk, State.ctx, h.inHusk]
  rfl

/-! #### The common steps of an A word (R59, R186) -/

theorem consume_done {x : BitVec 6} {ts : Word} (h : s.cur.tok x = .done ts) : s.consume [x] = .ok (s.raisePts ts).setFloor := by
  simp only [State.consume, h]

theorem consume_pending {x : BitVec 6} (h : s.cur.tok x = .pending) (ks : List (BitVec 6)) :
    s.consume (x :: ks) = .error (s.await (.token x)) := by
  simp only [State.consume, h]

theorem consume_failed {x : BitVec 6} {f : Flt} (h : s.cur.tok x = .failed f) (ks : List (BitVec 6)) :
    s.consume (x :: ks) = .error (s.takeTrap f s.aAddr) := by
  simp only [State.consume, h]

/-- The operation runs where its register values are legal, its ids are consumed and kout is not pending. -/
theorem aOp_of_consume_ok {k : BitVec 6} {ids : List (BitVec 6)} {s1 : State} (h : s.consume ids = .ok s1) (hk : s1.cur.tok k ≠ .pending)
    (run : State → State) : s.aOp k ids none run = run s1 := by
  cases ht : s1.cur.tok k with
  | pending => exact absurd ht hk
  | _ => simp only [State.aOp, State.aSteps, h, ht]

theorem aOp_of_consume_error {k : BitVec 6} {ids : List (BitVec 6)} {t : State} (h : s.consume ids = .error t) (run : State → State) :
    s.aOp k ids none run = t := by
  simp only [State.aOp, State.aSteps, h]

/-! #### A words with token waits (R58) -/

/-- Every A word is legal, and performs its operation or waits for its X.TWS. -/
theorem exec_of_mem_aWords {k : BitVec 6} {a b c : BitVec 5} {n : BitVec 2} {i : Instr} (h : i ∈ aWords k a b c n) (s : State) :
    i.legal = true ∧ ∃ op, exec i s = .next (aWord i n op s) := by
  simp only [aWords, List.mem_cons, List.not_mem_nil, or_false] at h
  rcases h with rfl | rfl | rfl | rfl | rfl | rfl | rfl | rfl | rfl | rfl | rfl | rfl | rfl | rfl | rfl | rfl | rfl | rfl | rfl | rfl | rfl | rfl <;>
    exact ⟨rfl, _, rfl⟩

/-- With nw other than 0 the word is kept with its address, and S goes to the next word. -/
theorem aWord_waits (h : s.Plain) {n : BitVec 2} (hn : n ≠ 0) {i : Instr} (hl : i.legal = true) {op : List (BitVec 6) → State → State}
    (he : exec i s = .next (aWord i n op s)) : Completes i s (fun t => s.OnlyCtx t ∧ s.SameG t ∧ s.SameP t ∧ t.pc = s.pc + 4 ∧
      t.ctx.pfx = .none ∧ t.ctx.pend = some ⟨wordOf i, s.pc⟩ ∧ t.ctx.stat = .running) := by
  refine ⟨_, he, ?_⟩
  rw [aWord, sWord_plain h _ hl, if_neg hn]
  refine ⟨onlyCtx_onCtx s _, fun r => ?_, fun q => ?_, ?_, ?_, ?_, ?_⟩
  · simp [State.g, Ctx.getG]
  · simp [State.p, Ctx.getP]
  · simp [State.pc]
  · simp [h.1]
  · simp [State.pc]
  · simp

/-! #### X.TWS (R59) -/

theorem exec_xTws_alone (h : s.Plain) (x y z : BitVec 6) : exec (.xTws x y z) s = .next (s.illegalWord (wordOf (.xTws x y z)) s.pc) := by
  obtain ⟨hpfx, hpend⟩ := h
  show execXTws x y z s = _
  simp only [execXTws, hpfx, hpend, Prefix.word]

/-- X.TWS after an A word performs the word's operation with the ids that nw counts. -/
theorem exec_xTws_performs (hpfx : s.ctx.pfx = .none) {w : InstrWord} {at_ : Word} (hpend : s.ctx.pend = some ⟨w, at_⟩) {n : BitVec 2}
    {op : List (BitVec 6) → State → State} (hop : aOpOf w = some (n, op)) {x y z : BitVec 6} {ids : List (BitVec 6)}
    (hids : twsIds n x y z = some ids) : exec (.xTws x y z) s = .next (op ids s) := by
  show execXTws x y z s = _
  simp only [execXTws, hpfx, hpend, Prefix.word, hop, hids]

/-- X.TWS with an id beyond nw that is not 63 is illegal. -/
theorem exec_xTws_beyond (hpfx : s.ctx.pfx = .none) {w : InstrWord} {at_ : Word} (hpend : s.ctx.pend = some ⟨w, at_⟩) {n : BitVec 2}
    {op : List (BitVec 6) → State → State} (hop : aOpOf w = some (n, op)) {x y z : BitVec 6} (hids : twsIds n x y z = none) :
    exec (.xTws x y z) s = .next (s.illegalWord (wordOf (.xTws x y z)) s.pc) := by
  show execXTws x y z s = _
  simp only [execXTws, hpfx, hpend, Prefix.word, hop, hids]

theorem aOpOf_tpref (k : BitVec 6) (a b : BitVec 5) (n : BitVec 2) :
    aOpOf (wordOf (.tpref k a b n)) = some (n, tprefOp (wordOf (.tpref k a b n)) k a b) := by
  have hw : decodeWord (wordOf (.tpref k a b n)) = .ok (.word (.tpref k a b n)) := decodeWord_eq_ok.mpr ⟨_, unpack_a rfl, rfl⟩
  simp only [aOpOf, hw]

theorem twsIds_one (x : BitVec 6) : twsIds 1 x 63 63 = some [x] := rfl

theorem twsIds_one_beyond {y z : BitVec 6} (h : y ≠ 63 ∨ z ≠ 63) (x : BitVec 6) : twsIds 1 x y z = none := by
  simpa [twsIds, imp_iff_not_or] using h

section TprefWaits

variable {k : BitVec 6} {a b : BitVec 5} {at_ : Word} (hu : s.InUser) (hpfx : s.ctx.pfx = .none)
  (hpend : s.ctx.pend = some ⟨wordOf (.tpref k a b 1), at_⟩) (hb : (s.g b).toNat < 8)

include hpend in
theorem aAddr_of_pend : s.aAddr = at_ := by simp only [State.aAddr, hpend]

include hpfx hpend hb in
/-- X.TWS with one id after a TPREF whose control is legal: the operation after the common steps of an A word. -/
theorem exec_xTws_tpref (x : BitVec 6) : exec (.xTws x 63 63) s = .next (s.aOp k [x] none fun s1 =>
    if s1.opsFull then s1.await .memory else s1.startOp (.tpref (s1.g a) (s1.g b)) k) := by
  have hlegal : illegalIf (wordOf (.tpref k a b 1)) (decide ((s.g b).toNat ≥ 8)) = none := by simp [illegalIf, hb]
  rw [exec_xTws_performs hpfx hpend (aOpOf_tpref k a b 1) (twsIds_one x)]
  simp only [tprefOp, hlegal]

include hu hpfx hpend hb in
/-- The id names a done token: PTS and SYNC_FLOOR rise, and the operation starts with the raised PTS at the address of the A word. -/
theorem xTws_tpref_starts {x : BitVec 6} {ts : Word} (hx : s.cur.tok x = .done ts) (hk : s.cur.tok k ≠ .pending) (hfull : s.opsFull = false) :
    Completes (.xTws x 63 63) s (fun t => t.StandsAt (s.pc + 4) ∧ s.SameG t ∧ s.SameP t ∧ s.TokenSet k .pending t ∧
      t.cur.pts = wmax s.cur.pts ts ∧ t.cur.floor = t.cur.pts ∧ (∀ l, t.byteAt l = s.byteAt l) ∧
      ∃ o, Cells.find? t.ops s.nextId = some o ∧ o.kind = .tpref (s.g a) (s.g b) ∧ o.base = t.cur.pts ∧ o.at_ = at_) := by
  have honly := onlyCore_raisePts_setFloor s ts
  have hcur := cur_raisePts_setFloor hu ts
  have hctx := ctx_raisePts_setFloor hu ts
  have hexec := exec_xTws_tpref hpfx hpend hb x
  rw [aOp_of_consume_ok (consume_done hx) (by rw [hcur]; exact hk)] at hexec
  generalize (s.raisePts ts).setFloor = u at honly hcur hctx hexec
  have hops : u.opsFull = false := by rw [State.opsFull, honly.agent, honly.1]; exact hfull
  have hid : u.nextId = s.nextId := by rw [honly.1]
  have hg : ∀ r, u.g r = s.g r := fun r => by rw [State.g, hctx]; rfl
  have hp : ∀ q, u.p q = s.p q := fun q => by rw [State.p, hctx]; rfl
  have hpc : u.pc = s.pc := by rw [State.pc, hctx]; rfl
  have hat : u.aAddr = at_ := aAddr_of_pend (hctx ▸ hpend)
  rw [if_neg (by simp [hops]), hg, hg] at hexec
  refine ⟨_, hexec, ?_⟩
  obtain ⟨⟨_, hsg, hsp, hstands, hbytes, htok, hframe⟩, _, _, o, ho, hkind, _, hbase⟩ := starts_startOp u (.tpref (s.g a) (s.g b)) k
  have hcore : ∀ (c : Core) (h : Bool) (x : Ctx), (c.setCtx h x).pts = c.pts ∧ (c.setCtx h x).floor = c.floor := fun c h x => by
    cases h <;> exact ⟨rfl, rfl⟩
  have hpts := (congrArg Core.pts hframe).trans (hcore _ _ _).1
  have hfloor := (congrArg Core.floor hframe).trans (hcore _ _ _).2
  have hupts : u.pts = u.cur.pts := by rw [State.pts, honly.who, hu.1]; rfl
  refine ⟨hpc ▸ hstands, fun r => (hsg r).trans (hg r), fun q => (hsp q).trans (hp q), fun j => (htok j).trans ?_, ?_, ?_,
    fun l => (hbytes l).trans (honly.2.2 l), o, hid ▸ ho, hkind, hbase.trans (hupts.trans hpts.symm), (startOp_at ho).trans hat⟩
  · rw [hcur]; rfl
  · rw [hpts, hcur]
  · rw [hfloor, hpts, hcur]

include hpfx hpend hb in
theorem xTws_tpref_waits {x : BitVec 6} (hx : s.cur.tok x = .pending) :
    Completes (.xTws x 63 63) s (fun t => s.OnlyCtx t ∧ t.pc = s.pc ∧ t.ctx.stat = .waiting (.token x)) := by
  refine ⟨_, exec_xTws_tpref hpfx hpend hb x, ?_⟩
  rw [aOp_of_consume_error (consume_pending hx [])]
  exact ⟨onlyCtx_await s _, by simp [State.pc], by simp⟩

include hu hpfx hpend hb in
/-- The id names a failed token: its trap, at the address of the A word. -/
theorem xTws_tpref_traps {x : BitVec 6} {f : Flt} (hx : s.cur.tok x = .failed f) :
    Completes (.xTws x 63 63) s (s.Trapped f.cause at_ f.addr f.info) := by
  refine ⟨_, exec_xTws_tpref hpfx hpend hb x, ?_⟩
  rw [aOp_of_consume_error (consume_failed hx []), aAddr_of_pend hpend]
  exact trapped_takeTrap hu f at_

include hu hpfx hpend in
theorem xTws_tpref_beyond (x : BitVec 6) {y z : BitVec 6} (h : y ≠ 63 ∨ z ≠ 63) :
    Completes (.xTws x y z) s (s.TrappedIllegal (wordOf (.xTws x y z))) :=
  ⟨_, exec_xTws_beyond hpfx hpend (aOpOf_tpref k a b 1) (twsIds_one_beyond h x), trappedIllegal hu _⟩

end TprefWaits

theorem xTws_alone (hu : s.InUser) (h : s.Plain) (x y z : BitVec 6) :
    Completes (.xTws x y z) s (s.TrappedIllegal (wordOf (.xTws x y z))) :=
  ⟨_, exec_xTws_alone h x y z, trappedIllegal hu _⟩

theorem tokenWaitsOfAWordsHold : TokenWaitsOfAWordsHold := by
  intro s k x y z a b c n
  refine ⟨fun h hn i hi => ?_, fun at_ hu hpfx hpend hb => ⟨fun ts hx hk hfull => xTws_tpref_starts hu hpfx hpend hb hx hk hfull,
    xTws_tpref_waits hpfx hpend hb, fun f hx => xTws_tpref_traps hu hpfx hpend hb hx, xTws_tpref_beyond hu hpfx hpend x⟩,
    fun hu h => xTws_alone hu h x y z⟩
  obtain ⟨hl, op, he⟩ := exec_of_mem_aWords hi s
  exact aWord_waits h hn hl he

/-! #### TOKN (R199) -/

theorem joinResult_done (x : BitVec 6) (ts : Word) : joinResult [(x, .done ts)] = some (.done ts) := by
  simp [joinResult, joinOf, wmax_zero]

theorem joinResult_failed (x : BitVec 6) (f : Flt) : joinResult [(x, .failed f)] = some (.failed f) := by
  simp [joinResult, joinOf]

theorem joinResult_pending (x : BitVec 6) : joinResult [(x, .pending)] = none := by simp [joinResult]

theorem exec_tokn {k : BitVec 6} (h : s.AReady k) (a : BitVec 5) :
    exec (.tokn k a 0 0 0) s = .next (toknOp (wordOf (.tokn k a 0 0 0)) k a 0 0 [] s) := by
  show Host.Outcome.next (aWord _ _ _ _) = _
  rw [aWord, sWord_plain h.1 false rfl, if_pos rfl]

/-- Without inputs kout is done with the PTS of S. -/
theorem toknOp_none {k : BitVec 6} (h : s.AReady k) (w : InstrWord) : toknOp w k 0 0 0 [] s = (s.setTok k (.done s.pts)).advance :=
  aOp_of_consume_ok rfl h.2.2 _

/-- With one input kout takes its state, or the join waits for it. -/
theorem toknOp_one {k : BitVec 6} (h : s.AReady k) (w : InstrWord) {a : BitVec 5} (ha : a ≠ 0) (hlt : (s.g a).toNat < 64) :
    toknOp w k a 0 0 [] s = match joinResult [((s.g a).setWidth 6, s.cur.tok ((s.g a).setWidth 6))] with
      | some t => (s.setTok k t).advance
      | none => s.startOp (.tokn [((s.g a).setWidth 6, s.cur.tok ((s.g a).setWidth 6))]) k := by
  have hrs : ([a, 0, 0].filter fun r => r != 0) = [a] := List.filter_cons_of_pos (bne_iff_ne.mpr ha)
  have hlegal : illegalIf w ([a].any fun r => decide ((s.g r).toNat ≥ 64)) = none := by simp [illegalIf, hlt]
  rw [toknOp, hrs]
  simp only [hlegal]
  exact aOp_of_consume_ok rfl h.2.2 _

theorem tokenJoinsHold : TokenJoinsHold := by
  intro s k a h
  refine ⟨⟨_, exec_tokn h 0, ?_⟩, fun ha hlt => ⟨fun ts hx => ⟨_, exec_tokn h a, ?_⟩, fun f hx => ⟨_, exec_tokn h a, ?_⟩,
    fun hx => ⟨_, exec_tokn h a, ?_⟩⟩⟩
  · rw [toknOp_none h]
    exact aFrame_setTok_advance s k _
  · rw [toknOp_one h _ ha hlt, hx, joinResult_done]
    exact aFrame_setTok_advance s k _
  · rw [toknOp_one h _ ha hlt, hx, joinResult_failed]
    exact aFrame_setTok_advance s k _
  · rw [toknOp_one h _ ha hlt, hx, joinResult_pending]
    exact starts_startOp s _ k

/-- Settles O23: an A word with token waits by `aWord_waits`, its X.TWS by what the id names (`exec_xTws_tpref`), TOKN by the state of
its input (`toknOp_one`). -/
theorem tokenWaitsAndJoins : Obligations.TokenWaitsAndJoins := ⟨tokenWaitsOfAWordsHold, tokenJoinsHold⟩

end Sys2Proof.Machine
end

section
/-! ### Words of S that compute and test (R59, R75 to R79) -/

namespace Sys2Proof.Machine

variable {s : State}

/-- A legal word under a true guard does its body. -/
theorem exec_guarded (h : s.Plain) {pr : BitVec 3} (hp : s.p pr = true) {i : Instr} (hl : i.legal = true) {body : State → State}
    (he : exec i s = .next (guarded pr i body s)) : exec i s = .next (body s) := by
  rw [he, guarded_plain h hp hl]

/-- A word with a guard whose body brings `P` about. -/
theorem completes_guarded (h : s.Plain) {pr : BitVec 3} (hp : s.p pr = true) {i : Instr} (hl : i.legal = true) {body : State → State}
    {P : State → Prop} (he : exec i s = .next (guarded pr i body s)) (hb : P (body s)) : Completes i s P :=
  ⟨_, exec_guarded h hp hl he, hb⟩

/-! #### What a context reads -/

theorem sameG_of_ctx {t : State} {x : Ctx} (h : t.ctx = x) (hg : x.g = s.ctx.g) : s.SameG t := fun r => by
  simp only [State.g, Ctx.getG, h, hg]

theorem sameP_of_ctx {t : State} {x : Ctx} (h : t.ctx = x) (hp : x.p = s.ctx.p) : s.SameP t := fun q => by
  simp only [State.p, Ctx.getP, h, hp]

theorem pc_of_ctx {x : Ctx} {a : Word} (h : s.ctx = x) (hpc : x.pc = a) : s.pc = a := by rw [State.pc, h, hpc]

/-! #### Values of the ALU words (R75, R76) -/

theorem minS_eq {n : Nat} (a b : BitVec n) : minS a b = if b.toInt < a.toInt then b else a := by
  simp only [minS, ← Int.not_lt, ite_not]

/-- Of two equal values either one is the larger. -/
theorem maxS_eq {n : Nat} (a b : BitVec n) : maxS a b = if a.toInt < b.toInt then b else a := by
  unfold maxS
  rcases Int.lt_trichotomy a.toInt b.toInt with h | h | h
  · rw [if_pos (Int.le_of_lt h), if_pos h]
  · rw [BitVec.eq_of_toInt_eq h, ite_self, ite_self]
  · rw [if_neg (Int.not_le.mpr h), if_neg (Int.not_lt.mpr (Int.le_of_lt h))]

theorem minU_eq {n : Nat} (a b : BitVec n) : minU a b = if b.toNat < a.toNat then b else a := by
  simp only [minU, ← Nat.not_lt, ite_not]

theorem maxU_eq {n : Nat} (a b : BitVec n) : maxU a b = if a.toNat < b.toNat then b else a := by
  unfold maxU
  rcases Nat.lt_trichotomy a.toNat b.toNat with h | h | h
  · rw [if_pos (Nat.le_of_lt h), if_pos h]
  · rw [BitVec.eq_of_toNat_eq h, ite_self, ite_self]
  · rw [if_neg (Nat.not_le.mpr h), if_neg (Nat.not_lt.mpr (Nat.le_of_lt h))]

theorem ofBool_decide (p : Prop) [Decidable p] : ofBool (decide p) = if p then 1 else 0 := by
  by_cases h : p <;> simp [ofBool, h]

theorem shiftLeft_three (a : Word) : a <<< 3 = a * 8 := by
  rw [BitVec.shiftLeft_eq_mul_twoPow]
  rfl

/-- The leading zeros of an `n`-bit number: the bits above the highest one, or all of them. -/
theorem leadingZeros_spec {v n : Nat} (h : v < 2 ^ n) :
    leadingZeros v n ≤ n ∧ v < 2 ^ (n - leadingZeros v n) ∧ (leadingZeros v n = n ∨ 2 ^ (n - 1 - leadingZeros v n) ≤ v) := by
  induction n with
  | zero => exact ⟨Nat.le_refl 0, h, .inl rfl⟩
  | succ n ih =>
    have hbit : v / 2 ^ n < 2 := Nat.div_lt_of_lt_mul (by rw [← Nat.pow_succ]; exact h)
    rw [leadingZeros]
    by_cases hone : v / 2 ^ n % 2 = 1
    · have hle : 2 ^ n ≤ v := by
        rw [← Nat.not_lt]
        intro hlt
        rw [Nat.div_eq_of_lt hlt] at hone
        exact absurd hone (by decide)
      rw [if_pos hone]
      exact ⟨Nat.zero_le _, h, .inr hle⟩
    · have hlt : v < 2 ^ n := by
        have hzero : v / 2 ^ n = 0 := by
          generalize v / 2 ^ n = q at hbit hone
          omega
        exact (Nat.div_eq_zero_iff_lt (Nat.two_pow_pos n)).mp hzero
      obtain ⟨hle, hbelow, hhigh⟩ := ih hlt
      rw [if_neg hone, show n + 1 - (1 + leadingZeros v n) = n - leadingZeros v n by omega,
        show n + 1 - 1 - (1 + leadingZeros v n) = n - 1 - leadingZeros v n by omega]
      exact ⟨by omega, hbelow, hhigh.imp (by omega) id⟩

/-- The one bits below `n` are the positions below `n` that hold one. -/
theorem oneBits_eq (v n : Nat) : oneBits v n = ((List.range n).filter fun i => v.testBit i).length := by
  induction n with
  | zero => rfl
  | succ n ih =>
    rw [oneBits, List.range_succ, List.filter_append, List.length_append, ih, Nat.add_comm]
    congr 1
    rcases Nat.mod_two_eq_zero_or_one (v / 2 ^ n) with h | h <;> simp [Nat.testBit_eq_decide_div_mod_eq, h]

/-- Settles O1: every ALU word puts the value of its body in gd (`completes_result`); what is left is that value. -/
theorem aluResults : Obligations.AluResults := by
  intro s d a b pr h hp
  refine ⟨?add, ?sub, ?and, ?or, ?xor, ?sll, ?srl, ?sra, ?mul, ?mulh, ?mulhz, ?div, ?divz, ?rem, ?remz, ?min, ?max, ?minz, ?maxz,
    ?slt, ?sltz, ?seq, ?clz, ?popc, ?addsh⟩
  case add => exact completes_result h hp rfl rfl rfl
  case sub => exact completes_result h hp rfl rfl rfl
  case and => exact completes_result h hp rfl rfl rfl
  case or => exact completes_result h hp rfl rfl rfl
  case xor => exact completes_result h hp rfl rfl rfl
  case sll => exact completes_result h hp rfl rfl rfl
  case srl => exact completes_result h hp rfl rfl rfl
  case sra => exact completes_result h hp rfl rfl rfl
  case mul => exact completes_result h hp rfl rfl rfl
  case mulh => exact completes_result h hp rfl rfl rfl
  case mulhz => exact completes_result h hp rfl rfl rfl
  case div => exact completes_result h hp rfl rfl rfl
  case divz => exact completes_result h hp rfl rfl rfl
  case rem => exact completes_result h hp rfl rfl rfl
  case remz => exact completes_result h hp rfl rfl rfl
  case min => exact completes_result h hp rfl rfl (minS_eq _ _)
  case max => exact completes_result h hp rfl rfl (maxS_eq _ _)
  case minz => exact completes_result h hp rfl rfl (minU_eq _ _)
  case maxz => exact completes_result h hp rfl rfl (maxU_eq _ _)
  case slt => exact completes_result h hp rfl rfl (ofBool_decide _)
  case sltz => exact completes_result h hp rfl rfl (ofBool_decide _)
  case seq => exact completes_result h hp rfl rfl (ofBool_decide _)
  case clz =>
    obtain ⟨hle, hbelow, hhigh⟩ := leadingZeros_spec (s.g a).isLt
    exact completes_guarded h hp rfl rfl ⟨_, hle, hbelow, hhigh, result_result s d _⟩
  case popc => exact completes_result h hp rfl rfl (congrArg (BitVec.ofNat 64) (oneBits_eq _ _))
  case addsh => exact completes_result h hp rfl rfl (congrArg (s.g a + ·) (shiftLeft_three _))

/-! #### Immediates (R59, R77) -/

/-- A legal word that takes an X.EXT executes with its immediate `v`: the field sign-extended, or the payload of the X.EXT and
the field. -/
theorem sWord_of_immediate {n : Nat} {f : BitVec n} {v : Word} (h : s.ctx.pend = none ∧
      ((s.ctx.pfx = .none ∧ v = f.signExtend 64) ∨ ∃ p a, s.ctx.pfx = .ext p a ∧ v = (p ++ f).signExtend 64))
    {i : Instr} (hl : i.legal = true) (body : State → State) : s.ctx.imm f = v ∧ sWord true i body s = body s := by
  obtain ⟨hpend, ⟨hpfx, rfl⟩ | ⟨p, a, hpfx, rfl⟩⟩ := h
  · exact ⟨by rw [Ctx.imm, hpfx], sWord_plain ⟨hpfx, hpend⟩ true hl body⟩
  · exact ⟨by rw [Ctx.imm, hpfx], sWord_ext hpend hpfx hl body⟩

section Immediates

variable {i : BitVec 13} {v : Word}

/-- A word with an immediate whose body brings `P` about. -/
theorem completes_immediate (h : s.HasImmediate i v) {j : Instr} (hl : j.legal = true) {body : State → Word → State} {P : State → Prop}
    (he : exec j s = .next (sWord true j (fun s => body s (s.ctx.imm i)) s)) (hb : P (body s v)) : Completes j s P := by
  obtain ⟨himm, hw⟩ := sWord_of_immediate h hl fun s => body s (s.ctx.imm i)
  exact ⟨_, he, by rwa [hw, himm]⟩

/-- An immediate form whose body puts a result in gd. -/
theorem completes_result_immediate (h : s.HasImmediate i v) {j : Instr} (hl : j.legal = true) {d : BitVec 5} {f : State → Word → Word}
    {w : Word} (he : exec j s = .next (sWord true j (fun s => s.result d (f s (s.ctx.imm i))) s)) (hw : f s v = w) :
    Completes j s (s.Result d w) :=
  completes_immediate h hl (body := fun s v => s.result d (f s v)) he (hw ▸ result_result s d _)

/-- A shift with an immediate amount: from 0 to 63 it shifts. -/
theorem completes_shift (h : s.HasImmediate i v) {j : Instr} (hl : j.legal = true) {d : BitVec 5} {f : State → Nat → Word}
    (he : exec j s = .next (sWord true j (fun s =>
      if (s.ctx.imm i).toNat < 64 then s.result d (f s (s.ctx.imm i).toNat) else s.illegal j) s)) (hv : v.toNat < 64) :
    Completes j s (s.Result d (f s v.toNat)) :=
  completes_immediate h hl (body := fun s v => if v.toNat < 64 then s.result d (f s v.toNat) else s.illegal j) he
    (by rw [if_pos hv]; exact result_result s d _)

/-- An amount outside 0 to 63 is illegal. -/
theorem shift_traps (hu : s.InUser) (h : s.HasImmediate i v) {j : Instr} (hl : j.legal = true) {d : BitVec 5} {f : State → Nat → Word}
    (he : exec j s = .next (sWord true j (fun s =>
      if (s.ctx.imm i).toNat < 64 then s.result d (f s (s.ctx.imm i).toNat) else s.illegal j) s)) (hv : 64 ≤ v.toNat) :
    Completes j s (s.TrappedIllegal (wordOf j)) :=
  completes_immediate h hl (body := fun s v => if v.toNat < 64 then s.result d (f s v.toNat) else s.illegal j) he
    (by rw [if_neg (Nat.not_lt.mpr hv)]; exact trappedIllegal hu _)

end Immediates

theorem immediateResultsHold : ImmediateResultsHold := by
  intro s d a i v h
  refine ⟨?addi, ?andi, ?ori, ?xori, ?slti, ?movi, fun hv => ⟨?slli, ?srli, ?srai⟩⟩
  case addi => exact completes_result_immediate h rfl (f := fun s v => s.g a + v) rfl rfl
  case andi => exact completes_result_immediate h rfl (f := fun s v => s.g a &&& v) rfl rfl
  case ori => exact completes_result_immediate h rfl (f := fun s v => s.g a ||| v) rfl rfl
  case xori => exact completes_result_immediate h rfl (f := fun s v => s.g a ^^^ v) rfl rfl
  case slti => exact completes_result_immediate h rfl (f := fun s v => ofBool ((s.g a).slt v)) rfl (ofBool_decide _)
  case movi => exact completes_result_immediate h rfl (f := fun _ v => v) rfl rfl
  case slli => exact completes_shift h rfl (f := fun s n => s.g a <<< n) rfl hv
  case srli => exact completes_shift h rfl (f := fun s n => s.g a >>> n) rfl hv
  case srai => exact completes_shift h rfl (f := fun s n => (s.g a).sshiftRight n) rfl hv

theorem shiftAmountTrapsHold : ShiftAmountTrapsHold := fun _ _ a _ _ hu h hv =>
  ⟨shift_traps hu h rfl (f := fun s n => s.g a <<< n) rfl hv, shift_traps hu h rfl (f := fun s n => s.g a >>> n) rfl hv,
    shift_traps hu h rfl (f := fun s n => (s.g a).sshiftRight n) rfl hv⟩

/-- Settles O2: a word with an immediate takes the field, or the payload and the field (`sWord_of_immediate`); a shift does its
body or traps by the amount (`completes_shift`, `shift_traps`). -/
theorem immediatesAndShiftAmounts : Obligations.ImmediatesAndShiftAmounts := ⟨immediateResultsHold, shiftAmountTrapsHold⟩

/-! #### Predicates (R78, R79) -/

theorem exec_psetTstat (h : s.Plain) {pr : BitVec 3} (hp : s.p pr = true) (d : BitVec 3) (tag : BitVec 4) :
    exec (.psetTstat d tag pr) s = .next (if s.cur.cIdle then
      s.resultP d ((s.cur.readC (0x030 + tag.toNat)).toNat % 64 == 0) else s.await .cside) :=
  (exec_guarded h hp rfl rfl).trans rfl

/-- Settles O3: the words put the value of their bodies in pd (`completes_resultP`); PSET.TSTAT reads its entry once C is idle
(`exec_psetTstat`). -/
theorem predicateResults : Obligations.PredicateResults := by
  intro s d a b x y tag pr h hp
  refine ⟨?eq, ?ne, ?lt, ?ge, ?ltz, ?gez, ?pand, ?por, ?pxor, ?pnot, fun hd => ⟨_, exec_psetTstat h hp d tag, ?_⟩,
    fun hd => ⟨_, exec_psetTstat h hp d tag, ?_⟩⟩
  case eq => exact completes_resultP h hp rfl rfl rfl
  case ne => exact completes_resultP h hp rfl rfl (decide_not (p := s.g a = s.g b)).symm
  case lt => exact completes_resultP h hp rfl rfl rfl
  case ge => exact completes_resultP h hp rfl rfl BitVec.sle_eq_not_slt.symm
  case ltz => exact completes_resultP h hp rfl rfl rfl
  case gez => exact completes_resultP h hp rfl rfl (BitVec.ule_eq_not_ult _ _).symm
  case pand => exact completes_resultP h hp rfl rfl rfl
  case por => exact completes_resultP h hp rfl rfl rfl
  case pxor => exact completes_resultP h hp rfl rfl rfl
  case pnot => exact completes_resultP h hp rfl rfl rfl
  · rw [if_pos ((cIdle_iff s).mpr hd), show s.cur.readC (0x030 + tag.toNat) = _ from (readC_table s.cur tag.toFin).2]
    exact resultP_resultP s d _
  · rw [if_neg fun hi => hd ((cIdle_iff s).mp hi)]
    exact ⟨by simp, by simp [State.pc], fun _ => by simp [State.p], fun _ => by simp [State.g]⟩

end Sys2Proof.Machine
end

section
/-! ### Words of S that branch, use tokens, trap and return, and the issue of Husk (R80, R81, R86 to R88, R91, R92, R95) -/

namespace Sys2Proof.Machine

variable {s u : State}

/-! #### Branches (R80, R81, R260) -/

theorem onlyCore_branch (s : State) (a : Word) : s.OnlyCore (s.branch a) := by
  unfold State.branch
  simp only
  split
  · exact (onlyCtx_jump s a).1.trans (onlyCore_onCore _ _)
  · exact (onlyCtx_jump s a).1

/-- A branch changes the place of S, and the team state, which may mark it. -/
theorem cur_branch (s : State) (a : Word) :
    (s.branch a).cur = { s.cur.setCtx s.inHusk (s.ctx.goto a) with team := (s.branch a).cur.team } := by
  unfold State.branch
  simp only
  split
  · rw [State.cur_onCore, State.cur_jump]
  · rw [State.cur_jump]

@[simp] theorem State.ctx_branch (s : State) (a : Word) : (s.branch a).ctx = s.ctx.goto a := by
  rw [State.ctx, (onlyCore_branch s a).inHusk, cur_branch]
  cases s.inHusk <;> rfl

/-- Outside a team stream a branch marks nothing. -/
theorem team_branch_of_none (h : s.cur.team.team = none) (a : Word) : (s.branch a).cur.team = s.cur.team := by
  unfold State.branch
  simp only [h, Option.isSome_none, Bool.false_and, Bool.false_eq_true, if_false, State.cur_jump]
  cases s.inHusk <;> rfl

/-- A branch of a context whose registers alone have changed. -/
theorem branches_branch (h : s.OnlyCtx u) (a : Word) : s.Branches a (u.branch a) := by
  obtain ⟨hcore, hcur⟩ := h
  have hteam : u.cur.team = s.cur.team := by rw [hcur]; cases s.inHusk <;> rfl
  refine ⟨hcore.trans (onlyCore_branch u a), ?_, fun ht => ?_, ?_⟩
  · conv_lhs => rw [cur_branch, hcur, hcore.inHusk, Core.setCtx_setCtx]
    rw [State.ctx_branch]
  · rw [team_branch_of_none (hteam ▸ ht), hteam]
  · simp [State.StandsAt, State.pc, Ctx.goto]

/-- A branch that links: the register gets the address of the next word. -/
theorem putG_setG_branch (s : State) (d : BitVec 5) (v a : Word) : s.PutG d v ((s.setG d v).branch a) := by
  refine ⟨?_, fun r hr => ?_, fun q => ?_⟩
  · simp [State.g, Ctx.getG_setG]
  · simp [State.g, Ctx.getG_setG, Ne.symm hr]
  · simp [State.p]

theorem taken_iff (s : State) {pr : BitVec 3} {n : BitVec 1} :
    s.taken pr n = true ↔ pr = 0 ∨ (s.p pr = true ∧ n = 0) ∨ (s.p pr = false ∧ n = 1) := by
  have hn : n = 0 ∨ n = 1 := by revert n; decide
  rcases hn with rfl | rfl <;> cases hp : s.p pr <;> simp [State.taken, hp]

theorem legal_br_call {pr : BitVec 3} {n : BitVec 1} (h : ¬ (pr = 0 ∧ n = 1)) (o : BitVec 19) :
    (Instr.br pr n o).legal = true ∧ (Instr.call pr n o).legal = true := by
  have hl : (!(pr == 0 && n == 1)) = true := by simpa [-not_and, not_and_or] using h
  exact ⟨hl, hl⟩

theorem exec_br {o : BitVec 19} {v : Word} (h : s.HasOffset o v) {pr : BitVec 3} {n : BitVec 1} (hn : ¬ (pr = 0 ∧ n = 1)) :
    exec (.br pr n o) s = .next (if s.taken pr n then s.branch (s.pc + 4 * v) else s.advance) := by
  obtain ⟨himm, hw⟩ := sWord_of_immediate h (legal_br_call hn o).1 fun s => if s.taken pr n then s.branch (s.target o) else s.advance
  show Host.Outcome.next _ = _
  rw [hw, State.target, himm]

theorem exec_call {o : BitVec 19} {v : Word} (h : s.HasOffset o v) {pr : BitVec 3} {n : BitVec 1} (hn : ¬ (pr = 0 ∧ n = 1)) :
    exec (.call pr n o) s = .next (if s.taken pr n then (s.setG 31 (s.pc + 4)).branch (s.pc + 4 * v) else s.advance) := by
  obtain ⟨himm, hw⟩ := sWord_of_immediate h (legal_br_call hn o).2 fun s =>
    if s.taken pr n then (s.setG 31 (s.pc + 4)).branch (s.target o) else s.advance
  show Host.Outcome.next _ = _
  rw [hw, State.target, himm]

/-- Settles O5: a taken branch goes to its target (`branches_branch`), CALL links before it (`putG_setG_branch`), and one that is
not taken only advances. -/
theorem branchTargets : Obligations.BranchTargets := by
  intro s pr n o v h hn
  refine ⟨fun ht => ⟨⟨_, exec_br h hn, ?_⟩, ⟨_, exec_call h hn, ?_⟩⟩,
    fun ht => ⟨⟨_, exec_br h hn, ?_⟩, ⟨_, exec_call h hn, ?_⟩⟩⟩
  · rw [if_pos ((taken_iff s).mpr ht)]
    exact ⟨branches_branch ⟨onlyCore_refl s, (Core.setCtx_ctx _ _).symm⟩ _, sameG_of_ctx (State.ctx_branch s _) rfl,
      sameP_of_ctx (State.ctx_branch s _) rfl⟩
  · rw [if_pos ((taken_iff s).mpr ht)]
    exact ⟨branches_branch (onlyCtx_setG s 31 _) _, putG_setG_branch s 31 _ _⟩
  · rw [if_neg fun h => ht ((taken_iff s).mp h)]
    exact skips_advance s
  · rw [if_neg fun h => ht ((taken_iff s).mp h)]
    exact skips_advance s

theorem exec_jmpr (h : s.Plain) {pr : BitVec 3} (hp : s.p pr = true) (d a : BitVec 5) :
    exec (.jmpr d a pr) s =
      .next (if (s.g a).toNat % 4 = 0 then (s.setG d (s.pc + 4)).branch (s.g a) else s.illegal (.jmpr d a pr)) :=
  (exec_guarded h hp rfl rfl).trans rfl

/-- Settles O6: JMPR reads ga, links gd and branches, or traps (`exec_jmpr`). -/
theorem registerJumps : Obligations.RegisterJumps := by
  intro s d a pr h hp
  refine ⟨fun ha => ⟨_, exec_jmpr h hp d a, ?_⟩, fun ha hu => ⟨_, exec_jmpr h hp d a, ?_⟩⟩
  · rw [if_pos ha]
    exact ⟨branches_branch (onlyCtx_setG s d _) _, putG_setG_branch s d _ _⟩
  · rw [if_neg ha]
    exact trappedIllegal hu _

/-! #### Tokens (R86 to R88) -/

theorem aAddr_of_plain (h : s.Plain) : s.aAddr = s.pc := by simp only [State.aAddr, h.2]

/-- A word that waits changes nothing but the state of its context. -/
theorem waits_await (s : State) (w : Wait) :
    s.OnlyCtx (s.await w) ∧ s.SameG (s.await w) ∧ s.SameP (s.await w) ∧ (s.await w).pc = s.pc ∧ (s.await w).ctx.stat = .waiting w :=
  have hx := State.ctx_await s w
  ⟨onlyCtx_await s w, sameG_of_ctx hx rfl, sameP_of_ctx hx rfl, pc_of_ctx hx rfl, by rw [hx, Ctx.stat_await]⟩

/-- The core of S after an update that leaves its contexts, and the next word. -/
theorem advances_onCore (hu : s.InUser) (ho : s.OnlyCore u) (hx : u.ctx = s.ctx) :
    s.OnlyCore u.advance ∧ s.SameG u.advance ∧ s.SameP u.advance ∧ u.advance.StandsAt (s.pc + 4) ∧
      u.advance.cur = { u.cur with user := u.advance.cur.user } := by
  have hpc : u.pc = s.pc := pc_of_ctx hx rfl
  have hctx : u.advance.ctx = s.ctx.goto (u.pc + 4) := by rw [State.ctx_advance, hx]
  refine ⟨ho.trans (onlyCtx_advance u).1, sameG_of_ctx hctx rfl, sameP_of_ctx hctx rfl,
    hpc ▸ standsAt_advance u, ?_⟩
  rw [State.cur_advance, ho.inHusk, hu.inHusk]
  rfl

section Tokens

variable (hu : s.InUser) (h : s.Plain) {pr : BitVec 3} (hp : s.p pr = true) (k : BitVec 6)

include h hp in
theorem exec_twait_ok {u : State} (hc : s.consume [k] = .ok u) : exec (.twait k pr) s = .next u.advance :=
  (exec_guarded h hp rfl rfl).trans (by simp only [hc])

include h hp in
theorem exec_twait_error {u : State} (hc : s.consume [k] = .error u) : exec (.twait k pr) s = .next u :=
  (exec_guarded h hp rfl rfl).trans (by simp only [hc])

include h hp in
theorem twait_free (hk : s.cur.tok k = .free) : Completes (.twait k pr) s s.Skips :=
  ⟨_, exec_twait_ok h hp k (by simp only [State.consume, hk]), skips_advance s⟩

include hu h hp in
theorem twait_done {ts : Word} (hk : s.cur.tok k = .done ts) : Completes (.twait k pr) s (fun t =>
    s.OnlyCore t ∧ s.SameG t ∧ s.SameP t ∧ t.StandsAt (s.pc + 4) ∧
    t.cur = { s.cur with user := t.cur.user, pts := wmax s.cur.pts ts, floor := wmax s.cur.pts ts }) := by
  refine ⟨_, exec_twait_ok h hp k (consume_done hk), ?_⟩
  obtain ⟨ho, hg, hq, hat, hcur⟩ := advances_onCore hu (onlyCore_raisePts_setFloor s ts) (ctx_raisePts_setFloor hu ts)
  exact ⟨ho, hg, hq, hat, hcur.trans (by rw [cur_raisePts_setFloor hu])⟩

include hu h hp in
theorem twait_failed {f : Flt} (hk : s.cur.tok k = .failed f) :
    Completes (.twait k pr) s (s.Trapped f.cause s.pc f.addr f.info) := by
  refine ⟨_, exec_twait_error h hp k (consume_failed hk []), ?_⟩
  rw [aAddr_of_plain h]
  exact trapped_takeTrap hu f s.pc

include h hp in
theorem twait_pending (hk : s.cur.tok k = .pending) :
    Completes (.twait k pr) s (fun t => s.OnlyCtx t ∧ t.pc = s.pc ∧ t.ctx.stat = .waiting (.token k)) := by
  refine ⟨_, exec_twait_error h hp k (consume_pending hk []), ?_⟩
  obtain ⟨hctx, -, -, hpc, hstat⟩ := waits_await s (.token k)
  exact ⟨hctx, hpc, hstat⟩

include h hp in
theorem tfree_pending (hk : s.cur.tok k = .pending) :
    Completes (.tfree k pr) s (fun t => s.OnlyCtx t ∧ t.pc = s.pc ∧ t.ctx.stat = .waiting (.token k)) := by
  obtain ⟨hctx, -, -, hpc, hstat⟩ := waits_await s (.token k)
  exact ⟨s.await (.token k), (exec_guarded h hp rfl rfl).trans (by simp only [hk]), hctx, hpc, hstat⟩

/-- k63 is free before as after. -/
theorem Core.tok_setTok_free (c : Core) (k j : BitVec 6) : (c.setTok k .free).tok j = if j = k then .free else c.tok j := by
  rw [Core.tok_setTok_eq_if]
  by_cases hj : j = k
  · subst hj
    by_cases h63 : j = 63
    · subst h63; rfl
    · rw [if_pos ⟨rfl, h63⟩, if_pos rfl]
  · rw [if_neg fun h => hj h.1, if_neg hj]

include h hp in
theorem exec_tfree (hk : s.cur.tok k ≠ .pending) : exec (.tfree k pr) s = .next (s.setTok k .free).advance := by
  refine (exec_guarded h hp rfl rfl).trans ?_
  split
  · exact absurd ‹_› hk
  · rfl

include hu h hp in
theorem tfree_completes (hk : s.cur.tok k ≠ .pending) : Completes (.tfree k pr) s (fun t =>
    s.OnlyCore t ∧ s.SameG t ∧ s.SameP t ∧ t.StandsAt (s.pc + 4) ∧
    t.cur = { s.cur with user := t.cur.user, tokens := t.cur.tokens } ∧ ∀ j, t.cur.tok j = if j = k then .free else s.cur.tok j) := by
  obtain ⟨-, hg, hq, hat, -, -, hcur⟩ := aFrame_setTok_advance s k .free
  refine ⟨_, exec_tfree h hp k hk, (onlyCore_onCore s _).trans (onlyCtx_advance _).1, hg, hq, hat, hcur.trans ?_, fun j => ?_⟩
  · rw [State.ctx, State.inHusk_advance, State.inHusk_setTok, hu.inHusk]; rfl
  · rw [State.cur_advance, Core.tok_setCtx, State.cur_setTok, Core.tok_setTok_free]

end Tokens

/-- Settles O8: TWAIT does what the consumption of its token comes to (`exec_twait_ok`, `exec_twait_error`), TTEST is a result in
pd, TFREE waits or frees (`tfree_pending`, `tfree_completes`). -/
theorem tokenWords : Obligations.TokenWords := fun s _ k _ hu h hp =>
  ⟨completes_resultP h hp rfl (f := fun s => s.cur.tok k != .pending) rfl (decide_not (p := s.cur.tok k = .pending)).symm,
    twait_free h hp k, fun _ => twait_done hu h hp k, fun _ => twait_failed hu h hp k,
    fun hk => ⟨twait_pending h hp k hk, tfree_pending h hp k hk⟩, tfree_completes hu h hp k⟩

/-! #### The issue of Husk (R95) -/

theorem Core.endPair_share {c : Core} {v x : Word} (h : c.pairAct = some (.share v, x)) :
    c.endPair = { c with share := v, pairAct := none } := by
  simp only [Core.endPair, h, Core.act]

theorem Core.endPair_yield {c : Core} {x : Word} (h : c.pairAct = some (.yield, x)) :
    c.endPair = { c with husk := { c.husk with stat := .stopped none }, pairAct := none } := by
  simp only [Core.endPair, h, Core.act]

theorem Core.endPair_of_none {c : Core} (h : c.pairAct = none) : c.endPair = c := by simp only [Core.endPair, h]

/-- What a fetch pair has left to do touches the context of Husk in its state of running alone. -/
theorem Core.endPair_setCtx_husk (c : Core) (x : Ctx) :
    ∃ st, (c.setCtx true x).endPair = c.endPair.setCtx true { x with stat := st } := by
  cases hp : c.pairAct with
  | none => exact ⟨x.stat, by rw [Core.endPair_of_none hp, Core.endPair_of_none (c := c.setCtx true x) hp]⟩
  | some y =>
    obtain ⟨a | _, w⟩ := y
    · exact ⟨x.stat, by rw [Core.endPair_share hp, Core.endPair_share (c := c.setCtx true x) hp]; rfl⟩
    · exact ⟨.stopped none, by rw [Core.endPair_yield hp, Core.endPair_yield (c := c.setCtx true x) hp]; rfl⟩

/-- After the second word of a pair: what the pair had left to do is done, then what the word says. -/
theorem atPairEnd_second (hh : s.inHusk = true) (h2 : s.pc.getLsbD 2 = true) (x : HuskAct) :
    s.OnlyCore (s.atPairEnd x) ∧
    ∃ st, (s.atPairEnd x).cur = (s.cur.endPair.setCtx true { s.ctx.goto (s.pc + 4) with stat := st }).act x := by
  rw [State.atPairEnd, if_pos h2]
  refine ⟨(onlyCtx_advance s).1.trans (onlyCore_onCore _ _), ?_⟩
  obtain ⟨st, he⟩ := s.cur.endPair_setCtx_husk (s.ctx.goto (s.pc + 4))
  exact ⟨st, by rw [State.cur_onCore, State.cur_advance, hh, he]⟩

/-- After the first word of a pair it is kept for the end of the pair. -/
theorem keepsForPair_atPairEnd (h2 : s.pc.getLsbD 2 = false) (x : HuskAct) : s.KeepsForPair x (s.atPairEnd x) := by
  rw [State.atPairEnd, h2]
  exact writes_onCore_advance s (fun c h x => by cases h <;> rfl) fun c h => by cases h <;> rfl

section Husk

variable (h : s.Plain) {pr : BitVec 3} (hp : s.p pr = true) (a : BitVec 5)

include h hp in
theorem exec_share_husk (hh : s.inHusk = true) :
    exec (.share a pr) s = .next (s.atPairEnd (.share (if (s.g a).toNat ≤ 256 then s.g a else 256))) :=
  (exec_guarded h hp rfl rfl).trans (by rw [if_pos hh]; rfl)

include h hp in
theorem exec_hyield_husk (hh : s.inHusk = true) : exec (.hyield pr) s = .next (s.atPairEnd .yield) :=
  (exec_guarded h hp rfl rfl).trans (by rw [if_pos hh])

include h hp in
theorem share_second (hh : s.inHusk = true) (h2 : s.pc.getLsbD 2 = true) :
    Completes (.share a pr) s (fun t => s.OnlyCore t ∧ s.SameG t ∧ s.SameP t ∧ t.pc = s.pc + 4 ∧
      t.cur = { s.cur.endPair.setCtx true t.ctx with share := if (s.g a).toNat ≤ 256 then s.g a else 256 }) := by
  refine ⟨_, exec_share_husk h hp a hh, ?_⟩
  generalize (if (s.g a).toNat ≤ 256 then s.g a else 256) = v
  obtain ⟨ho, st, hc⟩ := atPairEnd_second hh h2 (.share v)
  have hx : (s.atPairEnd (.share v)).ctx = { s.ctx.goto (s.pc + 4) with stat := st } := by
    rw [State.ctx, ho.inHusk, hh, hc]; rfl
  refine ⟨ho, sameG_of_ctx hx rfl, sameP_of_ctx hx rfl, pc_of_ctx hx rfl, ?_⟩
  rw [hx, hc]
  rfl

include h hp in
theorem hyield_second (hh : s.inHusk = true) (h2 : s.pc.getLsbD 2 = true) :
    Completes (.hyield pr) s (fun t => s.OnlyCore t ∧ s.SameG t ∧ s.SameP t ∧ t.pc = s.pc + 4 ∧ t.ctx.stat = .stopped none ∧
      t.cur = s.cur.endPair.setCtx true t.ctx) := by
  refine ⟨_, exec_hyield_husk h hp hh, ?_⟩
  obtain ⟨ho, st, hc⟩ := atPairEnd_second hh h2 .yield
  have hx : (s.atPairEnd .yield).ctx = { s.ctx.goto (s.pc + 4) with stat := .stopped none } := by
    rw [State.ctx, ho.inHusk, hh, hc]; rfl
  refine ⟨ho, sameG_of_ctx hx rfl, sameP_of_ctx hx rfl, pc_of_ctx hx rfl, by rw [hx], ?_⟩
  rw [hx, hc]
  rfl

include h hp in
theorem exec_share_user (hh : s.inHusk = false) : exec (.share a pr) s = .next (s.priv (.share a pr)) :=
  (exec_guarded h hp rfl rfl).trans (by rw [hh]; rfl)

include h hp in
theorem exec_hyield_user (hh : s.inHusk = false) : exec (.hyield pr) s = .next (s.priv (.hyield pr)) :=
  (exec_guarded h hp rfl rfl).trans (by rw [hh]; rfl)

end Husk

/-- Settles O10: in Husk both words act at the end of the fetch pair (`share_second`, `hyield_second`, `keepsForPair_atPairEnd`); in
the user context they trap `PRIV`. -/
theorem huskIssueControl : Obligations.HuskIssueControl := fun _ a _ h hp =>
  ⟨fun hh => ⟨fun h2 => ⟨share_second h hp a hh h2, hyield_second h hp hh h2⟩,
      fun h2 => ⟨⟨_, exec_share_husk h hp a hh, keepsForPair_atPairEnd h2 _⟩,
        ⟨_, exec_hyield_husk h hp hh, keepsForPair_atPairEnd h2 _⟩⟩⟩,
    fun _ _ _ => Core.endPair_share, fun _ _ => Core.endPair_yield,
    fun hu => ⟨⟨_, exec_share_user h hp a hu.inHusk, trappedPriv hu _⟩, ⟨_, exec_hyield_user h hp hu.inHusk, trappedPriv hu _⟩⟩⟩

/-! #### Traps by words, and the return (R91, R92) -/

theorem exec_udf (h : s.Plain) (x : BitVec 23) : exec (.udf x) s = .next (s.illegal (.udf x)) := by
  show Host.Outcome.next _ = _
  rw [sWord_plain h _ rfl]

/-- Settles O11: the three words take a trap (`trapped_takeTrap`). -/
theorem softwareTraps : Obligations.SoftwareTraps := fun s a _ v code pr x hu =>
  ⟨fun hv => completes_immediate hv rfl (body := fun s v => s.takeTrap ⟨0x12, 0, s.g a + v⟩ s.pc) rfl
      (trapped_takeTrap hu ⟨0x12, 0, s.g a + v⟩ s.pc),
    fun h hp => completes_guarded h hp rfl rfl (trapped_takeTrap hu ⟨0x13, 0, (wordOf (.brk code pr)).setWidth 64⟩ s.pc),
    fun h => ⟨_, exec_udf h x, trappedIllegal hu _⟩⟩

theorem exec_eret (h : s.Plain) {pr : BitVec 3} (hp : s.p pr = true) (a : BitVec 5) :
    exec (.eret a pr) s = .next (if !s.cur.handler then s.illegal (.eret a pr)
      else if (s.g a).toNat % 4 ≠ 0 then s.illegal (.eret a pr) else s.returnFrom (s.g a)) :=
  (exec_guarded h hp rfl rfl).trans rfl

/-- A return to a word whose wait has not trapped. -/
theorem Ctx.reenter_eq {x : Ctx} {dest : Word} (h : ∀ e, x.expired = some e → e.word ≠ dest) :
    x.reenter dest = { x.goto dest with expired := none } := by
  unfold Ctx.reenter
  cases he : x.expired with
  | none => rfl
  | some e => exact if_neg (h e he)

/-- The return clears HandlerState and goes to its target. -/
theorem returns_returnFrom (hu : s.InUser) {dest : Word} (h : ∀ e, s.ctx.expired = some e → e.word ≠ dest) :
    s.OnlyCore (s.returnFrom dest) ∧ s.SameG (s.returnFrom dest) ∧ s.SameP (s.returnFrom dest) ∧ (s.returnFrom dest).StandsAt dest ∧
      (s.returnFrom dest).cur = { s.cur with user := (s.returnFrom dest).cur.user, handler := false } := by
  have hctx : (s.returnFrom dest).ctx = { s.ctx.goto dest with expired := none } := by
    have hcore : (s.onCore fun c => { c with handler := false }).ctx = s.ctx := by
      rw [State.ctx_onCore, hu.inHusk, State.ctx, hu.inHusk]; rfl
    rw [State.returnFrom, State.ctx_onCtx, hcore, Ctx.reenter_eq h]
  refine ⟨(onlyCore_onCore s _).trans (onlyCtx_onCtx _ _).1, sameG_of_ctx hctx rfl, sameP_of_ctx hctx rfl, ?_, ?_⟩
  · rw [State.StandsAt, State.pc, hctx]; exact ⟨rfl, rfl, rfl, rfl, rfl⟩
  · rw [State.returnFrom, State.cur_onCtx, State.cur_onCore, State.inHusk_onCore, hu.inHusk]; rfl

/-- Settles O12: ERET returns from the handler (`returns_returnFrom`) or is illegal. -/
theorem handlerReturn : Obligations.HandlerReturn := by
  intro s a pr hu h hp
  refine ⟨fun hh ha he => ⟨_, exec_eret h hp a, ?_⟩, fun hbad => ⟨_, exec_eret h hp a, ?_⟩⟩
  · rw [hh, if_neg (by simp), if_neg (not_not_intro ha)]
    exact returns_returnFrom hu he
  · have hill : (if !s.cur.handler then s.illegal (.eret a pr)
        else if (s.g a).toNat % 4 ≠ 0 then s.illegal (.eret a pr) else s.returnFrom (s.g a)) = s.illegal (.eret a pr) := by
      rcases hbad with hh | ha
      · rw [hh]; rfl
      · rw [if_pos ha, ite_self]
    rw [hill]
    exact trappedIllegal hu _

end Sys2Proof.Machine
end

section
/-! ### Register writes of the engines and pips of S (R12, R54, R82 to R85, R89) -/

namespace Sys2Proof.Machine

variable {s : State}

@[simp] theorem Core.eng_setCtx (c : Core) (h : Bool) (x : Ctx) (e : Eng) : (c.setCtx h x).eng e = c.eng e := by
  cases h <;> cases e <;> rfl

@[simp] theorem Core.pip_setCtx (c : Core) (h : Bool) (x : Ctx) (j : Nat) : (c.setCtx h x).pip j = c.pip j := by cases h <;> rfl

/-! #### At issue (R82, R83) -/

/-- A register write of S at the end of an engine's queue. -/
def Core.enqueue (c : Core) (e : Eng) (kind : QKind) (v at_ : Word) : Core :=
  c.updEng e fun y => { y with queue := y.queue ++ [⟨kind, 0, at_, v, c.floor, y.steered, c.team.beat⟩] }

/-- With room in the queue and no open body capture the write goes into the queue. -/
theorem queued_queueWrite {e : Eng} (h : s.QueueOpen e) (kind : QKind) (v : Word) (i : Instr) :
    s.Queued e kind v (s.queueWrite e kind v i) := by
  obtain ⟨hlen, hcap⟩ := h
  have hw : s.queueWrite e kind v i = (s.onCore fun c => c.enqueue e kind v s.pc).advance := by
    simp only [State.queueWrite, hcap]
    exact (if_neg (by decide)).trans (if_neg (Nat.not_le.mpr hlen))
  obtain ⟨ho, hg, hp, hat, hcur⟩ := writes_onCore_advance s (f := fun c => c.enqueue e kind v s.pc)
    (fun c h x => by cases e <;> cases h <;> rfl) fun c h => Core.ctx_setEng c e _ h
  have heng : (s.onCore fun c => c.enqueue e kind v s.pc).advance.cur.eng e = { s.cur.eng e with
      queue := (s.cur.eng e).queue ++ [⟨kind, 0, s.pc, v, s.cur.floor, (s.cur.eng e).steered, s.cur.team.beat⟩] } := by
    rw [State.cur_advance, Core.eng_setCtx, State.cur_onCore, Core.enqueue, Core.eng_updEng]
  rw [hw]
  refine ⟨ho, hg, hp, hat, ?_, ⟨kind, 0, s.pc, v, s.cur.floor, (s.cur.eng e).steered, s.cur.team.beat⟩, by rw [heng], rfl, rfl, rfl⟩
  rw [heng]
  refine hcur.trans ?_
  simp only [Core.enqueue, Core.updEng, Core.eng_setCtx]
  cases s.inHusk <;> rfl

section Issue

variable (h : s.Plain) {pr : BitVec 3} (hp : s.p pr = true)
include h hp

/-- MOVA, MOVAR and MOVL name an engine with 0 to 2. -/
theorem moves_queue (i : BitVec 4) (a : BitVec 5) (k : BitVec 3) (l : BitVec 1) {e : BitVec 2} (he : e ≠ 3) (hq : s.QueueOpen (engOfNum e)) :
    Completes (.mova i a e pr) s (s.Queued (engOfNum e) (.regA i) (s.g a)) ∧
    Completes (.movar i a k e pr) s (s.Queued (engOfNum e) (.regA i) (Cells.get 0 s.cur.reloc k.toNat + s.g a)) ∧
    Completes (.movl l a e pr) s (s.Queued (engOfNum e) (.regLc l) (s.g a)) := by
  refine ⟨completes_guarded h hp ?_ rfl (queued_queueWrite hq _ _ _), completes_guarded h hp ?_ rfl (queued_queueWrite hq _ _ _),
    completes_guarded h hp ?_ rfl (queued_queueWrite hq _ _ _)⟩ <;> exact bne_iff_ne.mpr he

theorem msel_queues (m : BitVec 3) (hq : s.QueueOpen .c) : Completes (.msel m pr) s (s.Queued .c (.msel m) 0) :=
  completes_guarded h hp rfl rfl (queued_queueWrite hq _ _ _)

end Issue

/-- SWR of a C-side register that may be written. -/
theorem swr_cside_queues (h : s.Plain) (a : BitVec 5) {x : BitVec 13} (hq : s.QueueOpen .c)
    (hx : (0x020 ≤ x.toNat ∧ x.toNat ≤ 0x03F) ∨ x.toNat ∈ [0x041, 0x042, 0x043, 0x051, 0x088, 0x089]) :
    Completes (.swr a x) s (s.Queued .c (.sysreg x) (s.g a)) := by
  simp only [List.mem_cons, List.not_mem_nil, or_false] at hx
  have hany : accessOf x.toNat = .any := by rw [accessOf, if_pos (by omega)]
  have hc : isCSide x.toNat = true := by simp only [isCSide, Bool.or_eq_true, decide_eq_true_eq, beq_iff_eq]; omega
  refine ⟨s.queueWrite .c (.sysreg x) (s.g a) (.swr a x), ?_, queued_queueWrite hq _ _ _⟩
  show Host.Outcome.next _ = _
  rw [sWord_plain h _ rfl, hany, hc]
  rfl

/-! #### At the engine (R8, R82, R83, R89) -/

theorem Engine.take_of_none {x : Engine} (h : x.outer = none) : x.take = { x with queue := x.queue.tail } := by
  simp only [Engine.take, h]

theorem Engine.entry_of_queue {x : Engine} {q : QEntry} {r : List QEntry} (ho : x.outer = none) (hq : x.queue = q :: r) :
    x.entry = some q := by
  simp only [Engine.entry, ho, hq, List.head?_cons]

/-- The turn of an engine that nothing holds, at a register write. -/
theorem eTurn_queuedWrite {e : Eng} {q : QEntry} (hq : (s.cur.eng e).entry = some q) (hs : (s.cur.eng e).stat = .ready)
    (hh : s.engineHeld = false) (hword : q.kind ≠ .word) (hhalt : q.kind ≠ .halt) :
    s.eTurn e = .other (s.onCore fun c => (c.queuedWrite e q).updEng e Engine.take) := by
  unfold State.eTurn
  simp only [hq]
  refine (if_neg ?_).trans ?_
  · rintro (hr | ⟨hheld, -⟩)
    · rw [hs] at hr; cases hr
    · rw [hh] at hheld; cases hheld
  · rfl

/-- A register write at the head of the queue performs, and its entry is gone; `f` leaves the queue and the loop of the engine. -/
theorem performs_of_queuedWrite {e : Eng} {kind : QKind} {v : Word} {f : Core → Core} (hword : kind ≠ .word) (hhalt : kind ≠ .halt)
    (hf : ∀ q : QEntry, q.kind = kind → q.val = v → s.cur.queuedWrite e q = f s.cur)
    (hout : ((f s.cur).eng e).outer = (s.cur.eng e).outer) (hqueue : ((f s.cur).eng e).queue = (s.cur.eng e).queue) :
    s.Performs e kind v f := by
  rintro q r hq hkind hval ho hs hh
  refine ⟨_, eTurn_queuedWrite (Engine.entry_of_queue ho hq) hs hh (hkind ▸ hword) (hkind ▸ hhalt), onlyCore_onCore s _, ?_⟩
  rw [State.cur_onCore, hf q hkind hval, Core.updEng, Engine.take_of_none (hout.trans ho), hqueue, hq, List.tail_cons]

theorem regA_performs (e : Eng) (i : BitVec 4) (v : Word) : s.Performs e (.regA i) v fun c => c.updEng e fun y => y.setA i v :=
  performs_of_queuedWrite (by simp) (by simp) (fun q hk hv => by simp only [Core.queuedWrite, hk, hv])
    (by rw [Core.eng_updEng]; rfl) (by rw [Core.eng_updEng]; rfl)

theorem regLc_performs (e : Eng) (v : Word) :
    s.Performs e (.regLc 0) v (fun c => c.updEng e fun y => { y with lc0 := v.setWidth 32 }) ∧
    s.Performs e (.regLc 1) v (fun c => c.updEng e fun y => { y with lc1 := v.setWidth 32 }) :=
  ⟨performs_of_queuedWrite (by simp) (by simp) (fun q hk hv => by simp only [Core.queuedWrite, hk, hv, if_true])
      (by rw [Core.eng_updEng]) (by rw [Core.eng_updEng]),
    performs_of_queuedWrite (by simp) (by simp) (fun q hk hv => by simp only [Core.queuedWrite, hk, hv]; rfl)
      (by rw [Core.eng_updEng]) (by rw [Core.eng_updEng])⟩

/-- A C-side register that is no TSTAT entry is written as the registers say. -/
theorem sysreg_performs {x : BitVec 13} (v : Word) (hx : ¬ (0x030 ≤ x.toNat ∧ x.toNat < 0x040)) {f : Core → Core}
    (hw : s.cur.writeC x.toNat v = f s.cur) (hc : (f s.cur).c = s.cur.c) : s.Performs .c (.sysreg x) v f :=
  performs_of_queuedWrite (by simp) (by simp) (fun q hk hv => by simp only [Core.queuedWrite, hk, hv, if_neg hx, hw])
    (congrArg Engine.outer hc) (congrArg Engine.queue hc)

theorem engineRegisterWritesHold : EngineRegisterWritesHold := by
  intro s i a k l m x pr v tag
  refine ⟨fun e he h hp hq => moves_queue h hp i a k l he hq,
    fun h hq => ⟨fun hp => msel_queues h hp m hq, fun hx => swr_cside_queues h a hq hx⟩,
    fun e => ⟨regA_performs e i v, regLc_performs e v⟩, ?msel, ?ft, ?key0, ?key1⟩
  case msel => exact performs_of_queuedWrite (by simp) (by simp) (fun q hk _ => by simp only [Core.queuedWrite, hk]) rfl rfl
  case ft =>
    have hn : (BitVec.ofNat 13 (0x020 + tag.val)).toNat = 0x020 + tag.val := toNat_ofNat_13 (by omega)
    refine sysreg_performs v (by omega) ?_ rfl
    unfold Core.writeC
    rw [hn, if_pos (by omega), Nat.add_sub_cancel_left]
  case key0 => exact sysreg_performs v (by decide) rfl rfl
  case key1 => exact sysreg_performs v (by decide) rfl rfl

/-! #### Pips of S (R84, R85) -/

/-- Sending the combining buffers of the current core empties them, and changes no other register and no byte. -/
theorem sendAllCombs_spec (s : State) :
    (s.sendAllCombs s.agent).turn = s.turn ∧ (s.sendAllCombs s.agent).cur = { s.cur with comb := [] } ∧
      ∀ l, (s.sendAllCombs s.agent).byteAt l = s.byteAt l := by
  have hturn : (s.sendAllCombs s.agent).turn = s.turn := by
    refine foldl_keeps State.turn (fun a b => ?_) (s.core s.agent).comb s
    unfold State.sendComb
    exact foldl_keeps State.turn (f := fun (x : State) (r : Nat × List Byte) => x.sendSys (.store s.agent (.seq .s) (b.loc.plus r.1) r.2))
      (fun _ _ => rfl) _ a
  refine ⟨hturn, ?_, fun l => (byteAt_updCore _ _ _ l).trans (congrFun (byteAt_sendCombs _ _ _) l)⟩
  show (s.sendAllCombs s.agent).core (s.sendAllCombs s.agent).agent = _
  rw [State.agent_congr hturn, State.sendAllCombs, State.core_updCore_self, State.core_congr (sendCombs_cores _ _ _)]
  rfl

section Pips

variable (hu : s.InUser) (h : s.Plain) {pr : BitVec 3} (hp : s.p pr = true) {ch : BitVec 5}

include h hp in
theorem exec_pippush (hc : ch = 0 ∨ ch = 7) : exec (.pippush ch pr) s = .next (
    if s.memPending || s.sysPending || !s.cur.comb.isEmpty then (s.sendAllCombs s.agent).await .memory
    else if s.cur.pipRoom ch.toNat then (s.onCore fun x => x.pushPip ch.toNat s.pts).advance else s.await (.pipPush ch.toNat)) := by
  have hl : (Instr.pippush ch pr).legal = true := by rcases hc with rfl | rfl <;> rfl
  exact (exec_guarded h hp hl rfl).trans rfl

/-- What PIPPUSH waits for: an earlier access of S that has not performed, a posted or combined one too (R85). -/
theorem outstanding_iff : (s.memPending || s.sysPending || !s.cur.comb.isEmpty) = true ↔ ¬ (s.memPending = false ∧ s.SysQuiet) := by
  simp only [State.SysQuiet, Bool.or_eq_true, Bool.not_eq_true', List.isEmpty_eq_false_iff]
  cases s.memPending <;> cases s.sysPending <;> simp

include hu h hp in
/-- An earlier access that has not performed: PIPPUSH sends the combining buffers and waits. -/
theorem pippush_waits_memory (hc : ch = 0 ∨ ch = 7) (hb : ¬ (s.memPending = false ∧ s.SysQuiet)) :
    Completes (.pippush ch pr) s (fun t => t.pc = s.pc ∧ t.ctx.stat = .waiting .memory ∧ t.cur.comb = [] ∧ s.SameG t ∧
      (∀ j, t.cur.pip j = s.cur.pip j) ∧ ∀ l, t.byteAt l = s.byteAt l) := by
  refine ⟨_, exec_pippush h hp hc, ?_⟩
  rw [if_pos (outstanding_iff.mpr hb)]
  obtain ⟨hturn, hcur, hbyte⟩ := sendAllCombs_spec s
  generalize s.sendAllCombs s.agent = u at hturn hcur hbyte
  have hh : u.inHusk = false := by rw [State.inHusk, State.who, hturn]; exact hu.inHusk
  have hctx : u.ctx = s.ctx := by rw [State.ctx, hh, hcur, State.ctx, hu.inHusk]; rfl
  have hwait : (u.await .memory).ctx = s.ctx.await .memory u.fresh := by rw [State.ctx_await, hctx]
  refine ⟨pc_of_ctx hwait rfl, by rw [hwait, Ctx.stat_await], ?_, sameG_of_ctx hwait rfl, fun j => ?_,
    fun l => ((onlyCtx_await u _).1.2.2 l).trans (hbyte l)⟩
  · rw [State.cur_await, hh, hcur]; rfl
  · rw [State.cur_await, Core.pip_setCtx, hcur]; rfl

include hu h hp in
theorem pippush_pushes (hc : ch = 0 ∨ ch = 7) (hm : s.memPending = false) (hq : s.SysQuiet) (hroom : (s.cur.pip ch.toNat).length < 16) :
    Completes (.pippush ch pr) s (fun t => s.OnlyCore t ∧ s.SameG t ∧ s.SameP t ∧ t.StandsAt (s.pc + 4) ∧
      t.cur = { s.cur with user := t.cur.user, pips := t.cur.pips } ∧
      ∀ j, t.cur.pip j = if j = ch.toNat then s.cur.pip j ++ [s.cur.pts] else s.cur.pip j) := by
  refine ⟨_, exec_pippush h hp hc, ?_⟩
  rw [if_neg fun hb => outstanding_iff.mp hb ⟨hm, hq⟩, if_pos (by simpa [Core.pipRoom] using hroom)]
  have hpts : s.pts = s.cur.pts := by rw [State.pts, hu.1]; rfl
  rw [hpts]
  obtain ⟨ho, hg, hq, hat, hcur⟩ := advances_onCore hu (onlyCore_onCore s fun x => x.pushPip ch.toNat s.cur.pts)
    (by rw [State.ctx_onCore, Core.ctx_pushPip]; rfl)
  refine ⟨ho, hg, hq, hat, hcur.trans ?_, fun j => ?_⟩
  · rw [hcur, State.cur_onCore]; rfl
  · rw [State.cur_advance, Core.pip_setCtx, State.cur_onCore, Core.pip_pushPip]
    by_cases hj : ch.toNat = j
    · rw [if_pos hj, if_pos hj.symm, hj]
    · rw [if_neg hj, if_neg (Ne.symm hj)]

include h hp in
theorem pippush_waits_room (hc : ch = 0 ∨ ch = 7) (hm : s.memPending = false) (hq : s.SysQuiet) (hfull : 16 ≤ (s.cur.pip ch.toNat).length) :
    Completes (.pippush ch pr) s (fun t => s.OnlyCtx t ∧ t.pc = s.pc ∧ t.ctx.stat = .waiting (.pipPush ch.toNat)) := by
  refine ⟨_, exec_pippush h hp hc, ?_⟩
  rw [if_neg fun hb => outstanding_iff.mp hb ⟨hm, hq⟩, if_neg (by simpa [Core.pipRoom] using hfull)]
  obtain ⟨hctx, -, -, hpc, hstat⟩ := waits_await s (.pipPush ch.toNat)
  exact ⟨hctx, hpc, hstat⟩

theorem legal_pippop (hc : ch = 1 ∨ ch = 6) (pr : BitVec 3) : (Instr.pippop ch pr).legal = true := by rcases hc with rfl | rfl <;> rfl

include hu h hp in
theorem pippop_pops (hc : ch = 1 ∨ ch = 6) {ts : Word} {r : List Word} (hpip : s.cur.pip ch.toNat = ts :: r) :
    Completes (.pippop ch pr) s (fun t => s.OnlyCore t ∧ s.SameG t ∧ s.SameP t ∧ t.StandsAt (s.pc + 4) ∧
      t.cur = { s.cur with user := t.cur.user, pips := t.cur.pips, pts := wmax s.cur.pts ts } ∧
      ∀ j, t.cur.pip j = if j = ch.toNat then r else s.cur.pip j) := by
  refine ⟨((s.onCore fun x => x.popPip ch.toNat).raisePts ts).advance,
    (exec_guarded h hp (legal_pippop hc pr) rfl).trans (by simp only [hpip]), ?_⟩
  have hu1 : ((s.onCore fun x => x.popPip ch.toNat).raisePts ts).cur = { s.cur.popPip ch.toNat with pts := wmax s.cur.pts ts } := by
    rw [State.cur_raisePts, State.cur_onCore, State.who_onCore, hu.1]; rfl
  obtain ⟨ho, hg, hq, hat, hcur⟩ := advances_onCore hu (u := (s.onCore fun x => x.popPip ch.toNat).raisePts ts)
    ((onlyCore_onCore s _).trans (onlyCore_onCore _ _))
    (by rw [State.ctx_raisePts, State.ctx_onCore, Core.ctx_popPip]; rfl)
  refine ⟨ho, hg, hq, hat, hcur.trans ?_, fun j => ?_⟩
  · rw [hcur, hu1]; rfl
  · rw [State.cur_advance, Core.pip_setCtx, hu1]
    refine (Core.pip_popPip s.cur ch.toNat j).trans ?_
    by_cases hj : ch.toNat = j
    · rw [if_pos hj, if_pos hj.symm, hpip, List.tail_cons]
    · rw [if_neg hj, if_neg (Ne.symm hj)]

include h hp in
theorem pippop_waits (hc : ch = 1 ∨ ch = 6) (hpip : s.cur.pip ch.toNat = []) :
    Completes (.pippop ch pr) s (fun t => s.OnlyCtx t ∧ t.pc = s.pc ∧ t.ctx.stat = .waiting (.pipPop ch.toNat)) := by
  obtain ⟨hctx, -, -, hpc, hstat⟩ := waits_await s (.pipPop ch.toNat)
  exact ⟨_, (exec_guarded h hp (legal_pippop hc pr) rfl).trans (by simp only [hpip]), hctx, hpc, hstat⟩

end Pips

theorem pipWordsHold : PipWordsHold := fun _ _ hu h hp =>
  ⟨fun _ hc hb => pippush_waits_memory hu h hp hc hb,
    fun _ hc hm hq => ⟨fun hroom => pippush_pushes hu h hp hc hm hq hroom, fun hfull => pippush_waits_room h hp hc hm hq hfull⟩,
    fun _ hc => ⟨fun _ _ hpip => pippop_pops hu h hp hc hpip, fun hpip => pippop_waits h hp hc hpip⟩⟩

/-- Settles O7: a register write goes to the end of a queue (`queued_queueWrite`) and performs at its head
(`performs_of_queuedWrite`); PIPPUSH by what is outstanding and by its channel (`exec_pippush`), PIPPOP by its channel
(`pippop_pops`, `pippop_waits`). -/
theorem pipsAndRegisterWrites : Obligations.PipsAndRegisterWrites := ⟨engineRegisterWritesHold, pipWordsHold⟩

end Sys2Proof.Machine
end

section
/-! ### Traps that go to Husk: the record in the fault ring (R64, R90, R354) -/

namespace Sys2Proof.Machine

variable {s : State}

/-! #### Fault rings -/

/-- The record stands in the slot that was next, and the ring of its partition, and no other, advances by one. -/
theorem recordFault_ring {n : Nat} {p : Part} (hp : Cells.find? s.parts n = some p) (r : FaultRec) :
    (s.recordFault n r).natAt (.pkg p.ringSlot) 64 = r.bytes % 256 ^ 64 ∧
    (s.recordFault n r).parts = Cells.put s.parts n { p with ringNext := p.ringNext + 1 } := by
  have hrec : s.recordFault n r = ((s.updPart n fun x => { x with ringNext := x.ringNext + 1 }).writeAt [] true r.pts
      (.pkg p.ringSlot) 64 r.bytes).1 := by
    unfold State.recordFault
    rw [hp]
    rfl
  rw [hrec]
  constructor
  · exact natAt_putNat _ _ _ _
  · obtain ⟨m, ls, hw⟩ := writeAt_pkg_spec (s.updPart n fun x => { x with ringNext := x.ringNext + 1 }) true r.pts p.ringSlot 64 r.bytes
    rw [hw, State.updPart, hp]

theorem recordFor_of_partOf {n i : Nat} (h : s.partOf n = some i) (r : FaultRec) : s.recordFor n r = s.recordFault i r := by
  simp only [State.recordFor, h]

/-- What fits into the fields of a record fits into its 64 bytes (Table 19.3). -/
theorem FaultRec.bytes_lt {r : FaultRec} (hs : r.source < 2 ^ 8) (hf : r.flags < 2 ^ 16) (hc : r.core < 2 ^ 16) (ht : r.token < 2 ^ 16) :
    r.bytes < 256 ^ 64 := by
  have := r.flt.cause.isLt
  have := r.at_.isLt
  have := r.flt.addr.isLt
  have := r.flt.info.isLt
  have := r.iterNo.isLt
  have := r.pts.isLt
  unfold FaultRec.bytes
  omega

/-! #### The entry of R90 to Husk -/

/-- The trap registers hold the trap (R90). -/
def State.withTrap (s : State) (f : Flt) (at_ : Word) : State := s.onCore fun c => { c with trap := c.trap.set f at_ }

/-- They do not tell for whom an agent works. -/
theorem partOf_withTrap (s : State) (f : Flt) (at_ : Word) (n : Nat) : (s.withTrap f at_).partOf n = s.partOf n := by
  have hb : ((s.withTrap f at_).core n).binding = (s.core n).binding := by
    by_cases hn : n = s.agent
    · rw [hn, State.withTrap, State.onCore, State.core_updCore_self]
    · rw [State.withTrap, State.core_onCore_ne s hn]
  unfold State.partOf State.launchOf
  rw [hb]
  rfl

/-- A trap that the user handler does not take: the registers, the record, Husk, and S stopped. -/
theorem takeTrap_toHusk (hu : s.InUser) {f : Flt} (hh : ¬ s.HandlerTakes f.cause) (at_ : Word) :
    s.takeTrap f at_ = (((s.withTrap f at_).recordFor s.agent
      (s.faultRec s.agent (srcOf s.agent) (if f.cause == 0x04 && f.info.getLsbD 3 then 3 else 1) 0 at_ f s.cur.pts)).enterHusk s.agent).onCore
        fun x => { x with user := { x.user with stat := .trapped none } } := by
  have hto : s.cur.toUser f.cause = false := Bool.eq_false_iff.mpr fun h => hh ((toUser_iff s f.cause).mp h)
  simp only [State.takeTrap, hu.inHusk, hu.2, hto, Bool.false_eq_true, if_false, Bool.false_and]
  rfl

/-- The record of a precise trap of S of a core, byte by byte (Table 19.3). -/
theorem bytes_faultRec_s (hn : s.agent < 256) (f : Flt) :
    (s.faultRec s.agent (srcOf s.agent) 1 0 s.pc f s.cur.pts).bytes = s.recordOfS f.cause f.addr f.info := by
  simp only [FaultRec.bytes, State.faultRec, State.recordOfS, srcOf, nameOf, if_pos hn, State.cur]
  omega

theorem recordOfS_lt (hn : s.agent < 256) (f : Flt) : s.recordOfS f.cause f.addr f.info < 256 ^ 64 := by
  rw [← bytes_faultRec_s hn f]
  refine FaultRec.bytes_lt ?_ (by decide : (1 : Nat) < 2 ^ 16) ?_ (by decide : (0xFFFF : Nat) < 2 ^ 16)
  · show srcOf s.agent < 2 ^ 8
    rw [srcOf, if_pos hn]
    decide
  · show nameOf s.agent < 2 ^ 16
    rw [nameOf, if_pos hn]
    omega

/-- A trap of S that goes to Husk leaves its record in the ring of the partition. -/
theorem takeTrap_recorded (hu : s.InUser) (hn : s.agent < 256) {f : Flt} (hh : ¬ s.HandlerTakes f.cause) (hc : f.cause ≠ 0x04) {n : Nat}
    {p : Part} (hpart : s.partOf s.agent = some n) (hp : Cells.find? s.parts n = some p) :
    (s.takeTrap f s.pc).natAt (.pkg p.ringSlot) 64 = s.recordOfS f.cause f.addr f.info ∧
    Cells.find? (s.takeTrap f s.pc).parts n = some { p with ringNext := p.ringNext + 1 } := by
  have hflags : (f.cause == 0x04 && f.info.getLsbD 3) = false := by rw [beq_false_of_ne hc, Bool.false_and]
  rw [takeTrap_toHusk hu hh, hflags, if_neg (by decide), recordFor_of_partOf ((partOf_withTrap s f s.pc _).trans hpart)]
  obtain ⟨hrec, hparts⟩ := recordFault_ring (s := s.withTrap f s.pc) hp
    (s.faultRec s.agent (srcOf s.agent) 1 0 s.pc f s.cur.pts)
  constructor
  · refine (natAt_congr (funext fun l => ?_) _ _).trans (hrec.trans ?_)
    · exact (byteAt_updCore _ _ _ l).trans (byteAt_updCore _ _ _ l)
    · rw [bytes_faultRec_s hn, Nat.mod_eq_of_lt (recordOfS_lt hn f)]
  · refine (congrArg (Cells.find? · n) hparts).trans (Cells.find?_put_self _ _ _)

/-- Settles O13: UDF takes `ILLEGAL`, and a trap that goes to Husk is recorded (`takeTrap_recorded`). -/
theorem trapToHuskIsRecorded : Obligations.TrapToHuskIsRecorded := fun s x _ _ hu h hn hh hpart hp =>
  ⟨_, exec_udf h x, takeTrap_recorded hu hn (f := ⟨0x01, 0, (wordOf (.udf x)).setWidth 64⟩) hh
    (show (0x01 : BitVec 8) ≠ 0x04 by decide) hpart hp⟩

end Sys2Proof.Machine
end

section
/-! ### Retirement, YIELD, GEND and the X words (R11, R23, R59, R64, R93, R94, R243, R309) -/

namespace Sys2Proof.Machine

variable {s : State}

/-! #### HALT and GEND (R11, R23, R93, R309) -/

/-- Outside the surrogate phase, and not at its end, S is in no guarded region. -/
theorem inGuard_eq_false (hu : s.InUser) (hg : s.ctx.stat ≠ .waiting .guardEnd) : s.inGuard = false := by
  simp [State.inGuard, State.surrogateNow, hu.2, hg]

/-- One halt marker at the end of a queue. -/
def Engine.marked (x : Engine) (at_ : Word) (beat : BitVec 32) : Engine :=
  { x with queue := x.queue ++ [⟨.halt, 0, at_, 0, 0, x.steered, beat⟩] }

/-- The core after S has retired (R23). -/
def Core.retires (c : Core) : Core :=
  { c with
    user := { c.user.goto c.user.pc with stat := .retired c.user.pc }, l := c.l.marked c.user.pc c.team.beat,
    c := c.c.marked c.user.pc c.team.beat, t := c.t.marked c.user.pc c.team.beat }

theorem retire_spec (hu : s.InUser) : s.OnlyCore s.retire ∧ s.retire.cur = s.cur.retires := by
  unfold State.retire
  refine ⟨(onlyCtx_onCtx s _).1.trans (onlyCore_onCore _ _), ?_⟩
  simp only [State.cur_onCore, State.cur_onCtx, State.ctx, hu.inHusk]
  rfl

theorem marked_retires {t : State} (h : t.cur = s.cur.retires) (e : Eng) : s.Marked t e := by
  refine ⟨⟨.halt, 0, s.cur.user.pc, 0, 0, (s.cur.eng e).steered, s.cur.team.beat⟩, rfl, ?_⟩
  rw [h]
  cases e <;> rfl

section Halt

variable (h : s.Plain) {pr : BitVec 3} (hp : s.p pr = true)

include h hp in
theorem exec_halt_user (hu : s.InUser) (hg : s.ctx.stat ≠ .waiting .guardEnd) (hc : s.cur.capturing = false) :
    exec (.halt pr) s = .next (if s.memPending then s.await .memory else s.retire) :=
  (exec_guarded h hp rfl rfl).trans (by simp only [hu.inHusk, hc, inGuard_eq_false hu hg, Bool.false_eq_true, if_false])

include h hp in
theorem halt_retires (hu : s.InUser) (hg : s.ctx.stat ≠ .waiting .guardEnd) (hc : s.cur.capturing = false) (hm : s.memPending = false) :
    Completes (.halt pr) s (fun t => s.OnlyCore t ∧ s.SameG t ∧ s.SameP t ∧ t.pc = s.pc ∧ t.ctx.stat = .retired s.pc ∧
      t.cur = { s.cur with user := t.cur.user, l := t.cur.l, c := t.cur.c, t := t.cur.t } ∧ ∀ e, s.Marked t e) := by
  refine ⟨_, exec_halt_user h hp hu hg hc, ?_⟩
  rw [hm, if_neg (by decide)]
  obtain ⟨ho, hcur⟩ := retire_spec hu
  have hctx : s.retire.ctx = { s.ctx.goto s.pc with stat := .retired s.pc } := by
    simp only [State.ctx, State.pc, ho.inHusk, hu.inHusk, hcur]
    rfl
  refine ⟨ho, sameG_of_ctx hctx rfl, sameP_of_ctx hctx rfl, pc_of_ctx hctx rfl, by rw [hctx], ?_,
    marked_retires hcur⟩
  rw [hcur]
  rfl

include h hp in
theorem halt_waits (hu : s.InUser) (hg : s.ctx.stat ≠ .waiting .guardEnd) (hc : s.cur.capturing = false) (hm : s.memPending = true) :
    Completes (.halt pr) s (fun t => s.OnlyCtx t ∧ s.SameG t ∧ s.SameP t ∧ t.pc = s.pc ∧ t.ctx.stat = .waiting .memory) := by
  refine ⟨_, exec_halt_user h hp hu hg hc, ?_⟩
  rw [hm, if_pos rfl]
  exact waits_await s .memory

include h hp in
theorem halt_traps (hu : s.InUser) (hc : s.cur.capturing = true) : Completes (.halt pr) s (s.TrappedIllegal (wordOf (.halt pr))) := by
  refine ⟨s.illegal (.halt pr), (exec_guarded h hp rfl rfl).trans ?_, trappedIllegal hu _⟩
  simp only [hu.inHusk, hc, Bool.false_eq_true, if_false, if_true]

include h hp in
theorem gend_two (hu : s.InUser) (hg : s.ctx.stat ≠ .waiting .guardEnd) (d : BitVec 5) : Completes (.gend d pr) s (s.Result d 2) := by
  refine ⟨s.result d 2, (exec_guarded h hp rfl rfl).trans ?_, result_result s d 2⟩
  simp only [inGuard_eq_false hu hg, Bool.false_eq_true, if_false]
  rfl

include h hp in
theorem halt_stops_husk (hh : s.inHusk = true) : Completes (.halt pr) s (fun t =>
    s.OnlyCtx t ∧ s.SameG t ∧ s.SameP t ∧ t.pc = s.pc ∧ t.ctx.stat = .stopped none) := by
  have hctx := State.ctx_onCtx s fun x => { x with stat := .stopped none }
  refine ⟨s.onCtx fun x => { x with stat := .stopped none }, (exec_guarded h hp rfl rfl).trans ?_, onlyCtx_onCtx s _,
    sameG_of_ctx hctx rfl, sameP_of_ctx hctx rfl, pc_of_ctx hctx rfl, by rw [hctx]⟩
  simp only [hh, if_true]

end Halt

/-! #### The members of a gang that stops (R354, R361) -/

/-- Two states whose partitions have their fault rings at the same places. -/
def State.SameRings (s t : State) : Prop :=
  ∀ i, (Cells.find? t.parts i).map (fun p => (p.ringBase, p.ringLog)) = (Cells.find? s.parts i).map fun p => (p.ringBase, p.ringLog)

theorem State.SameRings.inRings {t : State} (h : s.SameRings t) {l : Loc} (hl : t.InRings l) : s.InRings l := by
  obtain ⟨i, p, a, hp, hla, hlo, hhi⟩ := hl
  have hi := h i
  rw [hp, Option.map_some, eq_comm, Option.map_eq_some_iff] at hi
  obtain ⟨q, hq, hpq⟩ := hi
  obtain ⟨hbase, hlog⟩ := Prod.mk.inj hpq
  exact ⟨i, q, a, hq, hla, hbase ▸ hlo, hbase ▸ hlog ▸ hhi⟩

/-- A record moves no ring. -/
theorem sameRings_recordFor (s : State) (n : Nat) (r : FaultRec) : s.SameRings (s.recordFor n r) := by
  intro i
  cases hpart : s.partOf n with
  | none => simp only [State.recordFor, hpart]
  | some k =>
    rw [recordFor_of_partOf hpart]
    cases hp : Cells.find? s.parts k with
    | none => simp only [State.recordFault, hp]
    | some p =>
      rw [(recordFault_ring hp r).2, Cells.find?_put]
      split
      · rename_i hki; subst hki; rw [hp]; rfl
      · rfl

/-- A record changes no byte outside the rings. -/
theorem byteAt_recordFor_of_not_inRings (n : Nat) (r : FaultRec) {l : Loc} (h : ¬ s.InRings l) : (s.recordFor n r).byteAt l = s.byteAt l := by
  refine byteAt_recordFor_asS s n r ?_
  rintro ⟨i, p, a, -, hp, hl, hlo, hhi⟩
  have hslot : p.ringNext % 2 ^ p.ringLog < 2 ^ p.ringLog := Nat.mod_lt _ (Nat.two_pow_pos _)
  unfold Part.ringSlot at hlo hhi
  exact h ⟨i, p, a, hp, hl, by omega, by omega⟩

/-- What the stop of members leaves: whose turn it is, the gangs, the bytes outside the fault rings. -/
theorem preemptMembers_frame (s : State) (l : List Nat) :
    (l.foldl State.preemptMember s).turn = s.turn ∧ (l.foldl State.preemptMember s).gangs = s.gangs ∧
      ∀ p, ¬ s.InRings p → (l.foldl State.preemptMember s).byteAt p = s.byteAt p := by
  refine ⟨foldl_keeps State.turn (f := State.preemptMember) (fun a m => State.recordFor_turn a m _) l s,
    foldl_keeps State.gangs (f := State.preemptMember) (fun a m => recordFor_gangs a m _) l s, fun p hp => ?_⟩
  have hstep : ∀ (a : State) m, a.SameRings (a.preemptMember m) ∧ (¬ a.InRings p → (a.preemptMember m).byteAt p = a.byteAt p) := fun a m =>
    ⟨sameRings_recordFor a m _, fun ha =>
      ((byteAt_updCore _ _ _ p).trans (byteAt_updCore _ _ _ p)).trans (byteAt_recordFor_of_not_inRings m _ ha)⟩
  exact (List.foldlRecOn (motive := fun a : State => ¬ a.InRings p ∧ a.byteAt p = s.byteAt p) l State.preemptMember ⟨hp, rfl⟩
    fun a ⟨hr, hb⟩ m _ => ⟨fun h => hr ((hstep a m).1.inRings h), ((hstep a m).2 hr).trans hb⟩).2

theorem preemptMember_local (a : State) (k m : Nat) (h : k ≠ m) : (a.preemptMember k).core m = a.core m := by
  rw [core_preemptMember, if_neg h]

/-- A member that stops: the cause of a preemption, and its place. -/
theorem preempt_spec (c : Core) (x : Ctx) :
    (Core.preempt { c.endPair with husk := x }).trap.cause = 0x14 ∧ (Core.preempt { c.endPair with husk := x }).user = c.user.stop := by
  rw [Core.endPair_eq]
  exact ⟨rfl, rfl⟩

/-- A context that runs stops outside any wait, and stays so. -/
theorem Ctx.stop_of_running {x : Ctx} (h : x.stat = .running ∨ x.stat = .stopped none) : x.stop.stat = .stopped none := by
  unfold Ctx.stop
  rcases h with h | h <;> rw [h]

/-- A member of the list whose S runs has stopped with the cause `PREEMPT`. -/
theorem preemptMembers_stop {l : List Nat} {m : Nat} (hm : m ∈ l) (h : (s.core m).user.stat = .running) :
    ((l.foldl State.preemptMember s).core m).user.stat = .stopped none ∧ ((l.foldl State.preemptMember s).core m).trap.cause = 0x14 := by
  refine core_foldl_of_mem (Q := fun c => c.user.stat = .running ∨ c.user.stat = .stopped none)
    (R := fun c => c.user.stat = .stopped none ∧ c.trap.cause = 0x14) preemptMember_local hm (fun a ha => ?_) (fun c hc => .inr hc.1) (.inl h)
  rw [core_preemptMember, if_pos rfl]
  obtain ⟨hcause, huser⟩ := preempt_spec (a.core m) ((a.core m).endPair.husk.goto a.huskEntry)
  exact ⟨by rw [huser]; exact Ctx.stop_of_running ha, hcause⟩

/-- No member leaves its place. -/
theorem preemptMembers_pc (s : State) (l : List Nat) (m : Nat) : ((l.foldl State.preemptMember s).core m).user.pc = (s.core m).user.pc := by
  refine foldl_keeps (fun a : State => (a.core m).user.pc) (fun a k => ?_) l s
  rw [core_preemptMember]
  split
  · rename_i hk
    subst hk
    rw [(preempt_spec _ _).2]
    rfl
  · rfl

/-! #### YIELD (R94, R243) -/

theorem preemptGang_eq {i : Nat} {g : Gang} (hg : Cells.find? s.gangs i = some g) (hst : g.state = .bound)
    (hsur : (g.members.find? fun m => (s.core m).surrogate) = none) :
    s.preemptGang i = ((s.membersOf g).foldl State.preemptMember s).updGang i fun y => { y with state := .saving, saved := [] } := by
  simp only [State.preemptGang, hg, hst, ne_eq, not_true_eq_false, if_false, hsur]

/-- S is at the next word, and its gang makes room for a launch. -/
def State.yielded (s : State) (i : Nat) (g : Gang) (id : Nat) : State :=
  ((((s.membersOf g).foldl State.preemptMember s.advance).updGang i fun y => { y with state := .saving, saved := [] }).updGang i
    fun y => { y with gaveWay := true }).updPart ((s.partOf s.agent).getD 0) fun p => { p with claim := some id }

theorem yielded_spec (s : State) (i : Nat) (g : Gang) (id : Nat) :
    (s.yielded i g id).turn = s.turn ∧ (s.yielded i g id).cores = ((s.membersOf g).foldl State.preemptMember s.advance).cores ∧
    (∀ l, ¬ s.InRings l → (s.yielded i g id).byteAt l = s.byteAt l) ∧
    Cells.find? (s.yielded i g id).gangs i = (Cells.find? s.gangs i).map fun y => { y with state := .saving, saved := [], gaveWay := true } := by
  obtain ⟨hturn, hgangs, hbyte⟩ := preemptMembers_frame s.advance (s.membersOf g)
  unfold State.yielded
  generalize (s.membersOf g).foldl State.preemptMember s.advance = u at hturn hgangs hbyte
  refine ⟨by simp [hturn], by simp, fun l hl => ?_, ?_⟩
  · have hr : s.advance.InRings l → s.InRings l := fun h => h
    exact (State.byteAt_congr (by simp) (by simp) (by simp) (by simp) l).trans ((hbyte l fun h => hl (hr h)).trans ((onlyCtx_advance s).1.2.2 l))
  · rw [State.updPart_gangs, State.find?_updGang, if_pos rfl, State.find?_updGang, if_pos rfl, hgangs, Option.map_map]
    rfl

theorem surrogate_advance (s : State) (m : Nat) : (s.advance.core m).surrogate = (s.core m).surrogate := by
  by_cases hm : m = s.agent
  · rw [hm, show s.advance.core s.agent = _ from State.cur_advance s]
    cases s.inHusk <;> rfl
  · rw [State.advance, State.core_onCtx_ne s hm]

section Yield

variable (h : s.Plain) {pr : BitVec 3} (hp : s.p pr = true)

include h hp in
/-- With no ready work for its cores YIELD only goes on. -/
theorem yield_skips (hy : ∀ g b, s.gangOf s.agent = some g → s.cur.binding = some b → s.yieldsTo b.gang g = none) :
    Completes (.yield pr) s s.Skips := by
  refine ⟨s.advance, (exec_guarded h hp rfl rfl).trans ?_, skips_advance s⟩
  cases hg : s.gangOf s.agent with
  | none => rfl
  | some g =>
    cases hb : s.cur.binding with
    | none => rfl
    | some b => simp only [hy g b hg hb]

include h hp in
theorem exec_yield_gives_way (hu : s.InUser) {g : Gang} {b : Binding} {id : Nat} (hg : s.gangOf s.agent = some g) (hb : s.cur.binding = some b)
    (hy : s.yieldsTo b.gang g = some id) (hfind : Cells.find? s.gangs b.gang = some g) (hst : g.state = .bound)
    (hsur : (g.members.all fun m => !(s.core m).surrogate) = true) : exec (.yield pr) s = .next (s.yielded b.gang g id) := by
  have hnone : (g.members.find? fun m => (s.advance.core m).surrogate) = none := by
    rw [List.find?_eq_none]
    intro m hm
    rw [surrogate_advance]
    simpa using List.all_eq_true.mp hsur m hm
  refine (exec_guarded h hp rfl rfl).trans ?_
  simp only [hg, hb, hy, hu.2, Bool.false_eq_true, if_false, preemptGang_eq (s := s.advance) hfind hst hnone]
  rfl

include h hp in
/-- With ready work for its cores the gang is being saved, and S goes on behind YIELD after it. -/
theorem yield_gives_way (hu : s.InUser) {g : Gang} {b : Binding} {id : Nat} (hg : s.gangOf s.agent = some g) (hb : s.cur.binding = some b)
    (hy : s.yieldsTo b.gang g = some id) (hst : g.state = .bound) (hsur : (g.members.all fun m => !(s.core m).surrogate) = true) :
    Completes (.yield pr) s (fun t =>
      t.pc = s.pc + 4 ∧ (∀ l, ¬ s.InRings l → t.byteAt l = s.byteAt l) ∧
      (s.agent ∈ s.membersOf g → t.cur.user.stat = .stopped none ∧ t.cur.trap.cause = 0x14) ∧
      ∃ y, Cells.find? t.gangs b.gang = some y ∧ y.state = .saving ∧ y.members = g.members) := by
  have hfind : Cells.find? s.gangs b.gang = some g := by
    unfold State.gangOf at hg
    rwa [show (s.core s.agent).binding = some b from hb] at hg
  refine ⟨_, exec_yield_gives_way h hp hu hg hb hy hfind hst hsur, ?_⟩
  obtain ⟨hturn, hcores, hbyte, hgangs⟩ := yielded_spec s b.gang g id
  generalize s.yielded b.gang g id = t at hturn hcores hbyte hgangs
  have hcur : t.cur = ((s.membersOf g).foldl State.preemptMember s.advance).core s.agent := by
    rw [State.cur, State.agent_congr hturn, State.core_congr hcores]
  have huser : (s.advance.core s.agent).user = s.ctx.goto (s.pc + 4) := by
    rw [show s.advance.core s.agent = _ from State.cur_advance s, hu.inHusk]
    rfl
  refine ⟨?_, hbyte, fun hm => ?_, _, hgangs.trans (congrArg _ hfind), rfl, rfl⟩
  · have hh : t.inHusk = false := by rw [State.inHusk, State.who, hturn]; exact hu.inHusk
    rw [State.pc, State.ctx, hh, hcur]
    exact (preemptMembers_pc _ _ _).trans (by rw [huser]; rfl)
  · rw [hcur]
    exact preemptMembers_stop hm (by rw [huser]; rfl)

end Yield

theorem retireAndYieldHold : RetireAndYieldHold := fun _ d _ h hp =>
  ⟨fun hu hg => ⟨halt_retires h hp hu hg, halt_waits h hp hu hg, halt_traps h hp hu, gend_two h hp hu hg d⟩, halt_stops_husk h hp,
    yield_skips h hp, fun _ _ _ hu hg hb hy hst hsur => yield_gives_way h hp hu hg hb hy hst hsur⟩

/-! #### X words (R59) -/

/-- S keeps an X word with its address, and stands at the next word. -/
def State.latched (s : State) (mk : Word → Prefix) : State :=
  s.onCtx fun x => { x with pc := x.pc + 4, pfx := mk x.pc, stat := .running }

theorem latch_s (hw : s.who = .s ∨ s.who = .husk) (h : s.Plain) (mk : Word → Prefix) : latch mk s = s.latched mk := by
  obtain ⟨hpfx, hpend⟩ := h
  rcases hw with hw | hw <;> simp only [latch, hw, hpend, hpfx, Prefix.word, State.latched]

theorem latched_spec (h : s.Plain) (mk : Word → Prefix) :
    s.OnlyCtx (s.latched mk) ∧ s.SameG (s.latched mk) ∧ s.SameP (s.latched mk) ∧ (s.latched mk).pc = s.pc + 4 ∧
      (s.latched mk).ctx.pfx = mk s.pc ∧ (s.latched mk).ctx.pend = none ∧ (s.latched mk).ctx.stat = .running :=
  have hctx : (s.latched mk).ctx = { s.ctx with pc := s.pc + 4, pfx := mk s.pc, stat := .running } := State.ctx_onCtx s _
  ⟨onlyCtx_onCtx s _, sameG_of_ctx hctx rfl, sameP_of_ctx hctx rfl, pc_of_ctx hctx rfl, by rw [hctx],
    by rw [hctx]; exact h.2, by rw [hctx]⟩

/-- Of two X words the first one is illegal. -/
theorem latch_second (hu : s.InUser) (hpend : s.ctx.pend = none) {y : BitVec 27} {a : Word} (hpfx : s.ctx.pfx = .ext y a)
    (mk : Word → Prefix) : s.Trapped 0x01 a 0 ((wordOf (.xExt y)).setWidth 64) (latch mk s) := by
  have hl : latch mk s = s.illegalWord (wordOf (.xExt y)) a := by
    simp only [latch, hu.1, hpend, hpfx, Prefix.word]
    rfl
  rw [hl]
  exact trapped_takeTrap hu ⟨0x01, 0, (wordOf (.xExt y)).setWidth 64⟩ a

/-- An engine keeps the X word at which it stands. -/
theorem latch_engine {e : Eng} (hw : s.who = e.seq) {q : QEntry} (hq : (s.cur.eng e).entry = some q) (mk : Word → Prefix) :
    s.OnlyCore (latch mk s) ∧ (latch mk s).cur = s.cur.setEng e ((s.cur.eng e).latch (mk q.at_)) := by
  have hl : latch mk s = s.onEng e fun x => x.latch (mk ((x.entry.map fun y => y.at_).getD 0)) := by
    cases e <;> simp only [latch, hw, Eng.seq, engOf]
  rw [hl]
  refine ⟨onlyCore_onEng s e _, ?_⟩
  rw [State.cur_onEng, Core.updEng, hq]
  rfl

/-- At the head of the queue, outside a loop. -/
theorem Engine.latch_of_queue {x : Engine} {q : QEntry} {r : List QEntry} (hq : x.queue = q :: r) (ho : x.outer = none)
    (hi : x.inner = none) (p : Prefix) : x.latch p = { x with queue := r, pfx := p, stat := .ready } := by
  simp [Engine.latch, Engine.take_of_none ho, Engine.closeInner, hi, Engine.closeOuter, ho, hq]

/-- In loop memory, before the end of the body. -/
theorem Engine.latch_of_loopMem {x : Engine} {q : QEntry} {l : LoopSt} (hq : x.loopMem[x.lp]? = some q) (ho : x.outer = some l)
    (hi : x.inner = none) (hl : x.lp + 1 < l.len) (p : Prefix) : x.latch p = { x with lp := x.lp + 1, pfx := p, stat := .ready } := by
  obtain ⟨hlt, -⟩ := List.getElem?_eq_some_iff.mp hq
  have htake : x.take = { x with lp := x.lp + 1 } := by simp only [Engine.take, ho, if_pos hlt]
  simp [Engine.latch, htake, Engine.closeInner, hi, Engine.closeOuter, ho, hl]

theorem Engine.entry_of_loopMem {x : Engine} {q : QEntry} {l : LoopSt} (hq : x.loopMem[x.lp]? = some q) (ho : x.outer = some l) :
    x.entry = some q := by
  simp only [Engine.entry, ho, hq]

theorem prefixWordsHold : PrefixWordsHold := by
  intro s x i o n m b
  refine ⟨fun hw h => ⟨⟨_, rfl, ?_⟩, ⟨_, rfl, ?_⟩⟩,
    fun y a hu hpend hpfx => ⟨⟨_, rfl, latch_second hu hpend hpfx _⟩, ⟨_, rfl, latch_second hu hpend hpfx _⟩⟩,
    fun e q r hw hq ho hi => ?_, fun e q l hw hq ho hi hl => ?_⟩
  · rw [latch_s hw h]
    exact latched_spec h _
  · rw [latch_s hw h]
    exact latched_spec h _
  · have hlatch := latch_engine hw (Engine.entry_of_queue ho hq)
    simp only [Engine.latch_of_queue hq ho hi] at hlatch
    exact ⟨⟨_, rfl, hlatch _⟩, ⟨_, rfl, hlatch _⟩⟩
  · have hlatch := latch_engine hw (Engine.entry_of_loopMem hq ho)
    simp only [Engine.latch_of_loopMem hq ho hi hl] at hlatch
    exact ⟨_, rfl, hlatch _⟩

/-- Settles O14: HALT by what is outstanding (`exec_halt_user`), YIELD by whether its gang gives way (`yield_skips`, `yield_gives_way`),
an X word by who stands at it (`latch_s`, `latch_second`, `latch_engine`). -/
theorem retireYieldAndPrefixes : Obligations.RetireYieldAndPrefixes := ⟨retireAndYieldHold, prefixWordsHold⟩

end Sys2Proof.Machine
end

section
/-! ### What an access changes: walks and touches (R97, R278, R299, R351) -/

namespace Sys2Proof.Machine

variable {s t u : State}

/-! #### Outside checked windows (R299) -/

section Unchecked

variable {w : Who} (h : (s.core w.core).raceMode = 0)

include h

theorem raceModeAt_eq_zero (va : Word) : s.raceModeAt w va = 0 := by
  unfold State.raceModeAt
  split
  · simp [h]
  · rfl

theorem shadowHome_eq_none (va : Word) : s.shadowHome w va = none := if_pos (raceModeAt_eq_zero h va)

theorem racesOf_eq_nil (ps : List (Loc × Nat × Nat)) : s.racesOf w ps = [] := by simp [State.racesOf, raceModeAt_eq_zero h]

theorem trapRace_eq_none (ps : List (Loc × Nat × Nat)) : s.trapRace w ps = none := by simp [State.trapRace, racesOf_eq_nil h]

theorem logRaces_eq_self (writes : Bool) (ps : List (Loc × Nat × Nat)) : s.logRaces w writes ps = s := by
  simp [State.logRaces, racesOf_eq_nil h]

theorem engRace_eq_self (e : Eng) (x : Loc × Nat × Nat) (writes : Bool) : s.engRace e w x writes = s := by
  simp [State.engRace, trapRace_eq_none h, logRaces_eq_self h]

theorem noteWrite_eq_self (va : Word) (l : Loc) (n : Nat) (ts : Word) : s.noteWrite w va l n ts = s := by
  unfold State.noteWrite
  generalize sectorsOf [(l, va.toNat, n)] = xs
  induction xs with
  | nil => rfl
  | cons x r ih => rw [List.foldl_cons, if_pos (raceModeAt_eq_zero h _), ih]

end Unchecked

/-! #### The agents of accesses -/

@[simp] theorem core_whoAt (s : State) (n : Nat) (q : Seq) (floor : Word) (sync : Bool) : (s.whoAt n q floor sync).core = n := by
  unfold State.whoAt
  simp only
  split
  · rfl
  · split <;> rfl

@[simp] theorem buf_whoAt (s : State) (n : Nat) (q : Seq) (floor : Word) (sync : Bool) :
    (s.whoAt n q floor sync).buf = ((s.core n).surrogate && q != .husk) := by
  unfold State.whoAt
  simp only
  split
  · rfl
  · split <;> rfl

@[simp] theorem late_whoAt (s : State) (n : Nat) (q : Seq) (floor : Word) (sync : Bool) : (s.whoAt n q floor sync).late = false := by
  unfold State.whoAt
  simp only
  split
  · rfl
  · split <;> rfl

@[simp] theorem core_whoS (s : State) (sync : Bool) : (s.whoS sync).core = s.agent := core_whoAt _ _ _ _ _

@[simp] theorem core_whoE (s : State) (e : Eng) (sync : Bool) : (s.whoE e sync).core = s.agent := core_whoAt _ _ _ _ _

/-! #### What an access may change -/

theorem cur_congr (hc : t.cores = s.cores) (ht : t.turn = s.turn) : t.cur = s.cur := by
  rw [State.cur, State.cur, State.agent_congr ht, State.core_congr hc]

/-- Nothing but what accesses change differs: cores and TLBs, memories with their timestamps, copies and resident lines. -/
def State.AccessTables (s t : State) : Prop :=
  t = { s with
    cores := t.cores, pods := t.pods, mem := t.mem, scratch := t.scratch, host := t.host, peer := t.peer, lines := t.lines,
    scrLines := t.scrLines, copies := t.copies, devCopies := t.devCopies, attrs := t.attrs, shadows := t.shadows }

theorem State.AccessTables.trans (h : s.AccessTables t) (h' : t.AccessTables u) : s.AccessTables u := by
  unfold State.AccessTables at *
  rw [h', h]

/-- What reads of the current agent leave: no other core has changed, no byte but those of shadow records that have left the shared cache,
and no timestamp of a write. -/
structure State.Accessed (s t : State) : Prop where
  tables : s.AccessTables t
  cores : ∀ n, n ≠ s.agent → t.core n = s.core n
  bytes : s.SameBytes t
  records : ∀ l, t.InRecords l → s.InRecords l
  wts : ∀ l, (t.tsAt l).wts = (s.tsAt l).wts

theorem State.Accessed.turn (h : s.Accessed t) : t.turn = s.turn := by rw [h.tables]

theorem State.Accessed.agent (h : s.Accessed t) : t.agent = s.agent := State.agent_congr h.turn

theorem State.Accessed.who (h : s.Accessed t) : t.who = s.who := by simp only [State.who, h.turn]

theorem State.Accessed.inHusk (h : s.Accessed t) : t.inHusk = s.inHusk := by simp only [State.inHusk, h.who]

theorem State.Accessed.refl (s : State) : s.Accessed s := ⟨rfl, fun _ _ => rfl, fun _ _ => rfl, fun _ h => h, fun _ => rfl⟩

theorem State.Accessed.trans (h : s.Accessed t) (h' : t.Accessed u) : s.Accessed u where
  tables := h.tables.trans h'.tables
  cores n hn := (h'.cores n (h.agent ▸ hn)).trans (h.cores n hn)
  bytes l hl := (h'.bytes l fun hr => hl (h.records l hr)).trans (h.bytes l hl)
  records l hl := h.records l (h'.records l hl)
  wts l := (h'.wts l).trans (h.wts l)

theorem accessed_onCore (s : State) (f : Core → Core) : s.Accessed (s.onCore f) where
  tables := rfl
  cores _ hn := State.core_onCore_ne s hn f
  bytes l _ := (onlyCore_onCore s f).2.2 l
  records _ h := h
  wts l := by cases l <;> rfl

/-- Bytes that are of no shadow record read as before. -/
theorem natAt_of_sameBytes (h : s.SameBytes t) {l : Loc} {n : Nat} (hn : s.NoRecord l n) : t.natAt l n = s.natAt l n := by
  induction n generalizing l with
  | zero => rfl
  | succ n ih =>
    have h0 := h l (by simpa only [Loc.plus_zero] using hn 0 (by omega))
    have hr : s.NoRecord (l.plus 1) n := fun j hj => by
      rw [Loc.plus_plus, Nat.add_comm]
      exact hn (j + 1) (by omega)
    rw [State.natAt, State.natAt, h0, ih hr]

/-! #### Walks and touches (R278, R351) -/

/-- What the walks and the touches of an access leave: TLBs, and lines that have left the shared cache or come to it. -/
structure State.Prepared (s t : State) : Prop extends s.Accessed t where
  lines : t.lines = s.lines
  scrLines : t.scrLines = s.scrLines
  copies : t.copies = s.copies
  tlb : ∃ x, t.cur = { s.cur with tlb := x }

theorem State.Prepared.refl (s : State) : s.Prepared s := ⟨.refl s, rfl, rfl, rfl, s.cur.tlb, rfl⟩

theorem State.Prepared.trans (h : s.Prepared t) (h' : t.Prepared u) : s.Prepared u := by
  obtain ⟨x, hx⟩ := h.tlb
  obtain ⟨y, hy⟩ := h'.tlb
  exact ⟨h.toAccessed.trans h'.toAccessed, h'.lines.trans h.lines, h'.scrLines.trans h.scrLines, h'.copies.trans h.copies, y,
    by rw [hy, hx]⟩

theorem State.Prepared.tsAt (h : s.Prepared t) (l : Loc) : t.tsAt l = s.tsAt l := by
  cases l <;> simp only [State.tsAt, h.lines, h.scrLines]

theorem State.Prepared.copyOf (h : s.Prepared t) (l : Loc) (k : Nat) : t.copyOf l k = s.copyOf l k := by
  cases l <;> simp only [State.copyOf, h.copies]

theorem State.Prepared.ctx (h : s.Prepared t) : t.ctx = s.ctx := by
  obtain ⟨x, hx⟩ := h.tlb
  rw [State.ctx, State.ctx, hx, h.inHusk]
  cases s.inHusk <;> rfl

theorem State.Prepared.pts (h : s.Prepared t) : t.pts = s.pts := by
  obtain ⟨x, hx⟩ := h.tlb
  rw [State.pts, State.pts, hx, h.who]
  cases s.who <;> rfl

theorem State.Prepared.raceMode (h : s.Prepared t) : t.cur.raceMode = s.cur.raceMode := by
  obtain ⟨x, hx⟩ := h.tlb
  rw [hx]

theorem prepared_noteTlb (s : State) (husk : Bool) (va : Word) : s.Prepared (s.noteTlb s.agent husk va) := by
  unfold State.noteTlb
  split
  · exact .refl s
  · split
    · exact .refl s
    · rename_i x _ _
      let f : Core → Core := fun c => { c with tlb := tlbPut 64 s.fresh c.tlb x }
      exact ⟨⟨rfl, fun n hn => (State.core_onCore_ne s hn f :), fun l _ => by cases l <;> rfl, fun _ h => h,
        fun l => by cases l <;> rfl⟩, rfl, rfl, rfl, _, (State.cur_onCore s f :)⟩

theorem evict_spec (s : State) (k : Nat) : ∃ m a r, s.evict k = { s with mem := m, attrs := a, shadows := r } := by
  unfold State.evict
  split
  · exact ⟨_, _, _, rfl⟩
  · simp only
    split <;> exact ⟨_, _, _, rfl⟩

theorem evicts_spec {α : Type} (s : State) (l : List α) (f : α → Nat) :
    ∃ m a r, l.foldl (fun a x => a.evict (f x)) s = { s with mem := m, attrs := a, shadows := r } := by
  induction l generalizing s with
  | nil => exact ⟨_, _, _, rfl⟩
  | cons x r ih =>
    obtain ⟨m, a, h, he⟩ := evict_spec s (f x)
    obtain ⟨m', a', h', hr⟩ := ih (s.evict (f x))
    exact ⟨m', a', h', by rw [List.foldl_cons, hr, he]⟩

theorem lineRoom_spec (s : State) (home set : Nat) : ∃ m a r, s.lineRoom home set = { s with mem := m, attrs := a, shadows := r } := by
  unfold State.lineRoom
  simp only
  split
  · exact ⟨_, _, _, rfl⟩
  · split
    · exact evict_spec s _
    · exact ⟨_, _, _, rfl⟩

/-- A touch outside checked windows changes package memory, by lines that leave, and what is resident. -/
theorem touch_spec (s : State) (l : Loc) (home set : Nat) (cls : BitVec 2) (dirty : Bool) :
    ∃ m a r, s.touch l home set none cls dirty = { s with mem := m, attrs := a, shadows := r } := by
  cases l with
  | pkg b =>
    unfold State.touch
    simp only
    generalize hu : (if cls = 3 then List.foldl (fun (a : State) x => a.evict x.1) s
      ((s.setLines home set).filter fun x => x.1 != b / 128 && x.2.cls == 3 && x.2.pins.isEmpty) else s) = v
    obtain ⟨m, a, r, hv⟩ : ∃ m a r, v = { s with mem := m, attrs := a, shadows := r } := by
      rw [← hu]
      split
      · exact evicts_spec s _ _
      · exact ⟨_, _, _, rfl⟩
    clear hu
    subst hv
    cases Cells.find? a (b / 128) with
    | some x =>
      simp only
      cases x.shadowAt <;> exact ⟨m, _, r, rfl⟩
    | none =>
      obtain ⟨m', a', r', hr⟩ := lineRoom_spec { s with mem := m, attrs := a, shadows := r } home set
      simp only
      exact ⟨m', _, r', by rw [hr]⟩
  | _ => exact ⟨_, _, _, rfl⟩

theorem prepared_touchFor {w : Who} (h : (s.core w.core).raceMode = 0) (cls : BitVec 2) (dirty : Bool) (l : Loc) (va : Word) :
    s.Prepared (s.touchFor w cls dirty l va) := by
  rw [State.touchFor, shadowHome_eq_none h]
  obtain ⟨hrec, hbytes, -, -, -⟩ := evicted_touch s l (s.homeOf w va) (hashLine va.toNat) cls dirty
  obtain ⟨m, a, r, he⟩ := touch_spec s l (s.homeOf w va) (hashLine va.toNat) cls dirty
  rw [he] at hrec hbytes ⊢
  exact ⟨⟨rfl, fun _ _ => rfl, hbytes, hrec, fun l => by cases l <;> rfl⟩, rfl, rfl, rfl, s.cur.tlb, rfl⟩

/-- The walks and the touches of an access of the current agent. -/
theorem prepared_touchAll {w : Who} (hw : w.core = s.agent) (h : s.cur.raceMode = 0) (hint : BitVec 3) (dirty : Bool)
    (ps : List (Loc × Nat × Nat)) : s.Prepared (s.touchAll w hint dirty ps) := by
  induction ps generalizing s with
  | nil => exact .refl s
  | cons p r ih =>
    have h1 : s.Prepared (s.noteTlb w.core (!w.user) (BitVec.ofNat 64 p.2.1)) := hw ▸ prepared_noteTlb s _ _
    have hm : ((s.noteTlb w.core (!w.user) (BitVec.ofNat 64 p.2.1)).core w.core).raceMode = 0 :=
      (congrArg (fun n => ((s.noteTlb w.core (!w.user) (BitVec.ofNat 64 p.2.1)).core n).raceMode) (hw.trans h1.agent.symm)).trans
        (h1.raceMode.trans h)
    have h2 := h1.trans (prepared_touchFor hm (s.classOf w (BitVec.ofNat 64 p.2.1) hint) dirty p.1 (BitVec.ofNat 64 p.2.1))
    exact h2.trans (ih (hw.trans h2.agent.symm) (h2.raceMode.trans h))

theorem prepared_noteWalks {w : Who} (hw : w.core = s.agent) (vas : List Nat) : s.Prepared (s.noteWalks w vas) := by
  induction vas generalizing s with
  | nil => exact .refl s
  | cons va r ih =>
    have h1 : s.Prepared (s.noteTlb w.core (!w.user) (BitVec.ofNat 64 va)) := hw ▸ prepared_noteTlb s _ _
    exact h1.trans (ih (hw.trans h1.agent.symm))

end Sys2Proof.Machine
end

section
/-! ### What a read and a write do at their line (R283, R284) -/

namespace Sys2Proof.Machine

variable {s t u : State}

/-! #### Reads -/

theorem replaceCopy_spec (s : State) (l : List (Nat × Copy)) : ∃ c, (s.replaceCopy l).1 = { s with copies := c } := by
  unfold State.replaceCopy
  split <;> exact ⟨_, rfl⟩

theorem copyRoom_spec (s : State) (h : Holder) : ∃ c, (s.copyRoom h).1 = { s with copies := c } := by
  unfold State.copyRoom
  simp only
  split
  · split
    · exact ⟨_, rfl⟩
    · exact replaceCopy_spec s _
  · split
    · exact ⟨_, rfl⟩
    · exact replaceCopy_spec s _

theorem putCopy_spec (s : State) (l : Loc) (h : Holder) (d : BitVec 1024) (w r : Word) : ∃ c, s.putCopy l h d w r = { s with copies := c } := by
  cases l with
  | pkg a =>
    simp only [State.putCopy]
    split
    · exact ⟨_, rfl⟩
    · obtain ⟨c, hc⟩ := copyRoom_spec s h
      exact ⟨_, by rw [hc]⟩
  | _ => exact ⟨_, rfl⟩

theorem dropCopy_spec (s : State) (l : Loc) (k : Nat) : ∃ c, s.dropCopy l k = { s with copies := c } := by
  cases l <;> exact ⟨_, rfl⟩

/-- A list of updates of which each changes copies in caches alone. -/
theorem foldl_copies_spec {α : Type} {f : State → α → State} (hf : ∀ s a, ∃ c, f s a = { s with copies := c }) (l : List α) (s : State) :
    ∃ c, l.foldl f s = { s with copies := c } := by
  induction l generalizing s with
  | nil => exact ⟨_, rfl⟩
  | cons a r ih =>
    obtain ⟨c, hc⟩ := hf s a
    obtain ⟨c', hc'⟩ := ih (f s a)
    exact ⟨c', by rw [List.foldl_cons, hc', hc]⟩

/-- A lease changes no timestamp of a write. -/
theorem wts_setTs (s : State) (l k : Loc) (r : Word) : ((s.setTs l ⟨(s.tsAt l).wts, r⟩).tsAt k).wts = (s.tsAt k).wts := by
  cases l <;> cases k <;> simp only [State.setTs, State.tsAt, Cells.get_set] <;> split <;> simp_all

theorem accessed_setTs (s : State) (l : Loc) (r : Word) : s.Accessed (s.setTs l ⟨(s.tsAt l).wts, r⟩) where
  tables := by cases l <;> rfl
  cores n _ := by cases l <;> rfl
  bytes k _ := (onlyCaches_setTs s l _).bytes k
  records k := by cases l <;> exact id
  wts k := wts_setTs s l k r

theorem accessed_copies (s : State) (c : Cells Copy) : s.Accessed { s with copies := c } :=
  ⟨rfl, fun _ _ => rfl, fun l _ => by cases l <;> rfl, fun _ h => h, fun l => by cases l <;> rfl⟩

theorem accessed_readAt (s : State) (hs : List Holder) (lam p : Word) (l : Loc) (n : Nat) : s.Accessed (s.readAt hs lam p l n).1 := by
  unfold State.readAt
  split
  · exact .refl s
  · obtain ⟨c, hc⟩ := foldl_copies_spec (fun a (h : Holder) => putCopy_spec a l h _ _ _) hs (s.setTs l _)
    exact (accessed_setTs s l _).trans (hc ▸ accessed_copies _ c)

theorem readAt_cores (s : State) (hs : List Holder) (lam p : Word) (l : Loc) (n : Nat) : (s.readAt hs lam p l n).1.cores = s.cores :=
  (onlyCaches_readAt s hs lam p l n).cores

/-- With no copy of the line held no copy answers. -/
theorem hit_eq_none {l : Loc} (h : ∀ k, s.copyOf l k = none) (p : Word) (hs : List Holder) : s.hit l p hs = none := by
  induction hs with
  | nil => rfl
  | cons x r ih => rw [State.hit, h, ih]

/-- Where no copy answers, a read gets the bytes of memory, at the timestamp of their write or later. -/
theorem readAt_of_hit_eq_none {hs : List Holder} {p : Word} {l : Loc} (h : s.hit l p hs = none) (lam : Word) (n : Nat) :
    (s.readAt hs lam p l n).2 = (s.natAt l n, wmax p (s.tsAt l).wts) := by
  unfold State.readAt
  rw [h]

/-! #### Writes -/

theorem putNat_spec (s : State) (l : Loc) (n v : Nat) :
    ∃ m c h p, s.putNat l n v = { s with mem := m, scratch := c, host := h, peer := p } := by
  induction n generalizing s l v with
  | zero => exact ⟨_, _, _, _, rfl⟩
  | succ n ih =>
    obtain ⟨m, c, h, p, hr⟩ := ih (s.putByte l (BitVec.ofNat 8 v)) (l.plus 1) (v / 256)
    exact ⟨m, c, h, p, by rw [State.putNat, hr]; cases l <;> rfl⟩

/-- A write of a byte leaves a byte by what it was. -/
theorem byteAt_putByte_congr {k : Loc} (h : t.byteAt k = s.byteAt k) (l : Loc) (b : Byte) : (t.putByte l b).byteAt k = (s.putByte l b).byteAt k := by
  cases l <;> cases k <;> simp only [State.putByte, State.byteAt, Memory.read_write] at h ⊢ <;> grind

theorem byteAt_putNat_congr {k : Loc} (h : t.byteAt k = s.byteAt k) (l : Loc) (n v : Nat) : (t.putNat l n v).byteAt k = (s.putNat l n v).byteAt k := by
  induction n generalizing s t l v with
  | zero => exact h
  | succ n ih => exact ih (byteAt_putByte_congr h l _) _ _

/-- The timestamp of a write with timestamp `p` of a line (R284). -/
def State.writeTs (s : State) (p : Word) (l : Loc) : Word := wmax p ((s.tsAt l).rts + 1)

theorem writeAt_spec (s : State) (hs : List Holder) (na : Bool) (p : Word) (l : Loc) (n v : Nat) :
    ∃ c, s.writeAt hs na p l n v =
      ({ (s.setTs l ⟨s.writeTs p l, s.writeTs p l⟩).putNat l n v with copies := c }, s.writeTs p l) := by
  obtain ⟨c, hc⟩ := foldl_copies_spec (f := fun b (h : Holder) => if na then b.dropCopy l h.id else b.putCopy l h _ _ _) (fun b h => by
    cases na
    · exact putCopy_spec b l h _ _ _
    · exact dropCopy_spec b l h.id) hs ((s.setTs l ⟨s.writeTs p l, s.writeTs p l⟩).putNat l n v)
  exact ⟨c, congrArg (fun a => (a, s.writeTs p l)) hc⟩

theorem snd_writeAt (s : State) (hs : List Holder) (na : Bool) (p : Word) (l : Loc) (n v : Nat) :
    (s.writeAt hs na p l n v).2 = s.writeTs p l := rfl

/-- A write changes the bytes that it writes, as a plain write of memory. -/
theorem byteAt_writeAt (s : State) (hs : List Holder) (na : Bool) (p : Word) (l : Loc) (n v : Nat) (k : Loc) :
    (s.writeAt hs na p l n v).1.byteAt k = (s.putNat l n v).byteAt k := by
  obtain ⟨c, hc⟩ := writeAt_spec s hs na p l n v
  rw [hc]
  refine Eq.trans (by cases k <;> rfl) (byteAt_putNat_congr (t := s.setTs l ⟨s.writeTs p l, s.writeTs p l⟩) ?_ l n v)
  exact (onlyCaches_setTs s l _).bytes k

theorem natAt_writeAt (s : State) (hs : List Holder) (na : Bool) (p : Word) (l : Loc) (n v : Nat) :
    (s.writeAt hs na p l n v).1.natAt l n = v % 256 ^ n := by
  rw [natAt_congr (funext (byteAt_writeAt s hs na p l n v)), natAt_putNat]

theorem tsAt_setTs_self {l : Loc} (h : l.isSystem = false) (x : LineTs) : (s.setTs l x).tsAt l = x := by
  cases l with
  | pkg a => exact Cells.get_set_self _ _ _ _
  | scratch pod a => exact Cells.get_set_self _ _ _ _
  | host a => exact nomatch h
  | peer m a => exact nomatch h

/-- The line of a write has the timestamp of the write. -/
theorem tsAt_writeAt {l : Loc} (h : l.isSystem = false) (hs : List Holder) (na : Bool) (p : Word) (n v : Nat) :
    (s.writeAt hs na p l n v).1.tsAt l = ⟨s.writeTs p l, s.writeTs p l⟩ := by
  obtain ⟨c, hc⟩ := writeAt_spec s hs na p l n v
  rw [hc]
  refine Eq.trans (by cases l <;> rfl) ((State.tsAt_putNat _ l n v l).trans (tsAt_setTs_self h _))

theorem accessTables_writeAt (s : State) (hs : List Holder) (na : Bool) (p : Word) (l : Loc) (n v : Nat) :
    s.AccessTables (s.writeAt hs na p l n v).1 := by
  obtain ⟨c, hc⟩ := writeAt_spec s hs na p l n v
  obtain ⟨m, d, h, q, hp⟩ := putNat_spec (s.setTs l ⟨s.writeTs p l, s.writeTs p l⟩) l n v
  rw [hc, hp]
  cases l <;> rfl

theorem cores_writeAt (s : State) (hs : List Holder) (na : Bool) (p : Word) (l : Loc) (n v : Nat) :
    (s.writeAt hs na p l n v).1.cores = s.cores := by
  obtain ⟨c, hc⟩ := writeAt_spec s hs na p l n v
  rw [hc]
  exact (State.putNat_cores _ _ _ _).trans (by cases l <;> rfl)

/-! #### One part (R98) -/

/-- Bytes that lie within one unit are one part. -/
theorem partsOf_of_fits {unit va n : Nat} (hn : 0 < n) (hf : va % unit + n ≤ unit) (fuel : Nat) : partsOf unit (fuel + 1) va n = [(va, n)] := by
  have hmin : min n (unit - va % unit) = n := by omega
  rw [partsOf, if_neg (by omega)]
  simp only [hmin, Nat.sub_self]
  cases fuel <;> rfl

theorem checkAll_one {w : Who} {acc : Acc} {va : Word} {l : Loc} (h : s.check w acc va = .ok l) (n : Nat) :
    s.checkAll w acc [(va.toNat, n)] = .ok [(l, va.toNat, n)] := by
  rw [State.checkAll, BitVec.ofNat_toNat, BitVec.setWidth_eq, h]
  rfl

end Sys2Proof.Machine
end

section
/-! ### Loads of S (R96 to R100, R283, R285, R306) -/

namespace Sys2Proof.Machine

variable {s t u : State}

/-! #### What a load changes -/

/-- The core of a sequencer after its loads: its PTS, the lines of the last load and the TLB differ. -/
def Core.LoadedBy (q : Seq) (c d : Core) : Prop := ∃ p l h x, d = { c.setPts q p with lastLine := l, huskLine := h, tlb := x }

theorem Core.LoadedBy.refl (q : Seq) (c : Core) : c.LoadedBy q c :=
  ⟨c.ptsOf q, c.lastLine, c.huskLine, c.tlb, by cases q <;> rfl⟩

theorem Core.LoadedBy.trans {q : Seq} {c d e : Core} (h : c.LoadedBy q d) (h' : d.LoadedBy q e) : c.LoadedBy q e := by
  obtain ⟨p, l, k, x, rfl⟩ := h
  obtain ⟨p', l', k', x', rfl⟩ := h'
  exact ⟨p', l', k', x', by cases q <;> rfl⟩

theorem Core.LoadedBy.ctx {q : Seq} {c d : Core} (h : c.LoadedBy q d) (husk : Bool) : d.ctx husk = c.ctx husk := by
  obtain ⟨p, l, k, x, rfl⟩ := h
  cases q <;> cases husk <;> rfl

theorem Core.LoadedBy.guard {q : Seq} {c d : Core} (h : c.LoadedBy q d) : d.guard = c.guard := by
  obtain ⟨p, l, k, x, rfl⟩ := h
  cases q <;> rfl

theorem Core.LoadedBy.raceMode {q : Seq} {c d : Core} (h : c.LoadedBy q d) : d.raceMode = c.raceMode := by
  obtain ⟨p, l, k, x, rfl⟩ := h
  cases q <;> rfl

/-- What loads of the context whose turn it is leave. -/
structure State.Loading (s t : State) : Prop extends s.Accessed t where
  cur : s.cur.LoadedBy s.who t.cur

theorem State.Loading.refl (s : State) : s.Loading s := ⟨.refl s, .refl _ _⟩

theorem State.Loading.trans (h : s.Loading t) (h' : t.Loading u) : s.Loading u :=
  ⟨h.toAccessed.trans h'.toAccessed, h.cur.trans (h.who ▸ h'.cur)⟩

theorem State.Loading.ctx (h : s.Loading t) : t.ctx = s.ctx := by rw [State.ctx, h.inHusk, h.cur.ctx, State.cur_ctx]

theorem State.Prepared.loading (h : s.Prepared t) : s.Loading t := by
  obtain ⟨x, hx⟩ := h.tlb
  exact ⟨h.toAccessed, s.cur.ptsOf s.who, s.cur.lastLine, s.cur.huskLine, x, by rw [hx]; cases s.who <;> rfl⟩

theorem loading_raisePts (s : State) (v : Word) : s.Loading (s.raisePts v) :=
  ⟨accessed_onCore s _, wmax (s.cur.ptsOf s.who) v, s.cur.lastLine, s.cur.huskLine, s.cur.tlb, by
    rw [State.cur_raisePts]; cases s.who <;> rfl⟩

theorem loading_noteLines (s : State) (ps : List (Loc × Nat × Nat)) : s.Loading (s.noteLines ps) := by
  refine ⟨accessed_onCore s _, ?_⟩
  rw [State.noteLines, State.cur_onCore]
  cases s.inHusk
  · exact ⟨s.cur.ptsOf s.who, _, s.cur.huskLine, s.cur.tlb, by cases s.who <;> rfl⟩
  · exact ⟨s.cur.ptsOf s.who, s.cur.lastLine, _, s.cur.tlb, by cases s.who <;> rfl⟩

theorem loading_spin (s : State) (w : Who) (na : Bool) (ps : List (Loc × Nat × Nat)) : s.Loading (s.spin w na ps) := by
  unfold State.spin
  simp only
  split
  · exact (loading_raisePts s _).trans (loading_noteLines _ ps)
  · exact loading_noteLines s ps

theorem loading_readAt (s : State) (hs : List Holder) (lam p : Word) (l : Loc) (n : Nat) : s.Loading (s.readAt hs lam p l n).1 :=
  have h := accessed_readAt s hs lam p l n
  ⟨h, cur_congr (readAt_cores s hs lam p l n) h.turn ▸ .refl _ _⟩

theorem loading_loadPart (s : State) (w : Who) (na : Bool) (x : Loc × Nat × Nat) : s.Loading (s.loadPart w na x).1 :=
  (loading_readAt s _ _ _ _ _).trans (loading_raisePts _ _)

theorem loading_loadParts (s : State) (w : Who) (na : Bool) (ps : List (Loc × Nat × Nat)) : s.Loading (s.loadParts w na ps).1 := by
  induction ps generalizing s with
  | nil => exact .refl s
  | cons x r ih => exact (loading_loadPart s w na x).trans (ih _)

theorem loading_sendParts (s : State) (w : Who) (na : Bool) (ps : List (Loc × Nat × Nat)) : s.Loading (s.sendParts w na ps).1 := by
  induction ps generalizing s with
  | nil => exact .refl s
  | cons x r ih =>
    rw [State.sendParts]
    split
    · exact ih s
    · exact (loading_loadPart s w na x).trans (ih _)

/-! #### The value of a load -/

/-- No copy spins that is passed over, or that does not answer (R285). -/
theorem spin_eq_noteLines {w : Who} {na : Bool} {ps : List (Loc × Nat × Nat)}
    (h : ∀ x ∈ ps, s.homeOnly w na x.2.1 = true ∨ s.hit x.1 s.pts [⟨s.agent, 0⟩] = none) : s.spin w na ps = s.noteLines ps := by
  have hany : (ps.any fun p => !s.homeOnly w na p.2.1 && s.lastLine.contains p.1.line.key && (s.hit p.1 s.pts [⟨s.agent, 0⟩]).isSome) = false := by
    rw [List.any_eq_false]
    intro x hx
    rcases h x hx with h | h <;> simp [h]
  simp only [State.spin, hany, Bool.false_eq_true, if_false]

theorem pts_noteLines (s : State) (ps : List (Loc × Nat × Nat)) : (s.noteLines ps).pts = s.pts := by
  rw [State.pts, State.noteLines, State.cur_onCore, State.who_onCore, State.pts]
  cases s.inHusk <;> cases s.who <;> rfl

theorem wmax_wmax_left (a b : Word) : wmax a (wmax a b) = wmax a b := by
  unfold wmax
  grind

theorem pts_raisePts (s : State) (v : Word) : (s.raisePts v).pts = wmax s.pts v := by
  rw [State.pts, State.cur_raisePts, State.who_raisePts, State.pts]
  cases s.who <;> rfl

theorem pts_congr (hc : t.cores = s.cores) (ht : t.turn = s.turn) : t.pts = s.pts := by
  simp only [State.pts, cur_congr hc ht, State.who, ht]

/-- What a part of a load gives: the bytes of memory, with those of the guard buffer in place in the surrogate phase (R306). -/
def State.partValue (s : State) (l : Loc) (n : Nat) : Nat :=
  if s.surrogateNow then guardMerge s.cur.guard l n (s.natAt l n) else s.natAt l n

/-- In the course of a load that began in `s`, a part that no copy answers. -/
theorem loadPart_value (h : s.Loading t) (sync na : Bool) {l : Loc} {va n : Nat} (hn : s.NoRecord l n)
    (hhit : t.hit l t.pts (if t.homeOnly (s.whoS sync) na va then [] else t.holders t.agent va) = none) :
    (t.loadPart (s.whoS sync) na (l, va, n)).2 = s.partValue l n ∧
      (t.loadPart (s.whoS sync) na (l, va, n)).1.pts = wmax t.pts (s.tsAt l).wts := by
  have hread := readAt_of_hit_eq_none hhit (t.leaseOf t.agent) n
  have hcores := readAt_cores t (if t.homeOnly (s.whoS sync) na va then [] else t.holders t.agent va) (t.leaseOf t.agent) t.pts l n
  have hturn := (accessed_readAt t (if t.homeOnly (s.whoS sync) na va then [] else t.holders t.agent va) (t.leaseOf t.agent) t.pts l n).turn
  simp only [State.loadPart]
  generalize t.readAt (if t.homeOnly (s.whoS sync) na va then [] else t.holders t.agent va) (t.leaseOf t.agent) t.pts l n = r at *
  constructor
  · have hguard : (t.core s.agent).guard = s.cur.guard := h.agent ▸ h.cur.guard
    simp only [hread, State.forward, State.whoS, buf_whoAt, core_whoAt, hguard, natAt_of_sameBytes h.bytes hn]
    rfl
  · simp only [pts_raisePts, pts_congr hcores hturn, hread, wmax_wmax_left, h.wts]

/-- The parts of a load that no copy answers (R283). -/
theorem loadParts_value (h : s.Loading t) (sync : Bool) {ps : List (Loc × Nat × Nat)} (hn : ∀ y ∈ ps, s.NoRecord y.1 y.2.2) :
    (t.loadParts (s.whoS sync) true ps).2 = s.valueOf ps ∧
      (t.loadParts (s.whoS sync) true ps).1.pts = ps.foldl (fun p y => wmax p (s.tsAt y.1).wts) t.pts := by
  induction ps generalizing t with
  | nil => exact ⟨rfl, rfl⟩
  | cons x r ih =>
    obtain ⟨l, va, n⟩ := x
    obtain ⟨hx, hxs⟩ := List.forall_mem_cons.mp hn
    obtain ⟨hv, hp⟩ := loadPart_value (na := true) (va := va) h sync hx rfl
    obtain ⟨hvs, hps⟩ := ih (h.trans (loading_loadPart t (s.whoS sync) true (l, va, n))) hxs
    rw [hp] at hps
    exact ⟨by simp only [State.loadParts, hv, hvs]; rfl, hps⟩

/-! #### The load -/

variable {va : Word} {n : Nat} {hint : BitVec 3} {gd : BitVec 5} {signed plain sync : Bool} {ps : List (Loc × Nat × Nat)}

/-- The value of a load is that of its bytes: no copy answers it, and none of its bytes is of a shadow record that may leave. -/
def State.LoadsBytes (s : State) (na : Bool) (ps : List (Loc × Nat × Nat)) : Prop :=
  (na = true ∨ ∃ l b n, ps = [(l, b, n)] ∧ ∀ k, s.copyOf l k = none) ∧ ∀ y ∈ ps, s.NoRecord y.1 y.2.2

theorem Core.raceMode_at (h : s.cur.raceMode = 0) (sync : Bool) : (s.core (s.whoS sync).core).raceMode = 0 := by
  rw [core_whoS]; exact h

/-- A load of package memory or scratch, its parts checked: what it changes, and its value. -/
theorem doLoad_value (hr : s.cur.raceMode = 0) (hsys : (ps.all fun p => !p.1.isSystem) = true) :
    ∃ u v, s.doLoad (s.whoS sync) hint ps gd signed plain = .value u v ∧ s.Loading u ∧
      (s.LoadsBytes (hintNa hint) ps → v = s.valueOf ps ∧ u.pts = ps.foldl (fun p y => wmax p (s.tsAt y.1).wts) s.pts) := by
  have hnone : (ps.any fun p => p.1.isSystem) = false := by
    rw [List.any_eq_false]
    intro x hx
    simpa using List.all_eq_true.mp hsys x hx
  have hp := prepared_touchAll (core_whoS s sync) hr hint false ps
  simp only [State.doLoad, logRaces_eq_self (Core.raceMode_at hr sync), hnone, Bool.false_eq_true, if_false]
  generalize s.touchAll (s.whoS sync) hint false ps = b at hp
  refine ⟨_, _, rfl, (hp.loading.trans (loading_spin b _ _ ps)).trans (loading_loadParts _ _ _ ps), fun ⟨hk, hn⟩ => ?_⟩
  have hl : s.Loading (b.noteLines ps) := hp.loading.trans (loading_noteLines b ps)
  have hpts : (b.noteLines ps).pts = s.pts := (pts_noteLines b ps).trans hp.pts
  rcases hk with hna | ⟨l, a, m, rfl, hcopy⟩
  · rw [hna, spin_eq_noteLines fun x _ => .inl (by simp [State.homeOnly])]
    exact hpts ▸ loadParts_value hl sync hn
  · have hcopies : ∀ k, b.copyOf l k = none := fun k => (hp.copyOf l k).trans (hcopy k)
    rw [spin_eq_noteLines fun x hx => .inr (by
      obtain rfl := List.mem_singleton.mp hx
      exact hit_eq_none hcopies _ _)]
    obtain ⟨hv, hq⟩ := loadPart_value (na := hintNa hint) (va := a) hl sync (hn _ (List.mem_singleton.mpr rfl))
      (hit_eq_none (s := b.noteLines [(l, a, m)]) (l := l) (fun k => Eq.trans (by cases l <;> rfl) (hcopies k)) _ _)
    exact ⟨by simp only [State.loadParts, hv]; rfl, by rw [State.loadParts]; exact hq.trans (by rw [hpts]; rfl)⟩

end Sys2Proof.Machine
end

section
/-! ### The load words (R97, R98, R99, R351) -/

namespace Sys2Proof.Machine

variable {s t u : State}

section Load

variable {va : Word} {n : Nat} {hint : BitVec 3} {gd : BitVec 5} {signed plain sync : Bool} {ps : List (Loc × Nat × Nat)}
  {k : State → Nat → State}

theorem sLoad_value (hr : s.cur.raceMode = 0) (hc : s.checkAll (s.whoS sync) .read (partsOf 8 n va.toNat n) = .ok ps)
    (hsys : (ps.all fun p => !p.1.isSystem) = true) (hf : s.coreFull = false) :
    ∃ u v, sLoad va n hint gd signed plain sync k s = k u v ∧ s.Loading u ∧
      (s.LoadsBytes (hintNa hint) ps → v = s.valueOf ps ∧ u.pts = ps.foldl (fun p y => wmax p (s.tsAt y.1).wts) s.pts) := by
  have hnone : (ps.any fun p => p.1.isSystem) = false := by
    rw [List.any_eq_false]
    intro x hx
    simpa using List.all_eq_true.mp hsys x hx
  obtain ⟨u, v, hd, hu⟩ := doLoad_value (hint := hint) (gd := gd) (signed := signed) (plain := plain) (sync := sync) hr hsys
  refine ⟨u, v, ?_, hu⟩
  simp only [sLoad, hc, trapRace_eq_none (Core.raceMode_at hr sync), hf, hnone, Bool.false_and, Bool.or_self, Bool.false_eq_true, if_false, hd]

/-- A load with a part in system space is sent (R99). -/
theorem sLoad_sent (hr : s.cur.raceMode = 0) (hc : s.checkAll (s.whoS sync) .read (partsOf 8 n va.toNat n) = .ok ps)
    (hsys : (ps.any fun p => p.1.isSystem) = true) (hf : s.coreFull = false) (hl : s.loadsFull = false) :
    ∃ u own keep, sLoad va n hint gd signed plain sync k s =
      (u.sendSys (.load s.agent s.inHusk ps own gd signed keep (s.whoS sync).sync)).advance ∧ s.Loading u := by
  have hp := prepared_touchAll (core_whoS s sync) hr hint false ps
  have hu := (hp.loading.trans (loading_spin _ (s.whoS sync) (hintNa hint) ps)).trans (loading_sendParts _ (s.whoS sync) (hintNa hint) ps)
  have hd : ∃ own, s.doLoad (s.whoS sync) hint ps gd signed plain = .sent
      (((((s.touchAll (s.whoS sync) hint false ps).spin (s.whoS sync) (hintNa hint) ps).sendParts (s.whoS sync) (hintNa hint) ps).1).sendSys
        (.load s.agent s.inHusk ps own gd signed (plain && !hintNa hint) (s.whoS sync).sync)) :=
    ⟨_, by rw [State.doLoad, logRaces_eq_self (Core.raceMode_at hr sync), if_pos hsys]⟩
  obtain ⟨own, hd⟩ := hd
  refine ⟨_, own, plain && !hintNa hint, ?_, hu⟩
  simp only [sLoad, hc, trapRace_eq_none (Core.raceMode_at hr sync), hf, hl, Bool.and_false, Bool.or_self, Bool.false_eq_true, if_false, hd]

theorem sLoad_waits (hr : s.cur.raceMode = 0) (hc : s.checkAll (s.whoS sync) .read (partsOf 8 n va.toNat n) = .ok ps)
    (hf : s.coreFull = true ∨ ((ps.any fun p => p.1.isSystem) = true ∧ s.loadsFull = true)) :
    sLoad va n hint gd signed plain sync k s = s.await .memory := by
  have hb : (s.coreFull || ((ps.any fun p => p.1.isSystem) && s.loadsFull)) = true := by
    rcases hf with h | ⟨h, h'⟩ <;> simp [*]
  simp only [sLoad, hc, trapRace_eq_none (Core.raceMode_at hr sync), hb, if_true]

theorem sLoad_traps {f : Flt} (hc : s.checkAll (s.whoS sync) .read (partsOf 8 n va.toNat n) = .error (some f)) :
    sLoad va n hint gd signed plain sync k s =
      (s.noteWalks (s.whoS sync) ((partsOf 8 n va.toNat n).map fun p => p.1)).takeTrap f s.aAddr := by
  simp only [sLoad, hc]

end Load

/-! #### The words (R97) -/

theorem extended_signed {n : Nat} (hn : 8 * n ≤ 64) (v : Nat) : sextTo (8 * n) (BitVec.ofNat 64 v) = extended n true v := by
  have hd : 2 ^ (8 * n) ∣ 2 ^ 64 := Nat.pow_dvd_pow 2 hn
  rw [sextTo, extended, if_pos rfl, BitVec.toNat_ofNat]
  congr 1
  exact BitVec.eq_of_toNat_eq (by rw [BitVec.toNat_ofNat, BitVec.toNat_ofNat, Nat.mod_mod_of_dvd _ hd])

section Words

variable {d a : BitVec 5} {h : BitVec 3} {i : BitVec 10} {x : Nat × Bool × Instr}

theorem exec_load (hx : x ∈ loadForms d a h i) (s : State) :
    x.2.2.legal = true ∧ exec x.2.2 s = .next (sWord true x.2.2 (fun s => sLoad (s.ea a i x.1) x.1 h d x.2.1 true false
      (fun s v => (s.setG d (extended x.1 x.2.1 v)).advance) s) s) := by
  simp only [loadForms, List.mem_cons, List.not_mem_nil, or_false] at hx
  have signed : ∀ n, 8 * n ≤ 64 → loadS n d a h i = fun s => sLoad (s.ea a i n) n h d true true false
      (fun s v => (s.setG d (extended n true v)).advance) s := fun n hn => funext fun s => by
    simp only [loadS, extended_signed hn]
  obtain rfl | rfl | rfl | rfl | rfl | rfl | rfl := hx
  · exact ⟨rfl, rfl⟩
  · exact ⟨rfl, rfl⟩
  · exact ⟨rfl, rfl⟩
  · exact ⟨rfl, rfl⟩
  · exact ⟨rfl, signed 1 (by decide) ▸ rfl⟩
  · exact ⟨rfl, signed 2 (by decide) ▸ rfl⟩
  · exact ⟨rfl, signed 4 (by decide) ▸ rfl⟩

theorem completes_load {v : Word} (hd : s.HasDisp i v) (hx : x ∈ loadForms d a h i) {P : State → Prop}
    (hP : P (sLoad (s.g a + v * BitVec.ofNat 64 x.1) x.1 h d x.2.1 true false (fun s v => (s.setG d (extended x.1 x.2.1 v)).advance) s)) :
    Completes x.2.2 s P := by
  obtain ⟨hl, he⟩ := exec_load hx s
  obtain ⟨himm, hw⟩ := sWord_of_immediate hd hl (fun s => sLoad (s.ea a i x.1) x.1 h d x.2.1 true false
    (fun s v => (s.setG d (extended x.1 x.2.1 v)).advance) s)
  refine ⟨_, he, ?_⟩
  rw [hw, State.ea, himm]
  exact hP

end Words

/-- A context that has gone on at an address. -/
theorem standsAt_of_ctx {x : Ctx} {a : Word} (h : t.ctx = x.goto a) : t.StandsAt a :=
  ⟨by rw [State.pc, h]; rfl, by rw [h]; rfl, by rw [h]; rfl, by rw [h]; rfl, by rw [h]; rfl⟩

/-- A context that has gone on with a value in a register. -/
theorem putG_of_ctx {d : BitVec 5} {w a : Word} (h : t.ctx = (s.ctx.setG d w).goto a) : s.PutG d w t := by
  refine ⟨?_, fun r hr => ?_, fun q => ?_⟩
  · rw [State.g, h, Ctx.getG_goto, Ctx.getG_setG, if_pos rfl]
  · rw [State.g, h, Ctx.getG_goto, Ctx.getG_setG, if_neg (Ne.symm hr)]
    rfl
  · rw [State.p, h, Ctx.getP_goto, Ctx.getP_setG]
    rfl

/-- A load that has changed the core and sent what it sends, at the next word of its context. -/
theorem read_of_onlyCtx (hturn : u.turn = s.turn) (hcores : ∀ n, n ≠ s.agent → u.core n = s.core n) (hbytes : s.SameBytes u)
    (hcur : s.cur.LoadedBy s.who u.cur) (ho : u.OnlyCtx t) (ht : t.StandsAt (s.pc + 4)) : s.Read t := by
  have hagent := State.agent_congr hturn
  have hhusk : u.inHusk = s.inHusk := by simp only [State.inHusk, State.who, hturn]
  obtain ⟨p, l, k, x, hc⟩ := hcur
  refine ⟨fun n hn => (ho.1.2.1 n (hagent ▸ hn)).trans (hcores n hn), fun l hl => (ho.1.2.2 l).trans (hbytes l hl), ht, p, l, k, x, ?_⟩
  rw [ho.2, hc, hhusk]
  cases s.who <;> cases s.inHusk <;> rfl

/-- The value of a load goes into gd, and its context stands at the next word. -/
theorem State.Loading.read_setG (h : s.Loading u) (d : BitVec 5) (w : Word) :
    s.Read (u.setG d w).advance ∧ s.PutG d w (u.setG d w).advance ∧ (u.setG d w).advance.pts = u.pts := by
  have hctx : (u.setG d w).advance.ctx = (s.ctx.setG d w).goto (s.pc + 4) := by
    rw [State.ctx_advance, State.ctx_setG, State.pc_setG, h.ctx, State.pc, h.ctx]; rfl
  refine ⟨read_of_onlyCtx h.turn h.cores h.bytes h.cur ((onlyCtx_setG u d w).trans (onlyCtx_advance _)) ?_, putG_of_ctx hctx, ?_⟩
  · exact standsAt_of_ctx hctx
  · rw [State.pts, State.cur_advance, State.cur_setG, State.who_advance, State.who_setG, State.pts]
    cases u.who <;> cases hh : u.inHusk <;> simp only [State.inHusk_setG, hh] <;> rfl

/-- A load that is sent: S goes on, and the load waits for its data. -/
theorem State.Loading.read_sent (h : s.Loading u) (r : SysReq) :
    s.Read (u.sendSys r).advance ∧ s.SameG (u.sendSys r).advance ∧ s.SameP (u.sendSys r).advance ∧
      Cells.find? (u.sendSys r).advance.sys s.nextId = some r := by
  have hctx : (u.sendSys r).advance.ctx = s.ctx.goto (s.pc + 4) := by
    rw [State.ctx_advance, show (u.sendSys r).ctx = s.ctx from h.ctx, show (u.sendSys r).pc = s.pc from congrArg Ctx.pc h.ctx]
  have hid : u.nextId = s.nextId := by rw [h.tables]
  refine ⟨read_of_onlyCtx (u := u.sendSys r) h.turn h.cores (fun l hl => Eq.trans (by cases l <;> rfl) (h.bytes l hl)) h.cur (onlyCtx_advance _) ?_,
    sameG_of_ctx hctx rfl, sameP_of_ctx hctx rfl, ?_⟩
  · exact standsAt_of_ctx hctx
  · show Cells.find? (Cells.put u.sys u.nextId r) s.nextId = some r
    rw [hid, Cells.find?_put_self]

/-! #### TLBs (R351) -/

theorem State.OnlyTlbs.refl (s : State) : s.OnlyTlbs s := ⟨rfl, fun _ => rfl, fun _ => rfl⟩

theorem State.OnlyTlbs.trans (h : s.OnlyTlbs t) (h' : t.OnlyTlbs u) : s.OnlyTlbs u := by
  obtain ⟨hs, hc, hp⟩ := h
  obtain ⟨hs', hc', hp'⟩ := h'
  exact ⟨by rw [hs', hs], fun n => (hc' n).trans (hc n), fun n => (hp' n).trans (hp n)⟩

theorem onlyTlbs_noteTlb (s : State) (agent : Nat) (husk : Bool) (va : Word) : s.OnlyTlbs (s.noteTlb agent husk va) := by
  unfold State.noteTlb
  split
  · exact .refl s
  · split
    · exact .refl s
    · rename_i x _ _
      let f : Core → Core := fun c => { c with tlb := tlbPut 64 s.fresh c.tlb x }
      refine ⟨rfl, fun n => ?_, fun n => ?_⟩
      · have hn : (s.updCore agent f).core n = if agent = n then f (s.core agent) else s.core n := State.core_updCore s agent n f
        refine (congrArg (fun c : Core => { c with tlb := [] }) hn).trans ?_
        split
        · rename_i h; subst h; rfl
        · rfl
      · rw [State.pod_updPod]
        split
        · rename_i h; subst h; rfl
        · rfl

theorem onlyTlbs_noteWalks (s : State) (w : Who) (vas : List Nat) : s.OnlyTlbs (s.noteWalks w vas) := by
  induction vas generalizing s with
  | nil => exact .refl s
  | cons va r ih => exact (onlyTlbs_noteTlb s _ _ _).trans (ih _)

@[simp] theorem sync_whoAt (s : State) (n : Nat) (q : Seq) (floor : Word) (sync : Bool) : (s.whoAt n q floor sync).sync = sync := by
  unfold State.whoAt
  simp only
  split
  · rfl
  · split <;> rfl

/-- A refused access: its walks stay in the TLBs, and S traps (R98, R351). -/
theorem walked_traps (hu : s.InUser) (hp : s.ctx.pend = none) (sync : Bool) (unit : Nat) (va : Word) (n : Nat) (f : Flt) :
    (s.walked sync unit va n).Trapped f.cause s.pc f.addr f.info ((s.walked sync unit va n).takeTrap f s.aAddr) := by
  obtain ⟨hw, hs⟩ := hu
  have h : s.Prepared (s.walked sync unit va n) := prepared_noteWalks (core_whoS s sync) _
  obtain ⟨x, hx⟩ := h.tlb
  have ha : s.aAddr = s.pc := by simp only [State.aAddr, hp]
  have hu' : (s.walked sync unit va n).InUser := ⟨h.who.trans hw, by rw [hx]; exact hs⟩
  rw [ha]
  exact trapped_takeTrap hu' f s.pc

/-- Settles O15: a load comes to its value, is sent, waits or traps by its checks (`sLoad_value`, `sLoad_sent`, `sLoad_waits`,
`sLoad_traps`), and the lemmas about `State.Loading` say what it changes. -/
theorem loadResults : Obligations.LoadResults := by
  refine ⟨onlyTlbs_noteWalks, fun s d a h i v hd hr x hx => ⟨fun ps hc hsys hf => ?_, fun ps hc hsys => ⟨fun hf hl => ?_, fun hl => ?_⟩,
    fun ps hc hf => ?_, fun f hu hc => ?_⟩⟩
  · obtain ⟨u, m, he, hu, hval⟩ := sLoad_value (hint := h) (gd := d) (signed := x.2.1) (plain := true)
      (k := fun s v => (s.setG d (extended x.1 x.2.1 v)).advance) hr hc hsys hf
    obtain ⟨hread, hput, hpts⟩ := hu.read_setG d (extended x.1 x.2.1 m)
    refine ⟨fun hk hn => completes_load hd hx ?_, completes_load hd hx ?_⟩
    · obtain ⟨rfl, hq⟩ := hval ⟨hk, hn⟩
      exact he ▸ ⟨hread, hput, hpts.trans hq⟩
    · exact he ▸ ⟨hread, _, hput⟩
  · obtain ⟨u, own, keep, he, hu⟩ := sLoad_sent (hint := h) (gd := d) (signed := x.2.1) (plain := true)
      (k := fun s v => (s.setG d (extended x.1 x.2.1 v)).advance) hr hc hsys hf hl
    rw [State.whoS, sync_whoAt] at he
    obtain ⟨hread, hg, hp, hsent⟩ := hu.read_sent (.load s.agent s.inHusk ps own d x.2.1 keep false)
    exact completes_load hd hx (by rw [he]; exact ⟨hread, hg, hp, own, keep, hsent⟩)
  · obtain ⟨hctx, hg, -, hpc, hstat⟩ := waits_await s .memory
    exact completes_load hd hx (sLoad_waits hr hc (.inr ⟨hsys, hl⟩) ▸ ⟨hctx, hg, hpc, hstat⟩)
  · obtain ⟨hctx, hg, -, hpc, hstat⟩ := waits_await s .memory
    exact completes_load hd hx (sLoad_waits hr hc (.inl hf) ▸ ⟨hctx, hg, hpc, hstat⟩)
  · exact completes_load hd hx (by rw [sLoad_traps hc]; exact walked_traps hu hd.1 false 8 _ _ f)

end Sys2Proof.Machine
end

section
/-! ### Stores of S (R96 to R100, R102, R284, R306) -/

namespace Sys2Proof.Machine

variable {s t u : State}

/-! #### What a store changes of its core -/

/-- The core of a sequencer after its stores: its PTS, the combining buffers, the guard buffer and the TLB differ. -/
def Core.StoredBy (q : Seq) (c d : Core) : Prop :=
  ∃ p b g x y, d = { c.setPts q p with comb := b, guard := g, guardVas := y, tlb := x }

theorem Core.StoredBy.refl (q : Seq) (c : Core) : c.StoredBy q c :=
  ⟨c.ptsOf q, c.comb, c.guard, c.tlb, c.guardVas, by cases q <;> rfl⟩

theorem Core.StoredBy.trans {q : Seq} {c d e : Core} (h : c.StoredBy q d) (h' : d.StoredBy q e) : c.StoredBy q e := by
  obtain ⟨p, b, g, x, y, rfl⟩ := h
  obtain ⟨p', b', g', x', y', rfl⟩ := h'
  exact ⟨p', b', g', x', y', by cases q <;> rfl⟩

theorem Core.StoredBy.ctx {q : Seq} {c d : Core} (h : c.StoredBy q d) (husk : Bool) : d.ctx husk = c.ctx husk := by
  obtain ⟨p, b, g, x, y, rfl⟩ := h
  cases q <;> cases husk <;> rfl

theorem Core.StoredBy.raceMode {q : Seq} {c d : Core} (h : c.StoredBy q d) : d.raceMode = c.raceMode := by
  obtain ⟨p, b, g, x, y, rfl⟩ := h
  cases q <;> rfl

/-- What stores of the context whose turn it is leave of the cores. -/
structure State.Storing (s t : State) : Prop where
  turn : t.turn = s.turn
  cores : ∀ n, n ≠ s.agent → t.core n = s.core n
  cur : s.cur.StoredBy s.who t.cur

theorem State.Storing.agent (h : s.Storing t) : t.agent = s.agent := State.agent_congr h.turn

theorem State.Storing.who (h : s.Storing t) : t.who = s.who := by simp only [State.who, h.turn]

theorem State.Storing.inHusk (h : s.Storing t) : t.inHusk = s.inHusk := by simp only [State.inHusk, h.who]

theorem State.Storing.refl (s : State) : s.Storing s := ⟨rfl, fun _ _ => rfl, .refl _ _⟩

theorem State.Storing.trans (h : s.Storing t) (h' : t.Storing u) : s.Storing u :=
  ⟨h'.turn.trans h.turn, fun n hn => (h'.cores n (h.agent ▸ hn)).trans (h.cores n hn), h.cur.trans (h.who ▸ h'.cur)⟩

theorem State.Storing.ctx (h : s.Storing t) : t.ctx = s.ctx := by rw [State.ctx, h.inHusk, h.cur.ctx, State.cur_ctx]

theorem State.Storing.raceMode_core (h : s.Storing t) {w : Who} (hw : w.core = s.agent) (hr : s.cur.raceMode = 0) :
    (t.core w.core).raceMode = 0 := by
  rw [hw, ← h.agent]
  exact h.cur.raceMode.trans hr

theorem State.Prepared.storing (h : s.Prepared t) : s.Storing t := by
  obtain ⟨x, hx⟩ := h.tlb
  exact ⟨h.turn, h.cores, s.cur.ptsOf s.who, s.cur.comb, s.cur.guard, x, s.cur.guardVas, by rw [hx]; cases s.who <;> rfl⟩

theorem storing_onCore {f : Core → Core} (hf : s.cur.StoredBy s.who (f s.cur)) : s.Storing (s.onCore f) :=
  ⟨rfl, fun _ hn => State.core_onCore_ne s hn f, by rw [State.cur_onCore]; exact hf⟩

theorem storing_raisePts (s : State) (v : Word) : s.Storing (s.raisePts v) :=
  storing_onCore ⟨wmax (s.cur.ptsOf s.who) v, s.cur.comb, s.cur.guard, s.cur.tlb, s.cur.guardVas, by cases s.who <;> rfl⟩

theorem storing_writeAt (s : State) (hs : List Holder) (na : Bool) (p : Word) (l : Loc) (n v : Nat) :
    s.Storing (s.writeAt hs na p l n v).1 := by
  have hc := cores_writeAt s hs na p l n v
  have ht : (s.writeAt hs na p l n v).1.turn = s.turn := by rw [accessTables_writeAt s hs na p l n v]
  exact ⟨ht, fun n _ => State.core_congr hc n, cur_congr hc ht ▸ .refl _ _⟩

/-! #### Stores that change no byte: combining buffers, posted stores and the guard buffer (R99, R100, R306) -/

/-- A store that changes no byte of memory. -/
structure State.Posting (s t : State) : Prop extends s.Storing t where
  bytes : t.byteAt = s.byteAt

theorem State.Posting.refl (s : State) : s.Posting s := ⟨.refl s, rfl⟩

theorem State.Posting.trans (h : s.Posting t) (h' : t.Posting u) : s.Posting u :=
  ⟨h.toStoring.trans h'.toStoring, h'.bytes.trans h.bytes⟩

theorem posting_foldl {α : Type} {f : State → α → State} (hf : ∀ (s : State) a, s.Posting (f s a)) (l : List α) (s : State) :
    s.Posting (l.foldl f s) := by
  induction l generalizing s with
  | nil => exact .refl s
  | cons a r ih => exact (hf s a).trans (ih _)

theorem posting_sendSys (s : State) (r : SysReq) : s.Posting (s.sendSys r) :=
  ⟨⟨rfl, fun _ _ => rfl, .refl _ _⟩, funext fun l => by cases l <;> rfl⟩

theorem posting_sendComb (s : State) (n : Nat) (b : Comb) : s.Posting (s.sendComb n b) :=
  posting_foldl (fun _ _ => posting_sendSys _ _) _ s

theorem posting_sendStore (s : State) (n : Nat) (src : SysSrc) (l : Loc) (bs : List Byte) : s.Posting (s.sendStore n src l bs) :=
  posting_foldl (fun _ _ => posting_sendSys _ _) _ s

theorem posting_updCore {f : Core → Core} (hf : s.cur.StoredBy s.who (f s.cur)) : s.Posting (s.updCore s.agent f) :=
  ⟨storing_onCore hf, funext fun _ => byteAt_updCore _ _ _ _⟩

theorem posting_updComb (s : State) (f : Core → List Comb) : s.Posting (s.updCore s.agent fun c => { c with comb := f c }) :=
  posting_updCore ⟨s.cur.ptsOf s.who, f s.cur, s.cur.guard, s.cur.tlb, s.cur.guardVas, by cases s.who <;> rfl⟩

theorem State.Posting.updComb (h : s.Posting t) (f : Core → List Comb) : s.Posting (t.updCore s.agent fun c => { c with comb := f c }) :=
  h.trans (h.agent ▸ posting_updComb t f)

/-- The sending of some combining buffers, which leaves others. -/
theorem posting_sendCombs (s : State) (l : List Comb) (f : Core → List Comb) :
    s.Posting ((l.foldl (fun a b => a.sendComb s.agent b) s).updCore s.agent fun c => { c with comb := f c }) :=
  (posting_foldl (fun a b => posting_sendComb a s.agent b) l s).updComb f

theorem posting_sendCombAt (s : State) (l : Loc) : s.Posting (s.sendCombAt s.agent l) :=
  posting_sendCombs s _ fun c => c.comb.filter fun x => x.loc.key / 64 != l.key / 64

theorem posting_combine (s : State) (l : Loc) (bs : List Byte) : s.Posting (s.combine s.agent l bs) := by
  unfold State.combine
  extract_lets base off fill c s0 s1
  have h1 : s.Posting s1 := by
    simp only [s1]
    split
    · exact posting_updComb s _
    · have h0 : s.Posting s0 := by
        simp only [s0]
        split
        · exact .refl s
        · split
          · exact .refl s
          · exact posting_sendCombs s [_] _
      exact h0.updComb _
  clear_value s1
  split
  · split
    · exact h1.trans (h1.agent ▸ posting_sendCombAt s1 base)
    · exact h1
  · exact h1

theorem posting_updGuard (s : State) (f : Core → GuardBuf) (y : Core → List Word) :
    s.Posting (s.updCore s.agent fun c => { c with guard := f c, guardVas := y c }) :=
  posting_updCore ⟨s.cur.ptsOf s.who, s.cur.comb, f s.cur, s.cur.tlb, y s.cur, by cases s.who <;> rfl⟩

theorem posting_guardWrite (s : State) (l : Loc) (va n v : Nat) : s.Posting (s.guardWrite s.agent l va n v) :=
  posting_updGuard s (fun c => guardPut c.guard l n v) fun c =>
    if c.guardVas.contains (BitVec.ofNat 64 (va / 128 * 128)) then c.guardVas else c.guardVas ++ [BitVec.ofNat 64 (va / 128 * 128)]

theorem guard_guardWrite (s : State) (l : Loc) (va n v : Nat) :
    (s.guardWrite s.agent l va n v).cur.guard = guardPut s.cur.guard l n v :=
  congrArg Core.guard (State.cur_onCore s _)

theorem posting_guardParts (s : State) (ps : List (Loc × Nat × Nat)) (v : Nat) : s.Posting (s.guardParts ps v) := by
  induction ps generalizing s v with
  | nil => exact .refl s
  | cons x r ih => exact (posting_guardWrite s x.1 x.2.1 x.2.2 v).trans (ih _ _)

/-! #### The guard buffer reads as it was written (R306) -/

theorem find?_guardPut_of_lt (b : GuardBuf) (n v : Nat) {l : Loc} {k : Nat} (h : k < l.key) :
    Cells.find? (guardPut b l n v) k = Cells.find? b k := by
  induction n generalizing b v l with
  | zero => rfl
  | succ n ih =>
    rw [guardPut, ih _ _ (by rw [Loc.key_plus]; omega), Cells.find?_put, if_neg (by omega)]

theorem guardMerge_guardPut (b : GuardBuf) (l : Loc) (n v x : Nat) : guardMerge (guardPut b l n v) l n x = v % 256 ^ n := by
  induction n generalizing b l v x with
  | zero => simp [guardMerge, Nat.mod_one]
  | succ n ih =>
    have hfirst : Cells.find? (guardPut b l (n + 1) v) l.key = some (BitVec.ofNat 8 v) := by
      rw [guardPut, find?_guardPut_of_lt _ _ _ (by rw [Loc.key_plus]; omega), Cells.find?_put_self]
    rw [guardMerge, hfirst]
    show v % 256 + _ = _
    rw [guardPut, ih, Nat.pow_succ, Nat.mul_comm (256 ^ n), Nat.mod_mul]

/-! #### The parts of a store (R98, R284) -/

/-- One part of package memory or scratch is one write. -/
theorem storePart_of_not_system {w : Who} (hw : w.core = s.agent) (hr : s.cur.raceMode = 0) {na posted : Bool} {l : Loc}
    (hl : l.isSystem = false) (va n v : Nat) :
    s.storePart w na posted (l, va, n) v =
      (s.writeAt (s.holders s.agent va) (s.homeOnly w na va) s.pts l n v).1.raisePts (s.writeTs s.pts l) := by
  have h := (storing_writeAt s (s.holders s.agent va) (s.homeOnly w na va) s.pts l n v).trans (storing_raisePts _ (s.writeTs s.pts l))
  simp only [State.storePart, hl, Bool.false_eq_true, if_false, snd_writeAt, noteWrite_eq_self (h.raceMode_core hw hr)]

/-- A part in system space is combined or sent. -/
theorem posting_storePart_of_system (w : Who) (na posted : Bool) {x : Loc × Nat × Nat} (hx : x.1.isSystem = true) (v : Nat) :
    s.Posting (s.storePart w na posted x v) := by
  obtain ⟨l, va, n⟩ := x
  simp only at hx
  simp only [State.storePart, hx, if_true]
  split
  · exact posting_combine s l _
  · exact (posting_sendCombAt s l).trans (posting_sendStore _ _ _ _ _)

theorem storing_storePart {w : Who} (hw : w.core = s.agent) (hr : s.cur.raceMode = 0) (na posted : Bool) (x : Loc × Nat × Nat) (v : Nat) :
    s.Storing (s.storePart w na posted x v) := by
  obtain ⟨l, va, n⟩ := x
  cases hl : l.isSystem with
  | true => exact (posting_storePart_of_system w na posted hl v).toStoring
  | false =>
    rw [storePart_of_not_system hw hr hl]
    exact (storing_writeAt s _ _ _ _ _ _).trans (storing_raisePts _ _)

theorem storing_storeParts {w : Who} (hw : w.core = s.agent) (hr : s.cur.raceMode = 0) (na posted : Bool) (ps : List (Loc × Nat × Nat)) (v : Nat) :
    s.Storing (s.storeParts w na posted ps v) := by
  induction ps generalizing s v with
  | nil => exact .refl s
  | cons x r ih =>
    have h := storing_storePart hw hr na posted x v
    exact h.trans (ih (hw.trans h.agent.symm) (h.cur.raceMode.trans hr) _)

theorem byteAt_raisePts (s : State) (v : Word) (k : Loc) : (s.raisePts v).byteAt k = s.byteAt k := byteAt_updCore _ _ _ _

theorem byteAt_withParts_congr {k : Loc} (h : t.byteAt k = s.byteAt k) (ps : List (Loc × Nat × Nat)) (v : Nat) :
    (t.withParts ps v).byteAt k = (s.withParts ps v).byteAt k := by
  induction ps generalizing s t v with
  | nil => exact h
  | cons x r ih => exact ih (byteAt_putNat_congr h x.1 x.2.2 v) _

theorem byteAt_withParts_of_key_ne {k : Loc} {ps : List (Loc × Nat × Nat)} (h : ∀ p ∈ ps, ∀ j, j < p.2.2 → k.key ≠ (p.1.plus j).key)
    (s : State) (v : Nat) : (s.withParts ps v).byteAt k = s.byteAt k := by
  induction ps generalizing s v with
  | nil => rfl
  | cons x r ih =>
    obtain ⟨hx, hr⟩ := List.forall_mem_cons.mp h
    rw [State.withParts, ih hr, byteAt_putNat_of_key_ne _ _ _ _ hx]

/-- Parts of package memory and scratch are written in turn. -/
theorem byteAt_storeParts {w : Who} (hw : w.core = s.agent) (hr : s.cur.raceMode = 0) {na posted : Bool} {ps : List (Loc × Nat × Nat)}
    (hps : ∀ p ∈ ps, p.1.isSystem = false) (v : Nat) (k : Loc) :
    (s.storeParts w na posted ps v).byteAt k = (s.withParts ps v).byteAt k := by
  induction ps generalizing s v with
  | nil => rfl
  | cons x r ih =>
    obtain ⟨l, va, n⟩ := x
    obtain ⟨hl, hrest⟩ := List.forall_mem_cons.mp hps
    have h := storing_storePart hw hr na posted (l, va, n) v
    refine (ih (hw.trans h.agent.symm) (h.cur.raceMode.trans hr) hrest (v / 256 ^ n)).trans (byteAt_withParts_congr ?_ _ _)
    rw [storePart_of_not_system hw hr hl, byteAt_raisePts, byteAt_writeAt]

theorem tsAt_raisePts (s : State) (v : Word) (l : Loc) : (s.raisePts v).tsAt l = s.tsAt l := by cases l <;> rfl

theorem natAt_raisePts (s : State) (v : Word) (l : Loc) (n : Nat) : (s.raisePts v).natAt l n = s.natAt l n :=
  natAt_congr (funext (byteAt_raisePts s v)) l n

/-- A store within one part takes place at its timestamp (R284). -/
theorem storeParts_one {w : Who} (hw : w.core = s.agent) (hr : s.cur.raceMode = 0) {na posted : Bool} {l : Loc}
    (hl : l.isSystem = false) (va n v : Nat) :
    (s.storeParts w na posted [(l, va, n)] v).natAt l n = v % 256 ^ n ∧
      (s.storeParts w na posted [(l, va, n)] v).tsAt l = ⟨s.writeTs s.pts l, s.writeTs s.pts l⟩ ∧
      (s.storeParts w na posted [(l, va, n)] v).pts = s.writeTs s.pts l := by
  have hwr := storing_writeAt s (s.holders s.agent va) (s.homeOnly w na va) s.pts l n v
  simp only [State.storeParts, storePart_of_not_system hw hr hl, natAt_raisePts, tsAt_raisePts, natAt_writeAt, tsAt_writeAt hl, true_and]
  rw [pts_raisePts, pts_congr (cores_writeAt _ _ _ _ _ _ _) hwr.turn, State.writeTs, wmax_wmax_left]

/-- Parts in system space are sent or combined, and no byte changes yet (R99, R100). -/
theorem posting_storeParts (w : Who) (na posted : Bool) {ps : List (Loc × Nat × Nat)} (hps : ∀ p ∈ ps, p.1.isSystem = true) (v : Nat) :
    s.Posting (s.storeParts w na posted ps v) := by
  induction ps generalizing s v with
  | nil => exact .refl s
  | cons x r ih =>
    obtain ⟨hx, hr⟩ := List.forall_mem_cons.mp hps
    exact (posting_storePart_of_system w na posted hx v).trans (ih hr _)

end Sys2Proof.Machine
end

section
/-! ### The store words (R97, R98, R100, R284, R306) -/

namespace Sys2Proof.Machine

variable {s t u : State}

section Store

variable {va : Word} {n v : Nat} {hint : BitVec 3} {posted sync : Bool} {ps : List (Loc × Nat × Nat)} {k : State → State}

/-- A store outside the surrogate phase, its parts checked. -/
theorem sStore_of_ok (hr : s.cur.raceMode = 0) (hc : s.checkAll (s.whoS sync) .write (partsOf 8 n va.toNat n) = .ok ps)
    (hg : s.cur.surrogate = false) (hf : s.coreFull = false) (hsys : (ps.any fun p => p.1.isSystem) = true → s.storesFull = false) :
    sStore va n hint v posted sync k s =
      k ((s.touchAll (s.whoS sync) hint true ps).storeParts (s.whoS sync) (hintNa hint) posted ps v) := by
  have hfull : (s.coreFull || ((ps.any fun p => p.1.isSystem) && s.storesFull)) = false := by
    cases h : ps.any fun p => p.1.isSystem <;> simp_all
  simp only [sStore, hc, trapRace_eq_none (Core.raceMode_at hr sync), hg, hfull, logRaces_eq_self (Core.raceMode_at hr sync),
    Bool.false_and, Bool.false_eq_true, if_false]

theorem sStore_memory (hr : s.cur.raceMode = 0) (hc : s.checkAll (s.whoS sync) .write (partsOf 8 n va.toNat n) = .ok ps)
    (hg : s.cur.surrogate = false) (hf : s.coreFull = false) (hsys : (ps.all fun p => !p.1.isSystem) = true) :
    ∃ u, sStore va n hint v posted sync k s = k u ∧ s.Storing u ∧
      (∀ l, ¬ s.InRecords l → u.byteAt l = (s.withParts ps v).byteAt l) ∧
      ∀ l b m, ps = [(l, b, m)] → u.natAt l m = v % 256 ^ m ∧ u.tsAt l = ⟨s.writeTs s.pts l, s.writeTs s.pts l⟩ ∧ u.pts = s.writeTs s.pts l := by
  have hpkg : ∀ p ∈ ps, p.1.isSystem = false := fun p hp => by simpa using List.all_eq_true.mp hsys p hp
  have hnone : (ps.any fun p => p.1.isSystem) = false := by
    rw [List.any_eq_false]
    exact fun p hp => by simp [hpkg p hp]
  have hp := prepared_touchAll (core_whoS s sync) hr hint true ps
  have hw : (s.whoS sync).core = (s.touchAll (s.whoS sync) hint true ps).agent := (core_whoS s sync).trans hp.agent.symm
  refine ⟨_, sStore_of_ok hr hc hg hf fun h => absurd h (by simp [hnone]), ?_, fun l hl => ?_, ?_⟩
  · exact hp.storing.trans (storing_storeParts hw (hp.raceMode.trans hr) _ _ _ _)
  · rw [byteAt_storeParts hw (hp.raceMode.trans hr) hpkg]
    exact byteAt_withParts_congr (hp.bytes l hl) _ _
  · rintro l b m rfl
    have h := storeParts_one hw (hp.raceMode.trans hr) (na := hintNa hint) (posted := posted) (hpkg _ (List.mem_singleton.mpr rfl)) b m v
    rw [State.writeTs, hp.tsAt, hp.pts] at h
    exact h

/-- A store of system space changes no byte yet. -/
theorem sStore_system (hr : s.cur.raceMode = 0) (hc : s.checkAll (s.whoS sync) .write (partsOf 8 n va.toNat n) = .ok ps)
    (hg : s.cur.surrogate = false) (hf : s.coreFull = false) (hsys : (ps.all fun p => p.1.isSystem) = true) (hl : s.storesFull = false) :
    ∃ u, sStore va n hint v posted sync k s = k u ∧ s.Storing u ∧ s.SameBytes u := by
  have hp := prepared_touchAll (core_whoS s sync) hr hint true ps
  have hs := posting_storeParts (s := s.touchAll (s.whoS sync) hint true ps) (s.whoS sync) (hintNa hint) posted
    (fun p hp => List.all_eq_true.mp hsys p hp) v
  exact ⟨_, sStore_of_ok hr hc hg hf fun _ => hl, hp.storing.trans hs.toStoring, fun l h => (congrFun hs.bytes l).trans (hp.bytes l h)⟩

/-- In the surrogate phase a store goes to the guard buffer (R306). -/
theorem sStore_guarded (hr : s.cur.raceMode = 0) (hc : s.checkAll (s.whoS sync) .write (partsOf 8 n va.toNat n) = .ok ps)
    (hg : s.cur.surrogate = true) (hh : s.inHusk = false) (hsys : (ps.all fun p => !p.1.isSystem) = true) (hroom : s.guardRoom s.agent ps = true) :
    ∃ u, sStore va n hint v posted sync k s = k u ∧ s.Storing u ∧ (∀ l, u.byteAt l = s.byteAt l) ∧
      ∀ l b m, ps = [(l, b, m)] → guardMerge u.cur.guard l m 0 = v % 256 ^ m := by
  have hnone : (ps.any fun p => p.1.isSystem) = false := by
    rw [List.any_eq_false]
    exact fun p hp => by simpa using List.all_eq_true.mp hsys p hp
  have hp := prepared_noteWalks (core_whoS s sync) ((partsOf 8 n va.toNat n).map fun p => p.1)
  have hs := posting_guardParts (s.noteWalks (s.whoS sync) ((partsOf 8 n va.toNat n).map fun p => p.1)) ps v
  refine ⟨_, ?_, hp.storing.trans hs.toStoring, fun l => (congrFun hs.bytes l).trans ?_, ?_⟩
  · have hm : ((s.noteWalks (s.whoS sync) ((partsOf 8 n va.toNat n).map fun p => p.1)).core (s.whoS sync).core).raceMode = 0 :=
      hp.storing.raceMode_core (core_whoS s sync) hr
    simp only [sStore, hc, trapRace_eq_none (Core.raceMode_at hr sync), hg, hh, hnone, hroom, logRaces_eq_self hm, Bool.not_false,
      Bool.and_self, Bool.false_eq_true, if_false, if_true]
  · obtain ⟨hs, -, -⟩ := onlyTlbs_noteWalks s (s.whoS sync) ((partsOf 8 n va.toNat n).map fun p => p.1)
    rw [hs]
    cases l <;> rfl
  · rintro l b m rfl
    simp only [State.guardParts, guard_guardWrite]
    exact guardMerge_guardPut _ _ _ _ _

theorem sStore_traps {f : Flt} (hc : s.checkAll (s.whoS sync) .write (partsOf 8 n va.toNat n) = .error (some f)) :
    sStore va n hint v posted sync k s =
      (s.noteWalks (s.whoS sync) ((partsOf 8 n va.toNat n).map fun p => p.1)).takeTrap f s.aAddr := by
  simp only [sStore, hc]

end Store

/-- A store that is done: its context stands at the next word. -/
theorem State.Storing.stored (h : s.Storing u) : s.Stored u.advance ∧ (∀ l, u.advance.byteAt l = u.byteAt l) ∧
    u.advance.pts = u.pts ∧ u.advance.cur.guard = u.cur.guard := by
  have hctx : u.advance.ctx = s.ctx.goto (s.pc + 4) := by
    rw [State.ctx_advance, State.pc, h.ctx]; rfl
  obtain ⟨p, b, g, x, y, hc⟩ := h.cur
  have hcur := (onlyCtx_advance u).2
  rw [h.inHusk, hc] at hcur
  refine ⟨⟨fun n hn => ((onlyCtx_advance u).1.2.1 n (h.agent ▸ hn)).trans (h.cores n hn), sameG_of_ctx hctx rfl, sameP_of_ctx hctx rfl, ?_,
    p, b, g, x, y, ?_⟩, (onlyCtx_advance u).1.2.2, ?_, ?_⟩
  · exact standsAt_of_ctx hctx
  · rw [hcur]
    cases s.who <;> cases s.inHusk <;> rfl
  · rw [State.pts, State.cur_advance, State.who_advance, State.pts]
    cases u.who <;> cases u.inHusk <;> rfl
  · rw [State.cur_advance]
    cases u.inHusk <;> rfl

section Words

variable {g a : BitVec 5} {h : BitVec 3} {i : BitVec 10} {x : Nat × Instr}

theorem exec_store (hx : x ∈ storeForms g a h i) (s : State) :
    x.2.legal = true ∧
      exec x.2 s = .next (sWord true x.2 (fun s => sStore (s.ea a i x.1) x.1 h (s.g g).toNat true false State.advance s) s) := by
  simp only [storeForms, List.mem_cons, List.not_mem_nil, or_false] at hx
  obtain rfl | rfl | rfl | rfl := hx <;> exact ⟨rfl, rfl⟩

theorem completes_store {v : Word} (hd : s.HasDisp i v) (hx : x ∈ storeForms g a h i) {P : State → Prop}
    (hP : P (sStore (s.g a + v * BitVec.ofNat 64 x.1) x.1 h (s.g g).toNat true false State.advance s)) : Completes x.2 s P := by
  obtain ⟨hl, he⟩ := exec_store hx s
  obtain ⟨himm, hw⟩ := sWord_of_immediate hd hl (fun s => sStore (s.ea a i x.1) x.1 h (s.g g).toNat true false State.advance s)
  refine ⟨_, he, ?_⟩
  rw [hw, State.ea, himm]
  exact hP

end Words

/-- Settles O16: a store comes to its bytes in memory, is sent, goes to the guard buffer or traps by its checks (`sStore_memory`,
`sStore_system`, `sStore_guarded`, `sStore_traps`), and the lemmas about `State.Storing` say what it leaves of the cores. -/
theorem storeResults : Obligations.StoreResults := by
  refine fun s g a h i v hd hr x hx => ⟨fun ps hc => ⟨fun hg hsys hf => ?_, fun hg hsys hl hf => ?_, fun hg hw hsys hroom => ?_⟩, fun f hu hc => ?_⟩
  · obtain ⟨u, he, hu, hbytes, hone⟩ := sStore_memory (hint := h) (v := (s.g g).toNat) (posted := true) (k := State.advance) hr hc hg hf hsys
    obtain ⟨hst, hb, hpts, -⟩ := hu.stored
    refine completes_store hd hx (by
      rw [he]
      refine ⟨hst, fun l hl => (hb l).trans (hbytes l hl), fun l hl hk => ?_, fun l b n hps => ?_⟩
      · exact (hb l).trans ((hbytes l hl).trans (byteAt_withParts_of_key_ne hk s _))
      · obtain ⟨hnat, hts, hp⟩ := hone l b n hps
        exact ⟨(natAt_congr (funext hb) l n).trans hnat, Eq.trans (by cases l <;> rfl) hts, hpts.trans hp⟩)
  · obtain ⟨u, he, hu, hbytes⟩ := sStore_system (hint := h) (v := (s.g g).toNat) (posted := true) (k := State.advance) hr hc hg hf hsys hl
    obtain ⟨hst, hb, -, -⟩ := hu.stored
    exact completes_store hd hx (by rw [he]; exact ⟨hst, fun l hl => (hb l).trans (hbytes l hl)⟩)
  · have hh : s.inHusk = false := by rw [State.inHusk, hw]; rfl
    obtain ⟨u, he, hu, hbytes, hone⟩ := sStore_guarded (hint := h) (v := (s.g g).toNat) (posted := true) (k := State.advance) hr hc hg hh hsys hroom
    obtain ⟨hst, hb, -, hguard⟩ := hu.stored
    exact completes_store hd hx (by
      rw [he]
      exact ⟨hst, fun l => (hb l).trans (hbytes l), fun l b n hps => by rw [hguard]; exact hone l b n hps⟩)
  · exact completes_store hd hx (by rw [sStore_traps hc]; exact walked_traps hu hd.1 false 8 _ _ f)

end Sys2Proof.Machine
end

section
/-! ### Aligned accesses, and cores that read the same (R101 to R103) -/

namespace Sys2Proof.Machine

variable {s t u : State}

/-! #### Accesses of an aligned place -/

section Aligned

variable {va : Word} {z : BitVec 2} {l : Loc}

/-- An aligned access of up to 8 bytes is one part. -/
theorem partsOf_of_aligned (h : va.toNat % 2 ^ z.toNat = 0) : partsOf 8 (2 ^ z.toNat) va.toNat (2 ^ z.toNat) = [(va.toNat, 2 ^ z.toNat)] := by
  have hz : z.toNat < 4 := z.isLt
  have hfits : va.toNat % 8 + 2 ^ z.toNat ≤ 8 := by
    generalize z.toNat = m at hz h
    interval_cases m <;> omega
  obtain ⟨m, hm⟩ := Nat.exists_eq_succ_of_ne_zero (Nat.two_pow_pos z.toNat).ne'
  conv_lhs => arg 2; rw [hm]
  exact partsOf_of_fits (Nat.two_pow_pos _) hfits m

theorem checkAll_of_aligned {w : Who} {acc : Acc} (h : va.toNat % 2 ^ z.toNat = 0) (hc : s.check w acc va = .ok l) :
    s.checkAll w acc (partsOf 8 (2 ^ z.toNat) va.toNat (2 ^ z.toNat)) = .ok [(l, va.toNat, 2 ^ z.toNat)] := by
  rw [partsOf_of_aligned h]
  exact checkAll_one hc _

end Aligned

/-! #### Cores that read the same -/

section SameCores

variable {c : Cells Core} (h : ∀ n, State.core { s with cores := c } n = s.core n)

include h

theorem launchOf_of_core (n : Nat) : State.launchOf { s with cores := c } n = s.launchOf n := by rw [State.launchOf, h]; rfl

theorem gangOf_of_core (n : Nat) : State.gangOf { s with cores := c } n = s.gangOf n := by rw [State.gangOf, h]; rfl

theorem partOf_of_core (n : Nat) : State.partOf { s with cores := c } n = s.partOf n := by rw [State.partOf, launchOf_of_core h]; rfl

theorem windowOf_of_core (w : Who) (va : Word) : State.windowOf { s with cores := c } w va = s.windowOf w va := by
  unfold State.windowOf State.windowAt
  rw [launchOf_of_core h]

theorem windowCheck_of_core (w : Who) (acc : Acc) (va : Word) : State.windowCheck { s with cores := c } w acc va = s.windowCheck w acc va := by
  unfold State.windowCheck State.phaseOf
  rw [windowOf_of_core h, gangOf_of_core h]

theorem translate_of_core (n : Nat) (user : Bool) (acc : Acc) (va : Word) :
    State.translate { s with cores := c } n user acc va = s.translate n user acc va := by
  unfold State.translate State.translateIn State.leafFor State.tlbOf
  rw [partOf_of_core h, h]
  rfl

theorem check_of_core (w : Who) (acc : Acc) (va : Word) : State.check { s with cores := c } w acc va = s.check w acc va := by
  unfold State.check
  rw [windowOf_of_core h, windowCheck_of_core h, translate_of_core h]
  simp only [State.ideStall, partOf_of_core h]
  rfl

theorem whoAt_of_core (n : Nat) (q : Seq) (floor : Word) (sync : Bool) :
    State.whoAt { s with cores := c } n q floor sync = s.whoAt n q floor sync := by
  unfold State.whoAt
  rw [h, gangOf_of_core h]

theorem whoS_of_core (sync : Bool) : State.whoS { s with cores := c } sync = s.whoS sync := by
  show State.whoAt { s with cores := c } s.agent s.who (State.core { s with cores := c } s.agent).floor sync = _
  rw [h, whoAt_of_core h]
  rfl

end SameCores

/-- With no combining buffer in use their sending only writes the core again. -/
theorem sendAllCombs_of_nil (h : s.cur.comb = []) : ∃ c, s.sendAllCombs s.agent = { s with cores := c } ∧
    ∀ n, State.core { s with cores := c } n = s.core n := by
  refine ⟨Cells.put s.cores s.agent { s.cur with comb := [] }, ?_, fun n => ?_⟩
  · have hc : (s.core s.agent).comb = [] := h
    simp only [State.sendAllCombs, hc]
    rfl
  · refine (State.core_updCore s s.agent n fun c => { c with comb := [] }).trans ?_
    split
    · rename_i hn
      subst hn
      rw [← h]
      rfl
    · rfl

/-- A store that has written `n` bytes at one place, at its timestamp. -/
structure State.WritesAt (s : State) (l : Loc) (n v : Nat) (u : State) : Prop extends s.Storing u where
  value : u.natAt l n = v % 256 ^ n
  frame : ∀ p, ¬ s.InRecords p → (∀ j, j < n → p.key ≠ (l.plus j).key) → u.byteAt p = s.byteAt p
  ts : u.tsAt l = ⟨s.writeTs s.pts l, s.writeTs s.pts l⟩
  pts : u.pts = s.writeTs s.pts l

theorem sStore_aligned {va : Word} {z : BitVec 2} {l : Loc} {k : State → State} {v : Nat} (hr : s.cur.raceMode = 0)
    (hg : s.cur.surrogate = false) (ha : va.toNat % 2 ^ z.toNat = 0) (hf : s.coreFull = false)
    (hc : s.check (s.whoS true) .write va = .ok l) (hl : l.isSystem = false) :
    ∃ u, sStore va (2 ^ z.toNat) 0 v false true k s = k u ∧ s.WritesAt l (2 ^ z.toNat) v u := by
  obtain ⟨u, he, hu, hbytes, hone⟩ := sStore_memory (hint := 0) (v := v) (posted := false) (k := k) hr (checkAll_of_aligned ha hc) hg hf
    (by simp [hl])
  obtain ⟨hnat, hts, hp⟩ := hone _ _ _ rfl
  refine ⟨u, he, hu, hnat, fun p hrec hk => ?_, hts, hp⟩
  rw [hbytes p hrec]
  exact byteAt_withParts_of_key_ne (fun q hq j hj => by obtain rfl := List.mem_singleton.mp hq; exact hk j hj) s v

theorem State.WritesAt.of_cores {c : Cells Core} {l : Loc} {n v : Nat} (hc : ∀ n, State.core { s with cores := c } n = s.core n)
    (h : State.WritesAt { s with cores := c } l n v u) : s.WritesAt l n v u := by
  obtain ⟨⟨hturn, hcores, hcur⟩, hvalue, hframe, hts, hpts⟩ := h
  have hcur' : State.cur { s with cores := c } = s.cur := hc _
  have hwts : State.writeTs { s with cores := c } (State.pts { s with cores := c }) l = s.writeTs s.pts l :=
    congrArg (fun x : Core => s.writeTs (x.ptsOf s.who) l) hcur'
  rw [hwts] at hts hpts
  exact ⟨⟨hturn, fun n hn => (hcores n hn).trans (hc n), hcur' ▸ hcur⟩, hvalue,
    fun p hp hk => (hframe p hp hk).trans (by cases p <;> rfl), hts, hpts⟩

/-! #### The words -/

section Words

variable {d a : BitVec 5} {z : BitVec 2} {y : BitVec 1} {i : BitVec 10} {v : Word}

theorem completes_ldaq (hd : s.HasDisp i v) {va : Word} (hva : va = s.g a + v * BitVec.ofNat 64 (2 ^ z.toNat)) {P : State → Prop}
    (hP : P (if va.toNat % 2 ^ z.toNat ≠ 0 then s.takeTrap ⟨0x03, va, 0⟩ s.pc
      else sLoad va (2 ^ z.toNat) 0 d false (y == 0) true (fun s v => ((s.setG d (BitVec.ofNat 64 v)).setFloor).advance) s)) :
    Completes (.ldaq d a z y i) s P := by
  obtain ⟨himm, hw⟩ := sWord_of_immediate hd (i := .ldaq d a z y i) rfl _
  refine ⟨_, rfl, ?_⟩
  rw [hw]
  simp only [State.ea, himm]
  subst hva
  exact hP

theorem completes_strl (hd : s.HasDisp i v) {va : Word} (hva : va = s.g a + v * BitVec.ofNat 64 (2 ^ z.toNat)) {P : State → Prop}
    (hP : P (if va.toNat % 2 ^ z.toNat ≠ 0 then s.takeTrap ⟨0x03, va, 0⟩ s.pc
      else
        let s1 := if y = 1 then s.sendAllCombs s.agent else s
        if s1.memPending || (y == 1 && s1.sysPending) then s1.await .memory
        else sStore va (2 ^ z.toNat) 0 (s1.g d).toNat false true State.advance s1)) :
    Completes (.strl d a z y i) s P := by
  obtain ⟨himm, hw⟩ := sWord_of_immediate hd (i := .strl d a z y i) rfl _
  refine ⟨_, rfl, ?_⟩
  rw [hw]
  simp only [State.ea, himm]
  subst hva
  exact hP

end Words

end Sys2Proof.Machine
end

section
/-! ### What the ordering accesses wait for and leave (R101 to R103) -/

namespace Sys2Proof.Machine

variable {s t u : State}

/-- SYNC_FLOOR is of no context, and no PTS. -/
theorem advance_setFloor (s : State) : (∀ n, n ≠ s.agent → s.setFloor.advance.core n = s.core n) ∧ (∀ l, s.setFloor.advance.byteAt l = s.byteAt l) ∧
    s.setFloor.advance.ctx = s.advance.ctx ∧ s.setFloor.advance.pts = s.pts ∧
    s.setFloor.advance.cur.floor = if s.inHusk then s.cur.floor else s.setFloor.advance.cur.pts := by
  obtain ⟨⟨-, hcores, hbytes⟩, -⟩ := onlyCtx_advance s.setFloor
  have ha : s.setFloor.agent = s.agent := (onlyCore_setFloor s).agent
  have hctx : s.setFloor.ctx = s.ctx := by
    rw [State.ctx, (onlyCore_setFloor s).inHusk, State.cur, ha, ctx_setFloor_core]
    rfl
  refine ⟨fun n hn => (hcores n (ha ▸ hn)).trans (core_setFloor_ne s hn), fun l => (hbytes l).trans (byteAt_setFloor s l),
    by rw [State.ctx_advance, State.ctx_advance, State.pc, hctx]; rfl, ?_, ?_⟩
  · rw [State.pts, State.cur_advance, State.who_advance, State.pts, (onlyCore_setFloor s).inHusk, (onlyCore_setFloor s).who]
    cases hh : s.inHusk
    · rw [State.setFloor, hh, if_neg Bool.false_ne_true, State.cur_onCore]
      cases s.who <;> rfl
    · rw [State.setFloor, if_pos hh]
      cases s.who <;> rfl
  · rw [State.cur_advance, (onlyCore_setFloor s).inHusk]
    cases hh : s.inHusk
    · rw [State.setFloor, hh, if_neg Bool.false_ne_true, State.cur_onCore]
      rfl
    · rw [State.setFloor, if_pos hh]
      rfl

/-- What LDAQ does with the value that it has read (R101). -/
theorem State.Loading.acquired (h : s.Loading u) (d : BitVec 5) (w : Word) :
    (∀ n, n ≠ s.agent → (u.setG d w).setFloor.advance.core n = s.core n) ∧ s.SameBytes (u.setG d w).setFloor.advance ∧
      (u.setG d w).setFloor.advance.StandsAt (s.pc + 4) ∧ s.PutG d w (u.setG d w).setFloor.advance ∧
      (u.setG d w).setFloor.advance.pts = u.pts ∧
      (u.setG d w).setFloor.advance.cur.floor = if s.inHusk then s.cur.floor else (u.setG d w).setFloor.advance.cur.pts := by
  obtain ⟨⟨-, -, hat, -⟩, hput, hpts⟩ := h.read_setG d w
  obtain ⟨⟨-, hsc, hsb⟩, hcur⟩ := onlyCtx_setG u d w
  obtain ⟨hcores, hbytes, hctx, hp, hf⟩ := advance_setFloor (u.setG d w)
  have hfloor : (u.setG d w).cur.floor = s.cur.floor := by
    obtain ⟨p, l, k, x, hc⟩ := h.cur
    rw [hcur, hc]
    cases u.inHusk <;> cases s.who <;> rfl
  refine ⟨fun n hn => ?_, fun l hl => ?_, ?_, ?_, ?_, ?_⟩
  · rw [hcores n (by rw [State.agent_setG, h.agent]; exact hn), hsc n (by rw [h.agent]; exact hn), h.cores n hn]
  · rw [hbytes, hsb, h.bytes l hl]
  · simpa only [State.StandsAt, State.pc, hctx] using hat
  · simpa only [State.PutG, State.SameP, State.g, State.p, hctx] using hput
  · rw [hp, ← hpts, State.pts, State.pts, State.cur_advance, State.who_advance]
    cases (u.setG d w).who <;> cases (u.setG d w).inHusk <;> rfl
  · rw [hf, State.inHusk_setG, h.inHusk, hfloor]

/-- STRL with no earlier access outstanding (R102). -/
theorem strl_performs {va : Word} {d : BitVec 5} {z : BitVec 2} {y : BitVec 1} {l : Loc} (hr : s.cur.raceMode = 0)
    (hg : s.cur.surrogate = false) (ha : va.toNat % 2 ^ z.toNat = 0) (hf : s.coreFull = false)
    (hc : s.check (s.whoS true) .write va = .ok l) (hl : l.isSystem = false) (hm : s.memPending = false)
    (hy : y = 1 → s.cur.comb = [] ∧ s.sysPending = false) :
    ∃ u, (let s1 := if y = 1 then s.sendAllCombs s.agent else s
      if s1.memPending || (y == 1 && s1.sysPending) then s1.await .memory
      else sStore va (2 ^ z.toNat) 0 (s1.g d).toNat false true State.advance s1) = u.advance ∧ s.WritesAt l (2 ^ z.toNat) (s.g d).toNat u := by
  by_cases h1 : y = 1
  · obtain ⟨hcomb, hsys⟩ := hy h1
    obtain ⟨c, hsend, hcores⟩ := sendAllCombs_of_nil hcomb
    have hcur : State.cur { s with cores := c } = s.cur := hcores _
    have hgd : State.g { s with cores := c } d = s.g d := congrArg (fun x : Core => (x.ctx s.inHusk).getG d) hcur
    obtain ⟨u, he, hu⟩ := sStore_aligned (s := { s with cores := c }) (v := (s.g d).toNat) (k := State.advance) (hcur ▸ hr) (hcur ▸ hg) ha hf
      (by rw [whoS_of_core hcores, check_of_core hcores]; exact hc) hl
    refine ⟨u, ?_, hu.of_cores hcores⟩
    have hwait : (State.memPending { s with cores := c } || (y == 1 && State.sysPending { s with cores := c })) = false := by
      have hm' : State.memPending { s with cores := c } = false := hm
      have hs' : State.sysPending { s with cores := c } = false := hsys
      rw [hm', hs', Bool.and_false]
      rfl
    simp only [h1, if_true, hsend]
    rw [h1] at hwait
    rw [hwait, if_neg Bool.false_ne_true, hgd, he]
  · obtain ⟨u, he, hu⟩ := sStore_aligned (v := (s.g d).toNat) (k := State.advance) hr hg ha hf hc hl
    have hy0 : (y == 1) = false := beq_false_of_ne h1
    exact ⟨u, by simp only [h1, hy0, hm, if_false, Bool.false_and, Bool.or_self, Bool.false_eq_true]; exact he, hu⟩

/-- Settles O17: LDAQ is a load that sets SYNC_FLOOR behind it (`State.Loading.acquired`), STRL a store of one part
(`strl_performs`), and both trap where their address is not aligned. -/
theorem orderingAccesses : Obligations.OrderingAccesses := by
  refine fun s d a z y i v va hd hva => ⟨fun hg hr ha hf => ⟨fun l hc hl hcopy hn => ?_, fun l hc hl hm hy => ?_, fun hm hy => ?_⟩,
    fun hu hmis => ⟨?_, ?_⟩⟩
  · have hne : ¬ va.toNat % 2 ^ z.toNat ≠ 0 := fun h => h ha
    obtain ⟨u, m, he, hu, hval⟩ := sLoad_value (hint := 0) (gd := d) (signed := false) (plain := y == 0) (sync := true)
      (k := fun s v => ((s.setG d (BitVec.ofNat 64 v)).setFloor).advance) hr (checkAll_of_aligned ha hc) (by simp [hl]) hf
    obtain ⟨rfl, hp⟩ := hval ⟨.inr ⟨l, _, _, rfl, hcopy⟩, fun x hx => by obtain rfl := List.mem_singleton.mp hx; exact hn⟩
    have hm : s.valueOf [(l, va.toNat, 2 ^ z.toNat)] = s.natAt l (2 ^ z.toNat) := by
      simp only [State.valueOf, State.surrogateNow, hg, Bool.false_and, Bool.false_eq_true, if_false, Nat.mul_zero, Nat.add_zero]
    obtain ⟨hcores, hbytes, hat, hput, hpts, hfloor⟩ := hu.acquired d (BitVec.ofNat 64 (s.valueOf [(l, va.toNat, 2 ^ z.toNat)]))
    refine completes_ldaq hd hva ?_
    rw [if_neg hne, he]
    exact ⟨hcores, hbytes, hat, hm ▸ hput, hpts.trans hp, hfloor⟩
  · have hne : ¬ va.toNat % 2 ^ z.toNat ≠ 0 := fun h => h ha
    obtain ⟨u, he, hu⟩ := strl_performs (d := d) hr hg ha hf hc hl hm hy
    obtain ⟨hst, hb, hpts, -⟩ := hu.stored
    refine completes_strl hd hva ?_
    rw [if_neg hne, he]
    exact ⟨hst, (natAt_congr (funext hb) l _).trans hu.value, fun p hp hk => (hb p).trans (hu.frame p hp hk),
      Eq.trans (by cases l <;> rfl) hu.ts, hpts.trans hu.pts⟩
  · have hne : ¬ va.toNat % 2 ^ z.toNat ≠ 0 := fun h => h ha
    obtain ⟨hctx, -, -, hpc, hstat⟩ := waits_await s .memory
    refine completes_strl hd hva ?_
    subst hy
    rw [if_neg hne]
    have h01 : ¬ (0 : BitVec 1) = 1 := by decide
    simp only [if_neg h01, hm, Bool.true_or, if_true]
    exact ⟨hctx, hpc, hstat⟩
  · exact completes_ldaq hd hva (by rw [if_pos hmis]; exact trapped_takeTrap hu ⟨0x03, va, 0⟩ s.pc)
  · exact completes_strl hd hva (by rw [if_pos hmis]; exact trapped_takeTrap hu ⟨0x03, va, 0⟩ s.pc)

end Sys2Proof.Machine
end

section
/-! ### Atomics: their checks and their place (R52, R98, R115 to R119, R284) -/

namespace Sys2Proof.Machine

variable {s t u : State}

/-! #### The checks of an atomic (R98, R115, R116) -/

/-- An atomic that does not return passes the checks that one that returns passes (R116). -/
theorem check_late {w : Who} {acc : Acc} {va : Word} {l : Loc} (hw : w.late = false) (h : s.check w acc va = .ok l) (late : Bool) :
    s.check { w with late := late } acc va = .ok l := by
  obtain ⟨core, q, engine, cls, ranks, user, floor, sync, launch, buf⟩ := w
  subst hw
  cases late with
  | false => exact h
  | true =>
    unfold State.check at h ⊢
    have hwin : s.windowCheck ⟨core, q, engine, cls, ranks, user, floor, sync, launch, buf, true⟩ acc va =
      s.windowCheck ⟨core, q, engine, cls, ranks, user, floor, sync, launch, buf, false⟩ acc va := rfl
    have hide : ∀ p, s.ideStall ⟨core, q, engine, cls, ranks, user, floor, sync, launch, buf, true⟩ acc p =
      s.ideStall ⟨core, q, engine, cls, ranks, user, floor, sync, launch, buf, false⟩ acc p := fun p => by cases p <;> rfl
    simp only [hwin, hide] at h ⊢
    generalize s.windowCheck ⟨core, q, engine, cls, ranks, user, floor, sync, launch, buf, false⟩ acc va = win at h ⊢
    by_cases hr : scratchBase ≤ va.toNat ∧ va.toNat < 2 ^ 56
    · simp only [if_pos hr] at h ⊢
      cases hp : s.scratchLoc (podOf core) (va.toNat - scratchBase) with
      | none => simp [hp] at h
      | some p =>
        cases hv : s.converting p with
        | true => simp [hp, hv] at h
        | false =>
          cases win with
          | some f => simp [hp, hv] at h
          | none =>
            cases he : s.eccAt p va with
            | some f => simp [hp, hv, he] at h
            | none => simpa [hp, hv, he] using h
    · simp only [if_neg hr] at h ⊢
      cases hp : s.translate core user acc va with
      | error f => simp [hp] at h
      | ok p =>
        cases win with
        | some f => simp [hp] at h
        | none =>
          cases hs : s.ideStall ⟨core, q, engine, cls, ranks, user, floor, sync, launch, buf, false⟩ acc p with
          | true => simp [hp, hs] at h
          | false =>
            cases he : s.eccAt p va with
            | some f => simp [hp, hs, he] at h
            | none => simpa [hp, hs, he] using h

section Checks

variable {va : Word} {align n : Nat} {l : Loc} {late : Bool} {k : Loc → State → State}

/-- A place aligned to a divisor of a line holds as many bytes of its line. -/
theorem fits_of_aligned {va align n : Nat} (ha : va % align = 0) (hd : align ∣ 128) (hn : n ≤ align) : va % 128 + n ≤ 128 := by
  obtain ⟨c, hc⟩ := hd
  obtain ⟨q, hq⟩ : align ∣ va % 128 := Nat.dvd_of_mod_eq_zero (by rw [Nat.mod_mod_of_dvd _ ⟨c, hc⟩, ha])
  have hlt : align * q < align * c := by rw [← hq, ← hc]; exact Nat.mod_lt _ (by decide)
  have hle : align * (q + 1) ≤ align * c := Nat.mul_le_mul_left _ (Nat.lt_of_mul_lt_mul_left hlt)
  rw [hq, hc]
  rw [Nat.mul_add, Nat.mul_one] at hle
  omega

theorem atomicCheck_misaligned (ha : va.toNat % align ≠ 0) : atomicCheck late va align n k s = s.takeTrap ⟨0x03, va, 0⟩ s.pc := if_pos ha

/-- An atomic that passes its checks and lies within a line. -/
theorem atomicCheck_ok (hr : s.cur.raceMode = 0) (ha : va.toNat % align = 0) (hn : 0 < n) (hfit : va.toNat % 128 + n ≤ 128)
    (hc : s.check (s.whoS true) .atomic va = .ok l) :
    (s.coreFull = true → atomicCheck late va align n k s = s.await .memory) ∧
      (s.coreFull = false → ∃ u, s.Prepared u ∧ ∀ k, atomicCheck late va align n k s = k l u) := by
  have hm : (s.core s.agent).raceMode = 0 := hr
  have hw : (s.core ({ s.whoS true with late := late } : Who).core).raceMode = 0 := by simp only [core_whoS, hm]
  have hok : s.checkAll { s.whoS true with late := late } .atomic (partsOf 128 2 va.toNat n) = .ok [(l, va.toNat, n)] := by
    rw [partsOf_of_fits hn hfit]
    exact checkAll_one (check_late (late_whoAt _ _ _ _ _) hc late) n
  have hal : ¬ va.toNat % align ≠ 0 := fun h => h ha
  simp only [atomicCheck, if_neg hal, hok, trapRace_eq_none hw, logRaces_eq_self hw]
  exact ⟨fun hf => if_pos hf, fun hf => ⟨_, prepared_touchAll (core_whoS s true) hr 0 true _, fun _ => if_neg (by simp [hf])⟩⟩

end Checks

/-! #### One read and one write at one timestamp (R115, R284) -/

theorem atomicFor_spec {w : Who} (hr : (s.core w.core).raceMode = 0) {l : Loc} (hl : l.isSystem = false) (p va : Word) (n : Nat) (f : Nat → Nat) :
    ∃ hs na, s.atomicFor w p l va n f = ((s.writeAt hs na p l n (f (s.natAt l n))).1, s.natAt l n, s.writeTs p l) := by
  refine ⟨s.holders w.core va.toNat, s.homeOnly w false va.toNat, ?_⟩
  have hw : ((s.writeAt (s.holders w.core va.toNat) (s.homeOnly w false va.toNat) p l n (f (s.natAt l n))).1.core w.core).raceMode = 0 := by
    rw [State.core_congr (cores_writeAt _ _ _ _ _ _ _)]
    exact hr
  simp only [State.atomicFor, State.atomicAt, hl, Bool.false_eq_true, if_false, noteWrite_eq_self hw, snd_writeAt]

/-- The core of a sequencer after an atomic: its PTS, the count of its FADDs and the TLB differ. -/
def Core.ServedBy (q : Seq) (c d : Core) : Prop := ∃ p f x, d = { c.setPts q p with fadds := f, tlb := x }

/-- An atomic that has written `n` bytes at one place, at its timestamp. -/
structure State.AtomicAt (s : State) (l : Loc) (n v : Nat) (u : State) : Prop where
  turn : u.turn = s.turn
  cores : ∀ k, k ≠ s.agent → u.core k = s.core k
  cur : s.cur.ServedBy s.who u.cur
  value : u.natAt l n = v % 256 ^ n
  frame : ∀ p, ¬ s.InRecords p → (∀ j, j < n → p.key ≠ (l.plus j).key) → u.byteAt p = s.byteAt p
  ts : u.tsAt l = ⟨s.writeTs s.pts l, s.writeTs s.pts l⟩
  pts : u.pts = s.writeTs s.pts l

theorem byteAt_writeAt_of_key_ne (s : State) (hs : List Holder) (na : Bool) (p : Word) (l : Loc) (n v : Nat) {k : Loc}
    (h : ∀ j, j < n → k.key ≠ (l.plus j).key) : (s.writeAt hs na p l n v).1.byteAt k = s.byteAt k := by
  rw [byteAt_writeAt, byteAt_putNat_of_key_ne _ _ _ _ h]

/-- An atomic of S at its place, after its walk and its touch. -/
theorem State.Prepared.atomicAt (h : s.Prepared u) {l : Loc} (hl : l.isSystem = false) (hs : List Holder) (na : Bool) (n v : Nat) :
    s.AtomicAt l n v ((u.writeAt hs na u.pts l n v).1.raisePts (u.writeTs u.pts l)) := by
  have hts : u.writeTs u.pts l = s.writeTs s.pts l := by rw [State.writeTs, State.writeTs, h.tsAt, h.pts]
  have hw := h.storing.trans ((storing_writeAt u hs na u.pts l n v).trans (storing_raisePts _ (u.writeTs u.pts l)))
  have hcur := cur_congr (cores_writeAt u hs na u.pts l n v) (storing_writeAt u hs na u.pts l n v).turn
  obtain ⟨x, hx⟩ := h.tlb
  refine ⟨hw.turn, hw.cores, ⟨wmax (s.cur.ptsOf s.who) (u.writeTs u.pts l), s.cur.fadds, x, ?_⟩, ?_, fun p hp hk => ?_, ?_, ?_⟩
  · rw [State.cur_raisePts, State.who, (storing_writeAt u hs na u.pts l n v).turn, hcur, hx, h.turn, ← State.who]
    cases s.who <;> rfl
  · rw [natAt_raisePts, natAt_writeAt]
  · rw [byteAt_raisePts, byteAt_writeAt_of_key_ne _ _ _ _ _ _ _ hk, h.bytes p hp]
  · rw [tsAt_raisePts, tsAt_writeAt hl, hts]
  · rw [pts_raisePts, pts_congr (cores_writeAt _ _ _ _ _ _ _) (storing_writeAt u hs na u.pts l n v).turn, State.writeTs, wmax_wmax_left]
    exact hts

/-- The count of the FADDs of a core (R396). -/
theorem State.AtomicAt.onFadds {l : Loc} {n v : Nat} (h : s.AtomicAt l n v u) (f : Core → Nat) :
    s.AtomicAt l n v (u.onCore fun c => { c with fadds := f c }) := by
  obtain ⟨p, m, x, hc⟩ := h.cur
  have ha := State.agent_congr h.turn
  refine ⟨h.turn, fun k hk => (State.core_onCore_ne u (ha ▸ hk) _).trans (h.cores k hk), ⟨p, f u.cur, x, ?_⟩,
    (natAt_congr (funext (onlyCore_onCore u _).2.2) l n).trans h.value, fun q hq hk => ((onlyCore_onCore u _).2.2 q).trans (h.frame q hq hk),
    Eq.trans (by cases l <;> rfl) h.ts, Eq.trans ?_ h.pts⟩
  · rw [State.cur_onCore, hc]
  · rw [State.pts, State.cur_onCore, State.pts, State.who_onCore]
    cases u.who <;> rfl

/-- An atomic whose result goes into gd. -/
theorem State.AtomicAt.atomic {l : Loc} {n v : Nat} (h : s.AtomicAt l n v u) (d : BitVec 5) (r : Word) : s.Atomic d l n v r (u.setG d r).advance := by
  obtain ⟨p, m, x, hc⟩ := h.cur
  have ha := State.agent_congr h.turn
  have hw : u.who = s.who := by simp only [State.who, h.turn]
  have hh : u.inHusk = s.inHusk := by simp only [State.inHusk, hw]
  have hctx0 : u.ctx = s.ctx := by
    rw [State.ctx, hc, hh, State.ctx]
    cases s.who <;> cases s.inHusk <;> rfl
  have hctx : (u.setG d r).advance.ctx = (s.ctx.setG d r).goto (s.pc + 4) := by
    rw [State.ctx_advance, State.ctx_setG, State.pc_setG, State.pc, hctx0]; rfl
  obtain ⟨⟨-, hcores, hbytes⟩, hcur⟩ := (onlyCtx_setG u d r).trans (onlyCtx_advance (u.setG d r))
  refine ⟨fun k hk => (hcores k (ha ▸ hk)).trans (h.cores k hk), putG_of_ctx hctx, standsAt_of_ctx hctx,
    (natAt_congr (funext hbytes) l n).trans h.value, fun q hq hk => (hbytes q).trans (h.frame q hq hk), Eq.trans (by cases l <;> rfl) h.ts,
    Eq.trans ?_ h.pts, p, m, x, ?_⟩
  · rw [State.pts, hcur, State.who_advance, State.who_setG, State.pts]
    cases u.who <;> cases u.inHusk <;> rfl
  · rw [hcur, hc, hh]
    cases s.who <;> cases s.inHusk <;> rfl

end Sys2Proof.Machine
end

section
/-! ### The atomics of S (Table 05.4, R52, R115, R117) -/

namespace Sys2Proof.Machine

variable {s t u : State}

/-! #### Values (Table 05.4) -/

theorem natAt_lt (s : State) (l : Loc) (n : Nat) : s.natAt l n < 256 ^ n := by
  induction n generalizing l with
  | zero => exact Nat.one_pos
  | succ n ih =>
    have hb := (s.byteAt l).isLt
    have hr := ih (l.plus 1)
    rw [State.natAt, Nat.pow_succ]
    omega

theorem signedOf_toNat {w : Nat} (x : BitVec w) : signedOf w x.toNat = x.toInt := by
  have hx := x.isLt
  rw [signedOf, BitVec.toInt_eq_toNat_cond]
  simp only [Nat.mod_eq_of_lt hx, Nat.cast_pow, Nat.cast_ofNat]

theorem signedOf_mod (w n : Nat) : signedOf w (n % 2 ^ w) = signedOf w n := by simp only [signedOf, Nat.mod_mod]

/-- The operations of Table 05.4 by fn, on numbers of `w` bits. -/
def amoOp (w : Nat) : Nat → BitVec w → BitVec w → BitVec w
  | 0 => fun _ v => v
  | 1 => fun m v => m + v
  | 2 => fun m v => m &&& v
  | 3 => fun m v => m ||| v
  | 4 => fun m v => m ^^^ v
  | 5 => fun m v => if m.toInt ≤ v.toInt then m else v
  | 6 => fun m v => if m.toInt ≤ v.toInt then v else m
  | 7 => fun m v => if m.toNat ≤ v.toNat then m else v
  | _ => fun m v => if m.toNat ≤ v.toNat then v else m

theorem toNat_ofNat_of_lt {w n : Nat} (h : n < 2 ^ w) : (BitVec.ofNat w n).toNat = n := by
  rw [BitVec.toNat_ofNat, Nat.mod_eq_of_lt h]

theorem atomicValue_eq {fn size : Nat} (hfn : fn ≤ 8) (hsize : 8 * size ≤ 64) (m v : Word) :
    (atomicValue fn size m v).toNat = (amoOp (8 * size) fn (BitVec.ofNat _ m.toNat) (BitVec.ofNat _ v.toNat)).toNat := by
  have hlt : ∀ x : BitVec (8 * size), (BitVec.ofNat 64 x.toNat).toNat = x.toNat := fun x =>
    toNat_ofNat_of_lt (Nat.lt_of_lt_of_le x.isLt (Nat.pow_le_pow_right (by decide) hsize))
  have hu : ∀ w : Word, w.toNat % 2 ^ (8 * size) = (BitVec.ofNat (8 * size) w.toNat).toNat := fun w => (BitVec.toNat_ofNat _ _).symm
  have hs : ∀ w : Word, signedOf (8 * size) w.toNat = (BitVec.ofNat (8 * size) w.toNat).toInt := fun w => by
    rw [← signedOf_toNat, BitVec.toNat_ofNat, signedOf_mod]
  simp only [atomicValue, hu, hs]
  generalize BitVec.ofNat (8 * size) m.toNat = x
  generalize BitVec.ofNat (8 * size) v.toNat = y
  interval_cases fn
  · exact hlt y
  · exact (congrArg (fun n => (BitVec.ofNat 64 n).toNat) (BitVec.toNat_add x y).symm).trans (hlt (x + y))
  · exact (BitVec.toNat_and _ _).trans (by rw [hlt, hlt]; exact (BitVec.toNat_and _ _).symm)
  · exact (BitVec.toNat_or _ _).trans (by rw [hlt, hlt]; exact (BitVec.toNat_or _ _).symm)
  · exact (BitVec.toNat_xor _ _).trans (by rw [hlt, hlt]; exact (BitVec.toNat_xor _ _).symm)
  · simp only [amoOp, ← apply_ite BitVec.toNat, hlt]
  · simp only [amoOp, ← apply_ite BitVec.toNat, hlt]
  · simp only [amoOp, ← apply_ite BitVec.toNat, hlt]
  · simp only [amoOp, ← apply_ite BitVec.toNat, hlt]

/-! #### The words -/

theorem State.Prepared.partOf (h : s.Prepared u) : u.partOf u.agent = s.partOf s.agent := by
  obtain ⟨x, hx⟩ := h.tlb
  have hb : (u.core u.agent).binding = (s.core s.agent).binding := by
    rw [← State.cur, hx]
    rfl
  have hl : u.launchOf u.agent = s.launchOf s.agent := by
    rw [State.launchOf, hb, h.tables]
    rfl
  rw [State.partOf, hl, h.agent, h.tables]
  rfl

theorem State.Prepared.recMode (h : s.Prepared u) (part : Nat) : u.recMode part = s.recMode part := by rw [h.tables]; rfl

theorem State.Prepared.g (h : s.Prepared u) (r : BitVec 5) : u.g r = s.g r := by rw [State.g, h.ctx]; rfl

theorem State.NoRecord.mono {l : Loc} {m n : Nat} (h : s.NoRecord l n) (hm : m ≤ n) : s.NoRecord l m := fun j hj => h j (by omega)

theorem faddGo_of_off {part line : Nat} {key : List Nat} (h : s.recMode part = 0) : s.faddGo part line key = true := by
  simp only [State.faddGo, h]

theorem faddDone_of_off {part line : Nat} {key : List Nat} (h : s.recMode part = 0) : s.faddDone part line key = s := by
  simp only [State.faddDone, h]

theorem recMode_writeAt_raisePts (s : State) (hs : List Holder) (na : Bool) (p : Word) (l : Loc) (n v : Nat) {part : Nat} {ts : Word}
    (h : s.recMode part = 0) : ((s.writeAt hs na p l n v).1.raisePts ts).recMode part = 0 := by
  show (s.writeAt hs na p l n v).1.recMode part = 0
  rw [accessTables_writeAt s hs na p l n v]
  exact h

section Amo

variable {d a b : BitVec 5} {z : BitVec 3} {l : Loc} {fn size : Nat}

/-- An access size of an atomic in bytes divides a line. -/
def AtomicSize (n : Nat) : Prop := n = 4 ∨ n = 8 ∨ n = 128

theorem AtomicSize.spec {n : Nat} (h : AtomicSize n) : 0 < n ∧ n ∣ 128 ∧ n ≤ 128 := by
  obtain rfl | rfl | rfl := h <;> decide

theorem amo_atomic (hn : AtomicSize (atomicBytes fn size)) (h : s.AtomicReady (s.g a) (atomicBytes fn size) l)
    (hfadd : fn = 9 → s.recMode ((s.partOf s.agent).getD 0) = 0) :
    s.Atomic d l (atomicBytes fn size) (atomicStep fn size (s.natAt l (atomicBytes fn size)) (s.g b)).2
      (atomicResult fn size (atomicStep fn size (s.natAt l (atomicBytes fn size)) (s.g b)).1) (amo fn size d a b s) := by
  obtain ⟨-, hsur, hr, ha, hc, hl, hrec, hf⟩ := h
  obtain ⟨hpos, hdvd, hle⟩ := hn.spec
  obtain ⟨u, hu, he⟩ := (atomicCheck_ok (late := false) (k := fun _ s => s) hr ha hpos (fits_of_aligned ha hdvd le_rfl) hc).2 hf
  have hm : (u.core (u.whoS true).core).raceMode = 0 := Core.raceMode_at (hu.raceMode.trans hr) true
  obtain ⟨hs, na, hat⟩ := atomicFor_spec hm hl u.pts (u.g a) (atomicBytes fn size) fun m => (atomicStep fn size m (u.g b)).2
  have hdone := hu.atomicAt hl hs na (atomicBytes fn size) (atomicStep fn size (u.natAt l (atomicBytes fn size)) (u.g b)).2
  have hval : u.natAt l (atomicBytes fn size) = s.natAt l (atomicBytes fn size) := natAt_of_sameBytes hu.bytes (hrec.mono hle)
  rw [amo, if_neg (by simp [hsur])]
  simp only [he, State.behindSys, hl, Bool.false_and, Bool.false_eq_true, if_false, hat]
  rw [hval, hu.g b] at hdone
  simp only [hval, hu.g b]
  by_cases h9 : fn = 9
  · have hmode : u.recMode ((u.partOf u.agent).getD 0) = 0 := by rw [hu.recMode, hu.partOf]; exact hfadd h9
    simp only [h9, faddGo_of_off hmode, Bool.not_true, Bool.and_false, Bool.false_eq_true, if_false, if_true]
    rw [faddDone_of_off (recMode_writeAt_raisePts u hs na u.pts l _ _ hmode)]
    exact (h9 ▸ hdone.onFadds fun c => c.fadds + 1).atomic d _
  · simp only [h9, if_false, beq_eq_false_iff_ne.mpr h9, Bool.false_and, Bool.false_eq_true]
    exact hdone.atomic d _

theorem completes_amo {i : Instr} (hp : s.Plain) (hl : i.legal = true) {body : State → State} (he : exec i s = .next (sWord false i body s))
    {P : State → Prop} (hP : P (body s)) : Completes i s P :=
  ⟨_, he, by rw [sWord_plain hp false hl]; exact hP⟩

/-- Each form of Table 05.4 with fn 0 to 8. -/
theorem amoForms_spec (hz : z.toNat ≤ 1) {w : Nat} {x : Instr × Bool × (BitVec w → BitVec w → BitVec w)} (hx : x ∈ amoForms d a b z w) :
    ∃ fn, fn ≤ 8 ∧ x.1.legal = true ∧ (∀ s, exec x.1 s = .next (sWord false x.1 (amo fn (sizeBytes z) d a b) s)) ∧ x.2.2 = amoOp w fn ∧
      x.2.1 = decide (¬ (fn = 7 ∨ fn = 8)) := by
  have hl : sizeLegal z = true := decide_eq_true hz
  simp only [amoForms, List.mem_cons, List.not_mem_nil, or_false] at hx
  obtain rfl | rfl | rfl | rfl | rfl | rfl | rfl | rfl | rfl := hx
  · exact ⟨0, by decide, hl, fun _ => rfl, rfl, rfl⟩
  · exact ⟨1, by decide, hl, fun _ => rfl, rfl, rfl⟩
  · exact ⟨2, by decide, hl, fun _ => rfl, rfl, rfl⟩
  · exact ⟨3, by decide, hl, fun _ => rfl, rfl, rfl⟩
  · exact ⟨4, by decide, hl, fun _ => rfl, rfl, rfl⟩
  · exact ⟨5, by decide, hl, fun _ => rfl, rfl, rfl⟩
  · exact ⟨6, by decide, hl, fun _ => rfl, rfl, rfl⟩
  · exact ⟨7, by decide, hl, fun _ => rfl, rfl, rfl⟩
  · exact ⟨8, by decide, hl, fun _ => rfl, rfl, rfl⟩

theorem sizeBytes_cases (z : BitVec 3) : sizeBytes z = 4 ∨ sizeBytes z = 8 := by
  unfold sizeBytes
  split
  · exact .inr rfl
  · exact .inl rfl

theorem atomicResult_extended {m : Nat} (hsize : size = 4 ∨ size = 8) (hm : m < 256 ^ size) (hfn : fn ≤ 8) :
    atomicResult fn size m = extended size (decide (¬ (fn = 7 ∨ fn = 8)) && size == 4) m := by
  have hmod : m % 2 ^ (8 * size) = m := Nat.mod_eq_of_lt (by rw [Nat.pow_mul]; exact hm)
  have h9 : ¬ (fn = 9 ∨ fn = 10) := by omega
  rw [atomicResult, extended, hmod]
  by_cases h : size = 4 ∧ ¬ (fn = 7 ∨ fn = 8)
  · obtain ⟨rfl, h78⟩ := h
    rw [if_pos ⟨rfl, by omega⟩, decide_eq_true h78]
    rfl
  · rw [if_neg (fun hc => h ⟨hc.1, by omega⟩), if_neg (fun hc => h (by simpa [and_comm] using hc))]

theorem State.Atomic.congr {n v v' : Nat} {r r' : Word} (h : s.Atomic d l n v r t) (hv : v % 256 ^ n = v' % 256 ^ n) (hr : r = r') :
    s.Atomic d l n v' r' t := by
  rw [State.Atomic, hv, hr] at h
  exact h

/-- What CAS does once its word is seen to be well formed (R117). -/
def casOf (d a b : BitVec 5) (z : BitVec 3) (s : State) : State :=
  if s.surrogateNow then s.fallback s.agent 0x81
  else
    let n := amoSize z
    atomicCheck false (s.g a) n n (fun l s1 =>
      if s1.behindSys l then (s.sendAllCombs s.agent).await .memory
      else
        let want := (s1.g d).toNat % 256 ^ n
        let new := (s1.g b).toNat % 256 ^ n
        let (s2, m, t) := s1.atomicFor (s1.whoS true) s1.pts l (s1.g a) n fun m => if m = want then new else m
        ((s2.raisePts t).setG d (atomicResult 0 n m)).advance) s

theorem completes_cas (hp : s.Plain) (hz : z.toNat ≤ 1) {P : State → Prop} (hP : P (casOf d a b z s)) : Completes (.cas d a b z) s P :=
  completes_amo (i := .cas d a b z) hp (decide_eq_true hz) rfl hP

/-- CAS of S: the old value decides the write. -/
theorem cas_atomic (h : s.AtomicReady (s.g a) (sizeBytes z) l) :
    s.Atomic d l (sizeBytes z) (if s.natAt l (sizeBytes z) = (s.g d).toNat % 256 ^ sizeBytes z then (s.g b).toNat else s.natAt l (sizeBytes z))
      (extended (sizeBytes z) (sizeBytes z == 4) (s.natAt l (sizeBytes z))) (casOf d a b z s) := by
  obtain ⟨-, hsur, hr, ha, hc, hl, hrec, hf⟩ := h
  have hsz := sizeBytes_cases z
  obtain ⟨hpos, hdvd, hle⟩ := AtomicSize.spec (hsz.imp_right .inl)
  obtain ⟨u, hu, he⟩ := (atomicCheck_ok (late := false) (k := fun _ s => s) hr ha hpos (fits_of_aligned ha hdvd le_rfl) hc).2 hf
  have hm : (u.core (u.whoS true).core).raceMode = 0 := Core.raceMode_at (hu.raceMode.trans hr) true
  obtain ⟨hs, na, hat⟩ := atomicFor_spec hm hl u.pts (u.g a) (sizeBytes z) fun m =>
    if m = (u.g d).toNat % 256 ^ sizeBytes z then (u.g b).toNat % 256 ^ sizeBytes z else m
  have hdone := hu.atomicAt hl hs na (sizeBytes z)
    (if u.natAt l (sizeBytes z) = (u.g d).toNat % 256 ^ sizeBytes z then (u.g b).toNat % 256 ^ sizeBytes z else u.natAt l (sizeBytes z))
  have hval : u.natAt l (sizeBytes z) = s.natAt l (sizeBytes z) := natAt_of_sameBytes hu.bytes (hrec.mono hle)
  have hamo : amoSize z = sizeBytes z := rfl
  simp only [casOf, hsur, Bool.false_eq_true, if_false, hamo, he, State.behindSys, hl, Bool.false_and, hat]
  refine (hdone.atomic d _).congr ?_ ?_
  · rw [hval, hu.g, hu.g]
    split
    · exact Nat.mod_mod _ _
    · rfl
  · rw [hval]
    exact atomicResult_extended (fn := 0) hsz (natAt_lt s l _) (by decide)

end Amo

/-- Settles O18: an atomic of S is one write of its value at one timestamp (`amo_atomic`), the value is that of Table 05.4
(`atomicValue_eq`), and a misaligned one traps. -/
theorem atomicResults : Obligations.AtomicResults := by
  refine fun s d a b z l hz => ⟨fun h => ⟨fun x hx => ?_, ?_⟩, fun hm h => ?_, fun h => ?_, fun hu hp ha => ⟨fun x hx => ?_, ?_⟩⟩
  · obtain ⟨fn, hfn, hl, he, hop, hs⟩ := amoForms_spec hz hx
    have hb : atomicBytes fn (sizeBytes z) = sizeBytes z := if_neg (by omega)
    have hsz := sizeBytes_cases z
    have hstep : ∀ m v, atomicStep fn (sizeBytes z) m v = (m, (atomicValue fn (sizeBytes z) (BitVec.ofNat 64 m) v).toNat) := fun m v => if_neg (by omega)
    have hat := amo_atomic (d := d) (b := b) (fn := fn) (size := sizeBytes z) (by rw [hb]; exact hsz.imp_right .inl) (hb.symm ▸ h) (by omega)
    have hlt : s.natAt l (sizeBytes z) < 2 ^ 64 := Nat.lt_of_lt_of_le (natAt_lt s l _) (by rcases hsz with h | h <;> rw [h] <;> decide)
    rw [hb, hstep, atomicValue_eq hfn (by omega), toNat_ofNat_of_lt hlt, ← hop, atomicResult_extended hsz (natAt_lt s l _) hfn, ← hs] at hat
    exact completes_amo h.1 hl (he s) hat
  · exact completes_cas h.1 hz (cas_atomic h)
  · have hat := amo_atomic (d := d) (b := b) (fn := 9) (size := 4) (.inl rfl) h fun _ => hm
    have hlt : s.natAt l 4 < 2 ^ 32 := natAt_lt s l 4
    have hstep : atomicStep 9 4 (s.natAt l 4) (s.g b) =
        (s.natAt l 4, (BitVec.ofNat 64 (fadd32 (s.natAt l 4) ((s.g b).toNat % 2 ^ 32))).toNat) := by
      have hm64 : (BitVec.ofNat 64 (s.natAt l 4)).toNat % 2 ^ 32 = s.natAt l 4 := by
        rw [toNat_ofNat_of_lt (by omega), Nat.mod_eq_of_lt hlt]
      show (_, (BitVec.ofNat 64 (fadd32 ((BitVec.ofNat 64 (s.natAt l 4)).toNat % 2 ^ 32) _)).toNat) = _
      rw [hm64]
    refine completes_amo (i := .amoFadd d a b) h.1 rfl rfl (hat.congr ?_ ?_)
    · rw [show atomicBytes 9 4 = 4 from rfl, hstep]
      exact (congrArg (· % 256 ^ 4) (BitVec.toNat_ofNat _ _)).trans (Nat.mod_mod_of_dvd _ (by decide))
    · rw [show atomicBytes 9 4 = 4 from rfl, hstep]
      exact congrArg (BitVec.ofNat 64) (Nat.mod_eq_of_lt hlt)
  · exact completes_amo (i := .amoXadd d a b) h.1 rfl rfl (amo_atomic (fn := 10) (size := 4) (.inr (.inr rfl)) h fun h10 => absurd h10 (by decide))
  · obtain ⟨fn, hfn, hl, he, -⟩ := amoForms_spec hz hx
    refine completes_amo hp hl (he s) ?_
    rw [amo, if_neg (by simp [State.surrogateNow, hu.2]), show atomicBytes fn (sizeBytes z) = sizeBytes z from if_neg (by omega),
      atomicCheck_misaligned ha]
    exact trapped_takeTrap hu ⟨0x03, s.g a, 0⟩ s.pc
  · refine completes_cas hp hz ?_
    rw [casOf, if_neg (by simp [State.surrogateNow, hu.2])]
    show s.Trapped 0x03 s.pc (s.g a) 0 (atomicCheck false (s.g a) (sizeBytes z) (sizeBytes z) _ s)
    rw [atomicCheck_misaligned ha]
    exact trapped_takeTrap hu ⟨0x03, s.g a, 0⟩ s.pc

end Sys2Proof.Machine
end

section
/-! ### Reductions: their issue and their home (R116, R26, R359, R396, R397) -/

namespace Sys2Proof.Machine

variable {s t u : State}

/-! #### At issue -/

section Issue

variable {a b : BitVec 5} {z : BitVec 3} {l : Loc} {fn size : Nat}

/-- A request that has been sent: S goes on. -/
theorem State.Prepared.sent (h : s.Prepared u) {v : State} (hctx : v.ctx = u.ctx) (hturn : v.turn = u.turn)
    (hcores : ∀ k, k ≠ u.agent → v.core k = u.core k) (hbytes : ∀ l, v.byteAt l = u.byteAt l) :
    s.SameG v.advance ∧ s.SameP v.advance ∧ v.advance.StandsAt (s.pc + 4) ∧ s.SameBytes v.advance ∧
      ∀ k, k ≠ s.agent → v.advance.core k = s.core k := by
  have hv : v.advance.ctx = s.ctx.goto (s.pc + 4) := by
    rw [State.ctx_advance, State.pc, hctx, h.ctx]
    rfl
  obtain ⟨-, hc, hb⟩ := (onlyCtx_advance v).1
  refine ⟨sameG_of_ctx hv rfl, sameP_of_ctx hv rfl,
    standsAt_of_ctx hv,
    fun l hl => (hb l).trans ((hbytes l).trans (h.bytes l hl)), fun k hk => ?_⟩
  have hku : k ≠ u.agent := h.agent ▸ hk
  exact (hc k (State.agent_congr hturn ▸ hku)).trans ((hcores k hku).trans (h.cores k hk))

theorem ctx_onCore_fadds (s : State) (f : Core → Nat) : (s.onCore fun c => { c with fadds := f c }).ctx = s.ctx := by
  rw [State.ctx, State.cur_onCore]
  show Core.ctx _ s.inHusk = _
  cases hh : s.inHusk <;> rw [State.ctx, hh] <;> rfl

/-- The request that RED sends to its home (R116). -/
def State.redReq (s : State) (fn size : Nat) (a b : BitVec 5) (l : Loc) : Req :=
  { kind := .red fn size (s.g b), loc := l, va := s.g a, core := s.agent, e := s.who, pts := s.pts, floor := s.cur.floor,
    launch := (s.cur.binding.map fun x => x.launch).getD 0, issued := s.pts, number := s.cur.launchId, iter := s.cur.iter, gen := s.cur.gen,
    pos := 0, pushes := [], key := if fn = 9 then s.faddKey s.agent else [], at_ := s.pc, passed := [] }

/-- RED that passes its checks. -/
theorem red_sent (hn : AtomicSize (atomicBytes fn size)) (h : s.AtomicReady (s.g a) (atomicBytes fn size) l) :
    s.SameG (red fn size a b s) ∧ s.SameP (red fn size a b s) ∧ (red fn size a b s).StandsAt (s.pc + 4) ∧ s.SameBytes (red fn size a b s) ∧
      (∀ k, k ≠ s.agent → (red fn size a b s).core k = s.core k) ∧
      ∃ r, (red fn size a b s).reqs = Cells.put s.reqs s.nextId r ∧ r.kind = .red fn size (s.g b) ∧ r.loc = l ∧ r.va = s.g a ∧
        r.core = s.agent ∧ r.e = s.who ∧ r.pts = s.pts ∧ r.issued = s.pts ∧ r.number = s.cur.launchId ∧ r.iter = s.cur.iter ∧
        r.gen = s.cur.gen ∧ r.at_ = s.pc ∧ r.pushes = [] := by
  obtain ⟨-, hsur, hr, ha, hc, hl, hrec, hf⟩ := h
  obtain ⟨hpos, hdvd, hle⟩ := hn.spec
  obtain ⟨u, hu, he⟩ := (atomicCheck_ok (late := true) (k := fun _ s => s) hr ha hpos (fits_of_aligned ha hdvd le_rfl) hc).2 hf
  obtain ⟨x, hx⟩ := hu.tlb
  have hred : red fn size a b s = (({ u with reqs := Cells.put u.reqs u.nextId (u.redReq fn size a b l), nextId := u.nextId + 1 } : State).onCore
      fun c => { c with fadds := if fn = 9 then c.fadds + 1 else c.fadds }).advance := by
    rw [red, if_neg (by simp [hsur]), he, hl]
    rfl
  rw [hred]
  obtain ⟨hg, hp, hat, hbytes, hcores⟩ := hu.sent
    (v := ({ u with reqs := Cells.put u.reqs u.nextId (u.redReq fn size a b l), nextId := u.nextId + 1 } : State).onCore
      fun c => { c with fadds := if fn = 9 then c.fadds + 1 else c.fadds }) (ctx_onCore_fadds _ _) rfl
    (fun k hk => State.core_onCore_ne { u with reqs := Cells.put u.reqs u.nextId (u.redReq fn size a b l), nextId := u.nextId + 1 } hk _)
    (fun l => (onlyCore_onCore _ _).2.2 l |>.trans (by cases l <;> rfl))
  have hreqs : u.reqs = s.reqs := by rw [hu.tables]
  have hid : u.nextId = s.nextId := by rw [hu.tables]
  refine ⟨hg, hp, hat, hbytes, hcores, u.redReq fn size a b l, by show Cells.put u.reqs u.nextId _ = _; rw [hreqs, hid],
    congrArg (ReqKind.red fn size) (hu.g b), rfl, hu.g a, hu.agent, hu.who, hu.pts, hu.pts, ?_, ?_, ?_, ?_, rfl⟩
  · show u.cur.launchId = _
    rw [hx]
  · show u.cur.iter = _
    rw [hx]
  · show u.cur.gen = _
    rw [hx]
  · show u.pc = _
    rw [State.pc, hu.ctx]
    rfl

/-- With 512 requests of the core outstanding RED waits (R99). -/
theorem red_waits (hn : AtomicSize (atomicBytes fn size)) (hsur : s.surrogateNow = false) (hr : s.cur.raceMode = 0)
    (ha : (s.g a).toNat % atomicBytes fn size = 0) (hc : s.check (s.whoS true) .atomic (s.g a) = .ok l) (hf : s.coreFull = true) :
    red fn size a b s = s.await .memory := by
  obtain ⟨hpos, hdvd, hle⟩ := hn.spec
  rw [red, if_neg (by simp [hsur])]
  exact (atomicCheck_ok hr ha hpos (fits_of_aligned ha hdvd le_rfl) hc).1 hf

/-- Each form of Table 05.4 that does not return. -/
theorem redForms_spec (hz : z.toNat ≤ 1) {x : Instr × Nat × Nat} (hx : x ∈ redForms a b z) :
    AtomicSize (atomicBytes x.2.1 x.2.2) ∧ x.1.legal = true ∧ ∀ s, exec x.1 s = .next (sWord false x.1 (red x.2.1 x.2.2 a b) s) := by
  have hl : sizeLegal z = true := decide_eq_true hz
  have hsz : AtomicSize (sizeBytes z) := (sizeBytes_cases z).imp_right .inl
  simp only [redForms, List.mem_cons, List.not_mem_nil, or_false] at hx
  obtain rfl | rfl | rfl | rfl | rfl | rfl | rfl | rfl | rfl | rfl := hx
  iterate 8 · exact ⟨hsz, hl, fun _ => rfl⟩
  · exact ⟨.inl rfl, rfl, fun _ => rfl⟩
  · exact ⟨.inr (.inr rfl), rfl, fun _ => rfl⟩

end Issue

/-! #### At the home -/

/-- The request has been written at its place; the PTS of its sequencer, the requests of its home and its launch know it. -/
def State.servedBy (s : State) (r : Req) (hs : List Holder) (na : Bool) (n v : Nat) (q : Cells Req) (k : Cells Launch) : State :=
  ({ (s.writeAt hs na r.pts r.loc n v).1 with reqs := q, launches := k } : State).updCore r.core fun c =>
    c.setPts r.e (wmax (c.ptsOf r.e) (s.writeTs r.pts r.loc))

theorem updLaunch_spec (s : State) (n : Nat) (f : Launch → Launch) : ∃ k, s.updLaunch n f = { s with launches := k } := by
  unfold State.updLaunch
  split <;> exact ⟨_, rfl⟩

theorem reqPerform_spec {i n : Nat} {r : Req} {l : Loc} (hr : (s.core r.core).raceMode = 0) (hl : l.isSystem = false) (f : Nat → Nat) :
    ∃ hs na q k, s.reqPerform i r l n f =
      ({ (s.writeAt hs na r.pts l n (f (s.natAt l n))).1 with reqs := q, launches := k }, s.writeTs r.pts l) := by
  obtain ⟨hs, na, hat⟩ := atomicFor_spec (w := s.reqWho r) (by rw [State.reqWho, core_whoAt]; exact hr) hl r.pts r.va n f
  obtain ⟨k, hk⟩ := updLaunch_spec (((s.writeAt hs na r.pts l n (f (s.natAt l n))).1.noteServed r).orderLater i r (s.writeTs r.pts l)) r.launch
    fun x => { x with doneTs := wmax x.doneTs (s.writeTs r.pts l) }
  exact ⟨hs, na, _, k, by simp only [State.reqPerform, hat]; rw [hk]; rfl⟩

section Home

variable {i fn size : Nat} {r : Req} {v : Word} (hfind : Cells.find? s.reqs i = some r) (hkind : r.kind = .red fn size v)
  (hbehind : s.redBehind i r = false) (hturn : s.reqTurn r = true) (hplace : s.reqPlace r = .ok r.loc) (hsys : r.loc.isSystem = false)
  (hecc : s.eccAt r.loc r.va = none) (hrace : (s.core r.core).raceMode = 0)

include hfind hkind in
theorem exec_homeAtomicPerform_held (h9 : fn = 9) (hgo : s.faddGo (s.reqPart r) (faddLine r.va) r.key = false) :
    exec (.homeAtomicPerform i) s = .next s := by
  have hready : s.reqReady i r = false := by
    simp only [State.reqReady, hkind, h9, hgo, BEq.rfl, Bool.not_false, Bool.and_self, Bool.not_true, Bool.and_false]
  show execHomeAtomicPerform i s = _
  simp only [execHomeAtomicPerform, hfind, hkind, hready, Bool.not_false, Bool.true_or, if_true]

include hfind hkind hbehind hturn hplace hsys hecc hrace in
/-- A reduction that may perform (R116). -/
theorem exec_homeAtomicPerform (hgo : fn = 9 → s.faddGo (s.reqPart r) (faddLine r.va) r.key = true) :
    ∃ hs na q k, exec (.homeAtomicPerform i) s = .next (
      (if fn = 9 then (s.servedBy r hs na (atomicBytes fn size) (atomicStep fn size (s.natAt r.loc (atomicBytes fn size)) v).2 q k).faddDone
          (s.reqPart r) (faddLine r.va) r.key
        else s.servedBy r hs na (atomicBytes fn size) (atomicStep fn size (s.natAt r.loc (atomicBytes fn size)) v).2 q k).dropReq i) := by
  obtain ⟨hs, na, q, k, hp⟩ := reqPerform_spec (i := i) (n := atomicBytes fn size) hrace hsys fun m => (atomicStep fn size m v).2
  refine ⟨hs, na, q, k, ?_⟩
  have hready : s.reqReady i r = true := by
    by_cases h9 : fn = 9
    · simp [State.reqReady, hkind, hbehind, hgo h9]
    · simp [State.reqReady, hkind, hbehind, h9]
  have hrefuses : s.homeRefuses { r with kind := .red fn size v } = none := by
    simp only [State.homeRefuses, hecc, hsys, Bool.false_and, Bool.false_eq_true, if_false]
  show execHomeAtomicPerform i s = _
  simp only [execHomeAtomicPerform, hfind, hkind, hready, hturn, hplace, hrefuses, Bool.not_true, Bool.or_self, Bool.false_eq_true, if_false, hp]
  rfl

end Home

section Served

variable {r : Req} {hs : List Holder} {na : Bool} {n v : Nat} {q : Cells Req} {k : Cells Launch}

theorem servedBy_tables : (s.servedBy r hs na n v q k).recs = s.recs ∧ (s.servedBy r hs na n v q k).pf = s.pf ∧
    (s.servedBy r hs na n v q k).reqs = q := by
  refine ⟨?_, ?_, rfl⟩
  · show (s.writeAt hs na r.pts r.loc n v).1.recs = s.recs
    rw [accessTables_writeAt s hs na r.pts r.loc n v]
  · show (s.writeAt hs na r.pts r.loc n v).1.pf = s.pf
    rw [accessTables_writeAt s hs na r.pts r.loc n v]

theorem recMode_servedBy (part : Nat) : (s.servedBy r hs na n v q k).recMode part = s.recMode part := by
  simp only [State.recMode, servedBy_tables.2.1]

theorem faddIndex_servedBy (part line : Nat) : (s.servedBy r hs na n v q k).faddIndex part line = s.faddIndex part line := by
  simp only [State.faddIndex, recMode_servedBy, servedBy_tables.1]

theorem byteAt_servedBy (p : Loc) : (s.servedBy r hs na n v q k).byteAt p = (s.writeAt hs na r.pts r.loc n v).1.byteAt p := by cases p <;> rfl

theorem tsAt_servedBy_eq (p : Loc) : (s.servedBy r hs na n v q k).tsAt p = (s.writeAt hs na r.pts r.loc n v).1.tsAt p := by cases p <;> rfl

theorem tsAt_servedBy (h : r.loc.isSystem = false) :
    (s.servedBy r hs na n v q k).tsAt r.loc = ⟨s.writeTs r.pts r.loc, s.writeTs r.pts r.loc⟩ :=
  (tsAt_servedBy_eq r.loc).trans (tsAt_writeAt h hs na r.pts n v)

theorem pts_servedBy : ((s.servedBy r hs na n v q k).core r.core).ptsOf r.e = wmax ((s.core r.core).ptsOf r.e) (s.writeTs r.pts r.loc) := by
  have hc : State.core { (s.writeAt hs na r.pts r.loc n v).1 with reqs := q, launches := k } r.core = s.core r.core :=
    State.core_congr (cores_writeAt s hs na r.pts r.loc n v) _
  rw [State.servedBy, State.core_updCore_self, hc]
  cases r.e <;> rfl

theorem tsAt_recs (s : State) (recs : RecState) (i : Nat) (l : Loc) : (State.dropReq { s with recs := recs } i).tsAt l = s.tsAt l := by
  cases l <;> rfl

/-- A reduction that has performed and left. -/
theorem dropReq_servedBy (hsys : r.loc.isSystem = false) (i : Nat) {t : State} (recs : RecState)
    (ht : t = { s.servedBy r hs na n v q k with recs := recs }.dropReq i) :
    t.natAt r.loc n = v % 256 ^ n ∧ (∀ p, (∀ j, j < n → p.key ≠ (r.loc.plus j).key) → t.byteAt p = s.byteAt p) ∧
      Cells.find? t.reqs i = none ∧ (t.core r.core).ptsOf r.e = wmax ((s.core r.core).ptsOf r.e) (t.tsAt r.loc).wts ∧
      t.tsAt r.loc = ⟨s.writeTs r.pts r.loc, s.writeTs r.pts r.loc⟩ := by
  have hbytes : ∀ p, t.byteAt p = (s.writeAt hs na r.pts r.loc n v).1.byteAt p := fun p => by
    subst ht
    exact Eq.trans (by cases p <;> rfl) (byteAt_servedBy (q := q) (k := k) p)
  have hts : t.tsAt r.loc = ⟨s.writeTs r.pts r.loc, s.writeTs r.pts r.loc⟩ := by
    subst ht
    exact Eq.trans (tsAt_recs _ recs i r.loc) (tsAt_servedBy (q := q) (k := k) hsys)
  refine ⟨(natAt_congr (funext hbytes) _ _).trans (natAt_writeAt _ _ _ _ _ _ _), fun p hp => (hbytes p).trans (byteAt_writeAt_of_key_ne _ _ _ _ _ _ _ hp),
    ?_, ?_, hts⟩
  · subst ht
    show Cells.find? (Cells.del _ i) i = none
    rw [Cells.find?_del_self]
  · rw [hts]
    subst ht
    exact pts_servedBy (q := q) (k := k)

end Served

/-- Out of record mode a FADD that has performed is counted at most (R397). -/
theorem faddDone_spec {part line : Nat} {key : List Nat} (h : s.recMode part ≠ 1) : ∃ recs, s.faddDone part line key = { s with recs := recs } := by
  unfold State.faddDone
  split
  · contradiction
  · exact ⟨_, rfl⟩
  · exact ⟨s.recs, rfl⟩

/-- A FADD that has performed in record mode appends its entry (R396). -/
theorem recs_faddDone_of_record {part line : Nat} {key : List Nat} (h : s.recMode part = 1) :
    (s.faddDone part line key).recs.entries = s.recs.entries ++ [.fadd line key (s.faddIndex part line)] := by
  simp only [State.faddDone, h]
  rfl

/-- A FADD that has performed in a replay is counted (R397). -/
theorem recs_faddDone_of_replay {part line : Nat} {key : List Nat} (h : s.recMode part = 2) :
    Cells.get 0 (s.faddDone part line key).recs.performed line = Cells.get 0 s.recs.performed line + 1 := by
  have hi : s.faddIndex part line = Cells.get 0 s.recs.performed line := by rw [State.faddIndex, if_pos h]
  simp only [State.faddDone, h, hi]
  exact Cells.get_put_self _ _ _ _

theorem reductionsAreSentHold : ReductionsAreSentHold := by
  refine ⟨fun s a b z l hz x hx h => ?_, fun s a b z l hz x hx hp hsur hr ha hc hf => ?_,
    fun s i r fn size v hfind hkind hbehind hturn hplace hsys hecc hrace => ⟨fun h9 _ hgo => ?_, fun h9 hm hroom => ?_, fun h9 hm hgo => ?_, fun hgo => ?_⟩⟩
  · obtain ⟨hn, hl, he⟩ := redForms_spec hz hx
    exact completes_amo h.1 hl (he s) (red_sent hn h)
  · obtain ⟨hn, hl, he⟩ := redForms_spec hz hx
    obtain ⟨hctx, hg, -, hpc, hstat⟩ := waits_await s .memory
    exact completes_amo hp hl (he s) (by rw [red_waits hn hsur hr ha hc hf]; exact ⟨hctx, hg, hpc, hstat⟩)
  · exact ⟨s, exec_homeAtomicPerform_held hfind hkind h9 hgo, rfl⟩
  · have hgo : s.faddGo (s.reqPart r) (faddLine r.va) r.key = true := by rw [State.faddGo, hm]; exact hroom
    obtain ⟨hs, na, q, k, he⟩ := exec_homeAtomicPerform hfind hkind hbehind hturn hplace hsys hecc hrace fun _ => hgo
    refine ⟨_, he, Cells.find?_del_self _ _, ?_⟩
    rw [if_pos h9]
    refine (recs_faddDone_of_record ((recMode_servedBy _).trans hm)).trans ?_
    rw [servedBy_tables.1, faddIndex_servedBy]
  · obtain ⟨hs, na, q, k, he⟩ := exec_homeAtomicPerform hfind hkind hbehind hturn hplace hsys hecc hrace fun _ => hgo
    refine ⟨_, he, ?_⟩
    rw [if_pos h9]
    refine (recs_faddDone_of_replay ((recMode_servedBy _).trans hm)).trans ?_
    rw [servedBy_tables.1]
  · obtain ⟨hs, na, q, k, he⟩ := exec_homeAtomicPerform hfind hkind hbehind hturn hplace hsys hecc hrace fun h9 => (hgo h9).2
    refine ⟨_, he, ?_⟩
    split
    · rename_i h9
      obtain ⟨recs, hr⟩ := faddDone_spec (s := s.servedBy r hs na (atomicBytes fn size)
        (atomicStep fn size (s.natAt r.loc (atomicBytes fn size)) v).2 q k) (part := s.reqPart r) (line := faddLine r.va) (key := r.key)
        (by rw [recMode_servedBy]; exact (hgo h9).1)
      exact dropReq_servedBy hsys i recs (by rw [hr])
    · exact dropReq_servedBy hsys i s.recs (by rw [← servedBy_tables.1])

end Sys2Proof.Machine
end

section
/-! ### Ordered atomics (R115, R118, R119) -/

namespace Sys2Proof.Machine

variable {s t u : State}

/-! #### At issue -/

section Issue

variable {d a b : BitVec 5} {z : BitVec 3} {l : Loc} {fn size : Nat}

/-- The ordered atomic that AOSEQ sends to its home. -/
def State.aoseqOf (s : State) (fn size : Nat) (d a b : BitVec 5) : Aoseq :=
  { core := s.agent, va := s.g a, fn := fn, size := size, n := s.g d, v := s.g b, gd := d, buffered := false, dead := false, refused := false,
    husk := s.inHusk, at_ := s.pc, snap := s.ctx }

/-- AOSEQ that passes its checks. -/
theorem aoseq_sent (hsize : size = 4 ∨ size = 8) (hsur : s.surrogateNow = false) (hr : s.cur.raceMode = 0) (ha : (s.g a).toNat % 16 = 0)
    (hc : s.check (s.whoS true) .atomic (s.g a) = .ok l) (hl : l.isSystem = false) (hf : s.coreFull = false) :
    s.SameG (aoseq fn size d a b s) ∧ s.SameP (aoseq fn size d a b s) ∧ (aoseq fn size d a b s).StandsAt (s.pc + 4) ∧
      s.SameBytes (aoseq fn size d a b s) ∧ (∀ k, k ≠ s.agent → (aoseq fn size d a b s).core k = s.core k) ∧
      ∃ q, (aoseq fn size d a b s).aoseqs = Cells.put s.aoseqs s.nextId q ∧ q.core = s.agent ∧ q.va = s.g a ∧ q.fn = fn ∧ q.size = size ∧
        q.n = s.g d ∧ q.v = s.g b ∧ q.gd = d ∧ q.buffered = false ∧ q.dead = false ∧ q.refused = false ∧ q.husk = s.inHusk := by
  obtain ⟨u, hu, he⟩ := (atomicCheck_ok (late := false) (n := 8 + size) (k := fun _ s => s) hr ha (by omega)
    (fits_of_aligned ha (by decide) (by omega)) hc).2 hf
  have haoseq : aoseq fn size d a b s =
      ({ u with aoseqs := Cells.put u.aoseqs u.nextId (u.aoseqOf fn size d a b), nextId := u.nextId + 1 } : State).advance := by
    rw [aoseq, if_neg (by simp [hsur]), he]
    simp only [State.behindSys, hl, Bool.false_and, Bool.false_eq_true, if_false]
    rfl
  rw [haoseq]
  obtain ⟨hg, hp, hat, hbytes, hcores⟩ := hu.sent
    (v := { u with aoseqs := Cells.put u.aoseqs u.nextId (u.aoseqOf fn size d a b), nextId := u.nextId + 1 }) rfl rfl (fun _ _ => rfl)
    (fun l => by cases l <;> rfl)
  have hq : u.aoseqs = s.aoseqs := by rw [hu.tables]
  have hid : u.nextId = s.nextId := by rw [hu.tables]
  exact ⟨hg, hp, hat, hbytes, hcores, u.aoseqOf fn size d a b, by show Cells.put u.aoseqs u.nextId _ = _; rw [hq, hid], hu.agent, hu.g a, rfl, rfl,
    hu.g d, hu.g b, rfl, rfl, rfl, rfl, hu.inHusk⟩

theorem aoseqForms_spec (hz : z.toNat ≤ 1) {x : Instr × Nat × Nat} (hx : x ∈ aoseqForms d a b z) :
    (x.2.2 = 4 ∨ x.2.2 = 8) ∧ x.1.legal = true ∧ ∀ s, exec x.1 s = .next (sWord false x.1 (aoseq x.2.1 x.2.2 d a b) s) := by
  have hl : sizeLegal z = true := decide_eq_true hz
  have hsz := sizeBytes_cases z
  simp only [aoseqForms, List.mem_cons, List.not_mem_nil, or_false] at hx
  obtain rfl | rfl | rfl | rfl | rfl | rfl | rfl | rfl | rfl | rfl := hx
  iterate 9 · exact ⟨hsz, hl, fun _ => rfl⟩
  · exact ⟨.inl rfl, rfl, fun _ => rfl⟩

end Issue

/-! #### At the home -/

/-- Bytes read as two numbers, one behind the other. -/
theorem natAt_add (s : State) (l : Loc) (m n : Nat) : s.natAt l (m + n) = s.natAt l m + 256 ^ m * s.natAt (l.plus m) n := by
  induction m generalizing l with
  | zero => simp [State.natAt, Loc.plus_zero]
  | succ m ih =>
    rw [show m + 1 + n = (m + n) + 1 by omega, State.natAt, State.natAt, ih, Loc.plus_plus, Nat.add_comm 1 m, Nat.pow_succ]
    ring

/-- A pair as two numbers. -/
theorem natAt_pair {l : Loc} {n k v : Nat} (hk : k < 2 ^ 64) (h : s.natAt l (8 + n) = (k + 2 ^ 64 * v) % 256 ^ (8 + n)) :
    s.natAt l 8 = k ∧ s.natAt (l.plus 8) n = v % 256 ^ n := by
  have hlt : s.natAt l 8 < 2 ^ 64 := natAt_lt s l 8
  have hmod : (k + 2 ^ 64 * v) % 256 ^ (8 + n) = k + 2 ^ 64 * (v % 256 ^ n) := by
    rw [Nat.pow_add, show (256 : Nat) ^ 8 = 2 ^ 64 by decide, Nat.mod_mul, Nat.add_mul_mod_self_left, Nat.mod_eq_of_lt hk,
      Nat.add_mul_div_left _ _ (by decide), Nat.div_eq_of_lt hk, Nat.zero_add]
  rw [natAt_add, hmod, show (256 : Nat) ^ 8 = 2 ^ 64 by decide] at h
  constructor <;> omega

/-- The two words of the pair after an ordered atomic: N and the data (R118). -/
def State.pairAfter (s : State) (q : Aoseq) (l : Loc) : Nat :=
  (s.natAt l 8 + 1) % 2 ^ 64 + 2 ^ 64 * (atomicValue q.fn q.size (BitVec.ofNat 64 (s.natAt (l.plus 8) q.size)) q.v).toNat

/-- The core of an ordered atomic takes its timestamp and its old data. -/
def Core.takePair (c : Core) (q : Aoseq) (old : Nat) (ts : Word) : Core :=
  (c.setPts q.seq (wmax (c.ptsOf q.seq) ts)).setCtx q.husk
    (((c.setPts q.seq (wmax (c.ptsOf q.seq) ts)).ctx q.husk).setG q.gd (atomicResult q.fn q.size old))

theorem ctx_takePair (c : Core) (q : Aoseq) (old : Nat) (ts : Word) :
    (c.takePair q old ts).ctx q.husk = (c.ctx q.husk).setG q.gd (atomicResult q.fn q.size old) := by
  unfold Core.takePair
  cases q.seq <;> cases q.husk <;> rfl

theorem ptsOf_takePair (c : Core) (q : Aoseq) (old : Nat) (ts : Word) : (c.takePair q old ts).ptsOf q.seq = wmax (c.ptsOf q.seq) ts := by
  unfold Core.takePair
  cases q.seq <;> cases q.husk <;> rfl

theorem aoseqPerform_spec {q : Aoseq} {l : Loc} (hr : (s.core q.core).raceMode = 0) (hl : l.isSystem = false) :
    ∃ hs na, s.aoseqPerform q l = (s.writeAt hs na ((s.core q.core).ptsOf q.seq) l (8 + q.size) (s.pairAfter q l)).1.updCore q.core fun c =>
      c.takePair q (s.natAt (l.plus 8) q.size) (s.writeTs ((s.core q.core).ptsOf q.seq) l) := by
  obtain ⟨hs, na, hat⟩ := atomicFor_spec (w := s.aoseqWho q) (by rw [State.aoseqWho, core_whoAt]; exact hr) hl ((s.core q.core).ptsOf q.seq) q.va
    (8 + q.size) fun _ => s.pairAfter q l
  unfold State.pairAfter at hat ⊢
  exact ⟨hs, na, by simp only [State.aoseqPerform, hat]; rfl⟩

theorem tsAt_updCore (s : State) (n : Nat) (f : Core → Core) (l : Loc) : (s.updCore n f).tsAt l = s.tsAt l := by cases l <;> rfl

/-- What an ordered atomic that performs leaves (R118). -/
theorem aoseqPerform_leaves {q : Aoseq} {l : Loc} (hr : (s.core q.core).raceMode = 0) (hl : l.isSystem = false) :
    (s.aoseqPerform q l).natAt l (8 + q.size) = s.pairAfter q l % 256 ^ (8 + q.size) ∧
      (∀ p, (∀ j, j < 8 + q.size → p.key ≠ (l.plus j).key) → (s.aoseqPerform q l).byteAt p = s.byteAt p) ∧
      (s.aoseqPerform q l).tsAt l = ⟨s.writeTs ((s.core q.core).ptsOf q.seq) l, s.writeTs ((s.core q.core).ptsOf q.seq) l⟩ ∧
      (∀ k, k ≠ q.core → (s.aoseqPerform q l).core k = s.core k) ∧
      (s.aoseqPerform q l).core q.core =
        (s.core q.core).takePair q (s.natAt (l.plus 8) q.size) (s.writeTs ((s.core q.core).ptsOf q.seq) l) := by
  obtain ⟨hs, na, hp⟩ := aoseqPerform_spec hr hl
  have hcores := cores_writeAt s hs na ((s.core q.core).ptsOf q.seq) l (8 + q.size) (s.pairAfter q l)
  have hbytes : ∀ p, (s.aoseqPerform q l).byteAt p = (s.writeAt hs na ((s.core q.core).ptsOf q.seq) l (8 + q.size) (s.pairAfter q l)).1.byteAt p :=
    fun p => by rw [hp, byteAt_updCore]
  refine ⟨(natAt_congr (funext hbytes) _ _).trans (natAt_writeAt _ _ _ _ _ _ _),
    fun p h => (hbytes p).trans (byteAt_writeAt_of_key_ne _ _ _ _ _ _ _ h), ?_, fun k hk => ?_, ?_⟩
  · rw [hp]
    exact (tsAt_updCore _ _ _ l).trans (tsAt_writeAt hl hs na _ _ _)
  · rw [hp, State.core_updCore, if_neg (Ne.symm hk), State.core_congr hcores]
  · rw [hp, State.core_updCore_self, State.core_congr hcores]

/-- A home with no ordered atomic on its way has none to remove. -/
theorem aoseqSweep_of_nil (h : s.aoseqs = []) : s.aoseqSweep = s := by
  have hmap : ∀ f : Nat × Aoseq → Nat × Aoseq, s.aoseqs.map f = s.aoseqs := fun f => by rw [h]; rfl
  rw [State.aoseqSweep, hmap]

section Home

variable {i : Nat} {q : Aoseq} {l : Loc} (hq : s.aoseqs = [(i, q)]) (hbuf : q.buffered = false) (hdead : q.dead = false)
  (href : q.refused = false) (hplace : s.aoseqPlace q = .ok l) (hl : l.isSystem = false) (hr : (s.core q.core).raceMode = 0)

include hq hbuf hdead href in
theorem exec_aoseqArrival : exec (.aoseqArrival q.core) s = .next (s.aoseqArrive i q) := by
  show execAoseqArrival q.core s = _
  have hf : List.find? (fun (x : Nat × Aoseq) => x.2.core == q.core && !x.2.buffered && !x.2.dead && !x.2.refused) s.aoseqs = some (i, q) := by
    rw [hq]
    simp [hbuf, hdead, href]
  simp only [execAoseqArrival, hf]

include hl hr in
theorem aoseqs_aoseqPerform : (s.aoseqPerform q l).aoseqs = s.aoseqs := by
  obtain ⟨hs, na, hp⟩ := aoseqPerform_spec hr hl
  rw [hp]
  show (s.writeAt hs na _ l _ _).1.aoseqs = _
  rw [accessTables_writeAt]

include hq hplace hl hr in
/-- An arrival with the expected number performs, and no other waits for it (R118). -/
theorem aoseqArrive_performs (hn : q.n.toNat = s.natAt l 8) : s.aoseqArrive i q = State.aoseqPerform { s with aoseqs := [] } q l := by
  have hdel : Cells.del s.aoseqs i = [] := by simp [hq, Cells.del]
  have hnil : (State.aoseqPerform { s with aoseqs := [] } q l).aoseqs = [] := aoseqs_aoseqPerform (s := { s with aoseqs := [] }) hl hr
  rw [State.aoseqArrive]
  simp only [hplace, hn, if_true, hdel, hnil, List.length_nil, State.aoseqChain]
  exact aoseqSweep_of_nil hnil

include hq hplace in
/-- A number that N has passed is never performed (R119). -/
theorem aoseqArrive_passed (hn : q.n.toNat < s.natAt l 8) :
    s.aoseqArrive i q = { s with aoseqs := [(i, { q with dead := true, buffered := false })] } := by
  have hput : ∀ y, Cells.put s.aoseqs i y = [(i, y)] := fun y => by simp [hq, Cells.put]
  rw [State.aoseqArrive]
  simp only [hplace, if_neg (Nat.ne_of_lt hn), if_pos hn, hput]

include hq hbuf hplace in
/-- A number above N waits in the buffer, which is empty (R119). -/
theorem aoseqArrive_waits (hn : s.natAt l 8 < q.n.toNat) :
    s.aoseqArrive i q = { s with aoseqs := [(s.nextId, { q with buffered := true })], nextId := s.nextId + 1 } := by
  have hdel : Cells.del s.aoseqs i = [] := by simp [hq, Cells.del]
  have hused : s.aoseqUsed q = 0 := by simp [State.aoseqUsed, hq, hbuf]
  rw [State.aoseqArrive]
  simp only [hplace, if_neg (Nat.ne_of_gt hn), if_neg (Nat.lt_asymm hn), hused, hdel]
  rfl

end Home

theorem orderedAtomicsHold : OrderedAtomicsHold := by
  refine ⟨fun s d a b z l hz x hx hp hsur hr ha hc hl hf => ?_, fun s i q l hq hbuf hdead href hplace hl hr hsize => ⟨fun hn => ?_, fun hn => ?_, fun hn => ?_, ?_⟩⟩
  · obtain ⟨hs, hlegal, he⟩ := aoseqForms_spec hz hx
    exact completes_amo hp hlegal (he s) (aoseq_sent hs hsur hr ha hc hl hf)
  · refine ⟨_, exec_aoseqArrival hq hbuf hdead href, ?_⟩
    rw [aoseqArrive_performs hq hplace hl hr hn]
    obtain ⟨hvalue, hframe, hts, hcores, hcore⟩ := aoseqPerform_leaves (s := { s with aoseqs := [] }) (q := q) hr hl
    obtain ⟨hcount, hdata⟩ := natAt_pair (Nat.mod_lt _ (by decide)) hvalue
    have hbytes : ∀ p m, State.natAt { s with aoseqs := [] } p m = s.natAt p m := fun p m => natAt_congr (funext fun l => by cases l <;> rfl) p m
    rw [hbytes] at hcount hdata
    refine ⟨by rw [hcount, hn], hdata, fun p hp => (hframe p hp).trans (by cases p <;> rfl), aoseqs_aoseqPerform (s := { s with aoseqs := [] }) hl hr,
      hts, ?_, hcores, ?_⟩
    · rw [hcore, ptsOf_takePair, hts]
      exact wmax_wmax_left _ _
    · rw [hcore, ctx_takePair, hbytes]
      rfl
  · exact ⟨_, exec_aoseqArrival hq hbuf hdead href, aoseqArrive_passed hq hplace hn⟩
  · exact ⟨_, exec_aoseqArrival hq hbuf hdead href, aoseqArrive_waits hq hbuf hplace hn⟩
  · refine ⟨_, rfl, ?_⟩
    have hq' : ({ q with refused := false } : Aoseq) = q := by rw [← href]
    have hs : { s with aoseqs := [(i, q)] } = s := by rw [← hq]
    show { s with aoseqs := [(i, if q.core == q.core then { q with refused := false } else { q with refused := true })] } = s
    rw [BEq.rfl, if_pos rfl, hq', hs]

/-- Settles O19: a reduction is sent with its checks made (`red_sent`) and performs at its home (`exec_homeAtomicPerform`), an ordered
atomic likewise (`aoseq_sent`, `aoseqArrive_performs`). -/
theorem reductionsAndOrderedAtomics : Obligations.ReductionsAndOrderedAtomics := ⟨reductionsAreSentHold, orderedAtomicsHold⟩

end Sys2Proof.Machine
end

section
/-! ### FENCE.FAB with a combining buffer in use (R102, R121) -/

namespace Sys2Proof.Machine

/-- S of core 0 with a byte of host memory in a combining buffer. -/
def combining : State := Sys2Proof.Tests.base.onCore fun c => { c with comb := [⟨.host 0, [(0, 1)]⟩] }

/-- What FENCE.FAB puts on its way from there: the combined store before the flush. -/
theorem fenceFab_combining : ∃ t, exec (.fenceFab 0) combining = .next t ∧ t.sys.length = 2 := ⟨_, rfl, by decide⟩

/-- Refutes O20: FENCE.FAB sends the combining buffers of the core too, so that with one in use its flush is not all that it sends;
the clause of FENCE.FAB has no hypothesis on them. -/
theorem not_fencesAndCacheOperations : ¬ Obligations.FencesAndCacheOperations := by
  intro h
  obtain ⟨-, -, hfab, -⟩ := h combining 0 0 0 ⟨rfl, rfl⟩ (by decide) (by decide)
  obtain ⟨t, ht, -, -, -, -, hsys⟩ := hfab (by decide) (by decide)
  obtain ⟨u, hu, hlen⟩ := fenceFab_combining
  cases ht.symm.trans hu
  have hone : (Cells.put combining.sys combining.nextId (.fence combining.agent)).length = 1 := by decide
  rw [hsys, hone] at hlen
  exact absurd hlen (by decide)

end Sys2Proof.Machine
end

section
/-! ### What the work of an engine leaves of its core (R13, R289, R351) -/

namespace Sys2Proof.Machine

variable {s t u : State} {e : Eng}

/-! #### The timestamp of what is recorded ends with the word -/

theorem Engine.take_offsetTs (x : Engine) (o : Word) : Engine.take { x with offsetTs := o } = { x.take with offsetTs := o } := by
  cases h : x.outer with
  | none => simp only [Engine.take, h]
  | some l =>
    simp only [Engine.take, h]
    split <;> rfl

theorem Engine.closeInner_offsetTs (x : Engine) (o : Word) : Engine.closeInner { x with offsetTs := o } = { x.closeInner with offsetTs := o } := by
  cases h : x.inner with
  | none => simp only [Engine.closeInner, h]
  | some l =>
    simp only [Engine.closeInner, h]
    split
    · simp only [h]
    · split <;> rfl

theorem Engine.closeOuter_offsetTs (x : Engine) (o : Word) : Engine.closeOuter { x with offsetTs := o } = { x.closeOuter with offsetTs := o } := by
  cases h : x.outer with
  | none => simp only [Engine.closeOuter, h]
  | some l =>
    cases h' : x.inner with
    | none =>
      simp only [Engine.closeOuter, h, h']
      split
      · simp only [h, h']
      · split <;> rfl
    | some k => simp only [Engine.closeOuter, h, h']

theorem Engine.finish_offsetTs (x : Engine) (o : Word) : Engine.finish { x with offsetTs := o } = x.finish := by
  rw [Engine.finish, Engine.take_offsetTs, Engine.closeInner_offsetTs, Engine.closeOuter_offsetTs]
  rfl

theorem Core.pushAll_offsetTs (c : Core) (e : Eng) (l : List Nat) (o : Word) :
    (c.updEng e fun y => { y with offsetTs := o }).pushAll e l = (c.pushAll e l).updEng e fun y => { y with offsetTs := o } := by
  induction l generalizing c with
  | nil => rfl
  | cons ch r ih =>
    rw [Core.pushAll, Core.pushAll, ← ih]
    congr 1
    cases e <;> rfl

theorem Core.finish_offsetTs (c : Core) (e : Eng) (l : List Nat) (o : Word) :
    ((c.updEng e fun y => { y with offsetTs := o }).pushAll e l).updEng e Engine.finish = (c.pushAll e l).updEng e Engine.finish := by
  rw [Core.pushAll_offsetTs]
  generalize c.pushAll e l = d
  cases e <;> simp only [Core.updEng, Core.setEng, Core.eng, Engine.finish_offsetTs]

/-! #### The core of an engine at work -/

/-- The core of an engine at work: its PTS, the timestamp of what it has recorded and the TLB differ. -/
def Core.Worked (e : Eng) (c d : Core) : Prop := ∃ p o x, d = { c.updEng e fun y => { y with pts := p, offsetTs := o } with tlb := x }

theorem Core.Worked.refl (e : Eng) (c : Core) : c.Worked e c := ⟨(c.eng e).pts, (c.eng e).offsetTs, c.tlb, by cases e <;> rfl⟩

theorem Core.Worked.trans {c d f : Core} (h : c.Worked e d) (h' : d.Worked e f) : c.Worked e f := by
  obtain ⟨p, o, x, rfl⟩ := h
  obtain ⟨p', o', x', rfl⟩ := h'
  exact ⟨p', o', x', by cases e <;> rfl⟩

/-- What an engine at work leaves beside the timestamps and the TLB. -/
theorem Core.Worked.spec {c d : Core} (h : c.Worked e d) : d.pips = c.pips ∧ d.engTrap = c.engTrap ∧ d.surrogate = c.surrogate ∧
    d.raceMode = c.raceMode ∧ d.ls = c.ls ∧ d.vec = c.vec ∧ d.tileClean = c.tileClean ∧ (d.eng e).offset = (c.eng e).offset ∧
    ∀ r, (d.eng e).getA r = (c.eng e).getA r := by
  obtain ⟨p, o, x, rfl⟩ := h
  cases e <;> exact ⟨rfl, rfl, rfl, rfl, rfl, rfl, rfl, rfl, fun _ => rfl⟩

/-- An engine of the current core at work: what it has read, and what its core keeps. -/
structure State.Working (e : Eng) (s t : State) : Prop extends s.Accessed t where
  cur : s.cur.Worked e t.cur

theorem State.Working.refl (e : Eng) (s : State) : s.Working e s := ⟨.refl s, .refl e _⟩

theorem State.Working.trans (h : s.Working e t) (h' : t.Working e u) : s.Working e u := ⟨h.toAccessed.trans h'.toAccessed, h.cur.trans h'.cur⟩

theorem State.Prepared.working (h : s.Prepared t) (e : Eng) : s.Working e t := by
  obtain ⟨x, hx⟩ := h.tlb
  exact ⟨h.toAccessed, (s.cur.eng e).pts, (s.cur.eng e).offsetTs, x, by rw [hx]; cases e <;> rfl⟩

theorem working_onEng (e : Eng) (s : State) (p o : Engine → Word) :
    s.Working e (s.onEng e fun y => { y with pts := p y, offsetTs := o y }) :=
  ⟨accessed_onCore s _, p (s.cur.eng e), o (s.cur.eng e), s.cur.tlb, by rw [State.cur_onEng]; cases e <;> rfl⟩

theorem working_raiseEng (e : Eng) (s : State) (t : Word) : s.Working e (s.raiseEng e t) :=
  working_onEng e s (fun x => wmax x.pts (wmax x.offsetTs t)) fun x => x.offsetTs

theorem working_of_cores (h : s.Accessed t) (hc : t.cores = s.cores) (e : Eng) : s.Working e t := ⟨h, cur_congr hc h.turn ▸ .refl e _⟩

/-- Where only the core has changed nothing has been read. -/
theorem State.OnlyCore.accessed (h : s.OnlyCore t) : s.Accessed t where
  tables := by rw [h.1]; rfl
  cores := h.2.1
  bytes l _ := h.2.2 l
  records l := by
    rw [h.1]
    exact id
  wts l := by
    rw [h.1]
    cases l <;> rfl

/-! #### The word of a ready engine (R13) -/

section Word

variable {pip : BitVec 4} (h : s.EngReady e pip) {body : State → Eff}

include h

theorem engTrap_popPips : (popPips e (popsOf e pip) s).cur.engTrap = none := by
  rw [cur_popPips, Core.engTrap_popAll]
  exact h.2.2.2.1

/-- A word that is done: its pips are pushed. -/
theorem engWord_done (hb : body (popPips e (popsOf e pip) s) = .done t false) (hp : t.cur.pips = (popPips e (popsOf e pip) s).cur.pips)
    (hn : t.cur.engTrap = none) :
    t.OnlyCore (engWord e pip body s) ∧ (engWord e pip body s).cur = (t.cur.pushAll e (pushesOf e pip)).updEng e Engine.finish := by
  have htake := takePips_of_ready h
  obtain ⟨hpu, -, -, -, -, hroom⟩ := h
  have hw : engWord e pip body s = pushPips e (pushesOf e pip) t := by
    simp only [engWord, hpu, htake, hb, hn]
    cases t.cur.surrogate <;> rfl
  rw [hw]
  refine ⟨onlyCore_pushPips e _ t, cur_pushPips e (pushesOf_nodup e pip) t fun j hj => ?_⟩
  have hpip : t.cur.pip j = (popPips e (popsOf e pip) s).cur.pip j := congrArg (fun p => Cells.get [] p j) hp
  rw [hpip, cur_popPips, Core.pip_popAll_of_notMem _ _ (notMem_popsOf_of_mem_pushesOf hj)]
  exact hroom j hj

/-- A word that waits inside its effect has popped its pips. -/
theorem engWord_wait {w : EWait} (hb : body (popPips e (popsOf e pip) s) = .wait w) : s.EngineWaits e pip w (engWord e pip body s) := by
  have hw : engWord e pip body s = (popPips e (popsOf e pip) s).onEng e fun x => { x with popped := true, stat := .waiting w } := by
    simp only [engWord, h.1, takePips_of_ready h, hb]
    rfl
  rw [hw]
  exact ⟨(onlyCore_popPips e _ s).trans (onlyCore_onEng _ e _), by rw [State.cur_onEng, cur_popPips]⟩

/-- A word that goes on at its next turn. -/
theorem engWord_more (hb : body (popPips e (popsOf e pip) s) = .more t) : engWord e pip body s = t.onEng e Engine.begun := by
  simp only [engWord, h.1, takePips_of_ready h, hb]
  rfl

/-- A word that meets a trap outside the surrogate phase (R355). -/
theorem engWord_trap {f : Flt} (hs : s.cur.surrogate = false) (hb : body (popPips e (popsOf e pip) s) = .trap f (popPips e (popsOf e pip) s)) :
    s.EngineTraps e f (engWord e pip body s) := by
  have hw : engWord e pip body s =
      engineTrap e f false 0 ((popPips e (popsOf e pip) s).onEng e fun x => { x with popped := true, base := none }) := by
    simp only [engWord, h.1, takePips_of_ready h, hb]
    rfl
  obtain ⟨p, v, hpop⟩ := s.cur.popAll_eq e (popsOf e pip)
  have hcur : ((popPips e (popsOf e pip) s).onEng e fun x => { x with popped := true, base := none }).cur =
      (s.cur.popAll e (popsOf e pip)).updEng e fun x => { x with popped := true, base := none } := by rw [State.cur_onEng, cur_popPips]
  have hsur : ((popPips e (popsOf e pip) s).onEng e fun x => { x with popped := true, base := none }).cur.surrogate = false := by
    rw [hcur, hpop, ← hs]
    cases e <;> rfl
  rw [hw]
  unfold engineTrap
  rw [hsur]
  refine ⟨((onlyCore_popPips e _ s).trans (onlyCore_onEng _ e _)).trans (onlyCore_onCore _ _), ?_⟩
  simp only [Bool.false_eq_true, if_false, State.cur_onCore, hcur, Core.engTrap_updEng, Core.engTrap_popAll, h.2.2.2.1, Option.getD_none]
  rw [hpop]
  cases e <;> exact ⟨rfl, rfl, rfl, _, rfl, rfl, rfl, rfl⟩

end Word

end Sys2Proof.Machine
end

section
/-! ### The granules that an engine reads (R104, R106, R289) -/

namespace Sys2Proof.Machine

variable {s t u : State} {e : Eng} {w : Who}

/-! #### One granule -/

theorem accessed_devCopies (s : State) (d : Cells (BitVec 1024)) : s.Accessed { s with devCopies := d } :=
  ⟨rfl, fun _ _ => rfl, fun l _ => by cases l <;> rfl, fun _ h => h, fun l => by cases l <;> rfl⟩

theorem granRead_spec (s : State) (w : Who) (na : Bool) (base : Word) (x : Loc × Nat × Nat) :
    s.Accessed (s.granRead w na base x).1 ∧ (s.granRead w na base x).1.cores = s.cores := by
  obtain ⟨l, va, n⟩ := x
  simp only [State.granRead]
  split
  · obtain ⟨d, hd⟩ := readSys_spec s l n (!na)
    rw [hd]
    exact ⟨accessed_devCopies s d, rfl⟩
  · exact ⟨accessed_readAt _ _ _ _ _ _, readAt_cores _ _ _ _ _ _⟩

/-- With NA and no guard buffer a granule is the bytes of memory (R100, R306). -/
theorem granRead_value (hbuf : w.buf = false) (base : Word) (l : Loc) (va n : Nat) :
    (s.granRead w true base (l, va, n)).2.1 = s.natAt l n := by
  simp only [State.granRead, State.forward, hbuf, Bool.false_eq_true, if_false]
  split
  · rfl
  · exact congrArg Prod.fst (readAt_of_hit_eq_none (s := s) (by rw [State.homeOnly, Bool.true_or, if_pos rfl]; rfl) _ _)

theorem raceMode_core (hw : w.core = s.agent) (hr : s.cur.raceMode = 0) : (s.core w.core).raceMode = 0 := by
  rw [hw]
  exact hr

/-! #### The plan of a transfer -/

/-- A plan without fault has a place for each granule. -/
theorem plan_ok {acc : Acc} {cut : List (Nat × Nat)} {oks : List (Loc × Nat × Nat)} (h : s.plan w acc cut = (oks, none)) :
    oks.map (fun o => o.2) = cut := by
  induction cut generalizing oks with
  | nil =>
    obtain rfl := (congrArg Prod.fst h).symm
    rfl
  | cons x r ih =>
    obtain ⟨va, n⟩ := x
    rw [State.plan] at h
    cases hc : s.check w acc (BitVec.ofNat 64 va) with
    | ok l =>
      simp only [hc] at h
      obtain ⟨h1, h2⟩ := Prod.mk.inj h
      subst h1
      rw [List.map_cons, ih (Prod.ext rfl h2)]
    | fault f => simp [hc] at h
    | stall => simp [hc] at h

/-- The places of a plan beside its granules. -/
theorem zip_plan {ps : List Piece} {oks : List (Loc × Nat × Nat)} (h : oks.map (fun o => o.2) = ps.map fun p => (p.va, p.n))
    {x : Piece × Loc} (hx : x ∈ ps.zip (oks.map fun o => o.1)) : ∃ o ∈ oks, x.2 = o.1 ∧ x.1.n = o.2.2 := by
  induction ps generalizing oks with
  | nil => simp at hx
  | cons p r ih =>
    cases oks with
    | nil => simp at hx
    | cons o os =>
      rw [List.map_cons, List.map_cons] at h
      obtain ⟨h1, h2⟩ := List.cons.inj h
      rw [List.map_cons, List.zip_cons_cons, List.mem_cons] at hx
      rcases hx with rfl | hx
      · exact ⟨o, List.mem_cons_self, rfl, by rw [h1]⟩
      · obtain ⟨o', ho, hx'⟩ := ih h2 hx
        exact ⟨o', List.mem_cons_of_mem _ ho, hx'⟩

/-! #### Pieces read into LS -/

theorem lsAfter_of_sameBytes (h : s.SameBytes t) {l : List (Piece × Loc)} (hn : ∀ x ∈ l, s.NoRecord x.2 x.1.n) (m : Memory) :
    t.lsAfter l m = s.lsAfter l m := by
  induction l generalizing m with
  | nil => rfl
  | cons x r ih =>
    obtain ⟨hx, hr⟩ := List.forall_mem_cons.mp hn
    rw [State.lsAfter, State.lsAfter, natAt_of_sameBytes h hx, ih hr]

theorem State.NoRecord.of_accessed (h : s.Accessed t) {l : Loc} {n : Nat} (hn : s.NoRecord l n) : t.NoRecord l n :=
  fun j hj hr => hn j hj (h.records _ hr)

/-- Pieces are read in turn: LS gets them, and nothing else of the core changes. -/
theorem fillPieces_spec (e : Eng) (hw : w.core = s.agent) (hr : s.cur.raceMode = 0) (hbuf : w.buf = false) (na : Bool) (base : Word)
    (l : List (Piece × Loc)) (ts : Word) :
    s.Accessed (fillPieces e w na base l (s, ts)).1 ∧ ∃ m, (fillPieces e w na base l (s, ts)).1.cur = { s.cur with ls := m } ∧
      (na = true → (∀ x ∈ l, s.NoRecord x.2 x.1.n) → m = s.lsAfter l s.cur.ls) := by
  induction l generalizing s ts with
  | nil => exact ⟨.refl s, s.cur.ls, rfl, fun _ _ => rfl⟩
  | cons x r ih =>
    obtain ⟨p, loc⟩ := x
    obtain ⟨ha, hc⟩ := granRead_spec s w na base (loc, p.va, p.n)
    have hcur := cur_congr hc ha.turn
    have hval := granRead_value (s := s) hbuf base loc p.va p.n
    simp only [fillPieces, engRace_eq_self (raceMode_core hw hr)]
    generalize hg : s.granRead w na base (loc, p.va, p.n) = g at ha hc hcur
    have hput : ((g.1.onCore fun c => c.lsPut p.ls p.n g.2.1)).cur = { s.cur with ls := lsWriteNat s.cur.ls p.ls p.n g.2.1 } := by
      rw [State.cur_onCore, hcur]
      rfl
    have ha' : s.Accessed (g.1.onCore fun c => c.lsPut p.ls p.n g.2.1) := ha.trans (accessed_onCore _ _)
    obtain ⟨hacc, m, hm, hv⟩ := ih (hw.trans ha'.agent.symm) (by rw [hput]; exact hr) (wmax ts g.2.2)
    rw [hput] at hm hv
    refine ⟨ha'.trans hacc, m, hm, fun hna hn => ?_⟩
    obtain ⟨hx, hrest⟩ := List.forall_mem_cons.mp hn
    subst hna
    rw [hg] at hval
    rw [hv rfl fun y hy => (hrest y hy).of_accessed ha', lsAfter_of_sameBytes ha'.bytes hrest, hval]
    rfl

/-! #### Records (R106, R107) -/

/-- The granules of a record, read in turn. -/
theorem recordStep_working (e : Eng) (hint : BitVec 3) (base : Word) (hr : s.cur.raceMode = 0) (hw : w.core = s.agent)
    (oks : List (Loc × Nat × Nat)) (v k : Nat) (ts : Word) :
    s.Working e (oks.foldl (fun (r : State × Nat × Nat × Word) o =>
      let (s1, v, t) := (r.1.engRace e w o false).granRead w (hintNa hint) base o
      (s1, r.2.1 + 256 ^ r.2.2.1 * v, r.2.2.1 + o.2.2, wmax r.2.2.2 t)) (s, v, k, ts)).1 := by
  induction oks generalizing s v k ts with
  | nil => exact .refl e s
  | cons o r ih =>
    obtain ⟨ha, hc⟩ := granRead_spec s w (hintNa hint) base o
    have h := working_of_cores ha hc e
    rw [List.foldl_cons, engRace_eq_self (raceMode_core hw hr)]
    exact h.trans (ih (h.cur.spec.2.2.2.1.trans hr) (hw.trans h.agent.symm) _ _ _)

theorem engRecord_working {hint : BitVec 3} {va : Word} {n v : Nat} (hr : s.cur.raceMode = 0) (h : engRecord e hint va n s = .ok (t, v)) :
    s.Working e t := by
  unfold engRecord at h
  extract_lets w x at h
  have hw : w.core = s.agent := core_whoE s e false
  split at h
  · rename_i oks _
    have hp := prepared_touchAll hw hr hint false oks
    have hs := recordStep_working e hint x.baseTs (hp.raceMode.trans hr) (hw.trans hp.agent.symm) oks 0 0 x.offsetTs
    obtain ⟨h1, -⟩ := Prod.mk.inj (Except.ok.inj h)
    rw [← h1]
    exact ((hp.working e).trans hs).trans (working_onEng e _ (fun y => y.pts) fun _ => _)
  · cases h
  · cases h

theorem engTile_working {hint : BitVec 3} {a : BitVec 4} {len : BitVec 7} {y : Layout} (hr : s.cur.raceMode = 0)
    (h : engTile e hint a len s = .ok (t, y)) : s.Working e t := by
  unfold engTile at h
  split at h
  · cases h
  · rename_i s1 v hrec
    have hs := engRecord_working hr hrec
    split at h
    · cases h
    · split at h
      · cases h
      · obtain ⟨h1, -⟩ := Prod.mk.inj (Except.ok.inj h)
        rw [← h1]
        exact hs

end Sys2Proof.Machine
end

section
/-! ### Blocks and tiles into LS (R104 to R106) -/

namespace Sys2Proof.Machine

variable {s t u : State} {e : Eng}

section Fill

variable {hint : BitVec 3} {ps : List Piece} {oks : List (Loc × Nat × Nat)}

/-- A transfer into LS whose granules pass their checks. -/
theorem engFill_done (hs : s.cur.surrogate = false) (hr : s.cur.raceMode = 0) (ho : (s.cur.eng e).offset = 0)
    (hplan : s.plan (s.whoE e false) .read (ps.map fun p => (p.va, p.n)) = (oks, none)) :
    ∃ t m d, engFill e hint ps none s = .done t false ∧ s.Accessed t ∧ s.cur.Worked e d ∧ t.cur = { d with ls := m } ∧
      (hint.getLsbD 2 = true → s.NoRecords oks → m = s.lsAfter (ps.zip (oks.map fun o => o.1)) s.cur.ls) := by
  have hw : (s.whoE e false).core = s.agent := core_whoE s e false
  have hbuf : (s.whoE e false).buf = false := by
    rw [State.whoE, buf_whoAt]
    show (s.cur.surrogate && _) = false
    rw [hs, Bool.false_and]
  have hp := prepared_touchAll hw hr hint false oks
  obtain ⟨x, hx⟩ := hp.tlb
  obtain ⟨ha, m, hm, hv⟩ := fillPieces_spec e (hw.trans hp.agent.symm) (hp.raceMode.trans hr) hbuf (hintNa hint) (s.cur.eng e).baseTs
    (ps.zip (oks.map fun o => o.1)) (s.cur.eng e).offsetTs
  have hfill : engFill e hint ps none s = .done ((fillPieces e (s.whoE e false) (hintNa hint) (s.cur.eng e).baseTs (ps.zip (oks.map fun o => o.1))
      (s.touchAll (s.whoE e false) hint false oks, (s.cur.eng e).offsetTs)).1.raiseEng e
        (fillPieces e (s.whoE e false) (hintNa hint) (s.cur.eng e).baseTs (ps.zip (oks.map fun o => o.1))
          (s.touchAll (s.whoE e false) hint false oks, (s.cur.eng e).offsetTs)).2) false := by
    simp only [engFill, ho, Nat.zero_div, List.drop_zero, hplan]
  generalize fillPieces e (s.whoE e false) (hintNa hint) (s.cur.eng e).baseTs (ps.zip (oks.map fun o => o.1))
    (s.touchAll (s.whoE e false) hint false oks, (s.cur.eng e).offsetTs) = r at ha hm hfill
  refine ⟨_, m, _, hfill, (hp.toAccessed.trans ha).trans (working_raiseEng e r.1 r.2).toAccessed,
    ⟨wmax (s.cur.eng e).pts (wmax (s.cur.eng e).offsetTs r.2), (s.cur.eng e).offsetTs, x, rfl⟩, ?_, fun hna hn => ?_⟩
  · rw [State.raiseEng, State.cur_onEng, hm, hx]
    cases e <;> rfl
  · have hzip : ∀ y ∈ ps.zip (oks.map fun o => o.1), s.NoRecord y.2 y.1.n := fun y hy => by
      obtain ⟨o, ho, h1, h2⟩ := zip_plan (plan_ok hplan) hy
      rw [h1, h2]
      exact hn o ho
    rw [hv hna fun y hy => (hzip y hy).of_accessed hp.toAccessed, lsAfter_of_sameBytes hp.bytes hzip, hx]

/-- A block that runs past the scratch window fills nothing (R105). -/
theorem engFill_tail (ho : (s.cur.eng e).offset = 0) (hplan : s.plan (s.whoE e false) .read (ps.map fun p => (p.va, p.n)) = (oks, none)) (f : Flt) :
    engFill e hint ps (some f) s = .trap f s := by
  simp only [engFill, ho, Nat.zero_div, List.drop_zero, hplan]

end Fill

/-! #### The words -/

section Words

variable {pip : BitVec 4} {body : State → Eff} {m : Memory} {d : Core}

/-- What a ready engine works on after its pops. -/
theorem accessed_popPips (e : Eng) (l : List Nat) (s : State) : s.Accessed (popPips e l s) := (onlyCore_popPips e l s).accessed

theorem popPips_spec (e : Eng) (l : List Nat) (s : State) : (popPips e l s).cur.surrogate = s.cur.surrogate ∧
    (popPips e l s).cur.raceMode = s.cur.raceMode ∧ (popPips e l s).cur.ls = s.cur.ls ∧ (popPips e l s).cur.vec = s.cur.vec ∧
    (popPips e l s).cur.tileClean = s.cur.tileClean ∧ ((popPips e l s).cur.eng e).offset = (s.cur.eng e).offset ∧
    ∀ r, ((popPips e l s).cur.eng e).getA r = (s.cur.eng e).getA r := by
  obtain ⟨p, v, h⟩ := s.cur.popAll_eq e l
  rw [cur_popPips, h]
  cases e <;> exact ⟨rfl, rfl, rfl, rfl, rfl, rfl, fun _ => rfl⟩

theorem Core.finish_filled (c : Core) (p o : Word) (x : List TlbEntry) (m : Memory) (l : List Nat) :
    (({ { c.updEng .l fun y => { y with pts := p, offsetTs := o } with tlb := x } with ls := m } : Core).pushAll .l l).updEng .l Engine.finish =
      (({ c.updEng .l fun y => { y with pts := p } with ls := m, tlb := x } : Core).pushAll .l l).updEng .l Engine.finish :=
  Core.finish_offsetTs { c.updEng .l fun y => { y with pts := p } with ls := m, tlb := x } .l l o

/-- A word of L that has filled LS. -/
theorem filled_engWord (h : s.EngReady .l pip) (hb : body (popPips .l (popsOf .l pip) s) = .done t false) (ha : s.Accessed t)
    (hd : (popPips .l (popsOf .l pip) s).cur.Worked .l d) (ht : t.cur = { d with ls := m }) : s.Filled pip m (engWord .l pip body s) := by
  obtain ⟨hpips, htrap, -⟩ := hd.spec
  obtain ⟨honly, hcur⟩ := engWord_done h hb (by rw [ht]; exact hpips) (by rw [ht]; exact htrap.trans (engTrap_popPips h))
  have hall := ha.trans honly.accessed
  obtain ⟨p, o, x, hdx⟩ := hd
  refine ⟨hall.cores, hall.bytes, p, x, ?_⟩
  rw [hcur, ht, hdx, Core.finish_filled, cur_popPips]
  rfl

variable {a b : BitVec 4} {hint : BitVec 3} {l : BitVec 7} {ps : List Piece} {oks : List (Loc × Nat × Nat)}

/-- A word of L whose transfer begins in a state in which only its record has been read. -/
theorem fills (h : s.EngReady .l pip) (hs : s.cur.surrogate = false) (hr : s.cur.raceMode = 0) (ho : s.cur.l.offset = 0)
    (hw : (popPips .l (popsOf .l pip) s).Working .l t) (hb : body (popPips .l (popsOf .l pip) s) = engFill .l hint ps none t)
    (hplan : t.plan (t.whoE .l false) .read (ps.map fun p => (p.va, p.n)) = (oks, none)) :
    ∃ m, s.Filled pip m (engWord .l pip body s) ∧
      (hint.getLsbD 2 = true → s.NoRecords oks → m = s.lsAfter (ps.zip (oks.map fun o => o.1)) s.cur.ls) := by
  obtain ⟨hs0, hr0, hls0, -, -, ho0, -⟩ := popPips_spec .l (popsOf .l pip) s
  obtain ⟨-, -, hs1, hr1, hls1, -, -, ho1, -⟩ := hw.cur.spec
  have hacc := (accessed_popPips .l (popsOf .l pip) s).trans hw.toAccessed
  obtain ⟨v, m, d, hf, ha, hd, hv, hm⟩ := engFill_done (e := .l) (hint := hint) (hs1.trans (hs0.trans hs)) (hr1.trans (hr0.trans hr))
    (ho1.trans (ho0.trans ho)) hplan
  refine ⟨m, filled_engWord h (hb.trans hf) (hacc.trans ha) (hw.cur.trans hd) hv, fun hna hn => ?_⟩
  have hn' : t.NoRecords oks := fun o ho => (hn o ho).of_accessed hacc
  have hzip : ∀ y ∈ ps.zip (oks.map fun o => o.1), s.NoRecord y.2 y.1.n := fun y hy => by
    obtain ⟨o, ho, h1, h2⟩ := zip_plan (plan_ok hplan) hy
    rw [h1, h2]
    exact hn o ho
  rw [hm hna hn', lsAfter_of_sameBytes hacc.bytes hzip, hls1, hls0]

theorem engineLoadsHold : EngineLoadsHold := by
  rintro s s0 a b h l pip oks hready rfl hs hr ho
  obtain ⟨-, -, -, -, -, ho0, hA⟩ := popPips_spec .l (popsOf .l pip) s
  have hA : ∀ r, (popPips .l (popsOf .l pip) s).cur.l.getA r = s.cur.l.getA r := hA
  refine ⟨fun ps hps hplan => ⟨_, rfl, ?_⟩, fun ps hps hplan => ⟨fun htail => ⟨_, rfl, ?_⟩, fun f htail => ⟨_, rfl, ?_⟩⟩,
    fun s1 y ps htile hps hplan => ⟨_, rfl, ?_⟩⟩
  · refine fills hready hs hr ho (.refl _ _) ?_ hplan
    simp only [hA, ← hps]
  · refine fills hready hs hr ho (.refl _ _) ?_ hplan
    simp only [hA, ← hps, htail]
  · refine engWord_trap hready hs ?_
    simp only [hA, ← hps, htail]
    exact engFill_tail (ho0.trans ho) hplan f
  · refine fills hready hs hr ho (engTile_working ?_ htile) ?_ hplan
    · exact (popPips_spec .l (popsOf .l pip) s).2.1.trans hr
    · simp only [htile, hA, ← hps]

end Words

end Sys2Proof.Machine
end

section
/-! ### The scale queue, the decoder FIFO and prefetches (R107, R108, R197) -/

namespace Sys2Proof.Machine

variable {s t u : State} {e : Eng}

/-! #### Words of L that fill a queue of C -/

/-- A queue of C that L has filled: of the core C's state and the queue differ. -/
theorem wakeC_onVec_spec (s : State) (f : Vec → Vec) : s.Accessed (s.wakeC.onVec f) ∧ (s.wakeC.onVec f).cur.pips = s.cur.pips ∧
    (s.wakeC.onVec f).cur.engTrap = s.cur.engTrap ∧ (s.wakeC.onVec f).cur.vec = f s.cur.vec := by
  have hwake : s.Accessed s.wakeC := (onlyCore_onEng s .c _).accessed
  refine ⟨hwake.trans (accessed_onCore s.wakeC _), ?_⟩
  rw [State.onVec, State.cur_onCore, State.wakeC, State.cur_onEng]
  exact ⟨rfl, rfl, rfl⟩

/-- A word that is done leaves the vector state as its effect has left it. -/
theorem vec_pushAll_finish (c : Core) (e : Eng) (l : List Nat) : ((c.pushAll e l).updEng e Engine.finish).vec = c.vec := by
  obtain ⟨p, h⟩ := c.pushAll_eq e l
  rw [h]
  cases e <;> rfl

section Queues

variable {pip : BitVec 4} {a b : BitVec 4} {hint : BitVec 3} {l : BitVec 7} {body : State → Eff}

theorem queued_engWord (h : s.EngReady e pip) (hb : body (popPips e (popsOf e pip) s) = .done t false) (ha : s.Accessed t)
    (hp : t.cur.pips = (popPips e (popsOf e pip) s).cur.pips) (hn : t.cur.engTrap = none) :
    (engWord e pip body s).cur.vec = t.cur.vec ∧ s.SameBytes (engWord e pip body s) ∧
      ∀ n, n ≠ s.agent → (engWord e pip body s).core n = s.core n := by
  obtain ⟨honly, hcur⟩ := engWord_done h hb hp hn
  have hall := ha.trans honly.accessed
  exact ⟨by rw [hcur, vec_pushAll_finish], hall.bytes, hall.cores⟩

/-- What LDQ does once its pips are popped. -/
def ldqOf (a : BitVec 4) (hint : BitVec 3) (l : BitVec 7) (s : State) : Eff :=
  let n := 2 * l.toNat
  if s.cur.vec.scaleQ.length + n > 64 then .wait .scaleQueue
  else
    match engRecord .l hint (s.cur.l.getA a) n s with
    | .error e => e
    | .ok (s1, v) => .done ((s1.raiseEng .l 0).wakeC.onVec fun y => { y with scaleQ := y.scaleQ ++ bytesOf n v }) false

theorem exec_ldq (s : State) : exec (.ldq a hint l pip) s = .next (engWord .l pip (ldqOf a hint l) s) := rfl

/-- LDQ with room and a readable record (R107). -/
theorem ldq_fills {v : Nat} (h : s.EngReady .l pip) (hr : s.cur.raceMode = 0) (hroom : s.cur.vec.scaleQ.length + 2 * l.toNat ≤ 64)
    (hrec : engRecord .l hint (s.cur.l.getA a) (2 * l.toNat) (popPips .l (popsOf .l pip) s) = .ok (t, v)) :
    Completes (.ldq a hint l pip) s (fun u => u.cur.vec.scaleQ = s.cur.vec.scaleQ ++ bytesOf (2 * l.toNat) v ∧
      u.cur.vec = { s.cur.vec with scaleQ := u.cur.vec.scaleQ } ∧ s.SameBytes u ∧ ∀ n, n ≠ s.agent → u.core n = s.core n) := by
  obtain ⟨-, hr0, -, hvec0, -, -, hA⟩ := popPips_spec .l (popsOf .l pip) s
  have hA : ∀ r, (popPips .l (popsOf .l pip) s).cur.l.getA r = s.cur.l.getA r := hA
  have hw := (engRecord_working (hr0.trans hr) hrec).trans (working_raiseEng .l t 0)
  obtain ⟨hpips, htrap, -, -, -, hvec, -⟩ := hw.cur.spec
  obtain ⟨ha, hp, hn, hv⟩ := wakeC_onVec_spec (t.raiseEng .l 0) fun y => { y with scaleQ := y.scaleQ ++ bytesOf (2 * l.toNat) v }
  obtain ⟨hvec', hbytes, hcores⟩ := queued_engWord h (body := ldqOf a hint l)
    (by simp only [ldqOf, hvec0, if_neg (Nat.not_lt.mpr hroom), hA, hrec]) (((accessed_popPips _ _ _).trans hw.toAccessed).trans ha) (hp.trans hpips)
    (hn.trans (htrap.trans (engTrap_popPips h)))
  rw [hv, hvec, hvec0] at hvec'
  exact ⟨_, exec_ldq s, congrArg Vec.scaleQ hvec', by rw [hvec'], hbytes, hcores⟩

/-- Without room LDQ waits. -/
theorem ldq_waits (h : s.EngReady .l pip) (hroom : 64 < s.cur.vec.scaleQ.length + 2 * l.toNat) :
    Completes (.ldq a hint l pip) s (s.EngineWaits .l pip .scaleQueue) := by
  obtain ⟨-, -, -, hvec0, -⟩ := popPips_spec .l (popsOf .l pip) s
  exact ⟨_, exec_ldq s, engWord_wait h (by simp only [ldqOf, hvec0, gt_iff_lt, hroom, if_true])⟩

/-! #### Slots of a stream (R197, R198) -/

theorem streamRead_working {va n v : Nat} (hr : s.cur.raceMode = 0) (h : streamRead hint va n s = .ok (t, v)) : s.Working .l t := by
  unfold streamRead at h
  split at h
  · cases h
  · exact engRecord_working hr h

/-- A slot that decodes goes into the FIFO, with its address and its index. -/
theorem ldfSlot_spec {d k : Nat} (hr : s.cur.raceMode = 0) (h : ldfSlot hint d k s = .ok t) : s.Accessed t ∧ t.cur.pips = s.cur.pips ∧
    t.cur.engTrap = s.cur.engTrap ∧ ∃ bs va, t.cur.vec = { s.cur.vec with fifo := s.cur.vec.fifo ++ bs, slots := s.cur.vec.slots ++ [(va, k)] } := by
  have put : ∀ {u : State} (bs : List Byte) (va : Word), s.Working .l u →
      t = u.wakeC.onVec (fun y => { y with fifo := y.fifo ++ bs, slots := y.slots ++ [(va, k)] }) →
      s.Accessed t ∧ t.cur.pips = s.cur.pips ∧ t.cur.engTrap = s.cur.engTrap ∧
        ∃ bs va, t.cur.vec = { s.cur.vec with fifo := s.cur.vec.fifo ++ bs, slots := s.cur.vec.slots ++ [(va, k)] } := by
    rintro u bs va hw rfl
    obtain ⟨hpips, htrap, -, -, -, hvec, -⟩ := hw.cur.spec
    obtain ⟨ha, hp, hn, hv⟩ := wakeC_onVec_spec u fun y => { y with fifo := y.fifo ++ bs, slots := y.slots ++ [(va, k)] }
    exact ⟨hw.toAccessed.trans ha, hp.trans hpips, hn.trans htrap, bs, va, by rw [hv, hvec]⟩
  unfold ldfSlot at h
  split at h
  · cases h
  · rename_i s1 v hd
    have h1 := streamRead_working hr hd
    split at h
    · cases h
    · rename_i st _
      simp only at h
      split at h
      · cases h
      · split at h
        · cases h
        · rename_i s2 b hslot
          have h2 := h1.trans (streamRead_working (h1.cur.spec.2.2.2.1.trans hr) hslot)
          split at h
          · cases h
          · exact put _ _ h2 (Except.ok.inj h).symm
          · split at h
            · cases h
            · rename_i s3 x hside
              exact put _ _ (h2.trans (streamRead_working (h2.cur.spec.2.2.2.1.trans hr) hside)) (Except.ok.inj h).symm

/-- What LDF does once its pips are popped. -/
def ldfOf (a b : BitVec 4) (hint : BitVec 3) (l : BitVec 7) (s : State) : Eff :=
  let x := s.cur.l
  let i := x.offset
  if s.cur.vec.fifo.length + 128 > 65536 then .wait .fifo
  else
    match ldfSlot hint (x.getA a).toNat ((x.getA b).toNat + i) s with
    | .error (.replay f _ s1) => .replay f i s1
    | .error e => e
    | .ok s1 => if i + 1 < units l then .more (s1.onEng .l fun y => { y with offset := i + 1 }) else .done (s1.raiseEng .l 0) false

theorem exec_ldf (s : State) : exec (.ldf a b hint l pip) s = .next (engWord .l pip (ldfOf a b hint l) s) := rfl

/-- LDF with a slot that decodes (R107). -/
theorem ldf_fills (h : s.EngReady .l pip) (hr : s.cur.raceMode = 0) (hroom : s.cur.vec.fifo.length + 128 ≤ 65536) (ho : s.cur.l.offset = 0)
    (hslot : ldfSlot hint (s.cur.l.getA a).toNat (s.cur.l.getA b).toNat (popPips .l (popsOf .l pip) s) = .ok t) :
    Completes (.ldf a b hint l pip) s (fun u => (∃ bs va, u.cur.vec.fifo = s.cur.vec.fifo ++ bs ∧
        u.cur.vec.slots = s.cur.vec.slots ++ [(va, (s.cur.l.getA b).toNat)]) ∧
      u.cur.vec.fifo = t.cur.vec.fifo ∧ s.SameBytes u ∧ ∀ n, n ≠ s.agent → u.core n = s.core n) := by
  obtain ⟨-, hr0, -, hvec0, -, ho0, hA⟩ := popPips_spec .l (popsOf .l pip) s
  have hA : ∀ r, (popPips .l (popsOf .l pip) s).cur.l.getA r = s.cur.l.getA r := hA
  have ho0 : (popPips .l (popsOf .l pip) s).cur.l.offset = 0 := ho0.trans ho
  obtain ⟨ha, hp, hn, bs, va, hv⟩ := ldfSlot_spec (hr0.trans hr) hslot
  rw [hvec0] at hv
  have hacc := (accessed_popPips .l (popsOf .l pip) s).trans ha
  have hq : ∀ u : State, u.cur.vec = t.cur.vec → (∃ bs va, u.cur.vec.fifo = s.cur.vec.fifo ++ bs ∧
      u.cur.vec.slots = s.cur.vec.slots ++ [(va, (s.cur.l.getA b).toNat)]) ∧ u.cur.vec.fifo = t.cur.vec.fifo := fun u hu =>
    ⟨⟨bs, va, by rw [hu, hv], by rw [hu, hv]⟩, by rw [hu]⟩
  refine ⟨_, exec_ldf s, ?_⟩
  by_cases hlast : 1 < units l
  · have hmore := engWord_more h (t := t.onEng .l fun y => { y with offset := 1 }) (body := ldfOf a b hint l)
      (by simp only [ldfOf, hvec0, if_neg (Nat.not_lt.mpr hroom), hA, ho0, Nat.add_zero, hslot, Nat.zero_add, if_pos hlast])
    have hall := hacc.trans (((onlyCore_onEng t .l fun y => { y with offset := 1 }).trans (onlyCore_onEng _ .l Engine.begun)).accessed)
    rw [← hmore] at hall
    obtain ⟨h1, h2⟩ := hq (engWord .l pip (ldfOf a b hint l) s) (by rw [hmore, State.cur_onEng, State.cur_onEng]; rfl)
    exact ⟨h1, h2, hall.bytes, hall.cores⟩
  · obtain ⟨hvec', hbytes, hcores⟩ := queued_engWord h (t := t.raiseEng .l 0) (body := ldfOf a b hint l)
      (by simp only [ldfOf, hvec0, if_neg (Nat.not_lt.mpr hroom), hA, ho0, Nat.add_zero, hslot, Nat.zero_add, if_neg hlast])
      (hacc.trans (working_raiseEng .l t 0).toAccessed) ((working_raiseEng .l t 0).cur.spec.1.trans hp)
      ((working_raiseEng .l t 0).cur.spec.2.1.trans (hn.trans (engTrap_popPips h)))
    obtain ⟨h1, h2⟩ := hq _ (hvec'.trans (working_raiseEng .l t 0).cur.spec.2.2.2.2.2.1)
    exact ⟨h1, h2, hbytes, hcores⟩

/-- Without room LDF waits. -/
theorem ldf_waits (h : s.EngReady .l pip) (hroom : 65536 < s.cur.vec.fifo.length + 128) :
    Completes (.ldf a b hint l pip) s (s.EngineWaits .l pip .fifo) := by
  obtain ⟨-, -, -, hvec0, -⟩ := popPips_spec .l (popsOf .l pip) s
  exact ⟨_, exec_ldf s, engWord_wait h (by simp only [ldfOf, hvec0, gt_iff_lt, hroom, if_true])⟩

end Queues

/-! #### Prefetches (R108) -/

/-- L has requested lines: of its core the TLB differs. -/
structure State.Requested (s t : State) : Prop where
  turn : t.turn = s.turn
  cores : ∀ n, n ≠ s.agent → t.core n = s.core n
  bytes : ∀ p, t.byteAt p = s.byteAt p
  tlb : ∃ x, t.cur = { s.cur with tlb := x }
  nextId : s.nextId ≤ t.nextId
  reqs : ∀ j r, Cells.find? t.reqs j = some r → Cells.find? s.reqs j = some r ∨ (r.core = s.agent ∧ r.e = .l ∧ ∃ cls fill, r.kind = .line cls fill)

theorem State.Requested.refl (s : State) : s.Requested s :=
  ⟨rfl, fun _ _ => rfl, fun _ => rfl, ⟨s.cur.tlb, rfl⟩, Nat.le_refl _, fun _ _ h => .inl h⟩

/-- The request of L for a line. -/
def State.lineReq (s : State) (cls : BitVec 2) (fill : Bool) (loc : Loc) (va : Nat) : Req :=
  { kind := .line cls fill, loc := loc, va := BitVec.ofNat 64 va, core := s.agent, e := .l, pts := s.cur.l.pts, floor := s.cur.floor,
    launch := (s.cur.binding.map fun x => x.launch).getD 0, issued := s.cur.l.pts, number := s.cur.launchId, iter := s.cur.iter,
    gen := s.cur.gen, pos := (s.cur.l.entry.map fun q => q.pos).getD 0, pushes := [], key := [],
    at_ := (s.cur.l.entry.map fun q => q.at_).getD 0, passed := [] }

/-- What LPF does with a line: one that fails its checks is dropped. -/
def State.requestLine (s : State) (hint : BitVec 3) (s1 : State) (va : Nat) : State :=
  match s1.check (s.whoE .l false) .read (BitVec.ofNat 64 va) with
  | .ok loc =>
    { s1.noteTlb s.agent false (BitVec.ofNat 64 va) with
      reqs := Cells.put s1.reqs s1.nextId (s.lineReq (s1.classOf (s.whoE .l false) (BitVec.ofNat 64 va) hint) (!hintNa hint) loc va),
      nextId := s1.nextId + 1 }
  | _ => s1

theorem requested_requestLine (h : s.Requested t) (hint : BitVec 3) (va : Nat) : s.Requested (s.requestLine hint t va) := by
  unfold State.requestLine
  split
  · rename_i loc _
    have hagent : t.agent = s.agent := State.agent_congr h.turn
    have hp : t.Prepared (t.noteTlb s.agent false (BitVec.ofNat 64 va)) := hagent ▸ prepared_noteTlb t false (BitVec.ofNat 64 va)
    obtain ⟨x, hx⟩ := h.tlb
    obtain ⟨y, hy⟩ := hp.tlb
    have hbytes : ∀ p, (t.noteTlb s.agent false (BitVec.ofNat 64 va)).byteAt p = t.byteAt p := fun p => by
      obtain ⟨ht, -⟩ := onlyTlbs_noteTlb t s.agent false (BitVec.ofNat 64 va)
      rw [ht]
      cases p <;> rfl
    refine ⟨hp.turn.trans h.turn, fun n hn => (hp.cores n (hagent ▸ hn)).trans (h.cores n hn),
      fun p => Eq.trans (by cases p <;> rfl) ((hbytes p).trans (h.bytes p)), ⟨y, ?_⟩, Nat.le_succ_of_le h.nextId, fun j r hj => ?_⟩
    · exact Eq.trans hy (by rw [hx])
    · have hput : Cells.find? (Cells.put t.reqs t.nextId _) j = some r := hj
      rw [Cells.find?_put] at hput
      split at hput
      · obtain rfl := Option.some.inj hput
        exact .inr ⟨rfl, rfl, _, _, rfl⟩
      · exact h.reqs j r hput
  · exact h

theorem requested_lines (s : State) (hint : BitVec 3) (h : s.Requested t) (vas : List Nat) : s.Requested (vas.foldl (s.requestLine hint) t) := by
  induction vas generalizing t with
  | nil => exact h
  | cons va r ih => exact ih (requested_requestLine h hint va)

section Lpf

variable {pip a : BitVec 4} {hint : BitVec 3} {l : BitVec 7}

/-- What LPF does once its pips are popped. -/
def lpfOf (a : BitVec 4) (hint : BitVec 3) (l : BitVec 7) (s : State) : Eff :=
  .done ((linesOf (s.cur.l.getA a) (64 * units l)).foldl (s.requestLine hint) s) false

theorem exec_lpf (s : State) : exec (.lpf a hint l pip) s = .next (engWord .l pip (lpfOf a hint l) s) := rfl

/-- LPF requests lines and does nothing else. -/
theorem lpf_requests (h : s.EngReady .l pip) :
    Completes (.lpf a hint l pip) s (fun t => t.cur = s.cur.after .l pip (fun c => { c with tlb := t.cur.tlb }) ∧ (∀ p, t.byteAt p = s.byteAt p) ∧
      (∀ n, n ≠ s.agent → t.core n = s.core n) ∧ s.nextId ≤ t.nextId ∧
      ∀ j r, Cells.find? t.reqs j = some r → Cells.find? s.reqs j = some r ∨
        (r.core = s.agent ∧ r.e = .l ∧ ∃ cls fill, r.kind = .line cls fill)) := by
  have hpop := onlyCore_popPips .l (popsOf .l pip) s
  have hr := requested_lines (popPips .l (popsOf .l pip) s) hint (.refl _)
    (linesOf ((popPips .l (popsOf .l pip) s).cur.l.getA a) (64 * units l))
  obtain ⟨x, hx⟩ := hr.tlb
  obtain ⟨honly, hcur⟩ := engWord_done h (body := lpfOf a hint l) rfl
    (by rw [hx]) (by rw [hx]; exact engTrap_popPips h)
  have hagent := hpop.agent
  have hreqs : (popPips .l (popsOf .l pip) s).reqs = s.reqs := by rw [hpop.1]
  have hid : (popPips .l (popsOf .l pip) s).nextId = s.nextId := by rw [hpop.1]
  refine ⟨_, exec_lpf s, ?_⟩
  generalize engWord .l pip (lpfOf a hint l) s = u at honly hcur ⊢
  generalize (linesOf ((popPips .l (popsOf .l pip) s).cur.l.getA a) (64 * units l)).foldl ((popPips .l (popsOf .l pip) s).requestLine hint)
    (popPips .l (popsOf .l pip) s) = v at hr hx honly hcur
  have htlb : u.cur.tlb = x := by
    obtain ⟨p, hp⟩ := v.cur.pushAll_eq .l (pushesOf .l pip)
    rw [hcur, hp, hx]
    rfl
  refine ⟨?_, fun p => (honly.2.2 p).trans ((hr.bytes p).trans (hpop.2.2 p)), fun n hn => ?_, ?_, fun j r hj => ?_⟩
  · rw [htlb, hcur, hx, cur_popPips]
    rfl
  · have hn0 : n ≠ (popPips .l (popsOf .l pip) s).agent := hagent.symm ▸ hn
    exact (honly.2.1 n ((State.agent_congr hr.turn).symm ▸ hn0)).trans ((hr.cores n hn0).trans (hpop.2.1 n hn))
  · rw [honly.1, ← hid]
    exact hr.nextId
  · rw [honly.1] at hj
    have hj' := hr.reqs j r hj
    rw [hreqs, hagent] at hj'
    exact hj'

end Lpf

theorem queueFillsHold : QueueFillsHold := by
  rintro s s0 a b h l pip hready rfl hr
  exact ⟨fun hroom s1 v hrec => ldq_fills hready hr hroom hrec, fun hroom => ldq_waits hready hroom,
    fun hroom ho s1 hslot => ldf_fills hready hr hroom ho hslot, fun hroom => ldf_waits hready hroom, lpf_requests hready⟩

/-- Settles O29: a transfer into LS reads its granules in turn (`engFill_done`), LDQ and LDF append what they have read (`ldq_fills`,
`ldf_fills`), and LPF adds requests alone (`lpf_requests`). -/
theorem engineLoadsAndFills : Obligations.EngineLoadsAndFills := ⟨engineLoadsHold, queueFillsHold⟩

end Sys2Proof.Machine
end

section
/-! ### Blocks, tiles and flags to memory (R104 to R106, R109 to R111, R289) -/

namespace Sys2Proof.Machine

variable {s t u : State} {e : Eng} {w : Who}

/-! #### Pieces written in turn -/

/-- A granule of package memory or scratch is one write (R289). -/
theorem granWrite_eq (hw : w.core = s.agent) (hr : s.cur.raceMode = 0) (hbuf : w.buf = false) {l : Loc} (hl : l.isSystem = false) (src : SysSrc)
    (na : Bool) (base : Word) (va n v : Nat) :
    s.granWrite w src na base (l, va, n) v = s.writeAt (s.holders w.core va) (s.homeOnly w na va) base l n v := by
  have hm : ((s.writeAt (s.holders w.core va) (s.homeOnly w na va) base l n v).1.core w.core).raceMode = 0 := by
    rw [State.core_congr (cores_writeAt _ _ _ _ _ _ _)]
    exact raceMode_core hw hr
  simp only [State.granWrite, hbuf, hl, Bool.false_eq_true, if_false, noteWrite_eq_self hm]

theorem byteAt_withPieces_congr {k : Loc} (h : t.byteAt k = s.byteAt k) (oks : List (Loc × Nat × Nat)) (vs : List Nat) :
    (t.withPieces oks vs).byteAt k = (s.withPieces oks vs).byteAt k := by
  induction oks generalizing s t vs with
  | nil => exact h
  | cons x r ih =>
    cases vs with
    | nil => exact h
    | cons v vs => exact ih (byteAt_putNat_congr h x.1 x.2.2 v) vs

theorem byteAt_withPieces_of_key_ne {k : Loc} {oks : List (Loc × Nat × Nat)} (h : ∀ p ∈ oks, ∀ j, j < p.2.2 → k.key ≠ (p.1.plus j).key)
    (s : State) (vs : List Nat) : (s.withPieces oks vs).byteAt k = s.byteAt k := by
  induction oks generalizing s vs with
  | nil => rfl
  | cons x r ih =>
    obtain ⟨hx, hr⟩ := List.forall_mem_cons.mp h
    cases vs with
    | nil => rfl
    | cons v vs => rw [State.withPieces, ih hr, byteAt_putNat_of_key_ne _ _ _ _ hx]

/-- Pieces of package memory and scratch are written in turn, and no core changes. -/
theorem drainPieces_spec (e : Eng) (hw : w.core = s.agent) (hr : s.cur.raceMode = 0) (hbuf : w.buf = false) (na : Bool) (base : Word)
    {oks : List (Loc × Nat × Nat)} (hl : ∀ o ∈ oks, o.1.isSystem = false) (vs : List Nat) (ts : Word) :
    (drainPieces e w na base (oks.zip vs) (s, ts)).1.cores = s.cores ∧ (drainPieces e w na base (oks.zip vs) (s, ts)).1.turn = s.turn ∧
      ∀ k, (drainPieces e w na base (oks.zip vs) (s, ts)).1.byteAt k = (s.withPieces oks vs).byteAt k := by
  induction oks generalizing s vs ts with
  | nil => exact ⟨rfl, rfl, fun _ => rfl⟩
  | cons o r ih =>
    cases vs with
    | nil => exact ⟨rfl, rfl, fun _ => rfl⟩
    | cons v vs =>
      obtain ⟨l, va, n⟩ := o
      obtain ⟨ho, hrest⟩ := List.forall_mem_cons.mp hl
      rw [List.zip_cons_cons, drainPieces, engRace_eq_self (raceMode_core hw hr), granWrite_eq hw hr hbuf ho]
      have hcores := cores_writeAt s (s.holders w.core va) (s.homeOnly w na va) base l n v
      have hturn := (storing_writeAt s (s.holders w.core va) (s.homeOnly w na va) base l n v).turn
      have hbytes := byteAt_writeAt s (s.holders w.core va) (s.homeOnly w na va) base l n v
      generalize s.writeAt (s.holders w.core va) (s.homeOnly w na va) base l n v = g at hcores hturn hbytes
      obtain ⟨hc, ht, hb⟩ := ih (s := g.1) (hw.trans (State.agent_congr hturn).symm) (by rw [cur_congr hcores hturn]; exact hr) hrest vs (wmax ts g.2)
      exact ⟨hc.trans hcores, ht.trans hturn, fun k => (hb k).trans (byteAt_withPieces_congr (hbytes k) r vs)⟩

/-! #### A transfer to memory -/

/-- What a transfer to memory leaves: the pieces written, and of its core the engine at work. -/
structure State.Draining (e : Eng) (oks : List (Loc × Nat × Nat)) (vs : List Nat) (s t : State) : Prop where
  turn : t.turn = s.turn
  cores : ∀ n, n ≠ s.agent → t.core n = s.core n
  cur : s.cur.Worked e t.cur
  bytes : ∀ l, ¬ s.InRecords l → t.byteAt l = (s.withPieces oks vs).byteAt l

section Drain

variable {sync : Bool} {hint : BitVec 3} {ps : List (Piece × Nat)} {oks : List (Loc × Nat × Nat)}

theorem engDrain_done (hs : s.cur.surrogate = false) (hr : s.cur.raceMode = 0) (ho : (s.cur.eng e).offset = 0)
    (hl : ∀ o ∈ oks, o.1.isSystem = false) (hplan : s.plan (s.whoE e sync) .write (ps.map fun p => (p.1.va, p.1.n)) = (oks, none)) :
    ∃ t, engDrain e sync hint ps none s = .done t false ∧ s.Draining e oks (ps.map fun p => p.2) t := by
  have hw : (s.whoE e sync).core = s.agent := core_whoE s e sync
  have hbuf : (s.whoE e sync).buf = false := by
    rw [State.whoE, buf_whoAt]
    show (s.cur.surrogate && _) = false
    rw [hs, Bool.false_and]
  have hp := prepared_touchAll hw hr hint true oks
  obtain ⟨hc, ht, hb⟩ := drainPieces_spec e (hw.trans hp.agent.symm) (hp.raceMode.trans hr) hbuf (hintNa hint) (s.cur.eng e).baseTs hl
    (ps.map fun p => p.2) (s.cur.eng e).offsetTs
  have hdrain : engDrain e sync hint ps none s = .done ((drainPieces e (s.whoE e sync) (hintNa hint) (s.cur.eng e).baseTs
      (oks.zip (ps.map fun p => p.2)) (s.touchAll (s.whoE e sync) hint true oks, (s.cur.eng e).offsetTs)).1.raiseEng e
        (drainPieces e (s.whoE e sync) (hintNa hint) (s.cur.eng e).baseTs (oks.zip (ps.map fun p => p.2))
          (s.touchAll (s.whoE e sync) hint true oks, (s.cur.eng e).offsetTs)).2) false := by
    simp only [engDrain, ho, Nat.zero_div, List.drop_zero, hplan, hs, Bool.false_and, Bool.false_eq_true, if_false]
  generalize drainPieces e (s.whoE e sync) (hintNa hint) (s.cur.eng e).baseTs (oks.zip (ps.map fun p => p.2))
    (s.touchAll (s.whoE e sync) hint true oks, (s.cur.eng e).offsetTs) = r at hc ht hb hdrain
  have hraise := working_raiseEng e r.1 r.2
  have hagent : r.1.agent = s.agent := (State.agent_congr ht).trans hp.agent
  refine ⟨_, hdrain, hraise.turn.trans (ht.trans hp.turn), fun n hn => ?_, ?_, fun l h => ?_⟩
  · rw [hraise.cores n (hagent ▸ hn), State.core_congr hc, hp.cores n hn]
  · exact (cur_congr hc ht ▸ (hp.working e).cur).trans hraise.cur
  · exact ((onlyCore_onEng r.1 e _).2.2 l).trans ((hb l).trans (byteAt_withPieces_congr (hp.bytes l h) _ _))

theorem engDrain_tail (ho : (s.cur.eng e).offset = 0) (hplan : s.plan (s.whoE e sync) .write (ps.map fun p => (p.1.va, p.1.n)) = (oks, none))
    (f : Flt) : engDrain e sync hint ps (some f) s = .trap f s := by
  simp only [engDrain, ho, Nat.zero_div, List.drop_zero, hplan]

end Drain

/-! #### The words -/

section Words

variable {pip : BitVec 4} {body : State → Eff} {oks : List (Loc × Nat × Nat)} {vs : List Nat}

theorem Core.finish_drained (c : Core) (p o : Word) (x : List TlbEntry) (g : Bool → Bool) (l : List Nat) :
    (({ { c.updEng .t fun y => { y with pts := p, offsetTs := o } with tlb := x } with tileClean := g c.tileClean } : Core).pushAll .t l).updEng .t
        Engine.finish =
      (({ c.updEng .t fun y => { y with pts := p } with tlb := x, tileClean := g c.tileClean } : Core).pushAll .t l).updEng .t Engine.finish :=
  Core.finish_offsetTs { c.updEng .t fun y => { y with pts := p } with tlb := x, tileClean := g c.tileClean } .t l o

/-- A word of T that has written its pieces, and may have set the tile-clean flag. -/
theorem drained_engWord (h : s.EngReady .t pip) (hs : s.Accessed t) (hc : (popPips .t (popsOf .t pip) s).cur.Worked .t t.cur)
    (hd : t.Draining .t oks vs u) (g : Bool → Bool) {v : State} (hv : u.OnlyCore v) (hcur : v.cur = { u.cur with tileClean := g u.cur.tileClean })
    (hb : body (popPips .t (popsOf .t pip) s) = .done v false) :
    s.Drained pip oks vs (fun c => { c with tileClean := g c.tileClean }) (engWord .t pip body s) := by
  have hw := hc.trans hd.cur
  obtain ⟨hpips, htrap, -⟩ := hw.spec
  obtain ⟨honly, hfin⟩ := engWord_done h hb (by rw [hcur]; exact hpips) (by rw [hcur]; exact htrap.trans (engTrap_popPips h))
  obtain ⟨p, o, x, hx⟩ := hw
  have hpre := hv.trans honly
  have hbytes : ∀ l, ¬ s.InRecords l → (engWord .t pip body s).byteAt l = (s.withPieces oks vs).byteAt l := fun l hl => by
    rw [hpre.2.2 l, hd.bytes l fun hr => hl (hs.records l hr)]
    exact byteAt_withPieces_congr (hs.bytes l hl) _ _
  refine ⟨fun n hn => ?_, hbytes, fun l hl hk => (hbytes l hl).trans (byteAt_withPieces_of_key_ne hk s vs), p, x, ?_⟩
  · have hnt : n ≠ t.agent := hs.agent.symm ▸ hn
    rw [hpre.2.1 n ((State.agent_congr hd.turn).symm ▸ hnt), hd.cores n hnt, hs.cores n hn]
  · have hclean : u.cur.tileClean = (popPips .t (popsOf .t pip) s).cur.tileClean := by rw [hx]; rfl
    rw [hfin, hcur, hclean, hx, Core.finish_drained, cur_popPips]
    rfl

variable {a b d : BitVec 4} {hint : BitVec 3} {l : BitVec 7} {g : BitVec 1} {ps : List Piece} {sync : Bool}

theorem map_lsValues (s : State) (ps : List Piece) : ((lsValues s ps).map fun p => (p.1.va, p.1.n)) = ps.map fun p => (p.va, p.n) := by
  simp only [lsValues, List.map_map]
  rfl

theorem values_lsValues (s : State) (ps : List Piece) : ((lsValues s ps).map fun p => p.2) = ps.map fun p => s.cur.lsNat p.ls p.n := by
  simp only [lsValues, List.map_map]
  rfl

theorem lsNat_congr {c c' : Core} (h : c'.ls = c.ls) (a n : Nat) : c'.lsNat a n = c.lsNat a n := by
  induction n generalizing a with
  | zero => rfl
  | succ n ih => rw [Core.lsNat, Core.lsNat, Core.lsRead, Core.lsRead, h, ih]

/-- A word of T whose transfer begins in a state in which only its record has been read. -/
theorem drains (h : s.EngReady .t pip) (hs : s.cur.surrogate = false) (hr : s.cur.raceMode = 0) (ho : s.cur.t.offset = 0)
    (hl : ∀ o ∈ oks, o.1.isSystem = false) (hw : (popPips .t (popsOf .t pip) s).Working .t t)
    (hb : body (popPips .t (popsOf .t pip) s) = engDrain .t sync hint (lsValues t ps) none t)
    (hplan : t.plan (t.whoE .t sync) .write (ps.map fun p => (p.va, p.n)) = (oks, none)) :
    s.Drained pip oks (ps.map fun p => s.cur.lsNat p.ls p.n) id (engWord .t pip body s) := by
  obtain ⟨hs0, hr0, hls0, -, -, ho0, -⟩ := popPips_spec .t (popsOf .t pip) s
  obtain ⟨-, -, hs1, hr1, hls1, -, -, ho1, -⟩ := hw.cur.spec
  obtain ⟨u, hu, hd⟩ := engDrain_done (e := .t) (hint := hint) (sync := sync) (ps := lsValues t ps) (hs1.trans (hs0.trans hs)) (hr1.trans (hr0.trans hr))
    (ho1.trans (ho0.trans ho)) hl (by rw [map_lsValues]; exact hplan)
  have hvs : (lsValues t ps).map (fun p => p.2) = ps.map fun p => s.cur.lsNat p.ls p.n := by
    rw [values_lsValues]
    exact List.map_congr_left fun p _ => lsNat_congr (hls1.trans hls0) _ _
  rw [hvs] at hd
  exact drained_engWord h ((accessed_popPips .t (popsOf .t pip) s).trans hw.toAccessed) hw.cur hd id (onlyCore_refl u) rfl (hb.trans hu)

/-- With G set and the tile-clean flag 0 nothing is written (R109). -/
theorem gated_skips (h : s.EngReady .t pip) (hg : g = 1) (hc : s.cur.tileClean = false) (body : State → Eff) :
    s.EngineDone .t pip id (engWord .t pip (gated g body) s) := by
  have hclean := (popPips_spec .t (popsOf .t pip) s).2.2.2.2.1.trans hc
  refine engineDone_engWord h (t := popPips .t (popsOf .t pip) s) ?_ (onlyCore_refl _) (cur_popPips _ _ _) (by rw [cur_popPips]) (engTrap_popPips h)
  rw [gated, if_pos ⟨hg, by rw [hclean]; rfl⟩]

theorem gated_writes (h : g = 0 ∨ s.cur.tileClean = true) (body : State → Eff) : gated g body s = body s := by
  refine if_neg fun hn => ?_
  rcases h with h | h
  · exact absurd (h.symm.trans hn.1) (by decide)
  · simp [h] at hn

/-! #### The stores of flags (R110, R111) -/

/-- The 8 bytes of a flag, at an aligned address and with no earlier granule of T on its way. -/
theorem flagStore_drains {va v : Word} (hal : va.toNat % 8 = 0) (hpend : s.tPending = false) (hs : s.cur.surrogate = false) (hr : s.cur.raceMode = 0)
    (ho : s.cur.t.offset = 0) (hl : ∀ o ∈ oks, o.1.isSystem = false) (hplan : s.plan (s.whoE .t true) .write [(va.toNat, 8)] = (oks, none)) :
    ∃ u, flagStore va v s = .done u false ∧ s.Draining .t oks [v.toNat] u := by
  obtain ⟨u, hu, hd⟩ := engDrain_done (e := .t) (hint := 0) (sync := true) (ps := [(⟨va.toNat, 8, 0⟩, v.toNat)]) hs hr ho hl hplan
  have hal' : ¬ va.toNat % 8 ≠ 0 := fun h => h hal
  exact ⟨u, by rw [flagStore, if_neg hal', if_neg (by simp [hpend]), hu], hd⟩

theorem tPending_popPips (e : Eng) (l : List Nat) (s : State) : (popPips e l s).tPending = s.tPending := by
  rw [(onlyCore_popPips e l s).1]
  rfl

end Words

/-- Settles O30: a store of T writes its pieces in turn (`engDrain_done`, `drains`), those of a flag as one piece (`flagStore_drains`);
what a gated, a waiting or a failing one does is that of its effect. -/
theorem engineStores : Obligations.EngineStores := by
  rintro s s0 a b d h l g pip oks hready rfl hs hr ho hall
  have hl : ∀ o ∈ oks, o.1.isSystem = false := fun o hmem => by simpa using List.all_eq_true.mp hall o hmem
  obtain ⟨hs0, hr0, hls0, hvec0, hclean0, ho0, hA⟩ := popPips_spec .t (popsOf .t pip) s
  have hA : ∀ r, (popPips .t (popsOf .t pip) s).cur.t.getA r = s.cur.t.getA r := hA
  refine ⟨fun hg => ?_, fun hg hclean i hi => ?_, ?_, fun hal hpend => ⟨?_, ?_⟩, fun hmis => ⟨?_, ?_⟩, fun hal hpend hplan => ⟨?_, ?_⟩⟩
  · have hopen := gated_writes (s := popPips .t (popsOf .t pip) s) (g := g) (hg.imp_right hclean0.trans)
    refine ⟨fun ps hps hplan => ?_, fun ps hps hplan => ⟨fun htail => ?_, fun f htail => ?_⟩, fun s1 y ps htile hps hplan => ?_⟩
    · exact ⟨_, rfl, drains (hint := h) hready hs hr ho hl (.refl _ _) (by rw [hopen]; simp only [hA, ← hps]) hplan⟩
    · exact ⟨_, rfl, drains (hint := h) hready hs hr ho hl (.refl _ _) (by rw [hopen]; simp only [hA, ← hps, htail]) hplan⟩
    · refine ⟨_, rfl, engWord_trap hready hs ?_⟩
      rw [hopen]
      simp only [hA, ← hps, htail]
      exact engDrain_tail (ho0.trans ho) (by rw [map_lsValues]; exact hplan) f
    · exact ⟨_, rfl, drains (hint := h) hready hs hr ho hl (engTile_working (hr0.trans hr) htile) (by rw [hopen]; simp only [htile, hA, ← hps]) hplan⟩
  · simp only [List.mem_cons, List.not_mem_nil, or_false] at hi
    obtain rfl | rfl | rfl := hi
    · exact ⟨_, rfl, gated_skips hready hg hclean _⟩
    · exact ⟨_, rfl, gated_skips hready hg hclean _⟩
    · exact ⟨_, rfl, gated_skips hready hg hclean _⟩
  · refine ⟨_, rfl, engineDone_engWord hready rfl (onlyCore_onCore _ _) ?_ ?_ ?_⟩
    · rw [State.cur_onCore, cur_popPips]
    · rw [State.cur_onCore, cur_popPips]
    · rw [State.cur_onCore]
      exact engTrap_popPips hready
  · refine ⟨_, rfl, engWord_wait hready ?_⟩
    rw [hA, flagStore, if_neg fun h => h hal, if_pos ((tPending_popPips _ _ _).trans hpend)]
  · refine ⟨_, rfl, engWord_wait hready ?_⟩
    rw [hA, flagStore, if_neg fun h => h hal, if_pos ((tPending_popPips _ _ _).trans hpend)]
  · refine ⟨_, rfl, engWord_trap hready hs ?_⟩
    rw [hA, flagStore, if_pos hmis]
  · refine ⟨_, rfl, engWord_trap hready hs ?_⟩
    rw [hA, flagStore, if_pos hmis]
  · obtain ⟨u, hu, hd⟩ := flagStore_drains (v := s.cur.t.getA a) hal ((tPending_popPips _ _ _).trans hpend) (hs0.trans hs) (hr0.trans hr) (ho0.trans ho) hl
      hplan
    exact ⟨_, rfl, drained_engWord hready (accessed_popPips _ _ _) (.refl _ _) hd id (onlyCore_refl u) rfl (by rw [hA, hA]; exact hu)⟩
  · obtain ⟨u, hu, hd⟩ := flagStore_drains (v := ofBool s.cur.tileClean) hal ((tPending_popPips _ _ _).trans hpend) (hs0.trans hs) (hr0.trans hr)
      (ho0.trans ho) hl hplan
    have hv : (ofBool s.cur.tileClean).toNat = if s.cur.tileClean then 1 else 0 := by cases s.cur.tileClean <;> rfl
    rw [hv] at hd
    refine ⟨_, rfl, drained_engWord hready (accessed_popPips _ _ _) (.refl _ _) hd (fun _ => true) (onlyCore_onCore u fun c => { c with tileClean := true })
      (State.cur_onCore u _) ?_⟩
    rw [hA, hclean0, hu]

end Sys2Proof.Machine
end

section
/-! ### Words of C that change its vector state (R13, R123, R124) -/

namespace Sys2Proof.Machine

variable {s t : State} {e : Eng} {pip : BitVec 4}

/-! #### The effect of a word that performs at once -/

/-- Two effects that agree after the pops are one. -/
theorem State.EngineDone.congr {f g : Core → Core} (h : s.EngineDone e pip f t)
    (hfg : f (s.cur.popAll e (popsOf e pip)) = g (s.cur.popAll e (popsOf e pip))) : s.EngineDone e pip g t := by
  obtain ⟨ho, hc⟩ := h
  exact ⟨ho, by rw [hc, Core.after, hfg]; rfl⟩

theorem ls_pushAll_finish (c : Core) (e : Eng) (l : List Nat) : ((c.pushAll e l).updEng e Engine.finish).ls = c.ls := by
  obtain ⟨p, h⟩ := c.pushAll_eq e l
  rw [h]
  cases e <;> rfl

/-- The vector state and LS after a word are those of its effect. -/
theorem State.EngineDone.vec_ls {f : Core → Core} (h : s.EngineDone e pip f t) :
    t.cur.vec = (f (s.cur.popAll e (popsOf e pip))).vec ∧ t.cur.ls = (f (s.cur.popAll e (popsOf e pip))).ls := by
  rw [h.2, Core.after]
  exact ⟨vec_pushAll_finish _ _ _, ls_pushAll_finish _ _ _⟩

@[simp] theorem Core.vec_popAll (c : Core) (e : Eng) (l : List Nat) : (c.popAll e l).vec = c.vec := by
  obtain ⟨p, v, h⟩ := c.popAll_eq e l
  rw [h]
  cases e <;> rfl

@[simp] theorem Core.ls_popAll (c : Core) (e : Eng) (l : List Nat) : (c.popAll e l).ls = c.ls := by
  obtain ⟨p, v, h⟩ := c.popAll_eq e l
  rw [h]
  cases e <;> rfl

@[simp] theorem Core.getA_popAll (c : Core) (l : List Nat) (r : BitVec 4) : (c.popAll .c l).c.getA r = c.c.getA r := by
  obtain ⟨p, v, h⟩ := c.popAll_eq .c l
  rw [h]
  rfl

/-- A word of a ready C whose effect on the core leaves the pips and the traps. -/
theorem engineDone_onCore (h : s.EngReady e pip) {body : State → Eff} {f : Core → Core}
    (hb : body (popPips e (popsOf e pip) s) = .done ((popPips e (popsOf e pip) s).onCore f) false)
    (hf : (f (s.cur.popAll e (popsOf e pip))).pips = (s.cur.popAll e (popsOf e pip)).pips ∧
      (f (s.cur.popAll e (popsOf e pip))).engTrap = (s.cur.popAll e (popsOf e pip)).engTrap) :
    s.EngineDone e pip f (engWord e pip body s) := by
  obtain ⟨hp, ht⟩ := hf
  have hcur : ((popPips e (popsOf e pip) s).onCore f).cur = f (s.cur.popAll e (popsOf e pip)) := by rw [State.cur_onCore, cur_popPips]
  refine engineDone_engWord h hb (onlyCore_onCore _ f) hcur (by rw [hcur, hp]) ?_
  rw [hcur, ht, Core.engTrap_popAll]
  exact h.2.2.2.1

/-- A word that changes the vector state by `f`. -/
theorem engineDone_onVec (h : s.EngReady .c pip) {body : State → Eff} {f : Vec → Vec}
    (hb : body (popPips .c (popsOf .c pip) s) = .done ((popPips .c (popsOf .c pip) s).onVec f) false) :
    s.EngineDone .c pip (fun c => { c with vec := f s.cur.vec }) (engWord .c pip body s) :=
  (engineDone_onCore h hb ⟨rfl, rfl⟩).congr (by rw [Core.vec_popAll])

theorem engineDone_vecWord (h : s.EngReady .c pip) (f : Vec → Vec) :
    s.EngineDone .c pip (fun c => { c with vec := f s.cur.vec }) (vecWord pip f s) :=
  engineDone_onVec h rfl

/-! #### One destination -/

theorem Vec.lane_putLanes (x : Vec) (d r : BitVec 4) (act : BitVec 64) (f : Nat → Lane) {i : Nat} (h : i < 64) :
    (x.putLanes d act f).lane r i = if r = d ∧ act.getLsbD i = true then f i else x.lane r i := by
  rw [Vec.putLanes, Vec.lane_setLanes _ _ _ _ _ h]
  grind

theorem Vec.lane_putFirst (x : Vec) (d r : BitVec 4) (v : Lane) {i : Nat} (h : i < 64) :
    (x.putFirst d v).lane r i = if r = d ∧ (BitVec.allOnes 64).getLsbD i = true then (if i = 0 then v else 0) else x.lane r i := by
  have hi : (BitVec.allOnes 64).getLsbD i = true := by rw [BitVec.getLsbD_allOnes, decide_eq_true h]
  rw [Vec.putFirst, Vec.lane_setLanes _ _ _ _ _ h, hi]
  grind

/-- A word that has written lanes of `d` alone. -/
theorem State.EngineDone.laneResult {x : Cells Lane} {d : BitVec 4} {act : BitVec 64} {f : Nat → Lane}
    (h : s.EngineDone .c pip (fun c => { c with vec := { s.cur.vec with v := x } }) t)
    (hl : ∀ r i, i < 64 → ({ s.cur.vec with v := x } : Vec).lane r i = if r = d ∧ act.getLsbD i = true then f i else s.cur.vec.lane r i) :
    s.LaneResult pip d act f t := by
  have hv : t.cur.vec = { s.cur.vec with v := x } := h.vec_ls.1
  exact ⟨h.congr (by rw [hv, Core.vec_popAll]), fun r i hi => by rw [hv, hl r i hi]⟩

/-- The lanes of `d` that a function writes may be given by any other that agrees on them. -/
theorem State.LaneResult.congr {d : BitVec 4} {act : BitVec 64} {f g : Nat → Lane} (h : s.LaneResult pip d act f t)
    (hfg : ∀ i, i < 64 → f i = g i) : s.LaneResult pip d act g t :=
  ⟨h.1, fun r i hi => by rw [h.2 r i hi, hfg i hi]⟩

/-- A word that sets the active lanes of `d` from the vector state before it (R123, R124). -/
theorem laneResult_putLanes (h : s.EngReady .c pip) {body : State → Eff} {d : BitVec 4} {m : BitVec 1} {f : Vec → Nat → Lane}
    (hb : body (popPips .c (popsOf .c pip) s) =
      .done ((popPips .c (popsOf .c pip) s).onVec fun x => x.putLanes d (x.active m) (f x)) false) :
    s.LaneResult pip d (s.lanes m) (f s.cur.vec) (engWord .c pip body s) :=
  (engineDone_onVec h hb).laneResult fun r _ hi => s.cur.vec.lane_putLanes d r (s.cur.vec.active m) (f s.cur.vec) hi

theorem laneResult_laneWord (h : s.EngReady .c pip) (d : BitVec 4) (m : BitVec 1) (f : Vec → Nat → Lane) :
    s.LaneResult pip d (s.lanes m) (f s.cur.vec) (laneWord d m pip f s) :=
  laneResult_putLanes h rfl

/-- A word that sets lane 0 of `d`, and the others to 0. -/
theorem laneResult_putFirst_of (h : s.EngReady .c pip) {body : State → Eff} {d : BitVec 4} {f : Vec → Lane}
    (hb : body (popPips .c (popsOf .c pip) s) = .done ((popPips .c (popsOf .c pip) s).onVec fun x => x.putFirst d (f x)) false) :
    s.LaneResult pip d (BitVec.allOnes 64) (fun i => if i = 0 then f s.cur.vec else 0) (engWord .c pip body s) :=
  (engineDone_onVec h hb).laneResult fun r _ hi => s.cur.vec.lane_putFirst d r (f s.cur.vec) hi

theorem laneResult_putFirst (h : s.EngReady .c pip) (d : BitVec 4) (f : Vec → Lane) :
    s.LaneResult pip d (BitVec.allOnes 64) (fun i => if i = 0 then f s.cur.vec else 0) (vecWord pip (fun x => x.putFirst d (f x)) s) :=
  laneResult_putFirst_of h rfl

/-- A word that sets one mask register. -/
theorem maskResult_setMask (h : s.EngReady .c pip) (d : BitVec 3) (f : Vec → BitVec 64) :
    s.MaskResult pip d (fun i => (f s.cur.vec).getLsbD i) (vecWord pip (fun x => x.setMask d.toNat (f x)) s) := by
  have hd := engineDone_vecWord h fun x => x.setMask d.toNat (f x)
  have hv : (vecWord pip (fun x => x.setMask d.toNat (f x)) s).cur.vec = s.cur.vec.setMask d.toNat (f s.cur.vec) := hd.vec_ls.1
  refine ⟨hd.congr (by rw [hv, Core.vec_popAll]; rfl), fun r i _ _ => ?_⟩
  rw [hv, Vec.mask_setMask]
  grind

theorem State.MaskResult.congr {d : BitVec 3} {f g : Nat → Bool} (h : s.MaskResult pip d f t) (hfg : ∀ i, i < 64 → f i = g i) :
    s.MaskResult pip d g t :=
  ⟨h.1, fun r i hr hi => by rw [h.2 r i hr hi, hfg i hi]⟩

end Sys2Proof.Machine
end

section
/-! ### Integer and floating lane words (R126, R127) -/

namespace Sys2Proof.Machine

variable {s : State} {pip : BitVec 4}

/-- A word that maps lanes completes with the lanes that its function gives. -/
theorem completes_laneWord (h : s.EngReady .c pip) {i : Instr} {d : BitVec 4} {m : BitVec 1} (f : Vec → Nat → Lane) {g : Nat → Lane}
    (he : exec i s = .next (laneWord d m pip f s)) (hfg : ∀ j, f s.cur.vec j = g j) : Completes i s (s.LaneResult pip d (s.lanes m) g) :=
  ⟨_, he, (laneResult_laneWord h d m f).congr fun j _ => hfg j⟩

theorem vectorIntegerWordsHold : VectorIntegerWordsHold := by
  intro s d a b m pip h x hx
  simp only [integerWords, List.mem_cons, List.not_mem_nil, or_false] at hx
  obtain rfl | rfl | rfl | rfl | rfl | rfl | rfl | rfl | rfl | rfl | rfl | rfl | rfl | rfl := hx
  iterate 3 · exact completes_laneWord h _ rfl fun _ => rfl
  · exact completes_laneWord h _ rfl fun _ => minS_eq _ _
  · exact completes_laneWord h _ rfl fun _ => maxS_eq _ _
  iterate 6 · exact completes_laneWord h _ rfl fun _ => rfl
  · exact completes_laneWord h _ rfl fun _ => minU_eq _ _
  · exact completes_laneWord h _ rfl fun _ => maxU_eq _ _
  · exact completes_laneWord h _ rfl fun _ => rfl

theorem vectorFloatWordsHold : VectorFloatWordsHold := by
  intro s d a b t m pip h
  refine ⟨fun x hx => ?_, completes_laneWord h _ rfl fun _ => rfl⟩
  simp only [floatWords, List.mem_cons, List.not_mem_nil, or_false] at hx
  obtain rfl | rfl | rfl | rfl | rfl | rfl | rfl | rfl | rfl | rfl := hx
  all_goals exact completes_laneWord h _ rfl fun _ => rfl

/-- Settles O31: each word maps the lanes of its sources (`completes_laneWord`); the minima and maxima are those of Table 06.2 by
`minS_eq`, `maxS_eq`, `minU_eq` and `maxU_eq`. -/
theorem vectorArithmetic : Obligations.VectorArithmetic := ⟨vectorIntegerWordsHold, vectorFloatWordsHold⟩

end Sys2Proof.Machine
end

section
/-! ### Masks, reductions and the guard check (R53, R128, R133, R134, R150) -/

namespace Sys2Proof.Machine

variable {s : State} {pip : BitVec 4}

/-! #### Masks from their bits -/

/-- The number whose bits below `n` are those of `f`. -/
def bitsBelow (f : Nat → Bool) (n : Nat) : Nat := (List.range n).foldl (fun a i => a + if f i then 2 ^ i else 0) 0

theorem bitsBelow_succ (f : Nat → Bool) (n : Nat) : bitsBelow f (n + 1) = 2 ^ n * (f n).toNat + bitsBelow f n := by
  rw [bitsBelow, List.range_succ, List.foldl_append, List.foldl_cons, List.foldl_nil, Nat.add_comm, bitsBelow]
  cases f n <;> simp

theorem bitsBelow_lt (f : Nat → Bool) (n : Nat) : bitsBelow f n < 2 ^ n := by
  induction n with
  | zero => exact Nat.one_pos
  | succ n ih =>
    have hbit : 2 ^ n * (f n).toNat ≤ 2 ^ n := (Nat.mul_le_mul_left _ (Bool.toNat_le _)).trans_eq (Nat.mul_one _)
    rw [bitsBelow_succ, Nat.pow_succ]
    omega

theorem testBit_bitsBelow (f : Nat → Bool) {n i : Nat} (h : i < n) : (bitsBelow f n).testBit i = f i := by
  induction n with
  | zero => omega
  | succ n ih =>
    rw [bitsBelow_succ, Nat.testBit_two_pow_mul_add _ (bitsBelow_lt f n)]
    split
    · exact ih ‹_›
    · obtain rfl : i = n := by omega
      rw [Nat.sub_self]
      cases f i <;> rfl

theorem getLsbD_maskOf (f : Nat → Bool) {i : Nat} (h : i < 64) : (maskOf f).getLsbD i = f i := by
  rw [maskOf, BitVec.getLsbD_ofNat, decide_eq_true h, Bool.true_and]
  exact testBit_bitsBelow f h

/-! #### Comparisons and mask words (R128, R133) -/

/-- A comparison word that completes with the comparison of each active lane. -/
theorem completes_cmpWord (h : s.EngReady .c pip) {i : Instr} {d : BitVec 3} {a b : BitVec 4} {m : BitVec 1} {f g : Lane → Lane → Bool}
    (he : exec i s = .next (cmpWord d a b m pip f s)) (hfg : ∀ x y, f x y = g x y) :
    Completes i s (s.MaskResult pip d fun j => (s.lanes m).getLsbD j && g (s.cur.vec.lane a j) (s.cur.vec.lane b j)) :=
  ⟨_, he, (maskResult_setMask h d _).congr fun j hj => by rw [getLsbD_maskOf _ hj, hfg]; rfl⟩

/-- The domains of a comparison: integers, or the format before the field (R128). -/
theorem compare_eq {fi gi : Int → Int → Bool} (hi : ∀ x y, fi x y = gi x y) (ff : Num → Num → Bool) (t : BitVec 2) (x y : Lane) :
    compare fi ff t x y = if t = 0 then gi x.toInt y.toInt else ff (valueIn (formatOf (t - 1)) x) (valueIn (formatOf (t - 1)) y) := by
  have hf : t ≠ 0 → (if t = 1 then fp32 else if t = 2 then fp16 else bf16) = formatOf (t - 1) := by
    revert t
    decide
  unfold compare
  split
  · exact hi _ _
  · rw [← hf ‹_›]
    rfl

theorem compareWords_complete (h : s.EngReady .c pip) (d : BitVec 3) (a b : BitVec 4) (t : BitVec 2) (m : BitVec 1) :
    ∀ w ∈ compareWords d a b t m pip, Completes w.1 s (s.MaskResult pip d fun i => (s.lanes m).getLsbD i &&
      (if t = 0 then w.2.1 (s.cur.vec.lane a i).toInt (s.cur.vec.lane b i).toInt
       else w.2.2 (valueIn (formatOf (t - 1)) (s.cur.vec.lane a i)) (valueIn (formatOf (t - 1)) (s.cur.vec.lane b i)))) := by
  intro w hw
  simp only [compareWords, List.mem_cons, List.not_mem_nil, or_false] at hw
  obtain rfl | rfl | rfl | rfl | rfl := hw
  · exact completes_cmpWord h rfl (compare_eq beq_eq_decide _ t)
  · exact completes_cmpWord h rfl (compare_eq (fun _ _ => by rw [bne, beq_eq_decide]; exact decide_not.symm) _ t)
  all_goals exact completes_cmpWord h rfl (compare_eq (fun _ _ => rfl) _ t)

/-- The first one of a mask, or 64. -/
theorem find?_first {x : BitVec 64} {n : Nat} (hlow : ∀ j, j < n → x.getLsbD j = false) (hn : (n < 64 ∧ x.getLsbD n = true) ∨ n = 64) :
    ((List.range 64).find? fun i => x.getLsbD i).getD 64 = n := by
  obtain ⟨hlt, hbit⟩ | rfl := hn
  · rw [List.find?_range_eq_some.mpr ⟨hbit, List.mem_range.mpr hlt, fun j hj => by rw [hlow j hj]; rfl⟩]
    rfl
  · rw [List.find?_eq_none.mpr fun i hi => by rw [hlow i (List.mem_range.mp hi)]; exact Bool.false_ne_true]
    rfl

theorem maskWordsHold : MaskWordsHold := by
  intro s d x y v a b t m pip n h
  refine ⟨compareWords_complete h d a b t m, ⟨_, rfl, (maskResult_setMask h d _).congr fun i _ => BitVec.getLsbD_and⟩,
    ⟨_, rfl, (maskResult_setMask h d _).congr fun i _ => BitVec.getLsbD_or⟩,
    ⟨_, rfl, (maskResult_setMask h d _).congr fun i _ => BitVec.getLsbD_xor⟩,
    ⟨_, rfl, (maskResult_setMask h d _).congr fun i hi => ?_⟩, ⟨_, rfl, (laneResult_putFirst h v _).congr fun i _ => ?_⟩,
    fun hlow hn => ⟨_, rfl, (laneResult_putFirst h v _).congr fun i _ => ?_⟩⟩
  · rw [BitVec.getLsbD_not, decide_eq_true hi, Bool.true_and]
  · rw [oneBits_eq]
    rfl
  · rw [find?_first hlow hn]

/-! #### Reductions (R53, R134) -/

/-- The sum of the active lanes modulo 2^32. -/
theorem foldl_addLanes (act : Nat → Bool) (f : Nat → Lane) (l : List Nat) (n : Nat) :
    l.foldl (fun n i => if act i then n + f i else n) (BitVec.ofNat 32 n) =
      BitVec.ofNat 32 (n + (l.map fun i => if act i then (f i).toNat else 0).sum) := by
  induction l generalizing n with
  | nil => rfl
  | cons i l ih =>
    have hi : (if act i then BitVec.ofNat 32 n + f i else BitVec.ofNat 32 n) = BitVec.ofNat 32 (n + if act i then (f i).toNat else 0) := by
      cases act i
      · rfl
      · rw [if_pos rfl, if_pos rfl, BitVec.ofNat_add, BitVec.ofNat_toNat, BitVec.setWidth_eq]
    rw [List.foldl_cons, hi, ih, List.map_cons, List.sum_cons, Nat.add_assoc]

/-- A reduction of the values of the active lanes, with a constant for the others. -/
theorem completes_reduceWord (h : s.EngReady .c pip) {i : Instr} {d a : BitVec 4} {t : BitVec 2} {m : BitVec 1} {off : Num}
    {f : FFmt → List Num → Num} (he : exec i s = .next (reduceWord d a t m pip off f s)) :
    Completes i s (s.LaneResult pip d (BitVec.allOnes 64) fun j =>
      if j = 0 then BitVec.ofNat 32 ((formatOf t).round false (f (formatOf t) (s.reduced a m (formatOf t) off))) else 0) :=
  ⟨_, he, laneResult_putFirst h d fun x => roundLane (fmtOf t) (f (fmtOf t) (reduceLanes x a m (fmtOf t) off))⟩

theorem reductionsHold : ReductionsHold := by
  intro s d a t m pip h
  refine ⟨⟨_, rfl, (laneResult_putFirst h d _).congr fun i _ => ?_⟩, completes_reduceWord h (f := fun f l => treeSum f 6 l) rfl,
    completes_reduceWord h (f := fun _ l => l.foldl Num.maximum (.inf true)) rfl,
    completes_reduceWord h (f := fun _ l => l.foldl Num.minimum (.inf false)) rfl, ⟨_, rfl, (engineDone_vecWord h _).congr ?_⟩⟩
  · have hsum := foldl_addLanes (fun j => (s.lanes m).getLsbD j) (fun j => s.cur.vec.lane a j) (List.range 64) 0
    rw [Nat.zero_add] at hsum
    rw [← hsum]
    rfl
  · rw [Core.vec_popAll, List.foldl_filter]
    rfl

/-- Settles O32: a comparison and a mask word set one mask register (`maskResult_setMask`, `getLsbD_maskOf`), a reduction lane 0
(`laneResult_putFirst`), GCHK the residual alone. -/
theorem maskAndReductionWords : Obligations.MaskAndReductionWords := ⟨maskWordsHold, reductionsHold⟩

end Sys2Proof.Machine
end

section
/-! ### Moves, constants, conversions, LNS6 words and VRAND (R129 to R132, R149) -/

namespace Sys2Proof.Machine

variable {s : State} {pip : BitVec 4}

theorem lnsWords_complete (h : s.EngReady .c pip) (d a b : BitVec 4) (m : BitVec 1) :
    ∀ z ∈ lnsWords d a b m pip, Completes z.1 s (s.LaneResult pip d (s.lanes m) fun i =>
      BitVec.ofNat 32 (z.2 (Lns.ofCode ((s.cur.vec.lane a i).toNat % 64)) (Lns.ofCode ((s.cur.vec.lane b i).toNat % 64))).code) := by
  intro z hz
  simp only [lnsWords, List.mem_cons, List.not_mem_nil, or_false] at hz
  obtain rfl | rfl | rfl | rfl | rfl := hz
  all_goals exact completes_laneWord h _ rfl fun _ => rfl

/-- Settles O33: each word maps lanes (`completes_laneWord`), VSEL all of them; VSPLAT takes its immediate as `Engine.imm_eq` says. -/
theorem movesAndConversions : Obligations.MovesAndConversions := by
  intro s d a b x y w i10 v m pip h
  refine ⟨completes_laneWord h _ rfl fun _ => rfl, ⟨_, rfl, laneResult_laneWord h d 0 _⟩, completes_laneWord h _ rfl fun _ => rfl,
    completes_laneWord h _ rfl fun _ => rfl, completes_laneWord h _ rfl fun _ => rfl,
    fun hv => completes_laneWord h _ rfl fun _ => by rw [Engine.imm_eq hv], completes_laneWord h _ rfl fun _ => rfl,
    lnsWords_complete h d a b m, completes_laneWord h _ rfl fun _ => rfl⟩

end Sys2Proof.Machine
end

section
/-! ### Bytes of LS under the stores of C (R104, R135) -/

namespace Sys2Proof.Machine

/-- No byte of the `n` from `a` on is one of the `n` from `b` on; addresses wrap at 1 MiB. -/
def LsApart (n a b : Nat) : Prop := ∀ i j, i < n → j < n → (a + i) % 1048576 ≠ (b + j) % 1048576

theorem Core.lsPut_succ (c : Core) (a n v : Nat) :
    c.lsPut a (n + 1) v = ({ c with ls := Memory.write c.ls (a % 1048576) (BitVec.ofNat 8 v) } : Core).lsPut (a + 1) n (v / 256) := rfl

theorem Core.lsNat_succ (c : Core) (a n : Nat) : c.lsNat a (n + 1) = (c.lsRead a).toNat + 256 * c.lsNat (a + 1) n := rfl

theorem Core.lsRead_write (c : Core) (a o : Nat) (v : Byte) :
    ({ c with ls := Memory.write c.ls (a % 1048576) v } : Core).lsRead o = if a % 1048576 = o % 1048576 then v else c.lsRead o :=
  Memory.read_write c.ls _ _ v

/-- A write of LS leaves every byte outside it. -/
theorem Core.lsRead_lsPut_out (c : Core) {a n o : Nat} (v : Nat) (h : ∀ j, j < n → (a + j) % 1048576 ≠ o % 1048576) :
    (c.lsPut a n v).lsRead o = c.lsRead o := by
  induction n generalizing c a v with
  | zero => rfl
  | succ n ih =>
    have h0 : a % 1048576 ≠ o % 1048576 := h 0 n.succ_pos
    have hs : ∀ j, j < n → (a + 1 + j) % 1048576 ≠ o % 1048576 := fun j hj => by
      rw [Nat.add_assoc, Nat.add_comm 1 j]
      exact h (j + 1) (Nat.succ_lt_succ hj)
    rw [Core.lsPut_succ, ih _ _ hs, Core.lsRead_write, if_neg h0]

/-- A read of what has just been written. -/
theorem Core.lsNat_lsPut (c : Core) (a v : Nat) {n : Nat} (hn : n ≤ 1048576) : (c.lsPut a n v).lsNat a n = v % 256 ^ n := by
  induction n generalizing c a v with
  | zero => rw [Nat.pow_zero, Nat.mod_one]; rfl
  | succ n ih =>
    have hout : ∀ j, j < n → (a + 1 + j) % 1048576 ≠ a % 1048576 := fun j hj => by omega
    have hmod : v % 256 ^ (n + 1) = v % 256 + 256 * (v / 256 % 256 ^ n) := by rw [Nat.pow_succ', Nat.mod_mul]
    rw [Core.lsNat_succ, Core.lsPut_succ, ih _ _ _ (by omega), Core.lsRead_lsPut_out _ _ hout, Core.lsRead_write, if_pos rfl,
      BitVec.toNat_ofNat, hmod]

/-- A write apart from what is read leaves it. -/
theorem Core.lsNat_lsPut_apart (c : Core) {n a b : Nat} (v k : Nat) (hk : k ≤ n) (h : LsApart n a b) : (c.lsPut a n v).lsNat b k = c.lsNat b k := by
  suffices ∀ i, i + k ≤ n → (c.lsPut a n v).lsNat (b + i) k = c.lsNat (b + i) k from this 0 (by omega)
  induction k with
  | zero => exact fun _ _ => rfl
  | succ k ih =>
    intro i hi
    rw [Core.lsNat_succ, Core.lsNat_succ, Core.lsRead_lsPut_out c v fun j hj => h j i hj (by omega)]
    rw [Nat.add_assoc, ih (by omega) (i + 1) (by omega)]

/-! #### Stores in turn -/

/-- LS with `n` bytes stored at `addr i` for each index below `k` that is selected, the highest last. -/
def Core.storeEach (c : Core) (n : Nat) (sel : Nat → Bool) (addr val : Nat → Nat) (k : Nat) : Core :=
  (List.range k).foldl (fun x i => if sel i then x.lsPut (addr i) n (val i) else x) c

section Each

variable (c : Core) {n : Nat} {sel : Nat → Bool} {addr : Nat → Nat} (val : Nat → Nat)

theorem Core.storeEach_succ (k : Nat) : c.storeEach n sel addr val (k + 1) =
    if sel k then (c.storeEach n sel addr val k).lsPut (addr k) n (val k) else c.storeEach n sel addr val k := by
  rw [Core.storeEach, List.range_succ, List.foldl_append]
  rfl

/-- Stores change LS alone. -/
theorem Core.storeEach_eq (k : Nat) : ∃ m, c.storeEach n sel addr val k = { c with ls := m } := by
  induction k with
  | zero => exact ⟨c.ls, rfl⟩
  | succ k ih =>
    obtain ⟨m, hm⟩ := ih
    rw [Core.storeEach_succ, hm]
    split <;> exact ⟨_, rfl⟩

theorem Core.lsRead_storeEach_out {k o : Nat} (h : ∀ i, i < k → sel i = true → ∀ j, j < n → (addr i + j) % 1048576 ≠ o % 1048576) :
    (c.storeEach n sel addr val k).lsRead o = c.lsRead o := by
  induction k with
  | zero => rfl
  | succ k ih =>
    have hk := ih fun i hi => h i (by omega)
    rw [Core.storeEach_succ]
    split
    · rw [Core.lsRead_lsPut_out _ _ (h k k.lt_succ_self ‹_›), hk]
    · exact hk

/-- What a selected index has stored stays if every later one stores apart from it. -/
theorem Core.lsNat_storeEach (hn : n ≤ 1048576) {k i : Nat} (hi : i < k) (hs : sel i = true)
    (h : ∀ j, i < j → j < k → sel j = true → LsApart n (addr j) (addr i)) :
    (c.storeEach n sel addr val k).lsNat (addr i) n = val i % 256 ^ n := by
  induction k with
  | zero => omega
  | succ k ih =>
    rw [Core.storeEach_succ]
    obtain rfl | hlt := Nat.eq_or_lt_of_le (Nat.le_of_lt_succ hi)
    · rw [if_pos hs, Core.lsNat_lsPut _ _ _ hn]
    · have hk := ih hlt fun j hj hjk => h j hj (by omega)
      split
      · rw [Core.lsNat_lsPut_apart _ _ _ le_rfl (h k hlt k.lt_succ_self ‹_›), hk]
      · exact hk

end Each

end Sys2Proof.Machine
end

section
/-! ### VLD, VLDX, VST and VSTX (R135, R136) -/

namespace Sys2Proof.Machine

variable {s t : State} {pip : BitVec 4}

theorem laneAddr_spec (v : Nat) : laneAddr v % 4 = 0 ∧ laneAddr v + 4 ≤ 1048576 := by
  unfold laneAddr
  omega

theorem lsWordAddr_eq (v : Nat) : lsWordAddr v = laneAddr v := rfl

/-- The bytes at two lane addresses that differ are apart. -/
theorem lsApart_laneAddr {v w : Nat} (h : laneAddr v ≠ laneAddr w) : LsApart 4 (laneAddr v) (laneAddr w) := by
  intro i j hi hj
  have hv := laneAddr_spec v
  have hw := laneAddr_spec w
  omega

/-- A word whose effect on the core is on LS alone. -/
theorem State.EngineDone.ls {f : Core → Core} (h : s.EngineDone .c pip f t)
    (hf : ∃ m, f (s.cur.popAll .c (popsOf .c pip)) = { s.cur.popAll .c (popsOf .c pip) with ls := m }) :
    s.EngineDone .c pip (fun c => { c with ls := t.cur.ls }) t := by
  obtain ⟨m, hm⟩ := hf
  exact h.congr (by rw [h.vec_ls.2, hm])

/-- A word of a ready C that stores in turn. -/
theorem engineDone_storeEach (h : s.EngReady .c pip) {body : State → Eff} {f : Core → Core} {n k : Nat} {sel : Nat → Bool}
    {addr val : Nat → Nat} (hb : body (popPips .c (popsOf .c pip) s) = .done ((popPips .c (popsOf .c pip) s).onCore f) false)
    (hf : f (s.cur.popAll .c (popsOf .c pip)) = (s.cur.popAll .c (popsOf .c pip)).storeEach n sel addr val k) :
    s.EngineDone .c pip (fun c => { c with ls := (engWord .c pip body s).cur.ls }) (engWord .c pip body s) ∧
      (engWord .c pip body s).cur.ls = ((s.cur.popAll .c (popsOf .c pip)).storeEach n sel addr val k).ls := by
  obtain ⟨m, hm⟩ := (s.cur.popAll .c (popsOf .c pip)).storeEach_eq (n := n) (sel := sel) (addr := addr) val k
  have hd := engineDone_onCore h hb (by rw [hf, hm]; exact ⟨rfl, rfl⟩)
  exact ⟨hd.ls ⟨m, hf.trans hm⟩, hf ▸ hd.vec_ls.2⟩

theorem lsRead_congr {c c' : Core} (h : c'.ls = c.ls) (a : Nat) : c'.lsRead a = c.lsRead a := by rw [Core.lsRead, Core.lsRead, h]

theorem Core.storeLanes_eq (c : Core) (d : BitVec 4) (m : BitVec 1) (addr : Nat → Nat) : c.storeLanes d m addr =
    c.storeEach 4 (fun i => (c.vec.active m).getLsbD i) (fun i => laneAddr (addr i)) (fun i => (c.vec.lane d i).toNat) 64 := rfl

/-- A word that stores the active lanes of `d` at lane addresses (R124, R135). -/
theorem lanesStored (h : s.EngReady .c pip) {body : State → Eff} {d : BitVec 4} {m : BitVec 1} {addr : Core → Nat → Nat}
    (hb : body (popPips .c (popsOf .c pip) s) = .done ((popPips .c (popsOf .c pip) s).onCore fun c => c.storeLanes d m (addr c)) false)
    {f : Nat → Nat} (hf : ∀ i, addr (s.cur.popAll .c (popsOf .c pip)) i = f i) :
    s.LanesStored pip d m (fun i => laneAddr (f i)) (engWord .c pip body s) := by
  obtain ⟨hd, hls⟩ := engineDone_storeEach h hb (Core.storeLanes_eq _ d m _)
  simp only [hf, Core.vec_popAll] at hls
  refine ⟨hd, fun i hi hs hlast => ?_, fun o ho hout => ?_⟩
  · have hlt : (s.cur.vec.lane d i).toNat < 256 ^ 4 := (s.cur.vec.lane d i).isLt
    have hval := (s.cur.popAll .c (popsOf .c pip)).lsNat_storeEach (addr := fun i => laneAddr (f i)) (fun i => (s.cur.vec.lane d i).toNat)
      (Nat.le_of_ble_eq_true rfl) hi hs fun j hij hj hsj => lsApart_laneAddr (hlast j hij hj hsj)
    exact (lsNat_congr hls _ _).trans (hval.trans (Nat.mod_eq_of_lt hlt))
  · rw [lsRead_congr hls, Core.lsRead_storeEach_out _ _ fun i hi hs j hj => ?_, lsRead_congr (Core.ls_popAll _ _ _)]
    have hin : ¬ (laneAddr (f i) ≤ o ∧ o < laneAddr (f i) + 4) := hout i hi hs
    have ha := laneAddr_spec (f i)
    omega

/-- The vector state after VLD of the decoder FIFO: its next 128 bytes are in the active lanes of `d` (R136). -/
def Vec.takeFifo (x : Vec) (d : BitVec 4) (m : BitVec 1) : Vec :=
  ({ x with fifo := x.fifo.drop 128, slots := x.slots.drop 1 } : Vec).putLanes d (x.active m) fun i =>
    BitVec.ofNat 32 (natOf [x.fifo.getD (2 * i) 0, x.fifo.getD (2 * i + 1) 0])

theorem fifoTaken (h : s.EngReady .c pip) {body : State → Eff} {d : BitVec 4} {m : BitVec 1}
    (hb : body (popPips .c (popsOf .c pip) s) = .done ((popPips .c (popsOf .c pip) s).onVec fun x => x.takeFifo d m) false) :
    s.EngineDone .c pip (fun c => { c with vec := { c.vec with
      v := (engWord .c pip body s).cur.vec.v, fifo := c.vec.fifo.drop 128, slots := c.vec.slots.drop 1 } }) (engWord .c pip body s) ∧
      ∀ r i, i < 64 → (engWord .c pip body s).cur.vec.lane r i = if r = d ∧ (s.lanes m).getLsbD i = true then
        BitVec.ofNat 32 ((s.cur.vec.fifo.getD (2 * i) 0).toNat + 256 * (s.cur.vec.fifo.getD (2 * i + 1) 0).toNat)
        else s.cur.vec.lane r i := by
  have hd := engineDone_onVec h hb
  have hv : (engWord .c pip body s).cur.vec = s.cur.vec.takeFifo d m := hd.vec_ls.1
  refine ⟨hd.congr (by rw [hv, Core.vec_popAll]; rfl), fun r i hi => ?_⟩
  rw [hv]
  exact Vec.lane_putLanes _ _ _ _ _ hi

/-- Settles O34: VLD and VLDX set lanes (`laneResult_putLanes`), VLD of the FIFO takes from it or waits, VST and VSTX store in turn
(`lanesStored`). -/
theorem localStoreWords : Obligations.LocalStoreWords := by
  intro s d a b m pip h
  have hA : ∀ r, (popPips .c (popsOf .c pip) s).cur.c.getA r = s.cur.c.getA r := fun r => by rw [cur_popPips, Core.getA_popAll]
  have hV : (popPips .c (popsOf .c pip) s).cur.vec = s.cur.vec := by rw [cur_popPips, Core.vec_popAll]
  have hL : ∀ x n, (popPips .c (popsOf .c pip) s).cur.lsNat x n = s.cur.lsNat x n :=
    fun x n => lsNat_congr (by rw [cur_popPips, Core.ls_popAll]) x n
  refine ⟨fun h63 => ⟨_, rfl, ?_⟩, fun h63 hlen => ⟨_, rfl, fifoTaken h ?_⟩, fun h63 hlen => ⟨_, rfl, ?_⟩, ⟨_, rfl, ?_⟩, ⟨_, rfl, ?_⟩, ⟨_, rfl, ?_⟩⟩
  · refine laneResult_putLanes h (f := fun _ i => BitVec.ofNat 32 (s.cur.lsNat (laneAddr ((s.cur.c.getA a).toNat + 4 * i)) 4)) ?_
    simp only [hA, hL, h63, lsWordAddr_eq, Bool.false_eq_true, if_false]
  · simp only [hA, hV, h63, if_true, if_neg (Nat.not_lt.mpr hlen)]
    rfl
  · refine engWord_wait h ?_
    simp only [hA, hV, h63, if_true, if_pos hlen]
  · refine laneResult_putLanes h (f := fun y i => BitVec.ofNat 32 (s.cur.lsNat (laneAddr ((s.cur.c.getA a).toNat + (y.lane b i).toNat)) 4)) ?_
    simp only [hA, hL, lsWordAddr_eq]
  · exact lanesStored h rfl fun i => by rw [Core.getA_popAll]
  · exact lanesStored h rfl fun i => by rw [Core.getA_popAll, Core.vec_popAll]

end Sys2Proof.Machine
end

section
/-! ### Tile words (R137 to R140) -/

namespace Sys2Proof.Machine

variable {s t : State} {pip : BitVec 4}

/-! #### Elements of tile registers -/

/-- A word that has written tile register `n` alone. -/
theorem State.EngineDone.tileResult {x : Cells (BitVec 16)} {n : BitVec 2} {f : Nat → Nat → BitVec 16}
    (h : s.EngineDone .c pip (fun c => { c with vec := { s.cur.vec with t := x } }) t)
    (hx : ∀ (k : BitVec 2) r c, r < 64 → c < 64 →
      Cells.get 0 x (4096 * k.toNat + 64 * r + c) = if k = n then f r c else s.cur.vec.tile k.toNat r c) :
    s.TileResult pip n f t := by
  have hv : t.cur.vec = { s.cur.vec with t := x } := h.vec_ls.1
  exact ⟨h.congr (by rw [hv, Core.vec_popAll]), fun k r c hr hc => by rw [hv]; exact hx k r c hr hc⟩

theorem get_setRow (x : Vec) (n k : BitVec 2) (i : BitVec 6) (f : Nat → BitVec 16) {r c : Nat} (hr : r < 64) (hc : c < 64) :
    Cells.get 0 (Cells.setRange 0 x.t (4096 * n.toNat + 64 * i.toNat) f 64) (4096 * k.toNat + 64 * r + c) =
      if k = n ∧ r = i.toNat then f c else x.tile k.toNat r c := by
  have hi : i.toNat < 64 := i.isLt
  rw [Cells.get_setRange]
  by_cases hkr : k = n ∧ r = i.toNat
  · obtain ⟨rfl, rfl⟩ := hkr
    rw [if_pos (by omega), if_pos ⟨rfl, rfl⟩]
    congr 1
    omega
  · have hne : ¬ (k.toNat = n.toNat ∧ r = i.toNat) := fun ⟨h1, h2⟩ => hkr ⟨BitVec.eq_of_toNat_eq h1, h2⟩
    rw [if_neg (by omega), if_neg hkr]
    rfl

theorem get_setTile (x : Vec) (n k : BitVec 2) (f : Nat → BitVec 16) {r c : Nat} (hr : r < 64) (hc : c < 64) :
    Cells.get 0 (Cells.setRange 0 x.t (4096 * n.toNat) f 4096) (4096 * k.toNat + 64 * r + c) =
      if k = n then f (64 * r + c) else x.tile k.toNat r c := by
  rw [Cells.get_setRange]
  by_cases hk : k = n
  · subst hk
    rw [if_pos (by omega), if_pos rfl]
    congr 1
    omega
  · have hne : k.toNat ≠ n.toNat := fun h => hk (BitVec.eq_of_toNat_eq h)
    rw [if_neg (by omega), if_neg hk]
    rfl

/-- Of the keys that a filter keeps the values stay; the others read the default. -/
theorem Cells.get_filter_key {α : Type} (d : α) (l : Cells α) (q : Nat → Bool) (k : Nat) :
    Cells.get d (l.filter fun y => q y.1) k = if q k = true then Cells.get d l k else d := by
  induction l with
  | nil => simp
  | cons y r ih =>
    obtain ⟨j, v⟩ := y
    by_cases hq : q j = true
    · rw [List.filter_cons, if_pos hq, Cells.get, Cells.get, ih]
      by_cases hj : j = k
      · rw [if_pos hj, if_pos hj, if_pos (hj ▸ hq)]
      · rw [if_neg hj, if_neg hj]
    · rw [List.filter_cons, if_neg hq, ih, Cells.get]
      by_cases hj : j = k
      · rw [if_neg (hj ▸ hq), if_neg (hj ▸ hq)]
      · rw [if_neg hj]

theorem get_clearTile (x : Vec) (n k : BitVec 2) {r c : Nat} (hr : r < 64) (hc : c < 64) :
    Cells.get 0 (x.t.filter fun y => y.1 / 4096 != n.toNat) (4096 * k.toNat + 64 * r + c) =
      if k = n then 0 else x.tile k.toNat r c := by
  have hdiv : (4096 * k.toNat + 64 * r + c) / 4096 = k.toNat := by omega
  rw [Cells.get_filter_key 0 x.t (fun j => j / 4096 != n.toNat), hdiv]
  by_cases hk : k = n
  · rw [if_pos hk, if_neg (by rw [hk, bne_self_eq_false]; exact Bool.false_ne_true)]
  · rw [if_neg hk, if_pos (bne_iff_ne.mpr fun h => hk (BitVec.eq_of_toNat_eq h))]
    rfl

/-! #### The words -/

theorem twrow_completes (h : s.EngReady .c pip) (n : BitVec 2) (i : BitVec 6) (v : BitVec 4) (f : BitVec 3) (m : BitVec 1) :
    Completes (.twrow n i v f m pip) s (s.TileResult pip n fun r c =>
      if r = i.toNat ∧ (s.lanes m).getLsbD c = true then toTile f.toNat (s.cur.vec.lane v c) else s.cur.vec.tile n.toNat r c) := by
  refine ⟨_, rfl, (engineDone_vecWord h _).tileResult fun k r c hr hc => ?_⟩
  rw [get_setRow _ _ _ _ _ hr hc]
  change (if k = n ∧ r = i.toNat then if (s.lanes m).getLsbD c = true then toTile f.toNat (s.cur.vec.lane v c)
    else s.cur.vec.tile n.toNat i.toNat c else s.cur.vec.tile k.toNat r c) = _
  grind

/-- Element (r, c) of a block of LS is its index `64 r + c` (R140). -/
theorem elementAddr (base r c : Nat) : base + 2 * (64 * r + c) = base + 128 * r + 2 * c := by omega

/-- Tile register `n` with element `j` set to `f j`, for every element. -/
def Vec.loadTile (x : Vec) (n : BitVec 2) (f : Nat → BitVec 16) : Vec := { x with t := Cells.setRange 0 x.t (4096 * n.toNat) f 4096 }

theorem tld_completes (h : s.EngReady .c pip) (n : BitVec 2) (v : BitVec 4) :
    Completes (.tld n v pip) s (s.TileResult pip n fun r c =>
      BitVec.ofNat 16 (s.cur.lsNat (laneAddr (s.cur.c.getA v).toNat + 128 * r + 2 * c) 2)) := by
  have hL : ∀ x, (popPips .c (popsOf .c pip) s).cur.lsNat x 2 = s.cur.lsNat x 2 :=
    fun x => lsNat_congr (by rw [cur_popPips, Core.ls_popAll]) x 2
  refine ⟨_, rfl, (engineDone_onVec h (f := fun x => x.loadTile n fun j =>
    BitVec.ofNat 16 (s.cur.lsNat (laneAddr (s.cur.c.getA v).toNat + 2 * j) 2)) ?_).tileResult fun k r c hr hc => ?_⟩
  · simp only [cur_popPips, Core.getA_popAll, lsWordAddr_eq, ← hL]
    rfl
  · rw [get_setTile _ _ _ _ hr hc, elementAddr]

/-- LS with the elements of tile register `n` stored in turn from `base` on. -/
def Core.storeTile (c : Core) (n : BitVec 2) (base : Nat) : Core :=
  c.storeEach 2 (fun _ => true) (fun j => base + 2 * j) (fun j => (Cells.get 0 c.vec.t (4096 * n.toNat + j)).toNat) 4096

theorem lsNat_storeTile (c : Core) (n : BitVec 2) (base : Nat) {i j : Nat} (hi : i < 64) (hj : j < 64) :
    (c.storeTile n base).lsNat (base + 128 * i + 2 * j) 2 = (c.vec.tile n.toNat i j).toNat := by
  have hval := c.lsNat_storeEach (n := 2) (k := 4096) (i := 64 * i + j) (sel := fun _ => true) (addr := fun j => base + 2 * j)
    (fun j => (Cells.get 0 c.vec.t (4096 * n.toNat + j)).toNat) (Nat.le_of_ble_eq_true rfl) (by omega) rfl
    fun l hl hk _ x y hx hy => by omega
  have hlt : (c.vec.tile n.toNat i j).toNat < 256 ^ 2 := (c.vec.tile n.toNat i j).isLt
  rw [← elementAddr]
  refine hval.trans ?_
  rw [← Nat.add_assoc]
  exact Nat.mod_eq_of_lt hlt

theorem lsRead_storeTile_out (c : Core) (n : BitVec 2) {base o : Nat} (h : ∀ j, j < 8192 → (base + j) % 1048576 ≠ o % 1048576) :
    (c.storeTile n base).lsRead o = c.lsRead o :=
  c.lsRead_storeEach_out _ fun j hj _ x hx => by
    rw [Nat.add_assoc]
    exact h (2 * j + x) (by omega)

/-- A word that stores a tile register in LS (R140). -/
theorem tileStored (h : s.EngReady .c pip) {body : State → Eff} {n : BitVec 2} {base : Core → Nat}
    (hb : body (popPips .c (popsOf .c pip) s) = .done ((popPips .c (popsOf .c pip) s).onCore fun c => c.storeTile n (base c)) false)
    {a : Nat} (ha : base (s.cur.popAll .c (popsOf .c pip)) = a) :
    s.EngineDone .c pip (fun c => { c with ls := (engWord .c pip body s).cur.ls }) (engWord .c pip body s) ∧
      (∀ r c, r < 64 → c < 64 → (engWord .c pip body s).cur.lsNat (a + 128 * r + 2 * c) 2 = (s.cur.vec.tile n.toNat r c).toNat) ∧
      ∀ o, o < 2 ^ 20 → (∀ j, j < 8192 → (a + j) % 2 ^ 20 ≠ o) → (engWord .c pip body s).cur.lsRead o = s.cur.lsRead o := by
  subst ha
  obtain ⟨hd, hls⟩ := engineDone_storeEach h hb rfl
  refine ⟨hd, fun r c hr hc => ?_, fun o ho hout => ?_⟩
  · rw [lsNat_congr hls]
    exact (lsNat_storeTile _ n _ hr hc).trans (by rw [Core.vec_popAll])
  · rw [lsRead_congr hls]
    refine (lsRead_storeTile_out _ n fun j hj => ?_).trans (lsRead_congr (Core.ls_popAll _ _ _) o)
    have hne := hout j hj
    omega

/-- Settles O35: a word of one tile register writes its elements alone (`State.EngineDone.tileResult`), TRCOL and TRROW lanes, TST its block
of LS (`tileStored`). -/
theorem tileWords : Obligations.TileWords := fun _ n i v f m _ h =>
  ⟨twrow_completes h n i v f m, completes_laneWord h _ rfl fun _ => rfl, completes_laneWord h _ rfl fun _ => rfl,
    ⟨_, rfl, (engineDone_vecWord h _).tileResult fun k _ _ hr hc => get_clearTile _ n k hr hc⟩, tld_completes h n v,
    ⟨_, rfl, tileStored h (base := fun c => laneAddr (c.c.getA v).toNat) rfl (by rw [Core.getA_popAll])⟩⟩

end Sys2Proof.Machine
end

section
/-! ### The deferral queue and VSCAT (R141 to R143) -/

namespace Sys2Proof.Machine

variable {s t : State} {pip : BitVec 4}

/-! #### DEFER (R141) -/

/-- The entries that DEFER appends: the active lanes in increasing order, each with its words. -/
def Vec.deferred (x : Vec) (a w : BitVec 4) (m : BitVec 1) : List DEntry :=
  ((List.range 64).filter fun i => (x.active m).getLsbD i).map fun i => ⟨i, (List.range w.toNat).map fun j => x.lane (a + BitVec.ofNat 4 j) i⟩

/-- What DEFER does once its pips are popped. -/
def deferOf (a w : BitVec 4) (m : BitVec 1) (s : State) : Eff :=
  if s.cur.vec.deferQ.length + (s.cur.vec.deferred a w m).length > 1024 then .trap ⟨0x10, 0, BitVec.ofNat 64 s.cur.vec.deferQ.length⟩ s
  else .done (s.onVec fun y => { y with deferQ := y.deferQ ++ s.cur.vec.deferred a w m }) false

theorem exec_defer (a w : BitVec 4) (m : BitVec 1) (s : State) : exec (.defer a w m pip) s = .next (engWord .c pip (deferOf a w m) s) := rfl

theorem vec_popPips (s : State) : (popPips .c (popsOf .c pip) s).cur.vec = s.cur.vec := by rw [cur_popPips, Core.vec_popAll]

theorem defer_appends (h : s.EngReady .c pip) {a w : BitVec 4} {m : BitVec 1}
    (hroom : s.cur.vec.deferQ.length + (s.cur.vec.deferred a w m).length ≤ 1024) : Completes (.defer a w m pip) s
      (s.EngineDone .c pip fun c => { c with vec := { c.vec with deferQ := s.cur.vec.deferQ ++ s.cur.vec.deferred a w m } }) := by
  refine ⟨_, exec_defer a w m s, State.EngineDone.congr
    (engineDone_onVec h (f := fun y => { y with deferQ := y.deferQ ++ s.cur.vec.deferred a w m }) ?_) (by rw [Core.vec_popAll])⟩
  rw [deferOf, vec_popPips, if_neg (Nat.not_lt.mpr hroom)]

theorem defer_traps (h : s.EngReady .c pip) (hs : s.cur.surrogate = false) {a w : BitVec 4} {m : BitVec 1}
    (hfull : 1024 < s.cur.vec.deferQ.length + (s.cur.vec.deferred a w m).length) : Completes (.defer a w m pip) s
      (s.EngineTraps .c ⟨0x10, 0, BitVec.ofNat 64 s.cur.vec.deferQ.length⟩) := by
  refine ⟨_, exec_defer a w m s, engWord_trap h hs ?_⟩
  rw [deferOf, vec_popPips, if_pos hfull]

/-! #### DRAIN (R142) -/

/-- The registers from `d` on set in turn: lane j of the k-th gets `f k j`. -/
def Vec.setRegs (x : Vec) (d : BitVec 4) (f : Nat → Nat → Lane) (n : Nat) : Vec :=
  (List.range n).foldl (fun z k => z.setLanes (d + BitVec.ofNat 4 k) (f k)) x

theorem Vec.setRegs_succ (x : Vec) (d : BitVec 4) (f : Nat → Nat → Lane) (n : Nat) :
    x.setRegs d f (n + 1) = (x.setRegs d f n).setLanes (d + BitVec.ofNat 4 n) (f n) := by
  rw [Vec.setRegs, List.range_succ, List.foldl_append]
  rfl

theorem Vec.setRegs_eq (x : Vec) (d : BitVec 4) (f : Nat → Nat → Lane) (n : Nat) : ∃ v, x.setRegs d f n = { x with v := v } := by
  induction n with
  | zero => exact ⟨x.v, rfl⟩
  | succ n ih =>
    obtain ⟨v, hv⟩ := ih
    exact ⟨_, by rw [Vec.setRegs_succ, hv]; rfl⟩

theorem toNat_add_ofNat {d : BitVec 4} {n : Nat} (h : d.toNat + n < 16) : (d + BitVec.ofNat 4 n).toNat = d.toNat + n := by
  rw [BitVec.toNat_add, BitVec.toNat_ofNat]
  omega

theorem Vec.lane_setRegs (x : Vec) (d r : BitVec 4) (f : Nat → Nat → Lane) {n j : Nat} (hn : d.toNat + n ≤ 16) (hj : j < 64) :
    (x.setRegs d f n).lane r j = if d.toNat ≤ r.toNat ∧ r.toNat < d.toNat + n then f (r.toNat - d.toNat) j else x.lane r j := by
  induction n with
  | zero => rw [if_neg (by omega)]; rfl
  | succ n ih =>
    have hd := toNat_add_ofNat (d := d) (n := n) (by omega)
    rw [Vec.setRegs_succ, Vec.lane_setLanes _ _ _ _ _ hj, ih (by omega)]
    by_cases hr : d + BitVec.ofNat 4 n = r
    · have hrn : r.toNat = d.toNat + n := by rw [← hr, hd]
      rw [if_pos hr, if_pos (by omega), hrn, Nat.add_sub_cancel_left]
    · have hrn : r.toNat ≠ d.toNat + n := fun h => hr (BitVec.eq_of_toNat_eq (hd.trans h.symm))
      rw [if_neg hr]
      congr 1
      exact propext ⟨by omega, by omega⟩

/-- The vector state after DRAIN. -/
def Vec.drained (x : Vec) (d w b : BitVec 4) : Vec :=
  (({ x with deferQ := x.deferQ.drop 64 } : Vec).setRegs d (fun k j => ((x.deferQ.take 64)[j]?.map fun e => e.words.getD k 0).getD 0)
    w.toNat).setLanes b fun j => ((x.deferQ.take 64)[j]?.map fun e => BitVec.ofNat 32 e.lane).getD 0xFFFFFFFF

theorem exec_drain (d w b : BitVec 4) (s : State) : exec (.drain d w b pip) s = .next (vecWord pip (fun x => x.drained d w b) s) := rfl

theorem Vec.drained_eq (x : Vec) (d w b : BitVec 4) : x.drained d w b = { x with v := (x.drained d w b).v, deferQ := x.deferQ.drop 64 } := by
  obtain ⟨v, hv⟩ := ({ x with deferQ := x.deferQ.drop 64 } : Vec).setRegs_eq d
    (fun k j => ((x.deferQ.take 64)[j]?.map fun e => e.words.getD k 0).getD 0) w.toNat
  rw [Vec.drained, hv]
  rfl

theorem Vec.lane_drained (x : Vec) {d w b : BitVec 4} (hw : d.toNat + w.toNat ≤ 16) (r : BitVec 4) {j : Nat} (hj : j < 64) :
    (x.drained d w b).lane r j =
      if r = b then (match x.deferQ[j]? with | some e => BitVec.ofNat 32 e.lane | none => 0xFFFFFFFF)
      else if d.toNat ≤ r.toNat ∧ r.toNat < d.toNat + w.toNat then
        (match x.deferQ[j]? with | some e => e.words.getD (r.toNat - d.toNat) 0 | none => 0)
      else x.lane r j := by
  rw [Vec.drained, Vec.lane_setLanes _ _ _ _ _ hj, Vec.lane_setRegs _ _ _ _ hw hj, List.getElem?_take_of_lt hj]
  by_cases hr : r = b
  · rw [if_pos hr.symm, if_pos hr]
    cases x.deferQ[j]? <;> rfl
  · rw [if_neg (Ne.symm hr), if_neg hr]
    cases x.deferQ[j]? <;> rfl

theorem drain_completes (h : s.EngReady .c pip) {d w b : BitVec 4} (hw : d.toNat + w.toNat ≤ 16) : Completes (.drain d w b pip) s (fun t =>
    s.EngineDone .c pip (fun c => { c with vec := { c.vec with v := t.cur.vec.v, deferQ := c.vec.deferQ.drop 64 } }) t ∧
    ∀ (r : BitVec 4) j, j < 64 → t.cur.vec.lane r j =
      if r = b then (match s.cur.vec.deferQ[j]? with | some e => BitVec.ofNat 32 e.lane | none => 0xFFFFFFFF)
      else if d.toNat ≤ r.toNat ∧ r.toNat < d.toNat + w.toNat then
        (match s.cur.vec.deferQ[j]? with | some e => e.words.getD (r.toNat - d.toNat) 0 | none => 0)
      else s.cur.vec.lane r j) := by
  have hd := engineDone_vecWord h fun x => x.drained d w b
  have hv : (vecWord pip (fun x => x.drained d w b) s).cur.vec = s.cur.vec.drained d w b := hd.vec_ls.1
  refine ⟨_, exec_drain d w b s, hd.congr ?_, fun r j hj => ?_⟩
  · rw [hv, Core.vec_popAll, ← Vec.drained_eq]
  · rw [hv]
    exact s.cur.vec.lane_drained hw r hj

/-! #### VSCAT (R143) -/

/-- One lane of a register set. -/
def Vec.setLane (x : Vec) (d : BitVec 4) (k : Nat) (v : Lane) : Vec := { x with v := Cells.set 0 x.v (64 * d.toNat + k) v }

theorem Vec.lane_setLane (x : Vec) (d r : BitVec 4) (v : Lane) {i k : Nat} (hi : i < 64) (hk : k < 64) :
    (x.setLane d k v).lane r i = if r = d ∧ i = k then v else x.lane r i := by
  rw [Vec.lane, Vec.setLane, Cells.get_set]
  by_cases hr : r = d ∧ i = k
  · obtain ⟨rfl, rfl⟩ := hr
    rw [if_pos rfl, if_pos ⟨rfl, rfl⟩]
  · have hne : ¬ (r.toNat = d.toNat ∧ i = k) := fun ⟨h1, h2⟩ => hr ⟨BitVec.eq_of_toNat_eq h1, h2⟩
    rw [if_neg (by omega), if_neg hr]
    rfl

/-- The lanes below `n` of `a` scattered in turn into `d` at the indices in `b`. -/
def Vec.scatter (x : Vec) (d a b : BitVec 4) (act : BitVec 64) (n : Nat) : Vec :=
  (List.range n).foldl (fun y j =>
    if act.getLsbD j && decide ((x.lane b j).toNat < 64) then y.setLane d (x.lane b j).toNat (x.lane a j) else y) x

section Scatter

variable (x : Vec) (d a b : BitVec 4) (act : BitVec 64)

theorem Vec.scatter_succ (n : Nat) : x.scatter d a b act (n + 1) =
    if act.getLsbD n && decide ((x.lane b n).toNat < 64) then (x.scatter d a b act n).setLane d (x.lane b n).toNat (x.lane a n)
    else x.scatter d a b act n := by
  rw [Vec.scatter, List.range_succ, List.foldl_append]
  rfl

theorem Vec.scatter_eq (n : Nat) : x.scatter d a b act n = { x with v := (x.scatter d a b act n).v } := by
  induction n with
  | zero => rfl
  | succ n ih =>
    rw [Vec.scatter_succ, ih]
    split <;> rfl

/-- A lane that no active lane names stays, and every other register. -/
theorem Vec.lane_scatter_out {n k : Nat} {r : BitVec 4} (hk : k < 64)
    (h : r ≠ d ∨ ∀ j, j < n → act.getLsbD j = true → (x.lane b j).toNat ≠ k) : (x.scatter d a b act n).lane r k = x.lane r k := by
  induction n with
  | zero => rfl
  | succ n ih =>
    rw [Vec.scatter_succ]
    have hn := ih (h.imp_right fun h j hj => h j (by omega))
    split
    · rename_i hsel
      rw [Bool.and_eq_true, decide_eq_true_eq] at hsel
      rw [Vec.lane_setLane _ _ _ _ hk hsel.2, if_neg, hn]
      rintro ⟨rfl, rfl⟩
      exact h.elim (fun h => h rfl) fun h => h n n.lt_succ_self hsel.1 rfl
    · exact hn

/-- What an active lane has scattered stays if no later one names its index. -/
theorem Vec.lane_scatter {n j : Nat} (hj : j < n) (hact : act.getLsbD j = true) (hidx : (x.lane b j).toNat < 64)
    (h : ∀ i, j < i → i < n → act.getLsbD i = true → x.lane b i ≠ x.lane b j) :
    (x.scatter d a b act n).lane d (x.lane b j).toNat = x.lane a j := by
  induction n with
  | zero => omega
  | succ n ih =>
    rw [Vec.scatter_succ]
    obtain rfl | hlt := Nat.eq_or_lt_of_le (Nat.le_of_lt_succ hj)
    · rw [hact, decide_eq_true hidx, Bool.and_self, if_pos rfl, Vec.lane_setLane _ _ _ _ hidx hidx, if_pos ⟨rfl, rfl⟩]
    · have hn := ih hlt fun i hji hi => h i hji (by omega)
      split
      · rename_i hsel
        rw [Bool.and_eq_true, decide_eq_true_eq] at hsel
        rw [Vec.lane_setLane _ _ _ _ hidx hsel.2, if_neg, hn]
        exact fun ⟨_, he⟩ => h n hlt n.lt_succ_self hsel.1 (BitVec.eq_of_toNat_eq he.symm)
      · exact hn

end Scatter

theorem exec_vscat (d a b : BitVec 4) (m : BitVec 1) (s : State) :
    exec (.vscat d a b m pip) s = .next (vecWord pip (fun x => x.scatter d a b (x.active m) 64) s) := rfl

theorem vscat_completes (h : s.EngReady .c pip) (d a b : BitVec 4) (m : BitVec 1) : Completes (.vscat d a b m pip) s (fun t =>
    s.EngineDone .c pip (fun c => { c with vec := { c.vec with v := t.cur.vec.v } }) t ∧
    (∀ r k, k < 64 → (r ≠ d ∨ ∀ j, j < 64 → (s.lanes m).getLsbD j = true → (s.cur.vec.lane b j).toNat ≠ k) →
      t.cur.vec.lane r k = s.cur.vec.lane r k) ∧
    ∀ j, j < 64 → (s.lanes m).getLsbD j = true → (s.cur.vec.lane b j).toNat < 64 →
      (∀ i, j < i → i < 64 → (s.lanes m).getLsbD i = true → s.cur.vec.lane b i ≠ s.cur.vec.lane b j) →
      t.cur.vec.lane d (s.cur.vec.lane b j).toNat = s.cur.vec.lane a j) := by
  have hd := engineDone_vecWord h fun x => x.scatter d a b (x.active m) 64
  have hv : (vecWord pip (fun x => x.scatter d a b (x.active m) 64) s).cur.vec = s.cur.vec.scatter d a b (s.cur.vec.active m) 64 := hd.vec_ls.1
  refine ⟨_, exec_vscat d a b m s, hd.congr ?_, fun r k hk hout => ?_, fun j hj hact hidx hlast => ?_⟩
  · rw [hv, Core.vec_popAll, ← Vec.scatter_eq]
  · rw [hv]
    exact Vec.lane_scatter_out _ _ _ _ _ hk hout
  · rw [hv]
    exact Vec.lane_scatter _ _ _ _ _ hj hact hidx hlast

/-- Settles O36: DEFER appends or traps (`defer_appends`, `defer_traps`), DRAIN sets its registers from the queue (`Vec.lane_drained`), VSCAT
sets lanes in turn (`Vec.lane_scatter_out`, `Vec.lane_scatter`). -/
theorem deferralWords : Obligations.DeferralWords := by
  intro s a b d w m pip new h
  refine ⟨fun hnew => ?_, fun _ _ hw _ => drain_completes h hw, ⟨_, rfl, laneResult_putFirst h d _⟩, vscat_completes h d a b m⟩
  obtain rfl : new = s.cur.vec.deferred a w m := hnew
  exact ⟨fun hroom => defer_appends h hroom, fun hfull hs => defer_traps h hs hfull⟩

end Sys2Proof.Machine
end

section
/-! ### The exact accumulators at C (R144 to R148) -/

namespace Sys2Proof.Machine

variable {s t u : State} {pip q : BitVec 4}

/-! #### Waiting for a load on its way (R147) -/

theorem State.Accessed.reqs (h : s.Accessed t) : t.reqs = s.reqs := by rw [h.tables]

theorem State.Accessed.nextId (h : s.Accessed t) : t.nextId = s.nextId := by rw [h.tables]

theorem State.Accessed.accumBusy (h : s.Accessed t) (q : BitVec 4) : t.accumBusy q = s.accumBusy q := by
  simp only [State.accumBusy, h.reqs, h.agent]

theorem State.Accessed.slotBusy (h : s.Accessed t) (l : Loc) : t.slotBusy l = s.slotBusy l := by
  simp only [State.slotBusy, h.reqs, h.agent]

theorem accumEff_idle (h : s.accumBusy q = false) (body : State → Eff) :
    accumEff q body (popPips .c (popsOf .c pip) s) = body (popPips .c (popsOf .c pip) s) := by
  rw [accumEff, (accessed_popPips _ _ s).accumBusy, h]
  rfl

/-- The words that name an accumulator. -/
def accumInstrs (q a b d : BitVec 4) (m : BitVec 1) (pip : BitVec 4) : List Instr :=
  [.xclr q pip, .xmac q a b m pip, .xsum q a m pip, .xrnd d q pip, .xsave q a pip, .xload q a pip, .xget q a pip, .xput q b pip]

theorem exec_accumInstrs {a b d : BitVec 4} {m : BitVec 1} {i : Instr} (hi : i ∈ accumInstrs q a b d m pip) (s : State) :
    ∃ body, exec i s = .next (engWord .c pip (accumEff q body) s) := by
  simp only [accumInstrs, List.mem_cons, List.not_mem_nil, or_false] at hi
  obtain rfl | rfl | rfl | rfl | rfl | rfl | rfl | rfl := hi
  all_goals exact ⟨_, rfl⟩

theorem accum_waits (h : s.EngReady .c pip) (hb : s.accumBusy q = true) {a b d : BitVec 4} {m : BitVec 1} {i : Instr}
    (hi : i ∈ accumInstrs q a b d m pip) : Completes i s (s.EngineWaits .c pip .other) := by
  obtain ⟨body, he⟩ := exec_accumInstrs hi s
  refine ⟨_, he, engWord_wait h ?_⟩
  rw [accumEff, (accessed_popPips _ _ s).accumBusy, hb, if_pos rfl]

/-! #### Words that perform at once (R144, R145, R147) -/

/-- A word that sets accumulator `q` from the vector state. -/
theorem accumResult_setAccum (h : s.EngReady .c pip) {body : State → Eff} {f : Vec → Accum} {v : Accum}
    (hb : body (popPips .c (popsOf .c pip) s) = .done ((popPips .c (popsOf .c pip) s).onVec fun x => x.setAccum q.toNat (f x)) false)
    (hv : f s.cur.vec = v) : s.AccumResult pip q v (engWord .c pip body s) := by
  have hd := engineDone_onVec h hb
  have hvec : (engWord .c pip body s).cur.vec = s.cur.vec.setAccum q.toNat (f s.cur.vec) := hd.vec_ls.1
  refine ⟨hd.congr (by rw [hvec, Core.vec_popAll]; rfl), fun k => ?_⟩
  rw [hvec, Vec.accum_setAccum, hv]
  exact ite_congr (propext eq_comm) (fun _ => rfl) fun _ => rfl

theorem slotAddr_spec (v : Word) : slotAddr v + 128 ≤ 1048576 := by
  unfold slotAddr
  omega

theorem lsSlot_eq (v : Word) : lsSlot v = slotAddr v := rfl

/-- XSAVE writes the 128 bytes of its slot of LS (R147). -/
theorem slotSaved (h : s.EngReady .c pip) {a : BitVec 4} {body : State → Eff} (hb : body (popPips .c (popsOf .c pip) s) =
      .done ((popPips .c (popsOf .c pip) s).onCore fun c => c.lsPut (lsSlot (c.c.getA a)) 128 (slotBytes (c.vec.accum q.toNat))) false) :
    s.EngineDone .c pip (fun c => { c with ls := (engWord .c pip body s).cur.ls }) (engWord .c pip body s) ∧
      (engWord .c pip body s).cur.lsNat (slotAddr (s.cur.c.getA a)) 128 = slotBytes (s.cur.vec.accum q.toNat) % 256 ^ 128 ∧
      ∀ o, o < 2 ^ 20 → ¬ (slotAddr (s.cur.c.getA a) ≤ o ∧ o < slotAddr (s.cur.c.getA a) + 128) →
        (engWord .c pip body s).cur.lsRead o = s.cur.lsRead o := by
  have hd := engineDone_onCore h hb ⟨rfl, rfl⟩
  have hls := hd.vec_ls.2
  simp only [Core.getA_popAll, Core.vec_popAll, lsSlot_eq] at hls
  refine ⟨hd.ls ⟨_, rfl⟩, (lsNat_congr hls _ _).trans (Core.lsNat_lsPut _ _ _ (Nat.le_of_ble_eq_true rfl)), fun o ho hout => ?_⟩
  have ha := slotAddr_spec (s.cur.c.getA a)
  exact (lsRead_congr hls o).trans ((Core.lsRead_lsPut_out _ _ fun j hj => by omega).trans (lsRead_congr (Core.ls_popAll _ _ _) o))

/-- The words that perform at once while no load for their accumulator is on its way. -/
theorem accumWords_complete (h : s.EngReady .c pip) (hidle : s.accumBusy q = false) (a b d : BitVec 4) (m : BitVec 1) :
    Completes (.xclr q pip) s (s.AccumResult pip q Accum.zero) ∧
    Completes (.xmac q a b m pip) s (s.AccumResult pip q (((List.range 64).filter fun i => (s.lanes m).getLsbD i).foldl
      (fun r i => r.addTerm (Num.mul (valueIn fp32 (s.cur.vec.lane a i)) (valueIn fp32 (s.cur.vec.lane b i)))) (s.cur.vec.accum q.toNat))) ∧
    Completes (.xsum q a m pip) s (s.AccumResult pip q (((List.range 64).filter fun i => (s.lanes m).getLsbD i).foldl
      (fun r i => r.addTerm (valueIn fp32 (s.cur.vec.lane a i))) (s.cur.vec.accum q.toNat))) ∧
    Completes (.xrnd d q pip) s (s.LaneResult pip d (BitVec.allOnes 64) fun i =>
      if i = 0 then BitVec.ofNat 32 (s.cur.vec.accum q.toNat).read else 0) ∧
    Completes (.xsave q a pip) s (fun t => s.EngineDone .c pip (fun c => { c with ls := t.cur.ls }) t ∧
      t.cur.lsNat (slotAddr (s.cur.c.getA a)) 128 = slotBytes (s.cur.vec.accum q.toNat) % 256 ^ 128 ∧
      ∀ o, o < 2 ^ 20 → ¬ (slotAddr (s.cur.c.getA a) ≤ o ∧ o < slotAddr (s.cur.c.getA a) + 128) → t.cur.lsRead o = s.cur.lsRead o) ∧
    Completes (.xload q a pip) s (s.AccumResult pip q (slotOf (s.cur.lsNat (slotAddr (s.cur.c.getA a)) 128))) := by
  refine ⟨⟨_, rfl, accumResult_setAccum h (accumEff_idle hidle _) rfl⟩, ⟨_, rfl, accumResult_setAccum h (accumEff_idle hidle _) ?_⟩,
    ⟨_, rfl, accumResult_setAccum h (accumEff_idle hidle _) ?_⟩,
    ⟨_, rfl, laneResult_putFirst_of h (f := fun x => BitVec.ofNat 32 (x.accum q.toNat).read) (accumEff_idle hidle _)⟩,
    ⟨_, rfl, slotSaved h (accumEff_idle hidle _)⟩, ⟨_, rfl, accumResult_setAccum h (f := fun _ => _) (accumEff_idle hidle _) ?_⟩⟩
  · rw [List.foldl_filter]
    rfl
  · rw [List.foldl_filter]
    rfl
  · rw [cur_popPips, Core.getA_popAll, lsSlot_eq, lsNat_congr (Core.ls_popAll _ _ _)]

end Sys2Proof.Machine
end

section
/-! ### XGET and XPUT at C (R146 to R148) -/

namespace Sys2Proof.Machine

variable {s t u : State} {pip q : BitVec 4} {l : Loc} {va : Word}

/-- The checks of a slot operation passed: what is left is its effect, on a state in which only its walk and its touch show (R146, R147). -/
theorem slotCheck_ok {w : Who} (hw : w.core = s.agent) (hr : s.cur.raceMode = 0) {acc : Acc} (ha : va.toNat % 128 = 0)
    (hc : s.check w acc va = .ok l) : ∃ u, s.Prepared u ∧ ∀ k, slotCheck w acc va k s = k l u := by
  have hm : (s.core w.core).raceMode = 0 := raceMode_core hw hr
  refine ⟨_, prepared_touchAll hw hr 0 (acc == .atomic) [(l, va.toNat, 128)], fun k => ?_⟩
  rw [slotCheck, if_neg fun h => h ha, hc]
  simp only [trapRace_eq_none hm, logRaces_eq_self hm]

/-! #### Pips that follow later (R13, R146) -/

/-- The pips that a word pops alone. -/
theorem pops_only (pip : BitVec 4) : popsOf .c (pip &&& 12) = popsOf .c pip ∧ pushesOf .c (pip &&& 12) = [] := by
  revert pip
  decide

/-- A word whose pips follow later pops now and is over. -/
theorem engWord_later (h : s.EngReady .c (pip &&& 12)) {body : State → Eff} (hb : body (popPips .c (popsOf .c pip) s) = .done t true) :
    engWord .c pip body s = engWord .c (pip &&& 12) (fun _ => .done t false) s := by
  obtain ⟨hpops, hpushes⟩ := pops_only pip
  have htake := takePips_of_ready h
  rw [Engine.owed, hpops] at htake
  have hbody : (fun _ => .done t false : State → Eff) (popPips .c (popsOf .c pip) s) = .done t false := rfl
  simp only [engWord, Engine.owed, hpops, hpushes, htake, hb, if_true, Bool.false_eq_true, if_false]

/-- The request that a slot operation sends to the home of its slot. -/
def State.slotReq (s : State) (kind : ReqKind) (l : Loc) (va floor : Word) (pip : BitVec 4) : Req :=
  { kind := kind, loc := l, va := va, core := s.agent, e := .c, pts := s.cur.c.pts, floor := floor,
    launch := (s.cur.binding.map fun x => x.launch).getD 0, issued := s.cur.c.pts, number := s.cur.launchId, iter := s.cur.iter,
    gen := s.cur.gen, pos := (s.cur.c.entry.map fun q => q.pos).getD 0, pushes := pushesOf .c pip, key := [],
    at_ := (s.cur.c.entry.map fun q => q.at_).getD 0, passed := [] }

theorem reqs_sendSlot (s : State) (kind : ReqKind) (l : Loc) (va floor : Word) (pip : BitVec 4) :
    (s.sendSlot kind l va floor pip).reqs = Cells.put s.reqs s.nextId (s.slotReq kind l va floor pip) := rfl

/-- A slot operation that has been sent: of the current core the pops show and a TLB, and C goes on (R146 to R148). -/
theorem sendSlot_done (h : s.EngReady .c (pip &&& 12)) {body : State → Eff} {kind : ReqKind} {floor : Word}
    (hu : (popPips .c (popsOf .c pip) s).Prepared u)
    (hb : body (popPips .c (popsOf .c pip) s) = .done (u.sendSlot kind l va floor pip) true) :
    s.SameBytes (engWord .c pip body s) ∧ (∀ n, n ≠ s.agent → (engWord .c pip body s).core n = s.core n) ∧
      (engWord .c pip body s).cur = s.cur.after .c (pip &&& 12) (fun c => { c with tlb := (engWord .c pip body s).cur.tlb }) ∧
      ∃ r, (engWord .c pip body s).reqs = Cells.put s.reqs s.nextId r ∧ r.kind = kind ∧ r.loc = l ∧ r.va = va ∧
        r.core = s.agent ∧ r.e = .c ∧ r.gen = s.cur.gen ∧ r.pushes = pushesOf .c pip := by
  have hacc := (accessed_popPips .c (popsOf .c pip) s).trans hu.toAccessed
  obtain ⟨x, hx⟩ := hu.tlb
  have hcur : (u.sendSlot kind l va floor pip).cur = { s.cur.popAll .c (popsOf .c pip) with tlb := x } := hx.trans (by rw [cur_popPips])
  obtain ⟨honly, hdone⟩ := engWord_done h (body := fun _ => .done (u.sendSlot kind l va floor pip) false) rfl
    (by rw [hcur, cur_popPips, (pops_only pip).1]) (by rw [hcur]; exact (Core.engTrap_popAll _ _ _).trans h.2.2.2.1)
  rw [← engWord_later h hb, hcur] at hdone
  rw [← engWord_later h hb] at honly
  refine ⟨fun p hp => ?_, fun n hn => ?_, ?_, u.slotReq kind l va floor pip, ?_, rfl, rfl, rfl, hacc.agent, rfl, ?_, rfl⟩
  · exact (honly.2.2 p).trans (Eq.trans (by cases p <;> rfl) (hacc.bytes p hp))
  · exact (honly.2.1 n fun he => hn (he.trans hacc.agent)).trans (hacc.cores n hn)
  · obtain ⟨p, hp⟩ := ({ s.cur.popAll .c (popsOf .c pip) with tlb := x } : Core).pushAll_eq .c (pushesOf .c (pip &&& 12))
    have htlb : (engWord .c pip body s).cur.tlb = x := by
      rw [hdone, hp]
      rfl
    rw [htlb, hdone, Core.after, (pops_only pip).1]
  · rw [honly.1]
    exact (reqs_sendSlot u kind l va floor pip).trans (by rw [hacc.reqs, hacc.nextId])
  · obtain ⟨p, v, hp⟩ := s.cur.popAll_eq .c (popsOf .c pip)
    show u.cur.gen = _
    rw [hx, cur_popPips, hp]
    rfl

/-! #### The words -/

section Words

variable (hidle : s.accumBusy q = false) (hr : s.cur.raceMode = 0)

/-- What XGET at an address does once its checks have passed: `s` is the state that they have read, `s1` what they leave. -/
def xgetAt (s : State) (q : BitVec 4) (va : Word) (pip : BitVec 4) (l : Loc) (s1 : State) : Eff :=
  if s1.slotBusy l then .done (s1.sendSlot (.get q.toNat) l va (s.whoE .c true).floor pip) true
  else
    let (s2, v, t) := s1.granRead (s.whoE .c true) false s.cur.c.pts (l, va.toNat, 128)
    .done ((s2.onVec fun x => x.setAccum q.toNat (slotOf v)).raiseEng .c t) false

/-- What XGET does once its pips are popped and no load for its accumulator is on its way. -/
def xgetOf (q a pip : BitVec 4) (s : State) : Eff :=
  slotCheck (s.whoE .c true) .read (s.cur.c.getA a) (xgetAt s q (s.cur.c.getA a) pip) s

/-- What XPUT does then. -/
def xputOf (q b pip : BitVec 4) (s : State) : Eff :=
  if s.cur.surrogate then .stop (s.fallback s.agent 0x86)
  else slotCheck { s.whoE .c true with late := true } .atomic (s.cur.c.getA b) (fun l s1 =>
    .done (s1.sendSlot (.slot (s.cur.vec.accum q.toNat)) l (s.cur.c.getA b) (s.whoE .c true).floor pip) true) s

theorem exec_xget (q a : BitVec 4) (s : State) : exec (.xget q a pip) s = .next (engWord .c pip (accumEff q (xgetOf q a pip)) s) := rfl

theorem exec_xput (q b : BitVec 4) (s : State) : exec (.xput q b pip) s = .next (engWord .c pip (accumEff q (xputOf q b pip)) s) := rfl

include hidle hr

/-- The checks of XGET passed. -/
theorem xget_checked {a : BitVec 4} (ha : (s.cur.c.getA a).toNat % 128 = 0)
    (hc : (popPips .c (popsOf .c pip) s).check ((popPips .c (popsOf .c pip) s).whoE .c true) .read (s.cur.c.getA a) = .ok l) :
    ∃ u, (popPips .c (popsOf .c pip) s).Prepared u ∧
      accumEff q (xgetOf q a pip) (popPips .c (popsOf .c pip) s) =
        xgetAt (popPips .c (popsOf .c pip) s) q (s.cur.c.getA a) pip l u := by
  obtain ⟨-, hr0, -, -, -, -, hA⟩ := popPips_spec .c (popsOf .c pip) s
  have hA : (popPips .c (popsOf .c pip) s).cur.c.getA a = s.cur.c.getA a := hA a
  obtain ⟨u, hu, he⟩ := slotCheck_ok (core_whoE _ _ _) (hr0.trans hr) ha hc
  exact ⟨u, hu, by rw [accumEff_idle hidle, xgetOf, hA, he]⟩

/-- The checks of XPUT passed: the merge is sent (R146). -/
theorem xput_checked {b : BitVec 4} (hs : s.cur.surrogate = false) (hb : (s.cur.c.getA b).toNat % 128 = 0)
    (hc : (popPips .c (popsOf .c pip) s).check ((popPips .c (popsOf .c pip) s).whoE .c true) .atomic (s.cur.c.getA b) = .ok l) :
    ∃ u floor, (popPips .c (popsOf .c pip) s).Prepared u ∧ accumEff q (xputOf q b pip) (popPips .c (popsOf .c pip) s) =
      .done (u.sendSlot (.slot (s.cur.vec.accum q.toNat)) l (s.cur.c.getA b) floor pip) true := by
  obtain ⟨hs0, hr0, -, hv0, -, -, hA⟩ := popPips_spec .c (popsOf .c pip) s
  have hA : (popPips .c (popsOf .c pip) s).cur.c.getA b = s.cur.c.getA b := hA b
  obtain ⟨u, hu, he⟩ := slotCheck_ok (w := { (popPips .c (popsOf .c pip) s).whoE .c true with late := true })
    (core_whoE _ _ _) (hr0.trans hr) hb (check_late (late_whoAt _ _ _ _ _) hc true)
  refine ⟨u, ((popPips .c (popsOf .c pip) s).whoE .c true).floor, hu, ?_⟩
  rw [accumEff_idle hidle, xputOf, hs0, hs, hA, hv0]
  exact (if_neg Bool.false_ne_true).trans (he _)

end Words

/-! #### A load that C performs itself (R147) -/

/-- Where no copy of the line is held a granule is the bytes of memory, at the timestamp of their write or later. -/
theorem granRead_uncopied {w : Who} (hbuf : w.buf = false) (hl : l.isSystem = false) (hcopy : ∀ k, s.copyOf l k = none) (na : Bool)
    (base : Word) (va n : Nat) : (s.granRead w na base (l, va, n)).2 = (s.natAt l n, wmax base (s.tsAt l).wts) := by
  simp only [State.granRead, State.forward, hbuf, hl, Bool.false_eq_true, if_false,
    readAt_of_hit_eq_none (hit_eq_none hcopy _ _)]

/-- XGET that no earlier slot operation of its C precedes reads the slot itself (R147). -/
theorem xgetAt_idle (hs : s.cur.surrogate = false) (hl : l.isSystem = false) (hu : s.Prepared u) (hbusy : u.slotBusy l = false) :
    ∃ t v ts, xgetAt s q va pip l u = .done ((t.onVec fun x => x.setAccum q.toNat (slotOf v)).raiseEng .c ts) false ∧
      u.Accessed t ∧ t.cores = u.cores ∧ ((∀ k, s.copyOf l k = none) → v = u.natAt l 128) := by
  obtain ⟨hread, hcores⟩ := granRead_spec u (s.whoE .c true) false s.cur.c.pts (l, va.toNat, 128)
  have hbuf : (s.whoE .c true).buf = false := by
    rw [State.whoE, buf_whoAt, show (s.core s.agent).surrogate = false from hs, Bool.false_and]
  have hvalue : (∀ k, s.copyOf l k = none) → (u.granRead (s.whoE .c true) false s.cur.c.pts (l, va.toNat, 128)).2.1 = u.natAt l 128 :=
    fun hcopy => by rw [granRead_uncopied hbuf hl fun k => (hu.copyOf l k).trans (hcopy k)]
  exact ⟨_, _, _, by simp only [xgetAt, hbusy, Bool.false_eq_true, if_false] <;> rfl, hread, hcores, hvalue⟩

/-- A word of C that has read a slot into accumulator `q`. -/
theorem xget_loaded (h : s.EngReady .c pip) (hs : s.cur.surrogate = false) (hl : l.isSystem = false) {body : State → Eff}
    (hu : (popPips .c (popsOf .c pip) s).Prepared u) (hbusy : u.slotBusy l = false)
    (hb : body (popPips .c (popsOf .c pip) s) = xgetAt (popPips .c (popsOf .c pip) s) q va pip l u) :
    s.SameBytes (engWord .c pip body s) ∧ (∀ n, n ≠ s.agent → (engWord .c pip body s).core n = s.core n) ∧
      (∃ p x, (engWord .c pip body s).cur = s.cur.after .c pip fun c =>
        { c.updEng .c fun x => { x with pts := p } with vec := { c.vec with q := (engWord .c pip body s).cur.vec.q }, tlb := x }) ∧
      (∀ k, k ≠ q.toNat → (engWord .c pip body s).cur.vec.accum k = s.cur.vec.accum k) ∧
      ((∀ k, s.copyOf l k = none) → s.NoRecord l 128 → (engWord .c pip body s).cur.vec.accum q.toNat = slotOf (s.natAt l 128)) := by
  have hpop := onlyCore_popPips .c (popsOf .c pip) s
  have hacc := hpop.accessed.trans hu.toAccessed
  obtain ⟨s2, v, ts, he, hread, hcores, hvalue⟩ := xgetAt_idle (q := q) (va := va) (pip := pip)
    ((popPips_spec .c (popsOf .c pip) s).1.trans hs) hl hu hbusy
  rw [he] at hb
  obtain ⟨x, hx⟩ := hu.tlb
  have hcur2 : s2.cur = { s.cur.popAll .c (popsOf .c pip) with tlb := x } := by rw [cur_congr hcores hread.turn, hx, cur_popPips]
  have hcur : ((s2.onVec fun x => x.setAccum q.toNat (slotOf v)).raiseEng .c ts).cur =
      { { s.cur.popAll .c (popsOf .c pip) with tlb := x } with vec := s.cur.vec.setAccum q.toNat (slotOf v) }.updEng .c fun x =>
        { x with pts := wmax x.pts (wmax x.offsetTs ts) } := by
    rw [State.raiseEng, State.cur_onEng, State.onVec, State.cur_onCore, hcur2, Core.vec_popAll]
  obtain ⟨honly, hdone⟩ := engWord_done h hb (by rw [hcur, cur_popPips]; rfl)
    (by rw [hcur]; exact (Core.engTrap_popAll _ _ _).trans h.2.2.2.1)
  have hall : s.Accessed (engWord .c pip body s) :=
    (hacc.trans hread).trans (((accessed_onCore s2 _).trans (onlyCore_onEng _ .c _).accessed).trans honly.accessed)
  have hvec : (engWord .c pip body s).cur.vec = s.cur.vec.setAccum q.toNat (slotOf v) := by
    rw [hdone, vec_pushAll_finish, hcur]
    rfl
  have hcopyPop : ∀ k, (popPips .c (popsOf .c pip) s).copyOf l k = s.copyOf l k := fun k => by
    rw [hpop.1]
    cases l <;> rfl
  refine ⟨hall.bytes, hall.cores, ⟨wmax (s.cur.popAll .c (popsOf .c pip)).c.pts (wmax (s.cur.popAll .c (popsOf .c pip)).c.offsetTs ts),
    x, ?_⟩, fun k hk => ?_, fun hcopy hn => ?_⟩
  · rw [hvec, hdone, hcur, Core.after, Core.vec_popAll]
    rfl
  · rw [hvec, Vec.accum_setAccum, if_neg (Ne.symm hk)]
  · rw [hvec, Vec.accum_setAccum, if_pos rfl, hvalue fun k => (hcopyPop k).trans (hcopy k), natAt_of_sameBytes hacc.bytes hn]

end Sys2Proof.Machine
end

section
/-! ### Slot operations at their home (R13, R146 to R148, R283, R284) -/

namespace Sys2Proof.Machine

variable {s t u : State} {i : Nat} {r : Req} {l : Loc}

/-! #### Pips pushed for a request (R13) -/

/-- A pip with timestamp `ts`, or with the PTS of C, has come to each channel of a list, on core `n`. -/
structure State.Pushed (s : State) (n : Nat) (ts : Option Word) (l : List Nat) (t : State) : Prop where
  state : t = { s with cores := t.cores }
  others : ∀ k, k ≠ n → t.core k = s.core k
  core : t.core n = { s.core n with pips := (t.core n).pips }
  pips : ∀ ch, (t.core n).pip ch = (s.core n).pip ch ++ if ch ∈ l then [ts.getD (s.core n).c.pts] else []

/-- The next channel of a request: its pip is pushed where there is room and none waits. -/
def pushNext (n : Nat) (ts : Option Word) (a : State × List Nat) (ch : Nat) : State × List Nat :=
  if a.2.isEmpty && (a.1.core n).pipRoom ch then (a.1.updCore n fun c => c.pushPip ch (ts.getD c.c.pts), []) else (a.1, a.2 ++ [ch])

theorem pushReq_eq (s : State) (i : Nat) (r : Req) (ts : Option Word) :
    s.pushReq i r ts = if (r.pushes.foldl (pushNext r.core ts) (s, [])).2.isEmpty then (r.pushes.foldl (pushNext r.core ts) (s, [])).1.dropReq i
      else { (r.pushes.foldl (pushNext r.core ts) (s, [])).1 with
        reqs := Cells.put (r.pushes.foldl (pushNext r.core ts) (s, [])).1.reqs i
          { r with kind := .pips ts, pushes := (r.pushes.foldl (pushNext r.core ts) (s, [])).2 } } := rfl

/-- With room on every channel none waits. -/
theorem foldl_pushNext (n : Nat) (ts : Option Word) {ps : List Nat} (hn : ps.Nodup) (hroom : ∀ ch ∈ ps, ((s.core n).pip ch).length < 16) :
    ∃ t, s.Pushed n ts ps t ∧ ps.foldl (pushNext n ts) (s, []) = (t, []) := by
  induction ps generalizing s with
  | nil => exact ⟨s, ⟨rfl, fun _ _ => rfl, rfl, fun ch => by rw [if_neg List.not_mem_nil, List.append_nil]⟩, rfl⟩
  | cons ch ps ih =>
    obtain ⟨hch, hn'⟩ := List.nodup_cons.mp hn
    have hstep : pushNext n ts (s, []) ch = (s.updCore n fun c => c.pushPip ch (ts.getD c.c.pts), []) :=
      if_pos (decide_eq_true (hroom ch List.mem_cons_self))
    have hpip : ∀ j, ((s.updCore n fun c => c.pushPip ch (ts.getD c.c.pts)).core n).pip j =
        if ch = j then (s.core n).pip ch ++ [ts.getD (s.core n).c.pts] else (s.core n).pip j := fun j => by
      rw [State.core_updCore_self, Core.pip_pushPip]
    obtain ⟨t, ⟨hstate, hothers, hcore, hpips⟩, hfold⟩ := ih (s := s.updCore n fun c => c.pushPip ch (ts.getD c.c.pts)) hn' fun j hj => by
      rw [hpip, if_neg fun he : ch = j => hch (he ▸ hj)]
      exact hroom j (List.mem_cons_of_mem _ hj)
    rw [State.core_updCore_self] at hcore
    refine ⟨t, ⟨hstate, fun k hk => (hothers k hk).trans (State.core_updCore_ne s (Ne.symm hk) _), hcore, fun j => ?_⟩, ?_⟩
    · rw [hpips, hpip, State.core_updCore_self]
      show _ ++ (if j ∈ ps then [ts.getD (s.core n).c.pts] else []) = _
      by_cases hj : ch = j
      · subst hj
        rw [if_pos rfl, if_neg hch, if_pos List.mem_cons_self, List.append_nil]
      · rw [if_neg hj]
        simp only [List.mem_cons, Ne.symm hj, false_or]
    · rw [List.foldl_cons, hstep, hfold]

/-- A request whose iteration is open and whose pips have room pushes them and leaves. -/
theorem pushPending_pushed (hgen : (s.core r.core).gen = r.gen) (hn : r.pushes.Nodup)
    (hroom : ∀ ch ∈ r.pushes, ((s.core r.core).pip ch).length < 16) (i : Nat) (ts : Option Word) :
    ∃ t, s.Pushed r.core ts r.pushes t ∧ s.pushPending i r ts = t.dropReq i := by
  obtain ⟨t, ht, hfold⟩ := foldl_pushNext r.core ts hn hroom
  exact ⟨t, ht, by rw [State.pushPending, if_pos hgen, pushReq_eq, hfold]; rfl⟩

theorem byteAt_pushed {n : Nat} {ts : Option Word} {ps : List Nat} (h : s.Pushed n ts ps t) (i : Nat) (p : Loc) :
    (t.dropReq i).byteAt p = s.byteAt p ∧ (t.dropReq i).tsAt p = s.tsAt p := by
  rw [h.state]
  cases p <;> exact ⟨rfl, rfl⟩

/-! #### The request while its home serves it (R26, R116) -/

/-- The requests of a home that has served one. -/
def State.servedReq (s : State) (r x : Req) : Req :=
  if s.homeOf (s.reqWho x) x.va == s.homeOf (s.reqWho r) r.va then
    { x with passed := if x.core = r.core then [] else r.core :: x.passed.filter fun c => c != r.core }
  else x

theorem find?_noteServed (s : State) (r : Req) (i : Nat) : Cells.find? (s.noteServed r).reqs i = (Cells.find? s.reqs i).map (s.servedReq r) := by
  rw [← Cells.find?_map_values fun _ => s.servedReq r]
  refine congrArg (fun f => Cells.find? (s.reqs.map f) i) (funext fun x => ?_)
  unfold State.servedReq
  split <;> rfl

theorem copyOf_noteServed (s : State) (r : Req) (l : Loc) (n : Nat) : (s.noteServed r).copyOf l n = s.copyOf l n := by
  cases l <;> rfl

theorem byteAt_noteServed (s : State) (r : Req) (l : Loc) : (s.noteServed r).byteAt l = s.byteAt l := by
  cases l <;> rfl

theorem tsAt_noteServed (s : State) (r : Req) (l : Loc) : (s.noteServed r).tsAt l = s.tsAt l := by
  cases l <;> rfl

theorem servedReq_spec (s : State) (r x : Req) :
    (s.servedReq r x).core = x.core ∧ (s.servedReq r x).gen = x.gen ∧ (s.servedReq r x).pushes = x.pushes := by
  unfold State.servedReq
  split <;> exact ⟨rfl, rfl, rfl⟩

/-- What is ordered after a request's write is not the request itself. -/
theorem find?_orderLater (s : State) (i : Nat) (r : Req) (ts : Word) : Cells.find? (s.orderLater i r ts).reqs i = Cells.find? s.reqs i := by
  have hmap := Cells.find?_map_values (fun k x => if x.core == r.core && x.e == r.e && decide (i < k) then { x with pts := wmax x.pts ts } else x)
    s.reqs i
  have hown : (fun x : Req => if x.core == r.core && x.e == r.e && decide (i < i) then { x with pts := wmax x.pts ts } else x) = id :=
    funext fun x => by rw [decide_eq_false (Nat.lt_irrefl i), Bool.and_false]; rfl
  rw [hown, Option.map_id] at hmap
  refine Eq.trans (congrArg (fun f => Cells.find? (s.reqs.map f) i) (funext fun x => ?_)) hmap
  split <;> rfl

theorem tsAt_tables (s : State) (q : Cells Req) (k : Cells Launch) (l : Loc) : State.tsAt { s with reqs := q, launches := k } l = s.tsAt l := by
  cases l <;> rfl

theorem byteAt_tables (s : State) (q : Cells Req) (k : Cells Launch) (p : Loc) :
    State.byteAt { s with reqs := q, launches := k } p = s.byteAt p := by
  cases p <;> rfl

/-- A merge performs at its place: the write, and the tables of requests and launches (R116, R284). -/
theorem reqPerform_find {n : Nat} (hr : (s.core r.core).raceMode = 0) (hl : l.isSystem = false) (hfind : Cells.find? s.reqs i = some r)
    (f : Nat → Nat) : ∃ hs na q k x, s.reqPerform i r l n f =
      ({ (s.writeAt hs na r.pts l n (f (s.natAt l n))).1 with reqs := q, launches := k }, s.writeTs r.pts l) ∧
      Cells.find? q i = some x ∧ x.core = r.core ∧ x.gen = r.gen ∧ x.pushes = r.pushes := by
  obtain ⟨hs, na, hat⟩ := atomicFor_spec (w := s.reqWho r) (by rw [State.reqWho, core_whoAt]; exact hr) hl r.pts r.va n f
  obtain ⟨k, hk⟩ := updLaunch_spec (((s.writeAt hs na r.pts l n (f (s.natAt l n))).1.noteServed r).orderLater i r (s.writeTs r.pts l)) r.launch
    fun x => { x with doneTs := wmax x.doneTs (s.writeTs r.pts l) }
  have hreqs : (s.writeAt hs na r.pts l n (f (s.natAt l n))).1.reqs = s.reqs := by rw [accessTables_writeAt s hs na r.pts l n _]
  refine ⟨hs, na, _, k, _, by simp only [State.reqPerform, hat]; rw [hk]; rfl, ?_,
    servedReq_spec (s.writeAt hs na r.pts l n (f (s.natAt l n))).1 r r⟩
  rw [find?_orderLater, find?_noteServed, hreqs, hfind]
  rfl

theorem byteAt_granRead (hl : l.isSystem = false) (w : Who) (na : Bool) (base : Word) (va n : Nat) (p : Loc) :
    (s.granRead w na base (l, va, n)).1.byteAt p = s.byteAt p := by
  simp only [State.granRead, hl, Bool.false_eq_true, if_false]
  exact (onlyCaches_readAt _ _ _ _ _ _).bytes p

/-! #### The merge and the load (R146 to R148) -/

/-- A core whose load has performed at its home with value `v` and timestamp `ts`. -/
def loadedCore (k v : Nat) (ts : Word) (c : Core) : Core := { c.setPts .c (wmax (c.ptsOf .c) ts) with vec := c.vec.setAccum k (slotOf v) }

/-- The value of a load has come: its core takes it, and its pips follow (R147). -/
theorem getPerform_pushed {k v : Nat} {ts : Word} {x : Req}
    (hy : (s.noteServed r).granRead (s.reqWho r) false (s.core r.core).c.pts (l, r.va.toNat, 128) = (u, v, ts))
    (hcores : u.cores = s.cores) (hfind : Cells.find? u.reqs i = some x) (hx : x.core = r.core ∧ x.gen = r.gen ∧ x.pushes = r.pushes)
    (hgen : (s.core r.core).gen = r.gen) (hn : r.pushes.Nodup) (hroom : ∀ ch ∈ r.pushes, ((s.core r.core).pip ch).length < 16) :
    ∃ t, (u.updCore r.core (loadedCore k v ts)).Pushed r.core none r.pushes t ∧ s.getPerform i r k l = t.dropReq i := by
  obtain ⟨hxc, hxg, hxp⟩ := hx
  have hself := State.core_updCore_self (s := u) r.core (loadedCore k v ts)
  rw [State.core_congr hcores] at hself
  obtain ⟨t, ht, hpush⟩ := pushPending_pushed (s := u.updCore r.core (loadedCore k v ts)) (r := x) (by rw [hxc, hxg, hself]; exact hgen)
    (by rw [hxp]; exact hn) (fun ch hch => by rw [hxc, hself]; exact hroom ch (hxp ▸ hch)) i none
  rw [hxc, hxp] at ht
  have hu : Cells.find? (u.updCore r.core (loadedCore k v ts)).reqs i = some x := hfind
  have hget : s.getPerform i r k l = match Cells.find? (u.updCore r.core (loadedCore k v ts)).reqs i with
      | some r' => (u.updCore r.core (loadedCore k v ts)).pushPending i r' none
      | none => u.updCore r.core (loadedCore k v ts) := by
    simp only [State.getPerform, hy] <;> rfl
  exact ⟨t, ht, by rw [hget, hu, ← hpush]⟩

section Home

variable (hfind : Cells.find? s.reqs i = some r) (h : s.ReqServed i r l)

include hfind h

theorem homeAtomicPerform_merges {v : Accum} (hk : r.kind = .slot v) : ∃ hs na q k t, exec (.homeAtomicPerform i) s = .next (t.dropReq i) ∧
    State.Pushed { (s.writeAt hs na r.pts l 128 (slotBytes ((slotOf (s.natAt l 128)).merge v))).1 with reqs := q, launches := k }
      r.core (some (s.writeTs r.pts l)) r.pushes t := by
  obtain ⟨hbehind, hturn, hplace, hsys, hecc, hrace, hgen, hn, hroom⟩ := h
  obtain ⟨hs, na, q, k, x, hp, hq, hxc, hxg, hxp⟩ := reqPerform_find (n := 128) hrace hsys hfind fun m => slotBytes ((slotOf m).merge v)
  have hc : ∀ n, State.core { (s.writeAt hs na r.pts l 128 (slotBytes ((slotOf (s.natAt l 128)).merge v))).1 with reqs := q, launches := k } n =
      s.core n := State.core_congr (cores_writeAt s hs na r.pts l 128 _)
  obtain ⟨t, ht, hpush⟩ := pushPending_pushed (r := x) (by rw [hc, hxc, hxg]; exact hgen) (by rw [hxp]; exact hn)
    (fun ch hch => by rw [hc, hxc]; exact hroom ch (hxp ▸ hch)) i (some (s.writeTs r.pts l))
  rw [hxc, hxp] at ht
  refine ⟨hs, na, q, k, t, ?_, ht⟩
  have hready : s.reqReady i r = true := by simp only [State.reqReady, hk, hbehind, Bool.not_false]
  have hrefuses : s.homeRefuses { r with kind := .slot v, loc := l } = none := by
    simp only [State.homeRefuses, hecc, hsys, Bool.false_and, Bool.false_eq_true, if_false]
  show execHomeAtomicPerform i s = _
  simp only [execHomeAtomicPerform, hfind, hk, hready, hturn, hplace, hrefuses, Bool.not_true, Bool.or_self, Bool.false_eq_true, if_false, hp, hq]
  exact congrArg Host.Outcome.next hpush

/-- A merge performs: the slot is the sum, and its pips carry the timestamp of the write. -/
theorem slotMerged {v : Accum} (hk : r.kind = .slot v) : Completes (.homeAtomicPerform i) s (fun t =>
    t.natAt l 128 = slotBytes ((slotOf (s.natAt l 128)).merge v) % 256 ^ 128 ∧
    (∀ p, (∀ j, j < 128 → p.key ≠ (l.plus j).key) → t.byteAt p = s.byteAt p) ∧ Cells.find? t.reqs i = none ∧
    t.tsAt l = ⟨wmax r.pts ((s.tsAt l).rts + 1), wmax r.pts ((s.tsAt l).rts + 1)⟩ ∧
    (∀ n, n ≠ r.core → t.core n = s.core n) ∧ t.core r.core = { s.core r.core with pips := (t.core r.core).pips } ∧
    ∀ ch, (t.core r.core).pip ch = (s.core r.core).pip ch ++ if ch ∈ r.pushes then [(t.tsAt l).wts] else []) := by
  obtain ⟨hs, na, q, k, t, he, ht⟩ := homeAtomicPerform_merges hfind h hk
  obtain ⟨-, -, -, hsys, -⟩ := h
  have hc := State.core_congr (cores_writeAt s hs na r.pts l 128 (slotBytes ((slotOf (s.natAt l 128)).merge v)))
  have hb : ∀ p, (t.dropReq i).byteAt p =
      (s.writeAt hs na r.pts l 128 (slotBytes ((slotOf (s.natAt l 128)).merge v))).1.byteAt p := fun p =>
    (byteAt_pushed ht i p).1.trans (byteAt_tables _ q k p)
  have hts : (t.dropReq i).tsAt l = ⟨s.writeTs r.pts l, s.writeTs r.pts l⟩ :=
    (byteAt_pushed ht i l).2.trans ((tsAt_tables _ q k l).trans (tsAt_writeAt hsys hs na r.pts 128 _))
  obtain ⟨-, hothers, hcore, hpips⟩ := ht
  refine ⟨_, he, (natAt_congr (funext hb) l 128).trans (natAt_writeAt _ _ _ _ _ _ _),
    fun p hp => (hb p).trans (byteAt_writeAt_of_key_ne _ _ _ _ _ _ _ hp), Cells.find?_del_self _ _, hts,
    fun n hn => (hothers n hn).trans (hc n), ?_, fun ch => ?_⟩
  · exact hcore.trans (congrArg (fun c : Core => { c with pips := (t.core r.core).pips }) (hc r.core))
  · rw [hts]
    exact (hpips ch).trans (congrArg (fun c : Core => c.pip ch ++ _) (hc r.core))

/-- What a load performed at its home leaves: its core has the slot and the raised PTS. -/
theorem homeLoad_loads {k : Nat} (hk : r.kind = .get k) (hs : (s.core r.core).surrogate = false) (hcopy : ∀ h, s.copyOf l h = none) :
    ∃ u t : State, exec (.homeLoad i) s = .next (t.dropReq i) ∧ u.Pushed r.core none r.pushes t ∧ (∀ p, u.byteAt p = s.byteAt p) ∧
      (∀ n, n ≠ r.core → u.core n = s.core n) ∧
      u.core r.core = loadedCore k (s.natAt l 128) (wmax (s.core r.core).c.pts (s.tsAt l).wts) (s.core r.core) := by
  obtain ⟨hbehind, hturn, hplace, hsys, hecc, -, hgen, hn, hroom⟩ := h
  obtain ⟨hread, hcores⟩ := granRead_spec (s.noteServed r) (s.reqWho r) false (s.core r.core).c.pts (l, r.va.toNat, 128)
  have hbytes := byteAt_granRead (s := s.noteServed r) hsys (s.reqWho r) false (s.core r.core).c.pts r.va.toNat 128
  have hvalue : ((s.noteServed r).granRead (s.reqWho r) false (s.core r.core).c.pts (l, r.va.toNat, 128)).2 =
      (s.natAt l 128, wmax (s.core r.core).c.pts (s.tsAt l).wts) := by
    rw [granRead_uncopied (by rw [State.reqWho, buf_whoAt, hs, Bool.false_and]) hsys fun n => (copyOf_noteServed s r l n).trans (hcopy n),
      natAt_congr (funext (byteAt_noteServed s r)), tsAt_noteServed]
  have hreqs := hread.reqs
  generalize hy : (s.noteServed r).granRead (s.reqWho r) false (s.core r.core).c.pts (l, r.va.toNat, 128) = y
    at hreqs hcores hbytes hvalue
  obtain ⟨s1, v, ts⟩ := y
  rw [← Prod.mk.inj hvalue |>.1, ← Prod.mk.inj hvalue |>.2]
  obtain ⟨t, ht, hget⟩ := getPerform_pushed (k := k) hy hcores (by rw [hreqs, find?_noteServed, hfind]; rfl) (servedReq_spec s r r) hgen hn hroom
  refine ⟨_, t, ?_, ht, fun p => ?_, fun n hn => ?_, ?_⟩
  · have hready : s.reqReady i r = true := by simp only [State.reqReady, hk, hbehind, Bool.not_false]
    show execHomeLoad i s = _
    simp only [execHomeLoad, hfind, hk, hready, hturn, hplace, hecc, Bool.not_true, Bool.or_self, Bool.false_eq_true, if_false]
    exact congrArg Host.Outcome.next hget
  · exact (byteAt_updCore s1 _ _ p).trans ((hbytes p).trans (byteAt_noteServed s r p))
  · exact (State.core_updCore_ne _ (Ne.symm hn) _).trans (State.core_congr hcores n)
  · rw [State.core_updCore_self, State.core_congr hcores]
    rfl

/-- A load performs: the accumulator has the slot, and the pips carry the PTS of C. -/
theorem slotLoaded {k : Nat} (hk : r.kind = .get k) (hs : (s.core r.core).surrogate = false) (hcopy : ∀ h, s.copyOf l h = none) :
    Completes (.homeLoad i) s (fun t =>
      (∀ p, t.byteAt p = s.byteAt p) ∧ Cells.find? t.reqs i = none ∧ (∀ n, n ≠ r.core → t.core n = s.core n) ∧
      (∀ j, (t.core r.core).vec.accum j = if j = k then slotOf (s.natAt l 128) else (s.core r.core).vec.accum j) ∧
      (t.core r.core).c.pts = wmax (s.core r.core).c.pts (s.tsAt l).wts ∧
      ∀ ch, (t.core r.core).pip ch = (s.core r.core).pip ch ++ if ch ∈ r.pushes then [(t.core r.core).c.pts] else []) := by
  obtain ⟨u, t, he, ht, hbytes, hothers, hu⟩ := homeLoad_loads hfind h hk hs hcopy
  have hvec : (t.core r.core).vec = (s.core r.core).vec.setAccum k (slotOf (s.natAt l 128)) := by
    rw [ht.core, hu]
    rfl
  have hpts : (t.core r.core).c.pts = wmax (s.core r.core).c.pts (s.tsAt l).wts := by
    rw [ht.core, hu]
    exact wmax_wmax_left _ _
  refine ⟨_, he, fun p => (byteAt_pushed ht i p).1.trans (hbytes p), Cells.find?_del_self _ _,
    fun n hn => (ht.others n hn).trans (hothers n hn), fun j => ?_, hpts, fun ch => ?_⟩
  · show (t.core r.core).vec.accum j = _
    rw [hvec, Vec.accum_setAccum]
    exact ite_congr (propext eq_comm) (fun _ => rfl) fun _ => rfl
  · show (t.core r.core).pip ch = _ ++ if ch ∈ r.pushes then [(t.core r.core).c.pts] else []
    rw [ht.pips, hpts, hu]
    show _ ++ (if ch ∈ r.pushes then [wmax (s.core r.core).c.pts (wmax (s.core r.core).c.pts (s.tsAt l).wts)] else []) = _
    rw [wmax_wmax_left]
    rfl

end Home

/-- Settles O37: at C the words wait (`accum_waits`), perform (`accumWords_complete`, `xget_loaded`) or are sent (`sendSlot_done`); at
their home the operations sent perform by `slotMerged` and `slotLoaded`. -/
theorem accumulatorWords : Obligations.AccumulatorWords := by
  rintro s s0 q a b d m pip rfl
  refine ⟨fun h hb i hi => accum_waits h hb hi, fun h hidle => ?_, fun h hidle hr ha l hc hbusy => ?_,
    fun h hidle hr hs hb l hc => ?_,
    fun i r l hfind h => ⟨fun v hk => slotMerged hfind h hk, fun k hk hs hcopy => slotLoaded hfind h hk hs hcopy⟩⟩
  · obtain ⟨hclr, hmac, hsum, hrnd, hsave, hload⟩ := accumWords_complete h hidle a b d m
    refine ⟨hclr, hmac, hsum, hrnd, hsave, hload, fun l ha hc hbusy hr hs hl => ⟨_, exec_xget q a s, ?_⟩⟩
    obtain ⟨u, hu, he⟩ := xget_checked hidle hr ha hc
    exact xget_loaded h hs hl hu ((hu.toAccessed.slotBusy l).trans hbusy) he
  · obtain ⟨u, hu, he⟩ := xget_checked hidle hr ha hc
    exact ⟨_, exec_xget q a s, sendSlot_done h hu (he.trans (if_pos ((hu.toAccessed.slotBusy l).trans hbusy)))⟩
  · obtain ⟨u, floor, hu, he⟩ := xput_checked hidle hr hs hb hc
    exact ⟨_, exec_xput q b s, sendSlot_done h hu he⟩

end Sys2Proof.Machine
end

section
/-! ### Bits and fields of LS (R29, R36, R104) -/

namespace Sys2Proof.Machine

/-! #### Bits of numbers -/

/-- Bits `[r, r + b)` of a number are those of its low `n` bits. -/
theorem mod_pow_div_mod (x : Nat) {n r b : Nat} (h : r + b ≤ n) : x % 2 ^ n / 2 ^ r % 2 ^ b = x / 2 ^ r % 2 ^ b := by
  refine Nat.eq_of_testBit_eq fun j => ?_
  simp only [Nat.testBit_mod_two_pow, Nat.testBit_div_two_pow]
  by_cases hj : j < b
  · rw [decide_eq_true (show j + r < n by omega), Bool.true_and]
  · rw [decide_eq_false hj, Bool.false_and, Bool.false_and]

/-- An element of a packed list, least significant first (R29, R36). -/
theorem packElems_div_mod (b i : Nat) (l : List Nat) : packElems b l / 2 ^ (b * i) % 2 ^ b = l.getD i 0 % 2 ^ b := by
  induction l generalizing i with
  | nil => rw [packElems, Nat.zero_div]; rfl
  | cons x r ih =>
    cases i with
    | zero => rw [packElems, Nat.mul_zero, Nat.pow_zero, Nat.div_one, Nat.add_mul_mod_self_left, Nat.mod_mod]; rfl
    | succ i =>
      have hlow : x % 2 ^ b / 2 ^ b = 0 := Nat.div_eq_of_lt (Nat.mod_lt _ (Nat.two_pow_pos b))
      rw [packElems, Nat.mul_succ, Nat.add_comm (b * i), Nat.pow_add, ← Nat.div_div_eq_div_mul, Nat.add_mul_div_left _ _ (Nat.two_pow_pos b),
        hlow, Nat.zero_add, ih]
      rfl

theorem packElems_map_div_mod (b : Nat) {f : Nat → Nat} {i n : Nat} (hi : i < n) (hf : f i < 2 ^ b) :
    packElems b ((List.range n).map f) / 2 ^ (b * i) % 2 ^ b = f i := by
  rw [packElems_div_mod, List.getD_eq_getElem?_getD, List.getElem?_map, List.getElem?_range hi]
  exact Nat.mod_eq_of_lt hf

theorem pow_256 (n : Nat) : 256 ^ n = 2 ^ (8 * n) := (Nat.pow_mul 2 8 n).symm

/-! #### Parts of what LS holds -/

theorem Core.lsNat_lt (c : Core) (a n : Nat) : c.lsNat a n < 256 ^ n := by
  induction n generalizing a with
  | zero => exact Nat.one_pos
  | succ n ih =>
    have hb : (c.lsRead a).toNat < 256 := (c.lsRead a).isLt
    have := ih (a + 1)
    rw [Core.lsNat_succ, Nat.pow_succ]
    omega

theorem Core.lsNat_add (c : Core) (a m n : Nat) : c.lsNat a (m + n) = c.lsNat a m + 256 ^ m * c.lsNat (a + m) n := by
  induction m generalizing a with
  | zero => rw [Nat.zero_add, Nat.pow_zero, Nat.one_mul]; exact (Nat.zero_add _).symm
  | succ m ih =>
    rw [Nat.succ_add, Core.lsNat_succ, Core.lsNat_succ, ih, Nat.pow_succ', Nat.mul_add, ← Nat.mul_assoc, Nat.add_right_comm, Nat.add_assoc a, ← Nat.add_assoc _ (256 * _)]

/-- Bytes `[k, k + m)` of `n` bytes of LS. -/
theorem Core.lsNat_part (c : Core) (a : Nat) {k m n : Nat} (h : k + m ≤ n) : c.lsNat (a + k) m = c.lsNat a n / 256 ^ k % 256 ^ m := by
  obtain ⟨r, rfl⟩ := Nat.exists_eq_add_of_le h
  have hlow : c.lsNat a k / 256 ^ k = 0 := Nat.div_eq_of_lt (c.lsNat_lt a k)
  rw [Nat.add_assoc, Core.lsNat_add, Nat.add_mul_div_left _ _ (Nat.pow_pos (by omega)), hlow, Nat.zero_add, Core.lsNat_add,
    Nat.add_mul_mod_self_left, Nat.mod_eq_of_lt (c.lsNat_lt _ m)]

/-- Where every byte reads the same a number does. -/
theorem Core.lsNat_ext {c c' : Core} {a n : Nat} (h : ∀ j, j < n → c'.lsRead (a + j) = c.lsRead (a + j)) : c'.lsNat a n = c.lsNat a n := by
  induction n generalizing a with
  | zero => rfl
  | succ n ih =>
    have h0 : c'.lsRead a = c.lsRead a := h 0 n.succ_pos
    rw [Core.lsNat_succ, Core.lsNat_succ, h0, ih fun j hj => by rw [Nat.add_assoc, Nat.add_comm 1 j]; exact h (j + 1) (Nat.succ_lt_succ hj)]

/-- Bits `[r, r + b)` of the bytes from `q` on are those of the whole. -/
theorem Core.lsNat_bits (c : Core) (a : Nat) {q m n r b : Nat} (h : q + m ≤ n) (hb : r + b ≤ 8 * m) :
    c.lsNat (a + q) m / 2 ^ r % 2 ^ b = c.lsNat a n / 2 ^ (8 * q + r) % 2 ^ b := by
  rw [c.lsNat_part a h, pow_256, pow_256, mod_pow_div_mod _ hb, Nat.div_div_eq_div_mul, ← Nat.pow_add]

/-! #### Fields written in turn -/

/-- LS with fields (offset, bytes, value) of an area at `base` written in turn. -/
def Core.putFields (c : Core) (base : Nat) (l : List (Nat × Nat × Nat)) : Core :=
  l.foldl (fun (k : Core) (x : Nat × Nat × Nat) => k.lsPut (base + x.1) x.2.1 x.2.2) c

theorem Core.putFields_cons (c : Core) (base : Nat) (x : Nat × Nat × Nat) (l : List (Nat × Nat × Nat)) :
    c.putFields base (x :: l) = (c.lsPut (base + x.1) x.2.1 x.2.2).putFields base l := rfl

theorem Core.putFields_eq (c : Core) (base : Nat) (l : List (Nat × Nat × Nat)) : ∃ m, c.putFields base l = { c with ls := m } := by
  induction l generalizing c with
  | nil => exact ⟨c.ls, rfl⟩
  | cons x r ih =>
    obtain ⟨m, hm⟩ := ih (c.lsPut (base + x.1) x.2.1 x.2.2)
    exact ⟨m, by rw [Core.putFields_cons, hm]; rfl⟩

theorem Core.lsRead_putFields_out (c : Core) {base o : Nat} {l : List (Nat × Nat × Nat)}
    (h : ∀ x ∈ l, ∀ j, j < x.2.1 → (base + x.1 + j) % 1048576 ≠ o % 1048576) : (c.putFields base l).lsRead o = c.lsRead o := by
  induction l generalizing c with
  | nil => rfl
  | cons x r ih =>
    rw [Core.putFields_cons, ih _ fun y hy => h y (List.mem_cons_of_mem _ hy), Core.lsRead_lsPut_out _ _ (h x List.mem_cons_self)]

/-- Each of some fields in rising order reads as it was written. -/
theorem Core.lsNat_putFields (c : Core) (base : Nat) {l : List (Nat × Nat × Nat)} (hl : l.Pairwise fun x y => x.1 + x.2.1 ≤ y.1)
    (hend : ∀ x ∈ l, x.1 + x.2.1 ≤ 1048576) {x : Nat × Nat × Nat} (hx : x ∈ l) :
    (c.putFields base l).lsNat (base + x.1) x.2.1 = x.2.2 % 256 ^ x.2.1 := by
  induction l generalizing c with
  | nil => exact absurd hx List.not_mem_nil
  | cons y r ih =>
    obtain ⟨hy, hr⟩ := List.pairwise_cons.mp hl
    rw [Core.putFields_cons]
    obtain rfl | hxr := List.mem_cons.mp hx
    · have hx := hend x List.mem_cons_self
      rw [Core.lsNat_ext fun j hj => Core.lsRead_putFields_out _ fun z hz i hi => ?_, Core.lsNat_lsPut _ _ _ (by omega)]
      have hlt := hy z hz
      have hz := hend z (List.mem_cons_of_mem _ hz)
      omega
    · exact ih _ hr (fun z hz => hend z (List.mem_cons_of_mem _ hz)) hxr

end Sys2Proof.Machine
end

section
/-! ### The words that control the array (R163, R164, R171, R172, R184) -/

namespace Sys2Proof.Machine

variable {s : State} {pip : BitVec 4}

@[simp] theorem Core.arr_popAll (c : Core) (e : Eng) (l : List Nat) : (c.popAll e l).arr = c.arr := by
  obtain ⟨p, v, h⟩ := c.popAll_eq e l
  rw [h]
  cases e <;> rfl

/-! #### Words on fields of the array -/

/-- A word that changes fields of the array at once. -/
theorem arrResult_arrWord (h : s.EngReady .c pip) {f : Core → Arr → Arr} {g : Arr → Arr}
    (hf : f (s.cur.popAll .c (popsOf .c pip)) s.cur.arr = g s.cur.arr) : s.ArrResult pip g (arrWord pip f s) :=
  (engineDone_onCore h (f := fun c => { c with arr := f c c.arr }) rfl ⟨rfl, rfl⟩).congr (by rw [Core.arr_popAll, hf])

/-- What REOS does once its pips are popped (R171). -/
def reosOf (s : State) : Eff := if s.cur.arr.inflight.isEmpty then .done s false else .wait .other

theorem exec_reos (s : State) : exec (.reos pip) s = .next (engWord .c pip reosOf s) := rfl

theorem reos_done (h : s.EngReady .c pip) (he : s.cur.arr.inflight = []) : Completes (.reos pip) s (s.ArrResult pip id) := by
  refine ⟨_, exec_reos s, engineDone_engWord h (t := popPips .c (popsOf .c pip) s) ?_ (onlyCore_refl _) (cur_popPips _ _ _) ?_
    (engTrap_popPips h)⟩
  · rw [reosOf, cur_popPips, Core.arr_popAll, he]
    rfl
  · rw [cur_popPips]

theorem reos_waits (h : s.EngReady .c pip) (he : s.cur.arr.inflight ≠ []) : Completes (.reos pip) s (s.EngineWaits .c pip .other) := by
  refine ⟨_, exec_reos s, engWord_wait h ?_⟩
  rw [reosOf, cur_popPips, Core.arr_popAll, if_neg (mt List.isEmpty_iff.mp he)]

/-! #### RSAVE (R184, Table 07.13) -/

/-- What RSAVE does once its pips are popped. -/
def rsaveOf (a : BitVec 4) (s : State) : Eff :=
  if !s.cur.arr.inflight.isEmpty || s.cur.arr.loader.isSome then .wait .other
  else .done (s.onCore fun c => c.putFields (saveAddr (c.c.getA a)) s.cur.arr.areaFields) false

theorem exec_rsave (a : BitVec 4) (s : State) : exec (.rsave a pip) s = .next (engWord .c pip (rsaveOf a) s) := rfl

theorem rsave_waits (h : s.EngReady .c pip) (a : BitVec 4) (hb : s.cur.arr.inflight ≠ [] ∨ s.cur.arr.loader.isSome = true) :
    Completes (.rsave a pip) s (s.EngineWaits .c pip .other) := by
  refine ⟨_, exec_rsave a s, engWord_wait h ?_⟩
  rw [rsaveOf, cur_popPips, Core.arr_popAll, if_pos]
  simpa using hb

/-- The fields of the save area follow one another. -/
theorem areaFields_spec (r : Arr) : r.areaFields.Pairwise (fun x y => x.1 + x.2.1 ≤ y.1) ∧ ∀ x ∈ r.areaFields, x.1 + x.2.1 ≤ 4160 := by
  simp [Arr.areaFields]

/-- LS holds the save area of `r` at `base`. -/
theorem lsNat_area (c : Core) (base : Nat) (r : Arr) {x : Nat × Nat × Nat} (hx : x ∈ r.areaFields) :
    (c.putFields base r.areaFields).lsNat (base + x.1) x.2.1 = x.2.2 % 256 ^ x.2.1 := by
  obtain ⟨hp, hend⟩ := areaFields_spec r
  exact c.lsNat_putFields base hp (fun y hy => (hend y hy).trans (by omega)) hx

/-- The codes of a plane in its 2,016 bytes. -/
theorem codeBytes_part (p : Plane) {i : Nat} (hi : i < 1008) : p.codeBytes % 256 ^ 2016 / 256 ^ (2 * i) % 256 ^ 2 = p.code i := by
  have hlt : p.code i < 2 ^ 16 := (Cells.get 0 p.codes i).isLt
  rw [pow_256, pow_256, pow_256, mod_pow_div_mod _ (by omega), ← Nat.mul_assoc]
  exact packElems_map_div_mod 16 hi hlt

/-- The scale codes of a plane in its 48 bytes. -/
theorem scaleAt_scaleBytes (p : Plane) {i : Nat} (hi : i < 64) : scaleAt (p.scaleBytes % 256 ^ 48) i = p.scale i := by
  have hlt : p.scale i < 2 ^ 6 := (Cells.get 0 p.scales i).isLt
  rw [scaleAt, pow_256, show 64 = 2 ^ 6 from rfl, mod_pow_div_mod _ (by omega)]
  exact packElems_map_div_mod 6 hi hlt

/-- The control word of the save area (Table 07.13). -/
def Arr.control (r : Arr) : Nat := (if r.activeB then 1 else 0) + (if r.monitor then 2 else 0) + 2 ^ 16 * (r.laneMap.toNat / 128)

theorem Arr.control_lt (r : Arr) : r.control < 256 ^ 4 := by
  have hmap : r.laneMap.toNat < 2 ^ 20 := r.laneMap.isLt
  unfold Arr.control
  split <;> split <;> omega

/-- LS holds the array at `base`, field by field (Table 07.13). -/
def Core.HoldsArr (c : Core) (base : Nat) (r : Arr) : Prop :=
  (∀ i, i < 1008 → c.lsNat (base + 2 * i) 2 = r.planeA.code i ∧ c.lsNat (base + 2016 + 2 * i) 2 = r.planeB.code i) ∧
  (∀ i, i < 64 → scaleAt (c.lsNat (base + 4032) 48) i = r.planeA.scale i ∧ scaleAt (c.lsNat (base + 4080) 48) i = r.planeB.scale i) ∧
  c.lsNat (base + 4128) 2 = r.planeA.bitmap.toNat ∧ c.lsNat (base + 4130) 2 = r.planeB.bitmap.toNat ∧
  c.lsNat (base + 4132) 4 = r.control ∧ c.lsNat (base + 4136) 4 = r.ndrift.toNat ∧ c.lsNat (base + 4140) 4 = r.ndcnt.toNat ∧
  c.lsNat (base + 4144) 8 = r.sws0.toNat ∧ c.lsNat (base + 4152) 8 = r.sws1.toNat

theorem holdsArr_area (c : Core) (base : Nat) (r : Arr) : (c.putFields base r.areaFields).HoldsArr base r := by
  have hfield : ∀ {o n v : Nat}, (o, n, v) ∈ r.areaFields → (c.putFields base r.areaFields).lsNat (base + o) n = v % 256 ^ n :=
    fun hx => lsNat_area c base r hx
  have hval : ∀ {o n v : Nat}, (o, n, v) ∈ r.areaFields → v < 256 ^ n → (c.putFields base r.areaFields).lsNat (base + o) n = v :=
    fun hx hv => (hfield hx).trans (Nat.mod_eq_of_lt hv)
  have hcode : ∀ {o i : Nat} {p : Plane}, (o, 2016, p.codeBytes) ∈ r.areaFields → i < 1008 →
      (c.putFields base r.areaFields).lsNat (base + o + 2 * i) 2 = p.code i := fun hx hi => by
    rw [Core.lsNat_part _ _ (show _ + _ ≤ 2016 by omega), hfield hx, codeBytes_part _ hi]
  have hscale : ∀ {o i : Nat} {p : Plane}, (o, 48, p.scaleBytes) ∈ r.areaFields → i < 64 →
      scaleAt ((c.putFields base r.areaFields).lsNat (base + o) 48) i = p.scale i := fun hx hi => by
    rw [hfield hx, scaleAt_scaleBytes _ hi]
  refine ⟨fun i hi => ⟨hcode (o := 0) ?_ hi, hcode ?_ hi⟩, fun i hi => ⟨hscale ?_ hi, hscale ?_ hi⟩, hval ?_ r.planeA.bitmap.isLt,
    hval ?_ r.planeB.bitmap.isLt, hval ?_ r.control_lt, hval ?_ r.ndrift.isLt, hval ?_ r.ndcnt.isLt, hval ?_ r.sws0.isLt, hval ?_ r.sws1.isLt⟩
  all_goals simp [Arr.areaFields, Arr.control]

/-- RSAVE with the array at rest writes its area alone. -/
theorem rsave_saves (h : s.EngReady .c pip) (a : BitVec 4) (he : s.cur.arr.inflight = []) (hl : s.cur.arr.loader = none) :
    Completes (.rsave a pip) s (fun t => s.EngineDone .c pip (fun c => { c with ls := t.cur.ls }) t ∧
      t.cur.HoldsArr (saveAddr (s.cur.c.getA a)) s.cur.arr ∧
      ∀ o, o < 2 ^ 20 → (∀ j, j < 4160 → (saveAddr (s.cur.c.getA a) + j) % 2 ^ 20 ≠ o) → t.cur.lsRead o = s.cur.lsRead o) := by
  refine ⟨_, exec_rsave a s, ?_⟩
  have hb : rsaveOf a (popPips .c (popsOf .c pip) s) = .done ((popPips .c (popsOf .c pip) s).onCore fun c =>
      c.putFields (saveAddr (c.c.getA a)) s.cur.arr.areaFields) false := by
    rw [rsaveOf, cur_popPips, Core.arr_popAll, he, hl]
    rfl
  obtain ⟨m, hm⟩ := (s.cur.popAll .c (popsOf .c pip)).putFields_eq (saveAddr (s.cur.c.getA a)) s.cur.arr.areaFields
  have hd := engineDone_onCore h hb (by rw [Core.getA_popAll, hm]; exact ⟨rfl, rfl⟩)
  have hls := hd.vec_ls.2
  rw [Core.getA_popAll] at hls
  have hsaved := holdsArr_area (s.cur.popAll .c (popsOf .c pip)) (saveAddr (s.cur.c.getA a)) s.cur.arr
  refine ⟨hd.ls ⟨m, by rw [Core.getA_popAll, hm]⟩, ?_, fun o ho hout => ?_⟩
  · simpa only [Core.HoldsArr, lsNat_congr hls] using hsaved
  · rw [lsRead_congr hls, Core.lsRead_putFields_out _ fun x hx j hj => ?_, lsRead_congr (Core.ls_popAll _ _ _)]
    have hend := (areaFields_spec s.cur.arr).2 x hx
    have hne := hout (x.1 + j) (by omega)
    omega

/-- Settles O39: the words on fields of the array are done at once (`arrResult_arrWord`), REOS and RSAVE wait for the array
(`reos_waits`, `rsave_waits`), and RSAVE writes the area of Table 07.13 field by field (`rsave_saves`). -/
theorem arrayControl : Obligations.ArrayControl := by
  rintro s l a pip save h rfl
  refine ⟨⟨_, rfl, arrResult_arrWord h (by rw [Core.getA_popAll]; rfl)⟩, ⟨_, rfl, arrResult_arrWord h rfl⟩, ⟨_, rfl, arrResult_arrWord h rfl⟩,
    ⟨_, rfl, arrResult_arrWord h rfl⟩, ⟨_, rfl, arrResult_arrWord h rfl⟩, ⟨_, rfl, arrResult_arrWord h rfl⟩, reos_done h, reos_waits h,
    rsave_waits h a, fun he hl => ?_⟩
  obtain ⟨t, ht, hd, hsaved, hout⟩ := rsave_saves h a he hl
  obtain ⟨hcodes, hscales, hbitA, hbitB, hctl, hdrift, hcnt, hsws0, hsws1⟩ := hsaved
  exact ⟨t, ht, hd, hcodes, hscales, hbitA, hbitB, hctl, hdrift, hcnt, hsws0, hsws1, hout⟩

end Sys2Proof.Machine
end

section
/-! ### What a loader writes into a plane (R45, R152 to R154, R160 to R162) -/

namespace Sys2Proof.Machine

/-! #### Planes set cell by cell -/

@[simp] theorem Plane.scale_setScales (p : Plane) (f : Nat → Nat) {i : Nat} (h : i < 64) : (p.setScales f).scale i = f i % 64 := by
  rw [Plane.scale, Plane.setScales, Cells.get_setRange, if_pos (by omega), Nat.sub_zero, BitVec.toNat_ofNat]

@[simp] theorem Plane.code_setCodes (p : Plane) (f : Nat → Nat) {i : Nat} (h : i < 1008) : (p.setCodes f).code i = f i % 65536 := by
  rw [Plane.code, Plane.setCodes, Cells.get_setRange, if_pos (by omega), Nat.sub_zero, BitVec.toNat_ofNat]

@[simp] theorem Plane.code_setScales (p : Plane) (f : Nat → Nat) (i : Nat) : (p.setScales f).code i = p.code i := rfl

/-! #### The bitmap of the blocks that are zero -/

/-- The blocks of some cells with a code that is not 0, as bits. -/
def busyBlocks (code : Nat → Nat) (l : List Nat) : Nat := l.foldl (fun b i => if code i % 65536 = 0 then b else b ||| 2 ^ cellBlock i) 0

theorem testBit_busyBlocks (code : Nat → Nat) (l : List Nat) (b : Nat) :
    (busyBlocks code l).testBit b = true ↔ ∃ i ∈ l, cellBlock i = b ∧ code i % 65536 ≠ 0 := by
  suffices ∀ n, (l.foldl (fun b i => if code i % 65536 = 0 then b else b ||| 2 ^ cellBlock i) n).testBit b = true ↔
      n.testBit b = true ∨ ∃ i ∈ l, cellBlock i = b ∧ code i % 65536 ≠ 0 from (this 0).trans (by simp)
  induction l with
  | nil => simp
  | cons i r ih =>
    intro n
    rw [List.foldl_cons, ih]
    by_cases hz : code i % 65536 = 0
    · simp [hz]
    · simp [hz, Nat.testBit_two_pow, or_assoc]

theorem Plane.loadCodes_whole (p : Plane) (code : Nat → Nat) :
    p.loadCodes false code = { p.setCodes code with bitmap := ~~~(BitVec.ofNat 16 (busyBlocks code (List.range 1008))) } := rfl

theorem Plane.code_loadCodes_whole (p : Plane) (code : Nat → Nat) {i : Nat} (hi : i < 1008) : (p.loadCodes false code).code i = code i % 65536 := by
  rw [Plane.loadCodes_whole, ← p.code_setCodes code hi]
  unfold Plane.code
  rfl

/-- A plane loaded whole: bit b of its bitmap says that every cell of block b has code 0 (R160). -/
theorem Plane.bitmap_loadCodes (p : Plane) (code : Nat → Nat) {b : Nat} (hb : b < 16) :
    (p.loadCodes false code).bitmap.getLsbD b = true ↔ ∀ i, i < 1008 → cellBlock i = b → (p.loadCodes false code).code i = 0 := by
  have hbit : (p.loadCodes false code).bitmap.getLsbD b = !(busyBlocks code (List.range 1008)).testBit b := by
    rw [Plane.loadCodes_whole, BitVec.getLsbD_not,
      BitVec.getLsbD_ofNat, decide_eq_true hb, Bool.true_and, Bool.true_and]
  have hcode : ∀ i, i < 1008 → (p.loadCodes false code).code i = code i % 65536 := fun i hi => p.code_loadCodes_whole code hi
  rw [hbit, Bool.not_eq_true', ← Bool.not_eq_true, testBit_busyBlocks]
  constructor
  · intro h i hi hib
    by_contra hne
    exact h ⟨i, List.mem_range.mpr hi, hib, hcode i hi ▸ hne⟩
  · rintro h ⟨i, hi, hib, hne⟩
    exact hne (hcode i (List.mem_range.mp hi) ▸ h i (List.mem_range.mp hi) hib)

/-! #### Compact codes -/

/-- Cells set in turn: entry (k, i) sets cell i to `v k`. -/
def setCells (v : Nat → BitVec 16) (l : List (Nat × Nat)) (a : Cells (BitVec 16)) : Cells (BitVec 16) :=
  l.foldl (fun a x => Cells.set 0 a x.2 (v x.1)) a

theorem get_setCells_out (v : Nat → BitVec 16) {l : List (Nat × Nat)} (a : Cells (BitVec 16)) {i : Nat} (h : ∀ x ∈ l, x.2 ≠ i) :
    Cells.get 0 (setCells v l a) i = Cells.get 0 a i := by
  induction l generalizing a with
  | nil => rfl
  | cons x r ih =>
    obtain ⟨hx, hr⟩ := List.forall_mem_cons.mp h
    exact (ih _ hr).trans (Cells.get_set_ne _ _ hx _)

theorem get_setCells (v : Nat → BitVec 16) {l : List (Nat × Nat)} (hn : (l.map Prod.snd).Nodup) (a : Cells (BitVec 16)) {x : Nat × Nat}
    (hx : x ∈ l) : Cells.get 0 (setCells v l a) x.2 = v x.1 := by
  induction l generalizing a with
  | nil => exact absurd hx List.not_mem_nil
  | cons y r ih =>
    obtain ⟨hy, hr⟩ := List.nodup_cons.mp hn
    obtain rfl | hxr := List.mem_cons.mp hx
    · exact (get_setCells_out v _ fun z hz he => hy (List.mem_map.mpr ⟨z, hz, he⟩)).trans (Cells.get_set_self _ _ _ _)
    · exact ih hr _ hxr

theorem mem_openCells {bitmap : BitVec 16} {i : Nat} : i ∈ openCells bitmap ↔ i < 1008 ∧ bitmap.getLsbD (cellBlock i) = false := by
  simp [openCells]

theorem Plane.loadCodes_compact (p : Plane) (code : Nat → Nat) : p.loadCodes true code =
    { p with
      codes := setCells (fun k => BitVec.ofNat 16 (code k)) ((List.range (openCells p.bitmap).length).zip (openCells p.bitmap)) [] } := rfl

/-- A compact load sets the cells of the blocks that the bitmap leaves clear, in pass order (R160). -/
theorem Plane.code_loadCodes_open (p : Plane) (code : Nat → Nat) {k i : Nat} (h : (openCells p.bitmap)[k]? = some i) :
    (p.loadCodes true code).code i = code k % 65536 := by
  have hn : (((List.range (openCells p.bitmap).length).zip (openCells p.bitmap)).map Prod.snd).Nodup := by
    rw [List.map_snd_zip (by rw [List.length_range])]
    exact List.nodup_range.filter _
  have hk : k < (openCells p.bitmap).length := (List.getElem?_eq_some_iff.mp h).1
  have hx : (k, i) ∈ (List.range (openCells p.bitmap).length).zip (openCells p.bitmap) :=
    List.mem_iff_getElem?.mpr ⟨k, List.getElem?_zip_eq_some.mpr ⟨List.getElem?_range hk, h⟩⟩
  have hget := get_setCells (fun k => BitVec.ofNat 16 (code k)) hn [] hx
  rw [Plane.loadCodes_compact, Plane.code, hget, BitVec.toNat_ofNat]

theorem Plane.code_loadCodes_closed (p : Plane) (code : Nat → Nat) {i : Nat} (h : p.bitmap.getLsbD (cellBlock i) = true) :
    (p.loadCodes true code).code i = 0 := by
  have hout : ∀ x ∈ (List.range (openCells p.bitmap).length).zip (openCells p.bitmap), x.2 ≠ i := fun x hx he => by
    have hopen := (mem_openCells.mp (he ▸ (List.of_mem_zip hx).2)).2
    rw [h] at hopen
    exact Bool.noConfusion hopen
  rw [Plane.loadCodes_compact, Plane.code, get_setCells_out _ [] hout]
  rfl

theorem Plane.scales_loadCodes (p : Plane) (compact : Bool) (code : Nat → Nat) : (p.loadCodes compact code).scales = p.scales := by
  cases compact
  · rw [Plane.loadCodes_whole]
    rfl
  · rw [Plane.loadCodes_compact]

theorem Plane.bitmap_loadCodes_compact (p : Plane) (code : Nat → Nat) : (p.loadCodes true code).bitmap = p.bitmap := by
  rw [Plane.loadCodes_compact]

end Sys2Proof.Machine
end

section
/-! ### The loaders (R157, R160 to R162, R184) -/

namespace Sys2Proof.Machine

variable {s t : State} {pip : BitVec 4}

/-! #### A load and the vectors ahead of it (R157) -/

/-- How many of the first `n` come up to the last that `p` holds of. -/
def upToLast (p : Nat → Bool) (n : Nat) : Nat := (List.range n).foldl (fun m i => if p i then i + 1 else m) 0

theorem upToLast_succ (p : Nat → Bool) (n : Nat) : upToLast p (n + 1) = if p n then n + 1 else upToLast p n := by
  rw [upToLast, List.range_succ, List.foldl_append]
  rfl

theorem upToLast_spec (p : Nat → Bool) (n : Nat) : upToLast p n ≤ n ∧ ∀ i, i < n → p i = true → i < upToLast p n := by
  induction n with
  | zero => exact ⟨Nat.le_refl 0, fun i hi => absurd hi (Nat.not_lt_zero i)⟩
  | succ n ih =>
    obtain ⟨hle, hlast⟩ := ih
    rw [upToLast_succ]
    by_cases hp : p n = true
    · rw [if_pos hp]
      exact ⟨Nat.le_refl _, fun i hi _ => hi⟩
    · rw [if_neg hp]
      refine ⟨by omega, fun i hi hpi => hlast i (Nat.lt_of_le_of_ne (Nat.le_of_lt_succ hi) ?_) hpi⟩
      rintro rfl
      exact hp hpi

/-- How many vectors in flight a load of some planes lets leave before it. -/
def Arr.ahead (x : Arr) (planes : List Bool) : Nat :=
  upToLast (fun i => (x.inflight[i]?.map fun v => planes.contains v.planeB).getD false) x.inflight.length

theorem Arr.ahead_le (x : Arr) (planes : List Bool) : x.ahead planes ≤ x.inflight.length := (upToLast_spec _ _).1

theorem Arr.lt_ahead {x : Arr} {l : Bool} {i : Nat} {v : AVec} (hi : x.inflight[i]? = some v) (hv : v.planeB = l) : i < x.ahead [l] := by
  refine (upToLast_spec _ _).2 i (List.getElem?_eq_some_iff.mp hi).1 ?_
  rw [hi, Option.map_some, hv, Option.getD_some, List.contains_cons, beq_self_eq_true, Bool.true_or]

/-- What a loader does once its pips are popped. -/
def loadOf (pip : BitVec 4) (planes : List Bool) (f : Core → Arr → Arr) (s : State) : Eff :=
  match s.cur.arr.loader with
  | some _ => .wait .other
  | none => .done (s.onCore fun c => { c with arr := { f c c.arr with loader := some ⟨pushesOf .c pip, s.cur.arr.ahead planes⟩ } }) true

theorem loadWord_eq (pip : BitVec 4) (planes : List Bool) (f : Core → Arr → Arr) (s : State) :
    loadWord pip (fun _ => planes) f s = engWord .c pip (loadOf pip planes f) s := rfl

section Word

variable (h : s.EngReady .c (pip &&& 12))

include h

/-- A word whose pips follow later and that waits has popped its pips alone. -/
theorem engWord_later_wait {body : State → Eff} {w : EWait} (hb : body (popPips .c (popsOf .c pip) s) = .wait w) :
    s.EngineWaits .c pip w (engWord .c pip body s) := by
  obtain ⟨hpops, -⟩ := pops_only pip
  have hw := engWord_wait h (body := body) (by rw [hpops]; exact hb)
  have htake := takePips_of_ready h
  have heq : engWord .c pip body s = engWord .c (pip &&& 12) body s := by
    rw [Engine.owed, hpops] at htake
    simp only [engWord, Engine.owed, hpops, htake, hb]
  rw [heq]
  simpa only [State.EngineWaits, hpops] using hw

theorem loadWord_waits (hl : s.cur.arr.loader.isSome = true) (planes : List Bool) (f : Core → Arr → Arr) :
    s.EngineWaits .c pip .other (loadWord pip (fun _ => planes) f s) := by
  obtain ⟨x, hx⟩ := Option.isSome_iff_exists.mp hl
  refine engWord_later_wait h (body := loadOf pip planes f) ?_
  rw [loadOf, cur_popPips, Core.arr_popAll, hx]

variable (hl : s.cur.arr.loader = none)

include hl

/-- With no load in progress a loader changes the array, and its pips wait. -/
theorem loadWord_done (planes : List Bool) (f : Core → Arr → Arr) :
    s.EngineDone .c (pip &&& 12) (fun c => { c with arr := { f c c.arr with loader := some ⟨pushesOf .c pip, s.cur.arr.ahead planes⟩ } })
      (loadWord pip (fun _ => planes) f s) := by
  rw [loadWord_eq, engWord_later h (body := loadOf pip planes f)
    (t := (popPips .c (popsOf .c pip) s).onCore fun c =>
      { c with arr := { f c c.arr with loader := some ⟨pushesOf .c pip, s.cur.arr.ahead planes⟩ } })]
  · exact engineDone_onCore h (by rw [(pops_only pip).1]) ⟨rfl, rfl⟩
  · rw [loadOf, cur_popPips, Core.arr_popAll, hl]

/-- A loader of one plane. -/
theorem planeLoaded_loadWord {l : Bool} {f : Core → Arr → Arr} {p : Plane}
    (hf : f (s.cur.popAll .c (popsOf .c pip)) s.cur.arr = s.cur.arr.setPlane l p) :
    s.PlaneLoaded pip l p (loadWord pip (fun _ => [l]) f s) := by
  obtain ⟨ho, hc⟩ := (loadWord_done h hl [l] f).congr
    (g := fun c => { c with arr := { c.arr.setPlane l p with loader := some ⟨pushesOf .c pip, s.cur.arr.ahead [l]⟩ } })
    (by rw [(pops_only pip).1, Core.arr_popAll, hf])
  exact ⟨ho, _, hc, s.cur.arr.ahead_le [l], fun _ _ => Arr.lt_ahead⟩

end Word

/-! #### ANGL (R160) -/

theorem readCode_congr {c c' : Core} (h : c'.ls = c.ls) (base : Nat) (z : Bool) : readCode c' base z = readCode c base z := by
  funext i
  simp only [readCode, lsRead_congr h, lsNat_congr h]

/-- The plane that ANGL makes of `old`. -/
def Core.anglPlane (c : Core) (old : Plane) (base n : Nat) (x y z : BitVec 1) : Plane :=
  if x = 1 then (old.loadCodes (y == 1) (readCode c base (z == 1))).setScales (scaleAt (c.lsNat (base + codesSize (z == 1) n) 48))
  else old.loadCodes (y == 1) (readCode c base (z == 1))

theorem Core.anglPlane_congr {c c' : Core} (h : c'.ls = c.ls) (old : Plane) (base n : Nat) (x y z : BitVec 1) :
    c'.anglPlane old base n x y z = c.anglPlane old base n x y z := by
  simp only [Core.anglPlane, readCode_congr h, lsNat_congr h]

/-- The address of the codes of ANGL (R159, R160). -/
def anglBase (v : Word) (z : BitVec 1) : Nat := if z = 1 then v.toNat % 1048576 else v.toNat % 1048576 / 2 * 2

/-- How many codes ANGL reads. -/
def Plane.codesRead (p : Plane) (y : BitVec 1) : Nat := if y = 1 then (openCells p.bitmap).length else 1008

theorem exec_angl (l : BitVec 1) (a : BitVec 4) (x y z : BitVec 1) (s : State) : exec (.angl l a x y z pip) s =
    .next (loadWord pip (fun _ => [l == 1]) (fun c r => r.setPlane (l == 1)
      (c.anglPlane (r.plane (l == 1)) (anglBase (c.c.getA a) z) ((r.plane (l == 1)).codesRead y) x y z)) s) := by
  have hbase : ∀ v : Word, anglBase v z = if (z == 1) = true then v.toNat % 1048576 else v.toNat % 1048576 / 2 * 2 := fun v =>
    ite_congr (propext beq_iff_eq.symm) (fun _ => rfl) fun _ => rfl
  simp only [hbase]
  rfl

section Plane

variable (c : Core) (old : Plane) (base n : Nat) (x y z : BitVec 1)

theorem Core.code_anglPlane (i : Nat) :
    (c.anglPlane old base n x y z).code i = (old.loadCodes (y == 1) (readCode c base (z == 1))).code i := by
  unfold Core.anglPlane
  split <;> rfl

theorem Core.bitmap_anglPlane : (c.anglPlane old base n x y z).bitmap = (old.loadCodes (y == 1) (readCode c base (z == 1))).bitmap := by
  unfold Core.anglPlane
  split <;> rfl

theorem Core.scale_anglPlane {i : Nat} (hi : i < 64) : (c.anglPlane old base n x y z).scale i =
    if x = 1 then scaleAt (c.lsNat (base + codesSize (z == 1) n) 48) i else old.scale i := by
  unfold Core.anglPlane
  split
  · rw [Plane.scale_setScales _ _ hi, scaleAt, Nat.mod_mod]
  · rw [Plane.scale, Plane.scales_loadCodes]
    rfl

end Plane

theorem angl_completes (h : s.EngReady .c (pip &&& 12)) (hl : s.cur.arr.loader = none) (l : BitVec 1) (a : BitVec 4) (x y z : BitVec 1)
    {old : Plane} {base n : Nat} (hold : old = s.cur.arr.plane (l == 1)) (hbase : base = anglBase (s.cur.c.getA a) z)
    (hn : n = old.codesRead y) :
    Completes (.angl l a x y z pip) s (fun t => ∃ p, s.PlaneLoaded pip (l == 1) p t ∧
      (∀ i, i < 64 → p.scale i = if x = 1 then scaleAt (s.cur.lsNat (base + codesSize (z == 1) n) 48) i else old.scale i) ∧
      (y = 0 → (∀ i, i < 1008 → p.code i = readCode s.cur base (z == 1) i % 65536) ∧
        ∀ b, b < 16 → (p.bitmap.getLsbD b = true ↔ ∀ i, i < 1008 → cellBlock i = b → p.code i = 0)) ∧
      (y = 1 → p.bitmap = old.bitmap ∧ (∀ i, i < 1008 → old.bitmap.getLsbD (cellBlock i) = true → p.code i = 0) ∧
        ∀ k i, (openCells old.bitmap)[k]? = some i → p.code i = readCode s.cur base (z == 1) k % 65536)) := by
  subst hold hbase hn
  refine ⟨_, exec_angl l a x y z s, _, planeLoaded_loadWord h hl ?_, fun i hi => Core.scale_anglPlane s.cur _ _ _ x y z hi, ?_, ?_⟩
  · rw [Core.getA_popAll, Core.anglPlane_congr (Core.ls_popAll _ _ _)]
  · rintro rfl
    have hwhole : ((0 : BitVec 1) == 1) = false := rfl
    simp only [Core.code_anglPlane, Core.bitmap_anglPlane, hwhole]
    exact ⟨fun i hi => Plane.code_loadCodes_whole _ _ hi, fun b hb => Plane.bitmap_loadCodes _ _ hb⟩
  · rintro rfl
    have hcompact : ((1 : BitVec 1) == 1) = true := rfl
    simp only [Core.code_anglPlane, Core.bitmap_anglPlane, hcompact]
    exact ⟨Plane.bitmap_loadCodes_compact _ _, fun i _ => Plane.code_loadCodes_closed _ _, fun k i => Plane.code_loadCodes_open _ _⟩

/-! #### RLOAD (R184, Table 07.13) -/

/-- The array with the save area at `b` loaded. -/
def Core.loadedArr (c : Core) (r : Arr) (b : Nat) : Arr := { r with
  planeA := c.savedPlane b (b + 4032) (b + 4128), planeB := c.savedPlane (b + 2016) (b + 4080) (b + 4130),
  activeB := c.lsNat (b + 4132) 4 % 2 == 1, monitor := c.lsNat (b + 4132) 4 / 2 % 2 == 1,
  laneMap := BitVec.ofNat 20 (c.lsNat (b + 4132) 4 / 2 ^ 16 % 8192 * 128), ndrift := BitVec.ofNat 32 (c.lsNat (b + 4136) 4),
  ndcnt := (BitVec.ofNat 64 (c.lsNat (b + 4140) 4)).setWidth 32, sws0 := BitVec.ofNat 64 (c.lsNat (b + 4144) 8) &&& 0xC000003FFFFFFFFF,
  sws1 := BitVec.ofNat 64 (c.lsNat (b + 4152) 8) &&& 0x000000FFFFFFFFFF }

theorem exec_rload (a : BitVec 4) (s : State) : exec (.rload a pip) s =
    .next (loadWord pip (fun _ => [false, true]) (fun c r => c.loadedArr r (saveAddr (c.c.getA a))) s) := rfl

theorem Core.loadedArr_congr {c c' : Core} (h : c'.ls = c.ls) (r : Arr) (b : Nat) : c'.loadedArr r b = c.loadedArr r b := by
  simp only [Core.loadedArr, Core.savedPlane, lsNat_congr h]

/-- The lane map has the high half of the control word. -/
theorem Core.lsNat_laneMap (c : Core) (b : Nat) : c.lsNat (b + 4132) 4 / 2 ^ 16 % 8192 = c.lsNat (b + 4134) 2 % 8192 := by
  have hpart := c.lsNat_part (b + 4132) (k := 2) (m := 2) (n := 4) (by omega)
  rw [show b + 4134 = b + 4132 + 2 from rfl, hpart]
  omega

theorem and_low40 (n : Nat) : BitVec.ofNat 64 n &&& 0x000000FFFFFFFFFF = BitVec.ofNat 64 (n % 2 ^ 40) := by
  refine BitVec.eq_of_toNat_eq ?_
  rw [BitVec.toNat_and, BitVec.toNat_ofNat, BitVec.toNat_ofNat, show (0x000000FFFFFFFFFF : BitVec 64).toNat = 2 ^ 40 - 1 from rfl,
    Nat.and_two_pow_sub_one_eq_mod]
  omega

/-- The loaded array field by field. -/
theorem Core.loadedArr_eq (c : Core) (r : Arr) (b : Nat) : c.loadedArr r b = { r with
    planeA := c.savedPlane b (b + 4032) (b + 4128), planeB := c.savedPlane (b + 2016) (b + 4080) (b + 4130),
    activeB := c.lsNat (b + 4132) 4 % 2 == 1, monitor := c.lsNat (b + 4132) 4 / 2 % 2 == 1,
    laneMap := BitVec.ofNat 20 (c.lsNat (b + 4134) 2 % 8192 * 128), ndrift := BitVec.ofNat 32 (c.lsNat (b + 4136) 4),
    ndcnt := BitVec.ofNat 32 (c.lsNat (b + 4140) 4), sws0 := BitVec.ofNat 64 (c.lsNat (b + 4144) 8) &&& 0xC000003FFFFFFFFF,
    sws1 := BitVec.ofNat 64 (c.lsNat (b + 4152) 8 % 2 ^ 40) } := by
  have hcnt : ∀ n, (BitVec.ofNat 64 n).setWidth 32 = BitVec.ofNat 32 n := fun n => BitVec.setWidth_ofNat_of_le (by omega) n
  rw [Core.loadedArr, Core.lsNat_laneMap, and_low40, hcnt]

theorem Core.code_savedPlane (c : Core) (a b d : Nat) {i : Nat} (hi : i < 1008) : (c.savedPlane a b d).code i = c.lsNat (a + 2 * i) 2 :=
  ((Plane.code_setScales _ _ i).trans (Plane.code_setCodes _ _ hi)).trans (Nat.mod_eq_of_lt (c.lsNat_lt (a + 2 * i) 2))

theorem Core.scale_savedPlane (c : Core) (a b d : Nat) {i : Nat} (hi : i < 64) : (c.savedPlane a b d).scale i = scaleAt (c.lsNat b 48) i := by
  rw [Core.savedPlane, Plane.scale_setScales _ _ hi, scaleAt, Nat.mod_mod]

theorem Core.bitmap_savedPlane (c : Core) (a b d : Nat) : (c.savedPlane a b d).bitmap.toNat = c.lsNat d 2 :=
  (BitVec.toNat_ofNat ..).trans (Nat.mod_eq_of_lt (c.lsNat_lt d 2))

theorem State.EngineDone.arr {e : Eng} {f : Core → Core} (h : s.EngineDone e pip f t) : t.cur.arr = (f (s.cur.popAll e (popsOf e pip))).arr := by
  obtain ⟨p, hp⟩ := (f (s.cur.popAll e (popsOf e pip))).pushAll_eq e (pushesOf e pip)
  rw [h.2, Core.after, hp]
  cases e <;> rfl

theorem rload_completes (h : s.EngReady .c (pip &&& 12)) (hl : s.cur.arr.loader = none) (a : BitVec 4) {save : Nat}
    (hsave : save = saveAddr (s.cur.c.getA a)) :
    Completes (.rload a pip) s (fun t => s.OnlyCore t ∧
      (∃ ahead, t.cur = s.cur.after .c (pip &&& 12) fun c => { c with arr := { c.arr with
        planeA := t.cur.arr.planeA, planeB := t.cur.arr.planeB, activeB := s.cur.lsNat (save + 4132) 4 % 2 == 1,
        monitor := s.cur.lsNat (save + 4132) 4 / 2 % 2 == 1, laneMap := BitVec.ofNat 20 (s.cur.lsNat (save + 4134) 2 % 8192 * 128),
        ndrift := BitVec.ofNat 32 (s.cur.lsNat (save + 4136) 4), ndcnt := BitVec.ofNat 32 (s.cur.lsNat (save + 4140) 4),
        sws0 := BitVec.ofNat 64 (s.cur.lsNat (save + 4144) 8) &&& 0xC000003FFFFFFFFF,
        sws1 := BitVec.ofNat 64 (s.cur.lsNat (save + 4152) 8 % 2 ^ 40), loader := some ⟨pushesOf .c pip, ahead⟩ } }) ∧
      (∀ i, i < 1008 → t.cur.arr.planeA.code i = s.cur.lsNat (save + 2 * i) 2 ∧
        t.cur.arr.planeB.code i = s.cur.lsNat (save + 2016 + 2 * i) 2) ∧
      (∀ i, i < 64 → t.cur.arr.planeA.scale i = scaleAt (s.cur.lsNat (save + 4032) 48) i ∧
        t.cur.arr.planeB.scale i = scaleAt (s.cur.lsNat (save + 4080) 48) i) ∧
      t.cur.arr.planeA.bitmap.toNat = s.cur.lsNat (save + 4128) 2 ∧ t.cur.arr.planeB.bitmap.toNat = s.cur.lsNat (save + 4130) 2) := by
  subst hsave
  have hd := loadWord_done h hl [false, true] fun c r => c.loadedArr r (saveAddr (c.c.getA a))
  have harr := hd.arr
  rw [Core.getA_popAll, Core.loadedArr_congr (Core.ls_popAll _ _ _), Core.arr_popAll] at harr
  refine ⟨_, exec_rload a s, hd.1, ⟨s.cur.arr.ahead [false, true], (hd.congr ?_).2⟩, ?_⟩
  · rw [harr, Core.getA_popAll, Core.loadedArr_congr (Core.ls_popAll _ _ _), Core.arr_popAll, Core.loadedArr_eq]
  · rw [harr]
    exact ⟨fun i hi => ⟨Core.code_savedPlane _ _ _ _ hi, Core.code_savedPlane _ _ _ _ hi⟩,
      fun i hi => ⟨Core.scale_savedPlane _ _ _ _ hi, Core.scale_savedPlane _ _ _ _ hi⟩,
      Core.bitmap_savedPlane _ _ _ _, Core.bitmap_savedPlane _ _ _ _⟩

/-! #### All of them -/

theorem rscl_completes (h : s.EngReady .c (pip &&& 12)) (hl : s.cur.arr.loader = none) {i : Instr} {l : BitVec 1} {g : Core → Nat → Nat}
    (he : exec i s = .next (loadWord pip (fun _ => [l == 1]) (fun c r => r.setPlane (l == 1) ((r.plane (l == 1)).setScales (g c))) s))
    {f : Nat → Nat} (hf : ∀ j, g (s.cur.popAll .c (popsOf .c pip)) j = f j) (hlt : ∀ j, f j < 64) :
    Completes i s (fun t => ∃ p, s.PlaneLoaded pip (l == 1) p t ∧ p.codes = (s.cur.arr.plane (l == 1)).codes ∧
      p.bitmap = (s.cur.arr.plane (l == 1)).bitmap ∧ ∀ j, j < 64 → p.scale j = f j) :=
  ⟨_, he, _, planeLoaded_loadWord h hl rfl, rfl, rfl, fun j hj =>
    (Plane.scale_setScales _ _ hj).trans (by rw [hf, Nat.mod_eq_of_lt (hlt j)])⟩

theorem loaders_wait (h : s.EngReady .c (pip &&& 12)) (hl : s.cur.arr.loader.isSome = true) {l x y z : BitVec 1} {a v : BitVec 4} {i : Instr}
    (hi : i ∈ [(.angl l a x y z pip : Instr), .abmp l a pip, .rscl l a pip, .rsclV l v pip, .rload a pip]) :
    Completes i s (s.EngineWaits .c pip .other) := by
  simp only [List.mem_cons, List.not_mem_nil, or_false] at hi
  obtain rfl | rfl | rfl | rfl | rfl := hi
  all_goals exact ⟨_, rfl, loadWord_waits h hl _ _⟩

/-- Settles O38: a loader with none before it is done at once but for its pips (`loadWord_done`), which wait for the vectors ahead
(`Arr.lt_ahead`); what it writes is a plane set cell by cell, whole (`Plane.bitmap_loadCodes`) or compact (`Plane.code_loadCodes_open`). -/
theorem planeLoads : Obligations.PlaneLoads := by
  rintro s l x y z a v pip old base save n h rfl hbase hn hsave
  refine ⟨fun hl => ⟨angl_completes h hl l a x y z rfl hbase hn, ⟨_, rfl, planeLoaded_loadWord h hl (by rw [Core.getA_popAll])⟩,
    rscl_completes h hl rfl (fun j => ?_) fun j => Nat.mod_lt _ (by omega), rscl_completes h hl rfl (fun j => ?_) fun j => Nat.mod_lt _ (by omega),
    rload_completes h hl a hsave⟩, fun hl i => loaders_wait h hl⟩
  · rw [Core.getA_popAll, lsNat_congr (Core.ls_popAll _ _ _)]
  · rw [Core.vec_popAll]

end Sys2Proof.Machine
end

section
/-! ### A turn of C at a word that takes several (R13, R165, R168, R174, R178) -/

namespace Sys2Proof.Machine

variable {s t : State} {pip : BitVec 4} {body : State → Eff} {f g : Core → Core}

/-! #### Updates of the current core in turn -/

theorem Cells.put_put {α : Type} (l : Cells α) (k : Nat) (v w : α) : Cells.put (Cells.put l k v) k w = Cells.put l k w := by
  induction l with
  | nil => simp [Cells.put]
  | cons x r ih =>
    obtain ⟨j, u⟩ := x
    by_cases hlt : k < j
    · simp [Cells.put, hlt]
    · by_cases he : j = k
      · simp [Cells.put, he]
      · simp [Cells.put, hlt, he, ih]

/-- Two updates of the current core are one. -/
theorem State.onCore_comp (s : State) (f g : Core → Core) : (s.onCore f).onCore g = s.onCore fun c => g (f c) := by
  have hcur : (s.onCore f).core s.agent = f (s.core s.agent) := s.cur_onCore f
  show ({ s with cores := Cells.put (s.onCore f).cores s.agent (g ((s.onCore f).core s.agent)) } : State) = _
  rw [hcur]
  exact congrArg (fun x => ({ s with cores := x } : State)) (Cells.put_put s.cores s.agent (f (s.core s.agent)) (g (f (s.core s.agent))))

theorem State.onCore_congr (s : State) (h : f s.cur = g s.cur) : s.onCore f = s.onCore g := congrArg (s.setCore s.agent) h

/-! #### The core with the pips of the word popped -/

/-- The state that the turn works on: the pips of the word are popped, if they were not before. -/
def State.takenC (s : State) (pip : BitVec 4) : State := if s.cur.c.popped then s else popPips .c (popsOf .c pip) s

/-- Popping changes the channels and the PTS of C. -/
theorem Core.taken_eq (c : Core) (pip : BitVec 4) : ∃ p v, c.taken pip = { c.updEng .c fun x => { x with pts := v } with pips := p } := by
  unfold Core.taken
  split
  · exact ⟨c.pips, c.c.pts, rfl⟩
  · exact c.popAll_eq .c _

section Fields

variable (c : Core) (pip : BitVec 4)

@[simp] theorem Core.vec_taken : (c.taken pip).vec = c.vec := by obtain ⟨p, v, h⟩ := c.taken_eq pip; rw [h]; rfl

@[simp] theorem Core.arr_taken : (c.taken pip).arr = c.arr := by obtain ⟨p, v, h⟩ := c.taken_eq pip; rw [h]; rfl

@[simp] theorem Core.ls_taken : (c.taken pip).ls = c.ls := by obtain ⟨p, v, h⟩ := c.taken_eq pip; rw [h]; rfl

@[simp] theorem Core.l_taken : (c.taken pip).l = c.l := by obtain ⟨p, v, h⟩ := c.taken_eq pip; rw [h]; rfl

@[simp] theorem Core.engTrap_taken : (c.taken pip).engTrap = c.engTrap := by obtain ⟨p, v, h⟩ := c.taken_eq pip; rw [h]; rfl

@[simp] theorem Core.surrogate_taken : (c.taken pip).surrogate = c.surrogate := by obtain ⟨p, v, h⟩ := c.taken_eq pip; rw [h]; rfl

@[simp] theorem Core.getA_taken (r : BitVec 4) : (c.taken pip).c.getA r = c.c.getA r := by
  obtain ⟨p, v, h⟩ := c.taken_eq pip; rw [h]; rfl

@[simp] theorem Core.offset_taken : (c.taken pip).c.offset = c.c.offset := by obtain ⟨p, v, h⟩ := c.taken_eq pip; rw [h]; rfl

@[simp] theorem Core.popped_taken : (c.taken pip).c.popped = c.c.popped := by obtain ⟨p, v, h⟩ := c.taken_eq pip; rw [h]; rfl

end Fields

@[simp] theorem cur_takenC (s : State) (pip : BitVec 4) : (s.takenC pip).cur = s.cur.taken pip := by
  unfold State.takenC Core.taken
  split
  · rfl
  · exact cur_popPips _ _ s

theorem onlyCore_takenC (s : State) (pip : BitVec 4) : s.OnlyCore (s.takenC pip) := by
  unfold State.takenC
  split
  · exact onlyCore_refl s
  · exact onlyCore_popPips _ _ s

@[simp] theorem fmtSel_takenC (s : State) (pip : BitVec 4) (f : BitVec 6) : (s.takenC pip).fmtSel f = s.fmtSel f := by
  obtain ⟨p, v, h⟩ := s.cur.taken_eq pip
  unfold State.fmtSel
  rw [cur_takenC, h]
  rfl

/-- A channel that the word pushes into is as before the pops. -/
theorem Core.pip_taken (c : Core) {pip : BitVec 4} {j : Nat} (h : j ∈ pushesOf .c pip) : (c.taken pip).pip j = c.pip j := by
  unfold Core.taken
  split
  · rfl
  · exact c.pip_popAll_of_notMem _ (notMem_popsOf_of_mem_pushesOf h)

/-! #### What the turn comes to -/

theorem takePips_turn (h : s.CTurn pip) : takePips .c ((s.cur.eng .c).owed .c pip) (s.cur.eng .c).half s = .ok (s.takenC pip) := by
  obtain ⟨-, hhalf, -, hpop, -⟩ := h
  have hh : (s.cur.eng .c).half = false := hhalf
  unfold Engine.owed State.takenC
  rw [hh]
  by_cases hp : s.cur.c.popped = true
  · rw [if_pos hp, if_pos (show (s.cur.eng .c).popped = true from hp)]
    rfl
  · rw [if_neg hp, if_neg (show ¬ (s.cur.eng .c).popped = true from hp)]
    exact takePips_ok .c (popsOf_nodup .c pip) false s (hpop.resolve_left hp)

section Turn

variable (h : s.CTurn pip)

include h

theorem pushes_turn : (s.cur.eng .c).pushes = [] := h.1

/-- The effect of a turn leaves the channels and meets no trap: its word is over. -/
theorem cEnds_engWord (hb : body (s.takenC pip) = .done ((s.takenC pip).onCore f) false)
    (hf : (f (s.cur.taken pip)).pips = (s.cur.taken pip).pips ∧ (f (s.cur.taken pip)).engTrap = (s.cur.taken pip).engTrap) :
    s.CEnds pip f (engWord .c pip body s) := by
  have htake := takePips_turn h
  have hpush := pushes_turn h
  obtain ⟨-, -, htrap, -, hroom⟩ := h
  have hcur : ((s.takenC pip).onCore f).cur = f (s.cur.taken pip) := by rw [State.cur_onCore, cur_takenC]
  have hn : ((s.takenC pip).onCore f).cur.engTrap = none := by rw [hcur, hf.2, Core.engTrap_taken, htrap]
  have hw : engWord .c pip body s = pushPips .c (pushesOf .c pip) ((s.takenC pip).onCore f) := by
    simp only [engWord, hpush, htake, hb, hn]
    cases ((s.takenC pip).onCore f).cur.surrogate <;> rfl
  rw [hw]
  refine ⟨((onlyCore_takenC s pip).trans (onlyCore_onCore _ f)).trans (onlyCore_pushPips .c _ _), ?_⟩
  rw [cur_pushPips .c (pushesOf_nodup .c pip), hcur]
  intro j hj
  have hpip : (f (s.cur.taken pip)).pip j = (s.cur.taken pip).pip j := congrArg (fun p => Cells.get [] p j) hf.1
  rw [hcur, hpip, Core.pip_taken _ hj]
  exact hroom j hj

theorem engWord_turn_more (hb : body (s.takenC pip) = .more t) : engWord .c pip body s = t.onEng .c Engine.begun := by
  have htake := takePips_turn h
  have hpush := pushes_turn h
  simp only [engWord, hpush, htake, hb]
  rfl

theorem cGoesOn_engWord (hb : body (s.takenC pip) = .more ((s.takenC pip).onCore f)) : s.CGoesOn pip f (engWord .c pip body s) := by
  rw [engWord_turn_more h hb]
  refine ⟨((onlyCore_takenC s pip).trans (onlyCore_onCore _ f)).trans (onlyCore_onEng _ .c _), ?_⟩
  rw [State.cur_onEng, State.cur_onCore, cur_takenC]
  rfl

/-- A turn at one vector of the word: the last one ends it. -/
theorem cTurned_engWord {ended : Bool} (hb : body (s.takenC pip) = if ended then .done ((s.takenC pip).onCore f) false
      else .more (((s.takenC pip).onCore f).onEng .c fun x => { x with offset := s.cur.c.offset + 1 }))
    (hf : (f (s.cur.taken pip)).pips = (s.cur.taken pip).pips ∧ (f (s.cur.taken pip)).engTrap = (s.cur.taken pip).engTrap) :
    s.CTurned pip ended f (engWord .c pip body s) := by
  cases ended with
  | true => exact cEnds_engWord h hb hf
  | false =>
    rw [engWord_turn_more h hb]
    refine ⟨(((onlyCore_takenC s pip).trans (onlyCore_onCore _ f)).trans (onlyCore_onEng _ .c _)).trans (onlyCore_onEng _ .c _), ?_⟩
    rw [State.cur_onEng, State.cur_onEng, State.cur_onCore, cur_takenC]
    rfl

theorem cWaits_engWord {w : EWait} (hb : body (s.takenC pip) = .wait w) : s.CWaits pip w (engWord .c pip body s) := by
  have htake := takePips_turn h
  have hpush := pushes_turn h
  have hw : engWord .c pip body s = (s.takenC pip).onEng .c fun x => { x with popped := true, stat := .waiting w } := by
    simp only [engWord, hpush, htake, hb]
    rfl
  rw [hw]
  exact ⟨(onlyCore_takenC s pip).trans (onlyCore_onEng _ .c _), by rw [State.cur_onEng, cur_takenC]⟩

/-- A turn that meets a trap outside the surrogate phase leaves the array too (R355). -/
theorem cTraps_engWord {x : Flt} (hs : s.cur.surrogate = false) (hb : body (s.takenC pip) = .trap x (s.takenC pip)) :
    s.EngineTraps .c x (engWord .c pip body s) ∧ (engWord .c pip body s).cur.arr = s.cur.arr := by
  have htake := takePips_turn h
  have hpush := pushes_turn h
  obtain ⟨-, -, htrap, -, -⟩ := h
  have hw : engWord .c pip body s = engineTrap .c x false 0 ((s.takenC pip).onEng .c fun y => { y with popped := true, base := none }) := by
    simp only [engWord, hpush, htake, hb]
    rfl
  have hcur : ((s.takenC pip).onEng .c fun y => { y with popped := true, base := none }).cur =
      (s.cur.taken pip).updEng .c fun y => { y with popped := true, base := none } := by rw [State.cur_onEng, cur_takenC]
  have hsur : ((s.takenC pip).onEng .c fun y => { y with popped := true, base := none }).cur.surrogate = false := by
    rw [hcur]
    exact (Core.surrogate_taken _ _).trans hs
  obtain ⟨p, v, htaken⟩ := s.cur.taken_eq pip
  rw [hw]
  unfold engineTrap
  rw [hsur]
  refine ⟨⟨((onlyCore_takenC s pip).trans (onlyCore_onEng _ .c _)).trans (onlyCore_onCore _ _), ?_⟩, ?_⟩
  all_goals
    simp only [Bool.false_eq_true, if_false, State.cur_onCore, hcur, Core.engTrap_updEng, Core.engTrap_taken, htrap, Option.getD_none]
    rw [htaken]
  · exact ⟨rfl, rfl, rfl, _, rfl, rfl, rfl, rfl⟩
  · rfl

theorem cIllegal_engWord (hs : s.cur.surrogate = false) (hb : body (s.takenC pip) = engIllegal .c (s.takenC pip)) :
    s.CIllegal (engWord .c pip body s) := by
  obtain ⟨⟨ho, -, hvec, hls, x, hx, he, hflt, hent⟩, harr⟩ := cTraps_engWord h hs hb
  exact ⟨ho, harr, hvec, hls, x, hx, he, by rw [hflt], hent⟩

/-- Where two states come to one effect the turn leaves one state. -/
theorem engWord_turn_eq (h' : t.CTurn pip) {x : Eff} (hx : ∀ w, x ≠ .wait w) (hs : body (s.takenC pip) = x) (ht : body (t.takenC pip) = x) :
    engWord .c pip body s = engWord .c pip body t := by
  have htake := takePips_turn h
  have hpush := pushes_turn h
  have htake' := takePips_turn h'
  have hpush' := pushes_turn h'
  simp only [engWord, hpush, hpush', htake, htake', hs, ht]
  cases x with
  | wait w => exact absurd rfl (hx w)
  | _ => rfl

end Turn

/-! #### What the turn leaves -/

theorem State.CEnds.congr (h : s.CEnds pip f t) (hfg : f (s.cur.taken pip) = g (s.cur.taken pip)) : s.CEnds pip g t := by
  obtain ⟨ho, hc⟩ := h
  exact ⟨ho, by rw [hc, hfg]⟩

theorem State.CGoesOn.congr (h : s.CGoesOn pip f t) (hfg : f (s.cur.taken pip) = g (s.cur.taken pip)) : s.CGoesOn pip g t := by
  obtain ⟨ho, hc⟩ := h
  exact ⟨ho, by rw [hc, hfg]⟩

theorem State.CTurned.congr {ended : Bool} (h : s.CTurned pip ended f t) (hfg : f (s.cur.taken pip) = g (s.cur.taken pip)) :
    s.CTurned pip ended g t := by
  obtain ⟨ho, hc⟩ := h
  exact ⟨ho, by rw [hc, hfg]⟩

/-- The vector state and LS after a turn are those of its effect. -/
theorem State.CTurned.vec_ls {ended : Bool} (h : s.CTurned pip ended f t) :
    t.cur.vec = (f (s.cur.taken pip)).vec ∧ t.cur.ls = (f (s.cur.taken pip)).ls := by
  rw [h.2]
  cases ended with
  | true => exact ⟨vec_pushAll_finish _ .c _, ls_pushAll_finish _ .c _⟩
  | false => exact ⟨rfl, rfl⟩

end Sys2Proof.Machine
end

section
/-! ### RPUSH and RPUSHV (R155, R165, R166) -/

namespace Sys2Proof.Machine

variable {s : State} {pip n : BitVec 4} {f : BitVec 6} {w : Nat} {elem : State → FmtSel → Nat → Nat → Option Nat}

/-! #### What a push comes to -/

/-- What a push does once its pips are popped. -/
def pushOf (n : BitVec 4) (f : BitVec 6) (elem : State → FmtSel → Nat → Nat → Option Nat) (s : State) : Eff :=
  match workFmt (s.fmtSel f).inp with
  | none => engIllegal .c s
  | some w =>
    if s.cur.c.offset = 0 ∧ s.cur.arr.undrained + (n.toNat + 1) > 64 then engIllegal .c s
    else if isMx (s.fmtSel f).inp && s.cur.vec.scaleQ.length < 2 then
      if s.cur.l.hasLdq then .wait .scaleQueue else .trap ⟨0x08, 0, 0⟩ s
    else if s.cur.c.offset < n.toNat then
      .more ((s.onCore fun c => c.entered (s.fmtSel f) w s.cur.c.offset (elem s (s.fmtSel f) s.cur.c.offset)).onEng .c
        fun x => { x with offset := s.cur.c.offset + 1 })
    else .done (s.onCore fun c => c.entered (s.fmtSel f) w s.cur.c.offset (elem s (s.fmtSel f) s.cur.c.offset)) false

theorem pushWord_eq (s : State) : pushWord n f pip elem s = engWord .c pip (pushOf n f elem) s := rfl

/-- The number that an element enters as: +0 where there is none (R165). -/
def Core.entry (c : Core) (e : FmtSel) (w i : Nat) : Option Nat → Num
  | some b => entryConvert e w (if i < 32 then c.vec.scaleQ.getD 0 0 else c.vec.scaleQ.getD 1 0).toNat b
  | none => .fin false 0 0

/-- The core after a vector of numbers has entered the array. -/
def Core.enter (c : Core) (e : FmtSel) (w k : Nat) (xs : List Num) : Core :=
  let g := if k = 0 then c.arr.groups + 1 else c.arr.groups
  { c with arr := { c.arr with groups := g, inflight := c.arr.inflight ++ [throughPlane w (c.arr.plane c.arr.activeB) c.arr.activeB g xs] },
           vec := { c.vec with scaleQ := if isMx e.inp then c.vec.scaleQ.drop 2 else c.vec.scaleQ } }

theorem Core.entered_eq (c : Core) (e : FmtSel) (w k : Nat) (x : Nat → Option Nat) :
    c.entered e w k x = c.enter e w k ((List.range 64).map fun i => c.entry e w i (x i)) := rfl

theorem Core.entered_congr (c : Core) (e : FmtSel) (w k : Nat) {x y : Nat → Option Nat} (h : ∀ i, i < 64 → x i = y i) :
    c.entered e w k x = c.entered e w k y := by
  have hmap : ((List.range 64).map fun i => c.entry e w i (x i)) = (List.range 64).map fun i => c.entry e w i (y i) :=
    List.map_congr_left fun i hi => by rw [h i (List.mem_range.mp hi)]
  rw [Core.entered_eq, hmap, ← Core.entered_eq]

/-- An MX format whose scales are not there (R166). -/
theorem push_noScales (hw : workFmt (s.fmtSel f).inp = some w) (hroom : s.cur.c.offset = 0 → s.cur.arr.undrained + (n.toNat + 1) ≤ 64)
    (hmx : isMx (s.fmtSel f).inp = true) (hlen : s.cur.vec.scaleQ.length < 2) : pushOf n f elem (s.takenC pip) =
      if s.cur.l.hasLdq then .wait .scaleQueue else .trap ⟨0x08, 0, 0⟩ (s.takenC pip) := by
  have hfull : ¬ (s.cur.c.offset = 0 ∧ s.cur.arr.undrained + (n.toNat + 1) > 64) := fun ⟨h0, hgt⟩ => absurd (hroom h0) (by omega)
  simp only [pushOf, cur_takenC, fmtSel_takenC, Core.arr_taken, Core.vec_taken, Core.offset_taken, Core.l_taken, hw, hfull, hmx,
    decide_eq_true hlen, Bool.and_self, if_false, if_true]

section Push

variable (h : s.CTurn pip)

include h

/-- A vector enters the array, and the word is over after its last one (R165). -/
theorem push_turns (hw : workFmt (s.fmtSel f).inp = some w) (hk : s.cur.c.offset ≤ n.toNat)
    (hroom : s.cur.c.offset = 0 → s.cur.arr.undrained + (n.toNat + 1) ≤ 64)
    (hscale : isMx (s.fmtSel f).inp = true → 2 ≤ s.cur.vec.scaleQ.length) {x : Nat → Option Nat}
    (hx : ∀ i, i < 64 → elem (s.takenC pip) (s.fmtSel f) s.cur.c.offset i = x i) :
    s.CTurned pip (s.cur.c.offset == n.toNat) (fun c => c.entered (s.fmtSel f) w s.cur.c.offset x) (pushWord n f pip elem s) := by
  have hfull : ¬ (s.cur.c.offset = 0 ∧ s.cur.arr.undrained + (n.toNat + 1) > 64) := fun ⟨h0, hgt⟩ => absurd (hroom h0) (by omega)
  have hmx : (isMx (s.fmtSel f).inp && decide (s.cur.vec.scaleQ.length < 2)) = false := by
    cases hm : isMx (s.fmtSel f).inp with
    | false => rfl
    | true => exact decide_eq_false (Nat.not_lt.mpr (hscale hm))
  rw [pushWord_eq]
  refine (cTurned_engWord h (f := fun c => c.entered (s.fmtSel f) w s.cur.c.offset (elem (s.takenC pip) (s.fmtSel f) s.cur.c.offset))
    ?_ ⟨rfl, rfl⟩).congr (Core.entered_congr _ _ _ _ hx)
  simp only [pushOf, cur_takenC, fmtSel_takenC, Core.arr_taken, Core.vec_taken, Core.offset_taken, hw, hfull, hmx, if_false,
    Bool.false_eq_true]
  by_cases he : s.cur.c.offset = n.toNat
  · rw [if_neg (by omega), if_pos (beq_iff_eq.mpr he)]
  · rw [if_pos (by omega), if_neg (mt beq_iff_eq.mp he)]

/-- Scales are still to come: the push waits for them (R166). -/
theorem push_waits (hw : workFmt (s.fmtSel f).inp = some w) (hroom : s.cur.c.offset = 0 → s.cur.arr.undrained + (n.toNat + 1) ≤ 64)
    (hmx : isMx (s.fmtSel f).inp = true) (hlen : s.cur.vec.scaleQ.length < 2) (hl : s.cur.l.hasLdq = true) :
    s.CWaits pip .scaleQueue (pushWord n f pip elem s) := by
  rw [pushWord_eq]
  exact cWaits_engWord h ((push_noScales hw hroom hmx hlen).trans (if_pos hl))

theorem push_traps (hw : workFmt (s.fmtSel f).inp = some w) (hroom : s.cur.c.offset = 0 → s.cur.arr.undrained + (n.toNat + 1) ≤ 64)
    (hmx : isMx (s.fmtSel f).inp = true) (hlen : s.cur.vec.scaleQ.length < 2) (hl : s.cur.l.hasLdq = false)
    (hs : s.cur.surrogate = false) : s.EngineTraps .c ⟨0x08, 0, 0⟩ (pushWord n f pip elem s) := by
  rw [pushWord_eq]
  exact (cTraps_engWord h hs ((push_noScales hw hroom hmx hlen).trans (if_neg (by rw [hl]; exact Bool.false_ne_true)))).1

/-- A refused format, or no room for the group (R155, R165). -/
theorem push_illegal (hs : s.cur.surrogate = false)
    (hbad : workFmt (s.fmtSel f).inp = none ∨ (s.cur.c.offset = 0 ∧ 64 < s.cur.arr.undrained + (n.toNat + 1))) :
    s.CIllegal (pushWord n f pip elem s) := by
  rw [pushWord_eq]
  refine cIllegal_engWord h hs ?_
  simp only [pushOf, cur_takenC, fmtSel_takenC, Core.arr_taken, Core.vec_taken, Core.offset_taken]
  cases hw : workFmt (s.fmtSel f).inp with
  | none => rfl
  | some w => exact if_pos (hbad.resolve_left (by rw [hw]; exact Option.some_ne_none w))

end Push

/-! #### The elements -/

/-- An element in packed LS bytes is read from the bytes that hold it (R29, R36). -/
theorem Core.lsNat_packed (c : Core) (base b : Nat) {i : Nat} (hi : i < 64) :
    c.lsNat (base + i * b / 8) ((i * b % 8 + b + 7) / 8) / 2 ^ (i * b % 8) % 2 ^ b = c.lsNat base (8 * b) / 2 ^ (b * i) % 2 ^ b := by
  have hend : i * b + b ≤ 64 * b := by
    rw [← Nat.succ_mul]
    exact Nat.mul_le_mul_right b hi
  have hbit : 8 * (i * b / 8) + i * b % 8 = b * i := by rw [Nat.div_add_mod, Nat.mul_comm]
  generalize i * b = x at hend hbit
  rw [← hbit]
  exact c.lsNat_bits base (by omega) (by omega)

/-- Element i of a vector in LS. -/
def pushElem (a : BitVec 4) (s : State) (e : FmtSel) (k i : Nat) : Option Nat :=
  let b := elemBits e.inp
  let base := lsVecAddr (s.cur.c.getA a) + k * (8 * b) + i * b / 8
  some (s.cur.lsNat base ((i * b % 8 + b + 7) / 8) / 2 ^ (i * b % 8) % 2 ^ b)

/-- Element i of a vector register. -/
def pushvElem (v : BitVec 4) (m : BitVec 1) (s : State) (e : FmtSel) (k i : Nat) : Option Nat :=
  if (s.cur.vec.active m).getLsbD i then some ((s.cur.vec.lane (v + BitVec.ofNat 4 k) i).toNat % 2 ^ elemBits e.inp) else none

theorem exec_rpush (a : BitVec 4) (s : State) : exec (.rpush n a f pip) s = .next (pushWord n f pip (pushElem a) s) := rfl

theorem exec_rpushv (v : BitVec 4) (m : BitVec 1) (s : State) : exec (.rpushv n v f m pip) s = .next (pushWord n f pip (pushvElem v m) s) := rfl

theorem pushElem_taken (a : BitVec 4) (e : FmtSel) (k : Nat) {i : Nat} (hi : i < 64) : pushElem a (s.takenC pip) e k i =
    some (s.packedAt (elemBits e.inp) (lsVecAddr (s.cur.c.getA a) + k * (8 * elemBits e.inp)) i) := by
  simp only [pushElem, cur_takenC, Core.getA_taken, lsNat_congr (Core.ls_taken _ _), Core.lsNat_packed _ _ _ hi]
  rfl

theorem pushvElem_taken (v : BitVec 4) (m : BitVec 1) (e : FmtSel) (k i : Nat) : pushvElem v m (s.takenC pip) e k i =
    if (s.lanes m).getLsbD i then some ((s.cur.vec.lane (v + BitVec.ofNat 4 k) i).toNat % 2 ^ elemBits e.inp) else none := by
  rw [pushvElem, cur_takenC, Core.vec_taken]
  rfl

end Sys2Proof.Machine
end

section
/-! ### RPOP and RPOPV (R155, R167, R168) -/

namespace Sys2Proof.Machine

variable {s t : State} {pip d tag a b v : BitVec 4} {f : BitVec 6} {m : BitVec 1}

/-! #### The checks of a drain -/

section Start

variable (k : FmtSel → AVec → Drained → State → Eff)

theorem drainStart_illegal (hbad : outOk (s.fmtSel f).out = false ∨ s.cur.arr.undrained = 0) :
    drainStart f k (s.takenC pip) = engIllegal .c (s.takenC pip) := by
  have hcond : (!outOk (s.fmtSel f).out || decide (s.cur.arr.undrained = 0)) = true := by
    rcases hbad with ho | hu
    · rw [ho]; rfl
    · rw [decide_eq_true hu, Bool.or_true]
  simp only [drainStart, cur_takenC, fmtSel_takenC, Core.arr_taken, hcond, if_true]

/-- The checks of a drain passed (R167). -/
theorem drainLegal_cond (ho : outOk (s.fmtSel f).out = true) (hu : s.cur.arr.undrained ≠ 0) :
    (!outOk (s.fmtSel f).out || decide (s.cur.arr.undrained = 0)) = false := by
  rw [ho, decide_eq_false hu]
  rfl

theorem drainStart_waits (ho : outOk (s.fmtSel f).out = true) (he : s.cur.arr.outbuf = []) (hi : s.cur.arr.inflight ≠ []) :
    drainStart f k (s.takenC pip) = .wait .other := by
  have hpos := List.length_pos_iff.mpr hi
  have hcond := drainLegal_cond ho (by rw [Arr.undrained]; omega)
  simp only [drainStart, cur_takenC, fmtSel_takenC, Core.arr_taken, hcond, he, Bool.false_eq_true, if_false]

theorem drainStart_takes (ho : outOk (s.fmtSel f).out = true) {x : AVec} {r : List AVec} (he : s.cur.arr.outbuf = x :: r) :
    drainStart f k (s.takenC pip) =
      k (s.fmtSel f) x (drainVec (s.fmtSel f) x) ((s.takenC pip).onArr fun y => { y with outbuf := r }) := by
  have hcond := drainLegal_cond ho (by rw [Arr.undrained, he, List.length_cons]; omega)
  simp only [drainStart, cur_takenC, fmtSel_takenC, Core.arr_taken, hcond, he, Bool.false_eq_true, if_false]

end Start

theorem Arr.monitorVec_queues (x : Arr) (n : Bool) (v : AVec) :
    (x.monitorVec n v).outbuf = x.outbuf ∧ (x.monitorVec n v).inflight = x.inflight := by
  unfold Arr.monitorVec
  dsimp only
  split
  · exact ⟨rfl, rfl⟩
  · split
    · exact ⟨rfl, rfl⟩
    · split
      · exact ⟨rfl, rfl⟩
      · split <;> exact ⟨rfl, rfl⟩

/-! #### RPOP (R167, R168) -/

/-- LS with vector `k` of the word written, and for an MX format its two scales. -/
def Core.drainInto (c : Core) (a b : BitVec 4) (e : FmtSel) (k : Nat) (d : Drained) : Core :=
  let c1 := c.lsPut (lsVecAddr (c.c.getA a) + k * (8 * elemBits e.out)) (8 * elemBits e.out) (packElems (elemBits e.out) d.elems)
  if isMx e.out then c1.lsPut ((c.c.getA b).toNat + 2 * k) 2 (d.scales.1 + 256 * d.scales.2) else c1

theorem Core.drainInto_eq (c : Core) (a b : BitVec 4) (e : FmtSel) (k : Nat) (d : Drained) : ∃ m, c.drainInto a b e k d = { c with ls := m } := by
  unfold Core.drainInto
  split
  · exact ⟨_, rfl⟩
  · exact ⟨_, rfl⟩

/-- The core after a drain into LS: the output buffer is `r`. -/
def Core.popped (c : Core) (tag a b : BitVec 4) (e : FmtSel) (k : Nat) (x : AVec) (r : List AVec) : Core :=
  (({ c with arr := { c.arr with outbuf := r } } : Core).drainInto a b e k (drainVec e x)).afterDrain tag.toNat e x (drainVec e x)

/-- What RPOP does with the vector that it takes. -/
def rpopTake (tag a b : BitVec 4) (e : FmtSel) (x : AVec) (d : Drained) (s : State) : Eff :=
  let s2 := s.onCore fun c => (c.drainInto a b e s.cur.c.offset d).afterDrain tag.toNat e x d
  if s2.cur.arr.oldest == some x.group then .more (s2.onEng .c fun y => { y with offset := s.cur.c.offset + 1 }) else .done s2 false

theorem exec_rpop (s : State) : exec (.rpop tag a b f pip) s = .next (engWord .c pip (drainStart f (rpopTake tag a b)) s) := rfl

theorem Core.popped_spec (c : Core) (tag a b : BitVec 4) (e : FmtSel) (k : Nat) (x : AVec) (r : List AVec) :
    (c.popped tag a b e k x r).pips = c.pips ∧ (c.popped tag a b e k x r).engTrap = c.engTrap ∧
      (c.popped tag a b e k x r).ls = (c.drainInto a b e k (drainVec e x)).ls ∧
      (c.popped tag a b e k x r).arr.oldest = ((r ++ c.arr.inflight).head?).map fun y => y.group := by
  obtain ⟨m, hm⟩ := ({ c with arr := { c.arr with outbuf := r } } : Core).drainInto_eq a b e k (drainVec e x)
  obtain ⟨ho, hi⟩ := ({ c.arr with outbuf := r } : Arr).monitorVec_queues e.norm x
  have hls : ({ c with arr := { c.arr with outbuf := r } } : Core).drainInto a b e k (drainVec e x) =
      { c.drainInto a b e k (drainVec e x) with arr := { c.arr with outbuf := r } } := by
    unfold Core.drainInto
    split <;> rfl
  unfold Core.popped
  refine ⟨by rw [hm]; rfl, by rw [hm]; rfl, by rw [hls]; rfl, ?_⟩
  rw [hm]
  show ((_ ++ _ : List AVec).head?).map _ = _
  exact congrArg₂ (fun p q : List AVec => ((p ++ q).head?).map fun y => y.group) ho hi

theorem rpop_turns (h : s.CTurn pip) (ho : outOk (s.fmtSel f).out = true) {x : AVec} {r : List AVec} (he : s.cur.arr.outbuf = x :: r) :
    s.CTurned pip (((r ++ s.cur.arr.inflight).head?.map fun y => y.group) != some x.group)
      (fun c => c.popped tag a b (s.fmtSel f) s.cur.c.offset x r) (engWord .c pip (drainStart f (rpopTake tag a b)) s) := by
  obtain ⟨hp, ht, -, hold⟩ := (s.cur.taken pip).popped_spec tag a b (s.fmtSel f) s.cur.c.offset x r
  refine cTurned_engWord h ?_ ⟨hp, ht⟩
  rw [drainStart_takes _ ho he]
  simp only [rpopTake, State.onArr, State.onCore_comp, State.cur_onCore, cur_takenC, Core.offset_taken]
  rw [Core.arr_taken] at hold
  change (if ((s.cur.taken pip).popped tag a b (s.fmtSel f) s.cur.c.offset x r).arr.oldest == some x.group then _ else _) = _
  rw [hold, bne]
  cases ((r ++ s.cur.arr.inflight).head?.map fun y => y.group) == some x.group <;> rfl

theorem elemBits_le (code : Nat) : elemBits code ≤ 32 := by
  unfold elemBits
  split <;> omega

section Written

variable (c : Core) {e : FmtSel} (k : Nat) (x : Drained)

/-- The elements in LS, packed (R29, R36). -/
theorem Core.lsNat_drainInto (hm : isMx e.out = false) {i : Nat} (hi : i < 64) :
    (c.drainInto a b e k x).lsNat (lsVecAddr (c.c.getA a) + k * (8 * elemBits e.out)) (8 * elemBits e.out) / 2 ^ (elemBits e.out * i)
      % 2 ^ elemBits e.out = x.elems.getD i 0 % 2 ^ elemBits e.out := by
  have hle := elemBits_le e.out
  have hend : elemBits e.out * i + elemBits e.out ≤ elemBits e.out * 64 := Nat.mul_le_mul_left _ (Nat.succ_le_of_lt hi)
  rw [Core.drainInto, hm, if_neg Bool.false_ne_true, Core.lsNat_lsPut _ _ _ (by omega), pow_256, mod_pow_div_mod _ (by omega), packElems_div_mod]

theorem Core.lsRead_drainInto_out (hm : isMx e.out = false) {o : Nat} (h : ∀ j, j < 8 * elemBits e.out →
    (lsVecAddr (c.c.getA a) + k * (8 * elemBits e.out) + j) % 1048576 ≠ o % 1048576) : (c.drainInto a b e k x).lsRead o = c.lsRead o := by
  rw [Core.drainInto, hm, if_neg Bool.false_ne_true, Core.lsRead_lsPut_out _ _ h]

/-- The two scales of an MX vector (R168). -/
theorem Core.lsNat_drainInto_scales (hm : isMx e.out = true) :
    (c.drainInto a b e k x).lsNat ((c.c.getA b).toNat + 2 * k) 2 = (x.scales.1 + 256 * x.scales.2) % 65536 := by
  rw [Core.drainInto, hm, if_pos rfl]
  exact Core.lsNat_lsPut _ _ _ (by omega)

end Written

theorem rpop_completes (h : s.CTurn pip) (ho : outOk (s.fmtSel f).out = true) {x : AVec} {r : List AVec} (he : s.cur.arr.outbuf = x :: r)
    {e : FmtSel} {k : Nat} (hfmt : e = s.fmtSel f) (hk : k = s.cur.c.offset) :
    Completes (.rpop tag a b f pip) s (fun t =>
      s.CTurned pip (((r ++ s.cur.arr.inflight).head?.map fun y => y.group) != some x.group) (fun c =>
        { { c with arr := { c.arr with outbuf := r }, ls := t.cur.ls }.afterDrain tag.toNat e x (drainVec e x) with ls := t.cur.ls }) t ∧
      (isMx e.out = false → (∀ i, i < 64 →
          t.packedAt (elemBits e.out) (lsVecAddr (s.cur.c.getA a) + k * (8 * elemBits e.out)) i =
            (drainVec e x).elems.getD i 0 % 2 ^ elemBits e.out) ∧
        ∀ o, o < 2 ^ 20 → (∀ j, j < 8 * elemBits e.out →
          (lsVecAddr (s.cur.c.getA a) + k * (8 * elemBits e.out) + j) % 2 ^ 20 ≠ o) → t.cur.lsRead o = s.cur.lsRead o) ∧
      (isMx e.out = true → t.cur.lsNat ((s.cur.c.getA b).toNat + 2 * k) 2 =
        ((drainVec e x).scales.1 + 256 * (drainVec e x).scales.2) % 65536)) := by
  subst hfmt hk
  have hturn := rpop_turns (tag := tag) (a := a) (b := b) h ho he
  have hls := hturn.vec_ls.2.trans ((s.cur.taken pip).popped_spec tag a b (s.fmtSel f) s.cur.c.offset x r).2.2.1
  have hA := s.cur.getA_taken pip
  refine ⟨_, exec_rpop s, hturn.congr ?_, fun hm => ⟨fun i hi => ?_, fun o hlt hout => ?_⟩, fun hm => ?_⟩
  · obtain ⟨m, hm⟩ := ({ s.cur.taken pip with arr := { (s.cur.taken pip).arr with outbuf := r } } : Core).drainInto_eq a b (s.fmtSel f)
      s.cur.c.offset (drainVec (s.fmtSel f) x)
    rw [hturn.vec_ls.2, Core.popped, hm]
    rfl
  · rw [State.packedAt, lsNat_congr hls, ← hA a]
    exact Core.lsNat_drainInto _ _ _ hm hi
  · rw [lsRead_congr hls, Core.lsRead_drainInto_out _ _ _ hm fun j hj => ?_, lsRead_congr (Core.ls_taken _ _)]
    have hne := hout j hj
    rw [hA]
    omega
  · rw [lsNat_congr hls, ← hA b]
    exact Core.lsNat_drainInto_scales _ _ _ hm

/-! #### RPOPV (R167, R168) -/

/-- The vector state with a drained vector in the active lanes of `d`, and for an MX format its two scales in `v`. -/
def Vec.drainTo (y : Vec) (d v : BitVec 4) (m : BitVec 1) (e : FmtSel) (r : Drained) : Vec :=
  let z := y.putLanes d (y.active m) fun i => BitVec.ofNat 32 (r.elems.getD i 0)
  if isMx e.out then
    z.setLanes v fun i => if i = 0 then BitVec.ofNat 32 r.scales.1 else if i = 1 then BitVec.ofNat 32 r.scales.2 else 0
  else z

theorem Vec.drainTo_eq (y : Vec) (d v : BitVec 4) (m : BitVec 1) (e : FmtSel) (r : Drained) :
    y.drainTo d v m e r = { y with v := (y.drainTo d v m e r).v } := by
  obtain ⟨u, hu⟩ : ∃ u, y.drainTo d v m e r = { y with v := u } := by
    unfold Vec.drainTo
    split
    · exact ⟨_, rfl⟩
    · exact ⟨_, rfl⟩
  rw [hu]

theorem Vec.lane_drainTo (y : Vec) (d v : BitVec 4) (m : BitVec 1) (e : FmtSel) (r : Drained) (q : BitVec 4) {i : Nat} (hi : i < 64) :
    (y.drainTo d v m e r).lane q i = if isMx e.out = true ∧ q = v then
        BitVec.ofNat 32 (if i = 0 then r.scales.1 else if i = 1 then r.scales.2 else 0)
      else if q = d ∧ (y.active m).getLsbD i = true then BitVec.ofNat 32 (r.elems.getD i 0) else y.lane q i := by
  have hput := Vec.lane_putLanes y d q (y.active m) (fun i => BitVec.ofNat 32 (r.elems.getD i 0)) hi
  unfold Vec.drainTo
  by_cases hm : isMx e.out = true
  · rw [if_pos hm, Vec.lane_setLanes _ _ _ _ _ hi, hput]
    by_cases hq : q = v
    · rw [if_pos hq.symm, if_pos (show isMx e.out = true ∧ q = v from ⟨hm, hq⟩)]
      split
      · rfl
      · split <;> rfl
    · rw [if_neg (Ne.symm hq), if_neg (show ¬ (isMx e.out = true ∧ q = v) from fun hc => hq hc.2)]
  · rw [if_neg hm, hput, if_neg (show ¬ (isMx e.out = true ∧ q = v) from fun hc => hm hc.1)]

/-- What RPOPV does with the vector that it takes. -/
def rpopvTake (d tag v : BitVec 4) (m : BitVec 1) (e : FmtSel) (x : AVec) (r : Drained) (s : State) : Eff :=
  .done ((s.onVec fun y => y.drainTo d v m e r).onCore fun c => c.afterDrain tag.toNat e x r) false

theorem exec_rpopv (s : State) : exec (.rpopv d tag v f m pip) s = .next (engWord .c pip (drainStart f (rpopvTake d tag v m)) s) := rfl

/-- The core after a drain into `d`: the output buffer is `r`. -/
def Core.poppedTo (c : Core) (d tag v : BitVec 4) (m : BitVec 1) (e : FmtSel) (x : AVec) (r : List AVec) : Core :=
  ({ c with arr := { c.arr with outbuf := r }, vec := c.vec.drainTo d v m e (drainVec e x) } : Core).afterDrain tag.toNat e x (drainVec e x)

theorem Core.poppedTo_spec (c : Core) (d tag v : BitVec 4) (m : BitVec 1) (e : FmtSel) (x : AVec) (r : List AVec) :
    (c.poppedTo d tag v m e x r).pips = c.pips ∧ (c.poppedTo d tag v m e x r).engTrap = c.engTrap ∧
      (c.poppedTo d tag v m e x r).vec.v = (c.vec.drainTo d v m e (drainVec e x)).v := ⟨rfl, rfl, rfl⟩

theorem rpopv_completes (h : s.CTurn pip) (ho : outOk (s.fmtSel f).out = true) {x : AVec} {r : List AVec} (he : s.cur.arr.outbuf = x :: r)
    {e : FmtSel} (hfmt : e = s.fmtSel f) :
    Completes (.rpopv d tag v f m pip) s (fun t =>
      s.CTurned pip true (fun c => { c with
        arr := { c.arr with outbuf := r }, vec := { c.vec with v := t.cur.vec.v } }.afterDrain tag.toNat e x (drainVec e x)) t ∧
      ∀ q i, i < 64 → t.cur.vec.lane q i = if isMx e.out = true ∧ q = v then
          BitVec.ofNat 32 (if i = 0 then (drainVec e x).scales.1 else if i = 1 then (drainVec e x).scales.2 else 0)
        else if q = d ∧ (s.lanes m).getLsbD i = true then BitVec.ofNat 32 ((drainVec e x).elems.getD i 0)
        else s.cur.vec.lane q i) := by
  subst hfmt
  obtain ⟨hp, ht, hv⟩ := (s.cur.taken pip).poppedTo_spec d tag v m (s.fmtSel f) x r
  have hturn : s.CTurned pip true (fun c => c.poppedTo d tag v m (s.fmtSel f) x r)
      (engWord .c pip (drainStart f (rpopvTake d tag v m)) s) := by
    refine cTurned_engWord h ?_ ⟨hp, ht⟩
    rw [drainStart_takes _ ho he, if_pos (show true = true from rfl)]
    simp only [rpopvTake, State.onArr, State.onVec, State.onCore_comp]
    rfl
  rw [Core.vec_taken, ← hturn.vec_ls.1] at hv
  refine ⟨_, exec_rpopv s, hturn.congr ?_, fun q i hi => ?_⟩
  · rw [hv, Core.poppedTo, Vec.drainTo_eq, Core.vec_taken]
  · rw [Vec.lane, hv]
    exact s.cur.vec.lane_drainTo d v m (s.fmtSel f) (drainVec (s.fmtSel f) x) q hi

/-- Settles O40: a push enters one vector at a turn (`push_turns`), waits for its scales or traps (`push_waits`, `push_traps`, `push_illegal`); a
drain takes the oldest vector (`rpop_completes`, `rpopv_completes`), waits for it or traps (`drainStart_waits`, `drainStart_illegal`). -/
theorem pushesAndDrains : Obligations.PushesAndDrains := by
  rintro s n a b d tag v f m pip e k h rfl rfl
  refine ⟨fun w hw hk hroom hscale => ⟨?_, ?_⟩, fun w hw hroom hmx hlen => ⟨fun hl => ⟨?_, ?_⟩, fun hl hs => ⟨?_, ?_⟩⟩,
    fun hbad hs => ⟨?_, ?_⟩, fun x r ho he => ⟨?_, ?_⟩, fun hbad hs => ⟨?_, ?_⟩, fun ho he hi => ⟨?_, ?_⟩⟩
  · exact ⟨_, exec_rpush a s, push_turns h hw hk hroom hscale fun i hi => pushElem_taken a _ _ hi⟩
  · exact ⟨_, exec_rpushv v m s, push_turns h hw hk hroom hscale fun i _ => pushvElem_taken v m _ _ i⟩
  · exact ⟨_, exec_rpush a s, push_waits h hw hroom hmx hlen hl⟩
  · exact ⟨_, exec_rpushv v m s, push_waits h hw hroom hmx hlen hl⟩
  · exact ⟨_, exec_rpush a s, push_traps h hw hroom hmx hlen hl hs⟩
  · exact ⟨_, exec_rpushv v m s, push_traps h hw hroom hmx hlen hl hs⟩
  · exact ⟨_, exec_rpush a s, push_illegal h hs hbad⟩
  · exact ⟨_, exec_rpushv v m s, push_illegal h hs hbad⟩
  · exact rpop_completes h ho he rfl rfl
  · exact rpopv_completes h ho he rfl
  · exact ⟨_, exec_rpop s, cIllegal_engWord h hs (drainStart_illegal _ hbad)⟩
  · exact ⟨_, exec_rpopv s, cIllegal_engWord h hs (drainStart_illegal _ hbad)⟩
  · exact ⟨_, exec_rpop s, cWaits_engWord h (drainStart_waits _ ho he hi)⟩
  · exact ⟨_, exec_rpopv s, cWaits_engWord h (drainStart_waits _ ho he hi)⟩

end Sys2Proof.Machine
end

section
/-! ### RSWEEP (R178 to R180, R182) -/

namespace Sys2Proof.Machine

variable {s t : State} {pip a b : BitVec 4}

/-! #### The sweep that SWS records (R182) -/

/-- The fields of SWS while it records a sweep. -/
theorem sws_sweepWord {x : Arr} {mode cols rows done i j : Nat} (h : x.sws0 = sweepWord mode cols rows done i j) (hm : mode < 4)
    (hc : cols < 128) (hr : rows < 128) (hd : done < 4096) (hi : i < 64) (hj : j < 64) :
    x.swsMode = mode ∧ x.sws 37 31 = cols ∧ x.sws 30 24 = rows ∧ x.sws 23 12 = done ∧ x.sws 11 6 = i ∧ x.sws 5 0 = j := by
  have hnat : x.sws0.toNat = 2 ^ 62 * mode + 2 ^ 31 * cols + 2 ^ 24 * rows + 2 ^ 12 * done + 2 ^ 6 * i + j := by
    rw [h, sweepWord, BitVec.toNat_ofNat]
    omega
  simp only [Arr.swsMode, Arr.sws, hnat]
  omega

/-- The tile and the next place of the output list. -/
theorem sws1_fields {x : Arr} {out tile : Nat} (h : x.sws1 = BitVec.ofNat 64 (2 ^ 20 * out + tile)) (ho : out < 2 ^ 20) (ht : tile < 2 ^ 20) :
    x.sws1.toNat % 1048576 = tile ∧ x.sws1.toNat / 1048576 % 1048576 = out := by
  rw [h, BitVec.toNat_ofNat]
  omega

/-- SWS records a sweep. -/
structure Arr.Sweeping (x : Arr) (rows cols done i j tile out : Nat) : Prop where
  sws0 : x.sws0 = sweepWord 1 cols rows done i j
  sws1 : x.sws1 = BitVec.ofNat 64 (2 ^ 20 * out + tile)
  rows_le : rows ≤ 64
  cols_le : cols ≤ 64
  done_lt : done < 4096
  i_lt : i < 64
  j_lt : j < 64
  tile_lt : tile < 2 ^ 20
  out_lt : out < 2 ^ 20

/-! #### One elimination (R179) -/

/-- The row and column of the elimination after that of row i in column j (R179). -/
def sweepNext (rows i j : Nat) : Nat × Nat := if j + 1 < i then (i - 1, j) else (rows - 1, j + 1)

/-- The core after an elimination; SWS takes the mode `mode`. -/
def Core.swept (c : Core) (tile out cols rows done i j mode : Nat) (next : Nat × Nat) : Core :=
  let c1 := eliminate c tile out cols i j
  { c1 with arr := { c1.arr with
      sws0 := sweepWord mode cols rows (done + 1) next.1 next.2, sws1 := BitVec.ofNat 64 (2 ^ 20 * ((out + 2) % 1048576) + tile) } }

/-- What RSWEEP does with the fields of the sweep that SWS records. -/
def sweepWith (s : State) (cols rows done i j tile out : Nat) : Eff :=
  if j ≥ min cols (rows - 1) then .done (s.onArr fun r => { r with sws0 := sweepWord 0 cols rows done i j }) false
  else
    let more := decide ((sweepNext rows i j).2 < min cols (rows - 1))
    let s2 := s.onCore fun c => c.swept tile out cols rows done i j (if more then 1 else 0) (sweepNext rows i j)
    if more then .more s2 else .done s2 false

/-- What RSWEEP does once SWS records its sweep. -/
def sweepTurn (s : State) : Eff :=
  sweepWith s (s.cur.arr.sws 37 31) (s.cur.arr.sws 30 24) (s.cur.arr.sws 23 12) (s.cur.arr.sws 11 6) (s.cur.arr.sws 5 0)
    (s.cur.arr.sws1.toNat % 1048576) (s.cur.arr.sws1.toNat / 1048576 % 1048576)

/-- The array with the sweep of a descriptor recorded (R178). -/
def Arr.startSweep (x : Arr) (ds list : Nat) : Arr := { x with
  sws0 := sweepWord 1 (ds / 2 ^ 26 % 64 + 1) (ds / 2 ^ 20 % 64 + 1) 0 (ds / 2 ^ 20 % 64) 0,
  sws1 := BitVec.ofNat 64 (2 ^ 20 * (list % 1048576 / 2 * 2) + ds % 1048576 / 4 * 4) }

/-- What RSWEEP does once its pips are popped. -/
def rsweepOf (a b : BitVec 4) (s : State) : Eff :=
  if ((s.cur.c.getA a).toNat / 2 ^ 32 != 0 && !s.cur.c.popped) || s.cur.arr.swsMode == 2 || s.cur.arr.swsMode == 3 then engIllegal .c s
  else if !s.cur.arr.inflight.isEmpty then .wait .other
  else sweepTurn (if s.cur.arr.swsMode = 1 then s else s.onArr fun r => r.startSweep (s.cur.c.getA a).toNat (s.cur.c.getA b).toNat)

theorem exec_rsweep (s : State) : exec (.rsweep a b pip) s = .next (engWord .c pip (rsweepOf a b) s) := rfl

theorem sweepTurn_eq {rows cols done i j tile out : Nat} (h : s.cur.arr.Sweeping rows cols done i j tile out) :
    sweepTurn s = sweepWith s cols rows done i j tile out := by
  obtain ⟨h0, h1, hr, hc, hd, hi, hj, ht, ho⟩ := h
  obtain ⟨-, hcols, hrows, hdone, hrow, hcol⟩ := sws_sweepWord h0 (by omega) (by omega) (by omega) hd hi hj
  obtain ⟨htile, hout⟩ := sws1_fields h1 ho ht
  rw [sweepTurn, hcols, hrows, hdone, hrow, hcol, htile, hout]

/-- A sweep never waits between its eliminations. -/
theorem sweepTurn_ne_wait (s : State) (w : EWait) : sweepTurn s ≠ .wait w := by
  unfold sweepTurn sweepWith
  split
  · exact Eff.noConfusion
  · dsimp only
    split
    · exact Eff.noConfusion
    · exact Eff.noConfusion

/-! #### What an elimination changes (R179) -/

/-- A function on cores that reads and changes LS alone. -/
def LsOnly (f : Core → Core) : Prop := ∀ c c' : Core, c'.ls = c.ls → f c' = { c' with ls := (f c).ls }

theorem lsOnly_lsPut (a n : Nat) {g : Core → Nat} (hg : ∀ c c' : Core, c'.ls = c.ls → g c' = g c) : LsOnly fun c => c.lsPut a n (g c) := by
  intro c c' h
  show ({ c' with ls := lsWriteNat c'.ls a n (g c') } : Core) = { c' with ls := lsWriteNat c.ls a n (g c) }
  rw [h, hg c c' h]

theorem LsOnly.comp {f g : Core → Core} (hf : LsOnly f) (hg : LsOnly g) : LsOnly fun c => g (f c) := by
  intro c c' h
  have hls : (f c').ls = (f c).ls := by rw [hf c c' h]
  show g (f c') = _
  rw [hg _ _ hls, hf c c' h]

theorem LsOnly.foldl {α : Type} {f : α → Core → Core} (hf : ∀ x, LsOnly (f x)) (l : List α) : LsOnly fun c => l.foldl (fun y x => f x y) c := by
  induction l with
  | nil =>
    intro c c' h
    show c' = { c' with ls := c.ls }
    rw [← h]
  | cons x r ih => exact (hf x).comp ih

/-- Element (r, l) of a tile, and LS with it set. -/
def Core.tileNum (c : Core) (tile cols : Nat) (r : Int) (l : Nat) : Num := fp32.decode (c.lsNat (sweepAddr tile cols r l) 4)

def Core.putTile (c : Core) (tile cols : Nat) (r : Int) (l : Nat) (v : Num) : Core := c.lsPut (sweepAddr tile cols r l) 4 (fp32.round false v)

/-- Column `l` of rows `i − 1` and `i` rotated by a code. -/
def Core.rotatePair (tile cols : Nat) (i : Int) (code l : Nat) (c : Core) : Core :=
  let r := cell fp32 code (c.tileNum tile cols (i - 1) l) (c.tileNum tile cols i l)
  (c.putTile tile cols (i - 1) l r.1).putTile tile cols i l r.2

/-- The elimination with its code and its pivot. -/
def Core.eliminateWith (tile out cols : Nat) (i : Int) (j : Nat) (p : Nat × Num) (c : Core) : Core :=
  (((List.range cols).filter fun l => decide (j < l)).foldl (fun y l => Core.rotatePair tile cols i p.1 l y)
    ((c.putTile tile cols (i - 1) j p.2).putTile tile cols i j (.fin false 0 0))).lsPut out 2 p.1

theorem eliminate_eq (c : Core) (tile out cols : Nat) (i : Int) (j : Nat) : eliminate c tile out cols i j =
    Core.eliminateWith tile out cols i j (deriveAngle (c.tileNum tile cols (i - 1) j) (c.tileNum tile cols i j)) c := rfl

theorem Core.tileNum_congr {c c' : Core} (h : c'.ls = c.ls) (tile cols : Nat) (r : Int) (l : Nat) :
    c'.tileNum tile cols r l = c.tileNum tile cols r l := by
  rw [Core.tileNum, Core.tileNum, lsNat_congr h]

theorem lsOnly_putTile (tile cols : Nat) (r : Int) (l : Nat) (v : Num) : LsOnly fun c => c.putTile tile cols r l v :=
  lsOnly_lsPut _ _ (g := fun _ => fp32.round false v) fun _ _ _ => rfl

theorem lsOnly_rotatePair (tile cols : Nat) (i : Int) (code l : Nat) : LsOnly (Core.rotatePair tile cols i code l) := by
  intro c c' h
  unfold Core.rotatePair
  dsimp only
  rw [Core.tileNum_congr h, Core.tileNum_congr h]
  exact (lsOnly_putTile tile cols (i - 1) l _).comp (lsOnly_putTile tile cols i l _) c c' h

theorem lsOnly_eliminate (tile out cols : Nat) (i : Int) (j : Nat) : LsOnly fun c => eliminate c tile out cols i j := by
  intro c c' h
  simp only [eliminate_eq]
  rw [Core.tileNum_congr h, Core.tileNum_congr h]
  generalize deriveAngle (c.tileNum tile cols (i - 1) j) (c.tileNum tile cols i j) = p
  exact (((lsOnly_putTile tile cols (i - 1) j p.2).comp (lsOnly_putTile tile cols i j (.fin false 0 0))).comp
    (LsOnly.foldl (lsOnly_rotatePair tile cols i p.1) _)).comp (lsOnly_lsPut out 2 (g := fun _ => p.1) fun _ _ _ => rfl) c c' h

/-- The core after an elimination, field by field. -/
theorem Core.swept_eq {c c' : Core} (h : c'.ls = c.ls) (tile out cols rows done i j mode : Nat) (next : Nat × Nat) :
    c'.swept tile out cols rows done i j mode next = { c' with
      ls := (eliminate c tile out cols i j).ls,
      arr := { c'.arr with
        sws0 := sweepWord mode cols rows (done + 1) next.1 next.2, sws1 := BitVec.ofNat 64 (2 ^ 20 * ((out + 2) % 1048576) + tile) } } := by
  have he : eliminate c' tile out cols i j = { c' with ls := (eliminate c tile out cols i j).ls } := lsOnly_eliminate tile out cols i j c c' h
  rw [Core.swept, he]

/-! #### The turns of RSWEEP -/

theorem popPips_onArr (s : State) (l : List Nat) (g : Arr → Arr) : popPips .c l (s.onArr g) = (popPips .c l s).onArr g := by
  induction l generalizing s with
  | nil => rfl
  | cons ch r ih =>
    rw [popPips, popPips, ← ih]
    congr 1
    simp only [State.onArr, State.onCore_comp]
    rfl

theorem takenC_onArr (s : State) (pip : BitVec 4) (g : Arr → Arr) : (s.onArr g).takenC pip = (s.takenC pip).onArr g := by
  unfold State.takenC
  rw [State.cur_onArr]
  split
  · rfl
  · exact popPips_onArr s _ g

theorem State.CTurn.onArr (h : s.CTurn pip) (g : Arr → Arr) : (s.onArr g).CTurn pip := by
  unfold State.CTurn
  rw [State.cur_onArr]
  exact h

/-- The checks of RSWEEP passed (R178, R182). -/
theorem rsweepOf_passed (hds : (s.cur.c.getA a).toNat < 2 ^ 32) (hm : s.cur.arr.swsMode ≤ 1) : rsweepOf a b s =
    if !s.cur.arr.inflight.isEmpty then .wait .other
    else sweepTurn (if s.cur.arr.swsMode = 1 then s else s.onArr fun r => r.startSweep (s.cur.c.getA a).toNat (s.cur.c.getA b).toNat) := by
  refine if_neg ?_
  rw [Nat.div_eq_of_lt hds]
  simp
  omega

theorem rsweepOf_recorded (hds : (s.cur.c.getA a).toNat < 2 ^ 32) (hm : s.cur.arr.swsMode = 1) (hi : s.cur.arr.inflight = []) :
    rsweepOf a b s = sweepTurn s := by
  rw [rsweepOf_passed hds (by omega), hi, if_pos hm]
  rfl

section Sweep

variable (h : s.CTurn pip)

include h

theorem rsweep_waits (hds : (s.cur.c.getA a).toNat < 2 ^ 32) (hm : s.cur.arr.swsMode ≤ 1) (hi : s.cur.arr.inflight ≠ []) :
    Completes (.rsweep a b pip) s (s.CWaits pip .other) := by
  refine ⟨_, exec_rsweep s, cWaits_engWord h ?_⟩
  rw [rsweepOf_passed (by rw [cur_takenC, Core.getA_taken]; exact hds) (by rw [cur_takenC, Core.arr_taken]; exact hm), cur_takenC, Core.arr_taken]
  refine if_pos ?_
  rw [Bool.not_eq_true', List.isEmpty_eq_false_iff]
  exact hi

theorem rsweep_illegal (hs : s.cur.surrogate = false)
    (hbad : (2 ^ 32 ≤ (s.cur.c.getA a).toNat ∧ s.cur.c.popped = false) ∨ 2 ≤ s.cur.arr.swsMode) : Completes (.rsweep a b pip) s s.CIllegal := by
  refine ⟨_, exec_rsweep s, cIllegal_engWord h hs (if_pos ?_)⟩
  have hlt : s.cur.arr.swsMode < 4 := by
    have := s.cur.arr.sws0.isLt
    unfold Arr.swsMode
    omega
  rw [cur_takenC, Core.getA_taken, Core.popped_taken, Core.arr_taken]
  rcases hbad with ⟨hds, hp⟩ | hm
  · have hpos : 0 < (s.cur.c.getA a).toNat / 2 ^ 32 := Nat.div_pos hds (by omega)
    rw [hp, bne_iff_ne.mpr hpos.ne']
    rfl
  · have hmode : s.cur.arr.swsMode = 2 ∨ s.cur.arr.swsMode = 3 := by omega
    rcases hmode with hm | hm <;> simp [hm]

/-- From an idle SWS the word acts as from one that records its descriptor (R178, R182). -/
theorem rsweep_starts (hds : (s.cur.c.getA a).toNat < 2 ^ 32) (hm : s.cur.arr.swsMode = 0) (hi : s.cur.arr.inflight = []) :
    exec (.rsweep a b pip) s =
      exec (.rsweep a b pip) (s.onArr fun r => r.startSweep (s.cur.c.getA a).toNat (s.cur.c.getA b).toNat) := by
  have hcur := cur_takenC s pip
  have hmode : (s.cur.arr.startSweep (s.cur.c.getA a).toNat (s.cur.c.getA b).toNat).swsMode = 1 :=
    (sws_sweepWord rfl (by omega) (by omega) (by omega) (by omega) (by omega) (by omega)).1
  rw [exec_rsweep, exec_rsweep]
  refine congrArg _ (engWord_turn_eq h (h.onArr _) (sweepTurn_ne_wait _) ?_ (?_ : _ = sweepTurn ((s.takenC pip).onArr fun r =>
    r.startSweep (s.cur.c.getA a).toNat (s.cur.c.getA b).toNat)))
  · rw [rsweepOf_passed (by rw [hcur, Core.getA_taken]; exact hds) (by rw [hcur, Core.arr_taken]; omega), hcur, Core.arr_taken,
      Core.getA_taken, Core.getA_taken, hi, hm]
    rfl
  · rw [takenC_onArr]
    refine rsweepOf_recorded ?_ ?_ ?_
    · rw [State.cur_onArr, hcur]
      exact (congrArg BitVec.toNat (s.cur.getA_taken pip a)).trans_lt hds
    · rw [State.cur_onArr, hcur, Core.arr_taken]
      exact hmode
    · rw [State.cur_onArr, hcur, Core.arr_taken]
      exact hi

end Sweep

section Recorded

variable {rows cols done i j tile out : Nat} (hds : (s.cur.c.getA a).toNat < 2 ^ 32) (hi : s.cur.arr.inflight = [])
  (hsw : s.cur.arr.Sweeping rows cols done i j tile out)

include hds hi hsw

theorem rsweepOf_taken : rsweepOf a b (s.takenC pip) = sweepWith (s.takenC pip) cols rows done i j tile out := by
  have hcur := cur_takenC s pip
  have hmode := (sws_sweepWord hsw.sws0 (by omega) (Nat.lt_of_le_of_lt hsw.cols_le (by omega)) (Nat.lt_of_le_of_lt hsw.rows_le (by omega))
    hsw.done_lt hsw.i_lt hsw.j_lt).1
  rw [rsweepOf_recorded (by rw [hcur, Core.getA_taken]; exact hds) (by rw [hcur, Core.arr_taken]; exact hmode)
    (by rw [hcur, Core.arr_taken]; exact hi)]
  exact sweepTurn_eq (by rw [hcur, Core.arr_taken]; exact hsw)

variable (h : s.CTurn pip)

include h

/-- No elimination is left. -/
theorem rsweep_ends (hj : min cols (rows - 1) ≤ j) : Completes (.rsweep a b pip) s (s.CEnds pip fun c =>
    { c with arr := { c.arr with sws0 := sweepWord 0 cols rows done i j } }) := by
  refine ⟨_, exec_rsweep s, cEnds_engWord h ?_ ⟨rfl, rfl⟩⟩
  rw [rsweepOf_taken hds hi hsw]
  exact if_pos hj

/-- An elimination that is not the last one. -/
theorem rsweep_goesOn (hj : j < min cols (rows - 1)) (hn : (sweepNext rows i j).2 < min cols (rows - 1)) :
    Completes (.rsweep a b pip) s (s.CGoesOn pip fun c => { c with
      ls := (eliminate s.cur tile out cols i j).ls,
      arr := { c.arr with
        sws0 := sweepWord 1 cols rows (done + 1) (sweepNext rows i j).1 (sweepNext rows i j).2,
        sws1 := BitVec.ofNat 64 (2 ^ 20 * ((out + 2) % 1048576) + tile) } }) := by
  refine ⟨_, exec_rsweep s, (cGoesOn_engWord h (f := fun c => c.swept tile out cols rows done i j 1 (sweepNext rows i j)) ?_).congr
    (Core.swept_eq (Core.ls_taken _ _) tile out cols rows done i j 1 _)⟩
  rw [rsweepOf_taken hds hi hsw, sweepWith, if_neg (Nat.not_le.mpr hj), decide_eq_true hn]
  rfl

/-- The last elimination: the mode of SWS becomes 0. -/
theorem rsweep_last (hj : j < min cols (rows - 1)) (hn : min cols (rows - 1) ≤ (sweepNext rows i j).2) :
    Completes (.rsweep a b pip) s (s.CEnds pip fun c => { c with
      ls := (eliminate s.cur tile out cols i j).ls,
      arr := { c.arr with
        sws0 := sweepWord 0 cols rows (done + 1) (sweepNext rows i j).1 (sweepNext rows i j).2,
        sws1 := BitVec.ofNat 64 (2 ^ 20 * ((out + 2) % 1048576) + tile) } }) := by
  have hswept := Core.swept_eq (s.cur.ls_taken pip) tile out cols rows done i j 0 (sweepNext rows i j)
  refine ⟨_, exec_rsweep s, (cEnds_engWord h (f := fun c => c.swept tile out cols rows done i j 0 (sweepNext rows i j)) ?_ ?_).congr hswept⟩
  · rw [rsweepOf_taken hds hi hsw, sweepWith, if_neg (Nat.not_le.mpr hj), decide_eq_false (Nat.not_lt.mpr hn)]
    rfl
  · rw [hswept]
    exact ⟨rfl, rfl⟩

end Recorded

end Sys2Proof.Machine
end

section
/-! ### RSTREAM (R174 to R177, R182) -/

namespace Sys2Proof.Machine

variable {s t : State} {pip n a b : BitVec 4} {f : BitVec 6}

/-! #### What RSTREAM comes to -/

/-- A descriptor or a format that R174 refuses, or SWS with the mode of a sweep or a reserved one (R182). -/
def refusedStream (e : FmtSel) (ds : Word) (mode : Nat) : Bool :=
  ds.toNat / 2 ^ 20 != 0 || ds.getLsbD 15 || e.inp != e.out || e.inp > 2 || mode == 1 || mode == 3

/-- What RSTREAM does with no stream in progress: its checks, then the stream that SWS records, or its first pass. -/
def streamBegin (n : Nat) (e : FmtSel) (ds : Word) (s : State) : Eff :=
  if refusedStream e ds s.cur.arr.swsMode then engIllegal .c s
  else if s.cur.arr.swsMode = 2 then .more (s.onArr fun r => { r with stream := some r.swsStream, sws0 := 0, sws1 := 0 })
  else streamLoad s 0 (ds.toNat % 32768 + 1) n

/-- The core after one vector of a stream. -/
def Core.streamed (c : Core) (a : BitVec 4) (e : FmtSel) (ds : Word) (seed : Nat) (x : StreamSt) : Core :=
  let c0 := c.preload seed (ds.toNat % 32768 + 1)
  let y := c0.arr.stream.getD x
  let c1 := streamVec c0 e (ds.toNat / 65536 % 16) (lsVecAddr (c0.c.getA a)) (ds.toNat % 32768 + 1) y.map y.vec
  { c1 with arr := { c1.arr with stream := some { y with vec := y.vec + 1 } } }

/-- What RSTREAM does with a stream in progress. -/
def streamGo (n : Nat) (a : BitVec 4) (e : FmtSel) (ds : Word) (seed : Nat) (x : StreamSt) (s : State) : Eff :=
  if x.vec > n then
    if !x.last && x.next.isNone then streamLoad s (x.pass + 1) (ds.toNat % 32768 + 1) n else streamNext s x n
  else
    let s1 := s.onCore fun c => c.streamed a e ds seed x
    if x.vec < n then .more s1 else streamNext s1 (s1.cur.arr.stream.getD x) n

/-- What RSTREAM does once its pips are popped. -/
def rstreamOf (n a b : BitVec 4) (f : BitVec 6) (s : State) : Eff :=
  match s.cur.arr.stream with
  | none => streamBegin n.toNat (s.fmtSel f) (s.cur.c.getA b) s
  | some x => streamGo n.toNat a (s.fmtSel f) (s.cur.c.getA b) s.fresh x
      (if s.cur.arr.swsMode = 2 then s.onArr fun r => { r with sws0 := 0, sws1 := 0 } else s)

theorem exec_rstream (s : State) : exec (.rstream n a b f pip) s = .next (engWord .c pip (rstreamOf n a b f) s) := rfl

/-! #### One vector of a pass -/

/-- A next pass that is loaded, or none to come: nothing is loaded ahead (R176). -/
theorem Core.preload_eq_self {c : Core} {x : StreamSt} (hx : c.arr.stream = some x) (hl : x.last = true ∨ x.next.isSome = true) (seed d : Nat) :
    c.preload seed d = c := by
  have hcond : (x.last || x.next.isSome || !Config.choice seed 610 x.pass) = true := by
    rcases hl with hl | hl
    · rw [hl, Bool.true_or, Bool.true_or]
    · rw [hl, Bool.or_true, Bool.true_or]
  simp only [Core.preload, hx, hcond, if_true]

/-- The core with one vector of a batch at `base` through the array, scattered into LS and drained. -/
def Core.vectorDone (c : Core) (base : Nat) (e : FmtSel) (ds : Word) (x : StreamSt) : Core :=
  streamVec c e (ds.toNat / 65536 % 16) base (ds.toNat % 32768 + 1) x.map x.vec

theorem Core.streamed_eq {c : Core} {x : StreamSt} (hx : c.arr.stream = some x) (hl : x.last = true ∨ x.next.isSome = true) (a : BitVec 4)
    (e : FmtSel) (ds : Word) (seed : Nat) {base : Nat} (hbase : lsVecAddr (c.c.getA a) = base) : c.streamed a e ds seed x =
      { c.vectorDone base e ds x with arr := { (c.vectorDone base e ds x).arr with stream := some { x with vec := x.vec + 1 } } } := by
  have hpre := Core.preload_eq_self hx hl seed (ds.toNat % 32768 + 1)
  simp only [Core.streamed, hpre, hx, Option.getD_some, Core.vectorDone, hbase]

/-- Lane i of a vector put where the lane map `map` of `c` has it (R176, Table 07.5). -/
def Core.scatterLane (c : Core) (map size : Nat) (place : Nat → Nat) (lanes : List Lane) (i : Nat) (y : Core) : Core :=
  if (c.mapEntry map i).1 then y else y.lsPut (place (c.mapEntry map i).2) size (lanes.getD i 0).toNat

theorem lsOnly_scatterLane (c : Core) (map size : Nat) (place : Nat → Nat) (lanes : List Lane) (i : Nat) :
    LsOnly (c.scatterLane map size place lanes i) := by
  intro y y' h
  unfold Core.scatterLane
  split
  · rw [← h]
  · exact lsOnly_lsPut _ _ (g := fun _ => (lanes.getD i 0).toNat) (fun _ _ _ => rfl) y y' h

/-- Vector k of a batch through the active plane, read by the lane map `map` (R176). -/
def Core.streamOut (c : Core) (e : FmtSel) (size : Nat) (place : Nat → Nat) (map : Nat) : AVec :=
  throughPlane e.inp (c.arr.plane c.arr.activeB) c.arr.activeB 0 ((List.range 64).map fun i =>
    if (c.mapEntry map i).1 then Num.fin false 0 0 else entryConvert e e.inp 0 (c.lsNat (place (c.mapEntry map i).2) size))

/-- What a drain counts of a vector of a stream: its flags alone. -/
def AVec.streamDrained (v : AVec) (e : FmtSel) : Drained :=
  ⟨[], (0, 0), v.lanes.foldl (fun n b => n ||| elemFlags e.inp { e with out := e.inp } b.toNat) 0⟩

/-- A vector of a stream: its lanes scattered in turn, then a drain. -/
def Core.streamScattered (c : Core) (e : FmtSel) (size : Nat) (place : Nat → Nat) (tag map : Nat) : Core :=
  let v := c.streamOut e size place map
  ((List.range 64).foldl (fun y i => c.scatterLane map size place v.lanes i y) c).afterDrain tag e v (v.streamDrained e)

theorem streamVec_eq (c : Core) (e : FmtSel) (tag base d map k : Nat) : streamVec c e tag base d map k =
    let size := if e.inp = 0 then 4 else 2
    c.streamScattered e size (fun i => base + k * d * size + i * size) tag map := rfl

theorem scatterLanes_eq (c : Core) (map size : Nat) (place : Nat → Nat) (lanes : List Lane) :
    ∃ m, (List.range 64).foldl (fun y i => c.scatterLane map size place lanes i y) c = { c with ls := m } :=
  ⟨_, LsOnly.foldl (lsOnly_scatterLane c map size place lanes) (List.range 64) c c rfl⟩

theorem Core.streamScattered_keeps (c : Core) (e : FmtSel) (size : Nat) (place : Nat → Nat) (tag map : Nat) :
    (c.streamScattered e size place tag map).pips = c.pips ∧ (c.streamScattered e size place tag map).engTrap = c.engTrap := by
  obtain ⟨m, hm⟩ := scatterLanes_eq c map size place (c.streamOut e size place map).lanes
  rw [Core.streamScattered, hm]
  exact ⟨rfl, rfl⟩

/-- A vector of a stream leaves the channels and the traps of its core. -/
theorem Core.vectorDone_keeps (c : Core) (base : Nat) (e : FmtSel) (ds : Word) (x : StreamSt) :
    (c.vectorDone base e ds x).pips = c.pips ∧ (c.vectorDone base e ds x).engTrap = c.engTrap := by
  rw [Core.vectorDone, streamVec_eq]
  exact c.streamScattered_keeps e _ _ _ _

/-! #### A pass taken out of the FIFO (R175 to R177) -/

theorem Core.mapEntry_taken (c : Core) (pip : BitVec 4) : (c.taken pip).mapEntry = c.mapEntry := by
  funext map lane
  simp only [Core.mapEntry, Core.arr_taken, lsNat_congr (Core.ls_taken _ _)]

@[simp] theorem Core.passIn_taken (c : Core) (pip : BitVec 4) (d : Nat) : (c.taken pip).passIn d = c.passIn d := by
  simp only [Core.passIn, Core.vec_taken, Core.arr_taken, Core.mapEntry_taken]

theorem Arr.activeB_setPlane (x : Arr) (l : Bool) (p : Plane) : (x.setPlane l p).activeB = x.activeB := by cases l <;> rfl

/-- The core with a pass taken out of the FIFO into the inactive plane, which is now active, and its stream. -/
def Core.passBegun (c : Core) (h : PassRec) (p : Plane) (st : Option StreamSt) : Core :=
  { c.takePass h p with arr := { (c.takePass h p).arr with activeB := !c.arr.activeB, stream := st } }

/-- The load of a pass that is not bad: the stream goes on at its first vector, or, the pass being skipped, behind its last one. -/
theorem streamLoad_ok {s : State} {pass d n : Nat} {h : PassRec} {p : Plane} {skip : Bool} (hp : s.cur.passIn d = .ok h p skip) :
    streamLoad s pass d n =
      if skip = false then .more (s.onCore fun c => c.passBegun h p (some ⟨pass, 0, h.last, h.scales, h.map, none⟩))
      else if h.last = false then .more (s.onCore fun c => c.passBegun h p (some ⟨pass, n + 1, false, h.scales, h.map, none⟩))
      else .done (s.onCore fun c => c.passBegun h p none) false := by
  have hactive : ∀ (c : Core), (c.takePass h p).arr.activeB = c.arr.activeB := fun c => Arr.activeB_setPlane _ _ _
  simp only [streamLoad, hp, streamNext, State.onArr, State.onCore_comp, hactive, Core.passBegun]
  cases skip
  · rfl
  · cases hl : h.last <;> rfl

/-- The next pass of a stream, whose plane is the inactive one: it is skipped if that is all identity and scales nothing (R177). -/
def Core.nextPass (c : Core) (n : Nat) (x : StreamSt) (l sc : Bool) (k : Nat) : StreamSt :=
  ⟨x.pass + 1, if (c.arr.plane (!c.arr.activeB)).bitmap = 0xFFFF ∧ sc = false then n + 1 else 0, l, sc, k, none⟩

/-- The core with the inactive plane active, and its stream. -/
def Core.toNextPass (c : Core) (st : StreamSt) : Core := { c with arr := { c.arr with activeB := !c.arr.activeB, stream := some st } }

theorem streamNext_loaded {x : StreamSt} {l sc : Bool} {k : Nat} (hl : x.last = false) (hnext : x.next = some (l, sc, k)) (n : Nat) :
    streamNext s x n = .more (s.onCore fun c => c.toNextPass (s.cur.nextPass n x l sc k)) := by
  have hskip : ((s.cur.arr.plane (!s.cur.arr.activeB)).bitmap == 0xFFFF && !sc) = true ↔
      (s.cur.arr.plane (!s.cur.arr.activeB)).bitmap = 0xFFFF ∧ sc = false := by
    rw [Bool.and_eq_true, beq_iff_eq, Bool.not_eq_true']
  simp only [streamNext, hl, hnext, hskip, Bool.false_eq_true, if_false]
  rfl

/-! #### The turns of RSTREAM -/

section Go

variable (h : s.CTurn pip) {x : StreamSt} (hx : s.cur.arr.stream = some x) (hm : s.cur.arr.swsMode ≠ 2)

include hx hm

theorem rstreamOf_go : rstreamOf n a b f (s.takenC pip) =
    streamGo n.toNat a (s.fmtSel f) (s.cur.c.getA b) (s.takenC pip).fresh x (s.takenC pip) := by
  simp only [rstreamOf, cur_takenC, fmtSel_takenC, Core.arr_taken, Core.getA_taken, hx, if_neg hm]

include h

/-- A vector before the last one of its pass. -/
theorem rstream_vector (hv : x.vec < n.toNat) (hl : x.last = true ∨ x.next.isSome = true) {base : Nat}
    (hbase : lsVecAddr (s.cur.c.getA a) = base) :
    Completes (.rstream n a b f pip) s (s.CGoesOn pip fun c => { c.vectorDone base (s.fmtSel f) (s.cur.c.getA b) x with
      arr := { (c.vectorDone base (s.fmtSel f) (s.cur.c.getA b) x).arr with stream := some { x with vec := x.vec + 1 } } }) := by
  refine ⟨_, exec_rstream s, (cGoesOn_engWord h
    (f := fun c => c.streamed a (s.fmtSel f) (s.cur.c.getA b) (s.takenC pip).fresh x) ?_).congr
    (Core.streamed_eq (by rw [Core.arr_taken]; exact hx) hl a _ _ _ (by rw [Core.getA_taken]; exact hbase))⟩
  rw [rstreamOf_go hx hm, streamGo, if_neg (by omega)]
  exact if_pos hv

/-- The last vector of the last pass: the stream is over. -/
theorem rstream_ends (hv : x.vec = n.toNat) (hl : x.last = true) {base : Nat} (hbase : lsVecAddr (s.cur.c.getA a) = base) :
    Completes (.rstream n a b f pip) s (s.CEnds pip fun c => { c.vectorDone base (s.fmtSel f) (s.cur.c.getA b) x with
      arr := { (c.vectorDone base (s.fmtSel f) (s.cur.c.getA b) x).arr with stream := none } }) := by
  have hstream := Core.streamed_eq (c := s.cur.taken pip) (by rw [Core.arr_taken]; exact hx) (.inl hl) a (s.fmtSel f) (s.cur.c.getA b)
    (s.takenC pip).fresh (base := base) (by rw [Core.getA_taken]; exact hbase)
  refine ⟨_, exec_rstream s, cEnds_engWord h ?_ (Core.vectorDone_keeps _ base (s.fmtSel f) (s.cur.c.getA b) x)⟩
  rw [rstreamOf_go hx hm, streamGo, if_neg (by omega), if_neg (by omega)]
  simp only [State.cur_onCore, cur_takenC, hstream, Option.getD_some, streamNext, hl, if_true, State.onArr, State.onCore_comp]
  refine congrArg (Eff.done · false) (State.onCore_congr _ ?_)
  rw [cur_takenC, hstream]

/-- Behind the last vector the next pass, which is loaded, becomes active (R176, R177). -/
theorem rstream_next (hv : n.toNat < x.vec) (hl : x.last = false) {l sc : Bool} {k : Nat} (hnext : x.next = some (l, sc, k)) :
    Completes (.rstream n a b f pip) s (s.CGoesOn pip fun c => { c with arr := { c.arr with
      activeB := !s.cur.arr.activeB,
      stream := some ⟨x.pass + 1, if (s.cur.arr.plane (!s.cur.arr.activeB)).bitmap = 0xFFFF ∧ sc = false then n.toNat + 1 else 0,
        l, sc, k, none⟩ } }) := by
  have hbody : rstreamOf n a b f (s.takenC pip) = .more ((s.takenC pip).onCore fun c =>
      c.toNextPass (s.cur.nextPass n.toNat x l sc k)) := by
    rw [rstreamOf_go hx hm, streamGo, if_pos hv, hl, hnext]
    refine (streamNext_loaded hl hnext n.toNat).trans ?_
    rw [cur_takenC, Core.nextPass, Core.arr_taken]
    rfl
  refine ⟨_, exec_rstream s, (cGoesOn_engWord h hbody).congr ?_⟩
  rw [Core.toNextPass, Core.arr_taken]
  rfl

end Go

section Begin

theorem refusedStream_eq_false_iff {e : FmtSel} {ds : Word} {mode : Nat} : refusedStream e ds mode = false ↔
    (ds.toNat < 2 ^ 20 ∧ ds.getLsbD 15 = false ∧ e.inp = e.out ∧ e.inp ≤ 2) ∧ mode ≠ 1 ∧ mode ≠ 3 := by
  have hdiv : ds.toNat / 2 ^ 20 = 0 ↔ ds.toNat < 2 ^ 20 := Nat.div_eq_zero_iff_lt (by omega)
  simp only [refusedStream, Bool.or_eq_false_iff, bne_eq_false_iff_eq, beq_eq_false_iff_ne, decide_eq_false_iff_not, Nat.not_lt, gt_iff_lt, hdiv]
  tauto

variable (hx : s.cur.arr.stream = none)

include hx

theorem rstreamOf_begin : rstreamOf n a b f (s.takenC pip) = streamBegin n.toNat (s.fmtSel f) (s.cur.c.getA b) (s.takenC pip) := by
  simp only [rstreamOf, cur_takenC, fmtSel_takenC, Core.arr_taken, Core.getA_taken, hx]

theorem rstreamOf_load (hl : s.StreamLegal b f) (hm : s.cur.arr.swsMode = 0) : rstreamOf n a b f (s.takenC pip) =
    streamLoad (s.takenC pip) 0 ((s.cur.c.getA b).toNat % 32768 + 1) n.toNat := by
  have hok := refusedStream_eq_false_iff.mpr ⟨hl, show s.cur.arr.swsMode ≠ 1 by omega, show s.cur.arr.swsMode ≠ 3 by omega⟩
  rw [rstreamOf_begin hx, streamBegin, cur_takenC, Core.arr_taken, hok, hm]
  rfl

variable (h : s.CTurn pip)

include h

theorem rstream_illegal (hs : s.cur.surrogate = false)
    (hbad : ¬ s.StreamLegal b f ∨ s.cur.arr.swsMode = 1 ∨ s.cur.arr.swsMode = 3) : Completes (.rstream n a b f pip) s s.CIllegal := by
  refine ⟨_, exec_rstream s, cIllegal_engWord h hs ?_⟩
  rw [rstreamOf_begin hx, streamBegin, cur_takenC, Core.arr_taken]
  refine if_pos ?_
  rw [← Bool.not_eq_false, refusedStream_eq_false_iff]
  rintro ⟨hl, h1, h3⟩
  exact hbad.elim (fun hb => hb hl) fun hm => hm.elim h1 h3

variable (hl : s.StreamLegal b f)

include hl

/-- The stream that SWS records goes on where it stopped (R182). -/
theorem rstream_resumes (hm : s.cur.arr.swsMode = 2) : Completes (.rstream n a b f pip) s (s.CGoesOn pip fun c =>
    { c with arr := { c.arr with stream := some s.cur.arr.swsStream, sws0 := 0, sws1 := 0 } }) := by
  refine ⟨_, exec_rstream s, (cGoesOn_engWord h
    (f := fun c => { c with arr := { c.arr with stream := some c.arr.swsStream, sws0 := 0, sws1 := 0 } }) ?_).congr (by rw [Core.arr_taken])⟩
  have hok := refusedStream_eq_false_iff.mpr ⟨hl, show s.cur.arr.swsMode ≠ 1 by omega, show s.cur.arr.swsMode ≠ 3 by omega⟩
  rw [rstreamOf_begin hx, streamBegin, cur_takenC, Core.arr_taken, hok, hm]
  rfl

variable (hm : s.cur.arr.swsMode = 0)

include hm

/-- The rest of a record, or a load in progress, is waited for (R175, R176). -/
theorem rstream_waits {w : EWait} (hp : s.cur.passIn ((s.cur.c.getA b).toNat % 32768 + 1) = .wait w) :
    Completes (.rstream n a b f pip) s (s.CWaits pip w) := by
  refine ⟨_, exec_rstream s, cWaits_engWord h ?_⟩
  rw [rstreamOf_load hx hl hm, streamLoad, cur_takenC, Core.passIn_taken, hp]

/-- A bad record traps DECODE with the slot that its first bytes come from (R175). -/
theorem rstream_decodeTrap (hs : s.cur.surrogate = false) (hp : s.cur.passIn ((s.cur.c.getA b).toNat % 32768 + 1) = .bad) :
    Completes (.rstream n a b f pip) s
      (s.EngineTraps .c ⟨0x09, (s.cur.vec.slots.headD (0, 0)).1, BitVec.ofNat 64 (s.cur.vec.slots.headD (0, 0)).2⟩) := by
  refine ⟨_, exec_rstream s, (cTraps_engWord h hs ?_).1⟩
  rw [rstreamOf_load hx hl hm, streamLoad, cur_takenC, Core.passIn_taken, hp, ← s.cur.vec_taken pip, ← cur_takenC]
  rfl

section Pass

variable {hd : PassRec} {p : Plane} {skip : Bool} (hp : s.cur.passIn ((s.cur.c.getA b).toNat % 32768 + 1) = .ok hd p skip)

include hp

omit h in
theorem rstreamOf_pass : rstreamOf n a b f (s.takenC pip) =
    if skip = false then .more ((s.takenC pip).onCore fun c => c.passBegun hd p (some ⟨0, 0, hd.last, hd.scales, hd.map, none⟩))
    else if hd.last = false then
      .more ((s.takenC pip).onCore fun c => c.passBegun hd p (some ⟨0, n.toNat + 1, false, hd.scales, hd.map, none⟩))
    else .done ((s.takenC pip).onCore fun c => c.passBegun hd p none) false :=
  (rstreamOf_load hx hl hm).trans (streamLoad_ok (by rw [cur_takenC, Core.passIn_taken, hp]))

/-- A pass begins at its first vector. -/
theorem rstream_begins (hsk : skip = false) : Completes (.rstream n a b f pip) s
    (s.CGoesOn pip fun c => c.passBegun hd p (some ⟨0, 0, hd.last, hd.scales, hd.map, none⟩)) :=
  ⟨_, exec_rstream s, cGoesOn_engWord h ((rstreamOf_pass hx hl hm hp).trans (if_pos hsk))⟩

/-- A pass that is skipped, and is not the last one (R177). -/
theorem rstream_skips (hsk : skip = true) (hlast : hd.last = false) : Completes (.rstream n a b f pip) s
    (s.CGoesOn pip fun c => c.passBegun hd p (some ⟨0, n.toNat + 1, false, hd.scales, hd.map, none⟩)) := by
  refine ⟨_, exec_rstream s, cGoesOn_engWord h ((rstreamOf_pass hx hl hm hp).trans ?_)⟩
  rw [hsk, if_neg (show ¬ (true = false) from Bool.noConfusion), if_pos hlast]

/-- The last pass is skipped, and the word is over. -/
theorem rstream_skipsLast (hsk : skip = true) (hlast : hd.last = true) :
    Completes (.rstream n a b f pip) s (s.CEnds pip fun c => c.passBegun hd p none) := by
  refine ⟨_, exec_rstream s, cEnds_engWord h ((rstreamOf_pass hx hl hm hp).trans ?_) ⟨rfl, rfl⟩⟩
  rw [hsk, hlast]
  rfl

end Pass

end Begin

theorem Core.passBegun_taken (c : Core) (pip : BitVec 4) (hd : PassRec) (p : Plane) (st : Option StreamSt) :
    (c.taken pip).passBegun hd p st = { (c.taken pip).takePass hd p with
      arr := { ((c.taken pip).takePass hd p).arr with activeB := !c.arr.activeB, stream := st } } := by
  rw [Core.passBegun, Core.arr_taken]

/-- Settles O41: RSWEEP performs one elimination of the sweep that SWS records (`rsweep_goesOn`, `rsweep_last`, `rsweep_ends`), after
`rsweep_starts` also of a new one; RSTREAM takes one vector (`rstream_vector`) or pass (`streamNext_loaded`, `streamLoad_ok`) at a turn. -/
theorem sweepsAndStreams : Obligations.SweepsAndStreams := by
  intro s n a b f pip h
  refine ⟨fun rows cols done i j tile out hi hds hi64 hj64 _ hr _ hc hd ho ht h0 h1 => ?_, fun hi hds hm => rsweep_starts h hds hm hi,
    fun hi hds hm => rsweep_waits h hds hm hi, fun hbad hs => rsweep_illegal h hs hbad, ?_, fun hx hl hm => rstream_resumes hx h hl hm,
    fun hx hl hm => ⟨fun w => rstream_waits hx h hl hm, fun hp hs => rstream_decodeTrap hx h hl hm hs hp, ?_⟩,
    fun hx hbad hs => rstream_illegal hx h hs hbad⟩
  · have hsw : s.cur.arr.Sweeping rows cols done i j tile out := ⟨h0, h1, hr, hc, hd, hi64, hj64, ht, ho⟩
    refine ⟨rsweep_ends hds hi hsw h, fun i' j' hj hn => ?_⟩
    obtain rfl : i' = (sweepNext rows i j).1 := congrArg Prod.fst hn
    obtain rfl : j' = (sweepNext rows i j).2 := congrArg Prod.snd hn
    exact ⟨rsweep_goesOn hds hi hsw h hj, rsweep_last hds hi hsw h hj⟩
  · rintro x g hx hm rfl
    exact ⟨fun hv hl => rstream_vector h hx hm hv hl rfl, fun hv hl => rstream_ends h hx hm hv hl rfl, fun l sc k hv hl hn =>
      rstream_next h hx hm hv hl hn⟩
  · rintro hd p skip g hp rfl
    refine ⟨fun hsk => ?_, fun hsk hlast => ?_, fun hsk hlast => ?_⟩
    · obtain ⟨t, ht, hgo⟩ := rstream_begins hx h hl hm hp hsk
      exact ⟨t, ht, hgo.congr (Core.passBegun_taken _ _ _ _ _)⟩
    · obtain ⟨t, ht, hgo⟩ := rstream_skips hx h hl hm hp hsk hlast
      exact ⟨t, ht, hgo.congr (Core.passBegun_taken _ _ _ _ _)⟩
    · obtain ⟨t, ht, hgo⟩ := rstream_skipsLast hx h hl hm hp hsk hlast
      exact ⟨t, ht, hgo.congr (Core.passBegun_taken _ _ _ _ _)⟩

end Sys2Proof.Machine
end

section
/-! ### A words: the operation started, illegal register values (R186, R190 to R195, R199, R205, R208, R209, R280, R324) -/

namespace Sys2Proof.Machine

variable {s t u : State} {k : BitVec 6} {a b c : BitVec 5}

/-! #### Changes of device tables -/

/-- Cores, the turn and every byte of memory are as before: only tables of the device may differ. -/
def State.SameCoresAndBytes (s t : State) : Prop := (∀ n, t.core n = s.core n) ∧ t.turn = s.turn ∧ ∀ l, t.byteAt l = s.byteAt l

theorem sameCoresAndBytes_refl (s : State) : s.SameCoresAndBytes s := ⟨fun _ => rfl, rfl, fun _ => rfl⟩

theorem State.SameCoresAndBytes.symm (h : s.SameCoresAndBytes t) : t.SameCoresAndBytes s :=
  ⟨fun n => (h.1 n).symm, h.2.1.symm, fun l => (h.2.2 l).symm⟩

theorem State.SameCoresAndBytes.trans (h : s.SameCoresAndBytes t) (h' : t.SameCoresAndBytes u) : s.SameCoresAndBytes u :=
  ⟨fun n => (h'.1 n).trans (h.1 n), h'.2.1.trans h.2.1, fun l => (h'.2.2 l).trans (h.2.2 l)⟩

theorem State.SameCoresAndBytes.agent (h : s.SameCoresAndBytes t) : t.agent = s.agent := State.agent_congr h.2.1

theorem State.SameCoresAndBytes.core (h : s.SameCoresAndBytes t) (n : Nat) : t.core n = s.core n := h.1 n

theorem State.SameCoresAndBytes.cur (h : s.SameCoresAndBytes t) : t.cur = s.cur := by rw [State.cur, h.agent]; exact h.1 _

theorem State.SameCoresAndBytes.who (h : s.SameCoresAndBytes t) : t.who = s.who := by simp [State.who, h.2.1]

theorem State.SameCoresAndBytes.inHusk (h : s.SameCoresAndBytes t) : t.inHusk = s.inHusk := by simp [State.inHusk, h.who]

theorem State.SameCoresAndBytes.ctx (h : s.SameCoresAndBytes t) : t.ctx = s.ctx := by rw [State.ctx, State.ctx, h.cur, h.inHusk]

theorem sameCoresAndBytes_updPod (s : State) (n : Nat) (f : Pod → Pod) : s.SameCoresAndBytes (s.updPod n f) :=
  ⟨fun _ => rfl, rfl, State.byteAt_congr rfl rfl rfl rfl⟩

theorem sameCoresAndBytes_updOp (s : State) (n : Nat) (f : AOp → AOp) : s.SameCoresAndBytes (s.updOp n f) :=
  ⟨State.core_congr (by simp), by simp, State.byteAt_congr (by simp) (by simp) (by simp) (by simp)⟩

/-- The same change of the current core keeps them the same. -/
theorem State.SameCoresAndBytes.onCore (h : s.SameCoresAndBytes t) (f : Core → Core) : (s.onCore f).SameCoresAndBytes (t.onCore f) := by
  refine ⟨fun n => ?_, h.2.1, fun l => ?_⟩
  · rw [State.onCore, State.onCore, State.core_updCore, State.core_updCore, h.agent, h.core, h.core]
  · rw [State.onCore, State.onCore, byteAt_updCore, byteAt_updCore, h.2.2]

theorem State.SameCoresAndBytes.advance (h : s.SameCoresAndBytes t) : s.advance.SameCoresAndBytes t.advance := by
  rw [State.advance, State.advance, State.onCtx, State.onCtx, h.inHusk]
  exact h.onCore _

/-- The frame of an A word does not see device tables. -/
theorem State.AFrame.of_sameCoresAndBytes {v : Tok} (h : s.AFrame k v t) (hu : t.SameCoresAndBytes u) : s.AFrame k v u := by
  obtain ⟨hcores, hg, hp, ⟨hpc, hpfx, hpend, hsplit, hstat⟩, hbytes, htok, hcur⟩ := h
  refine ⟨fun n hn => (hu.core n).trans (hcores n hn), fun r => ?_, fun q => ?_, ⟨?_, ?_, ?_, ?_, ?_⟩, fun l => (hu.2.2 l).trans (hbytes l),
    fun j => ?_, ?_⟩
  · rw [State.g, hu.ctx]; exact hg r
  · rw [State.p, hu.ctx]; exact hp q
  · rw [State.pc, hu.ctx]; exact hpc
  · rw [hu.ctx]; exact hpfx
  · rw [hu.ctx]; exact hpend
  · rw [hu.ctx]; exact hsplit
  · rw [hu.ctx]; exact hstat
  · rw [hu.cur]; exact htok j
  · rw [hu.cur, hu.ctx]; exact hcur

/-! #### What an A word without token waits comes to -/

/-- With nw 0 the word performs its operation. -/
theorem completes_aWord {i : Instr} {op : List (BitVec 6) → State → State} {P : State → Prop} (hp : s.Plain) (hl : i.legal = true)
    (he : exec i s = .next (aWord i 0 op s)) (h : P (op [] s)) : Completes i s P :=
  ⟨_, he, by rw [aWord, sWord_plain hp false hl, if_pos rfl]; exact h⟩

theorem surrogateNow_of_inUser (h : s.InUser) : s.surrogateNow = false := by simp [State.surrogateNow, h.2]

/-- A register value that the word's check refuses: `ILLEGAL` of the word. -/
theorem trappedIllegal_aOp (hu : s.InUser) (hp : s.Plain) (w : InstrWord) (ids : List (BitVec 6)) {bad : Bool} (hbad : bad = true)
    (run : State → State) : s.TrappedIllegal w (s.aOp k ids (illegalIf w bad) run) := by
  have h : s.aOp k ids (illegalIf w bad) run = s.illegalWord w s.pc := by
    rw [hbad, ← aAddr_of_plain hp]; rfl
  rw [h]
  exact trappedIllegal hu w

theorem illegalIf_false (w : InstrWord) {bad : Bool} (hbad : bad = false) : illegalIf w bad = none := by rw [hbad]; rfl

/-- Legal register values, no token waits and kout not pending: the operation runs at once. -/
theorem aOp_runs (h : s.AReady k) (w : InstrWord) {bad : Bool} (hbad : bad = false) (run : State → State) :
    s.aOp k [] (illegalIf w bad) run = run s := by
  rw [illegalIf_false w hbad, aOp_of_consume_ok rfl h.2.2]

/-! #### Operations in the table -/

/-- A copy takes the last place in the queue of the copy engine of its pod (R192). -/
theorem startsCopy_queueCopy (s : State) (kind : OpKind) (k : BitVec 6) : s.StartsCopy kind k (s.startOp kind k).queueCopy := by
  obtain ⟨hframe, hid, hops, ho⟩ := starts_startOp s kind k
  have hagent : (s.startOp kind k).agent = s.agent := rfl
  have hpods : (s.startOp kind k).pods = s.pods := rfl
  refine ⟨⟨hframe.of_sameCoresAndBytes (sameCoresAndBytes_updPod _ _ _), hid, hops, ho⟩, ?_⟩
  rw [State.queueCopy, hagent, State.pod_updPod, if_pos rfl, hid, State.pod, hpods]
  rfl

/-- A fabric operation is in progress from its start on (R208). -/
theorem starts_running (s : State) (kind : OpKind) (k : BitVec 6) :
    s.Starts kind k ((s.startOp kind k).updOp ((s.startOp kind k).nextId - 1) fun o => { o with stat := .running }) := by
  obtain ⟨hframe, hid, hops, o, ho, hkind, htok, hbase⟩ := starts_startOp s kind k
  rw [hid, Nat.add_sub_cancel]
  have hu : ((s.startOp kind k).updOp s.nextId fun o => { o with stat := .running }).ops =
      Cells.put (s.startOp kind k).ops s.nextId { o with stat := .running } := by simp only [State.updOp, ho]
  refine ⟨hframe.of_sameCoresAndBytes (sameCoresAndBytes_updOp _ _ _), by rw [State.updOp_nextId, hid], fun j hj => ?_,
    { o with stat := .running }, ?_, hkind, htok, hbase⟩
  · rw [hu, Cells.find?_put, if_neg hj.symm, hops j hj]
  · rw [hu, Cells.find?_put_self]

/-! #### The words one by one: legal values -/

section Ready

variable (h : s.AReady k)

include h in
theorem copy_starts (hfull : s.opsFull = false) (hc : c = 0 ∨ (s.g c).toNat % 16 = 0) :
    Completes (.copy k a b c 0) s (s.StartsCopy (.copy (s.g a) (s.g b) (if c = 0 then none else some (s.g c))) k) := by
  refine completes_aWord h.1 rfl rfl ?_
  rw [copyOp, aOp_runs h _ (by simpa [or_iff_not_imp_left] using hc), hfull]
  exact startsCopy_queueCopy s _ k

include h in
theorem copyl_starts (hfull : s.opsFull = false) (hc : s.g c ≠ 0) (hlt : (s.g c).toNat < 2 ^ 40) :
    Completes (.copyl k a b c 0) s (s.StartsCopy (.copyl (s.g a) (s.g b) (s.g c)) k) := by
  refine completes_aWord h.1 rfl rfl ?_
  rw [copylOp, aOp_runs h _ (decide_eq_false (by omega)), if_neg hc, hfull]
  exact startsCopy_queueCopy s _ k

include h in
theorem copyl_zero (hc : s.g c = 0) : Completes (.copyl k a b c 0) s (s.AFrame k (.done s.pts)) := by
  refine completes_aWord h.1 rfl rfl ?_
  rw [copylOp, aOp_runs h _ (by simp [hc]), if_pos hc]
  exact aFrame_setTok_advance s k _

include h in
theorem tpref_starts (hfull : s.opsFull = false) (hb : (s.g b).toNat < 8) :
    Completes (.tpref k a b 0) s (s.Starts (.tpref (s.g a) (s.g b)) k) := by
  refine completes_aWord h.1 rfl rfl ?_
  rw [tprefOp, aOp_runs h _ (decide_eq_false (by omega)), hfull]
  exact starts_startOp s _ k

include h in
/-- FSEND and FGET (R208). -/
theorem fabricOp_starts (w : InstrWord) (kind : OpKind) {len : Word} (hfull : s.opsFull = false) (hlen : len ≠ 0)
    (hlt : len.toNat < 2 ^ 32) : s.Starts kind k (fabricOp w kind len k [] s) := by
  rw [fabricOp, h.2.1, if_neg Bool.false_ne_true, aOp_runs h _ (decide_eq_false (by omega)), if_neg hlen, hfull]
  exact starts_running s kind k

include h in
theorem fabricOp_zero (w : InstrWord) (kind : OpKind) {len : Word} (hlen : len = 0) :
    s.AFrame k (.done s.pts) (fabricOp w kind len k [] s) := by
  rw [fabricOp, h.2.1, if_neg Bool.false_ne_true, aOp_runs h _ (by simp [hlen]), if_pos hlen]
  exact aFrame_setTok_advance s k _

include h in
/-- WPIN, WUNPIN and WOWN with legal values (R280). -/
theorem windowOp_starts (w : InstrWord) (which : Nat) (ha : (s.g a).toNat ≤ 63)
    (hbad : (if which = 2 then decide ((s.g b).toNat ≥ 2 ^ 20) || (s.g b).toNat / 256 % 16 != 0 || decide ((s.g b).toNat / 4096 % 16 > 6)
      else b != 0 && (s.g b).toNat % 8 != 0) = false) :
    s.Starts (.window which (s.g a) (if which = 2 ∨ b ≠ 0 then some (s.g b) else none)) k (windowOp w which k a b [] s) := by
  rw [windowOp, h.2.1, if_neg Bool.false_ne_true, aOp_runs h _ (by simp only [hbad, Bool.or_false, decide_eq_false_iff_not]; omega)]
  exact starts_startOp s _ k

include h in
theorem wpin_starts (ha : (s.g a).toNat ≤ 63) (hb : b = 0 ∨ (s.g b).toNat % 8 = 0) :
    Completes (.wpin k a b 0) s (s.Starts (.window 0 (s.g a) (if b = 0 then none else some (s.g b))) k) ∧
    Completes (.wunpin k a b 0) s (s.Starts (.window 1 (s.g a) (if b = 0 then none else some (s.g b))) k) := by
  have hbad : (b != 0 && (s.g b).toNat % 8 != 0) = false := by simpa [or_iff_not_imp_left] using hb
  have hv (which : Nat) (hw : which ≠ 2) :
      (if which = 2 ∨ b ≠ 0 then some (s.g b) else none) = if b = 0 then none else some (s.g b) := by
    by_cases hb0 : b = 0 <;> simp [hb0, hw]
  refine ⟨completes_aWord h.1 rfl rfl ?_, completes_aWord h.1 rfl rfl ?_⟩
  · exact hv 0 (by decide) ▸ windowOp_starts h _ 0 ha hbad
  · exact hv 1 (by decide) ▸ windowOp_starts h _ 1 ha hbad

include h in
theorem wown_starts (ha : (s.g a).toNat ≤ 63) (hlt : (s.g b).toNat < 2 ^ 20) (hz : (s.g b).toNat / 256 % 16 = 0)
    (hcls : (s.g b).toNat / 4096 % 16 ≤ 6) : Completes (.wown k a b 0) s (s.Starts (.window 2 (s.g a) (some (s.g b))) k) :=
  completes_aWord h.1 rfl rfl (windowOp_starts h _ 2 ha (by
    rw [if_pos rfl, decide_eq_false (by omega), hz, decide_eq_false (by omega)]; rfl))

include h in
theorem rtrim_starts (ha : (s.g a).toNat % 128 = 0) : Completes (.rtrim k a 0) s (s.Starts (.trim (s.g a)) k) := by
  refine completes_aWord h.1 rfl rfl ?_
  rw [rtrimOp, h.2.1, if_neg Bool.false_ne_true, aOp_runs h _ (by simp [ha])]
  exact starts_startOp s _ k

end Ready

/-- Settles O21, word by word: with legal values the operation runs (`aOp_runs`), and it starts one entry of the table
(`starts_startOp`), in the queue of the copy engine (`startsCopy_queueCopy`) or in progress (`starts_running`). -/
theorem asynchronousOperations : Obligations.AsynchronousOperations := by
  intro s k a b c h
  refine ⟨fun hfull => ⟨copy_starts h hfull, copyl_starts h hfull, tpref_starts h hfull, fun hc hlt => ⟨?_, ?_⟩⟩,
    fun hc => ⟨copyl_zero h hc, ?_, ?_⟩, fun ha => ⟨wpin_starts h ha, wown_starts h ha⟩, rtrim_starts h⟩
  · exact completes_aWord h.1 rfl rfl (fabricOp_starts h _ _ hfull hc hlt)
  · exact completes_aWord h.1 rfl rfl (fabricOp_starts h _ _ hfull hc hlt)
  · exact completes_aWord h.1 rfl rfl (fabricOp_zero h _ _ hc)
  · exact completes_aWord h.1 rfl rfl (fabricOp_zero h _ _ hc)

/-! #### Illegal values -/

section Illegal

variable (hu : s.InUser) (hp : s.Plain)

include hu hp in
theorem fabricOp_illegal (w : InstrWord) (kind : OpKind) {len : Word} (hlen : 2 ^ 32 ≤ len.toNat) :
    s.TrappedIllegal w (fabricOp w kind len k [] s) := by
  rw [fabricOp, surrogateNow_of_inUser hu]
  exact trappedIllegal_aOp hu hp w [] (decide_eq_true hlen) _

include hu hp in
theorem windowOp_illegal (w : InstrWord) (which : Nat) (ha : 63 < (s.g a).toNat) :
    s.TrappedIllegal w (windowOp w which k a b [] s) := by
  rw [windowOp, surrogateNow_of_inUser hu]
  exact trappedIllegal_aOp hu hp w [] (by rw [decide_eq_true ha, Bool.true_or]) _

include hu hp in
theorem rtrimOp_illegal (w : InstrWord) (ha : (s.g a).toNat % 128 ≠ 0) : s.TrappedIllegal w (rtrimOp w k a [] s) := by
  rw [rtrimOp, surrogateNow_of_inUser hu]
  exact trappedIllegal_aOp hu hp w [] (bne_iff_ne.mpr ha) _

include hu hp in
theorem sigsOp_illegal (w : InstrWord) (ha : 4096 ≤ (s.g a).toNat) : s.TrappedIllegal w (sigsOp w k a b [] s) := by
  rw [sigsOp, surrogateNow_of_inUser hu]
  exact trappedIllegal_aOp hu hp w [] (decide_eq_true ha) _

/-- Outside its wait SIGW makes the common steps of an A word. -/
theorem sigwOp_first (hw : ∀ i th m, s.ctx.stat ≠ .waiting (.signal i th m)) (w : InstrWord) (k : BitVec 6) (a b : BitVec 5)
    (ids : List (BitVec 6)) : ∃ run, sigwOp w k a b ids s = s.aOp k ids (illegalIf w (decide ((s.g a).toNat ≥ 4096))) run := by
  unfold sigwOp
  split
  next heq => exact absurd heq (hw _ _ _)
  next heq => exact absurd heq (hw _ _ _)
  next => exact ⟨_, rfl⟩

include hu hp in
theorem sigwOp_illegal (w : InstrWord) (ha : 4096 ≤ (s.g a).toNat) (hw : ∀ i th m, s.ctx.stat ≠ .waiting (.signal i th m)) :
    s.TrappedIllegal w (sigwOp w k a b [] s) := by
  obtain ⟨run, hrun⟩ := sigwOp_first hw w k a b []
  rw [hrun]
  exact trappedIllegal_aOp hu hp w [] (decide_eq_true ha) _

include hu hp in
theorem toknOp_illegal (w : InstrWord) (ha : a ≠ 0) (hv : 64 ≤ (s.g a).toNat) : s.TrappedIllegal w (toknOp w k a b c [] s) := by
  have hmem : a ∈ [a, b, c].filter fun r => r != 0 := List.mem_filter.mpr ⟨List.mem_cons_self, bne_iff_ne.mpr ha⟩
  exact trappedIllegal_aOp hu hp w [] (List.any_eq_true.mpr ⟨a, hmem, decide_eq_true hv⟩) _

end Illegal

/-- Settles O22: the check of each word refuses the value (`trappedIllegal_aOp`). -/
theorem illegalOperands : Obligations.IllegalOperands := by
  intro s k a b c hu hp
  refine ⟨fun hc hal => completes_aWord hp rfl rfl ?_, fun hlen => completes_aWord hp rfl rfl ?_, fun hb => completes_aWord hp rfl rfl ?_,
    fun hlen => ⟨completes_aWord hp rfl rfl ?_, completes_aWord hp rfl rfl ?_⟩,
    fun ha => ⟨completes_aWord hp rfl rfl ?_, completes_aWord hp rfl rfl ?_, completes_aWord hp rfl rfl ?_⟩,
    fun ha => completes_aWord hp rfl rfl ?_,
    fun ha => ⟨completes_aWord hp rfl rfl ?_, fun hw => completes_aWord hp rfl rfl ?_⟩, fun ha hv => completes_aWord hp rfl rfl ?_⟩
  · exact trappedIllegal_aOp hu hp _ [] (by rw [bne_iff_ne.mpr hc, bne_iff_ne.mpr hal]; rfl) _
  · exact trappedIllegal_aOp hu hp _ [] (decide_eq_true hlen) _
  · exact trappedIllegal_aOp hu hp _ [] (decide_eq_true hb) _
  · exact fabricOp_illegal hu hp _ _ hlen
  · exact fabricOp_illegal hu hp _ _ hlen
  · exact windowOp_illegal hu hp _ 0 ha
  · exact windowOp_illegal hu hp _ 1 ha
  · exact windowOp_illegal hu hp _ 2 ha
  · exact rtrimOp_illegal hu hp _ ha
  · exact sigsOp_illegal hu hp _ ha
  · exact sigwOp_illegal hu hp _ ha hw
  · exact toknOp_illegal hu hp _ ha hv

end Sys2Proof.Machine
end

section
/-! ### Arrivals at barriers and at the memory plan (R200 to R204, R207, R274) -/

namespace Sys2Proof.Machine

variable {s t u : State} {k : BitVec 6} {a b c e f : BitVec 5} {d : Word} {x : Binding} {g : Gang} {r : BarRef} {p : Part} {i n : Nat}

/-! #### The barrier that a descriptor names, and its fields -/

/-- The barrier of the gang that a descriptor names (R200). -/
def gangRef (x : Binding) (d : Word) : BarRef := ⟨x.gang, d.toNat / 65536⟩

/-- The fabric barrier of the partition that a descriptor names (R204). -/
def fabricRef (n : Nat) (d : Word) : BarRef := ⟨n, 64 + d.toNat / 65536 % 64⟩

theorem getLsbD_22_of_lt {d : Word} (h : d.toNat < 2 ^ 22) : d.getLsbD 22 = false := by
  rw [BitVec.getLsbD, Nat.testBit_lt_two_pow h]

theorem getLsbD_22_of_le {d : Word} (h : 2 ^ 22 ≤ d.toNat) (h' : d.toNat < 2 ^ 23) : d.getLsbD 22 = true := by
  rw [BitVec.getLsbD, Nat.testBit_eq_decide_div_mod_eq]
  exact decide_eq_true (by omega)

theorem barOf_gang (hb : s.cur.binding = some x) (hd : d.toNat < 2 ^ 22) : s.barOf s.agent d = some (gangRef x d) := by
  have hbind : (s.core s.agent).binding = some x := hb
  have hmod : d.toNat / 65536 % 64 = d.toNat / 65536 := Nat.mod_eq_of_lt (by omega)
  rw [State.barOf, getLsbD_22_of_lt hd, hbind, gangRef, hmod]
  rfl

theorem barOf_fabric (hp : s.partOf s.agent = some n) (hd : 2 ^ 22 ≤ d.toNat) (hd' : d.toNat < 2 ^ 23) :
    s.barOf s.agent d = some (fabricRef n d) := by
  rw [State.barOf, getLsbD_22_of_le hd hd', hp]
  rfl

theorem barrier_gang (hg : Cells.find? s.gangs i = some g) (hn : n < 64) : s.barrier ⟨i, n⟩ = Cells.get Barrier.reset g.barriers n := by
  simp only [State.barrier, if_pos hn, hg]

theorem fbar_part (hp : Cells.find? s.parts i = some p) (n : Nat) : s.fbar i n = Cells.get ⟨0, Barrier.reset, []⟩ p.fbars n := by
  simp only [State.fbar, hp]

theorem barrier_gangRef (hg : Cells.find? s.gangs x.gang = some g) (hd : d.toNat < 2 ^ 22) :
    s.barrier (gangRef x d) = Cells.get Barrier.reset g.barriers (d.toNat / 65536) := barrier_gang hg (by omega)

theorem fbar_fabricRef (hp : Cells.find? s.parts n = some p) (d : Word) :
    s.fbar (fabricRef n d).owner ((fabricRef n d).number - 64) = p.fabricBar d := by
  rw [fabricRef, Nat.add_sub_cancel_left, fbar_part hp]
  rfl

theorem not_number_fabricRef_lt (n : Nat) (d : Word) : ¬ (fabricRef n d).number < 64 :=
  Nat.not_lt.mpr (Nat.le_add_right 64 _)

theorem barrier_fabricRef (hp : Cells.find? s.parts n = some p) (d : Word) : s.barrier (fabricRef n d) = (p.fabricBar d).bar := by
  rw [State.barrier, if_neg (not_number_fabricRef_lt n d), fbar_fabricRef hp]

theorem counts_gang (hn : r.number < 64) : s.counts r = true := by simp [State.counts, hn]

theorem counts_gangRef (hd : d.toNat < 2 ^ 22) : s.counts (gangRef x d) = true := counts_gang (by show d.toNat / 65536 < 64; omega)

theorem counts_fabricRef (hp : Cells.find? s.parts n = some p) (d : Word) : s.counts (fabricRef n d) = fbMaster (p.fabricBar d).entry := by
  rw [State.counts, decide_eq_false (not_number_fabricRef_lt n d), fbar_fabricRef hp, Bool.false_or]

theorem badDesc_eq_false_of_lt (hd : d.toNat < 2 ^ 22) : badDesc d = false := by
  rw [badDesc, getLsbD_22_of_lt hd, decide_eq_false (by omega)]; rfl

theorem badDesc_eq_false_of_mod (hd : d.toNat < 2 ^ 23) (hm : d.toNat % 65536 = 0) : badDesc d = false := by
  rw [badDesc, decide_eq_false (by omega), hm]; simp

theorem barWaiting_eq_none (h : ∀ e ph, s.ctx.stat ≠ .waiting (.barrier e ph)) : s.barWaiting = none := by
  unfold State.barWaiting
  split
  next heq => exact absurd heq (h _ _)
  next => rfl

/-! #### A phase that takes one more arrival -/

/-- The phase of the barrier is not full, and takes an arrival with this count and kind from this device (R201, R204). -/
def State.Takes (s : State) (r : BarRef) (n : Nat) (collx : Bool) : Prop :=
  s.phaseFull r = false ∧ s.badArrival r n collx = false ∧ s.phaseSpent r n = false ∧ s.flowsOpen r = false

theorem tryPhase_of_not_full (h : s.phaseFull r = false) : s.tryPhase r = s := by
  simp only [State.tryPhase, h, Bool.false_and, Bool.false_eq_true, if_false]

/-- A barrier of the gang with an open phase, the same count and the same kind. -/
theorem takes_gang (hn : r.number < 64) {collx : Bool} (hkind : (s.barrier r).isCollx ≠ some (!collx))
    (hopen : (s.barrier r).count = 0 ∨ ((s.barrier r).count < (s.barrier r).n ∧ (s.barrier r).n = n)) : s.Takes r n collx := by
  have hnum : decide (r.number ≥ 64) = false := decide_eq_false (by omega)
  refine ⟨?_, ?_, ?_, ?_⟩
  · simp only [State.phaseFull, counts_gang hn, Bool.true_and, Bool.and_eq_false_iff, bne_eq_false_iff_eq, decide_eq_false_iff_not]
    omega
  · have hcount : ((s.barrier r).count != 0 && (s.barrier r).n != n) = false := by
      simp only [Bool.and_eq_false_iff, bne_eq_false_iff_eq]
      omega
    simp only [State.badArrival, hnum, Bool.false_and, Bool.false_or, hcount, beq_eq_false_iff_ne]
    exact hkind
  · simp [State.phaseSpent, counts_gang hn]
  · simp only [State.flowsOpen, hnum, Bool.false_and]

/-- A valid entry of a fabric barrier with an open phase of the same kind. -/
theorem takes_fabric (hvalid : fbValid (s.fbar r.owner (r.number - 64)).entry = true) {collx : Bool}
    (hkind : (s.barrier r).isCollx ≠ some (!collx)) (hlt : (s.barrier r).count < n) (hopen : (s.barrier r).count = 0 ∨ (s.barrier r).n = n)
    (hflows : s.flowsOpen r = false) : s.Takes r n collx := by
  refine ⟨?_, ?_, ?_, hflows⟩
  · simp only [State.phaseFull, Bool.and_eq_false_iff, bne_eq_false_iff_eq, decide_eq_false_iff_not]
    omega
  · have hcount : ((s.barrier r).count != 0 && (s.barrier r).n != n) = false := by
      simp only [Bool.and_eq_false_iff, bne_eq_false_iff_eq]
      omega
    simp only [State.badArrival, hvalid, Bool.not_true, Bool.and_false, Bool.false_or, hcount, beq_eq_false_iff_ne]
    exact hkind
  · simp only [State.phaseSpent, Bool.and_eq_false_iff, decide_eq_false_iff_not]
    omega

/-! #### The state after an arrival -/

/-- The arrival is counted and kout is pending; combining buffers leave first where a release goes to another device (R203). -/
def State.arrive (s : State) (r : BarRef) (d : Word) (ts : Option Word) (collx : Bool) (k : BitVec 6) : State :=
  ((if ts.isSome && !s.counts r then s.sendAllCombs s.agent else s).arriveAt r d (s.barCount r d) ts collx).setTok k .pending

/-- The barrier with one more arrival, which carries a timestamp if it is a release. -/
def Barrier.arrive (b : Barrier) (n : Nat) (ts : Option Word) (collx : Bool) : Barrier :=
  arrived b n (match ts with | some t => wmax b.ts t | none => b.ts) collx

theorem sameCoresAndBytes_updGang (s : State) (n : Nat) (f : Gang → Gang) : s.SameCoresAndBytes (s.updGang n f) :=
  ⟨State.core_congr (by simp), by simp, State.byteAt_congr (by simp) (by simp) (by simp) (by simp)⟩

theorem sameCoresAndBytes_updPart (s : State) (n : Nat) (f : Part → Part) : s.SameCoresAndBytes (s.updPart n f) :=
  ⟨State.core_congr (by simp), by simp, State.byteAt_congr (by simp) (by simp) (by simp) (by simp)⟩

theorem sameCoresAndBytes_updBarrier (s : State) (r : BarRef) (f : Barrier → Barrier) : s.SameCoresAndBytes (s.updBarrier r f) := by
  unfold State.updBarrier
  split
  · exact sameCoresAndBytes_updGang s _ _
  · exact sameCoresAndBytes_updPart s _ _

theorem sameCoresAndBytes_arriveAt (s : State) (r : BarRef) (d : Word) (n : Nat) (ts : Option Word) (collx : Bool) :
    s.SameCoresAndBytes (s.arriveAt r d n ts collx) := by
  rw [State.arriveAt]
  cases s.cur.binding with
  | some x => exact (sameCoresAndBytes_updBarrier s _ _).trans (sameCoresAndBytes_updGang _ _ _)
  | none => exact sameCoresAndBytes_updBarrier s _ _

theorem sameCoresAndBytes_sendArrival (s : State) (r : BarRef) (ph : Nat) (rel wt : Bool) (k : BitVec 6) :
    s.SameCoresAndBytes (s.sendArrival r ph rel wt k) := by
  unfold State.sendArrival
  split
  · exact sameCoresAndBytes_refl s
  · exact ⟨State.core_congr rfl, rfl, State.byteAt_congr rfl rfl rfl rfl⟩

theorem updBarrier_ops (s : State) (r : BarRef) (f : Barrier → Barrier) :
    (s.updBarrier r f).ops = s.ops ∧ (s.updBarrier r f).nextId = s.nextId := by
  unfold State.updBarrier
  split <;> simp

theorem find?_updBarrier_gang (hg : Cells.find? s.gangs i = some g) (hn : n < 64) (f : Barrier → Barrier) :
    Cells.find? (s.updBarrier ⟨i, n⟩ f).gangs i =
      some { g with barriers := Cells.put g.barriers n (f (Cells.get Barrier.reset g.barriers n)) } := by
  rw [State.updBarrier, if_pos hn, State.find?_updGang, if_pos rfl, hg]
  rfl

theorem find?_updBarrier_fabricRef (hp : Cells.find? s.parts n = some p) (d : Word) (f : Barrier → Barrier) :
    ∃ q, Cells.find? (s.updBarrier (fabricRef n d) f).parts n = some q ∧
      q.fabricBar d = { p.fabricBar d with bar := f (p.fabricBar d).bar } := by
  rw [State.updBarrier, if_neg (not_number_fabricRef_lt n d), fabricRef, Nat.add_sub_cancel_left, State.find?_updPart, if_pos rfl, hp]
  exact ⟨_, rfl, Cells.get_put_self _ _ _ _⟩

theorem updBarrier_fabricRef_gangs (s : State) (n : Nat) (d : Word) (f : Barrier → Barrier) :
    (s.updBarrier (fabricRef n d) f).gangs = s.gangs := by
  rw [State.updBarrier, if_neg (not_number_fabricRef_lt n d), State.updPart_gangs]

/-- A state whose cores read as those of another state, with all else the same, arrives as the other one. -/
theorem arrive_base (s : State) (hcomb : s.counts r = true ∨ s.cur.comb = []) (ts : Option Word) :
    ∃ c, (if ts.isSome && !s.counts r then s.sendAllCombs s.agent else s) = { s with cores := c } ∧
      s.SameCoresAndBytes { s with cores := c } := by
  split
  next hneg =>
    have hcomb : s.cur.comb = [] := hcomb.resolve_left fun hc => by simp [hc] at hneg
    obtain ⟨c, hc, hcore⟩ := sendAllCombs_of_nil hcomb
    exact ⟨c, hc, hcore, rfl, State.byteAt_congr rfl rfl rfl rfl⟩
  next => exact ⟨s.cores, rfl, sameCoresAndBytes_refl s⟩

/-- What counting an arrival leaves, but for the barrier: only kout in the core, no operation. -/
theorem arrive_frame (hcomb : s.counts r = true ∨ s.cur.comb = []) (d : Word) (ts : Option Word) (collx : Bool) (k : BitVec 6) :
    (s.setTok k .pending).SameCoresAndBytes (s.arrive r d ts collx k) ∧ (s.arrive r d ts collx k).ops = s.ops ∧
      (s.arrive r d ts collx k).nextId = s.nextId := by
  obtain ⟨c, hc, hsame⟩ := arrive_base s hcomb ts
  rw [State.arrive, hc]
  refine ⟨(hsame.trans (sameCoresAndBytes_arriveAt _ _ _ _ _ _)).onCore _, ?_, ?_⟩
  · rw [State.setTok_ops, State.arriveAt]
    split <;> simp [updBarrier_ops]
  · rw [State.setTok_nextId, State.arriveAt]
    split <;> simp [updBarrier_ops]

/-- The gang after an arrival at one of its barriers. -/
def Gang.arrivedAt (g : Gang) (n key : Nat) (b : Barrier) : Gang :=
  { g with barriers := Cells.put g.barriers n b,
           arrivals := Cells.put g.arrivals key (Cells.get Barrier.reset g.barriers n).phase }

theorem arrive_gangRef (hb : s.cur.binding = some x) (hg : Cells.find? s.gangs x.gang = some g) (hd : d.toNat < 2 ^ 22) (ts : Option Word)
    (collx : Bool) (k : BitVec 6) :
    Cells.find? (s.arrive (gangRef x d) d ts collx k).gangs x.gang =
      some (g.arrivedAt (d.toNat / 65536) (arrivalKey s.cur.gangRank.toNat d)
        ((Cells.get Barrier.reset g.barriers (d.toNat / 65536)).arrive (s.barCount (gangRef x d) d) ts collx)) := by
  have hn : d.toNat / 65536 < 64 := by omega
  rw [State.arrive, counts_gangRef hd, Bool.not_true, Bool.and_false, if_neg Bool.false_ne_true, State.setTok_gangs, State.arriveAt, hb,
    barrier_gangRef hg hd]
  simp only
  rw [State.find?_updGang, if_pos rfl, gangRef, find?_updBarrier_gang hg hn]
  rfl

theorem arrive_fabricRef (hb : s.cur.binding = some x) (hg : Cells.find? s.gangs x.gang = some g) (hp : Cells.find? s.parts n = some p)
    (hcomb : s.cur.comb = []) (d : Word) (ts : Option Word) (collx : Bool) (k : BitVec 6) :
    (∃ h, Cells.find? (s.arrive (fabricRef n d) d ts collx k).gangs x.gang = some h ∧
      Cells.find? h.arrivals (arrivalKey s.cur.gangRank.toNat d) = some (p.fabricBar d).bar.phase) ∧
    ∃ q, Cells.find? (s.arrive (fabricRef n d) d ts collx k).parts n = some q ∧
      q.fabricBar d = { p.fabricBar d with bar := (p.fabricBar d).bar.arrive (s.barCount (fabricRef n d) d) ts collx } := by
  obtain ⟨c, hc, hsame⟩ := arrive_base (r := fabricRef n d) s (.inr hcomb) ts
  have hp' : Cells.find? { s with cores := c }.parts n = some p := hp
  have hg' : Cells.find? { s with cores := c }.gangs x.gang = some g := hg
  rw [State.arrive, hc, State.setTok_gangs, State.setTok_parts, State.arriveAt, hsame.cur, hb, barrier_fabricRef hp']
  simp only
  constructor
  · rw [State.find?_updGang, if_pos rfl, updBarrier_fabricRef_gangs, hg']
    exact ⟨_, rfl, Cells.find?_put_self _ _ _⟩
  · rw [State.updGang_parts]
    exact find?_updBarrier_fabricRef hp' d _

/-! #### The packet of an arrival (R203, R204) -/

theorem sendArrival_tables (s : State) (r : BarRef) (ph : Nat) (rel wt : Bool) (k : BitVec 6) :
    (s.sendArrival r ph rel wt k).gangs = s.gangs ∧ (s.sendArrival r ph rel wt k).parts = s.parts := by
  unfold State.sendArrival
  split <;> exact ⟨rfl, rfl⟩

theorem sendArrival_counts (h : s.counts r = true) (ph : Nat) (rel wt : Bool) (k : BitVec 6) : s.sendArrival r ph rel wt k = s := by
  rw [State.sendArrival, if_pos h]

theorem sendArrival_packet (h : s.counts r = false) (ph : Nat) (rel wt : Bool) (k : BitVec 6) :
    ∃ o, Cells.find? (s.sendArrival r ph rel wt k).ops s.nextId = some o ∧ o.tok = s.tokRef k ∧
      o.kind = .barrier r.owner r.number wt ph rel s.pts (!rel) := by
  rw [State.sendArrival, h, if_neg Bool.false_ne_true]
  exact ⟨_, Cells.find?_put_self _ _ _, rfl, rfl⟩

/-! #### The core and memory after an arrival -/

/-- What an arrival leaves in cores and memory: kout is pending. -/
def State.Pended (s : State) (k : BitVec 6) (t : State) : Prop :=
  (∀ n, n ≠ s.agent → t.core n = s.core n) ∧ s.SameG t ∧ s.SameP t ∧ (∀ l, t.byteAt l = s.byteAt l) ∧ s.TokenSet k .pending t

/-- S goes on. -/
theorem pended_advance (h : (s.setTok k .pending).SameCoresAndBytes u) : s.Pended k u.advance ∧ u.advance.StandsAt (s.pc + 4) := by
  obtain ⟨hcores, hg, hp, hstands, hbytes, htok, _⟩ := (aFrame_setTok_advance s k .pending).of_sameCoresAndBytes h.advance
  exact ⟨⟨hcores, hg, hp, hbytes, htok⟩, hstands⟩

/-- S waits at the word. -/
theorem pended_await (h : (s.setTok k .pending).SameCoresAndBytes u) (w : Wait) :
    s.Pended k (u.await w) ∧ (u.await w).pc = s.pc ∧ (u.await w).ctx.stat = .waiting w := by
  have hctx : u.ctx = s.ctx := h.ctx.trans (State.ctx_setTok s k _)
  have hctx' : (u.await w).ctx = s.ctx.await w u.fresh := (State.ctx_await u w).trans (by rw [hctx])
  obtain ⟨_, hcores, hbytes⟩ := (onlyCtx_await u w).1
  refine ⟨⟨fun n hn => ?_, sameG_of_ctx hctx' rfl, sameP_of_ctx hctx' rfl, fun l => ?_, fun j => ?_⟩, ?_, ?_⟩
  · rw [hcores n (by rw [h.agent]; exact hn), h.core, State.setTok, State.core_onCore_ne s hn]
  · rw [hbytes, h.2.2, State.setTok, State.onCore, byteAt_updCore]
  · rw [State.cur_await, Core.tok_setCtx, h.cur, State.cur_setTok, Core.tok_setTok_eq_if]
  · rw [State.pc, hctx']; rfl
  · rw [hctx']; rfl

/-! #### The words (R200 to R202, R207) -/

section Words

variable (h : s.AReady k) (hmem : s.memPending = false)

include h hmem in
/-- BAR, BARA and BARAX at a barrier that takes the arrival: it is counted, and a packet leaves where another device counts. -/
theorem barArrive_arrives (hbar : s.barOf s.agent (s.g a) = some r) (hwait : s.barWaiting = none) (hdesc : badDesc (s.g a) = false)
    (htakes : s.Takes r (s.barCount r (s.g a)) false) (w : InstrWord) (release wait : Bool) :
    barArrive w k a release wait [] s =
      if wait then ((s.arrive r (s.g a) (if release then some s.pts else none) false k).sendArrival r (s.barrier r).phase release wait k).waitPhase
        r (s.g a) (s.barrier r).phase k
      else (((s.arrive r (s.g a) (if release then some s.pts else none) false k).sendArrival r (s.barrier r).phase release wait k).updBarrier r
        fun b => { b with toks := b.toks ++ [s.tokRef k] }).advance := by
  obtain ⟨hfull, hbad, hspent, hflows⟩ := htakes
  have hsome : (if release then some s.pts else none).isSome = release := by cases release <;> rfl
  simp only [barArrive, hbar, hwait, h.2.1, Bool.false_and, Bool.false_eq_true, if_false]
  rw [aOp_runs h w hdesc]
  simp only [hmem, hflows, Bool.and_false, tryPhase_of_not_full hfull, hfull, hbad, hspent, Bool.false_eq_true, if_false, State.arrive, hsome]

include h hmem in
/-- COLLX at a barrier that takes the arrival, with slots that may be accessed. -/
theorem collxOp_arrives (hbar : s.barOf s.agent d = some r) (hdesc : badDesc d = false) (hd : d.toNat < 2 ^ 23) {rd : Bool}
    (hv : (s.g f).toNat = d.toNat + if rd then 2 ^ 24 else 0) (hsrc : (s.g c).toNat % 128 = 0) (hdst : (s.g e).toNat % 128 = 0) {l m : Loc}
    (hread : s.check (s.whoS true) .read (s.g c) = .ok l) (hwrite : s.check (s.whoS true) .write (s.g e) = .ok m)
    (hb : s.cur.binding = some x) (htakes : s.Takes r (s.barCount r d) true) (w : InstrWord) :
    collxOp w k c e f [] s = (((s.arrive r d (some s.pts) true k).updBarrier r fun b =>
      { b with collx := b.collx ++ [⟨s.agent, s.g c, s.g e, rd, s.tokRef k, s.pts, x.launch, s.cur.floor, s.cur.gangRank.toNat, s.pc⟩] }).sendArrival
        r (s.barrier r).phase true false k).advance := by
  obtain ⟨hfull, hbad, hspent, hflows⟩ := htakes
  have hlow : (s.g f).toNat % 2 ^ 23 = d.toNat := by rw [hv]; split <;> omega
  have hdesc' : BitVec.ofNat 64 ((s.g f).toNat % 2 ^ 23) = d := by rw [hlow, BitVec.ofNat_toNat, BitVec.setWidth_eq]
  have h23 : (s.g f).getLsbD 23 = false := by
    rw [BitVec.getLsbD, Nat.testBit_eq_decide_div_mod_eq, hv]
    exact decide_eq_false (by split <;> omega)
  have h24 : (s.g f).getLsbD 24 = rd := by
    rw [BitVec.getLsbD, Nat.testBit_eq_decide_div_mod_eq, hv]
    cases rd
    · exact decide_eq_false (by simp only [Bool.false_eq_true, if_false]; omega)
    · exact decide_eq_true (by simp only [if_true]; omega)
  have hlt : decide ((s.g f).toNat ≥ 2 ^ 25) = false := decide_eq_false (by rw [hv]; split <;> omega)
  have hlate : s.check { s.whoS true with late := true } .read (s.g c) = .ok l := check_late (late_whoAt _ _ _ _ _) hread true
  have hif : (if s.counts r = true then s else s.sendAllCombs s.agent) =
      if (some s.pts).isSome && !s.counts r then s.sendAllCombs s.agent else s := by cases s.counts r <;> rfl
  simp only [collxOp, hdesc', h23, h24, hlt, hdesc, hsrc, hdst, hlate, hwrite, h.2.1, bne_self_eq_false, Bool.or_self, Bool.false_eq_true, if_false]
  rw [aOp_of_consume_ok rfl h.2.2]
  simp only [hbar, hmem, hflows, tryPhase_of_not_full hfull, hfull, hbad, hspent, Bool.false_eq_true, if_false, hb, Option.map_some,
    Option.getD_some, aAddr_of_plain h.1, hif, State.arrive]

/-- An arrival that waits for its phase stays at its word while the phase is open. -/
theorem waitPhase_open {ph : Nat} (h : (s.barrier r).phase ≤ ph) (d : Word) (k : BitVec 6) :
    s.waitPhase r d ph k = s.await (.barrier (d.setWidth 23) ph) := by
  simp only [State.waitPhase, if_neg (Nat.not_lt.mpr h)]

end Words

/-! #### Barriers of the gang -/

section Gang

variable {collx : Bool}

theorem takes_of_arrives (h : s.Arrives k d x g collx) : s.Takes (gangRef x d) (s.barCount (gangRef x d) d) collx := by
  obtain ⟨_, _, _, hg, hd, _, hkind, hopen⟩ := h
  have hn : (gangRef x d).number < 64 := by show d.toNat / 65536 < 64; omega
  refine takes_gang hn (by rw [barrier_gangRef hg hd]; exact hkind) ?_
  rw [barrier_gangRef hg hd, State.barCount, if_pos hn]
  exact hopen

/-- The state of an arrival whose member has added something to the barrier of its gang. -/
theorem arrivedAt_of_find? (hpend : s.Pended k t) {h' : Gang} (hgang : Cells.find? t.gangs x.gang = some h')
    (harr : h'.arrivals = Cells.put g.arrivals (arrivalKey s.cur.gangRank.toNat d) (Cells.get Barrier.reset g.barriers (d.toNat / 65536)).phase) :
    s.ArrivedAt k d x g (Cells.get Barrier.reset h'.barriers (d.toNat / 65536)) t := by
  obtain ⟨hcores, hsg, hsp, hbytes, htok⟩ := hpend
  refine ⟨hcores, hsg, hsp, hbytes, htok, h', hgang, rfl, ?_⟩
  rw [harr]
  exact Cells.find?_put_self _ _ _

variable (h : s.Arrives k d x g collx)

include h in
/-- The gang after the arrival, and after something has been added to its barrier. -/
theorem find?_gangs_arrive (ts : Option Word) (f : Barrier → Barrier) :
    ∃ h', Cells.find? ((s.arrive (gangRef x d) d ts collx k).updBarrier (gangRef x d) f).gangs x.gang = some h' ∧
      Cells.get Barrier.reset h'.barriers (d.toNat / 65536) =
        f ((Cells.get Barrier.reset g.barriers (d.toNat / 65536)).arrive (s.barCount (gangRef x d) d) ts collx) ∧
      h'.arrivals = Cells.put g.arrivals (arrivalKey s.cur.gangRank.toNat d) (Cells.get Barrier.reset g.barriers (d.toNat / 65536)).phase := by
  obtain ⟨_, _, hb, hg, hd, _⟩ := h
  refine ⟨_, find?_updBarrier_gang (arrive_gangRef hb hg hd ts collx k) (by omega) f, ?_, rfl⟩
  rw [Cells.get_put_self, Gang.arrivedAt, Cells.get_put_self]

include h in
theorem arrive_frame_gang (ts : Option Word) :
    (s.setTok k .pending).SameCoresAndBytes (s.arrive (gangRef x d) d ts collx k) := by
  obtain ⟨_, _, _, _, hd, _⟩ := h
  exact (arrive_frame (.inl (counts_gangRef hd)) d ts collx k).1

include h in
/-- BARA and BARAX on a barrier of the gang (R201, R202). -/
theorem arrived_bara (hd : d = s.g a) (hc : collx = false) (w : InstrWord) (release : Bool) :
    (barArrive w k a release false [] s).StandsAt (s.pc + 4) ∧ s.ArrivedAt k d x g
      { (Cells.get Barrier.reset g.barriers (d.toNat / 65536)).arrive (s.barCount (gangRef x d) d)
          (if release then some s.pts else none) false with
        toks := (Cells.get Barrier.reset g.barriers (d.toNat / 65536)).toks ++ [s.tokRef k] } (barArrive w k a release false [] s) := by
  subst hd hc
  have hframe := arrive_frame_gang h (if release then some s.pts else none)
  obtain ⟨h', hgang, hbar, harr⟩ := find?_gangs_arrive h (if release then some s.pts else none) fun b => { b with toks := b.toks ++ [s.tokRef k] }
  have htakes := takes_of_arrives h
  obtain ⟨hready, hmem, hb, _, hlt, hwait, _⟩ := h
  rw [barArrive_arrives hready hmem (barOf_gang hb hlt) (barWaiting_eq_none hwait) (badDesc_eq_false_of_lt hlt) htakes,
    if_neg Bool.false_ne_true, sendArrival_counts (counts_gangRef hlt)]
  obtain ⟨hpend, hstands⟩ := pended_advance (hframe.trans (sameCoresAndBytes_updBarrier _ (gangRef x (s.g a))
    fun b => { b with toks := b.toks ++ [s.tokRef k] }))
  refine ⟨hstands, ?_⟩
  have := arrivedAt_of_find? hpend hgang harr
  rwa [hbar] at this

include h in
/-- BAR on a barrier of the gang (R202). -/
theorem arrived_bar (hd : d = s.g a) (hc : collx = false) (w : InstrWord) :
    (barArrive w k a true true [] s).pc = s.pc ∧
    (barArrive w k a true true [] s).ctx.stat = .waiting (.barrier (d.setWidth 23) (Cells.get Barrier.reset g.barriers (d.toNat / 65536)).phase) ∧
    s.ArrivedAt k d x g ((Cells.get Barrier.reset g.barriers (d.toNat / 65536)).arrive (s.barCount (gangRef x d) d)
      (some s.pts) false) (barArrive w k a true true [] s) := by
  subst hd hc
  have hframe := arrive_frame_gang h (some s.pts)
  have htakes := takes_of_arrives h
  obtain ⟨hready, hmem, hb, hg, hlt, hwait, _⟩ := h
  have hgang := arrive_gangRef hb hg hlt (some s.pts) false k
  have hphase : ((s.arrive (gangRef x (s.g a)) (s.g a) (some s.pts) false k).barrier (gangRef x (s.g a))).phase ≤
      (Cells.get Barrier.reset g.barriers ((s.g a).toNat / 65536)).phase := by
    rw [barrier_gangRef hgang hlt, Gang.arrivedAt, Cells.get_put_self]
    exact le_refl _
  rw [barArrive_arrives hready hmem (barOf_gang hb hlt) (barWaiting_eq_none hwait) (badDesc_eq_false_of_lt hlt) htakes,
    if_pos rfl, if_pos rfl, sendArrival_counts (counts_gangRef hlt), barrier_gangRef hg hlt, waitPhase_open hphase]
  obtain ⟨hpend, hpc, hstat⟩ := pended_await hframe (.barrier ((s.g a).setWidth 23) (Cells.get Barrier.reset g.barriers ((s.g a).toNat / 65536)).phase)
  refine ⟨hpc, hstat, ?_⟩
  have := arrivedAt_of_find? hpend hgang rfl
  rwa [Gang.arrivedAt, Cells.get_put_self] at this

include h in
/-- COLLX on a barrier of the gang (R207). -/
theorem arrived_collx (hc : collx = true) {rd : Bool} (hv : (s.g f).toNat = d.toNat + if rd then 2 ^ 24 else 0)
    (hsrc : (s.g c).toNat % 128 = 0) (hdst : (s.g e).toNat % 128 = 0) {l m : Loc}
    (hread : s.check (s.whoS true) .read (s.g c) = .ok l) (hwrite : s.check (s.whoS true) .write (s.g e) = .ok m) (w : InstrWord) :
    (collxOp w k c e f [] s).StandsAt (s.pc + 4) ∧ s.ArrivedAt k d x g
      { (Cells.get Barrier.reset g.barriers (d.toNat / 65536)).arrive (s.barCount (gangRef x d) d) (some s.pts) true with
        collx := (Cells.get Barrier.reset g.barriers (d.toNat / 65536)).collx ++
          [⟨s.agent, s.g c, s.g e, rd, s.tokRef k, s.pts, x.launch, s.cur.floor, s.cur.gangRank.toNat, s.pc⟩] } (collxOp w k c e f [] s) := by
  subst hc
  have hframe := arrive_frame_gang h (some s.pts)
  obtain ⟨h', hgang, hbar, harr⟩ := find?_gangs_arrive h (some s.pts) fun b => { b with collx := b.collx ++
    [⟨s.agent, s.g c, s.g e, rd, s.tokRef k, s.pts, x.launch, s.cur.floor, s.cur.gangRank.toNat, s.pc⟩] }
  have htakes := takes_of_arrives h
  obtain ⟨hready, hmem, hb, _, hlt, _⟩ := h
  rw [collxOp_arrives hready hmem (barOf_gang hb hlt) (badDesc_eq_false_of_lt hlt) (by omega) hv hsrc hdst hread hwrite hb htakes,
    sendArrival_counts (counts_gangRef hlt)]
  obtain ⟨hpend, hstands⟩ := pended_advance (hframe.trans (sameCoresAndBytes_updBarrier _ (gangRef x d) fun b => { b with collx :=
    b.collx ++ [⟨s.agent, s.g c, s.g e, rd, s.tokRef k, s.pts, x.launch, s.cur.floor, s.cur.gangRank.toNat, s.pc⟩] }))
  refine ⟨hstands, ?_⟩
  have := arrivedAt_of_find? hpend hgang harr
  rwa [hbar] at this

end Gang

/-! #### Fabric barriers (R203, R204) -/

theorem tokRef_of_sameCoresAndBytes (h : (s.setTok k .pending).SameCoresAndBytes t) (j : BitVec 6) : t.tokRef j = s.tokRef j := by
  rw [State.tokRef, State.tokRef, h.agent, h.cur, State.cur_setTok, Core.setTok_eq]
  rfl

theorem pts_of_sameCoresAndBytes (h : (s.setTok k .pending).SameCoresAndBytes t) : t.pts = s.pts := by
  rw [State.pts, State.pts, h.who, h.cur, State.who_setTok, State.cur_setTok, Core.setTok_eq]
  cases s.who <;> rfl

/-- The packet of an arrival, from a state in which only the arrival has been counted. -/
theorem sendArrival_ops (h : (s.setTok k .pending).SameCoresAndBytes t) (hops : t.ops = s.ops ∧ t.nextId = s.nextId) (ph : Nat) (rel wt : Bool) :
    (t.counts r = true → (t.sendArrival r ph rel wt k).ops = s.ops) ∧
    (t.counts r = false → ∃ o, Cells.find? (t.sendArrival r ph rel wt k).ops s.nextId = some o ∧ o.tok = s.tokRef k ∧
      o.kind = .barrier r.owner r.number wt ph rel s.pts (!rel)) := by
  refine ⟨fun hc => by rw [sendArrival_counts hc, hops.1], fun hc => ?_⟩
  obtain ⟨o, ho, htok, hkind⟩ := sendArrival_packet hc ph rel wt k
  exact ⟨o, hops.2 ▸ ho, htok.trans (tokRef_of_sameCoresAndBytes h k), by rw [hkind, pts_of_sameCoresAndBytes h]⟩

section Fabric

variable {collx : Bool} (h : s.ArrivesFabric k d x g n p collx)

include h in
theorem barCount_of_arrivesFabric : s.barCount (fabricRef n d) d = fbCount (p.fabricBar d).entry := by
  obtain ⟨_, _, _, _, _, hp, _⟩ := h
  rw [State.barCount, if_neg (not_number_fabricRef_lt n d), fbar_fabricRef hp]

include h in
theorem takes_of_arrivesFabric : s.Takes (fabricRef n d) (s.barCount (fabricRef n d) d) collx := by
  have hcount := barCount_of_arrivesFabric h
  obtain ⟨_, _, _, _, _, hp, _, _, _, _, _, hflows, hvalid, hkind, hlt, hopen⟩ := h
  have hbar := barrier_fabricRef hp d
  exact takes_fabric (by rw [fbar_fabricRef hp]; exact hvalid) (by rw [hbar]; exact hkind) (by rw [hbar, hcount]; exact hlt)
    (by rw [hbar, hcount]; exact hopen) hflows

/-- What the arrival has left beside its packet: the latest arrival of the member and the barrier. -/
def ArrivedTables (s : State) (d : Word) (x : Binding) (n : Nat) (p : Part) (b : Barrier) (t : State) : Prop :=
  (∃ h, Cells.find? t.gangs x.gang = some h ∧ Cells.find? h.arrivals (arrivalKey s.cur.gangRank.toNat d) = some (p.fabricBar d).bar.phase) ∧
  ∃ q, Cells.find? t.parts n = some q ∧ q.fabricBar d = { p.fabricBar d with bar := b }

theorem ArrivedTables.congr {b : Barrier} (h : ArrivedTables s d x n p b t) (hg : u.gangs = t.gangs) (hp : u.parts = t.parts) :
    ArrivedTables s d x n p b u := by
  rw [ArrivedTables, hg, hp]
  exact h

theorem ArrivedTables.updBarrier {b : Barrier} (h : ArrivedTables s d x n p b t) (f : Barrier → Barrier) :
    ArrivedTables s d x n p (f b) (t.updBarrier (fabricRef n d) f) := by
  obtain ⟨hgang, q, hq, hbar⟩ := h
  obtain ⟨q', hq', hbar'⟩ := find?_updBarrier_fabricRef hq d f
  refine ⟨by rw [updBarrier_fabricRef_gangs]; exact hgang, q', hq', ?_⟩
  rw [hbar', hbar]

theorem ArrivedTables.counts {b : Barrier} (h : ArrivedTables s d x n p b t) : t.counts (fabricRef n d) = fbMaster (p.fabricBar d).entry := by
  obtain ⟨_, q, hq, hbar⟩ := h
  rw [counts_fabricRef hq, hbar]

include h in
theorem arrivedTables_arrive (ts : Option Word) :
    (s.setTok k .pending).SameCoresAndBytes (s.arrive (fabricRef n d) d ts collx k) ∧
    ((s.arrive (fabricRef n d) d ts collx k).ops = s.ops ∧ (s.arrive (fabricRef n d) d ts collx k).nextId = s.nextId) ∧
    ArrivedTables s d x n p ((p.fabricBar d).bar.arrive (fbCount (p.fabricBar d).entry) ts collx) (s.arrive (fabricRef n d) d ts collx k) := by
  have hcount := barCount_of_arrivesFabric h
  obtain ⟨_, _, hb, hg, _, hp, _, _, _, _, hcomb, _⟩ := h
  obtain ⟨hsame, hops⟩ := arrive_frame (r := fabricRef n d) (.inr hcomb) d ts collx k
  have htables := arrive_fabricRef hb hg hp hcomb d ts collx k
  rw [hcount] at htables
  exact ⟨hsame, hops, htables⟩

/-- The packet of an arrival leaves the tables, and stands among the operations where another device counts. -/
theorem arrivedFabric_of_tables {b : Barrier} {waits rel : Bool} {v : State} (hpend : s.Pended k t) (htables : ArrivedTables s d x n p b t)
    (hops : t.ops = (v.sendArrival (fabricRef n d) (p.fabricBar d).bar.phase rel waits k).ops)
    (hv : (s.setTok k .pending).SameCoresAndBytes v) (hvops : v.ops = s.ops ∧ v.nextId = s.nextId)
    (hcounts : v.counts (fabricRef n d) = fbMaster (p.fabricBar d).entry) : s.ArrivedFabric k d x n p b waits rel t := by
  obtain ⟨hcores, hsg, hsp, hbytes, htok⟩ := hpend
  obtain ⟨hgang, q, hq, hbar⟩ := htables
  obtain ⟨hmaster, hpacket⟩ := sendArrival_ops (r := fabricRef n d) hv hvops (p.fabricBar d).bar.phase rel waits
  exact ⟨hcores, hsg, hsp, hbytes, htok, hgang, ⟨q, hq, by rw [hbar], by rw [hbar]⟩,
    fun hm => hops.trans (hmaster (hcounts.trans hm)), fun hm => hops ▸ hpacket (hcounts.trans hm)⟩

include h in
/-- BARA and BARAX on a fabric barrier. -/
theorem arrivedFabric_bara (hd : d = s.g a) (hc : collx = false) (w : InstrWord) (release : Bool) :
    (barArrive w k a release false [] s).StandsAt (s.pc + 4) ∧ s.ArrivedFabric k d x n p
      { (p.fabricBar d).bar.arrive (fbCount (p.fabricBar d).entry) (if release then some s.pts else none) false with
        toks := (p.fabricBar d).bar.toks ++ [s.tokRef k] } false release (barArrive w k a release false [] s) := by
  subst hd hc
  obtain ⟨hsame, hops, htables⟩ := arrivedTables_arrive h (if release then some s.pts else none)
  have htakes := takes_of_arrivesFabric h
  obtain ⟨hready, hmem, hb, _, hpart, hp, hle, hlt, hmod, hwait, _⟩ := h
  rw [barArrive_arrives hready hmem (barOf_fabric hpart hle hlt) (barWaiting_eq_none hwait) (badDesc_eq_false_of_mod hlt hmod) htakes,
    if_neg Bool.false_ne_true, barrier_fabricRef hp]
  generalize s.arrive (fabricRef n (s.g a)) (s.g a) (if release then some s.pts else none) false k = v at hsame hops htables ⊢
  obtain ⟨hgangs, hparts⟩ := sendArrival_tables v (fabricRef n (s.g a)) (p.fabricBar (s.g a)).bar.phase release false k
  obtain ⟨hpend, hstands⟩ := pended_advance ((hsame.trans (sameCoresAndBytes_sendArrival v _ _ release false k)).trans
    (sameCoresAndBytes_updBarrier _ (fabricRef n (s.g a)) fun b => { b with toks := b.toks ++ [s.tokRef k] }))
  exact ⟨hstands, arrivedFabric_of_tables hpend (((htables.congr hgangs hparts).updBarrier _).congr rfl rfl) (updBarrier_ops _ _ _).1 hsame hops
    htables.counts⟩

include h in
/-- BAR on a fabric barrier. -/
theorem arrivedFabric_bar (hd : d = s.g a) (hc : collx = false) (w : InstrWord) :
    (barArrive w k a true true [] s).pc = s.pc ∧
    (barArrive w k a true true [] s).ctx.stat = .waiting (.barrier (d.setWidth 23) (p.fabricBar d).bar.phase) ∧
    s.ArrivedFabric k d x n p ((p.fabricBar d).bar.arrive (fbCount (p.fabricBar d).entry) (some s.pts) false) true true
      (barArrive w k a true true [] s) := by
  subst hd hc
  obtain ⟨hsame, hops, htables⟩ := arrivedTables_arrive h (some s.pts)
  have htakes := takes_of_arrivesFabric h
  obtain ⟨hready, hmem, hb, _, hpart, hp, hle, hlt, hmod, hwait, _⟩ := h
  rw [barArrive_arrives hready hmem (barOf_fabric hpart hle hlt) (barWaiting_eq_none hwait) (badDesc_eq_false_of_mod hlt hmod) htakes,
    if_pos rfl, if_pos rfl, barrier_fabricRef hp]
  generalize s.arrive (fabricRef n (s.g a)) (s.g a) (some s.pts) false k = v at hsame hops htables ⊢
  obtain ⟨hgangs, hparts⟩ := sendArrival_tables v (fabricRef n (s.g a)) (p.fabricBar (s.g a)).bar.phase true true k
  have htables' := htables.congr hgangs hparts
  have hsame' := hsame.trans (sameCoresAndBytes_sendArrival v (fabricRef n (s.g a)) (p.fabricBar (s.g a)).bar.phase true true k)
  have hphase : ((v.sendArrival (fabricRef n (s.g a)) (p.fabricBar (s.g a)).bar.phase true true k).barrier (fabricRef n (s.g a))).phase ≤
      (p.fabricBar (s.g a)).bar.phase := by
    obtain ⟨_, q, hq, hbar⟩ := htables'
    rw [barrier_fabricRef hq, hbar]
    exact le_refl _
  rw [waitPhase_open hphase]
  obtain ⟨hpend, hpc, hstat⟩ := pended_await hsame' (.barrier ((s.g a).setWidth 23) (p.fabricBar (s.g a)).bar.phase)
  exact ⟨hpc, hstat, arrivedFabric_of_tables hpend (htables'.congr rfl rfl) rfl hsame hops htables.counts⟩

include h in
/-- COLLX on a fabric barrier. -/
theorem arrivedFabric_collx (hc : collx = true) {rd : Bool} (hv : (s.g f).toNat = d.toNat + if rd then 2 ^ 24 else 0)
    (hsrc : (s.g c).toNat % 128 = 0) (hdst : (s.g e).toNat % 128 = 0) {l m : Loc}
    (hread : s.check (s.whoS true) .read (s.g c) = .ok l) (hwrite : s.check (s.whoS true) .write (s.g e) = .ok m) (w : InstrWord) :
    (collxOp w k c e f [] s).StandsAt (s.pc + 4) ∧ s.ArrivedFabric k d x n p
      { (p.fabricBar d).bar.arrive (fbCount (p.fabricBar d).entry) (some s.pts) true with
        collx := (p.fabricBar d).bar.collx ++
          [⟨s.agent, s.g c, s.g e, rd, s.tokRef k, s.pts, x.launch, s.cur.floor, s.cur.gangRank.toNat, s.pc⟩] } false true
      (collxOp w k c e f [] s) := by
  subst hc
  obtain ⟨hsame, hops, htables⟩ := arrivedTables_arrive h (some s.pts)
  have htakes := takes_of_arrivesFabric h
  obtain ⟨hready, hmem, hb, _, hpart, hp, hle, hlt, hmod, _⟩ := h
  rw [collxOp_arrives hready hmem (barOf_fabric hpart hle hlt) (badDesc_eq_false_of_mod hlt hmod) hlt hv hsrc hdst hread hwrite hb htakes,
    barrier_fabricRef hp]
  generalize s.arrive (fabricRef n d) d (some s.pts) true k = v at hsame hops htables ⊢
  have htables' := htables.updBarrier fun b => { b with collx := b.collx ++
    [⟨s.agent, s.g c, s.g e, rd, s.tokRef k, s.pts, x.launch, s.cur.floor, s.cur.gangRank.toNat, s.pc⟩] }
  have hsame' := hsame.trans (sameCoresAndBytes_updBarrier v (fabricRef n d) fun b => { b with collx := b.collx ++
    [⟨s.agent, s.g c, s.g e, rd, s.tokRef k, s.pts, x.launch, s.cur.floor, s.cur.gangRank.toNat, s.pc⟩] })
  have hops' := updBarrier_ops v (fabricRef n d) fun b => { b with collx := b.collx ++
    [⟨s.agent, s.g c, s.g e, rd, s.tokRef k, s.pts, x.launch, s.cur.floor, s.cur.gangRank.toNat, s.pc⟩] }
  generalize State.updBarrier v _ _ = u at htables' hsame' hops' ⊢
  obtain ⟨hgangs, hparts⟩ := sendArrival_tables u (fabricRef n d) (p.fabricBar d).bar.phase true false k
  obtain ⟨hpend, hstands⟩ := pended_advance (hsame'.trans (sameCoresAndBytes_sendArrival u (fabricRef n d) (p.fabricBar d).bar.phase true false k))
  exact ⟨hstands, arrivedFabric_of_tables hpend ((htables'.congr hgangs hparts).congr rfl rfl) rfl hsame'
    ⟨hops'.1.trans hops.1, hops'.2.trans hops.2⟩ htables'.counts⟩

end Fabric

theorem barrierArrivalsHold : BarrierArrivalsHold := by
  intro s k a x g b n hb hn
  have hcount : (s.g a).toNat < 2 ^ 22 → s.barCount (gangRef x (s.g a)) (s.g a) = n := fun hd => by
    rw [State.barCount, if_pos (by show (s.g a).toNat / 65536 < 64; omega), hn]
  subst hb
  refine ⟨fun h => ?_, fun c e f l m rd h hv hsrc hdst hread hwrite => ?_, fun j p y hy h => ?_,
    fun j p y c e f l m rd hy h hv hsrc hdst hread hwrite => ?_⟩
  · have hp := h.1.1
    have hd : (s.g a).toNat < 2 ^ 22 := by obtain ⟨_, _, _, _, hd, _⟩ := h; exact hd
    rw [← hcount hd]
    exact ⟨completes_aWord hp rfl rfl (arrived_bara h rfl rfl _ true), completes_aWord hp rfl rfl (arrived_bara h rfl rfl _ false),
      completes_aWord hp rfl rfl (arrived_bar h rfl rfl _)⟩
  · have hd : (s.g a).toNat < 2 ^ 22 := by obtain ⟨_, _, _, _, hd, _⟩ := h; exact hd
    rw [← hcount hd]
    exact completes_aWord h.1.1 rfl rfl (arrived_collx h rfl hv hsrc hdst hread hwrite _)
  · subst hy
    have hp := h.1.1
    exact ⟨completes_aWord hp rfl rfl (arrivedFabric_bara h rfl rfl _ true), completes_aWord hp rfl rfl (arrivedFabric_bara h rfl rfl _ false),
      completes_aWord hp rfl rfl (arrivedFabric_bar h rfl rfl _)⟩
  · subst hy
    exact completes_aWord h.1.1 rfl rfl (arrivedFabric_collx h rfl hv hsrc hdst hread hwrite _)

/-! #### PHASE (R274) -/

/-- The first arrival of a member opens the round of its gang. -/
theorem phaseOp_opens (h : s.AReady k) (hmem : s.memPending = false) (hquiet : s.SysQuiet) (ha : (s.g a).toNat % 128 = 0)
    (hb : (s.g b).toNat ≤ 15) (hbind : s.cur.binding = some x) (hg : Cells.find? s.gangs x.gang = some g)
    (hshares : s.sharesPod x.gang g = false) (hround : g.round = none) (hlen : g.members.length ≠ 1) (w : InstrWord) :
    phaseOp w k a b [] s = ((s.updGang x.gang fun y =>
      { y with round := some (Round.mk (s.g a) (s.g b).toNat [x.rank] (wmax 0 s.pts) [s.tokRef k] false) }).setTok k .pending).advance := by
  have hgang : s.gangOf s.agent = some g := by
    have hbind' : (s.core s.agent).binding = some x := hbind
    simp only [State.gangOf, hbind', hg]
  have hbad : ((s.g a).toNat % 128 != 0 || decide ((s.g b).toNat > 15)) = false := by
    rw [ha, decide_eq_false (by omega)]; rfl
  rw [phaseOp, h.2.1, if_neg Bool.false_ne_true, aOp_runs h w hbad]
  simp [hgang, hbind, hshares, hmem, hquiet.1, hquiet.2, hround, Ne.symm hlen]

theorem phaseArrivalHold : PhaseArrivalHold := by
  intro s k a b x g h hmem hquiet ha hb hbind hg hshares hround hlen
  refine completes_aWord h.1 rfl rfl ?_
  rw [phaseOp_opens h hmem hquiet ha hb hbind hg hshares hround hlen]
  constructor
  · exact (aFrame_setTok_advance s k .pending).of_sameCoresAndBytes ((sameCoresAndBytes_updGang s x.gang _).onCore _).advance
  · rw [State.advance_gangs, State.setTok_gangs, State.find?_updGang, if_pos rfl, hg]
    rfl

/-- Settles O24: an arrival word counts once (`barArrive_arrives`, `collxOp_arrives`) at a barrier of the gang (`arrived_bara`,
`arrived_bar`, `arrived_collx`) or of the partition (`arrivedFabric_bara` and so on); PHASE opens the round (`phaseOp_opens`). -/
theorem barrierAndPhaseArrivals : Obligations.BarrierAndPhaseArrivals := ⟨barrierArrivalsHold, phaseArrivalHold⟩

end Sys2Proof.Machine
end

section
/-! ### Tokens that resolve, and operations that end (R25, R187, R199) -/

namespace Sys2Proof.Machine

variable {s t u : State} {r : TokRef} {v : Tok} {i n : Nat} {o : AOp}

/-! #### A token takes a state -/

/-- A token's state stands in its core, or in a saved context of its gang. -/
theorem putTok_spec (s : State) (r : TokRef) (v : Tok) : ∃ c g, s.putTok r v = { s with cores := c, gangs := g } := by
  unfold State.putTok
  split
  · exact ⟨_, _, rfl⟩
  · split <;> exact ⟨_, _, rfl⟩

@[simp] theorem putTok_turn (s : State) (r : TokRef) (v : Tok) : (s.putTok r v).turn = s.turn := by
  obtain ⟨_, _, h⟩ := putTok_spec s r v
  rw [h]

@[simp] theorem putTok_ops (s : State) (r : TokRef) (v : Tok) : (s.putTok r v).ops = s.ops := by
  obtain ⟨_, _, h⟩ := putTok_spec s r v
  rw [h]

@[simp] theorem putTok_parts (s : State) (r : TokRef) (v : Tok) : (s.putTok r v).parts = s.parts := by
  obtain ⟨_, _, h⟩ := putTok_spec s r v
  rw [h]

@[simp] theorem putTok_launches (s : State) (r : TokRef) (v : Tok) : (s.putTok r v).launches = s.launches := by
  obtain ⟨_, _, h⟩ := putTok_spec s r v
  rw [h]

@[simp] theorem putTok_pods (s : State) (r : TokRef) (v : Tok) : (s.putTok r v).pods = s.pods := by
  obtain ⟨_, _, h⟩ := putTok_spec s r v
  rw [h]

@[simp] theorem putTok_attrs (s : State) (r : TokRef) (v : Tok) : (s.putTok r v).attrs = s.attrs := by
  obtain ⟨_, _, h⟩ := putTok_spec s r v
  rw [h]

@[simp] theorem putTok_poison (s : State) (r : TokRef) (v : Tok) : (s.putTok r v).poison = s.poison := by
  obtain ⟨_, _, h⟩ := putTok_spec s r v
  rw [h]

@[simp] theorem byteAt_putTok (s : State) (r : TokRef) (v : Tok) (l : Loc) : (s.putTok r v).byteAt l = s.byteAt l := by
  obtain ⟨_, _, h⟩ := putTok_spec s r v
  rw [h]
  exact State.byteAt_congr rfl rfl rfl rfl l

/-- Of the cores only that of the token may change, and there only if its iteration has not retired. -/
theorem core_putTok (s : State) (r : TokRef) (v : Tok) (n : Nat) :
    (s.putTok r v).core n = if r.core = n ∧ (s.core r.core).gen = r.gen then (s.core n).setTok r.k v else s.core n := by
  unfold State.putTok
  by_cases hk : r.k = 63
  · rw [if_pos hk, Core.setTok, if_pos hk, ite_self]
  · rw [if_neg hk]
    by_cases hg : (s.core r.core).gen = r.gen
    · rw [if_pos hg, State.core_updCore]
      by_cases hn : r.core = n
      · subst hn; rw [if_pos rfl, if_pos ⟨rfl, hg⟩]
      · rw [if_neg hn, if_neg fun h => hn h.1]
    · rw [if_neg hg, if_neg fun h => hg h.2]
      rfl

theorem gen_putTok (s : State) (r : TokRef) (v : Tok) (n : Nat) : ((s.putTok r v).core n).gen = (s.core n).gen := by
  rw [core_putTok]
  split
  · rw [Core.setTok_eq]
  · rfl

theorem tok_putTok (s : State) (r : TokRef) (v : Tok) (n : Nat) (j : BitVec 6) :
    ((s.putTok r v).core n).tok j =
      if r.core = n ∧ (s.core r.core).gen = r.gen ∧ j = r.k ∧ r.k ≠ 63 then v else (s.core n).tok j := by
  rw [core_putTok]
  by_cases h : r.core = n ∧ (s.core r.core).gen = r.gen
  · rw [if_pos h, Core.tok_setTok_eq_if]
    exact if_congr ⟨fun hj => ⟨h.1, h.2, hj⟩, fun hj => hj.2.2⟩ rfl rfl
  · rw [if_neg h, if_neg fun h' => h ⟨h'.1, h'.2.1⟩]

/-- A gang stays, but for the tokens of its saved contexts. -/
theorem find?_gangs_putTok (s : State) (r : TokRef) (v : Tok) {g : Gang} (h : Cells.find? s.gangs i = some g) :
    ∃ y, Cells.find? (s.putTok r v).gangs i = some { g with ctxs := y } := by
  unfold State.putTok
  split
  · exact ⟨g.ctxs, h⟩
  · split
    · exact ⟨g.ctxs, h⟩
    · exact ⟨(g.putTok r v).ctxs, (Cells.find?_map_values (fun _ g => g.putTok r v) s.gangs i).trans (by rw [h]; rfl)⟩

/-- The token of the current core. -/
theorem putTok_tokRef (s : State) (k : BitVec 6) (v : Tok) : s.SameCoresAndBytes u → (s.setTok k v).SameCoresAndBytes (u.putTok (s.tokRef k) v) := by
  intro h
  refine ⟨fun n => ?_, by rw [putTok_turn, h.2.1]; rfl, fun l => ?_⟩
  · rw [core_putTok, State.setTok, State.onCore, State.core_updCore, h.core, h.core]
    by_cases hn : s.agent = n
    · subst hn; rw [if_pos ⟨rfl, rfl⟩, if_pos rfl]; rfl
    · rw [if_neg fun hc => hn hc.1, if_neg hn]
  · rw [byteAt_putTok, h.2.2, State.setTok, State.onCore, byteAt_updCore]

/-! #### Without joins only the token changes (R25, R199) -/

theorem latch_of_not_join (h : ∀ ins, o.kind ≠ .tokn ins) (r : TokRef) (v : Tok) : o.latch r v = o := by
  unfold AOp.latch
  split
  next heq => exact absurd heq (h _)
  next => rfl

theorem State.NoJoins.latch (h : s.NoJoins) (r : TokRef) (v : Tok) : (s.ops.map fun x => (x.1, x.2.latch r v)) = s.ops := by
  refine (List.map_congr_left fun x hx => ?_).trans (List.map_id _)
  rw [latch_of_not_join (h x hx)]
  rfl

/-- What a join in the table comes to, once it is ready (R199). -/
def joinOut (x : Nat × AOp) : Option Tok :=
  match x.2.kind with
  | .tokn ins => joinResult ins
  | _ => none

theorem joinOut_of_not_join {x : Nat × AOp} (h : ∀ ins, x.2.kind ≠ .tokn ins) : joinOut x = none := by
  unfold joinOut
  split
  next heq => exact absurd heq (h _)
  next => rfl

/-- One ready join resolves, then the others; without one nothing happens. -/
theorem settle_succ (s : State) (fuel : Nat) : s.settle (fuel + 1) = (List.find? (fun x => (joinOut x).isSome) s.ops).elim s fun x =>
    State.settle fuel ({ s with ops := Cells.del s.ops x.1 }.resolveOne x.2.tok ((joinOut x).getD .free) 0 x.2.at_ x.2.base) := by
  show (match List.find? (fun x => (joinOut x).isSome) s.ops with
    | some x => State.settle fuel ({ s with ops := Cells.del s.ops x.1 }.resolveOne x.2.tok ((joinOut x).getD .free) 0 x.2.at_ x.2.base)
    | none => s) = _
  cases List.find? (fun x => (joinOut x).isSome) s.ops <;> rfl

theorem State.NoJoins.settle (h : s.NoJoins) (fuel : Nat) : s.settle fuel = s := by
  cases fuel with
  | zero => rfl
  | succ fuel =>
    have hnone : List.find? (fun x => (joinOut x).isSome) s.ops = none :=
      List.find?_eq_none.mpr fun x hx => by rw [joinOut_of_not_join (h x hx)]; exact Bool.false_ne_true
    rw [settle_succ, hnone]
    rfl

theorem State.NoJoins.congr (h : s.NoJoins) (ht : t.ops = s.ops) : t.NoJoins := fun x hx => h x (ht ▸ hx)

/-- A token done: with no join in the table nothing else happens. -/
theorem resolveFrom_done (h : s.NoJoins) (r : TokRef) (ts : Word) (source : Nat) (at_ pts : Word) :
    s.resolveFrom r (.done ts) source at_ pts = s.putTok r (.done ts) := by
  have hone : s.resolveOne r (.done ts) source at_ pts = s.putTok r (.done ts) := by
    obtain ⟨c, g, hput⟩ := putTok_spec s r (.done ts)
    simp only [State.resolveOne, h.latch, hput]
  rw [State.resolveFrom, hone]
  exact (h.congr (putTok_ops s r _)).settle _

/-- A token failed that its core can take: no record is written. -/
theorem resolveFrom_failed (h : s.NoJoins) (hk : r.k ≠ 63) (hg : (s.core r.core).gen = r.gen) (f : Flt) (source : Nat) (at_ pts : Word) :
    s.resolveFrom r (.failed f) source at_ pts = s.putTok r (.failed f) := by
  have htok : ¬ (r.k = 63 ∨ (s.tokCore r).gen ≠ r.gen) := by
    rw [State.tokCore, if_pos hg]
    exact fun h => h.elim hk fun h => h hg
  have hone : s.resolveOne r (.failed f) source at_ pts = s.putTok r (.failed f) := by
    obtain ⟨c, g, hput⟩ := putTok_spec s r (.failed f)
    simp only [State.resolveOne, h.latch, hput, if_neg htok]
  rw [State.resolveFrom, hone]
  exact (h.congr (putTok_ops s r _)).settle _

/-- The tokens of a list, done one after the other. -/
theorem noJoins_resolve_done (h : s.NoJoins) (r : TokRef) (ts : Word) (source : Nat) (at_ pts : Word) :
    (s.resolveFrom r (.done ts) source at_ pts).NoJoins := by
  rw [resolveFrom_done h]
  exact h.congr (putTok_ops s r _)

/-! #### What a resolution leaves, with joins or without -/

/-- What neither a record, nor a token's state, nor the table of operations changes, a resolution leaves. -/
theorem resolveOne_keeps {β : Type} {φ : State → β} (hrec : ∀ s n r, φ (State.recordFor s n r) = φ s) (hput : ∀ s r v, φ (State.putTok s r v) = φ s)
    (hops : ∀ (s : State) l, φ { s with ops := l } = φ s) (s : State) (r : TokRef) (v : Tok) (source : Nat) (at_ pts : Word) :
    φ (s.resolveOne r v source at_ pts) = φ s := by
  unfold State.resolveOne
  rw [hops, hput]
  cases v with
  | failed f =>
    simp only
    split
    · rw [hrec]
    · rfl
  | _ => rfl

theorem settle_keeps {β : Type} {φ : State → β} (hrec : ∀ s n r, φ (State.recordFor s n r) = φ s) (hput : ∀ s r v, φ (State.putTok s r v) = φ s)
    (hops : ∀ (s : State) l, φ { s with ops := l } = φ s) (fuel : Nat) (s : State) : φ (s.settle fuel) = φ s := by
  induction fuel generalizing s with
  | zero => rfl
  | succ fuel ih =>
    rw [settle_succ]
    cases List.find? (fun x => (joinOut x).isSome) s.ops with
    | none => rfl
    | some x => exact (ih _).trans ((resolveOne_keeps hrec hput hops _ _ _ _ _ _).trans (hops _ _))

theorem resolveFrom_keeps {β : Type} {φ : State → β} (hrec : ∀ s n r, φ (State.recordFor s n r) = φ s)
    (hput : ∀ s r v, φ (State.putTok s r v) = φ s) (hops : ∀ (s : State) l, φ { s with ops := l } = φ s) (s : State) (r : TokRef) (v : Tok)
    (source : Nat) (at_ pts : Word) : φ (s.resolveFrom r v source at_ pts) = φ s := by
  rw [State.resolveFrom, settle_keeps hrec hput hops, resolveOne_keeps hrec hput hops]

theorem resolveFrom_tables (s : State) (r : TokRef) (v : Tok) (source : Nat) (at_ pts : Word) :
    (s.resolveFrom r v source at_ pts).launches = s.launches ∧ (s.resolveFrom r v source at_ pts).attrs = s.attrs ∧
      (s.resolveFrom r v source at_ pts).pods = s.pods := by
  have hrec : ∀ (s : State) n r, ((s.recordFor n r).launches, (s.recordFor n r).attrs, (s.recordFor n r).pods) = (s.launches, s.attrs, s.pods) := by
    intro s n r
    obtain ⟨_, _, _, h, _⟩ := recordFor_spec s n r
    rw [h]
  have h := resolveFrom_keeps (φ := fun s => (s.launches, s.attrs, s.pods)) hrec (fun s r v => by simp) (fun _ _ => rfl) s r v source at_ pts
  simpa only [Prod.mk.injEq] using h

/-- An operation that is not in the table does not come back. -/
theorem find?_ops_resolveOne (h : Cells.find? s.ops i = none) (r : TokRef) (v : Tok) (source : Nat) (at_ pts : Word) :
    Cells.find? (s.resolveOne r v source at_ pts).ops i = none := by
  have hrec : ∀ n y, (s.recordFor n y).ops = s.ops := fun n y => by
    obtain ⟨_, _, _, hr, _⟩ := recordFor_spec s n y
    rw [hr]
  have hops : ∀ l, l = s.ops → Cells.find? (l.map fun (x : Nat × AOp) => (x.1, x.2.latch r v)) i = none := fun l hl => by
    rw [Cells.find?_map_values (fun _ (o : AOp) => o.latch r v), hl, h]
    rfl
  unfold State.resolveOne
  refine hops _ ?_
  cases v with
  | failed f =>
    simp only
    split
    · exact hrec _ _
    · rfl
  | _ => rfl

theorem find?_ops_settle (fuel : Nat) (h : Cells.find? s.ops i = none) : Cells.find? (s.settle fuel).ops i = none := by
  induction fuel generalizing s with
  | zero => exact h
  | succ fuel ih =>
    rw [settle_succ]
    cases List.find? (fun x => (joinOut x).isSome) s.ops with
    | none => exact h
    | some x =>
      refine ih (find?_ops_resolveOne ?_ _ _ _ _ _)
      by_cases hx : x.1 = i
      · subst hx; exact Cells.find?_del_self _ _
      · exact (Cells.find?_del_ne _ hx).trans h

theorem find?_ops_resolveFrom (h : Cells.find? s.ops i = none) (r : TokRef) (v : Tok) (source : Nat) (at_ pts : Word) :
    Cells.find? (s.resolveFrom r v source at_ pts).ops i = none :=
  find?_ops_settle _ (find?_ops_resolveOne h r v source at_ pts)

/-! #### An operation ends (R187) -/

/-- The operation has left the table and the queue of its copy engine, and its launch has its timestamp. -/
def State.left (s : State) (i : Nat) (o : AOp) (ts : Word) : State :=
  ({ s with ops := Cells.del s.ops i,
            pods := s.pods.map fun (p : Nat × Pod) => (p.1, { p.2 with queue := p.2.queue.filter fun j => j != i }) }).updLaunch o.launch
    fun l => { l with doneTs := wmax l.doneTs ts }

theorem endOp_eq (s : State) (i : Nat) (o : AOp) (v : Tok) :
    s.endOp i o v = (s.left i o (match v with | .done ts => ts | _ => o.maxTs)).resolveFrom o.tok v o.kind.source o.at_ o.base := rfl

theorem left_spec (s : State) (i : Nat) (o : AOp) (ts : Word) :
    (s.left i o ts).ops = Cells.del s.ops i ∧ (s.left i o ts).cores = s.cores ∧ (s.left i o ts).attrs = s.attrs ∧
      (s.left i o ts).parts = s.parts ∧ ∀ l, (s.left i o ts).byteAt l = s.byteAt l := by
  obtain ⟨k, hk⟩ := updLaunch_spec { s with
    ops := Cells.del s.ops i,
    pods := s.pods.map fun (p : Nat × Pod) => (p.1, { p.2 with queue := p.2.queue.filter fun j => j != i }) } o.launch
    fun l => { l with doneTs := wmax l.doneTs ts }
  rw [State.left, hk]
  exact ⟨rfl, rfl, rfl, rfl, State.byteAt_congr rfl rfl rfl rfl⟩

theorem State.NoJoins.left (h : s.NoJoins) (i : Nat) (o : AOp) (ts : Word) : (s.left i o ts).NoJoins := by
  intro x hx
  rw [(left_spec s i o ts).1] at hx
  exact h x (Cells.mem_of_mem_del hx)

theorem opEnds_of_endOp {u : State} (hjoins : s.NoJoins → u.NoJoins) (hgen : ∀ n, (u.core n).gen = (s.core n).gen) (i : Nat) (o : AOp)
    {v : Tok} (hv : (∃ ts, v = .done ts) ∨ ∃ f, v = .failed f) : s.OpEnds i o v (u.endOp i o v) := by
  rw [endOp_eq]
  refine ⟨find?_ops_resolveFrom (by rw [(left_spec u i o _).1]; exact Cells.find?_del_self _ _) _ _ _ _ _, fun hj hk hg => ?_⟩
  have hcore : ∀ ts n, (u.left i o ts).core n = u.core n := fun ts => State.core_congr (left_spec u i o ts).2.1
  have hgen' : ∀ ts, ((u.left i o ts).core o.tok.core).gen = o.tok.gen := fun ts => by rw [hcore, hgen, hg]
  rcases hv with ⟨ts, rfl⟩ | ⟨f, rfl⟩
  · rw [resolveFrom_done ((hjoins hj).left i o _), tok_putTok, if_pos ⟨rfl, hgen' _, rfl, hk⟩]
  · rw [resolveFrom_failed ((hjoins hj).left i o _) hk (hgen' _), tok_putTok, if_pos ⟨rfl, hgen' _, rfl, hk⟩]

theorem opEnds_endOp_done (s : State) (i : Nat) (o : AOp) (ts : Word) : s.OpEnds i o (.done ts) (s.endOp i o (.done ts)) :=
  opEnds_of_endOp id (fun _ => rfl) i o (.inl ⟨ts, rfl⟩)

theorem byteAt_endOp_done (h : s.NoJoins) (i : Nat) (o : AOp) (ts : Word) (l : Loc) : (s.endOp i o (.done ts)).byteAt l = s.byteAt l := by
  rw [endOp_eq, resolveFrom_done (h.left i o _), byteAt_putTok]
  exact (left_spec s i o ts).2.2.2.2 l

/-- A token that resolves without joins writes at most one record, in a fault ring. -/
theorem byteAt_resolveFrom_of_not_inRings (h : s.NoJoins) (r : TokRef) (v : Tok) (source : Nat) (at_ pts : Word) {l : Loc} (hl : ¬ s.InRings l) :
    (s.resolveFrom r v source at_ pts).byteAt l = s.byteAt l := by
  have hone : (s.resolveOne r v source at_ pts).NoJoins ∧ (s.resolveOne r v source at_ pts).byteAt l = s.byteAt l := by
    unfold State.resolveOne
    have hput : ∀ a : State, a.ops = s.ops → a.byteAt l = s.byteAt l →
        State.NoJoins { a.putTok r v with ops := a.ops.map fun (x : Nat × AOp) => (x.1, x.2.latch r v) } ∧
        State.byteAt { a.putTok r v with ops := a.ops.map fun (x : Nat × AOp) => (x.1, x.2.latch r v) } l = s.byteAt l := fun a hops hb =>
      ⟨h.congr (((h.congr hops).latch r v).trans hops), (State.byteAt_congr rfl rfl rfl rfl l).trans ((byteAt_putTok a r v l).trans hb)⟩
    refine hput _ ?_ ?_
    · cases v with
      | failed f =>
        simp only
        split
        · obtain ⟨_, _, _, hr, _⟩ := recordFor_spec s r.core
            { s.faultRec r.core source 0 0 at_ f pts with token := r.k.toNat, launch := r.launch, iterNo := r.iter }
          rw [hr]
        · rfl
      | _ => rfl
    · cases v with
      | failed f =>
        simp only
        split
        · exact byteAt_recordFor_of_not_inRings _ _ hl
        · rfl
      | _ => rfl
  rw [State.resolveFrom, hone.1.settle]
  exact hone.2

theorem byteAt_endOp_of_not_inRings (h : s.NoJoins) (i : Nat) (o : AOp) (v : Tok) {l : Loc} (hl : ¬ s.InRings l) :
    (s.endOp i o v).byteAt l = s.byteAt l := by
  rw [endOp_eq]
  refine (byteAt_resolveFrom_of_not_inRings (h.left i o _) _ _ _ _ _ ?_).trans ((left_spec s i o _).2.2.2.2 l)
  rw [State.InRings, (left_spec s i o _).2.2.2.1]
  exact hl

/-- The launch of an operation that ends takes its timestamp and nothing else. -/
theorem find?_launches_endOp (s : State) (i : Nat) (o : AOp) (v : Tok) (n : Nat) :
    ∃ ts, Cells.find? (s.endOp i o v).launches n =
      if o.launch = n then (Cells.find? s.launches n).map fun l => { l with doneTs := wmax l.doneTs ts } else Cells.find? s.launches n := by
  rw [endOp_eq, (resolveFrom_tables _ _ _ _ _ _).1]
  exact ⟨_, State.find?_updLaunch _ _ _ _⟩

theorem endOp_attrs (s : State) (i : Nat) (o : AOp) (v : Tok) : (s.endOp i o v).attrs = s.attrs := by
  rw [endOp_eq, (resolveFrom_tables _ _ _ _ _ _).2.1]
  exact (left_spec s i o _).2.2.1

end Sys2Proof.Machine
end

section
/-! ### Phases that complete, and the waits for them (R201, R202, R207) -/

namespace Sys2Proof.Machine

variable {s t u : State} {k : BitVec 6} {a : BitVec 5} {d ts : Word} {x : Binding} {g : Gang} {r : BarRef} {i n ph : Nat}

/-! #### The end of a wait of S (R202, R205) -/

theorem State.OnlyCore.core_ne (h : s.OnlyCore t) (hn : n ≠ s.agent) : t.core n = s.core n := h.2.1 n hn

/-- After a wait S goes on with the timestamp, in a state that has raised PTS and SYNC_FLOOR and changed tables of the device. -/
theorem waitOver_resolved (hu : s.InUser) (hraised : ((s.raisePts ts).setFloor).SameCoresAndBytes u) (hj : u.NoJoins) (k : BitVec 6)
    (source : Nat) (at_ pts : Word) : s.WaitOver k ts (u.resolveFrom (s.tokRef k) (.done ts) source at_ pts).advance := by
  have honly := onlyCore_raisePts_setFloor s ts
  have hcur := hraised.cur.trans (cur_raisePts_setFloor hu ts)
  have hctx := hraised.ctx.trans (ctx_raisePts_setFloor hu ts)
  have hagent := hraised.agent.trans honly.agent
  have href : s.tokRef k = u.tokRef k := by rw [State.tokRef, State.tokRef, hagent, hcur]
  rw [resolveFrom_done hj, href]
  obtain ⟨hcores, hg, hp, ⟨hpc, hstands⟩, hbytes, htok, hframe⟩ :=
    (aFrame_setTok_advance u k (.done ts)).of_sameCoresAndBytes (putTok_tokRef u k (.done ts) (sameCoresAndBytes_refl u)).advance
  generalize (u.putTok (u.tokRef k) (.done ts)).advance = w at hcores hg hp hpc hstands hbytes htok hframe ⊢
  have hfields : ∀ (c : Core) (y : Ctx), (c.setCtx u.inHusk y).pts = c.pts ∧ (c.setCtx u.inHusk y).floor = c.floor := fun c y => by
    cases u.inHusk <;> exact ⟨rfl, rfl⟩
  have hpts := (congrArg Core.pts hframe).trans (hfields _ _).1
  have hfloor := (congrArg Core.floor hframe).trans (hfields _ _).2
  refine ⟨fun n hn => ?_, fun q => (hg q).trans ?_, fun q => (hp q).trans ?_, fun l => ?_, ⟨?_, hstands⟩, fun j => (htok j).trans ?_, ?_, ?_⟩
  · rw [hcores n (hagent ▸ hn), hraised.core, honly.core_ne hn]
  · rw [State.g, hctx]; rfl
  · rw [State.p, hctx]; rfl
  · rw [hbytes, hraised.2.2, honly.2.2]
  · rw [hpc, State.pc, hctx]; rfl
  · rw [hcur]; rfl
  · rw [hpts, hcur]
  · rw [hfloor, hpts, hcur]

theorem State.NoJoins.raised (h : s.NoJoins) (ts : Word) : ((s.raisePts ts).setFloor).NoJoins :=
  h.congr (by rw [(onlyCore_raisePts_setFloor s ts).1])

theorem waitOver_phaseWaited (hu : s.InUser) (hj : s.NoJoins) (k : BitVec 6) (ts : Word) : s.WaitOver k ts (s.phaseWaited k ts) :=
  waitOver_resolved hu (sameCoresAndBytes_refl _) (hj.raised ts) k 0 s.aAddr s.pts

/-- A wait that is over at once, after its token was made pending. -/
theorem waitOver_of_setTok (h : (s.setTok k .pending).WaitOver k ts t) : s.WaitOver k ts t := by
  obtain ⟨hcores, hg, hp, hbytes, hstands, htok, hpts, hfloor⟩ := h
  refine ⟨fun n hn => (hcores n hn).trans (State.core_onCore_ne s hn _), fun q => (hg q).trans ?_, fun q => (hp q).trans ?_,
    fun l => (hbytes l).trans (byteAt_updCore _ _ _ l), ?_, fun j => (htok j).trans ?_, hpts.trans ?_, hfloor⟩
  · rw [State.g, State.ctx_setTok]; rfl
  · rw [State.p, State.ctx_setTok]; rfl
  · rw [State.pc, State.ctx_setTok] at hstands
    exact hstands
  · rw [State.cur_setTok, Core.tok_setTok_eq_if]
    split
    · rfl
    · rfl
  · rw [State.cur_setTok, Core.setTok_eq]

theorem inUser_setTok (h : s.InUser) (k : BitVec 6) (v : Tok) : (s.setTok k v).InUser :=
  ⟨h.1, by rw [State.cur_setTok, Core.setTok_eq]; exact h.2⟩

/-! #### BAR and BARW at a barrier of the gang (R202) -/

theorem barWaiting_eq_some {e : BitVec 23} (h : s.ctx.stat = .waiting (.barrier e ph)) : s.barWaiting = some ph := by
  simp only [State.barWaiting, h]

/-- A phase that is over ends the wait with its timestamp. -/
theorem waitPhase_over (h : ph < (s.barrier r).phase) (d : Word) (k : BitVec 6) :
    s.waitPhase r d ph k = s.phaseWaited k (Cells.get 0 (s.barrier r).times ph) := by
  simp only [State.waitPhase, if_pos h]

section Waits

variable (hb : s.cur.binding = some x) (hg : Cells.find? s.gangs x.gang = some g) (hd : (s.g a).toNat < 2 ^ 22)

include hb hd in
/-- At their wait BAR and BARW only wait on. -/
theorem waits_again {e : BitVec 23} (h : s.ctx.stat = .waiting (.barrier e ph)) (w : InstrWord) (k : BitVec 6) :
    barArrive w k a true true [] s = s.waitPhase (gangRef x (s.g a)) (s.g a) ph k ∧
    barwOp w k a [] s = s.waitPhase (gangRef x (s.g a)) (s.g a) ph k := by
  constructor
  · simp only [barArrive, barOf_gang hb hd, barWaiting_eq_some h]
  · simp only [barwOp, barOf_gang hb hd, barWaiting_eq_some h]

include hb hg in
theorem lastArrival_gang (d : Word) : s.lastArrival d = Cells.find? g.arrivals (arrivalKey s.cur.gangRank.toNat d) := by
  have hbind : (s.core s.agent).binding = some x := hb
  have hgang : s.gangOf s.agent = some g := by simp only [State.gangOf, hbind, hg]
  simp only [State.lastArrival, hgang]

include hb hg hd in
/-- BARW waits for the phase of the latest arrival, unless this is a COLLX phase still open. -/
theorem barwOp_arrived (hw : s.barWaiting = none) (hk : s.cur.tok k ≠ .pending)
    (harr : Cells.find? g.arrivals (arrivalKey s.cur.gangRank.toNat (s.g a)) = some ph)
    (hopen : ph = (Cells.get Barrier.reset g.barriers ((s.g a).toNat / 65536)).phase →
      (Cells.get Barrier.reset g.barriers ((s.g a).toNat / 65536)).isCollx ≠ some true) (w : InstrWord) :
    barwOp w k a [] s = (s.setTok k .pending).waitPhase (gangRef x (s.g a)) (s.g a) ph k := by
  have hcollx : ((Cells.get Barrier.reset g.barriers ((s.g a).toNat / 65536)).isCollx == some true &&
      some ph == some (Cells.get Barrier.reset g.barriers ((s.g a).toNat / 65536)).phase) = false := by
    rw [Bool.and_eq_false_iff, beq_eq_false_iff_ne, beq_eq_false_iff_ne]
    by_cases hph : ph = (Cells.get Barrier.reset g.barriers ((s.g a).toNat / 65536)).phase
    · exact .inl (hopen hph)
    · exact .inr fun h => hph (Option.some.inj h)
  simp only [barwOp, barOf_gang hb hd, hw, lastArrival_gang hb hg, harr, barrier_gangRef hg hd, badDesc_eq_false_of_lt hd, hcollx, Option.isNone_some,
    Bool.or_self, Option.getD_some]
  exact aOp_of_consume_ok rfl hk _

include hb hg hd in
theorem barwOp_unarrived (hu : s.InUser) (hp : s.Plain) (hw : s.barWaiting = none)
    (harr : Cells.find? g.arrivals (arrivalKey s.cur.gangRank.toNat (s.g a)) = none) (w : InstrWord) :
    s.TrappedIllegal w (barwOp w k a [] s) := by
  simp only [barwOp, barOf_gang hb hd, hw]
  refine trappedIllegal_aOp hu hp w [] ?_ _
  rw [lastArrival_gang hb hg, harr]
  simp

end Waits

theorem barrier_setTok (s : State) (k : BitVec 6) (v : Tok) (r : BarRef) : (s.setTok k v).barrier r = s.barrier r := by
  simp only [State.barrier, State.fbar, State.setTok_gangs, State.setTok_parts]

/-- BAR and BARW at their wait, and BARW on the latest arrival (R202). -/
theorem phaseWaitsHold (s : State) (k : BitVec 6) (a : BitVec 5) (x : Binding) (g : Gang) (b : Barrier) (ph : Nat) (hu : s.InUser) (hp : s.Plain)
    (hj : s.NoJoins) (hb : s.cur.binding = some x) (hg : Cells.find? s.gangs x.gang = some g) (hd : (s.g a).toNat < 2 ^ 22)
    (hbar : b = Cells.get Barrier.reset g.barriers ((s.g a).toNat / 65536)) :
    (∀ d, s.ctx.stat = .waiting (.barrier d ph) →
      (ph < b.phase → Completes (.bar k a 0) s (s.WaitOver k (Cells.get 0 b.times ph)) ∧
        Completes (.barw k a 0) s (s.WaitOver k (Cells.get 0 b.times ph))) ∧
      (b.phase ≤ ph → Completes (.bar k a 0) s (fun t =>
        s.OnlyCtx t ∧ t.pc = s.pc ∧ t.ctx.stat = .waiting (.barrier ((s.g a).setWidth 23) ph)))) ∧
    ((∀ d p, s.ctx.stat ≠ .waiting (.barrier d p)) → s.cur.tok k ≠ .pending →
      (Cells.find? g.arrivals (arrivalKey s.cur.gangRank.toNat (s.g a)) = some ph →
        (ph < b.phase → Completes (.barw k a 0) s (s.WaitOver k (Cells.get 0 b.times ph))) ∧
        (b.phase ≤ ph → b.isCollx ≠ some true → Completes (.barw k a 0) s (fun t =>
          t.pc = s.pc ∧ s.SameG t ∧ s.TokenSet k .pending t ∧ t.ctx.stat = .waiting (.barrier ((s.g a).setWidth 23) ph)))) ∧
      (Cells.find? g.arrivals (arrivalKey s.cur.gangRank.toNat (s.g a)) = none →
        Completes (.barw k a 0) s (s.TrappedIllegal (wordOf (.barw k a 0))))) := by
  have hbarrier : s.barrier (gangRef x (s.g a)) = b := (barrier_gangRef hg hd).trans hbar.symm
  subst hbar
  refine ⟨fun d hstat => ⟨fun hover => ?_, fun hopen => ?_⟩, fun hstat hk => ⟨fun harr => ⟨fun hover => ?_, fun hopen hkind => ?_⟩, fun harr => ?_⟩⟩
  · have hwait := waitPhase_over (hbarrier ▸ hover) (s.g a) k
    rw [hbarrier] at hwait
    obtain ⟨hbar, _⟩ := waits_again hb hd hstat (wordOf (.bar k a 0)) k
    obtain ⟨_, hbarw⟩ := waits_again hb hd hstat (wordOf (.barw k a 0)) k
    refine ⟨completes_aWord hp rfl rfl ?_, completes_aWord hp rfl rfl ?_⟩
    · rw [barOp, hbar, hwait]
      exact waitOver_phaseWaited hu hj k _
    · rw [hbarw, hwait]
      exact waitOver_phaseWaited hu hj k _
  · refine completes_aWord hp rfl rfl ?_
    obtain ⟨hbar, _⟩ := waits_again hb hd hstat (wordOf (.bar k a 0)) k
    rw [barOp, hbar, waitPhase_open (hbarrier ▸ hopen)]
    exact ⟨onlyCtx_await s _, by rw [State.pc, State.ctx_await]; rfl, by rw [State.ctx_await]; rfl⟩
  · refine completes_aWord hp rfl rfl ?_
    have hover' : ph < ((s.setTok k .pending).barrier (gangRef x (s.g a))).phase := by rw [barrier_setTok, hbarrier]; exact hover
    rw [barwOp_arrived hb hg hd (barWaiting_eq_none hstat) hk harr (fun h => absurd h (Nat.ne_of_lt hover)), waitPhase_over hover',
      barrier_setTok, hbarrier]
    exact waitOver_of_setTok (waitOver_phaseWaited (inUser_setTok hu k _) (hj.congr (State.setTok_ops _ _ _)) k _)
  · refine completes_aWord hp rfl rfl ?_
    have hopen' : ((s.setTok k .pending).barrier (gangRef x (s.g a))).phase ≤ ph := by rw [barrier_setTok, hbarrier]; exact hopen
    rw [barwOp_arrived hb hg hd (barWaiting_eq_none hstat) hk harr (fun _ => hkind), waitPhase_open hopen']
    obtain ⟨⟨_, hsg, _, _, htok⟩, hpc, hst⟩ := pended_await (sameCoresAndBytes_refl (s.setTok k .pending)) (.barrier ((s.g a).setWidth 23) ph)
    exact ⟨hpc, hsg, htok, hst⟩
  · exact completes_aWord hp rfl rfl (barwOp_unarrived hb hg hd hu hp (barWaiting_eq_none hstat) harr _)

end Sys2Proof.Machine
end

section
/-! ### The exact all-reduce of a phase, and its completion (R201, R207) -/

namespace Sys2Proof.Machine

variable {s t u : State} {w : Who} {m : Collx} {ms : List (Collx × Loc × Loc)} {l p src dst : Loc} {q : Accum} {ts va : Word} {g : Gang} {i n : Nat}

/-! #### What the completion of a phase leaves as it is -/

/-- A gang without its saved contexts. -/
def Gang.noCtxs (g : Gang) : Gang := { g with ctxs := [] }

/-- What the checks of a member of COLLX see in the scratch window, and what its tokens need, is as before. -/
structure State.CollxSame (s t : State) : Prop where
  cores : ∀ n, (t.core n).binding = (s.core n).binding ∧ (t.core n).raceMode = (s.core n).raceMode ∧ (t.core n).gen = (s.core n).gen
  toks : ∀ n j, (∃ x, (s.core n).tok j = .done x) → ∃ x, (t.core n).tok j = .done x
  pods : ∀ n, (t.pod n).banks = (s.pod n).banks ∧ (t.pod n).changing = (s.pod n).changing
  poison : t.poison = s.poison
  windows : ∀ n, (Cells.find? t.launches n).map (fun l => l.windows) = (Cells.find? s.launches n).map (fun l => l.windows)
  gangs : ∀ n, (Cells.find? t.gangs n).map Gang.noCtxs = (Cells.find? s.gangs n).map Gang.noCtxs
  ops : t.ops = s.ops

theorem State.CollxSame.refl (s : State) : s.CollxSame s :=
  ⟨fun _ => ⟨rfl, rfl, rfl⟩, fun _ _ => id, fun _ => ⟨rfl, rfl⟩, rfl, fun _ => rfl, fun _ => rfl, rfl⟩

theorem State.CollxSame.trans (h : s.CollxSame t) (h' : t.CollxSame u) : s.CollxSame u where
  cores n := ⟨(h'.cores n).1.trans (h.cores n).1, (h'.cores n).2.1.trans (h.cores n).2.1, (h'.cores n).2.2.trans (h.cores n).2.2⟩
  toks n j := h'.toks n j ∘ h.toks n j
  pods n := ⟨(h'.pods n).1.trans (h.pods n).1, (h'.pods n).2.trans (h.pods n).2⟩
  poison := h'.poison.trans h.poison
  windows n := (h'.windows n).trans (h.windows n)
  gangs n := (h'.gangs n).trans (h.gangs n)
  ops := h'.ops.trans h.ops

/-- Memories, their timestamps and the caches may have changed. -/
theorem collxSame_of_tables (hc : t.cores = s.cores) (hp : t.pods = s.pods) (hpoison : t.poison = s.poison) (hl : t.launches = s.launches)
    (hg : t.gangs = s.gangs) (ho : t.ops = s.ops) : s.CollxSame t where
  cores n := by rw [State.core_congr hc]; exact ⟨rfl, rfl, rfl⟩
  toks n j := by rw [State.core_congr hc]; exact id
  pods n := by rw [State.pod, State.pod, hp]; exact ⟨rfl, rfl⟩
  poison := hpoison
  windows n := by rw [hl]
  gangs n := by rw [hg]
  ops := ho

theorem collxSame_noteTlb (s : State) (n : Nat) (h : Bool) (va : Word) : s.CollxSame (s.noteTlb n h va) := by
  obtain ⟨⟨x, hself⟩, hother, c, p, hshape⟩ := noteTlb_spec s n h va
  refine ⟨fun j => ?_, fun j k => ?_, fun j => ?_, by rw [hshape], fun _ => by rw [hshape], fun _ => by rw [hshape], by rw [hshape]⟩
  · by_cases hj : j = n
    · subst hj; rw [hself]; exact ⟨rfl, rfl, rfl⟩
    · rw [hother j hj]; exact ⟨rfl, rfl, rfl⟩
  · by_cases hj : j = n
    · subst hj; rw [hself]; exact id
    · rw [hother j hj]; exact id
  · unfold State.noteTlb
    split
    · exact ⟨rfl, rfl⟩
    · split
      · exact ⟨rfl, rfl⟩
      · rw [State.pod_updPod]
        split
        · next hj => subst hj; exact ⟨rfl, rfl⟩
        · exact ⟨rfl, rfl⟩

theorem collxSame_putTok (s : State) (r : TokRef) (ts : Word) : s.CollxSame (s.putTok r (.done ts)) where
  cores n := by
    rw [core_putTok]
    split
    · rw [Core.setTok_eq]; exact ⟨rfl, rfl, rfl⟩
    · exact ⟨rfl, rfl, rfl⟩
  toks n j h := by
    rw [tok_putTok]
    split
    · exact ⟨ts, rfl⟩
    · exact h
  pods n := by rw [State.pod, State.pod, putTok_pods]; exact ⟨rfl, rfl⟩
  poison := putTok_poison s r _
  windows n := by rw [putTok_launches]
  gangs n := by
    unfold State.putTok
    split
    · rfl
    · split
      · rfl
      · exact (congrArg _ (Cells.find?_map_values (fun _ g => g.putTok r (.done ts)) s.gangs n)).trans (Option.map_map _ _ _)
  ops := putTok_ops s r _

theorem collxSame_doneTs (s : State) (n : Nat) (ts : Word) : s.CollxSame (s.updLaunch n fun l => { l with doneTs := wmax l.doneTs ts }) := by
  refine ⟨fun _ => ?_, fun _ _ => ?_, fun j => ?_, by simp, fun j => ?_, fun _ => by simp, by simp⟩
  · rw [State.core_congr (State.updLaunch_cores s n _)]; exact ⟨rfl, rfl, rfl⟩
  · rw [State.core_congr (State.updLaunch_cores s n _)]; exact id
  · rw [State.pod, State.pod, State.updLaunch_pods]; exact ⟨rfl, rfl⟩
  · rw [State.find?_updLaunch]
    split
    · cases Cells.find? s.launches j <;> rfl
    · rfl

/-! #### The checks of a member in the scratch window -/

/-- What the checks of a member of COLLX see in the scratch window is as before. -/
structure State.SameScratchChecks (s t : State) : Prop where
  cores : ∀ n, (t.core n).binding = (s.core n).binding ∧ (t.core n).raceMode = (s.core n).raceMode
  pods : ∀ n, (t.pod n).banks = (s.pod n).banks ∧ (t.pod n).changing = (s.pod n).changing
  poison : t.poison = s.poison
  windows : ∀ n, (Cells.find? t.launches n).map (fun l => l.windows) = (Cells.find? s.launches n).map (fun l => l.windows)
  phases : ∀ n, (Cells.find? t.gangs n).map (fun g => g.phaseNo) = (Cells.find? s.gangs n).map (fun g => g.phaseNo)

theorem State.CollxSame.checks (h : s.CollxSame t) : s.SameScratchChecks t where
  cores n := ⟨(h.cores n).1, (h.cores n).2.1⟩
  pods := h.pods
  poison := h.poison
  windows := h.windows
  phases n := by
    have hphase : ∀ o : Option Gang, o.map (fun g => g.phaseNo) = (o.map Gang.noCtxs).map fun g => g.phaseNo := fun o => by cases o <;> rfl
    rw [hphase, h.gangs, ← hphase]

theorem sameScratchChecks_updBarrier (s : State) (r : BarRef) (f : Barrier → Barrier) : s.SameScratchChecks (s.updBarrier r f) := by
  have hcores := (sameCoresAndBytes_updBarrier s r f).1
  have hpods : (s.updBarrier r f).pods = s.pods := by unfold State.updBarrier; split <;> simp
  refine ⟨fun n => ?_, fun n => ?_, ?_, fun n => ?_, fun n => ?_⟩
  · rw [hcores]; exact ⟨rfl, rfl⟩
  · rw [State.pod, State.pod, hpods]; exact ⟨rfl, rfl⟩
  · unfold State.updBarrier; split <;> simp
  · unfold State.updBarrier; split <;> simp
  · unfold State.updBarrier
    split
    · rw [State.find?_updGang]
      split
      · cases Cells.find? s.gangs n <;> rfl
      · rfl
    · simp

/-- How a member accesses its slots does not depend on the state. -/
theorem collxWho_congr (s t : State) (m : Collx) : t.collxWho m = s.collxWho m := by
  unfold State.collxWho State.whoAt
  simp only
  split
  · rfl
  · split <;> rfl

theorem collxWho_core (s : State) (m : Collx) : (s.collxWho m).core = m.core := core_whoAt _ _ _ _ _

theorem scratchLoc_congr (h : s.SameScratchChecks t) (pod o : Nat) : t.scratchLoc pod o = s.scratchLoc pod o := by
  have hrole : ∀ b, (t.pod pod).role b = (s.pod pod).role b := fun b => by rw [Pod.role, Pod.role, (h.pods pod).1]
  simp only [State.scratchLoc, Pod.banksOf, hrole]

theorem converting_congr (h : s.SameScratchChecks t) (l : Loc) : t.converting l = s.converting l := by
  cases l with
  | scratch pod o => rw [State.converting, State.converting, (h.pods pod).2]
  | _ => rfl

theorem windowOf_congr (h : s.SameScratchChecks t) {n : Nat} (hw : w.launch = some n) (va : Word) : t.windowOf w va = s.windowOf w va := by
  have hn := h.windows n
  have hmap : ∀ a : State, a.windowOf w va =
      ((Cells.find? a.launches n).map fun l => l.windows).bind fun ws => windowIn va.toNat 0 ws := fun a => by
    simp only [State.windowOf, hw, Option.bind_map]
    rfl
  rw [hmap, hmap, hn]

theorem phaseOf_congr (h : s.SameScratchChecks t) (n : Nat) : t.phaseOf n = s.phaseOf n := by
  have hgang : (t.gangOf n).map (fun g => g.phaseNo) = (s.gangOf n).map (fun g => g.phaseNo) := by
    simp only [State.gangOf, (h.cores n).1]
    cases (s.core n).binding with
    | none => rfl
    | some b => exact h.phases b.gang
  have hphase : ∀ a : State, a.phaseOf n = ((a.gangOf n).map fun g => g.phaseNo).getD 0 := fun a => by
    unfold State.phaseOf
    cases a.gangOf n <;> rfl
  rw [hphase, hphase, hgang]

theorem check_congr (h : s.SameScratchChecks t) {n : Nat} (hw : w.launch = some n) (hlo : scratchBase ≤ va.toNat) (hhi : va.toNat < 2 ^ 56) (acc : Acc) :
    t.check w acc va = s.check w acc va := by
  simp only [State.check, if_pos (And.intro hlo hhi), scratchLoc_congr h, converting_congr h, State.windowCheck, windowOf_congr h hw,
    phaseOf_congr h, State.eccAt, h.poison]

theorem State.CollxPlaces.congr (h : s.CollxPlaces m src dst) (hs : s.SameScratchChecks t) : t.CollxPlaces m src dst := by
  obtain ⟨hslo, hshi, hdlo, hdhi, hrace, hsrc, hdst, hread⟩ := h
  have hva : (m.dst + 128).toNat = m.dst.toNat + 128 := by
    rw [BitVec.toNat_add, show ((128 : Word)).toNat = 128 from rfl, Nat.mod_eq_of_lt (by omega)]
  refine ⟨hslo, hshi, hdlo, hdhi, (hs.cores _).2.trans hrace, ?_, ?_, fun hr => ?_⟩
  · rw [collxWho_congr s t, check_congr hs rfl hslo hshi]
    exact hsrc
  · rw [collxWho_congr s t, check_congr hs rfl hdlo (by omega)]
    exact hdst
  · rw [collxWho_congr s t, check_congr hs rfl (by omega) (by omega)]
    exact hread hr

/-- A place in the scratch window is a place of scratch. -/
theorem scratch_of_check (hlo : scratchBase ≤ va.toNat) (hhi : va.toNat < 2 ^ 56) {acc : Acc} (h : s.check w acc va = .ok l) :
    ∃ pod o, l = .scratch pod o := by
  have hplace : s.scratchLoc (podOf w.core) (va.toNat - scratchBase) = some l := by
    rw [State.check, if_pos ⟨hlo, hhi⟩] at h
    cases hp : s.scratchLoc (podOf w.core) (va.toNat - scratchBase) with
    | none => rw [hp] at h; cases h
    | some l' =>
      simp only [hp] at h
      split at h
      · cases h
      · split at h
        · cases h
        · split at h
          · exact congrArg some (Chk.ok.inj h)
          · split at h
            · cases h
            · exact congrArg some (Chk.ok.inj h)
  unfold State.scratchLoc at hplace
  split at hplace
  · exact ⟨_, _, (Option.some.inj hplace).symm⟩
  · cases hplace

/-! #### Accesses of a member -/

theorem setTs_shape (s : State) (l : Loc) (x : LineTs) : ∃ ls sl, s.setTs l x = { s with lines := ls, scrLines := sl } := by
  cases l <;> exact ⟨_, _, rfl⟩

theorem readAt_shape (s : State) (hs : List Holder) (lam p : Word) (l : Loc) (n : Nat) :
    ∃ ls sl c, (s.readAt hs lam p l n).1 = { s with lines := ls, scrLines := sl, copies := c } := by
  unfold State.readAt
  cases s.hit l p hs with
  | some c => exact ⟨_, _, _, rfl⟩
  | none =>
    obtain ⟨ls, sl, hset⟩ := setTs_shape s l ⟨(s.tsAt l).wts, wmax (s.tsAt l).rts (wmax ((s.tsAt l).wts + lam) (p + lam))⟩
    obtain ⟨c, hc⟩ := foldl_copies_spec (fun a (h : Holder) => putCopy_spec a l h _ _ _) hs (s.setTs l _)
    exact ⟨ls, sl, c, hc.trans (by rw [hset])⟩

/-- A read of a granule changes timestamps and copies alone. -/
theorem granRead_shape (s : State) (w : Who) (na : Bool) (base : Word) (x : Loc × Nat × Nat) :
    ∃ ls sl c d, (s.granRead w na base x).1 = { s with lines := ls, scrLines := sl, copies := c, devCopies := d } := by
  obtain ⟨l, va, n⟩ := x
  simp only [State.granRead]
  split
  · obtain ⟨d, hd⟩ := readSys_spec s l n (!na)
    rw [hd]
    exact ⟨_, _, _, d, rfl⟩
  · obtain ⟨ls, sl, c, hc⟩ := readAt_shape s (if s.homeOnly w na va then [] else s.holders w.core va) (s.leaseOf w.core) base l n
    exact ⟨ls, sl, c, _, hc⟩

/-- A write of package memory or scratch changes bytes, timestamps and copies alone. -/
theorem writeAt_shape (s : State) (hs : List Holder) (na : Bool) (p : Word) (l : Loc) (n v : Nat) :
    ∃ m sc h pe ls sl c, (s.writeAt hs na p l n v).1 =
      { s with mem := m, scratch := sc, host := h, peer := pe, lines := ls, scrLines := sl, copies := c } := by
  obtain ⟨c, hc⟩ := writeAt_spec s hs na p l n v
  obtain ⟨m, sc, h, pe, hput⟩ := putNat_spec (s.setTs l ⟨s.writeTs p l, s.writeTs p l⟩) l n v
  rw [hc, hput]
  cases l <;> exact ⟨_, _, _, _, _, _, c, rfl⟩

/-- A granule of package memory or scratch, of a core that checks for no races, is one write (R289). -/
theorem granWrite_eq_writeAt (hr : (s.core w.core).raceMode = 0) (hbuf : w.buf = false) (hl : l.isSystem = false) (x : SysSrc) (na : Bool)
    (base : Word) (va n v : Nat) :
    s.granWrite w x na base (l, va, n) v = s.writeAt (s.holders w.core va) (s.homeOnly w na va) base l n v := by
  have hm : ((s.writeAt (s.holders w.core va) (s.homeOnly w na va) base l n v).1.core w.core).raceMode = 0 := by
    rw [State.core_congr (cores_writeAt _ _ _ _ _ _ _)]
    exact hr
  simp only [State.granWrite, hbuf, hl, Bool.false_eq_true, if_false, noteWrite_eq_self hm]

theorem touchAll_scratch (s : State) (w : Who) (hint : BitVec 3) (dirty : Bool) (pod o va n : Nat) :
    s.touchAll w hint dirty [(.scratch pod o, va, n)] = s.noteTlb w.core (!w.user) (BitVec.ofNat 64 va) := rfl

section Member

variable (hrace : (s.core m.core).raceMode = 0)

include hrace in
theorem raceMode_collxWho : (s.core (s.collxWho m).core).raceMode = 0 := by rw [collxWho_core]; exact hrace

include hrace in
/-- A member's source slot: the bytes of memory go to the sum, and no byte changes. -/
theorem collxRead_ok (hlo : scratchBase ≤ m.src.toNat) (hhi : m.src.toNat < 2 ^ 56) (hcheck : s.check (s.collxWho m) .read m.src = .ok src)
    (ts t : Word) (q : Accum) :
    ∃ a t', collxRead ts (s, q, t) m = (a, q.merge (slotOf (s.natAt src 128)), t') ∧ s.CollxSame a ∧ ∀ p, a.byteAt p = s.byteAt p := by
  obtain ⟨pod, o, rfl⟩ := scratch_of_check hlo hhi hcheck
  simp only [collxRead, hcheck]
  rw [logRaces_eq_self (raceMode_collxWho hrace), touchAll_scratch]
  obtain ⟨_, _, c, p, hshape⟩ := noteTlb_spec s (s.collxWho m).core (!(s.collxWho m).user) (BitVec.ofNat 64 m.src.toNat)
  have hsame := collxSame_noteTlb s (s.collxWho m).core (!(s.collxWho m).user) (BitVec.ofNat 64 m.src.toNat)
  generalize s.noteTlb (s.collxWho m).core (!(s.collxWho m).user) (BitVec.ofNat 64 m.src.toNat) = a at hshape hsame ⊢
  have hbytes : ∀ p, a.byteAt p = s.byteAt p := fun p => by rw [hshape]; exact State.byteAt_congr rfl rfl rfl rfl p
  have hvalue := granRead_value (s := a) (w := s.collxWho m) rfl (wmax ts m.base) (.scratch pod o) m.src.toNat 128
  obtain ⟨_, _, _, _, hread⟩ := granRead_shape a (s.collxWho m) true (wmax ts m.base) (.scratch pod o, m.src.toNat, 128)
  generalize a.granRead (s.collxWho m) true (wmax ts m.base) (.scratch pod o, m.src.toNat, 128) = y at hvalue hread ⊢
  refine ⟨y.1, _, by rw [hvalue, natAt_congr (funext hbytes)], hsame.trans ?_, fun p => ?_⟩
  · rw [hread]
    exact collxSame_of_tables rfl rfl rfl rfl rfl rfl
  · rw [hread]
    exact (State.byteAt_congr rfl rfl rfl rfl p).trans (hbytes p)

include hrace in
/-- A member's write of `n` bytes of scratch. -/
theorem collxPut_ok (hlo : scratchBase ≤ va.toNat) (hhi : va.toNat < 2 ^ 56) (hcheck : s.check (s.collxWho m) .write va = .ok l)
    (ts : Word) (n v : Nat) :
    ∃ a t, s.collxPut m ts va n v = .ok (a, t) ∧ s.CollxSame a ∧ a.natAt l n = v % 256 ^ n ∧
      ∀ p, (∀ j, j < n → p.key ≠ (l.plus j).key) → a.byteAt p = s.byteAt p := by
  obtain ⟨pod, o, rfl⟩ := scratch_of_check hlo hhi hcheck
  simp only [State.collxPut, hcheck]
  rw [logRaces_eq_self (raceMode_collxWho hrace), touchAll_scratch]
  obtain ⟨⟨x, hself⟩, _, c, p, hshape⟩ := noteTlb_spec s (s.collxWho m).core (!(s.collxWho m).user) (BitVec.ofNat 64 va.toNat)
  have hsame := collxSame_noteTlb s (s.collxWho m).core (!(s.collxWho m).user) (BitVec.ofNat 64 va.toNat)
  generalize s.noteTlb (s.collxWho m).core (!(s.collxWho m).user) (BitVec.ofNat 64 va.toNat) = a at hself hshape hsame ⊢
  have hbytes : ∀ p, a.byteAt p = s.byteAt p := fun p => by rw [hshape]; exact State.byteAt_congr rfl rfl rfl rfl p
  have hm : (a.core (s.collxWho m).core).raceMode = 0 := by rw [hself]; exact raceMode_collxWho hrace
  rw [granWrite_eq_writeAt hm rfl rfl]
  generalize hy : a.writeAt (a.holders (s.collxWho m).core va.toNat) (a.homeOnly (s.collxWho m) true va.toNat) ts (.scratch pod o) n v = y
  refine ⟨y.1, y.2, rfl, hsame.trans ?_, by rw [← hy, natAt_writeAt], fun p hp => ?_⟩
  · obtain ⟨_, _, _, _, _, _, _, h⟩ := writeAt_shape a (a.holders (s.collxWho m).core va.toNat) (a.homeOnly (s.collxWho m) true va.toNat) ts
      (.scratch pod o) n v
    rw [← hy, h]
    exact collxSame_of_tables rfl rfl rfl rfl rfl rfl
  · rw [← hy, byteAt_writeAt, byteAt_putNat_of_key_ne _ _ _ _ hp, hbytes]

end Member

theorem slotBytes_lt (q : Accum) : slotBytes q < 256 ^ 128 := by
  have hval := q.val.isLt
  have hflags : q.flags < 8 := by
    unfold Accum.flags
    split <;> split <;> split <;> omega
  have hpow : (2 : Nat) ^ 640 * 8 ≤ 256 ^ 128 := by
    have h640 := pow_mul 2 8 80
    rw [show 8 * 80 = 640 from rfl, show 2 ^ 8 = 256 from rfl] at h640
    have h128 : (256 : Nat) ^ 128 = 256 ^ 80 * 256 ^ 48 := pow_add 256 80 48
    rw [h640, h128]
    exact Nat.mul_le_mul_left _ (by norm_num)
  have hmul : (2 : Nat) ^ 640 * q.flags ≤ 2 ^ 640 * 7 := Nat.mul_le_mul_left _ (by omega)
  rw [slotBytes]
  omega

/-- A number is told by its bytes. -/
theorem natAt_of_bytes {l : Loc} {n : Nat} (h : ∀ j, j < n → t.byteAt (l.plus j) = s.byteAt (l.plus j)) : t.natAt l n = s.natAt l n := by
  induction n generalizing l with
  | zero => rfl
  | succ n ih =>
    have h0 := h 0 (by omega)
    rw [Loc.plus_zero] at h0
    rw [State.natAt, State.natAt, h0, ih fun j hj => by rw [Loc.plus_plus]; exact h (1 + j) (by omega)]

/-- A member's token, at the end of its writes. -/
theorem collx_resolves (h : s.NoJoins) (m : Collx) (t : Word) :
    s.CollxSame ((s.updLaunch m.launch fun l => { l with doneTs := wmax l.doneTs t }).resolveFrom m.tok (.done t) 8 m.at_ m.base) ∧
    (∀ p, ((s.updLaunch m.launch fun l => { l with doneTs := wmax l.doneTs t }).resolveFrom m.tok (.done t) 8 m.at_ m.base).byteAt p = s.byteAt p) ∧
    (m.tok.k ≠ 63 → (s.core m.tok.core).gen = m.tok.gen →
      ∃ x, (((s.updLaunch m.launch fun l => { l with doneTs := wmax l.doneTs t }).resolveFrom m.tok (.done t) 8 m.at_ m.base).core m.tok.core).tok
        m.tok.k = .done x) := by
  have hsame := collxSame_doneTs s m.launch t
  have hbytes : ∀ p, (s.updLaunch m.launch fun l => { l with doneTs := wmax l.doneTs t }).byteAt p = s.byteAt p := fun p =>
    State.byteAt_congr (by simp) (by simp) (by simp) (by simp) p
  generalize (s.updLaunch m.launch fun l => { l with doneTs := wmax l.doneTs t }) = a at hsame hbytes ⊢
  rw [resolveFrom_done (h.congr hsame.ops)]
  refine ⟨hsame.trans (collxSame_putTok a m.tok t), fun p => (byteAt_putTok a _ _ p).trans (hbytes p), fun hk hg => ⟨t, ?_⟩⟩
  rw [tok_putTok, if_pos ⟨rfl, (hsame.cores _).2.2.trans hg, rfl, hk⟩]

/-- A member's destination slot and read-out hold the sum, its token is done, and no other byte changes (R207). -/
theorem collxWrite_ok (h : s.CollxPlaces m src dst) (hj : s.NoJoins) (q : Accum) (ts : Word) :
    s.CollxSame (collxWrite q ts s m) ∧ (collxWrite q ts s m).natAt dst 128 = slotBytes q ∧
      (m.read = true → (collxWrite q ts s m).natAt (dst.plus 128) 4 = q.read % 2 ^ 32) ∧
      (m.tok.k ≠ 63 → (s.core m.tok.core).gen = m.tok.gen → ∃ x, ((collxWrite q ts s m).core m.tok.core).tok m.tok.k = .done x) ∧
      ∀ p, ¬ InDst (m, src, dst) p → (collxWrite q ts s m).byteAt p = s.byteAt p := by
  obtain ⟨_, _, hlo, hhi, hrace, hsrc, hdst, hread⟩ := h
  have hw := raceMode_collxWho (m := m) hrace
  obtain ⟨a, t, hput, hsame, hnat, hframe⟩ := collxPut_ok hrace hlo (by omega) hdst ts 128 (slotBytes q)
  rw [Nat.mod_eq_of_lt (slotBytes_lt q)] at hnat
  cases hr : m.read with
  | false =>
    have heq : collxWrite q ts s m =
        (a.updLaunch m.launch fun l => { l with doneTs := wmax l.doneTs t }).resolveFrom m.tok (.done t) 8 m.at_ m.base := by
      simp only [collxWrite, hsrc, hdst, trapRace_eq_none hw, hput, hr, Bool.false_eq_true, if_false]
      rfl
    obtain ⟨hsame', hbytes, htok⟩ := collx_resolves (hj.congr hsame.ops) m t
    rw [heq]
    refine ⟨hsame.trans hsame', by rw [natAt_congr (funext hbytes), hnat], fun h => absurd h Bool.false_ne_true,
      fun hk hg => htok hk ((hsame.cores _).2.2.trans hg), fun p hp => (hbytes p).trans (hframe p fun j hj he => hp ⟨j, ?_, he⟩)⟩
    rw [hr, if_neg Bool.false_ne_true]
    exact hj
  | true =>
    have hva : (m.dst + 128).toNat = m.dst.toNat + 128 := by
      rw [BitVec.toNat_add, show ((128 : Word)).toNat = 128 from rfl, Nat.mod_eq_of_lt (by omega)]
    have hcheck : a.check (a.collxWho m) .write (m.dst + 128) = .ok (dst.plus 128) := by
      rw [collxWho_congr s a, check_congr hsame.checks rfl (by omega) (by omega)]
      exact hread hr
    obtain ⟨b, t', hput', hsame', hnat', hframe'⟩ :=
      collxPut_ok (m := m) ((hsame.cores _).2.1.trans hrace) (by omega) (by omega) hcheck ts 4 q.read
    have heq : collxWrite q ts s m = ((b.updLaunch m.launch fun l => { l with doneTs := wmax l.doneTs t' }).updLaunch m.launch
        fun l => { l with doneTs := wmax l.doneTs t }).resolveFrom m.tok (.done t) 8 m.at_ m.base := by
      simp only [collxWrite, hsrc, hdst, hread hr, trapRace_eq_none hw, hput, hput', hr, if_true]
      rfl
    have hsame2 := (hsame.trans hsame').trans (collxSame_doneTs b m.launch t')
    have hbytes2 : ∀ p, (b.updLaunch m.launch fun l => { l with doneTs := wmax l.doneTs t' }).byteAt p = b.byteAt p := fun p =>
      State.byteAt_congr (by simp) (by simp) (by simp) (by simp) p
    obtain ⟨hsame3, hbytes, htok⟩ := collx_resolves (hj.congr hsame2.ops) m t
    rw [heq]
    have hall : ∀ p, State.byteAt _ p = b.byteAt p := fun p => (hbytes p).trans (hbytes2 p)
    refine ⟨hsame2.trans hsame3, ?_, fun _ => ?_, fun hk hg => htok hk ((hsame2.cores _).2.2.trans hg), fun p hp => (hall p).trans ?_⟩
    · rw [natAt_congr (funext hall), ← hnat]
      refine natAt_of_bytes fun j hj => hframe' _ fun i hi => ?_
      rw [Loc.key_plus, Loc.plus_plus, Loc.key_plus]
      omega
    · rw [natAt_congr (funext hall), hnat', show (256 : Nat) ^ 4 = 2 ^ 32 by norm_num]
    · rw [hframe' p fun j hj he => hp ⟨128 + j, ?_, ?_⟩, hframe p fun j hj he => hp ⟨j, ?_, he⟩]
      · rw [hr, if_pos rfl]; omega
      · rw [hr, if_pos rfl]; omega
      · rw [he, Loc.plus_plus]

/-! #### All members -/

/-- Every member's source slot is read once, and the sum is that of the slots as they stand. -/
theorem foldl_collxRead (ts : Word) (hplaces : ∀ m ∈ ms, s.CollxPlaces m.1 m.2.1 m.2.2) (t : Word) (q : Accum) :
    ∃ a t', (ms.map fun m => m.1).foldl (collxRead ts) (s, q, t) = (a, ms.foldl (fun q m => q.merge (slotOf (s.natAt m.2.1 128))) q, t') ∧
      s.CollxSame a ∧ ∀ p, a.byteAt p = s.byteAt p := by
  induction ms generalizing s q t with
  | nil => exact ⟨s, t, rfl, .refl s, fun _ => rfl⟩
  | cons m ms ih =>
    obtain ⟨hslo, hshi, _, _, hrace, hsrc, _⟩ := hplaces m List.mem_cons_self
    obtain ⟨a, t1, hstep, hsame, hbytes⟩ := collxRead_ok hrace hslo hshi hsrc ts t q
    obtain ⟨b, t2, hrest, hsame', hbytes'⟩ := ih (s := a) (fun m' hm' => (hplaces m' (List.mem_cons_of_mem _ hm')).congr hsame.checks) t1
      (q.merge (slotOf (s.natAt m.2.1 128)))
    simp only [natAt_congr (funext hbytes)] at hrest
    refine ⟨b, t2, ?_, hsame.trans hsame', fun p => (hbytes' p).trans (hbytes p)⟩
    rw [List.map_cons, List.foldl_cons, hstep, hrest, List.foldl_cons]

/-- What the completion leaves for a member. -/
def Written (s t : State) (q : Accum) (m : Collx × Loc × Loc) : Prop :=
  t.natAt m.2.2 128 = slotBytes q ∧ (m.1.read = true → t.natAt (m.2.2.plus 128) 4 = q.read % 2 ^ 32) ∧
    (m.1.tok.k ≠ 63 → (s.core m.1.tok.core).gen = m.1.tok.gen → ∃ x, (t.core m.1.tok.core).tok m.1.tok.k = .done x)

/-- What one member has written the writes of others, elsewhere, leave. -/
theorem Written.kept {mem : Collx × Loc × Loc} (h : Written s t q mem) (hsame : t.CollxSame u)
    (hframe : ∀ p, InDst mem p → u.byteAt p = t.byteAt p) : Written s u q mem := by
  obtain ⟨hslot, hread, htok⟩ := h
  refine ⟨?_, fun hr => ?_, fun hk hg => hsame.toks _ _ (htok hk hg)⟩
  · rw [natAt_of_bytes fun j hj => hframe _ ⟨j, by split <;> omega, rfl⟩, hslot]
  · rw [natAt_of_bytes fun j hj => hframe _ ⟨128 + j, by rw [if_pos hr]; omega, by rw [Loc.plus_plus]⟩, hread hr]

/-- Every member's destination slot holds the sum. -/
theorem foldl_collxWrite (q : Accum) (ts : Word) (hplaces : ∀ m ∈ ms, s.CollxPlaces m.1 m.2.1 m.2.2) (hj : s.NoJoins)
    (hapart : ms.Pairwise fun m o => ∀ p, InDst m p → ¬ InDst o p) :
    s.CollxSame ((ms.map fun m => m.1).foldl (collxWrite q ts) s) ∧
      (∀ m ∈ ms, Written s ((ms.map fun m => m.1).foldl (collxWrite q ts) s) q m) ∧
      ∀ p, (∀ m ∈ ms, ¬ InDst m p) → ((ms.map fun m => m.1).foldl (collxWrite q ts) s).byteAt p = s.byteAt p := by
  induction ms generalizing s with
  | nil => exact ⟨.refl s, fun _ hm => absurd hm List.not_mem_nil, fun _ _ => rfl⟩
  | cons m ms ih =>
    obtain ⟨hm, hms⟩ := List.pairwise_cons.mp hapart
    obtain ⟨hsame, hslot, hread, htok, hframe⟩ := collxWrite_ok (hplaces m List.mem_cons_self) hj q ts
    rw [List.map_cons, List.foldl_cons]
    generalize collxWrite q ts s m.1 = a at hsame hslot hread htok hframe ⊢
    obtain ⟨hsame', hwritten, hframe'⟩ := ih (s := a) (fun o ho => (hplaces o (List.mem_cons_of_mem _ ho)).congr hsame.checks)
      (hj.congr hsame.ops) hms
    refine ⟨hsame.trans hsame', fun o ho => ?_, fun p hp => ?_⟩
    · rcases List.mem_cons.mp ho with rfl | ho
      · exact Written.kept ⟨hslot, hread, htok⟩ hsame' fun p hp => hframe' p fun o' ho' => hm o' ho' p hp
      · obtain ⟨h1, h2, h3⟩ := hwritten o ho
        exact ⟨h1, h2, fun hk hg => h3 hk ((hsame.cores _).2.2.trans hg)⟩
    · rw [hframe' p fun o ho => hp o (List.mem_cons_of_mem _ ho), hframe p (hp m List.mem_cons_self)]

/-! #### The tokens of BARA and BARAX (R201) -/

/-- The tokens of a phase, done one after the other. -/
theorem foldl_resolve_toks (hj : s.NoJoins) (toks : List TokRef) (ts : Word) :
    s.CollxSame (toks.foldl (fun a r => a.resolveFrom r (.done ts) 0 0 ts) s) ∧
      (toks.foldl (fun a r => a.resolveFrom r (.done ts) 0 0 ts) s).parts = s.parts ∧
      (∀ p, (toks.foldl (fun a r => a.resolveFrom r (.done ts) 0 0 ts) s).byteAt p = s.byteAt p) ∧
      (∀ n j, (s.core n).tok j = .done ts → ((toks.foldl (fun a r => a.resolveFrom r (.done ts) 0 0 ts) s).core n).tok j = .done ts) ∧
      ∀ r ∈ toks, r.k ≠ 63 → (s.core r.core).gen = r.gen →
        ((toks.foldl (fun a r => a.resolveFrom r (.done ts) 0 0 ts) s).core r.core).tok r.k = .done ts := by
  induction toks generalizing s with
  | nil => exact ⟨.refl s, rfl, fun _ => rfl, fun _ _ => id, fun _ hr => absurd hr List.not_mem_nil⟩
  | cons r toks ih =>
    rw [List.foldl_cons, resolveFrom_done hj]
    have hsame := collxSame_putTok s r ts
    obtain ⟨hsame', hparts, hbytes, hkept, hdone⟩ := ih (hj.congr hsame.ops)
    refine ⟨hsame.trans hsame', hparts.trans (putTok_parts s r _), fun p => (hbytes p).trans (byteAt_putTok s r _ p), fun n j h => hkept n j ?_,
      fun r' hr' hk hg => ?_⟩
    · rw [tok_putTok]
      split
      · rfl
      · exact h
    · rcases List.mem_cons.mp hr' with rfl | hr'
      · exact hkept _ _ (by rw [tok_putTok, if_pos ⟨rfl, hg, rfl, hk⟩])
      · exact hdone r' hr' hk ((hsame.cores _).2.2.trans hg)

/-! #### The event (R201) -/

/-- The barrier after its phase. -/
def Barrier.next (b : Barrier) (ts : Word) : Barrier := { Barrier.reset with phase := b.phase + 1, times := Cells.put b.times b.phase ts }

/-- A phase without slots: its tokens are done. -/
theorem completePhase_toks {r : BarRef} (hcollx : (s.barrier r).collx = []) (ts : Word) :
    s.completePhase r ts = (s.barrier r).toks.foldl (fun a t => a.resolveFrom t (.done ts) 0 0 ts) (s.updBarrier r fun b => b.next ts) := by
  simp only [State.completePhase, hcollx, List.foldl_nil]
  rfl

/-- A phase of COLLX alone: the slots are read, then the sum is written. -/
theorem completePhase_collx {r : BarRef} (htoks : (s.barrier r).toks = []) (ts : Word) {a : State} {q : Accum} {t : Word}
    (hread : (s.barrier r).collx.foldl (collxRead ts) (s.updBarrier r fun b => b.next ts, Accum.zero, ts) = (a, q, t)) :
    s.completePhase r ts = (s.barrier r).collx.foldl (collxWrite q t) a := by
  have hread' : (s.barrier r).collx.foldl (collxRead ts) (s.updBarrier r fun x =>
    { Barrier.reset with phase := x.phase + 1, times := Cells.put x.times x.phase ts }, Accum.zero, ts) = (a, q, t) := hread
  simp only [State.completePhase, htoks, List.foldl_nil, hread']

theorem dropReleased_eq (hg : Cells.find? s.gangs i = some g) (hst : g.state ≠ .released) : s.dropReleased i = s := by
  simp only [State.dropReleased, hg, hst, false_and, if_false]

section Event

variable {b : Barrier} (hn : n < 64) (hg : Cells.find? s.gangs i = some g) (hst : g.state ≠ .released)
  (hb : b = Cells.get Barrier.reset g.barriers n)

include hn hg hb in
/-- The gang after the phase, but for saved contexts. -/
theorem gang_of_completed (ts : Word) (h : (s.updBarrier ⟨i, n⟩ fun b => b.next ts).CollxSame t) :
    ∃ g', Cells.find? t.gangs i = some g' ∧ g'.state = g.state ∧ t.barrier ⟨i, n⟩ = b.next ts := by
  have hgang := h.gangs i
  rw [find?_updBarrier_gang hg hn] at hgang
  cases ht : Cells.find? t.gangs i with
  | none => rw [ht] at hgang; cases hgang
  | some g' =>
    rw [ht] at hgang
    have heq := Option.some.inj hgang
    have hstate : g'.noCtxs.state = g.state := by rw [heq]; rfl
    have hbars : g'.noCtxs.barriers = Cells.put g.barriers n ((Cells.get Barrier.reset g.barriers n).next ts) := by rw [heq]; rfl
    refine ⟨g', rfl, hstate, ?_⟩
    rw [barrier_gang ht hn, show g'.barriers = _ from hbars, Cells.get_put_self, hb]

include hn hg hst hb in
/-- A full phase completes where no slot waits. -/
theorem execBarrierPhaseComplete_full (hn0 : b.n ≠ 0) (hfull : b.n ≤ b.count) (hheld : s.collxHeld b = false)
    (h : (s.updBarrier ⟨i, n⟩ fun b => b.next (Barrier.ts (s.barrier ⟨i, n⟩))).CollxSame (s.completePhase ⟨i, n⟩ b.ts)) :
    exec (.barrierPhaseComplete i n) s = .next (s.completePhase ⟨i, n⟩ b.ts) := by
  have hbar : s.barrier ⟨i, n⟩ = b := (barrier_gang hg hn).trans hb.symm
  obtain ⟨g', hg', hst', _⟩ := gang_of_completed hn hg hb _ h
  have hphase : s.phaseFull ⟨i, n⟩ = true := by
    simp only [State.phaseFull, counts_gang (r := ⟨i, n⟩) hn, hbar, Bool.true_and, Bool.and_eq_true, bne_iff_ne, decide_eq_true_eq]
    exact ⟨hn0, hfull⟩
  show Host.Outcome.next ((s.tryPhase ⟨i, n⟩).dropReleased i) = _
  simp only [State.tryPhase, hphase, hbar, hheld, Bool.not_false, Bool.and_self, if_true, if_pos hn, dropReleased_eq hg' (hst'.symm ▸ hst)]

include hn hg hst hb in
theorem execBarrierPhaseComplete_open (hopen : b.n = 0 ∨ b.count < b.n) : exec (.barrierPhaseComplete i n) s = .next s := by
  have hbar : s.barrier ⟨i, n⟩ = b := (barrier_gang hg hn).trans hb.symm
  have hphase : s.phaseFull ⟨i, n⟩ = false := by
    simp only [State.phaseFull, hbar, Bool.and_eq_false_iff, bne_eq_false_iff_eq, decide_eq_false_iff_not]
    omega
  show Host.Outcome.next ((s.tryPhase ⟨i, n⟩).dropReleased i) = _
  rw [tryPhase_of_not_full hphase, dropReleased_eq hg hst]

end Event

/-- Settles O25: a full phase resolves its tokens (`foldl_resolve_toks`) or reads and writes its slots (`foldl_collxRead`,
`foldl_collxWrite`); a wait looks at the phase of its barrier (`phaseWaitsHold`). -/
theorem barrierCompletion : Obligations.BarrierCompletion := by
  refine ⟨fun s i n g b hn hg hst hj hb => ?_, phaseWaitsHold⟩
  have hbar : s.barrier ⟨i, n⟩ = b := (barrier_gang hg hn).trans hb.symm
  have hj1 : (s.updBarrier ⟨i, n⟩ fun x => x.next b.ts).NoJoins := hj.congr (updBarrier_ops s _ _).1
  have hsame1 := sameCoresAndBytes_updBarrier s ⟨i, n⟩ fun x => x.next b.ts
  refine ⟨fun hn0 hfull hcollx => ?_, fun ms hn0 hfull htoks hcollx hplaces hapart => ?_,
    fun hopen => ⟨s, execBarrierPhaseComplete_open hn hg hst hb hopen, rfl⟩⟩
  · obtain ⟨hsame, _, hbytes, _, hdone⟩ := foldl_resolve_toks hj1 b.toks b.ts
    have hcomplete := completePhase_toks (s := s) (r := ⟨i, n⟩) (hbar ▸ hcollx) b.ts
    rw [hbar] at hcomplete
    rw [← hcomplete] at hsame hbytes hdone
    have hheld : s.collxHeld b = false := by rw [State.collxHeld, hcollx]; rfl
    obtain ⟨_, _, _, hbar'⟩ := gang_of_completed hn hg hb b.ts hsame
    refine ⟨_, execBarrierPhaseComplete_full hn hg hst hb hn0 hfull hheld (hbar.symm ▸ hsame), ?_⟩
    beta_reduce
    rw [hbar']
    exact ⟨rfl, rfl, rfl, Cells.find?_put_self _ _ _, fun l => (hbytes l).trans (hsame1.2.2 l),
      fun y hy hk hgen => hdone y hy hk ((congrArg Core.gen (hsame1.core _)).trans hgen)⟩
  · have hplaces1 : ∀ m ∈ ms, (s.updBarrier ⟨i, n⟩ fun x => x.next b.ts).CollxPlaces m.1 m.2.1 m.2.2 := fun m hm =>
      (hplaces m hm).congr (sameScratchChecks_updBarrier s _ _)
    obtain ⟨a, t, hread, hsame, hbytes⟩ := foldl_collxRead b.ts hplaces1 b.ts Accum.zero
    obtain ⟨hsame', hwritten, hframe⟩ := foldl_collxWrite (ms.foldl (fun q m => q.merge (slotOf (s.natAt m.2.1 128))) Accum.zero) t
      (fun m hm => (hplaces1 m hm).congr hsame.checks) (hj1.congr hsame.ops) hapart
    simp only [natAt_congr (funext hsame1.2.2)] at hread
    have hread' : (s.barrier ⟨i, n⟩).collx.foldl (collxRead b.ts) (s.updBarrier ⟨i, n⟩ fun x => x.next b.ts, Accum.zero, b.ts) =
        (a, ms.foldl (fun q m => q.merge (slotOf (s.natAt m.2.1 128))) Accum.zero, t) := by rw [hbar, hcollx, hread]
    have hcomplete := completePhase_collx (s := s) (r := ⟨i, n⟩) (hbar ▸ htoks) b.ts hread'
    rw [hbar, hcollx] at hcomplete
    rw [← hcomplete] at hsame' hwritten hframe
    have hheld : s.collxHeld b = false := by
      rw [State.collxHeld, hcollx]
      refine List.any_eq_false.mpr fun c hc => ?_
      obtain ⟨m, hm, rfl⟩ := List.mem_map.mp hc
      obtain ⟨_, _, _, _, _, hsrc, hdst, hrd⟩ := hplaces m hm
      have hok : ∀ l, (Chk.ok l == Chk.stall) = false := fun l => beq_eq_false_iff_ne.mpr nofun
      cases hr : m.1.read
      · simp only [hsrc, hdst, hok, Bool.false_and, Bool.or_self, Bool.false_eq_true, not_false_eq_true]
      · simp only [hsrc, hdst, hrd hr, hok, Bool.and_false, Bool.or_self, Bool.false_eq_true, not_false_eq_true]
    have hall := hsame.trans hsame'
    obtain ⟨_, _, _, hbar'⟩ := gang_of_completed hn hg hb b.ts hall
    refine ⟨_, execBarrierPhaseComplete_full hn hg hst hb hn0 hfull hheld (hbar.symm ▸ hall), ?_⟩
    beta_reduce
    rw [hbar']
    refine ⟨rfl, rfl, rfl, fun m hm => ?_, fun p hp => (hframe p hp).trans ((hbytes p).trans (hsame1.2.2 p))⟩
    obtain ⟨hslot, hread', htok⟩ := hwritten m hm
    exact ⟨hslot, hread', fun hk hgen => htok hk ((hsame.cores _).2.2.trans ((congrArg Core.gen (hsame1.core _)).trans hgen))⟩

end Sys2Proof.Machine
end

section
/-! ### SIGS and SIGW (R205, R206) -/

namespace Sys2Proof.Machine

variable {s t u : State} {k : BitVec 6} {a b : BitVec 5} {p : Part} {n i : Nat} {v ts : Word}

/-! #### A signal is set -/

/-- A wait that a signal meets stands in the same context. -/
theorem meetSignal_spec (i : Nat) (v w : Word) (x : Ctx) : ∃ st, meetSignal i v w x = { x with stat := st } := by
  unfold meetSignal
  split
  · split <;> exact ⟨_, rfl⟩
  · split <;> exact ⟨_, rfl⟩
  · split <;> exact ⟨_, rfl⟩
  · exact ⟨_, rfl⟩

/-- The table of signals after a write; the write's timestamp is above every read of the signal (R205). -/
def State.signalTable (s : State) (n i : Nat) (v ts : Word) : State :=
  let w := wmax ts ((s.signal n i).rts + 1)
  s.updPart n fun x => { x with signals := Cells.set Signal.reset x.signals i ⟨v, w, w⟩ }

/-- A core after a write of a signal of its partition. -/
def State.metCore (s : State) (n i : Nat) (v ts : Word) (j : Nat) (c : Core) : Core :=
  if (s.signalTable n i v ts).partOf j == some n then { c with user := meetSignal i v (wmax ts ((s.signal n i).rts + 1)) c.user } else c

theorem metCore_spec (s : State) (n i : Nat) (v ts : Word) (j : Nat) (c : Core) :
    ∃ st, s.metCore n i v ts j c = { c with user := { c.user with stat := st } } := by
  obtain ⟨st, hst⟩ := meetSignal_spec i v (wmax ts ((s.signal n i).rts + 1)) c.user
  unfold State.metCore
  split
  · exact ⟨st, by rw [hst]⟩
  · exact ⟨c.user.stat, rfl⟩

/-- Of a core a signal changes only how its user context waits. -/
theorem core_setSignal (s : State) (n i : Nat) (v ts : Word) (m : Nat) :
    ∃ st, (s.setSignal n i v ts).1.core m = { s.core m with user := { (s.core m).user with stat := st } } := by
  have hcores : (s.setSignal n i v ts).1.cores = s.cores.map fun x => (x.1, s.metCore n i v ts x.1 x.2) := by
    show (State.cores (s.signalTable n i v ts)).map _ = _
    rw [State.signalTable, State.updPart_cores]
    rfl
  rw [State.core, State.core, Cells.get_eq_find?, Cells.get_eq_find?, hcores, Cells.find?_map_values (s.metCore n i v ts) s.cores m]
  cases Cells.find? s.cores m with
  | none => exact ⟨_, rfl⟩
  | some c => exact metCore_spec s n i v ts m c

theorem setSignal_parts (s : State) (n i : Nat) (v ts : Word) : (s.setSignal n i v ts).1.parts = (s.signalTable n i v ts).parts := rfl

theorem setSignal_turn (s : State) (n i : Nat) (v ts : Word) : (s.setSignal n i v ts).1.turn = s.turn :=
  State.updPart_turn s n _

theorem byteAt_setSignal (s : State) (n i : Nat) (v ts : Word) (l : Loc) : (s.setSignal n i v ts).1.byteAt l = s.byteAt l :=
  (State.byteAt_congr rfl rfl rfl rfl l).trans ((sameCoresAndBytes_updPart s n _).2.2 l)

theorem signal_of_part (hp : Cells.find? s.parts n = some p) (i : Nat) : s.signal n i = Cells.get Signal.reset p.signals i := by
  simp only [State.signal, hp]

/-- A signal after a change of its partition's table. -/
theorem signal_updPart (hp : Cells.find? s.parts n = some p) (i : Nat) (f : Part → Signal)
    (ht : t.parts = (s.updPart n fun x => { x with signals := Cells.set Signal.reset x.signals i (f x) }).parts) : t.signal n i = f p := by
  have hq : Cells.find? t.parts n = some { p with signals := Cells.set Signal.reset p.signals i (f p) } := by
    rw [ht, State.find?_updPart, if_pos rfl, hp]
    rfl
  rw [signal_of_part hq, Cells.get_set_self]

/-! #### SIGS -/

theorem pts_of_inUser (h : s.InUser) : s.pts = s.cur.pts := by rw [State.pts, h.1]; rfl

/-- With nothing outstanding SIGS sets the signal, and its timestamp becomes PTS. -/
theorem sigsOp_sets (hu : s.InUser) (hk : s.cur.tok k ≠ .pending) (hmem : s.memPending = false) (ha : (s.g a).toNat < 4096)
    (hpart : s.partOf s.agent = some n) (w : InstrWord) :
    sigsOp w k a b [] s = ((((s.setSignal n (s.g a).toNat (s.g b) s.pts).1.raisePts (wmax s.pts ((s.signal n (s.g a).toNat).rts + 1))).setTok k
      (.done (wmax s.pts ((s.signal n (s.g a).toNat).rts + 1)))).advance) := by
  rw [sigsOp, surrogateNow_of_inUser hu, if_neg Bool.false_ne_true, illegalIf_false w (decide_eq_false (by omega)),
    aOp_of_consume_ok rfl hk, hmem, if_neg Bool.false_ne_true, hpart]
  rfl

theorem sigs_completes (hu : s.InUser) (hp : s.Plain) (hk : s.cur.tok k ≠ .pending) (hmem : s.memPending = false) (ha : (s.g a).toNat < 4096)
    (hpart : s.partOf s.agent = some n) (hfind : Cells.find? s.parts n = some p) :
    Completes (.sigs k a b 0) s (fun t => s.SameG t ∧ s.SameP t ∧ t.StandsAt (s.pc + 4) ∧ (∀ l, t.byteAt l = s.byteAt l) ∧
      t.signal n (s.g a).toNat = ⟨s.g b, wmax s.pts ((s.signal n (s.g a).toNat).rts + 1), wmax s.pts ((s.signal n (s.g a).toNat).rts + 1)⟩ ∧
      t.cur.pts = wmax s.cur.pts ((s.signal n (s.g a).toNat).rts + 1) ∧
      s.TokenSet k (.done (wmax s.pts ((s.signal n (s.g a).toNat).rts + 1))) t) := by
  refine completes_aWord hp rfl rfl ?_
  rw [sigsOp_sets hu hk hmem ha hpart]
  generalize hw : wmax s.pts ((s.signal n (s.g a).toNat).rts + 1) = w
  have hturn := setSignal_turn s n (s.g a).toNat (s.g b) s.pts
  have hparts := setSignal_parts s n (s.g a).toNat (s.g b) s.pts
  have hbytes := byteAt_setSignal s n (s.g a).toNat (s.g b) s.pts
  obtain ⟨st, hcore⟩ := core_setSignal s n (s.g a).toNat (s.g b) s.pts s.agent
  rw [State.signalTable, hw] at hparts
  generalize (s.setSignal n (s.g a).toNat (s.g b) s.pts).1 = u at hturn hparts hbytes hcore ⊢
  have hagent : u.agent = s.agent := State.agent_congr hturn
  have hwho : u.who = .s := (by simp only [State.who, hturn] : u.who = s.who).trans hu.1
  have hcur : u.cur = { s.cur with user := { s.cur.user with stat := st } } := by rw [State.cur, hagent, hcore]; rfl
  have hctx : (u.raisePts w).ctx = { s.ctx with stat := st } := by
    rw [State.ctx_raisePts, State.ctx, State.ctx, hcur, State.inHusk, hwho, hu.inHusk]
    rfl
  have hraised : (u.raisePts w).cur = { u.cur with pts := wmax u.cur.pts w } := by rw [State.cur_raisePts, hwho]; rfl
  obtain ⟨_, hg, hpr, ⟨hpc, hst⟩, hb, htok, hframe⟩ := aFrame_setTok_advance (u.raisePts w) k (.done w)
  refine ⟨fun q => (hg q).trans ?_, fun q => (hpr q).trans ?_, ⟨hpc.trans ?_, hst⟩, fun l => (hb l).trans ?_, ?_, ?_, fun j => (htok j).trans ?_⟩
  · rw [State.g, hctx]; rfl
  · rw [State.p, hctx]; rfl
  · rw [State.pc, hctx]; rfl
  · exact (byteAt_updCore _ _ _ l).trans (hbytes l)
  · exact signal_updPart hfind _ (fun _ => ⟨s.g b, w, w⟩) hparts
  · have hpts : ∀ (c : Core) (h : Bool) (y : Ctx), (c.setCtx h y).pts = c.pts := fun c h y => by cases h <;> rfl
    rw [hframe]
    show (Core.setCtx _ _ _).pts = _
    rw [hpts, hraised, hcur, ← hw, pts_of_inUser hu]
    exact wmax_wmax_left _ _
  · rw [hraised, hcur]; rfl

/-! #### SIGW -/

/-- The wait is over: PTS and SYNC_FLOOR have risen to the write, and the read leaves its timestamp at the signal. -/
theorem waitOver_signalWaited (hu : s.InUser) (hj : s.NoJoins) (n i : Nat) (k : BitVec 6) (ts : Word) :
    s.WaitOver k ts (s.signalWaited n i k ts) := by
  refine waitOver_resolved hu (sameCoresAndBytes_updPart _ n _) ((hj.raised ts).congr ?_) k 0 s.aAddr s.pts
  rw [State.updPart_ops]

theorem signal_signalWaited (hu : s.InUser) (hj : s.NoJoins) (hp : Cells.find? s.parts n = some p) (i : Nat) (k : BitVec 6) (ts : Word) :
    (s.signalWaited n i k ts).signal n i = { s.signal n i with rts := wmax (s.signal n i).rts (s.signalWaited n i k ts).cur.pts } := by
  obtain ⟨_, _, _, _, _, _, hpts, _⟩ := waitOver_signalWaited hu hj n i k ts
  have honly := onlyCore_raisePts_setFloor s ts
  have hcur := cur_raisePts_setFloor hu ts
  have hraised : ((s.raisePts ts).setFloor).pts = wmax s.cur.pts ts := by rw [State.pts, honly.who, hu.1, hcur]; rfl
  have hparts : (s.signalWaited n i k ts).parts = ((s.raisePts ts).setFloor.updPart n fun x =>
      { x with signals := Cells.set Signal.reset x.signals i { Cells.get Signal.reset x.signals i with
        rts := wmax (Cells.get Signal.reset x.signals i).rts ((s.raisePts ts).setFloor).pts } }).parts := by
    have hj2 : State.NoJoins ((s.raisePts ts).setFloor.updPart n fun x =>
      { x with signals := Cells.set Signal.reset x.signals i { Cells.get Signal.reset x.signals i with
        rts := wmax (Cells.get Signal.reset x.signals i).rts ((s.raisePts ts).setFloor).pts } }) := (hj.raised ts).congr (State.updPart_ops _ _ _)
    rw [State.signalWaited, resolveFrom_done hj2, State.advance_parts, putTok_parts]
  have hp' : Cells.find? ((s.raisePts ts).setFloor).parts n = some p := by rw [honly.1]; exact hp
  rw [signal_updPart hp' i (fun x => { Cells.get Signal.reset x.signals i with
    rts := wmax (Cells.get Signal.reset x.signals i).rts ((s.raisePts ts).setFloor).pts }) hparts, hpts, hraised, signal_of_part hp]

section Sigw

variable (hu : s.InUser) (hp : s.Plain) (hj : s.NoJoins) (ha : (s.g a).toNat < 4096) (hpart : s.partOf s.agent = some n)

include ha hpart in
/-- SIGW the first time: over at once at or above the threshold, else it waits. -/
theorem sigwOp_looks (hw : ∀ i th m, s.ctx.stat ≠ .waiting (.signal i th m)) (hk : s.cur.tok k ≠ .pending) (w : InstrWord) :
    sigwOp w k a b [] s =
      if (s.g b).toNat ≤ (s.signal n (s.g a).toNat).val.toNat then
        (s.setTok k .pending).signalWaited n (s.g a).toNat k (s.signal n (s.g a).toNat).wts
      else (s.setTok k .pending).await (.signal (s.g a) (s.g b) none) := by
  have hg : ∀ r, (s.setTok k .pending).g r = s.g r := fun r => by rw [State.g, State.ctx_setTok]; rfl
  have hsig : ∀ i, (s.setTok k .pending).signal n i = s.signal n i := fun i => by simp only [State.signal, State.setTok_parts]
  unfold sigwOp
  split
  next heq => exact absurd heq (hw _ _ _)
  next heq => exact absurd heq (hw _ _ _)
  next =>
    rw [illegalIf_false w (decide_eq_false (by omega)), aOp_of_consume_ok rfl hk, hpart]
    simp only [Option.getD_some, hg, hsig]

include hpart in
theorem sigwOp_met {i th : Word} {ts : Word} (hw : s.ctx.stat = .waiting (.signal i th (some ts))) (w : InstrWord) :
    sigwOp w k a b [] s = s.signalWaited n (s.g a).toNat k ts := by
  simp only [sigwOp, hw, hpart, Option.getD_some]

end Sigw

theorem signalWordsHold : SignalWordsHold := by
  intro s k a b n p v hu hp hj ha hpart hfind hv
  have hsig : s.signal n (s.g a).toNat = v := (signal_of_part hfind _).trans hv.symm
  refine ⟨fun hk hmem => ?_, fun hw hk => ⟨fun hle => ?_, fun hlt => ?_⟩, fun i th w hw => ?_⟩
  · rw [← hsig]
    exact sigs_completes hu hp hk hmem ha hpart hfind
  · refine completes_aWord hp rfl rfl ?_
    rw [sigwOp_looks ha hpart hw hk, hsig, if_pos hle]
    have hu' := inUser_setTok hu k .pending
    have hj' : (s.setTok k .pending).NoJoins := hj.congr (State.setTok_ops _ _ _)
    refine ⟨waitOver_of_setTok (waitOver_signalWaited hu' hj' _ _ _ _), ?_⟩
    rw [signal_signalWaited hu' hj' (by rw [State.setTok_parts]; exact hfind), ← hsig]
    simp only [State.signal, State.setTok_parts]
  · refine completes_aWord hp rfl rfl ?_
    rw [sigwOp_looks ha hpart hw hk, hsig, if_neg (by omega)]
    obtain ⟨⟨_, hsg, _, _, htok⟩, hpc, hst⟩ := pended_await (sameCoresAndBytes_refl (s.setTok k .pending)) (.signal (s.g a) (s.g b) none)
    exact ⟨hsg, hpc, hst, htok⟩
  · refine completes_aWord hp rfl rfl ?_
    rw [sigwOp_met hpart hw]
    exact waitOver_signalWaited hu hj _ _ _ _

end Sys2Proof.Machine
end

section
/-! ### Reads through caches that hold the bytes of memory (R269, R283) -/

namespace Sys2Proof.Machine

variable {s t u : State} {w : Who} {l p : Loc} {va : Word} {i j k n : Nat} {ps : List (Loc × Nat × Nat)}

/-! #### Where a part stands in its line -/

/-- Translation keeps the offset in a line. -/
theorem translate_off {user : Bool} {acc : Acc} (h : s.translate n user acc va = .ok l) : l.off = va.toNat % 128 := by
  have hoff : ∀ x level : Nat, (x * 4096 + va.toNat % 2 ^ (12 + 9 * level)) % 128 = va.toNat % 128 := fun x level => by
    have hpow : 2 ^ (12 + 9 * level) = 128 * 2 ^ (5 + 9 * level) := by
      rw [show 12 + 9 * level = 7 + (5 + 9 * level) by omega, pow_add]
      rfl
    have hmod : va.toNat % 2 ^ (12 + 9 * level) % 128 = va.toNat % 128 := Nat.mod_mod_of_dvd _ ⟨_, hpow⟩
    omega
  unfold State.translate State.translateIn at h
  split at h
  · cases h
  · split at h
    · cases h
    · simp only at h
      split at h
      · cases h
      · split at h
        · cases h
        · generalize (Bool.and _ _) = granted at h
          cases granted
          · cases h
          · rw [if_pos rfl] at h
            split at h <;> cases h <;> exact hoff _ _

/-- A checked place of package memory stands at its address's offset in its line. -/
theorem check_off {acc : Acc} {a : Nat} (h : s.check w acc va = .ok (.pkg a)) : a % 128 = va.toNat % 128 := by
  unfold State.check at h
  split at h
  · split at h
    · cases h
    next l' hl =>
      have hne : ∀ b, l' ≠ .pkg b := fun b hb => by
        unfold State.scratchLoc at hl
        split at hl
        · cases hl; cases hb
        · cases hl
      split at h
      · cases h
      · split at h
        · cases h
        · split at h
          · exact absurd (Chk.ok.inj h) (hne a)
          · split at h
            · cases h
            · exact absurd (Chk.ok.inj h) (hne a)
  · split at h
    · cases h
    next l' hl =>
      have hoff := translate_off hl
      have heq : l' = .pkg a → a % 128 = va.toNat % 128 := fun he => by rw [he] at hoff; exact hoff
      split at h
      · cases h
      · split at h
        · cases h
        · split at h
          · exact heq (Chk.ok.inj h)
          · split at h
            · cases h
            · exact heq (Chk.ok.inj h)

/-- The part lies in one line, where it is in package memory. -/
def InLine (x : Loc × Nat × Nat) : Prop := ∀ a, x.1 = .pkg a → a % 128 + x.2.2 ≤ 128

theorem inLine_of_check {acc : Acc} {a n : Nat} (h : s.check w acc (BitVec.ofNat 64 a) = .ok l) (hn : a % 32 + n ≤ 32) : InLine (l, a, n) := by
  intro b hb
  have hb : l = .pkg b := hb
  subst hb
  have hoff := check_off h
  rw [BitVec.toNat_ofNat, Nat.mod_mod_of_dvd _ (by decide : 128 ∣ 2 ^ 64)] at hoff
  show b % 128 + n ≤ 128
  omega

/-! #### The bytes of a copy -/

/-- Some bytes of a number read from memory. -/
theorem natAt_div_mod (s : State) (l : Loc) {off n m : Nat} (h : off + n ≤ m) : s.natAt l m / 256 ^ off % 256 ^ n = s.natAt (l.plus off) n := by
  obtain ⟨r, rfl⟩ := Nat.exists_eq_add_of_le h
  rw [Nat.add_assoc, natAt_add, Nat.add_mul_div_left _ _ (Nat.pow_pos (by decide)), Nat.div_eq_of_lt (natAt_lt s l off), Nat.zero_add, natAt_add,
    Nat.add_mul_mod_self_left, Nat.mod_eq_of_lt (natAt_lt _ _ _)]

theorem lineData_bytes (s : State) {a b n : Nat} (hline : a / 128 = b / 128) (hn : b % 128 + n ≤ 128) {c : Copy} (hc : c.data = s.lineData (.pkg a)) :
    c.bytes (Loc.off (.pkg b)) n = s.natAt (.pkg b) n := by
  have hlt : s.natAt (.pkg (a / 128 * 128)) 128 < 2 ^ 1024 := by
    have hpow := pow_mul 2 8 128
    rw [show 8 * 128 = 1024 from rfl, show 2 ^ 8 = 256 from rfl] at hpow
    rw [hpow]
    exact natAt_lt s _ 128
  have hplace : Loc.plus (.pkg (a / 128 * 128)) (b % 128) = .pkg b := by
    show Loc.pkg (a / 128 * 128 + b % 128) = .pkg b
    rw [hline, Nat.div_add_mod']
  have hdata : c.data.toNat = s.natAt (.pkg (a / 128 * 128)) 128 := by
    rw [hc, State.lineData]
    exact toNat_ofNat_of_lt hlt
  rw [Copy.bytes, hdata, Loc.off, natAt_div_mod s _ hn, hplace]

/-! #### The holders of an agent -/

/-- The caches that serve an agent: its L1 and the cache of its pod. -/
def Serves (n k : Nat) : Prop := k = 256 + podOf n ∨ (k = n ∧ n < 256)

theorem serves_holders {h : Holder} (hh : h ∈ s.holders n i) : Serves n h.id := by
  rcases List.mem_append.mp hh with hh | hh
  · split at hh
    next hn => exact .inr ⟨by rw [List.mem_singleton.mp hh], hn⟩
    next => cases hh
  · split at hh
    · cases hh
    · exact .inl (by rw [List.mem_singleton.mp hh])

/-- The caches that serve an agent keep a line under keys of their own. -/
theorem copyKey_serves (hj : Serves n j) (hk : Serves n k) {a b : Nat} (h : copyKey a j = copyKey b k) : a = b := by
  have hpod : n < 256 → podOf n < 32 := fun hn => by rw [podOf, if_pos hn]; omega
  unfold copyKey at h
  rcases hj with rfl | ⟨rfl, hn⟩ <;> rcases hk with rfl | ⟨rfl, hn'⟩
  · omega
  · have := hpod hn'; omega
  · have := hpod hn; omega
  · omega

/-- The copies that serve an agent hold, of these parts, the bytes of a state. -/
def State.CopiesAgree (s : State) (n : Nat) (ps : List (Loc × Nat × Nat)) (t : State) : Prop :=
  ∀ y ∈ ps, ∀ k, Serves n k → ∀ c, t.copyOf y.1 k = some c → c.bytes y.1.off y.2.2 = s.natAt y.1 y.2.2

theorem copiesAgree_of_none (h : ∀ y ∈ ps, ∀ k, t.copyOf y.1 k = none) (n : Nat) : s.CopiesAgree n ps t := fun y hy k _ c hc => by
  rw [h y hy k] at hc
  cases hc

theorem State.CopiesAgree.congr (h : s.CopiesAgree n ps t) (hc : u.copies = t.copies) : s.CopiesAgree n ps u := fun y hy k hk c hcopy =>
  h y hy k hk c (by
    have : u.copyOf y.1 k = t.copyOf y.1 k := by cases y.1 <;> simp only [State.copyOf, hc]
    rwa [this] at hcopy)

/-- Where a copy has been put, a line's copy is the one before or the new one. -/
theorem copyOf_putCopy {h : Holder} {d : BitVec 1024} {wts lease : Word} {c : Copy} (hc : (s.putCopy l h d wts lease).copyOf p k = some c) :
    s.copyOf p k = some c ∨ ∃ a b, l = .pkg a ∧ p = .pkg b ∧ copyKey (a / 128) h.id = copyKey (b / 128) k ∧ c.data = d := by
  have hput : ∀ (m : Cells Copy) (key : Nat) (x : Copy) (j : Nat), x.data = d → Cells.find? (Cells.put m key x) j = some c →
      Cells.find? m j = some c ∨ (key = j ∧ c.data = d) := fun m key x j hx hf => by
    rw [Cells.find?_put] at hf
    split at hf
    next hkey => exact .inr ⟨hkey, by rw [← Option.some.inj hf]; exact hx⟩
    next => exact .inl hf
  have hdel : ∀ (m : Cells Copy) (key j : Nat), Cells.find? (Cells.del m key) j = some c → Cells.find? m j = some c := fun m key j hf => by
    by_cases hkey : key = j
    · subst hkey; rw [Cells.find?_del_self] at hf; cases hf
    · rwa [Cells.find?_del_ne _ hkey] at hf
  have hreplace : ∀ (r : List (Nat × Copy)) (j : Nat), Cells.find? (s.replaceCopy r).1.copies j = some c → Cells.find? s.copies j = some c :=
    fun r j hf => by
      unfold State.replaceCopy at hf
      split at hf
      · exact hdel _ _ _ hf
      · exact hf
  have hroom : ∀ j, Cells.find? (s.copyRoom h).1.copies j = some c → Cells.find? s.copies j = some c := fun j hf => by
    unfold State.copyRoom at hf
    simp only at hf
    split at hf
    · split at hf
      · exact hf
      · exact hreplace _ _ hf
    · split at hf
      · exact hf
      · exact hreplace _ _ hf
  cases l with
  | pkg a =>
    cases p with
    | pkg b =>
      simp only [State.putCopy] at hc
      split at hc
      · rcases hput _ _ _ _ rfl hc with hold | ⟨hkey, hdata⟩
        · exact .inl hold
        · exact .inr ⟨a, b, rfl, rfl, hkey, hdata⟩
      · rcases hput _ _ _ _ rfl hc with hold | ⟨hkey, hdata⟩
        · exact .inl (hroom _ hold)
        · exact .inr ⟨a, b, rfl, rfl, hkey, hdata⟩
    | _ => cases hc
  | _ => exact .inl hc

/-- New copies of a line with its bytes keep the copies in agreement with memory. -/
theorem copiesAgree_putCopies {hs : List Holder} (hserve : ∀ h ∈ hs, Serves n h.id) (hline : ∀ y ∈ ps, InLine y)
    (hbytes : ∀ y ∈ ps, t.natAt y.1 y.2.2 = s.natAt y.1 y.2.2) (wts lease : Word) (h : s.CopiesAgree n ps u) :
    s.CopiesAgree n ps (hs.foldl (fun a h => a.putCopy l h (t.lineData l) wts lease) u) := by
  induction hs generalizing u with
  | nil => exact h
  | cons x r ih =>
    refine ih (fun h hh => hserve h (List.mem_cons_of_mem _ hh)) fun y hy k hk c hc => ?_
    rcases copyOf_putCopy hc with hold | ⟨a, b, rfl, hp, hkey, hdata⟩
    · exact h y hy k hk c hold
    · have hsame := copyKey_serves (hserve x List.mem_cons_self) hk hkey
      have hy1 := hbytes y hy
      have hy2 := hline y hy b hp
      rw [hp] at hy1 ⊢
      rw [lineData_bytes t hsame hy2 hdata, hy1]

theorem mem_of_hit_eq_some {hs : List Holder} {ts : Word} {c : Copy} (h : s.hit l ts hs = some c) : ∃ x ∈ hs, s.copyOf l x.id = some c := by
  induction hs with
  | nil => cases h
  | cons x r ih =>
    unfold State.hit at h
    split at h
    next c' hc =>
      split at h
      · cases h; exact ⟨x, List.mem_cons_self, hc⟩
      · obtain ⟨y, hy, hc⟩ := ih h; exact ⟨y, List.mem_cons_of_mem _ hy, hc⟩
    next =>
      obtain ⟨y, hy, hc⟩ := ih h; exact ⟨y, List.mem_cons_of_mem _ hy, hc⟩

/-- A read of one of the parts gets the bytes of memory, and the copies stay in agreement with it. -/
theorem readAt_of_copiesAgree {hs : List Holder} (hserve : ∀ h ∈ hs, Serves n h.id) (hline : ∀ y ∈ ps, InLine y)
    (hbytes : ∀ y ∈ ps, t.natAt y.1 y.2.2 = s.natAt y.1 y.2.2) (h : s.CopiesAgree n ps t) {m : Nat} (hx : (l, i, m) ∈ ps) (lam ts : Word) :
    (t.readAt hs lam ts l m).2.1 = s.natAt l m ∧ s.CopiesAgree n ps (t.readAt hs lam ts l m).1 := by
  unfold State.readAt
  cases hhit : t.hit l ts hs with
  | some c =>
    obtain ⟨x, hmem, hc⟩ := mem_of_hit_eq_some hhit
    exact ⟨h _ hx _ (hserve x hmem) c hc, h⟩
  | none =>
    refine ⟨hbytes _ hx, copiesAgree_putCopies hserve hline hbytes _ _ (h.congr ?_)⟩
    obtain ⟨_, _, hset⟩ := setTs_shape t l ⟨(t.tsAt l).wts, wmax (t.tsAt l).rts (wmax ((t.tsAt l).wts + lam) (ts + lam))⟩
    rw [hset]

theorem serves_readHolders (b : Bool) : ∀ h ∈ (if b then [] else s.holders n i), Serves n h.id := fun h hh => by
  cases b
  · exact serves_holders hh
  · cases hh

end Sys2Proof.Machine
end

section
/-! ### RCALL, RQRY, LNCH and GLNCH (R230, R303, R318, R323, R408) -/

namespace Sys2Proof.Machine

variable {s t u v : State} {k : BitVec 6} {a b c : BitVec 5} {l : Loc} {va n : Nat} {ps qs : List (Loc × Nat × Nat)} {w : Who}

/-! #### A record is read -/

theorem Core.LoadedBy.tok {q : Seq} {c d : Core} (h : c.LoadedBy q d) (j : BitVec 6) : d.tok j = c.tok j := by
  obtain ⟨p, l, k, x, rfl⟩ := h
  cases q <;> rfl

/-- In the course of a load that began in `s`, a part whose copies hold the bytes of memory. -/
theorem loadPart_of_copiesAgree (h : s.Loading t) (hsur : s.cur.surrogate = false) (sync : Bool) (hn : ∀ y ∈ ps, s.NoRecord y.1 y.2.2)
    (hline : ∀ y ∈ ps, InLine y) (hcopies : s.CopiesAgree s.agent ps t) (hx : (l, va, n) ∈ ps) :
    (t.loadPart (s.whoS sync) false (l, va, n)).2 = s.natAt l n ∧
      s.CopiesAgree s.agent ps (t.loadPart (s.whoS sync) false (l, va, n)).1 := by
  have hbuf : (s.whoS sync).buf = false := by rw [State.whoS, buf_whoAt, show (s.core s.agent).surrogate = false from hsur]; rfl
  have hbytes : ∀ y ∈ ps, t.natAt y.1 y.2.2 = s.natAt y.1 y.2.2 := fun y hy => natAt_of_sameBytes h.bytes (hn y hy)
  have hserve : ∀ y ∈ (if t.homeOnly (s.whoS sync) false va then [] else t.holders t.agent va), Serves s.agent y.id :=
    fun y hy => h.agent ▸ serves_readHolders _ y hy
  obtain ⟨hval, hagree⟩ := readAt_of_copiesAgree hserve hline hbytes hcopies hx (t.leaseOf t.agent) t.pts
  simp only [State.loadPart, State.forward, hbuf, Bool.false_eq_true, if_false]
  exact ⟨hval, hagree.congr rfl⟩

/-- The parts of a load whose copies hold the bytes of memory. -/
theorem loadParts_of_copiesAgree (h : s.Loading t) (hsur : s.cur.surrogate = false) (sync : Bool) (hn : ∀ y ∈ ps, s.NoRecord y.1 y.2.2)
    (hline : ∀ y ∈ ps, InLine y) (hcopies : s.CopiesAgree s.agent ps t) (hsub : ∀ y ∈ qs, y ∈ ps) :
    (t.loadParts (s.whoS sync) false qs).2 = s.valueOf qs := by
  induction qs generalizing t with
  | nil => rfl
  | cons x r ih =>
    obtain ⟨l, va, n⟩ := x
    obtain ⟨hval, hagree⟩ := loadPart_of_copiesAgree h hsur sync hn hline hcopies (hsub _ List.mem_cons_self)
    have hrest := ih (h.trans (loading_loadPart t (s.whoS sync) false (l, va, n))) hagree fun y hy => hsub y (List.mem_cons_of_mem _ hy)
    have hnow : s.surrogateNow = false := by rw [State.surrogateNow, hsur, Bool.false_and]
    rw [State.valueOf, hnow, if_neg Bool.false_ne_true]
    simp only [State.loadParts, hval, hrest]

/-- A record that S reads, with no guard buffer and no checked window: what it changes, and its value. -/
theorem reads_record (hr : s.cur.raceMode = 0) (hsur : s.cur.surrogate = false) (ps : List (Loc × Nat × Nat)) :
    ∃ u x, ((s.logRaces (s.whoS false) false ps).touchAll (s.whoS false) 0 false ps).loadParts (s.whoS false) false ps = (u, x) ∧ s.Loading u ∧
      ((∀ y ∈ ps, InLine y) → (∀ y ∈ ps, s.NoRecord y.1 y.2.2 ∧ ∀ k, s.copyOf y.1 k = none) → x = s.valueOf ps) := by
  have hp := prepared_touchAll (core_whoS s false) hr 0 false ps
  rw [logRaces_eq_self (Core.raceMode_at hr false)]
  generalize s.touchAll (s.whoS false) 0 false ps = t at hp
  refine ⟨_, _, rfl, hp.loading.trans (loading_loadParts _ _ _ ps), fun hline hclean => ?_⟩
  exact loadParts_of_copiesAgree hp.loading hsur false (fun y hy => (hclean y hy).1) hline
    (copiesAgree_of_none (fun y hy k => (hp.copyOf y.1 k).trans ((hclean y hy).2 k)) _) fun _ hy => hy

theorem inLine_of_checkAll {acc : Acc} {cut : List (Nat × Nat)} (h : s.checkAll w acc cut = .ok ps) (hcut : ∀ x ∈ cut, x.1 % 32 + x.2 ≤ 32) :
    ∀ y ∈ ps, InLine y := by
  induction cut generalizing ps with
  | nil => cases h; exact fun _ hy => absurd hy List.not_mem_nil
  | cons x r ih =>
    unfold State.checkAll at h
    split at h
    · cases h
    · cases h
    next l hl =>
      split at h
      next ls hls =>
        cases h
        intro y hy
        rcases List.mem_cons.mp hy with rfl | hy
        · exact inLine_of_check hl (hcut x List.mem_cons_self)
        · exact ih hls (fun x hx => hcut x (List.mem_cons_of_mem _ hx)) y hy
      · cases h

/-! #### What is handed over -/

/-- A state in which the record has been read, and whose context and tokens have not changed since, hands over. -/
theorem handsOver_of_loading (h : s.Loading u) (hturn : v.turn = u.turn) (hcores : ∀ n, n ≠ u.agent → v.core n = u.core n) (hctx : v.ctx = u.ctx)
    (htok : ∀ j, v.cur.tok j = u.cur.tok j) (hbytes : ∀ l, v.byteAt l = u.byteAt l) (hf : v.AFrame k .pending t) : s.HandsOver k t := by
  obtain ⟨hc, hg, hp, ⟨hpc, hst⟩, hb, hk, _⟩ := hf
  have hctx' : v.ctx = s.ctx := hctx.trans h.ctx
  have hagent : v.agent = u.agent := State.agent_congr hturn
  refine ⟨fun n hn => ?_, fun q => (hg q).trans ?_, fun q => (hp q).trans ?_, ⟨hpc.trans ?_, hst⟩, fun l hl => ?_, fun j => (hk j).trans ?_⟩
  · rw [hc n (by rw [hagent, h.agent]; exact hn), hcores n (by rw [h.agent]; exact hn), h.cores n hn]
  · rw [State.g, hctx']; rfl
  · rw [State.p, hctx']; rfl
  · rw [State.pc, hctx']; rfl
  · rw [hb, hbytes, h.bytes l hl]
  · rw [htok, h.cur.tok]

theorem State.Loading.tokRef (h : s.Loading u) (k : BitVec 6) : u.tokRef k = s.tokRef k := by
  obtain ⟨p, l, y, x, hcur⟩ := h.cur
  rw [State.tokRef, State.tokRef, h.agent, hcur]
  cases s.who <;> rfl

theorem State.Loading.binding (h : s.Loading u) : u.cur.binding = s.cur.binding := by
  obtain ⟨p, l, y, x, hcur⟩ := h.cur
  rw [hcur]
  cases s.who <;> rfl

theorem State.Loading.nextId (h : s.Loading u) : u.nextId = s.nextId := by rw [h.tables]

/-- A call starts from the state in which its record has been read. -/
theorem handsOver_startOp (h : s.Loading u) (kind : OpKind) (k : BitVec 6) : s.HandsOver k (u.startOp kind k) ∧
    ∃ o, Cells.find? (u.startOp kind k).ops s.nextId = some o ∧ o.kind = kind ∧ o.tok = s.tokRef k := by
  obtain ⟨hframe, _, _, o, ho, hkind, htok, _⟩ := starts_startOp u kind k
  exact ⟨handsOver_of_loading h rfl (fun _ _ => rfl) rfl (fun _ => rfl) (fun _ => rfl) hframe, o, h.nextId ▸ ho, hkind,
    htok.trans (h.tokRef k)⟩

/-! #### RCALL and RQRY -/

/-- The words of a value are those of its bytes. -/
theorem ofNat_fieldAt (x i : Nat) : BitVec.ofNat 64 (fieldAt x (8 * i) 8) = BitVec.ofNat 64 (x / 256 ^ (8 * i)) := by
  apply BitVec.eq_of_toNat_eq
  rw [BitVec.toNat_ofNat, BitVec.toNat_ofNat, fieldAt]
  exact Nat.mod_mod _ _

section Quiet

variable (h : s.AReady k) (hr : s.cur.raceMode = 0) (hsur : s.cur.surrogate = false) (hmem : s.memPending = false) (hquiet : s.SysQuiet)

include hmem hquiet in
theorem not_pending_of_quiet : (s.memPending || s.sysPending || !s.cur.comb.isEmpty) = false := by
  rw [hmem, hquiet.1, hquiet.2]; rfl

include h hr hsur hmem hquiet in
/-- A call of legal operands whose record can be read. -/
theorem callOp_starts (w : InstrWord) (query : Bool) (ha : (s.g a).toNat % 128 = 0) (hb : (s.g b).toNat % 64 = 0) (hc : (s.g c).toNat ≤ 31)
    (hcheck : s.checkAll (s.whoS false) .read [((s.g b).toNat, 32), ((s.g b).toNat + 32, 16)] = .ok ps) :
    s.HandsOver k (callOp w query k a b c [] s) ∧ ∃ o vals, Cells.find? (callOp w query k a b c [] s).ops s.nextId = some o ∧
      o.kind = .call (s.g a) (s.g c) (s.g b) query vals ∧ s.ArgumentWords ps vals ∧ o.tok = s.tokRef k := by
  have hbad : ((s.g a).toNat % 128 != 0 || (s.g b).toNat % 64 != 0 || decide ((s.g c).toNat > 31)) = false := by
    rw [ha, hb, decide_eq_false (by omega)]; rfl
  obtain ⟨u, x, hread, hload, hvalue⟩ := reads_record hr hsur ps
  have heq : callOp w query k a b c [] s =
      u.startOp (.call (s.g a) (s.g c) (s.g b) query ((List.range 6).map fun i => BitVec.ofNat 64 (fieldAt x (8 * i) 8))) k := by
    rw [callOp, h.2.1, if_neg Bool.false_ne_true, aOp_runs h w hbad, not_pending_of_quiet hmem hquiet, if_neg Bool.false_ne_true]
    simp only [hcheck, trapRace_eq_none (Core.raceMode_at hr false), hread]
  rw [heq]
  obtain ⟨hands, o, ho, hkind, htok⟩ := handsOver_startOp hload
    (.call (s.g a) (s.g c) (s.g b) query ((List.range 6).map fun i => BitVec.ofNat 64 (fieldAt x (8 * i) 8))) k
  refine ⟨hands, o, _, ho, hkind, ⟨rfl, fun hclean => ?_⟩, htok⟩
  rw [hvalue (inLine_of_checkAll hcheck (by simp only [List.forall_mem_cons]; exact ⟨by omega, by omega, fun _ hy => absurd hy List.not_mem_nil⟩))
    hclean]
  simp only [ofNat_fieldAt]

/-! #### LNCH and GLNCH -/

variable {x : Binding} {ln : Launch}

/-- The submission that a launch word appends. -/
theorem handOver_appends (hload : s.Loading u) (hbind : s.cur.binding = some x) (hfind : Cells.find? s.launches x.launch = some ln)
    (hroom : ∀ q, s.unstartedIn ln.part q < 256) (kinds : List Nat) (record : Word) (bytes : Nat) :
    s.HandsOver k (u.handOver k kinds record bytes) ∧ ∃ y, (u.handOver k kinds record bytes).subs = s.subs ++ [y] ∧ y.part = ln.part ∧
      y.tok = s.tokRef k ∧ y.kinds = kinds ∧ y.ts = (u.handOver k kinds record bytes).pts ∧ y.parent = if k = 63 then none else some x.launch := by
  have hlaunch : u.cur.binding.bind (fun b => (Cells.find? u.launches b.launch).map fun l => (b, l)) = some (x, ln) := by
    rw [hload.binding, hbind, hload.tables]
    show (Cells.find? s.launches x.launch).map _ = _
    rw [hfind]
    rfl
  have hunstarted : ∀ q, u.unstartedIn ln.part q < 256 := fun q => by
    have hq : u.unstartedIn ln.part q = s.unstartedIn ln.part q := by rw [hload.tables]; rfl
    rw [hq]
    exact hroom q
  have hsubs : u.subs = s.subs := by rw [hload.tables]
  simp only [State.handOver, hlaunch, if_neg (Nat.not_le.mpr (hunstarted _))]
  generalize hy : Submission.mk _ _ _ _ _ _ _ _ _ _ _ _ _ = y
  let c : Core → Core := fun c => { c with lnches := c.lnches + 1 }
  let z : State := State.onCore { u with subs := u.subs ++ [y] } c
  have hcur : z.cur = { u.cur with lnches := u.cur.lnches + 1 } := State.cur_onCore { u with subs := u.subs ++ [y] } c
  have hctx : z.ctx = u.ctx := by
    rw [State.ctx, hcur]
    show Core.ctx _ u.inHusk = _
    rw [State.ctx]
    cases u.inHusk <;> rfl
  have hpts : (z.setTok k .pending).advance.pts = u.pts := by
    rw [State.pts, State.who_advance, State.cur_advance, State.who_setTok, State.cur_setTok, Core.setTok_eq, hcur]
    show Core.ptsOf _ u.who = _
    rw [State.pts]
    cases u.who <;> cases (z.setTok k .pending).inHusk <;> rfl
  refine ⟨handsOver_of_loading (v := z) hload rfl (fun n hn => State.core_onCore_ne { u with subs := u.subs ++ [y] } hn c) hctx (fun j => by rw [hcur]; rfl)
    (fun l => (byteAt_updCore _ _ _ l).trans (State.byteAt_congr rfl rfl rfl rfl l)) (aFrame_setTok_advance z k .pending), y, ?_, ?_⟩
  · show u.subs ++ [y] = _
    rw [hsubs]
  · subst hy
    exact ⟨rfl, hload.tokRef k, rfl, hpts.symm, rfl⟩

include h hr hsur hmem hquiet in
/-- A launch word on an aligned record whose parts can be read. -/
theorem launchOp_hands (w : InstrWord) (kinds : List Nat) (ha : (s.g a).toNat % 128 = 0) (hbind : s.cur.binding = some x)
    (hfind : Cells.find? s.launches x.launch = some ln) (hroom : ∀ q, s.unstartedIn ln.part q < 256)
    (hw : ∀ r q v, s.ctx.stat ≠ .waiting (.launchQueue r q v))
    (hcheck : s.checkAll (s.whoS false) .read ((List.range 4).map fun i => ((s.g a).toNat + 32 * i, 32)) = .ok ps) :
    s.HandsOver k (launchOp w k a kinds [] s) ∧ ∃ y, (launchOp w k a kinds [] s).subs = s.subs ++ [y] ∧ y.part = ln.part ∧
      y.tok = s.tokRef k ∧ y.kinds = kinds ∧ y.ts = (launchOp w k a kinds [] s).pts ∧ y.parent = if k = 63 then none else some x.launch := by
  obtain ⟨u, bytes, hread, hload, _⟩ := reads_record hr hsur ps
  have hlegal : (illegalIf w ((s.g a).toNat % 128 != 0)).map (fun f => { f with addr := s.g a }) = none := by rw [ha]; rfl
  have heq : launchOp w k a kinds [] s = u.handOver k kinds (s.g a) bytes := by
    rw [launchOp, h.2.1, if_neg Bool.false_ne_true]
    split
    next heq => exact absurd heq (hw _ _ _)
    next =>
      simp only [hlegal]
      rw [aOp_of_consume_ok rfl h.2.2]
      simp only [not_pending_of_quiet hmem hquiet, Bool.false_eq_true, if_false, hcheck, trapRace_eq_none (Core.raceMode_at hr false), hread]
  rw [heq]
  exact handOver_appends hload hbind hfind hroom kinds (s.g a) bytes

end Quiet

theorem callsAndLaunchesHold : CallsAndLaunchesHold := by
  intro s k a b c h hr hsur hmem hquiet
  refine ⟨fun ps ha hb hc hcheck => ⟨?_, ?_⟩, fun x l ps ha hbind hfind hroom hw hcheck => ⟨?_, ?_⟩⟩
  · exact completes_aWord h.1 rfl rfl (callOp_starts h hr hsur hmem hquiet _ false ha hb hc hcheck)
  · exact completes_aWord h.1 rfl rfl (callOp_starts h hr hsur hmem hquiet _ true ha hb hc hcheck)
  · exact completes_aWord h.1 rfl rfl (launchOp_hands h hr hsur hmem hquiet _ [0, 2] ha hbind hfind hroom hw hcheck)
  · exact completes_aWord h.1 rfl rfl (launchOp_hands h hr hsur hmem hquiet _ [1] ha hbind hfind hroom hw hcheck)

/-- Settles O26: SIGS and SIGW act on the signal of their partition (`sigsOp_sets`, `waitOver_signalWaited`); the other words read their
record (`reads_record`) and start a call (`callOp_starts`) or append a submission (`launchOp_hands`). -/
theorem signalsCallsAndLaunches : Obligations.SignalsCallsAndLaunches := ⟨signalWordsHold, callsAndLaunchesHold⟩

end Sys2Proof.Machine
end

section
/-! ### What the accesses of an operation leave (R187, R190, R278) -/

namespace Sys2Proof.Machine

variable {s t u : State} {w : Who} {o : AOp} {i j k m n va : Nat} {l p q : Loc} {ps qs : List (Loc × Nat × Nat)} {bs : List Byte}

/-! #### Accesses of an operation -/

/-- What the accesses of an operation leave, but for bytes: of the cores no more than the TLBs have changed, and no line has taken shadow
records with it. -/
structure State.OpAccess (s t : State) : Prop where
  tables : s.AccessTables t
  cores : ∀ n, ∃ x, t.core n = { s.core n with tlb := x }
  records : ∀ l, t.InRecords l → s.InRecords l

/-- Accesses that have written no byte but those of shadow records that have left the shared cache. -/
structure State.OpRead (s t : State) : Prop extends s.OpAccess t where
  bytes : s.SameBytes t

theorem State.OpAccess.refl (s : State) : s.OpAccess s := ⟨rfl, fun n => ⟨(s.core n).tlb, rfl⟩, fun _ => id⟩

theorem State.OpAccess.trans (h : s.OpAccess t) (h' : t.OpAccess u) : s.OpAccess u where
  tables := h.tables.trans h'.tables
  cores n := by
    obtain ⟨x, hx⟩ := h.cores n
    obtain ⟨y, hy⟩ := h'.cores n
    exact ⟨y, by rw [hy, hx]⟩
  records l hl := h.records l (h'.records l hl)

theorem State.OpAccess.ops (h : s.OpAccess t) : t.ops = s.ops := by rw [h.tables]

theorem State.OpAccess.launches (h : s.OpAccess t) : t.launches = s.launches := by rw [h.tables]

theorem State.OpAccess.noJoins (h : s.OpAccess t) (hj : s.NoJoins) : t.NoJoins := hj.congr h.ops

theorem State.OpAccess.gen (h : s.OpAccess t) (n : Nat) : (t.core n).gen = (s.core n).gen := by
  obtain ⟨x, hx⟩ := h.cores n
  rw [hx]

theorem State.OpAccess.raceMode (h : s.OpAccess t) {n : Nat} (hr : (s.core n).raceMode = 0) : (t.core n).raceMode = 0 := by
  obtain ⟨x, hx⟩ := h.cores n
  rw [hx]
  exact hr

theorem State.OpAccess.noRecords (h : s.OpAccess t) (hn : ∀ l, ¬ s.InRecords l) (l : Loc) : ¬ t.InRecords l := fun hl => hn l (h.records l hl)

theorem State.OpRead.refl (s : State) : s.OpRead s := ⟨.refl s, fun _ _ => rfl⟩

theorem State.OpRead.trans (h : s.OpRead t) (h' : t.OpRead u) : s.OpRead u :=
  ⟨h.toOpAccess.trans h'.toOpAccess, fun l hl => (h'.bytes l fun hr => hl (h.records l hr)).trans (h.bytes l hl)⟩

theorem State.OpRead.byteAt (h : s.OpRead t) (hn : ∀ l, ¬ s.InRecords l) : t.byteAt = s.byteAt := funext fun l => h.bytes l (hn l)

theorem State.OpRead.foldl {α : Type} {f : State → α → State} {l : List α} (hf : ∀ a, s.OpRead a → ∀ x ∈ l, a.OpRead (f a x)) :
    s.OpRead (l.foldl f s) :=
  List.foldlRecOn (motive := s.OpRead) l f (.refl s) fun a ha x hx => ha.trans (hf a ha x hx)

theorem State.Accessed.opRead (h : s.Accessed t) (hc : t.cores = s.cores) : s.OpRead t :=
  ⟨⟨h.tables, fun n => ⟨(s.core n).tlb, State.core_congr hc n⟩, h.records⟩, h.bytes⟩

theorem opRead_noteTlb (s : State) (n : Nat) (husk : Bool) (va : Word) : s.OpRead (s.noteTlb n husk va) := by
  obtain ⟨⟨x, hx⟩, hne, c, p, h⟩ := noteTlb_spec s n husk va
  refine ⟨⟨by rw [h]; rfl, fun m => ?_, fun l hl => by rw [h] at hl; exact hl⟩, fun l _ => by rw [h]; exact State.byteAt_congr rfl rfl rfl rfl l⟩
  by_cases hm : m = n
  · subst hm; exact ⟨x, hx⟩
  · exact ⟨_, hne m hm⟩

theorem copies_noteTlb (s : State) (n : Nat) (husk : Bool) (va : Word) : (s.noteTlb n husk va).copies = s.copies := by
  obtain ⟨-, -, c, p, h⟩ := noteTlb_spec s n husk va
  rw [h]

/-- With no race checks a touch by any core takes no shadow records. -/
theorem opRead_touchFor (hr : (s.core w.core).raceMode = 0) (cls : BitVec 2) (dirty : Bool) (l : Loc) (va : Word) :
    s.OpRead (s.touchFor w cls dirty l va) := by
  have hoff : s.RaceOff w.core := by rw [State.RaceOff, hr]; rfl
  exact (prepared_touchFor hr cls dirty l va).toAccessed.opRead (evicted_touchFor hoff cls dirty l va).cores

/-- The TLB entries and the touched line of an access of an operation whose core checks for no races. -/
theorem opRead_noteOp (hr : (s.core w.core).raceMode = 0) (i : Nat) (writes : Bool) (x : Loc × Nat × Nat) :
    s.OpRead (s.noteOp i w writes x) ∧ (s.noteOp i w writes x).copies = s.copies := by
  have hrace : s.noteRace i w x = s := by rw [State.noteRace, trapRace_eq_none hr]
  rw [State.noteOp, hrace, logRaces_eq_self hr]
  have htlb := opRead_noteTlb s w.core (!w.user) (BitVec.ofNat 64 x.2.1)
  have hr' := htlb.raceMode hr
  exact ⟨htlb.trans (opRead_touchFor hr' _ _ _ _), (prepared_touchFor hr' _ _ _ _).copies.trans (copies_noteTlb s _ _ _)⟩

theorem opRead_granRead (s : State) (w : Who) (na : Bool) (base : Word) (x : Loc × Nat × Nat) : s.OpRead (s.granRead w na base x).1 :=
  have h := granRead_spec s w na base x
  h.1.opRead h.2

theorem opRead_noteOp_granRead (hr : (s.core w.core).raceMode = 0) (i : Nat) (base : Word) (x : Loc × Nat × Nat) :
    s.OpRead ((s.noteOp i w false x).granRead w false base x).1 :=
  (opRead_noteOp hr i false x).1.trans (opRead_granRead _ _ _ _ _)

theorem opAccess_writeAt (s : State) (hs : List Holder) (na : Bool) (p : Word) (l : Loc) (n v : Nat) : s.OpAccess (s.writeAt hs na p l n v).1 := by
  obtain ⟨m, sc, h, pe, ls, sl, c, hw⟩ := writeAt_shape s hs na p l n v
  rw [hw]
  exact ⟨rfl, fun n => ⟨(s.core n).tlb, rfl⟩, fun _ => id⟩

theorem opAccess_putNat (s : State) (l : Loc) (n v : Nat) : s.OpAccess (s.putNat l n v) := by
  obtain ⟨m, c, h, p, hput⟩ := putNat_spec s l n v
  rw [hput]
  exact ⟨rfl, fun n => ⟨(s.core n).tlb, rfl⟩, fun _ => id⟩

theorem opAccess_writeSys (s : State) (l : Loc) (bs : List Byte) : s.OpAccess (s.writeSys l bs) := by
  obtain ⟨d, hw⟩ := writeSys_spec s l bs
  rw [hw]
  have h := opAccess_putNat s l bs.length (natOf bs)
  exact ⟨by have := h.tables; unfold State.AccessTables at *; rw [this], h.cores, h.records⟩

/-! #### The bytes of some parts, and what is written to them -/

theorem byteOf_cons_add (l : Loc) (va n j : Nat) (r : List (Loc × Nat × Nat)) : byteOf ((l, va, n) :: r) (n + j) = byteOf r j := by
  rw [byteOf, if_neg (Nat.not_lt.mpr (Nat.le_add_right n j)), Nat.add_sub_cancel_left]

theorem byteOf_cons_lt {r : List (Loc × Nat × Nat)} (h : j < n) : byteOf ((l, va, n) :: r) j = some (l.plus j) := if_pos h

theorem PartsApart.tail {x : Loc × Nat × Nat} (h : PartsApart (x :: ps)) : PartsApart ps := fun j k p q hj hk hkey => by
  obtain ⟨l, va, n⟩ := x
  have := h (n + j) (n + k) p q ((byteOf_cons_add l va n j ps).trans hj) ((byteOf_cons_add l va n k ps).trans hk) hkey
  omega

theorem partsApart_singleton (x : Loc × Nat × Nat) : PartsApart [x] := by
  obtain ⟨l, va, n⟩ := x
  have hin : ∀ j p, byteOf [(l, va, n)] j = some p → p = l.plus j := fun j p h => by
    by_cases hj : j < n
    · exact (Option.some.inj ((byteOf_cons_lt hj).symm.trans h)).symm
    · rw [byteOf, if_neg hj] at h; cases h
  intro j k p q hj hk hkey
  rw [hin j p hj, hin k q hk, Loc.key_plus, Loc.key_plus] at hkey
  omega

/-- A byte of a wide write. -/
theorem byteAt_putNat_plus (s : State) (l : Loc) (v : Nat) (h : j < n) : (s.putNat l n v).byteAt (l.plus j) = BitVec.ofNat 8 (v / 256 ^ j) := by
  induction n generalizing s l v j with
  | zero => exact absurd h (Nat.not_lt_zero j)
  | succ n ih =>
    cases j with
    | zero =>
      rw [State.putNat, Loc.plus_zero, byteAt_putNat_of_key_ne, byteAt_putByte_self, Nat.pow_zero, Nat.div_one]
      intro j _
      rw [Loc.plus_plus, Loc.key_plus]
      omega
    | succ j =>
      rw [State.putNat, show l.plus (j + 1) = (l.plus 1).plus j by rw [Loc.plus_plus, Nat.add_comm], ih _ _ _ (Nat.lt_of_succ_lt_succ h),
        Nat.div_div_eq_div_mul, Nat.pow_succ']

theorem ofNat_natOf_div {b : Byte} (h : bs[j]? = some b) : BitVec.ofNat 8 (natOf bs / 256 ^ j) = b := by
  induction bs generalizing j with
  | nil => cases h
  | cons x r ih =>
    cases j with
    | zero =>
      obtain rfl : x = b := Option.some.inj h
      rw [natOf, Nat.pow_zero, Nat.div_one]
      refine BitVec.eq_of_toNat_eq ?_
      have := x.isLt
      rw [BitVec.toNat_ofNat]
      omega
    | succ j =>
      have hx := x.isLt
      have hdiv : (x.toNat + 256 * natOf r) / 256 = natOf r := by omega
      rw [natOf, Nat.pow_succ', ← Nat.div_div_eq_div_mul, hdiv]
      exact ih h

theorem length_bytesOf (n v : Nat) : (bytesOf n v).length = n := by
  induction n generalizing v with
  | zero => rfl
  | succ n ih => rw [bytesOf, List.length_cons, ih]

theorem getElem?_bytesOf_natAt (s : State) (l : Loc) (h : j < n) : (bytesOf n (s.natAt l n))[j]? = some (s.byteAt (l.plus j)) := by
  induction n generalizing l j with
  | zero => exact absurd h (Nat.not_lt_zero j)
  | succ n ih =>
    have hb := (s.byteAt l).isLt
    rw [State.natAt, bytesOf, show ((s.byteAt l).toNat + 256 * s.natAt (l.plus 1) n) / 256 = s.natAt (l.plus 1) n by omega]
    cases j with
    | zero =>
      refine congrArg some (BitVec.eq_of_toNat_eq ?_)
      rw [Loc.plus_zero, BitVec.toNat_ofNat]
      omega
    | succ j =>
      rw [List.getElem?_cons_succ, ih _ (Nat.lt_of_succ_lt_succ h), Loc.plus_plus, Nat.add_comm 1 j]

/-- The bytes of some parts, one after the other. -/
def State.bytesIn (s : State) (ps : List (Loc × Nat × Nat)) : List Byte := ps.flatMap fun p => bytesOf p.2.2 (s.natAt p.1 p.2.2)

theorem getElem?_bytesIn (h : byteOf ps j = some q) : (s.bytesIn ps)[j]? = some (s.byteAt q) := by
  induction ps generalizing j with
  | nil => cases h
  | cons x r ih =>
    obtain ⟨l, va, n⟩ := x
    rw [State.bytesIn, List.flatMap_cons]
    by_cases hj : j < n
    · rw [List.getElem?_append_left (by rw [length_bytesOf]; exact hj)]
      rw [byteOf_cons_lt hj] at h
      cases h
      exact getElem?_bytesOf_natAt s l hj
    · rw [List.getElem?_append_right (by rw [length_bytesOf]; exact Nat.le_of_not_lt hj), length_bytesOf]
      rw [byteOf, if_neg hj] at h
      exact ih h

/-- Some bytes stand in some parts, one after the other, and no other byte has changed. -/
structure State.Wrote (s : State) (ps : List (Loc × Nat × Nat)) (bs : List Byte) (t : State) : Prop where
  value : ∀ j p b, byteOf ps j = some p → bs[j]? = some b → t.byteAt p = b
  frame : ∀ l, (∀ j p, byteOf ps j = some p → l.key ≠ p.key) → t.byteAt l = s.byteAt l

theorem wrote_nil (h : t.byteAt = s.byteAt) (bs : List Byte) : s.Wrote [] bs t := ⟨fun _ _ _ hp => by (cases hp), fun l _ => congrFun h l⟩

/-- A part is written, then the others. -/
theorem State.Wrote.cons (hu : ∀ p, u.byteAt p = (s.putNat l m (natOf (bs.take n))).byteAt p) (hlo : (bs.take n).length ≤ m) (hhi : m ≤ n)
    (hapart : PartsApart ((l, va, n) :: ps)) (h : u.Wrote ps (bs.drop n) t) : s.Wrote ((l, va, n) :: ps) bs t where
  value j p b hp hb := by
    by_cases hj : j < n
    · obtain rfl : l.plus j = p := Option.some.inj ((byteOf_cons_lt hj).symm.trans hp)
      have htake : (bs.take n)[j]? = some b := by rw [List.getElem?_take_of_lt hj]; exact hb
      have hjm : j < m := Nat.lt_of_lt_of_le (List.getElem?_eq_some_iff.mp htake).1 hlo
      have hrest : ∀ i q, byteOf ps i = some q → (l.plus j).key ≠ q.key := fun i q hq hkey => by
        have := hapart j (n + i) _ q hp ((byteOf_cons_add l va n i ps).trans hq) hkey
        omega
      rw [h.frame _ hrest, hu, byteAt_putNat_plus _ _ _ hjm, ofNat_natOf_div htake]
    · obtain ⟨i, rfl⟩ := Nat.exists_eq_add_of_le (Nat.le_of_not_lt hj)
      rw [byteOf_cons_add] at hp
      exact h.value i p b hp (by rw [List.getElem?_drop]; exact hb)
  frame q hq := by
    rw [h.frame q fun i r hr => hq (n + i) r ((byteOf_cons_add l va n i ps).trans hr), hu]
    exact byteAt_putNat_of_key_ne _ _ _ _ fun i hi => hq i _ (byteOf_cons_lt (Nat.lt_of_lt_of_le hi hhi))

theorem State.Wrote.from (h : u.Wrote ps bs t) (hb : u.byteAt = s.byteAt) : s.Wrote ps bs t :=
  ⟨h.value, fun l hl => (h.frame l hl).trans (congrFun hb l)⟩

theorem State.Wrote.to (h : s.Wrote ps bs t) (hb : u.byteAt = t.byteAt) : s.Wrote ps bs u :=
  ⟨fun j p b hp hx => (congrFun hb p).trans (h.value j p b hp hx), fun l hl => (congrFun hb l).trans (h.frame l hl)⟩

theorem State.Wrote.bytesMoved (h : s.Wrote ps (s.bytesIn qs) t) : s.BytesMoved qs ps t :=
  ⟨fun j p _ hp hq => h.value j p _ hp (getElem?_bytesIn hq), h.frame⟩

/-- The slices of some bytes written one after the other, where each step writes its part. `P` says what the steps keep. -/
theorem wrote_foldl_slices {σ : Type} {st : σ → State} {f : σ → (Loc × Nat × Nat) × List Byte → σ} {P : State → Prop}
    (hstep : ∀ c l va n b, (l, va, n) ∈ ps → b.length ≤ n → P (st c) → P (st (f c ((l, va, n), b))) ∧
      ∃ m, b.length ≤ m ∧ m ≤ n ∧ ∀ p, (st (f c ((l, va, n), b))).byteAt p = ((st c).putNat l m (natOf b)).byteAt p)
    (hapart : PartsApart ps) (bs : List Byte) {c : σ} (hc : P (st c)) : (st c).Wrote ps bs (st ((slices bs ps).foldl f c)) := by
  induction ps generalizing c bs with
  | nil => exact wrote_nil rfl bs
  | cons x r ih =>
    obtain ⟨l, va, n⟩ := x
    obtain ⟨hP, m, hlo, hhi, hb⟩ := hstep c l va n (bs.take n) List.mem_cons_self (List.length_take_le n bs) hc
    exact .cons hb hlo hhi hapart (ih (fun c l va n b hx => hstep c l va n b (List.mem_cons_of_mem _ hx)) hapart.tail (bs.drop n) hP)

/-! #### Without caches and shadow records -/

theorem State.Uncached.noRecords (h : s.Uncached o) (l : Loc) : ¬ s.InRecords l := by
  obtain ⟨-, -, hshadow, -, -⟩ := h
  rintro ⟨x, hx, p, -, hp, -⟩
  rw [hshadow x hx] at hp
  cases hp

theorem State.Uncached.copyOf (h : s.Uncached o) (l : Loc) (k : Nat) : s.copyOf l k = none := by
  cases l with
  | pkg a => rw [State.copyOf, h.1]; rfl
  | _ => rfl

/-- A granule read through copies that hold the bytes of memory. -/
theorem noteOp_granRead_of_copiesAgree (hr : (t.core w.core).raceMode = 0) (hbuf : w.buf = false) (hn : ∀ l, ¬ s.InRecords l) (h : s.OpRead t)
    (hline : ∀ y ∈ ps, InLine y) (hcopies : s.CopiesAgree w.core ps t) {n : Nat} (hx : (l, va, n) ∈ ps) (hl : l.isSystem = false) (base : Word) :
    ((t.noteOp i w false (l, va, n)).granRead w false base (l, va, n)).2.1 = s.natAt l n ∧
      s.CopiesAgree w.core ps ((t.noteOp i w false (l, va, n)).granRead w false base (l, va, n)).1 := by
  obtain ⟨hnote, hcop⟩ := opRead_noteOp hr i false (l, va, n)
  have hbytes : ∀ y ∈ ps, (t.noteOp i w false (l, va, n)).natAt y.1 y.2.2 = s.natAt y.1 y.2.2 := fun y _ =>
    natAt_congr ((h.trans hnote).byteAt hn) _ _
  generalize t.noteOp i w false (l, va, n) = u at hcop hbytes
  simp only [State.granRead, hl, Bool.false_eq_true, if_false, State.forward, hbuf]
  exact readAt_of_copiesAgree (serves_readHolders (u.homeOnly w false va)) hline hbytes (hcopies.congr hcop) hx (u.leaseOf w.core) base

end Sys2Proof.Machine
end

section
/-! ### Granules of a copy, and copies and prefetches that complete (R187, R190, R191, R195) -/

namespace Sys2Proof.Machine

variable {s t u : State} {w : Who} {o : AOp} {i j k m n a d g : Nat} {l p : Loc} {ps qs : List (Loc × Nat × Nat)} {bs : List Byte}

/-! #### One run of bytes -/

theorem runsOf_ne_nil (x : Nat × Nat) (r : List (Nat × Nat)) : runsOf (x :: r) ≠ [] := by
  obtain ⟨d, a⟩ := x
  rw [runsOf]
  split
  · split <;> exact List.cons_ne_nil _ _
  · exact List.cons_ne_nil _ _

/-- A run starts with its first move, and no move of it lies before. -/
theorem moves_of_runsOf {ms : List (Nat × Nat)} (h : runsOf ms = [(d, a, k)]) : (d, a) ∈ ms ∧ ∀ m ∈ ms, d ≤ m.1 := by
  induction ms generalizing d a k with
  | nil => cases h
  | cons x r ih =>
    obtain ⟨d0, a0⟩ := x
    rw [runsOf] at h
    split at h
    next d' a' n rest hr =>
      split at h
      next hnext =>
        cases h
        obtain ⟨hd, -⟩ := hnext
        refine ⟨List.mem_cons_self, fun m hm => ?_⟩
        rcases List.mem_cons.mp hm with rfl | hm
        · exact le_rfl
        · have := (ih hr).2 m hm
          omega
      · cases h
    next hr =>
      cases h
      cases r with
      | nil => exact ⟨List.mem_cons_self, fun m hm => by rw [List.mem_singleton.mp hm]⟩
      | cons y r => exact absurd hr (runsOf_ne_nil y r)

theorem foldl_min_eq {ms : List (Nat × Nat)} {b : Nat} (hle : ∀ m ∈ ms, d ≤ m.1) (hb : d ≤ b) (hmem : b = d ∨ ∃ m ∈ ms, m.1 = d) :
    ms.foldl (fun a m => min a m.1) b = d := by
  induction ms generalizing b with
  | nil => exact hmem.resolve_right fun ⟨m, hm, _⟩ => absurd hm List.not_mem_nil
  | cons x r ih =>
    have hx := hle x List.mem_cons_self
    refine ih (fun m hm => hle m (List.mem_cons_of_mem _ hm)) (Nat.le_min.mpr ⟨hb, hx⟩) ?_
    rcases hmem with hb' | ⟨m, hm, hd⟩
    · exact .inl ((congrArg (min · x.1) hb').trans (Nat.min_eq_left hx))
    · rcases List.mem_cons.mp hm with rfl | hm
      · exact .inl ((congrArg (min b) hd).trans (Nat.min_eq_right hb))
      · exact .inr ⟨m, hm, hd⟩

theorem natOf_bytesOf_natAt (s : State) (l : Loc) (n : Nat) : natOf (bytesOf n (s.natAt l n)) = s.natAt l n := by
  induction n generalizing l with
  | zero => rfl
  | succ n ih =>
    have hb := (s.byteAt l).isLt
    rw [State.natAt, bytesOf, natOf, show ((s.byteAt l).toNat + 256 * s.natAt (l.plus 1) n) / 256 = s.natAt (l.plus 1) n by omega, ih,
      BitVec.toNat_ofNat]
    omega

/-- The bytes that one write of a granule leaves. -/
theorem byteAt_granPut (hr : (s.core w.core).raceMode = 0) (hbuf : w.buf = false) (hl : l.isSystem = false) (op : Nat) (base : Word) (va k v : Nat)
    (q : Loc) : (s.granPut w op base l va [(va, k, v)]).1.byteAt q = (s.putNat l k v).byteAt q := by
  have hput : [(va, k, v)].foldl (fun (a : State) b => a.putNat (l.plus (b.1 - va)) b.2.1 b.2.2) s = s.putNat l k v := by
    rw [List.foldl_cons, List.foldl_nil, Nat.sub_self, Loc.plus_zero]
  have hrace : (((s.putNat l k v).writeAt ((s.putNat l k v).holders (256 + podOf w.core) va) ((s.putNat l k v).homeOnly w false va) base l 0 0).1.core
      w.core).raceMode = 0 := ((opAccess_putNat s l k v).trans (opAccess_writeAt _ _ _ _ _ _ _)).raceMode hr
  simp only [State.granPut, hbuf, hl, Bool.false_eq_true, if_false, hput, noteWrite_eq_self hrace, byteAt_writeAt]
  rfl

/-- A write of one run by an operation that has no guard buffer. -/
theorem opWrite_run (hr : (s.core o.tok.core).raceMode = 0) (hbuf : o.buffered = false) (hl : l.isSystem = false) (i va k v : Nat) (t : Word) :
    ∃ s1 ts, s.opWrite i o l va [(va, k, v)] t = .ok s1 ts ∧
      ∀ q, s1.byteAt q = ((s.noteOp i o.who true (l, va, 1)).putNat l k v).byteAt q := by
  have hr' := (opRead_noteOp (w := o.who) hr i true (l, va, 1)).1.raceMode hr
  refine ⟨_, wmax t ((s.noteOp i o.who true (l, va, 1)).granPut o.who i o.base l va [(va, k, v)]).2, ?_,
    byteAt_granPut (w := o.who) hr' hbuf hl i o.base va k v⟩
  simp only [State.opWrite, hbuf, Bool.false_and, Bool.false_eq_true, if_false]

/-- A granule whose bytes are one run performs: the run has come from its source. -/
theorem granule_run (hun : s.Uncached o) (hg : g < readKey) (hruns : runsOf (o.moves.filter fun m => m.1 / 32 == g) = [(d, a, k)])
    (hwrite : s.check o.who .write (BitVec.ofNat 64 d) = .ok l) (hread : s.check o.who .read (BitVec.ofNat 64 a) = .ok p)
    (hl : l.isSystem = false) (hp : p.isSystem = false) : ∃ s1 ts, s.granule i o g = .ok s1 ts ∧ s.BytesMoved [(p, a, k)] [(l, d, k)] s1 := by
  have hn := hun.noRecords
  have hcopy := hun.copyOf
  obtain ⟨-, -, -, hrace, hbuf⟩ := hun
  obtain ⟨hfirst, hle⟩ := moves_of_runsOf hruns
  have hmin : (o.moves.filter fun m => m.1 / 32 == g).foldl (fun a m => min a m.1) (32 * g + 31) = d := by
    have hd : d / 32 = g := by simpa using (List.mem_filter.mp hfirst).2
    exact foldl_min_eq hle (by omega) (.inr ⟨_, hfirst, rfl⟩)
  obtain ⟨hnote, hcopies⟩ := opRead_noteOp (w := o.who) hrace i false (p, a, k)
  have hsrc := opRead_noteOp_granRead (w := o.who) hrace i o.base (p, a, k)
  have hvalue : ((s.noteOp i o.who false (p, a, k)).granRead o.who false o.base (p, a, k)).2.1 = s.natAt p k := by
    rw [granRead_uncopied hbuf hp (fun j => by rw [← hcopy p j]; cases p <;> simp only [State.copyOf, hcopies])]
    exact natAt_congr (hnote.byteAt hn) p k
  have hdst := hsrc.trans (opRead_noteOp (w := o.who) (hsrc.raceMode hrace) i true (l, d, 1)).1
  obtain ⟨s1, ts, hok, hbytes⟩ := opWrite_run (hsrc.raceMode hrace) hbuf hl i d k (s.natAt p k)
    (wmax 0 ((s.noteOp i o.who false (p, a, k)).granRead o.who false o.base (p, a, k)).2.2)
  refine ⟨s1, ts, ?_, State.Wrote.bytesMoved (.from (.cons (m := k) (fun q => ?_) (List.length_take_le _ _) le_rfl (partsApart_singleton _)
    (wrote_nil rfl _)) (hdst.byteAt hn))⟩
  · rw [← hok]
    simp only [State.granule, if_neg (Nat.not_le.mpr hg), hmin, hwrite, hruns, readRuns, hread, hvalue]
  · have hbs : (s.bytesIn [(p, a, k)]).take k = bytesOf k (s.natAt p k) := by
      rw [State.bytesIn, List.flatMap_cons, List.flatMap_nil, List.append_nil, List.take_of_length_le (length_bytesOf _ _).le]
    rw [hbs, natOf_bytesOf_natAt]
    exact hbytes q

/-! #### The events of copies and prefetches -/

theorem exec_homeWritePerform (hop : Cells.find? s.ops i = some o) (hkind : (∃ a b r, o.kind = .copy a b r) ∨ ∃ a b r, o.kind = .copyl a b r)
    (hstat : o.stat = .running) (hnext : s.nextGranule o = some g) {s1 : State} {ts : Word} (hok : s.granule i o g = .ok s1 ts) :
    exec (.homeWritePerform i) s = .next (s1.updOp i fun x => { x with done := x.done ++ [g], maxTs := wmax x.maxTs ts }) := by
  have hgran : exec (.homeWritePerform i) s = .next (s.opGranule i o) := by
    show execHomeWritePerform i s = _
    rcases hkind with ⟨a, b, r, hk⟩ | ⟨a, b, r, hk⟩ <;> simp only [execHomeWritePerform, hop, hk, hstat]
  rw [hgran]
  simp only [State.opGranule, hnext, hok]

theorem execCopyComplete_copyl (hop : Cells.find? s.ops i = some o) {a b : Word} {n : Word} (hkind : o.kind = .copyl a b n) (hstat : o.stat = .running)
    (hdone : ∀ g ∈ o.granules, g ∈ o.done) (hrace : o.race = none) (hsys : s.opSysPending i = false) :
    exec (.copyComplete i) s = .next (s.endOp i o (.done o.maxTs)) := by
  have hall : (o.granules.all fun g => o.done.contains g) = true := List.all_eq_true.mpr fun g hg => List.contains_iff_mem.mpr (hdone g hg)
  have hwmax : wmax o.maxTs 0 = o.maxTs := wmax_zero _
  show execCopyComplete i s = _
  simp only [execCopyComplete, hop, hstat, hall, hrace, hkind, hsys, State.copyRecord, if_true, Option.bind_some, hwmax]
  rfl

/-- The record of a prefetch is read. -/
theorem opRead_opRecord (hr : (s.core o.tok.core).raceMode = 0) {a : Word} {s1 : State} {v : Nat} {ts : Word}
    (h : s.opRecord i o a = .ok (s1, v, ts)) : s.OpRead s1 := by
  unfold State.opRecord at h
  dsimp only at h
  split at h
  next oks hplan =>
    cases h
    refine List.foldlRecOn (motive := fun (r : State × Nat × Nat × Word) => s.OpRead r.1) oks _ (.refl s) fun r h x _ => ?_
    exact h.trans (opRead_noteOp_granRead (w := o.who) (h.raceMode hr) i o.base x)
  · cases h
  · cases h

theorem execTprefComplete_ok (hop : Cells.find? s.ops i = some o) {a : Word} {ctl : Word} (hkind : o.kind = .tpref a ctl)
    (hr : (s.core o.tok.core).raceMode = 0) {s1 : State} {v : Nat} {ts : Word} {y : Layout} (hrec : s.opRecord i o a = .ok (s1, v, ts))
    (hlayout : parseLayout v = some y) : ∃ u, s.OpRead u ∧ exec (.tprefComplete i) s = .next (u.endOp i o (.done o.base)) := by
  have hrecord := opRead_opRecord hr hrec
  refine ⟨_, ?_, by
    show execTprefComplete i s = _
    simp only [execTprefComplete, hop, hkind, hrec, hlayout]
    rfl⟩
  refine hrecord.trans (.foldl fun b hb x _ => ?_)
  split
  next loc hloc =>
    have hr' := (hrecord.trans hb).raceMode hr
    have htlb := opRead_noteTlb b o.who.core false (BitVec.ofNat 64 (128 * x))
    have htouch := htlb.trans (opRead_touchFor (w := o.who) (htlb.raceMode hr') (b.classOf o.who (BitVec.ofNat 64 (128 * x))
      ((ctl.extractLsb' 0 2).setWidth 3)) false loc (BitVec.ofNat 64 (128 * x)))
    split
    · exact htouch.trans ((accessed_readAt _ _ _ _ _ _).opRead (readAt_cores _ _ _ _ _ _))
    · exact htouch
  · exact .refl b

end Sys2Proof.Machine
end

section
/-! ### Messages of fabric operations (R208, R209) -/

namespace Sys2Proof.Machine

variable {s t u : State} {w : Who} {o : AOp} {i j k m n va off : Nat} {a b base : Word} {l p : Loc} {ps qs ls oks : List (Loc × Nat × Nat)}
  {bs : List Byte}

/-! #### The parts of a plan -/

theorem mod_add_le_of_mem_partsOf {unit fuel va n : Nat} (hunit : 0 < unit) {x : Nat × Nat} (hx : x ∈ partsOf unit fuel va n) :
    x.1 % unit + x.2 ≤ unit := by
  induction fuel generalizing va n with
  | zero => cases hx
  | succ fuel ih =>
    rw [partsOf] at hx
    split at hx
    · cases hx
    · rcases List.mem_cons.mp hx with rfl | hx
      · have := Nat.mod_lt va hunit
        show va % unit + min n (unit - va % unit) ≤ unit
        omega
      · exact ih hx

theorem inLine_of_plan {acc : Acc} {cut : List (Nat × Nat)} (h : s.plan w acc cut = (oks, none)) (hcut : ∀ x ∈ cut, x.1 % 32 + x.2 ≤ 32) :
    ∀ y ∈ oks, InLine y := by
  induction cut generalizing oks with
  | nil =>
    obtain rfl := (congrArg Prod.fst h).symm
    exact fun y hy => absurd hy List.not_mem_nil
  | cons x r ih =>
    obtain ⟨va, n⟩ := x
    rw [State.plan] at h
    cases hc : s.check w acc (BitVec.ofNat 64 va) with
    | ok l =>
      simp only [hc] at h
      obtain ⟨h1, h2⟩ := Prod.mk.inj h
      subst h1
      intro y hy
      rcases List.mem_cons.mp hy with rfl | hy
      · exact inLine_of_check hc (hcut _ List.mem_cons_self)
      · exact ih (Prod.ext rfl h2) (fun x hx => hcut x (List.mem_cons_of_mem _ hx)) y hy
    | fault f => simp [hc] at h
    | stall => simp [hc] at h

/-! #### An operation that takes a message -/

theorem updOp_of_find? (h : Cells.find? t.ops i = some o) (f : AOp → AOp) : t.updOp i f = { t with ops := Cells.put t.ops i (f o) } := by
  rw [State.updOp, h]

theorem find?_updOp_self (h : Cells.find? t.ops i = some o) (f : AOp → AOp) : Cells.find? (t.updOp i f).ops i = some (f o) := by
  rw [updOp_of_find? h]
  exact Cells.find?_put_self _ _ _

theorem byteAt_updOp (s : State) (i : Nat) (f : AOp → AOp) : (s.updOp i f).byteAt = s.byteAt := funext (sameCoresAndBytes_updOp s i f).2.2

/-- A message in flight that arrives is written at its place. -/
theorem execFabricMessageArrival_ok (hop : Cells.find? s.ops i = some o) {get : Bool} (hkind : o.kind.fabric = some (a, b, n, get))
    (hstat : o.stat = .running) (hlen : 4096 * m < n) (hdone : m ∉ o.done) (hfails : Cells.get 0 o.fails m % 2 = 0) :
    exec (.fabricMessageArrival i m true) s = .next (if get then s.getMessage i o a b (4096 * m) (min 4096 (n - 4096 * m)) m
      else s.sendMessage i o a b (4096 * m) (min 4096 (n - 4096 * m)) m) := by
  show execFabricMessageArrival i m true s = _
  have hlen' : ¬ 4096 * m ≥ n := Nat.not_le.mpr hlen
  cases get <;> simp [execFabricMessageArrival, hop, hkind, hstat, hlen', hdone, hfails]

theorem execFabricMessageArrival_bad (hop : Cells.find? s.ops i = some o) {get : Bool} (hkind : o.kind.fabric = some (a, b, n, get))
    (hstat : o.stat = .running) (hlen : 4096 * m < n) (hdone : m ∉ o.done) (hfails : Cells.get 0 o.fails m % 2 = 0) :
    exec (.fabricMessageArrival i m false) s =
      .next { s with ops := Cells.put s.ops i { o with fails := Cells.put o.fails m (Cells.get 0 o.fails m + 1) } } := by
  have hlen' : ¬ 4096 * m ≥ n := Nat.not_le.mpr hlen
  rw [← updOp_of_find? hop fun x => { x with fails := Cells.put x.fails m (Cells.get 0 o.fails m + 1) }]
  show execFabricMessageArrival i m false s = _
  simp [execFabricMessageArrival, hop, hkind, hstat, hlen', hdone, hfails]

/-! #### FSEND -/

/-- A granule of an FSEND's source is read, and its bytes join those before it. -/
def sendRead (i : Nat) (o : AOp) (r : State × List Byte × Word) (x : Loc × Nat × Nat) : State × List Byte × Word :=
  let (s1, v, t) := (r.1.noteOp i o.who false x).granRead o.who false o.base x
  (s1, r.2.1 ++ bytesOf x.2.2 v, wmax r.2.2 t)

theorem sendMessage_ok (hpeer : s.peerParts o .write (b + BitVec.ofNat 64 off) n m = .ok ls)
    (hplan : s.plan o.who .read (granules (a + BitVec.ofNat 64 off) n) = (oks, none)) {r : State × List Byte × Word}
    (hr : oks.foldl (sendRead i o) (s, [], o.maxTs) = r) : s.sendMessage i o a b off n m =
      ((slices r.2.1 ls).foldl (fun (c : State) y => c.writeSys y.1.1 y.2) r.1).updOp i fun x =>
        { x with done := x.done ++ [m], maxTs := r.2.2 } := by
  subst hr
  simp only [State.sendMessage, hpeer, hplan]
  rfl

theorem opRead_foldl_sendRead (hr : (s.core o.tok.core).raceMode = 0) (i : Nat) (oks : List (Loc × Nat × Nat)) (bs : List Byte) (ts : Word) :
    s.OpRead (oks.foldl (sendRead i o) (s, bs, ts)).1 :=
  List.foldlRecOn (motive := fun (r : State × List Byte × Word) => s.OpRead r.1) oks _ (.refl s) fun _ h x _ =>
    h.trans (opRead_noteOp_granRead (w := o.who) (h.raceMode hr) i o.base x)

/-- The bytes that an FSEND reads are those of memory, where the copies hold them. -/
theorem foldl_sendRead_bytes (hr : (s.core o.tok.core).raceMode = 0) (hbuf : o.buffered = false) (hn : ∀ l, ¬ s.InRecords l)
    (hline : ∀ y ∈ ps, InLine y) (hsys : ∀ y ∈ ps, y.1.isSystem = false) (h : s.OpRead t) (hcopies : s.CopiesAgree o.tok.core ps t)
    (hsub : ∀ y ∈ qs, y ∈ ps) (bs : List Byte) (ts : Word) : (qs.foldl (sendRead i o) (t, bs, ts)).2.1 = bs ++ s.bytesIn qs := by
  induction qs generalizing t bs ts with
  | nil => exact (List.append_nil bs).symm
  | cons x r ih =>
    obtain ⟨l, va, n⟩ := x
    have hmem := hsub _ List.mem_cons_self
    obtain ⟨hvalue, hagree⟩ := noteOp_granRead_of_copiesAgree (w := o.who) (i := i) (h.raceMode hr) hbuf hn h hline hcopies hmem (hsys _ hmem) o.base
    have hread := h.trans (opRead_noteOp_granRead (w := o.who) (h.raceMode hr) i o.base (l, va, n))
    rw [List.foldl_cons, sendRead, ih hread hagree fun y hy => hsub y (List.mem_cons_of_mem _ hy), hvalue, State.bytesIn, State.bytesIn,
      List.flatMap_cons, List.append_assoc]

/-- The slices of a message are written at the peer. -/
theorem wrote_foldl_writeSys (hapart : PartsApart ls) (bs : List Byte) (s : State) :
    s.Wrote ls bs ((slices bs ls).foldl (fun (c : State) y => c.writeSys y.1.1 y.2) s) :=
  wrote_foldl_slices (st := id) (P := fun _ => True) (fun c l va n b _ hb _ => ⟨trivial, b.length, le_rfl, hb, fun p => by
    obtain ⟨d, hd⟩ := writeSys_spec c l b
    exact (congrArg (fun u : State => u.byteAt p) hd).trans (congrFun (byteAt_devCopies _ d) p)⟩) hapart bs trivial

theorem ops_foldl_writeSys (ys : List ((Loc × Nat × Nat) × List Byte)) (s : State) :
    (ys.foldl (fun (c : State) y => c.writeSys y.1.1 y.2) s).ops = s.ops :=
  List.foldlRecOn (motive := fun (u : State) => u.ops = s.ops) ys _ rfl fun u hu _ _ => (opAccess_writeSys u _ _).ops.trans hu

/-- A message of an FSEND: the operation has taken it, and its bytes stand at the peer. -/
theorem sendMessage_spec (hop : Cells.find? s.ops i = some o) (hr : (s.core o.tok.core).raceMode = 0)
    (hpeer : s.peerParts o .write (b + BitVec.ofNat 64 off) n m = .ok ls)
    (hplan : s.plan o.who .read (granules (a + BitVec.ofNat 64 off) n) = (oks, none)) :
    (∃ ts, Cells.find? (s.sendMessage i o a b off n m).ops i = some { o with done := o.done ++ [m], maxTs := ts }) ∧
      (s.Uncached o → (∀ p ∈ oks, p.1.isSystem = false) → PartsApart ls → s.BytesMoved oks ls (s.sendMessage i o a b off n m)) := by
  have hread := opRead_foldl_sendRead hr i oks [] o.maxTs
  rw [sendMessage_ok hpeer hplan rfl]
  refine ⟨⟨_, find?_updOp_self ((congrArg (Cells.find? · i) ((ops_foldl_writeSys _ _).trans hread.ops)).trans hop) _⟩, fun hun hsys hapart => ?_⟩
  have hn := hun.noRecords
  have hcopies : s.CopiesAgree o.tok.core oks s := copiesAgree_of_none (fun y _ k => hun.copyOf y.1 k) _
  have hline := inLine_of_plan hplan fun x hx => mod_add_le_of_mem_partsOf (by decide) hx
  obtain ⟨-, -, -, -, hbuf⟩ := hun
  have hbytes := foldl_sendRead_bytes (i := i) hr hbuf hn hline hsys (.refl s) hcopies (fun y hy => hy) [] o.maxTs
  rw [List.nil_append] at hbytes
  rw [hbytes]
  exact ((wrote_foldl_writeSys hapart _ _).from (hread.byteAt hn)).to (byteAt_updOp _ _ _) |>.bytesMoved

/-! #### FGET -/

/-- A granule of an FGET's destination is written. -/
def getWrite (i : Nat) (o : AOp) (r : State × Word) (y : (Loc × Nat × Nat) × List Byte) : State × Word :=
  let (s1, t) := (r.1.noteOp i o.who true y.1).granWrite o.who (.op i) false o.base y.1 (natOf y.2)
  (s1, wmax r.2 t)

theorem getMessage_ok (hpeer : s.peerParts o .read (a + BitVec.ofNat 64 off) n m = .ok ls)
    (hplan : s.plan o.who .write (granules (b + BitVec.ofNat 64 off) n) = (oks, none)) : s.getMessage i o a b off n m =
      ((slices (s.bytesIn ls) oks).foldl (getWrite i o) (s, o.maxTs)).1.updOp i fun x =>
        { x with done := x.done ++ [m], maxTs := ((slices (s.bytesIn ls) oks).foldl (getWrite i o) (s, o.maxTs)).2 } := by
  simp only [State.getMessage, hpeer, hplan]
  rfl

/-- A write of a granule leaves the table of operations, and the race mode of its core. -/
theorem granWrite_keeps (hr : (s.core w.core).raceMode = 0) (src : SysSrc) (na : Bool) (base : Word) (x : Loc × Nat × Nat) (v : Nat) :
    (s.granWrite w src na base x v).1.ops = s.ops ∧ ((s.granWrite w src na base x v).1.core w.core).raceMode = 0 := by
  obtain ⟨l, va, n⟩ := x
  cases hbuf : w.buf with
  | true =>
    simp only [State.granWrite, hbuf, if_true, State.guardWrite]
    refine ⟨rfl, ?_⟩
    rw [State.core_updCore, if_pos rfl]
    exact hr
  | false =>
    cases hl : l.isSystem with
    | true =>
      simp only [State.granWrite, hbuf, hl, if_true, Bool.false_eq_true, if_false, State.sendStore]
      exact List.foldlRecOn (motive := fun (u : State) => u.ops = s.ops ∧ (u.core w.core).raceMode = 0) _ _ ⟨rfl, hr⟩ fun _ hu _ _ => hu
    | false =>
      rw [granWrite_eq_writeAt hr hbuf hl]
      have h := opAccess_writeAt s (s.holders w.core va) (s.homeOnly w na va) base l n v
      exact ⟨h.ops, h.raceMode hr⟩

theorem ops_foldl_getWrite (hr : (s.core o.tok.core).raceMode = 0) (i : Nat) (ys : List ((Loc × Nat × Nat) × List Byte)) (ts : Word) :
    (ys.foldl (getWrite i o) (s, ts)).1.ops = s.ops :=
  And.left <| List.foldlRecOn (motive := fun (r : State × Word) => r.1.ops = s.ops ∧ (r.1.core o.tok.core).raceMode = 0) ys _ ⟨rfl, hr⟩
    fun r ⟨hops, hrace⟩ y _ => by
      obtain ⟨hnote, -⟩ := opRead_noteOp (w := o.who) hrace i true y.1
      obtain ⟨hops', hrace'⟩ := granWrite_keeps (w := o.who) (hnote.raceMode hrace) (.op i) false o.base y.1 (natOf y.2)
      exact ⟨hops'.trans (hnote.ops.trans hops), hrace'⟩

/-- What the writes of an FGET outside guard buffers keep. -/
def WritesFrom (o : AOp) (s : State) : Prop := (s.core o.tok.core).raceMode = 0 ∧ ∀ l, ¬ s.InRecords l

/-- The slices of a message are written at its destination. -/
theorem wrote_foldl_getWrite (hbuf : o.buffered = false) (hsys : ∀ p ∈ oks, p.1.isSystem = false) (hapart : PartsApart oks) (i : Nat) (bs : List Byte)
    (hs : WritesFrom o s) (ts : Word) : s.Wrote oks bs ((slices bs oks).foldl (getWrite i o) (s, ts)).1 := by
  refine wrote_foldl_slices (st := Prod.fst) (f := getWrite i o) (P := WritesFrom o) (c := (s, ts)) (fun c l va n b hx hb hc => ?_) hapart bs hs
  obtain ⟨hrace, hn⟩ := hc
  have hnote := (opRead_noteOp (w := o.who) hrace i true (l, va, n)).1
  have hwrite := opAccess_writeAt (c.1.noteOp i o.who true (l, va, n)) ((c.1.noteOp i o.who true (l, va, n)).holders o.who.core va)
    ((c.1.noteOp i o.who true (l, va, n)).homeOnly o.who false va) o.base l n (natOf b)
  rw [getWrite, granWrite_eq_writeAt (w := o.who) (hnote.raceMode hrace) hbuf (hsys _ hx)]
  have hacc := hnote.toOpAccess.trans hwrite
  exact ⟨⟨hacc.raceMode hrace, hacc.noRecords hn⟩, n, hb, le_rfl, fun p => (byteAt_writeAt _ _ _ _ _ _ _ p).trans
    (byteAt_putNat_congr (congrFun (hnote.byteAt hn) p) l n _)⟩

/-- A message of an FGET: the operation has taken it, and the bytes of the peer stand at their destination. -/
theorem getMessage_spec (hop : Cells.find? s.ops i = some o) (hr : (s.core o.tok.core).raceMode = 0)
    (hpeer : s.peerParts o .read (a + BitVec.ofNat 64 off) n m = .ok ls)
    (hplan : s.plan o.who .write (granules (b + BitVec.ofNat 64 off) n) = (oks, none)) :
    (∃ ts, Cells.find? (s.getMessage i o a b off n m).ops i = some { o with done := o.done ++ [m], maxTs := ts }) ∧
      (s.Uncached o → (∀ p ∈ oks, p.1.isSystem = false) → PartsApart oks → s.BytesMoved ls oks (s.getMessage i o a b off n m)) := by
  rw [getMessage_ok hpeer hplan]
  refine ⟨⟨_, find?_updOp_self ((congrArg (Cells.find? · i) (ops_foldl_getWrite hr i _ o.maxTs)).trans hop) _⟩, fun hun hsys hapart => ?_⟩
  have hn := hun.noRecords
  obtain ⟨-, -, -, -, hbuf⟩ := hun
  exact (wrote_foldl_getWrite hbuf hsys hapart i _ ⟨hr, hn⟩ o.maxTs).to (byteAt_updOp _ _ _) |>.bytesMoved

end Sys2Proof.Machine
end

section
/-! ### Fabric operations that end, flush markers, window words, and the copy engine (R192, R204, R209, R272, R280, R295) -/

namespace Sys2Proof.Machine

variable {s t u : State} {w : Who} {o : AOp} {i j k m n e : Nat} {a b : Word} {l p : Loc}

/-! #### Fabric operations that end -/

theorem execFabricMessageResend_again (hop : Cells.find? s.ops i = some o) {get : Bool} (hkind : o.kind.fabric = some (a, b, n, get))
    (hodd : Cells.get 0 o.fails m % 2 = 1) (hlt : Cells.get 0 o.fails m < 17) : exec (.fabricMessageResend i m) s =
      .next { s with ops := Cells.put s.ops i { o with fails := Cells.put o.fails m (Cells.get 0 o.fails m + 1) } } := by
  rw [← updOp_of_find? hop fun x => { x with fails := Cells.put x.fails m (Cells.get 0 o.fails m + 1) }]
  have hodd' : ¬ Cells.get 0 o.fails m % 2 = 0 := by omega
  show execFabricMessageResend i m s = _
  simp only [execFabricMessageResend, hop, hkind, if_neg hodd', if_neg (Nat.not_le.mpr hlt)]

/-- The ninth failure ends the operation, with at most one record before. -/
theorem execFabricMessageResend_fails (hop : Cells.find? s.ops i = some o) {get : Bool} (hkind : o.kind.fabric = some (a, b, n, get))
    (hodd : Cells.get 0 o.fails m % 2 = 1) (hge : 17 ≤ Cells.get 0 o.fails m) :
    ∃ u, (u = s ∨ ∃ r, u = s.recordFor o.tok.core r) ∧ exec (.fabricMessageResend i m) s =
      .next (u.endOp i o (.failed ⟨0x0F, (if get then a else b) + BitVec.ofNat 64 (4096 * m), BitVec.ofNat 64 m⟩)) := by
  have hodd' : ¬ Cells.get 0 o.fails m % 2 = 0 := by omega
  refine ⟨_, ?_, by
    show execFabricMessageResend i m s = _
    simp only [execFabricMessageResend, hop, hkind, if_neg hodd', if_pos hge]
    rfl⟩
  split
  · exact .inl rfl
  · exact .inr ⟨_, rfl⟩

theorem execFabricOpComplete_done (hop : Cells.find? s.ops i = some o) {get : Bool} (hkind : o.kind.fabric = some (a, b, n, get))
    {ls : List (Loc × Nat × Nat)} (hpeer : s.peerParts o (if get then .read else .write) (if get then a else b) 1 0 = .ok ls) (hstat : o.stat = .running)
    (hrace : o.race = none) (hdone : ∀ m, m < (n + 4095) / 4096 → m ∈ o.done) (hsys : s.opSysPending i = false) :
    exec (.fabricOpComplete i) s = .next (s.endOp i o (.done o.maxTs)) := by
  have hall : ((List.range ((n + 4095) / 4096)).all fun m => o.done.contains m) = true :=
    List.all_eq_true.mpr fun m hm => List.contains_iff_mem.mpr (hdone m (List.mem_range.mp hm))
  show execFabricOpComplete i s = _
  simp only [execFabricOpComplete, hop, hkind, hpeer, hstat, hall, hsys, hrace, beq_self_eq_true, Bool.not_false, Bool.and_self, if_true]

/-- An operation ends as failed, after a record at most: what its token and memory come to. -/
theorem endOp_failed_spec (hu : u = s ∨ ∃ r, u = s.recordFor o.tok.core r) (f : Flt) :
    s.OpEnds i o (.failed f) (u.endOp i o (.failed f)) ∧
      (s.NoJoins → ∀ l, ¬ s.InRings l → (u.endOp i o (.failed f)).byteAt l = s.byteAt l) := by
  obtain ⟨hops, hcores, hrings, hbytes⟩ : u.ops = s.ops ∧ u.cores = s.cores ∧ s.SameRings u ∧ ∀ l, ¬ s.InRings l → u.byteAt l = s.byteAt l := by
    rcases hu with rfl | ⟨r, rfl⟩
    · exact ⟨rfl, rfl, fun _ => rfl, fun _ _ => rfl⟩
    · obtain ⟨m, ls, ps, h, _⟩ := recordFor_spec s o.tok.core r
      exact ⟨by rw [h], by rw [h], sameRings_recordFor s _ r, fun l hl => byteAt_recordFor_of_not_inRings _ _ hl⟩
  refine ⟨opEnds_of_endOp (fun hj => hj.congr hops) (fun n => by rw [State.core_congr hcores]) i o (.inr ⟨f, rfl⟩), fun hj l hl => ?_⟩
  rw [byteAt_endOp_of_not_inRings (hj.congr hops) i o _ fun hin => hl (hrings.inRings hin), hbytes l hl]

/-! #### Flush markers (R295) -/

theorem execFlushMarkerGather_barrier (hop : Cells.find? s.ops i = some o) {g : Nat} {f rel : Bool} {ts : Word} {ph : Nat} {sent : Bool}
    (hkind : o.kind = .barrier g n f ph rel ts sent) (hsys : Cells.find? s.sys i = none) (hpeer : s.peerPending o.tok.core i = false) :
    exec (.flushMarkerGather i) s = .next { s with ops := Cells.put s.ops i { o with kind := .barrier g n f ph rel ts true } } := by
  rw [← updOp_of_find? hop fun x => { x with kind := .barrier g n f ph rel ts true }]
  show execFlushMarkerGather i s = _
  simp only [execFlushMarkerGather, hsys, hop, hkind, hpeer, Bool.false_eq_true, if_false]

theorem execFlushMarkerGather_fence {c : Nat} (hsys : Cells.find? s.sys i = some (.fence c)) (hpeer : s.peerPending c i = false) :
    exec (.flushMarkerGather i) s = .next { s with sys := Cells.del s.sys i } := by
  show execFlushMarkerGather i s = _
  simp only [execFlushMarkerGather, hsys, hpeer, Bool.false_eq_true, if_false]

/-! #### Lines that a window pins (R279, R280) -/

/-- Nothing but package memory, by lines that leave, what is resident, and the shadow records differ. -/
def State.SameButLines (s t : State) : Prop := t = { s with mem := t.mem, attrs := t.attrs, shadows := t.shadows }

theorem State.SameButLines.trans (h : s.SameButLines t) (h' : t.SameButLines u) : s.SameButLines u := by
  unfold State.SameButLines at *
  rw [h', h]

theorem sameButLines_of_eq {m : Memory} {c : Cells LineAttr} {r : Cells Word} (h : t = { s with mem := m, attrs := c, shadows := r }) :
    s.SameButLines t := by
  subst h
  rfl

theorem sameButLines_touch (s : State) (l : Loc) (home set : Nat) (sh : Option Nat) (cls : BitVec 2) (dirty : Bool) :
    s.SameButLines (s.touch l home set sh cls dirty) := by
  suffices h : ∃ m a r, s.touch l home set sh cls dirty = { s with mem := m, attrs := a, shadows := r } by
    obtain ⟨m, a, r, h⟩ := h
    exact sameButLines_of_eq h
  cases l with
  | pkg b =>
    cases sh with
    | none => exact touch_spec s _ _ _ _ _
    | some q =>
      unfold State.touch
      simp only
      generalize hu : (if cls = 3 then List.foldl (fun (a : State) x => a.evict x.1) s
        ((s.setLines home set).filter fun x => x.1 != b / 128 && x.2.cls == 3 && x.2.pins.isEmpty) else s) = v
      obtain ⟨m, a, r, hv⟩ : ∃ m a r, v = { s with mem := m, attrs := a, shadows := r } := by
        rw [← hu]
        split
        · exact evicts_spec s _ _
        · exact ⟨_, _, _, rfl⟩
      clear hu
      subst hv
      cases Cells.find? a (b / 128) with
      | some x =>
        simp only
        cases x.shadowAt <;> exact ⟨m, _, _, rfl⟩
      | none =>
        obtain ⟨m', a', r', hr⟩ := lineRoom_spec { s with mem := m, attrs := a, shadows := r } home set
        exact ⟨m', _, _, by rw [hr]; rfl⟩
  | _ => exact ⟨_, _, _, rfl⟩

theorem sameButLines_rehome (s : State) (l : Loc) (home set : Nat) : s.SameButLines (s.rehome l home set) := by
  cases l with
  | pkg b =>
    unfold State.rehome
    simp only
    split
    · split
      · rfl
      · obtain ⟨m, a, r, hr⟩ := lineRoom_spec s home set
        exact sameButLines_of_eq (m := m) (r := r) (by rw [hr])
    · rfl
  | _ => rfl

/-- A line that goes to another home keeps its shadow records. -/
theorem evicted_rehome (s : State) (l : Loc) (home set : Nat) : s.Evicted (s.rehome l home set) := by
  cases l with
  | pkg b =>
    unfold State.rehome
    simp only
    split
    next x hx =>
      split
      · exact .refl s
      · have hroom := evicted_lineRoom s home set
        refine ⟨fun l hl => ?_, fun l hl => ?_, hroom.cores, hroom.gangs, hroom.reqs⟩
        · obtain ⟨y, hy, p, c, hp, hplace⟩ := hl
          rcases Cells.mem_put hy with rfl | hy
          · exact ⟨(b / 128, x), Cells.mem_of_find? hx, p, c, hp, hplace⟩
          · exact hroom.records l ⟨y, hy, p, c, hp, hplace⟩
        · exact (State.byteAt_congr rfl rfl rfl rfl l).trans (hroom.bytes l hl)
    · exact .refl s
  | _ => exact .refl s

/-- Pins do not matter for shadow records. -/
theorem evicted_pins (s : State) {f : Nat → LineAttr → LineAttr} (hf : ∀ k y, (f k y).shadowAt = y.shadowAt) :
    s.Evicted { s with attrs := s.attrs.map fun (y : Nat × LineAttr) => (y.1, f y.1 y.2) } := by
  refine ⟨?_, fun l _ => State.byteAt_congr rfl rfl rfl rfl l, rfl, rfl, rfl⟩
  rintro l ⟨x, hx, p, c, hp, hplace⟩
  obtain ⟨y, hy, rfl⟩ := List.mem_map.mp hx
  exact ⟨y, hy, p, c, (hf y.1 y.2).symm.trans hp, hplace⟩

section Pin

variable (s) (agent : Nat) (ws : List Win) (x : Win) (by_ : PinBy) (sh : Word → Option Nat)

theorem sameButLines_pinLines : s.SameButLines (s.pinLines agent ws x by_ sh) := by
  unfold State.pinLines
  refine List.foldlRecOn (motive := s.SameButLines) _ _ rfl fun a ha y _ => ha.trans ?_
  dsimp only
  split
  · exact ((sameButLines_rehome a _ _ _).trans (sameButLines_touch _ _ _ _ _ _ _)).trans rfl
  · rfl

theorem evicted_pinLines (hsh : ∀ va, sh va = none) : s.Evicted (s.pinLines agent ws x by_ sh) := by
  unfold State.pinLines
  refine List.foldlRecOn (motive := s.Evicted) _ _ (.refl s) fun a ha y _ => ha.trans ?_
  dsimp only
  split
  next p _ =>
    rw [hsh]
    refine ((evicted_rehome a _ _ _).trans (evicted_touch _ _ _ _ _ _)).trans
      (evicted_pins _ (f := fun k z => if k = p / 128 ∧ z.pins.contains by_ = false then { z with pins := by_ :: z.pins } else z) fun k z => ?_)
    split <;> rfl
  · exact .refl a

end Pin

end Sys2Proof.Machine
end

section
/-! ### Window words, the copy engine, fabric barriers, the banks of a gang (R192, R204, R272, R280) -/

namespace Sys2Proof.Machine

variable {s t u : State} {w : Win} {o : AOp} {i j k m n e : Nat} {a b : Word} {l : Launch}

/-! #### Window words (R280) -/

theorem setWindow_spec (s : State) (launch i : Nat) (w : Win) : ∃ c, s.setWindow launch i w = { s with launches := c } :=
  updLaunch_spec s launch _

theorem find?_setWindow (hl : Cells.find? s.launches n = some l) (i : Nat) (w : Win) :
    Cells.find? (s.setWindow n i w).launches n = some { l with windows := l.windows.set i w } := by
  rw [State.setWindow, State.find?_updLaunch, if_pos rfl, hl]
  rfl

theorem execWindowWordPerform_own (hop : Cells.find? s.ops i = some o) {ix arg : Word} (hkind : o.kind = .window 2 ix (some arg))
    (hl : Cells.find? s.launches o.launch = some l) (hw : l.windows[ix.toNat]? = some w) (hvalid : w.flags.getLsbD 0 = true)
    (hold : (w.owner.getD (arg.toNat / 65536) 0).toNat / 4096 = 0) (hturn : s.windowBehind i o = false) : exec (.windowWordPerform i) s =
      .next ((s.setWindow o.launch ix.toNat { w with owner := w.owner.set (arg.toNat / 65536) (arg.setWidth 16) }).endOp i o (.done o.base)) := by
  have hget : l.windows.getD ix.toNat Win.empty = w := by rw [List.getD_eq_getElem?_getD, hw, Option.getD_some]
  show execWindowWordPerform i s = _
  simp only [execWindowWordPerform, hop, hkind, hl, hget, hturn, hvalid, hold, Option.getD_some, Bool.not_true, Bool.false_eq_true, if_false, if_true,
    bne_self_eq_false, Bool.false_and, Bool.or_self, BitVec.ofNat_toNat]

theorem execWindowWordPerform_pin (hop : Cells.find? s.ops i = some o) {ix : Word} (hkind : o.kind = .window 0 ix none)
    (hl : Cells.find? s.launches o.launch = some l) (hw : l.windows[ix.toNat]? = some w) (hvalid : w.flags.getLsbD 0 = true)
    (hunpinned : w.flags.getLsbD 1 = false) (hroom : l.pinUse.toNat + (w.limit - w.base).toNat ≤ l.pinLim.toNat) (hturn : s.windowBehind i o = false)
    (hdone : o.done = []) {s1 : State} (hpin : s.pinWindow o.tok.core l.windows w (.launch o.launch ix.toNat) (s.shadowHome o.who) = some s1) :
    exec (.windowWordPerform i) s = .next (((s1.setWindow o.launch ix.toNat { w with flags := w.flags ||| 2, pinnedBy := 2 }).updLaunch o.launch
      fun x => { x with pinUse := x.pinUse + (w.limit - w.base) }).endOp i o (.done o.base)) := by
  have hget : l.windows.getD ix.toNat Win.empty = w := by rw [List.getD_eq_getElem?_getD, hw, Option.getD_some]
  show execWindowWordPerform i s = _
  simp only [execWindowWordPerform, hop, hkind, hl, hget, hturn, hdone, State.pinWord, hvalid, hunpinned, if_neg (Nat.not_lt.mpr hroom), hpin,
    State.endWindow, Bool.not_true, Bool.false_eq_true, if_false, if_true, show ¬ (0 : Nat) = 2 by decide]

theorem pinWindow_some {agent : Nat} {ws : List Win} {by_ : PinBy} {sh : Word → Option Nat} {s1 : State}
    (h : s.pinWindow agent ws w by_ sh = some s1) : s1 = s.pinLines agent ws w by_ sh := by
  unfold State.pinWindow at h
  dsimp only at h
  split at h
  · exact (Option.some.inj h).symm
  · cases h

/-- An operation ends after its launch has changed: what its token, memory, what is resident and the launch come to. -/
theorem endOp_of_launches {c : Cells Launch} (hu : u = { t with launches := c }) (hops : t.ops = s.ops) (hcores : t.cores = s.cores)
    (hl : Cells.find? c o.launch = some l) :
    s.OpEnds i o (.done o.base) (u.endOp i o (.done o.base)) ∧ (u.endOp i o (.done o.base)).attrs = t.attrs ∧
      (s.NoJoins → ∀ p, (u.endOp i o (.done o.base)).byteAt p = t.byteAt p) ∧
      ∃ l', Cells.find? (u.endOp i o (.done o.base)).launches o.launch = some l' ∧ l'.pinUse = l.pinUse ∧ l'.windows = l.windows := by
  subst hu
  refine ⟨opEnds_of_endOp (u := { t with launches := c }) (fun hj => hj.congr hops) (fun n => congrArg Core.gen (State.core_congr (t := { t with launches := c }) hcores n)) i o (.inl ⟨_, rfl⟩), endOp_attrs _ i o _,
    fun hj p => ?_, ?_⟩
  · exact (byteAt_endOp_done (s := { t with launches := c }) (hj.congr hops) i o _ p).trans (State.byteAt_congr rfl rfl rfl rfl p)
  · obtain ⟨ts, hfind⟩ := find?_launches_endOp { t with launches := c } i o (.done o.base) o.launch
    rw [hfind, if_pos rfl]
    exact ⟨_, congrArg (Option.map _) hl, rfl, rfl⟩

/-! #### The copy engine (R192) -/

theorem execCopyEngineStart_copyl {n : Word} (hnext : roundRobin s (s.pod i).served (firstOfCores s [] (s.pod i).queue) = some j)
    (hop : Cells.find? s.ops j = some o) (hkind : o.kind = .copyl a b n) (hblock : s.blockTurn i = false) :
    exec (.copyEngineStart i) s = .next ((s.updPod i fun p => { p with queue := p.queue.filter fun j' => j' != j, served := o.tok.core % 8 }).updOp j
      fun z => { z with stat := .running }) := by
  show execCopyEngineStart i s = _
  simp only [execCopyEngineStart, hblock, hnext, hop, State.startCopy, hkind, Bool.false_eq_true, if_false]

/-! #### Fabric barriers (R204) -/

theorem not_fabric_lt (e : Nat) : ¬ 64 + e < 64 := Nat.not_lt.mpr (Nat.le_add_right 64 e)

theorem barrier_fabric (s : State) (i e : Nat) : s.barrier ⟨i, 64 + e⟩ = (s.fbar i e).bar := by
  rw [State.barrier, if_neg (not_fabric_lt e), Nat.add_sub_cancel_left]

theorem counts_fabric (s : State) (i e : Nat) : s.counts ⟨i, 64 + e⟩ = fbMaster (s.fbar i e).entry := by
  rw [State.counts, decide_eq_false (not_fabric_lt e), Bool.false_or, Nat.add_sub_cancel_left]

/-- An entry of the partition's fabric barriers. -/
def Part.fbarAt (p : Part) (e : Nat) : FBar := Cells.get ⟨0, Barrier.reset, []⟩ p.fbars e

def Part.setFbar (p : Part) (e : Nat) (x : FBar) : Part := { p with fbars := Cells.put p.fbars e x }

/-- The device has seen the packet of another one. -/
def FBar.seen (x : FBar) (k : Nat) : FBar := { x with remote := insertNew k x.remote }

theorem fbar_updPart {p : Part} (hp : Cells.find? s.parts i = some p) (e : Nat) (f : FBar → FBar) :
    (s.updPart i fun p => p.setFbar e (f (p.fbarAt e))).fbar i e = f (s.fbar i e) := by
  have hfind : Cells.find? (s.updPart i fun p => p.setFbar e (f (p.fbarAt e))).parts i = some (p.setFbar e (f (p.fbarAt e))) := by
    rw [State.find?_updPart, if_pos rfl, hp]
    rfl
  rw [fbar_part hfind, fbar_part hp]
  exact Cells.get_put_self _ p.fbars e _

theorem updBarrier_fabric (s : State) (i e : Nat) (f : Barrier → Barrier) :
    s.updBarrier ⟨i, 64 + e⟩ f = s.updPart i fun p => p.setFbar e { p.fbarAt e with bar := f (p.fbarAt e).bar } := by
  rw [State.updBarrier, if_neg (not_fabric_lt e), Nat.add_sub_cancel_left]
  rfl

theorem fbar_updBarrier {p : Part} (hp : Cells.find? s.parts i = some p) (e : Nat) (f : Barrier → Barrier) :
    (s.updBarrier ⟨i, 64 + e⟩ f).fbar i e = { s.fbar i e with bar := f (s.fbar i e).bar } := by
  rw [updBarrier_fabric]
  exact fbar_updPart hp e fun x => { x with bar := f x.bar }

theorem find?_parts_updBarrier {p : Part} (hp : Cells.find? s.parts i = some p) (e : Nat) (f : Barrier → Barrier) :
    ∃ q, Cells.find? (s.updBarrier ⟨i, 64 + e⟩ f).parts i = some q := by
  rw [updBarrier_fabric, State.find?_updPart, if_pos rfl, hp]
  exact ⟨_, rfl⟩

theorem fbar_congr (h : t.parts = s.parts) (i e : Nat) : t.fbar i e = s.fbar i e := by rw [State.fbar, State.fbar, h]

theorem execFabricBarrierPacket_counts (hvalid : fbValid (s.fbar i e).entry = true) (hmaster : fbMaster (s.fbar i e).entry = true)
    (hopen : (s.fbar i e).bar.n = 0 ∨ (s.fbar i e).bar.count < (s.fbar i e).bar.n) (k : Nat) (ts : Word) :
    exec (.fabricBarrierPacket i e k ts) s = .next ((s.updBarrier ⟨i, 64 + e⟩ fun b => { b with
      count := b.count + 1, n := fbCount (s.fbar i e).entry, ts := wmax b.ts ts }).updPart i fun p => p.setFbar e ((p.fbarAt e).seen k)) := by
  have hfull : s.phaseFull ⟨i, 64 + e⟩ = false := by
    rw [State.phaseFull, barrier_fabric]
    rcases hopen with h | h
    · simp [h]
    · simp [h]
  show execFabricBarrierPacket i e k ts s = _
  simp only [execFabricBarrierPacket, hvalid, hmaster, Bool.and_self, if_true, tryPhase_of_not_full hfull, hfull, Bool.false_eq_true, if_false]
  rfl

/-- The packets of a phase that has completed leave the table. -/
def State.phaseSent (s : State) (i e k : Nat) : State :=
  { s with ops := s.ops.filter fun x => match x.2.kind with | .barrier g n _ ph _ _ _ => !(g == i && n == 64 + e && ph == k) | _ => true }

theorem State.NoJoins.phaseSent (h : s.NoJoins) (i e k : Nat) : (s.phaseSent i e k).NoJoins :=
  fun x hx => h x (List.mem_filter.mp hx).1

theorem execFabricBarrierCompletion_completes (hvalid : fbValid (s.fbar i e).entry = true) (hmaster : fbMaster (s.fbar i e).entry = false)
    (hphase : (s.fbar i e).bar.phase = k) (hsent : s.unsent ⟨i, 64 + e⟩ = false) (hcollx : (s.fbar i e).bar.collx = []) (ts : Word) :
    exec (.fabricBarrierCompletion i e k ts) s = .next ((s.fbar i e).bar.toks.foldl
      (fun a t => a.resolveFrom t (.done (wmax (s.fbar i e).bar.ts ts)) 0 0 (wmax (s.fbar i e).bar.ts ts))
      ((s.phaseSent i e k).updBarrier ⟨i, 64 + e⟩ fun b => b.next (wmax (s.fbar i e).bar.ts ts))) := by
  have hbar : (s.phaseSent i e k).barrier ⟨i, 64 + e⟩ = (s.fbar i e).bar := barrier_fabric (s.phaseSent i e k) i e
  have hheld : s.collxHeld (s.fbar i e).bar = false := by rw [State.collxHeld, hcollx]; rfl
  have hstep := completePhase_toks (s := s.phaseSent i e k) (r := ⟨i, 64 + e⟩) (by rw [hbar]; exact hcollx) (wmax (s.fbar i e).bar.ts ts)
  rw [hbar] at hstep
  rw [← hstep]
  show execFabricBarrierCompletion i e k ts s = _
  simp only [execFabricBarrierCompletion, counts_fabric, barrier_fabric, hvalid, hmaster, hphase, hsent, hheld, Bool.not_true, bne_self_eq_false,
    Bool.or_self, Bool.false_eq_true, if_false]
  rfl

/-! #### The banks of a gang (R272) -/

/-- The banks of some pods have their roles. -/
def State.settled (s : State) (pods : List Nat) : State := pods.foldl (fun (a : State) p => a.updPod p fun x => { x with changing := none }) s

theorem settled_spec (s : State) (pods : List Nat) : ∃ c, s.settled pods = { s with pods := c } := by
  refine List.foldlRecOn (motive := fun (u : State) => ∃ c, u = { s with pods := c }) pods _ ⟨_, rfl⟩ ?_
  rintro _ ⟨c, rfl⟩ p _
  exact ⟨_, rfl⟩

theorem changing_settled {pods : List Nat} (h : k ∈ pods ∨ (s.pod k).changing = none) : ((s.settled pods).pod k).changing = none := by
  induction pods generalizing s with
  | nil => exact h.resolve_left List.not_mem_nil
  | cons p r ih =>
    refine ih (s := s.updPod p fun x => { x with changing := none }) ?_
    rw [State.pod_updPod]
    by_cases hp : p = k
    · exact .inr (by rw [if_pos hp])
    · rw [if_neg hp]
      rcases h with h | h
      · exact .inl ((List.mem_cons.mp h).resolve_left fun h => hp h.symm)
      · exact .inr h

theorem execBankDrainComplete_settles {g : Gang} {r : Round} (hg : Cells.find? s.gangs i = some g) (hr : g.round = some r) (hconv : r.converting = true)
    (hmsgs : ∀ tm x, g.team = some tm → Cells.find? s.teams tm = some x → x.msgs = []) (hbuf : ∀ m ∈ g.members, (s.core m).surrogate = false) :
    exec (.bankDrainComplete i) s = .next ((((s.settled (g.members.map podOf).eraseDups).updGang i fun y => { y with round := none }).resolveAll r.toks
      (.done r.ts) r.ts)) := by
  have hteam : (g.team.bind fun t => Cells.find? s.teams t) = none ∨ ∃ x, (g.team.bind fun t => Cells.find? s.teams t) = some x ∧ x.msgs = [] := by
    cases hteam : g.team with
    | none => exact .inl rfl
    | some tm =>
      cases hx : Cells.find? s.teams tm with
      | none => exact .inl hx
      | some x => exact .inr ⟨x, hx, hmsgs tm x hteam hx⟩
  have hbuf' : (g.members.any fun m => (s.core m).surrogate) = false := List.any_eq_false.mpr fun m hm => by rw [hbuf m hm]; exact Bool.false_ne_true
  show execBankDrainComplete i s = _
  rcases hteam with ht | ⟨x, ht, hx⟩
  · simp only [execBankDrainComplete, hg, hr, hconv, ht, hbuf', Bool.not_true, Bool.false_eq_true, if_false, Bool.or_self, Bool.false_and]
    rfl
  · simp only [execBankDrainComplete, hg, hr, hconv, ht, hx, hbuf', List.isEmpty_nil, Bool.not_true, Bool.false_eq_true, if_false, Bool.or_self,
      Bool.false_and]
    rfl

/-- A resolution leaves the round of every gang. -/
theorem round_putTok (s : State) (r : TokRef) (v : Tok) (i : Nat) :
    (Cells.find? (s.putTok r v).gangs i).map Gang.round = (Cells.find? s.gangs i).map Gang.round := by
  unfold State.putTok
  split
  · rfl
  · split
    · rfl
    · exact (congrArg _ (Cells.find?_map_values (fun _ g => g.putTok r v) s.gangs i)).trans (Option.map_map _ _ _)

theorem resolveAll_spec (s : State) (toks : List TokRef) (v : Tok) (ts : Word) :
    (s.resolveAll toks v ts).pods = s.pods ∧ ∀ i, (Cells.find? (s.resolveAll toks v ts).gangs i).map Gang.round = (Cells.find? s.gangs i).map Gang.round := by
  refine List.foldlRecOn (motive := fun (u : State) => u.pods = s.pods ∧ ∀ i, (Cells.find? u.gangs i).map Gang.round =
    (Cells.find? s.gangs i).map Gang.round) toks _ ⟨rfl, fun _ => rfl⟩ fun u hu r _ => ⟨(resolveFrom_tables u r v 0 0 ts).2.2.trans hu.1, fun i => ?_⟩
  refine (resolveFrom_keeps (φ := fun s => (Cells.find? s.gangs i).map Gang.round) (fun s n y => ?_) (fun s r v => round_putTok s r v i)
    (fun _ _ => rfl) u r v 0 0 ts).trans (hu.2 i)
  obtain ⟨_, _, _, h, _⟩ := recordFor_spec s n y
  rw [h]

end Sys2Proof.Machine
end

section
/-! ### Asynchronous operations perform and complete (R187 to R209, R272, R280, R295): O47 -/

namespace Sys2Proof.Machine

variable {s t u : State} {o : AOp} {i j k m n e : Nat} {a b : Word}

/-! #### Copies and prefetches (R187, R191, R195) -/

theorem granule_completes (hop : Cells.find? s.ops i = some o) {g : Nat} {s1 : State} {ts : Word}
    (hkind : (∃ a b r, o.kind = .copy a b r) ∨ ∃ a b r, o.kind = .copyl a b r) (hstat : o.stat = .running) (hnext : s.nextGranule o = some g)
    (hok : s.granule i o g = .ok s1 ts) : Completes (.homeWritePerform i) s (fun t =>
      t = s1.updOp i fun x => { x with done := x.done ++ [g], maxTs := wmax x.maxTs ts }) :=
  ⟨_, exec_homeWritePerform hop hkind hstat hnext hok, rfl⟩

theorem granule_moves (hop : Cells.find? s.ops i = some o) {g d a k : Nat} {l p : Loc}
    (hkind : (∃ a b r, o.kind = .copy a b r) ∨ ∃ a b r, o.kind = .copyl a b r) (hstat : o.stat = .running) (hnext : s.nextGranule o = some g)
    (hg : g < readKey) (hruns : runsOf (o.moves.filter fun m => m.1 / 32 == g) = [(d, a, k)]) (hun : s.Uncached o)
    (hwrite : s.check o.who .write (BitVec.ofNat 64 d) = .ok l) (hread : s.check o.who .read (BitVec.ofNat 64 a) = .ok p)
    (hl : l.isSystem = false) (hp : p.isSystem = false) : Completes (.homeWritePerform i) s (s.BytesMoved [(p, a, k)] [(l, d, k)]) := by
  obtain ⟨s1, ts, hok, hmoved, hframe⟩ := granule_run (i := i) hun hg hruns hwrite hread hl hp
  have hbytes := byteAt_updOp s1 i fun x => { x with done := x.done ++ [g], maxTs := wmax x.maxTs ts }
  exact ⟨_, exec_homeWritePerform hop hkind hstat hnext hok, fun j p q hp hq => (congrFun hbytes p).trans (hmoved j p q hp hq),
    fun l hl => (congrFun hbytes l).trans (hframe l hl)⟩

theorem copyl_completes (hop : Cells.find? s.ops i = some o) {n : Word} (hkind : o.kind = .copyl a b n) (hstat : o.stat = .running)
    (hdone : ∀ g ∈ o.granules, g ∈ o.done) (hrace : o.race = none) (hsys : s.opSysPending i = false) :
    Completes (.copyComplete i) s (fun t => s.OpEnds i o (.done o.maxTs) t ∧ (s.NoJoins → ∀ l, t.byteAt l = s.byteAt l)) :=
  ⟨_, execCopyComplete_copyl hop hkind hstat hdone hrace hsys, opEnds_endOp_done s i o _, fun hj => byteAt_endOp_done hj i o _⟩

theorem tpref_completes (hop : Cells.find? s.ops i = some o) {ctl : Word} {s1 : State} {v : Nat} {ts : Word} {l : Layout} (hkind : o.kind = .tpref a ctl)
    (hrec : s.opRecord i o a = .ok (s1, v, ts)) (hlayout : parseLayout v = some l) (hr : (s.core o.tok.core).raceMode = 0) :
    Completes (.tprefComplete i) s (fun t => s.OpEnds i o (.done o.base) t ∧ (s.NoJoins → s.SameBytes t)) := by
  obtain ⟨u, hread, hexec⟩ := execTprefComplete_ok hop hkind hr hrec hlayout
  exact ⟨_, hexec, opEnds_of_endOp hread.noJoins hread.gen i o (.inl ⟨_, rfl⟩), fun hj l hl =>
    (byteAt_endOp_done (hread.noJoins hj) i o _ l).trans (hread.bytes l hl)⟩

/-! #### Messages (R208, R209) -/

section Fabric

variable {get : Bool} {ls oks : List (Loc × Nat × Nat)} (hop : Cells.find? s.ops i = some o) (hkind : o.kind.fabric = some (a, b, n, get))

include hop hkind

theorem fsend_arrives (hstat : o.stat = .running) (hlen : 4096 * m < n) (hdone : m ∉ o.done) (hfails : Cells.get 0 o.fails m % 2 = 0)
    (hget : get = false) (hr : (s.core o.tok.core).raceMode = 0)
    (hpeer : s.peerParts o .write (b + BitVec.ofNat 64 (4096 * m)) (min 4096 (n - 4096 * m)) m = .ok ls)
    (hplan : s.plan o.who .read (granules (a + BitVec.ofNat 64 (4096 * m)) (min 4096 (n - 4096 * m))) = (oks, none)) :
    Completes (.fabricMessageArrival i m true) s (fun t => (∃ ts, Cells.find? t.ops i = some { o with done := o.done ++ [m], maxTs := ts }) ∧
      (s.Uncached o → (∀ p ∈ oks, p.1.isSystem = false) → PartsApart ls → s.BytesMoved oks ls t)) := by
  subst hget
  exact ⟨_, execFabricMessageArrival_ok hop hkind hstat hlen hdone hfails, sendMessage_spec hop hr hpeer hplan⟩

theorem fget_arrives (hstat : o.stat = .running) (hlen : 4096 * m < n) (hdone : m ∉ o.done) (hfails : Cells.get 0 o.fails m % 2 = 0)
    (hget : get = true) (hr : (s.core o.tok.core).raceMode = 0)
    (hpeer : s.peerParts o .read (a + BitVec.ofNat 64 (4096 * m)) (min 4096 (n - 4096 * m)) m = .ok ls)
    (hplan : s.plan o.who .write (granules (b + BitVec.ofNat 64 (4096 * m)) (min 4096 (n - 4096 * m))) = (oks, none)) :
    Completes (.fabricMessageArrival i m true) s (fun t => (∃ ts, Cells.find? t.ops i = some { o with done := o.done ++ [m], maxTs := ts }) ∧
      (s.Uncached o → (∀ p ∈ oks, p.1.isSystem = false) → PartsApart oks → s.BytesMoved ls oks t)) := by
  subst hget
  exact ⟨_, execFabricMessageArrival_ok hop hkind hstat hlen hdone hfails, getMessage_spec hop hr hpeer hplan⟩

theorem resend_fails (hodd : Cells.get 0 o.fails m % 2 = 1) (hge : 17 ≤ Cells.get 0 o.fails m) : Completes (.fabricMessageResend i m) s (fun t =>
    s.OpEnds i o (.failed ⟨0x0F, (if get then a else b) + BitVec.ofNat 64 (4096 * m), BitVec.ofNat 64 m⟩) t ∧
      (s.NoJoins → ∀ l, ¬ s.InRings l → t.byteAt l = s.byteAt l)) := by
  obtain ⟨u, hu, hexec⟩ := execFabricMessageResend_fails hop hkind hodd hge
  exact ⟨_, hexec, endOp_failed_spec hu _⟩

theorem fabricOp_completes (hpeer : s.peerParts o (if get then .read else .write) (if get then a else b) 1 0 = .ok ls) (hstat : o.stat = .running)
    (hrace : o.race = none) (hdone : ∀ m, m < (n + 4095) / 4096 → m ∈ o.done) (hsys : s.opSysPending i = false) :
    Completes (.fabricOpComplete i) s (fun t => s.OpEnds i o (.done o.maxTs) t ∧ (s.NoJoins → ∀ l, t.byteAt l = s.byteAt l)) :=
  ⟨_, execFabricOpComplete_done hop hkind hpeer hstat hrace hdone hsys, opEnds_endOp_done s i o _, fun hj => byteAt_endOp_done hj i o _⟩

end Fabric

/-! #### Window words (R280) -/

theorem wown_performs (hop : Cells.find? s.ops i = some o) {ix arg : Word} {l : Launch} {w : Win} (hkind : o.kind = .window 2 ix (some arg))
    (hl : Cells.find? s.launches o.launch = some l) (hw : l.windows[ix.toNat]? = some w) (hvalid : w.flags.getLsbD 0 = true)
    (hold : (w.owner.getD (arg.toNat / 65536) 0).toNat / 4096 = 0) (hturn : s.windowBehind i o = false) :
    Completes (.windowWordPerform i) s (fun t => s.OpEnds i o (.done o.base) t ∧ (s.NoJoins → ∀ l, t.byteAt l = s.byteAt l) ∧
      ∃ l', Cells.find? t.launches o.launch = some l' ∧
        l'.windows = l.windows.set ix.toNat { w with owner := w.owner.set (arg.toNat / 65536) (arg.setWidth 16) }) := by
  obtain ⟨c, hc⟩ := setWindow_spec s o.launch ix.toNat { w with owner := w.owner.set (arg.toNat / 65536) (arg.setWidth 16) }
  have hfind := find?_setWindow hl ix.toNat { w with owner := w.owner.set (arg.toNat / 65536) (arg.setWidth 16) }
  rw [hc] at hfind
  obtain ⟨hends, -, hbytes, l', hl', -, hwin⟩ := endOp_of_launches (i := i) (s := s) hc rfl rfl hfind
  exact ⟨_, execWindowWordPerform_own hop hkind hl hw hvalid hold hturn, hends, hbytes, l', hl', hwin⟩

theorem wpin_performs (hop : Cells.find? s.ops i = some o) {ix : Word} {l : Launch} {w : Win} {s1 : State} (hkind : o.kind = .window 0 ix none)
    (hl : Cells.find? s.launches o.launch = some l) (hw : l.windows[ix.toNat]? = some w) (hvalid : w.flags.getLsbD 0 = true)
    (hunpinned : w.flags.getLsbD 1 = false) (hroom : l.pinUse.toNat + (w.limit - w.base).toNat ≤ l.pinLim.toNat) (hturn : s.windowBehind i o = false)
    (hdone : o.done = []) (hpin : s.pinWindow o.tok.core l.windows w (.launch o.launch ix.toNat) (s.shadowHome o.who) = some s1) :
    Completes (.windowWordPerform i) s (fun t => s.OpEnds i o (.done o.base) t ∧ t.attrs = s1.attrs ∧
      ((s.core o.tok.core).raceMode = 0 → s.NoJoins → s.SameBytes t) ∧ ∃ l', Cells.find? t.launches o.launch = some l' ∧
        l'.pinUse = l.pinUse + (w.limit - w.base) ∧ l'.windows = l.windows.set ix.toNat { w with flags := w.flags ||| 2, pinnedBy := 2 }) := by
  have hexec := execWindowWordPerform_pin hop hkind hl hw hvalid hunpinned hroom hturn hdone hpin
  obtain rfl := pinWindow_some hpin
  have hsame := sameButLines_pinLines s o.tok.core l.windows w (.launch o.launch ix.toNat) (s.shadowHome o.who)
  have hbytes : (s.core o.tok.core).raceMode = 0 → s.SameBytes (s.pinLines o.tok.core l.windows w (.launch o.launch ix.toNat) (s.shadowHome o.who)) :=
    fun hr => (evicted_pinLines s _ _ _ _ _ fun va => shadowHome_eq_none (w := o.who) hr va).bytes
  generalize s.pinLines o.tok.core l.windows w (.launch o.launch ix.toNat) (s.shadowHome o.who) = s1 at hexec hsame hbytes
  have hlaunches : s1.launches = s.launches := by rw [hsame]
  obtain ⟨c, hc⟩ := setWindow_spec s1 o.launch ix.toNat { w with flags := w.flags ||| 2, pinnedBy := 2 }
  obtain ⟨d, hd⟩ := updLaunch_spec (s1.setWindow o.launch ix.toNat { w with flags := w.flags ||| 2, pinnedBy := 2 }) o.launch
    fun x => { x with pinUse := x.pinUse + (w.limit - w.base) }
  have hfind := State.find?_updLaunch (s1.setWindow o.launch ix.toNat { w with flags := w.flags ||| 2, pinnedBy := 2 }) o.launch o.launch
    fun x => { x with pinUse := x.pinUse + (w.limit - w.base) }
  rw [if_pos rfl, find?_setWindow ((congrArg (Cells.find? · o.launch) hlaunches).trans hl), hd] at hfind
  obtain ⟨hends, hattrs, hend, l', hl', huse, hwin⟩ := endOp_of_launches (i := i) (s := s) (t := s1) (hd.trans (by rw [hc])) (by rw [hsame])
    (by rw [hsame]) hfind
  exact ⟨_, hexec, hends, hattrs, fun hr hj p hp => (hend hj p).trans (hbytes hr p hp), l', hl', huse, hwin⟩

/-! #### The copy engine, fabric barriers and banks (R192, R204, R272) -/

theorem copyEngine_starts {n : Word} (hnext : roundRobin s (s.pod i).served (firstOfCores s [] (s.pod i).queue) = some j)
    (hop : Cells.find? s.ops j = some o) (hkind : o.kind = .copyl a b n) (hblock : s.blockTurn i = false) : Completes (.copyEngineStart i) s (fun t =>
      (t.pod i).queue = (s.pod i).queue.filter (fun k => k != j) ∧ (t.pod i).served = o.tok.core % 8 ∧
      Cells.find? t.ops j = some { o with stat := .running } ∧ t.cores = s.cores ∧ ∀ l, t.byteAt l = s.byteAt l) := by
  have hpod : ∀ f : AOp → AOp, (((s.updPod i fun p => { p with queue := p.queue.filter fun k => k != j, served := o.tok.core % 8 }).updOp j f).pod i) =
      { s.pod i with queue := (s.pod i).queue.filter fun k => k != j, served := o.tok.core % 8 } := fun f => by
    rw [State.pod, State.updOp_pods, ← State.pod, State.pod_updPod, if_pos rfl]
  refine ⟨_, execCopyEngineStart_copyl hnext hop hkind hblock, by rw [hpod], by rw [hpod], find?_updOp_self (t := s.updPod i _) hop _,
    State.updOp_cores _ _ _, fun l => ?_⟩
  rw [byteAt_updOp]
  exact (sameCoresAndBytes_updPod s i _).2.2 l

theorem fabricPacket_counted {p : Part} (hp : Cells.find? s.parts i = some p) (hvalid : fbValid (s.fbar i e).entry = true)
    (hmaster : fbMaster (s.fbar i e).entry = true) (hopen : (s.fbar i e).bar.n = 0 ∨ (s.fbar i e).bar.count < (s.fbar i e).bar.n) (k : Nat) (ts : Word) :
    Completes (.fabricBarrierPacket i e k ts) s (fun t =>
      (t.fbar i e).bar = { (s.fbar i e).bar with
        count := (s.fbar i e).bar.count + 1, n := fbCount (s.fbar i e).entry, ts := wmax (s.fbar i e).bar.ts ts } ∧
      (t.fbar i e).entry = (s.fbar i e).entry ∧ t.cores = s.cores ∧ ∀ l, t.byteAt l = s.byteAt l) := by
  obtain ⟨q, hq⟩ := find?_parts_updBarrier hp e fun b =>
    { b with count := b.count + 1, n := fbCount (s.fbar i e).entry, ts := wmax b.ts ts }
  have hsame := sameCoresAndBytes_updBarrier s ⟨i, 64 + e⟩ fun b =>
    { b with count := b.count + 1, n := fbCount (s.fbar i e).entry, ts := wmax b.ts ts }
  refine ⟨_, execFabricBarrierPacket_counts hvalid hmaster hopen k ts, ?_, ?_, ?_, fun l => ?_⟩
  · rw [fbar_updPart hq e fun x => x.seen k, fbar_updBarrier hp]
    rfl
  · rw [fbar_updPart hq e fun x => x.seen k, fbar_updBarrier hp]
    rfl
  · rw [State.updPart_cores, updBarrier_fabric, State.updPart_cores]
  · rw [(sameCoresAndBytes_updPart _ i _).2.2, hsame.2.2]

theorem fabricCompletion_completes {p : Part} (hp : Cells.find? s.parts i = some p) (hvalid : fbValid (s.fbar i e).entry = true)
    (hmaster : fbMaster (s.fbar i e).entry = false) (hphase : (s.fbar i e).bar.phase = k) (hsent : s.unsent ⟨i, 64 + e⟩ = false)
    (hcollx : (s.fbar i e).bar.collx = []) (hj : s.NoJoins) (ts : Word) : Completes (.fabricBarrierCompletion i e k ts) s (fun t =>
      (t.fbar i e).bar.phase = k + 1 ∧ (t.fbar i e).bar.count = 0 ∧ (t.fbar i e).entry = (s.fbar i e).entry ∧
      (∀ r ∈ (s.fbar i e).bar.toks, r.k ≠ 63 → (s.core r.core).gen = r.gen →
        (t.core r.core).tok r.k = .done (wmax (s.fbar i e).bar.ts ts)) ∧
      ∀ l, t.byteAt l = s.byteAt l) := by
  have hsame := sameCoresAndBytes_updBarrier (s.phaseSent i e k) ⟨i, 64 + e⟩ fun b => b.next (wmax (s.fbar i e).bar.ts ts)
  have hbar := fbar_updBarrier (s := s.phaseSent i e k) hp e fun b => b.next (wmax (s.fbar i e).bar.ts ts)
  have hjoins : ((s.phaseSent i e k).updBarrier ⟨i, 64 + e⟩ fun b => b.next (wmax (s.fbar i e).bar.ts ts)).NoJoins :=
    (hj.phaseSent i e k).congr (updBarrier_ops _ _ _).1
  obtain ⟨-, hparts, hbytes, -, hdone⟩ := foldl_resolve_toks hjoins (s.fbar i e).bar.toks (wmax (s.fbar i e).bar.ts ts)
  refine ⟨_, execFabricBarrierCompletion_completes hvalid hmaster hphase hsent hcollx ts, ?_, ?_, ?_, fun r hr hk hg => hdone r hr hk ?_, fun l => ?_⟩
  · rw [fbar_congr hparts, hbar, ← hphase]
    rfl
  · rw [fbar_congr hparts, hbar]
    rfl
  · rw [fbar_congr hparts, hbar]
    rfl
  · rw [hsame.core]
    exact hg
  · rw [hbytes, hsame.2.2]
    exact State.byteAt_congr rfl rfl rfl rfl l

theorem bankDrain_completes {g : Gang} {r : Round} (hg : Cells.find? s.gangs i = some g) (hr : g.round = some r) (hconv : r.converting = true)
    (hmsgs : ∀ tm x, g.team = some tm → Cells.find? s.teams tm = some x → x.msgs = []) (hbuf : ∀ m ∈ g.members, (s.core m).surrogate = false) :
    Completes (.bankDrainComplete i) s (fun t => (∃ h, Cells.find? t.gangs i = some h ∧ h.round = none) ∧
      (∀ m ∈ g.members, (t.pod (podOf m)).changing = none) ∧ (s.NoJoins → ∀ l, t.byteAt l = s.byteAt l)) := by
  obtain ⟨c, hc⟩ := settled_spec s (g.members.map podOf).eraseDups
  obtain ⟨hpods, hrounds⟩ := resolveAll_spec ((s.settled (g.members.map podOf).eraseDups).updGang i fun y => { y with round := none }) r.toks
    (.done r.ts) r.ts
  refine ⟨_, execBankDrainComplete_settles hg hr hconv hmsgs hbuf, ?_, fun m hm => ?_, fun hj l => ?_⟩
  · have hround := hrounds i
    rw [State.find?_updGang, if_pos rfl, show (s.settled (g.members.map podOf).eraseDups).gangs = s.gangs by rw [hc], hg] at hround
    exact Option.map_eq_some_iff.mp hround
  · rw [State.pod, hpods, State.updGang_pods, ← State.pod]
    exact changing_settled (.inl (List.mem_eraseDups.mpr (List.mem_map_of_mem hm)))
  · have hops : ((s.settled (g.members.map podOf).eraseDups).updGang i fun y => { y with round := none }).ops = s.ops := by
      rw [State.updGang_ops, hc]
    obtain ⟨-, -, hbytes, -, -⟩ := foldl_resolve_toks (hj.congr hops) r.toks r.ts
    rw [State.resolveAll, hbytes, (sameCoresAndBytes_updGang _ i _).2.2, hc]
    exact State.byteAt_congr rfl rfl rfl rfl l

/-- Settles O47, event by event: what an operation reads and writes leaves the table of operations and the cores alone, its bytes stand in
memory part by part, and its end is one resolution of its token. -/
theorem operationSteps : Obligations.OperationSteps := by
  unfold Obligations.OperationSteps
  intro s i
  refine ⟨fun o hop => ⟨?_, ?_, ?_, ?_, ?_, ?_, ?_, ?_⟩, ?_, ?_, ?_, ?_⟩
  case refine_1 => exact fun _ _ _ hkind hstat hnext hok => granule_completes hop hkind hstat hnext hok
  case refine_2 =>
    exact fun _ _ _ _ _ _ hkind hstat hnext hg hruns hun hwrite hread hl hp => granule_moves hop hkind hstat hnext hg hruns hun hwrite hread hl hp
  case refine_3 => exact fun _ _ _ hkind hstat hdone hrace hsys => copyl_completes hop hkind hstat hdone hrace hsys
  case refine_4 => exact fun _ _ _ _ _ _ hkind hrec hlayout hr => tpref_completes hop hkind hrec hlayout hr
  case refine_5 =>
    intro a b n get hkind
    refine ⟨fun m hstat hlen hdone hfails => ⟨⟨_, execFabricMessageArrival_bad hop hkind hstat hlen hdone hfails, rfl⟩, ?_, ?_⟩,
      fun m hodd => ⟨fun hlt => ⟨_, execFabricMessageResend_again hop hkind hodd hlt, rfl⟩, fun hge => resend_fails hop hkind hodd hge⟩, ?_⟩
    · exact fun _ _ hget hr hpeer hplan => fsend_arrives hop hkind hstat hlen hdone hfails hget hr hpeer hplan
    · exact fun _ _ hget hr hpeer hplan => fget_arrives hop hkind hstat hlen hdone hfails hget hr hpeer hplan
    · exact fun _ hpeer hstat hrace hdone hsys => fabricOp_completes hop hkind hpeer hstat hrace hdone hsys
  case refine_6 => exact fun _ _ _ _ _ _ _ hkind hsys hpeer => ⟨_, execFlushMarkerGather_barrier hop hkind hsys hpeer, rfl⟩
  case refine_7 => exact fun _ _ _ _ hkind hl hw hvalid hold hturn => wown_performs hop hkind hl hw hvalid hold hturn
  case refine_8 =>
    exact fun _ _ _ _ hkind hl hw hvalid hunpinned hroom hturn hdone hpin =>
      wpin_performs hop hkind hl hw hvalid hunpinned hroom hturn hdone hpin
  case refine_9 => exact fun _ hsys hpeer => ⟨_, execFlushMarkerGather_fence hsys hpeer, rfl⟩
  case refine_10 => exact fun _ _ _ _ _ hnext hop hkind hblock => copyEngine_starts hnext hop hkind hblock
  case refine_11 =>
    intro e p x k ts hp hx hvalid
    obtain rfl : x = s.fbar i e := hx.trans (fbar_part hp e).symm
    exact ⟨fun hmaster hopen => fabricPacket_counted hp hvalid hmaster hopen k ts,
      fun hmaster hphase hsent hcollx hj => fabricCompletion_completes hp hvalid hmaster hphase hsent hcollx hj ts⟩
  case refine_12 => exact fun _ _ hg hr hconv hmsgs hbuf => bankDrain_completes hg hr hconv hmsgs hbuf

end Sys2Proof.Machine
end
